-- ==== Sys2Proof/Word.lean ====
section
/-!
DEFINITION. The word types of the SQX-7264 block model and the two shapes most of its state takes: a table keyed by
number, and a pair that holds one value for each half.
-/
namespace Sys2Proof

/-- One byte. -/
abbrev Byte := BitVec 8
/-- A 64-bit register, descriptor word or address operand. -/
abbrev Word := BitVec 64
/-- A table keyed by number, in rising key order; a key that is absent has the entry's reset value. -/
abbrev Tbl (α : Type) := List (Nat × α)

/-- The two halves of the package (R12). -/
inductive Half where
  | west
  | east
deriving DecidableEq, Repr

/-- The three dies, coded as DIE of Table 14.9. -/
inductive Die where
  | west
  | east
  | hub
deriving DecidableEq, Repr

/-- One value for each half. -/
structure Two (α : Type) where
  w : α
  e : α
deriving DecidableEq, Repr

end Sys2Proof
end

