-- ==== Sys2Proof/Syntax.lean ====
section
/-!
DEFINITION. The commands of the block: one constructor of `Instr` for each row of spec/opcode_table.json, with the
operands the row's rule names. Unit indices are bounded numbers, so no command names a unit the package lacks.
-/
namespace Sys2Proof

/-- The five scopes, in the order of Table 4.5. -/
inductive Scope where
  | engine
  | cluster
  | half
  | package
  | fabric
deriving DecidableEq, Repr

/-- An issuer of memory requests and a holder of coherent copies (Tables 7.1 and 8.1). `proxy` is this node's proxy
slice of a line homed elsewhere; `node` is another node, seen as one holder (R248). -/
inductive Agent where
  | core (h : Fin 64)
  | engine (e : Fin 128)
  | tongs (e : Fin 128) (c : Fin 4)
  | aperture (i : Fin 32)
  | region (r : Fin 4096)
  | proxy
  | node (n : Fin 64)
  | firmware
deriving DecidableEq, Repr

/-- Atomic memory operations of the A extension. -/
inductive AmoOp where
  | swap
  | add
  | xor
  | and
  | or
  | min
  | max
  | minu
  | maxu
deriving DecidableEq, Repr

/-- Where a vector memory access finds the address of element i (V extension, addressing modes). -/
inductive VMode where
  | unit
  | strided (rs2 : Fin 32)
  | indexed (vs2 : Fin 32) (ordered : Bool) (eewLog : Fin 4)
deriving DecidableEq, Repr

/-- A vector memory operation: register group, mask bit, mode, log2 of the element bytes, fields and fault-only-first. -/
structure VMem where
  v : Fin 32
  vm : Bool
  mode : VMode
  wLog : Fin 4
  nf : Fin 8
  ff : Bool
deriving DecidableEq, Repr

/-- What an engine load writes. -/
inductive LoadOp where
  | int (rd : Fin 32) (wLog : Fin 4) (signed : Bool)
  | fp (fd : Fin 32) (wLog : Fin 4)
  | vec (m : VMem)
deriving DecidableEq, Repr

/-- What an engine store reads. -/
inductive StoreOp where
  | int (rs2 : Fin 32) (wLog : Fin 4)
  | fp (fs2 : Fin 32) (wLog : Fin 4)
  | vec (m : VMem)
deriving DecidableEq, Repr

/-- States of a core's copy (Table 8.2) as a grant names them. -/
inductive Moesi where
  | m
  | o
  | e
  | s
  | i
deriving DecidableEq, Repr

/-- RTYPE of Table 5.7. -/
inductive RType where
  | fp32
  | bf16
  | fp16
  | int32
  | int64
  | uint32
  | uint64
deriving DecidableEq, Repr

/-- RED of Table 5.7. -/
inductive RedOp where
  | add
  | min
  | max
deriving DecidableEq, Repr

/-- Status codes, Table 14.10. -/
inductive Status where
  | ok
  | discarded
  | poison
  | translationAbort
  | engineException
  | userFail
  | malformed
  | grantViolation
  | unmapped
  | badImage
  | unsatisfiable
  | rennetType
  | unreachable
  | lostStore
  | busy
  | ctxActive
  | noFault
  | regionHeld
  | framesInUse
  | noTier
  | forbidden
  | topologyFull
  | badCommand
  | noObject
  | overlap
  | regionTarget
  | ringOverrun
  | joined
  | notReady
  | containing
  | exhausted
deriving DecidableEq, Repr

/-- The source of a Rennet operation, as Table 6.9 codes it, with the context and protection domain it acts for. -/
structure RSrc where
  node : BitVec 8
  srct : BitVec 4
  srcid : BitVec 16
  half : Half
  ctx : Fin 4096
  pd : BitVec 8
deriving DecidableEq, Repr

/-- How a signal came about: XRSIG or a window store, a DONE signal (R205), or a landing add (R210). -/
inductive SigKind where
  | sig
  | done
  | landing
deriving DecidableEq, Repr

/-- The user of a Rennet object window (R209). -/
inductive WinUser where
  | core (h : Fin 64) (rd : Fin 32)
  | aperture (i : Fin 32)
deriving DecidableEq, Repr

/-- What Comp carries (Table 8.5). -/
inductive CompBody where
  | write
  | evicted
  | grant (st : Moesi)
  | old (v : Word) (poison : Bool)
  | lr (v : Word)
  | sc (ok : Bool)
  | refused (st : Status)
deriving DecidableEq, Repr

/-- An admin command as fetched from its slot (Table 14.7): CID, whether an RSVD bit of word 0 is set, words 1 to 7. -/
structure AdmCmd where
  cid : BitVec 16
  rsvd : Bool
  ops : List Word
deriving DecidableEq, Repr

/-- Which registers a reporting unit of Table 17.2 is. -/
structure UnitId where
  code : Fin 14
  die : Die
  unit : BitVec 16
deriving DecidableEq, Repr

/-- What a NAND target's parameter page says (R359), with the rated erase count and the read-disturb limit of the part's profile
(R363, R365). -/
structure CavePart where
  onfi5 : Bool
  rate : Nat
  pageData : Nat
  pageSpare : Nat
  pagesPerBlock : Nat
  bitsPerCell : Nat
  dies : Nat
  blocksPerDie : Nat
  rated : Nat
  readLimit : Nat
deriving DecidableEq, Repr

/-- The result of one flash read (R369); `reread` says after how many shifted rereads, less one, the codeword decoded. -/
inductive FlashRead where
  | decoded
  | reread (more : Fin 8)
  | rebuilt
  | lost
deriving DecidableEq, Repr

/-- What the patrol scrub finds in a line (R381 to R383): nothing, or errors on the given DQ lanes (0 to 31 data, 32 to 35 ECC). -/
inductive EccResult where
  | clean
  | lanes (first : Fin 36) (more : List (Fin 36))
deriving DecidableEq, Repr

/-- The coherence messages of Table 8.5 that travel between a home, its holders and its requesters. -/
inductive NKind where
  | rdShared
  | rdUnique
  | claimUnique
  | rdOnce
  | wrLine
  | wrPart
  | atomic
  | snpShared
  | snpUnique
  | snpInv
  | snpOnce
  | snpBack
  | snpAck
  | compAck
  | comp
  | retry
  | redAck
  | data
  | wbDirty
  | evict
  | red
deriving DecidableEq, Repr

/-- What an Atomic asks the home to do (R273, R277). -/
inductive AtomOp where
  | amo (op : AmoOp) (v : Word) (dbl : Bool)
  | lr (dbl : Bool)
  | sc (v : Word) (dbl : Bool)
deriving DecidableEq, Repr

/-- A coherence message in flight: kind, the requester or holder it concerns, the byte address, and what Table 8.5
says it carries. A Retry keeps the kind of the request it refuses in `was`; `tag` answers a request of another node; `supplied` says that a SnpAck follows
data that its sender supplied; `rq` names the agent that a FWD's data is for, or the unit of another node that asks. -/
structure NMsg where
  kind : NKind
  who : Agent
  addr : Nat
  bytes : List Byte := []
  st : Moesi := .i
  dirty : Bool := false
  poison : Bool := false
  wbSent : Bool := false
  body : CompBody := .write
  atom : AtomOp := .lr false
  red : RedOp := .add
  ty : RType := .fp32
  ticket : Option (BitVec 10) := none
  was : NKind := .retry
  tag : Nat := 0
  supplied : Bool := false
  rq : Option Agent := none
  fresh : Bool := false
deriving DecidableEq, Repr

/-- Body of a Chain packet, by what it asks of the destination (Table 8.5, Table 13.4). -/
inductive ChainBody where
  | rdOnce (addr : Word)
  | write (addr : Word) (bytes : List Byte)
  | red (op : RedOp) (ty : RType) (addr : Word) (bytes : List Byte)
  | rennetSig (obj : Fin 131072) (operand : Word)
  | rennetAdd (obj : Fin 131072) (v : BitVec 32)
  | rennetWait (obj : Fin 131072) (operand : Word) (ve : Fin 128) (sc : Scope)
  | rennetCancel (obj : Fin 131072) (tag : BitVec 32)
  | coherence (m : NMsg)
  | answer (tag : BitVec 32) (st : Status) (bytes : List Byte)
deriving DecidableEq, Repr

/-- A Chain packet: the header of Table 13.4 and its body. -/
structure ChainPkt where
  dst : BitVec 8
  src : BitVec 8
  cls : Fin 8
  vset : BitVec 2
  utype : BitVec 3
  sinc : BitVec 4
  dinc : BitVec 4
  seq : BitVec 16
  unit : BitVec 10
  uinc : BitVec 4
  rsvd : Bool
  pd : BitVec 8
  ctx : Fin 4096
  len : BitVec 5
  acls : Fin 8
  tag : BitVec 32
  body : ChainBody
deriving DecidableEq, Repr

/-- The header of a link frame (R408, R409): its sequence number, the number that its sender expects next, and the credits that it
returns on each of the 22 channels. -/
structure LinkHdr where
  seq : BitVec 24
  ack : BitVec 24
  credits : List Nat
deriving DecidableEq, Repr

/-- One slot-table entry (R400). -/
inductive SlotState where
  | empty
  | live
  | dead
  | retired
deriving DecidableEq, Repr

structure Slot where
  st : SlotState
  serial : BitVec 128
  inc : BitVec 4
  used : Bool
deriving DecidableEq, Repr

/-- The identity exchange of Table 13.6, step 2. -/
structure Identity where
  node : BitVec 8
  port : BitVec 4
  serial : BitVec 128
  inc : BitVec 4
  nonce : BitVec 256
  slots : List (Fin 64 × Slot)
deriving DecidableEq, Repr

/-- The image as the boot ROM reads it (Tables 19.4 and 19.5): header bytes, body bytes and the two signature blocks. -/
structure ImageIn where
  readable : Bool
  header : List Byte
  body : List Byte
  vendorKey : List Byte
  vendorSig : List Byte
  cosignKey : List Byte
  cosignSig : List Byte
deriving DecidableEq, Repr

/-- What wakes a domain (R493), a Glowing package (R497) or a Banked one (Table 16.6). -/
inductive WakeCause where
  | access
  | hartRelease
  | portEnable
  | stepSelect
  | interrupt
  | gpio (n : Fin 16) (rising : Bool)
  | mctp
  | chainPacket
  | pciRequest
  | alarm
deriving DecidableEq, Repr

/-- What starts a package from Cold (Table 16.5). -/
inductive ColdCause where
  | perst
  | gpio (n : Fin 16) (rising : Bool)
  | mctp
deriving DecidableEq, Repr

/-- A clock of Table 16.2 that Temper sets. -/
inductive ClockId where
  | anvil (h : Half)
  | cluster (h : Half) (c : Fin 8)
  | group (h : Half) (g : Fin 4)
deriving DecidableEq, Repr

/-- A DMI or debug target: module West, East or Hub, and hartsel (R553). -/
structure DbgHart where
  die : Die
  hartsel : Fin 128
deriving DecidableEq, Repr

/-- The abstract commands of R553. -/
inductive AbsCmd where
  | readReg (regno : BitVec 16)
  | writeReg (regno : BitVec 16) (v : Word)
  | readMem (addr : Word)
  | writeMem (addr : Word) (v : Word)
deriving DecidableEq, Repr

/-- The mailbox commands of RIND_MBOX (Table 18.8). -/
inductive MboxCmd where
  | status
  | nonce
  | auth (obj : List Byte)
  | close
  | margin (h : Half) (stack : Fin 6) (volt : Bool) (buf : Word)
deriving DecidableEq, Repr

/-- RISC-V Svpbmt memory type of a core access (R290). -/
inductive Pbmt where
  | pma
  | nc
  | io
deriving DecidableEq, Repr

/-- What a load of a Rennet object carries (R209): the address, and what another node answers (log 62). -/
structure FarLoad where
  addr : Word
  ext : List Byte
deriving DecidableEq, Repr

/-- Where a write of a peer goes (R441), and the PCIe requester that sends it (R238). -/
structure PeerAt where
  rq : BitVec 16
  off : BitVec 36
deriving DecidableEq, Repr

/-- What a read of a peer carries (R441): its length, and what memory outside the package answers. -/
structure PeerLen where
  len : Nat
  ext : List Byte
deriving DecidableEq, Repr

/-- A virtual address, with what other nodes answer to the reads that the command makes (log 62). -/
structure VaIn where
  va : Word
  ext : List Byte := []
deriving DecidableEq, Repr

/-- The bits of code that a fetch returns, what another node answers to the fetch, and what the outside answers to the reads of
the instruction (log 62). -/
structure CodeWord where
  bits : BitVec 32
  ans : Status := .ok
  ext : List Byte := []
deriving DecidableEq, Repr

/-- Every command of spec/opcode_table.json, in the table's order. -/
inductive Instr where
  | onpackageLinkFailure (link : Fin 4)
  | heldWriteRelease (src : Agent)
  | xaissue (e : Fin 128) (rd rs1 : Fin 32) (rl : Bool)
  | opEnter
  | shareStart (h : Half)
  | shareComplete (h : Half) (cycles : Nat)
  | columnSubstitute (h : Half)
  | xawait (e : Fin 128) (rs1 : Fin 32)
  | xapoll (e : Fin 128) (rd rs1 : Fin 32)
  | xtissue (e : Fin 128) (rd rs1 rs2 : Fin 32) (rl : Bool)
  | tongsEnter (e : Fin 128) (c : Fin 4)
  | xtwait (e : Fin 128) (rs1 : Fin 32)
  | xtpoll (e : Fin 128) (rd rs1 : Fin 32)
  | xrsig (e : Fin 128) (rs1 rs2 : Fin 32) (sc : Scope)
  | xradd (e : Fin 128) (rd rs1 rs2 : Fin 32) (sc : Scope)
  | xrwait (e : Fin 128) (rd rs1 rs2 : Fin 32) (sc : Scope)
  | xacq (e : Fin 128) (sc : Scope)
  | xrel (e : Fin 128) (sc : Scope)
  | xacqrel (e : Fin 128) (sc : Scope)
  | xlaW (e : Fin 128) (rd rs1 : Fin 32) (sc : Scope) (ext : List Byte)
  | xlaD (e : Fin 128) (rd rs1 : Fin 32) (sc : Scope) (ext : List Byte)
  | xsrW (e : Fin 128) (rs1 rs2 : Fin 32) (sc : Scope)
  | xsrD (e : Fin 128) (rs1 rs2 : Fin 32) (sc : Scope)
  | xvfence (e : Fin 128)
  | xvcvtf (e : Fin 128) (vd vs2 vs1 : Fin 32) (fd : Fin 8) (vm : Bool)
  | xvcvtt (e : Fin 128) (vd vs2 vs1 : Fin 32) (fd : Fin 8) (vm : Bool)
  | xvcvttSr (e : Fin 128) (vd vs2 vs1 : Fin 32) (fd : Fin 8) (vm : Bool)
  | xvscale (e : Fin 128) (vd vs2 vs1 : Fin 32) (fd : Fin 8) (vm : Bool)
  | xvsclf (e : Fin 128) (vd vs2 vs1 : Fin 32) (fd : Fin 8) (vm : Bool)
  | xvdot (e : Fin 128) (vd vs2 vs1 : Fin 32) (fd : Fin 8) (vm : Bool)
  | xsrseedWrite (e : Fin 128) (v : Word)
  | engineFence (e : Fin 128)
  | engineFenceI (e : Fin 128)
  | engineWfi (e : Fin 128)
  | ebreak (e : Fin 128)
  | kend (e : Fin 128)
  | sexit (e : Fin 128)
  | sfail (e : Fin 128)
  | ecallUnknown (e : Fin 128)
  | engineLoad (e : Fin 128) (rs1 : Fin 32) (imm : BitVec 12) (op : LoadOp) (ext : List Byte)
  | engineStore (e : Fin 128) (rs1 : Fin 32) (imm : BitVec 12) (op : StoreOp)
  | engineAmo (e : Fin 128) (op : AmoOp) (rd rs1 rs2 : Fin 32) (dbl aq rl : Bool)
  | engineLr (e : Fin 128) (rd rs1 : Fin 32) (dbl aq rl : Bool)
  | engineSc (e : Fin 128) (rd rs1 rs2 : Fin 32) (dbl aq rl : Bool)
  | descriptorFetch (ring : Fin 16384) (ext : List Byte)
  | stepImageCheck (step : Nat) (ext : List Byte)
  | schedulerWalk (h : Half)
  | vatFillDone (step : Nat)
  | kernelEnd (step : Nat)
  | stepDrainDone (step : Nat)
  | completionRecordPost (ctx : Fin 4096)
  | vatClearDone (h : Half)
  | tongsPiece (h : Half) (t : Fin 32) (ext : List Byte)
  | tongsTransferComplete (e : Fin 128) (c : Fin 4)
  | rennetSignal (src : RSrc) (kind : SigKind) (obj : Fin 131072) (operand : Word)
  | rennetConfigure (src : RSrc) (obj : Fin 131072) (operand : Word)
  | rennetSetRealign (src : RSrc) (obj : Fin 131072) (operand : Word)
  | rennetAdd (src : RSrc) (obj : Fin 131072) (v : BitVec 32)
  | rennetWaitRegister (src : RSrc) (obj : Fin 131072) (operand : Word) (sc : Scope)
  | rennetWake (e : Fin 128)
  | rennetWindowLoad (u : WinUser) (a : FarLoad)
  | rennetWindowStore (u : WinUser) (addr : Word) (v : Word)
  | rennetWindowAmoadd (h : Fin 64) (rd : Fin 32) (addr : Word) (v : BitVec 32)
  | landingAdd
  | deadlockWindowExpiry (ctx : Fin 4096)
  | dumpComplete
  | rdShared (req : Agent) (addr : Word) (ticket : Option (BitVec 10))
  | rdUnique (req : Agent) (addr : Word) (ticket : Option (BitVec 10))
  | claimUnique (req : Agent) (addr : Word) (ticket : Option (BitVec 10))
  | rdOnce (req : Agent) (addr : Word) (ticket : Option (BitVec 10))
  | wrLine (req : Agent) (addr : Word) (bytes : List Byte) (ticket : Option (BitVec 10))
  | wrPart (req : Agent) (addr : Word) (bytes : List Byte) (ticket : Option (BitVec 10))
  | atomic (req : Agent) (addr : Word) (op : AtomOp) (ticket : Option (BitVec 10))
  | snpShared (holder : Agent) (addr : Word)
  | snpUnique (holder : Agent) (addr : Word)
  | snpInv (holder : Agent) (addr : Word)
  | snpOnce (holder : Agent) (addr : Word)
  | snpBack (addr : Word)
  | snpAck (holder : Agent) (addr : Word) (dirty wbSent : Bool)
  | compAck (req : Agent) (addr : Word)
  | comp (req : Agent) (addr : Word) (body : CompBody)
  | data (req : Agent) (addr : Word) (bytes : List Byte) (grant : Moesi) (poison : Bool)
  | retry (req : Agent) (addr : Word) (ticket : BitVec 10)
  | redAck (e : Fin 128) (c : Fin 4) (addr : Word) (poison : Bool)
  | wbDirty (holder : Agent) (addr : Word) (bytes : List Byte) (poison : Bool)
  | evict (holder : Agent) (addr : Word)
  | redAdd (src : Agent) (addr : Word) (ty : RType) (bytes : List Byte)
  | redMin (src : Agent) (addr : Word) (ty : RType) (bytes : List Byte)
  | redMax (src : Agent) (addr : Word) (ty : RType) (bytes : List Byte)
  | ticketExpiry (slice : Fin 32) (ticket : BitVec 10)
  | proxyHoldExpiry (addr : Word)
  | lrHoldExpiry (h : Fin 64)
  | coreLoad (h : Fin 64) (fetch : Bool) (rd : Fin 32) (addr : Word) (wLog : Fin 4) (signed : Bool) (ty : Pbmt) (ext : List Byte)
  | coreStore (h : Fin 64) (addr : Word) (bytes : List Byte) (ty : Pbmt)
  | coreAmo (h : Fin 64) (op : AmoOp) (rd : Fin 32) (addr : Word) (v : Word) (dbl aq rl : Bool)
  | coreLr (h : Fin 64) (rd : Fin 32) (addr : Word) (dbl aq rl : Bool)
  | coreSc (h : Fin 64) (rd : Fin 32) (addr : Word) (v : Word) (dbl aq rl : Bool)
  | coreFence (h : Fin 64) (pred succ : BitVec 4) (tso : Bool)
  | cboZero (h : Fin 64) (addr : Word)
  | sfenceVma (h : Fin 64)
  | spdomWrite (h : Fin 64) (v : Word)
  | coreTrap (h : Fin 64) (interrupt : Bool) (cause : BitVec 6) (tval : Word) (toS : Bool)
  | unbackedStoreReport (h : Fin 64) (addr : Word)
  | mtimerMatch (h : Fin 64)
  | translationWalk (h : Half) (ctx : Fin 4096) (va : VaIn)
  | prefetchWalk (h : Half) (ctx : Fin 4096) (va : VaIn) (t : Fin 32)
  | faultRecordWrite (ctx : Fin 4096)
  | atsInvalidationRequest (ctx : Fin 4096) (addr : Word)
  | atsTranslationCompletion (ctx : Fin 4096) (addr xaddr : Word)
  | epochEnd
  | migrationStart (frame : Fin 33554432)
  | migrationPassEnd (frame : Fin 33554432)
  | migrationFlip (frame : Fin 33554432)
  | fillFlip (frame : Fin 33554432)
  | caveUnitRead (frame : Fin 33554432) (unit : Fin 512) (res : FlashRead)
  | caveStagingProgram (ok : Bool)
  | cavePatrol (weak bad : List Nat)
  | redBufferIdleWriteback (addr : Word)
  | brineVisit (res : EccResult)
  | laneRepair (u : UnitId)
  | hbmTempSample (h : Half) (stack : Fin 6) (temp : Int)
  | thermalClockStep (die : Die)
  | marginPointDone (pass : Bool)
  | linkTrainingDone (p : Fin 16) (lanes : Fin 9)
  | identityExchange (p : Fin 16) (i : Identity)
  | keyConfirmation (p : Fin 16) (tag : BitVec 256)
  | bringupRetryTimer (p : Fin 16)
  | linkFrameReceive (p : Fin 16) (hdr : LinkHdr) (crcOk tagOk : Bool)
  | replayRequest (p : Fin 16) (seq : BitVec 24)
  | idleFrameTimer (p : Fin 16)
  | laneDegrade (p : Fin 16) (bad : Fin 9)
  | linkRetrainDone (p : Fin 16)
  | linkSilenceTimeout (p : Fin 16)
  | linkStateReceive (a b : Fin 64) (up : Bool)
  | chainPacketReceive (p : Fin 16) (k : ChainPkt)
  | packetForward (p : Fin 16) (k : ChainPkt)
  | chainAckReceive (k : ChainPkt)
  | ackTimer (src : Fin 64) (cls : Fin 8)
  | retransmitTimeout (dst : Fin 64) (cls : Fin 8)
  | rekeyTimer (p : Fin 16)
  | rekeyConfirm (p : Fin 16) (nonce : BitVec 256) (tag : BitVec 256)
  | heartbeatTimer
  | heartbeatReceive (n : Fin 64) (inc : BitVec 4)
  | heartbeatTimeout (n : Fin 64)
  | deadDeclarationReceive (n : Fin 64) (inc : BitVec 4)
  | noLinkTimeout
  | departureReceive (n : Fin 64)
  | slotChangeReceive (n : Fin 64) (slot : Slot)
  | functionLevelReset
  | hostApertureWrite (off : BitVec 33) (bytes : List Byte)
  | hostApertureRead (off : BitVec 33) (len : Nat) (ext : List Byte)
  | apertureReadTimeout (id : Nat)
  | apertureEnable (i : Fin 32) (w : Word)
  | apertureDisable (i : Fin 32) (w : Word)
  | apertureDrainDone (i : Fin 32)
  | peerPlacementWrite (p : PeerAt) (bytes : List Byte)
  | peerPlacementRead (off : BitVec 36) (n : PeerLen)
  | notifyWrite (page : Fin 256) (off : BitVec 12) (len : Nat) (v : Word)
  | doorbellLineRead (line : Fin 1024) (ext : List Byte)
  | headWordReread (ctx : Fin 4096) (ext : List Byte)
  | moderationTimer (ctx : Fin 4096)
  | eventRecordPost
  | adminTailWrite (v : BitVec 16) (unknown : List (BitVec 512))
  | adminCommandComplete (slot : BitVec 16)
  | adminRingEnable (w : Word)
  | adminRingDisable (w : Word)
  | adminRingDrainDone
  | eventRingEnable (w : Word)
  | eventRingDisable (w : Word)
  | eventRingDrainDone
  | evtHeadWrite (v : BitVec 32)
  | hartRelease (h : Fin 64)
  | recoveryGo
  | gpioEdge (n : Fin 16) (rising : Bool)
  | gpioStatClear (mask : BitVec 16)
  | setupRegisterWrite (off : BitVec 20) (len : Nat) (v : Word)
  | ctxCreate (c : AdmCmd)
  | ctxDestroy (c : AdmCmd)
  | ctxRoot (c : AdmCmd)
  | ctxParams (c : AdmCmd)
  | acctSet (c : AdmCmd)
  | acctNow (c : AdmCmd)
  | ringCreate (c : AdmCmd) (ext : List Byte)
  | ringDestroy (c : AdmCmd)
  | dblineSet (c : AdmCmd)
  | regionReg (c : AdmCmd)
  | regionEnable (c : AdmCmd)
  | regionDisable (c : AdmCmd)
  | regionFree (c : AdmCmd)
  | flushImages (c : AdmCmd)
  | saveArea (c : AdmCmd)
  | rennetPools (c : AdmCmd)
  | rennetAlloc (c : AdmCmd)
  | rennetFree (c : AdmCmd)
  | dumpReg (c : AdmCmd)
  | dump (c : AdmCmd)
  | faultQueue (c : AdmCmd)
  | faultReply (c : AdmCmd)
  | invalidate (c : AdmCmd)
  | frameAlloc (c : AdmCmd)
  | frameFree (c : AdmCmd)
  | frameAttach (c : AdmCmd)
  | frameDetach (c : AdmCmd)
  | framePolicy (c : AdmCmd)
  | frameMove (c : AdmCmd)
  | frameQuery (c : AdmCmd)
  | quotaSet (c : AdmCmd)
  | tierParams (c : AdmCmd)
  | caveParams (c : AdmCmd)
  | caveHealth (c : AdmCmd)
  | brinePeriod (c : AdmCmd)
  | hbmMargin (c : AdmCmd)
  | chainJoin (c : AdmCmd)
  | chainLeave (c : AdmCmd)
  | chainPortDisable (c : AdmCmd)
  | chainPortEnable (c : AdmCmd)
  | chainPortRetrain (c : AdmCmd)
  | chainStatus (c : AdmCmd)
  | cohStats (c : AdmCmd)
  | candidateBlockedTimeout (h : Half) (step : Nat)
  | preemptStart (step : Nat)
  | preemptSave (step : Nat)
  | preemptSaveDone (step : Nat)
  | restoreDone (step : Nat)
  | spareEngineSubstitute (h : Half) (c : Fin 8)
  | vinSample (vin10mV iin10mA : Nat)
  | overcurrent (iin10mA : Nat)
  | xtalFail
  | xtalRecover
  | clockChange (c : ClockId) (mhz : Nat)
  | domainGate (dom : Fin 56)
  | drainTimeout (dom : Fin 56)
  | domainWake (dom : Fin 56) (cause : WakeCause)
  | domainWakeDone (dom : Fin 56)
  | glowEntry
  | glowExit (cause : WakeCause)
  | bankEntry
  | bankExit (cause : WakeCause)
  | coldExit (cause : ColdCause) (bootSel : BitVec 3) (addrStrap : BitVec 2)
  | powerDemand (wWest wEast hubDraw : Nat)
  | powerGrant (h : Half) (seq : Nat) (watts : Nat)
  | grantLapse (h : Half)
  | junctionTempSample (die : Die) (sensor : Fin 16) (temp : Int)
  | thermtripRelease
  | powerPolicy (c : AdmCmd)
  | powerCold (c : AdmCmd)
  | powerLimit (c : AdmCmd)
  | coreClock (c : AdmCmd)
  | powerStatus (c : AdmCmd)
  | wakeGpio (c : AdmCmd)
  | correctedError (u : UnitId) (loc : Word)
  | uncorrectedError (u : UnitId) (loc : Word)
  | errorCounterLeak (u : UnitId) (uncorrected : Bool)
  | bellowsProbe (die : Die)
  | probeTimeout (u : UnitId)
  | containmentSettled
  | selfTestDone (u : UnitId) (pass : Bool)
  | ringResume (c : AdmCmd)
  | faultThresh (c : AdmCmd)
  | faultCounters (c : AdmCmd)
  | errInject (c : AdmCmd)
  | secStatus (c : AdmCmd)
  | secNonce (c : AdmCmd)
  | debugAuth (c : AdmCmd) (obj : List Byte)
  | rotateFabric (c : AdmCmd) (obj : List Byte)
  | debugKey (c : AdmCmd) (obj : List Byte)
  | cosignKey (c : AdmCmd) (obj : List Byte)
  | advanceSvn (c : AdmCmd) (obj : List Byte)
  | returnAuth (c : AdmCmd) (obj : List Byte)
  | secClose (c : AdmCmd)
  | secProvision (c : AdmCmd) (rec : List Byte)
  | attest (c : AdmCmd) (nonce : List Byte)
  | attestLog (c : AdmCmd)
  | secCert (c : AdmCmd)
  | nonceExpiry
  | sessionExpiry
  | doeAttest (nonce : BitVec 256)
  | doeLog
  | doeCert
  | idcode
  | samplePreload (pins : List Bool)
  | extest (drive : List Bool)
  | dtmcs (v : BitVec 32)
  | dmi (die : Die) (addr : BitVec 7) (write : Bool) (v : BitVec 32)
  | rindMbox (m : MboxCmd)
  | bypass
  | abstractCommand (t : DbgHart) (k : AbsCmd)
  | hartHalt (t : DbgHart)
  | hartResume (t : DbgHart)
  | singleStep (t : DbgHart)
  | systemBusAccess (die : Die) (addr : Word) (write : Bool) (v : Word)
  | vin52Rise (bootSel : BitVec 3) (addrStrap : BitVec 2)
  | perstAssert (bootSel : BitVec 3) (addrStrap : BitVec 2)
  | perstDeassert
  | imageLoad (img : ImageIn)
  | memoryTraining (stackOkW stackOkE : BitVec 6) (ddrOk : BitVec 8) (dimmGB : Nat)
  | caveMount (pop : List (List CavePart)) (factory : List Nat) (spare : Nat)
  | pldmFirmwareUpdate (img : ImageIn)
  | activateFirmware (selfContained : Bool)
  | spiProgramDone (ok : Bool)
  | platformEventRead
  | pldmSensorRead (sensor : Fin 7)
  | engineInstruction (e : Fin 128) (w : CodeWord)
  | pcieLinkUp
  | domainPowerDownDone (dom : Fin 56)
  | bankedEntryDone
deriving DecidableEq, Repr

end Sys2Proof
end

