-- ==== Sys2Proof/Decode.lean ====
section
/-!
DEFINITION. No row of spec/opcode_table.json gives bits, so no word spells a command of the block. The step code that
the vector engines run does have encodings: Xanvil's custom-0 and custom-1 layouts (Tables 4.3, 4.4, 4.5, 4.7 and 4.8),
decoded and encoded here, and the standard extensions of R113 (PRESUMED, log 9), of which the rows that this block names
are decoded here.
-/
namespace Sys2Proof

/-- The table gives no row any bits. -/
def decodeTableWord (_nbits _w : Nat) : Option Instr := none

/-- Bits [lo + n − 1 : lo] of an instruction word. -/
def wfield (w : BitVec 32) (lo n : Nat) : Nat := w.toNat / 2 ^ lo % 2 ^ n

def wreg (w : BitVec 32) (lo : Nat) : Fin 32 := Fin.ofNat 32 (w.toNat / 2 ^ lo)

def wbit (w : BitVec 32) (i : Nat) : Bool := wfield w i 1 == 1

/-- Table 4.5. -/
def scopeOf (n : Nat) : Option Scope :=
  match n with
  | 0 => some .engine
  | 1 => some .cluster
  | 2 => some .half
  | 3 => some .package
  | 4 => some .fabric
  | _ => none

/-- A word of Table 4.3's layout. -/
def custom0 (grp sub mod : Nat) (rd rs1 rs2 : Fin 32) : BitVec 32 :=
  BitVec.ofNat 32
    (0x0B + 2 ^ 7 * rd.val + 2 ^ 12 * grp + 2 ^ 15 * rs1.val + 2 ^ 20 * rs2.val + 2 ^ 25 * mod + 2 ^ 28 * sub)

/-- A word of Table 4.7's layout. -/
def custom1 (funct6 : Nat) (vm : Bool) (vd vs2 vs1 : Fin 32) (fd : Fin 8) : BitVec 32 :=
  BitVec.ofNat 32
    (0x2B + 2 ^ 7 * vd.val + 2 ^ 12 * fd.val + 2 ^ 15 * vs1.val + 2 ^ 20 * vs2.val + 2 ^ 25 * (if vm then 1 else 0) +
      2 ^ 26 * funct6)

/-- Table 4.5's value of a scope. -/
def scopeBits : Scope → Nat
  | .engine => 0
  | .cluster => 1
  | .half => 2
  | .package => 3
  | .fabric => 4

/-- The word of a Xanvil instruction (Tables 4.4 and 4.8); none for any other command. -/
def encodeX (i : Instr) : Option (BitVec 32) :=
  match i with
  | .xaissue _ rd rs1 rl => some (custom0 0 0 (if rl then 1 else 0) rd rs1 0)
  | .xawait _ rs1 => some (custom0 0 1 0 0 rs1 0)
  | .xapoll _ rd rs1 => some (custom0 0 2 0 rd rs1 0)
  | .xtissue _ rd rs1 rs2 rl => some (custom0 1 0 (if rl then 1 else 0) rd rs1 rs2)
  | .xtwait _ rs1 => some (custom0 1 1 0 0 rs1 0)
  | .xtpoll _ rd rs1 => some (custom0 1 2 0 rd rs1 0)
  | .xrsig _ rs1 rs2 sc => some (custom0 2 0 (scopeBits sc) 0 rs1 rs2)
  | .xradd _ rd rs1 rs2 sc => some (custom0 2 1 (scopeBits sc) rd rs1 rs2)
  | .xrwait _ rd rs1 rs2 sc => some (custom0 2 2 (scopeBits sc) rd rs1 rs2)
  | .xacq _ sc => some (custom0 3 0 (scopeBits sc) 0 0 0)
  | .xrel _ sc => some (custom0 3 1 (scopeBits sc) 0 0 0)
  | .xacqrel _ sc => some (custom0 3 2 (scopeBits sc) 0 0 0)
  | .xlaW _ rd rs1 sc _ => some (custom0 3 4 (scopeBits sc) rd rs1 0)
  | .xlaD _ rd rs1 sc _ => some (custom0 3 5 (scopeBits sc) rd rs1 0)
  | .xsrW _ rs1 rs2 sc => some (custom0 3 6 (scopeBits sc) 0 rs1 rs2)
  | .xsrD _ rs1 rs2 sc => some (custom0 3 7 (scopeBits sc) 0 rs1 rs2)
  | .xvfence _ => some (custom0 4 0 0 0 0 0)
  | .xvcvtf _ vd vs2 vs1 fd vm => some (custom1 0 vm vd vs2 vs1 fd)
  | .xvcvtt _ vd vs2 vs1 fd vm => some (custom1 1 vm vd vs2 vs1 fd)
  | .xvcvttSr _ vd vs2 vs1 fd vm => some (custom1 2 vm vd vs2 vs1 fd)
  | .xvscale _ vd vs2 vs1 fd vm => some (custom1 3 vm vd vs2 vs1 fd)
  | .xvsclf _ vd vs2 vs1 fd vm => some (custom1 4 vm vd vs2 vs1 fd)
  | .xvdot _ vd vs2 vs1 fd vm => some (custom1 5 vm vd vs2 vs1 fd)
  | _ => none

/-- A custom-0 word (R133, R134): none where the encoding is illegal. `ext` is what the outside would supply to a load. -/
def decode0 (e : Fin 128) (w : BitVec 32) : Option Instr :=
  let rd := wreg w 7
  let rs1 := wreg w 15
  let rs2 := wreg w 20
  let md := wfield w 25 3
  let plain (ok : Bool) (i : Instr) : Option Instr := if ok && md == 0 then some i else none
  let sco (ok : Bool) (f : Scope → Instr) : Option Instr := if ok then (scopeOf md).map f else none
  match wfield w 12 3, wfield w 28 4 with
  | 0, 0 => if rs2 = 0 && md / 2 == 0 then some (.xaissue e rd rs1 (md % 2 == 1)) else none
  | 0, 1 => plain (rd == 0 && rs2 == 0) (.xawait e rs1)
  | 0, 2 => plain (rs2 == 0) (.xapoll e rd rs1)
  | 1, 0 => if md / 2 == 0 then some (.xtissue e rd rs1 rs2 (md % 2 == 1)) else none
  | 1, 1 => plain (rd == 0 && rs2 == 0) (.xtwait e rs1)
  | 1, 2 => plain (rs2 == 0) (.xtpoll e rd rs1)
  | 2, 0 => sco (rd == 0) (.xrsig e rs1 rs2)
  | 2, 1 => sco true (.xradd e rd rs1 rs2)
  | 2, 2 => sco true (.xrwait e rd rs1 rs2)
  | 3, 0 => sco (rd == 0 && rs1 == 0 && rs2 == 0) (.xacq e)
  | 3, 1 => sco (rd == 0 && rs1 == 0 && rs2 == 0) (.xrel e)
  | 3, 2 => sco (rd == 0 && rs1 == 0 && rs2 == 0) (.xacqrel e)
  | 3, 4 => sco (rs2 == 0) (fun s => .xlaW e rd rs1 s [])
  | 3, 5 => sco (rs2 == 0) (fun s => .xlaD e rd rs1 s [])
  | 3, 6 => sco (rd == 0) (.xsrW e rs1 rs2)
  | 3, 7 => sco (rd == 0) (.xsrD e rs1 rs2)
  | 4, 0 => plain (rd == 0 && rs1 == 0 && rs2 == 0) (.xvfence e)
  | _, _ => none

/-- A custom-1 word (Table 4.8). What R147 and R148 ask is checked when it executes. -/
def decode1 (e : Fin 128) (w : BitVec 32) : Option Instr :=
  let vd := wreg w 7
  let vs1 := wreg w 15
  let vs2 := wreg w 20
  let fd : Fin 8 := Fin.ofNat 8 (wfield w 12 3)
  let vm := wbit w 25
  match wfield w 26 6 with
  | 0 => some (.xvcvtf e vd vs2 vs1 fd vm)
  | 1 => some (.xvcvtt e vd vs2 vs1 fd vm)
  | 2 => some (.xvcvttSr e vd vs2 vs1 fd vm)
  | 3 => some (.xvscale e vd vs2 vs1 fd vm)
  | 4 => some (.xvsclf e vd vs2 vs1 fd vm)
  | 5 => some (.xvdot e vd vs2 vs1 fd vm)
  | _ => none

/-- A Xanvil word; none where it is illegal or no Xanvil word. -/
def decodeX (e : Fin 128) (w : BitVec 32) : Option Instr :=
  match wfield w 0 7 with
  | 0x0B => decode0 e w
  | 0x2B => decode1 e w
  | _ => none

/-! ### Rows of this block among the standard encodings -/

/-- log2 of the element bytes that a vector access's width field names. -/
def vwidth (f3 : Nat) : Option (Fin 4) :=
  match f3 with
  | 0 => some 0
  | 5 => some 1
  | 6 => some 2
  | 7 => some 3
  | _ => none

/-- A vector access of opcode LOAD-FP or STORE-FP, apart from whole-register and mask accesses. -/
def decodeVMem (w : BitVec 32) (load : Bool) : Option VMem :=
  let nf : Fin 8 := Fin.ofNat 8 (wfield w 29 3)
  let vm := wbit w 25
  let lu := wfield w 20 5
  match vwidth (wfield w 12 3), wbit w 28 with
  | some wl, false =>
    (match wfield w 26 2 with
     | 0 =>
       if lu = 0 then some ⟨wreg w 7, vm, .unit, wl, nf, false⟩
       else if lu = 16 && load then some ⟨wreg w 7, vm, .unit, wl, nf, true⟩
       else none
     | 1 => some ⟨wreg w 7, vm, .indexed (wreg w 20) false wl, wl, nf, false⟩
     | 2 => some ⟨wreg w 7, vm, .strided (wreg w 20), wl, nf, false⟩
     | _ => some ⟨wreg w 7, vm, .indexed (wreg w 20) true wl, wl, nf, false⟩)
  | _, _ => none

def simm12 (w : BitVec 32) : BitVec 12 := BitVec.ofNat 12 (wfield w 20 12)
def simmS (w : BitVec 32) : BitVec 12 := BitVec.ofNat 12 (wfield w 7 5 + 32 * wfield w 25 7)

def amoOf (n : Nat) : Option AmoOp :=
  match n with
  | 0 => some .add
  | 1 => some .swap
  | 4 => some .xor
  | 8 => some .or
  | 12 => some .and
  | 16 => some .min
  | 20 => some .max
  | 24 => some .minu
  | 28 => some .maxu
  | _ => none

/-- The row that a 32-bit instruction of step code is, other than ENGINE_INSTRUCTION and the ECALL rows. -/
def decodeRow (e : Fin 128) (w : BitVec 32) : Option Instr :=
  let f3 := wfield w 12 3
  let rd := wreg w 7
  let rs1 := wreg w 15
  let rs2 := wreg w 20
  match wfield w 0 7 with
  | 0x0B => decode0 e w
  | 0x2B => decode1 e w
  | 0x03 =>
    if f3 = 7 then none
    else some (.engineLoad e rs1 (simm12 w) (.int rd (Fin.ofNat 4 (f3 % 4)) (f3 / 4 == 0)) [])
  | 0x07 =>
    if 1 ≤ f3 && f3 ≤ 3 then some (.engineLoad e rs1 (simm12 w) (.fp rd (Fin.ofNat 4 f3)) [])
    else (decodeVMem w true).map (fun m => .engineLoad e rs1 0 (.vec m) [])
  | 0x23 => if f3 ≤ 3 then some (.engineStore e rs1 (simmS w) (.int rs2 (Fin.ofNat 4 f3))) else none
  | 0x27 =>
    if 1 ≤ f3 && f3 ≤ 3 then some (.engineStore e rs1 (simmS w) (.fp rs2 (Fin.ofNat 4 f3)))
    else (decodeVMem w false).map (fun m => .engineStore e rs1 0 (.vec m))
  | 0x2F =>
    if f3 = 2 || f3 = 3 then
      let aq := wbit w 26
      let rl := wbit w 25
      (match wfield w 27 5 with
       | 2 => if rs2 = 0 then some (.engineLr e rd rs1 (f3 == 3) aq rl) else none
       | 3 => some (.engineSc e rd rs1 rs2 (f3 == 3) aq rl)
       | n => (amoOf n).map (fun op => .engineAmo e op rd rs1 rs2 (f3 == 3) aq rl))
    else none
  | 0x0F => if f3 = 0 then some (.engineFence e) else if f3 = 1 then some (.engineFenceI e) else none
  | 0x73 =>
    if w = 0x10500073 then some (.engineWfi e)
    else if w = 0x00100073 then some (.ebreak e)
    else none
  | _ => none

end Sys2Proof
end

