-- ==== Sys2Proof/Config.lean ====
section
/-!
DEFINITION. What the manual leaves open or takes from elsewhere: free values, numbered by the state's counter `free`;
the fuse contents of one part; and the standard cryptographic functions, which stay uninterpreted.
-/
namespace Sys2Proof.Config

/-- DESIGN CHOICE (log 7): an undefined byte (R10, R43, R70, R71, R160, R185). -/
opaque freeByte : Nat → BitVec 8
/-- DESIGN CHOICE (log 7): an unstated 64-bit result. -/
opaque freeWord : Nat → BitVec 64
/-- DESIGN CHOICE (log 7): an unstated vector register value. -/
opaque freeVec : Nat → BitVec 2048
/-- DESIGN CHOICE (log 7): a uniform 24-bit draw of stochastic rounding (R100, R101, R156). -/
opaque freeDraw : Nat → BitVec 24
/-- DESIGN CHOICE (log 7): a floating result before it is held to its bound (R105, R107, R154). -/
opaque freeFloat : Nat → BitVec 32
/-- DESIGN CHOICE (log 7): 256 bits of the Rind's entropy source (R541, R368). -/
opaque entropy : Nat → BitVec 256
/-- DESIGN CHOICE (log 7): a choice that the manual leaves to the device, such as an unspecified order. -/
opaque freeBool : Nat → Bool

/-- DESIGN CHOICE (log 43): the layout, which the manual does not give, of what COH_STATS writes for the two halves'
counts, and of FRAME_MOVE's list of frames that did not move. -/
opaque cohStats : Nat → Nat → List Byte
opaque moveReport : List Nat → List Byte

/-- DESIGN CHOICE (log 49): the DMI base addresses of the debug modules. -/
opaque dmBase : Nat → BitVec 32

/-- Device serial (Table 18.1), fixed at manufacture. -/
opaque serial : BitVec 128
/-- Vendor root key hash (Table 18.1), fixed at manufacture. -/
opaque vendorRoot : BitVec 256
/-- Attestation certificate (R550), fixed at manufacture. -/
opaque certificate : List Byte
/-- The manufacturer field of IDCODE: "Suestond's JEP106 assignment" (Table 18.8). -/
opaque jep106 : BitVec 11

/-- SHAKE256 with 512 bits of output (R546, R569). -/
opaque shake512 : List Byte → BitVec 512
/-- SHAKE256 with 256 bits of output: the key hash of Table 18.1. -/
opaque keyHash : List Byte → BitVec 256
/-- XMSSMT-SHAKE256_40/8_256 verification: public key, message, signature. -/
opaque xmssVerify : List Byte → List Byte → List Byte → Bool
/-- XMSSMT signature of the attestation key with one index (R548, R549). -/
opaque attestSign : Nat → List Byte → List Byte
/-- KMAC256(fabric secret, X, 1,024, "RURIX CHAIN") of R419. -/
opaque kmacChain : BitVec 256 → List Byte → BitVec 1024
/-- The 512-bit XTS key that KMAC256 derives from the Cave secret (R367); the manual does not give its other operands. -/
opaque kmacCave : BitVec 256 → BitVec 512
/-- AES-256-XTS (IEEE 1619): key, tweak and the plaintext of one data unit (R367). -/
opaque aesXts : BitVec 512 → Nat → List Byte → List Byte

/-- AES-256-GCM (R418): key, nonce, additional data and the packet of a link frame, none for an idle frame; the ciphertext with its
16-byte tag. -/
opaque gcmSeal : BitVec 256 → BitVec 96 → List Byte → Option ChainPkt → List Byte
/-- The 512 parity bytes of the Cave's LDPC code over a 4 KiB data unit (R360); the spec does not give the code (log 182). -/
opaque ldpc : List Byte → List Byte
/-- KMAC256(confirmation key, identity exchange, 256, "RURIX CONFIRM") of R419. -/
opaque kmacConfirm : BitVec 256 → Identity → BitVec 256

end Sys2Proof.Config
end

