-- ==== Sys2Proof/Machine/Measure.lean ====
section
/-!
DEFINITION. What the Rind measures (R546, Table 18.5): the extension of a measurement register and the digest of the fuse
state.
-/
namespace Sys2Proof.Machine

/-- `n` bytes of a number, least significant first (R4). -/
def numBytes : Nat → Nat → List Byte
  | 0, _ => []
  | n + 1, v => BitVec.ofNat 8 (v % 256) :: numBytes n (v / 256)

/-- MRk = SHAKE256(MRk ‖ D, 512 bits) (R546). -/
def extendMr (mr dg : BitVec 512) : BitVec 512 := Config.shake512 (numBytes 64 mr.toNat ++ numBytes 64 dg.toNat)

/-- D of event 0: the serial, the vendor root key hash, the lifecycle and the fused SVN, the last two as one byte each
(log 45). -/
def fuseDigest (life svn : Nat) : BitVec 512 :=
  Config.shake512 (numBytes 16 Config.serial.toNat ++ numBytes 32 Config.vendorRoot.toNat ++ numBytes 1 life ++ numBytes 1 svn)

end Sys2Proof.Machine
end

