-- ==== Sys2Proof/Machine/State.lean ====
section
/-!
DEFINITION. The state of the block as plain data, in one structure for each subsystem of the manual, and the state right
after reset. Every field's default is its value at reset.
-/
namespace Sys2Proof.Machine

/-! ### The Anvil (chapter 02) -/

/-- A view record (Table 2.6) as read at entry. -/
structure View where
  base : Nat
  t : Bool
  split : Nat
  ext : List Nat
  str : List Int
deriving DecidableEq, Repr

/-- A curd descriptor (Table 2.5) with the view records it uses, as read at entry (R44). -/
structure Curd where
  row0 : Nat
  col0 : Nat
  hgt : Nat
  wid : Nat
  aAddr : Nat
  a : View
  b : View
  c : View
  res : Option View
  ascl : Option View
  bscl : Option View
  oscl : Option View
  colv0 : Nat
  colv1 : Nat
  rowv : Nat
  spmeta : Nat
  convR : Nat
  convS : Nat
  strH : Nat
  strW : Nat
  dilH : Nat
  dilW : Nat
  padT : Nat
  padB : Nat
  padL : Nat
  padR : Nat
deriving DecidableEq, Repr

/-- An operation descriptor (Table 2.4) with its curds, as read at entry. -/
structure OpDesc where
  conv : Bool
  span : Nat
  dflow : Bool
  order : Bool
  sparse : Bool
  iacc : Bool
  sround : Bool
  epi : List (BitVec 16)
  doneObj : Option Nat
  fmtA : BitVec 16
  fmtB : BitVec 16
  fmtOut : BitVec 16
  fmtRes : BitVec 16
  blkA : BitVec 8
  blkB : BitVec 8
  blkOut : BitVec 8
  seed : BitVec 32
  ks : List (BitVec 32)
  table : Nat
  tblLo : BitVec 32
  tblHi : BitVec 32
  curds : Two (List Curd)
deriving DecidableEq, Repr

/-- An operation that has entered (R37): its step, ticket, descriptor and its address, which shares started and completed, the
Vat byte ranges whose values are undefined for it (R43, R71), the bit offsets of outputs that have appeared (R236) and of those
that have become undefined since (R71), and the number of the first free value of each share. -/
structure AOp where
  step : Nat
  ticket : Nat
  desc : OpDesc
  started : Two Bool := ⟨false, false⟩
  done : Two Bool := ⟨false, false⟩
  dirtied : List (Nat × Nat) := []
  addr : Nat := 0
  early : List Nat := []
  spoilt : List Nat := []
  base : Two Nat := ⟨0, 0⟩
deriving DecidableEq, Repr

/-- Accumulation entries that an operation's share holds in every column of a unit column: how many of the 2,048, and whether
they hold INT32 or FP32 (R34). -/
structure AccUse where
  op : Nat
  unitCol : Nat
  entries : Nat
  int32 : Bool
deriving DecidableEq, Repr

/-- The Anvils: operations by entry number, the two queues (R36), waiting issues in issue order (R37), spare columns
left in each quadrant, retired quadrants and columns awaiting substitution (R75, R76), and the accumulation entries in use
(R34). -/
structure Anvil where
  ops : Tbl AOp := []
  next : Nat := 0
  queue : Two (List Nat) := ⟨[], []⟩
  issues : List (Fin 128) := []
  spares : Two (List Nat) := ⟨[4, 4, 4, 4], [4, 4, 4, 4]⟩
  retiredQ : Two (BitVec 4) := ⟨0, 0⟩
  failedCols : Two (List Nat) := ⟨[], []⟩
  acc : Two (List AccUse) := ⟨[], []⟩
deriving DecidableEq, Repr

/-! ### Vector engines (chapter 04) -/

/-- What a releasing instruction does once its release has completed (R143, R144). -/
inductive Cont where
  | fence
  | acquire (sc : Scope)
  | store (addr : Word) (bytes : List Byte)
  | signal (addr : Word) (operand : Word)
  | add (rd : Fin 32) (addr : Word) (v : BitVec 32) (sc : Scope)
  | issue (rd : Fin 32) (addr : Word)
  | tissue (rd : Fin 32) (addr : Word) (c : Fin 4)
  | amo (rd : Fin 32) (addr : Word) (op : AtomOp) (acq : Bool)
deriving DecidableEq, Repr

/-- What an engine is doing. -/
inductive EngRun where
  | idle
  | running
  | issue (rd : Fin 32) (addr : Word)
  | await (t : Word)
  | tissue (rd : Fin 32) (addr : Word) (c : Fin 4)
  | twait (t : Word)
  | rwait (rd : Fin 32) (addr : Word) (sc : Scope)
  | reply (rd : Fin 32) (addr : Word) (acq : Bool)
  | vload
  | release (sc : Scope) (k : Cont)
  | vfence
  | walking
  | parked (fid : Nat)
  | kended
  | stopped
deriving DecidableEq, Repr

/-- Architectural and run state of one vector engine (R113, R130, Table 4.6); `mid` while an instruction that it has begun has
yet to be performed to its end (R129). An XAWAIT holds the ticket up to which it waits (R137). -/
structure Engine where
  x : Tbl Word := []
  f : Tbl Word := []
  v : Tbl (BitVec 2048) := []
  pc : Word := 0
  vtype : Word := 0x8000000000000000
  vl : Nat := 0
  vstart : Nat := 0
  vxrm : BitVec 2 := 0
  vxsat : Bool := false
  frm : BitVec 3 := 0
  fflags : BitVec 5 := 0
  xfd : Tbl (BitVec 24) := []
  xsrseed : Word := 0
  cycle : Word := 0
  instret : Word := 0
  l1d : List (Nat × List Byte) := []
  l1i : List Nat := []
  run : EngRun := .idle
  step : Option Nat := none
  halted : Bool := false
  stepping : Bool := false
  tTicket : Nat := 0
  mid : Bool := false
deriving DecidableEq, Repr

/-! ### Steps and Tongs (chapter 05) -/

/-- A step descriptor (Table 14.5). -/
structure StepDesc where
  image : Word
  args : Word
  tag : Word
  serial : Bool
deriving DecidableEq, Repr

/-- One half's part of a resource declaration (Table 5.3). -/
structure HalfDecl where
  vat : Nat := 0
  ve : Nat := 0
  cur : Nat := 0
  ren : Nat := 0
deriving DecidableEq, Repr

/-- A region entry with its resolved address (Table 5.4, R164). -/
structure Region where
  va : Word
  dir : BitVec 2
  len : Word
deriving DecidableEq, Repr

/-- The checked image of a step (R162 to R164). -/
structure Image where
  decl : Two HalfDecl := ⟨{}, {}⟩
  kernels : List Word := []
  regions : List Region := []
  vinit : Two (List Byte) := ⟨[], []⟩
deriving DecidableEq, Repr

/-- Where a step stands in Table 5.1 and Table 15.2. -/
inductive Phase where
  | fetched
  | candidate
  | waking
  | filling
  | running
  | draining
  | recorded
  | stopping
  | saving
  | saved
  | restoring
deriving DecidableEq, Repr

/-- How a step ends: status, user code, DETAIL, ADDR, and the engine and cause of an engine exception. -/
structure Outcome where
  status : Status := .ok
  ucode : BitVec 32 := 0
  detail : BitVec 32 := 0
  addr : Word := 0
  eng : Option (Fin 128) := none
  cause : BitVec 6 := 0
deriving DecidableEq, Repr

/-- A Tongs transfer descriptor (Table 5.7), as read at issue. -/
structure TDesc where
  op : Nat
  ssp : Bool
  dsp : Bool
  isp : Bool
  idxw : Bool
  cvt : Bool
  red : RedOp
  ty : RType
  doneObj : Option Nat
  sfmt : BitVec 16
  dfmt : BitVec 16
  src : Nat
  dst : Nat
  idx : Nat
  ext : List Nat
  sstr : List Int
  dstr : List Int
deriving DecidableEq, Repr

/-- A transfer in its channel's queue: how far it has got, whether it has left the node, its end (R186, R191), the index-list entries
that the service holds for it (R311), and those outside this node's memory that its rows have used. -/
structure Xfer where
  ticket : Nat
  step : Nat
  desc : TDesc
  row : Nat := 0
  col : Nat := 0
  remote : Bool := false
  failed : Bool := false
  parked : Option Nat := none
  walking : Bool := false
  held : Tbl Nat := []
  seen : Tbl Nat := []
deriving DecidableEq, Repr

/-- A step from its fetch to its record. `victimOf` is the candidate that it is pre-empted for; the `save` fields hold what
the save area keeps of it (R191). -/
structure Step where
  ring : Nat
  ctx : Nat
  cls : Nat
  count : BitVec 16
  desc : StepDesc
  phase : Phase := .fetched
  image : Image := {}
  engines : List (Fin 128) := []
  vat : Two (Nat × Nat) := ⟨(0, 0), (0, 0)⟩
  ren : Two (Nat × Nat) := ⟨(0, 0), (0, 0)⟩
  kernel : Nat := 0
  ticket : Nat := 0
  nsum : BitVec 5 := 0
  outcome : Option Outcome := none
  parked : Option Nat := none
  granted : Nat := 0
  lostOps : List AOp := []
  saveVat : Two (List Host.Cell) := ⟨[], []⟩
  saveEng : List (Nat × Engine) := []
  saveTongs : List (Nat × List Xfer) := []
  victimOf : Option Nat := none
  fetchT : Two Word := ⟨0, 0⟩
  lastIn : Nat := 127
deriving DecidableEq, Repr

/-! ### Rennet (chapter 06) -/

/-- TYPE of Table 6.1. -/
inductive RTyp where
  | counter
  | barrier
  | semaphore
deriving DecidableEq, Repr

/-- Who holds an object: a step's grant or a context's allocation (R195). -/
inductive ROwner where
  | step (s : Nat)
  | ctx (c : Nat)
deriving DecidableEq, Repr

/-- A Rennet object (Table 6.1) with its owner and its poison mark (R610). -/
structure RObj where
  count : BitVec 32 := 0
  gen : BitVec 32 := 0
  thresh : BitVec 32 := 0
  typ : RTyp := .counter
  stray : Bool := false
  ovf : Bool := false
  rbase : BitVec 17 := 0
  rcnt : BitVec 7 := 0
  expect : BitVec 32 := 0
  mask : BitVec 256 := 0
  owner : Option ROwner := none
  poisoned : Bool := false
deriving DecidableEq, Repr

/-- A registered wait (Table 6.8). `ve` is the engine; `tag` answers a remote waiter. -/
structure Waiter where
  obj : Nat
  src : RSrc
  eng : Fin 128
  sc : Scope
  operand : Word
  tag : Option Nat := none
deriving DecidableEq, Repr

/-- A history entry (Table 6.9). -/
structure RHist where
  obj : Nat
  kind : BitVec 3
  src : RSrc
  t : Word
  operand : Word
deriving DecidableEq, Repr

/-- A Rennet message in flight; `tag` answers a source on another node, and `step` is the step that a DONE signal belongs to. -/
inductive RMsg where
  | sig (src : RSrc) (kind : SigKind) (obj : Nat) (operand : Word) (tag : Option Nat := none) (step : Option Nat := none)
  | add (src : RSrc) (obj : Nat) (v : BitVec 32) (tag : Option Nat := none)
  | wait (src : RSrc) (obj : Nat) (operand : Word) (sc : Scope) (tag : Option Nat := none)
  | wake (eng : Fin 128) (v : Word)
deriving DecidableEq, Repr

/-- A dump in progress (R219). -/
structure DumpJob where
  slot : Option (BitVec 16)
  ctx : Nat
  cause : Bool
  t0 : Two Word
deriving DecidableEq, Repr

structure Rennet where
  objs : Tbl RObj := []
  pool : Two Nat := ⟨32768, 32768⟩
  waiters : List Waiter := []
  hist : Two (List RHist) := ⟨[], []⟩
  msgs : List RMsg := []
  landings : List (Fin 4096 × Nat) := []
  dumpBuf : Word := 0
  dumpLen : Nat := 0
  dumps : List DumpJob := []
  pkgWindow : Nat := 100000
  pkgDump : Bool := false
  fired : List Nat := []
  last : Tbl Word := []
deriving DecidableEq, Repr

/-! ### Memory traffic and coherence (chapters 01, 07, 08, 09) -/

/-- The access a core waits to perform on a line (R262). A load that crosses a line keeps the bytes that its first line
gave (R235); `seq` is its place among the hart's loads. `amo` is an AMO across two lines. -/
inductive CAcc where
  | load (addr : Nat) (wLog : Fin 4) (signed : Bool) (fetch : Bool) (seq : Nat) (got : List Byte := [])
  | store (addr : Nat) (bytes : List Byte)
  | lr (addr : Nat) (dbl : Bool) (seq : Nat)
  | zero (addr : Nat)
  | amo (op : AmoOp) (addr : Nat) (v : Word) (dbl : Bool)
deriving DecidableEq, Repr

/-- A load of a hart that has not retired: its register, and its value or its exception and address once it is performed. -/
structure CLoad where
  seq : Nat
  rd : Fin 32
  val : Option Word := none
  exc : Option (Nat × Word) := none
deriving DecidableEq, Repr

/-- An uncached load of UMR whose RdOnce is out, with the bytes that its first line gave (R290). -/
structure COnce where
  seq : Nat
  addr : Nat
  wLog : Fin 4
  signed : Bool
  fetch : Bool
  io : Bool
  got : List Byte := []
deriving DecidableEq, Repr

/-- The three links of the Hoop (Table 1.3). -/
inductive HoopLink where
  | hubWest
  | westEast
  | eastHub
deriving DecidableEq, Repr

/-- The way that traffic takes (Table 1.4, R17): within a die, on the Weld, on one Hoop link, or to PCIe or the Chain, for a half
over its link to the Hub. -/
inductive Path where
  | near
  | weld
  | hoop (l : HoopLink)
  | pcie (l : Option HoopLink)
  | chain (l : Option HoopLink)
deriving DecidableEq, Repr

/-- What a write of a source is: bytes of memory, a signal to a Rennet object, a store of a core through its caches, or the
host's notify word. -/
inductive WOp where
  | mem
  | sig (s : RSrc) (obj : Nat) (v : Word)
  | cached (a : CAcc)
  | notify (page off len : Nat) (v : Word)
deriving DecidableEq, Repr

/-- A write a source has issued and not yet seen acknowledged (R18, R19, R222); `done` once it is performed. `rq` is the PCIe
requester of a peer's write (Table 7.1). -/
structure OutW where
  src : Agent
  addr : Nat
  bytes : List Byte
  path : Path
  held : Bool := false
  done : Bool := false
  red : Option (RedOp × RType) := none
  step : Option Nat := none
  tag : Nat := 0
  what : WOp := .mem
  rq : Nat := 0
  io : Bool := false
deriving DecidableEq, Repr

/-- States of a core's line: stable (Table 8.2) and transient (Table 8.8). -/
inductive CSt where
  | m
  | o
  | e
  | s
  | isD
  | imD
  | smD
  | omD
  | miA
  | siA
  | eiA
deriving DecidableEq, Repr

/-- A core's line; `fresh` when a cbo.zero has replaced every byte of it, so that its write-back clears poison (R279). -/
structure CLine where
  st : CSt
  data : List Byte := []
  poison : Bool := false
  acc : List CAcc := []
  fresh : Bool := false
deriving DecidableEq, Repr

/-- What a hart is doing (R576, R303, R557). -/
inductive HartRun where
  | reset
  | running
  | wfi
deriving DecidableEq, Repr

/-- Privilege modes of Table 9.1. -/
inductive Priv where
  | m
  | hs
  | u
  | vs
  | vu
deriving DecidableEq, Repr

/-- An application core: hart state with its vector registers (VLEN 256) and the CSRs of its options (Table 9.1), spdom (Table 9.5),
reservation (R275), its loads in program order until they retire, caches (Table 9.2: `lines` is the L2, `l1d` and `l1i` name the
lines of it that the L1 caches hold), the hart information record (Table 9.7), and its timer and interrupt files. -/
structure Core where
  run : HartRun := .reset
  priv : Priv := .m
  x : Tbl Word := []
  f : Tbl Word := []
  pc : Word := 0
  mtvec : Word := 0
  mepc : Word := 0
  mcause : Word := 0
  mtval : Word := 0
  stvec : Word := 0
  sepc : Word := 0
  scause : Word := 0
  stval : Word := 0
  spdom : Word := 0
  resv : Option Nat := none
  resvHold : Option Nat := none
  lines : Tbl CLine := []
  mtimecmp : Word := 0xFFFFFFFFFFFFFFFF
  mtip : Bool := false
  imsic : List (Nat × Nat) := []
  repl : Bool := false
  imp : Bool := false
  impAddr : Word := 0
  amoRd : Option (Fin 32 × Nat) := none
  waitAcc : List CAcc := []
  loads : List CLoad := []
  nextLoad : Nat := 0
  onces : List COnce := []
  l1d : List Nat := []
  l1i : List Nat := []
  v : Tbl (BitVec 256) := []
  csr : Tbl Word := []
  stBar : Bool := false
  ldBar : Bool := false
  rdBar : Bool := false
  halted : Bool := false
  starting : Bool := false
  stepping : Bool := false
deriving DecidableEq, Repr

/-- States of the snoop filter, which records E and M as one (R253). -/
inductive FSt where
  | em
  | o
  | s
deriving DecidableEq, Repr

/-- Modes of Table 8.3. -/
inductive Mode where
  | shared
  | owned
  | excl
deriving DecidableEq, Repr

/-- A remote directory entry (R254). -/
structure DirEnt where
  vec : BitVec 64
  mode : Mode
  owner : Nat
  seq : Nat
deriving DecidableEq, Repr

/-- An active transaction of a home or proxy slice (R260): whom it waits for, what has come, a dirty line that a proxy has
collected in `data` (`fresh` as in its copy, `wb` when a write-back brought it), a CompAck that came before the owner's SnpAck in `acked`; `abandoned` when its
requester is gone (R280). -/
structure Txn where
  req : NMsg
  waits : List Agent
  wbs : List Agent := []
  dirty : Bool := false
  poison : Bool := false
  supplied : Bool := false
  ack : Bool := false
  acked : Bool := false
  abandoned : Bool := false
  data : List Byte := []
  fresh : Bool := false
  wb : Bool := false
deriving DecidableEq, Repr

/-- A ticket trackers' entry (R264). -/
structure Ticket where
  slice : Nat
  id : BitVec 10
  line : Nat
  who : Agent
deriving DecidableEq, Repr

/-- A proxy slice's record of a line of another node: the mode granted (R252), the hold (R271), the one request that is
out (R248), and whether a WbDirty or an Evict of the node is on its way. -/
structure ProxyLine where
  mode : Option Mode := none
  hold : Bool := false
  out : Option NMsg := none
  wbOut : Bool := false
  evOut : Bool := false
deriving DecidableEq, Repr

/-- An engine reservation at a home slice (R277). -/
structure EngResv where
  who : Agent
  sub : Option Agent := none
  granule : Nat
deriving DecidableEq, Repr

structure Coh where
  filter : Tbl (List (Fin 64 × FSt)) := []
  dir : Tbl DirEnt := []
  dirSeq : Nat := 0
  txns : Tbl Txn := []
  tickets : List Ticket := []
  proxy : Tbl ProxyLine := []
  resvs : List EngResv := []
  noc : List NMsg := []
  held : List NMsg := []
  redQ : List NMsg := []
  sysCache : List Nat := []
  redBuf : List (Nat × Nat) := []
  backInv : Two Nat := ⟨0, 0⟩
  rr : Tbl Nat := []
deriving DecidableEq, Repr

/-! ### Translation (chapter 10) -/

/-- The structures of Table 10.3 that hold leaf translations. -/
inductive TlbHolder where
  | data (e : Fin 128)
  | inst (e : Fin 128)
  | tongs (h : Half) (t : Fin 32)
  | shared
  | small
deriving DecidableEq, Repr

structure TlbEnt where
  holder : TlbHolder
  ctx : Nat
  page : Nat
  sizeLog : Nat
  pte : Word
deriving DecidableEq, Repr

/-- A walk-cache entry: the table that a non-leaf entry of a level names (Table 10.3). -/
structure WalkEnt where
  ctx : Nat
  level : Nat
  vpn : Nat
  table : Nat
deriving DecidableEq, Repr

/-- The users of a translation (R313). -/
inductive XUser where
  | engine (e : Fin 128)
  | tongs (e : Fin 128) (c : Fin 4)
  | phase1 (step : Nat)
deriving DecidableEq, Repr

/-- ACCESS of Table 10.5. -/
inductive Access where
  | read
  | write
  | exec
  | reduce
deriving DecidableEq, Repr

/-- A user of a walk, its access and the address that missed (R316). -/
structure WalkUser where
  user : XUser
  acc : Access
  va : Word
deriving DecidableEq, Repr

structure Walk where
  ctx : Nat
  page : Nat
  users : List WalkUser
deriving DecidableEq, Repr

/-- An outstanding fault record (Table 10.5). -/
structure FRec where
  cause : Nat
  acc : Access
  ctx : Nat
  level : Nat
  va : Word
  t : Word
  src : XUser
  ring : Nat
  users : List XUser
  ord : Nat := 0
  written : Bool := false
deriving DecidableEq, Repr

structure Xlate where
  tlb : List TlbEnt := []
  wcache : List WalkEnt := []
  walks : List Walk := []
  recs : Tbl FRec := []
  waiting : List FRec := []
deriving DecidableEq, Repr

/-! ### Tiers, Cave and HBM (chapters 11, 12) -/

inductive Back where
  | unbacked
  | hbm
  | ddr
  | cave
deriving DecidableEq, Repr

/-- Placement policies (Table 11.3). -/
inductive Policy where
  | pinnedHbm
  | preferHbm
  | preferDdr
  | capacity
deriving DecidableEq, Repr

/-- A frame map entry (Table 11.2). -/
structure Frame where
  back : Back := .unbacked
  policy : Policy := .pinnedHbm
  il : Bool := false
  home : Half := .west
  ctx : Nat := 0
  alloc : Nat := 0
  shTier : Back := .unbacked
  heat : Nat := 0
  psn : Bool := false
  wdirty : BitVec 32 := 0
  loc : Nat := 0
  shLoc : Nat := 0
deriving DecidableEq, Repr

structure Alloc where
  first : Nat
  count : Nat
  ctx : Nat
  attach : List Nat := []
  policy : Policy
  newPolicy : Option Policy := none
  il : Bool
  home : Half
  freeing : Bool := false
deriving DecidableEq, Repr

/-- A migration or fill of one frame (Tables 11.5, R355). -/
structure Move where
  dst : Back
  dstLoc : Nat
  fill : Bool
  toShadow : Bool := false
  pass : Nat := 1
  mask : BitVec 32 := 0
  blocked : Bool := false
  lost : List Nat := []
deriving DecidableEq, Repr

/-- Tier parameters (Table 11.4): EPOCH in ms, WATERMARK in percent, MIGBW in GB/s, STAGING in GiB. -/
structure TierParams where
  epoch : Nat := 10
  promote : Nat := 32
  demote : Nat := 2
  watermark : Nat := 5
  migbw : Nat := 16
  staging : Nat := 4
deriving DecidableEq, Repr

structure Tiers where
  frames : Tbl Frame := []
  allocs : Tbl Alloc := []
  moves : Tbl Move := []
  chosen : List (Nat × Back) := []
  params : TierParams := {}
  epochNo : Nat := 0
  noMove : Tbl Nat := []
  abandoned : Nat := 0
  ddrFrames : Nat := 0
  moveJobs : List (BitVec 16 × Nat × Back × Word) := []
deriving DecidableEq, Repr

inductive CaveSt where
  | normal
  | degraded
  | readOnly
  | absent
deriving DecidableEq, Repr

/-- What the wear, read and retirement tables hold of a block (R363, R366). -/
structure CaveBlk where
  erases : Nat := 0
  reads : Nat := 0
  retired : Bool := false
deriving DecidableEq, Repr

/-- The Cave (R359 to R371). `pop` is the part that its targets are of, with the targets on each channel; `factory` are the blocks
bad since manufacture, `blks` and `deadDies` the wear, read and retirement tables. `map` gives each logical unit of 64 KiB its four
pages, `cws` the four codewords of each page, `stripes` the pages of each parity stripe with its parity page last, `open_` the pages
of the stripe being written, and `points` each channel's block being written with its next page. `staged` are sub-blocks of frames
in the staging area, and `moving` relocated units, as ciphertext, that wait to be programmed again. `badUnits` are the poisoned units
of each frame, and `key` is the XTS key in the cipher engine (R367). -/
structure Cave where
  st : CaveSt := .absent
  op : Nat := 12
  pop : Option (CavePart × Nat) := none
  factory : List Nat := []
  blks : Tbl CaveBlk := []
  deadDies : List Nat := []
  spare : Nat := 0
  rebuilt : Nat := 0
  lost : Nat := 0
  rdReloc : Nat := 0
  staged : List (Nat × Nat) := []
  badUnits : List (Nat × Nat) := []
  key : Option (BitVec 512) := none
  map : Tbl (List Nat) := []
  cws : Tbl (List Byte) := []
  stripes : List (List Nat) := []
  open_ : List Nat := []
  points : Tbl (Nat × Nat) := []
  moving : Tbl (List (Option (List Byte))) := []
deriving DecidableEq, Repr

/-- A margining sweep in progress (R391). `held` says that a point is being measured and holds requests (R392). -/
structure Margin where
  slot : Option (BitVec 16)
  half : Half
  stack : Fin 6
  volt : Bool
  buf : Word
  lane : Nat := 0
  point : Int
  low : Option Int := none
  high : Int := 0
  held : Bool := true
deriving DecidableEq, Repr

/-- One half's HBM and its thermal ceilings in MHz (R388, R506). -/
structure HbmHalf where
  usable : BitVec 6 := 0x3F
  temps : List Int := [0, 0, 0, 0, 0, 0]
  halved : BitVec 6 := 0
  hold : Bool := false
  anvCeil : Nat := 800
  engCeil : Nat := 1600
  coreCeil : Nat := 3200
  hbmCeil : Nat := 800
  down : Bool := false
  hbmDown : Bool := false
deriving DecidableEq, Repr

/-- The HBM subsystem: `brineNext` counts lines of the stacks and DIMMs in Brine's order, and `steered` are the lanes that run on their
spares (R385, R386). -/
structure Hbm where
  half : Two HbmHalf := ⟨{}, {}⟩
  steered : List UnitId := []
  brineHours : Nat := 24
  brineNext : Nat := 0
  brinePass : Nat := 0
  quarter : List (Nat × Nat) := []
  margin : Option Margin := none
deriving DecidableEq, Repr

/-! ### The Chain (chapter 13) -/

inductive PortSt where
  | disabled
  | training
  | upActive
  | upStandby
  | dead
  | refused
  | draining
deriving DecidableEq, Repr

/-- One Chain port (Table 13.8) with its link-layer, key and credit state (R408 to R421). `replayBuf` holds the frames sent and not
acknowledged with their bytes, `used` the far end's credits that this end has taken, `owed` those that it has to return, and
`frameCtr` and `rxCtr` the frames of each direction under the current key. -/
structure Port where
  st : PortSt := .disabled
  enabled : Bool := true
  refuse : Nat := 0
  lanes : Nat := 0
  farNode : Nat := 0
  farPort : Nat := 0
  farInc : BitVec 4 := 0
  nonce : BitVec 256 := 0
  mine : Option Identity := none
  far : Option Identity := none
  epoch : Nat := 0
  replays : Nat := 0
  tagFail : Nat := 0
  stale : Nat := 0
  outseq : Nat := 0
  fecCorr : Nat := 0
  uptime : Word := 0
  idDone : Bool := false
  retrain : Bool := false
  txSeq : BitVec 24 := 0
  rxSeq : BitVec 24 := 0
  frameCtr : Nat := 0
  replayBuf : List (BitVec 24 × Nat) := []
  rxCtr : Nat := 0
  crcRun : Nat := 0
  tagRun : Nat := 0
  rekeying : Bool := false
  key : BitVec 1024 := 0
  used : List Nat := List.replicate 22 0
  owed : List Nat := List.replicate 22 0
  bankLanes : Nat := 0
  laneBad : BitVec 8 := 0
deriving DecidableEq, Repr

/-- The sending end of a stream (R414, R416). -/
structure TxStream where
  seq : BitVec 16 := 0
  unacked : List ChainPkt := []
  timer : Nat := 20
deriving DecidableEq, Repr

/-- The receiving end of a stream (R415). -/
structure RxStream where
  next : BitVec 16 := 0
  pend : Nat := 0
deriving DecidableEq, Repr

/-- An engine's atomic or Rennet operation at another node that awaits its answer. -/
structure ChainReq where
  tag : Nat
  eng : Fin 128
  node : Nat
  addr : Nat
deriving DecidableEq, Repr

/-- A core's AMOADD.D to an object of another node that awaits its answer. -/
structure CoreReq where
  tag : Nat
  hart : Fin 64
  node : Nat
deriving DecidableEq, Repr

structure Chain where
  joined : Bool := false
  leaving : Bool := false
  node : Nat := 0xFF
  inc : BitVec 4 := 0
  slots : Tbl Slot := []
  ports : Tbl Port := []
  links : List (Nat × Nat) := []
  tx : Tbl TxStream := []
  rx : Tbl RxStream := []
  waitSend : List (Nat × ChainPkt) := []
  transit : List (Nat × ChainPkt) := []
  badHeader : Nat := 0
  nextTag : Nat := 1
  reqs : List ChainReq := []
  coreReqs : List CoreReq := []
  uincs : List ((Nat × Nat × Nat) × BitVec 4) := []
deriving DecidableEq, Repr

/-! ### Host interface (chapters 14, 20) -/

/-- An aperture table entry (Table 20.6) with its accesses in progress. -/
structure Aperture where
  en : Bool := false
  rd : Bool := false
  wr : Bool := false
  draining : Bool := false
  busy : Bool := false
  pd : BitVec 8 := 0
  ctx : BitVec 12 := 0
  base : BitVec 35 := 0
deriving DecidableEq, Repr

inductive RegSt where
  | off
  | enabling
  | on
  | disabling
deriving DecidableEq, Repr

/-- A placement region (R441): `pages` holds the translated UMR page of each 4 KiB (R329). -/
structure PRegion where
  ctx : Nat
  off : Nat
  len : Nat
  vbase : Word
  pages : List Nat
  counter : Option Nat
  read : Bool
  st : RegSt := .off
deriving DecidableEq, Repr

/-- A ring (R444 to R450, R525). -/
structure Ring where
  ctx : Nat
  cls : Nat
  base : Word
  log2 : Nat
  head : BitVec 16 := 0
  tail : BitVec 16 := 0
  enabled : Bool := true
  overrun : Bool := false
  destroying : Bool := false
  held : Bool := false
deriving DecidableEq, Repr

structure DbLine where
  pd : BitVec 8
  addr : Word
  pending : Bool := false
deriving DecidableEq, Repr

/-- A completion record before it is posted (Tables 14.6, 17.5): word 0 without PHASE, and words 1 to 3. -/
structure CRec where
  w0 : Word
  w1 : Word
  w2 : Word
  w3 : Word
  ring : Option Nat := none
  step : Option Nat := none
  ok : Bool := true
deriving DecidableEq, Repr

/-- Accounting of a context (Table 15.5). -/
structure Acct where
  buf : Word := 0
  period : Nat := 0
  seq : Word := 0
  steps : Word := 0
  nonok : Word := 0
  preempts : Word := 0
  wait : Two Word := ⟨0, 0⟩
  anvil : Two Word := ⟨0, 0⟩
deriving DecidableEq, Repr

/-- A fault queue (R315). -/
structure FQueue where
  addr : Word
  log2 : Nat
  bind : Word
  posted : Nat := 0
deriving DecidableEq, Repr

/-- A context: its domain, completion ring, translation, fault queue, quotas, accounting and detector settings. -/
structure Ctx where
  pd : BitVec 8
  ring : Word
  log2 : Nat
  head : Word
  bind : Word
  modCount : Nat
  modDelay : Nat
  headVal : Nat := 0
  posted : Nat := 0
  unsig : Nat := 0
  recs : List CRec := []
  destroying : Bool := false
  root : Option (BitVec 44 × BitVec 20) := none
  lookahead : Nat := 4
  window : Nat := 100000
  dumpOn : Bool := false
  ats : Bool := false
  fq : Option FQueue := none
  quota : List Nat := [0, 0, 0]
  acct : Acct := {}
  images : List (Word × Image) := []
deriving DecidableEq, Repr

/-- An event record (Table 14.9) without PHASE. -/
structure Event where
  kind : BitVec 7
  status : Status := .ok
  die : Die := .hub
  info : BitVec 32 := 0
  t : Word := 0
  a0 : Word := 0
  a1 : Word := 0
deriving DecidableEq, Repr

/-- A background admin command that has been accepted (R454). -/
inductive Background where
  | ctxDestroy (ctx : Nat)
  | ringDestroy (ring : Nat)
  | regionEnable (r : Nat)
  | regionDisable (r : Nat)
  | dump
  | frameFree (alloc : Nat)
  | frameMove (alloc : Nat) (dst : Back) (buf : Word)
  | caveParams (op : Nat)
  | margin
  | chainJoin
  | chainLeave
  | portDisable (p : Nat)
  | portEnable (p : Nat)
  | portRetrain (p : Nat)
  | invalidate (ctx : Nat)
  | powerCold
  | secReturn (body : List Byte)
deriving DecidableEq, Repr

/-- A ring's control register (Table 20.4). -/
structure RingCtl where
  base : Word := 0
  log2 : Nat := 0
  en : Bool := false
  draining : Bool := false
  busy : Bool := false
  err : Bool := false
deriving DecidableEq, Repr

/-- A read of the host or of a peer that waits for its data (R440): what it asks for, what other nodes answer (`ext`), and
what it has got. -/
structure PendRead where
  id : Nat
  ap : Fin 32
  off : Nat
  addr : Nat
  len : Nat
  ext : List Byte := []
  got : List Byte := []
  region : Option (Fin 4096) := none
  rq : Nat := 0
deriving DecidableEq, Repr

structure Msix where
  addr : Word := 0
  data : BitVec 32 := 0
  mask : Bool := true
  pending : Bool := false
deriving DecidableEq, Repr

structure HostIf where
  linkUp : Bool := false
  ap : Tbl Aperture := []
  reads : List PendRead := []
  readId : Nat := 0
  regions : Tbl PRegion := []
  placeDrop : Nat := 0
  dropsSince : Nat := 0
  dropMs : Option Nat := none
  rings : Tbl Ring := []
  lines : Tbl DbLine := []
  notifyIgn : Nat := 0
  ctxs : Tbl Ctx := []
  adm : RingCtl := {}
  admTail : BitVec 16 := 0
  admHead : BitVec 16 := 0
  admBusy : Bool := false
  bg : Tbl (BitVec 16 × Background) := []
  evt : RingCtl := {}
  evtHead : BitVec 32 := 0
  evtTail : BitVec 32 := 0
  evtBind : Word := 0
  evtDrop : Nat := 0
  evtLost : Nat := 0
  evtQ : List Event := []
  msix : Tbl Msix := []
  atsCache : List (Nat × Nat × Word) := []
  atsAsked : List (Nat × Nat) := []
  irqs : List Word := []
deriving DecidableEq, Repr

/-! ### Scheduling (chapter 15) -/

structure SchedHalf where
  grants : List (Nat × Nat) := []
  ringGrants : List Nat := []
  waiting : Option Nat := none
  blocked : List Nat := []
  timedOut : List Nat := []
  saveBytes : Nat := 0
  clearing : List (Nat × Nat) := []
deriving DecidableEq, Repr

structure Sched where
  half : Two SchedHalf := ⟨{}, {}⟩
  steps : Tbl Step := []
  next : Nat := 0
  grantNo : Nat := 0
deriving DecidableEq, Repr

/-! ### Power (chapter 16) -/

inductive DomSt where
  | gated
  | waking
  | on
  | parked
  | retention
  | draining
  | quenched
  | retired
deriving DecidableEq, Repr

inductive PState where
  | working
  | glowing
  | banked
  | cold
deriving DecidableEq, Repr

structure Power where
  vinOk : Bool := true
  vin : Nat := 5200
  iin : Nat := 0
  vinLow : Nat := 0
  vinDead : Nat := 0
  vinHigh : Nat := 0
  vinHist : List (Nat × Nat) := []
  intOsc : Bool := false
  pstate : PState := .working
  dom : Tbl DomSt := []
  wakePend : List Nat := []
  entering : Bool := false
  exitPend : Option WakeCause := none
  policy : Nat := 1
  glowIdle : Nat := 50
  bankIdle : Nat := 100
  limitSet : Nat := 1850
  grant : Two Nat := ⟨120, 120⟩
  grantSeq : Two Nat := ⟨0, 0⟩
  nextSeq : Nat := 1
  sent : List (Half × Nat × Nat) := []
  floorHold : Two Bool := ⟨false, false⟩
  demand : Two Nat := ⟨0, 0⟩
  hubRes : Nat := 0
  lapsed : Two Bool := ⟨false, false⟩
  anvMhz : Two Nat := ⟨100, 100⟩
  engMhz : Two (List Nat) := ⟨List.replicate 8 200, List.replicate 8 200⟩
  coreMhz : Two (List Nat) := ⟨List.replicate 4 400, List.replicate 4 400⟩
  coreSet : Two (List Nat) := ⟨List.replicate 4 3200, List.replicate 4 3200⟩
  coreMax : Two (List Nat) := ⟨List.replicate 4 3200, List.replicate 4 3200⟩
  tj : List (Nat × Int) := []
  hubCut : Nat := 0
  hubDown : Bool := false
  thermtrip : Bool := false
  trip : Nat := 0
  wakeGpio : BitVec 16 := 0
  wakeRise : BitVec 16 := 0
deriving DecidableEq, Repr

/-! ### Faults (chapter 17) -/

/-- STATE of Table 17.8. -/
inductive UnitSt where
  | inService
  | replaced
  | retired
  | repairPending
deriving DecidableEq, Repr

/-- The counters and identity of one reporting unit (R512, R519). -/
structure UnitRec where
  cc : Nat := 0
  uc : Nat := 0
  ctotal : Nat := 0
  stale : Nat := 0
  inc : BitVec 4 := 0
  st : UnitSt := .inService
  quenched : Bool := false
  testing : Bool := false
  awaiting : Bool := false
  phys : Option Nat := none
deriving DecidableEq, Repr

/-- Containment in progress (Table 17.3). -/
structure Contain where
  steps : List Nat
  t0 : Word
  silent : Bool := false
  selfQ : Bool := false
deriving DecidableEq, Repr

structure Faults where
  units : List (UnitId × UnitRec) := []
  thresh : List ((Nat × Bool) × (Nat × Nat)) := []
  contain : Option Contain := none
  pkgFault : Bool := false
  clusterSpare : Two (BitVec 8) := ⟨0, 0⟩
  coreSpares : Two Nat := ⟨2, 2⟩
  laneSpare : List UnitId := []
  vatRows : List (UnitId × Nat) := []
  repairs : List (UnitId × Word) := []
  ddrPend : List (UnitId × Word) := []
  ddrBad : List Nat := []
  faultNo : Nat := 0
deriving DecidableEq, Repr

/-! ### Security and debug (chapter 18) -/

inductive Lifecycle where
  | blank
  | owned
  | returned
deriving DecidableEq, Repr

structure LogEnt where
  mr : Fin 4
  event : BitVec 8
  t : Word
  d : BitVec 512
deriving DecidableEq, Repr

structure Session where
  priv : Word
  life : Nat
  vendor : Bool
deriving DecidableEq, Repr

/-- A RISC-V debug module's software-visible state (R553). -/
structure DbgMod where
  active : Bool := false
  hartsel : BitVec 20 := 0
  cmderr : BitVec 3 := 0
  sberror : BitVec 3 := 0
  data : Word := 0
  arg1 : Word := 0
  sbcs : BitVec 32 := 0
  sbaddr : Word := 0
  sbdata : Word := 0
  triggers : List (Nat × Nat) := []
  tsel : Nat := 0
  resumeAck : Bool := false
deriving DecidableEq, Repr

structure Sec where
  owned : Bool := false
  returned : Bool := false
  svn : Nat := 0
  ownerHash : BitVec 256 := 0
  debugHash : BitVec 256 := 0
  cosignHash : BitVec 256 := 0
  cosignNext : Option (BitVec 256) := none
  fabric : BitVec 256 := 0
  cave : Option (BitVec 256) := none
  mrs : List (BitVec 512) := [0, 0, 0, 0]
  log : List LogEnt := []
  nonce : Option (BitVec 256) := none
  session : Option Session := none
  nextBlock : Nat := 0
  index : Nat := 0
  blockLeft : Nat := 0
  returning : Bool := false
  ir : BitVec 8 := 0x01
  boundary : List Bool := []
  dtmcs : BitVec 32 := 0
  mods : List DbgMod := [{}, {}, {}]
  hubHalted : List Nat := []
  driven : List Bool := []
  mboxReturn : Option (List Byte) := none
deriving DecidableEq, Repr

/-! ### Start-up and set-up registers (chapters 19, 20, 21) -/

/-- BOOT_STATUS, Table 19.3. -/
inductive BootSt where
  | rind
  | load
  | verify
  | train
  | mount
  | ready
  | recovery
  | program
  | hold
  | badStrap
  | failed
deriving DecidableEq, Repr

structure Boot where
  st : BootSt := .rind
  reason : Nat := 0
  bsel : BitVec 3 := 0
  cause : Nat := 0
  waitPerst : Bool := true
  perst : Bool := true
  fwver : Word := 0
  svnImage : BitVec 8 := 0
  update : Bool := false
  img : Option (Word × BitVec 8) := none
  smbus : Nat := 0x60
  goSet : Bool := false
  ddr : BitVec 8 := 0
  platform : Nat := 0
deriving DecidableEq, Repr

structure Regs where
  rvec : Two (BitVec 36) := ⟨0, 0⟩
  hartErr : Word := 0
  gpioIn : BitVec 16 := 0
  gpioOut : BitVec 16 := 0
  gpioOe : BitVec 16 := 0
  rise : BitVec 16 := 0
  fall : BitVec 16 := 0
  edge : BitVec 16 := 0
  bind : Tbl Word := []
deriving DecidableEq, Repr

/-- What has left the device, oldest first: the model's own record of its outputs. -/
inductive OutMsg where
  | hostWrite (addr : Nat) (bytes : List Byte) (pasid : Option Nat) (translated : Bool := false)
  | hostRead (addr : Nat) (len : Nat) (pasid : Option Nat := none) (translated : Bool := false)
  | atsRequest (addr : Nat) (pasid : Option Nat)
  | atsInvalidated (addr : Nat) (pasid : Option Nat)
  | msix (vec : Nat) (addr : Word) (data : BitVec 32)
  | completion (bytes : List Byte)
  | unsupported
  | poisonedCpl (bytes : List Byte)
  | abortCpl
  | linkFrame (p : Nat) (h : LinkHdr) (nonce : BitVec 96) (k : Option ChainPkt) (sealed : List Byte)
  | linkReplay (p : Nat) (seq : BitVec 24)
  | linkReplayReq (p : Nat) (seq : BitVec 24)
  | linkIdentity (p : Nat) (i : Identity)
  | linkRekey (p : Nat) (nonce : BitVec 256)
  | linkConfirm (p : Nat) (tag : BitVec 256)
  | floodLink (a b : Nat) (up : Bool)
  | floodSlot (n : Nat) (s : Slot)
  | floodDead (n : Nat) (inc : BitVec 4)
  | floodLeave (n : Nat)
  | heartbeat (n : Nat) (inc : BitVec 4)
  | jtag (bits : Nat)
  | doe (bytes : List Byte)
  | mbox (st : Status) (bytes : List Byte)
  | pldm (code : Nat) (v : Int)
  | spi (program : Bool)
  | fspiReset
deriving DecidableEq, Repr

/-- The package. `count` holds the two halves' local counts and `hubCount` the Hub's (R489). `mem` holds the UMR and Vat
bytes by local offset; `poison` the poisoned UMR lines; `free` numbers the free values drawn so far. -/
structure Dev where
  mem : List Host.Cell := []
  poison : List Nat := []
  free : Nat := 0
  count : Two Word := ⟨0, 0⟩
  hubCount : Word := 0
  writes : List OutW := []
  anvil : Anvil := {}
  engines : Tbl Engine := []
  tongs : Tbl (List Xfer) := []
  tongsNext : Tbl Nat := []
  rennet : Rennet := {}
  cores : Tbl Core := []
  coh : Coh := {}
  xlate : Two Xlate := ⟨{}, {}⟩
  tiers : Tiers := {}
  cave : Cave := {}
  hbm : Hbm := {}
  chain : Chain := {}
  host : HostIf := {}
  sched : Sched := {}
  power : Power := {}
  faults : Faults := {}
  sec : Sec := {}
  boot : Boot := {}
  regs : Regs := {}
  out : List OutMsg := []
deriving DecidableEq, Repr

/-- The state: the commands that wait, first in first out, and the package. -/
structure State where
  pending : List Instr
  dev : Dev
deriving DecidableEq, Repr

/-- The faults of the model. The spec gives every command an effect, so no meaning raises one. -/
inductive Fault where
  /-- Kept for a command outside the spec; raised by nobody (safe: a fault could only make claims unprovable). -/
  | noEffectStated
deriving DecidableEq, Repr

/-- Reasons a command has no meaning. -/
inductive Refusal where
  /-- Raised by a dispatch arm whose command has no meaning yet, naming it (safe). -/
  | notModelled (mnemonic : String)
deriving DecidableEq, Repr

/-- The machine at the end of step 2 of a start from VIN52, waiting in step 3 of Table 19.1 for PERST_N: MR0 holds the fuse
state (R546), a BLANK part has a fresh Cave secret (R368), and only the Hearth has power (log 1). -/
def State.reset : State :=
  { pending := [],
    dev :=
      { free := 1,
        sec :=
          { mrs := [extendMr 0 (fuseDigest 0 0), 0, 0, 0], log := [⟨0, 0, 0, fuseDigest 0 0⟩], cave := some (Config.entropy 0) },
        power := { dom := (List.range 56).map (fun n => (n, DomSt.gated)) } } }

end Sys2Proof.Machine
end

