-- ==== Sys2Proof/Machine/Ops.lean ====
section
/-!
DEFINITION. The operations that every family of commands shares: tables, byte order, memory, addresses, free values,
events, interrupts, records, and the end of a step.
-/
namespace Sys2Proof.Machine

/-- The three outcomes of a command. -/
abbrev Res := Host.Outcome State Fault Refusal

/-- A command's effect on the package; the queue stays as it is. -/
def onDev (s : State) (f : Dev → Dev) : Res := .next { s with dev := f s.dev }

/-! ### Pairs of halves and tables -/

def Two.get {α : Type} (t : Two α) : Half → α
  | .west => t.w
  | .east => t.e

def Two.set {α : Type} (t : Two α) (h : Half) (v : α) : Two α :=
  match h with
  | .west => { t with w := v }
  | .east => { t with e := v }

def Two.mod {α : Type} (t : Two α) (h : Half) (f : α → α) : Two α := Two.set t h (f (Two.get t h))

def otherHalf : Half → Half
  | .west => .east
  | .east => .west

def halfIdx : Half → Nat
  | .west => 0
  | .east => 1

def halfOf (b : Bool) : Half := if b then .east else .west

def halfOfNat (n : Nat) : Half := if n = 0 then .west else .east

def dieOf : Half → Die
  | .west => .west
  | .east => .east

def dieIdx : Die → Nat
  | .west => 0
  | .east => 1
  | .hub => 2

/-- The entry of a key, if the table lists it. -/
def tget {α : Type} : Tbl α → Nat → Option α
  | [], _ => none
  | (k, v) :: t, n => if k = n then some v else tget t n

/-- Write an entry, keeping the keys in rising order. -/
def tput {α : Type} : Tbl α → Nat → α → Tbl α
  | [], n, x => [(n, x)]
  | (k, v) :: t, n, x =>
    if n < k then (n, x) :: (k, v) :: t
    else if n = k then (n, x) :: t
    else (k, v) :: tput t n x

/-- Remove an entry. -/
def tdel {α : Type} (t : Tbl α) (n : Nat) : Tbl α := t.filter (fun p => p.1 != n)

def tgetD {α : Type} (t : Tbl α) (n : Nat) (dflt : α) : α := (tget t n).getD dflt

/-- Change an entry that is there. -/
def tmod {α : Type} (t : Tbl α) (n : Nat) (f : α → α) : Tbl α :=
  match tget t n with
  | some x => tput t n (f x)
  | none => t

def thas {α : Type} (t : Tbl α) (n : Nat) : Bool := (tget t n).isSome

/-- The `i`-th entry of a list of fixed length, changed. -/
def lset {α : Type} : List α → Nat → α → List α
  | [], _, _ => []
  | _ :: t, 0, x => x :: t
  | a :: t, n + 1, x => a :: lset t n x

def lgetD {α : Type} : List α → Nat → α → α
  | [], _, x => x
  | a :: _, 0, _ => a
  | _ :: t, n + 1, x => lgetD t n x

/-! ### Byte order and fields (R4) -/

/-- `n` bytes of `v`, least significant first. -/
def leBytes : Nat → Nat → List Byte
  | 0, _ => []
  | n + 1, v => BitVec.ofNat 8 (v % 256) :: leBytes n (v / 256)

/-- The number that bytes spell, least significant first. -/
def ofLe : List Byte → Nat
  | [] => 0
  | b :: t => b.toNat + 256 * ofLe t

/-- Bits [lo + w − 1 : lo] of a number. -/
def fld (v lo w : Nat) : Nat := (v / 2 ^ lo) % 2 ^ w

def bit (v i : Nat) : Bool := fld v i 1 == 1

/-- Two's complement value of `w` bits. -/
def signed (w v : Nat) : Int := if bit v (w - 1) then (v : Int) - (2 ^ w : Nat) else (v : Int)

/-- Place a number at bit `lo`. -/
def at_ (lo v : Nat) : Nat := v * 2 ^ lo

def b2n (b : Bool) : Nat := if b then 1 else 0

/-- Sign-extend the low `w` bits to a word. -/
def sext (w v : Nat) : Word := BitVec.ofInt 64 (signed w (v % 2 ^ w))

/-! ### Memory cells -/

/-- Addresses strictly rise and no cell holds zero, which is what an unlisted byte reads as (R335, R175; log 6). -/
def Memory.wf : List Host.Cell → Bool
  | [] => true
  | [c] => c.2 != 0
  | c :: d :: t => c.2 != 0 && decide (c.1 < d.1) && Memory.wf (d :: t)

/-- The byte at an address. -/
def cellGet : List Host.Cell → Nat → Byte
  | [], _ => 0
  | (k, b) :: t, a => if k = a then b else if a < k then 0 else cellGet t a

/-- Write one byte, keeping the canonical form. -/
def cellPut : List Host.Cell → Nat → Byte → List Host.Cell
  | [], a, b => if b = 0 then [] else [(a, b)]
  | (k, c) :: t, a, b =>
    if a < k then (if b = 0 then (k, c) :: t else (a, b) :: (k, c) :: t)
    else if a = k then (if b = 0 then t else (a, b) :: t)
    else (k, c) :: cellPut t a b

def cellsPut : List Host.Cell → Nat → List Byte → List Host.Cell
  | m, _, [] => m
  | m, a, b :: t => cellsPut (cellPut m a b) (a + 1) t

def cellsGet (m : List Host.Cell) (a : Nat) : Nat → List Byte
  | 0 => []
  | n + 1 => cellGet m a :: cellsGet m (a + 1) n

/-- Zero the bytes of a range. -/
def cellsClear (m : List Host.Cell) (lo len : Nat) : List Host.Cell :=
  m.filter (fun c => c.1 < lo || lo + len ≤ c.1)

/-- The cells of a range. -/
def cellsIn (m : List Host.Cell) (lo len : Nat) : List Host.Cell :=
  m.filter (fun c => lo ≤ c.1 && c.1 < lo + len)

/-- Write listed cells back. -/
def cellsRestore : List Host.Cell → List Host.Cell → List Host.Cell
  | m, [] => m
  | m, c :: t => cellsRestore (cellPut m c.1 c.2) t

/-! ### Subsystem updates -/

def Dev.modAnvil (d : Dev) (f : Anvil → Anvil) : Dev := { d with anvil := f d.anvil }
def Dev.modRennet (d : Dev) (f : Rennet → Rennet) : Dev := { d with rennet := f d.rennet }
def Dev.modCoh (d : Dev) (f : Coh → Coh) : Dev := { d with coh := f d.coh }
def Dev.modTiers (d : Dev) (f : Tiers → Tiers) : Dev := { d with tiers := f d.tiers }
def Dev.modCave (d : Dev) (f : Cave → Cave) : Dev := { d with cave := f d.cave }
def Dev.modHbm (d : Dev) (f : Hbm → Hbm) : Dev := { d with hbm := f d.hbm }
def Dev.modChain (d : Dev) (f : Chain → Chain) : Dev := { d with chain := f d.chain }
def Dev.modHost (d : Dev) (f : HostIf → HostIf) : Dev := { d with host := f d.host }
def Dev.modSched (d : Dev) (f : Sched → Sched) : Dev := { d with sched := f d.sched }
def Dev.modPower (d : Dev) (f : Power → Power) : Dev := { d with power := f d.power }
def Dev.modFaults (d : Dev) (f : Faults → Faults) : Dev := { d with faults := f d.faults }
def Dev.modSec (d : Dev) (f : Sec → Sec) : Dev := { d with sec := f d.sec }
def Dev.modBoot (d : Dev) (f : Boot → Boot) : Dev := { d with boot := f d.boot }
def Dev.modRegs (d : Dev) (f : Regs → Regs) : Dev := { d with regs := f d.regs }
def Dev.modXlate (d : Dev) (h : Half) (f : Xlate → Xlate) : Dev := { d with xlate := Two.mod d.xlate h f }
def Dev.emit (d : Dev) (o : OutMsg) : Dev := { d with out := d.out ++ [o] }

/-- Run a function over a list, threading the package. -/
def foldDev {α : Type} (d : Dev) (l : List α) (f : Dev → α → Dev) : Dev := l.foldl f d

def Dev.eng (d : Dev) (e : Fin 128) : Engine := tgetD d.engines e.val {}
def Dev.setEng (d : Dev) (e : Fin 128) (x : Engine) : Dev := { d with engines := tput d.engines e.val x }
def Dev.modEng (d : Dev) (e : Fin 128) (f : Engine → Engine) : Dev := d.setEng e (f (d.eng e))
def Dev.core (d : Dev) (h : Fin 64) : Core := tgetD d.cores h.val {}
def Dev.setCore (d : Dev) (h : Fin 64) (x : Core) : Dev := { d with cores := tput d.cores h.val x }
def Dev.modCore (d : Dev) (h : Fin 64) (f : Core → Core) : Dev := d.setCore h (f (d.core h))
def Dev.step? (d : Dev) (n : Nat) : Option Step := tget d.sched.steps n
def Dev.modStep (d : Dev) (n : Nat) (f : Step → Step) : Dev :=
  d.modSched (fun s => { s with steps := tmod s.steps n f })
def Dev.ctx? (d : Dev) (c : Nat) : Option Ctx := tget d.host.ctxs c
def Dev.modCtx (d : Dev) (c : Nat) (f : Ctx → Ctx) : Dev :=
  d.modHost (fun h => { h with ctxs := tmod h.ctxs c f })

/-- Bytes of free values. -/
def freeBytes (n : Nat) (len : Nat) : List Byte := (List.range len).map (fun i => Config.freeByte (n + i))

/-- The next free value's number, and the package with that number spent. -/
def Dev.draw (d : Dev) : Nat × Dev := (d.free, { d with free := d.free + 1 })

def engHalf (e : Fin 128) : Half := halfOf (decide (64 ≤ e.val))
def engIdx (e : Fin 128) : Nat := e.val % 64
def engCluster (e : Fin 128) : Nat := e.val / 8
def coreHalf (h : Fin 64) : Half := halfOf (decide (32 ≤ h.val))
def allEngines : List (Fin 128) := List.finRange 128
def allCores : List (Fin 64) := List.finRange 64

def Dev.halfCount (d : Dev) (h : Half) : Word := Two.get d.count h
def Dev.dieCount (d : Dev) : Die → Word
  | .west => d.count.w
  | .east => d.count.e
  | .hub => d.hubCount

/-- The node number that fields of this node report: 0xFF while not joined (R611). -/
def Dev.ownNode (d : Dev) : Nat := if d.chain.joined then d.chain.node else 0xFF

/-! ### Register access: x0 reads zero and discards writes -/

def Engine.rx (e : Engine) (r : Fin 32) : Word := if r.val = 0 then 0 else tgetD e.x r.val 0
def Engine.wx (e : Engine) (r : Fin 32) (v : Word) : Engine :=
  if r.val = 0 then e else { e with x := tput e.x r.val v }
def Engine.rf (e : Engine) (r : Fin 32) : Word := tgetD e.f r.val 0
def Engine.wf (e : Engine) (r : Fin 32) (v : Word) : Engine := { e with f := tput e.f r.val v }
def Engine.rv (e : Engine) (r : Nat) : BitVec 2048 := tgetD e.v (r % 32) 0
def Engine.wv (e : Engine) (r : Nat) (v : BitVec 2048) : Engine := { e with v := tput e.v (r % 32) v }
/-- Retire the current instruction of 4 bytes; a single step ends with it (R553). -/
def Engine.retire (e : Engine) : Engine :=
  { e with pc := e.pc + 4, instret := e.instret + 1, cycle := e.cycle + 1, run := .running,
           halted := e.halted || e.stepping, stepping := false, mid := false }
def Core.rx (c : Core) (r : Fin 32) : Word := if r.val = 0 then 0 else tgetD c.x r.val 0
def Core.wx (c : Core) (r : Fin 32) (v : Word) : Core :=
  if r.val = 0 then c else { c with x := tput c.x r.val v }

/-! ### Status codes and dies (Table 14.10, Table 14.9) -/

def statusCode : Status → Nat
  | .ok => 0x00
  | .discarded => 0x01
  | .poison => 0x02
  | .translationAbort => 0x03
  | .engineException => 0x04
  | .userFail => 0x05
  | .malformed => 0x06
  | .grantViolation => 0x07
  | .unmapped => 0x08
  | .badImage => 0x09
  | .unsatisfiable => 0x0A
  | .rennetType => 0x0B
  | .unreachable => 0x0C
  | .lostStore => 0x0D
  | .busy => 0x10
  | .ctxActive => 0x11
  | .noFault => 0x12
  | .regionHeld => 0x13
  | .framesInUse => 0x14
  | .noTier => 0x15
  | .forbidden => 0x16
  | .topologyFull => 0x17
  | .badCommand => 0x18
  | .noObject => 0x19
  | .overlap => 0x1A
  | .regionTarget => 0x1B
  | .ringOverrun => 0x1C
  | .joined => 0x1D
  | .notReady => 0x1E
  | .containing => 0x1F
  | .exhausted => 0x20

/-! ### Addresses (R21 to R28, R309, R403) -/

/-- Where a global address leads for an agent other than an application core. -/
inductive Target where
  | umr (off : Nat)
  | vat (off : Nat)
  | rennet (obj : Nat) (byte : Nat)
  | privileged
  | reserved
  | host (addr : Nat)
  | remote (node : Nat) (off : Nat)
deriving DecidableEq, Repr

def vatBase : Nat := 0xF00000000000
def rennetBase : Nat := 0xFE0000000000
/-- The global address of an object of this node (R21, R24). -/
def objAddr (obj : Nat) : Nat := 0xFF * 2 ^ 48 + rennetBase + 64 * obj
def vatSize : Nat := 0xC000000
def frameSize : Nat := 0x200000

/-- The local offset of a 29-bit Vat address (Table 1.6). -/
def vatOff (v : Nat) : Nat := vatBase + v
/-- Whether a local offset lies in a Vat (Table 1.6). -/
def isVat (off : Nat) : Bool := vatBase ≤ off && off < vatBase + 0x20000000 && (off - vatBase) % 0x10000000 < vatSize
/-- The half that owns a Vat offset: bit 28 of the Vat address. -/
def vatHalf (off : Nat) : Half := halfOf (bit (off - vatBase) 28)

/-- Table 1.6, by local offset. -/
def localTarget (off : Nat) : Target :=
  if off < 0x400000000000 then .umr off
  else if isVat off then .vat off
  else if rennetBase ≤ off && off < rennetBase + 0x800000 then .rennet ((off - rennetBase) / 64) (off % 64)
  else if 0xFF0000000000 ≤ off then .privileged
  else .reserved

/-- A global address (R21, R403): `viaLeaf` when it comes from a page-table leaf, a register or an operand. -/
def Dev.target (d : Dev) (viaLeaf : Bool) (a : Nat) : Target :=
  let node := fld a 48 8
  let off := a % 2 ^ 48
  if node = 0xFF || (d.chain.joined && node = d.chain.node) then localTarget off
  else if node < 64 then .remote node off
  else if node = 0xFD && viaLeaf then .host off
  else .reserved

def frameOf (off : Nat) : Nat := off / frameSize
def lineOf (off : Nat) : Nat := off / 64

def Dev.frame (d : Dev) (f : Nat) : Frame := tgetD d.tiers.frames f {}
def Dev.backing (d : Dev) (off : Nat) : Back := (d.frame (frameOf off)).back
def Dev.backed (d : Dev) (off : Nat) : Bool := d.backing off != .unbacked

/-- The home half of a UMR line (R28). -/
def Dev.homeHalf (d : Dev) (off : Nat) : Half :=
  let fr := d.frame (frameOf off)
  if fr.il then halfOf (bit off 12) else fr.home

/-- The home slice within a half (R246), numbered 0–15 West and 16–31 East. -/
def Dev.slice (d : Dev) (off : Nat) : Nat :=
  let s := Nat.xor (Nat.xor (fld off 7 4) (fld off 13 4)) (Nat.xor (fld off 17 4) (fld off 21 4))
  16 * halfIdx (d.homeHalf off) + s

/-- Reachability of another node (before R430): LIVE in the slot table, and a route exists (R405). -/
def Dev.live (d : Dev) (n : Nat) : Bool :=
  d.chain.joined && (match tget d.chain.slots n with | some s => s.st == .live | none => false)

/-! ### Chain ports -/

def Dev.port (d : Dev) (p : Nat) : Port := tgetD d.chain.ports p {}
def Dev.modPort (d : Dev) (p : Nat) (f : Port → Port) : Dev := d.modChain (fun c => { c with ports := tput c.ports p (f (d.port p)) })

/-! ### Memory of the node -/

def Dev.rd (d : Dev) (off n : Nat) : List Byte := cellsGet d.mem off n
def Dev.wr (d : Dev) (off : Nat) (bs : List Byte) : Dev := { d with mem := cellsPut d.mem off bs }
def Dev.isPoison (d : Dev) (line : Nat) : Bool := d.poison.contains line
def Dev.setPoison (d : Dev) (line : Nat) : Dev :=
  if d.isPoison line then d else { d with poison := line :: d.poison }
def Dev.clrPoison (d : Dev) (line : Nat) : Dev := { d with poison := d.poison.filter (· != line) }
def Dev.modFrame (d : Dev) (f : Nat) (g : Frame → Frame) : Dev :=
  d.modTiers (fun t => { t with frames := tmod t.frames f g })

/-- HEAT counts a REQ or RED that a home accepts (R345). -/
def Dev.heatUp (d : Dev) (off : Nat) : Dev := d.modFrame (frameOf off) (fun f => { f with heat := min 255 (f.heat + 1) })

/-- HEAT for the reads of a byte range, one REQ for each line of it. -/
def Dev.heatLines (d : Dev) (off n : Nat) : Dev :=
  foldDev d ((List.range (n / 64 + 2)).filter (fun i => decide ((off / 64 + i) * 64 < off + n)))
    (fun d i => d.heatUp ((off / 64 + i) * 64))

/-- PSN follows the poison of a frame's lines (R371). -/
def Dev.fixPsn (d : Dev) (f : Nat) : Dev :=
  d.modFrame f (fun x => { x with psn := d.poison.any (fun l => l / 32768 == f) })

/-- Whether a state lets a core supply data (Table 8.2), with the transient states that still hold it. -/
def ownsData : CSt → Bool
  | .m => true
  | .o => true
  | .e => true
  | .omD => true
  | _ => false

/-- The core that owns a line of this node's UMR, if any, with its copy. -/
def Dev.owner (d : Dev) (gl : Nat) : Option (Fin 64 × CLine) :=
  allCores.findSome? (fun h =>
    match tget (d.core h).lines gl with
    | some l => if ownsData l.st then some (h, l) else none
    | none => none)

/-- The key of an own line in core caches, filter and directory: its local line number. A line of another node has the
node number above it. -/
def lineKey (node off : Nat) : Nat := (node + 1) * 2 ^ 42 + off / 64
def ownKey (off : Nat) : Nat := off / 64

/-- Data of a line that has left its owner and is not in memory yet: a write-back, dirty Data or an answer with data in flight, or
a write-back that waits for a fill (R353), with its poison flag. -/
def Dev.flying (d : Dev) (gl : Nat) : Option (List Byte × Bool) :=
  ((d.coh.noc ++ d.coh.held).find? (fun m =>
    (m.kind == .wbDirty || m.kind == .snpAck || (m.kind == .data && (m.st == .m || m.dirty))) && m.addr / 64 == gl && m.bytes.length == 64)).map
    (fun m => (m.bytes, m.poison))

/-- The directory entry of a line that another node owns: its data lies there. -/
def Dev.farOwner (d : Dev) (gl : Nat) : Option DirEnt :=
  match tget d.coh.dir gl with
  | some e => if e.mode = .shared then none else some e
  | none => none

/-- The byte a read performed at the home returns: an owner's copy, else memory (R261, RdOnce). A line that another node owns
is a free value where no answer of that node is at hand (log 7). -/
def Dev.cohByte (d : Dev) (off : Nat) : Byte :=
  match d.owner (ownKey off), d.flying (ownKey off), d.farOwner (ownKey off) with
  | some (_, l), _, _ => lgetD l.data (off % 64) 0
  | none, some (bs, _), _ => lgetD bs (off % 64) 0
  | none, none, some e => Config.freeByte (2 ^ 80 + 2 ^ 50 * e.seq + off)
  | none, none, none => cellGet d.mem off

def Dev.cohRead (d : Dev) (off : Nat) : Nat → List Byte
  | 0 => []
  | n + 1 => d.cohByte off :: d.cohRead (off + 1) n

/-- Whether a line's data lies at another node that owns it. -/
def Dev.lineFar (d : Dev) (l : Nat) : Bool := (d.owner l).isNone && (d.flying l).isNone && (d.farOwner l).isSome

/-- The lines of a byte range that another node owns. -/
def Dev.farLines (d : Dev) (off n : Nat) : List Nat :=
  ((List.range (n / 64 + 2)).map (off / 64 + ·)).filter (fun l => decide (l * 64 < off + n) && d.lineFar l)

/-- The status of a code of Table 14.10 that an answer carries. -/
def statusOf (n : Nat) : Status :=
  match n with
  | 0x02 => .poison
  | 0x06 => .malformed
  | 0x0B => .rennetType
  | 0x0C => .unreachable
  | _ => .unmapped

/-- What another node answers to a read of `n` bytes: the bytes, or a status in place of them (log 62). -/
def extAnswer (ext : List Byte) (n : Nat) : Except Status (List Byte) :=
  if n ≤ ext.length then .ok (ext.take n) else .error (statusOf (lgetD ext 0 8).toNat)

/-- A read performed at the home (Table 8.6, RdOnce): memory, an owner's copy, and for a line that another node owns that
node's answer to the SnpOnce that goes to it. -/
def Dev.homeRead (d : Dev) (off n : Nat) (ext : List Byte) : Except Status (List Byte × Dev) :=
  let fs := d.farLines off n
  if fs.isEmpty then .ok (d.cohRead off n, d)
  else match extAnswer ext n with
    | .error st => .error st
    | .ok bs =>
      let ask := fs.filterMap (fun l => (d.farOwner l).map (fun e =>
        ({ kind := .snpOnce, who := .node (Fin.ofNat 64 e.owner), addr := 64 * l } : NMsg)))
      .ok ((List.range n).map (fun i => if fs.contains ((off + i) / 64) then lgetD bs i 0 else d.cohByte (off + i)),
           d.modCoh (fun c => { c with noc := c.noc ++ ask }))

/-- Whether one line reads as poison: by its latest copy. Of a line that another node owns, that node's answer tells. -/
def Dev.linePoison (d : Dev) (l : Nat) : Bool :=
  match d.owner l, d.flying l, d.farOwner l with
  | some (_, c), _, _ => c.poison
  | none, some (_, p), _ => p
  | none, none, some _ => false
  | none, none, none => d.isPoison l

/-- Whether any line of a byte range reads as poison (R278). -/
def Dev.cohPoison (d : Dev) (off n : Nat) : Bool :=
  (List.range (n / 64 + 2)).any (fun i => decide ((off / 64 + i) * 64 < off + n) && d.linePoison (off / 64 + i))

/-- Bits that a write to a line sets in WDIRTY and in a running migration's mask (R346, Table 11.5). -/
def Dev.markDirty (d : Dev) (off : Nat) : Dev :=
  let f := frameOf off
  let j := (off % frameSize) / 65536
  d.modTiers (fun t =>
    { t with
      frames := tmod t.frames f (fun x => { x with wdirty := x.wdirty ||| BitVec.ofNat 32 (2 ^ j) })
      moves := tmod t.moves f (fun m => if m.fill then m else { m with mask := m.mask ||| BitVec.ofNat 32 (2 ^ j) }) })

/-- What losing a line does to a core's copy: a stable copy goes, a claim becomes a request for data (Table 8.8). -/
def coreDrop (c : Core) (gl : Nat) : Core :=
  let lines := match tget c.lines gl with
    | some l =>
      (match l.st with
       | .m => tdel c.lines gl
       | .o => tdel c.lines gl
       | .e => tdel c.lines gl
       | .s => tdel c.lines gl
       | .smD => tput c.lines gl { l with st := .imD, data := [] }
       | .omD => tput c.lines gl { l with st := .imD, data := [] }
       | _ => c.lines)
    | none => c.lines
  { c with lines := lines, resv := if c.resv = some (gl / 2) then none else c.resv }

/-- Whose an engine reservation is: an engine of this node, or one of another node by the unit that its packets name. -/
def EngResv.of (r : EngResv) (who : Agent) (sub : Option Agent) : Bool :=
  r.who == who && (match who with | .node _ => r.sub == sub | _ => true)

/-- Lose the engine reservations that a write by another agent touches (R277). -/
def Dev.loseResv (d : Dev) (off : Nat) (who : Agent) (sub : Option Agent) : Dev :=
  d.modCoh (fun c => { c with resvs := c.resvs.filter (fun r => r.granule != off / 128 || r.of who sub) })

/-- Split a run of bytes at 64-byte lines: (offset, bytes). -/
def splitLines : Nat → Nat → List Byte → List (Nat × List Byte)
  | 0, _, _ => []
  | _ + 1, _, [] => []
  | k + 1, off, bs =>
    let n := 64 - off % 64
    (off, bs.take n) :: splitLines k (off + n) (bs.drop n)

def lines64 (off : Nat) (bs : List Byte) : List (Nat × List Byte) := splitLines (bs.length + 1) off bs

/-- What the reads of a range of this node's UMR leave behind at its home: HEAT, and SnpOnce to the nodes that own its lines. -/
def Dev.homeTouch (d : Dev) (off n : Nat) : Dev :=
  match d.homeRead off n (List.replicate n 0) with
  | .ok r => r.2.heatLines off n
  | .error _ => d

/-! ### Events and interrupts (R459 to R462) -/

/-- Room in the event ring by the head register (R585): none while disabled, draining, or with an impossible head. -/
def HostIf.evtRoom (h : HostIf) : Nat :=
  if h.evt.en && !h.evt.draining then
    let used := (h.evtTail - h.evtHead).toNat
    if used ≤ 2 ^ h.evt.log2 then 2 ^ h.evt.log2 - used else 0
  else 0

/-- Whether one more ADMIN_DONE could be held (R459). -/
def HostIf.canHold (h : HostIf) : Bool := decide (h.evtQ.length < h.evtRoom + 256)

def sat32 (n : Nat) : Nat := min n 0xFFFFFFFF

/-- Raise an event record; beyond 256 held records every kind but ADMIN_DONE is dropped and counted (R459). -/
def Dev.raise (d : Dev) (e : Event) : Dev :=
  let e := { e with t := d.dieCount e.die }
  d.modHost (fun h =>
    if h.canHold || e.kind = 1 then { h with evtQ := h.evtQ ++ [e] }
    else { h with evtDrop := sat32 (h.evtDrop + 1), evtLost := h.evtLost + 1 })

def evt (kind : Nat) (st : Status) (die : Die) (info a0 a1 : Nat) : Event :=
  { kind := BitVec.ofNat 7 kind, status := st, die := die, info := BitVec.ofNat 32 info,
    a0 := BitVec.ofNat 64 a0, a1 := BitVec.ofNat 64 a1 }

/-- A RELIABILITY event (R530). -/
def relEvt (cause : Nat) (u : UnitId) (a0 a1 : Nat) : Event :=
  evt 12 .ok u.die (cause + 256 * u.code.val + 65536 * u.unit.toNat) a0 a1

/-- POWER and THERMAL events (Table 16.11). -/
def powEvt (cause sub a0 a1 : Nat) (die : Die) : Event := evt 17 .ok die (cause + 256 * sub) a0 a1
def thermEvt (cause sub a0 a1 : Nat) (die : Die) : Event := evt 13 .ok die (cause + 256 * sub) a0 a1
/-- SECURITY events (Table 18.11). -/
def secEvt (cause a0 a1 : Nat) : Event := evt 14 .ok .hub cause a0 a1

/-- Signal an interrupt binding (R461): an MSI-X vector, pending while masked, or an IMSIC identity. -/
def Dev.signal (d : Dev) (b : Word) : Dev :=
  let v := b.toNat
  if !bit v 0 then
    let vec := fld v 1 11
    let m := tgetD d.host.msix vec {}
    if m.mask then d.modHost (fun h => { h with msix := tput h.msix vec { m with pending := true } })
    else d.emit (.msix vec m.addr m.data)
  else
    let hart : Fin 64 := Fin.ofNat 64 (fld v 12 6)
    let file := if bit v 21 then 8 else fld v 18 3
    let ident := fld v 22 11
    if ident = 0 then d
    else d.modCore hart (fun c =>
      { c with imsic := if c.imsic.contains (file, ident) then c.imsic else c.imsic ++ [(file, ident)] })

/-! ### Completion records (R452, R453, R527) -/

/-- Queue a record for a context's completion ring; a record for a context that does not exist is dropped (R529). -/
def Dev.queueRec (d : Dev) (c : Nat) (r : CRec) : Dev := d.modCtx c (fun x => { x with recs := x.recs ++ [r] })

/-- Every context of an allocation (R337). -/
def Dev.allocCtxs (d : Dev) (a : Nat) : List Nat :=
  match tget d.tiers.allocs a with
  | some x => x.ctx :: x.attach
  | none => []

/-- A DATA_LOST (kind 2) or DATA_CORRECTED (kind 3) record (Table 17.5) to every context of the frame's allocation. -/
def Dev.dataRec (d : Dev) (kind : Nat) (off : Nat) (gran : Bool) (source : Nat) (die : Die) : Dev :=
  let f := frameOf off
  let fr := d.frame f
  let st := if kind = 2 then 2 else 0
  let w1 := fr.alloc + at_ 16 (b2n gran) + at_ 17 source + at_ 19 (dieIdx die) + at_ 32 f
  let r : CRec :=
    { w0 := BitVec.ofNat 64 (at_ 1 kind + at_ 4 st), w1 := BitVec.ofNat 64 w1,
      w2 := BitVec.ofNat 64 (at_ 48 d.ownNode + off), w3 := d.dieCount die }
  foldDev d (d.allocCtxs fr.alloc) (fun d c => d.queueRec c r)

/-- Poison a line that the device has lost and tell every context of its allocation (R529); a poisoned line produces no
further record. -/
def Dev.loseLine (d : Dev) (off : Nat) (source : Nat) (die : Die) : Dev :=
  let l := off / 64
  if d.isPoison l then d
  else ((d.setPoison l).fixPsn (frameOf off)).dataRec 2 (l * 64) false source die

/-- Table 6.9 codes of an issuer: SRCT and SRCID. -/
def agentSrc : Agent → Nat × Nat
  | .engine e => (0, engIdx e)
  | .tongs e c => (1, 4 * engIdx e + c.val)
  | .core h => (3, h.val)
  | .aperture i => (4, i.val)
  | .region r => (5, r.val)
  | _ => (6, 0)

/-- The offset of an address within an aperture (R436). -/
def Dev.apOffset (d : Dev) (i : Fin 32) (a : Nat) : Nat :=
  (2 ^ 48 + a - (tgetD d.host.ap i.val {}).base.toNat * 2 ^ 21 % 2 ^ 48) % 2 ^ 28

/-- An APERTURE event (R438, Table 14.9). -/
def apEvent (i off : Nat) (st : Status) : Event := evt 8 st .hub i off 0

/-- The agent of this node that a source of Rennet operations is (Table 6.9). -/
def Dev.srcAgent (d : Dev) (s : RSrc) : Option Agent :=
  let h := halfIdx s.half
  let n := s.srcid.toNat
  if s.node.toNat ≠ d.ownNode && s.node.toNat ≠ 0xFF then none
  else match s.srct.toNat with
    | 0 => some (.engine (Fin.ofNat 128 (64 * h + n)))
    | 1 => some (.tongs (Fin.ofNat 128 (64 * h + n / 4)) (Fin.ofNat 4 n))
    | 3 => some (.core (Fin.ofNat 64 (32 * h + n)))
    | 4 => some (.aperture (Fin.ofNat 32 n))
    | 5 => some (.region (Fin.ofNat 4096 n))
    | _ => none

/-- A LOST_STORE record for one discarded write message (R527, R528): to the issuing context, and for an application core
to the event ring. A host's data write raises the event of R438; its signal gives a record to the aperture's context (R211). -/
def Dev.lostStore (d : Dev) (src : Agent) (ctx : Option Nat) (step : Option Nat) (node addr len : Nat) (red : Bool)
    (sg : Bool := false) : Dev :=
  match src, sg with
  | .core h, _ => d.raise (evt 5 .lostStore .hub h.val addr 0)
  | .aperture i, false => d.raise (apEvent i.val (d.apOffset i addr) .unreachable)
  | _, _ =>
    let (st, sid) := agentSrc src
    let inc := match tget d.chain.slots node with | some s => s.inc.toNat | none => 0
    let sp := match step with | some n => d.step? n | none => none
    let ring := match sp with | some s => s.ring | none => 0
    let idx := match sp with | some s => s.count.toNat | none => 0
    let tag : Word := match sp with | some s => s.desc.tag | none => 0
    let w0 := at_ 1 1 + at_ 4 (statusCode .lostStore) + at_ 12 ring + at_ 32 idx
    let w1 := inc + at_ 4 st + at_ 7 (b2n red) + at_ 8 sid + at_ 24 (len - 1) + at_ 32 node
    match ctx with
    | some c => d.queueRec c { w0 := BitVec.ofNat 64 w0, w1 := BitVec.ofNat 64 w1, w2 := BitVec.ofNat 64 addr, w3 := tag }
    | none => d

/-! ### The end of a step (R128, R158, R168, R511) -/

/-- A packet for another node, before its stream numbers it (Table 13.4). -/
def Dev.packet (d : Dev) (dst : Nat) (cls : Fin 8) (utype unit : Nat) (uinc : BitVec 4) (ctx pd tag len : Nat) (body : ChainBody) : ChainPkt :=
  { dst := BitVec.ofNat 8 dst, src := BitVec.ofNat 8 d.chain.node, cls := cls, vset := 0, utype := BitVec.ofNat 3 utype,
    sinc := d.chain.inc, dinc := match tget d.chain.slots dst with | some s => s.inc | none => 0, seq := 0,
    unit := BitVec.ofNat 10 unit, uinc := uinc, rsvd := false, pd := BitVec.ofNat 8 pd, ctx := Fin.ofNat 4096 ctx,
    len := BitVec.ofNat 5 ((len + 15) / 16), acls := 0, tag := BitVec.ofNat 32 tag, body := body }

/-- Queue, at its source, an object's answer to a wait of another node. -/
def Dev.answerWaiter (d : Dev) (w : Waiter) (st : Status) (v : Word) : Dev :=
  let n := w.src.node.toNat
  match w.tag with
  | some t =>
    let k := d.packet n 2 5 (w.obj % 65536 / 4096 + 512 * (w.obj / 65536)) 0 w.src.ctx.val w.src.pd.toNat t 16
      (.answer (BitVec.ofNat 32 t) st (if st = .ok then leBytes 8 v.toNat else []))
    if d.live n then d.modChain (fun c => { c with waitSend := c.waitSend ++ [(n, k)] }) else d
  | none => d

/-- Cancel the waits that an engine has at other nodes (R208): their tags are forgotten, so that a wake in flight is
discarded, and each node is told. -/
def Dev.cancelFar (d : Dev) (e : Fin 128) : Dev :=
  let qs := d.chain.reqs.filter (fun q => q.eng == e)
  let ks := (qs.filter (fun q => d.live q.node)).map (fun q =>
    let obj := (q.addr % 2 ^ 48 - rennetBase) / 64
    (q.node, d.packet q.node 6 1 (engIdx e + 512 * (e.val / 64)) 0 0 0 q.tag 16
      (.rennetCancel (Fin.ofNat 131072 obj) (BitVec.ofNat 32 q.tag))))
  d.modChain (fun c => { c with reqs := c.reqs.filter (fun q => q.eng != e), waitSend := c.waitSend ++ ks })

/-- Give up an engine's wait (R129, R208): its registration here or at another node, the wait or its wake in flight, and an
issue that has not entered. -/
def Dev.abandon (d : Dev) (e : Fin 128) : Dev :=
  let waits := match (d.eng e).run with | .rwait _ _ _ => true | _ => false
  let d := if waits then d.cancelFar e else d
  let d := d.modRennet (fun r =>
    { r with
      waiters := r.waiters.filter (fun w => w.eng != e || w.tag.isSome)
      msgs := r.msgs.filter (fun m => match m with
        | .wake g _ => g != e
        | .wait s _ _ _ none => d.srcAgent s != some (.engine e)
        | _ => true) })
  d.modAnvil (fun a => { a with issues := a.issues.filter (· != e) })

/-- Take a user off a fault record. -/
def FRec.dropUser (r : FRec) (u : XUser) : FRec := { r with users := r.users.filter (· != u) }

/-- A user that goes no further no longer waits for a walk, nor on a fault record (R313). -/
def Dev.dropUser (d : Dev) (u : XUser) : Dev :=
  let f (x : Xlate) : Xlate :=
    { x with
      walks := x.walks.map (fun w => { w with users := w.users.filter (fun q => q.user != u) })
      recs := x.recs.map (fun p => (p.1, p.2.dropUser u))
      waiting := (x.waiting.map (·.dropUser u)).filter (fun r => !r.users.isEmpty) }
  { d with xlate := ⟨f d.xlate.w, f d.xlate.e⟩ }

/-- Stop an engine at an instruction boundary. -/
def Dev.stopEng (d : Dev) (e : Fin 128) : Dev :=
  ((d.abandon e).dropUser (.engine e)).modEng e (fun x => { x with run := .stopped, mid := false })

/-- A stall of a context, if there was one, has ended: the detector may report a new one (R217). -/
def Dev.stallEnds (d : Dev) (c : Nat) : Dev :=
  d.modRennet (fun r => { r with fired := r.fired.filter (fun x => x != c && x != 4095) })

/-- Whether an instruction in progress has begun an effect that it must complete before its engine stops (R129, R168): a
store, a signal or an atomic whose release has not completed, or an operation that awaits its answer. -/
def EngRun.mustEnd : EngRun → Bool
  | .release _ (.store _ _) => true
  | .release _ (.signal _ _) => true
  | .release _ (.add _ _ _ _) => true
  | .release _ (.amo _ _ _ _) => true
  | .reply _ _ _ => true
  | _ => false

/-- Whether an engine must first perform the rest of its instruction (R129). -/
def Engine.mustEnd (x : Engine) : Bool := x.run.mustEnd || x.mid

/-- Stop the engines of a step at their next instruction boundary; an engine whose instruction must complete goes on to its
end, after which nothing lets it run. -/
def Dev.stopAll (d : Dev) (n : Nat) (es : List (Fin 128)) : Dev :=
  foldDev d es (fun d e => if (d.eng e).step = some n && !(d.eng e).mustEnd then d.stopEng e else d)

/-- End a step: its outcome is fixed once, its engines stop, and it waits in phase 5 for what it has issued. A
pre-emption in progress is cancelled (R473). -/
def Dev.endStep (d : Dev) (n : Nat) (o : Outcome) : Dev :=
  match d.step? n with
  | none => d
  | some s =>
    if s.outcome.isSome || s.phase == .recorded || s.phase == .draining then d
    else
      let d := d.stopAll n s.engines
      (d.modStep n (fun s => { s with outcome := some o, phase := .draining, victimOf := none })).stallEnds s.ctx

/-- End a step for an error of Table 17.1. -/
def Dev.failStep (d : Dev) (n : Nat) (st : Status) (detail : Nat) (addr : Nat) : Dev :=
  d.endStep n { status := st, detail := BitVec.ofNat 32 detail, addr := BitVec.ofNat 64 addr }

/-- End the step that holds an engine; the engine's own instruction does not complete. -/
def Dev.failEng (d : Dev) (e : Fin 128) (st : Status) (detail addr : Nat) : Dev :=
  match (d.eng e).step with
  | some n => (d.stopEng e).failStep n st detail addr
  | none => d

/-- An engine exception (R128): the step completes with the cause, the engine and the address. -/
def Dev.engExc (d : Dev) (e : Fin 128) (cause : Nat) (addr : Nat) : Dev :=
  match (d.eng e).step with
  | some n =>
    (d.stopEng e).endStep n { status := .engineException, addr := BitVec.ofNat 64 addr, eng := some e, cause := BitVec.ofNat 6 cause }
  | none => d

/-- The step's operations that no half has started leave both queues; the step keeps them as they were read (R72). -/
def Dev.unqueue (d : Dev) (n : Nat) : Dev :=
  let gone := d.anvil.ops.filter (fun p => p.2.step == n && !p.2.started.w && !p.2.started.e)
  let ids := gone.map (·.1)
  let d := d.modAnvil (fun a =>
    { a with
      ops := a.ops.filter (fun p => !ids.contains p.1)
      queue := ⟨a.queue.w.filter (fun i => !ids.contains i), a.queue.e.filter (fun i => !ids.contains i)⟩ })
  d.modStep n (fun s => { s with lostOps := gone.map (·.2) ++ s.lostOps })

/-- Remove every wait registered on an object; each waiting step completes with UNMAPPED (R198). -/
def Dev.dropWaits (d : Dev) (obj : Nat) (st : Status) : Dev :=
  let ws := d.rennet.waiters.filter (fun w => w.obj == obj)
  let d := d.modRennet (fun r => { r with waiters := r.waiters.filter (fun w => w.obj != obj) })
  foldDev d ws (fun d w => if w.tag.isSome then d.answerWaiter w st 0 else d.failEng w.eng st 0 (objAddr obj))

/-- Return objects to their pool (R198, R610). -/
def Dev.freeObjs (d : Dev) (first count : Nat) : Dev :=
  let d := foldDev d ((List.range count).filter (fun i => d.rennet.waiters.any (fun w => w.obj == first + i)))
    (fun d i => d.dropWaits (first + i) .unmapped)
  d.modRennet (fun r =>
    { r with objs := r.objs.filter (fun p => p.1 < first || first + count ≤ p.1)
             last := r.last.filter (fun p => p.1 < first || first + count ≤ p.1) })

/-- Whether a step's grant and engines lie in the save area (R191). -/
def Step.saved (s : Step) : Bool := !s.saveEng.isEmpty

/-- Whether a saved step no longer holds its engines and Vat bytes, but only reserves them (R475): from the end of its save to
the start of its restore. -/
def Dev.away (d : Dev) (n : Nat) (s : Step) : Bool := s.saved && s.engines.all (fun e => (d.eng e).step != some n)

/-- The 64 KiB units of a range that nobody else holds, joined where they meet. -/
def unitsLeft (r : Nat × Nat) (busy : Nat → Bool) : List (Nat × Nat) :=
  (List.range (r.2 / 65536)).foldl (fun l i =>
    let a := r.1 + 65536 * i
    if busy a then l
    else match l.getLast? with
      | some (b, n) => if b + n = a then l.dropLast ++ [(b, n + 65536)] else l ++ [(a, 65536)]
      | none => [(a, 65536)]) []

/-- Whether a byte of a half's Vat belongs to a step on the chip other than `n`, or is to be cleared already. -/
def Dev.vatTaken (d : Dev) (h : Half) (n a : Nat) : Bool :=
  let holds (r : Nat × Nat) : Bool := decide (r.1 ≤ a) && decide (a < r.1 + r.2)
  d.sched.steps.any (fun p => p.1 != n && !d.away p.1 p.2 && holds (Two.get p.2.vat h)) ||
  (Two.get d.sched.half h).clearing.any holds

/-- Return a step's engines, Vat ranges and Rennet range (phase 6). Returned Vat bytes are not free until cleared (R609); of a
step in the save area, those that no other step has taken. -/
def Dev.release (d : Dev) (n : Nat) : Dev :=
  match d.step? n with
  | none => d
  | some s =>
    let away := d.away n s
    let d := foldDev d s.engines (fun d e =>
      if (d.eng e).step = some n then d.modEng e (fun x => { x with run := .idle, step := none, l1d := [], l1i := [] }) else d)
    let clear (d : Dev) (h : Half) : Dev :=
      let r := Two.get s.vat h
      let rs := if away then unitsLeft r (d.vatTaken h n) else [r]
      if r.2 = 0 then d
      else d.modSched (fun sc =>
        { sc with half := Two.mod sc.half h (fun x => { x with clearing := x.clearing ++ rs }) })
    let d := clear (clear d .west) .east
    let d := d.freeObjs s.ren.w.1 s.ren.w.2
    let d := d.freeObjs s.ren.e.1 s.ren.e.2
    d.modStep n (fun s =>
      { s with engines := [], vat := ⟨(0, 0), (0, 0)⟩, ren := ⟨(0, 0), (0, 0)⟩, image := {}, saveVat := ⟨[], []⟩,
               saveEng := [], saveTongs := [], victimOf := none })

/-- The completion record of a step (Table 14.6). -/
def stepRec (n : Nat) (s : Step) : CRec :=
  let o := s.outcome.getD {}
  let half := match o.eng with | some e => halfIdx (engHalf e) | none => 0
  let ve := match o.eng with | some e => engIdx e | none => 0
  { w0 := BitVec.ofNat 64 (at_ 4 (statusCode o.status) + at_ 11 half + at_ 12 s.ring + at_ 26 ve + at_ 32 s.count.toNat +
      at_ 48 s.nsum.toNat + at_ 53 o.cause.toNat),
    w1 := BitVec.ofNat 64 (o.ucode.toNat + at_ 32 o.detail.toNat), w2 := o.addr, w3 := s.desc.tag,
    ring := some s.ring, step := some n, ok := o.status == .ok }

/-- Room in a context's completion ring by the last head word read (R452). -/
def Ctx.room (c : Ctx) : Nat := 2 ^ c.log2 - (c.posted - c.headVal)

/-- Queue a step's completion record. Its grants go back at once when the ring has room for it, and with the record
otherwise (R452). -/
def Dev.finish (d : Dev) (n : Nat) : Dev :=
  match d.step? n with
  | none => d
  | some s =>
    let d := d.modStep n (fun s => { s with phase := .recorded })
    let room := match d.ctx? s.ctx with | some c => decide (c.recs.length < c.room) | none => true
    let r := stepRec n s
    let d := if room then d.release n else d
    match d.ctx? s.ctx with
    | some _ => d.queueRec s.ctx r
    | none => d.modSched (fun x => { x with steps := tdel x.steps n })

/-- A step that completes without running (R165, R449, R451). -/
def Dev.completeNow (d : Dev) (n : Nat) (st : Status) (addr : Word) (detail : Nat := 0) : Dev :=
  (d.modStep n (fun s => { s with outcome := some { status := st, detail := BitVec.ofNat 32 detail, addr := addr } })).finish n

/-! ### Admin commands (R454 to R456) -/

/-- An ADMIN_DONE event for a command (Table 14.9). -/
def Dev.adminDone (d : Dev) (cid slot : BitVec 16) (st : Status) (lo hi : Nat) : Dev :=
  d.raise (evt 1 st .hub (cid.toNat + 65536 * slot.toNat) lo hi)

/-- Whether the device fetches an admin command now: ready, enabled, one announced, and its ADMIN_DONE can be held
(R454, R459, R573, R584). -/
def Dev.adminOpen (d : Dev) : Bool :=
  d.boot.st == .ready && d.host.adm.en && !d.host.admBusy && !(d.host.admHead == d.host.admTail) && d.host.canHold &&
    d.power.pstate != .cold

/-- What a command did: its status, its result and the package after it. -/
structure AdmRes where
  st : Status := .ok
  lo : Nat := 0
  hi : Nat := 0
  dev : Dev

/-- Operand word `i`, counted from 0. -/
def admOp (c : AdmCmd) (i : Nat) : Nat := (lgetD c.ops i 0).toNat

/-- Whether words `n` and up are zero, as R455 asks of bits no operand uses. -/
def admOnly (c : AdmCmd) (n : Nat) : Bool := !c.rsvd && (c.ops.drop n).all (fun w => w == 0)

/-- Whether an operand word holds a global address: 56 bits, and above them only RSVD bits (R455). -/
def admAddr (c : AdmCmd) (i : Nat) : Bool := decide (admOp c i < 2 ^ 56)

/-- Perform a command that completes before the next one starts. -/
def Dev.admin (d : Dev) (c : AdmCmd) (f : Dev → AdmRes) : Dev :=
  if d.adminOpen then
    let slot := d.host.admHead
    let d := d.modHost (fun h => { h with admHead := h.admHead + 1 })
    let r := f d
    r.dev.adminDone c.cid slot r.st r.lo r.hi
  else d

/-- Accept a background command: a refusal is reported at once, an acceptance by ADMIN_COMMAND_COMPLETE. -/
def Dev.adminBg (d : Dev) (c : AdmCmd) (f : Dev → Status × Dev) (b : Background) : Dev :=
  if d.adminOpen then
    let slot := d.host.admHead
    let d := d.modHost (fun h => { h with admHead := h.admHead + 1 })
    match f d with
    | (.ok, d') => d'.modHost (fun h => { h with bg := tput h.bg slot.toNat (c.cid, b) })
    | (st, d') => d'.adminDone c.cid slot st 0 0
  else d

/-- Report a background command's completion (R456). -/
def Dev.bgDone (d : Dev) (slot : Nat) (st : Status) (lo : Nat) : Dev :=
  match tget d.host.bg slot with
  | some (cid, _) =>
    let d := d.modHost (fun h => { h with bg := tdel h.bg slot })
    d.adminDone cid (BitVec.ofNat 16 slot) st lo 0
  | none => d

end Sys2Proof.Machine
end

