-- ==== Sys2Proof/Machine/CaveFtl.lean ====
section
/-!
DEFINITION. The Cave's flash translation layer (R359 to R363): the population, its blocks and dies, parity stripes, the map of
logical units, wear, read disturb and retirement.
-/
namespace Sys2Proof.Machine

/-! ### The population (R359) -/

/-- Whether a target's parameter page is one that the controller drives. -/
def partOk (p : CavePart) : Bool :=
  p.onfi5 && decide (p.rate ≤ 3600) && p.pageData == 16384 && decide (2048 ≤ p.pageSpare) && decide (p.pagesPerBlock ≤ 4096) &&
  (p.bitsPerCell == 1 || p.bitsPerCell == 3 || p.bitsPerCell == 4) && decide (0 < p.pagesPerBlock) && decide (0 < p.dies * p.blocksPerDie)

/-- The part of a population that keeps the rules of R359, and its targets on each of the sixteen channels. -/
def cavePop (pop : List (List CavePart)) : Option (CavePart × Nat) :=
  match pop with
  | (p :: t) :: _ =>
    let n := t.length + 1
    if pop.length = 16 && decide (n ≤ 8) && partOk p && pop.all (fun c => c.length == n && c.all (· == p)) then some (p, n) else none
  | _ => none

/-! ### Places

Dies are numbered by channel, blocks by die and pages by block. A page holds four codewords. -/

def Cave.chanDies (c : Cave) : Nat := match c.pop with | some (p, n) => n * p.dies | none => 0
def Cave.dieBlocks (c : Cave) : Nat := match c.pop with | some (p, _) => p.blocksPerDie | none => 0
def Cave.blkPages (c : Cave) : Nat := match c.pop with | some (p, _) => p.pagesPerBlock | none => 0
def Cave.total (c : Cave) : Nat := 16 * c.chanDies * c.dieBlocks
def Cave.dieOfBlk (c : Cave) (b : Nat) : Nat := b / c.dieBlocks
def Cave.chanOfBlk (c : Cave) (b : Nat) : Nat := b / c.dieBlocks / c.chanDies
def Cave.blkOf (c : Cave) (p : Nat) : Nat := p / c.blkPages
def Cave.blk (c : Cave) (b : Nat) : CaveBlk := tgetD c.blks b {}

/-- Whether a block can hold data: not bad since manufacture, not retired, and on a die in service. -/
def Cave.good (c : Cave) (b : Nat) : Bool :=
  decide (b < c.total) && !c.factory.contains b && !(c.blk b).retired && !c.deadDies.contains (c.dieOfBlk b)

/-- Blocks that are bad of themselves, on dies in service. -/
def Cave.badBlks (c : Cave) : List Nat :=
  ((c.factory ++ (c.blks.filter (fun p => p.2.retired)).map (·.1)).eraseDups).filter
    (fun b => decide (b < c.total) && !c.deadDies.contains (c.dieOfBlk b))

def Cave.goodBlocks (c : Cave) : Nat :=
  c.total - (c.deadDies.filter (fun k => decide (k < 16 * c.chanDies))).length * c.dieBlocks - c.badBlks.length

/-- Raw capacity of the good blocks, in bytes (R361). -/
def Cave.rawBytes (c : Cave) : Nat := c.goodBlocks * c.blkPages * 16384

/-- Channels that have a die in service. -/
def Cave.channels (c : Cave) : List Nat :=
  (List.range 16).filter (fun ch => (List.range c.chanDies).any (fun k => !c.deadDies.contains (ch * c.chanDies + k)))

/-- Whether a channel has lost its last die (Table 11.7). -/
def Cave.lostChannel (c : Cave) : Bool := c.pop.isSome && decide (c.channels.length < 16)

/-- Blocks retired since manufacture, of their own failure (Table 11.8). -/
def Cave.grownBad (c : Cave) : Nat := (c.blks.filter (fun p => p.2.retired)).length

/-- Mean and highest erase count as percentages of the rated count (Table 11.8). -/
def Cave.wearAvg (c : Cave) : Nat :=
  match c.pop with
  | some (p, _) => min 255 ((c.blks.map (fun b => b.2.erases)).sum * 100 / (c.total * p.rated))
  | none => 0

def Cave.wearMax (c : Cave) : Nat :=
  match c.pop with
  | some (p, _) => min 255 (c.blks.foldl (fun m b => max m b.2.erases) 0 * 100 / p.rated)
  | none => 0

/-! ### What pages hold -/

/-- Pages of mapped units. -/
def Cave.livePages (c : Cave) : List Nat := c.map.flatMap (·.2)

/-- Stripes that still protect a mapped page. -/
def Cave.liveStripes (c : Cave) : List (List Nat) := c.stripes.filter (fun s => s.any c.livePages.contains)

/-- Pages whose contents matter: mapped ones, those of their stripes, and those of the stripe being written. -/
def Cave.usedPages (c : Cave) : List Nat := (c.livePages ++ c.liveStripes.flatten ++ c.open_).eraseDups
def Cave.busyBlk (c : Cave) (b : Nat) : Bool := c.usedPages.any (fun p => c.blkOf p == b)

/-- Whether a channel is writing into a block. -/
def Cave.pointed (c : Cave) (b : Nat) : Bool := c.points.any (fun p => p.2.1 == b)
def Cave.chanBlocks (c : Cave) (ch : Nat) : List Nat := (List.range (c.chanDies * c.dieBlocks)).map (ch * c.chanDies * c.dieBlocks + ·)

/-- The block of a list with the lowest erase count, the first of them. -/
def Cave.leastWorn (c : Cave) (bs : List Nat) : Option Nat :=
  bs.foldl (fun m b => match m with | none => some b | some x => if (c.blk b).erases < (c.blk x).erases then some b else some x) none

/-- The free block of a channel that is written next (R363). -/
def Cave.freeBlk (c : Cave) (ch : Nat) : Option Nat :=
  c.leastWorn ((c.chanBlocks ch).filter (fun b => c.good b && !c.busyBlk b && !c.pointed b))

def Cave.modBlk (c : Cave) (b : Nat) (f : CaveBlk → CaveBlk) : Cave := { c with blks := tput c.blks b (f (c.blk b)) }

/-- Erase a block: its pages are gone, its erase count rises and its read count starts again. -/
def Cave.erase (c : Cave) (b : Nat) : Cave :=
  { c with
    cws := c.cws.filter (fun p => c.blkOf (p.1 / 4) != b)
    stripes := c.liveStripes }.modBlk b (fun x => { x with erases := x.erases + 1, reads := 0 })

/-- The sixteen codewords of a mapped unit; none where no data has been written. -/
def Cave.slots (c : Cave) (u : Nat) : List (Option (List Byte)) :=
  (tgetD c.map u []).flatMap (fun p => (List.range 4).map (fun i => tget c.cws (4 * p + i)))

/-- Take units out of flash: they wait, as ciphertext, to be programmed again. -/
def Cave.hold (c : Cave) (us : List Nat) : Cave :=
  { c with
    moving := us.foldl (fun t u => tput t u (c.slots u)) c.moving
    map := c.map.filter (fun p => !us.contains p.1) }

/-- Mapped units with a page in the stripes that a set of pages touches. -/
def Cave.unitsWith (c : Cave) (f : Nat → Bool) : List Nat :=
  let ps := ((c.stripes ++ [c.open_]).filter (·.any f)).flatten
  (c.map.filter (fun p => p.2.any (fun q => f q || ps.contains q))).map (·.1)

/-- Make a block of a channel free when none is: the one whose stripes hold the fewest units gives them up (log 181). -/
def Cave.reclaim (c : Cave) (ch : Nat) : Option Cave :=
  let cost (b : Nat) : Nat := (c.unitsWith (fun p => c.blkOf p == b)).length
  let bs := (c.chanBlocks ch).filter (fun b => c.good b && !c.pointed b && !c.open_.any (fun p => c.blkOf p == b))
  match bs.foldl (fun m b => match m with | none => some b | some x => if cost b < cost x then some b else some x) none with
  | some b => some (c.hold (c.unitsWith (fun p => c.blkOf p == b)))
  | none => none

/-- Begin a block of a channel: the page to be written. -/
def Cave.startBlk (c : Cave) (ch : Nat) : Option (Nat × Cave) :=
  match c.freeBlk ch with
  | some b => some (b * c.blkPages, { c.erase b with points := tput c.points ch (b, 1) })
  | none => none

/-- The next page of a channel. -/
def Cave.allocPage (c : Cave) (ch : Nat) : Option (Nat × Cave) :=
  let new (c : Cave) : Option (Nat × Cave) :=
    match c.startBlk ch with
    | some r => some r
    | none => (match c.reclaim ch with | some c => c.startBlk ch | none => none)
  match tget c.points ch with
  | some (b, n) =>
    if decide (n < c.blkPages) && c.good b then some (b * c.blkPages + n, { c with points := tput c.points ch (b, n + 1) }) else new c
  | none => new c

/-! ### Programming (R360, R362) -/

def xorBytes (a b : List Byte) : List Byte := List.zipWith (· ^^^ ·) a b

/-- The codeword of a page's slot in a stripe's parity: the XOR of those of its data pages. -/
def Cave.parity (c : Cave) (ps : List Nat) (i : Nat) : List Byte :=
  ps.foldl (fun a p => match tget c.cws (4 * p + i) with | some w => xorBytes a w | none => a) (List.replicate 4608 0)

def Cave.putSlots (c : Cave) (p : Nat) (ws : List (Option (List Byte))) : Cave :=
  { c with cws := ws.zipIdx.foldl (fun t w => match w.1 with | some x => tput t (4 * p + w.2) x | none => t) c.cws }

/-- A stripe with a page on every channel but the last takes its parity page there (R360; 14 + 1 without a channel, R363). -/
def Cave.closeStripe (c : Cave) : Option Cave :=
  if c.open_.length + 1 < c.channels.length then some c
  else match c.channels.getLast? with
    | none => none
    | some ch =>
      let ws := (List.range 4).map (fun i => some (c.parity c.open_ i))
      match c.allocPage ch with
      | some (p, c) => some { c.putSlots p ws with stripes := c.stripes ++ [c.open_ ++ [p]], open_ := [] }
      | none => none

/-- Program one page of the stripe being written. -/
def Cave.putPage (c : Cave) (ws : List (Option (List Byte))) : Option (Nat × Cave) :=
  match c.allocPage (lgetD c.channels c.open_.length 0) with
  | none => none
  | some (p, c) => ({ c.putSlots p ws with open_ := c.open_ ++ [p] }.closeStripe).map (fun c => (p, c))

/-- Program a logical unit: four pages, and the map entry that names them. -/
def Cave.writeUnit (c : Cave) (u : Nat) (ws : List (Option (List Byte))) : Option Cave :=
  if c.channels.isEmpty then none
  else
    let r := (List.range 4).foldl (fun (r : Option (List Nat × Cave)) i =>
      match r with
      | none => none
      | some (ps, c) => (c.putPage ((ws.drop (4 * i)).take 4)).map (fun x => (ps ++ [x.1], x.2))) (some ([], c))
    r.map (fun x => { x.2 with map := tput x.2.map u x.1 })

/-- A 4 KiB data unit's codeword: its ciphertext and 512 parity bytes. -/
def codeword (ct : List Byte) : List Byte := ct ++ (Config.ldpc ct ++ List.replicate 512 0).take 512

/-! ### Upkeep (R363) -/

/-- Contents of a page go to another. -/
def Cave.movePage (c : Cave) (p q : Nat) : Cave :=
  let ren (x : Nat) : Nat := if x = p then q else x
  { c.putSlots q ((List.range 4).map (fun i => tget c.cws (4 * p + i))) with
    map := c.map.map (fun u => (u.1, u.2.map ren)), stripes := c.stripes.map (·.map ren), open_ := c.open_.map ren }

/-- Relocate a block's data within its channel; what finds no page there waits to be programmed elsewhere. -/
def Cave.evacuate (c : Cave) (b : Nat) : Cave :=
  let ch := c.chanOfBlk b
  let c := { c with points := c.points.filter (fun p => p.2.1 != b) }
  (c.usedPages.filter (fun p => c.blkOf p == b)).foldl (fun c p =>
    match c.allocPage ch with
    | some (q, c) => c.movePage p q
    | none =>
      let c := c.hold (c.unitsWith (· == p))
      { c with open_ := if c.open_.contains p then [] else c.open_ }) c

/-- Retire a die: its data is rebuilt from parity on the other dies of its channel. A channel's last die takes the stripe being
written with it. -/
def Cave.retireDie (c : Cave) (k : Nat) : Cave :=
  let bs := (List.range c.dieBlocks).map (k * c.dieBlocks + ·)
  let used := c.usedPages
  let n := (c.cws.filter (fun p => c.dieOfBlk (c.blkOf (p.1 / 4)) == k && used.contains (p.1 / 4))).length
  let busy := bs.filter c.busyBlk
  let c' : Cave := { c with deadDies := c.deadDies ++ [k], spare := c.spare - (bs.filter c.good).length, rebuilt := c.rebuilt + n }
  let c' := if c'.channels == c.channels then c'
    else { c'.hold (c'.unitsWith c'.open_.contains) with open_ := [] }
  busy.foldl Cave.evacuate c'

/-- Retire a block that has failed a program or an erase, after relocating its data, and its die when more than 2 % of the die's
blocks are retired. -/
def Cave.retireBlk (c : Cave) (b : Nat) : Cave :=
  if !c.good b then c
  else
    let c : Cave := { c with spare := c.spare - 1 }
    let c := (c.modBlk b (fun x => { x with retired := true })).evacuate b
    let k := c.dieOfBlk b
    let n := (c.blks.filter (fun p => p.2.retired && c.dieOfBlk p.1 == k)).length
    if 2 * c.dieBlocks < 100 * n then c.retireDie k else c

/-- The block that the next page would be written to fails (R363). -/
def Cave.failNext (c : Cave) : Cave :=
  match c.allocPage (lgetD c.channels c.open_.length 0) with
  | some (p, c) => c.retireBlk (c.blkOf p)
  | none => c

/-- Reads of a page: at the part's read-disturb limit the block's data is relocated. -/
def Cave.readPage (c : Cave) (p n : Nat) : Cave :=
  let b := c.blkOf p
  let c := c.modBlk b (fun x => { x with reads := x.reads + n })
  match c.pop with
  | some (q, _) =>
    if decide (0 < q.readLimit) && decide (q.readLimit ≤ (c.blk b).reads) then
      { (c.evacuate b).modBlk b (fun x => { x with reads := 0 }) with rdReloc := c.rdReloc + 1 }
    else c
  | none => c

/-- Move cold data when the erase counts of the good blocks are more than 200 apart: that of the used block erased least. -/
def Cave.level (c : Cave) : Cave :=
  if !c.blks.any (fun p => decide (200 < p.2.erases)) then c
  else
    let bs := (List.range c.total).filter c.good
    let hi := bs.foldl (fun m b => max m (c.blk b).erases) 0
    if bs.any (fun b => decide ((c.blk b).erases + 200 < hi)) then
      (match c.leastWorn (bs.filter (fun b => c.busyBlk b && !c.pointed b)) with
       | some b => if (c.blk b).erases + 200 < hi then c.evacuate b else c
       | none => c)
    else c

/-- A patrol: every written page is read; the data of weak blocks moves, and a block whose erase fails is retired. -/
def Cave.patrol (c : Cave) (weak bad : List Nat) : Cave :=
  let c := c.usedPages.foldl (fun c p => c.readPage p 1) c
  let c := (weak.filter c.good).foldl Cave.evacuate c
  (bad.foldl Cave.retireBlk c).level

/-- Where a 4 KiB unit of the Cave tier lies: its page, when it is programmed. -/
def Cave.pageOf (c : Cave) (unit : Nat) : Option Nat := (tgetD c.map (unit / 16) [])[unit % 16 / 4]?

/-- The other pages of a page's stripe. -/
def Cave.mates (c : Cave) (p : Nat) : List Nat :=
  match c.stripes.find? (·.contains p) with
  | some s => s.filter (· != p)
  | none => []

end Sys2Proof.Machine
end

