-- ==== Sys2Proof/Machine/Formats.lean ====
section
/-!
DEFINITION. Number formats and rounding (chapter 03): exact numbers, the floating grids that hold them, decoding,
rounding to nearest even or stochastically, and exact arithmetic.
-/
namespace Sys2Proof.Machine

/-- An exact number with IEEE specials: a finite one is ±m × 2^e, and a zero keeps its sign (R96). -/
inductive Num where
  | nan
  | inf (neg : Bool)
  | fin (neg : Bool) (m : Nat) (e : Int)
deriving DecidableEq, Repr

def Num.zero : Num := .fin false 0 0
def Num.ofInt (i : Int) : Num := .fin (decide (i < 0)) i.natAbs 0
def Num.isFin : Num → Bool
  | .fin _ _ _ => true
  | _ => false
def Num.isNan : Num → Bool
  | .nan => true
  | _ => false
def Num.isInf : Num → Bool
  | .inf _ => true
  | _ => false
def Num.isZero : Num → Bool
  | .fin _ 0 _ => true
  | _ => false
def Num.abs : Num → Num
  | .nan => .nan
  | .inf _ => .inf false
  | .fin _ m e => .fin false m e
def Num.neg : Num → Num
  | .nan => .nan
  | .inf s => .inf (!s)
  | .fin s m e => .fin (!s) m e

/-- The signed significand of a finite number at exponent `e0`, no larger than its own. -/
def scaled (neg : Bool) (m : Nat) (e e0 : Int) : Int :=
  let v : Int := (m * 2 ^ (e - e0).toNat : Nat)
  if neg then -v else v

/-- Exact sum, with the specials of IEEE 754 (R96). A zero sum is −0 only when both terms are. -/
def Num.add : Num → Num → Num
  | .nan, _ => .nan
  | _, .nan => .nan
  | .inf a, .inf b => if a = b then .inf a else .nan
  | .inf a, _ => .inf a
  | _, .inf b => .inf b
  | .fin s m e, .fin t n f =>
    let e0 := min e f
    let v := scaled s m e e0 + scaled t n f e0
    if v = 0 then .fin (s && t && m == 0 && n == 0) 0 0 else .fin (decide (v < 0)) v.natAbs e0

def Num.sub (a b : Num) : Num := a.add b.neg

/-- Exact product. -/
def Num.mul : Num → Num → Num
  | .nan, _ => .nan
  | _, .nan => .nan
  | .inf a, .inf b => .inf (a != b)
  | .inf a, .fin t n _ => if n = 0 then .nan else .inf (a != t)
  | .fin s m _, .inf b => if m = 0 then .nan else .inf (s != b)
  | .fin s m e, .fin t n f => .fin (s != t) (m * n) (e + f)

/-- Order of numbers other than NaN, with −0 below +0 (R64). -/
def Num.lt (a b : Num) : Bool :=
  match a, b with
  | .nan, _ => false
  | _, .nan => false
  | .inf s, .inf t => s && !t
  | .inf s, _ => s
  | _, .inf t => !t
  | .fin s m e, .fin t n f =>
    let e0 := min e f
    let x := scaled s m e e0
    let y := scaled t n f e0
    decide (x < y) || (x == 0 && y == 0 && s && !t)

def Num.max (a b : Num) : Num := if a.isNan || b.isNan then .nan else if a.lt b then b else a
def Num.min (a b : Num) : Num := if a.isNan || b.isNan then .nan else if b.lt a then b else a

/-- ⌊log2 (n ÷ d)⌋ for nonzero n and d. -/
def log2Q (n d : Nat) : Int :=
  let k : Int := (Nat.log2 n : Int) - (Nat.log2 d : Int)
  if k ≥ 0 then (if n < d * 2 ^ k.toNat then k - 1 else k)
  else (if n * 2 ^ (-k).toNat < d then k - 1 else k)

/-- A floating grid: exponent and mantissa bits, SPEC of Table 3.5, SUB and the exponent bias (R79, R80). -/
structure Grid where
  eb : Nat
  mb : Nat
  spec : Nat
  sub : Bool
  bias : Int
deriving DecidableEq, Repr

def fp32 : Grid := ⟨8, 23, 2, true, 127⟩
def fp64 : Grid := ⟨11, 52, 2, true, 1023⟩
def bf16 : Grid := ⟨8, 7, 2, true, 127⟩
def fp16 : Grid := ⟨5, 10, 2, true, 15⟩
/-- The extended float of R93: FP32's exponent range and 27 bits of significand. -/
def extF : Grid := ⟨8, 26, 2, true, 127⟩
/-- The E4M3 preset, 0x3D71. -/
def e4m3 : Grid := ⟨4, 3, 1, true, 7⟩

/-- The exponent of the smallest normal value. -/
def Grid.emin (g : Grid) : Int := 1 - g.bias

/-- Largest finite magnitude as significand and exponent (Table 3.5). -/
def Grid.top (g : Grid) : Nat × Int :=
  let all := 2 ^ g.eb - 1
  if g.eb = 0 then (2 ^ g.mb - 1, g.emin - g.mb)
  else if g.spec = 0 then (2 ^ (g.mb + 1) - 1, (all : Int) - g.bias - g.mb)
  else if g.spec = 1 then (2 ^ (g.mb + 1) - 2, (all : Int) - g.bias - g.mb)
  else (2 ^ (g.mb + 1) - 1, (all : Int) - 1 - g.bias - g.mb)

/-- Whether a magnitude exceeds the largest finite one. -/
def Grid.exceeds (g : Grid) (num den : Nat) (e : Int) : Bool :=
  let (tm, te) := g.top
  let e0 := min e te
  decide (tm * 2 ^ (te - e0).toNat * den < num * 2 ^ (e - e0).toNat)

/-- Rounding: to nearest even, or stochastically with a 24-bit draw (R98 to R100). -/
inductive Round where
  | even
  | draw (r : BitVec 24)
deriving DecidableEq, Repr

/-- A rounded magnitude: significand, exponent, whether it is inexact, and whether it overflowed. -/
structure Rnd where
  m : Nat
  e : Int
  inexact : Bool
  ovf : Bool
deriving DecidableEq, Repr

/-- Whether a stochastic rounding of sign `neg` takes the larger magnitude: r < ⌊f × 2^24⌋ picks the upper neighbour
of the value (R100). -/
def srUp (neg : Bool) (rem den : Nat) (r : BitVec 24) : Bool :=
  if neg then decide (((den - rem) * 2 ^ 24) / den ≤ r.toNat) else decide (r.toNat < (rem * 2 ^ 24) / den)

/-- Round ±(num ÷ den) × 2^e to a grid, by R99 or R100. -/
def Grid.roundQ (g : Grid) (mode : Round) (neg : Bool) (num den : Nat) (e : Int) : Rnd :=
  if num = 0 then ⟨0, 0, false, false⟩
  else
    let lg := log2Q num den + e
    let ex := max lg g.emin
    let u := ex - g.mb
    let sh := e - u
    let n := num * 2 ^ sh.toNat
    let dn := den * 2 ^ (-sh).toNat
    let k := n / dn
    let rem := n % dn
    let odd := if g.mb = 0 then (if k = 0 then false else decide ((ex - g.emin + 1) % 2 ≠ 0)) else k % 2 == 1
    if rem = 0 && (g.sub || lg ≥ g.emin) then ⟨k, u, false, g.exceeds k 1 u⟩
    else if !g.sub && decide (lg < g.emin) then
      let dn := den * 2 ^ (g.emin - e).toNat
      let n := num * 2 ^ (e - g.emin).toNat
      let up := match mode with | .even => decide (dn < 2 * n) | .draw r => srUp neg n dn r
      ⟨b2n up, g.emin, true, false⟩
    else
      let up := match mode with
        | .even => decide (dn < 2 * rem) || (2 * rem == dn && odd)
        | .draw r => srUp neg rem dn r
      let k' := if up then k + 1 else k
      let ov := match mode with
        | .even => g.exceeds k' 1 u
        | .draw _ => g.exceeds num den e
      ⟨k', u, true, ov⟩

/-- Round an exact number into an IEEE-style grid to nearest even; overflow gives an infinity (R93, R95). -/
def Grid.rne (g : Grid) : Num → Num
  | .nan => .nan
  | .inf s => .inf s
  | .fin s m e =>
    let r := g.roundQ .even s m 1 e
    if r.ovf then .inf s else .fin s r.m r.e

/-- The quotient of two numbers, rounded into a grid to nearest even, with IEEE specials. -/
def Grid.divRne (g : Grid) (a b : Num) : Num :=
  match a, b with
  | .nan, _ => .nan
  | _, .nan => .nan
  | .inf _, .inf _ => .nan
  | .inf s, .fin t _ _ => .inf (s != t)
  | .fin s _ _, .inf t => .fin (s != t) 0 0
  | .fin s m e, .fin t n f =>
    if n = 0 then (if m = 0 then .nan else .inf (s != t))
    else
      let r := g.roundQ .even (s != t) m n (e - f)
      if r.ovf then .inf (s != t) else .fin (s != t) r.m r.e

/-- The encoding of ±m × 2^e, a value of the grid, without the sign. -/
def Grid.encMag (g : Grid) (m : Nat) (e : Int) : Nat :=
  if m = 0 then 0
  else
    let lg := (Nat.log2 m : Int) + e
    if g.eb = 0 || lg < g.emin then
      let sh := e - (g.emin - g.mb)
      m * 2 ^ sh.toNat / 2 ^ (-sh).toNat
    else
      let sh := e - (lg - g.mb)
      let s := m * 2 ^ sh.toNat / 2 ^ (-sh).toNat
      (lg - g.emin + 1).toNat * 2 ^ g.mb + (s - 2 ^ g.mb)

def Grid.signBit (g : Grid) (neg : Bool) : Nat := if neg then 2 ^ (g.eb + g.mb) else 0

/-- The canonical NaN (R80's note): all ones in SPEC 1, else exponent all ones and the top mantissa bit. -/
def Grid.canonNan (g : Grid) : Nat :=
  if g.spec = 1 then 2 ^ (g.eb + g.mb) - 1 else (2 ^ g.eb - 1) * 2 ^ g.mb + 2 ^ (g.mb - 1)

def Grid.infBits (g : Grid) (neg : Bool) : Nat := g.signBit neg + (2 ^ g.eb - 1) * 2 ^ g.mb

/-- The bits of a value that the grid holds. -/
def Grid.bits (g : Grid) : Num → Nat
  | .nan => g.canonNan
  | .inf s => g.infBits s
  | .fin s m e => g.signBit s + g.encMag m e

/-- The value of an encoding (R80, Table 3.5). -/
def Grid.val (g : Grid) (b : Nat) : Num :=
  let s := bit b (g.eb + g.mb)
  let e := fld b g.mb g.eb
  let f := fld b 0 g.mb
  let ones := decide (e = 2 ^ g.eb - 1)
  if g.spec = 1 && ones && f == 2 ^ g.mb - 1 then .nan
  else if 2 ≤ g.spec && ones then (if f = 0 then .inf s else .nan)
  else if g.eb = 0 || e = 0 then (if g.sub || g.eb = 0 then .fin s f (g.emin - g.mb) else .fin s 0 0)
  else .fin s (2 ^ g.mb + f) ((e : Int) - g.bias - g.mb)

/-! ### Format descriptors (R78 to R83) -/

/-- A format other than NONE. -/
inductive Fmt where
  | mini (g : Grid)
  | wide (g : Grid)
  | int (sg : Bool) (w : Nat)
deriving DecidableEq, Repr

/-- The bits of a format, which an element keeps in the low bits of its container (R81). -/
def Fmt.bits : Fmt → Nat
  | .mini g => 1 + g.eb + g.mb
  | .wide g => 1 + g.eb + g.mb
  | .int _ w => w

/-- The format that a descriptor names; none for NONE and for a malformed descriptor (Tables 3.1 to 3.4, R79). -/
def fmtOf (d : Nat) : Option Fmt :=
  match fld d 0 2 with
  | 1 =>
    let eb := fld d 2 3
    let mb := fld d 5 3
    let spec := fld d 8 2
    let sub := bit d 10
    let w := 1 + eb + mb
    let bad := decide (5 < eb) || decide (w < 2) || decide (8 < w) ||
      (eb == 0 && (spec != 0 || !sub)) || (spec == 1 && (eb == 0 || mb == 0)) ||
      (decide (2 ≤ spec) && (decide (eb < 2) || mb == 0))
    if bad then none else some (.mini ⟨eb, mb, spec, sub, signed 5 (fld d 11 5)⟩)
  | 2 =>
    if fld d 7 9 != 0 then none
    else match fld d 2 3, fld d 5 2 with
      | 0, 0 => some (.wide bf16)
      | 1, 0 => some (.wide fp32)
      | 2, 0 => some (.wide ⟨7, 8, 2, true, 63⟩)
      | 2, 1 => some (.wide ⟨6, 9, 2, true, 31⟩)
      | 2, 2 => some (.wide fp16)
      | _, _ => none
  | 3 =>
    if fld d 5 11 != 0 then none
    else match fld d 2 3 with
      | 0 => some (.int true 8)
      | 1 => some (.int false 8)
      | 2 => some (.int true 4)
      | 3 => some (.int false 4)
      | 4 => some (.int true 32)
      | _ => none
  | _ => none

/-- Storage width in bits (Table 3.1). -/
def Fmt.width : Fmt → Nat
  | .mini g => if 1 + g.eb + g.mb ≤ 4 then 4 else 8
  | .wide g => 1 + g.eb + g.mb
  | .int _ w => w

def Fmt.isInt : Fmt → Bool
  | .int _ _ => true
  | _ => false
def Fmt.isMini : Fmt → Bool
  | .mini _ => true
  | _ => false
def Fmt.isFp32 (f : Fmt) : Bool := f == .wide fp32
def Fmt.isBf16 (f : Fmt) : Bool := f == .wide bf16
def Fmt.isMid (f : Fmt) : Bool := match f with | .wide g => g != fp32 && g != bf16 | _ => false
def Fmt.isInt32 (f : Fmt) : Bool := f == .int true 32

/-- The value in a container; unused container bits are ignored (R81). -/
def Fmt.val (f : Fmt) (b : Nat) : Num :=
  match f with
  | .mini g => g.val (b % 2 ^ (1 + g.eb + g.mb))
  | .wide g => g.val (b % 2 ^ (1 + g.eb + g.mb))
  | .int sg w => Num.ofInt (if sg then signed w (b % 2 ^ w) else ((b % 2 ^ w : Nat) : Int))

/-! ### Block scales (R85, R86) -/

/-- Block size of a block-scaling descriptor; 0 when not block-scaled. -/
def blkSize (d : Nat) : Nat :=
  match fld d 0 2 with
  | 0 => 0
  | 1 => 8
  | 2 => 16
  | _ => 32

def blkE4m3 (d : Nat) : Bool := bit d 2
/-- R85's first clause, and the RSVD bits. -/
def blkBad (d : Nat) : Bool := fld d 3 5 != 0 || (fld d 0 2 == 0 && bit d 2)

/-- The value of a scale byte. -/
def scaleVal (e4 : Bool) (b : Nat) : Num :=
  if e4 then e4m3.val b else if b = 255 then .nan else .fin false 1 ((b : Int) - 127)

end Sys2Proof.Machine
end

