-- ==== Sys2Proof/Machine/Flags.lean ====
section
/-!
DEFINITION. Flag computations: the numeric summary of a step (R104), the fflags of the conversion instructions (R155) and
of floating additions, and every conversion that sets them.
-/
namespace Sys2Proof.Machine

/-- What a conversion did: the flags of Table 3.10 and what R155 needs beside them. -/
structure NFlags where
  nanOut : Bool := false
  nanZero : Bool := false
  sat : Bool := false
  infOut : Bool := false
  intSat : Bool := false
  ovf : Bool := false
  inexact : Bool := false
deriving DecidableEq, Repr

def NFlags.or (a b : NFlags) : NFlags :=
  ⟨a.nanOut || b.nanOut, a.nanZero || b.nanZero, a.sat || b.sat, a.infOut || b.infOut, a.intSat || b.intSat,
   a.ovf || b.ovf, a.inexact || b.inexact⟩

/-- The five bits of Table 3.10. -/
def NFlags.summary (f : NFlags) : BitVec 5 :=
  BitVec.ofNat 5 (b2n f.nanOut + 2 * b2n f.nanZero + 4 * b2n f.sat + 8 * b2n f.infOut + 16 * b2n f.intSat)

/-- fflags by R155: NV for a NaN converted to zero, OF and NX for a saturation or overflow, NX for an inexact result. -/
def NFlags.fflags (f : NFlags) (nanScale : Bool) : BitVec 5 :=
  BitVec.ofNat 5 (16 * b2n (f.nanZero || nanScale) + 4 * b2n (f.sat || f.ovf) + b2n (f.sat || f.ovf || f.inexact))

/-- The fflags of an addition rounded to FP32: NV when a NaN arises from numbers, OF and NX on overflow, NX when
inexact. -/
def addFlags (a b r : Num) : BitVec 5 :=
  let ex := a.add b
  let nv := r.isNan && !a.isNan && !b.isNan
  let ov := r.isInf && ex.isFin
  let nx := ov || (ex.isFin && !((ex.sub r).isZero))
  BitVec.ofNat 5 (16 * b2n nv + 4 * b2n ov + b2n nx)

/-- Convert to a floating grid by R98 to R100 and Table 3.5; `satAll` is the saturation of R103. DEDUCED (log 52): a finite
value beyond the largest finite one that rounding to nearest even still brings to it saturates nothing, so SAT stays. -/
def convGrid (g : Grid) (mode : Round) (satAll : Bool) : Num → Nat × NFlags
  | .nan => if g.spec = 0 then (0, { nanZero := true }) else (g.canonNan, { nanOut := true })
  | .inf s =>
    if g.spec ≤ 1 || satAll then
      let (m, e) := g.top
      (g.signBit s + g.encMag m e, { sat := true })
    else (g.infBits s, { infOut := true })
  | .fin s m e =>
    let r := g.roundQ mode s m 1 e
    if r.ovf then
      if g.spec = 2 && !satAll then (g.infBits s, { infOut := true, ovf := true, inexact := true })
      else
        let (tm, te) := g.top
        (g.signBit s + g.encMag tm te, { sat := true, inexact := true })
    else (g.signBit s + g.encMag r.m r.e, { inexact := r.inexact })

/-- Round a finite number to an integer by the mode that applies (R102). -/
def roundInt (mode : Round) (s : Bool) (m : Nat) (e : Int) : Int × Bool :=
  if 0 ≤ e then (scaled s m e 0, false)
  else
    let dn := 2 ^ (-e).toNat
    let k := m / dn
    let rem := m % dn
    let up := if rem = 0 then false else match mode with
      | .even => decide (dn < 2 * rem) || (2 * rem == dn && k % 2 == 1)
      | .draw r => srUp s rem dn r
    let k' : Int := ((if up then k + 1 else k : Nat) : Int)
    (if s then -k' else k', rem != 0)

def intRange (sg : Bool) (w : Nat) : Int × Int :=
  if sg then (-(2 ^ (w - 1) : Nat), (2 ^ (w - 1) : Nat) - 1) else (0, (2 ^ w : Nat) - 1)

/-- Saturate to an integer range: the value and whether it was changed. -/
def clampInt (lo hi v : Int) : Int × Bool :=
  if v < lo then (lo, true) else if hi < v then (hi, true) else (v, false)

/-- Convert to an integer format (R102). DESIGN CHOICE (log 53): INT32 as an output of floating values, or of an epilogue, is
converted by the same rule, a NaN and an infinity too; the manual gives the exact case only (R63). -/
def convInt (sg : Bool) (w : Nat) (mode : Round) : Num → Nat × NFlags
  | .nan => (0, { nanZero := true })
  | .inf s =>
    let (lo, hi) := intRange sg w
    (((if s then lo else hi) % (2 ^ w : Nat)).toNat, { sat := true })
  | .fin s m e =>
    let (lo, hi) := intRange sg w
    let (v, nx) := roundInt mode s m e
    let (c, sat) := clampInt lo hi v
    ((c % (2 ^ w : Nat)).toNat, { sat := sat, inexact := nx })

/-- Output conversion to a format (R98 to R102). FP32 is written unchanged, its NaN canonical. -/
def Fmt.conv (f : Fmt) (mode : Round) (satAll : Bool) (v : Num) : Nat × NFlags :=
  match f with
  | .mini g => convGrid g mode satAll v
  | .wide g => convGrid g mode satAll v
  | .int sg w => convInt sg w mode v

/-- An INT32 addition under R97: the sum and whether it saturated. -/
def addI32 (a b : Int) : Int × Bool := clampInt (-2147483648) 2147483647 (a + b)

/-- Whether a block holds a NaN or an infinity (R103's third item): its elements are written as zero, DESIGN CHOICE (log 168)
+0 whatever their signs, and set no flag of their own. -/
def blockSpecial (vs : List Num) : Bool := vs.any (fun v => !v.isFin)

/-- The scale byte of a block (R103), with the flags of its third item. `vs` are the block's values. DESIGN CHOICE
(log 54): an E4M3 scale saturated at 448 sets no flag of the numeric summary, which the manual does not settle. -/
def blockScale (e4 : Bool) (g : Grid) (vs : List Num) : Nat × NFlags :=
  if blockSpecial vs then
    (if e4 then 0x7F else 0xFF, { nanOut := true, nanZero := vs.any Num.isNan })
  else
    let a := vs.foldl (fun a v => if a.lt v.abs then v.abs else a) Num.zero
    match a with
    | .fin _ m e =>
      if e4 then
        let (tm, te) := g.top
        let r := e4m3.roundQ .even false m tm (e - te)
        let b := if r.ovf then 0x7E else e4m3.encMag r.m r.e
        (if b = 0 then 1 else b, { ovf := r.ovf, inexact := r.inexact || (b == 0 && m != 0) })
      else if m = 0 then (127, {})
      else
        let (tm, te) := g.top
        let x := (Nat.log2 m : Int) + e - ((Nat.log2 tm : Int) + te)
        ((127 + max (-127) (min 127 x)).toNat, { ovf := decide (127 < x), inexact := decide (x < -127) })
    | _ => (127, {})

/-- One element of a scaled block (R103's last item): the quotient in FP32, then the conversion, saturating. -/
def convScaled (f : Fmt) (mode : Round) (scale v : Num) : Nat × NFlags :=
  let q := fp32.divRne v scale
  let isEx := match v, scale, q with
    | .fin _ _ _, .fin _ _ _, .fin _ _ _ => ((q.mul scale).sub v).isZero
    | _, _, _ => true
  let r := f.conv mode true q
  (r.1, { r.2 with inexact := r.2.inexact || !isEx })


end Sys2Proof.Machine
end

