-- ==== Sys2Proof/Machine/Operands.lean ====
section
/-!
DEFINITION. Operand forms: elements in a Vat, view records (Tables 2.5 and 2.6), operation and transfer descriptors
(Tables 2.4 and 5.7), and the paths of R88.
-/
namespace Sys2Proof.Machine

/-- A record in the Vat, read as one number whose bit 0 is the record's bit 0 (R4). -/
def vatRec (m : List Host.Cell) (v n : Nat) : Nat := ofLe (cellsGet m (vatOff v) n)

/-- The container of width `w` at a bit offset of the Vats (R58, R81). -/
def elemGet (m : List Host.Cell) (b w : Nat) : Nat :=
  if w = 4 then fld (cellGet m (vatOff (b / 8))).toNat (b % 8) 4
  else ofLe (cellsGet m (vatOff (b / 8)) (w / 8))

/-- The bytes that writing a container changes; a 4-bit container leaves the other nibble (R81). -/
def elemBytes (m : List Host.Cell) (b w v : Nat) : List Byte :=
  if w = 4 then
    let o := (cellGet m (vatOff (b / 8))).toNat
    [BitVec.ofNat 8 (if b % 8 = 0 then o / 16 * 16 + v % 16 else o % 16 + 16 * (v % 16))]
  else leBytes (w / 8) v

/-! ### Views (R57 to R60) -/

def natProd (l : List Nat) : Nat := l.foldl (· * ·) 1

def viewOf (n : Nat) : View :=
  { base := fld n 0 29, t := bit n 29, split := fld n 30 3,
    ext := (List.range 6).map (fun i => fld n (64 + 16 * i) 16),
    str := (List.range 6).map (fun i => signed 32 (fld n (160 + 32 * i) 32)) }

/-- The field rules of Table 2.6. -/
def viewBad (n : Nat) : Bool :=
  let v := viewOf n
  v.split = 0 || 6 ≤ v.split || fld n 33 31 != 0 || fld n 352 160 != 0 || v.ext.any (· == 0)

/-- Rows and columns of the logical matrix (R59). -/
def View.shape (v : View) : Nat × Nat :=
  let i := natProd (v.ext.take v.split)
  let o := natProd (v.ext.drop v.split)
  if v.t then (i, o) else (o, i)

/-- The dimension indices that a count names, dimension 0 fastest. -/
def unravel : Nat → List Nat → List Nat
  | _, [] => []
  | n, e :: t => n % e :: unravel (n / e) t

/-- Signed sum of indices by strides. -/
def dot : List Nat → List Int → Int
  | i :: is, s :: ss => (i : Int) * s + dot is ss
  | _, _ => 0

/-- Bit offset of the element at dimension indices (R58). -/
def View.at (v : View) (w : Nat) (idx : List Nat) : Nat :=
  (8 * (v.base : Int) + (w : Int) * dot idx v.str).toNat

/-- Bit offset of logical element (r, c). -/
def View.elem (v : View) (w r c : Nat) : Nat :=
  let (i, o) := if v.t then (r, c) else (c, r)
  v.at w (unravel i (v.ext.take v.split) ++ unravel o (v.ext.drop v.split))

/-- Lowest and highest bit that a view reaches. -/
def View.reach (v : View) (w : Nat) : Int × Int :=
  let lo := (v.ext.zip v.str).foldl (fun a p => if p.2 < 0 then a + ((p.1 : Int) - 1) * p.2 else a) 0
  let hi := (v.ext.zip v.str).foldl (fun a p => if 0 < p.2 then a + ((p.1 : Int) - 1) * p.2 else a) 0
  (8 * (v.base : Int) + w * lo, 8 * (v.base : Int) + w * hi + w - 1)

/-- Every element lies within the Vat that BASE names (R58). -/
def View.inVat (v : View) (w : Nat) : Bool :=
  let (lo, hi) := v.reach w
  let b : Int := 8 * ((v.base / 0x10000000 * 0x10000000 : Nat) : Int)
  decide (b ≤ lo) && decide (hi < b + 8 * (vatSize : Nat))

/-- Whether a step's grant covers `n` bytes from Vat address `v` (R46, R176). -/
def Step.covers (s : Step) (v n : Nat) : Bool :=
  let g := Two.get s.vat (halfOf (bit v 28))
  n == 0 || (decide (v < 2 ^ 29) && decide (g.1 ≤ v % 0x10000000) && decide (v % 0x10000000 + n ≤ g.1 + g.2))

/-- The first of `n` bytes from Vat address `v` that the grant does not cover. -/
def Step.outside (s : Step) (v n : Nat) : Option Nat :=
  if s.covers v n then none
  else
    let g := Two.get s.vat (halfOf (bit v 28))
    let o := v % 0x10000000
    some (if g.1 ≤ o && o < g.1 + g.2 then v - o + g.1 + g.2 else v)

/-- The first byte outside the grant over a list of ranges. -/
def Step.firstOut (s : Step) (rs : List (Nat × Nat)) : Option Nat := rs.findSome? (fun r => s.outside r.1 r.2)

/-- The bytes that a view reaches, as one range. -/
def View.range (v : View) (w : Nat) : Nat × Nat :=
  let (lo, hi) := v.reach w
  ((lo / 8).toNat, (hi / 8).toNat + 1 - (lo / 8).toNat)

/-- Output size of a convolution along one axis (R60): size, leading and trailing padding, filter, stride and dilation
field values. -/
def convOut (size p0 p1 f str dil : Nat) : Int :=
  ((size : Int) + p0 + p1 - (dil + 1) * f - 1) / ((str : Int) + 1) + 1

def View.dim (v : View) (i : Nat) : Nat := lgetD v.ext i 1

def Curd.ho (c : Curd) : Int := convOut (c.a.dim 2) c.padT c.padB c.convR c.strH c.dilH
def Curd.wo (c : Curd) : Int := convOut (c.a.dim 1) c.padL c.padR c.convS c.strW c.dilW

/-- M and K of a curd (R54, R60). -/
def Curd.mk_ (conv : Bool) (c : Curd) : Nat × Nat :=
  if conv then (c.a.dim 3 * c.ho.toNat * c.wo.toNat, (c.convR + 1) * (c.convS + 1) * c.a.dim 0)
  else c.a.shape

/-- Where the A element of logical (m, k) lies: none for a position in the padding (R60). -/
def Curd.aAt (conv : Bool) (c : Curd) (w m k : Nat) : Option Nat :=
  if conv then
    let wo := c.wo.toNat
    let ho := c.ho.toNat
    let ch := k % c.a.dim 0
    let s := k / c.a.dim 0 % (c.convS + 1)
    let r := k / c.a.dim 0 / (c.convS + 1)
    let y : Int := ((m / wo % ho) * (c.strH + 1) + r * (c.dilH + 1) : Nat) - (c.padT : Int)
    let x : Int := ((m % wo) * (c.strW + 1) + s * (c.dilW + 1) : Nat) - (c.padL : Int)
    if 0 ≤ y && y < c.a.dim 2 && 0 ≤ x && x < c.a.dim 1 then
      some (c.a.at w [ch, x.toNat, y.toNat, m / wo / ho])
    else none
  else some (c.a.elem w m k)

/-! ### Epilogue micro-instructions (R64, Tables 2.7 to 2.9) -/

def epiOp (i : BitVec 16) : Nat := fld i.toNat 11 5
def epiDst (i : BitVec 16) : Nat := fld i.toNat 9 2
def epiA (i : BitVec 16) : Nat := fld i.toNat 5 4
def epiB (i : BitVec 16) : Nat := fld i.toNat 1 4
def epiReadsA (i : BitVec 16) : Bool := 1 ≤ epiOp i && epiOp i ≤ 9
def epiReadsB (i : BitVec 16) : Bool := 2 ≤ epiOp i && epiOp i ≤ 7
def epiBad (i : BitVec 16) : Bool := bit i.toNat 0 || 10 ≤ epiOp i || 14 ≤ epiA i || 14 ≤ epiB i
def epiUses (epi : List (BitVec 16)) (src : Nat) : Bool :=
  epi.any (fun i => (epiReadsA i && epiA i == src) || (epiReadsB i && epiB i == src))
def epiTbl (epi : List (BitVec 16)) : Bool := epi.any (fun i => epiOp i == 9)

/-! ### Operation descriptors (R48 to R54) -/

/-- A operand of an operation as its descriptor names it, with the formats it needs. -/
def OpDesc.fA (o : OpDesc) : Fmt := (fmtOf o.fmtA.toNat).getD (.int true 8)
def OpDesc.fB (o : OpDesc) : Fmt := (fmtOf o.fmtB.toNat).getD (.int true 8)
def OpDesc.fOut (o : OpDesc) : Fmt := (fmtOf o.fmtOut.toNat).getD (.int true 8)
def OpDesc.fRes (o : OpDesc) : Fmt := (fmtOf o.fmtRes.toNat).getD (.int true 8)

/-- Arithmetic paths of Table 2.2. -/
inductive APath where
  | p4
  | p8
  | p16b
  | p16h
  | p32
deriving DecidableEq, Repr

/-- R88. -/
def pathSel (a b : Fmt) : APath :=
  if a.isFp32 || b.isFp32 then .p32
  else if a.isMid || b.isMid then .p16h
  else if a.isBf16 || b.isBf16 then .p16b
  else if b.width = 4 then .p4
  else .p8

/-- K per PE row and tile, counting dense positions (Table 2.2). -/
def APath.kpe (p : APath) (sparse : Bool) : Nat :=
  match p with
  | .p4 => if sparse then 4 else 2
  | .p8 => if sparse then 2 else 1
  | _ => 1

def OpDesc.path (o : OpDesc) : APath := pathSel o.fA o.fB

/-- The descriptor's fields, before its curds are known. -/
def opOf (n : Nat) : OpDesc :=
  { conv := fld n 0 4 == 2, span := fld n 4 2, dflow := bit n 6, order := bit n 7, sparse := fld n 18 2 == 1,
    iacc := bit n 20, sround := bit n 21,
    epi := (List.range (fld n 23 6)).map (fun i => BitVec.ofNat 16 (fld n (512 + 16 * i) 16)),
    doneObj := if bit n 113 then some (fld n 96 17) else none,
    fmtA := BitVec.ofNat 16 (fld n 128 16), fmtB := BitVec.ofNat 16 (fld n 144 16),
    fmtOut := BitVec.ofNat 16 (fld n 160 16), fmtRes := BitVec.ofNat 16 (fld n 176 16),
    blkA := BitVec.ofNat 8 (fld n 192 8), blkB := BitVec.ofNat 8 (fld n 200 8), blkOut := BitVec.ofNat 8 (fld n 208 8),
    seed := BitVec.ofNat 32 (fld n 224 32), ks := (List.range 4).map (fun i => BitVec.ofNat 32 (fld n (256 + 32 * i) 32)),
    table := fld n 384 29, tblLo := BitVec.ofNat 32 (fld n 416 32), tblHi := BitVec.ofNat 32 (fld n 448 32),
    curds := ⟨[], []⟩ }

/-- Whether a descriptor's fields break a rule of stage 3 of R608: Table 2.4, the epilogue program, and the format and
block-scaling descriptors (R64, R65, R79, R83 to R85, R89). -/
def opBad (n : Nat) : Bool :=
  let o := opOf n
  let f (d : BitVec 16) := fmtOf d.toNat
  let operand (d : BitVec 16) : Bool := match f d with | some x => !x.isInt32 | none => false
  let mini (d : BitVec 16) : Bool := match f d with | some x => x.isMini | none => false
  let nz (b : BitVec 8) : Bool := fld b.toNat 0 2 != 0
  !(fld n 0 4 == 1 || fld n 0 4 == 2) || fld n 4 2 == 3 || 16 < fld n 8 5 || 16 < fld n 13 5 || 2 ≤ fld n 18 2 ||
  bit n 22 || 32 < fld n 23 6 || fld n 29 35 != 0 || fld n 64 6 != 0 || fld n 93 3 != 0 || fld n 114 14 != 0 ||
  fld n 216 8 != 0 || fld n 384 6 != 0 || fld n 413 3 != 0 || fld n 480 32 != 0 ||
  o.epi.any epiBad ||
  !operand o.fmtA || !operand o.fmtB || (f o.fmtOut).isNone ||
  (if epiUses o.epi 11 then !operand o.fmtRes else o.fmtRes != 0) ||
  blkBad o.blkA.toNat || blkBad o.blkB.toNat || blkBad o.blkOut.toNat ||
  (nz o.blkA && !mini o.fmtA) || (nz o.blkB && !mini o.fmtB) || (nz o.blkOut && !mini o.fmtOut) ||
  (nz o.blkA && nz o.blkB && fld o.blkA.toNat 0 2 != fld o.blkB.toNat 0 2) ||
  o.fA.isInt != o.fB.isInt || o.iacc != o.fA.isInt ||
  (o.sparse && o.path != .p4 && o.path != .p8) ||
  (if epiTbl o.epi then !(fp32.val o.tblLo.toNat).lt (fp32.val o.tblHi.toNat) ||
      ((fp32.val o.tblLo.toNat).isZero && (fp32.val o.tblHi.toNat).isZero)
   else o.table != 0)

/-- The fifteen address slots of Table 2.5 that a curd may use, as (slot number, used). -/
def slotUse (o : OpDesc) : List Bool :=
  [true, true, true, epiUses o.epi 11, o.blkA != 0, o.blkB != 0, o.blkOut != 0, epiUses o.epi 8, epiUses o.epi 9,
   epiUses o.epi 10, o.sparse]

def slotVal (n i : Nat) : Nat := fld n (32 + 32 * i) 32

/-- Field rules of one curd descriptor (stage 5 of R608, R53). -/
def curdBad (o : OpDesc) (n : Nat) : Bool :=
  fld n 8 24 != 0 || fld n 420 92 != 0 ||
  ((slotUse o).zipIdx.any (fun p =>
    let v := slotVal n p.2
    if p.1 then v % 64 != 0 || fld v 29 3 != 0 else v != 0)) ||
  (!o.conv && fld n 384 36 != 0) ||
  4 < fld n 0 2 + fld n 4 2 + 1 || 4 < fld n 2 2 + fld n 6 2 + 1

def curdUnits (n : Nat) : List (Nat × Nat) :=
  (List.range (fld n 4 2 + 1)).flatMap (fun r =>
    (List.range (fld n 6 2 + 1)).map (fun c => (fld n 0 2 + r, fld n 2 2 + c)))

/-- R51: no two curds of one half share a unit, and none covers a retired quadrant. -/
def placeBad (retired : BitVec 4) : List Nat → Bool
  | [] => false
  | n :: t =>
    (curdUnits n).any (fun u => bit retired.toNat u.2 || t.any (fun k => (curdUnits k).contains u)) || placeBad retired t

/-- A curd with the view records that it uses, read from the Vat. -/
def curdOf (m : List Host.Cell) (o : OpDesc) (n : Nat) : Curd :=
  let view (i : Nat) : View := viewOf (vatRec m (fld (slotVal n i) 0 29) 64)
  let opt (i : Nat) : Option View := if lgetD (slotUse o) i false then some (view i) else none
  { row0 := fld n 0 2, col0 := fld n 2 2, hgt := fld n 4 2, wid := fld n 6 2, aAddr := slotVal n 0,
    a := view 0, b := view 1, c := view 2, res := opt 3, ascl := opt 4, bscl := opt 5, oscl := opt 6,
    colv0 := slotVal n 7, colv1 := slotVal n 8, rowv := slotVal n 9, spmeta := slotVal n 10,
    convR := fld n 384 4, convS := fld n 388 4, strH := fld n 392 3, strW := fld n 395 3, dilH := fld n 398 3,
    dilW := fld n 401 3, padT := fld n 404 4, padB := fld n 408 4, padL := fld n 412 4, padR := fld n 416 4 }

/-- The view records of a curd that break Table 2.6. -/
def curdViewBad (m : List Host.Cell) (o : OpDesc) (n : Nat) : Bool :=
  (List.range 7).any (fun i => lgetD (slotUse o) i false && viewBad (vatRec m (fld (slotVal n i) 0 29) 64))

def ceilDiv (a b : Nat) : Nat := (a + b - 1) / b

/-- Shape rules of stage 7 of R608: R54, R58, R60 and R89. -/
def curdShapeBad (o : OpDesc) (c : Curd) : Bool :=
  let (m, k) := c.mk_ o.conv
  let (kb, n) := c.b.shape
  let kb := if o.sparse then 2 * kb else kb
  let bad (v : Option View) (s : Nat × Nat) : Bool := match v with | some x => x.shape != s | none => false
  let fits (v : Option View) (w : Nat) : Bool := match v with | some x => x.inVat w | none => true
  (o.conv && (c.a.t || c.a.dim 4 != 1 || c.a.dim 5 != 1 || c.ho < 1 || c.wo < 1)) ||
  k != kb || c.c.shape != (m, n) || bad c.res (m, n) ||
  bad c.ascl (m, ceilDiv k (blkSize o.blkA.toNat)) || bad c.bscl (ceilDiv k (blkSize o.blkB.toNat), n) ||
  bad c.oscl (m, ceilDiv n (blkSize o.blkOut.toNat)) ||
  0x7FFFFFFF < m || 0x7FFFFFFF < n || 0x7FFFFFFF < k || (o.sparse && k % 4 != 0) ||
  !c.a.inVat o.fA.width || !c.b.inVat o.fB.width || !c.c.inVat o.fOut.width || !fits c.res o.fRes.width ||
  !fits c.ascl 8 || !fits c.bscl 8 || !fits c.oscl 8

/-- The byte ranges of stage 8 (R46). -/
def curdRanges (o : OpDesc) (c : Curd) : List (Nat × Nat) :=
  let (m, k) := c.mk_ o.conv
  let (_, n) := c.b.shape
  let opt (v : Option View) (w : Nat) : List (Nat × Nat) := match v with | some x => [x.range w] | none => []
  [c.a.range o.fA.width, c.b.range o.fB.width, c.c.range o.fOut.width] ++
  opt c.res o.fRes.width ++ opt c.ascl 8 ++ opt c.bscl 8 ++ opt c.oscl 8 ++
  (if epiUses o.epi 8 then [(c.colv0, 4 * n)] else []) ++ (if epiUses o.epi 9 then [(c.colv1, 4 * n)] else []) ++
  (if epiUses o.epi 10 then [(c.rowv, 4 * m)] else []) ++ (if o.sparse then [(c.spmeta, ceilDiv (k * n) 8)] else []) ++
  (if epiTbl o.epi then [(o.table, 4096)] else [])

/-- The view records that a curd uses, as byte ranges. -/
def viewRecs (o : OpDesc) (n : Nat) : List (Nat × Nat) :=
  (List.range 7).flatMap (fun i =>
    if lgetD (slotUse o) i false then [(fld (slotVal n i) 0 29, 64)] else [])

/-- Stages 5 to 8 of R608, for curd descriptors already read: West count, then all of them in table order. -/
def curdCheck (d : Dev) (s : Step) (rs1 : Nat) (o : OpDesc) (wc : Nat) (recs : List Nat) :
    Except (Status × Nat) OpDesc :=
  let ws := recs.take wc
  let es := recs.drop wc
  let spanBad := match o.span with
    | 0 => !es.isEmpty || ws.isEmpty
    | 1 => !ws.isEmpty || es.isEmpty
    | _ => ws.isEmpty || es.isEmpty
  if recs.any (curdBad o) || spanBad || s.image.decl.w.cur < ws.length || s.image.decl.e.cur < es.length ||
      placeBad d.anvil.retiredQ.w ws || placeBad d.anvil.retiredQ.e es then .error (.malformed, rs1)
  else match s.firstOut (recs.flatMap (viewRecs o)) with
    | some x => .error (.grantViolation, x)
    | none =>
      let cs := recs.map (curdOf d.mem o)
      if recs.any (curdViewBad d.mem o) || cs.any (curdShapeBad o) then .error (.malformed, rs1)
      else match s.firstOut (cs.flatMap (curdRanges o)) with
        | some x => .error (.grantViolation, x)
        | none => .ok { o with curds := ⟨cs.take wc, cs.drop wc⟩ }

/-- The checks of R608 in their order: the failing status with its ADDR, or the operation with its curds. -/
def opCheck (d : Dev) (s : Step) (rs1 : Word) : Except (Status × Nat) OpDesc :=
  let a := rs1.toNat
  if a % 128 != 0 || 0x20000000 ≤ a then .error (.malformed, a)
  else match s.outside a 128 with
    | some x => .error (.grantViolation, x)
    | none =>
      let n := vatRec d.mem a 128
      if opBad n then .error (.malformed, a)
      else
        let wc := fld n 8 5
        let cnt := wc + fld n 13 5
        match s.outside (fld n 64 29) (64 * cnt) with
        | some x => .error (.grantViolation, x)
        | none => curdCheck d s a (opOf n) wc ((List.range cnt).map (fun i => vatRec d.mem (fld n 64 29 + 64 * i) 64))

end Sys2Proof.Machine
end

