-- ==== Sys2Proof/Machine/AnvilMath.lean ====
section
/-!
DEFINITION. What one share of an Anvil operation computes (chapters 02 and 03): products, accumulation with its bound,
the epilogue, output conversion, and the bytes written.
-/
namespace Sys2Proof.Machine

/-- Whether any byte of a range lies in one of the listed ranges. -/
def touches (rs : List (Nat × Nat)) (a n : Nat) : Bool := rs.any (fun r => decide (r.1 < a + n) && decide (a < r.1 + r.2))

/-- The bytes that a container occupies. -/
def elemRange (b w : Nat) : Nat × Nat := (b / 8, ceilDiv w 8)

/-- The kept positions of column `n`: dense position of K and logical row of B (R90, R91). -/
def keptRows (mem : List Host.Cell) (o : OpDesc) (c : Curd) (k n : Nat) : List (Nat × Nat) :=
  if o.sparse then
    (List.range (k / 2)).map (fun q =>
      let ent := elemGet mem (8 * c.spmeta + 4 * (q / 2 + k / 4 * n)) 4
      (4 * (q / 2) + (if q % 2 = 0 then fld ent 0 2 else fld ent 2 2), q))
  else (List.range k).map (fun q => (q, q))

def viewVal (mem : List Host.Cell) (f : Fmt) (v : View) (r c : Nat) : Num := f.val (elemGet mem (v.elem f.width r c) f.width)

/-- A's element, zero in the padding of a convolution. -/
def aVal (mem : List Host.Cell) (o : OpDesc) (c : Curd) (m k : Nat) : Num :=
  match c.aAt o.conv o.fA.width m k with
  | some b => o.fA.val (elemGet mem b o.fA.width)
  | none => Num.zero

/-- A scale of a block, one when the operand is not block-scaled (R87). -/
def scaleAt (mem : List Host.Cell) (blk : BitVec 8) (v : Option View) (r c : Nat) : Num :=
  match v with
  | some x => scaleVal (blkE4m3 blk.toNat) (elemGet mem (x.elem 8 r c) 8)
  | none => .fin false 1 0

/-- BF16 of an FP32 value under R92: a finite value that would overflow takes the largest finite one. -/
def bf16Part (x : Num) : Num :=
  match bf16.rne x, x with
  | .inf s, .fin _ _ _ => .fin s bf16.top.1 bf16.top.2
  | y, _ => y

/-- The products of one pair with its scales: one exact product, or the three of P32 (R92). -/
def pairProducts (p : APath) (a b s : Num) : List Num :=
  if p = .p32 && a.isFin && b.isFin then
    let ah := bf16Part a
    let al := bf16Part (a.sub ah)
    let bh := bf16Part b
    let bl := bf16Part (b.sub bh)
    [(ah.mul bh).mul s, (ah.mul bl).mul s, (al.mul bh).mul s]
  else [(a.mul b).mul s]

/-- Operands of one kept position: A, B and the product of their scales. -/
def pairAt (mem : List Host.Cell) (o : OpDesc) (c : Curd) (m n : Nat) (kq : Nat × Nat) : Num × Num × Num :=
  let ba := blkSize o.blkA.toNat
  let bb := blkSize o.blkB.toNat
  (aVal mem o c m kq.1, viewVal mem o.fB c.b kq.2 n,
   (scaleAt mem o.blkA c.ascl m (kq.1 / ba)).mul (scaleAt mem o.blkB c.bscl (kq.1 / bb) n))

/-- Cut a list into pieces of `n`. -/
def chunks {α : Type} (n : Nat) (l : List α) : List (List α) :=
  (List.range (ceilDiv l.length n)).map (fun i => (l.drop (n * i)).take n)

/-- One PE row's sum: the incoming sum plus every product of a stream step, rounded once (R94). -/
def stepSum (acc : Num) (ps : List Num) : Num := extF.rne (ps.foldl Num.add acc)

/-- Down the column for one tile, and out of it (R94, R95). DESIGN CHOICE (log 169): the sum of a tile starts from +0, so one of
−0 products only is +0. -/
def tileSum (steps : List (List Num)) : Num := fp32.rne (steps.foldl stepSum Num.zero)

/-- The accumulated FP32 value of one output: exit values of the K tiles added in order when weight-resident, one sum when
output-resident (R95). -/
def accFloat (dflow : Bool) (rows : Nat) (steps : List (List Num)) : Num :=
  if dflow then tileSum steps
  else match (chunks rows steps).map tileSum with
    | [] => Num.zero
    | x :: t => t.foldl (fun a b => fp32.rne (a.add b)) x

/-- Saturating INT32 additions of a list of products to zero (R97), one at a time in rising order of K (log 50): the sum and
whether an addition saturated. -/
def sumInt (ps : List Num) : Int × Bool :=
  ps.foldl (fun acc p =>
    let v : Int := match p with | .fin s m e => scaled s m e (min e 0) | _ => 0
    let r := addI32 acc.1 v
    (r.1, acc.2 || r.2)) (0, false)

/-- INT32 accumulation as Table 2.3 moves it: in ACC over all of K when output-resident; down the column in PSUM for each K
tile and then in the output stage, tile after tile, when weight-resident (R31, R97). `per` is the products of one tile. -/
def accInt (dflow : Bool) (per : Nat) (ps : List Num) : Int × Bool :=
  if dflow then sumInt ps
  else match (chunks per ps).map sumInt with
    | [] => (0, false)
    | x :: t => t.foldl (fun acc y => let r := addI32 acc.1 y.1; (r.1, acc.2 || y.2 || r.2)) x

/-- The products of an output in the order in which this run adds them. R105 promises no order of additions: a free
permutation, numbered by `draw`, of the order of K (log 11). One product has one order. -/
def shuffle {α : Type} (draw : Nat) (l : List α) : List α :=
  match l with
  | [] => []
  | [x] => [x]
  | _ =>
    (l.zipIdx).foldl (fun acc p =>
      let i := (Config.freeWord (2 ^ 96 + 2 ^ 64 * draw + p.2)).toNat % (acc.length + 1)
      acc.take i ++ p.1 :: acc.drop i) []

/-! ### The epilogue (R62 to R66) -/

/-- What the sources of Table 2.8 hold for one element, by code: t0–t3 are v and the temporaries. -/
structure EpiCtx where
  k : List Num
  cv0 : Num
  cv1 : Num
  rwv : Num
  res : Num
  tlo : Num
  thi : Num
  tab : List Host.Cell
  tabAt : Nat

def vec32 (mem : List Host.Cell) (base i : Nat) : Num := fp32.val (elemGet mem (8 * (base + 4 * i)) 32)

def EpiCtx.tbl (x : EpiCtx) (i : Nat) : Num := vec32 x.tab x.tabAt i

def epiSrc (x : EpiCtx) (r : List Num) (code : Nat) : Num :=
  if code < 4 then lgetD r code Num.zero
  else if code < 8 then lgetD x.k (code - 4) Num.zero
  else if code = 8 then x.cv0
  else if code = 9 then x.cv1
  else if code = 10 then x.rwv
  else if code = 11 then x.res
  else if code = 13 then .fin false 1 0
  else Num.zero

/-- ⌊p⌋ of a finite nonnegative number. -/
def floorNat : Num → Nat
  | .fin false m e => m * 2 ^ e.toNat / 2 ^ (-e).toNat
  | _ => 0

/-- The clamped place p of an input in the table (R65): none for a NaN. DESIGN CHOICE (log 51): a p that is NaN though the
input is not, an infinite u divided by an infinite d, gives NaN, as R96 treats NaN. -/
def tablePlace (x : EpiCtx) (v : Num) : Option Num :=
  let d := fp32.rne (x.thi.sub x.tlo)
  let u := fp32.rne (v.sub x.tlo)
  let q := fp32.divRne u d
  let p := fp32.rne (q.mul (.fin false 1023 0))
  if v.isNan || p.isNan then none
  else some (if p.lt Num.zero then Num.zero else if (Num.fin false 1023 0).lt p then .fin false 1023 0 else p)

/-- The table function (R65). -/
def epiTable (x : EpiCtx) (v : Num) : Num :=
  match tablePlace x v with
  | none => .nan
  | some p =>
    let i := floorNat p
    if 1023 ≤ i then x.tbl 1023
    else
      let f := p.sub (Num.ofInt i)
      let e := fp32.rne ((x.tbl (i + 1)).sub (x.tbl i))
      fp32.rne ((x.tbl i).add (f.mul e))

/-- The bytes of the table that one evaluation reads. -/
def tableReads (x : EpiCtx) (v : Num) : List (Nat × Nat) :=
  match tablePlace x v with
  | none => []
  | some p =>
    let i := floorNat p
    if 1023 ≤ i then [(x.tabAt + 4 * 1023, 4)] else [(x.tabAt + 4 * i, 8)]

/-- One micro-instruction (Table 2.9). -/
def epiStep (x : EpiCtx) (r : List Num) (i : BitVec 16) : List Num :=
  let a := epiSrc x r (epiA i)
  let b := epiSrc x r (epiB i)
  let dst := epiDst i
  match epiOp i with
  | 1 => lset r dst a
  | 2 => lset r dst (fp32.rne (a.add b))
  | 3 => lset r dst (fp32.rne (a.sub b))
  | 4 => lset r dst (fp32.rne (a.mul b))
  | 5 => lset r dst (fp32.rne ((lgetD r dst Num.zero).add (a.mul b)))
  | 6 => lset r dst (a.max b)
  | 7 => lset r dst (a.min b)
  | 8 => lset r dst a.abs
  | 9 => lset r dst (epiTable x a)
  | _ => r

/-- v after the whole program, from the accumulated value (R62). -/
def epiRun (x : EpiCtx) (epi : List (BitVec 16)) (v : Num) : Num :=
  lgetD (epi.foldl (epiStep x) [v, Num.zero, Num.zero, Num.zero]) 0 Num.zero

/-- The bytes of the table that a whole program reads for one element. -/
def epiReads (x : EpiCtx) (epi : List (BitVec 16)) (v : Num) : List (Nat × Nat) :=
  (epi.foldl (fun (acc : List Num × List (Nat × Nat)) i =>
      (epiStep x acc.1 i, if epiOp i = 9 then acc.2 ++ tableReads x (epiSrc x acc.1 (epiA i)) else acc.2))
    ([v, Num.zero, Num.zero, Num.zero], [])).2

def epiCtx (mem : List Host.Cell) (o : OpDesc) (c : Curd) (m n : Nat) : EpiCtx :=
  { k := o.ks.map (fun k => fp32.val k.toNat), cv0 := vec32 mem c.colv0 n, cv1 := vec32 mem c.colv1 n,
    rwv := vec32 mem c.rowv m,
    res := match c.res with | some v => viewVal mem o.fRes v m n | none => Num.zero,
    tlo := fp32.val o.tblLo.toNat, thi := fp32.val o.tblHi.toNat, tab := mem, tabAt := o.table }

/-! ### One share -/

/-- What an output element becomes: its exact value or INT32 result, flags of its accumulation, and whether it is
undefined (R43, R70, R71). -/
structure OutElem where
  v : Num
  flags : NFlags
  undef : Bool

/-- The bytes that one output element is computed from, beside entries of the epilogue table. -/
def elemReads (mem : List Host.Cell) (o : OpDesc) (c : Curd) (k m n : Nat) : List (Nat × Nat) :=
  let ba := blkSize o.blkA.toNat
  let bb := blkSize o.blkB.toNat
  let byte (v : Option View) (r q : Nat) : List (Nat × Nat) :=
    match v with | some x => [elemRange (x.elem 8 r q) 8] | none => []
  let per (kq : Nat × Nat) : List (Nat × Nat) :=
    (match c.aAt o.conv o.fA.width m kq.1 with | some b => [elemRange b o.fA.width] | none => []) ++
    [elemRange (c.b.elem o.fB.width kq.2 n) o.fB.width] ++ byte c.ascl m (kq.1 / ba) ++ byte c.bscl (kq.1 / bb) n ++
    (if o.sparse then [elemRange (8 * c.spmeta + 4 * (kq.2 / 2 + k / 4 * n)) 4] else [])
  (keptRows mem o c k n).flatMap per ++
  (match c.res with | some v => [elemRange (v.elem o.fRes.width m n) o.fRes.width] | none => []) ++
  (if epiUses o.epi 8 then [(c.colv0 + 4 * n, 4)] else []) ++ (if epiUses o.epi 9 then [(c.colv1 + 4 * n, 4)] else []) ++
  (if epiUses o.epi 10 then [(c.rowv + 4 * m, 4)] else [])

/-- The bytes that one curd writes: outputs, then block scales. -/
def curdOuts (o : OpDesc) (c : Curd) : List (Nat × Nat) :=
  let (m, n) := c.c.shape
  (List.range m).flatMap (fun i => (List.range n).map (fun j => elemRange (c.c.elem o.fOut.width i j) o.fOut.width)) ++
  (match c.oscl with
   | some v => (List.range v.shape.1).flatMap (fun i => (List.range v.shape.2).map (fun j => elemRange (v.elem 8 i j) 8))
   | none => [])

def opOuts (o : OpDesc) : List (Nat × Nat) := (o.curds.w ++ o.curds.e).flatMap (curdOuts o)

/-- Every byte of the operands, scale arrays, vectors, metadata and table of a curd, the elements that stride and dilation skip
included (R46, R70). -/
def curdReads (o : OpDesc) (c : Curd) : List (Nat × Nat) :=
  let (m, n) := c.c.shape
  let k := (c.mk_ o.conv).2
  let mat (v : View) (w : Nat) : List (Nat × Nat) :=
    (List.range v.shape.1).flatMap (fun i => (List.range v.shape.2).map (fun j => elemRange (v.elem w i j) w))
  let opt (v : Option View) (w : Nat) : List (Nat × Nat) := match v with | some x => mat x w | none => []
  mat c.a o.fA.width ++ mat c.b o.fB.width ++ opt c.res o.fRes.width ++ opt c.ascl 8 ++ opt c.bscl 8 ++
  (if epiUses o.epi 8 then [(c.colv0, 4 * n)] else []) ++ (if epiUses o.epi 9 then [(c.colv1, 4 * n)] else []) ++
  (if epiUses o.epi 10 then [(c.rowv, 4 * m)] else []) ++ (if o.sparse then [(c.spmeta, ceilDiv (k * n) 8)] else []) ++
  (if epiTbl o.epi then [(o.table, 4096)] else [])

def opReads (o : OpDesc) : List (Nat × Nat) := (o.curds.w ++ o.curds.e).flatMap (curdReads o)

/-- The value of one output element before conversion (R62, R63). -/
def outElem (mem : List Host.Cell) (o : OpDesc) (c : Curd) (dirty : List (Nat × Nat)) (draw m n : Nat) : OutElem :=
  let k := (c.mk_ o.conv).2
  let pairs := (keptRows mem o c k n).map (pairAt mem o c m n)
  let kpe := o.path.kpe o.sparse
  let width := if o.sparse then kpe / 2 else kpe
  let rows := 256 * (c.hgt + 1)
  let x := epiCtx mem o c m n
  let bad (v : Num) : Bool :=
    (elemReads mem o c k m n ++ epiReads x o.epi v).any (fun r => touches dirty r.1 r.2)
  if o.iacc then
    let (v, sat) := accInt o.dflow (rows * width) (pairs.map (fun t => t.1.mul t.2.1))
    let fl : NFlags := { intSat := sat }
    let f := fp32.rne (Num.ofInt v)
    if o.epi.isEmpty && o.fOut.isInt32 then ⟨Num.ofInt v, fl, bad f⟩ else ⟨epiRun x o.epi f, fl, bad f⟩
  else
    let per := (shuffle draw pairs).map (fun t => pairProducts o.path t.1 t.2.1 t.2.2)
    let v := accFloat o.dflow rows ((chunks width per).map (fun l => l.flatten))
    ⟨epiRun x o.epi v, {}, bad v⟩

/-- One container that a share writes: its bit offset, width, value, the flags of its conversion, and whether its value is
undefined. -/
structure ShareOut where
  at_ : Nat
  w : Nat
  v : Nat
  flags : NFlags
  und : Bool
deriving DecidableEq, Repr

/-- Flags of an undefined conversion: free (log 7). -/
def freeFlags (draw : Nat) : NFlags :=
  let b := (Config.freeByte draw).toNat
  ⟨bit b 0, bit b 1, bit b 2, bit b 3, bit b 4, false, false⟩

/-- A container's value with a free value in each byte that the operation also reads (R70). -/
def mixFree (reads : List (Nat × Nat)) (bitOff w v draw : Nat) : Nat :=
  let fr := (Config.freeWord draw).toNat
  ofLe ((List.range (ceilDiv w 8)).map (fun t =>
    BitVec.ofNat 8 (fld (if touches reads (bitOff / 8 + t) 1 then fr else v) (8 * t) 8)))

/-- One container as it is written: a free value where the element is undefined (R43, R70, R71), free bytes where it falls on
what the operation reads (R70), and zero in the bits that its format of `bits` bits leaves unused (R81). -/
def putOut (reads : List (Nat × Nat)) (bits bitOff w : Nat) (undef : Bool) (v : Nat × NFlags) (draw : Nat) : ShareOut :=
  let r := elemRange bitOff w
  if undef then ⟨bitOff, w, (Config.freeWord draw).toNat % 2 ^ bits, freeFlags (draw + 1), true⟩
  else if touches reads r.1 r.2 then ⟨bitOff, w, mixFree reads bitOff w v.1 draw % 2 ^ bits, v.2, false⟩
  else ⟨bitOff, w, v.1, v.2, false⟩

/-- The rounding mode of one conversion, with its draw when it is stochastic (R98, R101). -/
def OpDesc.mode (o : OpDesc) (draw : Nat) : Round := if o.sround then .draw (Config.freeDraw draw) else .even

/-- The columns of one output block (R103): one where the output is not block-scaled. -/
def OpDesc.outBlk (o : OpDesc) (c : Curd) : Nat := if c.oscl.isSome then blkSize o.blkOut.toNat else 1

/-- One block of outputs along N: block `t` of row `i`. Each element has four free values of its own from `base` on (the order
of its additions, its rounding, and what it holds where it is undefined) and each block two after them, so that every run of
a share takes the same ones. -/
def outBlock (mem : List Host.Cell) (o : OpDesc) (c : Curd) (dirty reads : List (Nat × Nat)) (base i t : Nat) : List ShareOut :=
  let (m, n) := c.c.shape
  let b := o.outBlk c
  let num (j : Nat) : Nat := base + 4 * (i * n + j)
  let w := o.fOut.width
  let es := (List.range (min b (n - b * t))).map (fun q =>
    let j := b * t + q
    (j, outElem mem o c dirty (num j) i j))
  let elem (und : Bool) (r : Nat × NFlags) (p : Nat × OutElem) : ShareOut :=
    putOut reads o.fOut.bits (c.c.elem w i p.1) w und (r.1, r.2.or p.2.flags) (num p.1 + 2)
  match c.oscl with
  | none => es.map (fun p => elem p.2.undef (o.fOut.conv (o.mode (num p.1 + 1)) false p.2.v) p)
  | some sv =>
    let e4 := blkE4m3 o.blkOut.toNat
    let g := match o.fOut with | .mini g => g | .wide g => g | .int _ _ => fp32
    let und := es.any (·.2.undef)
    let vs := es.map (·.2.v)
    let sc := blockScale e4 g vs
    putOut reads 8 (sv.elem 8 i t) 8 und sc (base + 4 * m * n + 2 * (i * ceilDiv n b + t)) ::
    es.map (fun p => elem und
      (if blockSpecial vs then (0, {}) else convScaled o.fOut (o.mode (num p.1 + 1)) (scaleVal e4 sc.1) p.2.v) p)

/-- Every output of one curd, with free values from `base` on. -/
def curdRun (mem : List Host.Cell) (o : OpDesc) (dirty reads : List (Nat × Nat)) (base : Nat) (c : Curd) : List ShareOut :=
  let (m, n) := c.c.shape
  (List.range m).flatMap (fun i =>
    (List.range (ceilDiv n (o.outBlk c))).flatMap (fun t => outBlock mem o c dirty reads base i t))

/-- The free values that a curd takes. -/
def curdDraws (o : OpDesc) (c : Curd) : Nat :=
  let (m, n) := c.c.shape
  4 * m * n + 2 * m * ceilDiv n (o.outBlk c)

/-- The free values that a share takes. -/
def shareDraws (o : OpDesc) (h : Half) : Nat := ((Two.get o.curds h).map (curdDraws o)).sum

/-- A whole share: what it writes. `dirty` holds the bytes undefined for the operation (R43, R71), to which R70 adds its own
outputs, and `base` is the number of its first free value. -/
def shareRun (mem : List Host.Cell) (o : OpDesc) (h : Half) (dirty : List (Nat × Nat)) (base : Nat) : List ShareOut :=
  ((Two.get o.curds h).foldl (fun (a : Nat × List ShareOut) c =>
    (a.1 + curdDraws o c, a.2 ++ curdRun mem o (dirty ++ opOuts o) (opReads o) a.1 c)) (base, [])).2

/-! ### The accumulation buffer (R34) -/

/-- The entries of each column's accumulation buffer, which the curds that cover the column share (R34, Table 2.10). -/
def accEntries : Nat := 2048

/-- How many of a share's curds cover a unit column. -/
def stacked (cs : List Curd) (u : Nat) : Nat := (cs.filter (fun c => decide (c.col0 ≤ u) && decide (u ≤ c.col0 + c.wid))).length

/-- The entries that a weight-resident curd of several K tiles holds in each of its columns: one for each row of its M
chunk, which is its part of the buffer. A curd of one K tile adds nothing up in the output stage, and an output-resident
one accumulates in its PEs (Tables 2.3 and 2.10). -/
def curdEntries (o : OpDesc) (cs : List Curd) (c : Curd) : Nat :=
  let (m, k) := c.mk_ o.conv
  let s := ((List.range (c.wid + 1)).map (fun i => stacked cs (c.col0 + i))).foldl max 1
  if o.dflow || k ≤ 256 * (c.hgt + 1) * o.path.kpe o.sparse then 0 else min m (accEntries / s)

/-- The entries that a share takes, for each of the four unit columns that hold any. -/
def entriesUsed (o : OpDesc) (h : Half) (op : Nat) : List AccUse :=
  let cs := Two.get o.curds h
  ((List.range 4).map (fun u =>
    { op := op, unitCol := u, int32 := o.iacc,
      entries := ((cs.filter (fun c => decide (c.col0 ≤ u) && decide (u ≤ c.col0 + c.wid))).map (curdEntries o cs)).sum })).filter
    (fun (x : AccUse) => x.entries != 0)

/-- Whether the entries that are in use leave room for more: no column holds more than it has (R34). -/
def entriesFit (used more : List AccUse) : Bool :=
  (List.range 4).all (fun u => decide ((((used ++ more).filter (fun x => x.unitCol == u)).map AccUse.entries).sum ≤ accEntries))

end Sys2Proof.Machine
end

