-- ==== Sys2Proof/Machine/Traffic.lean ====
section
/-!
DEFINITION. How traffic leaves its source: Chain routes and streams (chapter 13), the on-package paths and the holds of
R18 and R19, coherence and Rennet messages, and what lets a waiting engine go on.
-/
namespace Sys2Proof.Machine

/-! ### Chain routes (R405) and sending (R411 to R416) -/

def Chain.up (c : Chain) (a b : Nat) : Bool := c.links.contains (min a b, max a b)

/-- The lowest k in 0–7, other than two, whose two links are up. -/
def viaLow (f : Nat → Bool) (x y : Nat) : Option Nat := (List.range 8).find? (fun k => k != x && k != y && f k)

/-- The next node and the channel set of the first hop (Table 13.2); none when the destination is unreachable. -/
def Chain.route (c : Chain) (s t : Nat) : Option (Nat × Nat) :=
  let g := s / 8
  let m := s % 8
  let g' := t / 8
  let m' := t % 8
  if (g = g' || m = m') && c.up s t then some (t, 0)
  else if g ≠ g' && m ≠ m' && c.up s (8 * g + m') && c.up (8 * g + m') t then some (8 * g + m', 0)
  else if g ≠ g' && m ≠ m' && c.up s (8 * g' + m) && c.up (8 * g' + m) t then some (8 * g' + m, 1)
  else if g = g' && m ≠ m' then
    (viaLow (fun k => c.up s (8 * g + k) && c.up (8 * g + k) t) m m').map (fun k => (8 * g + k, 0))
  else if m = m' && g ≠ g' then
    (viaLow (fun k => c.up s (8 * k + m) && c.up (8 * k + m) t) g g').map (fun k => (8 * k + m, 0))
  else none

/-- The port of the active link to a node. -/
def Chain.portTo (c : Chain) (n : Nat) : Option Nat :=
  (c.ports.find? (fun p => p.2.st == .upActive && p.2.farNode == n)).map (·.1)

/-- LIVE and routed: an access may leave now (R430). -/
def Dev.reach (d : Dev) (n : Nat) : Bool :=
  d.live n && (match d.chain.route d.chain.node n with | some r => (d.chain.portTo r.1).isSome | none => false)

/-- The virtual channel of a packet: three sets of seven classes, then acknowledgements (R406). -/
def pktChan (k : ChainPkt) : Nat := if k.cls.val = 7 then 21 else 7 * k.vset.toNat + k.cls.val

/-- Credits a packet takes (R411). -/
def pktCredits (k : ChainPkt) : Nat := ceilDiv (16 + 16 * k.len.toNat) 256

/-- Bytes of a link frame (R408): a packet fills a frame of its own, of at least 64 bytes (log 186). -/
def frameBytes : Option ChainPkt → Nat
  | some k => max 64 (16 + 16 * k.len.toNat)
  | none => 64

/-- Whether a port holds the credits for a packet, 16 reserved for each channel, the rest shared, at most 5,968 to one channel (R411),
and has room for its frame in the replay buffer of 1 MiB (R408). -/
def Port.canSend (p : Port) (k : ChainPkt) : Bool :=
  !p.retrain &&
  let u := lgetD p.used (pktChan k) 0 + pktCredits k
  let shared := ((lset p.used (pktChan k) u).map (fun x => x - 16)).sum
  (decide (u ≤ 16) || (decide (u - 16 ≤ 5968) && decide (shared ≤ 11936))) &&
  decide ((p.replayBuf.map (·.2)).sum + frameBytes (some k) ≤ 2 ^ 20)

/-- A 256-bit nonce from the entropy source. -/
def Dev.entropy (d : Dev) : BitVec 256 × Dev := let (i, d) := d.draw; (Config.entropy i, d)

/-- A rekey begins (R420): this end's new nonce leaves; the old key stays in use until the far end confirms. -/
def Dev.rekey (d : Dev) (pn : Nat) : Dev :=
  let (n, d) := d.entropy
  (d.modPort pn (fun q => { q with rekeying := true, nonce := n })).emit (.linkRekey pn n)

/-- Frames of either direction after which a port rekeys (R420). -/
def rekeyFrames : Nat := 2 ^ 32

def Dev.rekeyDue (d : Dev) (pn : Nat) : Dev :=
  let q := d.port pn
  if !q.rekeying && (decide (rekeyFrames ≤ q.frameCtr) || decide (rekeyFrames ≤ q.rxCtr)) then d.rekey pn else d

/-- The key and the salt of this node's direction of a link (Table 13.5). -/
def Port.txKey (p : Port) (own : Nat) : BitVec 256 × BitVec 32 :=
  if own < p.farNode then (p.key.extractLsb' 0 256, p.key.extractLsb' 512 32) else (p.key.extractLsb' 256 256, p.key.extractLsb' 544 32)

/-- The nonce of the next frame of a port: the direction's salt and the frame counter (R418). -/
def Port.nonce96 (p : Port) (own : Nat) : BitVec 96 := (p.txKey own).2 ++ BitVec.ofNat 64 p.frameCtr

/-- One link frame leaves a port, with a packet or idle: it carries its sequence number, the next that this end expects, and the credits
that it owes, and it is kept for replay (R408, R409, R418). -/
def Dev.frameOut (d : Dev) (pn : Nat) (k : Option ChainPkt) : Dev :=
  let p := d.port pn
  let h : LinkHdr := { seq := p.txSeq, ack := p.rxSeq, credits := p.owed }
  let aad := leBytes 3 h.seq.toNat ++ leBytes 2 (frameBytes k)
  let d := d.modPort pn (fun p =>
    { p with txSeq := p.txSeq + 1, frameCtr := p.frameCtr + 1, replayBuf := p.replayBuf ++ [(p.txSeq, frameBytes k)],
             owed := List.replicate 22 0 })
  (d.emit (.linkFrame pn h (p.nonce96 d.chain.node) k (Config.gcmSeal (p.txKey d.chain.node).1 (p.nonce96 d.chain.node) aad k))).rekeyDue pn

/-- Put a packet on a port, taking its credits. -/
def Dev.portSend (d : Dev) (pn : Nat) (k : ChainPkt) : Dev :=
  (d.modPort pn (fun p => { p with used := lset p.used (pktChan k) (lgetD p.used (pktChan k) 0 + pktCredits k) })).frameOut pn (some k)

/-- A packet leaves the receive buffer of a port: its credits are to be returned (R411). -/
def Dev.owe (d : Dev) (pn : Nat) (k : ChainPkt) : Dev :=
  d.modPort pn (fun p => { p with owed := lset p.owed (pktChan k) (lgetD p.owed (pktChan k) 0 + pktCredits k) })

def streamKey (node cls : Nat) : Nat := 8 * node + cls

/-- Send a packet now if a route, the stream's window and credits allow (R411, R414, R430). -/
def Dev.trySend (d : Dev) (dst : Nat) (k : ChainPkt) : Option Dev :=
  match d.chain.route d.chain.node dst with
  | none => none
  | some (nh, vs) =>
    match d.chain.portTo nh with
    | none => none
    | some pn =>
      let key := streamKey dst k.cls.val
      let st := tgetD d.chain.tx key {}
      let k := { k with seq := st.seq, vset := BitVec.ofNat 2 vs }
      let p := tgetD d.chain.ports pn {}
      if 4096 ≤ st.unacked.length || !p.canSend k then none
      else
        let d := d.modChain (fun c =>
          { c with tx := tput c.tx key { st with seq := st.seq + 1, unacked := st.unacked ++ [k] } })
        some (d.portSend pn k)

/-- Send every waiting packet that may leave, keeping each stream's order. -/
def flushList : Dev → List (Nat × ChainPkt) → List (Nat × ChainPkt) → Dev
  | d, [], keep => d.modChain (fun c => { c with waitSend := keep })
  | d, (n, k) :: t, keep =>
    if keep.any (fun q => q.1 == n && q.2.cls == k.cls) then flushList d t (keep ++ [(n, k)])
    else match d.trySend n k with
      | some d => flushList d t keep
      | none => flushList d t (keep ++ [(n, k)])

/-- Transit packets leave by the active link to their last hop, each channel's in order; one whose link has gone is lost, as its source
resends it (R398, R406, R416). -/
def transitList : Dev → List (Nat × ChainPkt) → List (Nat × ChainPkt) → Dev
  | d, [], keep => d.modChain (fun c => { c with transit := keep })
  | d, (pin, k) :: t, keep =>
    match d.chain.portTo k.dst.toNat with
    | none => transitList (d.owe pin k) t keep
    | some pn =>
      let src := k.src.toNat
      let dst := k.dst.toNat
      let out := { k with vset := if src / 8 = dst / 8 || src % 8 = dst % 8 then 2 else k.vset }
      if keep.any (fun q => q.2.dst == k.dst && pktChan q.2 == pktChan k) || !(d.port pn).canSend out then transitList d t (keep ++ [(pin, k)])
      else transitList ((d.owe pin k).portSend pn out) t keep

def Dev.flushSend (d : Dev) : Dev :=
  let d := if d.chain.transit.isEmpty then d else transitList d d.chain.transit []
  flushList d d.chain.waitSend []

/-- Which unit a packet names as its source (Table 13.4): UTYPE, UNIT with the half in bit 9. -/
def agentUnit (slice : Nat) : Agent → Nat × Nat
  | .core h => (0, h.val % 32 + 512 * (h.val / 32))
  | .engine e => (1, engIdx e + 512 * (e.val / 64))
  | .tongs e c => (2, 4 * engIdx e + c.val + 512 * (e.val / 64))
  | .proxy => (3, slice % 16 + 512 * (slice / 16))
  | .node _ => (3, slice % 16 + 512 * (slice / 16))
  | _ => (6, 0)

/-- Current incarnation of a quenchable unit; zero for the others (R519). -/
def Dev.incOf (d : Dev) (u : UnitId) : BitVec 4 :=
  match d.faults.units.find? (fun p => p.1 == u) with
  | some p => p.2.inc
  | none => 0

def engUnit (e : Fin 128) : UnitId := ⟨2, dieOf (engHalf e), BitVec.ofNat 16 (engIdx e)⟩
def coreUnit (h : Fin 64) : UnitId := ⟨4, dieOf (coreHalf h), BitVec.ofNat 16 h.val⟩
def tongsUnit (h : Half) (t : Nat) : UnitId := ⟨3, dieOf h, BitVec.ofNat 16 t⟩
def anvilUnit (h : Half) : UnitId := ⟨1, dieOf h, 0⟩

def Dev.agentInc (d : Dev) : Agent → BitVec 4
  | .core h => d.incOf (coreUnit h)
  | .engine e => d.incOf (engUnit e)
  | .tongs e c => d.incOf (tongsUnit (engHalf e) (4 * (engIdx e / 8) + c.val))
  | _ => 0

/-- Send, or queue at the source, one packet to a LIVE node; `slice` is the home or proxy slice that it comes from. -/
def Dev.chainSend (d : Dev) (dst : Nat) (cls : Fin 8) (src : Agent) (ctx pd tag len : Nat) (body : ChainBody) (slice : Nat := 0) : Dev :=
  let (ut, un) := agentUnit slice src
  let k := d.packet dst cls ut un (d.agentInc src) ctx pd tag len body
  let d := d.modChain (fun c => { c with waitSend := c.waitSend ++ [(dst, k)] })
  d.flushSend

def Dev.newTag (d : Dev) : Nat × Dev :=
  (d.chain.nextTag, d.modChain (fun c => { c with nextTag := c.nextTag % (2 ^ 32 - 1) + 1 }))

/-! ### Who acts for whom -/

/-- The half a source sits in; the Hub's units have none. -/
def agentHalf : Agent → Option Half
  | .core h => some (coreHalf h)
  | .engine e => some (engHalf e)
  | .tongs e _ => some (engHalf e)
  | _ => none

def Dev.engCtx (d : Dev) (e : Fin 128) : Option Nat := (d.eng e).step.bind (fun n => (d.step? n).map (·.ctx))

/-- The context a source's writes belong to. -/
def Dev.agentCtx (d : Dev) : Agent → Option Nat
  | .engine e => d.engCtx e
  | .tongs e _ => d.engCtx e
  | .region r => (tget d.host.regions r.val).map (·.ctx)
  | .aperture i => (tget d.host.ap i.val).map (·.ctx.toNat)
  | _ => none

def Dev.agentStep (d : Dev) : Agent → Option Nat
  | .engine e => (d.eng e).step
  | .tongs e _ => (d.eng e).step
  | _ => none

def Dev.pdOf (d : Dev) (c : Nat) : Nat := match d.ctx? c with | some x => x.pd.toNat | none => 0

/-- The context and the protection domain that a source's packets carry: those of a core's spdom (R292), or its context's. -/
def Dev.agentDom (d : Dev) (a : Agent) : Nat × Nat :=
  match a with
  | .core h => (fld (d.core h).spdom.toNat 8 12, fld (d.core h).spdom.toNat 0 8)
  | _ => let c := (d.agentCtx a).getD 0; (c, d.pdOf c)

def Dev.engSrc (d : Dev) (e : Fin 128) : RSrc :=
  let c := (d.engCtx e).getD 0
  { node := BitVec.ofNat 8 d.ownNode, srct := 0, srcid := BitVec.ofNat 16 (engIdx e), half := engHalf e,
    ctx := Fin.ofNat 4096 c, pd := BitVec.ofNat 8 (d.pdOf c) }

/-! ### Vats (R70, R71, R173, R177) -/

/-- Mark bytes as written under every running operation but one (R71). -/
def Dev.dirtyOps (d : Dev) (v n : Nat) (but : Option Nat) : Dev :=
  d.modAnvil (fun a =>
    { a with ops := a.ops.map (fun p =>
        if (p.2.started.w || p.2.started.e) && some p.1 != but then (p.1, { p.2 with dirtied := p.2.dirtied ++ [(v, n)] })
        else p) })

/-- A write performed at a Vat bank. -/
def Dev.vatPut (d : Dev) (v : Nat) (bs : List Byte) (but : Option Nat) : Dev :=
  (d.wr (vatOff v) bs).dirtyOps v bs.length but

/-- Whether a Vat range is granted to a running step of the context (R177). -/
def Dev.vatOpen (d : Dev) (ctx v n : Nat) : Bool :=
  d.sched.steps.any (fun p => p.2.ctx == ctx && p.2.phase == .running && p.2.covers v n)

/-! ### Paths and holds (R15 to R19) -/

/-- The kinds of traffic of Table 1.4, row by row; `memory` and `vat` are accesses of vector engines, Tongs engines and the
Anvil, and `tongsMove` a transfer's copies, gathers and scatters. -/
inductive Traffic where
  | memory
  | vat
  | tongsMove
  | operand
  | coherence
  | reduction
  | control
  | tierData
  | io
  | coreVat
deriving DecidableEq, Repr

/-- Whether a kind of traffic crosses between the halves on the Weld (Table 1.4). -/
def Traffic.onWeld : Traffic → Bool
  | .memory => true
  | .vat => true
  | .tongsMove => true
  | .operand => true
  | _ => false

/-- The single Hoop link that joins two dies (R17). -/
def hoopLink : Die → Die → Option HoopLink
  | .hub, .west => some .hubWest
  | .west, .hub => some .hubWest
  | .west, .east => some .westEast
  | .east, .west => some .westEast
  | .hub, .east => some .eastHub
  | .east, .hub => some .eastHub
  | _, _ => none

/-- Table 1.4: the path between two dies; within one die no link is taken. -/
def trafficPath (k : Traffic) (a b : Die) : Path :=
  match hoopLink a b with
  | none => .near
  | some l => if k.onWeld && l == .westEast then .weld else .hoop l

/-- The die that a source sits on (Table 1.2). -/
def agentDie (a : Agent) : Die := match agentHalf a with | some h => dieOf h | none => .hub

/-- What kind of traffic a source's access to a target of this node is: `red` for a RED message. -/
def Dev.trafficOf (d : Dev) (src : Agent) (t : Target) (red : Bool) : Traffic :=
  let tensor := match src with | .engine _ => true | .tongs _ _ => true | _ => false
  let move := match src with | .tongs _ _ => true | _ => false
  match t with
  | .umr off =>
    if red then .reduction
    else if tensor && d.backing off == .hbm then (if move then .tongsMove else .memory)
    else if (agentHalf src).isNone then .io else .coherence
  | .vat _ => if move then .tongsMove else if tensor then .vat else .coreVat
  | .rennet _ _ => .control
  | _ => .io

/-- The path of an access to a target (Table 1.4). -/
def Dev.pathOf (d : Dev) (src : Agent) (t : Target) (red : Bool) : Path :=
  let go (h : Half) : Path := trafficPath (d.trafficOf src t red) (agentDie src) (dieOf h)
  let out := hoopLink (agentDie src) .hub
  match t with
  | .umr off => go (d.homeHalf off)
  | .vat off => go (vatHalf off)
  | .rennet obj _ => go (halfOf (decide (65536 ≤ obj)))
  | .host _ => .pcie out
  | .remote _ _ => .chain out
  | _ => .near

/-- The path of a coherence message between the agent it concerns and the home or proxy slice of its line (R15, R17): a write of
a vector or Tongs engine goes as its kind of traffic does, a RED and every other message on the Hoop. -/
def Dev.msgPath (d : Dev) (m : NMsg) : Path :=
  let home := if m.addr < 2 ^ 48 then dieOf (d.homeHalf m.addr) else dieOf (halfOf (bit m.addr 12))
  match m.kind with
  | .wrLine => if m.addr < 2 ^ 48 then d.pathOf m.who (.umr m.addr) false else trafficPath .coherence (agentDie m.who) home
  | .wrPart => if m.addr < 2 ^ 48 then d.pathOf m.who (.umr m.addr) false else trafficPath .coherence (agentDie m.who) home
  | .red => trafficPath .reduction (agentDie m.who) home
  | _ => trafficPath .coherence (agentDie m.who) home

/-- The path of a Rennet message: on the Hoop between the die of its source or of the engine it wakes and the object's half. -/
def Dev.rmsgPath (d : Dev) (m : RMsg) (obj : Nat) : Path :=
  let bank := dieOf (halfOf (decide (65536 ≤ obj)))
  let of (s : RSrc) : Die := if s.node.toNat = d.ownNode && s.srct.toNat < 4 then dieOf s.half else .hub
  match m with
  | .sig s _ _ _ _ _ => trafficPath .control (of s) bank
  | .add s _ _ _ => trafficPath .control (of s) bank
  | .wait s _ _ _ _ => trafficPath .control (of s) bank
  | .wake e _ => trafficPath .control bank (dieOf (engHalf e))

/-- The path of an operand that one half's Vat sends to the array of a half. -/
def operandPath (v : Nat) (h : Half) : Path := trafficPath .operand (dieOf (halfOf (bit v 28))) (dieOf h)

/-- The path on which the data of a DDR-backed or Cave-backed frame moves between the Hub and the half that asks. -/
def Dev.tierPath (d : Dev) (off : Nat) (h : Half) : Option Path :=
  match d.backing off with
  | .ddr => some (trafficPath .tierData .hub (dieOf h))
  | .cave => some (trafficPath .tierData .hub (dieOf h))
  | _ => none

/-- Whether two paths are the two on-package link classes, Weld and Hoop (R18). -/
def otherLink : Path → Path → Bool
  | .weld, .hoop _ => true
  | .hoop _, .weld => true
  | _, _ => false

/-- A coherence message leaves for its destination. -/
def Dev.send (d : Dev) (m : NMsg) : Dev := d.modCoh (fun c => { c with noc := c.noc ++ [m] })

/-- Take the first in-flight message that a predicate accepts. -/
def takeMsg (f : NMsg → Bool) : List NMsg → Option NMsg × List NMsg
  | [] => (none, [])
  | m :: t => if f m then (some m, t) else let (r, l) := takeMsg f t; (r, m :: l)

def Dev.take (d : Dev) (f : NMsg → Bool) : Option NMsg × Dev :=
  let (r, l) := takeMsg f d.coh.noc
  (r, d.modCoh (fun c => { c with noc := l }))

/-- The message of one write piece. -/
def writeMsg (src : Agent) (off : Nat) (bs : List Byte) : NMsg :=
  { kind := if off % 64 = 0 && bs.length = 64 then .wrLine else .wrPart, who := src, addr := off, bytes := bs }

def redMsg (src : Agent) (off : Nat) (bs : List Byte) (r : RedOp × RType) : NMsg :=
  { kind := .red, who := src, addr := off, bytes := bs, red := r.1, ty := r.2 }

/-- The translation that the Hub holds of a host address of a context that uses ATS (R331), and the address as sent. -/
def Dev.atsHeld (d : Dev) (ctx : Option Nat) (a : Nat) : Option Nat :=
  match ctx.bind d.ctx?, ctx with
  | some c, some n =>
    if c.ats then
      (d.host.atsCache.find? (fun x => x.1 == n && x.2.1 == a / 4096)).map (fun x => x.2.2.toNat / 4096 * 4096 + a % 4096)
    else none
  | _, _ => none

def Dev.hostAddr (d : Dev) (ctx : Option Nat) (a : Nat) : Nat := (d.atsHeld ctx a).getD a

/-- The PASID of a context's root, which tags its accesses to host memory (R330). -/
def Dev.ctxPasid (d : Dev) (ctx : Option Nat) : Option Nat := ctx.bind (fun c => (d.ctx? c).bind (fun x => x.root.map (fun r => r.2.toNat)))

/-- The read of host memory that an access of a context sends (R330, R331). -/
def Dev.hostGet (d : Dev) (ctx : Option Nat) (a n : Nat) : Dev :=
  d.emit (.hostRead (d.hostAddr ctx a) n (d.ctxPasid ctx) (d.atsHeld ctx a).isSome)

/-- An access to host memory of a context that uses ATS waits while the Hub holds no translation of its page; the first such
access requests one (R331). -/
def Dev.atsWait (d : Dev) (ctx : Option Nat) (a : Nat) : Option Dev :=
  match ctx.bind d.ctx?, ctx with
  | some c, some n =>
    if !c.ats || (d.atsHeld ctx a).isSome then none
    else if d.host.atsAsked.contains (n, a / 4096) then some d
    else some ((d.modHost (fun h => { h with atsAsked := h.atsAsked ++ [(n, a / 4096)] })).emit
      (.atsRequest (a / 4096 * 4096) (d.ctxPasid ctx)))
  | _, _ => none

/-- A write leaves its source: as a coherence message, at once at a Vat bank or to the host, or on the Chain. A write to
a node that is not LIVE is discarded with a LOST_STORE record (R211, Table 13.7). -/
def Dev.launch (d : Dev) (w : OutW) (t : Target) : Dev :=
  let cx := d.agentCtx w.src
  match t with
  | .umr off =>
    let m := match w.red with | some r => redMsg w.src off w.bytes r | none => writeMsg w.src off w.bytes
    { (d.send m) with writes := d.writes ++ [{ w with held := false }] }
  | .vat off => d.vatPut (off - vatBase) w.bytes none
  | .host a => d.emit (.hostWrite (d.hostAddr cx a) w.bytes (d.ctxPasid cx) (d.atsHeld cx a).isSome)
  | .remote n off =>
    if !d.live n then d.lostStore w.src (d.agentCtx w.src) w.step n w.addr w.bytes.length w.red.isSome
    else if (match w.src, localTarget off with | .core _, .umr _ => true | _, _ => false) then
      { (d.send (writeMsg w.src ((n + 1) * 2 ^ 48 + off) w.bytes)) with writes := d.writes ++ [{ w with held := false }] }
    else
      let (tag, d) := d.newTag
      let dom := d.agentDom w.src
      let body := match w.red with
        | some r => ChainBody.red r.1 r.2 (BitVec.ofNat 64 w.addr) w.bytes
        | none => ChainBody.write (BitVec.ofNat 64 w.addr) w.bytes
      let d := { d with writes := d.writes ++ [{ w with held := false, tag := tag }] }
      d.chainSend n (if w.red.isSome then 5 else 0) w.src dom.1 dom.2 tag w.bytes.length body
  | _ => d

/-- One source of Table 7.1: the host is one PCIe requester whatever aperture it writes through, and a peer's writes belong to
its requester whatever region they land in. -/
def sameSource (a : Agent) (ra : Nat) (b : Agent) (rb : Nat) : Bool :=
  match a, b with
  | .aperture _, .aperture _ => true
  | .region _, .region _ => ra == rb
  | _, _ => a == b

def OutW.of (w : OutW) (src : Agent) (rq : Nat) : Bool := sameSource w.src w.rq src rq

/-- Whether a source keeps its writes to one destination in order (Table 7.1); a Tongs channel keeps none within a transfer,
and a later transfer starts when every write of the one before is acknowledged (R186). -/
def keepsOrder : Agent → Bool
  | .tongs _ _ => false
  | _ => true

/-- The destination of a write (chapter 07): this node, another node, or the host's memory. -/
def destKey : Target → Nat
  | .remote n _ => n
  | .host _ => 256
  | _ => 255

/-- Memory of a UMR, whose home performs the plain writes of one source in the order they arrive. -/
def isUmrT : Target → Bool
  | .umr _ => true
  | .remote _ off => (match localTarget off with | .umr _ => true | _ => false)
  | _ => false

/-- Whether a write goes through a proxy slice, which has one request of a line out at a time and may send a later one first. -/
def byProxy (src : Agent) (t : Target) : Bool :=
  match src, t with
  | .core _, .remote _ _ => true
  | _, _ => false

/-- Whether an earlier write of the same source holds a new one back: it is outstanding on the other on-package link
(R18), or it goes to the same destination and nothing but its performance can keep the order of the two (R222). `mem` marks a
plain write of memory. -/
def Dev.holdsBack (d : Dev) (src : Agent) (p : Path) (t : Target) (mem : Bool) (w : OutW) : Bool :=
  let tw := d.target true w.addr
  otherLink p w.path ||
    (keepsOrder src && destKey t == destKey tw && !w.done && !(mem && w.what == .mem && isUmrT t && isUmrT tw && !byProxy src t))

/-- Whether a Rennet operation of a source is on its way to a bank of this node. -/
def Dev.rennetOut (d : Dev) (src : Agent) (f : Nat → Bool) : Bool :=
  d.rennet.msgs.any (fun m => match m with
    | .sig s .sig obj _ _ _ => (match d.srcAgent s with | some a => sameSource a 0 src 0 && f obj | none => false)
    | .add s obj _ _ => (match d.srcAgent s with | some a => sameSource a 0 src 0 && f obj | none => false)
    | _ => false)

/-- The accesses of a core that wait for lines, oldest first in each line. -/
def Core.accs (c : Core) : List CAcc := c.lines.flatMap (fun p => p.2.acc) ++ c.waitAcc

/-- The address of a store that waits. -/
def CAcc.storeAt : CAcc → Option Nat
  | .store a _ => some a
  | .zero a => some a
  | .amo _ a _ _ => some a
  | _ => none

/-- Whether a store of a core waits for a line of a destination (R262). -/
def Dev.lineStores (d : Dev) (src : Agent) (f : Nat → Bool) : Bool :=
  match src with
  | .core h => (d.core h).accs.any (fun a => match a.storeAt with
      | some x => f (if x < 2 ^ 48 then 255 else x / 2 ^ 48 - 1)
      | none => false)
  | _ => false

/-- Whether an operation of a source must wait at the source for an earlier one (R18, R222). Operations on Rennet objects
(`bank`) reach their banks in order, so that they follow one another. -/
def Dev.mustHold (d : Dev) (src : Agent) (rq : Nat) (p : Path) (t : Target) (mem bank : Bool) : Bool :=
  d.writes.any (fun w => w.of src rq && (w.held || d.holdsBack src p t mem w)) ||
  (keepsOrder src && !bank && destKey t == 255 && d.rennetOut src (fun _ => true)) ||
  d.lineStores src (· == destKey t)

/-- One spelling of an address of this node (R21). -/
def canonAddr (t : Target) (a : Nat) : Nat :=
  match t with
  | .umr off => 0xFF * 2 ^ 48 + off
  | .vat off => 0xFF * 2 ^ 48 + off
  | _ => a

/-- Issue one write piece (R18, R222). -/
def Dev.issueWrite (d : Dev) (src : Agent) (addr : Nat) (bs : List Byte) (red : Option (RedOp × RType)) (rq : Nat := 0) : Dev :=
  let t := d.target true addr
  let p := d.pathOf src t red.isSome
  let w : OutW := { src := src, addr := canonAddr t addr, bytes := bs, path := p, red := red, step := d.agentStep src, rq := rq }
  if d.mustHold src rq p t true false then { d with writes := d.writes ++ [{ w with held := true }] } else d.launch w t

/-- Bytes cut into naturally aligned units of `u` bytes that they cover wholly, and single bytes otherwise (Table 7.3). -/
def cutUnits (u : Nat) : Nat → Nat → List Byte → List (Nat × List Byte)
  | 0, _, _ => []
  | _ + 1, _, [] => []
  | k + 1, off, b :: t =>
    if off % u = 0 && u ≤ t.length + 1 then (off, (b :: t).take u) :: cutUnits u k (off + u) ((b :: t).drop u)
    else (off, [b]) :: cutUnits u k (off + 1) t

/-- The units of single-copy atomicity of a write (Table 7.3): whole lines; of a partial line, the aligned 8 bytes or bytes of
the host and peers, and the elements of `u` bytes of the others. A reduction keeps its lines: its home takes it element by
element (R274). -/
def writeUnits (src : Agent) (u addr : Nat) (bs : List Byte) (red : Bool) : List (Nat × List Byte) :=
  (lines64 addr bs).flatMap (fun p =>
    if p.2.length = 64 || red then [p]
    else match src with
      | .aperture _ => cutUnits 8 p.2.length p.1 p.2
      | .region _ => cutUnits 8 p.2.length p.1 p.2
      | _ => if u = 0 then [p] else cutUnits u p.2.length p.1 p.2)

/-- Issue a write of any length in its units; `u` is the element's width in bytes, and zero for one access of a core or an
engine. -/
def Dev.issueWrites (d : Dev) (src : Agent) (addr : Nat) (bs : List Byte) (red : Option (RedOp × RType)) (u : Nat := 0)
    (rq : Nat := 0) : Dev :=
  foldDev d (writeUnits src u addr bs red.isSome) (fun d p => d.issueWrite src p.1 p.2 red rq)

def removeFirst {α : Type} (f : α → Bool) : List α → List α
  | [] => []
  | a :: t => if f a then t else a :: removeFirst f t

/-- A write is acknowledged to its source. -/
def Dev.ackWrite (d : Dev) (f : OutW → Bool) : Dev := { d with writes := removeFirst (fun w => !w.held && f w) d.writes }

/-- Whether an outstanding write lies in the location set of a release (Table 7.2, R225). -/
def Dev.inScope (d : Dev) (src : Agent) (sc : Scope) (w : OutW) : Bool :=
  let mine (h : Half) : Bool := agentHalf src == some h
  match sc with
  | .engine => false
  | .cluster | .half =>
    (match d.target true w.addr with
     | .umr off => mine (d.homeHalf off)
     | .vat off => mine (vatHalf off)
     | .rennet obj _ => mine (halfOf (decide (65536 ≤ obj)))
     | _ => false)
  | .package => (match w.path with | .chain _ => false | _ => true)
  | .fabric => true

/-- Whether an object of this node lies in the location set of a release (Table 7.2). -/
def objInScope (src : Agent) (sc : Scope) (obj : Nat) : Bool :=
  match sc with
  | .engine => false
  | .cluster => agentHalf src == some (halfOf (decide (65536 ≤ obj)))
  | .half => agentHalf src == some (halfOf (decide (65536 ≤ obj)))
  | _ => true

/-- Whether a release at a scope has completed (R19, R143): the source's writes and Rennet operations of its location set are
acknowledged. -/
def Dev.released (d : Dev) (src : Agent) (sc : Scope) : Bool :=
  !d.writes.any (fun w => w.of src 0 && d.inScope src sc w) && !d.rennetOut src (objInScope src sc) &&
  !(sc != .engine && d.lineStores src (fun k => sc == .fabric || k == 255))

/-! ### Rennet messages (R140, R211, R212) -/

/-- Send a Rennet operation to the object's bank on this node, or over the Chain as class CTL. -/
def Dev.rennetSend (d : Dev) (n : Option Nat) (src : Agent) (step : Option Nat) (m : RMsg) : Dev :=
  match n with
  | none => d.modRennet (fun r => { r with msgs := r.msgs ++ [m] })
  | some node =>
    let far := 2 ^ 48 * node + rennetBase
    let go (s : RSrc) (tag : Nat) (b : ChainBody) (d : Dev) := d.chainSend node 6 src s.ctx.val s.pd.toNat tag 16 b
    match m with
    | .sig s _ obj v _ _ =>
      if d.live node then
        let (tag, d) := d.newTag
        let w : OutW := { src := src, addr := far + 64 * obj, bytes := leBytes 8 v.toNat, path := d.pathOf src (.remote node 0) false, step := step,
                          tag := tag, what := .sig s obj v }
        go s tag (.rennetSig (Fin.ofNat 131072 obj) v) { d with writes := d.writes ++ [w] }
      else d.lostStore src (some s.ctx.val) step node (far + 64 * obj) 8 false true
    | .add s obj v _ =>
      match src with
      | .engine e =>
        let (tag, d) := d.newTag
        let d := d.modChain (fun c => { c with reqs := c.reqs ++ [⟨tag, e, node, far + 64 * obj⟩] })
        go s tag (.rennetAdd (Fin.ofNat 131072 obj) v) d
      | _ => d
    | .wait s obj v sc _ =>
      match src with
      | .engine e =>
        let (tag, d) := d.newTag
        let d := d.modChain (fun c => { c with reqs := c.reqs ++ [⟨tag, e, node, far + 64 * obj⟩] })
        go s tag (.rennetWait (Fin.ofNat 131072 obj) v e sc) d
      | _ => d
    | .wake _ _ => d

/-- Where a Rennet instruction's address leads: the node when it is not this one, and the object (R140). -/
def Dev.rennetAddr (d : Dev) (a : Word) : Option (Option Nat × Nat) :=
  match d.target false a.toNat with
  | .rennet obj _ => some (none, obj)
  | .remote n off =>
    (match localTarget off with | .rennet obj _ => some (some n, obj) | _ => none)
  | _ => none

/-- A DONE signal of a step: add 1 to an object of this node (R47, R186, R205). -/
def Dev.doneSignal (d : Dev) (srct srcid : Nat) (h : Half) (ctx obj step : Nat) : Dev :=
  let s : RSrc := { node := BitVec.ofNat 8 d.ownNode, srct := BitVec.ofNat 4 srct, srcid := BitVec.ofNat 16 srcid, half := h,
                    ctx := Fin.ofNat 4096 ctx, pd := BitVec.ofNat 8 (d.pdOf ctx) }
  d.modRennet (fun r => { r with msgs := r.msgs ++ [.sig s .done obj 1 none (some step)] })

/-! ### Engines that wait (R129, R135 to R145) -/

def Engine.dropL1 (e : Engine) : Engine := { e with l1d := [] }

/-- A line that an atomic of the engine has changed at its home leaves the L1 (R224). -/
def Engine.dropLine (e : Engine) (line : Nat) : Engine := { e with l1d := e.l1d.filter (fun p => p.1 != line) }

/-- An acquire at a scope: wider than ENGINE, it invalidates the L1 (R122, R143). -/
def Engine.acquire (e : Engine) (sc : Scope) : Engine := if sc = .engine then e else e.dropL1

/-- Whether the engine runs code now: its step runs, or has ended and awaits the end of the engine's instruction (R129, R168). -/
def Dev.canRun (d : Dev) (e : Fin 128) : Bool :=
  let x := d.eng e
  x.run == .running && !x.halted &&
    (match x.step with
     | some n => (match d.step? n with
        | some s => (s.phase == .running && s.outcome.isNone) || (x.mid && s.phase == .draining)
        | none => false)
     | none => false)

def Dev.setRun (d : Dev) (e : Fin 128) (r : EngRun) : Dev := d.modEng e (fun x => { x with run := r })

/-- Whether a ticket wait of an engine on its transfers is met (R139). -/
def Dev.tongsDone (d : Dev) (e : Fin 128) (t : Word) : Bool :=
  let last := (d.eng e).tTicket
  let lim := if t = 0 || last < t.toNat then last else t.toNat
  !(List.range 4).any (fun c => (tgetD d.tongs (4 * e.val + c) []).any (fun x => decide (x.ticket ≤ lim)))

/-- The ticket up to which a wait that starts now waits (R137): operations issued later are not waited for (log 172). -/
def Step.waitLimit (s : Step) (t : Word) : Nat := if t = 0 || s.ticket < t.toNat then s.ticket else t.toNat

/-- The limit of an engine's wait on its step's tickets. -/
def Dev.waitLimit (d : Dev) (e : Fin 128) (t : Word) : Nat :=
  match (d.eng e).step.bind d.step? with
  | some s => s.waitLimit t
  | none => 0

/-- Whether the step's operations up to a ticket have completed (R137). One that a pre-emption took out of the queues keeps its
ticket and has not completed (R72). -/
def Dev.anvilDone (d : Dev) (n lim : Nat) : Bool :=
  match d.step? n with
  | none => true
  | some s =>
    !d.anvil.ops.any (fun p => p.2.step == n && decide (p.2.ticket ≤ lim)) &&
    !s.lostOps.any (fun o => decide (o.ticket ≤ lim))

/-- What a source's own writes that are not performed yet make of a byte it reads (R224). -/
def Dev.ownByte (d : Dev) (src : Agent) (addr : Nat) (b : Byte) : Byte :=
  d.writes.foldl (fun b w =>
    if w.of src 0 && !w.done && w.red.isNone && w.addr ≤ addr && addr < w.addr + w.bytes.length then
      lgetD w.bytes (addr - w.addr) b
    else b) b

def Dev.overlay (d : Dev) (src : Agent) (addr : Nat) (bs : List Byte) : List Byte :=
  bs.zipIdx.map (fun p => d.ownByte src (addr + p.2) p.1)

/-- Every Vat store of the engine, on this node or another, has been performed at its bank (R145). -/
def Dev.vatQuiet (d : Dev) (e : Fin 128) : Bool :=
  !d.writes.any (fun w => w.src == .engine e &&
    (match d.target true w.addr with | .vat _ => true | .remote _ off => isVat off | _ => false))

/-- Send an atomic to its home slice, or to the home of another node (R125, R273, R277). -/
def Dev.sendAtomic (d : Dev) (e : Fin 128) (addr : Nat) (op : AtomOp) : Dev :=
  match d.target true addr with
  | .umr off => d.send { kind := .atomic, who := .engine e, addr := off, atom := op }
  | .remote n off =>
    let (tag, d) := d.newTag
    let d := d.modChain (fun c => { c with reqs := c.reqs ++ [⟨tag, e, n, addr⟩] })
    let ctx := (d.engCtx e).getD 0
    d.chainSend n 0 (.engine e) ctx (d.pdOf ctx) tag 16
      (.coherence { kind := .atomic, who := .node (Fin.ofNat 64 d.chain.node), addr := off, atom := op })
  | _ => d

/-- An AMO's new value. -/
def amoVal (op : AmoOp) (w : Nat) (a b : Nat) : Nat :=
  let sa := signed (8 * w) a
  let sb := signed (8 * w) b
  match op with
  | .swap => b
  | .add => (a + b) % 2 ^ (8 * w)
  | .xor => Nat.xor a b
  | .and => Nat.land a b
  | .or => Nat.lor a b
  | .min => if sa ≤ sb then a else b
  | .max => if sb ≤ sa then a else b
  | .minu => if a ≤ b then a else b
  | .maxu => if b ≤ a then a else b

/-- An AMO at a Vat bank (R125): one read and write, atomic. -/
def Dev.vatAmo (d : Dev) (v : Nat) (op : AmoOp) (w b : Nat) : Nat × Dev :=
  let old := ofLe (d.rd (vatOff v) w)
  (old, d.vatPut v (leBytes w (amoVal op w old (b % 2 ^ (8 * w)))) none)

/-- What a releasing instruction does once its release has completed. -/
def Dev.runCont (d : Dev) (e : Fin 128) (k : Cont) : Dev :=
  match k with
  | .fence => d.modEng e Engine.retire
  | .acquire sc => d.modEng e (fun x => (x.acquire sc).retire)
  | .store a bs => (d.issueWrites (.engine e) a.toNat bs none).modEng e Engine.retire
  | .signal a v =>
    match d.rennetAddr a with
    | some (n, obj) =>
      (d.rennetSend n (.engine e) (d.eng e).step (.sig (d.engSrc e) .sig obj v)).modEng e Engine.retire
    | none => d
  | .add rd a v sc =>
    match d.rennetAddr a with
    | some (n, obj) =>
      if (match n with | some x => !d.live x | none => false) then d.failEng e .unreachable (n.getD 0) a.toNat
      else (d.rennetSend n (.engine e) (d.eng e).step (.add (d.engSrc e) obj v)).setRun e (.reply rd a (sc != .engine))
    | none => d
  | .issue rd a => (d.setRun e (.issue rd a)).modAnvil (fun x => { x with issues := x.issues ++ [e] })
  | .tissue rd a c => d.setRun e (.tissue rd a c)
  | .amo rd a op acq =>
    match d.target true a.toNat, op with
    | .remote n _, _ =>
      if d.live n then (d.sendAtomic e a.toNat op).setRun e (.reply rd a acq) else d.failEng e .unreachable n a.toNat
    | .vat off, .amo o b dbl =>
      let w := if dbl then 8 else 4
      let (old, d) := d.vatAmo (off - vatBase) o w b.toNat
      d.modEng e (fun x => ((if acq then x.dropL1 else x).wx rd (sext (8 * w) old)).retire)
    | _, _ => (d.sendAtomic e a.toNat op).setRun e (.reply rd a acq)

/-- Whether an engine's AMO, SC or Rennet operation may follow its earlier writes (R18, R222). -/
def Dev.contReady (d : Dev) (e : Fin 128) (k : Cont) : Bool :=
  let go (a : Word) (bank : Bool) : Bool :=
    let t := d.target true a.toNat
    !d.mustHold (.engine e) 0 (d.pathOf (.engine e) t false) t false bank
  match k with
  | .signal a _ => go a true
  | .add _ a _ _ => go a true
  | .amo _ a _ _ => go a false
  | _ => true

/-- Let one engine go on when what it waits for has happened. -/
def Dev.settleEng (d : Dev) (e : Fin 128) : Dev :=
  let x := d.eng e
  match x.run with
  | .release sc k => if d.released (.engine e) sc && d.contReady e k then d.runCont e k else d
  | .await t => (match x.step with
    | some n => if d.anvilDone n t.toNat then d.modEng e Engine.retire else d
    | none => d)
  | .twait t => if d.tongsDone e t then d.modEng e (fun x => x.dropL1.retire) else d
  | .vfence => if d.vatQuiet e then d.modEng e Engine.retire else d
  | _ => d

/-- Engines whose operations issue together, in the round of their steps: by rank, starting after the engine whose operation
entered last (R136), at first from rank 0 (DESIGN CHOICE, log 193). -/
def Dev.inRound (d : Dev) (es : List (Fin 128)) : List (Fin 128) :=
  let key (e : Fin 128) : Nat :=
    let last := match (d.eng e).step.bind d.step? with | some s => s.lastIn | none => 127
    (e.val + 255 - last) % 128
  es.foldl (fun l e => l.takeWhile (fun x => decide (key x ≤ key e)) ++ e :: l.dropWhile (fun x => decide (key x ≤ key e))) []

/-- Signal the bindings of records whose writes have been performed (R242). -/
def Dev.flushIrqs (d : Dev) : Dev :=
  if d.host.irqs.isEmpty || d.writes.any (fun w => w.src == .firmware) then d
  else foldDev (d.modHost (fun h => { h with irqs := [] })) d.host.irqs Dev.signal

/-- Let every engine go on that can. Issues that their releases let go together enter in the round of R136. -/
def Dev.settle (d : Dev) : Dev :=
  let d := d.flushIrqs
  let n := d.anvil.issues.length
  let d := foldDev d allEngines Dev.settleEng
  d.modAnvil (fun a => { a with issues := a.issues.take n ++ d.inRound (a.issues.drop n) })

/-- A releasing instruction: at once when its release has completed, and when it completes otherwise. -/
def Dev.release_ (d : Dev) (e : Fin 128) (sc : Scope) (k : Cont) : Dev := (d.setRun e (.release sc k)).settleEng e

/-- The answer to an engine's atomic or Rennet add. -/
def Dev.replyEng (d : Dev) (e : Fin 128) (v : Word) : Dev :=
  match (d.eng e).run with
  | .reply rd a acq =>
    d.modEng e (fun x => (((if acq then x.dropL1 else x).dropLine (a.toNat % 2 ^ 48 / 64)).wx rd v).retire)
  | _ => d

end Sys2Proof.Machine
end

