-- ==== Sys2Proof/Machine/TiersBase.lean ====
section
/-!
DEFINITION. Tiers as the homes see them (chapter 11): capacity, quotas and charges, placement orders, and the start of a
fill.
-/
namespace Sys2Proof.Machine

/-! ### Policies (Table 11.3) -/

def allocOrder : Policy → List Back
  | .pinnedHbm => [.hbm]
  | .preferHbm => [.hbm, .ddr, .cave]
  | .preferDdr => [.ddr, .cave]
  | .capacity => [.cave]

def fillOrder : Policy → List Back
  | .pinnedHbm => []
  | .preferHbm => [.hbm, .ddr]
  | .preferDdr => [.ddr]
  | .capacity => [.ddr, .hbm]

def demoteOrder : Policy → List Back
  | .pinnedHbm => []
  | .preferHbm => [.ddr, .cave]
  | .preferDdr => [.cave]
  | .capacity => [.ddr, .cave]

def ceiling : Policy → Back
  | .preferDdr => .ddr
  | _ => .hbm

def tierRank : Back → Nat
  | .unbacked => 0
  | .cave => 1
  | .ddr => 2
  | .hbm => 3

def tierIdx : Back → Nat
  | .unbacked => 0
  | .hbm => 1
  | .ddr => 2
  | .cave => 3

/-! ### Capacity and use -/

def popCount (n w : Nat) : Nat := ((List.range w).filter (bit n)).length

/-- MiB of a half's HBM tier: 80 GB for each usable stack, less the firmware's 64 MiB of the West and the save area
(Table 1.5, Table 19.1, R374, R474). -/
def Dev.hbmMiB (d : Dev) (h : Half) : Nat := popCount (Two.get d.hbm.half h).usable.toNat 6 * 80000000000 / 2 ^ 20 - (if h = .west then 64 else 0) -
    (Two.get d.sched.half h).saveBytes / 2 ^ 20

/-- Frames of the DDR tier: what training left, less the staging area (Table 11.4). -/
def Dev.ddrCap (d : Dev) : Nat := d.tiers.ddrFrames - 512 * d.tiers.params.staging

/-- R361. -/
def Dev.caveCap (d : Dev) : Nat :=
  if d.cave.st = .absent then 0
  else d.cave.rawBytes * 15 * (100 - d.cave.op) / (1600 * frameSize) * 99 / 100

/-- MiB that a frame takes in a half's HBM (R340). -/
def hbmPart (il : Bool) (home h : Half) : Nat := if il then 1 else if home = h then 2 else 0

/-- Frames that a tier holds, shadows and destinations of moves included. -/
def Dev.tierUsed (d : Dev) (b : Back) : Nat :=
  (d.tiers.frames.filter (fun p => p.2.back == b)).length + (d.tiers.frames.filter (fun p => p.2.shTier == b)).length +
  (d.tiers.moves.filter (fun p => p.2.dst == b && !p.2.toShadow)).length

/-- MiB in use of a half's HBM. -/
def Dev.hbmUsed (d : Dev) (h : Half) : Nat :=
  ((d.tiers.frames.filter (fun p => p.2.back == .hbm)).map (fun p => hbmPart p.2.il p.2.home h)).sum +
  ((d.tiers.moves.filter (fun p => p.2.dst == .hbm)).map (fun p => let f := d.frame p.1; hbmPart f.il f.home h)).sum

/-- Whether a tier has free space for one more frame of the given shape. -/
def Dev.hasSpace (d : Dev) (b : Back) (il : Bool) (home : Half) : Bool :=
  match b with
  | .unbacked => false
  | .hbm => [Half.west, Half.east].all (fun h => d.hbmUsed h + hbmPart il home h ≤ d.hbmMiB h)
  | .ddr => decide (d.tierUsed .ddr < d.ddrCap)
  | .cave => decide (d.tierUsed .cave < d.caveCap)

/-- Frames charged to a context in a tier (R342). -/
def Dev.charged (d : Dev) (c : Nat) (b : Back) : Nat :=
  (d.tiers.frames.filter (fun p => p.2.ctx == c && p.2.back == b)).length +
  (d.tiers.moves.filter (fun p => p.2.dst == b && (d.frame p.1).ctx == c)).length

def Dev.quota (d : Dev) (c : Nat) (b : Back) : Nat :=
  match d.ctx? c with
  | some x => lgetD x.quota (tierIdx b - 1) 0
  | none => 0

/-- R343 and the state of the Cave (Table 11.7): whether one more frame of a context may go to a tier. -/
def Dev.admits (d : Dev) (c : Nat) (b : Back) (il : Bool) (home : Half) (new : Bool) : Bool :=
  d.hasSpace b il home && decide (d.charged c b < d.quota c b) &&
  (b != .cave || d.cave.st == .normal || (d.cave.st == .degraded && !new))

/-- The lowest frame number of a tier that no frame, shadow or destination has, and that no failed DDR row bars (R516). -/
def Dev.freeLoc (d : Dev) (b : Back) : Nat :=
  let used := (d.tiers.frames.filter (fun p => p.2.back == b)).map (fun p => p.2.loc) ++
    (d.tiers.frames.filter (fun p => p.2.shTier == b)).map (fun p => p.2.shLoc) ++
    (d.tiers.moves.filter (fun p => p.2.dst == b)).map (fun p => p.2.dstLoc) ++ (if b = .ddr then d.faults.ddrBad else [])
  ((List.range (used.length + 1)).find? (fun n => !used.contains n)).getD 0

/-- Whether a policy allows a frame in a tier (Table 11.3). -/
def policyAllows (p : Policy) (b : Back) : Bool := (allocOrder p).contains b || (fillOrder p).contains b

/-- Whether a frame or a shadow lies at a place of the Cave tier. -/
def Dev.caveHolds (d : Dev) (loc : Nat) : Bool :=
  d.tiers.frames.any (fun p => (p.2.back == .cave && p.2.loc == loc) || (p.2.shTier == .cave && p.2.shLoc == loc))

/-- The translation layer forgets the units of places that hold no frame. -/
def Dev.trimCave (d : Dev) : Dev :=
  d.modCave (fun c =>
    { c with map := c.map.filter (fun p => d.caveHolds (p.1 / 32)), moving := c.moving.filter (fun p => d.caveHolds (p.1 / 32)) })

/-! ### Fills (R355, R356) -/

/-- Start a fill of a Cave-backed frame, unless one is in progress; false when no tier allows one. -/
def Dev.startFill (d : Dev) (f : Nat) : Bool × Dev :=
  let fr := d.frame f
  if thas d.tiers.moves f then (true, d)
  else match (fillOrder fr.policy).find? (fun b => d.admits fr.ctx b fr.il fr.home false) with
    | none => (false, d)
    | some b =>
      (true, d.modTiers (fun t => { t with moves := tput t.moves f { dst := b, dstLoc := d.freeLoc b, fill := true } }))

/-! ### Where a line lies in HBM (R373) -/

/-- The half HBM offset of a byte of an HBM frame: the frame's bytes that one half holds take consecutive offsets in ascending
order, from 2 MiB times the frame's number in its tier (log 70). -/
def Frame.hbmOffset (f : Frame) (off : Nat) : Nat :=
  let o := off % frameSize
  frameSize * f.loc + (if f.il then o / 8192 * 4096 + o % 4096 else o)

/-- The usable stacks of a half, in rising order. -/
def HbmHalf.stacks_ (x : HbmHalf) : List Nat := (List.range 6).filter (bit x.usable.toNat)

/-- Stack and pseudo-channel of a half HBM offset (R373). -/
def hbmChunk (ss : List Nat) (h : Nat) : Nat × Nat :=
  let s := ss.length
  let c := h / 256
  (lgetD ss (c % s) 0, Nat.xor (c / s % 32) (c / (32 * s) % 32))

/-- The half, the stack and the pseudo-channel that hold a line of an HBM-backed frame. -/
def Dev.hbmPlace (d : Dev) (off : Nat) : Option (Half × Nat × Nat) :=
  if d.backing off = .hbm then
    let h := d.homeHalf off
    some (h, hbmChunk (Two.get d.hbm.half h).stacks_ ((d.frame (frameOf off)).hbmOffset off))
  else none

/-- The DDR channel of a line: the spec gives no layout, so it is a free value of the line (log 74). -/
def ddrChan (line : Nat) : Nat := (Config.freeWord (2 ^ 72 + line)).toNat % 8

/-- The memory-side adder of a line: that of its pseudo-channel or of its DDR channel (R377). -/
def Dev.adderOf (d : Dev) (line : Nat) : Nat :=
  match d.hbmPlace (64 * line) with
  | some (h, st, pc) => 8 + 192 * halfIdx h + 32 * st + pc
  | none => ddrChan line

/-- A line enters its adder's reduction buffer of 64 lines; the buffer writes its oldest line back when it needs the entry
(R379). -/
def Dev.redEnter (d : Dev) (line : Nat) : Dev :=
  let l := d.coh.redBuf.filter (fun x => x.1 != line)
  let a := d.adderOf line
  let mine (x : Nat × Nat) : Bool := d.adderOf x.1 == a
  let l := if 64 ≤ (l.filter mine).length then removeFirst mine l else l
  d.modCoh (fun c => { c with redBuf := l ++ [(line, d.hubCount.toNat)] })

/-- A margining point holds the requests of its lane's pseudo-channel, or of its stack for a voltage point (R392). -/
def Margin.holds (m : Margin) (p : Half × Nat × Nat) : Bool :=
  m.held && m.half == p.1 && m.stack.val == p.2.1 && (m.volt || m.lane / 48 == p.2.2)

/-- A lane that awaits its repair holds the requests of its pseudo-channel; an address and command lane, those of its channel
of two (R385). -/
def laneHolds (u : UnitId) (st : UnitSt) (p : Half × Nat × Nat) : Bool :=
  let n := u.unit.toNat
  u.code.val == 8 && st == .repairPending && u.die == dieOf p.1 && fld n 13 3 == p.2.1 &&
  (if fld n 0 6 ≤ 36 then fld n 8 5 == p.2.2 else fld n 9 4 == p.2.2 / 2)

/-- Whether the controller holds the requests for a line now (R385, R392). -/
def Dev.hbmHeld (d : Dev) (off : Nat) : Bool :=
  match d.hbmPlace off with
  | none => false
  | some p =>
    (match d.hbm.margin with | some m => m.holds p | none => false) ||
    d.faults.units.any (fun u => laneHolds u.1 u.2.st p)

/-- What the frame of a line does to a request: go on, be held, or be refused. -/
inductive Gate where
  | go (d : Dev)
  | hold (d : Dev)
  | refuse (st : Status)

/-- R26, R350, R355, R385 and R392 for a request or RED of a line of this node. -/
def Dev.frameGate (d : Dev) (off : Nat) : Gate :=
  let f := frameOf off
  match d.backing off with
  | .unbacked => .refuse .unmapped
  | .cave =>
    let r := d.startFill f
    if r.1 then .hold r.2 else .refuse .noTier
  | _ =>
    if d.hbmHeld off then .hold d
    else match tget d.tiers.moves f with
    | some m => if m.blocked then .hold d else .go d
    | none => .go d

/-! ### Accesses that a home performs in one action -/

/-- The keys of the lines of a byte range. -/
def keysOf (off n : Nat) : List Nat :=
  ((List.range (n / 64 + 2)).map (off / 64 + ·)).filter (fun k => decide (k * 64 < off + n))

/-- The gate of a read that is one action of its home: it waits while a line of it has an active transaction (R260), and while
its slice has no free ticket tracker and so takes no request (R267). -/
def Dev.readGate (d : Dev) (off n : Nat) : Gate :=
  if (keysOf off n).any (fun k => thas d.coh.txns k) ||
      decide (1024 ≤ (d.coh.tickets.filter (fun x => x.slice == d.slice off)).length) then .hold d
  else d.frameGate off

/-- Whether nothing of the protocol concerns a line: no copy, no transaction or ticket, and no message on its way or waiting. -/
def Dev.lineQuiet (d : Dev) (off : Nat) : Bool :=
  let k := off / 64
  !thas d.coh.filter k && !thas d.coh.dir k && !thas d.coh.txns k && !d.coh.tickets.any (fun x => x.line == k) &&
  !(d.coh.noc ++ d.coh.held ++ d.coh.redQ).any (fun m => m.addr / 64 == k) && !d.cores.any (fun p => thas p.2.lines k)

/-- A write of firmware to bytes of one line of this node: the home's WrLine or WrPart (Table 8.6). Where nothing else concerns the
line and the home would answer at once, it is performed in one action; otherwise the message goes to the home. -/
def Dev.fwPut (d : Dev) (off : Nat) (bs : List Byte) : Dev :=
  match d.readGate off bs.length, d.lineQuiet off && !d.writes.any (fun w => w.src == .firmware) with
  | .go d, true =>
    let d := ((((d.loseResv off .firmware none).wr off bs).markDirty off).heatUp off)
    if bs.length = 64 && off % 64 = 0 then (d.clrPoison (off / 64)).fixPsn (frameOf off) else d
  | _, _ => d.issueWrite .firmware (0xFF * 2 ^ 48 + off) bs none

/-- A write of device firmware to a global address that a register or operand gave (R242, R457). -/
def Dev.fwWrite (d : Dev) (a : Word) (bs : List Byte) : Dev :=
  match d.target true a.toNat with
  | .host h => d.emit (.hostWrite h bs none)
  | .umr off => if d.backed off then foldDev d (lines64 off bs) (fun d p => d.fwPut p.1 p.2) else d
  | _ => d

/-- Firmware signals an interrupt binding for a record once the record's write has been performed (R242). -/
def Dev.fwSignal (d : Dev) (b : Word) : Dev :=
  if d.writes.any (fun w => w.src == .firmware) then d.modHost (fun h => { h with irqs := h.irqs ++ [b] }) else d.signal b

/-- A firmware read of this node's memory that must wait at its home, with what its arrival there starts. -/
def Dev.fwHolds (d : Dev) (a : Word) (n : Nat) : Option Dev :=
  match d.target true a.toNat with
  | .umr off => (match d.readGate off n with | .hold d => some d | _ => none)
  | _ => none

/-- What follows a firmware read, once the read need not wait. -/
def Dev.fwThen (d : Dev) (a : Word) (n : Nat) (f : Dev → Dev) : Dev :=
  match d.fwHolds a n with
  | some d => d
  | none => f d

/-- What a firmware read of a global address returns: this node's UMR, or the bytes that the outside gave. -/
def Dev.fwRead (d : Dev) (a : Word) (n : Nat) (ext : List Byte) : Except Status (List Byte) :=
  match d.target true a.toNat with
  | .host _ => .ok ((ext ++ List.replicate n 0).take n)
  | .umr off =>
    (match d.readGate off n with
     | .refuse st => .error st
     | _ => if d.cohPoison off n then .error .poison else (d.homeRead off n ext).map (·.1))
  | .remote nd _ => if d.live nd then extAnswer ext n else .error .unreachable
  | _ => .error .unmapped

/-- What a firmware read leaves behind at its home. -/
def Dev.fwTouch (d : Dev) (a : Word) (n : Nat) : Dev :=
  match d.target true a.toNat with
  | .umr off => if d.backed off then d.homeTouch off n else d
  | _ => d

end Sys2Proof.Machine
end

