-- ==== Sys2Proof/Machine/Rennet.lean ====
section
/-!
DEFINITION. Rennet banks (chapter 06): operations by object type, waits and wakes, realign, landing adds, the deadlock
detector and dumps.
-/
namespace Sys2Proof.Machine

/-! ### Traps of application cores -/

def excHardware : Nat := 19
def excFetchFault : Nat := 1

/-- MPP or SPP of a mode, and whether it is virtual (RISC-V privileged specification, log 179). -/
def Priv.code : Priv → Nat
  | .m => 3
  | .hs => 1
  | .vs => 1
  | _ => 0

def Priv.virt : Priv → Bool
  | .vs => true
  | .vu => true
  | _ => false

/-- A CSR that the core holds in its table. -/
def Core.csrOf (c : Core) (n : Nat) : Nat := (tgetD c.csr n 0).toNat
def Core.setCsr (c : Core) (n v : Nat) : Core := { c with csr := tput c.csr n (BitVec.ofNat 64 v) }

/-- A field of a number, replaced. -/
def setFld (v lo w x : Nat) : Nat := v - at_ lo (fld v lo w) + at_ lo (x % 2 ^ w)

/-- The status of a mode that takes a trap: its interrupt enable moves to the previous one, and the mode it came from is saved
(`ie`, `pie`: places of the enables; `pp`, `w`: of the mode). -/
def trapStatus (st ie pie pp w mode : Nat) : Nat := setFld (setFld (setFld st pie 1 (fld st ie 1)) ie 1 0) pp w mode

/-- Instructions that have not retired are discarded at a trap; older stores stay (R295). -/
def Core.discard (c : Core) : Core :=
  let keep (a : CAcc) : Bool := match a with | .load _ _ _ _ _ _ => false | .lr _ _ _ => false | _ => true
  { c with
    loads := [], onces := [], waitAcc := c.waitAcc.filter keep
    lines := c.lines.map (fun p => (p.1, { p.2 with acc := p.2.acc.filter keep })) }

/-- Whether a trap that goes to S-mode goes on to VS-mode: the hart is virtual and hedeleg or hideleg says so. -/
def Core.toVs (c : Core) (intr : Bool) (cause : Nat) : Bool :=
  c.priv.virt && bit (c.csrOf (if intr then 0x603 else 0x602)) cause

/-- A trap: what has not retired is discarded, the reservation is lost (R275), status, cause and value are saved, and pc goes to the
vector of the mode that takes it. What epc holds is free: the commands do not say where the program stands (log 25). -/
def Dev.trap (d : Dev) (h : Fin 64) (intr : Bool) (cause : Nat) (tval : Word) (toS : Bool) : Dev :=
  let (n, d) := d.draw
  let epc := Config.freeWord n
  let code := BitVec.ofNat 64 (cause + if intr then 2 ^ 63 else 0)
  d.modCore h (fun c =>
    let vs := toS && c.toVs intr cause
    let tv := if vs then BitVec.ofNat 64 (c.csrOf 0x205) else if toS then c.stvec else c.mtvec
    let base := tv &&& ~~~3#64
    let pc := if intr && tv &&& 3#64 = 1 then base + BitVec.ofNat 64 (4 * cause) else base
    let from_ := c.priv
    let c := { c.discard with pc := pc, resv := none, run := .running }
    if vs then
      { (((c.setCsr 0x241 epc.toNat).setCsr 0x242 code.toNat).setCsr 0x243 tval.toNat).setCsr 0x200
          (trapStatus (c.csrOf 0x200) 1 5 8 1 from_.code) with priv := .vs }
    else if toS then
      let c := (c.setCsr 0x300 (trapStatus (c.csrOf 0x300) 1 5 8 1 from_.code)).setCsr 0x600 (setFld (c.csrOf 0x600) 7 1 (b2n from_.virt))
      { c with sepc := epc, scause := code, stval := tval, priv := .hs }
    else
      let c := c.setCsr 0x300 (setFld (trapStatus (c.csrOf 0x300) 3 7 11 2 from_.code) 39 1 (b2n from_.virt))
      { c with mepc := epc, mcause := code, mtval := tval, priv := .m })

/-- An exception that the device raises: medeleg sends one of a mode below M to S-mode. -/
def Dev.exc (d : Dev) (h : Fin 64) (cause : Nat) (tval : Word) : Dev :=
  let c := d.core h
  d.trap h false cause tval (c.priv != .m && bit (c.csrOf 0x302) cause)

/-! ### Loads of a hart in program order (R295, R297) -/

/-- Retire loads from the oldest on: each gives its value to its register. One that has faulted traps, which discards the younger
ones. -/
def retireLoads : Nat → Dev → Fin 64 → Dev
  | 0, d, _ => d
  | k + 1, d, h =>
    match (d.core h).loads with
    | [] => d
    | l :: t =>
      match l.exc, l.val with
      | some x, _ => d.exc h x.1 x.2
      | none, some v => retireLoads k (d.modCore h (fun c => { (c.wx l.rd v) with loads := t })) h
      | none, none => d

def Dev.retireCore (d : Dev) (h : Fin 64) : Dev := retireLoads (d.core h).loads.length d h

/-- A new load of a hart, with its number. -/
def Dev.newLoad (d : Dev) (h : Fin 64) (rd : Fin 32) : Nat × Dev :=
  let n := (d.core h).nextLoad
  (n, d.modCore h (fun c => { c with loads := c.loads ++ [{ seq := n, rd := rd }], nextLoad := n + 1 }))

/-- A load has its value. -/
def Dev.loadDone (d : Dev) (h : Fin 64) (seq : Nat) (v : Word) : Dev :=
  (d.modCore h (fun c => { c with loads := c.loads.map (fun l => if l.seq = seq then { l with val := some v } else l) })).retireCore h

/-- A load has faulted. -/
def Dev.loadFail (d : Dev) (h : Fin 64) (seq cause : Nat) (a : Word) : Dev :=
  (d.modCore h (fun c => { c with loads := c.loads.map (fun l => if l.seq = seq then { l with exc := some (cause, a) } else l) })).retireCore h

/-- A load that has its value, or faults, as soon as it is performed. -/
def Dev.loadVal (d : Dev) (h : Fin 64) (rd : Fin 32) (v : Word) : Dev := let (n, d) := d.newLoad h rd; d.loadDone h n v
def Dev.loadExc (d : Dev) (h : Fin 64) (cause : Nat) (a : Word) : Dev := let (n, d) := d.newLoad h 0; d.loadFail h n cause a

/-! ### Objects -/

def Dev.obj (d : Dev) (n : Nat) : RObj := tgetD d.rennet.objs n {}
def Dev.setObj (d : Dev) (n : Nat) (o : RObj) : Dev := d.modRennet (fun r => { r with objs := tput r.objs n o })
def objHalf (n : Nat) : Half := halfOf (decide (65536 ≤ n))

/-- Whether a step's objects take operations (R196): it runs, ends its work, or is being pre-empted or saved (R197), and is
not being discarded (R523). -/
def Step.holdsObjs (s : Step) : Bool :=
  (match s.phase with
   | .running => true
   | .draining => true
   | .stopping => true
   | .saving => true
   | .saved => true
   | .restoring => true
   | _ => false) &&
  (match s.outcome with | some o => o.status != .discarded | none => true)

/-- The context that holds an object: its step's, or the one it is allocated to (R196). -/
def Dev.objCtx (d : Dev) (n : Nat) : Option Nat :=
  match (d.obj n).owner with
  | some (.ctx c) => if (d.ctx? c).isSome then some c else none
  | some (.step s) => (d.step? s).bind (fun x => if x.holdsObjs then some x.ctx else none)
  | none => none

/-- R196: the object is held by a context of the issuer's protection domain. -/
def Dev.objOpen (d : Dev) (n pd : Nat) : Bool :=
  match d.objCtx n with
  | some c => (d.ctx? c).isSome && d.pdOf c == pd
  | none => false

/-- Word 0 of a history record (Table 6.9). -/
def histWord (obj kind : Nat) (s : RSrc) : Nat :=
  obj + at_ 17 kind + at_ 20 s.node.toNat + at_ 28 s.srct.toNat + at_ 32 s.srcid.toNat + at_ 48 (halfIdx s.half)

/-- Contexts that have a running step. -/
def Dev.runningCtxs (d : Dev) : List Nat :=
  ((d.sched.steps.filter (fun p => p.2.phase == .running)).map (fun p => p.2.ctx)).eraseDups

/-- An operation on an object ends the stall of the context that holds it, and with it that of the package when the context runs
a step (R216). -/
def Dev.opEndsStall (d : Dev) (obj : Nat) : Dev :=
  match d.objCtx obj with
  | some c =>
    let run := d.runningCtxs.contains c
    d.modRennet (fun r => { r with fired := r.fired.filter (fun x => x != c && !(run && x == 4095)) })
  | none => d

/-- Record an operation other than a wait: the last 4,096 of each half (R219), and the last of each object (R216). -/
def Dev.record (d : Dev) (obj kind : Nat) (s : RSrc) (operand : Word) : Dev :=
  let h := objHalf obj
  let e : RHist := { obj := obj, kind := BitVec.ofNat 3 kind, src := s, t := d.halfCount h, operand := operand }
  d.modRennet (fun r =>
    let l := Two.get r.hist h ++ [e]
    { r with hist := Two.set r.hist h (l.drop (l.length - 4096)), last := tput r.last obj e.t }) |>.opEndsStall obj

/-! ### Waits (R202, R203) -/

/-- COUNT has reached T (R202). -/
def reached (count t : BitVec 32) : Bool := decide ((count - t).toNat < 2 ^ 31)

/-- Whether a wait completes now (R203, Table 6.3). -/
def waitDone (o : RObj) (operand : Word) : Bool :=
  let t : BitVec 32 := BitVec.ofNat 32 operand.toNat
  let g : BitVec 32 := BitVec.ofNat 32 (operand.toNat / 2 ^ 32)
  o.gen != g ||
    (match o.typ with
     | .counter => reached o.count t
     | .barrier => false
     | .semaphore => decide (t.toNat ≤ o.count.toNat))

/-- What rd receives: COUNT and GEN at the moment of completion. -/
def waitValue (o : RObj) : Word := BitVec.ofNat 64 (o.count.toNat + at_ 32 o.gen.toNat)

/-- Send the wake of a completed wait to its engine. -/
def Dev.wakeOne (d : Dev) (w : Waiter) (v : Word) : Dev :=
  match w.tag with
  | none => d.modRennet (fun r => { r with msgs := r.msgs ++ [.wake w.eng v] })
  | some _ => (d.answerWaiter w .ok v).flushSend

/-- Check every wait on an object again (R203). -/
def Dev.checkWaits (d : Dev) (obj : Nat) : Dev :=
  let o := d.obj obj
  let ready := d.rennet.waiters.filter (fun w => w.obj == obj && waitDone o w.operand)
  let d := d.modRennet (fun r =>
    { r with waiters := r.waiters.filter (fun w => !(w.obj == obj && waitDone o w.operand)) })
  foldDev d ready (fun d w => d.wakeOne w (waitValue o))

/-! ### Operations by type (Table 6.3) -/

/-- A signal or add of value `v` on a counter. -/
def counterAdd (o : RObj) (v : BitVec 32) : RObj :=
  if o.thresh ≠ 0 && v.msb then { o with stray := true }
  else
    let c := o.count + v
    if o.thresh = 0 then { o with count := c }
    else { o with count := c % o.thresh, gen := o.gen + c / o.thresh }

/-- A signal or add on a semaphore. -/
def semAdd (o : RObj) (v : BitVec 32) : RObj :=
  if v.msb then (if (-v).toNat ≤ o.count.toNat then { o with count := o.count + v } else o)
  else if o.thresh ≠ 0 && decide (o.thresh.toNat < o.count.toNat + v.toNat) then
    { o with count := o.thresh, ovf := true }
  else { o with count := o.count + v }

/-- A participant arrives at a barrier: the object, and whether it completed. -/
def barrierArrive (o : RObj) (p : Nat) : RObj × Bool :=
  if p < o.thresh.toNat && !bit o.mask.toNat p then
    let o := { o with mask := o.mask ||| BitVec.ofNat 256 (2 ^ p), count := o.count + 1 }
    if o.count = o.thresh then ({ o with gen := o.gen + 1, count := 0, mask := 0 }, true) else (o, false)
  else ({ o with stray := true }, false)

/-- A DRIFT event (Table 14.9). -/
def Dev.drift (d : Dev) (barrier obj : Nat) (gen : BitVec 32) (o : RObj) : Dev :=
  d.raise (evt 2 .ok (dieOf (objHalf barrier)) gen.toNat
    (barrier + at_ 17 obj + at_ 34 (b2n o.stray) + at_ 35 (b2n o.ovf)) (o.count.toNat + at_ 32 o.expect.toNat))

def fwSrc (d : Dev) (h : Half) (c : Nat) : RSrc :=
  { node := BitVec.ofNat 8 d.ownNode, srct := 6, srcid := 0, half := h, ctx := Fin.ofNat 4096 c, pd := BitVec.ofNat 8 (d.pdOf c) }

/-- Realign one object of a barrier's set (R213), whatever it has become since the set was accepted (log 175). A poisoned object
is left as it is, with an event (R610). -/
def Dev.realignOne (d : Dev) (barrier : Nat) (gen : BitVec 32) (n : Nat) : Dev :=
  let o := d.obj n
  if o.poisoned then d.raise (evt 7 .poison .hub n 0 (histWord 0 0 (fwSrc d (objHalf n) 0)))
  else
  let d := if o.count ≠ o.expect || o.stray || o.ovf then d.drift barrier n gen o else d
  let d := d.setObj n { o with count := 0, stray := false, ovf := false, gen := o.gen + 1 }
  (d.record n 6 (fwSrc d (objHalf n) 0) 0).checkWaits n

/-- The realign that follows a barrier's completion; `was` is the barrier as it completed (R213). -/
def Dev.realign (d : Dev) (barrier : Nat) (was : RObj) : Dev :=
  if was.rcnt = 0 then d
  else
    let d := foldDev d ((List.range was.rcnt.toNat).map (was.rbase.toNat + ·)) (fun d n => d.realignOne barrier was.gen n)
    if was.stray then
      (d.drift barrier barrier was.gen was).setObj barrier { d.obj barrier with stray := false }
    else d

/-- A signal of value or participant `v` at its bank (R201, R205). -/
def Dev.applySignal (d : Dev) (obj : Nat) (src : RSrc) (kind : SigKind) (v : Word) : Dev :=
  let o := d.obj obj
  let v32 : BitVec 32 := BitVec.ofNat 32 v.toNat
  let k := match kind with | .sig => 0 | .done => 5 | .landing => 4
  let d := d.record obj k src v
  match o.typ with
  | .counter => (d.setObj obj (counterAdd o v32)).checkWaits obj
  | .semaphore => (d.setObj obj (semAdd o v32)).checkWaits obj
  | .barrier =>
    if kind ≠ .sig then (d.setObj obj { o with stray := true }).checkWaits obj
    else
      let r := barrierArrive o (v.toNat % 256)
      let d := d.setObj obj r.1
      ((if r.2 then d.realign obj { o with count := o.thresh } else d)).checkWaits obj

/-! ### Refusals -/

/-- The engine a source of this node names, if it is an engine or Tongs channel. -/
def srcEng (d : Dev) (s : RSrc) : Option (Fin 128) :=
  if s.node.toNat = d.ownNode || s.node.toNat = 0xFF then
    match s.srct.toNat with
    | 0 => some (Fin.ofNat 128 (64 * halfIdx s.half + s.srcid.toNat))
    | 1 => some (Fin.ofNat 128 (64 * halfIdx s.half + s.srcid.toNat / 4))
    | _ => none
  else none

/-- The step that a source's failed operation ends: the one that a DONE signal names, or an engine's own. -/
def srcStep (d : Dev) (s : RSrc) (by_ : Option Nat) : Option Nat :=
  match by_, srcEng d s with
  | some n, _ => some n
  | none, some e => (d.eng e).step
  | none, none => none

/-- A refused operation (R26, R200, R610): it ends the issuing step with the status, or raises a RENNET_OPERAND event. A DONE
signal to a poisoned object is discarded with the event. An engine of another node learns of it by the answer alone, unless
the object is not its to use (R26). An object that is not open to the host is refused with the event of R438, and one that is
not open to a core, with its access fault (R26). -/
def Dev.rennetRefuse (d : Dev) (s : RSrc) (obj : Nat) (operand : Word) (st : Status) (by_ : Option Nat := none) : Dev :=
  let ev : Dev := d.raise (evt 7 st .hub obj operand.toNat (histWord 0 0 s))
  let far := decide (s.node.toNat ≠ d.ownNode) && decide (s.node.toNat ≠ 0xFF)
  if st = .poison && s.srct ≠ 0 then ev
  else if far && s.srct = 0 && st ≠ .unmapped then d
  else if !far && s.srct = 4 && st = .unmapped then
    d.raise (apEvent s.srcid.toNat (d.apOffset (Fin.ofNat 32 s.srcid.toNat) (objAddr obj)) st)
  else if !far && s.srct = 3 && st = .unmapped then
    d.exc (Fin.ofNat 64 (32 * halfIdx s.half + s.srcid.toNat)) 7 (BitVec.ofNat 64 (objAddr obj))
  else match srcStep d s by_ with
    | some n => d.failStep n st 0 (if st = .malformed then 0 else objAddr obj)
    | none => ev

/-- Checks that every operation passes first: R196, then R610. -/
def Dev.rennetGate (d : Dev) (s : RSrc) (obj : Nat) : Option Status :=
  if !d.objOpen obj s.pd.toNat then some .unmapped
  else if (d.obj obj).poisoned then some .poison
  else none

/-- RSVD bits of a signal operand (Table 6.2). -/
def sigBad (t : RTyp) (v : Word) : Bool :=
  let n := v.toNat
  fld n 62 2 != 0 || (if t = .barrier then fld n 8 54 != 0 else fld n 32 30 != 0)

def Dev.bankSignal (d : Dev) (s : RSrc) (kind : SigKind) (obj : Nat) (v : Word) (by_ : Option Nat := none) : Dev :=
  match d.rennetGate s obj with
  | some st => d.rennetRefuse s obj v st by_
  | none =>
    if kind = .sig && sigBad (d.obj obj).typ v then d.rennetRefuse s obj v .malformed
    else d.applySignal obj s kind v

def rtypOf (n : Nat) : Option RTyp :=
  match n with
  | 0 => some .counter
  | 1 => some .barrier
  | 2 => some .semaphore
  | _ => none

/-- A configure (R204). It rewrites every field, so it also clears poison (R610). -/
def Dev.bankConfigure (d : Dev) (s : RSrc) (obj : Nat) (v : Word) : Dev :=
  let n := v.toNat
  let th := fld n 0 32
  if !d.objOpen obj s.pd.toNat then d.rennetRefuse s obj v .unmapped
  else match rtypOf (fld n 60 2) with
    | none => d.rennetRefuse s obj v .malformed
    | some t =>
      if fld n 32 28 != 0 || fld n 62 2 != 1 || (t = .barrier && (th = 0 || 256 < th)) then
        d.rennetRefuse s obj v .malformed
      else
        let o := d.obj obj
        let o' : RObj := { gen := o.gen + 1, thresh := BitVec.ofNat 32 th, typ := t, owner := o.owner }
        ((d.record obj 2 s v).setObj obj o').checkWaits obj

/-- R214 for a barrier's realign set. -/
def Dev.setOk (d : Dev) (obj base cnt : Nat) : Bool :=
  decide (cnt ≤ 64) &&
  (List.range cnt).all (fun i =>
    let n := base + i
    decide (n < 131072) && objHalf n == objHalf obj && (d.obj n).typ != .barrier && (d.obj n).owner == (d.obj obj).owner)

/-- A set-realign (Table 6.2). -/
def Dev.bankSetRealign (d : Dev) (s : RSrc) (obj : Nat) (v : Word) : Dev :=
  let n := v.toNat
  match d.rennetGate s obj with
  | some st => d.rennetRefuse s obj v st
  | none =>
    let o := d.obj obj
    if o.typ = .barrier then
      if fld n 62 2 != 2 || fld n 24 38 != 0 || !d.setOk obj (fld n 0 17) (fld n 17 7) then d.rennetRefuse s obj v .malformed
      else
        ((d.record obj 3 s v).setObj obj
          { o with rbase := BitVec.ofNat 17 (fld n 0 17), rcnt := BitVec.ofNat 7 (fld n 17 7) }).checkWaits obj
    else if fld n 62 2 != 2 || fld n 32 30 != 0 then d.rennetRefuse s obj v .malformed
    else ((d.record obj 3 s v).setObj obj { o with expect := BitVec.ofNat 32 (fld n 0 32) }).checkWaits obj

/-- An XRADD at its bank (Table 6.3): the status that refuses it, or the old count. -/
def Dev.bankAdd (d : Dev) (s : RSrc) (obj : Nat) (v : BitVec 32) : Except Status (Word × Dev) :=
  match d.rennetGate s obj with
  | some st => .error st
  | none =>
    let o := d.obj obj
    let old : Word := BitVec.ofNat 64 o.count.toNat
    let d := d.record obj 1 s (BitVec.ofNat 64 v.toNat)
    match o.typ with
    | .barrier => .error .rennetType
    | .counter => .ok (old, (d.setObj obj (counterAdd o v)).checkWaits obj)
    | .semaphore => .ok (old, (d.setObj obj (semAdd o v)).checkWaits obj)

/-- A wait at its bank: refused, complete, or registered (R203, R207). -/
def Dev.bankWait (d : Dev) (w : Waiter) : Except Status Dev :=
  match d.rennetGate w.src w.obj with
  | some st => .error st
  | none =>
    if waitDone (d.obj w.obj) w.operand then .ok (d.wakeOne w (waitValue (d.obj w.obj)))
    else .ok (d.modRennet (fun r => { r with waiters := r.waiters ++ [w] }))

/-! ### Messages in flight -/

def rmsgKey : RMsg → Option (RSrc × Nat)
  | .sig s _ o _ _ _ => some (s, o)
  | .add s o _ _ => some (s, o)
  | .wait s o _ _ _ => some (s, o)
  | .wake _ _ => none

/-- The tag of a source on another node, and the message without it. -/
def rmsgTag : RMsg → Option Nat
  | .sig _ _ _ _ t _ => t
  | .add _ _ _ t => t
  | .wait _ _ _ _ t => t
  | _ => none

def rmsgBare : RMsg → RMsg
  | .sig s k o v _ _ => .sig s k o v none
  | .add s o v _ => .add s o v none
  | .wait s o v sc _ => .wait s o v sc none
  | m => m

/-- A source that keeps the order of all its signals and adds (Table 7.1): an engine, a core, and the host whatever aperture
it uses. -/
def programSrc (s : RSrc) : Option (BitVec 8 × BitVec 4 × BitVec 16 × Half) :=
  match s.srct.toNat with
  | 0 => some (s.node, 0, s.srcid, s.half)
  | 3 => some (s.node, 3, s.srcid, s.half)
  | 4 => some (s.node, 4, 0, .west)
  | _ => none

def isWait : RMsg → Bool
  | .wait _ _ _ _ _ => true
  | _ => false

/-- Whether an operation in flight goes before a later one: it comes from the same source and acts on the same object (R206),
or both write and the source keeps program order (R222). -/
def rmsgBefore (x m : RMsg) : Bool :=
  match rmsgKey x, rmsgKey m with
  | some (s, o), some (t, p) =>
    (s == t && o == p) ||
    (!isWait x && !isWait m && (programSrc s).isSome && programSrc s == programSrc t)
  | _, _ => false

/-- Take an operation that arrives off the messages in flight. It overtakes no earlier operation that goes before it; an
operation that no unit of this node has in flight comes from outside. -/
def Dev.arriveTag (d : Dev) (m : RMsg) : Option (Option Nat × Dev) :=
  match d.rennet.msgs.find? (fun x => rmsgBefore x m) with
  | some x =>
    if rmsgBare x = m then some (rmsgTag x, d.modRennet (fun r => { r with msgs := removeFirst (· == x) r.msgs })) else none
  | none => some (none, d)

/-- The step that an arriving DONE signal belongs to. -/
def Dev.sigStep (d : Dev) (m : RMsg) : Option Nat :=
  match d.rennet.msgs.find? (fun x => rmsgBefore x m) with
  | some (.sig _ _ _ _ _ n) => n
  | _ => none

/-- Whether an operation of a source on an object has not been performed yet, so that a read of the object by that source
waits for it (R206). -/
def Dev.opsOut (d : Dev) (src : Agent) (obj : Nat) : Bool :=
  d.rennetOut src (· == obj) ||
  d.writes.any (fun w => w.of src 0 && (match w.what with | .sig _ o _ => o == obj | _ => false))

def Dev.arrive (d : Dev) (m : RMsg) : Option Dev := (d.arriveTag m).map (·.2)

/-- The answer of an object's bank to a source on another node. -/
def Dev.bankAnswer (d : Dev) (s : RSrc) (obj tag : Nat) (st : Status) (v : Word) : Dev :=
  (d.answerWaiter { obj := obj, src := s, eng := 0, sc := .fabric, operand := 0, tag := some tag } st v).flushSend

/-- The status that a signal, configure or set-realign meets at the bank: OK when it is performed. -/
def Dev.sigStatus (d : Dev) (s : RSrc) (kind : SigKind) (obj : Nat) (v : Word) : Status :=
  let o := d.obj obj
  let n := v.toNat
  if !d.objOpen obj s.pd.toNat then .unmapped
  else if kind = .sig && fld n 62 2 = 1 then
    (match rtypOf (fld n 60 2) with
     | none => .malformed
     | some t => if fld n 32 28 != 0 || (t = .barrier && (fld n 0 32 = 0 || 256 < fld n 0 32)) then .malformed else .ok)
  else if o.poisoned then .poison
  else if kind = .sig && fld n 62 2 = 2 then
    (if o.typ = .barrier then (if fld n 24 38 != 0 || !d.setOk obj (fld n 0 17) (fld n 17 7) then .malformed else .ok)
     else if fld n 32 30 != 0 then .malformed else .ok)
  else if kind = .sig && sigBad o.typ v then .malformed
  else .ok

/-- An operation by OPK of its operand (Table 6.2): configure, set realign, or a signal. -/
def Dev.bankOp (d : Dev) (s : RSrc) (kind : SigKind) (obj : Nat) (v : Word) (by_ : Option Nat := none) : Dev :=
  if kind ≠ .sig then d.bankSignal s kind obj v by_
  else match fld v.toNat 62 2 with
    | 1 => d.bankConfigure s obj v
    | 2 => d.bankSetRealign s obj v
    | _ => d.bankSignal s kind obj v

/-- A signal, configure or set-realign reaches its bank: performed by its operand, answered when it came from another node,
and what its source held behind it may go on. -/
def Dev.sigArrives (d : Dev) (src : RSrc) (kind : SigKind) (obj : Nat) (v : Word) : Dev :=
  let by_ := d.sigStep (.sig src kind obj v)
  match d.arriveTag (.sig src kind obj v) with
  | none => d
  | some (tag, d) =>
    let st := d.sigStatus src kind obj v
    let d := d.bankOp src kind obj v by_
    (match tag with | some t => d.bankAnswer src obj t st 0 | none => d).settle

def execRennetSignal (src : RSrc) (kind : SigKind) (obj : Fin 131072) (operand : Word) (s : State) : Res :=
  onDev s (fun d => d.sigArrives src kind obj.val operand)

def execRennetConfigure (src : RSrc) (obj : Fin 131072) (operand : Word) (s : State) : Res :=
  onDev s (fun d => if fld operand.toNat 62 2 = 1 then d.sigArrives src .sig obj.val operand else d)

def execRennetSetRealign (src : RSrc) (obj : Fin 131072) (operand : Word) (s : State) : Res :=
  onDev s (fun d => if fld operand.toNat 62 2 = 2 then d.sigArrives src .sig obj.val operand else d)

def execRennetAdd (src : RSrc) (obj : Fin 131072) (v : BitVec 32) (s : State) : Res :=
  onDev s (fun d =>
    match d.arriveTag (.add src obj.val v) with
    | none => d
    | some (tag, d) =>
      match d.bankAdd src obj.val v, tag with
      | .error st, some t => (d.rennetRefuse src obj.val (BitVec.ofNat 64 v.toNat) st).bankAnswer src obj.val t st 0
      | .error st, none => d.rennetRefuse src obj.val (BitVec.ofNat 64 v.toNat) st
      | .ok (old, d), some t => d.bankAnswer src obj.val t .ok old
      | .ok (old, d), none => match srcEng d src with | some e => d.replyEng e old | none => d)

def execRennetWaitRegister (src : RSrc) (obj : Fin 131072) (operand : Word) (sc : Scope) (s : State) : Res :=
  onDev s (fun d =>
    match d.arriveTag (.wait src obj.val operand sc) with
    | none => d
    | some (tag, d) =>
      let e := (srcEng d src).getD (Fin.ofNat 128 (64 * halfIdx src.half + src.srcid.toNat))
      match d.bankWait { obj := obj.val, src := src, eng := e, sc := sc, operand := operand, tag := tag } with
      | .error st =>
        let d := d.rennetRefuse src obj.val operand st
        (match tag with | some t => d.bankAnswer src obj.val t st 0 | none => d)
      | .ok d => d)

/-- A wake reaches its engine: it retires the XRWAIT, or is discarded when that wait was abandoned (R208). -/
def execRennetWake (e : Fin 128) (s : State) : Res :=
  onDev s (fun d =>
    match d.rennet.msgs.find? (fun m => match m with | .wake g _ => g == e | _ => false) with
    | some (.wake g v) =>
      let d := d.modRennet (fun r => { r with msgs := removeFirst (· == .wake g v) r.msgs })
      (match (d.eng e).run with
       | .rwait rd _ sc => (d.modEng e (fun x => ((x.acquire sc).wx rd v).retire)).stallEnds ((d.engCtx e).getD 0)
       | _ => d)
    | _ => d)

/-- The oldest landing add is performed once its region's writes are visible (R210). -/
def execLandingAdd (s : State) : Res :=
  onDev s (fun d =>
    match d.rennet.landings with
    | [] => d
    | (r, n) :: t =>
      if d.writes.any (fun w => w.src == .region r) then d
      else
        let d := d.modRennet (fun x => { x with landings := t })
        match tget d.host.regions r.val with
        | some reg =>
          (match reg.counter with
           | some obj =>
             d.bankSignal { node := BitVec.ofNat 8 d.ownNode, srct := 5, srcid := BitVec.ofNat 16 r.val, half := .west,
                            ctx := Fin.ofNat 4096 reg.ctx, pd := BitVec.ofNat 8 (d.pdOf reg.ctx) }
               .landing obj (BitVec.ofNat 64 n)
           | none => d)
        | none => d)

/-! ### Deadlock detector (R216 to R218) -/

def engBlocked (r : EngRun) : Bool :=
  match r with
  | .rwait _ _ _ => true
  | .kended => true
  | _ => false

/-- R216 for one context, apart from the time that it has lasted. -/
def Dev.stalled (d : Dev) (c : Nat) : Bool :=
  let ss := d.sched.steps.filter (fun p => p.2.ctx == c)
  let running := ss.filter (fun p => p.2.phase == .running)
  !running.isEmpty &&
  !ss.any (fun p => p.2.phase == .saved || p.2.phase == .saving || p.2.phase == .stopping || p.2.phase == .restoring) &&
  running.all (fun p => p.2.engines.all (fun e => engBlocked (d.eng e).run && !(d.eng e).halted)) &&
  !running.any (fun p => d.anvil.ops.any (fun o => o.2.step == p.1)) &&
  !running.any (fun p => p.2.engines.any (fun e => (List.range 4).any (fun c => !(tgetD d.tongs (4 * e.val + c) []).isEmpty)))

/-- R216 for the package. -/
def Dev.stalledAll (d : Dev) : Bool := !d.runningCtxs.isEmpty && d.runningCtxs.all d.stalled

/-- Start a dump (R218, R219). -/
def Dev.startDump (d : Dev) (slot : Option (BitVec 16)) (ctx : Nat) (cause : Bool) : Dev :=
  d.modRennet (fun r => { r with dumps := r.dumps ++ [{ slot := slot, ctx := ctx, cause := cause, t0 := d.count }] })

/-- The detector window of a context, or of the package, in counts (R217). -/
def Dev.dlWindow (d : Dev) (c : Nat) : Nat :=
  (if c = 4095 then d.rennet.pkgWindow else match d.ctx? c with | some x => x.window | none => 100000) * 24

/-- Whether an operation other than a wait has been performed on an object of a context within its window (R216); for the
package, on an object of any context that runs a step. -/
def Dev.opsInWindow (d : Dev) (c : Nat) : Bool :=
  let w := d.dlWindow c
  d.rennet.last.any (fun e =>
    decide ((d.halfCount (objHalf e.1)).toNat < e.2.toNat + w) &&
    (match d.objCtx e.1 with | some x => if c = 4095 then d.runningCtxs.contains x else x == c | none => false))

/-- DEADLOCK_WINDOW_EXPIRY: the context, or with 4,095 the package, has stayed stalled for its window (R216 to R218). -/
def deadlockExpiry (d : Dev) (c : Nat) : Dev :=
  let pkg := c == 4095
  let st := (if pkg then d.stalledAll else d.stalled c) && !d.opsInWindow c
  if !st || d.rennet.fired.contains c || d.faults.contain.isSome then d
  else
    let info := if pkg then 0xFFFFFFFF else c
    let d := (d.raise (evt 3 .ok .hub info 0 0)).modRennet (fun r => { r with fired := c :: r.fired })
    let on := if pkg then d.rennet.pkgDump else (match d.ctx? c with | some x => x.dumpOn | none => false)
    if on && d.rennet.dumpLen != 0 then d.startDump none (if pkg then 0xFFF else c) true else d

def execDeadlockWindowExpiry (ctx : Fin 4096) (s : State) : Res := onDev s (fun d => deadlockExpiry d ctx.val)

/-! ### Dumps (R219 to R221) -/

/-- An object as Table 6.1 lays it out, in eight words. -/
def objWords (o : RObj) : List Nat :=
  let ty := match o.typ with | .counter => 0 | .barrier => 1 | .semaphore => 2
  [o.count.toNat + at_ 32 o.gen.toNat, o.thresh.toNat + at_ 32 ty + at_ 34 (b2n o.stray) + at_ 35 (b2n o.ovf),
   o.rbase.toNat + at_ 17 o.rcnt.toNat + at_ 32 o.expect.toNat, 0,
   fld o.mask.toNat 0 64, fld o.mask.toNat 64 64, fld o.mask.toNat 128 64, fld o.mask.toNat 192 64]

def wordsBytes (ws : List Nat) : List Byte := ws.flatMap (leBytes 8)

/-- The context that an object is granted or allocated to, from the grant to the return (R219). -/
def Dev.objHolder (d : Dev) (n : Nat) : Option Nat :=
  match (d.obj n).owner with
  | some (.ctx c) => some c
  | some (.step s) => (d.step? s).map (·.ctx)
  | none => none

/-- Objects in scope of a dump, in ascending order. -/
def Dev.dumpObjs (d : Dev) (ctx : Nat) : List Nat :=
  if ctx = 0xFFF then List.range 131072
  else (d.rennet.objs.filter (fun p => d.objHolder p.1 == some ctx)).map (·.1)

def Dev.objRec (d : Dev) (n : Nat) : List Byte :=
  let ctxt := (d.objHolder n).getD 0xFFF
  let pool := if n % 65536 < Two.get d.rennet.pool (objHalf n) then 0 else 1
  wordsBytes ([n + at_ 17 pool + at_ 18 ctxt, (d.halfCount (objHalf n)).toNat] ++ objWords (d.obj n))

def scopeCode : Scope → Nat
  | .engine => 0
  | .cluster => 1
  | .half => 2
  | .package => 3
  | .fabric => 4

/-- Table 6.8. -/
def waitRec (w : Waiter) : List Byte :=
  wordsBytes [w.obj + at_ 17 w.src.node.toNat + at_ 25 (halfIdx (engHalf w.eng)) + at_ 26 (engIdx w.eng) +
    at_ 32 (scopeCode w.sc), w.operand.toNat]

/-- Table 6.9. -/
def histRec (h : RHist) : List Byte := wordsBytes [histWord h.obj h.kind.toNat h.src, h.t.toNat, h.operand.toNat]

/-- As many whole records as `room` bytes hold, in order. -/
def fitRecs : Nat → List (List Byte) → List (List Byte)
  | _, [] => []
  | room, r :: t => if r.length ≤ room then r :: fitRecs (room - r.length) t else []

/-- Finish the oldest dump: header and records into the registered buffer, a DUMP_DONE event, and the completion of the
DUMP command that started it (R221). -/
def dumpFinish (d : Dev) : Dev :=
  match d.rennet.dumps with
  | [] => d
  | j :: t =>
    let d := d.modRennet (fun r => { r with dumps := t })
    let os := d.dumpObjs j.ctx
    let inS (n : Nat) : Bool := j.ctx == 0xFFF || os.contains n
    let orec := os.map d.objRec
    let wrec := (d.rennet.waiters.filter (fun w => inS w.obj)).map waitRec
    let hrec := ((d.rennet.hist.w ++ d.rennet.hist.e).filter (fun h => inS h.obj)).map histRec
    let need := 64 + 80 * orec.length + 16 * wrec.length + 24 * hrec.length
    let room := d.rennet.dumpLen - 64
    let o1 := fitRecs room orec
    let room := room - 80 * o1.length
    let w1 := if o1.length < orec.length then [] else fitRecs room wrec
    let room := room - 16 * w1.length
    let h1 := if o1.length < orec.length || w1.length < wrec.length then [] else fitRecs room hrec
    let trunc := decide (d.rennet.dumpLen < need)
    let head := wordsBytes
      [1 + at_ 16 (b2n trunc) + at_ 17 (b2n j.cause) + at_ 32 j.ctx, o1.length + at_ 32 w1.length,
       h1.length + at_ 32 need, j.t0.w.toNat, d.count.w.toNat, j.t0.e.toNat, d.count.e.toNat, 0]
    let bytes := (head ++ o1.flatten ++ w1.flatten ++ h1.flatten).take d.rennet.dumpLen
    let d := d.fwWrite d.rennet.dumpBuf bytes
    let info := if j.ctx = 0xFFF then 0xFFFFFFFF else j.ctx
    let d := d.raise (evt 4 .ok .hub info bytes.length need)
    match j.slot with
    | some sl => d.bgDone sl.toNat .ok 0
    | none => d

def execDumpComplete (s : State) : Res := onDev s dumpFinish

end Sys2Proof.Machine
end

