-- ==== Sys2Proof/Machine/AnvilOps.lean ====
section
/-!
DEFINITION. The Anvil's commands (chapter 02): issue, entry, shares, waits and spare columns.
-/
namespace Sys2Proof.Machine

def Dev.unit (d : Dev) (u : UnitId) : UnitRec :=
  match d.faults.units.find? (fun p => p.1 == u) with
  | some p => p.2
  | none => {}

def Dev.modUnit (d : Dev) (u : UnitId) (f : UnitRec → UnitRec) : Dev :=
  d.modFaults (fun x =>
    if x.units.any (fun p => p.1 == u) then { x with units := x.units.map (fun p => if p.1 = u then (p.1, f p.2) else p) }
    else { x with units := x.units ++ [(u, f {})] })

/-- A quenchable unit that is in service now. -/
def Dev.unitUp (d : Dev) (u : UnitId) : Bool :=
  let r := d.unit u
  !r.quenched && !r.testing && !r.awaiting && r.st != .retired

/-- The halves that an operation spans. -/
def spanHas (span : Nat) (h : Half) : Bool :=
  match h with
  | .west => span != 1
  | .east => span != 0

def spanHalves (span : Nat) : List Half := [Half.west, Half.east].filter (spanHas span)

/-- Curds of a step's operations that count against its capacity in a half (R37). -/
def Dev.curdsUsed (d : Dev) (n : Nat) (h : Half) : Nat :=
  (d.anvil.ops.map (fun p => if p.2.step = n then (Two.get p.2.desc.curds h).length else 0)).sum

/-- R37: a free entry in every queue, and curd capacity, in each half that the operation spans. -/
def Dev.opFits (d : Dev) (n : Nat) (s : Step) (o : OpDesc) : Bool :=
  (spanHalves o.span).all (fun h =>
    decide ((Two.get d.anvil.queue h).length < 64) &&
    decide (d.curdsUsed n h + (Two.get o.curds h).length ≤ (Two.get s.image.decl h).cur))

/-- Whether a curd of an operation covers a retired column quadrant of its half (R51, R76). -/
def Dev.onRetired (d : Dev) (o : OpDesc) : Bool :=
  [Half.west, Half.east].any (fun h =>
    (Two.get o.curds h).any (fun c =>
      (List.range (c.wid + 1)).any (fun i => bit (Two.get d.anvil.retiredQ h).toNat (c.col0 + i))))

/-- Put an operation into the queues of the halves that it spans (R36, R39). -/
def Dev.enqueue (d : Dev) (o : AOp) : Dev :=
  d.modAnvil (fun a =>
    let q (h : Half) := if spanHas o.desc.span h then Two.get a.queue h ++ [a.next] else Two.get a.queue h
    { a with ops := tput a.ops a.next o, next := a.next + 1, queue := ⟨q .west, q .east⟩ })

/-- A check at entry failed: the step ends, and none of its operations starts afterwards (R45, R46). DETAIL is the ticket and
ADDR the address. -/
def Dev.opReject (d : Dev) (n : Nat) (st : Status) (ticket addr : Nat) : Dev :=
  ((d.failStep n st (ticket % 2 ^ 32) addr).unqueue n).modStep n (fun s => { s with lostOps := [] })

/-- OP_ENTER: operations that a resumed step lost re-enter first (R72), while it runs and while it completes (R168), of several
such steps the lowest number's (log 55); one that covers a quadrant retired since is malformed (R76). Else the first waiting issue is checked (R608) and enters, or
fails its step (R45, R46, R136). DESIGN CHOICE (log 171): the checks come before the wait for room. -/
def opEnter (d : Dev) : Dev :=
  match d.sched.steps.find? (fun p => (p.2.phase == .running || p.2.phase == .draining) && !d.away p.1 p.2 && !p.2.lostOps.isEmpty) with
  | some (n, s) =>
    (match s.lostOps with
     | o :: t =>
       if d.onRetired o.desc then d.opReject n .malformed o.ticket o.addr
       else if d.opFits n s o.desc then (d.enqueue o).modStep n (fun s => { s with lostOps := t })
       else d
     | [] => d)
  | none =>
    match d.anvil.issues with
    | [] => d
    | e :: t =>
      match (d.eng e).run, (d.eng e).step with
      | .issue rd a, some n =>
        (match d.step? n with
         | none => d
         | some s =>
           match opCheck d s a with
           | .error (st, ad) => d.opReject n st (s.ticket + 1) ad
           | .ok o =>
             if d.opFits n s o then
               let d := d.modAnvil (fun x => { x with issues := t })
               let d := (d.enqueue { step := n, ticket := s.ticket + 1, desc := o, addr := a.toNat }).modStep n
                 (fun s => { s with ticket := s.ticket + 1, lastIn := e.val })
               d.modEng e (fun x => (x.wx rd (BitVec.ofNat 64 (s.ticket + 1))).retire)
             else d)
      | _, _ => d.modAnvil (fun x => { x with issues := t })

def execOpEnter (s : State) : Res := onDev s opEnter

/-- XAISSUE (R135). -/
def execXaissue (e : Fin 128) (rd rs1 : Fin 32) (rl : Bool) (s : State) : Res :=
  onDev s (fun d =>
    if d.canRun e then
      let k := Cont.issue rd ((d.eng e).rx rs1)
      if rl then d.release_ e .package k else d.runCont e k
    else d)

/-- An operation's share is running in a half. -/
def Dev.streaming (d : Dev) (h : Half) : Bool := d.anvil.ops.any (fun p => Two.get p.2.started h && !Two.get p.2.done h)

/-- The operation that a half starts next: the first of its queue that has not started there (R40, R41). Only the last
running share's overhead and drain overlap with it, so at most one share runs before it (R35, R43). -/
def Dev.nextShare (d : Dev) (h : Half) : Option Nat :=
  let running (i : Nat) : Bool := match tget d.anvil.ops i with | some o => Two.get o.started h | none => false
  match Two.get d.anvil.queue h with
  | [] => none
  | i :: t =>
    if !running i then some i
    else match t with
      | k :: _ => if running k then none else some k
      | [] => none

/-- SHARE_START: the half's next operation starts, under ORDER once every operation that entered before it has completed
(R42), and else while the share before it may still stream or drain (R43; log 60). Bytes that those operations will still
write are undefined for it (R43). Its curds take their entries of the accumulation buffers, and it waits until they are free
(R34, log 163). -/
def shareStart (d : Dev) (h : Half) : Dev :=
  match d.nextShare h with
  | none => d
  | some i =>
    match tget d.anvil.ops i with
    | none => d
    | some o =>
      let earlier := d.anvil.ops.filter (fun p => decide (p.1 < i))
      let more := entriesUsed o.desc h i
      if !d.unitUp (anvilUnit h) || (o.desc.order && !earlier.isEmpty) || !entriesFit (Two.get d.anvil.acc h) more then d
      else
        let rs := earlier.flatMap (fun p => opOuts p.2.desc)
        { d with free := d.free + shareDraws o.desc h }.modAnvil (fun a =>
          { a with
            ops := tput a.ops i { o with started := Two.set o.started h true, dirtied := o.dirtied ++ rs,
                                         base := Two.set o.base h d.free }
            acc := Two.mod a.acc h (· ++ more) })

def execShareStart (h : Half) (s : State) : Res := onDev s (fun d => shareStart d h)

/-- Write containers of a share into the Vats, and collect the flags of their conversions (R104). -/
def writeOuts (d : Dev) (i n : Nat) (ws : List ShareOut) : Dev :=
  foldDev d ws (fun d w =>
    (d.vatPut (w.at_ / 8) (elemBytes d.mem w.at_ w.w w.v) (some i)).modStep n (fun s => { s with nsum := s.nsum ||| w.flags.summary }))

/-- Operations whose share in a half runs. -/
def Dev.runningIn (d : Dev) (h : Half) : List (Nat × AOp) :=
  d.anvil.ops.filter (fun p => Two.get p.2.started h && !Two.get p.2.done h)

/-- What a share of an operation writes, with the free values that it took when it started. -/
def AOp.run (o : AOp) (mem : List Host.Cell) (h : Half) : List ShareOut :=
  shareRun mem o.desc h o.dirtied (Two.get o.base h)

/-- R71: outputs of an incomplete operation that have appeared, and whose inputs another agent has written since, become
undefined. -/
def Dev.spoil (d : Dev) (i : Nat) : Dev :=
  match tget d.anvil.ops i with
  | none => d
  | some o =>
    foldDev d ([Half.west, Half.east].filter (Two.get o.started)) (fun d h =>
      let ws := (o.run d.mem h).filter (fun w =>
        w.und && (Two.get o.done h || o.early.contains w.at_) && !o.spoilt.contains w.at_)
      (writeOuts d i o.step ws).modAnvil (fun a =>
        { a with ops := tmod a.ops i (fun x => { x with spoilt := x.spoilt ++ ws.map ShareOut.at_ }) }))

/-- Whether a share's outputs cover every byte of the 64-byte line at `l`: it is then written as one (Table 7.3). -/
def coversLine (ws : List ShareOut) (l : Nat) : Bool :=
  let rs := ws.map (fun w => elemRange w.at_ w.w)
  (List.range 64).all (fun k => touches rs (64 * l + k) 1)

/-- Whether an output lies among `n` bytes from `v`, or in a line with some of them that the share covers wholly. -/
def ShareOut.among (all : List ShareOut) (v n : Nat) (w : ShareOut) : Bool :=
  let r := elemRange w.at_ w.w
  touches [(v, n)] r.1 r.2 || (touches [(v, n)] (r.1 / 64 * 64) 64 && coversLine all (r.1 / 64))

/-- What another agent finds of a running share's outputs among `n` bytes from Vat address `v`. Each output appears at some
moment of the run (R236): a free choice lets the ones in the range appear now, whole lines at a time where the share covers
them (Table 7.3), and they are not written again. -/
def Dev.surface (d : Dev) (v n : Nat) : Dev :=
  let d := foldDev d (d.anvil.ops.filter (fun p => touches (opOuts p.2.desc) v n)) (fun d p => d.spoil p.1)
  foldDev d [Half.west, Half.east] (fun d h =>
    foldDev d (d.runningIn h) (fun d p =>
      let d' := { d with free := d.free + 1 }
      if !touches (opOuts p.2.desc) (v / 64 * 64) (n + 128) || !Config.freeBool d.free then d'
      else
        let all := p.2.run d.mem h
        let ws := all.filter (fun w => !p.2.early.contains w.at_ && w.among all v n)
        (writeOuts d' p.1 p.2.step ws).modAnvil (fun a =>
          { a with ops := tmod a.ops p.1 (fun o => { o with early := o.early ++ ws.map ShareOut.at_ }) })))

/-- SHARE_COMPLETE (R40, R41, R47, R104): the half's first running share writes the outputs that have not appeared yet; the
operation completes with its last share. DESIGN CHOICE (log 170): a share that runs keeps its entry of the queue until here. `cycles` is how long it streamed (R483). -/
def shareComplete (d : Dev) (h : Half) (cycles : Nat) : Dev :=
  match Two.get d.anvil.queue h with
  | [] => d
  | i :: t =>
    match tget d.anvil.ops i with
    | none => d
    | some o =>
      if !Two.get o.started h then d
      else
        let d := (writeOuts d i o.step ((o.run d.mem h).filter (fun w => !o.early.contains w.at_))).spoil i
        let d := match d.step? o.step with
          | some s => d.modCtx s.ctx (fun c =>
              { c with acct := { c.acct with anvil := Two.mod c.acct.anvil h (· + BitVec.ofNat 64 cycles) } })
          | none => d
        let done := Two.set o.done h true
        let all := (spanHalves o.desc.span).all (fun g => Two.get done g)
        let d := d.modAnvil (fun a =>
          { a with queue := Two.set a.queue h t,
                   ops := if all then tdel a.ops i else tmod a.ops i (fun x => { x with done := done }),
                   acc := Two.mod a.acc h (fun l => l.filter (fun x => x.op != i)) })
        if all then
          let d := match o.desc.doneObj, d.step? o.step with
            | some obj, some s => d.doneSignal 2 0 h s.ctx obj o.step
            | _, _ => d
          d.settle
        else d

def execShareComplete (h : Half) (cycles : Nat) (s : State) : Res := onDev s (fun d => shareComplete d h cycles)

/-- COLUMN_SUBSTITUTE (R75, R530): a spare column takes the place of the first failed column that waits for one. -/
def columnSubstitute (d : Dev) (h : Half) : Dev :=
  match Two.get d.anvil.failedCols h with
  | [] => d
  | c :: t =>
    if d.streaming h then d
    else
      let q := c / 256
      let sp := Two.get d.anvil.spares h
      let left := lgetD sp q 0
      if left = 0 then d
      else
        let u : UnitId := ⟨0, dieOf h, BitVec.ofNat 16 c⟩
        let phys := 260 * q + 256 + (4 - left)
        let d := d.modAnvil (fun a =>
          { a with failedCols := Two.set a.failedCols h t, spares := Two.set a.spares h (lset sp q (left - 1)) })
        let d := d.modUnit u (fun r => { r with st := .replaced, awaiting := false, phys := some phys })
        d.raise (relEvt 1 u phys (left - 1))

def execColumnSubstitute (h : Half) (s : State) : Res := onDev s (fun d => columnSubstitute d h)

/-- XAWAIT (R137). -/
def execXawait (e : Fin 128) (rs1 : Fin 32) (s : State) : Res :=
  onDev s (fun d => if d.canRun e then (d.setRun e (.await (BitVec.ofNat 64 (d.waitLimit e ((d.eng e).rx rs1))))).settleEng e else d)

/-- XAPOLL (R133, R137). -/
def execXapoll (e : Fin 128) (rd rs1 : Fin 32) (s : State) : Res :=
  onDev s (fun d =>
    if d.canRun e then
      let v := match (d.eng e).step with
        | some n => d.anvilDone n (d.waitLimit e ((d.eng e).rx rs1))
        | none => true
      d.modEng e (fun x => (x.wx rd (if v then 1 else 0)).retire)
    else d)

end Sys2Proof.Machine
end

