-- ==== Sys2Proof/Machine/Translate.lean ====
section
/-!
DEFINITION. The translation service (chapter 10): Sv57 walks and their checks, the structures that hold translations,
parking on fault records, the fault queues and ATS.
-/
namespace Sys2Proof.Machine

/-! ### Page-table entries (Table 10.1) -/

def pteV (p : Nat) : Bool := bit p 0
def pteR (p : Nat) : Bool := bit p 1
def pteW (p : Nat) : Bool := bit p 2
def pteX (p : Nat) : Bool := bit p 3
def pteU (p : Nat) : Bool := bit p 4
def pteA (p : Nat) : Bool := bit p 6
def pteD (p : Nat) : Bool := bit p 7
def ptePpn (p : Nat) : Nat := fld p 10 44
def pteN (p : Nat) : Bool := bit p 63
def pteLeaf (p : Nat) : Bool := pteR p || pteW p || pteX p

/-- CAUSE of Table 10.5. -/
def cNotValid : Nat := 0
def cPermission : Nat := 1
def cAccessed : Nat := 2
def cDirty : Nat := 3
def cBadPte : Nat := 4
def cBadTable : Nat := 5

/-- Checks of an entry's own form at a level. -/
def pteForm (level p : Nat) : Option Nat :=
  if !pteV p then some cNotValid
  else if (pteW p && !pteR p) || fld p 54 7 != 0 || fld p 61 2 == 3 then some cBadPte
  else if pteN p && (!pteLeaf p || level != 0 || fld p 10 4 != 8) then some cBadPte
  else if !pteLeaf p && level = 0 then some cBadPte
  else if pteLeaf p && ptePpn p % 2 ^ (9 * level) != 0 then some cBadPte
  else none

/-- Permission checks on a leaf. -/
def leafCheck (acc : Access) (p : Nat) : Option Nat :=
  let wr := acc = .write || acc = .reduce
  if !pteU p then some cPermission
  else if (acc = .read && !pteR p) || (wr && !pteW p) || (acc = .exec && !pteX p) then some cPermission
  else if !pteA p then some cAccessed
  else if wr && !pteD p then some cDirty
  else none

/-- log2 of the page that a leaf of a level maps, and its entry as held: a 256 TiB leaf is held as the 512 GiB piece in
use (Table 10.2). -/
def leafHeld (level p va : Nat) : Nat × Nat :=
  if level = 0 then (if pteN p then 16 else 12, p)
  else if level = 4 then (39, p + at_ 10 (at_ 27 (fld va 39 9)))
  else (12 + 9 * level, p)

/-- The physical address that a held leaf gives (R309). -/
def leafPa (sizeLog p va : Nat) : Nat :=
  if sizeLog = 16 then (ptePpn p / 16) * 2 ^ 16 + va % 2 ^ 16
  else ptePpn p * 4096 / 2 ^ sizeLog * 2 ^ sizeLog + va % 2 ^ sizeLog

/-- The local UMR offset of a page table, if it lies in a backed frame of this node (R306). -/
def Dev.tableOff (d : Dev) (ppn : Nat) : Option Nat :=
  match d.target false (ppn * 4096) with
  | .umr off => if d.backed off then some off else none
  | _ => none

inductive WalkRes where
  | leaf (level pte : Nat)
  | fault (cause level : Nat)
  | poison (addr : Nat)
  | refused (st : Status) (addr : Nat)
  | hold (off : Nat)
deriving DecidableEq, Repr

/-- Walk from a table down the listed levels (R304, R306, R307), with the non-leaf entries met. The frame of a table may hold or
refuse the read (R350, R355, R356), unless the walk only looks; `ext` answers for the lines that other nodes own. -/
def walkFrom (d : Dev) (h : Half) (ctx va : Nat) (look : Bool) : List Byte → List Nat → Nat → List WalkEnt → WalkRes × List WalkEnt
  | _, [], _, ws => (.fault cNotValid 0, ws)
  | ext, l :: t, ppn, ws =>
    let vpn := va / 2 ^ (12 + 9 * l)
    match (Two.get d.xlate h).wcache.find? (fun w => w.ctx == ctx && w.level == l && w.vpn == vpn) with
    | some w => walkFrom d h ctx va look ext t w.table ws
    | none =>
      match d.tableOff ppn with
      | none => (.fault cBadTable (if l = 4 then 4 else l + 1), ws)
      | some off =>
        let a := off + 8 * (vpn % 512)
        match (if look then .go d else d.readGate a 8) with
        | .hold _ => (.hold a, ws)
        | .refuse st => (.refused st (0xFF * 2 ^ 48 + a), ws)
        | .go _ =>
          if d.cohPoison a 8 then (.poison (0xFF * 2 ^ 48 + a), ws)
          else
            let far := d.lineFar (a / 64) && 8 ≤ ext.length
            let p := ofLe (if far then ext.take 8 else d.cohRead a 8)
            match pteForm l p with
            | some c => (.fault c l, ws)
            | none =>
              if pteLeaf p then (.leaf l p, ws)
              else walkFrom d h ctx va look (if far then ext.drop 8 else ext) t (ptePpn p)
                (ws ++ [{ ctx := ctx, level := l, vpn := vpn, table := ptePpn p }])

/-- A walk for a context; a virtual address that Sv57 does not hold is not valid, and a context without a root has no
table (log 20). -/
def Dev.walk (d : Dev) (h : Half) (ctx va : Nat) (ext : List Byte := []) (look : Bool := false) : WalkRes × List WalkEnt :=
  match (d.ctx? ctx).bind (·.root) with
  | none => (.fault cBadTable 4, [])
  | some r =>
    if va / 2 ^ 56 != 0 && va / 2 ^ 56 != 2 ^ 8 - 1 then (.fault cNotValid 4, [])
    else walkFrom d h ctx va look ext [4, 3, 2, 1, 0] r.1.toNat []

/-- The offsets of the page-table entries that a walk reads (R306). -/
def walkReads (d : Dev) (h : Half) (ctx va : Nat) : List Byte → List Nat → Nat → List Nat
  | _, [], _ => []
  | ext, l :: t, ppn =>
    let vpn := va / 2 ^ (12 + 9 * l)
    match (Two.get d.xlate h).wcache.find? (fun w => w.ctx == ctx && w.level == l && w.vpn == vpn) with
    | some w => walkReads d h ctx va ext t w.table
    | none =>
      match d.tableOff ppn with
      | none => []
      | some off =>
        let a := off + 8 * (vpn % 512)
        let far := d.lineFar (a / 64) && 8 ≤ ext.length
        let p := ofLe (if far then ext.take 8 else d.cohRead a 8)
        if (pteForm l p).isSome || pteLeaf p then [a] else a :: walkReads d h ctx va (if far then ext.drop 8 else ext) t (ptePpn p)

/-- What the reads of a walk leave behind at their homes (R306, R345). -/
def Dev.walkTouch (d : Dev) (h : Half) (ctx va : Nat) (ext : List Byte := []) : Dev :=
  match (d.ctx? ctx).bind (·.root) with
  | none => d
  | some r => foldDev d (walkReads d h ctx va ext [4, 3, 2, 1, 0] r.1.toNat) (fun d a => d.homeTouch a 8)

/-! ### Held translations (Table 10.3) -/

def xUser (u : XUser) : Half :=
  match u with
  | .engine e => engHalf e
  | .tongs e _ => engHalf e
  | .phase1 _ => .west

def tongsOf (e : Fin 128) (c : Fin 4) : Fin 32 := Fin.ofNat 32 (4 * (engIdx e / 8) + c.val)

def userHolder (u : XUser) (acc : Access) : TlbHolder :=
  match u with
  | .engine e => if acc = .exec then .inst e else .data e
  | .tongs e c => .tongs (engHalf e) (tongsOf e c)
  | .phase1 _ => .shared

def holderCap : TlbHolder → Nat
  | .data _ => 64
  | .inst _ => 16
  | .tongs _ _ => 128
  | .shared => 16384
  | .small => 4096

/-- The entries of one set: 16 ways of the shared TLB, 8 of the small-page TLB, and all of a micro-TLB (Table 10.3). -/
def holderWays : TlbHolder → Nat
  | .shared => 16
  | .small => 8
  | t => holderCap t

/-- The set of an entry: its page number, modulo the number of sets (log 21). -/
def TlbEnt.set (e : TlbEnt) : Nat := e.page % (holderCap e.holder / holderWays e.holder)

/-- Insert an entry; beyond the size of its set the oldest entry of the set goes (log 21). -/
def tlbInsert (l : List TlbEnt) (e : TlbEnt) : List TlbEnt :=
  let same (x : TlbEnt) : Bool := x.holder == e.holder && x.set == e.set
  let l := l.filter (fun x => !(x.holder == e.holder && x.ctx == e.ctx && x.page == e.page && x.sizeLog == e.sizeLog))
  let l := if holderWays e.holder ≤ (l.filter same).length then removeFirst same l else l
  l ++ [e]

/-- Whether one of the half's 32 walkers is free (Table 10.3). -/
def Dev.walkerFree (d : Dev) (h : Half) : Bool := decide ((Two.get d.xlate h).walks.length < 32)

/-- A held translation that permits the access: the physical address. -/
def Dev.xlookup (d : Dev) (u : XUser) (ctx va : Nat) (acc : Access) : Option Nat :=
  let x := Two.get d.xlate (xUser u)
  let mine := userHolder u acc
  (x.tlb.find? (fun e => (e.holder == mine || e.holder == .shared || e.holder == .small) && e.ctx == ctx &&
      va / 2 ^ e.sizeLog == e.page && (leafCheck acc e.pte.toNat).isNone)).map
    (fun e => leafPa e.sizeLog e.pte.toNat va)

/-- Hold the result of a walk in the half's TLB and in the user's own structure. -/
def Dev.xfill (d : Dev) (h : Half) (holder : TlbHolder) (ctx va level pte : Nat) (ws : List WalkEnt) : Dev :=
  let (sz, p) := leafHeld level pte va
  let ent (t : TlbHolder) : TlbEnt := { holder := t, ctx := ctx, page := va / 2 ^ sz, sizeLog := sz, pte := BitVec.ofNat 64 p }
  d.modXlate h (fun x =>
    let wc := x.wcache ++ ws
    { x with tlb := tlbInsert (tlbInsert x.tlb (ent (if sz ≤ 16 then .small else .shared))) (ent holder),
             wcache := wc.drop (wc.length - 1024) })

/-! ### Parking (R313 to R321) -/

/-- FID that stands for a user that waits for a free record (R314). -/
def fidNone : Nat := 4096

def Dev.userStep (d : Dev) (u : XUser) : Option Nat :=
  match u with
  | .engine e => (d.eng e).step
  | .tongs e _ => (d.eng e).step
  | .phase1 n => some n

/-- Change the transfer at the head of a channel. -/
def Dev.modHead (d : Dev) (e : Fin 128) (c : Fin 4) (f : Xfer → Xfer) : Dev :=
  { d with tongs := tmod d.tongs (4 * e.val + c.val) (fun l => match l with | x :: t => f x :: t | [] => []) }

def Dev.park (d : Dev) (u : XUser) (fid : Nat) : Dev :=
  match u with
  | .engine e => d.modEng e (fun x => { x with run := .parked fid, mid := false })
  | .tongs e c => d.modHead e c (fun x => { x with parked := some fid, walking := false })
  | .phase1 n => d.modStep n (fun s => { s with parked := some fid })

/-- Let a parked or walking user replay its access (R127, R318). -/
def Dev.unpark (d : Dev) (u : XUser) : Dev :=
  match u with
  | .engine e =>
    (match (d.eng e).run with
     | .parked _ => d.setRun e .running
     | .walking => d.setRun e .running
     | _ => d)
  | .tongs e c => d.modHead e c (fun x => { x with parked := none, walking := false })
  | .phase1 n => d.modStep n (fun s => { s with parked := none })

/-- A user's access has failed for good: its transfer goes no further, and its step ends. -/
def Dev.failUser (d : Dev) (u : XUser) (st : Status) (detail addr : Nat) : Dev :=
  let d := match u with
    | .tongs e c => d.modHead e c (fun x => { x with failed := true, parked := none, walking := false })
    | _ => d
  match u, d.userStep u with
  | .engine e, _ => d.failEng e st detail addr
  | _, some n => d.failStep n st detail addr
  | _, none => d

/-- The lowest free record slot of a half. -/
def freeSlot (x : Xlate) : Option Nat := (List.range 1024).find? (fun i => !thas x.recs i)

/-- Raise a record, join an outstanding one of the same page, or wait for a free slot (R313, R314). -/
def Dev.raiseFault (d : Dev) (h : Half) (r : FRec) : Dev :=
  let x := Two.get d.xlate h
  match x.recs.find? (fun p => p.2.ctx == r.ctx && p.2.va.toNat / 4096 == r.va.toNat / 4096) with
  | some (i, _) =>
    let d := d.modXlate h (fun x => { x with recs := tmod x.recs i (fun q => { q with users := q.users ++ r.users }) })
    foldDev d r.users (fun d u => d.park u (1024 * halfIdx h + i))
  | none =>
    match freeSlot x with
    | none =>
      let d := d.modXlate h (fun x => { x with waiting := x.waiting ++ [r] })
      foldDev d r.users (fun d u => d.park u fidNone)
    | some i =>
      let ord := d.faults.faultNo
      let d := d.modXlate h (fun x => { x with recs := tput x.recs i { r with t := d.halfCount h, ord := ord } })
      let d := d.modFaults (fun f => { f with faultNo := f.faultNo + 1 })
      foldDev d r.users (fun d u => d.park u (1024 * halfIdx h + i))

/-- Raise, oldest first, the records that waited for a slot; those for which there is still none go on waiting. -/
def Dev.raiseWaiting (d : Dev) (h : Half) : Dev :=
  foldDev (d.modXlate h (fun x => { x with waiting := [] })) (Two.get d.xlate h).waiting (fun d r => d.raiseFault h r)

def accessCode : Access → Nat
  | .read => 0
  | .write => 1
  | .exec => 2
  | .reduce => 3

/-- Ring of a user's step. -/
def Dev.userRing (d : Dev) (u : XUser) : Nat :=
  match (d.userStep u).bind d.step? with
  | some s => s.ring
  | none => 0

/-- A fault of one access: park the user. -/
def Dev.faultUser (d : Dev) (u : XUser) (ctx : Nat) (va : Word) (acc : Access) (cause level : Nat) : Dev :=
  d.raiseFault (xUser u)
    { cause := cause, acc := acc, ctx := ctx, level := level, va := va, t := 0, src := u, ring := d.userRing u, users := [u] }

/-- A miss: the user waits for a walk, which the misses of a context on one page share (Table 10.3). -/
def Dev.missUser (d : Dev) (u : XUser) (ctx : Nat) (va : Word) (acc : Access) : Dev :=
  let h := xUser u
  let pg := va.toNat / 4096
  let d := d.modXlate h (fun x =>
    if x.walks.any (fun w => w.ctx == ctx && w.page == pg) then
      { x with walks := x.walks.map (fun w =>
          if w.ctx = ctx && w.page = pg then { w with users := w.users ++ [⟨u, acc, va⟩] } else w) }
    else { x with walks := x.walks ++ [{ ctx := ctx, page := pg, users := [⟨u, acc, va⟩] }] })
  match u with
  | .engine e => d.setRun e .walking
  | .tongs e c => d.modHead e c (fun x => { x with walking := true })
  | .phase1 _ => d

/-- Whether a user's step has ended already, so that its engine has only an instruction to finish (R129). -/
def Dev.endedUser (d : Dev) (u : XUser) : Bool :=
  match u, (d.userStep u).bind d.step? with
  | .engine _, some s => s.outcome.isSome
  | _, _ => false

/-- Raise one record for the users of a walk that the translation stops: the first of them is its source. An engine whose step
has ended stops in place of parking (R313, log 173). -/
def Dev.faultWalk (d : Dev) (h : Half) (w : Walk) (cause level : Nat) (us : List WalkUser) : Dev :=
  let d := foldDev d (us.filter (fun u => d.endedUser u.user)) (fun d u => match u.user with | .engine e => d.stopEng e | _ => d)
  match us.filter (fun u => !d.endedUser u.user) with
  | [] => d
  | u :: t =>
    d.raiseFault h { cause := cause, acc := u.acc, ctx := w.ctx, level := level, va := u.va, t := 0, src := u.user,
                     ring := d.userRing u.user, users := u.user :: t.map (·.user) }

/-- A walk in progress completes: its users replay with the translation, park on a fault, or lose their step to poison or to a
refused read. A walk whose table is being filled or moved goes on waiting. A half has 32 walkers; the misses beyond them wait
for one (Table 10.3). -/
def walkDone (d : Dev) (h : Half) (ctx : Nat) (va : Word) (ext : List Byte) : Dev :=
  let pg := va.toNat / 4096
  match ((Two.get d.xlate h).walks.take 32).find? (fun w => w.ctx == ctx && w.page == pg) with
  | none => d
  | some w =>
    let (r, ws) := d.walk h ctx (4096 * w.page) ext
    let done := (d.modXlate h (fun x => { x with walks := removeFirst (· == w) x.walks })).walkTouch h ctx (4096 * w.page) ext
    match r with
    | .hold off => (match d.readGate off 8 with | .hold d => d | _ => d)
    | .refused st a => foldDev done w.users (fun d u => d.failUser u.user st 0 a)
    | .poison a => foldDev done w.users (fun d u => d.failUser u.user .poison 0 a)
    | .fault c l => done.faultWalk h w c l w.users
    | .leaf l p =>
      let bad := w.users.filter (fun u => (leafCheck u.acc p).isSome)
      let good := w.users.filter (fun u => (leafCheck u.acc p).isNone)
      let d := foldDev done good (fun d u => (d.xfill h (userHolder u.user u.acc) ctx (4096 * w.page) l p ws).unpark u.user)
      let cause := ((bad.head?).bind (fun u => leafCheck u.acc p)).getD cNotValid
      d.faultWalk h w cause l bad

def execTranslationWalk (h : Half) (ctx : Fin 4096) (va : VaIn) (s : State) : Res :=
  onDev s (fun d => walkDone d h ctx.val va.va va.ext)

/-! ### Fault queues (R315 to R317) -/

/-- Table 10.5. -/
def faultRec (fid : Nat) (r : FRec) (phase : Bool) : List Byte :=
  let (st, sid) := match r.src with
    | .engine e => (0, engIdx e)
    | .tongs e c => (1, 4 * engIdx e + c.val)
    | .phase1 _ => (2, 0)
  wordsBytes
    [b2n phase + at_ 1 r.cause + at_ 4 (accessCode r.acc) + at_ 6 (fid / 1024) + at_ 8 r.ctx + at_ 32 fid + at_ 48 r.level,
     r.va.toNat, r.t.toNat, st + at_ 8 sid + at_ 16 r.ring]

/-- Outstanding records of a context with their FIDs. -/
def Dev.ctxRecs (d : Dev) (ctx : Nat) : List (Nat × FRec) :=
  let all : List (Nat × FRec) := d.xlate.w.recs ++ d.xlate.e.recs.map (fun p => (1024 + p.1, p.2))
  all.filter (fun p => p.2.ctx == ctx)

/-- The record raised first among those not written. -/
def firstRec (l : List (Nat × FRec)) : Option (Nat × FRec) :=
  l.foldl (fun a p => if p.2.written then a else match a with
    | none => some p
    | some q => if p.2.ord < q.2.ord then some p else a) none

/-- FAULT_RECORD_WRITE: the context's oldest record goes to its fault queue when there is room. A record takes its place
in the queue until its reply frees it (log 22). -/
def faultWrite (d : Dev) (ctx : Nat) : Dev :=
  match d.ctx? ctx with
  | none => d
  | some c =>
    match c.fq, firstRec (d.ctxRecs ctx) with
    | some q, some (fid, r) =>
      if 2 ^ q.log2 ≤ ((d.ctxRecs ctx).filter (fun p => p.2.written)).length then d
      else
        let phase := (q.posted / 2 ^ q.log2) % 2 == 0
        let d := d.fwWrite (q.addr + BitVec.ofNat 64 (32 * (q.posted % 2 ^ q.log2))) (faultRec fid r phase)
        let d := d.modXlate (halfOfNat (fid / 1024)) (fun x =>
          { x with recs := tmod x.recs (fid % 1024) (fun r => { r with written := true }) })
        let d := d.modCtx ctx (fun c => { c with fq := some { q with posted := q.posted + 1 } })
        d.fwSignal q.bind
    | _, _ => d

def execFaultRecordWrite (ctx : Fin 4096) (s : State) : Res := onDev s (fun d => faultWrite d ctx.val)

/-! ### ATS (R331) -/

/-- The entry goes, and the completion follows at once: each access that used it left when its translation was looked up. -/
def execAtsInvalidationRequest (ctx : Fin 4096) (addr : Word) (s : State) : Res :=
  onDev s (fun d => (d.modHost (fun h =>
    { h with atsCache := h.atsCache.filter (fun x => !(x.1 == ctx.val && x.2.1 == addr.toNat / 4096)) })).emit
      (.atsInvalidated addr.toNat (d.ctxPasid (some ctx.val))))

def execAtsTranslationCompletion (ctx : Fin 4096) (addr xaddr : Word) (s : State) : Res :=
  onDev s (fun d =>
    match d.ctx? ctx.val with
    | some c =>
      if c.ats then d.modHost (fun h =>
        let l := h.atsCache.filter (fun x => !(x.1 == ctx.val && x.2.1 == addr.toNat / 4096)) ++
          [(ctx.val, addr.toNat / 4096, xaddr)]
        { h with atsCache := l.drop (l.length - 4096),
                 atsAsked := h.atsAsked.filter (fun x => x != (ctx.val, addr.toNat / 4096)) })
      else d
    | none => d)

/-! ### Access results -/

/-- What a virtual address leads to for one user now. -/
inductive XRes where
  | hit (pa : Nat)
  | wait (d : Dev)

/-- Translate an access of an engine or channel: a held translation, or a wait for a walk. -/
def Dev.xlate_ (d : Dev) (u : XUser) (ctx : Nat) (va : Word) (acc : Access) : XRes :=
  match d.xlookup u ctx va.toNat acc with
  | some pa => .hit pa
  | none => .wait (d.missUser u ctx va acc)

end Sys2Proof.Machine
end

