-- ==== Sys2Proof/Machine/EngMem.lean ====
section
/-!
DEFINITION. Memory accesses of a vector engine (R120 to R127, R176, R224): address resolution, loads, stores and atomics,
scalar and vector.
-/
namespace Sys2Proof.Machine

/-- Exception codes of the RISC-V privileged standard that an engine raises. -/
def excIllegal : Nat := 2
def excBreak : Nat := 3
def excLoadMis : Nat := 4
def excLoadFault : Nat := 5
def excStoreMis : Nat := 6
def excStoreFault : Nat := 7
def excEcallU : Nat := 8

/-- Kinds of engine access. -/
inductive AccKind where
  | load
  | store
  | atomic
  | lr
  | sc
deriving DecidableEq, Repr

def AccKind.acc : AccKind → Access
  | .load => .read
  | .lr => .read
  | _ => .write

/-- Where an access goes, or what stops it: an exception, an error that ends the step, a wait, or a hold at the source
while a LIVE node has no route (R430). -/
inductive EngTo where
  | umr (off : Nat)
  | vat (v : Nat)
  | host (a : Nat)
  | remote (node addr : Nat)
  | exc (cause : Nat)
  | fail (st : Status) (detail : Nat)
  | wait (d : Dev)
  | hold

/-- An address of this node, by either of its spellings (R21): its local offset. -/
def Dev.ownOff (d : Dev) (a : Nat) : Option Nat :=
  let node := fld a 48 8
  if node = 0xFF || (d.chain.joined && node = d.chain.node) then some (a % 2 ^ 48) else none

/-- The Vat window of this node as an engine's data address; it is not translated (log 23). An address that spells a reserved
offset is a virtual address as any other. -/
def Dev.vatWindow (d : Dev) (a : Nat) : Option Nat :=
  match d.ownOff a with
  | some o => if vatBase ≤ o && o < vatBase + 0x20000000 then some (o - vatBase) else none
  | none => none

/-- The Rennet range of this or another node as an engine's data address (R124, R140). -/
def Dev.rennetWindow (d : Dev) (a : Nat) : Bool := (d.rennetAddr (BitVec.ofNat 64 a)).isSome

def AccKind.misCode (k : AccKind) : Nat := if k.acc = .read then excLoadMis else excStoreMis
def AccKind.faultCode (k : AccKind) : Nat := if k.acc = .read then excLoadFault else excStoreFault

/-- A Vat access of an engine: natural alignment of the whole element (R123; `mis` says that it has none), no LR or SC (R126), inside the step's grant (R176). -/
def Dev.engVat (d : Dev) (e : Fin 128) (k : AccKind) (v n : Nat) (mis : Bool) : EngTo :=
  if k = .lr || k = .sc then .exc k.faultCode
  else if mis then .exc k.misCode
  else match (d.eng e).step.bind d.step? with
    | some s => if s.covers v n then .vat v else .exc k.faultCode
    | none => .exc k.faultCode

/-- What a translated address is to an engine (R26, R124, R309, R330). A read that a copy in the L1 serves passes no gate of
its home; `home` marks one that the L1 may not serve (R144). -/
def Dev.engTarget (d : Dev) (e : Fin 128) (k : AccKind) (pa n : Nat) (mis home : Bool) : EngTo :=
  match d.target true pa with
  | .umr off =>
    if !d.backed off then .fail .unmapped 0
    else if k = .load && (home || !(d.eng e).l1d.any (fun p => p.1 == off / 64)) then
      (match d.readGate off n with
       | .refuse st => .fail st 0
       | .hold d => .wait d
       | .go d => if d.cohPoison off n then .fail .poison 0 else .umr off)
    else .umr off
  | .vat off => d.engVat e k (off - vatBase) n mis
  | .host a =>
    if k = .load || k = .store then (match d.atsWait (d.engCtx e) a with | some d => .wait d | none => .host a)
    else .fail .unmapped 0
  | .remote nd off =>
    if isVat off || (match localTarget off with | .umr _ => true | _ => false) then
      (if isVat off && mis then .exc k.misCode
       else if !d.live nd then (if k = .store then .remote nd pa else .fail .unreachable nd)
       else if !d.reach nd && k = .load then .hold
       else .remote nd pa)
    else .fail .unmapped 0
  | _ => .fail .unmapped 0

/-- Resolve `n` bytes at a virtual address that do not cross a line; `mis` says that the access is not aligned. -/
def Dev.engResolve (d : Dev) (e : Fin 128) (k : AccKind) (va : Word) (n : Nat) (mis : Bool) (home : Bool := false) : EngTo :=
  match d.vatWindow va.toNat with
  | some v => if vatSize ≤ v % 0x10000000 then .fail .unmapped 0 else d.engVat e k v n mis
  | none =>
    if d.rennetWindow va.toNat then .fail .unmapped 0
    else match d.xlate_ (.engine e) ((d.engCtx e).getD 0) va k.acc with
      | .hit pa => d.engTarget e k pa n mis home
      | .wait d => .wait d

/-! ### The L1 data cache (R120, R122, R224) -/

/-- Fill a line: 256 sets of 4 ways, the oldest way replaced (log 24). -/
def l1Fill (l : List (Nat × List Byte)) (line : Nat) (bs : List Byte) : List (Nat × List Byte) :=
  let same := l.filter (fun p => p.1 % 256 == line % 256)
  let l := if 4 ≤ same.length then removeFirst (fun p => p.1 % 256 == line % 256) l else l
  l ++ [(line, bs)]

def Engine.l1Get (x : Engine) (line : Nat) : Option (List Byte) := (x.l1d.find? (fun p => p.1 == line)).map (·.2)

/-- A store that hits updates the line (R120). -/
def Engine.l1Put (x : Engine) (off : Nat) (bs : List Byte) : Engine :=
  { x with l1d := x.l1d.map (fun p =>
      if p.1 = off / 64 then (p.1, p.2.take (off % 64) ++ bs ++ p.2.drop (off % 64 + bs.length)) else p) }

/-- Read UMR bytes of one line: from the L1, or from the home with a fill; a line that another node owns is read and not
kept. The engine's own writes in flight show. -/
def Dev.engUmr (d : Dev) (e : Fin 128) (home : Bool) (off n : Nat) (ext : List Byte) : Except Status (List Byte × Dev) :=
  let line := off / 64
  let ga := 0xFF * 2 ^ 48
  match (if home then none else (d.eng e).l1Get line) with
  | some l => .ok (d.overlay (.engine e) (ga + off) ((l.drop (off % 64)).take n), d)
  | none =>
    if d.lineFar line then
      (d.homeRead off n ext).map (fun r => (d.overlay (.engine e) (ga + off) r.1, r.2.heatUp off))
    else
      let l := d.overlay (.engine e) (ga + 64 * line) (d.cohRead (64 * line) 64)
      let d := (if home then d else d.modEng e (fun x => { x with l1d := l1Fill x.l1d line l })).heatUp off
      .ok ((l.drop (off % 64)).take n, d)

/-- What a piece of a load or store comes to: its bytes, a wait after which the instruction is performed again, or an exception
or error that has ended the step. -/
inductive EngGot where
  | bytes (bs : List Byte) (d : Dev)
  | stop (d : Dev)
  | fault (d : Dev)

/-- End an access that cannot go on: `va` is the faulting address. -/
def Dev.engStop (d : Dev) (e : Fin 128) (va : Nat) (t : EngTo) : EngGot :=
  match t with
  | .exc c => .fault (d.engExc e c va)
  | .fail st det => .fault (d.failEng e st det va)
  | .wait d => .stop (d.modEng e (fun x => { x with mid := true }))
  | _ => .stop (d.modEng e (fun x => { x with mid := true }))

/-- Load one piece: its bytes, or the package after what stopped it. Bytes from outside the node are `ext`; a Vat read finds
outputs of a running Anvil share where they have appeared (R236). -/
def Dev.engLoadPiece (d : Dev) (e : Fin 128) (home : Bool) (va : Word) (n : Nat) (mis : Bool) (ext : List Byte) : EngGot :=
  match d.engResolve e .load va n mis home with
  | .umr off =>
    (match d.engUmr e home off n ext with
     | .ok r => .bytes r.1 r.2
     | .error st => d.engStop e va.toNat (.fail st 0))
  | .vat v =>
    let d := d.surface v n
    .bytes (d.overlay (.engine e) (0xFF * 2 ^ 48 + vatOff v) (d.rd (vatOff v) n)) d
  | .host a => .bytes ((ext ++ List.replicate n 0).take n) (d.hostGet (d.engCtx e) a n)
  | .remote _ pa =>
    (match extAnswer ext n with
     | .ok bs => .bytes (d.overlay (.engine e) pa bs) d
     | .error st => d.engStop e va.toNat (.fail st 0))
  | t => d.engStop e va.toNat t

/-- Pieces of an access, cut at 64-byte lines: (offset from the start, length). -/
def pieces (va n : Nat) : List (Nat × Nat) :=
  let first := 64 - va % 64
  if n ≤ first then [(0, n)] else [(0, first), (first, n - first)]

/-- Load `n` bytes, at most one line, that may cross a line; `el` is the width of one element. -/
def Dev.engLoadBytes (d : Dev) (e : Fin 128) (home : Bool) (va : Word) (n el : Nat) (ext : List Byte) : EngGot :=
  (pieces va.toNat n).foldl (fun a p =>
    match a with
    | .bytes bs d =>
      (match d.engLoadPiece e home (va + BitVec.ofNat 64 p.1) p.2 (decide (va.toNat % el ≠ 0)) (ext.drop p.1) with
       | .bytes b d => .bytes (bs ++ b) d
       | x => x)
    | x => x) (.bytes [] d)

/-- Where a whole store goes, or the first piece that stops it: nothing is written unless every piece can be. -/
def Dev.engStoreTo (d : Dev) (e : Fin 128) (va : Word) (n el : Nat) : Except EngGot (List (Nat × Nat)) :=
  (pieces va.toNat n).foldl (fun a p =>
    match a with
    | .error x => .error x
    | .ok l =>
      let v := va + BitVec.ofNat 64 p.1
      match d.engResolve e .store v p.2 (decide (va.toNat % el ≠ 0)) with
      | .umr off => .ok (l ++ [(0xFF * 2 ^ 48 + off, p.2)])
      | .vat v => .ok (l ++ [(0xFF * 2 ^ 48 + vatOff v, p.2)])
      | .host a => .ok (l ++ [(0xFD * 2 ^ 48 + a, p.2)])
      | .remote _ pa => .ok (l ++ [(pa, p.2)])
      | t => .error (d.engStop e v.toNat t)) (.ok [])

/-- Store bytes, at most one line, that may cross a line: written through, and into the L1 on a hit. -/
def Dev.engStoreBytes (d : Dev) (e : Fin 128) (va : Word) (bs : List Byte) (el : Nat) : EngGot :=
  match d.engStoreTo e va bs.length el with
  | .error x => x
  | .ok l =>
    let r := l.foldl (fun (a : Dev × List Byte) p =>
      let d := a.1.issueWrites (.engine e) p.1 (a.2.take p.2) none
      let d := match d.target true p.1 with
        | .umr off => d.modEng e (fun x => x.l1Put off (a.2.take p.2))
        | _ => d
      (d, a.2.drop p.2)) (d, bs)
    .bytes [] r.1

/-- The package after an access. -/
def EngGot.dev : EngGot → Dev
  | .bytes _ d => d
  | .stop d => d
  | .fault d => d

/-! ### Vector registers and element addresses -/

/-- Bytes per element for SEW of the current vtype, and LMUL in eighths. -/
def vsewBytes (vt : Word) : Nat := 2 ^ fld vt.toNat 3 3
def vlmul8 (vt : Word) : Nat :=
  match fld vt.toNat 0 3 with
  | 0 => 8
  | 1 => 16
  | 2 => 32
  | 3 => 64
  | 5 => 1
  | 6 => 2
  | 7 => 4
  | _ => 0
def vill (vt : Word) : Bool := bit vt.toNat 63

/-- Element `i` of `w` bytes in the group that starts at register `r`. -/
def Engine.velem (x : Engine) (r w i : Nat) : Nat := fld (x.rv (r + i * w / 256)).toNat (8 * (i * w % 256)) (8 * w)

def bitsPut (v : BitVec 2048) (lo n x : Nat) : BitVec 2048 :=
  let o := v.toNat
  BitVec.ofNat 2048 (o - at_ lo (fld o lo n) + at_ lo (x % 2 ^ n))

def Engine.vput (x : Engine) (r w i v : Nat) : Engine :=
  let k := r + i * w / 256
  x.wv k (bitsPut (x.rv k) (8 * (i * w % 256)) (8 * w) v)

/-- Mask bit of element `i`. -/
def Engine.vmask (x : Engine) (i : Nat) : Bool := bit (x.rv 0).toNat i

/-- EMUL in eighths of a data group of `w`-byte elements. -/
def emul8 (x : Engine) (w : Nat) : Nat := w * vlmul8 x.vtype / vsewBytes x.vtype

def regsOf (m8 : Nat) : Nat := max 1 (m8 / 8)

/-- Bytes of a data element: its own width, and SEW when indexed. -/
def vmemW (x : Engine) (m : VMem) : Nat :=
  match m.mode with
  | .indexed _ _ _ => vsewBytes x.vtype
  | _ => 2 ^ m.wLog.val

/-- Whether two runs of registers share one. -/
def regsMeet (a na b nb : Nat) : Bool := decide (a < b + nb) && decide (b < a + na)

/-- Whether an indexed access puts its data group over its index group where that is reserved: a load of segments; a load whose
element widths differ, but for the lowest part of a wider index group and the highest part of a wider data group; a store that
would read one register with two element widths. -/
def idxMeets (isLoad : Bool) (nf v w g vs2 wi gi : Nat) : Bool :=
  regsMeet v (nf * regsOf g) vs2 (regsOf gi) &&
  (if !isLoad then w != wi
   else nf != 1 || !(w == wi || (decide (w < wi) && v == vs2) || (decide (wi < w) && decide (8 ≤ gi) && v + regsOf g == vs2 + regsOf gi)))

/-- Encodings that the vector extension reserves: vill, widths past 64 bits, EMUL out of range, a group that is not aligned
or does not fit, a masked load over v0, and a register read with two element widths, v0 as the mask among them. -/
def vmemBad (x : Engine) (m : VMem) (isLoad : Bool) : Bool :=
  let w := vmemW x m
  let g := emul8 x w
  let nf := m.nf.val + 1
  let idxBad := match m.mode with
    | .indexed vs2 _ ew =>
      let wi := 2 ^ ew.val
      let gi := emul8 x wi
      8 < wi || gi = 0 || 64 < gi || vs2.val % regsOf gi != 0 || (!m.vm && vs2.val = 0) ||
      idxMeets isLoad nf m.v.val w g vs2.val wi gi
    | _ => false
  vill x.vtype || 8 < w || g = 0 || 64 < g || m.v.val % regsOf g != 0 || 8 < nf * regsOf g ||
  32 < m.v.val + nf * regsOf g || idxBad || (!m.vm && m.v.val = 0)

/-- Address of field `f` of element `i`. -/
def vmemAddr (x : Engine) (base : Word) (m : VMem) (i f : Nat) : Word :=
  let w := vmemW x m
  let nf := m.nf.val + 1
  let off : Word := match m.mode with
    | .unit => BitVec.ofNat 64 (i * nf * w)
    | .strided rs2 => x.rx rs2 * BitVec.ofNat 64 i
    | .indexed vs2 _ ew => BitVec.ofNat 64 (x.velem vs2.val (2 ^ ew.val) i)
  base + off + BitVec.ofNat 64 (f * w)

def vfields (x : Engine) (m : VMem) : List (Nat × Nat) :=
  (List.range (m.nf.val + 1)).map (fun f => (f, m.v.val + f * regsOf (emul8 x (vmemW x m))))

/-- Elements that a vector access touches, from vstart. -/
def vactive (x : Engine) (vm : Bool) : List Nat :=
  (List.range x.vl).filter (fun i => decide (x.vstart ≤ i) && (vm || x.vmask i))

/-- One field of one element of a vector access: its address, its register and its element. -/
structure VItem where
  va : Word
  r : Nat
  i : Nat
deriving DecidableEq, Repr

/-- The items of a vector access, in element and field order. -/
def vitems (x : Engine) (base : Word) (m : VMem) : List VItem :=
  (vactive x m.vm).flatMap (fun i => (vfields x m).map (fun f => { va := vmemAddr x base m i f.1, r := f.2, i := i }))

/-- Items at consecutive addresses from `va`. -/
def consecutive (w : Nat) (va : Word) (l : List VItem) : Bool :=
  l.zipIdx.all (fun p => p.1.va == va + BitVec.ofNat 64 (p.2 * w))

/-- Group items into pieces (Table 4.1, Table 7.3): a run that covers a whole aligned line is one, every other item is one of
its own. -/
def vgroups (w : Nat) : Nat → List VItem → List (List VItem)
  | 0, _ => []
  | _ + 1, [] => []
  | k + 1, it :: t =>
    let g := (it :: t).take (64 / w)
    if it.va.toNat % 64 = 0 && g.length * w = 64 && consecutive w it.va g then g :: vgroups w k (t.drop (64 / w - 1))
    else [it] :: vgroups w k t

/-- The pieces of a vector access; indexed elements are performed separately (Table 4.1). -/
def vpieces (x : Engine) (base : Word) (m : VMem) : List (List VItem) :=
  let l := vitems x base m
  match m.mode with
  | .indexed _ _ _ => l.map (fun it => [it])
  | _ => vgroups (vmemW x m) l.length l

/-- Progress of a vector access: going on, stopped, or trimmed at an element. -/
inductive VRun where
  | go (d : Dev) (ext : List Byte)
  | stop (d : Dev)
  | trim (d : Dev)

/-- Whether a page is translated for a read that must not fault: by a walk, when a walker is free, that raises no fault
record. A fault trims; a walk that must wait stops the instruction for now. -/
def Dev.pageReady (d : Dev) (e : Fin 128) (va : Nat) : VRun :=
  let c := (d.engCtx e).getD 0
  let h := engHalf e
  match d.xlookup (.engine e) c va .read with
  | some _ => .go d []
  | none =>
    if !d.walkerFree h then .stop d
    else match d.walk h c va with
      | (.leaf l p, ws) =>
        if (leafCheck .read p).isNone then .go ((d.walkTouch h c va).xfill h (.data e) c va l p ws) [] else .trim d
      | (.hold off, _) => (match d.readGate off 1 with | .hold d => .stop d | _ => .stop d)
      | _ => .trim d

/-- A fault-only-first element after the first: every page of it is translated, and a fault trims vl (Table 4.1). -/
def Dev.ffReady (d : Dev) (e : Fin 128) (va : Word) (n : Nat) : VRun :=
  if (d.vatWindow va.toNat).isSome then .go d []
  else match d.pageReady e va.toNat with
    | .go d _ => d.pageReady e (va + BitVec.ofNat 64 (n - 1)).toNat
    | r => r

/-- Put a piece's bytes into the registers. -/
def Engine.vtake (x : Engine) (w : Nat) : List VItem → List Byte → Engine
  | [], _ => x
  | it :: t, bs => Engine.vtake (x.vput it.r w it.i (ofLe (bs.take w))) w t (bs.drop w)

/-- Stop a vector access at element `i`: vstart names it for the replay (Table 4.1). -/
def Dev.vstopAt (d : Dev) (e : Fin 128) (i : Nat) : Dev := d.modEng e (fun x => { x with vstart := i })

def Engine.vdone (x : Engine) : Engine := { x with vstart := 0 }

/-- Whether other agents' writes can come between the pieces of an access. -/
def Dev.contended (d : Dev) (src : Agent) : Bool :=
  d.writes.any (fun w => !w.of src 0 && !w.done) || !d.anvil.ops.isEmpty

/-- Whether a load of several pieces leaves off for now, so that writes of others come between two of them: a free choice while
there are such writes (R235). -/
def Dev.pauses (d : Dev) (e : Fin 128) (first : Bool) : Bool × Dev :=
  if first || !d.contended (.engine e) then (false, d) else (Config.freeBool d.free, { d with free := d.free + 1 })

/-- One piece of a vector load. -/
def Dev.vloadPiece (d : Dev) (e : Fin 128) (w : Nat) (ff : Bool) (g : List VItem) (ext : List Byte) : VRun :=
  match g with
  | [] => .go d ext
  | it :: _ =>
    let n := g.length * w
    let later := ff && it.i ≠ 0
    let trim (d : Dev) : VRun := .trim (d.modEng e (fun x => { x with vl := it.i }))
    match (if later then d.ffReady e it.va n else .go d []) with
    | .trim d => trim d
    | .stop d => .stop ((d.modEng e (fun x => { x with mid := true })).vstopAt e it.i)
    | .go d _ =>
      match d.engLoadBytes e false it.va n w ext with
      | .bytes bs d => .go (d.modEng e (fun x => x.vtake w g bs)) (ext.drop n)
      | .fault f => if later then trim d else .stop (f.vstopAt e it.i)
      | .stop d => .stop (d.vstopAt e it.i)

/-- A vector load, piece by piece. -/
def Dev.vload (d : Dev) (e : Fin 128) (base : Word) (m : VMem) (ext : List Byte) : Dev :=
  let x := d.eng e
  let w := vmemW x m
  if vmemBad x m true then d.engExc e excIllegal 0
  else
    let r := (vpieces x base m).foldl (fun (a : VRun × Bool) g =>
      match a with
      | (.go d ext, first) =>
        let (p, d) := d.pauses e first
        if p then (.stop ((d.vstopAt e ((g.head?.map VItem.i).getD 0)).modEng e (fun x => { x with run := .vload, mid := true })), false)
        else (d.vloadPiece e w m.ff g ext, false)
      | r => r) (.go d ext, true)
    match r.1 with
    | .go d _ => d.modEng e (fun x => x.vdone.retire)
    | .trim d => d.modEng e (fun x => x.vdone.retire)
    | .stop d => d

/-- One piece of a vector store. -/
def Dev.vstorePiece (d : Dev) (e : Fin 128) (w : Nat) (g : List VItem) : VRun :=
  match g with
  | [] => .go d []
  | it :: _ =>
    let x := d.eng e
    match d.engStoreBytes e it.va (g.flatMap (fun j => leBytes w (x.velem j.r w j.i))) w with
    | .bytes _ d => .go d []
    | r => .stop (r.dev.vstopAt e it.i)

/-- A vector store, piece by piece in element order: a whole line leaves as one WrLine (Table 8.1's note). -/
def Dev.vstore (d : Dev) (e : Fin 128) (base : Word) (m : VMem) : Dev :=
  let x := d.eng e
  if vmemBad x m false then d.engExc e excIllegal 0
  else
    let r := (vpieces x base m).foldl (fun (a : VRun) g =>
      match a with
      | .go d _ => d.vstorePiece e (vmemW x m) g
      | r => r) (.go d [])
    match r with
    | .go d _ => d.modEng e (fun x => x.vdone.retire)
    | .stop d => d
    | .trim d => d

/-! ### Scalar loads, stores and atomics -/

/-- Sign or zero extension of a loaded value. -/
def loadValue (sg : Bool) (w v : Nat) : Word := if sg then sext (8 * w) v else BitVec.ofNat 64 v

/-- A loaded float, NaN-boxed to 64 bits. -/
def nanBox (w v : Nat) : Word :=
  if w = 8 then BitVec.ofNat 64 v else BitVec.ofNat 64 (2 ^ 64 - 2 ^ (8 * w) + v)

def Dev.engLoad (d : Dev) (e : Fin 128) (rs1 : Fin 32) (imm : BitVec 12) (op : LoadOp) (ext : List Byte) : Dev :=
  let x := d.eng e
  let va := x.rx rs1 + imm.signExtend 64
  match op with
  | .int rd wl sg =>
    let w := 2 ^ (wl.val % 4)
    (match d.engLoadBytes e false va w w ext with
     | .bytes bs d => d.modEng e (fun x => (x.wx rd (loadValue sg w (ofLe bs))).retire)
     | g => g.dev)
  | .fp fd wl =>
    let w := 2 ^ (wl.val % 4)
    (match d.engLoadBytes e false va w w ext with
     | .bytes bs d => d.modEng e (fun x => (x.wf fd (nanBox w (ofLe bs))).retire)
     | g => g.dev)
  | .vec m => d.vload e (x.rx rs1) m ext

def Dev.engStore (d : Dev) (e : Fin 128) (rs1 : Fin 32) (imm : BitVec 12) (op : StoreOp) : Dev :=
  let x := d.eng e
  let va := x.rx rs1 + imm.signExtend 64
  let put (w : Nat) (v : Word) : Dev :=
    match d.engStoreBytes e va (leBytes w v.toNat) w with
    | .bytes _ d => d.modEng e Engine.retire
    | g => g.dev
  match op with
  | .int rs2 wl => put (2 ^ (wl.val % 4)) (x.rx rs2)
  | .fp fs2 wl => put (2 ^ (wl.val % 4)) (x.rf fs2)
  | .vec m => d.vstore e (x.rx rs1) m

/-- An engine AMO, LR or SC on a resolved target: at the Vat bank at once, or by Atomic to its home (R125, R126, R273). -/
def Dev.engAtomicAt (d : Dev) (e : Fin 128) (rd : Fin 32) (va : Word) (w : Nat) (op : AtomOp) (aq rl : Bool) : Dev :=
  let kind := match op with | .amo _ _ _ => AccKind.atomic | .lr _ => AccKind.lr | .sc _ _ => AccKind.sc
  let go (a : Nat) : Dev := d.release_ e (if rl then .package else .engine) (.amo rd (BitVec.ofNat 64 a) op aq)
  if va.toNat % w ≠ 0 then d.engExc e kind.misCode va.toNat
  else match d.engResolve e kind va w false with
    | .vat v => go (0xFF * 2 ^ 48 + vatOff v)
    | .umr off => go (0xFF * 2 ^ 48 + off)
    | .remote _ pa => go pa
    | t => (d.engStop e va.toNat t).dev

/-- A vector load of the engine has left off between two pieces; the same instruction goes on from vstart (R235). -/
def Dev.midLoad (d : Dev) (e : Fin 128) : Bool := (d.eng e).run == .vload && (d.setRun e .running).canRun e

def execEngineLoad (e : Fin 128) (rs1 : Fin 32) (imm : BitVec 12) (op : LoadOp) (ext : List Byte) (s : State) : Res :=
  onDev s (fun d => if d.canRun e || d.midLoad e then d.engLoad e rs1 imm op ext else d)

def execEngineStore (e : Fin 128) (rs1 : Fin 32) (imm : BitVec 12) (op : StoreOp) (s : State) : Res :=
  onDev s (fun d => if d.canRun e then d.engStore e rs1 imm op else d)

def execEngineAmo (e : Fin 128) (op : AmoOp) (rd rs1 rs2 : Fin 32) (dbl aq rl : Bool) (s : State) : Res :=
  onDev s (fun d =>
    if d.canRun e then
      let x := d.eng e
      d.engAtomicAt e rd (x.rx rs1) (if dbl then 8 else 4) (.amo op (x.rx rs2) dbl) aq rl
    else d)

def execEngineLr (e : Fin 128) (rd rs1 : Fin 32) (dbl aq rl : Bool) (s : State) : Res :=
  onDev s (fun d =>
    if d.canRun e then d.engAtomicAt e rd ((d.eng e).rx rs1) (if dbl then 8 else 4) (.lr dbl) aq rl else d)

def execEngineSc (e : Fin 128) (rd rs1 rs2 : Fin 32) (dbl aq rl : Bool) (s : State) : Res :=
  onDev s (fun d =>
    if d.canRun e then
      let x := d.eng e
      d.engAtomicAt e rd (x.rx rs1) (if dbl then 8 else 4) (.sc (x.rx rs2) dbl) aq rl
    else d)

end Sys2Proof.Machine
end

