-- ==== Sys2Proof/Machine/Xanvil.lean ====
section
/-!
DEFINITION. The custom-0 instructions of Xanvil beside Anvil issue (Table 4.4): Tongs issue and waits, Rennet operations,
scoped fences, load-acquire, store-release and the Vat fence; FENCE, FENCE.I, WFI, EBREAK and ECALL on an engine.
-/
namespace Sys2Proof.Machine

/-- Run an instruction on an engine that runs code; on any other engine the command changes nothing. -/
def onEng (e : Fin 128) (s : State) (f : Dev → Dev) : Res := onDev s (fun d => if d.canRun e then f d else d)

/-! ### Tongs issue and waits (R138, R139) -/

/-- XTISSUE (R138): a nonzero rs2[63:2] is illegal; the transfer enters at TONGS_ENTER. -/
def Dev.xtissue (d : Dev) (e : Fin 128) (rd rs1 rs2 : Fin 32) (rl : Bool) : Dev :=
  let x := d.eng e
  let c := (x.rx rs2).toNat
  if 4 ≤ c then d.engExc e excIllegal 0
  else
    let k := Cont.tissue rd (x.rx rs1) (Fin.ofNat 4 c)
    if rl then d.release_ e .package k else d.runCont e k

def execXtissue (e : Fin 128) (rd rs1 rs2 : Fin 32) (rl : Bool) (s : State) : Res :=
  onEng e s (fun d => d.xtissue e rd rs1 rs2 rl)

def execXtwait (e : Fin 128) (rs1 : Fin 32) (s : State) : Res :=
  onEng e s (fun d => (d.setRun e (.twait ((d.eng e).rx rs1))).settleEng e)

def execXtpoll (e : Fin 128) (rd rs1 : Fin 32) (s : State) : Res :=
  onEng e s (fun d =>
    let v := d.tongsDone e ((d.eng e).rx rs1)
    d.modEng e (fun x => (x.wx rd (if v then 1 else 0)).retire))

/-! ### Rennet instructions (R140 to R142, R212) -/

/-- The address checks of R140, then unreachable nodes: what stops the instruction. `store` selects the exception forms. -/
def Dev.rennetStop (d : Dev) (e : Fin 128) (a : Word) (store : Bool) (waits : Bool) : Option Dev :=
  if a.toNat % 64 ≠ 0 then some (d.engExc e (if store then excStoreMis else excLoadMis) a.toNat)
  else match d.rennetAddr a with
    | none => some (d.engExc e (if store then excStoreFault else excLoadFault) a.toNat)
    | some (some n, _) => if waits && !d.live n then some (d.failEng e .unreachable n a.toNat) else none
    | some (none, _) => none

/-- XRSIG (R140, R141): a malformed operand is found at the bank. -/
def execXrsig (e : Fin 128) (rs1 rs2 : Fin 32) (sc : Scope) (s : State) : Res :=
  onEng e s (fun d =>
    let x := d.eng e
    match d.rennetStop e (x.rx rs1) true false with
    | some d => d
    | none => d.release_ e sc (.signal (x.rx rs1) (x.rx rs2)))

/-- XRADD (R141). -/
def execXradd (e : Fin 128) (rd rs1 rs2 : Fin 32) (sc : Scope) (s : State) : Res :=
  onEng e s (fun d =>
    let x := d.eng e
    match d.rennetStop e (x.rx rs1) true true with
    | some d => d
    | none => d.release_ e sc (.add rd (x.rx rs1) (BitVec.ofNat 32 (x.rx rs2).toNat) sc))

/-- XRWAIT (R141, R203): the wait travels to the bank and the engine sleeps. -/
def execXrwait (e : Fin 128) (rd rs1 rs2 : Fin 32) (sc : Scope) (s : State) : Res :=
  onEng e s (fun d =>
    let x := d.eng e
    match d.rennetStop e (x.rx rs1) false true with
    | some d => d
    | none =>
      match d.rennetAddr (x.rx rs1) with
      | some (n, obj) =>
        (d.rennetSend n (.engine e) x.step (.wait (d.engSrc e) obj (x.rx rs2) sc)).setRun e (.rwait rd (x.rx rs1) sc)
      | none => d)

/-! ### Fences (R143 to R145, R117) -/

def execXacq (e : Fin 128) (sc : Scope) (s : State) : Res :=
  onEng e s (fun d => d.modEng e (fun x => (x.acquire sc).retire))

def execXrel (e : Fin 128) (sc : Scope) (s : State) : Res := onEng e s (fun d => d.release_ e sc .fence)

def execXacqrel (e : Fin 128) (sc : Scope) (s : State) : Res := onEng e s (fun d => d.release_ e sc (.acquire sc))

def execXvfence (e : Fin 128) (s : State) : Res := onEng e s (fun d => (d.setRun e .vfence).settleEng e)

/-- FENCE and FENCE.TSO: a release, then an acquire, at PACKAGE scope (R117). -/
def execEngineFence (e : Fin 128) (s : State) : Res := onEng e s (fun d => d.release_ e .package (.acquire .package))

def execEngineFenceI (e : Fin 128) (s : State) : Res :=
  onEng e s (fun d => d.modEng e (fun x => { x with l1i := [] }.retire))

def execEngineWfi (e : Fin 128) (s : State) : Res := onEng e s (fun d => d.modEng e Engine.retire)

/-! ### Load-acquire and store-release (R144) -/

/-- XLA: from the home, then an acquire. A misaligned address is an exception. -/
def Dev.xla (d : Dev) (e : Fin 128) (rd rs1 : Fin 32) (w : Nat) (sc : Scope) (ext : List Byte) : Dev :=
  let va := (d.eng e).rx rs1
  if va.toNat % w ≠ 0 then d.engExc e excLoadMis va.toNat
  else match d.engLoadPiece e true va w false ext with
    | .bytes bs d => d.modEng e (fun x => ((x.acquire sc).wx rd (sext (8 * w) (ofLe bs))).retire)
    | g => g.dev

def execXlaW (e : Fin 128) (rd rs1 : Fin 32) (sc : Scope) (ext : List Byte) (s : State) : Res :=
  onEng e s (fun d => d.xla e rd rs1 4 sc ext)

def execXlaD (e : Fin 128) (rd rs1 : Fin 32) (sc : Scope) (ext : List Byte) (s : State) : Res :=
  onEng e s (fun d => d.xla e rd rs1 8 sc ext)

/-- XSR: a release, then the store; the address is checked and translated first. -/
def Dev.xsr (d : Dev) (e : Fin 128) (rs1 rs2 : Fin 32) (w : Nat) (sc : Scope) : Dev :=
  let x := d.eng e
  let va := x.rx rs1
  let bs := leBytes w (x.rx rs2).toNat
  if va.toNat % w ≠ 0 then d.engExc e excStoreMis va.toNat
  else match d.engResolve e .store va w false with
    | .umr off =>
      (d.modEng e (fun x => x.l1Put off bs)).release_ e sc (.store (BitVec.ofNat 64 (0xFF * 2 ^ 48 + off)) bs)
    | .vat v => d.release_ e sc (.store (BitVec.ofNat 64 (0xFF * 2 ^ 48 + vatOff v)) bs)
    | .host a => d.release_ e sc (.store (BitVec.ofNat 64 (0xFD * 2 ^ 48 + a)) bs)
    | .remote _ pa => d.release_ e sc (.store (BitVec.ofNat 64 pa) bs)
    | t => (d.engStop e va.toNat t).dev

def execXsrW (e : Fin 128) (rs1 rs2 : Fin 32) (sc : Scope) (s : State) : Res := onEng e s (fun d => d.xsr e rs1 rs2 4 sc)

def execXsrD (e : Fin 128) (rs1 rs2 : Fin 32) (sc : Scope) (s : State) : Res := onEng e s (fun d => d.xsr e rs1 rs2 8 sc)

/-- A write of xsrseed reseeds the generator (R146, R156): draws are free values, so only SEED changes. -/
def execXsrseedWrite (e : Fin 128) (v : Word) (s : State) : Res :=
  onEng e s (fun d => d.modEng e (fun x => { x with xsrseed := v }.retire))

/-! ### EBREAK and ECALL (R117, R168, R169) -/

/-- Whether the open session grants ENGINES, so that EBREAK of step code enters debug mode (R117, Table 18.7). -/
def Dev.ebreakDebug (d : Dev) : Bool :=
  match d.sec.session with | some x => bit x.priv.toNat 1 | none => false

/-- EBREAK. -/
def execEbreak (e : Fin 128) (s : State) : Res :=
  onEng e s (fun d =>
    if d.ebreakDebug then d.modEng e (fun x => { x with halted := true })
    else d.engExc e excBreak (d.eng e).pc.toNat)

def execKend (e : Fin 128) (s : State) : Res :=
  onEng e s (fun d => d.modEng e (fun x => { x.retire with run := .kended }))

/-- SEXIT and SFAIL end the step with a0[31:0] as its user code. -/
def Dev.userEnd (d : Dev) (e : Fin 128) (st : Status) : Dev :=
  let x := d.eng e
  match x.step with
  | some n => (d.modEng e Engine.retire).endStep n { status := st, ucode := BitVec.ofNat 32 (x.rx 10).toNat }
  | none => d

def execSexit (e : Fin 128) (s : State) : Res := onEng e s (fun d => d.userEnd e .ok)

def execSfail (e : Fin 128) (s : State) : Res := onEng e s (fun d => d.userEnd e .userFail)

def execEcallUnknown (e : Fin 128) (s : State) : Res := onEng e s (fun d => d.engExc e excEcallU 0)

/-! ### CSRs (R115, R116, R146, Table 4.6) -/

/-- xengid (Table 4.6). -/
def Dev.xengid (d : Dev) (e : Fin 128) : Word :=
  BitVec.ofNat 64 (engIdx e + at_ 6 (halfIdx (engHalf e)) + at_ 8 d.ownNode)

/-- The step's most recent Anvil ticket (R136). -/
def Dev.xatkt (d : Dev) (e : Fin 128) : Word :=
  match (d.eng e).step.bind d.step? with
  | some s => BitVec.ofNat 64 s.ticket
  | none => 0

def Dev.csrRead (d : Dev) (e : Fin 128) (n : Nat) : Option Word :=
  let x := d.eng e
  if n = 0x001 then some (x.fflags.setWidth 64)
  else if n = 0x002 then some (x.frm.setWidth 64)
  else if n = 0x003 then some (BitVec.ofNat 64 (x.fflags.toNat + 32 * x.frm.toNat))
  else if n = 0x008 then some (BitVec.ofNat 64 x.vstart)
  else if n = 0x009 then some (BitVec.ofNat 64 (b2n x.vxsat))
  else if n = 0x00A then some (x.vxrm.setWidth 64)
  else if n = 0x00F then some (BitVec.ofNat 64 (b2n x.vxsat + 2 * x.vxrm.toNat))
  else if 0x800 ≤ n && n ≤ 0x807 then some ((tgetD x.xfd (n - 0x800) 0).setWidth 64)
  else if n = 0x808 then some x.xsrseed
  else if n = 0xC00 then some x.cycle
  else if n = 0xC01 then some (d.halfCount (engHalf e))
  else if n = 0xC02 then some x.instret
  else if n = 0xC20 then some (BitVec.ofNat 64 x.vl)
  else if n = 0xC21 then some x.vtype
  else if n = 0xC22 then some 256
  else if n = 0xCC0 then some (d.xengid e)
  else if n = 0xCC1 then some (d.xatkt e)
  else none

/-- A CSR write by step code; none for a read-only CSR and for one that does not exist. RSVD bits are ignored. -/
def Engine.csrWrite (x : Engine) (n : Nat) (v : Word) : Option Engine :=
  if n = 0x001 then some { x with fflags := v.setWidth 5 }
  else if n = 0x002 then some { x with frm := v.setWidth 3 }
  else if n = 0x003 then some { x with fflags := v.setWidth 5, frm := (v >>> 5).setWidth 3 }
  else if n = 0x008 then some { x with vstart := v.toNat % 2048 }
  else if n = 0x009 then some { x with vxsat := v.getLsbD 0 }
  else if n = 0x00A then some { x with vxrm := v.setWidth 2 }
  else if n = 0x00F then some { x with vxsat := v.getLsbD 0, vxrm := (v >>> 1).setWidth 2 }
  else if 0x800 ≤ n && n ≤ 0x807 then some { x with xfd := tput x.xfd (n - 0x800) (v.setWidth 24) }
  else if n = 0x808 then some { x with xsrseed := v }
  else none

end Sys2Proof.Machine
end

