-- ==== Sys2Proof/Machine/Tongs.lean ====
section
/-!
DEFINITION. Tongs transfers (R179 to R189): the descriptor and its checks, entry, pieces, and completion.
-/
namespace Sys2Proof.Machine

/-! ### Descriptors (Table 5.7, R182) -/

def rtypeOf (n : Nat) : Option RType :=
  match n with
  | 0 => some .fp32
  | 1 => some .bf16
  | 2 => some .fp16
  | 3 => some .int32
  | 4 => some .int64
  | 5 => some .uint32
  | 6 => some .uint64
  | _ => none

def rtypeBits : RType → Nat
  | .bf16 => 16
  | .fp16 => 16
  | .int64 => 64
  | .uint64 => 64
  | _ => 32

def redOf (n : Nat) : RedOp :=
  match n with
  | 0 => .add
  | 1 => .min
  | _ => .max

def tdescOf (n : Nat) : TDesc :=
  { op := fld n 0 4, ssp := bit n 4, dsp := bit n 5, isp := bit n 6, idxw := bit n 7, cvt := bit n 8,
    red := redOf (fld n 9 2), ty := (rtypeOf (fld n 11 3)).getD .fp32,
    doneObj := if bit n 16 then some (fld n 17 17) else none,
    sfmt := BitVec.ofNat 16 (fld n 64 16), dfmt := BitVec.ofNat 16 (fld n 80 16),
    src := fld n 128 64, dst := fld n 192 64, idx := fld n 256 64,
    ext := [fld n 320 32, fld n 352 16, fld n 368 16, fld n 384 16],
    sstr := (List.range 3).map (fun i => signed 32 (fld n (448 + 32 * i) 32)),
    dstr := (List.range 3).map (fun i => signed 32 (fld n (544 + 32 * i) 32)) }

def TDesc.isRed (t : TDesc) : Bool := t.op == 4 || t.op == 5

/-- Element width in bits on the source side. -/
def TDesc.sw (t : TDesc) : Nat :=
  if t.cvt then (match fmtOf t.sfmt.toNat with | some f => f.width | none => 8)
  else if t.isRed then rtypeBits t.ty else 8

/-- Element width in bits on the destination side. -/
def TDesc.dw (t : TDesc) : Nat :=
  if t.cvt then (match fmtOf t.dfmt.toNat with | some f => f.width | none => 8)
  else if t.isRed then rtypeBits t.ty else 8

def TDesc.e (t : TDesc) (i : Nat) : Nat := lgetD t.ext i 1

/-- Every element of a side aligned to its width: the base, and the stride of each dimension that has more than one index or
takes its index from the list. -/
def sideAligned (w base : Nat) (ix : Bool) (exts : List Nat) (strs : List Int) : Bool :=
  let b := w / 8
  w ≤ 8 || (base % b == 0 &&
    (exts.zip strs).zipIdx.all (fun p => (p.1.1 == 1 && !(ix && p.2 == 0)) || p.1.2 % (b : Int) == 0))

/-- R182 and Table 5.7: whether a descriptor is malformed. -/
def tdescBad (n : Nat) : Bool :=
  let t := tdescOf n
  let es := [t.e 1, t.e 2, t.e 3]
  let rsvd := fld n 14 2 != 0 || fld n 34 30 != 0 || fld n 96 32 != 0 || fld n 400 48 != 0 || fld n 640 384 != 0
  let wide (on : Bool) (a : Nat) : Bool := on && a / 2 ^ 29 != 0
  let fmts :=
    if t.cvt then (fmtOf t.sfmt.toNat).isNone || (fmtOf t.dfmt.toNat).isNone ||
      ((t.sw == 4 || t.dw == 4) && t.e 0 % 2 != 0)
    else t.sfmt != 0 || t.dfmt != 0
  let ty := fld n 11 3
  let red := fld n 9 2
  let redBad :=
    if t.isRed then t.cvt || red == 3 || ty == 7 || (red != 0 && ty != 5 && ty != 6) || t.dsp
    else red != 0 || ty != 0
  t.op == 0 || 5 < t.op || rsvd || t.ext.any (· == 0) || fmts || redBad ||
  wide t.ssp t.src || wide t.dsp t.dst || wide t.isp t.idx ||
  !sideAligned t.sw t.src (t.op == 2) es t.sstr || !sideAligned t.dw t.dst (t.op == 3 || t.op == 5) es t.dstr

def TDesc.indexed (t : TDesc) : Bool := t.op == 2 || t.op == 3 || t.op == 5
def TDesc.srcIndexed (t : TDesc) : Bool := t.op == 2
def TDesc.dstIndexed (t : TDesc) : Bool := t.op == 3 || t.op == 5
def TDesc.rows (t : TDesc) : Nat := t.e 1 * t.e 2 * t.e 3
def idxBytes (t : TDesc) : Nat := if t.idxw then 8 else 4

def strAt (l : List Int) (i : Nat) : Int := lgetD l i 0

/-- Start of a row on a side, with `i1` already replaced on an indexed side. -/
def rowStart (base : Nat) (strs : List Int) (i1 i2 i3 : Nat) : Int :=
  (base : Int) + i1 * strAt strs 0 + i2 * strAt strs 1 + i3 * strAt strs 2

/-- The rows of an affine side: their starts. -/
def sideRows (base : Nat) (t : TDesc) (strs : List Int) : List Int :=
  (List.range (t.e 3)).flatMap (fun i3 => (List.range (t.e 2)).flatMap (fun i2 =>
    (List.range (t.e 1)).map (fun i1 => rowStart base strs i1 i2 i3)))

/-- The first byte outside the grant of a range of a Vat side. -/
def reachOut (s : Step) (r : Int × Nat) : Option Nat :=
  if r.1 < 0 then some (r.1 % (2 ^ 64 : Nat)).toNat else s.outside r.1.toNat r.2

/-- The first byte outside the grant over the rows of an affine Vat side. -/
def rowsOut (s : Step) (base w : Nat) (t : TDesc) (strs : List Int) : Option Nat :=
  (sideRows base t strs).findSome? (fun a => reachOut s (a, ceilDiv (t.e 0 * w) 8))

/-- Stage 4 of R188. -/
def TDesc.out (t : TDesc) (s : Step) : Option Nat :=
  let src := if t.ssp && !t.srcIndexed then rowsOut s t.src t.sw t t.sstr else none
  let dst := if t.dsp && !t.dstIndexed then rowsOut s t.dst t.dw t t.dstr else none
  let idx := if t.isp && t.indexed then reachOut s ((t.idx : Int), idxBytes t * t.e 1) else none
  match src, dst, idx with
  | some a, _, _ => some a
  | none, some a, _ => some a
  | none, none, i => i

/-- The check of a transfer at issue (R138, R188): the failing stage's status and address, or the descriptor. -/
def xferCheck (d : Dev) (s : Step) (a : Word) : Except (Status × Nat) TDesc :=
  let v := a.toNat
  if v / 2 ^ 29 != 0 || v % 128 != 0 then .error (.malformed, v)
  else match s.outside v 128 with
    | some b => .error (.grantViolation, b)
    | none =>
      let n := vatRec d.mem v 128
      if tdescBad n then .error (.malformed, v)
      else match (tdescOf n).out s with
        | some b => .error (.grantViolation, b)
        | none => .ok (tdescOf n)

def chanKey (e : Fin 128) (c : Fin 4) : Nat := 4 * e.val + c.val

/-- TONGS_ENTER: a waiting XTISSUE is checked, and its transfer enters once the channel has room (R180, R188). -/
def tongsEnter (d : Dev) (e : Fin 128) (c : Fin 4) : Dev :=
  match (d.eng e).run, (d.eng e).step with
  | .tissue rd a k, some n =>
    if k ≠ c then d
    else match d.step? n with
      | none => d
      | some s =>
        let q := tgetD d.tongs (chanKey e c) []
        match xferCheck d s a with
        | .error (st, ad) => d.failStep n st (((d.eng e).tTicket + 1) % 2 ^ 32) ad
        | .ok t =>
          if 16 ≤ q.length then d
          else
            let tk := (d.eng e).tTicket + 1
            let d := { d with tongs := tput d.tongs (chanKey e c) (q ++ [({ ticket := tk, step := n, desc := t } : Xfer)]) }
            d.modEng e (fun x => { (x.wx rd (BitVec.ofNat 64 tk)).retire with tTicket := tk })
  | _, _ => d

def execTongsEnter (e : Fin 128) (c : Fin 4) (s : State) : Res := onDev s (fun d => tongsEnter d e c)

/-! ### Rows and pieces (R183, Table 5.8) -/

/-- The index triple of a row. DESIGN CHOICE (log 191): rows run with i1 fastest, an order that R183 leaves open. -/
def TDesc.triple (t : TDesc) (r : Nat) : Nat × Nat × Nat := (r % t.e 1, r / t.e 1 % t.e 2, r / (t.e 1 * t.e 2))

def TDesc.srcRow (t : TDesc) (r ix : Nat) : Int :=
  let (i1, i2, i3) := t.triple r
  rowStart t.src t.sstr (if t.srcIndexed then ix else i1) i2 i3

def TDesc.dstRow (t : TDesc) (r ix : Nat) : Int :=
  let (i1, i2, i3) := t.triple r
  rowStart t.dst t.dstr (if t.dstIndexed then ix else i1) i2 i3

/-- Pieces of a virtual range that stay in one 4 KiB page: (address, length). -/
def pageRuns (va n : Nat) : List (Nat × Nat) :=
  let first := 4096 - va % 4096
  if n ≤ first then [(va, n)] else [(va, first), ((va + first) % 2 ^ 64, n - first)]

/-- What an access of a transfer comes to. -/
inductive TGot where
  | runs (l : List (Nat × Nat))
  | bytes (bs ext : List Byte) (d : Dev)
  | fail (st : Status) (detail addr : Nat)
  | wait (d : Dev)

/-- Physical runs of a virtual range for a channel, or a wait for a walk. -/
def Dev.tongsRuns (d : Dev) (e : Fin 128) (c : Fin 4) (va n : Nat) (acc : Access) : TGot :=
  (pageRuns va n).foldl (fun a p =>
    match a with
    | .runs l =>
      (match d.xlate_ (.tongs e c) ((d.engCtx e).getD 0) (BitVec.ofNat 64 p.1) acc with
       | .hit pa => .runs (l ++ [(pa, p.2)])
       | .wait d => .wait d)
    | x => x) (.runs [])

/-- Read one physical run: R26 for what cannot be read, and the outside's bytes for host memory and other nodes. A node that
is LIVE but has no route holds the read (R430). -/
def Dev.tongsRead1 (d : Dev) (e : Fin 128) (s : Step) (pa n va : Nat) (ext : List Byte) : TGot :=
  match d.target true pa with
  | .umr off =>
    (match d.readGate off n with
     | .refuse st => .fail st 0 va
     | .hold d => .wait d
     | .go d =>
       if d.cohPoison off n then .fail .poison 0 va
       else
         let used := if (d.farLines off n).isEmpty then 0 else n
         (match d.homeRead off n ext with
          | .ok r => .bytes r.1 (ext.drop used) (r.2.heatLines off n)
          | .error st => .fail st 0 va))
  | .vat off =>
    if s.covers (off - vatBase) n || d.vatOpen s.ctx (off - vatBase) n then
      let d := d.surface (off - vatBase) n
      .bytes (d.rd off n) ext d
    else .fail .unmapped 0 va
  | .host a =>
    (match d.atsWait (d.engCtx e) a with
     | some d => .wait d
     | none => .bytes ((ext ++ List.replicate n 0).take n) (ext.drop n) (d.hostGet (d.engCtx e) a n))
  | .remote nd off =>
    if (match localTarget off with | .umr _ => true | .vat _ => true | _ => false) then
      (if !d.live nd then .fail .unreachable nd va
       else if !d.reach nd then .wait d
       else match extAnswer ext n with
         | .ok bs => .bytes bs (ext.drop n) d
         | .error st => .fail st 0 va)
    else .fail .unmapped 0 va
  | _ => .fail .unmapped 0 va

/-- Read a range of a transfer: Vat space, or virtual addresses. -/
def Dev.tongsRead (d : Dev) (e : Fin 128) (c : Fin 4) (s : Step) (vat : Bool) (a : Int) (n : Nat) (ext : List Byte) : TGot :=
  if vat then
    let d := d.surface a.toNat n
    .bytes (d.rd (vatOff a.toNat) n) ext d
  else
    let va := (a % (2 ^ 64 : Nat)).toNat
    match d.tongsRuns e c va n .read with
    | .runs l =>
      let r := l.foldl (fun (x : TGot × Nat) p =>
        match x with
        | (.bytes bs ext d, at0) =>
          (match d.tongsRead1 e s p.1 p.2 at0 ext with
           | .bytes b ext d => (.bytes (bs ++ b) ext d, at0 + p.2)
           | g => (g, at0))
        | g => g) (TGot.bytes [] ext d, va)
      r.1
    | g => g

/-- What a row's destination may be: a reduction reaches only UMR of some node (R189). -/
def Dev.tongsDest (d : Dev) (s : Step) (red : Bool) (pa n : Nat) : Option Status :=
  match d.target true pa with
  | .umr off => if d.backed off then none else some .unmapped
  | .vat off =>
    if !red && (s.covers (off - vatBase) n || d.vatOpen s.ctx (off - vatBase) n) then none else some .unmapped
  | .host _ => if red then some .unmapped else none
  | .remote _ off =>
    (match localTarget off with
     | .umr _ => none
     | .vat _ => if red then some .unmapped else none
     | _ => some .unmapped)
  | _ => some .unmapped

def isRemote (d : Dev) (pa : Nat) : Bool := match d.target true pa with | .remote _ _ => true | _ => false

/-- Write a range of a transfer: the statuses that refuse it, or the package after its writes, and whether they left the
node. `red` is false for destination bytes that are undefined (R185). -/
def Dev.tongsWrite (d : Dev) (e : Fin 128) (c : Fin 4) (s : Step) (t : TDesc) (a : Int) (bs : List Byte) (red : Bool) :
    Except TGot (Dev × Bool) :=
  let u := max 1 (t.dw / 8)
  if t.dsp then .ok (d.issueWrites (.tongs e c) (0xFF * 2 ^ 48 + vatOff a.toNat) bs none u, false)
  else
    let va := (a % (2 ^ 64 : Nat)).toNat
    match d.tongsRuns e c va bs.length (if t.isRed then .reduce else .write) with
    | .runs l =>
      (match l.findSome? (fun p => d.tongsDest s t.isRed p.1 p.2),
          l.findSome? (fun p => match d.target true p.1 with | .host a => d.atsWait (d.engCtx e) a | _ => none) with
       | some st, _ => .error (.fail st 0 va)
       | none, some d => .error (.wait d)
       | none, none =>
         let r := l.foldl (fun (x : Dev × List Byte) p =>
           (x.1.issueWrites (.tongs e c) p.1 (x.2.take p.2) (if red then some (t.red, t.ty) else none) u, x.2.drop p.2)) (d, bs)
         .ok (r.1, l.any (fun p => isRemote d p.1)))
    | g => .error g

/-! ### Overlap of source and destination (R185) -/

/-- Bytes at a local offset become free values, in memory, in the copies that cores hold and in the data that is on its way. -/
def Dev.freeRange (d : Dev) (off n : Nat) : Dev :=
  let bs := freeBytes d.free n
  let patch (line : Nat) (data : List Byte) : List Byte :=
    data.zipIdx.map (fun p =>
      let a := 64 * line + p.2
      if off ≤ a && a < off + n then lgetD bs (a - off) p.1 else p.1)
  let core (c : Core) : Core :=
    { c with lines := c.lines.map (fun p => (p.1, { p.2 with data := patch p.1 p.2.data })) }
  let msg (m : NMsg) : NMsg := { m with bytes := if m.kind = .data || m.kind = .wbDirty then patch (m.addr / 64) m.bytes else m.bytes }
  { d with
    mem := cellsPut d.mem off bs
    free := d.free + n
    cores := d.cores.map (fun p => (p.1, core p.2))
    coh := { d.coh with noc := d.coh.noc.map msg, held := d.coh.held.map msg } }

/-- The pages of a range of virtual addresses: each page's first address in the range, and how many bytes of the range are in
it. -/
def pagesOf (va : Nat) : Nat → Nat → List (Nat × Nat)
  | 0, _ => []
  | fuel + 1, n =>
    if n = 0 then []
    else
      let k := min n (4096 - va % 4096)
      (va, k) :: pagesOf ((va + k) % 2 ^ 64) fuel (n - k)

/-- Where a virtual address leads, as the page tables say now. -/
def Dev.peekAddr (d : Dev) (e : Fin 128) (va : Nat) : Option Nat :=
  match d.walk (engHalf e) ((d.engCtx e).getD 0) va [] true with
  | (.leaf l p, _) => let h := leafHeld l p va; some (leafPa h.1 h.2 va)
  | _ => none

/-- An index-list entry as it is known now: as the service holds it, as this node's memory holds it, or as a row has used it. -/
def Dev.peekIdx (d : Dev) (e : Fin 128) (x : Xfer) (i : Nat) : Option Nat :=
  let t := x.desc
  let a := t.idx + i * idxBytes t
  match tget x.held i with
  | some v => some v
  | none =>
    if t.isp then some (ofLe (d.rd (vatOff a) (idxBytes t)))
    else match (d.peekAddr e a).map (d.target true) with
      | some (.umr off) => some (ofLe (d.cohRead off (idxBytes t)))
      | some (.vat off) => some (ofLe (d.rd off (idxBytes t)))
      | _ => tget x.seen i

/-- Where the bytes of a range of a side lie, as the page tables say now: runs of global addresses. -/
def Dev.sideRuns (d : Dev) (e : Fin 128) (vat : Bool) (a : Int) (n : Nat) : List (Nat × Nat) :=
  if vat then [(0xFF * 2 ^ 48 + vatOff a.toNat, n)]
  else (pagesOf (a % (2 ^ 64 : Nat)).toNat (n / 4096 + 2) n).filterMap (fun p =>
    (d.peekAddr e p.1).map (fun pa => (canonAddr (d.target true pa) pa, p.2)))

/-- Every run of a side over the values `ix` of its first index. -/
def Dev.allRuns (d : Dev) (e : Fin 128) (t : TDesc) (vat : Bool) (base w : Nat) (ix : List Nat) (strs : List Int) : List (Nat × Nat) :=
  (List.range (t.e 3)).flatMap (fun i3 => (List.range (t.e 2)).flatMap (fun i2 => ix.flatMap (fun i1 =>
    d.sideRuns e vat (rowStart base strs i1 i2 i3) (ceilDiv (t.e 0 * w) 8))))

/-- The runs of the source and of the destination, over the index-list entries that are known. -/
def Dev.srcRuns (d : Dev) (e : Fin 128) (x : Xfer) : List (Nat × Nat) :=
  let t := x.desc
  let plain := List.range (t.e 1)
  d.allRuns e t t.ssp t.src t.sw (if t.srcIndexed then plain.filterMap (d.peekIdx e x) else plain) t.sstr
def Dev.dstRuns (d : Dev) (e : Fin 128) (x : Xfer) : List (Nat × Nat) :=
  let t := x.desc
  let plain := List.range (t.e 1)
  d.allRuns e t t.dsp t.dst t.dw (if t.dstIndexed then plain.filterMap (d.peekIdx e x) else plain) t.dstr

/-- R185: some source byte of the transfer is also one of its destination bytes, wherever the two sides' addresses lead. -/
def Dev.overlapping (d : Dev) (e : Fin 128) (x : Xfer) : Bool :=
  let r := d.dstRuns e x
  (d.srcRuns e x).any (fun p => r.any (fun q => decide (p.1 < q.1 + q.2) && decide (q.1 < p.1 + p.2)))

/-- An entry that has only now become known shows that the two sides overlap: what the rows before it have written in this node
becomes undefined too (R185). -/
def Dev.freeDst (d : Dev) (e : Fin 128) (x : Xfer) : Dev :=
  let t := x.desc
  let rows := (List.range x.row).flatMap (fun r =>
    let i1 := r % t.e 1
    let ix := if t.dstIndexed then d.peekIdx e x i1 else some i1
    match ix with
    | some i => d.sideRuns e t.dsp (rowStart t.dst t.dstr i (r / t.e 1 % t.e 2) (r / (t.e 1 * t.e 2))) (ceilDiv (t.e 0 * t.dw) 8)
    | none => [])
  foldDev d rows (fun d p => match d.target true p.1 with
    | .umr off => if d.backed off then d.freeRange off p.2 else d
    | .vat off => d.freeRange off p.2
    | _ => d)

/-! ### One piece -/

/-- Convert the elements of a piece (R184): `n` elements, source bytes in, destination bytes out. -/
def convPiece (t : TDesc) (n : Nat) (src : List Byte) : List Byte :=
  match fmtOf t.sfmt.toNat, fmtOf t.dfmt.toNat with
  | some f, some g =>
    let v := ofLe src
    let out := (List.range n).foldl (fun a i =>
      a + at_ (t.dw * i) ((g.conv .even false (f.val (fld v (t.sw * i) t.sw))).1 % 2 ^ t.dw)) 0
    leBytes (n * t.dw / 8) out
  | _, _ => src

/-- The row check of an indexed Vat side (R188). -/
def TDesc.rowOut (t : TDesc) (s : Step) (r ix : Nat) : Option Nat :=
  let chk (on : Bool) (a : Int) (w : Nat) : Option Nat := if on then reachOut s (a, ceilDiv (t.e 0 * w) 8) else none
  match chk (t.ssp && t.srcIndexed) (t.srcRow r ix) t.sw with
  | some b => some b
  | none => chk (t.dsp && t.dstIndexed) (t.dstRow r ix) t.dw

/-- Stop a transfer for good: no row of it or after it is performed. -/
def Dev.xferFail (d : Dev) (e : Fin 128) (c : Fin 4) (n : Nat) (st : Status) (detail addr : Nat) : Dev :=
  (d.modHead e c (fun x => { x with failed := true })).failStep n st detail addr

/-- The index that a row needs: none when the transfer has no index list. An entry that the service holds is used in place of
another read (R311, log 174). -/
def Dev.rowIndex (d : Dev) (e : Fin 128) (c : Fin 4) (s : Step) (x : Xfer) (ext : List Byte) : TGot :=
  let t := x.desc
  let i := x.row % t.e 1
  if t.indexed then
    match tget x.held i with
    | some v => .bytes (leBytes (idxBytes t) v) ext d
    | none => d.tongsRead e c s t.isp ((t.idx : Int) + i * idxBytes t) (idxBytes t) ext
  else .bytes [] ext d

/-- Perform the next piece of the transfer at the head of a channel: at most 4 KiB of one row, in one action (DESIGN CHOICE, log 27).
Of two rows of a SCATTER with one destination the later leaves its value (DESIGN CHOICE, log 192). -/
def Dev.xferPiece (d : Dev) (e : Fin 128) (c : Fin 4) (s : Step) (x : Xfer) (ext : List Byte) : Dev :=
  let t := x.desc
  let n := x.step
  match d.rowIndex e c s x ext with
  | .wait d => d
  | .fail st det a => d.xferFail e c n st det a
  | .runs _ => d
  | .bytes ib ext d =>
    let ix := ofLe ib
    match t.rowOut s x.row ix with
    | some b => d.xferFail e c n .grantViolation (x.ticket % 2 ^ 32) b
    | none =>
      let cnt := min (t.e 0 - x.col) (4096 * 8 / max t.sw t.dw)
      let sa := t.srcRow x.row ix + (x.col * t.sw / 8 : Nat)
      let da := t.dstRow x.row ix + (x.col * t.dw / 8 : Nat)
      match d.tongsRead e c s t.ssp sa (cnt * t.sw / 8) ext with
      | .wait d => d
      | .fail st det a => d.xferFail e c n st det a
      | .runs _ => d
      | .bytes bs _ d =>
        let out := if t.cvt then convPiece t cnt bs else bs
        let i1 := x.row % t.e 1
        let known := !t.indexed || (d.peekIdx e x i1).isSome
        let x := if known then x else { x with seen := tput x.seen i1 ix }
        let over_ := d.overlapping e x
        let d := if over_ && !known then d.freeDst e x else d
        let out := if over_ then freeBytes d.free out.length else out
        let d := if over_ then { d with free := d.free + out.length } else d
        match d.tongsWrite e c s t da out (t.isRed && !over_) with
        | .error (.wait d) => d
        | .error (.fail st det a) => d.xferFail e c n st det a
        | .error _ => d
        | .ok (d, rem) =>
          d.modHead e c (fun y =>
            let y := { y with remote := y.remote || rem, seen := x.seen }
            if y.col + cnt < t.e 0 then { y with col := y.col + cnt }
            else { y with row := y.row + 1, col := 0, held := tdel y.held i1 })

/-- Whether a channel has a piece to do now. Pieces stop while a step is being pre-empted or is saved (R191). -/
def Dev.chanReady (d : Dev) (e : Fin 128) (c : Fin 4) : Bool :=
  match tgetD d.tongs (chanKey e c) [] with
  | [] => false
  | x :: _ =>
    !x.failed && x.parked.isNone && !x.walking && decide (x.row < x.desc.rows) &&
      (match d.step? x.step with
       | some s => s.phase == .running || s.phase == .draining
       | none => false)

/-- The Tongs engine that serves a channel of a cluster: its own, or the first of the next three still in service (R515). -/
def Dev.tongsFor (d : Dev) (h : Half) (cl c : Nat) : Option Nat :=
  ((List.range 4).map (fun k => 4 * cl + (c + k) % 4)).find? (fun t => (d.unit (tongsUnit h t)).st != .retired)

/-- TONGS_PIECE (R179): Tongs engine `t` of a half serves its channel of the engines of cluster t ÷ 4 in turn, and the
channels of retired engines that fall to it (R515). -/
def tongsPiece (d : Dev) (h : Half) (t : Fin 32) (ext : List Byte) : Dev :=
  let key := 32 * halfIdx h + t.val
  let cl := t.val / 4
  let eng (k : Nat) : Fin 128 := Fin.ofNat 128 (64 * halfIdx h + 8 * cl + k % 8)
  let chans := (List.range 4).filter (fun c => d.tongsFor h cl c == some t.val)
  let from_ := tgetD d.tongsNext key 0
  let turns := (List.range 8).flatMap (fun i => chans.map (fun c => ((from_ + i) % 8, c)))
  match turns.find? (fun p => d.chanReady (eng p.1) (Fin.ofNat 4 p.2)) with
  | none => d
  | some (k, c) =>
    let e := eng k
    let c : Fin 4 := Fin.ofNat 4 c
    match tgetD d.tongs (chanKey e c) [] with
    | [] => d
    | x :: _ =>
      match d.step? x.step with
      | none => d
      | some s =>
        if !d.unitUp (tongsUnit h t.val) then d
        else { d with tongsNext := tput d.tongsNext key ((k + 1) % 8) }.xferPiece e c s x ext

def execTongsPiece (h : Half) (t : Fin 32) (ext : List Byte) (s : State) : Res := onDev s (fun d => tongsPiece d h t ext)

/-! ### Stream prefetch (R311, R312) -/

/-- Whether the bytes of a range of virtual addresses touch a 4 KiB page. -/
def touchesPage (a : Int) (n page : Nat) : Bool :=
  let v := (a % (2 ^ 64 : Nat)).toNat
  decide (0 < n) && decide (v / 4096 ≤ page) && decide (page ≤ (v + n - 1) / 4096)

/-- Whether a page holds part of the next `look` tiles of one virtual side beyond the tile in progress: a tile is a row, or
64 KiB of a longer row. `w` is the side's element width in bits and `start` gives where a row starts, where that is known. -/
def sideAhead (t : TDesc) (x : Xfer) (look w page : Nat) (start : Nat → Option Int) : Bool :=
  let bytes := ceilDiv (t.e 0 * w) 8
  let per := max 1 (ceilDiv bytes 65536)
  let now := x.row * per + x.col * w / 8 / 65536
  (List.range look).any (fun i =>
    let j := now + 1 + i
    let off := j % per * 65536
    decide (j / per < t.rows) &&
      (match start (j / per) with | some a => touchesPage (a + (off : Nat)) (min 65536 (bytes - off)) page | none => false))

/-- Whether a page holds an index-list entry that the next `look` tiles of a transfer need, on the side with more tiles in a
row. -/
def idxAhead (t : TDesc) (x : Xfer) (look page : Nat) : Bool :=
  (List.range (look + 1)).any (fun i =>
    decide (x.row + i < t.rows) && touchesPage ((t.idx + (x.row + i) % t.e 1 * idxBytes t : Nat) : Int) (idxBytes t) page)

/-- Whether the service translates a page ahead of a transfer. -/
def Dev.aheadOf (d : Dev) (e : Fin 128) (x : Xfer) (look page : Nat) : Bool :=
  let t := x.desc
  let ix (on : Bool) (r : Nat) : Option Nat := if on then d.peekIdx e x (r % t.e 1) else some 0
  (!t.ssp && sideAhead t x look t.sw page (fun r => (ix t.srcIndexed r).map (t.srcRow r))) ||
  (!t.dsp && sideAhead t x look t.dw page (fun r => (ix t.dstIndexed r).map (t.dstRow r))) ||
  (t.indexed && !t.isp && idxAhead t x look page)

/-- Whether the service looks ahead of the transfer at the head of a channel for a page, on behalf of a Tongs engine. -/
def Dev.aheadOn (d : Dev) (h : Half) (ctx page : Nat) (t : Fin 32) (e : Fin 128) (c : Fin 4) : Bool :=
  let look := ((d.ctx? ctx).map (·.lookahead)).getD 0
  d.tongsFor h (t.val / 4) c.val == some t.val &&
  (match tgetD d.tongs (chanKey e c) [] with
   | x :: _ => !x.failed && (d.engCtx e) == some ctx && d.aheadOf e x look page
   | [] => false)

/-- The engines whose channels a Tongs engine serves. -/
def tongsEngines (h : Half) (t : Fin 32) : List (Fin 128) :=
  (List.range 8).map (fun k => Fin.ofNat 128 (64 * halfIdx h + 8 * (t.val / 4) + k))

/-- Whether a Tongs engine runs a transfer of a context that needs a page ahead; the transfer after it is not looked at. -/
def Dev.prefetches (d : Dev) (h : Half) (ctx page : Nat) (t : Fin 32) : Bool :=
  (tongsEngines h t).any (fun e => (List.finRange 4).any (fun c => d.aheadOn h ctx page t e c))

/-- The index-list entries of one page that the tiles ahead of a transfer need and that are not held. -/
def idxWanted (x : Xfer) (look page : Nat) : List Nat :=
  let t := x.desc
  (((List.range (look + 1)).map (fun i => x.row + i)).filter (fun r => decide (r < t.rows))).map (fun r => r % t.e 1)
    |>.filter (fun i => (tget x.held i).isNone && (t.idx + i * idxBytes t) / 4096 == page &&
        (t.idx + (i + 1) * idxBytes t - 1) / 4096 == page) |>.eraseDups

/-- Read, at a physical page, the index-list entries that a transfer needs ahead, and hold them (R311). `ext` is what the
outside answers, entry by entry; a read that is refused, poisoned or held leaves its entry to the row that needs it. -/
def Dev.holdIdx (d : Dev) (e : Fin 128) (c : Fin 4) (s : Step) (x : Xfer) (look page pa : Nat) (ext : List Byte) : Dev × List Byte :=
  (idxWanted x look page).foldl (fun (a : Dev × List Byte) i =>
    let va := x.desc.idx + i * idxBytes x.desc
    match a.1.tongsRead1 e s (pa + va % 4096) (idxBytes x.desc) va a.2 with
    | .bytes bs ext d => (d.modHead e c (fun y => { y with held := tput y.held i (ofLe bs) }), ext)
    | _ => a) (d, ext)

/-- Hold the index-list entries of a page for every transfer that a Tongs engine runs ahead of. -/
def Dev.holdAhead (d : Dev) (h : Half) (ctx page : Nat) (t : Fin 32) (pa : Nat) (ext : List Byte) : Dev :=
  let look := ((d.ctx? ctx).map (·.lookahead)).getD 0
  ((tongsEngines h t).flatMap (fun e => (List.finRange 4).map (fun c => (e, c)))).foldl (fun (a : Dev × List Byte) p =>
    match tgetD a.1.tongs (chanKey p.1 p.2) [] with
    | x :: _ =>
      (match a.1.step? x.step with
       | some s =>
         if x.desc.indexed && !x.desc.isp && a.1.aheadOn h ctx page t p.1 p.2 then a.1.holdIdx p.1 p.2 s x look page pa a.2 else a
       | none => a)
    | [] => a) (d, ext) |>.1

/-- PREFETCH_WALK: a translation ahead of a transfer takes a free walker and fills the Tongs engine's micro-TLB, and the entries
of an index list on that page are read; a fault raises nothing. -/
def execPrefetchWalk (h : Half) (ctx : Fin 4096) (va : VaIn) (t : Fin 32) (s : State) : Res :=
  onDev s (fun d =>
    let a := va.va.toNat
    let page := a / 4096
    if d.prefetches h ctx.val page t && d.walkerFree h then
      (match d.walk h ctx.val a with
       | (.leaf l p, ws) =>
         let d := (d.walkTouch h ctx.val a).xfill h (.tongs h t) ctx.val a l p ws
         let hl := leafHeld l p (4096 * page)
         if (leafCheck .read p).isNone then d.holdAhead h ctx.val page t (leafPa hl.1 hl.2 (4096 * page)) va.ext else d
       | (.hold off, _) => (match d.readGate off 1 with | .hold d => d | _ => d)
       | _ => d)
    else d)

/-! ### Completion -/

/-- TONGS_TRANSFER_COMPLETE (R186, R187): the channel's first transfer has performed every row, or failed, and every write of it
is acknowledged; then its DONE signal goes. -/
def tongsComplete (d : Dev) (e : Fin 128) (c : Fin 4) : Dev :=
  match tgetD d.tongs (chanKey e c) [] with
  | [] => d
  | x :: t =>
    let moving := match d.step? x.step with
      | some s => s.phase == .saving || s.phase == .saved || s.phase == .restoring
      | none => false
    if moving || (!x.failed && decide (x.row < x.desc.rows)) || d.writes.any (fun w => w.src == .tongs e c) then d
    else
      let ctx := (d.step? x.step).map (·.ctx)
      let d := { d with tongs := tput d.tongs (chanKey e c) t }
      let d := match x.desc.doneObj, ctx with
        | some obj, some cx => if x.failed then d else d.doneSignal 1 (4 * engIdx e + c.val) (engHalf e) cx obj x.step
        | _, _ => d
      d.settleEng e

def execTongsTransferComplete (e : Fin 128) (c : Fin 4) (s : State) : Res := onDev s (fun d => tongsComplete d e c)

end Sys2Proof.Machine
end

