-- ==== Sys2Proof/Machine/Domains.lean ====
section
/-!
DEFINITION. The 56 power domains (Table 16.3): their numbers, their states, and what wakes one (R491 to R496).
-/
namespace Sys2Proof.Machine

/-- A domain of a half, by its West number. -/
def pdOfHalf (h : Half) (n : Nat) : Nat := 20 * halfIdx h + n

def pdVat (h : Half) : Nat := pdOfHalf h 2
def pdAnvil (h : Half) : Nat := pdOfHalf h 3
def pdTongs (h : Half) : Nat := pdOfHalf h 4
def pdCluster (h : Half) (c : Nat) : Nat := pdOfHalf h (5 + c)
def pdGroup (h : Half) (g : Nat) : Nat := pdOfHalf h (13 + g)
def pdHbm (h : Half) (pair : Nat) : Nat := pdOfHalf h (17 + pair)

/-- The domain's number within its half, and its half; none for a Hub domain. -/
def pdHalf (n : Nat) : Option (Half × Nat) :=
  if n < 20 then some (.west, n) else if n < 40 then some (.east, n - 20) else none

/-- Domains that Table 16.3 never gates while they serve anything. -/
def pdNever (n : Nat) : Bool :=
  match pdHalf n with
  | some (_, k) => k ≤ 1 || 17 ≤ k
  | none => n == 40 || n == 41 || n == 43 || (49 ≤ n && n ≤ 52)

/-- A domain that the table does not list: powered when it is never gated, and otherwise gated (log 8). -/
def domDefault (n : Nat) : DomSt := if pdNever n then .on else .gated

def Dev.domSt (d : Dev) (n : Nat) : DomSt := tgetD d.power.dom n (domDefault n)
def Dev.setDom (d : Dev) (n : Nat) (x : DomSt) : Dev := d.modPower (fun p => { p with dom := tput p.dom n x })
def Dev.awake (d : Dev) (n : Nat) : Bool := d.domSt n == .on

/-- Ask for a domain (R493, R496): a gated one starts to wake, and one that is powering down wakes after that. -/
def Dev.wakeDom (d : Dev) (n : Nat) : Dev :=
  match d.domSt n with
  | .gated => d.setDom n .waking
  | .draining => d.modPower (fun p => { p with wakePend := if p.wakePend.contains n then p.wakePend else p.wakePend ++ [n] })
  | .retention => d.setDom n .waking
  | .quenched => d.setDom n .waking
  | _ => d

/-- Domains that a step needs in the halves it takes part in (R493). -/
def Step.domains (s : Step) : List Nat :=
  let clusters := (s.engines.map (fun e => pdCluster (engHalf e) (engIdx e / 8))).eraseDups
  let half (h : Half) : List Nat :=
    let c := Two.get s.image.decl h
    (if c.vat = 0 then [] else [pdVat h]) ++ (if c.cur = 0 then [] else [pdAnvil h]) ++
    (if c.ve = 0 then [] else [pdTongs h])
  clusters ++ half .west ++ half .east

end Sys2Proof.Machine
end

