-- ==== Sys2Proof/Machine/Steps.lean ====
section
/-!
DEFINITION. A step from its descriptor to its record (chapter 05, R447 to R453): descriptor fetch, image check, Vat fill,
kernels, draining, and completion records with the accounting they carry.
-/
namespace Sys2Proof.Machine

/-! ### Descriptor fetch (R447 to R451, R525) -/

/-- Fetched but unstarted steps. -/
def Step.unstarted (s : Step) : Bool := s.phase == .fetched || s.phase == .candidate

def Dev.ringFetched (d : Dev) (r : Nat) : Nat := (d.sched.steps.filter (fun p => p.2.ring == r && p.2.unstarted)).length
def Dev.allFetched (d : Dev) : Nat := (d.sched.steps.filter (fun p => p.2.unstarted)).length

/-- Whether a ring has an announced descriptor that may be fetched now. -/
def Dev.fetchOpen (d : Dev) (n : Nat) (r : Ring) : Bool :=
  !d.faults.pkgFault && d.faults.contain.isNone && d.boot.st == .ready && r.enabled && !r.overrun && !r.destroying && !r.held && !(r.head == r.tail) && decide (d.ringFetched n < 4) &&
    decide (d.allFetched < 8192)

/-- Table 14.5. -/
def stepDescOf (n : Nat) : StepDesc :=
  { image := BitVec.ofNat 64 (fld n 0 64), args := BitVec.ofNat 64 (fld n 64 64), tag := BitVec.ofNat 64 (fld n 128 64),
    serial := bit n 192 }

/-- A descriptor that breaks Table 14.5. -/
def stepDescBad (n : Nat) : Bool := fld n 193 319 != 0 || fld n 64 3 != 0

/-- DESCRIPTOR_FETCH: one 64-byte read of the ring's next descriptor; `ext` is what host memory or another node holds. -/
def descriptorFetch (d : Dev) (rn : Nat) (ext : List Byte) : Dev :=
  match tget d.host.rings rn with
  | none => d
  | some r =>
    if !d.fetchOpen rn r then d
    else
      let a := r.base + BitVec.ofNat 64 (64 * (r.head.toNat % 2 ^ r.log2))
      d.fwThen a 64 (fun d =>
        let n := d.sched.next
        let got := d.fwRead a 64 ext
        let word := match got with | .ok bs => ofLe bs | .error _ => 0
        let s : Step :=
          { ring := rn, ctx := r.ctx, cls := r.cls, count := r.head, desc := stepDescOf word, fetchT := d.count }
        let d := (d.fwTouch a 64).modHost (fun h => { h with rings := tput h.rings rn { r with head := r.head + 1 } })
        let d := d.modSched (fun x => { x with steps := tput x.steps n s, next := n + 1 })
        match got with
        | .error st => d.completeNow n st a (if st = .unreachable then fld a.toNat 48 8 else 0)
        | .ok _ => if stepDescBad word then d.completeNow n .malformed 0 else d)

def execDescriptorFetch (ring : Fin 16384) (ext : List Byte) (s : State) : Res :=
  onDev s (fun d => descriptorFetch d ring.val ext)

/-! ### Phase 1: reads through the context's translation (R161, R313) -/

/-- What stops phase 1: a translation fault, a refused read, a wait for a frame or for a walker, a malformed image, or a
declaration that cannot be met. -/
inductive PStop where
  | fault (acc : Access) (va cause level : Nat)
  | refused (st : Status) (addr : Nat) (node : Nat := 0)
  | hold (off : Option Nat)
  | badImage
  | unsatisfiable (i : Image)
deriving DecidableEq, Repr

/-- Where a phase-1 access leads: a translation the West half holds, or a walk. -/
def Dev.p1Addr (d : Dev) (n ctx va : Nat) (acc : Access) : Except PStop Nat :=
  match d.xlookup (.phase1 n) ctx va acc with
  | some pa => .ok pa
  | none =>
    if !d.walkerFree .west then .error (.hold none)
    else match d.walk .west ctx va with
    | (.leaf l p, _) =>
      (match leafCheck acc p with
       | some c => .error (.fault acc va c l)
       | none => let h := leafHeld l p va; .ok (leafPa h.1 h.2 va))
    | (.fault c l, _) => .error (.fault acc va c l)
    | (.poison a, _) => .error (.refused .poison a)
    | (.refused st a, _) => .error (.refused st a)
    | (.hold off, _) => .error (.hold (some off))

/-- Read one run inside a page; `ext` are the bytes there when the page is outside this node. -/
def Dev.p1Page (d : Dev) (pa va n : Nat) (ext : List Byte) : Except PStop (List Byte) :=
  match d.target true pa with
  | .umr off =>
    (match d.readGate off n with
     | .refuse st => .error (.refused st va)
     | .hold _ => .error (.hold (some off))
     | .go _ =>
       if d.cohPoison off n then .error (.refused .poison va)
       else match d.homeRead off n ext with
         | .ok r => .ok r.1
         | .error st => .error (.refused st va))
  | .host _ => .ok ((ext ++ List.replicate n 0).take n)
  | .remote nd off =>
    (match localTarget off with
     | .umr _ =>
       if !d.live nd then .error (.refused .unreachable va nd)
       else if !d.reach nd then .error (.hold none)
       else match extAnswer ext n with
         | .ok bs => .ok bs
         | .error st => .error (.refused st va)
     | _ => .error (.refused .unmapped va))
  | _ => .error (.refused .unmapped va)

/-- Read `n` bytes at a virtual address, page by page. -/
def Dev.p1Read (d : Dev) (s ctx : Nat) (acc : Access) : Nat → Nat → Nat → List Byte → Except PStop (List Byte)
  | 0, _, _, _ => .ok []
  | fuel + 1, va, n, ext =>
    if n = 0 then .ok []
    else
      let k := min n (4096 - va % 4096)
      match d.p1Addr s ctx va acc with
      | .error x => .error x
      | .ok pa =>
        match d.p1Page pa va k ext with
        | .error x => .error x
        | .ok bs =>
          match d.p1Read s ctx acc fuel ((va + k) % 2 ^ 64) (n - k) (ext.drop k) with
          | .error x => .error x
          | .ok r => .ok (bs ++ r)

/-! ### ELF64 (R162, Table 5.2) -/

/-- A reader of the image file: offset and length. -/
abbrev ImgRd := Nat → Nat → Except PStop (List Byte)

def rdNum (rd : ImgRd) (off n : Nat) : Except PStop Nat := (rd off n).map ofLe

/-- One section: name offset, type, file offset and size. -/
structure Sect where
  name : Nat
  typ : Nat
  off : Nat
  size : Nat
deriving DecidableEq, Repr

/-- One program header. -/
structure Seg where
  typ : Nat
  flags : Nat
  off : Nat
  va : Nat
  filesz : Nat
  memsz : Nat
deriving DecidableEq, Repr

def maxFile : Nat := 64 * 2 ^ 20

/-- Table entries read one by one; a table that leaves the file bound is malformed. -/
def readTab {α : Type} (rd : ImgRd) (mk : Nat → α) (off size : Nat) : Nat → Except PStop (List α)
  | 0 => .ok []
  | k + 1 =>
    match readTab rd mk off size k with
    | .error x => .error x
    | .ok l =>
      if maxFile < off + size * (k + 1) then .error .badImage
      else match rdNum rd (off + size * k) size with
        | .error x => .error x
        | .ok v => .ok (l ++ [mk v])

def segOf (v : Nat) : Seg :=
  { typ := fld v 0 32, flags := fld v 32 32, off := fld v 64 64, va := fld v 128 64, filesz := fld v 256 64,
    memsz := fld v 320 64 }

def sectOf (v : Nat) : Sect :=
  { name := fld v 0 32, typ := fld v 32 32, off := fld v 192 64, size := fld v 256 64 }

def nameBytes (s : String) : List Byte := s.toList.map (fun c => BitVec.ofNat 8 c.toNat) ++ [0]

def sectIs (strs : List Byte) (name : String) (x : Sect) : Bool :=
  (strs.drop x.name).take (nameBytes name).length == nameBytes name

/-- A PT_LOAD segment as R162 asks. -/
def segOk (img : Nat) (p : Seg) : Bool :=
  p.typ != 1 || (p.va == img + p.off && p.filesz == p.memsz && p.off % 4096 == 0)

/-- The raw contents that R162 to R164 check. -/
structure Elf where
  segs : List Seg
  decl : List Byte
  kern : List Byte
  vw : Option (List Byte)
  ve : Option (List Byte)
deriving DecidableEq, Repr

def readSect (rd : ImgRd) (strs : List Byte) (ss : List Sect) (name : String) : Except PStop (Option (List Byte)) :=
  match ss.find? (sectIs strs name) with
  | none => .ok none
  | some x => (rd x.off x.size).map some

/-- Read and check the file (R162). -/
def readElf (rd : ImgRd) (img : Nat) : Except PStop Elf := do
  if img % 4096 != 0 then throw .badImage
  let h ← rdNum rd 0 64
  let phoff := fld h 256 64
  let shoff := fld h 320 64
  let phnum := fld h 448 16
  let shnum := fld h 480 16
  if fld h 0 32 != 0x464C457F || fld h 32 8 != 2 || fld h 40 8 != 1 || fld h 128 16 != 2 || fld h 144 16 != 243 ||
      (phnum != 0 && fld h 432 16 != 56) || fld h 464 16 != 64 || shnum ≤ fld h 496 16 then throw .badImage
  let segs ← readTab rd segOf phoff 56 phnum
  let ss ← readTab rd sectOf shoff 64 shnum
  let big := ss.any (fun x => x.typ != 8 && maxFile < x.off + x.size) || segs.any (fun p => maxFile < p.off + p.filesz)
  if big || segs.any (fun p => !segOk img p) then throw .badImage
  let st := lgetD ss (fld h 496 16) ⟨0, 0, 0, 0⟩
  let strs ← rd st.off st.size
  let decl ← readSect rd strs ss ".rurix.decl"
  let kern ← readSect rd strs ss ".rurix.kern"
  let vw ← readSect rd strs ss ".rurix.vinit.w"
  let ve ← readSect rd strs ss ".rurix.vinit.e"
  match decl, kern with
  | some dl, some k => return { segs := segs, decl := dl, kern := k, vw := vw, ve := ve }
  | _, _ => throw .badImage

/-- Tables 5.3 and 5.4: the declaration's fields, or a malformed image. Regions keep the ARG index in place of an address. -/
def imageOf (f : Elf) : Except PStop Image :=
  let n := ofLe f.decl
  let nk := fld n 16 7
  let nr := fld n 23 8
  let west : HalfDecl := ⟨fld n 64 12, fld n 76 7, fld n 84 11, fld n 95 17⟩
  let east : HalfDecl := ⟨fld n 128 12, fld n 140 7, fld n 148 11, fld n 159 17⟩
  let rsvd := fld n 31 33 != 0 || bit n 83 || fld n 112 16 != 0 || bit n 147 || fld n 176 80 != 0
  let range (c : HalfDecl) : Bool := 3072 < c.vat || 64 < c.ve || 1024 < c.cur || 65536 < c.ren
  let regs := (List.range nr).map (fun i => fld n (256 + 128 * i) 128)
  let regBad (r : Nat) : Bool := fld r 6 2 == 3 || fld r 8 56 != 0 || fld r 64 64 == 0
  let ks := (List.range nk).map (fun i => fld (ofLe f.kern) (64 * i) 64)
  let inCode (k : Nat) : Bool := f.segs.any (fun p => p.typ == 1 && bit p.flags 0 && p.va ≤ k && k < p.va + p.memsz)
  let vbad (v : Option (List Byte)) (c : HalfDecl) : Bool := match v with | some b => 65536 * c.vat < b.length | none => false
  if f.decl.length < 32 + 16 * nr || f.kern.length < 8 * nk || fld n 0 16 != 1 || nk == 0 || 64 < nk || 64 < nr || rsvd ||
      range west || range east || west.ve + east.ve == 0 || regs.any regBad || !ks.all inCode || vbad f.vw west ||
      vbad f.ve east then .error .badImage
  else .ok
    { decl := ⟨west, east⟩, kernels := ks.map (BitVec.ofNat 64),
      regions := regs.map (fun r => { va := BitVec.ofNat 64 (fld r 0 6), dir := BitVec.ofNat 2 (fld r 6 2),
                                      len := BitVec.ofNat 64 (fld r 64 64) }),
      vinit := ⟨f.vw.getD [], f.ve.getD []⟩ }

/-- Engines that a half presents: all but the retired ones (R112). -/
def Dev.enginesLeft (d : Dev) (h : Half) : Nat :=
  (allEngines.filter (fun e => engHalf e == h && (d.unit (engUnit e)).st != .retired)).length

/-- R165: a declaration that exceeds what a half presents. -/
def Dev.unsat (d : Dev) (i : Image) : Bool :=
  let bad (h : Half) : Bool :=
    let c := Two.get i.decl h
    d.enginesLeft h < c.ve || Two.get d.rennet.pool h < c.ren || ((d.unit (anvilUnit h)).st == .retired && c.cur != 0)
  bad .west || bad .east

/-- Bring the region entries to the addresses in the argument block (R164). -/
def Image.resolve (i : Image) (args : List Byte) : Image :=
  { i with regions := i.regions.map (fun r =>
      { r with va := BitVec.ofNat 64 (ofLe ((args.drop (8 * r.va.toNat)).take 8)) }) }

/-- Everything phase 1 reads. `ext` is the argument block and then the image file, where they lie outside this node. A
parsed image that the context has cached may be used in place of the file (R166): which happens is a free choice. -/
def Dev.phase1 (d : Dev) (n : Nat) (s : Step) (ext : List Byte) : Except PStop (Image × List Seg) := do
  let img := s.desc.image.toNat
  let rd : ImgRd := fun off len =>
    d.p1Read n s.ctx .exec (len / 4096 + 2) ((img + off) % 2 ^ 64) len ((ext.drop 512).drop off)
  let cached := match d.ctx? s.ctx with
    | some c => if Config.freeBool d.free then (c.images.find? (fun p => p.1 == s.desc.image)).map (·.2) else none
    | none => none
  let (i, segs) ← match cached with
    | some i => pure (i, [])
    | none => do
        let f ← readElf rd img
        let i ← imageOf f
        pure (i, f.segs)
  let args ← d.p1Read n s.ctx .read 3 s.desc.args.toNat 512 (ext.take 512)
  if d.unsat i then throw (.unsatisfiable (i.resolve args))
  return (i.resolve args, segs)

/-- What the phase-1 reads of a range of virtual addresses leave behind, page by page: HEAT of the tables walked and of the
frames read. -/
def Dev.p1Touch (d : Dev) (n ctx va len : Nat) (acc : Access) : Dev :=
  foldDev d (List.range ((va % 4096 + len + 4095) / 4096)) (fun d i =>
    let a := if i = 0 then va else va / 4096 * 4096 + 4096 * i
    match d.p1Addr n ctx a acc with
    | .ok pa =>
      (match d.target true pa with
       | .umr off => if d.backed off then (d.walkTouch .west ctx a).homeTouch off (min (4096 - a % 4096) (va + len - a)) else d
       | _ => d)
    | .error _ => d)

/-- R160 (R463): where a step's status is not OK, the contents of its declared output regions are undefined. Bytes outside this
node's memory are the outside's. -/
def Dev.freeRegions (d : Dev) (n : Nat) : Dev :=
  match d.step? n with
  | none => d
  | some s =>
    if (s.outcome.getD {}).status = .ok then d
    else
      foldDev d (s.image.regions.filter (fun r => r.dir != 0)) (fun d r =>
        foldDev d (pagesOf r.va.toNat (r.len.toNat / 4096 + 2) r.len.toNat) (fun d p =>
          match d.walk .west s.ctx p.1 [] true with
          | (.leaf l q, _) =>
            let h := leafHeld l q p.1
            (match d.target true (leafPa h.1 h.2 p.1) with
             | .umr off => if d.backed off then d.freeRange off p.2 else d
             | .vat off => d.freeRange off p.2
             | _ => d)
          | _ => d))

/-- STEP_IMAGE_CHECK: phase 1 of a fetched step that is not parked. -/
def stepImageCheck (d : Dev) (n : Nat) (ext : List Byte) : Dev :=
  match d.step? n with
  | none => d
  | some s =>
    if s.phase != .fetched || s.parked.isSome || s.outcome.isSome then d
    else
      let r := d.phase1 n s ext
      let d := { d with free := d.free + 1 }
      match r with
      | .error (.hold (some off)) => (match d.readGate off 1 with | .hold d => d | _ => d)
      | .error (.hold none) => d
      | .error (.fault acc va c l) => d.faultUser (.phase1 n) s.ctx (BitVec.ofNat 64 va) acc c l
      | .error (.refused st a nd) => d.completeNow n st (BitVec.ofNat 64 a) nd
      | .error .badImage => d.completeNow n .badImage s.desc.image
      | .error (.unsatisfiable i) =>
        ((d.modStep n (fun s => { s with image := i, outcome := some { status := .unsatisfiable } })).freeRegions n).completeNow n
          .unsatisfiable 0
      | .ok (i, segs) =>
        let d := foldDev d segs (fun d g => d.p1Touch n s.ctx (s.desc.image.toNat + g.off) g.filesz .exec)
        (d.p1Touch n s.ctx s.desc.args.toNat 512 .read).modStep n (fun s => { s with phase := .candidate, image := i })

def execStepImageCheck (step : Nat) (ext : List Byte) (s : State) : Res := onDev s (fun d => stepImageCheck d step ext)

/-! ### Kernels (R167, R170, R175, R233) -/

def ones64 : Word := 0xFFFFFFFFFFFFFFFF

/-- Vat address of a grant as software sees it, or all ones when there is none. -/
def grantWord (h : Half) (r : Nat × Nat) (declared : Nat) : Word :=
  if declared = 0 then ones64 else BitVec.ofNat 64 (0x10000000 * halfIdx h + r.1)

def renWord (r : Nat × Nat) (declared : Nat) : Word := if declared = 0 then ones64 else BitVec.ofNat 64 r.1

/-- Engine registers at a kernel's start (Table 5.5). -/
def kernelRegs (s : Step) (rank k : Nat) : Tbl Word :=
  [(10, s.desc.args), (11, BitVec.ofNat 64 rank), (12, BitVec.ofNat 64 s.engines.length),
   (13, grantWord .west s.vat.w s.image.decl.w.vat), (14, grantWord .east s.vat.e s.image.decl.e.vat),
   (15, renWord s.ren.w s.image.decl.w.ren), (16, renWord s.ren.e s.image.decl.e.ren), (17, BitVec.ofNat 64 k)]

/-- Start kernel `k` on every engine of a step. Counters and the tickets go on (R136); everything else is as R167 says. DESIGN CHOICE
(log 194): fflags, frm, vxrm and vxsat, on which R167 is silent, are zero. -/
def Dev.startKernel (d : Dev) (n k : Nat) : Dev :=
  match d.step? n with
  | none => d
  | some s =>
    let d := d.modStep n (fun s => { s with phase := .running, kernel := k })
    foldDev (d.stallEnds s.ctx) s.engines.zipIdx (fun d p =>
      d.modEng p.1 (fun x =>
        { x := kernelRegs s p.2 k, pc := lgetD s.image.kernels k 0, cycle := x.cycle, instret := x.instret,
          run := .running, step := some n, tTicket := x.tTicket, halted := x.halted }))

/-- VAT_FILL_DONE (R175): each grant holds zeros and its vinit section, and kernel 0 starts. -/
def vatFillDone (d : Dev) (n : Nat) : Dev :=
  match d.step? n with
  | none => d
  | some s =>
    if s.phase != .filling then d
    else
      let fill (d : Dev) (h : Half) : Dev :=
        let r := Two.get s.vat h
        let at0 := vatOff (0x10000000 * halfIdx h + r.1)
        if r.2 = 0 then d
        else { d with mem := cellsPut (cellsClear d.mem at0 r.2) at0 (Two.get s.image.vinit h) }
      let d := fill (fill d .west) .east
      let d := foldDev d s.engines (fun d e => d.modEng e (fun x => { x with tTicket := 0 }))
      d.startKernel n 0

def execVatFillDone (step : Nat) (s : State) : Res := onDev s (fun d => vatFillDone d step)

/-- Agents of a step: its engines and their channels. -/
def Step.has (s : Step) (a : Agent) : Bool :=
  match a with
  | .engine e => s.engines.contains e
  | .tongs e _ => s.engines.contains e
  | _ => false

/-- Operations and transfers of a step that have not completed. -/
def Dev.workLeft (d : Dev) (n : Nat) (s : Step) : Bool :=
  d.anvil.ops.any (fun p => p.2.step == n) || !s.lostOps.isEmpty ||
  s.engines.any (fun e => (List.range 4).any (fun c => (tgetD d.tongs (4 * e.val + c) []).any (fun x => x.step == n)))

/-- A Rennet message in flight that a step sent: from its engines, or a DONE signal of its own. -/
def Step.sent (n : Nat) (s : Step) (m : RMsg) : Bool :=
  let mine (x : RSrc) : Bool := x.srct == 0 && s.engines.any (fun e => engIdx e == x.srcid.toNat && engHalf e == x.half)
  match m with
  | .sig x _ _ _ _ st => mine x || st == some n
  | .add x _ _ _ => mine x
  | _ => false

/-- Whether something that a step issued is not performed yet, here or at another node: a write or signal, an instruction
that must complete, a request at a home, a Rennet operation, or an operation that awaits another node's answer (R159, R234). -/
def Dev.inFlight (d : Dev) (n : Nat) (s : Step) : Bool :=
  d.writes.any (fun w => w.step == some n || s.has w.src) ||
  s.engines.any (fun e => (d.eng e).step == some n && (d.eng e).mustEnd) ||
  (d.coh.noc ++ d.coh.held ++ d.coh.redQ).any (fun m => s.has m.who && m.kind != .comp) ||
  d.rennet.msgs.any (Step.sent n s) || d.chain.reqs.any (fun q => s.engines.contains q.eng)

/-- KERNEL_END (R170, R234): the next kernel starts, or the step begins to drain. -/
def kernelEnd (d : Dev) (n : Nat) : Dev :=
  match d.step? n with
  | none => d
  | some s =>
    let allEnd := s.engines.all (fun e => (d.eng e).run == .kended)
    if s.phase != .running || s.outcome.isSome || s.victimOf.isSome || !allEnd || d.workLeft n s || d.inFlight n s then d
    else if s.kernel + 1 < s.image.kernels.length then d.startKernel n (s.kernel + 1)
    else d.endStep n {}

def execKernelEnd (step : Nat) (s : State) : Res := onDev s (fun d => kernelEnd d step)

/-! ### The end (R158, R159) -/

/-- STEP_DRAIN_DONE: phase 5 ends once nothing of the step is left or in flight; a step in the save area has nothing of its
own on the chip (R320). -/
def stepDrainDone (d : Dev) (n : Nat) : Dev :=
  match d.step? n with
  | none => d
  | some s =>
    if s.phase != .draining || (!d.away n s && (d.workLeft n s || d.inFlight n s)) then d
    else (d.freeRegions n).finish n

def execStepDrainDone (step : Nat) (s : State) : Res := onDev s (fun d => stepDrainDone d step)

/-- VAT_CLEAR_DONE (R609): the first returned range of the half is cleared and free. -/
def vatClearDone (d : Dev) (h : Half) : Dev :=
  match (Two.get d.sched.half h).clearing with
  | [] => d
  | r :: t =>
    let d := { d with mem := cellsClear d.mem (vatOff (0x10000000 * halfIdx h + r.1)) r.2 }
    d.modSched (fun x => { x with half := Two.mod x.half h (fun y => { y with clearing := t }) })

def execVatClearDone (h : Half) (s : State) : Res := onDev s (fun d => vatClearDone d h)

/-! ### Completion records and accounting (R452, R462, R481 to R483) -/

/-- Table 15.5's counters, bytes 64 to 127. -/
def acctCounters (c : Nat) (now : Bool) (a : Acct) : List Byte :=
  wordsBytes [a.steps.toNat, a.nonok.toNat, a.preempts.toNat, a.wait.w.toNat, a.wait.e.toNat, a.anvil.w.toNat,
    a.anvil.e.toNat, c + at_ 12 (b2n now) + at_ 16 1]

/-- Write a context's accounting buffer: three writes in order (R482). -/
def Dev.acctWrite (d : Dev) (c : Nat) (now : Bool) : Dev :=
  match d.ctx? c with
  | none => d
  | some x =>
    if x.acct.buf = 0 then d
    else
      let seq := x.acct.seq + 1
      let d := d.modCtx c (fun x => { x with acct := { x.acct with seq := seq } })
      let d := d.fwWrite x.acct.buf (wordsBytes [seq.toNat, d.hubCount.toNat])
      let d := d.fwWrite (x.acct.buf + 64) (acctCounters c now x.acct)
      d.fwWrite (x.acct.buf + 16) (wordsBytes [seq.toNat])

/-- Count a completed step (R483) and write the buffer when the period is reached (R481). -/
def Dev.acctStep (d : Dev) (c : Nat) (ok : Bool) : Dev :=
  let d := d.modCtx c (fun x =>
    { x with acct := { x.acct with steps := x.acct.steps + 1, nonok := if ok then x.acct.nonok else x.acct.nonok + 1 } })
  match d.ctx? c with
  | some x => if x.acct.period ≠ 0 && x.acct.steps.toNat % x.acct.period = 0 then d.acctWrite c false else d
  | none => d

/-- The bytes of a posted record: PHASE is 1 on the first pass and alternates. -/
def recBytes (r : CRec) (posted log2 : Nat) : List Byte :=
  let phase := (posted / 2 ^ log2) % 2 == 0
  wordsBytes [r.w0.toNat / 2 * 2 + b2n phase, r.w1.toNat, r.w2.toNat, r.w3.toNat]

/-- COMPLETION_RECORD_POST: the context's first held record goes to its ring; a step's resources return with it; then the
ring's moderation decides the interrupt (R462). -/
def completionPost (d : Dev) (c : Nat) : Dev :=
  match d.ctx? c with
  | none => d
  | some x =>
    match x.recs with
    | [] => d
    | r :: t =>
      if x.room = 0 then d
      else
        let a := x.ring + BitVec.ofNat 64 (32 * (x.posted % 2 ^ x.log2))
        let d := d.fwWrite a (recBytes r x.posted x.log2)
        let due := decide (max x.modCount 1 ≤ x.unsig + 1)
        let d := d.modCtx c (fun x =>
          { x with recs := t, posted := x.posted + 1, unsig := if due then 0 else x.unsig + 1 })
        let d := match r.step with
          | some n => ((d.release n).modSched (fun s => { s with steps := tdel s.steps n })).acctStep c r.ok
          | none => d
        if due then d.fwSignal x.bind else d

def execCompletionRecordPost (ctx : Fin 4096) (s : State) : Res := onDev s (fun d => completionPost d ctx.val)

end Sys2Proof.Machine
end

