-- ==== Sys2Proof/Machine/Sched.lean ====
section
/-!
DEFINITION. The schedulers of the two halves (chapter 15): candidates and their order, grants, pre-emption and restores.
-/
namespace Sys2Proof.Machine

/-! ### Candidates (R466, R468) -/

/-- A half takes part in a step (R466). -/
def HalfDecl.takesPart (c : HalfDecl) : Bool := c.vat != 0 || c.ve != 0 || c.cur != 0 || c.ren != 0

def Step.inHalf (s : Step) (h : Half) : Bool := (Two.get s.image.decl h).takesPart
def Step.halves (s : Step) : List Half := [Half.west, Half.east].filter s.inHalf

/-- Whether a fetched step counts as a candidate: phase 1 passed, and R450 for the steps before it in its ring. -/
def Dev.isCandidate (d : Dev) (n : Nat) (s : Step) : Bool :=
  s.phase == .candidate && s.outcome.isNone &&
  !d.sched.steps.any (fun p => decide (p.1 < n) && p.2.ring == s.ring && (s.desc.serial || p.2.phase == .fetched))

/-- Position in a list of grants, oldest first; never granted comes before all. -/
def recency {α : Type} [DecidableEq α] (l : List α) (a : α) : Nat := if a ∈ l then 1 + l.idxOf a else 0

/-- Keys of R468 in order. -/
def Dev.candKey (d : Dev) (h : Half) (n : Nat) (s : Step) : List Nat :=
  let x := Two.get d.sched.half h
  [s.cls, recency x.grants (s.cls, s.ctx), s.ctx, recency x.ringGrants s.ring, s.ring, n]

def lexLe : List Nat → List Nat → Bool
  | [], _ => true
  | _ :: _, [] => false
  | a :: s, b :: t => decide (a < b) || (a == b && lexLe s t)

/-- Insert by key. -/
def insKey (k : List Nat × Nat) : List (List Nat × Nat) → List (List Nat × Nat)
  | [] => [k]
  | a :: t => if lexLe a.1 k.1 then a :: insKey k t else k :: a :: t

def sortKeys (l : List (List Nat × Nat)) : List Nat := (l.foldl (fun a k => insKey k a) []).map (·.2)

/-! ### What fits (R467, R475) -/

/-- Whether a cluster waits for its spare to take an engine (R111). -/
def Dev.spareWaits (d : Dev) (h : Half) (c : Nat) : Bool :=
  allEngines.any (fun e => engHalf e == h && engIdx e / 8 == c && (d.unit (engUnit e)).awaiting)

/-- Steps that hold or reserve resources. -/
def Step.holds (s : Step) : Bool := !s.engines.isEmpty

/-- Engines of a half that a candidate may take: free and unreserved, or of a step in `give`. -/
def Dev.freeEngines (d : Dev) (h : Half) (give : List Nat) : List (Fin 128) :=
  allEngines.filter (fun e =>
    engHalf e == h && d.unitUp (engUnit e) && !d.spareWaits h (engIdx e / 8) &&
    (let given := give.any (fun n => match d.step? n with | some s => s.engines.contains e | none => false)
     given || ((d.eng e).step.isNone && !d.sched.steps.any (fun p => d.away p.1 p.2 && p.2.engines.contains e))))

def inRange (r : Nat × Nat) (a : Nat) : Bool := r.1 ≤ a && a < r.1 + r.2

/-- Whether a 64 KiB unit of a half's Vat is free, unreserved and cleared, or held by a step in `give`. -/
def Dev.vatUnitFree (d : Dev) (h : Half) (give : List Nat) (u : Nat) : Bool :=
  let a := 65536 * u
  let given := give.any (fun n => match d.step? n with | some s => inRange (Two.get s.vat h) a | none => false)
  given || (!d.sched.steps.any (fun p => inRange (Two.get p.2.vat h) a) &&
    !(Two.get d.sched.half h).clearing.any (fun r => inRange r a))

/-- The lowest free range of `k` units. -/
def Dev.vatRange (d : Dev) (h : Half) (give : List Nat) (k : Nat) : Option (Nat × Nat) :=
  if k = 0 then some (0, 0)
  else ((List.range (3073 - k)).find? (fun u => (List.range k).all (fun i => d.vatUnitFree h give (u + i)))).map
    (fun u => (65536 * u, 65536 * k))

/-- The lowest free range of `k` objects in the half's step pool. -/
def Dev.renRange (d : Dev) (h : Half) (k : Nat) : Option (Nat × Nat) :=
  let lo := 65536 * halfIdx h
  let busy := (d.sched.steps.map (fun p => Two.get p.2.ren h)).filter (fun r => r.2 != 0)
  let ok (a : Nat) : Bool := a + k ≤ lo + Two.get d.rennet.pool h && busy.all (fun r => a + k ≤ r.1 || r.1 + r.2 ≤ a)
  if k = 0 then some (0, 0)
  else
    let bases := (lo :: busy.map (fun r => r.1 + r.2)).filter ok
    (bases.foldl (fun a b => match a with | none => some b | some x => some (min x b)) none).map (fun a => (a, k))

/-- Curd capacity in use or reserved, apart from the steps in `give`. What a saved step reserves and the step it was
pre-empted for uses counts once. -/
def Dev.curdHeld (d : Dev) (h : Half) (give : List Nat) : Nat :=
  let live := d.sched.steps.filter (fun p => p.2.holds && !give.contains p.1)
  let cur (s : Step) : Nat := (Two.get s.image.decl h).cur
  let used := ((live.filter (fun p => !d.away p.1 p.2)).map (fun p => cur p.2)).sum
  let saved := live.filter (fun p => d.away p.1 p.2)
  let groups := (saved.map (fun p => p.2.victimOf)).eraseDups
  let group (g : Option Nat) : Nat :=
    let sum := ((saved.filter (fun p => p.2.victimOf == g)).map (fun p => cur p.2)).sum
    let by_ := match g with
      | some b => (match d.step? b with | some s => if s.holds then cur s else 0 | none => 0)
      | none => 0
    sum - by_
  used + (groups.map group).sum

/-- What a half gives a step. -/
structure Alloc1 where
  eng : List (Fin 128)
  vat : Nat × Nat
  ren : Nat × Nat
deriving DecidableEq, Repr

/-- R467 for one half. -/
def Dev.fitHalf (d : Dev) (h : Half) (c : HalfDecl) (give : List Nat) : Option Alloc1 :=
  let es := (d.freeEngines h give).take c.ve
  let count := (d.sched.steps.filter (fun p => p.2.holds && p.2.inHalf h)).length
  if !c.takesPart then some ⟨[], (0, 0), (0, 0)⟩
  else if es.length < c.ve || 1024 < d.curdHeld h give + c.cur || 256 ≤ count then none
  else match d.vatRange h give c.vat, d.renRange h c.ren with
    | some v, some r => some ⟨es, v, r⟩
    | _, _ => none

def Dev.fit (d : Dev) (s : Step) (give : List Nat) : Option (Alloc1 × Alloc1) :=
  match d.fitHalf .west s.image.decl.w give, d.fitHalf .east s.image.decl.e give with
  | some a, some b => some (a, b)
  | _, _ => none

/-- Saved steps that were pre-empted for a candidate: their reserves are the candidate's to take (R475). -/
def Dev.passed (d : Dev) (n : Nat) : List Nat :=
  (d.sched.steps.filter (fun p => p.2.phase == .saved && p.2.victimOf == some n)).map (·.1)

/-! ### Grants -/

/-- Count the local counts that a step has waited (R483). -/
def Dev.countWait (d : Dev) (s : Step) : Dev :=
  d.modCtx s.ctx (fun c =>
    let w (h : Half) : Word := if s.inHalf h then Two.get c.acct.wait h + (d.halfCount h - Two.get s.fetchT h)
      else Two.get c.acct.wait h
    { c with acct := { c.acct with wait := ⟨w .west, w .east⟩ } })

/-- A waking step whose domains are all awake is granted, and its fill begins (R494). -/
def Dev.grantReady (d : Dev) (n : Nat) : Dev :=
  match d.step? n with
  | none => d
  | some s =>
    if s.phase == .waking && s.domains.all d.awake then (d.countWait s).modStep n (fun s => { s with phase := .filling })
    else d

/-- New objects of a grant, all fields zero, held by the step. -/
def newObjs (o : ROwner) (r : Nat × Nat) (t : Tbl RObj) : Tbl RObj :=
  (List.range r.2).foldl (fun t i => tput t (r.1 + i) { owner := some o }) t

def noteGrant {α : Type} [DecidableEq α] (l : List α) (a : α) : List α := l.filter (· != a) ++ [a]

/-- STEP_GRANT (R467): the step receives its resources in every half in one action. -/
def Dev.grantStep (d : Dev) (n : Nat) (s : Step) (a : Alloc1 × Alloc1) : Dev :=
  let es := a.1.eng ++ a.2.eng
  let d := d.modStep n (fun s =>
    { s with phase := .waking, engines := es, vat := ⟨a.1.vat, a.2.vat⟩, ren := ⟨a.1.ren, a.2.ren⟩,
             granted := d.sched.grantNo })
  let d := foldDev d es (fun d e => d.modEng e (fun x => { x with step := some n, run := .idle }))
  let d := d.modRennet (fun r =>
    { r with objs := newObjs (.step n) a.2.ren (newObjs (.step n) a.1.ren r.objs) })
  let d := d.modSched (fun x =>
    let note (h : Half) : SchedHalf :=
      let y := Two.get x.half h
      if s.inHalf h then
        { y with grants := noteGrant y.grants (s.cls, s.ctx), ringGrants := noteGrant y.ringGrants s.ring,
                 waiting := if y.waiting = some n then none else y.waiting }
      else { y with waiting := if y.waiting = some n then none else y.waiting }
    { x with half := ⟨note .west, note .east⟩, grantNo := x.grantNo + 1 })
  match d.step? n with
  | none => d
  | some s => (foldDev d s.domains Dev.wakeDom).grantReady n

/-! ### Victims (R471, R474) -/

/-- Save-area need of a step in a half. -/
def Step.need (s : Step) (h : Half) : Nat :=
  (Two.get s.vat h).2 + 16384 * (s.engines.filter (fun e => engHalf e == h)).length

/-- Steps whose save area is taken or promised. -/
def Step.inSave (s : Step) : Bool := s.saved || s.victimOf.isSome

def Dev.saveFree (d : Dev) (h : Half) : Nat :=
  (Two.get d.sched.half h).saveBytes - ((d.sched.steps.filter (fun p => p.2.inSave)).map (fun p => p.2.need h)).sum

/-- Steps that may be pre-empted for a candidate, in the order in which they join its victim set. -/
def Dev.eligible (d : Dev) (s : Step) : List Nat :=
  let l := d.sched.steps.filter (fun p =>
    p.2.phase == .running && p.2.outcome.isNone && p.2.victimOf.isNone && decide (s.cls < p.2.cls) &&
    p.2.halves.any s.inHalf)
  sortKeys (l.map (fun p => ([4 - p.2.cls, d.sched.grantNo - p.2.granted], p.1)))

/-- Whether steps together fit the free save area (R471, R474). -/
def Dev.fitsSave (d : Dev) (vs : List Nat) : Bool :=
  let sum (h : Half) : Nat := (vs.filterMap d.step?).foldl (fun a x => a + x.need h) 0
  sum .west ≤ d.saveFree .west && sum .east ≤ d.saveFree .east

/-- Add eligible steps until the candidate fits; a step that the free save area cannot hold is passed over (R193). -/
def Dev.victims (d : Dev) (n : Nat) (s : Step) : List Nat → List Nat → Option (List Nat)
  | [], _ => none
  | v :: t, set =>
    if !d.fitsSave (set ++ [v]) then d.victims n s t set
    else if (d.fit s (set ++ [v] ++ d.passed n)).isSome then some (set ++ [v])
    else d.victims n s t (set ++ [v])

/-! ### Restores (R475, R476) -/

/-- Whether a saved step's reserved resources are all free now. -/
def Dev.canRestore (d : Dev) (n : Nat) (s : Step) : Bool :=
  let others := d.sched.steps.filter (fun p => p.1 != n && p.2.holds && !d.away p.1 p.2)
  let half (h : Half) : Bool :=
    let v := Two.get s.vat h
    let free (r : Nat × Nat) : Bool := r.2 == 0 || v.2 == 0 || r.1 + r.2 ≤ v.1 || v.1 + v.2 ≤ r.1
    let cur := (others.map (fun p => (Two.get p.2.image.decl h).cur)).sum
    others.all (fun p => free (Two.get p.2.vat h)) && (Two.get d.sched.half h).clearing.all free &&
    decide (cur + (Two.get s.image.decl h).cur ≤ 1024)
  s.phase == .saved && s.engines.all (fun e => (d.eng e).step.isNone && d.unitUp (engUnit e)) && half .west && half .east

/-- STEP_RESTORE: take the reserved resources back and read the save area. -/
def Dev.startRestore (d : Dev) (n : Nat) (s : Step) : Dev :=
  let d := d.modStep n (fun s => { s with phase := .restoring, victimOf := none })
  let d := foldDev d s.engines (fun d e => d.modEng e (fun x => { x with step := some n, run := .stopped }))
  foldDev d s.domains Dev.wakeDom

/-! ### The walk (R469, R470) -/

/-- A half may grant or restore a step that takes part in the given halves. -/
def Dev.halvesFree (d : Dev) (hs : List Half) : Bool := hs.all (fun h => (Two.get d.sched.half h).waiting.isNone)

/-- R470: another candidate of this class or a higher one has been blocked for 500 µs and still is. -/
def Dev.heldBy (d : Dev) (h : Half) (n : Nat) (s : Step) : Bool :=
  (Two.get d.sched.half h).timedOut.any (fun b =>
    b != n && (match d.step? b with
      | some t => d.isCandidate b t && decide (t.cls ≤ s.cls) && (d.fit t (d.passed b)).isNone
      | none => false))

/-- What the walk visits in a half: restores ahead of the candidates of their class. -/
def Dev.walkList (d : Dev) (h : Half) : List Nat :=
  let cs := (d.sched.steps.filter (fun p => d.isCandidate p.1 p.2 && p.2.inHalf h)).map (fun p =>
    match d.candKey h p.1 p.2 with | c :: t => (c :: 1 :: t, p.1) | [] => ([], p.1))
  let rs := (d.sched.steps.filter (fun p => p.2.phase == .saved && p.2.outcome.isNone && p.2.inHalf h)).map
    (fun p => ([p.2.cls, 0, p.1], p.1))
  sortKeys (rs ++ cs)

def Dev.setHalf (d : Dev) (h : Half) (f : SchedHalf → SchedHalf) : Dev :=
  d.modSched (fun x => { x with half := Two.mod x.half h f })

/-- Visit one step of the walk. -/
def Dev.visit (d : Dev) (h : Half) (n : Nat) : Dev :=
  match d.step? n with
  | none => d
  | some s =>
    if (Two.get d.sched.half h).waiting.isSome then d
    else if s.phase == .saved then
      (if d.halvesFree s.halves && d.canRestore n s then d.startRestore n s else d)
    else if !d.isCandidate n s then d
    else match d.fit s (d.passed n) with
      | some a => if d.halvesFree s.halves && !s.halves.any (fun h => d.heldBy h n s) then d.grantStep n s a else d
      | none =>
        match (if s.halves.any (fun h => d.heldBy h n s) then none else d.victims n s (d.eligible s) []) with
        | some vs =>
          let d := foldDev d vs (fun d v => d.modStep v (fun x => { x with victimOf := some n }))
          d.setHalf h (fun x => { x with waiting := some n })
        | none => d.setHalf h (fun x => { x with blocked := x.blocked ++ [n] })

/-- Whether a step is a victim that has not been saved yet. -/
def Step.pendingFor (s : Step) (n : Nat) : Bool := s.victimOf == some n && s.phase != .saved

/-- A half stops waiting when no victim of its pre-emption is left to save, or its candidate is gone. -/
def Dev.endWaiting (d : Dev) (h : Half) : Dev :=
  match (Two.get d.sched.half h).waiting with
  | none => d
  | some n =>
    let cand := match d.step? n with | some s => d.isCandidate n s | none => false
    if cand && d.sched.steps.any (fun p => p.2.pendingFor n) then d
    else d.setHalf h (fun x => { x with waiting := none })

/-- SCHEDULER_WALK: nothing is granted during containment (R522). -/
def schedWalk (d : Dev) (h : Half) : Dev :=
  if d.faults.contain.isSome then d
  else
    let d := d.endWaiting h
    let l := d.walkList h
    let d := d.setHalf h (fun x => { x with blocked := [] })
    let d := foldDev d l (fun d n => d.visit h n)
    d.setHalf h (fun x => { x with timedOut := x.timedOut.filter x.blocked.contains })

def execSchedulerWalk (h : Half) (s : State) : Res := onDev s (fun d => schedWalk d h)

/-- CANDIDATE_BLOCKED_TIMEOUT (R470). -/
def execCandidateBlockedTimeout (h : Half) (step : Nat) (s : State) : Res :=
  onDev s (fun d => d.setHalf h (fun x =>
    if x.blocked.contains step && !x.timedOut.contains step then { x with timedOut := x.timedOut ++ [step] } else x))

/-! ### Pre-emption, stage by stage (Table 15.2) -/

/-- What an engine resumes as when it stops now (R129); none while an instruction that must complete is in progress. -/
def EngRun.stopAs (r : EngRun) : Option EngRun :=
  match r with
  | .release _ (.issue _ _) => some .running
  | .release _ (.tissue _ _ _) => some .running
  | .release _ _ => none
  | .reply _ _ _ => none
  | .vfence => none
  | .walking => none
  | .vload => none
  | .kended => some .kended
  | .idle => some .idle
  | .stopped => some .stopped
  | _ => some .running

/-- The same for an engine, which has no instruction half performed. -/
def Engine.stopAs (x : Engine) : Option EngRun := if x.mid then none else x.run.stopAs

/-- PREEMPT_START: stages 1 and 2 of one victim. Its engines stop, waits and issues are abandoned, reservations are lost
(R277), and operations that no half has started leave the queues. -/
def preemptStart (d : Dev) (n : Nat) : Dev :=
  match d.step? n with
  | none => d
  | some s =>
    if s.phase != .running || s.victimOf.isNone || !s.engines.all (fun e => (d.eng e).stopAs.isSome) then d
    else
      let d := foldDev d s.engines (fun d e =>
        (d.abandon e).modEng e (fun x => { x with run := x.stopAs.getD .running }))
      let d := d.modCoh (fun c => { c with resvs := c.resvs.filter (fun r => !s.has r.who) })
      ((d.unqueue n).modStep n (fun s => { s with phase := .stopping })).stallEnds s.ctx

def execPreemptStart (step : Nat) (s : State) : Res := onDev s (fun d => preemptStart d step)

/-- The registers that R130 saves; caches and counters are no part of them. -/
def Engine.arch (x : Engine) : Engine := { x with l1d := [], l1i := [] }

/-- PREEMPT_SAVE: once every running share and in-flight piece has completed, and everything else that the step has issued
(log 67), the grant and the engines are saved. -/
def preemptSave (d : Dev) (n : Nat) : Dev :=
  match d.step? n with
  | none => d
  | some s =>
    let ops := d.anvil.ops.any (fun p => p.2.step == n)
    if s.phase != .stopping || s.outcome.isSome || ops || d.inFlight n s then d
    else
      let cells (h : Half) : List Host.Cell :=
        let r := Two.get s.vat h
        cellsIn d.mem (vatOff (0x10000000 * halfIdx h + r.1)) r.2
      let xs := s.engines.flatMap (fun e => (List.range 4).map (fun c =>
        (4 * e.val + c, (tgetD d.tongs (4 * e.val + c) []).map (fun x => { x with parked := none, walking := false }))))
      d.modStep n (fun s =>
        { s with phase := .saving, saveVat := ⟨cells .west, cells .east⟩,
                 saveEng := s.engines.map (fun e => (e.val, (d.eng e).arch)), saveTongs := xs })

def execPreemptSave (step : Nat) (s : State) : Res := onDev s (fun d => preemptSave d step)

/-- Fault records of a saved step's users stay outstanding in the name of the step (R320). -/
def Dev.saveUsers (d : Dev) (n : Nat) (s : Step) : Dev :=
  let mine (u : XUser) : Bool := match u with | .engine e => s.engines.contains e | .tongs e _ => s.engines.contains e | _ => false
  let fix (r : FRec) : FRec :=
    if r.users.any mine then { r with users := r.users.filter (fun u => !mine u) ++ [.phase1 n] } else r
  let f (x : Xlate) : Xlate :=
    { x with recs := x.recs.map (fun p => (p.1, fix p.2)), waiting := (x.waiting.map (fun r => { r with users := r.users.filter (fun u => !mine u) })).filter (fun r => !r.users.isEmpty),
             walks := x.walks.map (fun w => { w with users := w.users.filter (fun u => !mine u.user) }) }
  { d with xlate := ⟨f d.xlate.w, f d.xlate.e⟩ }

/-- Grant a candidate whose pre-emption has completed, where it fits. -/
def Dev.passTo (d : Dev) (n : Nat) : Dev :=
  match d.step? n with
  | none => d
  | some s =>
    match d.fit s (d.passed n) with
    | some a => if d.isCandidate n s && d.halvesFree s.halves && d.faults.contain.isNone then d.grantStep n s a else d
    | none => d

/-- PREEMPT_SAVE_DONE: the save ends; with the last victim, what the victims held passes to the candidate. -/
def preemptSaveDone (d : Dev) (n : Nat) : Dev :=
  match d.step? n with
  | none => d
  | some s =>
    if s.phase != .saving then d
    else
      let d := d.saveUsers n s
      let d := foldDev d s.engines (fun d e => d.modEng e (fun x => { x with step := none, run := .idle, l1d := [], l1i := [], halted := false, stepping := false }))
      let kept : Tbl (List Xfer) :=
        d.tongs.map (fun (p : Nat × List Xfer) => if s.engines.any (fun e => e.val == p.1 / 4) then (p.1, []) else p)
      let d := { d with tongs := kept }
      let d := d.modStep n (fun s => { s with phase := .saved, fetchT := d.count })
      let d := d.modCtx s.ctx (fun c => { c with acct := { c.acct with preempts := c.acct.preempts + 1 } })
      match s.victimOf with
      | none => d
      | some k =>
        let d := (d.endWaiting .west).endWaiting .east
        if d.sched.steps.any (fun p => p.2.pendingFor k) then d else d.passTo k

def execPreemptSaveDone (step : Nat) (s : State) : Res := onDev s (fun d => preemptSaveDone d step)

/-- RESTORE_DONE (R476, R192): Vat bytes, engines and transfers are as they were, once every domain is awake. -/
def restoreDone (d : Dev) (n : Nat) : Dev :=
  match d.step? n with
  | none => d
  | some s =>
    if s.phase != .restoring || !s.domains.all d.awake then d
    else
      let back (d : Dev) (h : Half) : Dev :=
        let r := Two.get s.vat h
        let at0 := vatOff (0x10000000 * halfIdx h + r.1)
        { d with mem := cellsRestore (cellsClear d.mem at0 r.2) (Two.get s.saveVat h) }
      let d := back (back d .west) .east
      let d := foldDev d s.saveEng (fun d p =>
        let e : Fin 128 := Fin.ofNat 128 p.1
        d.setEng e { p.2 with step := some n, cycle := (d.eng e).cycle, instret := (d.eng e).instret })
      let back : Tbl (List Xfer) := s.saveTongs.foldl (fun t (p : Nat × List Xfer) => tput t p.1 p.2) d.tongs
      let d := { d with tongs := back }
      let d := d.countWait s
      d.modStep n (fun s =>
        { s with phase := .running, saveVat := ⟨[], []⟩, saveEng := [], saveTongs := [], victimOf := none, parked := none })

def execRestoreDone (step : Nat) (s : State) : Res := onDev s (fun d => restoreDone d step)

end Sys2Proof.Machine
end

