-- ==== Sys2Proof/Machine/CohBase.lean ====
section
/-!
DEFINITION. What homes, proxy slices and holders share (chapter 08): addresses and keys, sending, tickets, memory at a
home, and answers to requesters.
-/
namespace Sys2Proof.Machine

/-! ### Addresses

A line of this node is named by its local offset. A line of node n has n + 1 above bit 48. -/

def remoteAddr (n off : Nat) : Nat := (n + 1) * 2 ^ 48 + off
def maNode (a : Nat) : Option Nat := if a < 2 ^ 48 then none else some (a / 2 ^ 48 - 1)
def maOff (a : Nat) : Nat := a % 2 ^ 48
def maKey (a : Nat) : Nat := a / 64
def maLine (a : Nat) : Nat := a / 64 * 64

/-- The address that a global address names, when it is UMR of some node. -/
def Dev.maddr (d : Dev) (w : Word) : Option Nat :=
  match d.target true w.toNat with
  | .umr off => some off
  | .remote n off => (match localTarget off with | .umr o => some (remoteAddr n o) | _ => none)
  | _ => none

/-- The home or proxy slice of an address (R246, R247). -/
def Dev.sliceOf (d : Dev) (a : Nat) : Nat :=
  match maNode a with
  | none => d.slice a
  | some _ =>
    let o := maOff a
    16 * fld o 12 1 + Nat.xor (Nat.xor (fld o 7 4) (fld o 13 4)) (Nat.xor (fld o 17 4) (fld o 21 4))

/-! ### Sending -/

/-- Message classes of Table 8.4, as CLS of Table 13.4. -/
def kindClass : NKind → Fin 8
  | .snpShared => 1
  | .snpUnique => 1
  | .snpInv => 1
  | .snpOnce => 1
  | .snpBack => 1
  | .snpAck => 2
  | .compAck => 2
  | .comp => 2
  | .retry => 2
  | .redAck => 2
  | .data => 3
  | .wbDirty => 4
  | .evict => 4
  | .red => 5
  | _ => 0

/-- This node as another node sees it. -/
def Dev.me (d : Dev) : Agent := .node (Fin.ofNat 64 d.chain.node)

/-- Send a coherence message to another node, naming the line by its home. Nothing goes to a node that is not LIVE. -/
def Dev.chainMsg (d : Dev) (n : Nat) (m : NMsg) : Dev :=
  let a := match maNode m.addr with | none => remoteAddr d.chain.node m.addr | some _ => m.addr
  if d.live n then d.chainSend n (kindClass m.kind) .proxy 0 0 m.tag (16 + m.bytes.length) (.coherence { m with addr := a }) (d.sliceOf m.addr)
  else d

/-- Send to a requester or holder: over the Chain when it is another node. -/
def Dev.toAgent (d : Dev) (m : NMsg) : Dev :=
  match m.who with
  | .node n => d.chainMsg n.val m
  | _ => d.send m

/-- A proxy's message to the home of a line. -/
def Dev.toHome (d : Dev) (m : NMsg) : Dev :=
  match maNode m.addr with
  | some n => d.chainMsg n { m with who := d.me }
  | none => d.send m

/-- Take the first message in flight that a command stands for; a command that no unit of this node has in flight comes
from outside, and the command itself says what it carries. -/
def Dev.arriveMsg (d : Dev) (m : NMsg) (same : NMsg → Bool) : NMsg × Dev :=
  match d.take (fun x => x.kind == m.kind && x.who == m.who && maKey x.addr == maKey m.addr && same x) with
  | (some x, e) => (x, e)
  | (none, _) => (m, d)

/-! ### Tickets (R264 to R267) -/

def Dev.ticketOf (d : Dev) (m : NMsg) : Option Ticket :=
  match m.ticket with
  | none => none
  | some t => d.coh.tickets.find? (fun x => x.id == t && x.line == maKey m.addr && x.who == m.who)

def Dev.lineTickets (d : Dev) (key : Nat) : List Ticket := d.coh.tickets.filter (fun x => x.line == key)

/-- The lowest ticket number that a slice has free. -/
def Dev.newTicket (d : Dev) (slice : Nat) : Option (BitVec 10) :=
  let used := (d.coh.tickets.filter (fun x => x.slice == slice)).map (fun x => x.id.toNat)
  ((List.range 1024).find? (fun n => !used.contains n)).map (BitVec.ofNat 10)

/-- Refuse a request with a ticket; none when the slice has no ticket tracker and so takes no request (R267). -/
def Dev.refuseReq (d : Dev) (m : NMsg) : Option Dev :=
  let sl := d.sliceOf m.addr
  match d.newTicket sl with
  | none => none
  | some t =>
    let d := d.modCoh (fun c =>
      { c with tickets := c.tickets ++ [{ slice := sl, id := t, line := maKey m.addr, who := m.who }] })
    some (d.toAgent { m with kind := .retry, was := m.kind, ticket := some t })

def Dev.spendTicket (d : Dev) (m : NMsg) : Dev :=
  match m.ticket with
  | none => d
  | some t => d.modCoh (fun c =>
      { c with tickets := removeFirst (fun x => x.id == t && x.line == maKey m.addr && x.who == m.who) c.tickets })

/-! ### Holders -/

/-- Cores that the snoop filter shows holding a line. -/
def Dev.coreHolders (d : Dev) (key : Nat) : List (Fin 64 × FSt) := tgetD d.coh.filter key []

def Dev.setHolder (d : Dev) (key : Nat) (h : Fin 64) (s : Option FSt) : Dev :=
  let l := (d.coreHolders key).filter (fun p => p.1 != h)
  let l := match s with | some x => l ++ [(h, x)] | none => l
  d.modCoh (fun c => { c with filter := if l.isEmpty then tdel c.filter key else tput c.filter key l })

def nodesOf (v : BitVec 64) : List (Fin 64) := (List.finRange 64).filter (fun n => bit v.toNat n.val)

/-- Holders of a line with whether each owns it: cores, then nodes of the remote directory. -/
def Dev.holders (d : Dev) (key : Nat) : List (Agent × Bool) :=
  let cs := (d.coreHolders key).map (fun p => (Agent.core p.1, p.2 != .s))
  let ns := match tget d.coh.dir key with
    | some e => (nodesOf e.vec).map (fun n => (Agent.node n, e.mode != .shared && e.owner == n.val))
    | none => []
  cs ++ ns

def fstOf : Moesi → FSt
  | .m => .em
  | .e => .em
  | .o => .o
  | _ => .s

/-- Record a holder after a grant: in the filter for a core, in the remote directory for a node. -/
def Dev.noteHolder (d : Dev) (key : Nat) (who : Agent) (st : Moesi) : Dev :=
  match who with
  | .core h => d.setHolder key h (some (fstOf st))
  | .node n =>
    d.modCoh (fun c =>
      let e : DirEnt := (tget c.dir key).getD { vec := 0, mode := .shared, owner := 0, seq := c.dirSeq }
      let e := { e with vec := e.vec ||| BitVec.ofNat 64 (2 ^ n.val) }
      let e := match st with
        | .m | .e => { e with mode := .excl, owner := n.val }
        | .o => { e with mode := .owned, owner := n.val }
        | _ => e
      { c with dir := tput c.dir key e, dirSeq := c.dirSeq + 1 })
  | _ => d

/-- Take a directory entry for a node's request when it is accepted, so that the set never holds more than its ways (R254). -/
def Dev.takeEntry (d : Dev) (key : Nat) : Dev :=
  if thas d.coh.dir key then d
  else d.modCoh (fun c =>
    { c with dir := tput c.dir key { vec := 0, mode := .shared, owner := 0, seq := c.dirSeq }, dirSeq := c.dirSeq + 1 })

/-- A holder gives the line up. An entry left empty is free, unless the line's active transaction needs it (R254). -/
def Dev.dropHolder (d : Dev) (key : Nat) (who : Agent) : Dev :=
  match who with
  | .core h => d.setHolder key h none
  | .node n =>
    d.modCoh (fun c =>
      match tget c.dir key with
      | none => c
      | some e =>
        let v := e.vec &&& ~~~(BitVec.ofNat 64 (2 ^ n.val))
        let e := { e with vec := v, mode := if e.owner = n.val then .shared else e.mode }
        { c with dir := if v = 0 && !thas c.txns key then tdel c.dir key else tput c.dir key e })
  | _ => d

/-- An owner keeps a shared copy: O when dirty, else S. -/
def Dev.shareHolder (d : Dev) (key : Nat) (who : Agent) (dirty : Bool) : Dev :=
  match who with
  | .core h => d.setHolder key h (some (if dirty then .o else .s))
  | .node n =>
    d.modCoh (fun c => { c with dir := tmod c.dir key (fun e =>
      if e.owner = n.val then { e with mode := if dirty then .owned else .shared } else e) })
  | _ => d

/-! ### Memory at a home -/

/-- The system cache holds a line (R249): 65,536 lines of a slice's 4 MiB, oldest first. -/
def Dev.touchSys (d : Dev) (line : Nat) : Dev :=
  d.modCoh (fun c =>
    if c.sysCache.contains line then c
    else
      let l := c.sysCache ++ [line]
      { c with sysCache := l.drop (l.length - 2097152) })

def Dev.dropSys (d : Dev) (line : Nat) : Dev := d.modCoh (fun c => { c with sysCache := c.sysCache.filter (· != line) })

/-- A line as memory holds it, with its poison flag. -/
def Dev.memLine (d : Dev) (a : Nat) : List Byte × Bool := (d.rd (maLine a) 64, d.isPoison (maKey a))

/-- Bring a line's latest data to memory. Data that a cbo.zero has made clears poison; any other leaves it (R279, R371). -/
def Dev.toMemory (d : Dev) (a : Nat) (bs : List Byte) (poison fresh : Bool) : Dev :=
  let d := (d.wr (maLine a) bs).touchSys (maKey a)
  let d := d.markDirty (maLine a)
  if poison then (d.setPoison (maKey a)).fixPsn (frameOf a)
  else if fresh then (d.clrPoison (maKey a)).fixPsn (frameOf a)
  else d

/-- Whether a reservation is one of the unit that a message comes from. -/
def resvOf (m : NMsg) (r : EngResv) : Bool := r.of m.who m.rq

/-- Perform an Atomic in the home's system cache (R273, R277). -/
def Dev.doAtomic (d : Dev) (m : NMsg) : CompBody × Dev :=
  let off := m.addr
  let key := maKey off
  let granule := off / 128
  let put (d : Dev) (w v : Nat) : Dev :=
    (((d.loseResv off m.who m.rq).wr off (leBytes w v)).markDirty off).touchSys key
  match m.atom with
  | .amo op v dbl =>
    let w := if dbl then 8 else 4
    let old := ofLe (d.rd off w)
    (.old (sext (8 * w) old) (d.isPoison key), put d w (amoVal op w old (v.toNat % 2 ^ (8 * w))))
  | .lr dbl =>
    let w := if dbl then 8 else 4
    let sl := d.slice off
    let e : EngResv := { who := m.who, sub := m.rq, granule := granule }
    let d := d.modCoh (fun c =>
      let l := c.resvs.filter (fun r => !resvOf m r)
      let mine := l.filter (fun r => d.slice (128 * r.granule) == sl)
      let l := if 64 ≤ mine.length then removeFirst (fun r => d.slice (128 * r.granule) == sl) l else l
      { c with resvs := l ++ [e] })
    (.old (sext (8 * w) (ofLe (d.rd off w))) (d.isPoison key), d)
  | .sc v dbl =>
    let w := if dbl then 8 else 4
    let ok := d.coh.resvs.any (fun r => resvOf m r && r.granule == granule)
    let d := d.modCoh (fun c => { c with resvs := c.resvs.filter (fun r => !resvOf m r) })
    (.sc ok, if ok then put d w (v.toNat % 2 ^ (8 * w)) else d)

/-- Mark a source's first write of an address as performed. -/
def markFirst (f : OutW → Bool) : List OutW → List OutW
  | [] => []
  | w :: t => if f w then { w with done := true } :: t else w :: markFirst f t

def ownAddr (off : Nat) : Nat := 0xFF * 2 ^ 48 + off

/-- The messages in one virtual channel: those of a class that are on one path (R257). A message of a channel never waits for one
of another, whatever their order in `noc`. -/
def Dev.channel (d : Dev) (p : Path) (c : Fin 8) : List NMsg :=
  d.coh.noc.filter (fun m => d.msgPath m == p && kindClass m.kind == c)

/-- Perform a write at its home: a whole line clears poison (R279). -/
def Dev.doWrite (d : Dev) (m : NMsg) : Dev :=
  let d := (((d.loseResv m.addr m.who m.rq).wr m.addr m.bytes).markDirty m.addr).touchSys (maKey m.addr)
  let d := if m.kind = .wrLine then (d.clrPoison (maKey m.addr)).fixPsn (frameOf m.addr) else d
  { d with writes := markFirst (fun w => w.src == m.who && !w.done && !w.held && w.addr == ownAddr m.addr && w.red.isNone) d.writes }

/-- The event of R26 for a request of another node that a home refuses, with the port toward the node. -/
def Dev.noteRefusal (d : Dev) (n : Nat) (st : Status) : Dev :=
  let p := ((d.chain.route d.chain.node n).bind (fun r => d.chain.portTo r.1)).getD 0
  d.raise (evt 11 st .hub p n 0)

/-- The answer to a request: Comp on this node, an answer or Comp over the Chain. A write or atomic of another node that
came as an access of its own carries a tag. A refusal of another node's request raises an event besides (R26, R356). -/
def Dev.answer (d : Dev) (m : NMsg) (b : CompBody) : Dev :=
  match m.who with
  | .node n =>
    let d := match b with
      | .refused st => if st == Status.unmapped || st == Status.noTier then d.noteRefusal n.val st else d
      | _ => d
    let ans (st : Status) (bs : List Byte) : Dev :=
      if d.live n.val then d.chainSend n.val 2 .proxy 0 0 m.tag (16 + bs.length) (.answer (BitVec.ofNat 32 m.tag) st bs) (d.sliceOf m.addr) else d
    if m.tag = 0 then d.chainMsg n.val { m with kind := .comp, body := b, bytes := [] }
    else match b with
      | .old v p => ans (if p then .poison else .ok) (leBytes 8 v.toNat)
      | .lr v => ans .ok (leBytes 8 v.toNat)
      | .sc ok => ans .ok (leBytes 8 (if ok then 0 else 1))
      | .refused st => ans st []
      | _ => ans .ok []
  | _ => d.send { m with kind := .comp, was := m.kind, body := b, bytes := [] }

/-- Data to a requester (R261). -/
def Dev.sendData (d : Dev) (m : NMsg) (bs : List Byte) (st : Moesi) (dirty poison : Bool) (fresh : Bool := false) : Dev :=
  d.toAgent { kind := .data, who := m.who, addr := maLine m.addr, bytes := bs, st := st, dirty := dirty, poison := poison,
              tag := m.tag, fresh := fresh }

end Sys2Proof.Machine
end

