-- ==== Sys2Proof/Machine/CohHome.lean ====
section
/-!
DEFINITION. Transactions of home slices and proxy slices (R246 to R277): acceptance and refusal, the FWDs of Table 8.6,
their answers, memory-side reductions (Table 12.4), and what a proxy does for its node.
-/
namespace Sys2Proof.Machine

/-! ### Transactions and proxy lines -/

def Dev.setTxn (d : Dev) (key : Nat) (t : Txn) : Dev := d.modCoh (fun c => { c with txns := tput c.txns key t })

/-- A transaction ends; an entry that it took and left empty is free again. -/
def Dev.dropTxn (d : Dev) (key : Nat) : Dev :=
  d.modCoh (fun c =>
    { c with
      txns := tdel c.txns key
      dir := match tget c.dir key with | some e => if e.vec = 0 then tdel c.dir key else c.dir | none => c.dir })
def Dev.busyLine (d : Dev) (key : Nat) : Bool := thas d.coh.txns key

def Dev.proxyLine (d : Dev) (key : Nat) : ProxyLine := tgetD d.coh.proxy key {}
def Dev.modProxy (d : Dev) (key : Nat) (f : ProxyLine → ProxyLine) : Dev :=
  let l := f (d.proxyLine key)
  d.modCoh (fun c => { c with proxy := if l = {} then tdel c.proxy key else tput c.proxy key l })

/-- A request or write-back that waits at its slice. -/
def Dev.holdMsg (d : Dev) (m : NMsg) : Dev :=
  d.modCoh (fun c => { c with held := if c.held.contains m then c.held else c.held ++ [m] })

/-- A RED that waits in the home's reduction queue (R274). -/
def Dev.queueRed (d : Dev) (m : NMsg) : Dev := d.modCoh (fun c => { c with redQ := c.redQ ++ [m] })

/-! ### Memory-side adders (R274, R377 to R379) -/

def redWidth : RType → Nat
  | .bf16 => 2
  | .fp16 => 2
  | .int64 => 8
  | .uint64 => 8
  | _ => 4

/-- An exact sum rounded once to the element's format; every NaN is the canonical one (R378). -/
def gridAdd (g : Grid) (e x : Nat) : Nat := g.bits (g.rne ((g.val e).add (g.val x)))

/-- Table 12.4. MIN and MAX are unsigned. -/
def redElem (op : RedOp) (ty : RType) (e x : Nat) : Nat :=
  match op with
  | .min => min e x
  | .max => max e x
  | .add =>
    match ty with
    | .fp32 => gridAdd fp32 e x
    | .bf16 => gridAdd bf16 e x
    | .fp16 => gridAdd fp16 e x
    | t => (e + x) % 2 ^ (8 * redWidth t)

/-- Contributions combined with the elements they meet, element by element. -/
def redBytes (op : RedOp) (ty : RType) : Nat → List Byte → List Byte → List Byte
  | 0, old, _ => old
  | k + 1, old, xs =>
    let w := redWidth ty
    if old.length < w || xs.length < w then old
    else leBytes w (redElem op ty (ofLe (old.take w)) (ofLe (xs.take w))) ++ redBytes op ty k (old.drop w) (xs.drop w)

/-- Apply a RED at the adder of its line's backing and acknowledge it. A poisoned line stays poisoned (R279). -/
def Dev.applyRed (d : Dev) (m : NMsg) : Dev :=
  let key := maKey m.addr
  let p := d.isPoison key
  let new := redBytes m.red m.ty m.bytes.length (d.rd m.addr m.bytes.length) m.bytes
  let d := (((d.loseResv m.addr m.who m.rq).wr m.addr new).markDirty m.addr).heatUp m.addr
  let d := d.dropSys key
  let d := d.redEnter key
  match m.who with
  | .node n =>
    if m.tag ≠ 0 && d.live n.val then
      d.chainSend n.val 2 .proxy 0 0 m.tag 0 (.answer (BitVec.ofNat 32 m.tag) (if p then .poison else .ok) []) (d.sliceOf m.addr)
    else d
  | _ =>
    { (d.send { m with kind := .redAck, poison := p, bytes := [] }) with
      writes := markFirst (fun w => w.src == m.who && !w.done && !w.held && w.addr == ownAddr m.addr && w.red.isSome) d.writes }

/-! ### FWDs (Table 8.6) -/

/-- The FWDs that a request, a reduction, a directory replacement or a home's FWD to a proxy causes, by holders and
whether each owns the line. -/
def fwdPlan (k : NKind) (hs : List (Agent × Bool)) : List (NKind × Agent) :=
  let owners (f : NKind) := (hs.filter (·.2)).map (fun p => (f, p.1))
  match k with
  | .rdShared => owners .snpShared
  | .snpShared => owners .snpShared
  | .rdOnce => owners .snpOnce
  | .snpOnce => owners .snpOnce
  | .claimUnique => hs.map (fun p => (NKind.snpInv, p.1))
  | .wrLine => hs.map (fun p => (NKind.snpInv, p.1))
  | .snpInv => hs.map (fun p => (NKind.snpInv, p.1))
  | .wbDirty => hs.map (fun p => (NKind.snpInv, p.1))
  | _ => hs.map (fun p => (if p.2 then NKind.snpUnique else NKind.snpInv, p.1))

/-- Whom the data of a FWD goes to: the requester, or nobody when the home is the requester or answers a tagged read. -/
def fwdFor (m : NMsg) : Option Agent :=
  match m.kind with
  | .rdShared => some m.who
  | .rdUnique => some m.who
  | .rdOnce => if m.tag = 0 then some m.who else none
  | _ => none

/-- The answer to a read: Data, or an answer over the Chain that carries the bytes asked for. -/
def Dev.answerRead (d : Dev) (m : NMsg) : Dev :=
  let (bs, p) := d.memLine m.addr
  match m.who with
  | .node n =>
    if m.tag = 0 then d.sendData m bs .i false p
    else if d.live n.val then
      d.chainSend n.val 3 .proxy 0 0 m.tag (16 + bs.length)
        (.answer (BitVec.ofNat 32 m.tag) (if p then .poison else .ok) (if p then [] else bs)) (d.sliceOf m.addr)
    else d
  | _ => d.sendData m bs .i false p

/-- A transaction waits for its requester's CompAck, unless that has come already (R260). -/
def Dev.awaitAck (d : Dev) (key : Nat) (t : Txn) : Dev :=
  if t.acked then d.dropTxn key else d.setTxn key { t with ack := true, data := [], dirty := false, poison := false, fresh := false, wb := false }

/-- An owner that was asked for its data of a line that memory has lost had none any more: the line is lost (R383, log 184). -/
def Dev.noCopy (d : Dev) (key : Nat) : Dev := d.loseLine (64 * key) 0 (dieOf (d.homeHalf (64 * key)))

/-- What a home does once every answer it waits for has come (Table 8.6, last columns). -/
def Dev.finishHome (d : Dev) (key : Nat) (t : Txn) : Dev :=
  let m := t.req
  let (bs, p) := d.memLine m.addr
  let wait (d : Dev) : Dev := d.awaitAck key t
  match m.kind with
  | .rdShared =>
    let st : Moesi := if t.supplied || (d.holders key).any (fun x => x.1 != m.who) then .s else .e
    let d := if t.supplied then d else d.sendData m bs st false p
    wait (d.noteHolder key m.who st)
  | .rdUnique =>
    let d := if t.supplied then d else d.sendData m bs .e false p
    wait ((match m.who with | .node _ => d.loseResv m.addr m.who m.rq | _ => d).noteHolder key m.who .e)
  | .claimUnique =>
    let own := (d.holders key).any (fun x => x.1 == m.who && x.2)
    let d := d.answer m (.grant (if own then .m else .e))
    wait ((match m.who with | .node _ => d.loseResv m.addr m.who m.rq | _ => d).noteHolder key m.who .e)
  | .rdOnce =>
    if t.supplied then wait d
    else if m.tag = 0 then wait (d.answerRead m)
    else (d.answerRead m).dropTxn key
  | .atomic => let (b, d) := d.doAtomic m; (d.answer m b).dropTxn key
  | .red => (d.applyRed m).dropTxn key
  | .snpInv => d.dropTxn key
  | .snpOnce => if t.supplied || t.wb then d.dropTxn key else (d.dropTxn key).noCopy key
  | .snpBack =>
    (d.modCoh (fun c =>
      { c with dir := tdel c.dir key, backInv := Two.mod c.backInv (d.homeHalf m.addr) (· + 1) })).dropTxn key
  | _ => ((d.doWrite m).answer m .write).dropTxn key

/-! ### Proxies (R248, R252, R270 to R273) -/

/-- Send the one request of a line to its home. -/
def Dev.ask (d : Dev) (m : NMsg) (k : NKind) : Dev :=
  let d := d.modProxy (maKey m.addr) (fun l => { l with out := some m })
  let whole := k != .atomic && k != .wrLine && k != .wrPart
  d.toHome { m with kind := k, rq := some m.who, tag := 0, ticket := none, bytes := if whole then [] else m.bytes,
                    addr := if whole then maLine m.addr else m.addr }

/-- WB credits that this node has left toward a slice of a home (R258, R272): sixteen, less its write-backs on their way. A node does
not know the home half of another node's frame, so that the two slices of one number share the sixteen (log 178). -/
def Dev.nodeCredit (d : Dev) (key : Nat) : Bool :=
  let a := 64 * key
  decide ((d.coh.proxy.filter (fun p => p.2.wbOut && p.1 != key && maNode (64 * p.1) == maNode a && d.sliceOf (64 * p.1) % 16 == d.sliceOf a % 16 &&
    !d.coh.held.any (fun m => m.kind == .wbDirty && maKey m.addr == p.1))).length < 16)

/-- A node's WbDirty leaves for the home, or waits for a credit. -/
def Dev.sendWb (d : Dev) (key : Nat) (m : NMsg) : Dev :=
  let d := d.modProxy key (fun l => { l with mode := none, wbOut := true })
  if d.nodeCredit key then d.toHome m else d.holdMsg m

/-- A node's Evict leaves for the home; no request of the node for the line leaves until its Comp is back. -/
def Dev.sendEvict (d : Dev) (key : Nat) : Dev :=
  (d.modProxy key (fun l => { l with mode := none, evOut := true })).toHome { kind := .evict, who := .proxy, addr := 64 * key }

/-- Data from a proxy's node: to another node, or to a unit of the home's node. -/
def Dev.proxySupply (d : Dev) (home : Nat) (r : Agent) (m : NMsg) : Dev :=
  match r with
  | .node b => d.chainMsg b.val { m with who := r }
  | _ => d.chainMsg home { m with who := r }

/-- A proxy's one answer to a home's FWD (R270, R272): data to the requester, or with the acknowledgement when the home is
the requester, and the mode that the node keeps. A FWD that leaves a copy, met by a core's write-back, finds the node giving the
line up: its data goes on to the home. -/
def Dev.respond (d : Dev) (key : Nat) (t : Txn) : Dev :=
  let m := t.req
  let home := (maNode m.addr).getD 0
  let l := d.proxyLine key
  let gone := t.wb && (m.kind = .snpShared || m.kind = .snpOnce)
  let keeps := !gone && (m.kind = .snpShared || m.kind = .snpOnce)
  let has := !t.data.isEmpty
  let st : Moesi := match m.kind with
    | .snpShared => .s
    | .snpOnce => .i
    | _ => if t.dirty then .m else .e
  let dat : NMsg := { kind := .data, who := .proxy, addr := maLine m.addr, bytes := t.data, st := st, dirty := t.dirty && !gone,
                      poison := t.poison, tag := m.tag, fresh := t.fresh }
  let ack : NMsg := { kind := .snpAck, who := .proxy, addr := maLine m.addr, dirty := t.dirty && !gone, poison := t.poison,
                      supplied := has && (!gone || m.rq.isSome), wbSent := gone || (!has && l.wbOut), fresh := t.fresh,
                      st := if keeps && !(d.coreHolders key).isEmpty then .s else .i }
  let mode : Option Mode :=
    if !keeps then none
    else if (d.coreHolders key).isEmpty then none
    else if m.kind = .snpOnce then l.mode
    else if has && t.dirty then some .owned
    else some .shared
  let d := (d.dropTxn key).modProxy key (fun l => { l with mode := mode })
  if m.kind = .snpBack then
    if has && t.dirty then d.sendWb key { dat with kind := .wbDirty, was := .snpBack } else d.toHome ack
  else
    let d := if gone then d.sendWb key { dat with kind := .wbDirty, dirty := true, st := .i } else d
    match m.rq with
    | some r => (if has then d.proxySupply home r dat else d).toHome ack
    | none => if m.kind = .snpInv || gone then d.toHome ack else d.toHome { ack with bytes := t.data }

/-- The node gives a dirty line up: its other copies go first, then the WbDirty leaves for the home. -/
def Dev.giveUp (d : Dev) (m : NMsg) : Dev :=
  let key := maKey m.addr
  let hs := (d.coreHolders key).map (fun p => Agent.core p.1)
  if hs.isEmpty then d.sendWb key m
  else foldDev (d.setTxn key { req := m, waits := hs }) hs
    (fun d a => d.toAgent { kind := .snpInv, who := a, addr := maLine m.addr })

/-- What a proxy slice does once its node's cores have answered. A request that the node cannot serve waits to be sent to
the home. -/
def Dev.finishProxy (d : Dev) (key : Nat) (t : Txn) : Dev :=
  let m := t.req
  let wait (d : Dev) : Dev := d.awaitAck key t
  match m.who with
  | .core _ =>
    (match m.kind with
     | .rdShared =>
       if t.supplied then wait (d.noteHolder key m.who .s)
       else
         let d := (d.dropTxn key).holdMsg { m with bytes := [] }
         if t.data.isEmpty then d else d.giveUp { m with kind := .wbDirty, bytes := t.data, poison := t.poison, fresh := t.fresh }
     | .rdUnique =>
       if t.supplied then wait (d.noteHolder key m.who .e)
       else if m.bytes.isEmpty && t.data.isEmpty then (d.dropTxn key).holdMsg m
       else
         let st : Moesi := if t.dirty then .m else m.st
         wait ((d.sendData m (if t.data.isEmpty then m.bytes else t.data) st (t.dirty || m.dirty) (t.poison || m.poison)
           (t.fresh || m.fresh)).noteHolder key m.who .e)
     | .rdOnce => if t.supplied then wait d else (d.dropTxn key).ask m .rdOnce
     | .claimUnique =>
       let own := (d.coreHolders key).any (fun x => Agent.core x.1 == m.who && x.2 != .s)
       if t.poison then
         ((d.dropTxn key).holdMsg { m with kind := .rdUnique }).giveUp { m with kind := .wbDirty, who := .proxy, bytes := t.data, poison := true }
       else
       wait ((d.answer m (.grant (if own || t.dirty then .m else .e))).noteHolder key m.who .e)
     | .wbDirty =>
       (d.dropTxn key).sendWb key { m with bytes := if t.data.isEmpty then m.bytes else t.data }
     | _ =>
       let had := (d.proxyLine key).mode.isSome
       let dat : NMsg := { kind := .wbDirty, who := .proxy, addr := maLine m.addr, bytes := t.data, poison := t.poison, fresh := t.fresh }
       let d := (d.dropTxn key).modProxy key (fun l => { l with mode := none })
       let d := if t.dirty then d.sendWb key dat else if had then d.sendEvict key else d
       d.ask m m.kind)
  | .proxy => (d.dropTxn key).sendWb key m
  | _ =>
    let hs := (d.coreHolders key).map (fun p => Agent.core p.1)
    if t.wb && (m.kind = .snpShared || m.kind = .snpOnce) && !hs.isEmpty then
      foldDev (d.setTxn key { t with waits := hs }) hs (fun d a => d.toAgent { kind := .snpInv, who := a, addr := maLine m.addr })
    else d.respond key t

/-- Whether the end of a home's transaction reads or changes memory, which waits for the frame (Table 11.5, R355). -/
def Txn.needsFrame (t : Txn) : Bool :=
  match t.req.kind with
  | .wrLine => true
  | .wrPart => true
  | .atomic => true
  | .red => true
  | .rdShared => !t.supplied
  | .rdUnique => !t.supplied
  | .rdOnce => !t.supplied || t.req.tag != 0
  | _ => false

/-- The requester of a transaction is gone: dirty data that was on its way to it is lost. A proxy tells the home by a poisoned
write-back, and gives up what the node collected. -/
def Dev.endAbandoned (d : Dev) (key : Nat) (t : Txn) : Dev :=
  let lost := t.supplied && t.req.kind = .rdUnique
  let m : NMsg := { kind := .wbDirty, who := .proxy, addr := maLine t.req.addr, bytes := t.data, poison := t.poison, fresh := t.fresh }
  let d := d.dropTxn key
  match maNode t.req.addr with
  | none => if lost then d.loseLine t.req.addr 2 (dieOf (d.homeHalf t.req.addr)) else d
  | some _ =>
    if lost then d.giveUp { m with bytes := List.replicate 64 0, poison := true }
    else if t.dirty && !t.data.isEmpty then d.giveUp m else d

/-- End or advance a transaction that waits for nothing more from its holders. One of this node's memory that the frame holds goes
on when the frame lets it. -/
def Dev.tryFinish (d : Dev) (key : Nat) : Dev :=
  match tget d.coh.txns key with
  | some t =>
    if t.ack || !t.waits.isEmpty || !t.wbs.isEmpty then d
    else if t.abandoned then d.endAbandoned key t
    else match maNode t.req.addr with
      | none =>
        if t.needsFrame then
          match d.frameGate t.req.addr with
          | .go d => d.finishHome key t
          | .hold d => d
          | .refuse st => (d.answer t.req (.refused st)).dropTxn key
        else d.finishHome key t
      | some _ => d.finishProxy key t
  | none => d

/-- Begin a transaction with what its slice has collected of the line already (`old`): a claim by a requester that no longer holds
the line is a request for data. -/
def Dev.startWith (d : Dev) (m : NMsg) (old : Txn) : Dev :=
  let key := maKey m.addr
  let hs := d.holders key
  let m := if m.kind = .claimUnique && !hs.any (fun p => p.1 == m.who) then { m with kind := .rdUnique } else m
  let own := m.kind = .rdShared || m.kind = .rdUnique || m.kind = .claimUnique
  let hs := hs.filter (fun p => !(own && p.1 == m.who))
  let hs := if m.kind = .snpBack && (maNode m.addr).isNone then
      hs.filter (fun p => match p.1 with | .node _ => true | _ => false) else hs
  let fs := if m.kind = .snpBack && (maNode m.addr).isNone then hs.map (fun p => (NKind.snpBack, p.1)) else fwdPlan m.kind hs
  let far := match m.who with | .node _ => own && (maNode m.addr).isNone | _ => false
  let d := (if far then d.takeEntry key else d).setTxn key { old with req := m, waits := fs.map (·.2) }
  let d := foldDev d fs (fun d f => d.toAgent { kind := f.1, who := f.2, addr := maLine m.addr, rq := fwdFor m })
  d.tryFinish key

/-- Begin a transaction. -/
def Dev.startTxn (d : Dev) (m : NMsg) : Dev := d.startWith m { req := m, waits := [] }

/-! ### Acceptance at a home (R254, R255, R264 to R267, R355) -/

def dirSet (key : Nat) : Nat := key % 16384

/-- The entries of the directory set of a line, in its slice. -/
def Dev.dirWays (d : Dev) (key : Nat) : List (Nat × DirEnt) :=
  d.coh.dir.filter (fun p => dirSet p.1 == dirSet key && d.slice (64 * p.1) == d.slice (64 * key))

/-- Whether a request needs a directory entry and its set is full. -/
def Dev.dirFull (d : Dev) (m : NMsg) : Bool :=
  match m.who with
  | .node _ =>
    (m.kind = .rdShared || m.kind = .rdUnique || m.kind = .claimUnique) && !thas d.coh.dir (maKey m.addr) &&
      decide (16 ≤ (d.dirWays (maKey m.addr)).length)
  | _ => false

/-- The least recently allocated entry of a list. -/
def oldest : List (Nat × DirEnt) → Option (Nat × DirEnt)
  | [] => none
  | p :: t => match oldest t with
    | some q => if q.2.seq < p.2.seq then some q else some p
    | none => some p

/-- R255: give up the least recently allocated entry without an active transaction, one of a set at a time. -/
def Dev.backInvalidate (d : Dev) (key : Nat) : Dev :=
  if (d.dirWays key).any (fun p => match tget d.coh.txns p.1 with | some t => t.req.kind == .snpBack | none => false) then d
  else match oldest ((d.dirWays key).filter (fun p => !d.busyLine p.1)) with
  | some v => d.startTxn { kind := .snpBack, who := .firmware, addr := 64 * v.1 }
  | none => d

/-- The port of a slice's arbiter that a requester's messages come by (R268). -/
def portOf : Agent → Nat
  | .core h => h.val
  | .node n => 64 + n.val
  | .engine e => 128 + e.val
  | .tongs e c => 256 + 4 * e.val + c.val
  | .aperture _ => 768
  | .region _ => 769
  | _ => 770

/-- A slice takes a request up: its round-robin pointer stands at the port it served (R268). -/
def Dev.served (d : Dev) (m : NMsg) : Dev := d.modCoh (fun c => { c with rr := tput c.rr (d.sliceOf m.addr) (portOf m.who) })

/-- A plain write of another node's unit. Its home keeps the order in which they arrive (R222), so that it waits at the home
rather than being refused, as R264 allows. -/
def farWrite (m : NMsg) : Bool :=
  m.tag != 0 && (m.kind == .wrLine || m.kind == .wrPart) && (match m.who with | .node _ => true | _ => false)

/-- A home receives a request: it starts it, holds it, or refuses it with a ticket. `old` marks one that it has taken
already. A slice without a free ticket tracker takes no request from the network (R267), and tickets of one line start in the
order of their issue (R265). -/
def Dev.admitHome (d : Dev) (m : NMsg) (old : Bool) : Dev :=
  let key := maKey m.addr
  let tick := (d.ticketOf m).isSome
  let sl := d.slice m.addr
  if !old && !tick && (d.newTicket sl).isNone then d.send m
  else match d.frameGate m.addr with
  | .refuse st => (d.spendTicket m).answer m (.refused st)
  | .hold d => d.holdMsg m
  | .go d =>
    let full := decide (448 ≤ (d.coh.txns.filter (fun p => d.sliceOf (64 * p.1) == sl)).length)
    if d.busyLine key || full then
      if old || tick || farWrite m then d.holdMsg m
      else match d.refuseReq m with
        | some d => d
        | none => d.send m
    else if !((d.lineTickets key).head?.map (fun t => some t.id == m.ticket && t.who == m.who)).getD true then d.holdMsg m
    else if d.dirFull m then (d.backInvalidate key).holdMsg m
    else (((d.spendTicket m).heatUp m.addr).served m).startTxn m

/-- A home receives a RED: applied at once when nothing caches the line, and after the copies are gone otherwise. -/
def Dev.admitRed (d : Dev) (m : NMsg) : Dev :=
  let key := maKey m.addr
  match d.frameGate m.addr with
  | .refuse st => d.answer m (.refused st)
  | .hold d => d.queueRed m
  | .go d => if d.busyLine key then d.queueRed m else d.startTxn m

/-- A core's request at its node's proxy slice: served on the node when the mode allows it, and else sent to the home, one
request for a line at a time. -/
def Dev.admitProxy (d : Dev) (m : NMsg) : Dev :=
  let key := maKey m.addr
  let l := d.proxyLine key
  let hs := d.holders key
  let mine := hs.any (fun p => p.1 == m.who)
  let own := hs.any (fun p => p.2 && p.1 != m.who)
  if !d.live ((maNode m.addr).getD 0) then d.answer m (.refused .unreachable)
  else if d.busyLine key || l.out.isSome || l.wbOut || l.evOut then d.holdMsg m
  else match m.kind with
    | .rdShared => if own then d.startTxn m else d.ask m .rdShared
    | .claimUnique =>
      if mine then (if l.mode = some .excl then d.startTxn m else d.ask m .claimUnique)
      else if own then (if l.mode = some .excl then d.startTxn m else d.ask { m with kind := .rdUnique } .claimUnique)
      else d.ask { m with kind := .rdUnique } .rdUnique
    | .rdUnique =>
      if own then (if l.mode = some .excl then d.startTxn m else d.ask m .claimUnique) else d.ask m .rdUnique
    | .rdOnce => if hs.any (fun p => p.2) then d.startTxn m else d.ask m .rdOnce
    | k => if hs.isEmpty then d.ask m k else d.startTxn m

/-- A write-back has come: the transaction that waits for it goes on. One that a node sent for a SnpBack is its answer (`back`); one
that merely crosses the SnpBack is not (R255). -/
def Dev.wbCame (d : Dev) (key : Nat) (who : Agent) (back : Bool := false) : Dev :=
  match tget d.coh.txns key with
  | some t =>
    let t := { t with
      wbs := t.wbs.filter (· != who)
      waits := if back && t.req.kind = .snpBack then t.waits.filter (· != who) else t.waits }
    (d.setTxn key t).tryFinish key
  | none => d

/-- A write-back reaches memory, and what waits for it goes on (R263); until then it waits for a fill or a migration in its
reserved buffer (R353, R355). The data of a frame that has been freed is discarded (R336). -/
def Dev.applyWb (d : Dev) (m : NMsg) : Dev :=
  let key := maKey m.addr
  let back := m.was == .snpBack
  if m.bytes.length ≠ 64 then d.wbCame key m.who back
  else match d.frameGate m.addr with
    | .go d => (d.toMemory m.addr m.bytes m.poison m.fresh).wbCame key m.who back
    | .hold d => d.holdMsg m
    | .refuse .noTier => d.holdMsg m
    | .refuse _ => d.wbCame key m.who back

/-- A home's FWD at the proxy (R270): it waits in its buffer while the hold lasts (R271) and while the node's cores still owe the
answers of their own FWDs. A transaction that only a core's CompAck would end gives way to it, with what it has collected. -/
def Dev.proxyFwd (d : Dev) (m : NMsg) : Dev :=
  let key := maKey m.addr
  let t := tget d.coh.txns key
  if (d.proxyLine key).hold || (match t with | some t => !t.ack | none => false) then d.holdMsg m
  else
    let old : Txn := t.getD { req := m, waits := [] }
    (d.dropTxn key).startWith { m with who := .node (Fin.ofNat 64 ((maNode m.addr).getD 0)) }
      { req := m, waits := [], data := old.data, dirty := old.wb && old.dirty, poison := old.wb && old.poison, fresh := old.fresh, wb := old.wb }

/-- Take up a message that waited at its slice. -/
def Dev.readmit (d : Dev) (m : NMsg) : Dev :=
  match maNode m.addr with
  | some _ =>
    if m.kind = .wbDirty then (if d.nodeCredit (maKey m.addr) then d.toHome m else d.holdMsg m)
    else if kindClass m.kind = 1 then d.proxyFwd m
    else d.admitProxy m
  | none =>
    match m.kind with
    | .snpInv => if d.busyLine (maKey m.addr) then d.holdMsg m else d.startTxn m
    | .snpOnce => if d.busyLine (maKey m.addr) then d.holdMsg m else d.startTxn m
    | .red => d.admitRed m
    | .wbDirty => d.applyWb m
    | _ => d.admitHome m true

/-- How far a request's port stands behind the pointer of its slice (R268). -/
def Dev.turn (d : Dev) (m : NMsg) : Nat := (portOf m.who + 2047 - tgetD d.coh.rr (d.sliceOf m.addr) 1023) % 1024

/-- Insert a request before the first that stands further behind the pointer. -/
def putTurn (f : NMsg → Nat) (m : NMsg) : List NMsg → List NMsg
  | [] => [m]
  | x :: t => if f m < f x then m :: x :: t else x :: putTurn f m t

/-- Requests in the order in which the arbiters take them, each port's own in the order of their arrival. -/
def byTurn (f : NMsg → Nat) (l : List NMsg) : List NMsg := l.foldl (fun a m => putTurn f m a) []

/-- Take up what waits: transactions that their frames hold, write-backs and FWDs, then ticket holders in the order of their tickets
(R265), and the rest by the arbiters (R268). -/
def Dev.retryHeld (d : Dev) : Dev :=
  let first (m : NMsg) : Bool := m.kind == .wbDirty || kindClass m.kind == 1
  let d := foldDev d (d.coh.txns.map (·.1)) Dev.tryFinish
  let wbs := d.coh.held.filter first
  let rest := d.coh.held.filter (fun m => !first m)
  let tk := d.coh.tickets.filterMap (fun t => rest.find? (fun m => m.ticket == some t.id && m.who == t.who && maKey m.addr == t.line))
  let all := wbs ++ tk ++ byTurn d.turn (rest.filter (fun m => !tk.contains m)) ++ d.coh.redQ
  foldDev (d.modCoh (fun c => { c with held := [], redQ := [] })) all Dev.readmit

/-! ### Answers -/

/-- A holder's SnpAck (R263): its data, its flags, and what it still holds. One that a write-back or notice of the holder has
overtaken leaves the holders as they are. Data for the home waits, as a write-back does, while the frame is held. -/
def Dev.snpAcked (d : Dev) (m : NMsg) : Dev :=
  let key := maKey m.addr
  match tget d.coh.txns key with
  | none => d
  | some t =>
    if !t.waits.contains m.who then d
    else
      let held := (d.holders key).any (fun p => p.1 == m.who)
      let wb := m.wbSent && (held || d.coh.held.any (fun x => x.kind == .wbDirty && x.who == m.who && maKey x.addr == key))
      let far := (maNode m.addr).isSome
      let data := !far && m.bytes.length = 64
      let go := match d.frameGate m.addr with | .go _ => true | _ => false
      let t : Txn :=
        { t with
          waits := removeFirst (· == m.who) t.waits
          wbs := if wb || (data && !go) then t.wbs ++ [m.who] else t.wbs
          dirty := t.dirty || m.dirty
          poison := t.poison || m.poison
          supplied := t.supplied || m.supplied
          fresh := t.fresh || (far && m.fresh)
          wb := t.wb || (!far && wb)
          data := if far && !m.bytes.isEmpty then m.bytes else t.data }
      let d := if !data then d else if go then d.toMemory m.addr m.bytes m.poison m.fresh else d.holdMsg { m with kind := .wbDirty }
      let d := if wb || !held then d
        else match t.req.kind with
          | .rdShared => if m.supplied || m.st = .s then d.shareHolder key m.who m.dirty else d.dropHolder key m.who
          | .snpShared => if m.supplied || m.st = .s then d.shareHolder key m.who m.dirty else d.dropHolder key m.who
          | .rdOnce => if m.supplied || m.st = .s then d else d.dropHolder key m.who
          | .snpOnce => if m.supplied || m.st = .s then d else d.dropHolder key m.who
          | _ => d.dropHolder key m.who
      ((d.setTxn key t).tryFinish key).retryHeld

/-- A transaction that awaited only its CompAck ends; a write-back that a proxy took meanwhile goes on to the home (R269). -/
def Dev.endAck (d : Dev) (key : Nat) (t : Txn) : Dev :=
  let d := d.dropTxn key
  if t.wb && (maNode t.req.addr).isSome then
    d.giveUp { kind := .wbDirty, who := .proxy, addr := maLine t.req.addr, bytes := t.data, poison := t.poison, fresh := t.fresh }
  else d

/-- The requester's CompAck ends the transaction (R260); at a proxy it also ends the hold (R271). One that an owner's Data has
brought on before the owner's SnpAck came is kept for the end. -/
def Dev.compAcked (d : Dev) (m : NMsg) : Dev :=
  let key := maKey m.addr
  match tget d.coh.txns key with
  | some t =>
    if t.req.who != m.who then d
    else if t.ack then
      let d := d.endAck key t
      (if (maNode m.addr).isSome then d.modProxy key (fun l => { l with hold := false }) else d).retryHeld
    else if (fwdFor t.req).isSome then d.setTxn key { t with acked := true }
    else d
  | none => d

/-- Whether a slice has to do with a holder's write-back or eviction notice of a line. -/
def Dev.knows (d : Dev) (key : Nat) (who : Agent) : Bool :=
  (d.holders key).any (fun p => p.1 == who) ||
  (match tget d.coh.txns key with | some t => t.waits.contains who || t.wbs.contains who | none => false) ||
  (match who with
   | .core h => (match tget (d.core h).lines key with
     | some l => l.st == .miA || l.st == .siA || l.st == .eiA
     | none => false)
   | _ => false)

/-- WbDirty at a home (R268, R269): accepted whatever goes on with its line. That of a node that the directory does not show any more
has lost its line meanwhile (R255, R336). -/
def Dev.homeWb (d : Dev) (m : NMsg) : Dev :=
  let key := maKey m.addr
  if !d.knows key m.who then
    (match m.who with
     | .node _ => d.toAgent { m with kind := .comp, body := .evicted, bytes := [] }
     | _ => d)
  else
    let d := d.dropHolder key m.who
    let d := d.toAgent { m with kind := .comp, body := .evicted, bytes := [] }
    (d.applyWb m).retryHeld

/-- WbDirty of a core at its proxy: the node gives the line up, its other copies with it (R272), at once or when the line's active
transaction ends (R269). -/
def Dev.proxyWb (d : Dev) (m : NMsg) : Dev :=
  let key := maKey m.addr
  if !d.knows key m.who then d
  else
    let d := d.dropHolder key m.who
    let d := d.send { m with kind := .comp, body := .evicted, bytes := [] }
    if m.bytes.length ≠ 64 then (d.wbCame key m.who).retryHeld
    else match tget d.coh.txns key with
      | some t =>
        let t : Txn := { t with
          data := m.bytes, fresh := m.fresh
          dirty := true, poison := t.poison || m.poison, wbs := t.wbs.filter (· != m.who), wb := true }
        ((d.setTxn key t).tryFinish key).retryHeld
      | none => (d.giveUp m).retryHeld

/-- A clean line has been dropped (R251); a proxy tells the home when its node holds none any more. -/
def Dev.evicted (d : Dev) (m : NMsg) : Dev :=
  let key := maKey m.addr
  if !d.knows key m.who then d
  else
    let d := d.dropHolder key m.who
    let d := d.toAgent { m with kind := .comp, body := .evicted }
    let d := match maNode m.addr with
      | some _ =>
        if (d.coreHolders key).isEmpty && (d.proxyLine key).mode.isSome && !d.busyLine key then d.sendEvict key else d
      | none => d
    (d.wbCame key m.who).retryHeld

/-! ### A proxy's Data and grants (R270, R271) -/

def modeOf : Moesi → Mode
  | .m => .excl
  | .e => .excl
  | .o => .owned
  | _ => .shared

/-- Whether the core that a line's request was sent for is still there (R280). -/
def Dev.asked (d : Dev) (key : Nat) : Bool :=
  match (d.proxyLine key).out with
  | some q => (match q.who with | .core _ => true | _ => false)
  | none => false

/-- Data from a home: the node has the mode granted, and the core that asked gets the line once no other core's copy is in
its way. A request whose core has been quenched gives the line straight back. -/
def Dev.proxyData (d : Dev) (m : NMsg) : Dev :=
  let key := maKey m.addr
  match (d.proxyLine key).out, d.asked key with
  | none, _ => d
  | some _, false =>
    let d := d.modProxy key (fun l => { l with out := none })
    let d := d.toHome { kind := .compAck, who := .proxy, addr := m.addr }
    (if m.st = .i then d else if m.dirty then d.giveUp { m with kind := .wbDirty, who := .proxy }
     else if (d.coreHolders key).isEmpty then d.sendEvict key
     else d.modProxy key (fun l => { l with mode := some (modeOf m.st) })).retryHeld
  | some q, true =>
    let others := ((d.coreHolders key).map (fun p => Agent.core p.1)).filter (· != q.who)
    let once := q.kind = .rdOnce
    let d := d.modProxy key (fun l =>
      { l with mode := if once then l.mode else some (modeOf m.st), hold := !once, out := none })
    let d := d.toHome { kind := .compAck, who := .proxy, addr := m.addr }
    let q := { q with bytes := m.bytes, st := m.st, dirty := m.dirty, poison := m.poison, fresh := m.fresh }
    if once then (d.sendData q m.bytes .i false m.poison).retryHeld
    else if q.kind = .rdShared then
      let st : Moesi := if others.isEmpty then m.st else .s
      let d := (d.sendData q m.bytes st m.dirty m.poison m.fresh).noteHolder key q.who st
      d.setTxn key { req := q, waits := [], ack := true }
    else
      let d := d.setTxn key { req := { q with kind := .rdUnique }, waits := others }
      let d := foldDev d others (fun d a => d.toAgent { kind := .snpInv, who := a, addr := maLine m.addr })
      d.tryFinish key

/-- A home's Comp at the proxy. -/
def Dev.proxyComp (d : Dev) (m : NMsg) : Dev :=
  let key := maKey m.addr
  let l := d.proxyLine key
  match m.body, l.out with
  | .evicted, _ => (d.modProxy key (fun l => { l with wbOut := false, evOut := false })).retryHeld
  | .grant _, some q =>
    let there := d.asked key
    let d := d.modProxy key (fun l => { l with mode := some .excl, hold := there, out := none })
    let d := d.toHome { kind := .compAck, who := .proxy, addr := m.addr }
    (if there then d.admitProxy q else d).retryHeld
  | b, some q =>
    let there := d.asked key
    let d := d.modProxy key (fun l => { l with out := none })
    (if there then d.answer q b else d).retryHeld
  | _, none => d

end Sys2Proof.Machine
end

