-- ==== Sys2Proof/Machine/CohCore.lean ====
section
/-!
DEFINITION. Application cores as holders and requesters (R250, R251, R262, R275, R276; Tables 8.7 and 8.8), their traps
(R295 to R297), and the resending of refused requests (R265).
-/
namespace Sys2Proof.Machine

/-- The global address of a line address. -/
def gaddr (a : Nat) : Word :=
  match maNode a with
  | none => BitVec.ofNat 64 (ownAddr a)
  | some n => BitVec.ofNat 64 (n * 2 ^ 48 + maOff a)

/-- R296: the home has reported a store to a frame without backing; the store is gone, and the fault is imprecise. -/
def Dev.unbackedStore (d : Dev) (h : Fin 64) (addr : Word) : Dev :=
  (d.modCore h (fun c => { c with imp := true, impAddr := addr })).exc h 7 addr

/-! ### Lines of a core -/

/-- A line leaves the L1 caches with the L2 (R250). -/
def Core.l1Drop (c : Core) (key : Nat) : Core := { c with l1d := c.l1d.filter (· != key), l1i := c.l1i.filter (· != key) }

/-- An L1 cache of 128 sets of 8 ways takes a line, in place of the set's oldest when it is full (Table 9.2). -/
def l1Put (l : List Nat) (key : Nat) : List Nat :=
  let l := l.filter (· != key)
  let set := l.filter (fun k => k % 128 == key % 128)
  (if 8 ≤ set.length then removeFirst (fun k => k % 128 == key % 128) l else l) ++ [key]

def Core.l1Touch (c : Core) (fetch : Bool) (key : Nat) : Core :=
  if fetch then { c with l1i := l1Put c.l1i key } else { c with l1d := l1Put c.l1d key }

def Core.setLine (c : Core) (key : Nat) (l : CLine) : Core := { c with lines := tput c.lines key l }
def Core.delLine (c : Core) (key : Nat) : Core := { c.l1Drop key with lines := tdel c.lines key }
def stable (x : CSt) : Bool := x == .m || x == .o || x == .e || x == .s

/-- A line that is on its way out: its way is free for another. -/
def leaving (x : CSt) : Bool := x == .miA || x == .siA || x == .eiA

/-- The lines an access needs, and whether it needs them alone. -/
def accLines : CAcc → List Nat
  | .load a w _ _ _ got => if (a + 2 ^ w.val - 1) / 64 = a / 64 then [a / 64] else if got.isEmpty then [a / 64, a / 64 + 1] else [a / 64 + 1]
  | .store a bs => if (a + bs.length - 1) / 64 = a / 64 then [a / 64] else [a / 64, a / 64 + 1]
  | .lr a _ _ => [a / 128 * 2, a / 128 * 2 + 1]
  | .zero a => [a / 64]
  | .amo _ a _ _ => [a / 64, a / 64 + 1]

def accAlone : CAcc → Bool
  | .load _ _ _ _ _ _ => false
  | _ => true

def accAddr : CAcc → Nat
  | .load a _ _ _ _ _ => a
  | .store a _ => a
  | .lr a _ _ => a
  | .zero a => a
  | .amo _ a _ _ => a

/-- Whether a line's state lets the access be performed (Table 8.7). -/
def lineOk (alone : Bool) (x : CSt) : Bool :=
  if alone then x == .m || x == .e else stable x || x == .smD || x == .omD

def Core.lineReady (c : Core) (alone : Bool) (key : Nat) : Bool :=
  match tget c.lines key with
  | some l => lineOk alone l.st
  | none => false

def Core.byteAt (c : Core) (a : Nat) : Byte :=
  match tget c.lines (a / 64) with
  | some l => lgetD l.data (a % 64) 0
  | none => 0

def Core.bytesAt (c : Core) (a : Nat) : Nat → List Byte
  | 0 => []
  | n + 1 => c.byteAt a :: c.bytesAt (a + 1) n

def Core.poisonAt (c : Core) (a n : Nat) : Bool :=
  [a / 64, (a + n - 1) / 64].any (fun k => match tget c.lines k with | some l => l.poison | none => false)

/-- Put bytes into cached lines: E becomes M without a message (R251); a partial write leaves poison (R279). -/
def Core.putBytes (c : Core) : Nat → List Byte → Core
  | _, [] => c
  | a, b :: t =>
    Core.putBytes { c with lines := tmod c.lines (a / 64) (fun l => { l with st := .m, data := lset l.data (a % 64) b }) } (a + 1) t

def zeroLine : List Byte := List.replicate 64 0

/-- What the hart's own stores that wait for a line make of a byte that it reads. -/
def Core.ownByte (c : Core) (a : Nat) (b : Byte) : Byte :=
  c.accs.foldl (fun b x => match x with
    | .store s bs => if s ≤ a && a < s + bs.length then lgetD bs (a - s) b else b
    | .zero s => if s ≤ a && a < s + 64 then 0 else b
    | _ => b) b

/-- What a hart reads of its caches: their bytes with its own stores that are not performed yet (Table 9.2: the store buffer). -/
def Dev.coreBytes (d : Dev) (h : Fin 64) (a n : Nat) : List Byte :=
  d.overlay (.core h) (gaddr a).toNat (((d.core h).bytesAt a n).zipIdx.map (fun p => (d.core h).ownByte (a + p.2) p.1))

/-- Perform an access on lines that allow it. -/
def Dev.perform (d : Dev) (h : Fin 64) (a : CAcc) : Dev :=
  let c := d.core h
  match a with
  | .load ad w sg fetch seq got =>
    let n := 2 ^ w.val
    let k := got.length
    if c.poisonAt (ad + k) (n - k) then d.loadFail h seq excHardware (gaddr ad)
    else
      let v := ofLe (got ++ d.coreBytes h (ad + k) (n - k))
      let v := if fetch then 0 else if sg then sext (8 * n) v else BitVec.ofNat 64 v
      (d.modCore h (fun c => c.l1Touch fetch ((ad + k) / 64))).loadDone h seq v
  | .store ad bs =>
    let d := d.setCore h ((c.putBytes ad bs).l1Touch false (ad / 64))
    if (maNode ad).isNone then d.loseResv ad (.core h) none else d
  | .lr ad dbl seq =>
    let n := if dbl then 8 else 4
    if c.poisonAt ad n then d.loadFail h seq excHardware (gaddr ad)
    else
      let v := sext (8 * n) (ofLe (d.coreBytes h ad n))
      (d.setCore h { c.l1Touch false (ad / 64) with resv := some (ad / 128), resvHold := some (ad / 128) }).loadDone h seq v
  | .zero ad =>
    let d := d.setCore h ((c.setLine (ad / 64) { st := .m, data := zeroLine, fresh := true }).l1Touch false (ad / 64))
    if (maNode ad).isNone then d.loseResv ad (.core h) none else d
  | .amo op ad v dbl =>
    let n := if dbl then 8 else 4
    match c.amoRd with
    | some (rd, _) =>
      let d := d.setCore h { c with amoRd := none }
      if c.poisonAt ad n then d.exc h excHardware (gaddr ad)
      else
        let old := ofLe (c.bytesAt ad n)
        let c := ((d.core h).putBytes ad (leBytes n (amoVal op n old (v.toNat % 2 ^ (8 * n))))).wx rd (sext (8 * n) old)
        let d := d.setCore h c
        if (maNode ad).isNone then (d.loseResv ad (.core h) none).loseResv (ad + n - 1) (.core h) none else d
    | none => d

/-! ### Evictions (R250, Table 8.7) -/

/-- WB credits that a core has left toward a slice (R258): four, less its write-backs on their way. -/
def Dev.coreCredit (d : Dev) (h : Fin 64) (key : Nat) : Bool :=
  decide (((d.core h).lines.filter (fun p => p.2.st == .miA && d.sliceOf (64 * p.1) == d.sliceOf (64 * key))).length < 4)

/-- Whether a core can evict a line now: a dirty one takes a credit. -/
def Dev.canEvict (d : Dev) (h : Fin 64) (key : Nat) (l : CLine) : Bool :=
  l.st == .s || l.st == .e || ((l.st == .m || l.st == .o) && d.coreCredit h key)

/-- A line leaves a core: WbDirty for a dirty one, while a credit is left, and Evict for a clean one. -/
def Dev.evictLine (d : Dev) (h : Fin 64) (key : Nat) : Dev :=
  let c := d.core h
  match tget c.lines key with
  | none => d
  | some l =>
    let m : NMsg := { kind := .evict, who := .core h, addr := 64 * key }
    let go (d : Dev) (st : CSt) (m : NMsg) : Dev :=
      (d.setCore h { ((c.l1Drop key).setLine key { st := st }) with resv := if c.resv = some (key / 2) then none else c.resv }).send m
    if !d.canEvict h key l then d
    else match l.st with
    | .m => go d .miA { m with kind := .wbDirty, bytes := l.data, poison := l.poison, fresh := l.fresh }
    | .o => go d .miA { m with kind := .wbDirty, bytes := l.data, poison := l.poison, fresh := l.fresh }
    | .s => go d .siA m
    | .e => go d .eiA m
    | _ => d

/-- Room for one more line in the set of an L2 of 16 ways; none when every way waits for something. -/
def Dev.makeRoom (d : Dev) (h : Fin 64) (key : Nat) : Option Dev :=
  let set := (d.core h).lines.filter (fun p => p.1 % 2048 == key % 2048 && !leaving p.2.st)
  if set.length < 16 then some d
  else match set.find? (fun p => d.canEvict h p.1 p.2) with
    | some p => some (d.evictLine h p.1)
    | none => none

/-! ### Accesses (Table 8.7) -/

def Dev.coreAsk (d : Dev) (h : Fin 64) (k : NKind) (key : Nat) : Dev :=
  d.send { kind := k, who := .core h, addr := 64 * key }

/-- Ask for a line that an access lacks; a line on its way takes the access along, and one that finds no way in its set waits. -/
def Dev.wantLine (d : Dev) (h : Fin 64) (key : Nat) (a : CAcc) : Dev :=
  let c := d.core h
  match tget c.lines key with
  | some l =>
    let l' := { l with acc := l.acc ++ [a] }
    (match l.st with
     | .s => (d.setCore h (c.setLine key { l' with st := .smD })).coreAsk h .claimUnique key
     | .o => (d.setCore h (c.setLine key { l' with st := .omD })).coreAsk h .claimUnique key
     | _ => d.setCore h (c.setLine key l'))
  | none =>
    match d.makeRoom h key with
    | none => d.modCore h (fun c => { c with waitAcc := c.waitAcc ++ [a] })
    | some d =>
      let alone := accAlone a
      let d := d.modCore h (fun c => c.setLine key { st := if alone then .imD else .isD, acc := [a] })
      d.coreAsk h (if alone then .rdUnique else .rdShared) key

/-- Perform an access, or ask for the first line it lacks. -/
def Dev.coreOne (d : Dev) (h : Fin 64) (a : CAcc) : Dev :=
  match (accLines a).find? (fun k => !(d.core h).lineReady (accAlone a) k) with
  | none => d.perform h a
  | some k => d.wantLine h k a

/-- An access of a core. One that crosses a line is performed in its two parts, each as soon as its line is there (R235,
R262). -/
def Dev.coreTry (d : Dev) (h : Fin 64) (a : CAcc) : Dev :=
  let n1 := 64 - accAddr a % 64
  let first := (d.core h).lineReady (accAlone a) (accAddr a / 64)
  match a with
  | .store ad bs =>
    if bs.length ≤ n1 || !first then d.coreOne h a
    else (d.perform h (.store ad (bs.take n1))).coreOne h (.store (ad + n1) (bs.drop n1))
  | .load ad w sg fetch seq got =>
    if 2 ^ w.val ≤ n1 || !first || !got.isEmpty then d.coreOne h a
    else if (d.core h).poisonAt ad n1 then d.loadFail h seq excHardware (gaddr ad)
    else d.coreOne h (.load ad w sg fetch seq (d.coreBytes h ad n1))
  | _ => d.coreOne h a

/-- Try again the accesses that found no way in their sets. -/
def Dev.retryAccs (d : Dev) (h : Fin 64) : Dev :=
  let l := (d.core h).waitAcc
  if l.isEmpty then d else foldDev (d.modCore h (fun c => { c with waitAcc := [] })) l (fun d a => d.coreTry h a)

/-- Data or a grant has put a line in a stable state: perform the accesses that asked for it, then acknowledge (R262). -/
def Dev.lineCame (d : Dev) (h : Fin 64) (key : Nat) (l : CLine) (st : CSt) : Dev :=
  let d := d.modCore h (fun c => c.setLine key { l with st := st, acc := [] })
  let d := foldDev d l.acc (fun d a => d.coreTry h a)
  (d.retryAccs h).send { kind := .compAck, who := .core h, addr := 64 * key }

def cstOf : Moesi → CSt
  | .m => .m
  | .o => .o
  | .e => .e
  | _ => .s

/-- The uncached load of a line that was sent first (R290). -/
def Core.onceFor (c : Core) (key : Nat) : Option COnce := c.onces.find? (fun o => (o.addr + o.got.length) / 64 == key)

def Core.dropOnce (c : Core) (seq : Nat) : Core := { c with onces := c.onces.filter (fun o => o.seq != seq) }

/-- Data for an uncached load: its value when its last line is here, and the request for its second line otherwise. -/
def Dev.onceData (d : Dev) (h : Fin 64) (m : NMsg) (o : COnce) : Dev :=
  let n := 2 ^ o.wLog.val
  let at_ := o.addr + o.got.length
  let k := min (n - o.got.length) (64 - at_ % 64)
  let part := d.overlay (.core h) (gaddr at_).toNat ((m.bytes.drop (at_ % 64)).take k)
  let got := o.got ++ part
  let d := (d.modCore h (fun c => c.dropOnce o.seq)).send { kind := .compAck, who := .core h, addr := maLine m.addr }
  if m.poison then d.loadFail h o.seq excHardware (gaddr o.addr)
  else if got.length < n then
    (d.modCore h (fun c => { c with onces := c.onces ++ [{ o with got := got }] })).coreAsk h .rdOnce (maKey m.addr + 1)
  else
    let v := ofLe got
    d.loadDone h o.seq (if o.fetch then 0 else if o.signed then sext (8 * n) v else BitVec.ofNat 64 v)

/-- Data at a core (Table 8.8), or for an uncached load. -/
def Dev.coreData (d : Dev) (h : Fin 64) (m : NMsg) : Dev :=
  let key := maKey m.addr
  match m.st, (d.core h).onceFor key with
  | .i, some o => d.onceData h m o
  | _, _ =>
  match tget (d.core h).lines key with
  | none => d
  | some l =>
    let l' := { l with data := m.bytes, poison := m.poison, fresh := m.fresh }
    match l.st with
    | .isD => d.lineCame h key l' (cstOf m.st)
    | .imD => d.lineCame h key l' (cstOf m.st)
    | .smD => d.lineCame h key l' (cstOf m.st)
    | .omD => d.lineCame h key l' (cstOf m.st)
    | _ => d

/-- What a refused access does to its core (R26, R296, R356, Table 13.7). -/
def Dev.refusedAcc (d : Dev) (h : Fin 64) (st : Status) (a : CAcc) : Dev :=
  let ga := gaddr (accAddr a)
  match a with
  | .load _ _ _ fetch seq _ => d.loadFail h seq (if fetch then excFetchFault else 5) ga
  | .lr _ _ seq => d.loadFail h seq 5 ga
  | .amo _ _ _ _ => (d.modCore h (fun c => { c with amoRd := none })).exc h 7 ga
  | _ =>
    if st = .unreachable then d.lostStore (.core h) none none ((maNode (accAddr a)).getD 0) ga.toNat 1 false
    else d.unbackedStore h ga

/-- The answer to a core's AMO: the old value, poison, or an access fault at the address it named (R297). -/
def Dev.coreReply (d : Dev) (h : Fin 64) (st : Status) (v : Word) : Dev :=
  match (d.core h).amoRd with
  | some (rd, a) =>
    let d := d.modCore h (fun c => { c with amoRd := none })
    if st = .ok then d.modCore h (fun c => c.wx rd v)
    else d.exc h (if st = .poison then excHardware else 7) (BitVec.ofNat 64 a)
  | none => d

/-- The end of an uncached store of a core: it is gone from the stores that are out, and a refused one is reported. -/
def Dev.storeEnds (d : Dev) (h : Fin 64) (m : NMsg) : Dev :=
  let a := gaddr m.addr
  let d' := { d with writes := removeFirst (fun w => w.src == .core h && !w.held && w.what == .mem && w.addr == a.toNat) d.writes }
  match m.body with
  | .refused .unreachable =>
    let len := match d.writes.find? (fun w => w.src == .core h && !w.held && w.addr == a.toNat) with | some w => w.bytes.length | none => 1
    d'.lostStore (.core h) none none ((maNode m.addr).getD 0) a.toNat len false
  | .refused _ => d'.unbackedStore h a
  | _ => d'

/-- A refused uncached load faults. -/
def Dev.onceRefused (d : Dev) (h : Fin 64) (key : Nat) : Dev :=
  match (d.core h).onceFor key with
  | some o => (d.modCore h (fun c => c.dropOnce o.seq)).loadFail h o.seq (if o.fetch then excFetchFault else 5) (gaddr o.addr)
  | none => d

/-- Comp at a core: a grant, the end of an eviction, an AMO's old value, the end of a store, or a refusal. -/
def Dev.coreComp (d : Dev) (h : Fin 64) (m : NMsg) : Dev :=
  let key := maKey m.addr
  let c := d.core h
  if m.was = .wrPart || m.was = .wrLine then d.storeEnds h m
  else match m.body with
  | .grant st =>
    (match tget c.lines key with
     | some l => if l.st = .smD || l.st = .omD then d.lineCame h key l (if st = .m then .m else .e) else d
     | none => d)
  | .evicted =>
    (match tget c.lines key with
     | some l =>
       if leaving l.st then (foldDev (d.setCore h (c.delLine key)) l.acc (fun d a => d.coreTry h a)).retryAccs h
       else d
     | none => d)
  | .old v p =>
    (match c.amoRd with
     | some (rd, _) =>
       let d := d.setCore h { c with amoRd := none }
       if p then d.exc h excHardware (gaddr m.addr) else d.modCore h (fun c => c.wx rd v)
     | none => d)
  | .refused st =>
    if m.was = .rdOnce then d.onceRefused h key
    else (match c.amoRd, tget c.lines key with
     | some _, none => (d.setCore h { c with amoRd := none }).exc h 7 (gaddr m.addr)
     | _, some l =>
       if stable l.st then d
       else (foldDev (d.setCore h (c.delLine key)) l.acc (fun d a => d.refusedAcc h st a)).retryAccs h
     | none, none => d)
  | _ => d.storeEnds h m

/-! ### FWDs at a core (Tables 8.7 and 8.8) -/

/-- What a core does on a FWD: the state it keeps (none: I), whether it supplies data, whether the data is dirty, and
whether a write-back of the line has left it already. -/
structure SnpDo where
  keep : Option CSt
  data : Bool
  dirty : Bool := false
  wbSent : Bool := false
deriving DecidableEq, Repr

def snpDo (k : NKind) (cur : CSt) : SnpDo :=
  match k, cur with
  | .snpShared, .m => ⟨some .o, true, true, false⟩
  | .snpShared, .o => ⟨some .o, true, true, false⟩
  | .snpShared, .omD => ⟨some .omD, true, true, false⟩
  | .snpShared, .e => ⟨some .s, true, false, false⟩
  | .snpUnique, .m => ⟨none, true, true, false⟩
  | .snpUnique, .o => ⟨none, true, true, false⟩
  | .snpUnique, .omD => ⟨some .imD, true, true, false⟩
  | .snpUnique, .e => ⟨none, true, false, false⟩
  | .snpOnce, .m => ⟨some .m, true, true, false⟩
  | .snpOnce, .o => ⟨some .o, true, true, false⟩
  | .snpOnce, .omD => ⟨some .omD, true, true, false⟩
  | .snpOnce, .e => ⟨some .e, true, false, false⟩
  | .snpInv, .m => ⟨none, false, false, false⟩
  | .snpInv, .o => ⟨none, false, false, false⟩
  | .snpInv, .e => ⟨none, false, false, false⟩
  | .snpInv, .s => ⟨none, false, false, false⟩
  | .snpInv, .smD => ⟨some .imD, false, false, false⟩
  | .snpInv, .omD => ⟨some .imD, false, false, false⟩
  | .snpUnique, .s => ⟨none, false, false, false⟩
  | .snpUnique, .smD => ⟨some .imD, false, false, false⟩
  | _, .miA => ⟨some .miA, false, false, true⟩
  | _, x => ⟨some x, false, false, false⟩

/-- The state that Data names after a FWD. -/
def snpGrant (k : NKind) (dirty : Bool) : Moesi :=
  match k with
  | .snpShared => .s
  | .snpUnique => if dirty then .m else .e
  | _ => .i

/-- Whether a core performs an access on a line before it answers a FWD for it (R262): its Data or grant is on the way, or an
access that has this line alone waits for the next one, as an LR of the granule and an AMO across two lines do. -/
def Dev.fwdWaits (d : Dev) (h : Fin 64) (key : Nat) : Bool :=
  let coming (x : NMsg) : Bool :=
    x.kind == .data || (x.kind == .comp && (match x.body with | .grant _ => true | _ => false))
  d.coh.noc.any (fun x => x.who == .core h && maKey x.addr == key && coming x) ||
  (match tget (d.core h).lines (key + 1) with
    | some l => l.acc.any (fun a => match a with
      | .lr b _ _ => b / 128 * 2 == key
      | .amo _ b _ _ => b / 64 == key
      | _ => false)
    | none => false)

/-- A core answers a FWD, unless it delays its answer for an LR (R276) or an access (R262). Data that the home or the proxy itself asked
for comes with the answer. -/
def Dev.coreFwd (d : Dev) (h : Fin 64) (m : NMsg) : Dev :=
  let key := maKey m.addr
  let c := d.core h
  if c.resvHold = some (key / 2) || d.fwdWaits h key then d.send m
  else
    let l : CLine := (tget c.lines key).getD { st := .siA }
    let r := if thas c.lines key then snpDo m.kind l.st else ⟨none, false, false, false⟩
    let left := m.kind != .snpOnce && (l.st = .m || l.st = .e) && c.resv = some (key / 2)
    let c := match r.keep with
      | some st => if st = CSt.imD then (c.l1Drop key).setLine key { l with st := st } else c.setLine key { l with st := st }
      | none => c.delLine key
    let d := d.setCore h { c with resv := if left then none else c.resv }
    let ack : NMsg := { kind := .snpAck, who := .core h, addr := m.addr, dirty := r.data && r.dirty, wbSent := r.wbSent,
                        poison := r.data && l.poison, supplied := r.data, fresh := r.data && l.fresh }
    if r.data then
      match m.rq with
      | some q =>
        let d := d.toAgent { kind := .data, who := q, addr := m.addr, bytes := l.data, st := snpGrant m.kind r.dirty,
                             dirty := r.dirty, poison := l.poison, fresh := l.fresh }
        d.send ack
      | none => d.send { ack with bytes := l.data }
    else d.send ack

/-! ### Retry (R265) -/

/-- Send a refused request again with its ticket; one whose core has been quenched is abandoned (R280). -/
def Dev.resend (d : Dev) (m : NMsg) : Dev :=
  if m.who = .proxy && !d.asked (maKey m.addr) then (d.modProxy (maKey m.addr) (fun l => { l with out := none })).retryHeld
  else if m.was != .retry then
    let q := { m with kind := m.was, was := .retry }
    match m.who with
    | .proxy => d.toHome q
    | _ => d.send q
  else match m.who with
    | .core h =>
      (match tget (d.core h).lines (maKey m.addr) with
       | some l =>
         (match l.st with
          | .isD => d.send { m with kind := .rdShared }
          | .imD => d.send { m with kind := .rdUnique }
          | .smD => d.send { m with kind := .claimUnique }
          | .omD => d.send { m with kind := .claimUnique }
          | _ => d)
       | none => d)
    | .proxy =>
      (match (d.proxyLine (maKey m.addr)).out with
       | some q => d.toHome { q with ticket := m.ticket, bytes := if q.kind = .wrLine || q.kind = .wrPart then q.bytes else [] }
       | none => d)
    | _ => d

end Sys2Proof.Machine
end

