-- ==== Sys2Proof/Machine/Coherence.lean ====
section
/-!
DEFINITION. The commands of the coherence protocol (chapter 08): messages of Table 8.5 as they arrive, and its timers.
-/
namespace Sys2Proof.Machine

/-- The address that a row's operand names; one that is no UMR address keeps its number. -/
def Dev.rowAddr (d : Dev) (w : Word) : Nat := (d.maddr w).getD w.toNat

/-! ### Requests -/

def isWr (m : NMsg) : Bool := m.kind == .wrLine || m.kind == .wrPart

/-- Two writes of one unit of another node that keeps its writes in order. -/
def sameFar (x m : NMsg) : Bool := isWr x && x.who == m.who && x.rq == m.rq

/-- Whether a write of a source that keeps its writes in order (R222) must wait for an earlier one: of this node's sources by
what they have issued, of another node's units by what has come and is not performed. -/
def Dev.outOfOrder (d : Dev) (m : NMsg) : Bool :=
  if !isWr m then false
  else match m.who with
    | .tongs _ _ => false
    | .node _ =>
      if m.rq.isNone || (match m.rq with | some (.tongs _ _) => true | _ => false) then false
      else d.coh.held.any (fun x => sameFar x m) || d.coh.txns.any (fun p => sameFar p.2.req m) ||
        (match d.coh.noc.find? (fun x => sameFar x m) with | some x => x != m && d.coh.noc.contains m | none => false)
    | _ =>
      let this (w : OutW) : Bool := w.src == m.who && w.addr == ownAddr m.addr && w.bytes == m.bytes && !w.held && !w.done
      match d.writes.find? this with
      | none => false
      | some w => (d.writes.takeWhile (fun x => !this x)).any (fun x => x.of w.src w.rq && !x.done && destKey (d.target true x.addr) == 255)

/-- A request arrives at its home, or a core's request at the proxy of its node. One that names no UMR address is refused
(R26). -/
def reqRow (d : Dev) (m : NMsg) (w : Word) : Dev :=
  match d.maddr w with
  | none => d.answer { m with addr := w.toNat } (.refused .unmapped)
  | some a =>
    let m := { m with addr := a }
    let (q, d') := d.arriveMsg m (fun x => x.ticket == m.ticket && x.addr == m.addr && x.bytes == m.bytes && x.atom == m.atom)
    match maNode a, q.who with
    | some _, .core _ => d'.admitProxy q
    | some _, _ => d
    | none, _ => if d.outOfOrder q then d else d'.admitHome q false

def execRdShared (req : Agent) (addr : Word) (ticket : Option (BitVec 10)) (s : State) : Res :=
  onDev s (fun d => reqRow d { kind := .rdShared, who := req, addr := 0, ticket := ticket } addr)

def execRdUnique (req : Agent) (addr : Word) (ticket : Option (BitVec 10)) (s : State) : Res :=
  onDev s (fun d => reqRow d { kind := .rdUnique, who := req, addr := 0, ticket := ticket } addr)

def execClaimUnique (req : Agent) (addr : Word) (ticket : Option (BitVec 10)) (s : State) : Res :=
  onDev s (fun d => reqRow d { kind := .claimUnique, who := req, addr := 0, ticket := ticket } addr)

def execRdOnce (req : Agent) (addr : Word) (ticket : Option (BitVec 10)) (s : State) : Res :=
  onDev s (fun d => reqRow d { kind := .rdOnce, who := req, addr := 0, ticket := ticket } addr)

/-- WrLine carries one whole line (Table 8.5). -/
def execWrLine (req : Agent) (addr : Word) (bytes : List Byte) (ticket : Option (BitVec 10)) (s : State) : Res :=
  onDev s (fun d =>
    if bytes.length = 64 && addr.toNat % 64 = 0 then
      reqRow d { kind := .wrLine, who := req, addr := 0, bytes := bytes, ticket := ticket } addr
    else d)

/-- WrPart carries bytes of one line (Table 8.5). -/
def execWrPart (req : Agent) (addr : Word) (bytes : List Byte) (ticket : Option (BitVec 10)) (s : State) : Res :=
  onDev s (fun d =>
    if addr.toNat % 64 + bytes.length ≤ 64 then
      reqRow d { kind := .wrPart, who := req, addr := 0, bytes := bytes, ticket := ticket } addr
    else d)

def execAtomic (req : Agent) (addr : Word) (op : AtomOp) (ticket : Option (BitVec 10)) (s : State) : Res :=
  onDev s (fun d => reqRow d { kind := .atomic, who := req, addr := 0, atom := op, ticket := ticket } addr)

/-! ### FWDs -/

/-- A FWD arrives at a core or at the proxy; one for another node leaves for it. -/
def snpRow (d : Dev) (k : NKind) (holder : Agent) (w : Word) : Dev :=
  match d.maddr w with
  | none => d
  | some a =>
    let (m, d') := d.arriveMsg { kind := k, who := holder, addr := maLine a } (fun _ => true)
    match holder, maNode a with
    | .core h, _ => d'.coreFwd h m
    | .proxy, some _ => d'.proxyFwd m
    | .node n, none => d'.chainMsg n.val m
    | _, _ => d

def execSnpShared (holder : Agent) (addr : Word) (s : State) : Res := onDev s (fun d => snpRow d .snpShared holder addr)
def execSnpUnique (holder : Agent) (addr : Word) (s : State) : Res := onDev s (fun d => snpRow d .snpUnique holder addr)
def execSnpInv (holder : Agent) (addr : Word) (s : State) : Res := onDev s (fun d => snpRow d .snpInv holder addr)
def execSnpOnce (holder : Agent) (addr : Word) (s : State) : Res := onDev s (fun d => snpRow d .snpOnce holder addr)
def execSnpBack (addr : Word) (s : State) : Res := onDev s (fun d => snpRow d .snpBack .proxy addr)

/-! ### Responses -/

/-- SnpAck of a holder (R263). -/
def execSnpAck (holder : Agent) (addr : Word) (dirty wbSent : Bool) (s : State) : Res :=
  onDev s (fun d =>
    match d.maddr addr with
    | none => d
    | some a =>
      let (m, d) := d.arriveMsg { kind := .snpAck, who := holder, addr := maLine a, dirty := dirty, wbSent := wbSent } (fun _ => true)
      d.snpAcked m)

/-- CompAck of a requester (R260). -/
def execCompAck (req : Agent) (addr : Word) (s : State) : Res :=
  onDev s (fun d =>
    match d.maddr addr with
    | none => d
    | some a =>
      let (m, d) := d.arriveMsg { kind := .compAck, who := req, addr := maLine a } (fun _ => true)
      d.compAcked m)

/-- A write of a source has been refused: it is gone (R26, R296). -/
def Dev.dropWrite (d : Dev) (m : NMsg) : Dev :=
  { d with writes := removeFirst (fun w => w.src == m.who && !w.done && !w.held && w.addr == ownAddr m.addr) d.writes }

/-- Comp at its requester: a grant, a write or AMO done, or a refusal. -/
def compRow (d : Dev) (m : NMsg) : Dev :=
  let acked := (d.ackWrite (fun w => w.src == m.who && w.done && w.red.isNone)).settle
  match m.who with
  | .core h => d.coreComp h m
  | .proxy => d.proxyComp m
  | .engine e =>
    (match m.body with
     | .write => acked
     | .old v p => if p then d.failEng e .poison 0 (gaddr m.addr).toNat else d.replyEng e v
     | .lr v => d.replyEng e v
     | .sc ok => d.replyEng e (if ok then 0 else 1)
     | .refused st => (d.dropWrite m).failEng e st 0 (gaddr m.addr).toNat
     | _ => d)
  | .tongs e _ =>
    (match m.body with
     | .write => acked
     | .refused st => (d.dropWrite m).failEng e st 0 (gaddr m.addr).toNat
     | _ => d)
  | .aperture i =>
    (match m.body with
     | .write => acked
     | .refused st => (d.dropWrite m).raise (apEvent i.val (d.apOffset i m.addr) st)
     | _ => d)
  | .node _ => d
  | _ =>
    (match m.body with
     | .write => acked
     | .refused _ => (d.dropWrite m).settle
     | _ => d)

/-- Comp (R261). -/
def execComp (req : Agent) (addr : Word) (body : CompBody) (s : State) : Res :=
  onDev s (fun d =>
    let m : NMsg := { kind := .comp, who := req, addr := d.rowAddr addr, body := body }
    let (m, d) := d.arriveMsg m (fun x => x.body == body)
    compRow d m)

/-- Data (R262): a core performs its access, a proxy passes the line on, and an agent that keeps no copy acknowledges it.
Poison ends the step that reads it (R278). -/
def execData (req : Agent) (addr : Word) (bytes : List Byte) (grant : Moesi) (poison : Bool) (s : State) : Res :=
  onDev s (fun d =>
    match d.maddr addr with
    | none => d
    | some a =>
      let m : NMsg := { kind := .data, who := req, addr := maLine a, bytes := bytes, st := grant, poison := poison }
      let (m, d) := d.arriveMsg m (fun _ => true)
      let ack (d : Dev) : Dev := d.send { kind := .compAck, who := req, addr := m.addr }
      match req with
      | .core h => d.coreData h m
      | .proxy => d.proxyData m
      | .node _ => d
      | .engine e => if m.poison then (ack d).failEng e .poison 0 (gaddr m.addr).toNat else ack d
      | .tongs e _ => if m.poison then (ack d).failEng e .poison 0 (gaddr m.addr).toNat else ack d
      | _ => ack d)

/-- Retry (R265). -/
def execRetry (req : Agent) (addr : Word) (ticket : BitVec 10) (s : State) : Res :=
  onDev s (fun d =>
    let m : NMsg := { kind := .retry, who := req, addr := d.rowAddr addr, ticket := some ticket }
    let (m, d) := d.arriveMsg m (fun x => x.ticket == some ticket)
    d.resend m)

/-- RedAck (R274): the reduction is no longer outstanding; poison ends its step. -/
def execRedAck (e : Fin 128) (c : Fin 4) (addr : Word) (poison : Bool) (s : State) : Res :=
  onDev s (fun d =>
    let m : NMsg := { kind := .redAck, who := .tongs e c, addr := d.rowAddr addr, poison := poison }
    let (m, d) := d.arriveMsg m (fun _ => true)
    let d := (d.ackWrite (fun w => w.src == .tongs e c && w.done && w.red.isSome && w.addr / 64 == ownAddr m.addr / 64)).settle
    if m.poison then d.failEng e .poison 0 (gaddr m.addr).toNat else d)

/-! ### Write-backs -/

/-- A core that still holds the line writes it back or drops it now. -/
def Dev.leaveNow (d : Dev) (k : NKind) (holder : Agent) (key : Nat) : Dev :=
  match holder with
  | .core h =>
    if d.coh.noc.any (fun x => x.kind == k && x.who == holder && maKey x.addr == key) then d
    else match tget (d.core h).lines key with
      | some l =>
        if (k = .wbDirty && (l.st = .m || l.st = .o)) || (k = .evict && (l.st = .s || l.st = .e)) then d.evictLine h key else d
      | none => d
  | _ => d

/-- Whether a core's line is one that its eviction message can still concern. -/
def Dev.canLeave (d : Dev) (k : NKind) (holder : Agent) (key : Nat) : Bool :=
  match holder with
  | .core _ => d.coh.noc.any (fun x => x.kind == k && x.who == holder && maKey x.addr == key)
  | .node _ => true
  | _ => false

/-- A write-back or eviction notice arrives at the home, or at the proxy of another node's line. -/
def wbRow (d : Dev) (m : NMsg) (w : Word) : Dev :=
  match d.maddr w with
  | none => d
  | some a =>
    let m := { m with addr := maLine a }
    let d := d.leaveNow m.kind m.who (maKey a)
    if !d.canLeave m.kind m.who (maKey a) then d
    else
      let (m, d) := d.arriveMsg m (fun _ => true)
      match maNode a with
      | none => if m.kind = .wbDirty then d.homeWb m else d.evicted m
      | some _ => (match m.who with
        | .core _ => if m.kind = .wbDirty then d.proxyWb m else d.evicted m
        | _ => d)

def execWbDirty (holder : Agent) (addr : Word) (bytes : List Byte) (poison : Bool) (s : State) : Res :=
  onDev s (fun d => wbRow d { kind := .wbDirty, who := holder, addr := 0, bytes := bytes, poison := poison } addr)

def execEvict (holder : Agent) (addr : Word) (s : State) : Res :=
  onDev s (fun d => wbRow d { kind := .evict, who := holder, addr := 0 } addr)

/-! ### Reductions -/

/-- A RED arrives at the home of its line, in pieces that stay in one line; its last piece answers it (R274, R431). -/
def redRow (d : Dev) (src : Agent) (op : RedOp) (w : Word) (ty : RType) (bytes : List Byte) : Dev :=
  match d.maddr w with
  | none => d.answer { kind := .red, who := src, addr := w.toNat } (.refused .unmapped)
  | some a =>
    match maNode a with
    | some _ => d
    | none =>
      let (m, d) := d.arriveMsg (redMsg src a bytes (op, ty)) (fun x => x.red == op && x.ty == ty && x.bytes == bytes && x.addr == a)
      let ps := lines64 a bytes
      foldDev d ps.zipIdx (fun d p =>
        d.admitRed { m with addr := p.1.1, bytes := p.1.2, tag := if p.2 + 1 = ps.length then m.tag else 0 })

def execRedAdd (src : Agent) (addr : Word) (ty : RType) (bytes : List Byte) (s : State) : Res :=
  onDev s (fun d => redRow d src .add addr ty bytes)

/-- Table 12.4 gives MIN for the unsigned types alone. -/
def execRedMin (src : Agent) (addr : Word) (ty : RType) (bytes : List Byte) (s : State) : Res :=
  onDev s (fun d => if ty = .uint32 || ty = .uint64 then redRow d src .min addr ty bytes else d)

def execRedMax (src : Agent) (addr : Word) (ty : RType) (bytes : List Byte) (s : State) : Res :=
  onDev s (fun d => if ty = .uint32 || ty = .uint64 then redRow d src .max addr ty bytes else d)

/-! ### Timers -/

/-- R266: an expired ticket's tracker is freed, and what waited behind it goes on. A ticket that has been presented does not
expire. -/
def execTicketExpiry (slice : Fin 32) (ticket : BitVec 10) (s : State) : Res :=
  onDev s (fun d =>
    if d.coh.held.any (fun m => m.ticket == some ticket && d.sliceOf m.addr == slice.val && (maNode m.addr).isNone) then d
    else (d.modCoh (fun c =>
      { c with tickets := c.tickets.filter (fun t => !(t.slice == slice.val && t.id == ticket)) })).retryHeld)

/-- R271. -/
def execProxyHoldExpiry (addr : Word) (s : State) : Res :=
  onDev s (fun d =>
    match d.maddr addr with
    | some a => if thas d.coh.proxy (maKey a) then (d.modProxy (maKey a) (fun l => { l with hold := false })).retryHeld else d
    | none => d)

/-- R276. -/
def execLrHoldExpiry (h : Fin 64) (s : State) : Res :=
  onDev s (fun d => d.modCore h (fun c => { c with resvHold := none }))

end Sys2Proof.Machine
end

