-- ==== Sys2Proof/Machine/Contain.lean ====
section
/-!
DEFINITION. Reporting units, lasting failures, quench, reclamation and containment (chapter 17, R280 to R284), and the
commands that report errors and end containment.
-/
namespace Sys2Proof.Machine

/-! ### Reclamation (R280 to R283) -/

/-- Poison a line of this node whose holder is lost. -/
def Dev.lostHolder (d : Dev) (key : Nat) : Dev := d.loseLine (64 * key) 2 (dieOf (d.homeHalf (64 * key)))

/-- Invalidate every copy of an own line that cores and other nodes still hold: an action of the home, which holds the line's
one transaction for it (R260). -/
def Dev.dropSharers (d : Dev) (key : Nat) : Dev :=
  let m : NMsg := { kind := .snpInv, who := .firmware, addr := 64 * key }
  if d.busyLine key then d.holdMsg m else d.startTxn m

/-- A proxy slice gives up a line of another node whose owning core is lost: the node's other copies go, and the home gets a
poisoned write-back, at once or with what the line's active transaction ends in. -/
def Dev.reclaimProxy (d : Dev) (key : Nat) : Dev :=
  match tget d.coh.txns key with
  | some t => d.setTxn key { t with data := zeroLine, dirty := true, poison := true, wb := true }
  | none => d.giveUp { kind := .wbDirty, who := .proxy, addr := 64 * key, bytes := zeroLine, poison := true }

/-- End what awaited an agent's response as though it had answered without data, and abandon its requests. A write-back that has
reached its slice is applied. -/
def Dev.forgetAgent (d : Dev) (a : Agent) : Dev :=
  let drop (l : List NMsg) : List NMsg := l.filter (fun m => m.who != a)
  let held (l : List NMsg) : List NMsg := l.filter (fun m => m.who != a || m.kind == .wbDirty)
  let d := d.modCoh (fun c => { c with noc := drop c.noc, held := held c.held, redQ := drop c.redQ, resvs := c.resvs.filter (fun r => r.who != a) })
  let d := foldDev d d.coh.txns (fun d p =>
    if p.2.waits.contains a then d.snpAcked { kind := .snpAck, who := a, addr := 64 * p.1 }
    else if p.2.wbs.contains a then d.wbCame p.1 a
    else d)
  let d := foldDev d d.coh.txns (fun d p =>
    if p.2.req.who == a then
      (if p.2.ack then d.endAck p.1 p.2 else (d.setTxn p.1 { p.2 with abandoned := true }).tryFinish p.1)
    else d)
  d.retryHeld

/-- R280: the slices reclaim every line that a quenched core holds. What a proxy has asked another node for is answered and given
straight back. -/
def Dev.reclaimCore (d : Dev) (h : Fin 64) : Dev :=
  let keys := (d.coh.filter.filter (fun p => p.2.any (fun q => q.1 == h)))
  let d := d.modCoh (fun c => { c with noc := c.noc.filter (fun m => m.who != .core h) })
  let d := foldDev d keys (fun d p =>
    let st : FSt := ((p.2.find? (fun q => q.1 == h)).map (·.2)).getD .s
    let d := d.setHolder p.1 h none
    if st = .s then d
    else if p.1 < 2 ^ 42 then
      let d := d.lostHolder p.1
      if st = .o then d.dropSharers p.1 else d
    else d.reclaimProxy p.1)
  let d := d.forgetAgent (.core h)
  let outs := (d.coh.proxy.filter (fun p => match p.2.out with | some m => m.who == .core h | none => false)).map (·.1)
  let d := foldDev d outs (fun d k => d.modProxy k (fun l => { l with out := l.out.map (fun m => { m with who := .firmware }) }))
  { d with writes := d.writes.filter (fun w => w.src != .core h) }

/-- A hart held in reset: its state and caches are lost; its timer, its interrupt files and its information record stay. -/
def Dev.resetCore (d : Dev) (h : Fin 64) : Dev :=
  d.modCore h (fun c => { imsic := c.imsic, repl := c.repl, imp := c.imp, impAddr := c.impAddr, mtimecmp := c.mtimecmp })

/-- R281: this node's homes reclaim what a dead node held. -/
def Dev.reclaimDir (d : Dev) (n : Fin 64) : Dev :=
  let es := d.coh.dir.filter (fun p => bit p.2.vec.toNat n.val)
  let d := foldDev d es (fun d p =>
    let own := p.2.mode != .shared && p.2.owner == n.val
    let d := d.dropHolder p.1 (.node n)
    if own then (d.lostHolder p.1).dropSharers p.1 else d)
  d.forgetAgent (.node n)

/-- The hart that a message's data belongs to: 0 where only the proxy knows the line. -/
def hartOf : Agent → Nat
  | .core h => h.val
  | _ => 0

/-- Dirty data of lines that no core holds: at a proxy slice, on its way between the node's units, or in a write-back that its home
has not acknowledged. Each line with the hart that held it. -/
def Dev.dirtyAway (d : Dev) : List (Nat × Nat) :=
  let msg (m : NMsg) : Option (Nat × Nat) :=
    if m.bytes.length = 64 && (m.kind == .wbDirty || ((m.kind == .data || m.kind == .snpAck) && m.dirty)) then some (maKey m.addr, hartOf m.who)
    else none
  (d.coh.noc ++ d.coh.held).filterMap msg ++
  d.coh.txns.filterMap (fun p => if p.2.dirty && !p.2.data.isEmpty then some (p.1, hartOf p.2.req.who) else none) ++
  d.coh.proxy.filterMap (fun p => if p.2.wbOut then some (p.1, 0) else none)

/-- One entry for each line. -/
def onePer : List (Nat × Nat) → List (Nat × Nat) := fun l => l.foldl (fun a p => if a.any (fun q => q.1 == p.1) then a else a ++ [p]) []

/-- R282: this node's proxy slices drop every line homed on a dead node; each dirty copy is reported (R528). `tell` is
false for a node that cleans up before it joins again (R283). -/
def Dev.dropRemote (d : Dev) (n : Nat) (tell : Bool) : Dev :=
  let mine (key : Nat) : Bool := maNode (64 * key) == some n
  let held (key : Nat) : Bool := d.cores.any (fun p => match tget p.2.lines key with
    | some l => l.st == .m || l.st == .o || l.st == .omD || l.st == .miA
    | none => false)
  let away := (onePer d.dirtyAway).filter (fun p => mine p.1 && !held p.1)
  let d := if tell then foldDev d away (fun d p => d.raise (evt 5 .lostStore .hub p.2 (gaddr (64 * p.1)).toNat 0)) else d
  let d := foldDev d allCores (fun d h =>
    foldDev d ((d.core h).lines.filter (fun p => mine p.1)) (fun d p =>
      let dirty := p.2.st == .m || p.2.st == .o || p.2.st == .omD || p.2.st == .miA
      let ga := (gaddr (64 * p.1)).toNat
      let d := d.modCore h (fun c => { (c.delLine p.1) with resv := if c.resv = some (p.1 / 2) then none else c.resv })
      let d := if dirty && tell then d.raise (evt 5 .lostStore .hub h.val ga 0) else d
      foldDev d p.2.acc (fun d a => d.refusedAcc h .unreachable a)))
  let d := foldDev d allCores (fun d h =>
    foldDev d ((d.core h).onces.filter (fun o => maNode o.addr == some n)) (fun d o => d.onceRefused h (maKey (o.addr + o.got.length))))
  let amos := (d.coh.proxy.filter (fun p => mine p.1)).filterMap (fun p => p.2.out.bind (fun m =>
    match m.who, m.kind with | .core h, .atomic => some (h, m.addr) | _, _ => none))
  let d := d.modCoh (fun c =>
    { c with
      filter := c.filter.filter (fun p => !mine p.1)
      proxy := c.proxy.filter (fun p => !mine p.1)
      txns := c.txns.filter (fun p => !mine p.1)
      noc := c.noc.filter (fun m => !mine (maKey m.addr))
      held := c.held.filter (fun m => !mine (maKey m.addr)) })
  foldDev d amos (fun d (p : Fin 64 × Nat) =>
    d.coreComp p.1 { kind := .comp, who := .core p.1, addr := p.2, body := .refused .unreachable })

/-- R283: before a node joins again, its cores hold no line of another node and its directory names no node. -/
def Dev.cleanRejoin (d : Dev) : Dev :=
  let d := foldDev d (List.finRange 64) (fun d n => d.dropRemote n.val false)
  foldDev d (List.finRange 64) (fun d n => d.reclaimDir n)

/-! ### Containment (R521, Table 17.3) -/

/-- Stages 1 and 2: every step in flight is discarded. What its running and queued operations were to write is undefined
(R73). -/
def Dev.contain (d : Dev) (silent selfQ : Bool) : Dev :=
  let ids := d.sched.steps.map (·.1)
  let c : Contain := d.faults.contain.getD { steps := [], t0 := d.hubCount }
  let c := { c with steps := (c.steps ++ ids).eraseDups, silent := c.silent || silent, selfQ := c.selfQ || selfQ }
  let d := foldDev d allEngines (fun d e =>
    if (d.eng e).step.isSome then
      let d := if (d.eng e).run.mustEnd && !(d.unit (engUnit e)).quenched then d else d.stopEng e
      d.modEng e (fun x => { x with halted := false, stepping := false })
    else d)
  let quiet (t : Tbl (List Xfer)) : Tbl (List Xfer) := t.map (fun (p : Nat × List Xfer) => (p.1, []))
  let d := { d with tongs := quiet d.tongs }
  let outs := (d.anvil.ops.map (·.2)).flatMap (fun o => opOuts o.desc) ++
    d.sched.steps.flatMap (fun p => p.2.lostOps.flatMap (fun o => if d.away p.1 p.2 then [] else opOuts o.desc))
  let d := foldDev d outs (fun d r => d.freeRange (vatOff r.1) r.2)
  let d := d.modAnvil (fun a => { a with ops := [], queue := ⟨[], []⟩, issues := [], acc := ⟨[], []⟩ })
  let clr (x : Xlate) : Xlate := { x with recs := [], waiting := [], walks := [] }
  let d := { d with xlate := ⟨clr d.xlate.w, clr d.xlate.e⟩ }
  let d := d.modSched (fun s =>
    { s with
      steps := s.steps.map (fun (p : Nat × Step) =>
        (p.1, { p.2 with phase := .stopping, outcome := some { status := .discarded }, nsum := 0, parked := none, lostOps := [] }))
      half := ⟨{ s.half.w with waiting := none, blocked := [], timedOut := [] },
               { s.half.e with waiting := none, blocked := [], timedOut := [] }⟩ })
  let d := d.modHost (fun h =>
    { h with ctxs := h.ctxs.map (fun (p : Nat × Ctx) => (p.1, { p.2 with recs := p.2.recs.filter (fun r => r.step.isNone) })) })
  d.modFaults (fun f => { f with contain := some c })

/-- R514. -/
def Dev.packageFault (d : Dev) (u : UnitId) : Dev :=
  let d := d.modFaults (fun f => { f with pkgFault := true })
  (d.raise (relEvt 8 u u.code.val 0)).contain false false

/-- Stage 3: everything that the discarded steps issued has been acknowledged or resolved. -/
def Dev.settled (d : Dev) (ids : List Nat) : Bool :=
  !d.writes.any (fun w => match w.step with | some n => ids.contains n | none => false) &&
  ids.all (fun n => match d.step? n with | some s => !d.inFlight n s | none => true)

/-- Discarded steps in the order of their records: ring by ring, in descriptor-count order (R524). -/
def Dev.discardOrder (d : Dev) (ids : List Nat) : List Nat :=
  ids.filter (fun n => (d.step? n).isSome)

/-- Stages 5 to 7: grants go back, DISCARDED records and CONTAINED are posted, the rings are held, and the scheduler
resumes (R524, R525). -/
def containmentSettled (d : Dev) : Dev :=
  match d.faults.contain with
  | none => d
  | some c =>
    if !d.settled c.steps then d
    else
      let ids := d.discardOrder c.steps
      let rings := (ids.filterMap (fun n => (d.step? n).map (·.ring))).eraseDups
      let d := foldDev d ids (fun d n => (d.freeRegions n).release n)
      let d := if c.silent then d.modSched (fun s => { s with steps := s.steps.filter (fun p => !ids.contains p.1) })
        else foldDev d ids (fun d n => d.finish n)
      let d := d.modHost (fun h =>
        { h with rings := h.rings.map (fun (p : Nat × Ring) => if rings.contains p.1 then (p.1, { p.2 with held := true }) else p) })
      let d := d.modFaults (fun f => { f with contain := none })
      d.raise (evt 12 .ok .hub 4 ids.length (d.hubCount - c.t0).toNat)

def execContainmentSettled (s : State) : Res := onDev s containmentSettled

/-! ### Quench (R518 to R520) -/

def quenchable (u : UnitId) : Bool := 1 ≤ u.code.val && u.code.val ≤ 4

def dieHalf : Die → Half
  | .east => .east
  | _ => .west

/-- The agents whose messages a unit sends. -/
def unitAgents (u : UnitId) : List Agent :=
  let h := dieHalf u.die
  let k := u.unit.toNat
  if u.code = 2 then [.engine (Fin.ofNat 128 (64 * halfIdx h + k))]
  else if u.code = 3 then (List.range 8).map (fun i => .tongs (Fin.ofNat 128 (64 * halfIdx h + 8 * (k / 4) + i)) (Fin.ofNat 4 (k % 4)))
  else if u.code = 4 then [.core (Fin.ofNat 64 k)]
  else []

/-- A unit's messages in flight are dropped and counted as stale (R518, R519), and its writes and what it has queued for other nodes
with them (R298). -/
def Dev.fence (d : Dev) (u : UnitId) : Dev :=
  let as_ := unitAgents u
  let sent (q : Nat × ChainPkt) : Bool := as_.any (fun a => agentUnit 0 a == (q.2.utype.toNat, q.2.unit.toNat) && agentUnit 0 a != agentUnit 0 .firmware)
  let gone := (d.coh.noc.filter (fun m => as_.contains m.who)).length + (d.chain.waitSend.filter sent).length
  let d := foldDev d as_ (fun d a => match a with | .core h => (d.reclaimCore h).resetCore h | a => d.forgetAgent a)
  let d := { d with writes := d.writes.filter (fun w => !as_.contains w.src) }
  let d := d.modChain (fun c =>
    { c with
      reqs := c.reqs.filter (fun q => !as_.contains (.engine q.eng))
      coreReqs := c.coreReqs.filter (fun q => !as_.contains (.core q.hart))
      waitSend := c.waitSend.filter (fun q => !sent q) })
  d.modUnit u (fun r => { r with stale := sat32 (r.stale + gone) })

/-- Retire a unit's logical identity: RETIRED, and HART for an application core (Table 17.6, Table 14.9). -/
def Dev.retireUnit (d : Dev) (u : UnitId) (why : Nat) : Dev :=
  if (d.unit u).st = .retired then d
  else
    let d := d.modUnit u (fun r => { r with st := .retired, awaiting := false, testing := false })
    let d := d.raise (relEvt 2 u why 0)
    if u.code = 4 then d.raise (evt 15 .ok u.die u.unit.toNat 2 0) else d

/-- Quench a unit. `why` is ARG1 of QUENCH. Past incarnation 15 the identity is retired, and an Anvil half is a package
fault. -/
def Dev.quench (d : Dev) (u : UnitId) (why : Nat) (test : Bool) : Dev :=
  let r := d.unit u
  if r.quenched && r.testing then d
  else
    let d := d.fence u
    if r.inc = 15 then
      let d := d.modUnit u (fun r => { r with quenched := true, testing := false })
      let d := d.raise (relEvt 3 u 15 why)
      if u.code = 1 then d.packageFault u else (d.retireUnit u 1).contain false false
    else
      let d := d.modUnit u (fun r => { r with quenched := true, testing := test, inc := r.inc + 1 })
      (d.raise (relEvt 3 u (r.inc.toNat + 1) why)).contain false false

/-! ### Lasting failures (R513, Table 17.2) -/

/-- Place of an engine's or core's half in the spare tables. -/
def unitHalf (u : UnitId) : Half := if u.code = 4 then halfOf (decide (32 ≤ u.unit.toNat)) else dieHalf u.die

/-- Retire every engine of a cluster whose Tongs engines are all gone (R515). -/
def Dev.retireCluster (d : Dev) (h : Half) (cl : Nat) : Dev :=
  if (List.range 4).all (fun k => (d.unit (tongsUnit h (4 * cl + k))).st == .retired) then
    foldDev d (List.range 8) (fun d i => d.retireUnit (engUnit (Fin.ofNat 128 (64 * halfIdx h + 8 * cl + i))) 2)
  else d

/-- A row repair at the next start-up, while the bank has spare rows (Table 17.2, R517, R613). -/
def Dev.deferRow (d : Dev) (u : UnitId) (spare : Nat) (loc : Nat) : Dev :=
  let used := match d.faults.vatRows.find? (fun p => p.1 == u) with | some p => p.2 | none => 0
  if used < spare then
    let d := d.modFaults (fun f =>
      { f with vatRows := f.vatRows.filter (fun p => p.1 != u) ++ [(u, used + 1)], repairs := f.repairs ++ [(u, BitVec.ofNat 64 loc)] })
    (d.modUnit u (fun r => { r with st := .repairPending })).raise (relEvt 6 u (spare - used - 1) loc)
  else d.raise (relEvt 7 u 0 loc)

/-- The DQ lane group or address lane group whose one spare a lane uses (chapter 12, lane repair). -/
def laneGroup (u : UnitId) : Nat :=
  let n := u.unit.toNat
  if fld n 0 6 ≤ 36 then at_ 8 (fld n 8 8) else at_ 9 (fld n 9 7) + 1

/-- Whether a lane's spare is in use. -/
def Dev.laneUsed (d : Dev) (u : UnitId) : Bool := d.faults.laneSpare.any (fun v => v.die == u.die && laneGroup v == laneGroup u)

/-- Whether a lane's spare is promised to another lane of its group, whose repair is under way (log 71). -/
def Dev.lanePending (d : Dev) (u : UnitId) : Bool :=
  d.faults.units.any (fun p => p.1 != u && p.1.code == 8 && p.1.die == u.die && p.2.st == .repairPending && laneGroup p.1 == laneGroup u)

/-- What the repair store holds of a lane: 0 for a lane steered onto its spare, this for one whose stack is to be mapped out (R386,
R387). -/
def mapOut : Word := 1

/-- The action of Table 17.2 for a unit declared lastingly failed; `loc` is where the error lay. -/
def Dev.lasting (d : Dev) (u : UnitId) (loc : Nat) : Dev :=
  let h := unitHalf u
  let n := u.unit.toNat
  let r := d.unit u
  match u.code.val with
  | 0 =>
    let q := n / 256
    let pend := ((Two.get d.anvil.failedCols h).filter (fun c => c / 256 == q)).length
    if bit (Two.get d.anvil.retiredQ h).toNat q || (Two.get d.anvil.failedCols h).contains n then d
    else if pend < lgetD (Two.get d.anvil.spares h) q 0 then
      (d.modAnvil (fun a => { a with failedCols := Two.mod a.failedCols h (· ++ [n]) })).modUnit u (fun r => { r with awaiting := true })
    else
      (d.modAnvil (fun a => { a with retiredQ := Two.mod a.retiredQ h (· ||| BitVec.ofNat 4 (2 ^ q)) })).retireUnit u 0
  | 2 =>
    if r.st = .retired || r.awaiting then d
    else if bit (Two.get d.faults.clusterSpare h).toNat (n / 8) then d.retireUnit u 0
    else
      (d.modFaults (fun f => { f with clusterSpare := Two.mod f.clusterSpare h (· ||| BitVec.ofNat 8 (2 ^ (n / 8))) })).modUnit u
        (fun r => { r with awaiting := true, testing := false })
  | 3 => (d.retireUnit u 0).retireCluster h (n / 4)
  | 4 =>
    let d := if r.quenched then d else d.quench u 3 false
    let d := d.modUnit u (fun r => { r with testing := false })
    let left := Two.get d.faults.coreSpares h
    if (d.unit u).st = .retired then d
    else if left = 0 then d.retireUnit u 0
    else
      let phys := 32 + (2 - left)
      let d := d.modFaults (fun f => { f with coreSpares := Two.set f.coreSpares h (left - 1) })
      let d := d.modUnit u (fun r => { r with st := .replaced, quenched := false, phys := some phys })
      let d := d.modCore (Fin.ofNat 64 n) (fun c => { c with repl := true })
      (d.raise (relEvt 1 u phys (left - 1))).raise (evt 15 .ok u.die n 1 0)
  | 6 => d.deferRow u 8 (fld loc 12 16)
  | 7 => d.deferRow u 4 (loc % 4096)
  | 8 =>
    if d.laneUsed u || d.lanePending u then
      (d.modFaults (fun f => { f with repairs := f.repairs ++ [(u, mapOut)] })).packageFault u
    else d.modUnit u (fun r => { r with st := .repairPending })
  | 9 => d.modHbm (fun x => { x with quarter := x.quarter ++ [(dieIdx u.die, fld n 13 3)] })
  | 10 =>
    (d.modFaults (fun f => { f with ddrPend := f.ddrPend ++ [(u, BitVec.ofNat 64 loc)] })).modUnit u (fun r => { r with st := .repairPending })
  | 11 => d.modPort (fld n 8 4) (fun q => { q with laneBad := q.laneBad ||| BitVec.ofNat 8 (2 ^ (n % 8)) })
  | 12 => d
  | _ => d.packageFault u

/-! ### Counting (R512) -/

/-- THRESH and WINDOW in ms of Table 17.2; none where the table shows —. -/
def defaultThresh (code : Nat) (unc : Bool) : Option (Nat × Nat) :=
  let day := 86400000
  let week := 604800000
  match code, unc with
  | 0, false => some (16, day)
  | 0, true => some (2, week)
  | 1, true => some (4, week)
  | 2, false => some (32, day)
  | 2, true => some (2, week)
  | 3, false => some (16, day)
  | 3, true => some (2, week)
  | 4, false => some (32, day)
  | 4, true => some (2, week)
  | 5, false => some (64, day)
  | 5, true => some (1, week)
  | 6, false => some (64, day)
  | 6, true => some (4, week)
  | 7, false => some (16, day)
  | 7, true => some (4, week)
  | 8, false => some (64, 3600000)
  | 9, true => some (16, day)
  | 10, false => some (8, day)
  | 10, true => some (2, week)
  | 11, false => some (4096, 100)
  | 12, false => some (4096, 1000)
  | 13, false => some (32, day)
  | 13, true => some (1, week)
  | _, _ => none

def Dev.threshOf (d : Dev) (code : Nat) (unc : Bool) : Option (Nat × Nat) :=
  match d.faults.thresh.find? (fun p => p.1 == (code, unc)) with
  | some p => some p.2
  | none => defaultThresh code unc

/-- Whether a unit of Table 17.2 exists. -/
def unitOk (u : UnitId) : Bool :=
  let n := u.unit.toNat
  let onHalf := u.die != .hub
  let onHub := u.die == .hub
  match u.code.val with
  | 0 => onHalf && decide (n < 1024)
  | 1 => onHalf && n == 0
  | 2 => onHalf && decide (n < 64)
  | 3 => onHalf && decide (n < 32)
  | 4 => (u.die == .west && decide (n < 32)) || (u.die == .east && decide (32 ≤ n) && decide (n < 64))
  | 5 => onHalf && decide (n < 16)
  | 6 => onHalf && decide (n < 64)
  | 7 => onHalf && decide (n < 16)
  | 8 => onHalf && decide (fld n 13 3 < 6) && fld n 6 2 == 0 && decide (fld n 0 6 < 48)
  | 9 => onHalf && decide (fld n 13 3 < 6) && fld n 0 8 == 0
  | 10 => onHub && decide (n < 8)
  | 11 => onHub && fld n 12 4 == 0 && fld n 3 5 == 0
  | 12 => onHub && decide (n < 4)
  | _ => onHub && decide (n < 20)

/-- Count one error; at THRESH the unit is declared lastingly failed (LASTING) and Table 17.2's action follows. -/
def Dev.countErr (d : Dev) (u : UnitId) (unc : Bool) (loc : Nat) : Dev :=
  match d.threshOf u.code.val unc with
  | none => if unc then d else d.modUnit u (fun r => { r with ctotal := sat32 (r.ctotal + 1) })
  | some (th, _) =>
    let r := d.unit u
    let n := (if unc then r.uc else r.cc) + 1
    let hit := decide (th ≤ n)
    let d := d.modUnit u (fun r =>
      let v := if hit then 0 else n
      let r := if unc then { r with uc := v } else { r with cc := v, ctotal := sat32 (r.ctotal + 1) }
      r)
    if hit then (d.raise (relEvt 0 u (b2n unc) th)).lasting u loc else d

/-! ### Errors of units (R178, R383, R512, R518, R610) -/

/-- The unit of Table 17.2 that an error of a line counts for: its HBM pseudo-channel, or its DDR channel's rows. -/
def Dev.lineUnit (d : Dev) (l : Nat) : UnitId :=
  match d.hbmPlace (64 * l) with
  | some (h, st, pc) => ⟨9, dieOf h, BitVec.ofNat 16 (8192 * st + 256 * pc)⟩
  | none => ⟨10, .hub, BitVec.ofNat 16 (ddrChan l)⟩

/-- A line without another copy is lost (R383): its sharers give their copies up, and it is poisoned and reported. -/
def Dev.lineGone (d : Dev) (l : Nat) : Dev :=
  ((d.countErr (d.lineUnit l) true (64 * l)).dropSharers l).loseLine (64 * l) 0 (dieOf (d.homeHalf (64 * l)))

/-- A line is found uncorrectable (R383): it is rewritten from a copy on chip or an owner, which counts as a corrected error, or
else poisoned and reported. Poison that was there already counts nothing. An owner on another node is asked with SnpOnce, and its data
rewrites the line. -/
def Dev.lineFound (d : Dev) (l : Nat) : Dev :=
  let u := d.lineUnit l
  if d.isPoison l then d
  else if d.coh.sysCache.contains l || d.coh.redBuf.any (fun x => x.1 == l) then d.countErr u false (64 * l)
  else match d.owner l, d.flying l, d.farOwner l with
    | some (_, c), _, _ => (d.countErr u false (64 * l)).toMemory (64 * l) c.data c.poison c.fresh
    | none, some (bs, p), _ => (d.countErr u false (64 * l)).toMemory (64 * l) bs p false
    | none, none, some _ =>
      let m : NMsg := { kind := .snpOnce, who := .firmware, addr := 64 * l }
      let d := d.countErr u false (64 * l)
      if d.busyLine l then d.holdMsg m else d.startTxn m
    | none, none, none => d.lineGone l

/-- The pseudo-channel of a lane. -/
def laneChan (u : UnitId) : UnitId := ⟨9, u.die, BitVec.ofNat 16 (at_ 8 (fld u.unit.toNat 8 8))⟩

/-- A correctable error counts for the pseudo-channel and for the lane (R382), or for a DDR channel. -/
def Dev.countFixed (d : Dev) (u : UnitId) (lane loc : Nat) : Dev :=
  let d := d.countErr u false loc
  if u.code = 9 then d.countErr ⟨8, u.die, u.unit + BitVec.ofNat 16 lane⟩ false loc else d

/-- A correctable error of a line on one of its lanes (R382). A poisoned line is recognised through it, and nothing is counted (R383). -/
def Dev.lineFixed (d : Dev) (l lane : Nat) : Dev := if d.isPoison l then d else d.countFixed (d.lineUnit l) lane (64 * l)

/-- R610: an object with an uncorrectable error is poisoned; its waits and its owning step end with POISON. -/
def Dev.poisonObj (d : Dev) (obj : Nat) : Dev :=
  let o := d.obj obj
  let d := (d.setObj obj { o with poisoned := true }).dropWaits obj .poison
  match o.owner with
  | some (.step n) => d.failStep n .poison 0 (objAddr obj)
  | _ => d

/-- R178: an uncorrectable error in a granted Vat byte ends the owning step; in any other byte nothing is lost. -/
def Dev.vatError (d : Dev) (h : Half) (v : Nat) : Dev :=
  let a := 0x10000000 * halfIdx h + v
  match d.sched.steps.find? (fun p => p.2.holds && !d.away p.1 p.2 && p.2.covers a 1) with
  | some p => d.failStep p.1 .poison 0 (ownAddr (vatOff a))
  | none => d

/-- The Vat offset that a bank holds at the row and byte of a location: its bank number is v[11:6] XOR v[17:12], and its row
v[27:12] (R171). -/
def bankAddr (bank loc : Nat) : Nat :=
  let row := fld loc 12 16
  at_ 12 row + at_ 6 (Nat.xor bank (row % 64) % 64) + loc % 64

/-- A unit in service that reports an uncorrected error in its own state is quenched (R518). -/
def Dev.quenchFor (d : Dev) (u : UnitId) : Dev :=
  if quenchable u && !(d.unit u).quenched && (d.unit u).st != .retired then d.quench u 0 (!(d.unit u).awaiting) else d

/-- An uncorrected error: what it does to the unit or to what the unit held, and its count, which may end in a lasting failure of the
unit that was quenched (R512, R518; DESIGN CHOICE, log 190: the quench comes before the count). -/
def uncorrected (d : Dev) (u : UnitId) (loc : Nat) : Dev :=
  if !unitOk u then d
  else
    let h := dieHalf u.die
    match u.code.val with
    | 6 => (d.countErr u true loc).vatError h (bankAddr u.unit.toNat loc)
    | 7 => (d.countErr u true loc).poisonObj (65536 * halfIdx h + 4096 * u.unit.toNat + loc % 4096)
    | 12 => d.packageFault u
    | 9 =>
      let here := match d.hbmPlace loc with
        | some (g, st, pc) => dieOf g == u.die && u.unit.toNat == 8192 * st + 256 * pc
        | none => false
      if here then d.lineFound (loc / 64) else d.countErr u true loc
    | 10 =>
      if d.backing loc = .ddr && d.lineUnit (loc / 64) == u then d.lineFound (loc / 64) else d.countErr u true loc
    | 0 => (d.quenchFor (anvilUnit h)).countErr u true loc
    | _ => (d.quenchFor u).countErr u true loc

def execUncorrectedError (u : UnitId) (loc : Word) (s : State) : Res := onDev s (fun d => uncorrected d u loc.toNat)

/-- A parity error of an engine's cache line invalidates the line, so that the next access refetches it (R131). The location is
the line's local offset (log 66). -/
def Engine.dropParity (x : Engine) (off : Nat) : Engine :=
  { x with l1d := x.l1d.filter (fun p => p.1 != off / 64), l1i := x.l1i.filter (· != off / 64) }

/-- A codeword that corrected more than 8 symbols on a lane adds them to its port's FEC count (Table 17.2, R432). -/
def Dev.fecSymbols (d : Dev) (u : UnitId) : Dev :=
  let (k, d) := d.draw
  d.modPort (fld u.unit.toNat 8 4) (fun p => { p with fecCorr := p.fecCorr + 9 + (Config.freeWord k).toNat % 7 })

/-- A corrected error: counted, and what it does besides: an engine's or a core's cache line is dropped and fetched again (R131, R286,
log 66), and an error of a stack counts for the lane and the pseudo-channel (R382), of which the report names one. The lane that a
pseudo-channel's report leaves open is free. -/
def corrected (d : Dev) (u : UnitId) (loc : Nat) : Dev :=
  if !unitOk u then d
  else
    let d := d.countErr u false loc
    if u.code = 8 then d.countErr (laneChan u) false loc
    else if u.code = 9 then
      let (k, d) := d.draw
      d.countErr ⟨8, u.die, u.unit + BitVec.ofNat 16 ((Config.freeWord k).toNat % 36)⟩ false loc
    else if u.code = 4 then d.modCore (Fin.ofNat 64 u.unit.toNat) (fun c => c.l1Drop (loc % 2 ^ 48 / 64))
    else if u.code = 11 then d.fecSymbols u
    else if u.code = 2 then
      d.modEng (Fin.ofNat 128 (64 * halfIdx (dieHalf u.die) + u.unit.toNat)) (fun x => x.dropParity (loc % 2 ^ 48))
    else d

/-- ERROR_COUNTER_LEAK (R512): a counter loses 1 and never goes below 0; with THRESH 1 the window is ignored. -/
def execErrorCounterLeak (u : UnitId) (uncorrected : Bool) (s : State) : Res :=
  onDev s (fun d =>
    match d.threshOf u.code.val uncorrected with
    | some (th, _) =>
      if th = 1 || !unitOk u then d
      else d.modUnit u (fun r => if uncorrected then { r with uc := r.uc - 1 } else { r with cc := r.cc - 1 })
    | none => d)

/-- BELLOWS_PROBE (R518): a probe asks and changes nothing; PROBE_TIMEOUT is its failure. -/
def execBellowsProbe (_die : Die) (s : State) : Res := onDev s (fun d => d)

/-- Whether a debugger holds a hart or an engine: it answers probes all the same (R557). -/
def Dev.unitHalted (d : Dev) (u : UnitId) : Bool :=
  (u.code = 2 && (d.eng (Fin.ofNat 128 (64 * halfIdx (dieHalf u.die) + u.unit.toNat))).halted) ||
  (u.code = 4 && (d.core (Fin.ofNat 64 u.unit.toNat)).halted)

/-- PROBE_TIMEOUT (R518). -/
def execProbeTimeout (u : UnitId) (s : State) : Res :=
  onDev s (fun d => if unitOk u && quenchable u && d.unitUp u && !d.unitHalted u then d.quench u 1 true else d)

/-- SELF_TEST_DONE (R513, R519): back to service under the new incarnation, a core held in reset, or lastingly failed. -/
def selfTestDone (d : Dev) (u : UnitId) (pass : Bool) : Dev :=
  let r := d.unit u
  if !unitOk u || !r.quenched || !r.testing then d
  else if pass then
    (d.modUnit u (fun r => { r with quenched := false, testing := false })).raise (relEvt 5 u r.inc.toNat 0)
  else ((d.modUnit u (fun r => { r with testing := false })).raise (relEvt 0 u 2 0)).lasting u 0

def execSelfTestDone (u : UnitId) (pass : Bool) (s : State) : Res := onDev s (fun d => selfTestDone d u pass)

/-- ONPACKAGE_LINK_FAILURE (R20): a package fault. -/
def execOnpackageLinkFailure (link : Fin 4) (s : State) : Res :=
  onDev s (fun d => d.packageFault ⟨12, .hub, BitVec.ofNat 16 link.val⟩)

/-- SPARE_ENGINE_SUBSTITUTE (R111, R520): the cluster's spare takes the failed engine's place once no step holds an engine
of the cluster. -/
def spareEngine (d : Dev) (h : Half) (c : Fin 8) : Dev :=
  let es := allEngines.filter (fun e => engHalf e == h && engIdx e / 8 == c.val)
  match es.find? (fun e => (d.unit (engUnit e)).awaiting) with
  | none => d
  | some e =>
    if es.any (fun e => (d.eng e).step.isSome) then d
    else
      let u := engUnit e
      let phys := 9 * c.val + 8
      let d := d.setEng e {}
      let d := d.modUnit u (fun r => { r with st := .replaced, awaiting := false, quenched := false, testing := false, phys := some phys })
      d.raise (relEvt 1 u phys 0)

def execSpareEngineSubstitute (h : Half) (c : Fin 8) (s : State) : Res := onDev s (fun d => spareEngine d h c)

end Sys2Proof.Machine
end

