-- ==== Sys2Proof/Machine/MemTiers.lean ====
section
/-!
DEFINITION. Movement of frames between tiers, the Cave, the patrol scrub and margining (chapters 11 and 12): the commands
of the tiers.
-/
namespace Sys2Proof.Machine

/-! ### Pools of free space (R340, R348) -/

/-- What R348 measures free space in: each half's HBM in MiB, the DDR tier and the Cave tier in frames. -/
inductive Pool where
  | hbm (h : Half)
  | ddr
  | cave
deriving DecidableEq, Repr

def Dev.poolCap (d : Dev) : Pool → Nat
  | .hbm h => d.hbmMiB h
  | .ddr => d.ddrCap
  | .cave => d.caveCap

def Dev.poolUsed (d : Dev) : Pool → Nat
  | .hbm h => d.hbmUsed h
  | .ddr => d.tierUsed .ddr
  | .cave => d.tierUsed .cave

/-- What a frame takes of a pool when a tier backs it. -/
def poolPart (p : Pool) (f : Frame) (b : Back) : Nat :=
  match p, b with
  | .hbm h, .hbm => hbmPart f.il f.home h
  | .ddr, .ddr => 1
  | .cave, .cave => 1
  | _, _ => 0

def poolsOf : Back → List Pool
  | .hbm => [.hbm .west, .hbm .east]
  | .ddr => [.ddr]
  | .cave => [.cave]
  | .unbacked => []

/-- Free space of a pool once the moves chosen so far have been made. -/
def Dev.poolFree (d : Dev) (p : Pool) (chosen : List (Nat × Back)) : Int :=
  let leave : Nat := (chosen.map (fun m => poolPart p (d.frame m.1) (d.frame m.1).back)).sum
  let come : Nat := (chosen.map (fun m => if (d.frame m.1).shTier = m.2 then 0 else poolPart p (d.frame m.1) m.2)).sum
  (d.poolCap p : Int) - d.poolUsed p + leave - come

/-- Whether free space is below a percentage of the pool. -/
def Dev.poolBelow (d : Dev) (p : Pool) (pct : Nat) (chosen : List (Nat × Back)) : Bool :=
  decide (d.poolFree p chosen * 100 < (pct * d.poolCap p : Nat))

/-- Whether free space is above a percentage of the pool. -/
def Dev.poolAbove (d : Dev) (p : Pool) (pct : Nat) (chosen : List (Nat × Back)) : Bool :=
  decide ((pct * d.poolCap p : Nat) < d.poolFree p chosen * 100)

/-! ### The choice of moves (R348) -/

/-- Whether an enabled placement region covers any part of a frame (R341). -/
def Dev.regionOn (d : Dev) (f : Nat) : Bool :=
  d.host.regions.any (fun p => p.2.st == .on && p.2.pages.any (fun o => o * 4096 / frameSize == f))

/-- Whether a frame may move to a tier now: space and quota, or its shadow's place (R343, R347, R364), with what the moves chosen so
far take of both. -/
def Dev.mayMove (d : Dev) (n : Nat) (b : Back) (chosen : List (Nat × Back) := []) : Bool :=
  let f := d.frame n
  let shadow := f.shTier == b && b != .unbacked
  let came := chosen.filter (fun m => m.2 == b && m.1 != n)
  let taken (p : Pool) : Nat :=
    d.poolUsed p + (came.map (fun m => if (d.frame m.1).shTier = b then 0 else poolPart p (d.frame m.1) b)).sum
  decide (d.charged f.ctx b + (came.filter (fun m => (d.frame m.1).ctx == f.ctx)).length < d.quota f.ctx b) &&
  (b != .cave || d.cave.st == .normal || d.cave.st == .degraded) &&
  (shadow || (poolsOf b).all (fun p => decide (taken p + poolPart p f b ≤ d.poolCap p))) && b != .unbacked &&
  (b != .cave || !d.regionOn n) && !(b == .ddr && shadow && d.faults.ddrBad.contains f.shLoc)

/-- Whether the device may choose a frame: nothing moves it, and it was not abandoned within two epochs (R352). -/
def Dev.mayChoose (d : Dev) (n : Nat) (chosen : List (Nat × Back)) : Bool :=
  !thas d.tiers.moves n && !chosen.any (fun m => m.1 == n) && decide (tgetD d.tiers.noMove n 0 ≤ d.tiers.epochNo)

/-- Bytes that a move copies (R347). -/
def moveCost (f : Frame) (b : Back) : Nat := if f.shTier = b then 65536 * popCount f.wdirty.toNat 32 else frameSize

structure Sel where
  chosen : List (Nat × Back) := []
  left : Nat

/-- Choose a move within the budget. -/
def Dev.selMove (d : Dev) (x : Sel) (n : Nat) (b : Option Back) : Sel :=
  match b with
  | none => x
  | some b =>
    let c := moveCost (d.frame n) b
    if c ≤ x.left && d.mayChoose n x.chosen then { chosen := x.chosen ++ [(n, b)], left := x.left - c } else x

/-- First tier of the demotion order that lies below a frame's backing and may take it. -/
def Dev.demoteTo (d : Dev) (n : Nat) (chosen : List (Nat × Back)) : Option Back :=
  let f := d.frame n
  (demoteOrder f.policy).find? (fun b => decide (tierRank b < tierRank f.back) && d.mayMove n b chosen)

/-- Frames by HEAT: coldest first, then by number. -/
def Dev.byHeat (d : Dev) : List Nat := sortKeys (d.tiers.frames.map (fun p => ([p.2.heat, p.1], p.1)))

/-- Step 1 of R348 for one pool. -/
def Dev.relieve (d : Dev) (x : Sel) (p : Pool) : Sel :=
  let w := d.tiers.params.watermark
  if !d.poolBelow p w x.chosen then x
  else d.byHeat.foldl (fun x n =>
    let f := d.frame n
    if d.poolBelow p (2 * w) x.chosen && decide (f.heat ≤ d.tiers.params.demote) && decide (poolPart p f f.back ≠ 0) then
      d.selMove x n (d.demoteTo n x.chosen)
    else x) x

/-- Step 2: cold capacity frames above the Cave. -/
def Dev.sinkCold (d : Dev) (x : Sel) : Sel :=
  d.byHeat.foldl (fun x n =>
    let f := d.frame n
    if f.policy = .capacity && (f.back = .hbm || f.back = .ddr) && decide (f.heat ≤ d.tiers.params.demote) && d.mayMove n .cave x.chosen then
      d.selMove x n (some .cave)
    else x) x

/-- Step 3: hot frames go one tier up while the destination stays above WATERMARK. -/
def Dev.liftHot (d : Dev) (x : Sel) : Sel :=
  d.byHeat.reverse.foldl (fun x n =>
    let f := d.frame n
    let up : Option Back := match f.back with | .cave => some .ddr | .ddr => some .hbm | _ => none
    match up with
    | some b =>
      if decide (d.tiers.params.promote ≤ f.heat) && decide (tierRank b ≤ tierRank (ceiling f.policy)) && d.mayMove n b x.chosen &&
         (poolsOf b).all (fun p => d.poolAbove p d.tiers.params.watermark (x.chosen ++ [(n, b)])) then d.selMove x n (some b)
      else x
    | none => x) x

/-- Whether a frame lies in the Cave or is on its way there. -/
def Tiers.toCave (t : Tiers) (n : Nat) (f : Frame) : Bool :=
  f.back == .cave || (match tget t.moves n with | some m => m.dst == .cave | none => false)

/-- Policies set since the last epoch take effect (R338). A frame of the Cave becomes pinned-HBM only when it has left the Cave
(R357, log 183). -/
def Dev.newPolicies (d : Dev) : Dev :=
  d.modTiers (fun t =>
    let bars (p : Policy) (q : Nat × Frame) : Bool := p == .pinnedHbm && t.toCave q.1 q.2
    let pol (q : Nat × Frame) : Policy :=
      match (tget t.allocs q.2.alloc).bind (·.newPolicy) with
      | some p => if bars p q then q.2.policy else p
      | none => q.2.policy
    let waits (p : Nat × Alloc) : Bool :=
      match p.2.newPolicy with
      | some x => t.frames.any (fun q => q.2.alloc == p.1 && bars x q)
      | none => false
    { t with
      frames := t.frames.map (fun (q : Nat × Frame) => (q.1, { q.2 with policy := pol q }))
      allocs := t.allocs.map (fun (p : Nat × Alloc) =>
        (p.1, { p.2 with policy := p.2.newPolicy.getD p.2.policy, newPolicy := if waits p then p.2.newPolicy else none })) })

/-- Shadows that the device discards to free space (R346): at the end of an epoch, each by a free choice (log 73). A shadow that
a move copies into stays. -/
def Dev.dropShadows (d : Dev) : Dev :=
  let (k, d) := d.draw
  let gone (n : Nat) (f : Frame) : Bool :=
    f.shTier != .unbacked && !thas d.tiers.moves n && Config.freeBool (2 ^ 80 + 2 ^ 26 * k + n)
  let lost := (d.tiers.frames.filter (fun p => gone p.1 p.2 && p.2.shTier == .cave)).map (·.1)
  (d.modTiers (fun t =>
    { t with frames := t.frames.map (fun (p : Nat × Frame) =>
        (p.1, if gone p.1 p.2 then { p.2 with shTier := .unbacked, shLoc := 0 } else p.2)) })).modCave (fun c =>
    { c with staged := c.staged.filter (fun s => !lost.contains s.1) })

/-- EPOCH_END: the moves of R348 are chosen by the HEAT of the epoch that ends, and then every HEAT is halved. -/
def epochEnd (d : Dev) : Dev :=
  let d := d.newPolicies.dropShadows
  let d := d.modTiers (fun t => { t with epochNo := t.epochNo + 1, chosen := [] })
  let p := d.tiers.params
  let x : Sel := { left := p.migbw * 1000000 * p.epoch }
  let x := if p.migbw = 0 then x
    else d.liftHot (d.sinkCold ([Pool.hbm .west, .hbm .east, .ddr].foldl d.relieve x))
  d.modTiers (fun t =>
    { t with chosen := x.chosen, frames := t.frames.map (fun (q : Nat × Frame) => (q.1, { q.2 with heat := q.2.heat / 2 })) })

def execEpochEnd (s : State) : Res := onDev s epochEnd

/-! ### Migrations (R349 to R353, Table 11.5) -/

/-- Whether a frame was abandoned within two epochs (R352). -/
def Dev.barred (d : Dev) (n : Nat) : Bool := decide (d.tiers.epochNo < tgetD d.tiers.noMove n 0)

/-- Where a frame is wanted: by R348, by a FRAME_MOVE (R349), or away from a DDR row without repair (R516). A demotion chosen into a
tier that has become full goes on to the next one of its order (R343). -/
def Dev.wanted (d : Dev) (n : Nat) : Option Back :=
  if d.barred n then none
  else match d.tiers.chosen.find? (fun m => m.1 == n) with
  | some m =>
    if tierRank m.2 < tierRank (d.frame n).back && !d.mayMove n m.2 then some ((d.demoteTo n []).getD m.2) else some m.2
  | none =>
    (d.tiers.moveJobs.find? (fun j =>
      j.2.1 == (d.frame n).alloc && (d.frame n).back != .unbacked && (d.frame n).back != j.2.2.1 &&
        policyAllows (d.frame n).policy j.2.2.1)).map (·.2.2.1)

/-- Sub-blocks that a move copies first (R347). -/
def moveSubs (f : Frame) (shadow : Bool) : List Nat := if shadow then (List.range 32).filter (bit f.wdirty.toNat) else List.range 32

/-- Room in the staging area for one more frame, besides the moves that are on their way there (R350, R362). -/
def Dev.stageRoom (d : Dev) : Bool :=
  decide (d.cave.staged.length + d.cave.moving.length + 32 * ((d.tiers.moves.filter (fun p => p.2.dst == .cave)).length + 1) ≤ d.tiers.params.staging * 16384)

/-- MIGRATION_START: reserve the destination, clear the re-copy mask and start the copy pass; a move up from the Cave is a
fill. -/
def migrationStart (d : Dev) (n : Nat) : Dev :=
  match d.wanted n with
  | none => d
  | some b =>
    let f := d.frame n
    let d' := d.modTiers (fun t => { t with chosen := t.chosen.filter (fun m => m.1 != n) })
    if f.back = .unbacked || f.back = b || thas d.tiers.moves n then d'
    else if !d.mayMove n b then d'
    else
      let shadow := f.shTier = b
      if b = .cave && !d.stageRoom then d
      else
        let m : Move := { dst := b, dstLoc := if shadow then f.shLoc else d.freeLoc b, fill := f.back = .cave, toShadow := shadow }
        d'.modTiers (fun t => { t with moves := tput t.moves n m })

def execMigrationStart (frame : Fin 33554432) (s : State) : Res := onDev s (fun d => migrationStart d frame.val)

/-- An abandoned move frees its destination (R352). -/
def Dev.abandonMove (d : Dev) (n : Nat) : Dev :=
  (d.modTiers (fun t =>
    { t with moves := tdel t.moves n, abandoned := t.abandoned + 1, noMove := tput t.noMove n (t.epochNo + 2) })).retryHeld

/-- MIGRATION_PASS_END: with more than 8 mask bits the pass repeats, at most four times; otherwise the blocked phase
begins. Each line that the pass has copied was a RdOnce at its home (R345, log 12). -/
def migrationPassEnd (d : Dev) (n : Nat) : Dev :=
  match tget d.tiers.moves n with
  | none => d
  | some m =>
    if m.fill || m.blocked then d
    else
    let d := d.modFrame n (fun f => { f with heat := min 255 (f.heat + 1024 * (if m.pass = 1 then (moveSubs f m.toShadow).length else 9)) })
    if m.dst = .cave && d.regionOn n then d.abandonMove n
    else if popCount m.mask.toNat 32 ≤ 8 then d.modTiers (fun t => { t with moves := tput t.moves n { m with blocked := true } })
    else if 5 ≤ m.pass then d.abandonMove n
    else d.modTiers (fun t => { t with moves := tput t.moves n { m with pass := m.pass + 1, mask := 0 } })

def execMigrationPassEnd (frame : Fin 33554432) (s : State) : Res := onDev s (fun d => migrationPassEnd d frame.val)

def inFrame (n line : Nat) : Bool := line / 32768 == n

/-- A pool of a tier has fallen below its watermark. -/
def Dev.lowTier (d : Dev) (b : Back) : Bool := (poolsOf b).any (fun p => d.poolBelow p d.tiers.params.watermark [])

/-- Poisoned 4 KiB units of a frame (R372). -/
def Dev.poisonUnits (d : Dev) (n : Nat) : List (Nat × Nat) :=
  ((d.poison.filter (inFrame n)).map (fun l => (n, l % 32768 / 64))).eraseDups

/-- Steps 6 and 7 of Table 11.5: the frame has its new backing; the old copy becomes the shadow of a promotion or fill unless
its tier is short of space (R346), and what was held goes on. -/
def Dev.flip (d : Dev) (n : Nat) (m : Move) : Dev :=
  let f := d.frame n
  let up := tierRank f.back < tierRank m.dst
  let keep := up && !d.lowTier f.back
  let subs := (moveSubs f m.toShadow ++ (List.range 32).filter (bit m.mask.toNat)).eraseDups
  let d := d.modTiers (fun t =>
    { t with
      moves := tdel t.moves n
      frames := tmod t.frames n (fun x =>
        { x with back := m.dst, loc := m.dstLoc, wdirty := if up then 0 else x.wdirty,
                 shTier := if keep then x.back else .unbacked, shLoc := if keep then x.loc else 0 }) })
  let d := if m.dst = .cave then
      let d := d.modCoh (fun c => { c with sysCache := c.sysCache.filter (fun l => !inFrame n l) })
      let bad := d.poisonUnits n
      d.modCave (fun c =>
        { c with staged := c.staged.filter (fun s => !(s.1 == n && subs.contains s.2)) ++ subs.map (fun j => (n, j)),
                 badUnits := (c.badUnits.filter (fun u => !(u.1 == n && subs.contains (u.2 / 16))) ++ bad).eraseDups })
    else d
  (d.modCoh (fun c => { c with redBuf := c.redBuf.filter (fun x => !inFrame n x.1) })).retryHeld

/-- MIGRATION_FLIP, out of the blocked phase; a move to the Cave ends when a region has come over the frame (R341). -/
def migrationFlip (d : Dev) (n : Nat) : Dev :=
  match tget d.tiers.moves n with
  | some m =>
    if !m.blocked || m.fill then d
    else if m.dst = .cave && d.regionOn n then d.abandonMove n
    else d.flip n m
  | none => d

/-- Poison the 64 lines of a 4 KiB unit and tell every context of the allocation once (R370, R529). -/
def Dev.loseUnit (d : Dev) (n u : Nat) : Dev :=
  let off := n * frameSize + 4096 * u
  let d := foldDev d (List.range 64) (fun d i => d.setPoison (off / 64 + i))
  (d.fixPsn n).dataRec 2 off true 1 .hub

/-- The answer to a host read through an aperture: data, or a poisoned completion and an event (R439). -/
def Dev.hostAnswer (d : Dev) (i off : Nat) (bs : List Byte) (poison : Bool) : Dev :=
  if poison then (d.emit (.poisonedCpl bs)).raise (apEvent i off .poison) else d.emit (.completion bs)

/-- Poisoned units of a frame's Cave copy yield no data: their lines are poisoned at the new backing, without a new record (R370,
R372). -/
def Dev.stayLost (d : Dev) (n : Nat) : Dev :=
  (foldDev d (d.cave.badUnits.filter (fun u => u.1 == n)) (fun d u =>
    foldDev d (List.range 64) (fun d i => d.setPoison (n * 32768 + 64 * u.2 + i)))).fixPsn n

/-- FILL_FLIP (R355, R370): units that could not be read back are poisoned at the new backing. -/
def fillFlip (d : Dev) (n : Nat) : Dev :=
  match tget d.tiers.moves n with
  | some m =>
    if m.fill then ((foldDev d m.lost (fun d u => d.loseUnit n u)).stayLost n).flip n m else d
  | none => d


/-! ### The Cave (R362 to R364, R369, R370) -/

def caveCode : CaveSt → Nat
  | .normal => 0
  | .degraded => 1
  | .readOnly => 2
  | .absent => 3

/-- The state that Table 11.7 gives. -/
def caveNow (c : Cave) : CaveSt :=
  if c.st = .absent then .absent
  else if c.spare = 0 || c.st = .readOnly then .readOnly
  else if c.lostChannel || c.spare * 100 ≤ c.total then .degraded
  else .normal

/-- Every change of state raises an event (R364). -/
def Dev.setCave (d : Dev) (st : CaveSt) : Dev :=
  if d.cave.st = st then d
  else (d.modCave (fun c => { c with st := st })).raise (evt 10 .ok .hub (caveCode st) 0 0)

def Dev.caveCheck (d : Dev) : Dev := d.setCave (caveNow d.cave)

/-- CAVE_UNIT_READ: what a flash read of a 4 KiB unit came to while its frame is being filled. A staged unit is read from the
staging area (R362), and a unit already recorded as poisoned has nothing new to lose. Every read of a page counts for its block: the
first, up to eight rereads, and those of the stripe's other pages (R363, R369). -/
def caveUnitRead (d : Dev) (n u : Nat) (r : FlashRead) : Dev :=
  match tget d.tiers.moves n, d.cave.pageOf (512 * (d.frame n).loc + u) with
  | some m, some p =>
    if !m.fill || d.cave.staged.contains (n, u / 16) || d.cave.badUnits.contains (n, u) then d
    else
      let mates (c : Cave) : Cave := (c.mates p).foldl (fun c q => c.readPage q 1) (c.readPage p 9)
      match r with
      | .decoded => d.modCave (fun c => c.readPage p 1)
      | .reread k => d.modCave (fun c => c.readPage p (k.val + 2))
      | .rebuilt =>
        (d.modCave (fun c => ({ mates c with rebuilt := c.rebuilt + 1 }).evacuate (c.blkOf p))).dataRec 3 (n * frameSize + 4096 * u) true 1 .hub
      | .lost =>
        let d := d.modCave (fun c => { mates c with lost := c.lost + 1, badUnits := c.badUnits ++ [(n, u)] })
        d.modTiers (fun t => { t with moves := tput t.moves n { m with lost := m.lost ++ [u] } })
  | _, _ => d

/-- An operation on flash needs the Cave's controller and its channels: one that finds them gated wakes them and waits (R493). -/
def Dev.flashThen (d : Dev) (f : Dev → Dev) : Dev :=
  if d.cave.st = .absent || (d.awake 53 && d.awake 54) then f d
  else if d.power.pstate = .working || d.power.pstate = .glowing then (d.wakeDom 53).wakeDom 54
  else d

def execCaveUnitRead (frame : Fin 33554432) (unit : Fin 512) (res : FlashRead) (s : State) : Res :=
  onDev s (fun d => d.flashThen (fun d => caveUnitRead d frame.val unit.val res))

/-- The logical unit that a staged sub-block is, while its frame or a shadow that it still matches lies in the Cave (log 69). -/
def Dev.unitOf (d : Dev) (s : Nat × Nat) : Option Nat :=
  let f := d.frame s.1
  if f.back = .cave then some (32 * f.loc + s.2)
  else if f.shTier = .cave && !bit f.wdirty.toNat s.2 then some (32 * f.shLoc + s.2) else none

/-- The codewords of a staged sub-block: each 4 KiB is encrypted with its logical address as the tweak (R360, R367); a poisoned unit has
none (R372). -/
def Dev.stagedSlots (d : Dev) (key : BitVec 512) (s : Nat × Nat) (unit : Nat) : List (Option (List Byte)) :=
  (List.range 16).map (fun i =>
    let u := 16 * s.2 + i
    if d.cave.badUnits.contains (s.1, u) then none
    else some (codeword (Config.aesXts key (16 * unit + i) (d.rd (frameSize * s.1 + 4096 * u) 4096))))

/-- What the translation layer programs next: the oldest staged sub-block, and else a relocated unit. With it, the Cave without it in
its queue. -/
def Dev.nextWrite (d : Dev) : Option (Option (Nat × List (Option (List Byte))) × Cave) :=
  match d.cave.staged, d.cave.moving with
  | s :: t, _ =>
    some (match d.unitOf s, d.cave.key with
      | some u, some k => some (u, d.stagedSlots k s u)
      | _, _ => none, { d.cave with staged := t })
  | [], (u, ws) :: t => some (some (u, ws), { d.cave with moving := t })
  | [], [] => none

/-- CAVE_STAGING_PROGRAM (R362, R363): the next unit goes to flash. A failed program retires its block, and the unit is written
elsewhere; when no block is left for it, it stays where it is and the Cave takes no more writes. -/
def stagingProgram (d : Dev) (ok : Bool) : Dev :=
  let d := d.trimCave
  match d.nextWrite with
  | none => d
  | some (none, c) => d.modCave (fun _ => c)
  | some (some (u, ws), c) =>
    let c := { c with moving := tdel c.moving u }
    match (if ok then c else c.failNext).writeUnit u ws with
    | some c => (d.modCave (fun _ => c.level)).caveCheck
    | none => (if ok then d else d.modCave Cave.failNext).setCave .readOnly

def execCaveStagingProgram (ok : Bool) (s : State) : Res := onDev s (fun d => d.flashThen (fun d => stagingProgram d ok))

/-- CAVE_PATROL (R363): every written page is read. `weak` are the blocks whose corrected bits exceed half of the code's capacity,
and `bad` those whose erase then fails. -/
def cavePatrol (d : Dev) (weak bad : List Nat) : Dev :=
  if d.cave.st = .absent then d else (d.trimCave.modCave (fun c => c.patrol weak bad)).caveCheck

def execCavePatrol (weak bad : List Nat) (s : State) : Res := onDev s (fun d => d.flashThen (fun d => cavePatrol d weak bad))

/-! ### Memory controllers (R379, R382 to R386) -/

/-- RED_BUFFER_IDLE_WRITEBACK (R379): the line leaves the buffer; memory holds what the buffer held. -/
def execRedBufferIdleWriteback (addr : Word) (s : State) : Res :=
  onDev s (fun d =>
    match d.maddr addr with
    | some a => d.modCoh (fun c => { c with redBuf := c.redBuf.filter (fun x => x.1 != maKey a) })
    | none => d)

/-- Frames' worth of the usable stacks of both halves, and of the DIMMs with what is reserved of them. -/
def Dev.hbmSpan (d : Dev) : Nat :=
  (popCount d.hbm.half.w.usable.toNat 6 + popCount d.hbm.half.e.usable.toNat 6) * 80000000000 / frameSize
def Dev.ddrSpan (d : Dev) : Nat := if d.tiers.ddrFrames = 0 then 0 else d.tiers.ddrFrames + 512

/-- What lies at a place of a tier: a frame's line, or none (a shadow, reserved or free memory). -/
def Dev.lineAt (d : Dev) (b : Back) (loc o : Nat) : Option Nat :=
  (d.tiers.frames.find? (fun p => p.2.back == b && p.2.loc == loc)).map (fun p => 32768 * p.1 + o)

/-- The place that Brine reads next, by tier, place and line, and the count after it. It reads the stacks place by place and then
the DIMMs, and begins again (R384, log 185). -/
def Dev.brinePlace (d : Dev) : Option (Back × Nat × Nat × Nat) :=
  let n := 32768 * (d.hbmSpan + d.ddrSpan)
  if n = 0 then none
  else
    let p := d.hbm.brineNext % n
    let k := p / 32768
    some (if k < d.hbmSpan then .hbm else .ddr, if k < d.hbmSpan then k else k - d.hbmSpan, p % 32768, (p + 1) % n)

/-- R516: at the visit of a line of a failed DDR row. Whether the DIMM has a repair resource left, and how many, is free
(log 7). -/
def Dev.ddrRepair (d : Dev) (n : Nat) : Dev :=
  match d.faults.ddrPend with
  | [] => d
  | (u, loc) :: t =>
    let (k, d) := d.draw
    let d := d.modFaults (fun f => { f with ddrPend := t })
    if Config.freeBool k then
      let d := d.modFaults (fun f => { f with repairs := f.repairs ++ [(u, loc)] })
      d.raise { relEvt 6 u 0 loc.toNat with a0 := Config.freeWord k }
    else
      let f := d.frame n
      let d := (d.modUnit u (fun r => { r with st := .retired })).raise (relEvt 7 u 0 loc.toNat)
      let dst := ([Back.hbm, .cave]).find? (fun b => (allocOrder f.policy).contains b && d.mayMove n b)
      let d := d.modFaults (fun x => { x with ddrBad := x.ddrBad ++ [f.loc] })
      d.modTiers (fun t =>
        { t with ddrFrames := t.ddrFrames - 1, chosen := match dst with | some b => t.chosen ++ [(n, b)] | none => t.chosen })

/-- Errors found where no frame lies: they count for a pseudo-channel or a DDR channel, which is free (log 185), and a shadow that
cannot be read any more is discarded (R346). -/
def Dev.brineSpare (d : Dev) (b : Back) (loc : Nat) (fixed : Bool) (lane : Nat) : Dev :=
  let (k, d) := d.draw
  let x := (Config.freeWord k).toNat
  let u : UnitId :=
    if b = .hbm then
      let h := halfOf (bit x 0)
      let c := hbmChunk (Two.get d.hbm.half h).stacks_ (x / 2)
      ⟨9, dieOf h, BitVec.ofNat 16 (8192 * c.1 + 256 * c.2)⟩
    else ⟨10, .hub, BitVec.ofNat 16 (x % 8)⟩
  if fixed then d.countFixed u lane 0
  else
    (d.countErr u true 0).modTiers (fun t =>
      { t with frames := t.frames.map (fun (p : Nat × Frame) =>
          (p.1, if p.2.shTier == b && b == .ddr && p.2.shLoc == loc && !thas t.moves p.1 then { p.2 with shTier := .unbacked, shLoc := 0 } else p.2)) })

/-- An error that the check bits do not detect for certain: the line's bytes may be anything (R381). -/
def Dev.lineAny (d : Dev) (l : Nat) : Dev :=
  let (k, d) := d.draw
  d.wr (64 * l) ((List.range 64).map (fun i => Config.freeByte (64 * k + i)))

/-- BRINE_VISIT (R384): the patrol reads the next line, repairs its row when that is due, and deals with what it finds. The check bits
correct an error of one lane and detect one of two (R381); of more lanes, whether it is detected is free (log 185). It pauses while
memory is in self-refresh. -/
def brineVisit (d : Dev) (r : EccResult) : Dev :=
  if d.power.pstate ≠ .working then d
  else match d.brinePlace with
  | none => d
  | some (b, loc, o, nxt) =>
    let d := d.modHbm (fun h => { h with brineNext := nxt, brinePass := if nxt = 0 then h.brinePass + 1 else h.brinePass })
    match d.lineAt b loc o, r with
    | none, .clean => d
    | none, .lanes f more => d.brineSpare b loc more.isEmpty f.val
    | some l, r =>
      let d := if b = .ddr then d.ddrRepair (l / 32768) else d
      match r with
      | .clean => d
      | .lanes f [] => d.lineFixed l f.val
      | .lanes _ [_] => d.lineFound l
      | .lanes _ _ =>
        let (k, d) := d.draw
        if Config.freeBool k || d.isPoison l then d.lineFound l else d.lineAny l

def execBrineVisit (res : EccResult) (s : State) : Res := onDev s (fun d => brineVisit d res)

/-- LANE_REPAIR (R385, R386): the failed lane is steered onto its spare for good, and the held requests are served. -/
def laneRepair (d : Dev) (u : UnitId) : Dev :=
  if u.code.val = 8 && unitOk u && (d.unit u).st = .repairPending && !d.laneUsed u then
    (((d.modFaults (fun f => { f with laneSpare := f.laneSpare ++ [u], repairs := f.repairs ++ [(u, 0)] })).modUnit u
      (fun r => { r with st := .replaced })).modHbm (fun x => { x with steered := x.steered ++ [u] })).retryHeld
  else d

def execLaneRepair (u : UnitId) (s : State) : Res := onDev s (fun d => laneRepair d u)

/-! ### Margining (R391 to R393) -/

def marginLo (volt : Bool) : Int := if volt then -20 else -32
def marginHi (volt : Bool) : Int := if volt then 20 else 31

/-- Lanes of a stack: 32 pseudo-channels of 48 (Table 12.6). -/
def marginLanes : Nat := 32 * 48

/-- Table 12.6. -/
def marginRec (m : Margin) (t : Word) : List Byte :=
  let b (i : Int) : Nat := (i % 256).toNat
  let (lo, hi, no) : Nat × Nat × Nat := match m.low with | some l => (b l, b m.high, 0) | none => (0, 0, 1)
  leBytes 8 (m.stack.val + at_ 3 (halfIdx m.half) + at_ 4 (m.lane / 48) + at_ 9 (m.lane % 48) + at_ 15 (b2n m.volt) + at_ 16 lo +
    at_ 24 hi + at_ 32 no) ++ leBytes 8 t.toNat

/-- A point ends: its result counts; a lane's last point writes its record, and the last lane's ends the command. -/
def Dev.marginPoint (d : Dev) (pass : Bool) : Dev :=
  match d.hbm.margin with
  | none => d
  | some m =>
    let m := { m with held := false }
    let m := if pass then { m with low := some (m.low.getD m.point), high := m.point } else m
    if m.point < marginHi m.volt then d.modHbm (fun h => { h with margin := some { m with point := m.point + 1 } })
    else
      let d := d.fwWrite (m.buf + BitVec.ofNat 64 (16 * m.lane)) (marginRec m (d.halfCount m.half))
      if m.lane + 1 < marginLanes then
        d.modHbm (fun h => { h with margin := some { m with lane := m.lane + 1, point := marginLo m.volt, low := none, high := 0 } })
      else
        let d := d.modHbm (fun h => { h with margin := none })
        match m.slot with
        | some n => d.bgDone n.toNat .ok 0
        | none => d

/-- MARGIN_POINT_DONE (R392): the requests that the point held are served before the next one starts. -/
def marginPointDone (d : Dev) (pass : Bool) : Dev :=
  if d.hbm.margin.any (·.held) then (d.marginPoint pass).retryHeld else d

def execMarginPointDone (pass : Bool) (s : State) : Res := onDev s (fun d => marginPointDone d pass)

end Sys2Proof.Machine
end

