-- ==== Sys2Proof/Machine/Chain.lean ====
section
/-!
DEFINITION. The Chain fabric (chapter 13): bring-up of links, the link layer, the slot table, streams, delivery of packets,
dead nodes, and the admin commands of the Chain.
-/
namespace Sys2Proof.Machine

/-! ### Ports -/

def Port.isUp (q : Port) : Bool := q.st == .upActive || q.st == .upStandby
/-- Ports that are up, or up to one node. -/
def Dev.upPorts (d : Dev) : List (Nat × Port) := d.chain.ports.filter (fun p => p.2.isUp)
def Dev.upTo (d : Dev) (n : Nat) : List (Nat × Port) := d.upPorts.filter (fun p => p.2.farNode == n)

/-- A CHAIN event (Table 14.9). -/
def chainEvt (p far : Nat) (st : Status) (refuse : Nat) : Event := evt 11 st .hub p far refuse

/-- A port as a bring-up starts it (R423, R432). -/
def Port.fresh (q : Port) (st : PortSt) : Port := { st := st, enabled := q.enabled, bankLanes := q.bankLanes }

/-! ### Slots, streams and lost nodes (R400, R414, R425) -/

def noSlot : Slot := ⟨.empty, 0, 0, false⟩
def Dev.slot (d : Dev) (n : Nat) : Slot := tgetD d.chain.slots n noSlot

/-- Change a slot and flood the change (R400). -/
def Dev.setSlot (d : Dev) (n : Nat) (s : Slot) : Dev :=
  if d.slot n = s then d
  else (d.modChain (fun c => { c with slots := tput c.slots n s })).emit (.floodSlot n s)

def slotRank : SlotState → Nat
  | .live => 0
  | .empty => 1
  | .dead => 2
  | .retired => 3

/-- Which of two reports of a slot is the later one (DEDUCED, log 40). -/
def laterSlot (old new : Slot) : Bool :=
  if old.used != new.used then new.used
  else if new.inc ≠ old.inc then decide (old.inc.toNat < new.inc.toNat)
  else decide (slotRank old.st < slotRank new.st)

/-- Both ends of every stream with a node start again (R414). -/
def Dev.dropStreams (d : Dev) (n : Nat) : Dev :=
  let keep (t : Nat) : Bool := t / 8 != n
  d.modChain (fun c =>
    { c with
      tx := c.tx.filter (fun p => keep p.1)
      rx := c.rx.filter (fun p => keep p.1)
      waitSend := c.waitSend.filter (fun p => p.1 != n) })

/-- The unit of this node that a packet names as its source. -/
def pktAgent (k : ChainPkt) : Agent :=
  let h := fld k.unit.toNat 9 1
  let n := fld k.unit.toNat 0 9
  if k.utype = 0 then .core (Fin.ofNat 64 (32 * h + n))
  else if k.utype = 1 then .engine (Fin.ofNat 128 (64 * h + n))
  else if k.utype = 2 then .tongs (Fin.ofNat 128 (64 * h + n / 4)) (Fin.ofNat 4 n)
  else if k.utype = 3 then .proxy
  else .firmware

def WOp.isSig : WOp → Bool
  | .sig _ _ _ => true
  | _ => false

/-- An access through an aperture: anything but a notify word. -/
def WOp.isData : WOp → Bool
  | .notify _ _ _ _ => false
  | _ => true

/-- Everything that this node has under way at another node ends: writes, signals, requests, remote waits and streams.
`tell` reports what is lost (R211, R212, R237, Table 13.7). -/
def Dev.cutNode (d : Dev) (n : Nat) (tell : Bool) : Dev :=
  let at_n (w : OutW) : Bool := match d.target true w.addr with | .remote y _ => y == n | _ => false
  let lost := d.writes.filter at_n
  let reqs := d.chain.reqs.filter (fun q => q.node == n)
  let d := { d with writes := d.writes.filter (fun w => !at_n w) }
  let amos := d.chain.coreReqs.filter (fun q => q.node == n)
  let d := d.modChain (fun c =>
    { c with reqs := c.reqs.filter (fun q => q.node != n), coreReqs := c.coreReqs.filter (fun q => q.node != n) })
  let d := d.modRennet (fun r => { r with waiters := r.waiters.filter (fun w => w.tag.isNone || w.src.node.toNat != n) })
  let ctxOf (w : OutW) : Option Nat := match w.step.bind d.step? with | some s => some s.ctx | none => d.agentCtx w.src
  let d := if tell then foldDev d lost (fun d w => d.lostStore w.src (ctxOf w) w.step n w.addr w.bytes.length w.red.isSome w.what.isSig) else d
  let d := foldDev d reqs (fun d q => d.failEng q.eng .unreachable n q.addr)
  let d := foldDev d amos (fun d q => d.coreReply q.hart .unreachable 0)
  let far (r : PendRead) : Bool := match d.target false r.addr with | .remote y _ => y == n | _ => false
  let reads := d.host.reads.filter far
  let d := d.modHost (fun h => { h with reads := h.reads.filter (fun r => !far r) })
  let d := foldDev d reads (fun d r => (d.emit .unsupported).raise (apEvent r.ap.val r.off .unreachable))
  (d.dropStreams n).settle

/-- R425: declare a node dead. -/
def Dev.declareDead (d : Dev) (n : Nat) : Dev :=
  let s := d.slot n
  let d := (d.setSlot n { s with st := .dead }).emit (.floodDead n s.inc)
  (((d.reclaimDir (Fin.ofNat 64 n)).dropRemote n true).cutNode n true)

/-- R426: this node discards its work, drops every line of others, and rejoins with its incarnation advanced. -/
def Dev.selfQuench (d : Dev) : Dev :=
  let own := d.chain.node
  let s := d.slot own
  let d := (d.contain false true).cleanRejoin
  let d := foldDev d ((List.range 64).filter (· != own)) (fun d n => d.cutNode n false)
  let again (q : Port) : Port := if q.st == .disabled || q.st == .draining then q else q.fresh .training
  d.modChain (fun c =>
    { c with
      slots := tput c.slots own { s with st := if s.inc = 15 then .retired else .dead }
      links := []
      ports := c.ports.map (fun (p : Nat × Port) => (p.1, again p.2)) })

/-- A node has left (R428): its slot is empty and nothing is poisoned or recorded. -/
def Dev.departed (d : Dev) (n : Nat) : Dev :=
  let d := d.setSlot n { d.slot n with st := .empty }
  let gone (p : Nat × DirEnt) : Nat × DirEnt :=
    (p.1, { p.2 with vec := p.2.vec &&& ~~~((1 : BitVec 64) <<< n), mode := if p.2.owner = n then .shared else p.2.mode })
  let d := d.modCoh (fun c => { c with dir := (c.dir.map gone).filter (fun p => p.2.vec != 0) })
  d.cutNode n false

/-- A report about a slot: a later one than what this node holds is taken and flooded, with what it means (R400, R425,
R426, R428). -/
def Dev.learnSlot (d : Dev) (n : Nat) (s : Slot) : Dev :=
  let old := d.slot n
  if !laterSlot old s then d
  else if n = d.chain.node then
    (if s.inc = d.chain.inc && s.st = .dead && old.st = .live then d.selfQuench else d)
  else match s.st with
    | .dead => if old.st = .live && old.inc = s.inc then d.declareDead n else (d.dropStreams n).setSlot n s
    | .empty => if old.st = .live && old.inc = s.inc then d.departed n else (d.dropStreams n).setSlot n s
    | .retired => if old.st = .live then (d.declareDead n).setSlot n s else d.setSlot n s
    | .live =>
      let d := if old.st = .live then d.declareDead n else d
      ((d.dropStreams n).setSlot n s).flushSend

/-! ### Links -/

/-- A change of a link's state in this node's knowledge, flooded onward (R405, R407). -/
def Dev.setLink (d : Dev) (a b : Nat) (up : Bool) : Dev :=
  if d.chain.up a b = up then d
  else
    let l := (min a b, max a b)
    let d := d.modChain (fun c => { c with links := if up then c.links ++ [l] else c.links.filter (· != l) })
    (d.emit (.floodLink l.1 l.2 up)).flushSend

/-- A port leaves service: the standby of its node takes over, or the link is down (R397, R424, R429). -/
def Dev.portDown (d : Dev) (p : Nat) (st : PortSt) : Dev :=
  let q := d.port p
  let d := d.modPort p (fun q =>
    if st = .draining then { q with st := st }
    else { q with st := st, idDone := false, retrain := false, rekeying := false, key := 0, replayBuf := [], used := List.replicate 22 0, owed := List.replicate 22 0 })
  if q.st = .upActive then
    match (d.upTo q.farNode).head? with
    | some s => (d.modPort s.1 (fun x => { x with st := .upActive })).flushSend
    | none => d.setLink d.chain.node q.farNode false
  else d

/-- R397: the wider of two links to a node is the active one. -/
def Dev.linkRoles (d : Dev) (far : Nat) : Dev :=
  match (d.upTo far).find? (fun p => p.2.st == .upActive), (d.upTo far).find? (fun p => p.2.st == .upStandby) with
  | some a, some s =>
    if a.2.lanes < s.2.lanes then
      ((d.modPort a.1 (fun x => { x with st := .upStandby })).modPort s.1 (fun x => { x with st := .upActive })).flushSend
    else d
  | _, _ => d

/-! ### Keys (R418 to R422) -/

/-- X of R419: in every pair the lower node number's value comes first. -/
def linkX (mine far : Identity) (n f : BitVec 256) (epoch : Nat) : List Byte :=
  let pair (a b : List Byte) : List Byte := if mine.node.toNat < far.node.toNat then a ++ b else b ++ a
  pair (leBytes 16 mine.serial.toNat) (leBytes 16 far.serial.toNat) ++
  pair (leBytes 1 mine.port.toNat) (leBytes 1 far.port.toNat) ++
  pair (leBytes 32 n.toNat) (leBytes 32 f.toNat) ++ leBytes 4 epoch

def confirmKey (k : BitVec 1024) : BitVec 256 := k.extractLsb' 576 256

/-! ### Bring-up (Table 13.6) -/

/-- A failed step of a bring-up (R423). -/
def Dev.portRefuse (d : Dev) (p far code : Nat) : Dev :=
  let st : Status := if code = 2 || code = 5 then .topologyFull else .ok
  (d.modPort p (fun q => { q with st := .refused, refuse := code, idDone := false })).raise (chainEvt p far st code)

/-- This node's identity as it sends it on a port. -/
def Dev.identity (d : Dev) (p : Nat) (nonce : BitVec 256) : Identity :=
  { node := BitVec.ofNat 8 d.chain.node, port := BitVec.ofNat 4 p, serial := Config.serial, inc := d.chain.inc, nonce := nonce,
    slots := d.chain.slots.map (fun q => (Fin.ofNat 64 q.1, q.2)) }

/-- Step 1 ends: with 8, 6 or 4 lanes the identity leaves; otherwise the bring-up fails. -/
def execLinkTrainingDone (p : Fin 16) (lanes : Fin 9) (s : State) : Res :=
  onDev s (fun d =>
    let q := d.port p.val
    if !d.chain.joined || q.st ≠ .training || q.lanes ≠ 0 then d
    else if lanes.val = 8 || lanes.val = 6 || lanes.val = 4 then
      let (n, d) := d.entropy
      let i := d.identity p.val n
      (d.modPort p.val (fun q => { q with lanes := lanes.val, nonce := n, mine := some i })).emit (.linkIdentity p.val i)
    else d.portRefuse p.val 0 0)

/-- The incarnation that a node takes when it joins a slot; none when the slot must retire (R402). -/
def joinInc (s : Slot) : Option (BitVec 4) :=
  if !s.used then some 0 else if s.inc = 15 then none else some (s.inc + 1)

def slotIn (l : List (Fin 64 × Slot)) (n : Nat) : Slot :=
  match l.find? (fun p => p.1.val == n) with
  | some p => p.2
  | none => noSlot

/-- This node's own place, when no port of it is up: the incarnation it joins with, or the REFUSE code. -/
def Dev.ownPlace (d : Dev) (s : Slot) : Except Nat (BitVec 4) :=
  if !d.upPorts.isEmpty then .ok d.chain.inc
  else match s.st with
    | .retired => .error 5
    | .live => if s.serial = Config.serial then .ok s.inc else .error 2
    | _ => (match joinInc s with | some i => .ok i | none => .error 5)

/-- The far end's place in the slot table (R401, R402). -/
def farPlace (s : Slot) (serial : BitVec 128) : Except Nat (BitVec 4) :=
  match s.st with
  | .retired => .error 5
  | .live => if s.serial = serial then .ok s.inc else .error 2
  | _ => (match joinInc s with | some i => .ok i | none => .error 5)

/-- Steps 2 to 4: the far end's identity, the checks, and the keys. -/
def identityIn (d : Dev) (p : Nat) (i : Identity) : Dev :=
  let q := d.port p
  let own := d.chain.node
  let far := i.node.toNat
  if !d.chain.joined || q.st ≠ .training || q.lanes = 0 || q.idDone then d
  else if 64 ≤ far || far = own || (far / 8 ≠ own / 8 && far % 8 ≠ own % 8) then d.portRefuse p far 1
  else if 2 ≤ (d.upTo far).length then d.portRefuse p far 6
  else if d.sec.fabric = 0 then d.portRefuse p far 4
  else
    let fs := d.slot far
    let ms := slotIn i.slots own
    if fs.st = .dead && fs.inc = i.inc && ms.st = .dead && ms.inc = d.chain.inc then
      (if far < own then d.selfQuench else d)
    else match farPlace fs i.serial with
      | .error c =>
        let d := if c = 5 && fs.st ≠ .retired then d.setSlot far { fs with st := .retired } else d
        d.portRefuse p far c
      | .ok _ =>
        let d := foldDev d (i.slots.filter (fun x => x.1.val != own)) (fun d x => d.learnSlot x.1.val x.2)
        let wasLive := (d.slot own).st = .live
        let d := if d.upPorts.isEmpty && !wasLive then d else d.learnSlot own ms
        if wasLive && (d.slot own).st ≠ .live then d
        else
        let best := if laterSlot (d.slot own) ms then ms else d.slot own
        match d.ownPlace best, farPlace (d.slot far) i.serial with
        | .error c, _ =>
          let d := if c = 5 then d.setSlot own { best with st := .retired } else d
          d.portRefuse p far c
        | _, .error c => d.portRefuse p far c
        | .ok me, .ok fi =>
          if (d.port p).st ≠ .training then d
          else
            let mine := (d.port p).mine.getD (d.identity p q.nonce)
            let key := Config.kmacChain d.sec.fabric (linkX mine i q.nonce i.nonce 0)
            let d := d.modChain (fun c => { c with inc := me })
            let d := d.modPort p (fun q =>
              { q with far := some i, farNode := far, farPort := i.port.toNat, farInc := fi, idDone := true, key := key })
            d.emit (.linkConfirm p (Config.kmacConfirm (confirmKey key) mine))

def execIdentityExchange (p : Fin 16) (i : Identity) (s : State) : Res := onDev s (fun d => identityIn d p.val i)

/-- Steps 5 and 6: credits start full, the slots and the link are flooded, and what waited for a route leaves. -/
def Dev.portUp (d : Dev) (p : Nat) : Dev :=
  let q := d.port p
  let far := q.farNode
  let serial := match q.far with | some i => i.serial | none => 0
  let second := !(d.upTo far).isEmpty
  let up : Port := { (q.fresh (if second then .upStandby else .upActive)) with
    lanes := q.lanes, farNode := far, farPort := q.farPort, farInc := q.farInc, nonce := q.nonce, mine := q.mine, far := q.far,
    key := q.key, uptime := d.hubCount }
  let d := (d.modPort p (fun _ => up)).wakeDom 44
  let d := d.setSlot d.chain.node { st := .live, serial := Config.serial, inc := d.chain.inc, used := true }
  let old := d.slot far
  let d := if old.st = .live && old.inc = q.farInc then d else d.dropStreams far
  let d := d.setSlot far { st := .live, serial := serial, inc := q.farInc, used := true }
  if second then d.linkRoles far else (d.setLink d.chain.node far true).flushSend

/-- Step 4: a tag that does not match refuses the link (R419). -/
def execKeyConfirmation (p : Fin 16) (tag : BitVec 256) (s : State) : Res :=
  onDev s (fun d =>
    let q := d.port p.val
    match q.far with
    | some i =>
      if q.st ≠ .training || !q.idDone then d
      else if tag = Config.kmacConfirm (confirmKey q.key) i then d.portUp p.val
      else d.portRefuse p.val q.farNode 3
    | none => d)

/-- R423: an enabled port of a joined node whose bring-up failed, or whose link died, starts again from step 1. -/
def execBringupRetryTimer (p : Fin 16) (s : State) : Res :=
  onDev s (fun d =>
    let q := d.port p.val
    if d.chain.joined && q.enabled && (q.st = .refused || q.st = .dead || q.st = .training) then
      d.modPort p.val (fun q => q.fresh .training)
    else d)

/-! ### The link layer (R408 to R411, R421) -/

def Dev.linkDead (d : Dev) (p : Nat) : Dev :=
  if (d.port p).isUp then d.portDown p .dead
  else if (d.port p).st = .draining then d.modPort p (fun q => q.fresh .disabled)
  else d

/-- What a frame's header tells of this end's own frames: those before the number that the far end expects are acknowledged, and credits
come back (R408, R411). -/
def Port.heard (q : Port) (h : LinkHdr) : Port :=
  { q with
    replayBuf := if q.replayBuf.any (fun f => f.1 == h.ack) then q.replayBuf.dropWhile (fun f => f.1 != h.ack)
      else if h.ack = q.txSeq then [] else q.replayBuf
    used := q.used.zipIdx.map (fun x => x.1 - lgetD h.credits x.2 0) }

/-- A frame is discarded and its replay requested. -/
def Dev.askReplay (d : Dev) (p : Nat) : Dev := d.emit (.linkReplayReq p (d.port p).rxSeq)

/-- A link frame: its CRC, sequence number and tag are checked in that order. A valid one tells what has reached the far end, and counts
toward the rekey (R420). -/
def linkFrame (d : Dev) (p : Nat) (h : LinkHdr) (crcOk tagOk : Bool) : Dev :=
  let q := d.port p
  if !(q.isUp || q.st == .draining) || q.retrain then d
  else if !crcOk then
    let d := (d.modPort p (fun q => { q with crcRun := q.crcRun + 1 })).askReplay p
    if 16 ≤ (d.port p).crcRun then d.linkDead p else d
  else if h.seq ≠ q.rxSeq then d.askReplay p
  else if !tagOk then
    let d := (d.modPort p (fun q => { q with tagFail := q.tagFail + 1, tagRun := q.tagRun + 1 })).askReplay p
    if 2 ≤ (d.port p).tagRun then (d.linkDead p).raise (secEvt 3 p q.farNode) else d
  else
    ((d.modPort p (fun q =>
      { q.heard h with rxSeq := q.rxSeq + 1, rxCtr := q.rxCtr + 1, crcRun := 0, tagRun := 0 })).rekeyDue p).flushSend

def execLinkFrameReceive (p : Fin 16) (hdr : LinkHdr) (crcOk tagOk : Bool) (s : State) : Res :=
  onDev s (fun d => linkFrame d p.val hdr crcOk tagOk)

/-- Send the frames of the replay buffer again from one on. -/
def Dev.replayFrom (d : Dev) (p : Nat) (fs : List (BitVec 24 × Nat)) : Dev :=
  let d := foldDev d fs (fun d f => d.emit (.linkReplay p f.1))
  d.modPort p (fun q => { q with replays := q.replays + fs.length })

def execReplayRequest (p : Fin 16) (seq : BitVec 24) (s : State) : Res :=
  onDev s (fun d =>
    let q := d.port p.val
    if (q.isUp || q.st == .draining) && !q.retrain then d.replayFrom p.val (q.replayBuf.dropWhile (fun f => f.1 != seq)) else d)

/-- R409: an idle port sends an idle frame. -/
def execIdleFrameTimer (p : Fin 16) (s : State) : Res :=
  onDev s (fun d =>
    let q := d.port p.val
    if (q.isUp || q.st == .draining) && !q.retrain then d.frameOut p.val none else d)

/-- R410: 6 lanes with one or two bad, 4 with three or four, and dead beyond. -/
def Dev.laneDegrade (d : Dev) (p bad : Nat) : Dev :=
  if !(d.port p).isUp || bad = 0 then d
  else if 4 < bad then d.linkDead p
  else d.modPort p (fun q => { q with retrain := true, lanes := min q.lanes (if bad ≤ 2 then 6 else 4) })

def execLaneDegrade (p : Fin 16) (bad : Fin 9) (s : State) : Res := onDev s (fun d => d.laneDegrade p.val bad.val)

/-- A retrain ends: unacknowledged frames are replayed and the roles follow the lanes (R397, R410). -/
def execLinkRetrainDone (p : Fin 16) (s : State) : Res :=
  onDev s (fun d =>
    let q := d.port p.val
    if q.isUp && q.retrain then
      let d := (d.modPort p.val (fun q => { q with retrain := false })).replayFrom p.val q.replayBuf
      (d.linkRoles q.farNode).flushSend
    else d)

def execLinkSilenceTimeout (p : Fin 16) (s : State) : Res := onDev s (fun d => d.linkDead p.val)

/-- A flooded link change is learnt and passed on; a link of this node follows its own ports. -/
def execLinkStateReceive (a b : Fin 64) (up : Bool) (s : State) : Res :=
  onDev s (fun d =>
    if !d.chain.joined || a = b || (up && (a.val = d.chain.node || b.val = d.chain.node)) then d else d.setLink a.val b.val up)

/-! ### Packets (R404, R412 to R417) -/

def malformedPkt (k : ChainPkt) : Bool := k.vset == 3 || k.utype == 7 || k.rsvd || decide (18 < k.len.toNat)

/-- The newest incarnation seen of a unit of another node (R417, R519; DEDUCED, log 42). -/
def Dev.farUnit (d : Dev) (k : ChainPkt) : BitVec 4 :=
  match d.chain.uincs.find? (fun x => x.1 == (k.src.toNat, k.utype.toNat, k.unit.toNat)) with
  | some x => x.2
  | none => 0

/-- R417: whether an incarnation of the packet is not current. -/
def Dev.stalePkt (d : Dev) (k : ChainPkt) : Bool :=
  let s := d.slot k.src.toNat
  s.st != .live || s.inc != k.sinc || k.dinc != d.chain.inc || decide (k.uinc.toNat < (d.farUnit k).toNat)

def Dev.noteUnit (d : Dev) (k : ChainPkt) : Dev :=
  let key := (k.src.toNat, k.utype.toNat, k.unit.toNat)
  if k.uinc = d.farUnit k then d
  else d.modChain (fun c => { c with uincs := c.uincs.filter (fun x => x.1 != key) ++ [(key, k.uinc)] })

/-- Send the cumulative acknowledgement of a stream, when its channel has credits. -/
def Dev.sendAck (d : Dev) (src cls : Nat) : Dev :=
  let r := tgetD d.chain.rx (streamKey src cls) {}
  match d.chain.route d.chain.node src with
  | none => d
  | some (nh, vs) =>
    match d.chain.portTo nh with
    | none => d
    | some pn =>
      let k := { d.packet src 7 3 0 0 0 0 0 0 (.answer 0 .ok []) with
        seq := r.next - 1, acls := Fin.ofNat 8 cls, vset := BitVec.ofNat 2 vs }
      if (d.port pn).canSend k then
        (d.modChain (fun c => { c with rx := tput c.rx (streamKey src cls) { r with pend := 0 } })).portSend pn k
      else d

/-- An answer to a request that came as a packet. -/
def Dev.replyPkt (d : Dev) (k : ChainPkt) (st : Status) (bs : List Byte) : Dev :=
  let n := k.src.toNat
  if d.live n then d.chainSend n (if bs.isEmpty then 2 else 3) .proxy 0 0 k.tag.toNat (16 + bs.length) (.answer k.tag st bs) else d

/-- R26 for a Chain request: answered with the status, and an event. -/
def Dev.refusePkt (d : Dev) (p : Nat) (k : ChainPkt) (st : Status) : Dev :=
  (d.replyPkt k st []).raise (chainEvt p k.src.toNat st 0)

/-- The source of a Rennet operation of another node (Table 6.9). -/
def pktSrc (k : ChainPkt) : RSrc :=
  { node := k.src, srct := if k.utype = 1 then 0 else if k.utype = 0 then 3 else if k.utype = 2 then 1 else if k.utype = 4 then 2 else 6,
    srcid := BitVec.ofNat 16 (fld k.unit.toNat 0 9), half := halfOf (bit k.unit.toNat 9), ctx := k.ctx, pd := k.pd }

/-- A coherence message from another node, as this node's units know it: addresses of this node are local, and this node
itself is its proxy. -/
def Dev.fromChain (d : Dev) (k : ChainPkt) (m : NMsg) : NMsg :=
  let a := if maNode m.addr = some d.chain.node then maOff m.addr else m.addr
  let who : Agent := match m.who with
    | .node n => if n.val = d.chain.node then .proxy else .node (Fin.ofNat 64 k.src.toNat)
    | w => w
  { m with addr := a, who := who, tag := k.tag.toNat,
           rq := if k.utype = 1 then some (pktAgent k) else m.rq }

/-- The answer to something this node asked of another. -/
def Dev.answered (d : Dev) (tag : Nat) (st : Status) (bs : List Byte) : Dev :=
  match d.chain.reqs.find? (fun q => q.tag == tag) with
  | some q =>
    let d := d.modChain (fun c => { c with reqs := c.reqs.filter (fun q => q.tag != tag) })
    let v : Word := BitVec.ofNat 64 (ofLe bs)
    if st ≠ .ok then d.failEng q.eng st (if st = .unreachable then q.node else 0) q.addr
    else (match (d.eng q.eng).run with
      | .rwait rd _ sc => d.modEng q.eng (fun x => ((x.acquire sc).wx rd v).retire) |>.stallEnds ((d.engCtx q.eng).getD 0)
      | _ => d.replyEng q.eng v)
  | none =>
    match d.chain.coreReqs.find? (fun q => q.tag == tag) with
    | some q =>
      let d := d.modChain (fun c => { c with coreReqs := c.coreReqs.filter (fun q => q.tag != tag) })
      d.coreReply q.hart st (BitVec.ofNat 64 (ofLe bs))
    | none =>
    match d.writes.find? (fun w => !w.held && w.tag == tag && w.tag != 0) with
    | some w =>
      let d := (d.ackWrite (fun x => x == w)).settle
      if st = .ok || (w.what.isSig && w.step.isNone && st ≠ .unmapped) then d
      else (match w.src with
        | .aperture i => d.raise (apEvent i.val (d.apOffset i w.addr) st)
        | .core h => d.exc h (if st = .poison then excHardware else 7) (BitVec.ofNat 64 w.addr)
        | _ => (match w.step with
          | some n => d.failStep n st 0 (if w.what.isSig && st = .malformed then 0 else w.addr)
          | none => d))
    | none => d

/-- Word `off / 8` of an object as Table 6.4 gives it. -/
def winWord (o : RObj) (off : Nat) : Nat :=
  if off < 0x20 then lgetD (objWords o) (off / 8) 0 else fld o.mask.toNat (64 * (off / 8 - 4)) 64

/-- A wait that its engine has abandoned is cancelled at the object (R208). -/
def Dev.cancelWait (d : Dev) (n tag : Nat) : Dev :=
  d.modRennet (fun r =>
    { r with
      waiters := r.waiters.filter (fun w => !(w.tag == some tag && w.src.node.toNat == n))
      msgs := r.msgs.filter (fun m => match m with
        | .wait s _ _ _ (some t) => !(t == tag && s.node.toNat == n)
        | _ => true) })

/-- Deliver an accepted packet (R404, R412). -/
def deliver (d : Dev) (p : Nat) (k : ChainPkt) : Dev :=
  let who : Agent := .node (Fin.ofNat 64 k.src.toNat)
  let no : Dev := d.refusePkt p k .unmapped
  let ctx := k.ctx.val
  let tag := k.tag.toNat
  match k.body with
  | .rdOnce a =>
    (match localTarget (a.toNat % 2 ^ 48) with
     | .umr off => if d.backed off then d.send { kind := .rdOnce, who := who, addr := off, tag := tag } else no
     | .vat off =>
       if d.vatOpen ctx (off / 64 * 64 - vatBase) 64 then
         let d := d.surface (off / 64 * 64 - vatBase) 64
         d.replyPkt k .ok (d.rd (off / 64 * 64) 64)
       else no
     | .rennet obj off =>
       if off % 8 = 0 && d.objOpen obj k.pd.toNat then
         (if (d.obj obj).poisoned then d.refusePkt p k .poison else d.replyPkt k .ok (leBytes 8 (winWord (d.obj obj) off)))
       else no
     | _ => no)
  | .write a bs =>
    (match localTarget (a.toNat % 2 ^ 48) with
     | .umr off => if d.backed off then d.send { writeMsg who off bs with tag := tag, rq := some (pktAgent k) } else no
     | .vat off =>
       if d.vatOpen ctx (off - vatBase) bs.length then (d.vatPut (off - vatBase) bs none).replyPkt k .ok [] else no
     | .rennet obj off =>
       if off = 0 && bs.length = 8 then
         d.modRennet (fun r => { r with msgs := r.msgs ++ [.sig (pktSrc k) .sig obj (BitVec.ofNat 64 (ofLe bs)) (some tag)] })
       else no
     | _ => no)
  | .red op ty a bs =>
    (match localTarget (a.toNat % 2 ^ 48) with
     | .umr off => if d.backed off then d.send { redMsg who off bs (op, ty) with tag := tag } else no
     | _ => no)
  | .rennetSig obj v => d.modRennet (fun r => { r with msgs := r.msgs ++ [.sig (pktSrc k) .sig obj.val v (some tag)] })
  | .rennetAdd obj v => d.modRennet (fun r => { r with msgs := r.msgs ++ [.add (pktSrc k) obj.val v (some tag)] })
  | .rennetWait obj v _ sc => d.modRennet (fun r => { r with msgs := r.msgs ++ [.wait (pktSrc k) obj.val v sc (some tag)] })
  | .rennetCancel _ t => d.cancelWait k.src.toNat t.toNat
  | .coherence m =>
    let m := d.fromChain k m
    (match m.kind, maNode m.addr, localTarget m.addr with
     | .atomic, none, .vat off =>
       (match m.atom with
        | .amo op v dbl =>
          let w := if dbl then 8 else 4
          if d.vatOpen ctx (off - vatBase) w then
            let (x, d) := d.vatAmo (off - vatBase) op w v.toNat
            d.replyPkt k .ok (leBytes 8 x)
          else no
        | _ => no)
     | .atomic, none, .umr _ => d.send m
     | .atomic, none, _ => no
     | _, _, _ => d.send m)
  | .answer t st bs => d.answered t.toNat st bs

/-- Requests that a departing node refuses (R428). -/
def refusedLeaving (k : ChainPkt) : Bool :=
  match k.body with
  | .answer _ _ _ => false
  | .coherence m => m.kind == .rdShared || m.kind == .rdUnique || m.kind == .claimUnique || m.kind == .rdOnce || m.kind == .atomic
  | _ => true

/-- R413 to R417: a packet for this node. -/
def packetIn (d : Dev) (p : Nat) (k : ChainPkt) : Dev :=
  let q := d.port p
  let key := streamKey k.src.toNat k.cls.val
  let r := tgetD d.chain.rx key {}
  if !d.chain.joined || !(q.isUp || q.st == .draining) then d
  else
  let d := d.owe p k
  if malformedPkt k || k.cls.val = 7 then d.modChain (fun c => { c with badHeader := c.badHeader + 1 })
  else if k.dst.toNat ≠ d.chain.node then d
  else if d.stalePkt k then d.modPort p (fun q => { q with stale := q.stale + 1 })
  else if k.seq ≠ r.next then d.modPort p (fun q => { q with outseq := q.outseq + 1 })
  else
    let d := (d.noteUnit k).modChain (fun c => { c with rx := tput c.rx key { next := r.next + 1, pend := r.pend + 1 } })
    let d :=
      if d.chain.leaving && refusedLeaving k then
        (match k.body with
         | .coherence m => d.answer (d.fromChain k m) (.refused .unreachable)
         | _ => d.refusePkt p k .unreachable)
      else deliver d p k
    if 32 ≤ r.pend + 1 then d.sendAck k.src.toNat k.cls.val else d

def execChainPacketReceive (p : Fin 16) (k : ChainPkt) (s : State) : Res := onDev s (fun d => packetIn d p.val k)

/-- A transit packet leaves by the active link to its destination, its last hop, once that has credits; until then it stays in the receive
buffer of its port. A packet that took a detour leaves on the detour set (R398, R405, R406, R411). -/
def execPacketForward (p : Fin 16) (k : ChainPkt) (s : State) : Res :=
  onDev s (fun d =>
    if !d.chain.joined || !(d.port p.val).isUp || k.dst.toNat = d.chain.node then d
    else if malformedPkt k then (d.owe p.val k).modChain (fun c => { c with badHeader := c.badHeader + 1 })
    else (d.modChain (fun c => { c with transit := c.transit ++ [(p.val, k)] })).flushSend)

/-- R415, R416: a cumulative acknowledgement frees what it covers; progress resets the timer. -/
def execChainAckReceive (k : ChainPkt) (s : State) : Res :=
  onDev s (fun d =>
    let key := streamKey k.src.toNat k.acls.val
    let t := tgetD d.chain.tx key {}
    if !d.chain.joined || k.cls.val ≠ 7 || k.dst.toNat ≠ d.chain.node then d
    else if malformedPkt k then d.modChain (fun c => { c with badHeader := c.badHeader + 1 })
    else if d.stalePkt k then
      (match (d.chain.route d.chain.node k.src.toNat).bind (fun r => d.chain.portTo r.1) with
       | some p => d.modPort p (fun q => { q with stale := q.stale + 1 })
       | none => d)
    else match t.unacked.findIdx? (fun x => x.seq == k.seq) with
      | some i =>
        (d.modChain (fun c => { c with tx := tput c.tx key { t with unacked := t.unacked.drop (i + 1), timer := 20 } })).flushSend
      | none => d)

def execAckTimer (src : Fin 64) (cls : Fin 8) (s : State) : Res :=
  onDev s (fun d =>
    if d.live src.val && (tgetD d.chain.rx (streamKey src.val cls.val) {}).pend ≠ 0 then d.sendAck src.val cls.val else d)

/-- Resend packets in order on the route of today, while credits last. -/
def resendList : Dev → Nat → Nat → List ChainPkt → Dev
  | d, _, _, [] => d
  | d, pn, vs, k :: t =>
    let k := { k with vset := BitVec.ofNat 2 vs }
    if (d.port pn).canSend k then resendList (d.portSend pn k) pn vs t else d

/-- R416. -/
def execRetransmitTimeout (dst : Fin 64) (cls : Fin 8) (s : State) : Res :=
  onDev s (fun d =>
    let key := streamKey dst.val cls.val
    let t := tgetD d.chain.tx key {}
    if !d.live dst.val || t.unacked.isEmpty then d
    else
      let d := d.modChain (fun c => { c with tx := tput c.tx key { t with timer := min 320 (2 * t.timer) } })
      match d.chain.route d.chain.node dst.val with
      | none => d
      | some (nh, vs) => match d.chain.portTo nh with
        | none => d
        | some pn => resendList d pn vs t.unacked)

/-! ### Rekeying (R420) -/

def execRekeyTimer (p : Fin 16) (s : State) : Res :=
  onDev s (fun d =>
    let q := d.port p.val
    if q.isUp && !q.rekeying then d.rekey p.val else d)

/-- The far end's nonce and confirmation: the new key replaces the old one; a wrong tag refuses the link (R419). -/
def execRekeyConfirm (p : Fin 16) (nonce : BitVec 256) (tag : BitVec 256) (s : State) : Res :=
  onDev s (fun d =>
    let q := d.port p.val
    match q.mine, q.far with
    | some mine, some far =>
      if !q.isUp || !q.rekeying then d
      else
        let key := Config.kmacChain d.sec.fabric (linkX mine far q.nonce nonce (q.epoch + 1))
        if tag = Config.kmacConfirm (confirmKey key) far then
          let d := d.modPort p.val (fun q => { q with key := key, epoch := q.epoch + 1, frameCtr := 0, rxCtr := 0, rekeying := false })
          d.emit (.linkConfirm p.val (Config.kmacConfirm (confirmKey key) mine))
        else (d.portDown p.val .refused).portRefuse p.val q.farNode 3
    | _, _ => d)

/-! ### Heartbeats, dead nodes and departures (R425 to R428) -/

def execHeartbeatTimer (s : State) : Res :=
  onDev s (fun d =>
    if !d.chain.joined then d
    else foldDev d ((List.range 64).filter (fun n => n != d.chain.node && d.reach n)) (fun d n => d.emit (.heartbeat n d.chain.inc)))

/-- A heartbeat only keeps HEARTBEAT_TIMEOUT from arriving, which is a command of its own here. -/
def execHeartbeatReceive (_n : Fin 64) (_inc : BitVec 4) (s : State) : Res := onDev s (fun d => d)

def execHeartbeatTimeout (n : Fin 64) (s : State) : Res :=
  onDev s (fun d => if n.val ≠ d.chain.node && d.live n.val then d.declareDead n.val else d)

def execDeadDeclarationReceive (n : Fin 64) (inc : BitVec 4) (s : State) : Res :=
  onDev s (fun d =>
    if !d.chain.joined then d
    else if n.val = d.chain.node then (if inc = d.chain.inc && (d.slot n.val).st = .live then d.selfQuench else d)
    else if d.live n.val && (d.slot n.val).inc = inc then d.declareDead n.val
    else d)

def execNoLinkTimeout (s : State) : Res :=
  onDev s (fun d => if d.chain.joined && d.upPorts.isEmpty && (d.slot d.chain.node).st = .live then d.selfQuench else d)

def execDepartureReceive (n : Fin 64) (s : State) : Res :=
  onDev s (fun d => if n.val ≠ d.chain.node && d.live n.val then (d.departed n.val).emit (.floodLeave n.val) else d)

def execSlotChangeReceive (n : Fin 64) (slot : Slot) (s : State) : Res :=
  onDev s (fun d => if d.chain.joined then d.learnSlot n.val slot else d)

/-! ### Admin commands of the Chain -/

/-- CHAIN_JOIN (R399, R402): the number is taken and every enabled port starts its bring-up. -/
def execChainJoin (c : AdmCmd) (s : State) : Res :=
  onDev s (fun d => d.adminBg c (fun d =>
    let n := admOp c 0
    if !admOnly c 1 || 64 ≤ n then (.malformed, d)
    else if d.chain.leaving then (.busy, d)
    else if d.chain.joined then (.joined, d)
    else
      let start (p : Nat) (t : Tbl Port) : Tbl Port :=
        let q : Port := tgetD t p {}
        if q.enabled && q.st != .draining then tput t p (q.fresh .training) else t
      let d := d.modChain (fun x =>
        { x with joined := true, node := n, inc := 0, links := [], tx := [], rx := [],
                 ports := (List.range 16).foldl (fun t p => start p t) x.ports })
      (.ok, foldDev d [45, 46, 47, 48] (fun d k => d.wakeDom k))) .chainJoin)

/-- R428, steps 2 and 3: lines homed here come back, and lines of other nodes leave the cores. -/
def Dev.leavePush (d : Dev) : Dev :=
  let d := foldDev d (d.coh.dir.map (·.1)) (fun d k =>
    if d.busyLine k then d else d.startTxn { kind := .snpBack, who := .firmware, addr := 64 * k })
  foldDev d allCores (fun d h =>
    foldDev d ((d.core h).lines.filter (fun p => (maNode (64 * p.1)).isSome && stable p.2.st)) (fun d p => d.evictLine h p.1))

/-- Whether nothing of other nodes is left here and nothing of this node there. -/
def Dev.leaveDone (d : Dev) : Bool :=
  d.coh.dir.isEmpty && allCores.all (fun h => (d.core h).lines.all (fun p => (maNode (64 * p.1)).isNone)) &&
  d.coh.proxy.all (fun p => !p.2.wbOut && p.2.out.isNone) && d.chain.tx.all (fun p => p.2.unacked.isEmpty) && d.chain.waitSend.isEmpty

/-- R428, step 4. -/
def Dev.leaveEnd (d : Dev) : Dev :=
  let own := d.chain.node
  let d := (d.setSlot own { d.slot own with st := .empty }).emit (.floodLeave own)
  let d := foldDev d ((List.range 64).filter (· != own)) (fun d n => d.cutNode n false)
  d.modChain (fun c =>
    { c with joined := false, leaving := false, node := 0xFF, links := [], tx := [], rx := [], waitSend := [], transit := [],
             ports := c.ports.map (fun (p : Nat × Port) => (p.1, p.2.fresh .disabled)) })

/-- Steps of a context that are queued or running (R428). -/
def Dev.stepsBusy (d : Dev) : Bool :=
  !d.sched.steps.isEmpty || d.host.rings.any (fun r => r.2.enabled && r.2.head != r.2.tail)

def execChainLeave (c : AdmCmd) (s : State) : Res :=
  onDev s (fun d => d.adminBg c (fun d =>
    if !admOnly c 0 then (.malformed, d)
    else if d.chain.leaving then (.busy, d)
    else if d.stepsBusy then (.ctxActive, d)
    else if !d.chain.joined then (.ok, d)
    else (.ok, (d.modChain (fun x => { x with leaving := true })).leavePush)) .chainLeave)

/-- The operands of CHAIN_PORT: a port, and the action of the row. -/
def portCmdBad (c : AdmCmd) (act : Nat) : Bool := !admOnly c 2 || decide (16 ≤ admOp c 0) || admOp c 1 != act

/-- CHAIN_PORT with disable (R429): no new packets, the routes move, and the frames under way drain. -/
def execChainPortDisable (c : AdmCmd) (s : State) : Res :=
  onDev s (fun d => d.adminBg c (fun d =>
    let p := admOp c 0
    if portCmdBad c 0 then (.malformed, d)
    else
      let d := d.modPort p (fun q => { q with enabled := false })
      if (d.port p).isUp then (.ok, d.portDown p .draining)
      else if (d.port p).st = .draining then (.ok, d)
      else (.ok, d.modPort p (fun q => q.fresh .disabled))) (.portDisable (admOp c 0)))

def execChainPortEnable (c : AdmCmd) (s : State) : Res :=
  onDev s (fun d => d.adminBg c (fun d =>
    let p := admOp c 0
    if portCmdBad c 1 then (.malformed, d)
    else if (d.port p).st = .draining then (.busy, d)
    else
      let d := (d.modPort p (fun q => { q with enabled := true })).wakeDom (45 + p / 4)
      (.ok, if d.chain.joined && (d.port p).st = .disabled then d.modPort p (fun q => q.fresh .training) else d))
    (.portEnable (admOp c 0)))

/-- CHAIN_PORT with retrain (R410): an up link trains for 8 lanes again. -/
def execChainPortRetrain (c : AdmCmd) (s : State) : Res :=
  onDev s (fun d => d.adminBg c (fun d =>
    let p := admOp c 0
    if portCmdBad c 2 then (.malformed, d)
    else if (d.port p).isUp then (.ok, d.modPort p (fun q => { q with retrain := true, lanes := 8, laneBad := 0 }))
    else (.ok, d)) (.portRetrain (admOp c 0)))

def portStCode : PortSt → Nat
  | .disabled => 0
  | .training => 1
  | .upActive => 2
  | .upStandby => 3
  | .dead => 4
  | .refused => 5
  | .draining => 6

/-- One port status record (Table 13.8). -/
def portRec (q : Port) : List Byte :=
  wordsBytes
    [portStCode q.st + at_ 3 q.refuse + at_ 6 q.lanes + at_ 16 q.farNode + at_ 24 q.farPort + at_ 28 q.farInc.toNat + at_ 32 q.epoch,
     sat32 q.replays + at_ 32 (sat32 q.tagFail), sat32 q.stale + at_ 32 (sat32 q.outseq), q.fecCorr, q.uptime.toNat, 0, 0, 0]

def execChainStatus (c : AdmCmd) (s : State) : Res :=
  onDev s (fun d => d.admin c (fun d =>
    if !admOnly c 1 || !admAddr c 0 then { st := .malformed, dev := d }
    else { dev := d.fwWrite (lgetD c.ops 0 0) ((List.range 16).flatMap (fun p => portRec (d.port p))) }))

end Sys2Proof.Machine
end

