-- ==== Sys2Proof/Machine/HostIf.lean ====
section
/-!
DEFINITION. The host interface (chapters 14 and 20): apertures, placement regions, notify pages and doorbell lines,
completion and event rings, the admin ring, and Function Level Reset.
-/
namespace Sys2Proof.Machine

def Dev.ready (d : Dev) : Bool := d.boot.st == .ready
def Dev.inRecovery (d : Dev) : Bool := d.boot.st == .recovery || d.boot.st == .program

/-! ### Apertures (R436 to R440) -/

def Dev.apt (d : Dev) (i : Nat) : Aperture := tgetD d.host.ap i {}
def Dev.setApt (d : Dev) (i : Nat) (a : Aperture) : Dev := d.modHost (fun h => { h with ap := tput h.ap i a })

/-- BASE + o (R436). -/
def Aperture.addr (a : Aperture) (o : Nat) : Nat := (a.base.toNat * 2 ^ 21 + o) % 2 ^ 56

/-- The source of a host operation on an object (Table 6.9). -/
def Dev.apSrc (d : Dev) (i : Nat) (a : Aperture) : RSrc :=
  { node := BitVec.ofNat 8 d.ownNode, srct := 4, srcid := BitVec.ofNat 16 i, half := .west, ctx := Fin.ofNat 4096 a.ctx.toNat, pd := a.pd }

/-- What a load of an object's window answers (Table 6.4, R610): word `off / 8`, or the status that refuses it. -/
def Dev.winRead (d : Dev) (obj off pd : Nat) : Except Status Nat :=
  if off % 8 ≠ 0 || !d.objOpen obj pd then .error .unmapped
  else if (d.obj obj).poisoned then .error .poison
  else .ok (winWord (d.obj obj) off)

/-- Whether a store of a core or of the host to an object waits at its source: it releases at PACKAGE scope (R19, R209, R227)
and keeps the order of its source (R222). -/
def Dev.sigHolds (d : Dev) (src : Agent) (t : Target) : Bool :=
  d.mustHold src 0 (d.pathOf src t false) t false true || !d.released src .package

/-- Send a signal of a core or of the host to an object of this node or of another, or hold it at its source. -/
def Dev.issueSig (d : Dev) (src : Agent) (s : RSrc) (node : Option Nat) (obj : Nat) (v : Word) : Dev :=
  let a := match node with | none => objAddr obj | some n => 2 ^ 48 * n + rennetBase + 64 * obj
  let t := d.target true a
  if d.sigHolds src t then
    { d with writes := d.writes ++ [{ src := src, addr := a, bytes := leBytes 8 v.toNat, path := d.pathOf src t false, held := true,
                                      what := .sig s obj v }] }
  else d.rennetSend node src none (.sig s .sig obj v)

/-- A refused host write: discarded, with an event (R438). -/
def apDrop (d : Dev) (i o : Nat) (st : Status) : Dev := d.raise (apEvent i o st)

/-- Bytes of the recovery aperture (R571): the first 0x0301_1000 of the West Vat. -/
def recoveryLen : Nat := 0x03011000

/-- A posted write of the host at a BAR2 offset. In recovery it fills the recovery aperture; before the device is ready it
is discarded (Table 19.6). -/
def apWrite (d : Dev) (off : Nat) (bs : List Byte) : Dev :=
  let i := off / 2 ^ 28
  let o := off % 2 ^ 28
  let a := d.apt i
  let fi : Fin 32 := Fin.ofNat 32 i
  if d.inRecovery then
    (if d.boot.st = .recovery && !d.boot.goSet && off + bs.length ≤ recoveryLen then d.wr (vatOff off) bs else d)
  else if !d.ready then d
  else if !a.en || !a.wr then apDrop d i o .unmapped
  else
    let g := a.addr o
    let put (_ : Unit) : Dev := d.issueWrites (.aperture fi) g bs none
    match d.target false g with
    | .umr off =>
      if !(lines64 off bs).all (fun p => d.backed p.1) then apDrop d i o .unmapped else put ()
    | .vat off => if d.vatOpen a.ctx.toNat (off - vatBase) bs.length then put () else apDrop d i o .unmapped
    | .rennet obj ro =>
      if ro ≠ 0 || bs.length ≠ 8 then apDrop d i o .unmapped
      else d.issueSig (.aperture fi) (d.apSrc i a) none obj (BitVec.ofNat 64 (ofLe bs))
    | .remote n off =>
      (match localTarget off with
        | .umr _ => if d.live n then put () else apDrop d i o .unreachable
        | .vat _ => if d.live n then put () else apDrop d i o .unreachable
        | .rennet obj ro =>
          if ro ≠ 0 || bs.length ≠ 8 then apDrop d i o .unmapped
          else d.issueSig (.aperture fi) (d.apSrc i a) (some n) obj (BitVec.ofNat 64 (ofLe bs))
        | _ => apDrop d i o .unmapped)
    | _ => apDrop d i o .unmapped

def execHostApertureWrite (off : BitVec 33) (bytes : List Byte) (s : State) : Res := onDev s (fun d => apWrite d off.toNat bytes)

/-- A refused host read: Unsupported Request, with an event (R438). -/
def apNo (d : Dev) (i o : Nat) (st : Status) : Dev := (d.emit .unsupported).raise (apEvent i o st)

/-- A read whose data is not there yet (R440). -/
def Dev.readWaits (d : Dev) (r : PendRead) : Dev := d.modHost (fun h => { h with reads := h.reads ++ [r] })

/-- Whether a source has writes that are not performed yet: a read of it follows them (R223, R240). -/
def Dev.srcBusy (d : Dev) (src : Agent) (rq : Nat) : Bool := d.writes.any (fun w => w.of src rq && !w.done)

/-- How many of a read's remaining bytes are read now: all of them, or, while writes of others are under way, by a free choice
only the next naturally aligned 8 bytes (R235). -/
def Dev.readChunk (d : Dev) (src : Agent) (o left : Nat) : Nat × Dev :=
  if d.contended src then
    (if Config.freeBool d.free then min left (8 - o % 8) else left, { d with free := d.free + 1 })
  else (left, d)

/-- Read UMR bytes for the host or a peer: the bytes that are read now, or what refuses the read. -/
def Dev.readUmr (d : Dev) (r : PendRead) (src : Agent) (off : Nat) : Dev :=
  match d.readGate off r.len with
  | .refuse st => apNo d r.ap.val r.off st
  | .hold d => d.readWaits r
  | .go d =>
    let k := r.got.length
    let (n, d) := d.readChunk src (off + k) (r.len - k)
    match d.homeRead (off + k) n (r.ext.drop k) with
    | .error .poison => d.hostAnswer r.ap.val r.off (List.replicate r.len 0) true
    | .error st => apNo d r.ap.val r.off st
    | .ok (bs, d) =>
      let d := if k = 0 then d.heatLines off r.len else d
      if k + n < r.len then d.readWaits { r with got := r.got ++ bs }
      else d.hostAnswer r.ap.val r.off (r.got ++ bs) (d.cohPoison off r.len)

/-- A read through an aperture: answered, refused, or waiting. It waits for the host's earlier writes, for a frame or a route,
and for the host's earlier operations on the object it reads (R206); a read of a Rennet object is whole. -/
def Dev.readTry (d : Dev) (r : PendRead) : Dev :=
  let i := r.ap.val
  let a := d.apt i
  let src : Agent := .aperture r.ap
  if d.srcBusy src 0 then d.readWaits r
  else match d.target false r.addr with
    | .umr off => d.readUmr r src off
    | .vat off =>
      let v := off - vatBase
      if !d.vatOpen a.ctx.toNat v r.len then apNo d i r.off .unmapped
      else
        let k := r.got.length
        let d := d.surface v r.len
        let (n, d) := d.readChunk src (off + k) (r.len - k)
        let bs := r.got ++ d.rd (off + k) n
        if k + n < r.len then d.readWaits { r with got := bs } else d.emit (.completion bs)
    | .rennet obj ro =>
      if r.len ≠ 8 then apNo d i r.off .unmapped
      else if d.opsOut src obj then d.readWaits r
      else (match d.winRead obj ro a.pd.toNat with
        | .ok v => d.emit (.completion (leBytes 8 v))
        | .error .poison => d.hostAnswer i r.off (leBytes 8 0) true
        | .error st => apNo d i r.off st)
    | .remote n off =>
      let bad := match localTarget off with
        | .umr _ => false
        | .vat _ => false
        | .rennet _ ro => ro % 8 != 0 || r.len != 8
        | _ => true
      if bad then apNo d i r.off .unmapped
      else if !d.live n then apNo d i r.off .unreachable
      else if !d.reach n then d.readWaits r
      else (match extAnswer r.ext r.len with
        | .ok bs => d.emit (.completion bs)
        | .error .poison => d.hostAnswer i r.off (List.replicate r.len 0) true
        | .error st => apNo d i r.off st)
    | _ => apNo d i r.off .unmapped

/-- A read of the host at a BAR2 offset; bytes of another node are `ext`. -/
def apRead (d : Dev) (off len : Nat) (ext : List Byte) : Dev :=
  let i := off / 2 ^ 28
  let o := off % 2 ^ 28
  let a := d.apt i
  if d.inRecovery then
    (if off + len ≤ recoveryLen then d.emit (.completion (d.rd (vatOff off) len)) else d.emit .unsupported)
  else if !d.ready then d.emit .unsupported
  else if !a.en || !a.rd then apNo d i o .unmapped
  else
    let r : PendRead := { id := d.host.readId, ap := Fin.ofNat 32 i, off := o, addr := a.addr o, len := len, ext := ext }
    (d.modHost (fun h => { h with readId := h.readId + 1 })).readTry r

def execHostApertureRead (off : BitVec 33) (len : Nat) (ext : List Byte) (s : State) : Res :=
  onDev s (fun d => apRead d off.toNat len ext)

/-- R440: Completer Abort and an event; the access that caused the delay goes on. -/
def execApertureReadTimeout (id : Nat) (s : State) : Res :=
  onDev s (fun d =>
    match d.host.reads.find? (fun r => r.id == id) with
    | some r =>
      let d := d.modHost (fun h => { h with reads := h.reads.filter (fun x => x.id != id) })
      (d.emit .abortCpl).raise (apEvent r.ap.val r.off .notReady)
    | none => d)

/-- A write of word 0 of an aperture entry (R437, R588). -/
def apEntryWrite (d : Dev) (i : Nat) (w : Nat) : Dev :=
  let a := d.apt i
  let a := if bit w 4 then { a with busy := false } else a
  let free := !a.en && !a.draining
  let a := if free then
      { a with rd := bit w 1, wr := bit w 2, pd := BitVec.ofNat 8 (fld w 8 8), ctx := BitVec.ofNat 12 (fld w 16 12) }
    else a
  let a :=
    if bit w 0 then (if a.draining then { a with busy := true } else { a with en := true })
    else if a.en then { a with en := false, draining := true }
    else a
  d.setApt i a

/-- A write of word 1: BASE. -/
def apBaseWrite (d : Dev) (i : Nat) (w : Nat) : Dev :=
  let a := d.apt i
  if a.en || a.draining then d else d.setApt i { a with base := BitVec.ofNat 35 (fld w 21 35) }

def execApertureEnable (i : Fin 32) (w : Word) (s : State) : Res :=
  onDev s (fun d => if bit w.toNat 0 then apEntryWrite d i.val w.toNat else d)

def execApertureDisable (i : Fin 32) (w : Word) (s : State) : Res :=
  onDev s (fun d => if bit w.toNat 0 then d else apEntryWrite d i.val w.toNat)

/-- DRAINING clears once every access accepted before has been performed or discarded (R437). -/
def execApertureDrainDone (i : Fin 32) (s : State) : Res :=
  onDev s (fun d =>
    let a := d.apt i.val
    if a.draining && !d.writes.any (fun w => w.src == .aperture i && w.what.isData) &&
        !d.host.reads.any (fun r => r.ap == i && r.region.isNone) then
      d.setApt i.val { a with draining := false }
    else d)

/-! ### Placement regions (R442) -/

/-- The enabled region that holds every byte of an access. -/
def Dev.regionAt (d : Dev) (off len : Nat) : Option (Nat × PRegion) :=
  d.host.regions.find? (fun p => p.2.st == .on && p.2.off ≤ off && off + len ≤ p.2.off + p.2.len)

/-- Where a byte of a region lies. -/
def PRegion.place (r : PRegion) (off : Nat) : Nat := lgetD r.pages ((off - r.off) / 4096) 0 * 4096 + off % 4096

/-- Counts of a millisecond (R489). -/
def countsPerMs : Nat := 24000

/-- A posted write of a peer: `rq` is its PCIe requester (Table 7.1). -/
def placeWrite (d : Dev) (rq off : Nat) (bs : List Byte) : Dev :=
  if !d.ready || bs.isEmpty then d
  else match d.regionAt off bs.length with
    | some (n, r) =>
      let fr : Fin 4096 := Fin.ofNat 4096 n
      let d := foldDev d (lines64 off bs) (fun d p => d.issueWrites (.region fr) (ownAddr (r.place p.1)) p.2 none 0 rq)
      if r.counter.isSome then d.modRennet (fun x => { x with landings := x.landings ++ [(fr, bs.length)] }) else d
    | none =>
      let ms := d.hubCount.toNat / countsPerMs
      let d := d.modHost (fun h => { h with placeDrop := sat32 (h.placeDrop + 1), dropsSince := h.dropsSince + 1 })
      if d.host.dropMs = some ms then d
      else (d.raise (evt 9 .ok .hub d.host.dropsSince off 0)).modHost (fun h => { h with dropMs := some ms, dropsSince := 0 })

def execPeerPlacementWrite (p : PeerAt) (bytes : List Byte) (s : State) : Res :=
  onDev s (fun d => placeWrite d p.rq.toNat p.off.toNat bytes)

/-- The runs of an access inside one page each: where they start, and their lengths. -/
def pageCuts (off len : Nat) : List (Nat × Nat) :=
  (List.range (len / 4096 + 2)).filterMap (fun i =>
    let a := max off ((off / 4096 + i) * 4096)
    let b := min (off + len) ((off / 4096 + i + 1) * 4096)
    if a < b then some (a, b - a) else none)

/-- The gate of every frame that a read of a region reaches. -/
def Dev.placeGate (d : Dev) (reg : PRegion) : List (Nat × Nat) → Gate
  | [] => .go d
  | p :: t => match d.readGate (reg.place p.1) p.2 with
    | .go d => d.placeGate reg t
    | g => g

/-- Read the runs of a region's pages in turn; a refused or poisoned run reads as zeros and marks the completion. -/
def Dev.placeBytes (d : Dev) (reg : PRegion) (ext : List Byte) : List (Nat × Nat) → List Byte × Bool × Dev
  | [] => ([], false, d)
  | p :: t =>
    let o := reg.place p.1
    let bad := d.cohPoison o p.2
    let got : List Byte × Bool × Dev := match d.homeRead o p.2 ext with
      | .ok r => (r.1, bad, r.2.heatLines o p.2)
      | .error _ => (List.replicate p.2 0, true, d)
    let rest := got.2.2.placeBytes reg (ext.drop p.2) t
    (got.1 ++ rest.1, got.2.1 || rest.2.1, rest.2.2)

/-- A read of a placement region through its pages; `ext` answers for lines that another node owns. It waits for every write of
a peer that is not performed yet, and for the frames it reads. -/
def Dev.placeTry (d : Dev) (r : PendRead) : Dev :=
  match d.regionAt r.off r.len with
  | none => d.emit .unsupported
  | some (_, reg) =>
    if d.writes.any (fun w => (match w.src with | .region _ => true | _ => false) && !w.done) then d.readWaits r
    else match d.placeGate reg (pageCuts r.off r.len) with
      | .hold d => d.readWaits r
      | .refuse _ => d.emit .unsupported
      | .go d =>
        let (bs, bad, d) := d.placeBytes reg r.ext (pageCuts r.off r.len)
        if bad then d.emit (.poisonedCpl bs) else d.emit (.completion bs)

def placeRead (d : Dev) (off len : Nat) (ext : List Byte) : Dev :=
  match (if d.ready then d.regionAt off len else none) with
  | some (n, reg) =>
    if !reg.read then d.emit .unsupported
    else
      (d.modHost (fun h => { h with readId := h.readId + 1 })).placeTry
        { id := d.host.readId, ap := 0, off := off, addr := ownAddr (reg.place off), len := len, ext := ext, region := some (Fin.ofNat 4096 n) }
  | none => d.emit .unsupported

def execPeerPlacementRead (off : BitVec 36) (n : PeerLen) (s : State) : Res :=
  onDev s (fun d => placeRead d off.toNat n.len n.ext)

/-- The reads that wait are tried again, oldest first. -/
def Dev.hostSettle (d : Dev) : Dev :=
  foldDev (d.modHost (fun h => { h with reads := [] })) d.host.reads (fun d r => if r.region.isSome then d.placeTry r else d.readTry r)

/-- Reads that a migration or fill held go on with its flip (R243, R440). -/
def execMigrationFlip (frame : Fin 33554432) (s : State) : Res := onDev s (fun d => (migrationFlip d frame.val).hostSettle)

def execFillFlip (frame : Fin 33554432) (s : State) : Res := onDev s (fun d => (fillFlip d frame.val).hostSettle)

/-! ### Notify pages, doorbell lines and rings (R445 to R448) -/

def notify (d : Dev) (page off len : Nat) (v : Word) : Dev :=
  let n := v.toNat % 2 ^ (8 * len)
  let line := fld n 0 10
  let good := d.ready && off = 0 && (len = 4 || len = 8) && n < 1024 &&
    (match tget d.host.lines line with | some l => l.pd.toNat == page | none => false)
  if good then d.modHost (fun h => { h with lines := tmod h.lines line (fun l => { l with pending := true }) })
  else d.modHost (fun h => { h with notifyIgn := sat32 (h.notifyIgn + 1) })

/-- A notify word of the host is performed after every earlier posted write of it (R238), and is held until then. -/
def hostNotify (d : Dev) (page off len : Nat) (v : Word) : Dev :=
  if d.mustHold (.aperture 0) 0 .near .reserved false false then
    { d with writes := d.writes ++ [{ src := .aperture 0, addr := 0xFF * 2 ^ 48 + 2 ^ 46, bytes := [], path := .near, held := true,
                                      what := .notify page off len v }] }
  else notify d page off len v

def execNotifyWrite (page : Fin 256) (off : BitVec 12) (len : Nat) (v : Word) (s : State) : Res :=
  onDev s (fun d => hostNotify d page.val off.toNat len v)

/-- R447 for one ring and the tail that its line holds. -/
def Dev.takeTail (d : Dev) (rn : Nat) (tail : BitVec 16) : Dev :=
  match tget d.host.rings rn with
  | none => d
  | some r =>
    if !r.enabled || r.overrun || r.destroying then d
    else if 2 ^ r.log2 < (tail - r.head).toNat then
      (d.modHost (fun h => { h with rings := tput h.rings rn { r with overrun := true, tail := r.head } })).raise
        (evt 6 .ringOverrun .hub rn r.head.toNat tail.toNat)
    else d.modHost (fun h => { h with rings := tput h.rings rn { r with tail := tail } })

/-- TAIL_k of a line's bytes (Table 14.3). -/
def lineTail (bs : List Byte) (k : Nat) : BitVec 16 := BitVec.ofNat 16 (fld (ofLe bs) (32 * k) 16)

/-- DOORBELL_LINE_READ (R446, R447): every ring of the line takes its tail. DESIGN CHOICE (log 188): a read that is refused is dropped. -/
def doorbell (d : Dev) (n : Nat) (ext : List Byte) : Dev :=
  match tget d.host.lines n with
  | some l =>
    if !l.pending then d
    else
      d.fwThen l.addr 64 (fun d =>
        let d := d.modHost (fun h => { h with lines := tput h.lines n { l with pending := false } })
        match d.fwRead l.addr 64 ext with
        | .ok bs => foldDev (d.fwTouch l.addr 64) (List.range 16) (fun d k => d.takeTail (16 * n + k) (lineTail bs k))
        | .error _ => d.fwTouch l.addr 64)
  | none => d

def execDoorbellLineRead (line : Fin 1024) (ext : List Byte) (s : State) : Res := onDev s (fun d => doorbell d line.val ext)

/-- R452. -/
def execHeadWordReread (ctx : Fin 4096) (ext : List Byte) (s : State) : Res :=
  onDev s (fun d =>
    match d.ctx? ctx.val with
    | some x =>
      d.fwThen x.head 8 (fun d =>
        match d.fwRead x.head 8 ext with
        | .ok bs => (d.fwTouch x.head 8).modCtx ctx.val (fun x => { x with headVal := ofLe bs })
        | .error _ => d)
    | none => d)

/-- R462: D µs after the first unsignalled record. -/
def execModerationTimer (ctx : Fin 4096) (s : State) : Res :=
  onDev s (fun d =>
    match d.ctx? ctx.val with
    | some x => if x.unsig = 0 then d else (d.modCtx ctx.val (fun x => { x with unsig := 0 })).fwSignal x.bind
    | none => d)

/-! ### The event ring (R459, R460, R585) -/

/-- An event record's bytes (Table 14.9). -/
def eventBytes (e : Event) (phase : Bool) : List Byte :=
  wordsBytes [b2n phase + at_ 1 e.kind.toNat + at_ 8 (statusCode e.status) + at_ 16 (dieIdx e.die) + at_ 32 e.info.toNat,
    e.t.toNat, e.a0.toNat, e.a1.toNat]

/-- Post the first held record when there is room. Once room has returned, one OVERFLOW record tells of the drops. -/
def eventPost (d : Dev) : Dev :=
  if d.host.evtRoom = 0 then d
  else
    let over_ : Event := { evt 16 .ok .hub d.host.evtLost 0 0 with t := d.hubCount }
    let d := if d.host.evtLost = 0 then d else d.modHost (fun h => { h with evtQ := h.evtQ ++ [over_], evtLost := 0 })
    match d.host.evtQ with
    | [] => d
    | e :: t =>
      let h := d.host
      let n := h.evtTail.toNat
      let d := d.fwWrite (h.evt.base + BitVec.ofNat 64 (32 * (n % 2 ^ h.evt.log2))) (eventBytes e ((n / 2 ^ h.evt.log2) % 2 == 0))
      (d.modHost (fun h => { h with evtQ := t, evtTail := h.evtTail + 1 })).fwSignal h.evtBind

def execEventRecordPost (s : State) : Res := onDev s eventPost

/-- A claim of more records than were posted sets ERR (R585). -/
def evtHeadWrite (d : Dev) (v : BitVec 32) : Dev :=
  d.modHost (fun h =>
    let bad := decide (2 ^ h.evt.log2 < (h.evtTail - v).toNat)
    { h with evtHead := v, evt := if bad then { h.evt with err := true } else h.evt })

def execEvtHeadWrite (v : BitVec 32) (s : State) : Res := onDev s (fun d => evtHeadWrite d v)

/-! ### Ring control registers (R583 to R585) -/

/-- A write of ADM_CTL or EVT_CTL: clearings first, then LOG2SZ, then EN. -/
def ctlWrite (r : RingCtl) (w szBits lo hi : Nat) : RingCtl :=
  let r := if bit w 10 then { r with busy := false } else r
  let r := if bit w 11 then { r with err := false } else r
  let r := if !r.en && !r.draining then { r with log2 := fld w 0 szBits } else r
  if bit w 8 then
    (if r.en then r
     else if r.draining then { r with busy := true }
     else if r.log2 < lo || hi < r.log2 then { r with err := true }
     else { r with en := true })
  else if r.en then { r with en := false, draining := true }
  else r

/-- R584: an impossible tail turns the ring off. -/
def Dev.admCheck (d : Dev) : Dev :=
  let h := d.host
  if h.adm.en && decide (2 ^ h.adm.log2 < (h.admTail - h.admHead).toNat) then
    (d.modHost (fun h => { h with adm := { h.adm with en := false, err := true } })).raise
      (evt 6 .ringOverrun .hub 0xFFFFFFFF h.admHead.toNat h.admTail.toNat)
  else d

def admCtl (d : Dev) (w : Nat) : Dev := (d.modHost (fun h => { h with adm := ctlWrite h.adm w 4 4 12 })).admCheck
def evtCtl (d : Dev) (w : Nat) : Dev := d.modHost (fun h => { h with evt := ctlWrite h.evt w 5 8 16 })

def execAdminRingEnable (w : Word) (s : State) : Res := onDev s (fun d => if bit w.toNat 8 then admCtl d w.toNat else d)
def execAdminRingDisable (w : Word) (s : State) : Res := onDev s (fun d => if bit w.toNat 8 then d else admCtl d w.toNat)
def execAdminRingDrainDone (s : State) : Res :=
  onDev s (fun d => if d.host.admBusy then d else d.modHost (fun h => { h with adm := { h.adm with draining := false } }))
def execEventRingEnable (w : Word) (s : State) : Res := onDev s (fun d => if bit w.toNat 8 then evtCtl d w.toNat else d)
def execEventRingDisable (w : Word) (s : State) : Res := onDev s (fun d => if bit w.toNat 8 then d else evtCtl d w.toNat)
def execEventRingDrainDone (s : State) : Res := onDev s (fun d => d.modHost (fun h => { h with evt := { h.evt with draining := false } }))

/-! ### The admin ring (R454 to R456) -/

/-- Opcodes of Table 14.8 and of the chapters it names. -/
def knownOp (n : Nat) : Bool :=
  (1 ≤ n && n ≤ 6) || (8 ≤ n && n ≤ 0xA) || (0x10 ≤ n && n ≤ 0x13) || (0x18 ≤ n && n ≤ 0x1E) || (0x20 ≤ n && n ≤ 0x22) ||
  (0x28 ≤ n && n ≤ 0x34) || (0x38 ≤ n && n ≤ 0x3C) || (0x40 ≤ n && n ≤ 0x45) || (0x48 ≤ n && n ≤ 0x4B) || (0x50 ≤ n && n ≤ 0x57)

/-- One command of an unknown opcode at the front of the ring: BAD_COMMAND (R455). -/
def Dev.badCommand (d : Dev) (w : BitVec 512) : Dev :=
  if d.adminOpen && !knownOp (fld w.toNat 0 8) then
    let slot := d.host.admHead
    (d.modHost (fun h => { h with admHead := h.admHead + 1 })).adminDone (BitVec.ofNat 16 (fld w.toNat 16 16)) slot .badCommand 0 0
  else d

/-- A write of the admin tail; `unknown` holds the slots at the front whose opcode no row gives. -/
def admTail (d : Dev) (v : BitVec 16) (unknown : List (BitVec 512)) : Dev :=
  foldDev (d.modHost (fun h => { h with admTail := v })).admCheck unknown (fun d w => d.badCommand w)

def execAdminTailWrite (v : BitVec 16) (unknown : List (BitVec 512)) (s : State) : Res := onDev s (fun d => admTail d v unknown)

/-! ### Function Level Reset (R434, R580) -/

/-- Steps are discarded as in containment; what the host set up is gone, and what is already under way goes on (DEDUCED, log 125). -/
def flr (d : Dev) : Dev :=
  let off (a : Aperture) : Aperture :=
    if a.en then { a with en := false, draining := true } else a
  let d := if d.sched.steps.isEmpty && d.faults.contain.isNone then d else d.contain true false
  let ctxs := d.host.ctxs.map (·.1)
  let d := d.modTiers (fun t => { t with allocs := t.allocs.map (fun (p : Nat × Alloc) =>
    (p.1, { p.2 with attach := p.2.attach.filter (fun c => !ctxs.contains c) })) })
  let wipe (x : Xlate) : Xlate := { x with tlb := [], wcache := [], walks := [], recs := [], waiting := [] }
  let d := { d with xlate := ⟨wipe d.xlate.w, wipe d.xlate.e⟩ }
  d.modHost (fun h =>
    { h with
      ap := h.ap.map (fun (p : Nat × Aperture) => (p.1, off p.2))
      regions := [], rings := [], ctxs := [], atsCache := [], atsAsked := []
      lines := h.lines.map (fun (p : Nat × DbLine) => (p.1, { p.2 with pending := false }))
      adm := {}, admTail := 0, admHead := 0, evt := {}, evtHead := 0, evtTail := 0, evtBind := 0, evtDrop := 0 })

def execFunctionLevelReset (s : State) : Res := onDev s flr

end Sys2Proof.Machine
end

