-- ==== Sys2Proof/Machine/Admin.lean ====
section
/-!
DEFINITION. The admin commands of Table 14.8 for contexts, rings, placement regions, Rennet, translation, frames, tiers, the
Cave and HBM, and the completion of background commands.
-/
namespace Sys2Proof.Machine

/-! ### Shared checks -/

/-- Table 14.11: no RSVD bit, and for an IMSIC binding an identity and at most one file. -/
def bindOk (b : Nat) : Bool :=
  fld b 33 31 == 0 && (if bit b 0 then fld b 22 11 != 0 && (!bit b 21 || fld b 18 3 == 0) else true)

/-- A context's steps that are queued, running or pre-empted (R305). -/
def Dev.ctxSteps (d : Dev) (c : Nat) : Bool :=
  d.sched.steps.any (fun p => p.2.ctx == c) ||
  d.host.rings.any (fun r => r.2.ctx == c && r.2.enabled && !r.2.overrun && !r.2.destroying && r.2.head != r.2.tail)

/-- A context that exists and is not shutting down. -/
def Dev.ctxLive (d : Dev) (c : Nat) : Bool := match d.ctx? c with | some x => !x.destroying | none => false

/-- A structure in host memory or in this node's UMR (R444, R480). -/
def Dev.hostOrUmr (d : Dev) (a : Nat) : Bool :=
  match d.target true a with | .host _ => true | .umr _ => true | _ => false

def bad (d : Dev) : AdmRes := { st := .malformed, dev := d }
def ans (st : Status) (d : Dev) : AdmRes := { st := st, dev := d }

/-! ### Contexts (R458, R464, R305, R217, R480) -/

def ctxCreate (d : Dev) (c : AdmCmd) : AdmRes :=
  let n := admOp c 0
  let pd := admOp c 1
  let ring := admOp c 2
  let lg := admOp c 3
  let head := admOp c 4
  let bind := admOp c 5
  let md := admOp c 6
  if !admOnly c 7 || 4094 < n || 255 < pd || lg < 6 || 16 < lg || ring % 32 ≠ 0 || head % 8 ≠ 0 || !bindOk bind || 2 ^ 24 ≤ md ||
      !admAddr c 2 || !admAddr c 4 then bad d
  else match d.ctx? n with
    | some x => ans (if x.destroying then .busy else .malformed) d
    | none =>
      let x : Ctx :=
        { pd := BitVec.ofNat 8 pd, ring := lgetD c.ops 2 0, log2 := lg, head := lgetD c.ops 4 0, bind := lgetD c.ops 5 0,
          modCount := fld md 0 8, modDelay := fld md 8 16 }
      ans .ok (d.modHost (fun h => { h with ctxs := tput h.ctxs n x }))

def execCtxCreate (c : AdmCmd) (s : State) : Res := onDev s (fun d => d.admin c (fun d => ctxCreate d c))

def ctxDestroy (d : Dev) (c : AdmCmd) : Status × Dev :=
  let n := admOp c 0
  if !admOnly c 1 || 4095 < n then (.malformed, d)
  else match d.ctx? n with
    | none => (.noObject, d)
    | some x =>
      if x.destroying then (.busy, d)
      else if d.sched.steps.any (fun p => p.2.ctx == n) ||
          d.host.rings.any (fun r => r.2.ctx == n && r.2.enabled && !r.2.overrun && !r.2.destroying) ||
          d.host.regions.any (fun r => r.2.ctx == n) then (.ctxActive, d)
      else
        let d := d.modTiers (fun t => { t with allocs := t.allocs.map (fun (p : Nat × Alloc) =>
          (p.1, { p.2 with attach := p.2.attach.filter (· != n) })) })
        (.ok, d.modCtx n (fun x => { x with destroying := true }))

def execCtxDestroy (c : AdmCmd) (s : State) : Res :=
  onDev s (fun d => d.adminBg c (fun d => ctxDestroy d c) (.ctxDestroy (admOp c 0)))

def ctxRoot (d : Dev) (c : AdmCmd) : AdmRes :=
  let n := admOp c 0
  if !admOnly c 3 || 4095 < n || 2 ^ 44 ≤ admOp c 1 || 2 ^ 20 ≤ admOp c 2 then bad d
  else if !d.ctxLive n then ans .noObject d
  else if d.ctxSteps n then ans .ctxActive d
  else ans .ok (d.modCtx n (fun x => { x with root := some (BitVec.ofNat 44 (admOp c 1), BitVec.ofNat 20 (admOp c 2)) }))

def execCtxRoot (c : AdmCmd) (s : State) : Res := onDev s (fun d => d.admin c (fun d => ctxRoot d c))

def ctxParams (d : Dev) (c : AdmCmd) : AdmRes :=
  let n := admOp c 0
  let la := admOp c 1
  let w := admOp c 2
  let f := admOp c 3
  if !admOnly c 4 || 4095 < n || w < 1000 || 60000000 < w || 4 ≤ f then bad d
  else if n = 4095 then ans .ok (d.modRennet (fun r => { r with pkgWindow := w, pkgDump := bit f 0 }))
  else if la < 1 || 16 < la then bad d
  else if !d.ctxLive n then ans .noObject d
  else ans .ok (d.modCtx n (fun x => { x with lookahead := la, window := w, dumpOn := bit f 0, ats := bit f 1 }))

def execCtxParams (c : AdmCmd) (s : State) : Res := onDev s (fun d => d.admin c (fun d => ctxParams d c))

def acctSet (d : Dev) (c : AdmCmd) : AdmRes :=
  let n := admOp c 0
  let a := admOp c 1
  if !admOnly c 3 || 4095 < n || a % 64 ≠ 0 || 2 ^ 32 ≤ admOp c 2 || !admAddr c 1 || !(a = 0 || d.hostOrUmr a) then bad d
  else if !d.ctxLive n then ans .noObject d
  else ans .ok (d.modCtx n (fun x => { x with acct := { x.acct with buf := lgetD c.ops 1 0, period := admOp c 2 } }))

def execAcctSet (c : AdmCmd) (s : State) : Res := onDev s (fun d => d.admin c (fun d => acctSet d c))

def acctNow (d : Dev) (c : AdmCmd) : AdmRes :=
  let n := admOp c 0
  if !admOnly c 1 || 4095 < n then bad d
  else if !d.ctxLive n then ans .noObject d
  else ans .ok (d.acctWrite n true)

def execAcctNow (c : AdmCmd) (s : State) : Res := onDev s (fun d => d.admin c (fun d => acctNow d c))

/-! ### Rings and doorbell lines (R444, R448, R458) -/

def ringCreate (d : Dev) (c : AdmCmd) (ext : List Byte) : AdmRes :=
  let rn := admOp c 0
  let n := admOp c 1
  let base := admOp c 3
  let lg := admOp c 4
  if !admOnly c 5 || 16384 ≤ rn || 4095 < n || 3 < admOp c 2 || base % 64 ≠ 0 || lg < 4 || 15 < lg || !admAddr c 3 || !d.hostOrUmr base then bad d
  else match tget d.host.rings rn with
    | some r => ans (if r.destroying then .busy else .malformed) d
    | none =>
      match d.ctx? n, tget d.host.lines (rn / 16) with
      | some x, some l =>
        if x.destroying || l.pd ≠ x.pd then ans .noObject d
        else (match d.fwRead l.addr 64 ext with
          | .error st => ans st d
          | .ok bs =>
            let t := lineTail bs (rn % 16)
            let r : Ring := { ctx := n, cls := admOp c 2, base := lgetD c.ops 3 0, log2 := lg, head := t, tail := t }
            let d := (d.fwTouch l.addr 64).modHost (fun h => { h with rings := tput h.rings rn r })
            ans .ok (foldDev d (List.range 16) (fun d k => d.takeTail (16 * (rn / 16) + k) (lineTail bs k))))
      | _, _ => ans .noObject d

/-- The doorbell line that a new ring belongs to is read once its home need not make the read wait. -/
def execRingCreate (c : AdmCmd) (ext : List Byte) (s : State) : Res :=
  onDev s (fun d =>
    let go (d : Dev) : Dev := d.admin c (fun d => ringCreate d c ext)
    match d.adminOpen, tget d.host.lines (admOp c 0 / 16) with
    | true, some l => d.fwThen l.addr 64 go
    | _, _ => go d)

def ringDestroy (d : Dev) (c : AdmCmd) : Status × Dev :=
  let rn := admOp c 0
  if !admOnly c 1 || 16384 ≤ rn then (.malformed, d)
  else match tget d.host.rings rn with
    | none => (.noObject, d)
    | some r =>
      if r.destroying then (.busy, d)
      else (.ok, d.modHost (fun h => { h with rings := tput h.rings rn { r with destroying := true, enabled := false } }))

def execRingDestroy (c : AdmCmd) (s : State) : Res :=
  onDev s (fun d => d.adminBg c (fun d => ringDestroy d c) (.ringDestroy (admOp c 0)))

def dblineSet (d : Dev) (c : AdmCmd) : AdmRes :=
  let l := admOp c 0
  if !admOnly c 3 || 1024 ≤ l || 255 < admOp c 1 || admOp c 2 % 64 ≠ 0 || !admAddr c 2 then bad d
  else if d.host.rings.any (fun r => r.1 / 16 == l) then ans .busy d
  else
    let x : DbLine := { pd := BitVec.ofNat 8 (admOp c 1), addr := lgetD c.ops 2 0 }
    ans .ok (d.modHost (fun h => { h with lines := tput h.lines l x }))

def execDblineSet (c : AdmCmd) (s : State) : Res := onDev s (fun d => d.admin c (fun d => dblineSet d c))

/-! ### Placement regions (R329, R341, R441, R443) -/

/-- The UMR page of one virtual page of a region, or the status that refuses the registration. -/
def Dev.regionPage (d : Dev) (ctx va : Nat) (read : Bool) : Except Status Nat :=
  match d.walk .west ctx va with
  | (.leaf l p, _) =>
    if (leafCheck .write p).isSome || (read && (leafCheck .read p).isSome) then .error .translationAbort
    else
      let h := leafHeld l p va
      (match d.target true (leafPa h.1 h.2 va) with
       | .umr off => .ok (off / 4096)
       | _ => .error .regionTarget)
  | _ => .error .translationAbort

/-- Every page of a region, in order. -/
def Dev.regionPages (d : Dev) (ctx : Nat) (read : Bool) : Nat → Nat → Except Status (List Nat)
  | 0, _ => .ok []
  | k + 1, va =>
    match d.regionPage ctx va read with
    | .error e => .error e
    | .ok p => (match d.regionPages ctx read k (va + 4096) with | .ok t => .ok (p :: t) | .error e => .error e)

def windowSize : Nat := 2 ^ 36

def regionReg (d : Dev) (c : AdmCmd) : AdmRes :=
  let r := admOp c 0
  let n := admOp c 1
  let off := admOp c 2
  let len := admOp c 3
  let vb := admOp c 4
  let cnt := admOp c 5
  let fl := admOp c 6
  if !admOnly c 7 || 4096 ≤ r || 4095 < n || off % 4096 ≠ 0 || len % 4096 ≠ 0 || len = 0 || vb % 4096 ≠ 0 || 2 ^ 18 ≤ cnt || 2 ≤ fl then bad d
  else match tget d.host.regions r with
    | some x => ans (if x.st = .disabling then .busy else .malformed) d
    | none =>
      if !d.ctxLive n then ans .noObject d
      else if windowSize < off + len || d.host.regions.any (fun p => off < p.2.off + p.2.len && p.2.off < off + len) then ans .overlap d
      else match d.regionPages n (bit fl 0) (len / 4096) vb with
        | .error st => ans st d
        | .ok ps =>
          let x : PRegion :=
            { ctx := n, off := off, len := len, vbase := lgetD c.ops 4 0, pages := ps,
              counter := if bit cnt 17 then some (fld cnt 0 17) else none, read := bit fl 0 }
          ans .ok (d.modHost (fun h => { h with regions := tput h.regions r x }))

def execRegionReg (c : AdmCmd) (s : State) : Res := onDev s (fun d => d.admin c (fun d => regionReg d c))

/-- Frames that a region covers. -/
def PRegion.frames (r : PRegion) : List Nat := (r.pages.map (fun p => p * 4096 / frameSize)).eraseDups

/-- Start the fill of every Cave-backed frame of a list; false when some fill has no tier. -/
def Dev.fillAll : Dev → List Nat → Bool × Dev
  | d, [] => (true, d)
  | d, f :: t =>
    if d.backing (f * frameSize) = .cave then
      let r := d.startFill f
      if r.1 then r.2.fillAll t else (false, d)
    else d.fillAll t

def setRegion (d : Dev) (r : Nat) (st : RegSt) : Dev :=
  d.modHost (fun h => { h with regions := tmod h.regions r (fun x => { x with st := st }) })

def regionEnable (d : Dev) (c : AdmCmd) : Status × Dev :=
  let r := admOp c 0
  if !admOnly c 1 || 4096 ≤ r then (.malformed, d)
  else match tget d.host.regions r with
    | none => (.noObject, d)
    | some x =>
      if x.st = .disabling then (.busy, d)
      else if x.st = .on then (.ok, d)
      else
        let f := d.fillAll x.frames
        if f.1 then (.ok, setRegion f.2 r .enabling) else (.noTier, d)

def execRegionEnable (c : AdmCmd) (s : State) : Res :=
  onDev s (fun d => d.adminBg c (fun d => regionEnable d c) (.regionEnable (admOp c 0)))

def regionDisable (d : Dev) (c : AdmCmd) : Status × Dev :=
  let r := admOp c 0
  if !admOnly c 1 || 4096 ≤ r then (.malformed, d)
  else match tget d.host.regions r with
    | none => (.noObject, d)
    | some x => (.ok, if x.st = .off then d else setRegion d r .disabling)

def execRegionDisable (c : AdmCmd) (s : State) : Res :=
  onDev s (fun d => d.adminBg c (fun d => regionDisable d c) (.regionDisable (admOp c 0)))

/-- R443; a region that is still enabled answers BUSY as well (DESIGN CHOICE, log 44). -/
def regionFree (d : Dev) (c : AdmCmd) : AdmRes :=
  let r := admOp c 0
  if !admOnly c 1 || 4096 ≤ r then bad d
  else match tget d.host.regions r with
    | none => ans .noObject d
    | some x => if x.st = .off then ans .ok (d.modHost (fun h => { h with regions := tdel h.regions r })) else ans .busy d

def execRegionFree (c : AdmCmd) (s : State) : Res := onDev s (fun d => d.admin c (fun d => regionFree d c))

/-! ### Images and the save area (R166, R474, R523) -/

def flushImages (d : Dev) (c : AdmCmd) : AdmRes :=
  let n := admOp c 0
  if !admOnly c 1 || 4095 < n then bad d
  else if !d.ctxLive n then ans .noObject d
  else ans .ok (d.modCtx n (fun x => { x with images := [] }))

def execFlushImages (c : AdmCmd) (s : State) : Res := onDev s (fun d => d.admin c (fun d => flushImages d c))

/-- SAVE_AREA; a size that the half's free HBM does not hold completes with EXHAUSTED (DESIGN CHOICE, log 44). -/
def saveArea (d : Dev) (c : AdmCmd) : AdmRes :=
  let n := admOp c 1
  if !admOnly c 2 || 1 < admOp c 0 || n % (64 * 2 ^ 20) ≠ 0 then bad d
  else if d.faults.contain.isSome then ans .containing d
  else
    let h := halfOfNat (admOp c 0)
    let old := (Two.get d.sched.half h).saveBytes
    if n < old - d.saveFree h then ans .busy d
    else if d.hbmMiB h + old / 2 ^ 20 < d.hbmUsed h + n / 2 ^ 20 then ans .exhausted d
    else ans .ok (d.setHalf h (fun x => { x with saveBytes := n }))

def execSaveArea (c : AdmCmd) (s : State) : Res := onDev s (fun d => d.admin c (fun d => saveArea d c))

/-! ### Rennet (R195, R198, R219) -/

/-- Objects of a half-local index range that someone holds. -/
def Dev.objsHeld (d : Dev) (h : Half) (lo hi : Nat) : Bool :=
  d.rennet.objs.any (fun p => objHalf p.1 == h && lo ≤ p.1 % 65536 && p.1 % 65536 < hi && p.2.owner.isSome)

def rennetPools (d : Dev) (c : AdmCmd) : AdmRes :=
  let n := admOp c 1
  if !admOnly c 2 || 1 < admOp c 0 || n % 4096 ≠ 0 || 65536 < n then bad d
  else
    let h := halfOfNat (admOp c 0)
    let old := Two.get d.rennet.pool h
    if d.objsHeld h (min old n) (max old n) then ans .busy d
    else ans .ok (d.modRennet (fun r => { r with pool := Two.set r.pool h n }))

def execRennetPools (c : AdmCmd) (s : State) : Res := onDev s (fun d => d.admin c (fun d => rennetPools d c))

/-- The lowest free run of a half's context pool. -/
def Dev.freeRun (d : Dev) (h : Half) (count : Nat) : Option Nat :=
  let p := Two.get d.rennet.pool h
  (List.range (65536 - p)).map (· + p) |>.find? (fun i => i + count ≤ 65536 && !d.objsHeld h i (i + count))

def rennetAlloc (d : Dev) (c : AdmCmd) : AdmRes :=
  let n := admOp c 0
  let k := admOp c 2
  if !admOnly c 3 || 4095 < n || 1 < admOp c 1 || k = 0 || 65536 < k then bad d
  else if !d.ctxLive n then ans .noObject d
  else
    let h := halfOfNat (admOp c 1)
    match d.freeRun h k with
    | none => ans .exhausted d
    | some i =>
      let first := 65536 * halfIdx h + i
      { lo := first, dev := d.modRennet (fun r => { r with objs := newObjs (.ctx n) (first, k) r.objs }) }

def execRennetAlloc (c : AdmCmd) (s : State) : Res := onDev s (fun d => d.admin c (fun d => rennetAlloc d c))

def rennetFree (d : Dev) (c : AdmCmd) : AdmRes :=
  let i := admOp c 0
  let k := admOp c 1
  if !admOnly c 2 || 131072 ≤ i || k = 0 || 131072 < i + k then bad d
  else if !(List.range k).all (fun j => match (d.obj (i + j)).owner with | some (.ctx _) => true | _ => false) then ans .noObject d
  else ans .ok (d.freeObjs i k).flushSend

def execRennetFree (c : AdmCmd) (s : State) : Res := onDev s (fun d => d.admin c (fun d => rennetFree d c))

def dumpReg (d : Dev) (c : AdmCmd) : AdmRes :=
  if !admOnly c 2 || !admAddr c 0 then bad d
  else ans .ok (d.modRennet (fun r => { r with dumpBuf := lgetD c.ops 0 0, dumpLen := admOp c 1 }))

def execDumpReg (c : AdmCmd) (s : State) : Res := onDev s (fun d => d.admin c (fun d => dumpReg d c))

/-- DUMP of a context, or of the package when the operand is all ones in 12 or 64 bits. -/
def dumpStart (d : Dev) (c : AdmCmd) : Status × Dev :=
  let n := admOp c 0
  let all := n = 4095 || n = 2 ^ 64 - 1
  if !admOnly c 1 || (4095 < n && !all) then (.malformed, d)
  else if !all && (d.ctx? n).isNone then (.noObject, d)
  else (.ok, d.startDump (some (d.host.admHead - 1)) (if all then 0xFFF else n) false)

def execDump (c : AdmCmd) (s : State) : Res := onDev s (fun d => d.adminBg c (fun d => dumpStart d c) .dump)

/-! ### Translation (R315, R318 to R323) -/

def faultQueue (d : Dev) (c : AdmCmd) : AdmRes :=
  let n := admOp c 0
  let a := admOp c 1
  let lg := admOp c 2
  if !admOnly c 4 || 4095 < n || a % 32 ≠ 0 || lg < 6 || 16 < lg || !bindOk (admOp c 3) || !admAddr c 1 || !d.hostOrUmr a then bad d
  else if !d.ctxLive n then ans .noObject d
  else ans .ok (d.modCtx n (fun x => { x with fq := some { addr := lgetD c.ops 1 0, log2 := lg, bind := lgetD c.ops 3 0 } }))

def execFaultQueue (c : AdmCmd) (s : State) : Res := onDev s (fun d => d.admin c (fun d => faultQueue d c))

def faultReply (d : Dev) (c : AdmCmd) : AdmRes :=
  let fid := admOp c 0
  let abort := admOp c 1 = 1
  if !admOnly c 2 || 1 < admOp c 1 || 2048 ≤ fid then
    (if admOnly c 2 && admOp c 1 ≤ 1 then ans .noFault d else bad d)
  else
    let h := halfOfNat (fid / 1024)
    match tget (Two.get d.xlate h).recs (fid % 1024) with
    | none => ans .noFault d
    | some r =>
      let d := d.modXlate h (fun x => { x with recs := tdel x.recs (fid % 1024) })
      let d :=
        if abort then foldDev d r.users (fun d u => d.failUser u .translationAbort fid r.va.toNat)
        else foldDev d r.users (fun d u => d.unpark u)
      ans .ok (d.raiseWaiting h)

def execFaultReply (c : AdmCmd) (s : State) : Res := onDev s (fun d => d.admin c (fun d => faultReply d c))

/-- Whether a held translation of a size touches a range; a length of 0 is the whole space. -/
def tlbTouches (page sizeLog lo len : Nat) : Bool := len == 0 || (page < lo + len && lo < page + 2 ^ sizeLog)

/-- INVALIDATE removes the translations at once; it completes once their uses have been performed. -/
def invalidate (d : Dev) (c : AdmCmd) : Status × Dev :=
  let n := admOp c 0
  let lo := admOp c 1
  let len := admOp c 2
  if !admOnly c 3 || 4095 < n then (.malformed, d)
  else if !d.ctxLive n then (.noObject, d)
  else if d.host.regions.any (fun r => r.2.ctx == n && r.2.st == .on &&
      (len == 0 || (r.2.vbase.toNat < lo + len && lo < r.2.vbase.toNat + r.2.len))) then (.regionHeld, d)
  else
    let f (x : Xlate) : Xlate :=
      { x with tlb := x.tlb.filter (fun t => !(t.ctx == n && tlbTouches (t.page * 2 ^ t.sizeLog) t.sizeLog lo len)),
               wcache := x.wcache.filter (fun w => w.ctx != n) }
    let ofCtx (x : Xfer) : Bool := match d.step? x.step with | some s => s.ctx == n | none => false
    let tongs : Tbl (List Xfer) := d.tongs.map (fun (p : Nat × List Xfer) => (p.1, p.2.map (fun x => if ofCtx x then { x with held := [] } else x)))
    (.ok, { d with xlate := ⟨f d.xlate.w, f d.xlate.e⟩, tongs := tongs }.modHost (fun h => { h with admBusy := true }))

def execInvalidate (c : AdmCmd) (s : State) : Res :=
  onDev s (fun d => d.adminBg c (fun d => invalidate d c) (.invalidate (admOp c 0)))

/-- Whether an access of a context is still under way: a write or reduction that is not acknowledged, by the context of the
step that issued it, or an engine's atomic that has not been answered (R322). -/
def Dev.usesLeft (d : Dev) (n : Nat) : Bool :=
  let ofWrite (w : OutW) : Option Nat := match w.step.bind d.step? with | some s => some s.ctx | none => d.agentCtx w.src
  d.writes.any (fun w => ofWrite w == some n) ||
  allEngines.any (fun e => d.engCtx e == some n && (match (d.eng e).run with | .reply _ _ _ => true | _ => false))

/-! ### Frames (R332 to R349) -/

def policyOf (n : Nat) : Policy :=
  match n with
  | 0 => .pinnedHbm
  | 1 => .preferHbm
  | 2 => .preferDdr
  | _ => .capacity

def policyIdx : Policy → Nat
  | .pinnedHbm => 0
  | .preferHbm => 1
  | .preferDdr => 2
  | .capacity => 3

def backOf (n : Nat) : Back :=
  match n with
  | 1 => .hbm
  | 2 => .ddr
  | 3 => .cave
  | _ => .unbacked

/-- Back `k` frames from `n` on; none when some frame has no tier (R334). -/
def allocFrames : Nat → Nat → Frame → Dev → Option Dev
  | 0, _, _, d => some d
  | k + 1, n, f, d =>
    match (allocOrder f.policy).find? (fun b => d.admits f.ctx b f.il f.home true) with
    | none => none
    | some b =>
      let x : Frame := { f with back := b, loc := d.freeLoc b }
      allocFrames k (n + 1) f (d.modTiers (fun t => { t with frames := tput t.frames n x }))

def spans (first count : Nat) (a : Alloc) : Bool := first < a.first + a.count && a.first < first + count

def frameAlloc (d : Dev) (c : AdmCmd) : AdmRes :=
  let first := admOp c 0
  let count := admOp c 1
  let n := admOp c 2
  if !admOnly c 6 || count = 0 || 2 ^ 25 < first + count || 4095 < n || 3 < admOp c 3 || 1 < admOp c 4 || 1 < admOp c 5 then bad d
  else if !d.ctxLive n then ans .noObject d
  else if d.tiers.allocs.any (fun a => a.2.freeing && spans first count a.2) then ans .busy d
  else if d.tiers.allocs.any (fun a => spans first count a.2) then ans .framesInUse d
  else match (List.range 65536).find? (fun i => !thas d.tiers.allocs i) with
    | none => ans .exhausted d
    | some id =>
      let p := policyOf (admOp c 3)
      let il := admOp c 4 = 1
      let home := halfOfNat (admOp c 5)
      let f : Frame := { policy := p, il := il, home := home, ctx := n, alloc := id }
      match allocFrames count first f d.trimCave with
      | none => ans .noTier d
      | some d =>
        let lo := first * frameSize
        let mine (l : Nat) : Bool := lo ≤ 64 * l && 64 * l < lo + count * frameSize
        let d := { d with mem := cellsClear d.mem lo (count * frameSize), poison := d.poison.filter (fun l => !mine l) }
        let a : Alloc := { first := first, count := count, ctx := n, policy := p, il := il, home := home }
        { lo := id, dev := d.modTiers (fun t => { t with allocs := tput t.allocs id a }) }

def execFrameAlloc (c : AdmCmd) (s : State) : Res := onDev s (fun d => d.admin c (fun d => frameAlloc d c))

/-- Whether a line lies in an allocation. -/
def Alloc.has (a : Alloc) (key : Nat) : Bool := a.first ≤ key / 32768 && key / 32768 < a.first + a.count

/-- R336, step 2: no core of this node keeps a copy, and the nodes that hold one are asked to give it up. What was on its way when
the frames were freed may bring copies again, which go before the command completes. -/
def Dev.dropCopies (d : Dev) (a : Alloc) : Dev :=
  let d := foldDev d allCores (fun d h =>
    foldDev d ((d.core h).lines.filter (fun p => a.has p.1 && stable p.2.st)) (fun d p => d.modCore h (fun c => (coreDrop c p.1).l1Drop p.1)))
  let cs := (d.coh.filter.filter (fun p => a.has p.1)).map (·.1)
  let d := foldDev d cs (fun d k =>
    foldDev d (((d.coreHolders k).map (·.1)).filter (fun h => !thas (d.core h).lines k)) (fun d h => d.setHolder k h none))
  foldDev d ((d.coh.dir.filter (fun p => a.has p.1 && p.2.vec != 0)).map (·.1)) (fun d k => if d.busyLine k then d else d.dropSharers k)

/-- Whether a copy of a freed line is left, or a core waits for one. -/
def Dev.copiesLeft (d : Dev) (a : Alloc) : Bool :=
  d.cores.any (fun p => p.2.lines.any (fun l => a.has l.1)) || d.coh.dir.any (fun p => a.has p.1 && p.2.vec != 0)

/-- R336, steps 1 to 4. -/
def Dev.dropFrames (d : Dev) (a : Alloc) : Dev :=
  let inF (n : Nat) : Bool := a.first ≤ n && n < a.first + a.count
  let gone := (d.tiers.moves.filter (fun p => inF p.1 && !p.2.fill)).length
  let d := d.dropCopies a
  let d := d.modCoh (fun c =>
    { c with
      sysCache := c.sysCache.filter (fun l => !a.has l)
      redBuf := c.redBuf.filter (fun p => !a.has p.1) })
  let d := d.modCave (fun c => { c with staged := c.staged.filter (fun p => !inF p.1), badUnits := c.badUnits.filter (fun p => !inF p.1) })
  let d := d.modTiers (fun t =>
    { t with
      frames := t.frames.filter (fun p => !inF p.1)
      moves := t.moves.filter (fun p => !inF p.1)
      abandoned := t.abandoned + gone
      chosen := t.chosen.filter (fun p => !inF p.1)
      noMove := t.noMove.filter (fun p => !inF p.1) })
  ({ d with poison := d.poison.filter (fun l => !a.has l) }).retryHeld

def frameFree (d : Dev) (c : AdmCmd) : Status × Dev :=
  let i := admOp c 0
  if !admOnly c 1 || 65536 ≤ i then (.malformed, d)
  else match tget d.tiers.allocs i with
    | none => (.noObject, d)
    | some a =>
      if a.freeing then (.busy, d)
      else (.ok, (d.modTiers (fun t => { t with allocs := tput t.allocs i { a with freeing := true } })).dropFrames a)

def execFrameFree (c : AdmCmd) (s : State) : Res := onDev s (fun d => d.adminBg c (fun d => frameFree d c) (.frameFree (admOp c 0)))

/-- Whether an access to an allocation's frames is still under way. -/
def Dev.allocQuiet (d : Dev) (a : Alloc) : Bool :=
  let m (x : NMsg) : Bool := a.has (maKey x.addr)
  !d.coh.txns.any (fun p => a.has p.1) && !d.coh.noc.any m && !d.coh.held.any m && !d.coh.redQ.any m &&
  !d.writes.any (fun w => match d.target true w.addr with | .umr off => a.has (off / 64) | _ => false)

/-- The commands that name an allocation and change it in one way. -/
def onAlloc (d : Dev) (i : Nat) (f : Alloc → Except Status Alloc) : AdmRes :=
  match tget d.tiers.allocs i with
  | none => ans .noObject d
  | some a =>
    if a.freeing then ans .noObject d
    else match f a with
      | .error st => ans st d
      | .ok a => ans .ok (d.modTiers (fun t => { t with allocs := tput t.allocs i a }))

def frameAttach (d : Dev) (c : AdmCmd) : AdmRes :=
  let n := admOp c 1
  if !admOnly c 2 || 65536 ≤ admOp c 0 || 4095 < n then bad d
  else if !d.ctxLive n then ans .noObject d
  else onAlloc d (admOp c 0) (fun a => .ok (if a.ctx = n || a.attach.contains n then a else { a with attach := a.attach ++ [n] }))

def execFrameAttach (c : AdmCmd) (s : State) : Res := onDev s (fun d => d.admin c (fun d => frameAttach d c))

def frameDetach (d : Dev) (c : AdmCmd) : AdmRes :=
  let n := admOp c 1
  if !admOnly c 2 || 65536 ≤ admOp c 0 || 4095 < n then bad d
  else onAlloc d (admOp c 0) (fun a =>
    if a.attach.contains n then .ok { a with attach := a.attach.filter (· != n) } else .error .noObject)

def execFrameDetach (c : AdmCmd) (s : State) : Res := onDev s (fun d => d.admin c (fun d => frameDetach d c))

def framePolicy (d : Dev) (c : AdmCmd) : AdmRes :=
  if !admOnly c 2 || 65536 ≤ admOp c 0 || 3 < admOp c 1 then bad d
  else onAlloc d (admOp c 0) (fun a => .ok { a with newPolicy := some (policyOf (admOp c 1)) })

def execFramePolicy (c : AdmCmd) (s : State) : Res := onDev s (fun d => d.admin c (fun d => framePolicy d c))

def frameMove (d : Dev) (c : AdmCmd) : Status × Dev :=
  let i := admOp c 0
  let t := admOp c 1
  if !admOnly c 3 || 65536 ≤ i || t = 0 || 3 < t || !admAddr c 2 then (.malformed, d)
  else match tget d.tiers.allocs i with
    | none => (.noObject, d)
    | some a =>
      if a.freeing then (.noObject, d)
      else
        let slot := d.host.admHead - 1
        (.ok, d.modTiers (fun x => { x with moveJobs := x.moveJobs ++ [(slot, i, backOf t, lgetD c.ops 2 0)] }))

def execFrameMove (c : AdmCmd) (s : State) : Res :=
  onDev s (fun d => d.adminBg c (fun d => frameMove d c) (.frameMove (admOp c 0) (backOf (admOp c 1)) (lgetD c.ops 2 0)))

/-- Frames of an allocation that a FRAME_MOVE leaves where they are. -/
def Dev.unmoved (d : Dev) (alloc : Nat) (dst : Back) : List Nat :=
  (d.tiers.frames.filter (fun p => p.2.alloc == alloc && p.2.back != dst)).map (·.1)

/-- Whether every frame of a FRAME_MOVE has flipped, been abandoned, or may not move. -/
def Dev.moveDone (d : Dev) (alloc : Nat) (dst : Back) : Bool :=
  (d.unmoved alloc dst).all (fun n =>
    !policyAllows (d.frame n).policy dst || !thas d.tiers.moves n && (!d.mayMove n dst || (match tget d.tiers.noMove n with | some e => decide (d.tiers.epochNo < e) | none => false)))

/-- One frame map entry (Table 11.2). -/
def Dev.frameRec (d : Dev) (n : Nat) : List Byte :=
  let f := d.frame n
  wordsBytes
    [tierIdx f.back + at_ 2 (b2n (thas d.tiers.moves n)) + at_ 3 (policyIdx f.policy) + at_ 5 (b2n f.il) + at_ 6 (halfIdx f.home) +
       at_ 8 f.ctx + at_ 20 f.alloc + at_ 36 (tierIdx f.shTier) + at_ 40 f.heat + at_ 48 (b2n f.psn),
     f.wdirty.toNat, f.loc + at_ 32 f.shLoc, 0]

def frameQuery (d : Dev) (c : AdmCmd) : AdmRes :=
  let first := admOp c 0
  let count := admOp c 1
  if !admOnly c 3 || 2 ^ 25 < first + count || !admAddr c 2 then bad d
  else ans .ok (d.fwWrite (lgetD c.ops 2 0) ((List.range count).flatMap (fun i => d.frameRec (first + i))))

def execFrameQuery (c : AdmCmd) (s : State) : Res := onDev s (fun d => d.admin c (fun d => frameQuery d c))

def quotaSet (d : Dev) (c : AdmCmd) : AdmRes :=
  let n := admOp c 0
  let t := admOp c 1
  if !admOnly c 3 || 4095 < n || t = 0 || 3 < t || 2 ^ 25 < admOp c 2 then bad d
  else if !d.ctxLive n then ans .noObject d
  else ans .ok (d.modCtx n (fun x => { x with quota := lset x.quota (t - 1) (admOp c 2) }))

def execQuotaSet (c : AdmCmd) (s : State) : Res := onDev s (fun d => d.admin c (fun d => quotaSet d c))

def within (lo hi n : Nat) : Bool := decide (lo ≤ n) && decide (n ≤ hi)

def tierParams (d : Dev) (c : AdmCmd) : AdmRes :=
  let o (i : Nat) : Nat := admOp c i
  if !admOnly c 6 || !within 1 1000 (o 0) || !within 1 255 (o 1) || o 1 ≤ o 2 || !within 1 25 (o 3) || 128 < o 4 || !within 1 16 (o 5) then bad d
  else ans .ok (d.modTiers (fun t => { t with params :=
    { epoch := o 0, promote := o 1, demote := o 2, watermark := o 3, migbw := o 4, staging := o 5 } }))

def execTierParams (c : AdmCmd) (s : State) : Res := onDev s (fun d => d.admin c (fun d => tierParams d c))

/-! ### The Cave, Brine, margining and coherence statistics -/

def caveParams (d : Dev) (c : AdmCmd) : Status × Dev :=
  if !admOnly c 1 || !within 7 40 (admOp c 0) then (.malformed, d) else (.ok, d)

def execCaveParams (c : AdmCmd) (s : State) : Res :=
  onDev s (fun d => d.adminBg c (fun d => caveParams d c) (.caveParams (admOp c 0)))

/-- Frames that the Cave backs, shadows included. -/
def Dev.caveFrames (d : Dev) : Nat :=
  (d.tiers.frames.filter (fun p => p.2.back == .cave)).length + (d.tiers.frames.filter (fun p => p.2.shTier == .cave)).length

/-- The Cave health record (Table 11.8). -/
def Dev.caveRec (d : Dev) : List Byte :=
  let c := d.cave
  wordsBytes
    [caveCode c.st + at_ 8 c.op + at_ 16 (c.wearAvg) + at_ 24 (c.wearMax) + at_ 32 c.deadDies.length,
     c.rawBytes / 1000000000 + at_ 32 d.caveCap, d.caveFrames + at_ 32 c.spare, c.grownBad, c.rebuilt, c.lost, c.rdReloc, d.hubCount.toNat]

def caveHealth (d : Dev) (c : AdmCmd) : AdmRes :=
  if !admOnly c 1 || !admAddr c 0 then bad d else ans .ok (d.fwWrite (lgetD c.ops 0 0) d.caveRec)

def execCaveHealth (c : AdmCmd) (s : State) : Res := onDev s (fun d => d.admin c (fun d => caveHealth d c))

def brinePeriod (d : Dev) (c : AdmCmd) : AdmRes :=
  if !admOnly c 1 || !within 1 168 (admOp c 0) then bad d
  else ans .ok (d.modHbm (fun h => { h with brineHours := admOp c 0 }))

def execBrinePeriod (c : AdmCmd) (s : State) : Res := onDev s (fun d => d.admin c (fun d => brinePeriod d c))

/-- Whether the open session grants a bit of Table 18.7. -/
def Dev.grants (d : Dev) (n : Nat) : Bool := match d.sec.session with | some s => bit s.priv.toNat n | none => false

/-- Start a margin sweep (R390, R391); one sweep runs at a time. Its points are measured once the package is in Working (Table 18.9). -/
def startMargin (d : Dev) (slot : Option (BitVec 16)) (h : Half) (stack : Fin 6) (volt : Bool) (buf : Word) : Status × Dev :=
  if !d.grants 5 then (.forbidden, d)
  else if !bit (Two.get d.hbm.half h).usable.toNat stack.val then (.noObject, d)
  else if d.hbm.margin.isSome then (.busy, d)
  else (.ok, d.modHbm (fun x =>
    { x with margin := some { slot := slot, half := h, stack := stack, volt := volt, buf := buf, point := marginLo volt, held := d.power.pstate == .working } }))

def hbmMargin (d : Dev) (c : AdmCmd) : Status × Dev :=
  if !admOnly c 4 || 1 < admOp c 0 || 5 < admOp c 1 || 1 < admOp c 2 || !admAddr c 3 then (.malformed, d)
  else startMargin d (some (d.host.admHead - 1)) (halfOfNat (admOp c 0)) (Fin.ofNat 6 (admOp c 1)) (admOp c 2 = 1) (lgetD c.ops 3 0)

def execHbmMargin (c : AdmCmd) (s : State) : Res := onDev s (fun d => d.adminBg c (fun d => hbmMargin d c) .margin)

def cohStats (d : Dev) (c : AdmCmd) : AdmRes :=
  if !admOnly c 1 || !admAddr c 0 then bad d else ans .ok (d.fwWrite (lgetD c.ops 0 0) (Config.cohStats d.coh.backInv.w d.coh.backInv.e))

def execCohStats (c : AdmCmd) (s : State) : Res := onDev s (fun d => d.admin c (fun d => cohStats d c))

/-! ### Background commands go on (R336, R341) -/

/-- Copies of freed lines that were on their way when the frames were freed go before the command completes. -/
def Dev.freeAgain (d : Dev) (i : Nat) : Dev :=
  match tget d.tiers.allocs i with
  | some a => if d.allocQuiet a then d.dropCopies a else d
  | none => d

/-- A frame of a region being enabled that has gone back to the Cave is filled again; without a tier for it the region stays off. -/
def Dev.fillAgain (d : Dev) (slot r : Nat) : Dev :=
  match tget d.host.regions r with
  | some x =>
    let f := d.fillAll x.frames
    if f.1 then f.2 else (setRegion d r .off).bgDone slot .noTier 0
  | none => d

/-! ### Background commands end (R456) -/

/-- What is left to do of a background command: none while its condition does not hold, and otherwise its result and the
package after it. -/
def Dev.bgEnd (d : Dev) (slot : Nat) (b : Background) : Option (Nat × Dev) :=
  match b with
  | .ctxDestroy n =>
    (match d.ctx? n with
     | some x =>
       if !x.recs.isEmpty then none
       else
         let f (x : Xlate) : Xlate :=
           { x with tlb := x.tlb.filter (fun t => t.ctx != n), wcache := x.wcache.filter (fun w => w.ctx != n) }
         some (0, { d with xlate := ⟨f d.xlate.w, f d.xlate.e⟩ }.modHost (fun h => { h with ctxs := tdel h.ctxs n }))
     | none => some (0, d))
  | .ringDestroy r =>
    if d.sched.steps.any (fun p => p.2.ring == r) then none
    else some (0, d.modHost (fun h => { h with rings := tdel h.rings r }))
  | .regionEnable r =>
    (match tget d.host.regions r with
     | some x =>
       if x.st ≠ .enabling then some (0, d)
       else if x.frames.any (fun f => d.backing (f * frameSize) == .cave) then none
       else some (0, setRegion d r .on)
     | none => some (0, d))
  | .regionDisable r =>
    (match tget d.host.regions r with
     | some x =>
       if x.st ≠ .disabling then some (0, d)
       else if d.writes.any (fun w => w.src == .region (Fin.ofNat 4096 r)) || d.rennet.landings.any (fun l => l.1.val == r) then none
       else some (0, setRegion d r .off)
     | none => some (0, d))
  | .dump => none
  | .margin => none
  | .frameFree i =>
    (match tget d.tiers.allocs i with
     | some a => if d.allocQuiet a && !d.copiesLeft a then some (0, d.modTiers (fun t => { t with allocs := tdel t.allocs i })) else none
     | none => some (0, d))
  | .frameMove i dst buf =>
    if d.moveDone i dst then
      let left := d.unmoved i dst
      let d := d.modTiers (fun t => { t with moveJobs := t.moveJobs.filter (fun j => j.1.toNat != slot) })
      some (left.length, d.fwWrite buf (Config.moveReport left))
    else none
  | .caveParams op => some (0, d.modCave (fun c => { c with op := op }))
  | .chainJoin => some (0, d)
  | .chainLeave =>
    if !d.chain.joined then some (0, d)
    else if d.leaveDone then some (0, d.leaveEnd)
    else none
  | .portDisable p =>
    let q := d.port p
    if q.st ≠ .draining then some (0, d)
    else if q.replayBuf.isEmpty then some (0, d.modPort p (fun q => q.fresh .disabled))
    else none
  | .portEnable _ => some (0, d)
  | .portRetrain p => if (d.port p).retrain then none else some (0, d)
  | .invalidate n => if d.usesLeft n then none else some (0, d.modHost (fun h => { h with admBusy := false }))
  | .powerCold => none
  | .secReturn _ => none

end Sys2Proof.Machine
end

