-- ==== Sys2Proof/Machine/Start.lean ====
section
/-!
DEFINITION. What every start and every loss of state shares (chapters 16, 18 and 19): measurement, the end of a debug
session, what the package keeps when it is reset or Cold, steps 2 and 4 of Table 19.1, and ADMIN_COMMAND_COMPLETE.
-/
namespace Sys2Proof.Machine

/-! ### The Rind -/

/-- The lifecycle state (R534). -/
def Sec.life (s : Sec) : Lifecycle := if s.returned then .returned else if s.owned then .owned else .blank

/-- LIFECYCLE of Table 18.6. -/
def lifeCode : Lifecycle → Nat
  | .blank => 0
  | .owned => 1
  | .returned => 2

/-- DEBUG of Table 18.6. -/
def Sec.debugCode (s : Sec) : Nat :=
  match s.session with
  | none => 0
  | some x => if x.vendor then 2 else 1

/-- Append a log entry and extend its register; a full log records nothing further (R546, R547). -/
def Dev.measure (d : Dev) (mr : Fin 4) (event : Nat) (dg : BitVec 512) : Dev :=
  if 4096 ≤ d.sec.log.length then d
  else d.modSec (fun s =>
    { s with
      log := s.log ++ [{ mr := mr, event := BitVec.ofNat 8 event, t := d.hubCount, d := dg }]
      mrs := lset s.mrs mr.val (extendMr (lgetD s.mrs mr.val 0) dg) })

/-! ### The end of a debug session (R555, R556) -/

/-- A margin sweep ends when no session grants it any more (R390): its command completes with FORBIDDEN and nothing more is measured. -/
def Dev.stopMargin (d : Dev) : Dev :=
  match d.hbm.margin with
  | none => d
  | some m =>
    let d := d.modHbm (fun h => { h with margin := none })
    (match m.slot with
     | some n => d.bgDone n.toNat .forbidden 0
     | none => d).retryHeld

/-- Remove the triggers and resume the harts and engines that a mask does not grant (R556). -/
def Dev.dropDebug (d : Dev) (mask : Word) : Dev :=
  let has (n : Nat) : Bool := bit mask.toNat n
  let d := if has 5 then d else d.stopMargin
  let d := if has 0 then d
    else foldDev d allCores (fun d h => if (d.core h).halted then d.modCore h (fun c => { c with halted := false }) else d)
  let run (x : Engine) : Engine := { x with halted := false }
  let d := if has 1 then d
    else
      let d := foldDev d allEngines (fun d e => if (d.eng e).halted then d.modEng e run else d)
      d.modSched (fun s =>
        { s with steps := s.steps.map (fun (p : Nat × Step) =>
            (p.1, { p.2 with saveEng := p.2.saveEng.map (fun (q : Nat × Engine) => (q.1, run q.2)) })) })
  let keep (hub : Bool) (t : Nat × Nat) : Bool := if hub then has 8 else if t.1 < 64 then has 0 else has 1
  d.modSec (fun s =>
    { s with
      hubHalted := if has 8 then s.hubHalted else []
      mods := s.mods.mapIdx (fun i (m : DbgMod) => { m with triggers := m.triggers.filter (keep (i == 2)) }) })

/-- Close the open session with a reason of Table 18.11: an event, a log entry and R556. -/
def Dev.closeSession (d : Dev) (reason : Nat) : Dev :=
  match d.sec.session with
  | none => d
  | some _ =>
    let d := (d.raise (secEvt 1 reason 0)).measure 3 5 (Config.shake512 (numBytes 8 reason))
    (d.modSec (fun s => { s with session := none })).dropDebug 0

/-! ### What is kept (R366, R402, R500, R517, R564, Table 18.1) -/

/-- What the Rind's repair store holds of a unit. -/
def keptUnit (r : UnitRec) : UnitRec := { inc := r.inc, st := r.st, awaiting := r.awaiting, phys := r.phys }

def allGated : Tbl DomSt := (List.range 56).map (fun n => (n, DomSt.gated))

/-- The package with only the Hearth, the fuses and what the Rind and the flash keep. -/
def Dev.wipe (d : Dev) : Dev :=
  let f := d.faults
  let p := d.power
  { free := d.free, hubCount := d.hubCount, out := d.out
    anvil := { spares := d.anvil.spares, retiredQ := d.anvil.retiredQ, failedCols := d.anvil.failedCols }
    cave := { d.cave with st := .absent, op := 12, staged := [], badUnits := [], moving := [], key := none }
    faults :=
      { units := f.units.map (fun (u : UnitId × UnitRec) => (u.1, keptUnit u.2)), clusterSpare := f.clusterSpare,
        coreSpares := f.coreSpares, laneSpare := f.laneSpare, vatRows := f.vatRows, repairs := f.repairs,
        ddrPend := f.ddrPend, ddrBad := f.ddrBad }
    sec := d.sec, boot := d.boot
    power :=
      { vinOk := p.vinOk, vin := p.vin, iin := p.iin, vinLow := p.vinLow, vinDead := p.vinDead, vinHigh := p.vinHigh,
        vinHist := p.vinHist, intOsc := p.intOsc, tj := p.tj, trip := p.trip, thermtrip := p.thermtrip,
        wakeGpio := p.wakeGpio, wakeRise := p.wakeRise, dom := allGated }
    regs := { gpioIn := d.regs.gpioIn } }

/-- Post held records while the event ring has room. -/
def postAll : Nat → Dev → Dev
  | 0, d => d
  | n + 1, d => postAll n (eventPost d)

def Dev.flushEvents (d : Dev) : Dev := postAll (d.host.evtQ.length + 1) d

/-- The package in Cold (Table 16.4). -/
def Dev.cold (d : Dev) : Dev :=
  let d := d.wipe
  (d.modPower (fun p => { p with pstate := .cold })).modBoot (fun b => { perst := b.perst, smbus := b.smbus })

/-- Enter Cold by command: the session closes with reason 3, held records are posted, and the PCIe link goes down (R500). -/
def Dev.goCold (d : Dev) : Dev := ((d.closeSession 3).flushEvents).cold

/-- A thermal trip (R507, R562). -/
def Dev.thermalTrip (d : Dev) (cause : Nat) : Dev :=
  let d := d.cold
  let d := d.modSec (fun s => { s with session := none, hubHalted := [], mods := [{}, {}, {}] })
  d.modPower (fun p => { p with trip := cause, thermtrip := true })

/-- Loss of VIN52: everything goes but the fuses, the Rind store, the flash and the repairs (R485, R538, R549, R596). -/
def Dev.powerLost (d : Dev) : Dev :=
  let s := d.sec
  let e := d.wipe
  { e with
    hubCount := 0
    power := { vinOk := false, vin := d.power.vin, iin := d.power.iin, dom := allGated }
    boot := { perst := d.boot.perst }
    sec :=
      { owned := s.owned, returned := s.returned, svn := s.svn, ownerHash := s.ownerHash, debugHash := s.debugHash,
        cosignHash := s.cosignHash, cosignNext := s.cosignNext, fabric := s.fabric,
        cave := if s.life = .owned then s.cave else none, nextBlock := s.nextBlock, returning := s.returning } }

/-! ### Start-up (Table 19.1) -/

/-- Step 2, on a package that holds only what a start keeps (R368, R538, R541, R546, R565, R597). -/
def Dev.startUp (d : Dev) (cause : Nat) (bsel : BitVec 3) (strap : BitVec 2) : Dev :=
  let d := d.modSec (fun s =>
    { s with
      nonce := none, session := none, hubHalted := [], mods := [{}, {}, {}]
      cosignHash := s.cosignNext.getD s.cosignHash, cosignNext := none, mrs := [0, 0, 0, 0], log := [] })
  let d := if d.sec.life = .owned && d.sec.cave.isSome then d
    else
      let (x, d) := d.entropy
      d.modSec (fun s => { s with cave := some x })
  let d := d.measure 0 0 (fuseDigest (lifeCode d.sec.life) d.sec.svn)
  let d := d.modPower (fun p => { p with pstate := .working })
  d.modBoot (fun b => { bsel := bsel, cause := cause, perst := b.perst, smbus := 0x60 + strap.toNat })

/-- The Rind derives the XTS key from the Cave secret and loads it into the cipher engine (R367). -/
def Dev.loadCaveKey (d : Dev) : Dev := d.modCave (fun c => { c with key := d.sec.cave.map Config.kmacCave })

/-- What BOOT_SEL selects after step 4 (Table 19.2). -/
def afterStep4 (bsel : BitVec 3) : BootSt :=
  match bsel.toNat with
  | 0 => .load
  | 1 => .load
  | 2 => .recovery
  | 3 => .load
  | 4 => .hold
  | _ => .badStrap

/-- The end of step 3 and step 4: both half islands power up with their counts at zero (R489), the first domains come on, and
FSPI_RESET_N returns the firmware flash to 1-1-1 mode (R595). -/
def Dev.step4 (d : Dev) : Dev :=
  let b := d.boot
  if b.waitPerst && !b.perst && !d.power.thermtrip && d.power.vinOk && d.power.pstate != .cold then
    let d := (foldDev { d with count := ⟨0, 0⟩ } [0, 2, 40, 41, 43, 55] (fun d n => d.setDom n .on)).emit .fspiReset
    d.modBoot (fun b => { b with waitPerst := false, st := afterStep4 b.bsel })
  else d

/-! ### Background commands that end in Cold -/

/-- Steps 2 and 3 of R537: the RETURNED fuse is set and the owner's secrets are erased, the Cave's key with them (R368). -/
def Dev.setReturned (d : Dev) : Dev :=
  (d.modCave (fun c => { c with key := none })).modSec (fun s =>
    { s with returned := true, ownerHash := 0, debugHash := 0, cosignHash := 0, cosignNext := none, fabric := 0, cave := none, returning := true })

/-- Step 4 of R537: every line of memory is zero. -/
def Dev.zeroMemory (d : Dev) : Dev :=
  { d with mem := [], poison := [] }.modSec (fun s => { s with returning := false })

/-- ADMIN_COMMAND_COMPLETE (R456), with the departure that POWER_COLD and RETURN wait for (R500, R537). -/
def adminComplete (d : Dev) (slot : BitVec 16) : Dev :=
  let n := slot.toNat
  let leave (k : Dev → Dev) : Dev :=
    if d.chain.joined then (if d.leaveDone then k d.leaveEnd else d.leavePush) else k d
  match tget d.host.bg n with
  | none => d
  | some (_, .powerCold) => leave (fun d => (d.bgDone n .ok 0).goCold)
  | some (_, .secReturn body) =>
    if d.sec.returning then
      let d := (d.zeroMemory.measure 2 3 (Config.shake512 body)).raise (secEvt 4 2 0)
      (d.bgDone n .ok 0).goCold
    else leave Dev.setReturned
  | some (_, b) =>
    match d.bgEnd n b with
    | some (r, d) => d.bgDone n .ok r
    | none => match b with
      | .chainLeave => d.leavePush
      | .frameFree i => d.freeAgain i
      | .regionEnable r => d.fillAgain n r
      | _ => d

def execAdminCommandComplete (slot : BitVec 16) (s : State) : Res := onDev s (fun d => adminComplete d slot)

end Sys2Proof.Machine
end

