-- ==== Sys2Proof/Machine/PowerM.lean ====
section
/-!
DEFINITION. Supply, clocks, domains, package states, budgets and temperature (chapter 16, R388), and the power commands.
-/
namespace Sys2Proof.Machine

/-! ### Supply (R485 to R487, R501) -/

/-- The mean of a list. -/
def mean (l : List Nat) : Nat := l.sum / l.length

/-- VIN52 averaged over the last 1 ms of samples, in units of 10 mV. -/
def Power.vinMean (p : Power) : Nat := if p.vinHist.isEmpty then p.vin else mean (p.vinHist.map (·.1))

/-- Input power in W averaged over the last 1 ms. -/
def Power.pin (p : Power) : Nat :=
  if p.vinHist.isEmpty then p.vin * p.iin / 10000 else mean (p.vinHist.map (fun s => s.1 * s.2)) / 10000

/-- The package limit in W: POWER_LIMIT, 1,850 W, and 40 A times the mean of VIN52 (R501). -/
def Power.limit (p : Power) : Nat := min (min p.limitSet 1850) (40 * p.vinMean / 100)

/-- A PLDM sensor that newly reaches a threshold leaves one PlatformEventMessage to be read (R598, R601; log 46). -/
def Dev.notePlatform (d : Dev) (old new : Int) (ths : List Int) : Dev :=
  let n := (ths.filter (fun t => decide (old < t) && decide (t ≤ new))).length
  d.modBoot (fun b => { b with platform := b.platform + n })

/-- One 10 µs sample (Table 16.1); 100 µs is ten samples in a row. -/
def vinSample (d : Dev) (v i : Nat) : Dev :=
  let p := d.power
  if !p.vinOk then d
  else
    let run (c : Bool) (n : Nat) : Nat := if c then n + 1 else 0
    let d := d.notePlatform p.vin v [5800, 6200]
    let d := d.modPower (fun p =>
      { p with
        vin := v, iin := i, vinHist := ((v, i) :: p.vinHist).take 100
        vinLow := run (decide (v < 4300)) p.vinLow, vinDead := run (decide (v < 4000)) p.vinDead
        vinHigh := run (decide (5800 < v)) p.vinHigh })
    if 6200 < v || d.power.vinDead = 10 then d.powerLost
    else if d.power.vinLow = 10 then d.raise (powEvt 2 0 v 0 .hub)
    else if d.power.vinHigh = 10 then d.raise (powEvt 2 0 v 1 .hub)
    else d

def execVinSample (vin10mV iin10mA : Nat) (s : State) : Res := onDev s (fun d => vinSample d vin10mV iin10mA)

/-- Above 46 A every clock goes to its floor until the next grant (R486). -/
def execOvercurrent (iin10mA : Nat) (s : State) : Res :=
  onDev s (fun d =>
    if iin10mA ≤ 4600 || !d.power.vinOk then d
    else (d.modPower (fun p => { p with floorHold := ⟨true, true⟩ })).raise (powEvt 3 0 iin10mA 0 .hub))

/-- XTAL_FAIL and XTAL_RECOVER (R487). -/
def oscSwitch (d : Dev) (internal : Bool) : Dev :=
  if d.power.intOsc = internal || !d.power.vinOk then d
  else (d.modPower (fun p => { p with intOsc := internal })).raise (powEvt 4 0 (b2n internal) 0 .hub)

def execXtalFail (s : State) : Res := onDev s (fun d => oscSwitch d true)
def execXtalRecover (s : State) : Res := onDev s (fun d => oscSwitch d false)

/-! ### Clocks (R388, R389, R490, R506) -/

/-- The Anvil clock that runs: Temper's setting under every ceiling. -/
def Dev.anvClock (d : Dev) (h : Half) : Nat :=
  let x := Two.get d.hbm.half h
  if x.hold || Two.get d.power.floorHold h then 100
  else min (Two.get d.power.anvMhz h) (min x.anvCeil x.hbmCeil)

def Dev.engClock (d : Dev) (h : Half) (c : Nat) : Nat :=
  let x := Two.get d.hbm.half h
  if x.hold || Two.get d.power.floorHold h then 200 else min (lgetD (Two.get d.power.engMhz h) c 200) x.engCeil

def Dev.coreClock (d : Dev) (h : Half) (g : Nat) : Nat :=
  let x := Two.get d.hbm.half h
  if Two.get d.power.floorHold h then 400
  else min (lgetD (Two.get d.power.coreMhz h) g 400) (min x.coreCeil (lgetD (Two.get d.power.coreMax h) g 3200))

/-- One step of 100 MHz within a range. -/
def clockStep (old new lo hi : Nat) : Bool := decide (lo ≤ new) && decide (new ≤ hi) && (new == old + 100 || old == new + 100)

/-- Temper changes a clock by one step of Table 16.2, in Working. -/
def clockChange (d : Dev) (c : ClockId) (mhz : Nat) : Dev :=
  let p := d.power
  if p.pstate ≠ .working then d
  else
    match c with
    | .anvil h =>
      if clockStep (Two.get p.anvMhz h) mhz 100 800 then d.modPower (fun p => { p with anvMhz := Two.set p.anvMhz h mhz }) else d
    | .cluster h k =>
      if clockStep (lgetD (Two.get p.engMhz h) k.val 200) mhz 200 1600 then
        d.modPower (fun p => { p with engMhz := Two.mod p.engMhz h (fun l => lset l k.val mhz) })
      else d
    | .group h g =>
      if clockStep (lgetD (Two.get p.coreMhz h) g.val 400) mhz 400 (lgetD (Two.get p.coreMax h) g.val 3200) then
        d.modPower (fun p => { p with coreMhz := Two.mod p.coreMhz h (fun l => lset l g.val mhz) })
      else d

def execClockChange (c : ClockId) (mhz : Nat) (s : State) : Res := onDev s (fun d => clockChange d c mhz)

/-! ### Domains (R491 to R496) -/

/-- The quenchable units of a domain (Table 17.2). -/
def domUnits (n : Nat) : List UnitId :=
  match pdHalf n with
  | some (h, k) =>
    if k = 3 then [anvilUnit h]
    else if k = 4 then (List.range 32).map (fun t => tongsUnit h t)
    else if 5 ≤ k && k ≤ 12 then (List.range 8).map (fun i => engUnit (Fin.ofNat 128 (64 * halfIdx h + 8 * (k - 5) + i)))
    else if 13 ≤ k && k ≤ 16 then (List.range 8).map (fun i => coreUnit (Fin.ofNat 64 (32 * halfIdx h + 8 * (k - 13) + i)))
    else []
  | none => []

/-- A domain all of whose units are retired (R492); an Anvil's are its column quadrants. -/
def Dev.domRetired (d : Dev) (n : Nat) : Bool :=
  let us := domUnits n
  let anv := match pdHalf n with | some (h, 3) => (Two.get d.anvil.retiredQ h) == 15#4 | _ => false
  anv || (!us.isEmpty && us.all (fun u => (d.unit u).st == .retired))

/-- The harts of an application-core group. -/
def groupHarts (h : Half) (g : Nat) : List (Fin 64) := (List.range 8).map (fun i => Fin.ofNat 64 (32 * halfIdx h + 8 * g + i))

/-- The gating condition of Table 16.3, apart from how long it has held. -/
def Dev.gateable (d : Dev) (n : Nat) : Bool :=
  match pdHalf n with
  | some (h, k) =>
    if k ≤ 1 then false
    else if k = 2 then (Two.get d.sched.half h).clearing.isEmpty && d.sched.steps.all (fun p => (Two.get p.2.vat h).2 == 0 || d.away p.1 p.2)
    else if k = 3 then (Two.get d.anvil.queue h).isEmpty
    else if k = 4 then d.tongs.all (fun (p : Nat × List Xfer) => p.2.isEmpty || decide (p.1 / 256 ≠ halfIdx h))
    else if k ≤ 12 then allEngines.all (fun e => !(engHalf e == h && engIdx e / 8 == k - 5) || (d.eng e).step.isNone)
    else if k ≤ 16 then (groupHarts h (k - 13)).all (fun c => (d.core c).run == .reset && !(d.core c).starting)
    else fld (Two.get d.hbm.half h).usable.toNat (2 * (k - 17)) 2 == 0
  | none =>
    if n = 42 then true
    else if n = 44 then d.upPorts.isEmpty
    else if 45 ≤ n && n ≤ 48 then (List.range 4).all (fun i => !(d.port (4 * (n - 45) + i)).enabled || (d.port (4 * (n - 45) + i)).st == .disabled)
    else if 49 ≤ n && n ≤ 52 then fld d.boot.ddr.toNat (2 * (n - 49)) 2 == 0
    else if n = 53 then d.cave.st == .absent
    else if n = 54 then d.cave.st == .absent || (d.tiers.moves.all (fun (m : Nat × Move) => !m.2.fill && m.2.dst != .cave) && d.cave.staged.isEmpty)
    else n == 55 && d.boot.st != .recovery && d.boot.st != .program && !d.boot.update

/-- Whether an agent's writes are those of a unit. -/
def unitSends (u : UnitId) (a : Agent) : Bool :=
  match a with
  | .tongs e c => u == tongsUnit (engHalf e) (4 * (engIdx e / 8) + c.val)
  | .engine e => u == engUnit e
  | .core c => u == coreUnit c
  | _ => false

/-- Whether a unit has drained (R495): its writes are acknowledged, and a core's caches hold nothing (R299). -/
def Dev.unitDrained (d : Dev) (u : UnitId) : Bool :=
  !d.writes.any (fun w => unitSends u w.src) && (u.code != 4 || (d.core (Fin.ofNat 64 u.unit.toNat)).lines.isEmpty)

/-- Whether every unit of a domain has drained. -/
def Dev.drained (d : Dev) (n : Nat) : Bool := (domUnits n).all d.unitDrained

/-- A core writes back its dirty lines and reports the clean ones (R299). -/
def Dev.evictAll (d : Dev) (c : Fin 64) : Dev := foldDev d ((d.core c).lines.map (·.1)) (fun d k => d.evictLine c k)

/-- A domain whose gating condition holds begins to drain (R491, R495). -/
def domainGate (d : Dev) (n : Nat) : Dev :=
  let p := d.power.pstate
  if (p = .working || p = .glowing) && (d.domSt n == .on || d.domSt n == .parked) && d.gateable n then
    let d := d.setDom n .draining
    match pdHalf n with
    | some (h, k) => if 13 ≤ k && k ≤ 16 then foldDev d (groupHarts h (k - 13)) Dev.evictAll else d
    | none => d
  else d

def execDomainGate (dom : Fin 56) (s : State) : Res := onDev s (fun d => domainGate d dom.val)

/-- A drain that has not finished: the domain's units are quenched and it stays powered (R495, R299). -/
def drainTimeout (d : Dev) (n : Nat) : Dev :=
  if d.domSt n != .draining then d
  else
    let us := domUnits n
    let die := match pdHalf n with | some (h, _) => dieOf h | none => .hub
    let d := (d.setDom n .quenched).modPower (fun p => { p with wakePend := p.wakePend.filter (· != n) })
    let d := d.raise (powEvt 1 n (us.filter (fun u => !d.unitDrained u)).length 0 die)
    foldDev d us (fun d u => if d.unitUp u then d.quench u 2 true else d)

def execDrainTimeout (dom : Fin 56) (s : State) : Res := onDev s (fun d => drainTimeout d dom.val)

/-- DOMAIN_WAKE (R492, R493, R496): a domain all of whose units are retired stays gated, and a Banked or Cold package wakes
none of its own. -/
def domainWake (d : Dev) (n : Nat) : Dev :=
  let p := d.power.pstate
  if d.domRetired n || !(p = .working || p = .glowing) || d.boot.waitPerst then d else d.wakeDom n

def execDomainWake (dom : Fin 56) (_cause : WakeCause) (s : State) : Res := onDev s (fun d => domainWake d dom.val)

/-- Start a hart that waits for its domain, as R576 sets out. -/
def Dev.startHart (d : Dev) (h : Fin 64) : Dev :=
  let half := halfOf (decide (32 ≤ h.val))
  let v : Word := BitVec.ofNat 64 (Two.get d.regs.rvec half).toNat <<< 12
  d.modCore h (fun c =>
    { run := .running, priv := .m, pc := v, mtvec := v, x := [(10, BitVec.ofNat 64 h.val), (11, 0)]
      mtimecmp := c.mtimecmp, imsic := c.imsic })

/-- A domain is awake: a Vat is zero (R492), released harts start (R576) and the steps that needed it may be granted (R494). -/
def domainWakeDone (d : Dev) (n : Nat) : Dev :=
  if d.domSt n != .waking then d
  else
    let d := d.setDom n .on
    let d := match pdHalf n with
      | some (h, k) =>
        if k = 2 then
          { d with mem := cellsClear d.mem (vatOff (0x10000000 * halfIdx h)) vatSize }.modSched (fun s =>
            { s with half := Two.mod s.half h (fun x => { x with clearing := [] }) })
        else if 13 ≤ k && k ≤ 16 then
          foldDev d (groupHarts h (k - 13)) (fun d c => if (d.core c).starting then d.startHart c else d)
        else d
      | none => d
    foldDev d (d.sched.steps.map (·.1)) Dev.grantReady

def execDomainWakeDone (dom : Fin 56) (s : State) : Res := onDev s (fun d => domainWakeDone d dom.val)

/-- A Vat without power has nothing left to clear: it is zero when it wakes (R492). -/
def Dev.vatDark (d : Dev) (h : Half) : Dev := d.modSched (fun s => { s with half := Two.mod s.half h (fun x => { x with clearing := [] }) })

/-- Gating is complete once the domain has drained: what it held is gone (R492), and a wake that came meanwhile is served
(R496). -/
def domainPowerDownDone (d : Dev) (n : Nat) : Dev :=
  if d.domSt n != .draining || !d.drained n then d
  else
    let d := d.setDom n .gated
    let d := match pdHalf n with
      | some (h, k) =>
        if 5 ≤ k && k ≤ 12 then
          foldDev d allEngines (fun d e => if engHalf e == h && engIdx e / 8 == k - 5 && thas d.engines e.val then d.setEng e {} else d)
        else if 13 ≤ k && k ≤ 16 then foldDev d (groupHarts h (k - 13)) (fun d c => if thas d.cores c.val then d.resetCore c else d)
        else if k = 2 then d.vatDark h
        else d
      | none => d
    if d.power.wakePend.contains n then
      (d.modPower (fun p => { p with wakePend := p.wakePend.filter (· != n) })).wakeDom n
    else d

def execDomainPowerDownDone (dom : Fin 56) (s : State) : Res := onDev s (fun d => domainPowerDownDone d dom.val)

/-! ### Package states (R497 to R500, R557) -/

def pCode : PState → Nat
  | .working => 0
  | .glowing => 1
  | .banked => 2
  | .cold => 3

/-- Move between Working, Glowing and Banked, with a POWER event (Table 16.11). -/
def Dev.setPState (d : Dev) (p : PState) : Dev :=
  let old := pCode d.power.pstate
  (d.modPower (fun x => { x with pstate := p })).raise (powEvt 0 0 (pCode p + at_ 2 old) 0 .hub)

/-- Whether a debugger holds a hart or an engine (R557). -/
def Dev.anyHalted (d : Dev) : Bool :=
  d.cores.any (fun (p : Nat × Core) => p.2.halted) || d.engines.any (fun (p : Nat × Engine) => p.2.halted) || !d.sec.hubHalted.isEmpty

/-- The idle conditions of Table 16.5 for Glowing that the package's state shows; that every running hart has reached
WFI is what the command itself reports. -/
def Dev.idle (d : Dev) : Bool :=
  allEngines.all (fun e =>
    let x := d.eng e
    x.step.isNone || (match x.run with | .rwait _ _ _ => true | .kended => true | _ => false)) &&
  d.anvil.ops.isEmpty && d.anvil.issues.isEmpty && d.tongs.all (fun (p : Nat × List Xfer) => p.2.isEmpty) &&
  allCores.all (fun h => !(d.core h).starting) &&
  d.tiers.moves.isEmpty && d.hbm.margin.isNone && d.host.reads.isEmpty && d.writes.isEmpty && d.coh.noc.isEmpty && d.coh.held.isEmpty &&
  d.faults.contain.isNone && !d.anyHalted

/-- Domains that keep a clock in Glowing: the Hub fabric, CC0 to CC7, PCIe and the Chain (Table 16.4). -/
def clocked (n : Nat) : Bool := n == 40 || n == 41 || (43 ≤ n && n ≤ 48)

def Dev.mapDoms (d : Dev) (f : Nat → DomSt → DomSt) : Dev :=
  foldDev d (List.range 56) (fun d n => let x := d.domSt n; if f n x = x then d else d.setDom n (f n x))

/-- Every running hart waits in WFI. -/
def Dev.harts_wfi (d : Dev) : Dev :=
  foldDev d allCores (fun d h => if (d.core h).run = .running then d.modCore h (fun c => { c with run := .wfi }) else d)

/-- Working to Glowing. -/
def glowEntry (d : Dev) : Dev :=
  if d.power.pstate = .working && d.boot.st == .ready && decide (1 ≤ d.power.policy) && d.idle then
    ((d.harts_wfi.mapDoms (fun n x => if x = .on && !clocked n then .parked else x)).modCoh (fun c => { c with redBuf := [] })).setPState .glowing
  else d

def execGlowEntry (s : State) : Res := onDev s glowEntry

/-- Every parked clock runs again. -/
def Dev.unpark_ (d : Dev) : Dev := d.mapDoms (fun _ x => if x = .parked then .on else x)

/-- Glowing to Working; an entry to Banked in progress ends first (R498). -/
def glowExit (d : Dev) : Dev :=
  if d.power.pstate = .glowing && !d.power.entering then d.unpark_.setPState .working else d

def execGlowExit (_cause : WakeCause) (s : State) : Res := onDev s glowExit

/-- Whether a cause is a wake source of Table 16.6. -/
def Dev.wakes (d : Dev) (c : WakeCause) : Bool :=
  match c with
  | .gpio n rising => bit d.power.wakeGpio.toNat n.val && (bit d.power.wakeRise.toNat n.val == rising)
  | .mctp => true
  | .chainPacket => true
  | .pciRequest => true
  | .alarm => true
  | _ => false

/-- Glowing to Banked begins: every up link retrains to 4 lanes and remembers its width (R499). -/
def bankEntry (d : Dev) : Dev :=
  let groups := [13, 14, 15, 16, 33, 34, 35, 36]
  if d.power.pstate = .glowing && !d.power.entering && d.power.policy == 2 && d.idle && d.sched.steps.isEmpty &&
      groups.all (fun n => d.domSt n == .gated || d.domRetired n) && d.cave.staged.isEmpty then
    let d := d.modPower (fun p => { p with entering := true, exitPend := none })
    foldDev d (d.upPorts.map (·.1)) (fun d p => d.modPort p (fun q => { q with bankLanes := q.lanes, lanes := 4, retrain := true }))
  else d

def execBankEntry (s : State) : Res := onDev s bankEntry

/-- The Banked column of Table 16.3. -/
def Dev.bankedDom (d : Dev) (n : Nat) : DomSt :=
  match pdHalf n with
  | some (_, k) => if k ≤ 1 then .retention else .gated
  | none =>
    if n = 40 || n = 41 || n = 43 then .on
    else if n = 44 then (if d.upPorts.isEmpty then .gated else .on)
    else if 45 ≤ n && n ≤ 48 then (if d.upPorts.any (fun p => p.1 / 4 == n - 45) then .on else .gated)
    else .gated

/-- Banked to Working: the fabric, the home slices, HBM and DDR are usable, every other domain whose gating condition does not hold
wakes (R491), and the links regain their width. -/
def Dev.leaveBanked (d : Dev) : Dev :=
  let d := d.mapDoms (fun n x =>
    if d.gateable n || d.domRetired n then x else if pdNever n then .on else if x = .gated then .waking else x)
  let d := foldDev d (d.upPorts.map (·.1)) (fun d p =>
    d.modPort p (fun q => { q with lanes := if q.bankLanes = 0 then q.lanes else q.bankLanes, bankLanes := 0, retrain := true }))
  d.loadCaveKey.setPState .working

/-- BANKED_ENTRY_DONE: the Cave's XTS key is cleared (Table 18.9); a wake that was held starts the exit at once (R498). -/
def bankedDone (d : Dev) : Dev :=
  if !d.power.entering then d
  else
    let e := d
    let d := ((d.mapDoms (fun n x => if x = .retired then x else e.bankedDom n)).modCave (fun c => { c with key := none })).modCoh
      (fun c => { c with redBuf := [] })
    let d := (d.vatDark .west).vatDark .east
    let held := d.power.exitPend
    let d := (d.modPower (fun p => { p with entering := false, exitPend := none })).setPState .banked
    if held.isSome then d.leaveBanked else d

def execBankedEntryDone (s : State) : Res := onDev s bankedDone

def bankExit (d : Dev) (c : WakeCause) : Dev :=
  if !d.wakes c then d
  else if d.power.entering then d.modPower (fun p => { p with exitPend := some c })
  else if d.power.pstate = .banked then d.leaveBanked
  else d

def execBankExit (cause : WakeCause) (s : State) : Res := onDev s (fun d => bankExit d cause)

/-- Cold to Working begins (Tables 16.5 and 19.1): step 2, then step 4 once PERST_N and THERMTRIP_N allow. -/
def coldExit (d : Dev) (c : ColdCause) (bsel : BitVec 3) (strap : BitVec 2) : Dev :=
  let may := match c with
    | .perst => d.boot.perst
    | .gpio n rising => d.wakes (.gpio n rising)
    | .mctp => true
  if d.power.pstate ≠ .cold || !d.power.vinOk || !may then d
  else
    let d := if c = .perst then d.modBoot (fun b => { b with perst := false }) else d
    (d.startUp 1 bsel strap).step4

def execColdExit (cause : ColdCause) (bootSel : BitVec 3) (addrStrap : BitVec 2) (s : State) : Res :=
  onDev s (fun d => coldExit d cause bootSel addrStrap)

/-! ### Budgets (R501 to R504) -/

/-- A half has a domain awake. -/
def Dev.halfAwake (d : Dev) (h : Half) : Bool := (List.range 20).any (fun k => d.domSt (pdOfHalf h k) == .on)

/-- R502 for one half: 120 W, its part of the remainder, at most its demand plus 10 %, and 10 % less for each step of the
Hub's thermal action; never below the 120 W of an awake half (log 47). -/
def budget (awake : Bool) (rem sum dem cut : Nat) : Nat :=
  let least := if awake then 120 else 0
  let g := least + (if sum = 0 then 0 else rem * dem / sum)
  max least (min g (dem * 110 / 100) * (10 - cut) / 10)

/-- A round of demands: Temper answers each half with a grant of a new sequence number. -/
def powerDemand (d : Dev) (w e hub : Nat) : Dev :=
  if d.power.pstate = .cold || !d.power.vinOk then d
  else
    let aw := d.halfAwake .west
    let ae := d.halfAwake .east
    let res := (hub * 105 + 99) / 100
    let rem := d.power.limit - res - 120 * (b2n aw + b2n ae)
    let gw := budget aw rem (w + e) w d.power.hubCut
    let ge := budget ae rem (w + e) e d.power.hubCut
    d.modPower (fun p =>
      { p with
        demand := ⟨w, e⟩, hubRes := res, nextSeq := p.nextSeq + 1
        sent := p.sent ++ [(.west, p.nextSeq, gw), (.east, p.nextSeq, ge)] })

def execPowerDemand (wWest wEast hubDraw : Nat) (s : State) : Res := onDev s (fun d => powerDemand d wWest wEast hubDraw)

/-- Every clock of a half one step lower, in the order of R503: the Anvil's, then those of the clusters, then those of the core
groups, each down to its floor. -/
def Power.stepDown (p : Power) (h : Half) : Power :=
  if 100 < Two.get p.anvMhz h then { p with anvMhz := Two.mod p.anvMhz h (· - 100) }
  else if (Two.get p.engMhz h).any (fun f => decide (200 < f)) then
    { p with engMhz := Two.mod p.engMhz h (fun l => l.map (fun f => max 200 (f - 100))) }
  else { p with coreMhz := Two.mod p.coreMhz h (fun l => l.map (fun f => max 400 (f - 100))) }

/-- One step up, in the reverse order. -/
def Power.stepUp (p : Power) (h : Half) : Power :=
  let top := Two.get p.coreMax h
  let cores := (Two.get p.coreMhz h).mapIdx (fun i f => min (f + 100) (max f (lgetD top i 3200)))
  if cores != Two.get p.coreMhz h then { p with coreMhz := Two.set p.coreMhz h cores }
  else if (Two.get p.engMhz h).any (fun f => decide (f < 1600)) then
    { p with engMhz := Two.mod p.engMhz h (fun l => l.map (fun f => min 1600 (f + 100))) }
  else { p with anvMhz := Two.mod p.anvMhz h (fun f => min 800 (f + 100)) }

def stepsOf (f : Power → Power) : Nat → Power → Power
  | 0, p => p
  | n + 1, p => stepsOf f n (f p)

/-- A half's Bellows brings its power within a new grant (R503): it steps the half's clocks down for a lower grant and up for a
higher one, in the order of R503, as many steps as the half's power asks for, which is free (log 68). -/
def Dev.toGrant (d : Dev) (h : Half) (old : Nat) : Dev :=
  let (k, d) := d.draw
  let n := (Config.freeWord k).toNat % 64
  let new := Two.get d.power.grant h
  if new = old || d.power.pstate ≠ .working then d
  else d.modPower (stepsOf (fun p => if new < old then p.stepDown h else p.stepUp h) n)

/-- A grant that Temper sent reaches its half, which applies only the newest (R502, R503). Clocks that R486 lowered return,
and CORE_CLOCK takes effect (R508). -/
def powerGrant (d : Dev) (h : Half) (seq watts : Nat) : Dev :=
  if !d.power.sent.contains (h, seq, watts) then d
  else
    let d := d.modPower (fun p => { p with sent := p.sent.filter (fun m => m != (h, seq, watts)) })
    if seq ≤ Two.get d.power.grantSeq h then d
    else
      let old := Two.get d.power.grant h
      (d.modPower (fun p =>
        let top := Two.get p.coreSet h
        { p with
          grant := Two.set p.grant h watts, grantSeq := Two.set p.grantSeq h seq, lapsed := Two.set p.lapsed h false
          floorHold := Two.set p.floorHold h false, coreMax := Two.set p.coreMax h top
          coreMhz := Two.mod p.coreMhz h (fun l => l.mapIdx (fun i f => min f (lgetD top i 3200))) })).toGrant h old

def execPowerGrant (h : Half) (seq watts : Nat) (s : State) : Res := onDev s (fun d => powerGrant d h seq watts)

/-- R504. -/
def execGrantLapse (h : Half) (s : State) : Res :=
  onDev s (fun d =>
    if Two.get d.power.lapsed h || d.power.pstate = .cold || !d.power.vinOk then d
    else
      let old := Two.get d.power.grant h
      let d := (d.modPower (fun p => { p with grant := Two.set p.grant h 120, lapsed := Two.set p.lapsed h true })).toGrant h old
      d.raise (powEvt 5 0 (halfIdx h) 0 (dieOf h)))

/-! ### Temperature (R388, R505 to R507) -/

/-- The hottest of a die's junction sensors and its index; none before the first sample. -/
def Power.hottest (p : Power) (die : Die) : Option (Nat × Int) :=
  (p.tj.filter (fun s => s.1 / 16 == dieIdx die)).foldl (fun m s =>
    match m with
    | some (_, t) => if t < s.2 then some (s.1 % 16, s.2) else m
    | none => some (s.1 % 16, s.2)) none

def Power.tjMax (p : Power) (die : Die) : Int := ((p.hottest die).map (·.2)).getD 0

/-- The hottest stack of a half. -/
def HbmHalf.tMax (x : HbmHalf) : Int := x.temps.foldl max (x.temps.headD 0)

/-- The floor of every clock of a half, as a ceiling. -/
def HbmHalf.floor (x : HbmHalf) : HbmHalf := { x with anvCeil := 100, engCeil := 200, coreCeil := 400, down := true }

/-- The Hub's thermal action on both halves' grants, which they then meet (R503, R506). -/
def Dev.lowerGrants (d : Dev) (f : Nat → Nat) : Dev :=
  let old := d.power.grant
  let d := d.modPower (fun p => { p with grant := ⟨f p.grant.w, f p.grant.e⟩ })
  (d.toGrant .west old.w).toGrant .east old.e

/-- A junction sample (R506, R507). The 102 °C action is taken at once; THERMAL_CLOCK_STEP makes the timed steps. -/
def junctionSample (d : Dev) (die : Die) (sensor : Nat) (t : Int) : Dev :=
  if !d.power.vinOk || (die = .hub && 8 ≤ sensor) then d
  else
    let old := d.power.tjMax die
    let key := 16 * dieIdx die + sensor
    let d := d.modPower (fun p => { p with tj := (p.tj.filter (fun s => s.1 != key)) ++ [(key, t)] })
    let new := d.power.tjMax die
    let d := d.notePlatform old new [95, 102]
    if d.power.pstate = .cold then d
    else if 108 ≤ t then d.thermalTrip 1
    else if new < 102 then d
    else
      let d := match die with
        | .hub => (d.modPower (fun p => { p with hubCut := 10, hubDown := true })).lowerGrants (fun _ => 120)
        | .west => d.modHbm (fun x => { x with half := Two.mod x.half .west HbmHalf.floor })
        | .east => d.modHbm (fun x => { x with half := Two.mod x.half .east HbmHalf.floor })
      if old < 102 then d.raise (thermEvt 1 sensor t.toNat 0 die) else d

def execJunctionTempSample (die : Die) (sensor : Fin 16) (temp : Int) (s : State) : Res :=
  onDev s (fun d => junctionSample d die sensor.val temp)

/-- A stack's sample (Table 12.5, R507): refresh, the hold at 95 °C with an event for each stack that reaches it, and the trip at 100 °C. -/
def hbmSample (d : Dev) (h : Half) (k : Fin 6) (t : Int) : Dev :=
  if d.power.pstate = .cold || !d.power.vinOk then d
  else
    let x := Two.get d.hbm.half h
    let old := max (Two.get d.hbm.half .west).tMax (Two.get d.hbm.half .east).tMax
    let one := BitVec.ofNat 6 (2 ^ k.val)
    let halved := if 85 < t then x.halved ||| one else if t < 82 then x.halved &&& ~~~one else x.halved
    let x' := { x with temps := lset x.temps k.val t, halved := halved }
    let hold := decide (95 ≤ x'.tMax)
    let x' := if hold then { x' with hold := true, hbmCeil := 100, hbmDown := true } else { x' with hold := false }
    let d := d.modHbm (fun y => { y with half := Two.set y.half h x' })
    let d := d.notePlatform old (max (Two.get d.hbm.half .west).tMax (Two.get d.hbm.half .east).tMax) [85, 95]
    if 100 ≤ t then d.thermalTrip 2
    else if decide (95 ≤ t) && decide (lgetD x.temps k.val 0 < 95) then d.raise (thermEvt 2 k.val t.toNat 0 (dieOf h))
    else d

def execHbmTempSample (h : Half) (stack : Fin 6) (temp : Int) (s : State) : Res := onDev s (fun d => hbmSample d h stack temp)

/-- The timed step for the stacks of a half: the Anvil's HBM ceiling steps from the clock that runs. -/
def Dev.hbmStep (d : Dev) (h : Half) : Dev :=
  let x := Two.get d.hbm.half h
  let put (y : HbmHalf) : Dev := d.modHbm (fun z => { z with half := Two.set z.half h y })
  if 90 ≤ x.tMax then put { x with hbmCeil := max 100 (d.anvClock h - 100), hbmDown := true }
  else if x.tMax < 87 && x.hbmDown then
    let c := x.hbmCeil + 100
    if Two.get d.power.anvMhz h ≤ c then put { x with hbmCeil := 800, hbmDown := false } else put { x with hbmCeil := c }
  else d

/-- The timed step for the junctions of a half (Table 16.8), with the event of the first step down. -/
def Dev.junctionStep (d : Dev) (h : Half) : Dev :=
  let die := dieOf h
  let x := Two.get d.hbm.half h
  let put (y : HbmHalf) : Dev := d.modHbm (fun z => { z with half := Two.set z.half h y })
  match d.power.hottest die with
  | none => d
  | some (i, t) =>
    if 95 ≤ t then
      let c := max 100 (x.anvCeil - 100)
      let d := put { x with anvCeil := c, engCeil := max 200 (x.engCeil - 200), coreCeil := max 400 (x.coreCeil - 200), down := true }
      if x.down then d else d.raise (thermEvt 0 i t.toNat c die)
    else if t < 92 && x.down then
      let y := { x with anvCeil := min 800 (x.anvCeil + 100), engCeil := min 1600 (x.engCeil + 200), coreCeil := min 3200 (x.coreCeil + 200) }
      put { y with down := !(y.anvCeil == 800 && y.engCeil == 1600 && y.coreCeil == 3200) }
    else d

/-- The timed step for the Hub: both halves' grants go down or up by 10 %. -/
def Dev.hubStep (d : Dev) : Dev :=
  match d.power.hottest .hub with
  | none => d
  | some (i, t) =>
    if 95 ≤ t then
      let first := !d.power.hubDown
      let less (g : Nat) : Nat := max 120 (g * 9 / 10)
      let d := (d.modPower (fun p => { p with hubCut := min 10 (p.hubCut + 1), hubDown := true })).lowerGrants less
      if first then d.raise (thermEvt 0 i t.toNat d.power.grant.w .hub) else d
    else if t < 92 && d.power.hubDown then
      d.modPower (fun p => { p with hubCut := p.hubCut - 1, hubDown := decide (1 < p.hubCut) })
    else d

/-- THERMAL_CLOCK_STEP: the periodic step of one die. -/
def thermalStep (d : Dev) (die : Die) : Dev :=
  if d.power.pstate = .cold || !d.power.vinOk then d
  else match die with
    | .west => (d.hbmStep .west).junctionStep .west
    | .east => (d.hbmStep .east).junctionStep .east
    | .hub => d.hubStep

def execThermalClockStep (die : Die) (s : State) : Res := onDev s (fun d => thermalStep d die)

/-- THERMTRIP_N is released once the Hub's sensors read below 70 °C; a start that waits for it goes on (R507, Table 19.1). -/
def thermtripRelease (d : Dev) : Dev :=
  if d.power.thermtrip && decide (d.power.tjMax .hub < 70) then (d.modPower (fun p => { p with thermtrip := false })).step4 else d

def execThermtripRelease (s : State) : Res := onDev s thermtripRelease

/-! ### Power admin commands (Table 16.9) -/

def powerPolicy (d : Dev) (c : AdmCmd) : AdmRes :=
  if !admOnly c 3 || !within 0 2 (admOp c 0) || !within 10 1000 (admOp c 1) || !within 1 3600000 (admOp c 2) then bad d
  else ans .ok (d.modPower (fun p => { p with policy := admOp c 0, glowIdle := admOp c 1, bankIdle := admOp c 2 }))

def execPowerPolicy (c : AdmCmd) (s : State) : Res := onDev s (fun d => d.admin c (fun d => powerPolicy d c))

/-- Steps in the package, or a ring that is enabled (R500, R535). -/
def Dev.coldBusy (d : Dev) : Bool := !d.sched.steps.isEmpty || d.host.rings.any (fun r => r.2.enabled)

/-- POWER_COLD (R500): while the node is joined it departs first, and ADMIN_COMMAND_COMPLETE ends it. -/
def powerCold (d : Dev) (c : AdmCmd) : Dev :=
  if d.adminOpen && admOnly c 0 && !d.coldBusy then
    if d.chain.joined then
      let d := d.adminBg c (fun d => (.ok, d.modHost (fun h => { h with admBusy := true }))) .powerCold
      (d.modChain (fun x => { x with leaving := true })).leavePush
    else (d.admin c (fun d => ans .ok d)).goCold
  else d.admin c (fun d => if !admOnly c 0 then bad d else ans .ctxActive d)

def execPowerCold (c : AdmCmd) (s : State) : Res := onDev s (fun d => powerCold d c)

def powerLimit (d : Dev) (c : AdmCmd) : AdmRes :=
  if !admOnly c 1 || !within 300 1850 (admOp c 0) then bad d else ans .ok (d.modPower (fun p => { p with limitSet := admOp c 0 }))

def execPowerLimit (c : AdmCmd) (s : State) : Res := onDev s (fun d => d.admin c (fun d => powerLimit d c))

def coreClock (d : Dev) (c : AdmCmd) : AdmRes :=
  let f := admOp c 2
  if !admOnly c 3 || !within 0 1 (admOp c 0) || !within 0 3 (admOp c 1) || !within 400 3200 f || f % 100 != 0 then bad d
  else ans .ok (d.modPower (fun p => { p with coreSet := Two.mod p.coreSet (halfOfNat (admOp c 0)) (fun l => lset l (admOp c 1) f) }))

def execCoreClock (c : AdmCmd) (s : State) : Res := onDev s (fun d => d.admin c (fun d => coreClock d c))

/-- DOMAIN codes of Table 16.10. -/
def domCode : DomSt → Nat
  | .gated => 0
  | .waking => 1
  | .on => 2
  | .parked => 3
  | .retention => 4
  | .draining => 5
  | .quenched => 6
  | .retired => 7

/-- A temperature as a byte. -/
def tempByte (t : Int) : Nat := (t % 256).toNat

/-- The hottest stack of the package. -/
def Dev.hbmMax (d : Dev) : Int := max (Two.get d.hbm.half .west).tMax (Two.get d.hbm.half .east).tMax

/-- Table 16.10. -/
def Dev.powerRec (d : Dev) : List Byte :=
  let p := d.power
  let dom (n : Nat) : Byte := BitVec.ofNat 8 (if d.domRetired n then 7 else domCode (d.domSt n))
  let w7 := pCode p.pstate + at_ 2 (b2n p.intOsc) + at_ 8 p.trip + at_ 16 p.vin + at_ 32 p.iin + at_ 48 p.pin
  let w8 := p.limit + at_ 16 p.grant.w + at_ 32 p.grant.e + at_ 48 p.hubRes
  let w9 := tempByte (p.tjMax .west) + at_ 8 (tempByte (p.tjMax .east)) + at_ 16 (tempByte (p.tjMax .hub)) + at_ 24 (tempByte d.hbmMax)
  (List.range 56).map dom ++ wordsBytes [w7, w8, w9, d.hubCount.toNat, 0, 0, 0, 0, 0]

def powerStatus (d : Dev) (c : AdmCmd) : AdmRes :=
  if !admOnly c 1 || !admAddr c 0 then bad d else ans .ok (d.fwWrite (lgetD c.ops 0 0) d.powerRec)

def execPowerStatus (c : AdmCmd) (s : State) : Res := onDev s (fun d => d.admin c (fun d => powerStatus d c))

def wakeGpio (d : Dev) (c : AdmCmd) : AdmRes :=
  let v := admOp c 0
  if !admOnly c 1 || decide (2 ^ 32 ≤ v) then bad d
  else ans .ok (d.modPower (fun p => { p with wakeGpio := BitVec.ofNat 16 v, wakeRise := BitVec.ofNat 16 (v / 65536) }))

def execWakeGpio (c : AdmCmd) (s : State) : Res := onDev s (fun d => d.admin c (fun d => wakeGpio d c))

end Sys2Proof.Machine
end

