-- ==== Sys2Proof/Machine/Reliab.lean ====
section
/-!
DEFINITION. The reliability admin commands (R525, R531).
-/
namespace Sys2Proof.Machine

/-- RING_RESUME (R523, R525). -/
def ringResume (d : Dev) (c : AdmCmd) : AdmRes :=
  let r := admOp c 0
  if !admOnly c 1 || decide (16384 ≤ r) then bad d
  else if d.faults.contain.isSome then ans .containing d
  else match tget d.host.rings r with
    | none => ans .noObject d
    | some x => ans .ok (d.modHost (fun h => { h with rings := tput h.rings r { x with held := false } }))

def execRingResume (c : AdmCmd) (s : State) : Res := onDev s (fun d => d.admin c (fun d => ringResume d c))

/-- FAULT_THRESH: the pair for every unit of a code; a pair that Table 17.2 does not have is malformed. -/
def faultThresh (d : Dev) (c : AdmCmd) : AdmRes :=
  let code := admOp c 0
  let unc := admOp c 1 == 1
  if !admOnly c 4 || !within 0 13 code || !within 0 1 (admOp c 1) || !within 1 65535 (admOp c 2) ||
      !within 1 2592000000 (admOp c 3) || (defaultThresh code unc).isNone then bad d
  else ans .ok (d.modFaults (fun f =>
    { f with thresh := (f.thresh.filter (fun p => p.1 != (code, unc))) ++ [((code, unc), (admOp c 2, admOp c 3))] }))

def execFaultThresh (c : AdmCmd) (s : State) : Res := onDev s (fun d => d.admin c (fun d => faultThresh d c))

/-- UNIT values of a code (Table 17.2), in rising order. -/
def unitNos (code : Nat) : List Nat :=
  let stackPc (f : Nat → List Nat) : List Nat :=
    (List.range 6).flatMap (fun s => (List.range 32).flatMap (fun p => f (8192 * s + 256 * p)))
  match code with
  | 0 => List.range 1024
  | 1 => [0]
  | 2 => List.range 64
  | 3 => List.range 32
  | 4 => List.range 64
  | 5 => List.range 16
  | 6 => List.range 64
  | 7 => List.range 16
  | 8 => stackPc (fun b => (List.range 48).map (fun l => b + l))
  | 9 => stackPc (fun b => [b])
  | 10 => List.range 8
  | 11 => (List.range 16).flatMap (fun p => (List.range 8).map (fun l => 256 * p + l))
  | 12 => List.range 4
  | _ => List.range 20

/-- Every reporting unit, by unit code, then die, then UNIT. -/
def allUnits : List UnitId :=
  (List.range 14).flatMap (fun code => [Die.west, Die.east, Die.hub].flatMap (fun die =>
    ((unitNos code).map (fun n => (⟨Fin.ofNat 14 code, die, BitVec.ofNat 16 n⟩ : UnitId))).filter unitOk))

def unitStCode : UnitSt → Nat
  | .inService => 0
  | .replaced => 1
  | .retired => 2
  | .repairPending => 3

/-- STATE of a unit's record: every column of a retired quadrant is retired (R76). -/
def Dev.unitState (d : Dev) (u : UnitId) : UnitSt :=
  if u.code = 0 && bit (Two.get d.anvil.retiredQ (dieHalf u.die)).toNat (u.unit.toNat / 256) then .retired else (d.unit u).st

/-- Table 17.8. -/
def Dev.unitRec (d : Dev) (u : UnitId) : List Byte :=
  let r := d.unit u
  let inc := if quenchable u then r.inc.toNat else 0
  wordsBytes
    [u.code.val + at_ 8 (dieIdx u.die) + at_ 10 u.unit.toNat + at_ 26 inc + at_ 30 (unitStCode (d.unitState u)) + at_ 32 r.cc + at_ 48 r.uc,
     r.ctotal + at_ 32 r.stale]

def faultCounters (d : Dev) (c : AdmCmd) : AdmRes :=
  if !admOnly c 1 || !admAddr c 0 then bad d else ans .ok (d.fwWrite (lgetD c.ops 0 0) (allUnits.flatMap d.unitRec))

def execFaultCounters (c : AdmCmd) (s : State) : Res := onDev s (fun d => d.admin c (fun d => faultCounters d c))

/-- The die of an injected error: a core's mhartid names it, Hub units have one, and for the others, whose half the command
does not name, it is a free value (log 48). -/
def injectDie (code unit n : Nat) : Die :=
  if 10 ≤ code then .hub
  else if code = 4 then (if unit < 32 then .west else .east)
  else dieOf (halfOf (Config.freeBool n))

/-- A corrected error; a Chain lane that it shows to have failed lastingly degrades its link (Table 17.2, R410). -/
def correctedErr (d : Dev) (u : UnitId) (loc : Nat) : Dev :=
  let p := fld u.unit.toNat 8 4
  let e := corrected d u loc
  if u.code = 11 && (e.port p).laneBad != (d.port p).laneBad then e.laneDegrade p (popCount (e.port p).laneBad.toNat 8) else e

/-- CORRECTED_ERROR (R512). -/
def execCorrectedError (u : UnitId) (loc : Word) (s : State) : Res := onDev s (fun d => correctedErr d u loc.toNat)

/-- ERR_INJECT: one error, handled as a real one. -/
def errInject (d : Dev) (c : AdmCmd) : AdmRes :=
  let code := admOp c 0
  let (n, e) := d.draw
  let u : UnitId := ⟨Fin.ofNat 14 code, injectDie code (admOp c 1) n, BitVec.ofNat 16 (admOp c 1)⟩
  if !admOnly c 3 || !within 0 13 code || decide (65536 ≤ admOp c 1) || !within 0 1 (admOp c 2) || !unitOk u then bad d
  else if !d.grants 6 then ans .forbidden d
  else
    let loc := (Config.freeWord n).toNat
    ans .ok (if admOp c 2 = 1 then uncorrected e u loc else correctedErr e u loc)

def execErrInject (c : AdmCmd) (s : State) : Res := onDev s (fun d => d.admin c (fun d => errInject d c))

end Sys2Proof.Machine
end

