-- ==== Sys2Proof/Machine/SecurityM.lean ====
section
/-!
DEFINITION. Signed objects, provisioning, attestation and debug sessions (R533 to R551, R555, R560).
-/
namespace Sys2Proof.Machine

/-! ### Signed objects (R539 to R545) -/

/-- The signed object that a row submits, by KIND of Table 18.4. -/
def sigLen : Nat := 18665

/-- The key hash that KIND and the lifecycle select, where Table 18.4 has the row. -/
def Sec.keyFor (s : Sec) (kind : Nat) : Option (BitVec 256) :=
  match s.life, kind with
  | .owned, 1 => some s.debugHash
  | _, 1 => some Config.vendorRoot
  | .owned, 2 => some s.ownerHash
  | .owned, 3 => some s.ownerHash
  | .owned, 4 => some s.ownerHash
  | .owned, 5 => some s.ownerHash
  | .owned, 6 => some s.ownerHash
  | _, _ => none

/-- Whether Table 18.3's fields are in their ranges and every RSVD bit is zero (check 1 of R540). -/
def bodyForm (n kind : Nat) : Bool :=
  let life := fld n 32 32
  let priv := fld n 448 64
  let val := fld n 512 256
  fld n 0 16 == 1 && fld n 24 8 == 0 && fld n 768 256 == 0 &&
  (if kind = 1 then within 1 10080 life && fld priv 9 55 == 0 && val == 0
   else life == 0 && priv == 0 &&
     (match kind with
      | 2 => val != 0
      | 5 => decide (val < 256)
      | 6 => val == 0
      | _ => true))

/-- Bits of Table 18.7 that the opened state permits. -/
def privMask (vendor : Bool) : Nat := if vendor then 0x1FF else 0xEF

/-- The first check of R540 that an object fails, if any. -/
def Dev.sigCheck (d : Dev) (obj : List Byte) : Option Nat :=
  let body := obj.take 128
  let key := (obj.drop 128).take 68
  let n := ofLe body
  let kind := fld n 16 8
  match d.sec.keyFor kind with
  | none => some 1
  | some hash =>
    if !bodyForm n kind then some 1
    else if BitVec.ofNat 128 (fld n 64 128) != Config.serial then some 2
    else if d.sec.nonce != some (BitVec.ofNat 256 (fld n 192 256)) then some 3
    else if Config.keyHash key != hash || hash == 0 then some 4
    else if !Config.xmssVerify key body (obj.drop 196) then some 5
    else if kind = 1 && Nat.land (fld n 448 64) (0x1FF - privMask (d.sec.life = .returned)) != 0 then some 6
    else none

/-- The log entry of an accepted authorisation (Table 18.5, R542). -/
def Dev.authLog (d : Dev) (body : List Byte) : Dev := d.measure 2 3 (Config.shake512 body)

/-- A DEBUG token opens a session or replaces the open one (R555, R556). -/
def Dev.openSession (d : Dev) (body : List Byte) : Dev :=
  let n := ofLe body
  let priv : Word := BitVec.ofNat 64 (fld n 448 64)
  let life := fld n 32 32
  let d := match d.sec.session with
    | some _ => ((d.raise (secEvt 1 2 0)).measure 3 5 (Config.shake512 (numBytes 8 2))).dropDebug priv
    | none => d
  let d := d.measure 3 4 (Config.shake512 body)
  let d := d.modSec (fun s => { s with session := some { priv := priv, life := life, vendor := s.life = .returned } })
  d.raise (secEvt 0 priv.toNat life)

/-- What an accepted object does, by its KIND; a RETURN is begun and answers its body. -/
def Dev.applyObj (d : Dev) (body : List Byte) : Status × Dev :=
  let n := ofLe body
  let val := fld n 512 256
  let w : BitVec 256 := BitVec.ofNat 256 val
  match fld n 16 8 with
  | 1 => (.ok, d.openSession body)
  | 2 =>
    if d.chain.joined then (.joined, d)
    else (.ok, ((d.authLog body).modSec (fun s => { s with fabric := w })).raise (secEvt 6 3 0))
  | 3 => (.ok, ((d.authLog body).modSec (fun s => { s with debugHash := w })).raise (secEvt 6 1 0))
  | 4 => (.ok, ((d.authLog body).modSec (fun s => { s with cosignNext := some w })).raise (secEvt 6 2 0))
  | 5 =>
    if val < d.sec.svn || 64 < val || d.boot.svnImage.toNat < val then (.forbidden, d)
    else (.ok, ((d.authLog body).modSec (fun s => { s with svn := val })).raise (secEvt 5 val 0))
  | _ => if d.coldBusy then (.ctxActive, d) else (.ok, d)

/-- Submit a signed object: the nonce is consumed, R540 is checked, and a refusal raises a SECURITY event. -/
def submitObj (d : Dev) (obj : List Byte) : Status × Dev :=
  let kind := fld (ofLe (obj.take 128)) 16 8
  let fail : Option Nat := if 4096 ≤ d.sec.log.length then some 7 else d.sigCheck obj
  let d := d.modSec (fun s => { s with nonce := none })
  match fail with
  | some 1 => (.malformed, d.raise (secEvt 2 1 kind))
  | some n => (.forbidden, d.raise (secEvt 2 n kind))
  | none => d.applyObj (obj.take 128)

/-- Begin a RETURN (R537): a joined node departs first. -/
def Dev.beginReturn (d : Dev) : Dev :=
  if d.chain.joined then (d.modChain (fun x => { x with leaving := true })).leavePush else d.setReturned

/-- A command whose first operand names a buffer that the device reads: it is taken once the read need not wait. -/
def Dev.admThen (d : Dev) (c : AdmCmd) (n : Nat) (f : Dev → Dev) : Dev :=
  if d.adminOpen then d.fwThen (lgetD c.ops 0 0) n f else f d

/-- SEC_AUTH for a row of the given KIND. The device reads the object from its buffer; `obj` is what host memory gives. An
object of another row's KIND is that row's. -/
def secAuth (d : Dev) (c : AdmCmd) (obj : List Byte) (kind : Nat) : Dev :=
  d.admThen c sigLen fun d => match d.fwRead (lgetD c.ops 0 0) sigLen obj with
  | .error st => d.admin c (fun d => if !admOnly c 2 || admOp c 1 != sigLen || !admAddr c 0 then bad d else ans st d)
  | .ok bs =>
    let k := fld (ofLe (bs.take 128)) 16 8
    if k != kind && within 1 6 k then d
    else if !admOnly c 2 || admOp c 1 != sigLen || !admAddr c 0 || !d.adminOpen then d.admin c bad
    else
      let d := d.fwTouch (lgetD c.ops 0 0) sigLen
      let (st, e) := submitObj d bs
      if k = 6 && st = .ok then
        let e := e.adminBg c (fun d => (.ok, d.modHost (fun h => { h with admBusy := true }))) (.secReturn (bs.take 128))
        e.beginReturn
      else d.admin c (fun d => let (st, d) := submitObj d bs; ans st d)

def execDebugAuth (c : AdmCmd) (obj : List Byte) (s : State) : Res := onDev s (fun d => secAuth d c obj 1)
def execRotateFabric (c : AdmCmd) (obj : List Byte) (s : State) : Res := onDev s (fun d => secAuth d c obj 2)
def execDebugKey (c : AdmCmd) (obj : List Byte) (s : State) : Res := onDev s (fun d => secAuth d c obj 3)
def execCosignKey (c : AdmCmd) (obj : List Byte) (s : State) : Res := onDev s (fun d => secAuth d c obj 4)
def execAdvanceSvn (c : AdmCmd) (obj : List Byte) (s : State) : Res := onDev s (fun d => secAuth d c obj 5)
def execReturnAuth (c : AdmCmd) (obj : List Byte) (s : State) : Res := onDev s (fun d => secAuth d c obj 6)

/-! ### Status, nonces and sessions (R541, R555, R560) -/

/-- The report body (Table 18.6). -/
def Dev.report (d : Dev) (nonce : Nat) : List Byte :=
  let s := d.sec
  let priv := match s.session with | some x => x.priv.toNat | none => 0
  wordsBytes
    [1 + at_ 16 (lifeCode s.life) + at_ 18 s.debugCode + at_ 20 (pCode d.power.pstate) + at_ 32 s.log.length, priv, s.svn,
     d.boot.svnImage.toNat] ++
  leBytes 16 Config.serial.toNat ++ leBytes 32 nonce ++ s.mrs.flatMap (fun m => leBytes 64 m.toNat) ++
  leBytes 32 s.ownerHash.toNat ++ leBytes 32 s.debugHash.toNat ++ leBytes 32 s.cosignHash.toNat ++ leBytes 8 d.hubCount.toNat ++
  List.replicate 72 0

def secStatus (d : Dev) (c : AdmCmd) : AdmRes :=
  if !admOnly c 1 || !admAddr c 0 then bad d else ans .ok (d.fwWrite (lgetD c.ops 0 0) (d.report 0))

def execSecStatus (c : AdmCmd) (s : State) : Res := onDev s (fun d => d.admin c (fun d => secStatus d c))

/-- Draw the one outstanding nonce (R541). -/
def Dev.drawNonce (d : Dev) : BitVec 256 × Dev :=
  let (x, d) := d.entropy
  (x, d.modSec (fun s => { s with nonce := some x }))

def secNonce (d : Dev) (c : AdmCmd) : AdmRes :=
  if !admOnly c 1 || !admAddr c 0 then bad d
  else
    let (x, d) := d.drawNonce
    ans .ok (d.fwWrite (lgetD c.ops 0 0) (leBytes 32 x.toNat))

def execSecNonce (c : AdmCmd) (s : State) : Res := onDev s (fun d => d.admin c (fun d => secNonce d c))

def execSecClose (c : AdmCmd) (s : State) : Res :=
  onDev s (fun d => d.admin c (fun d => if !admOnly c 0 then bad d else ans .ok (d.closeSession 0)))

def execNonceExpiry (s : State) : Res := onDev s (fun d => d.modSec (fun s => { s with nonce := none }))

def execSessionExpiry (s : State) : Res := onDev s (fun d => d.closeSession 1)

/-! ### Provisioning (R535, R536) -/

/-- Steps 1 to 4 of R536 on a provisioning record of 128 bytes. -/
def Dev.provision (d : Dev) (rec : List Byte) : Dev :=
  let n := ofLe rec
  let key (i : Nat) : BitVec 256 := BitVec.ofNat 256 (fld n (256 * i) 256)
  let (x, d) := d.entropy
  let d := d.modSec (fun s =>
    { s with ownerHash := key 0, debugHash := key 1, cosignHash := key 2, fabric := key 3, owned := true, cave := some x })
  (d.authLog (rec.take 96 ++ List.replicate 32 0)).raise (secEvt 4 1 0)

/-- SEC_PROVISION: in BLANK the device becomes OWNED and enters Cold after ADMIN_DONE. -/
def secProvision (d : Dev) (c : AdmCmd) (rec : List Byte) : Dev :=
  let got := d.fwRead (lgetD c.ops 0 0) 128 rec
  let stop : Option Status :=
    if !admOnly c 1 || !admAddr c 0 then some .malformed
    else if d.coldBusy then some .ctxActive
    else if d.sec.life ≠ .blank || 4096 ≤ d.sec.log.length then some .forbidden
    else match got with
      | .error st => some st
      | .ok bs => if fld (ofLe bs) 0 256 = 0 then some .malformed else none
  match stop, got with
  | none, .ok bs =>
    if d.adminOpen then
      let d := d.admin c (fun d => ans .ok (d.provision bs))
      (if d.chain.joined then d.leaveEnd else d).goCold
    else d
  | st, _ => d.admin c (fun d => ans (st.getD .malformed) d)

def execSecProvision (c : AdmCmd) (rec : List Byte) (s : State) : Res := onDev s (fun d => d.admThen c 128 (fun d => secProvision d c rec))

/-! ### Attestation (R546 to R551) -/

/-- The next index of the attestation key; a new block is written to the Rind store before its first use (R549). -/
def Dev.nextIndex (d : Dev) : Option (Nat × Dev) :=
  let s := d.sec
  if s.blockLeft = 0 then
    if 2 ^ 30 ≤ s.nextBlock then none
    else
      let i := 1024 * s.nextBlock
      some (i, d.modSec (fun s => { s with nextBlock := s.nextBlock + 1, index := i + 1, blockLeft := 1023 }))
  else some (s.index, d.modSec (fun s => { s with index := s.index + 1, blockLeft := s.blockLeft - 1 }))

/-- The report over a caller's nonce with its signature (R548). -/
def Dev.attestBytes (d : Dev) (nonce : Nat) : Option (List Byte × Dev) :=
  match d.nextIndex with
  | none => none
  | some (i, d) =>
    let body := d.report nonce
    some (body ++ Config.attestSign i body, d)

def attest (d : Dev) (c : AdmCmd) (nonce : List Byte) : AdmRes :=
  if !admOnly c 2 || !admAddr c 0 || !admAddr c 1 then bad d
  else match d.fwRead (lgetD c.ops 0 0) 32 nonce with
    | .error st => ans st d
    | .ok bs =>
      match d.attestBytes (ofLe bs) with
      | none => ans .forbidden d
      | some (out, d) => ans .ok ((d.fwTouch (lgetD c.ops 0 0) 32).fwWrite (lgetD c.ops 1 0) out)

def execAttest (c : AdmCmd) (nonce : List Byte) (s : State) : Res :=
  onDev s (fun d => d.admThen c 32 (fun d => d.admin c (fun d => attest d c nonce)))

/-- A log entry (Table 18.5). -/
def logBytes (e : LogEnt) : List Byte :=
  leBytes 8 (e.mr.val + at_ 8 e.event.toNat) ++ leBytes 8 e.t.toNat ++ leBytes 64 e.d.toNat

/-- ATTEST_LOG: the oldest entries that fit whole. -/
def attestLog (d : Dev) (c : AdmCmd) : AdmRes :=
  if !admOnly c 2 || !admAddr c 0 then bad d
  else ans .ok (d.fwWrite (lgetD c.ops 0 0) ((d.sec.log.take (admOp c 1 / 80)).flatMap logBytes))

def execAttestLog (c : AdmCmd) (s : State) : Res := onDev s (fun d => d.admin c (fun d => attestLog d c))

def secCert (d : Dev) (c : AdmCmd) : AdmRes :=
  if !admOnly c 1 || !admAddr c 0 then bad d else ans .ok (d.fwWrite (lgetD c.ops 0 0) Config.certificate)

def execSecCert (c : AdmCmd) (s : State) : Res := onDev s (fun d => d.admin c (fun d => secCert d c))

/-- DOE objects of types 1, 2 and 3 (R551), served from L0 onwards. -/
def execDoeAttest (nonce : BitVec 256) (s : State) : Res :=
  onDev s (fun d =>
    if !d.host.linkUp then d
    else match d.attestBytes nonce.toNat with
      | some (out, d) => d.emit (.doe out)
      | none => d)

def execDoeLog (s : State) : Res := onDev s (fun d => if d.host.linkUp then d.emit (.doe (d.sec.log.flatMap logBytes)) else d)

def execDoeCert (s : State) : Res := onDev s (fun d => if d.host.linkUp then d.emit (.doe Config.certificate) else d)

end Sys2Proof.Machine
end

