-- ==== Sys2Proof/Machine/DebugM.lean ====
section
/-!
DEFINITION. The TAP, the mailbox and the three debug modules (R552 to R559). Register layouts of the debug module are those
of RISC-V Debug 1.0 (PRESUMED, log 49).
-/
namespace Sys2Proof.Machine

/-! ### TAP (Table 18.8) -/

/-- Select an instruction; leaving EXTEST releases the pins. -/
def Dev.tap (d : Dev) (ir : Nat) : Dev := d.modSec (fun s => { s with ir := BitVec.ofNat 8 ir, driven := [] })

/-- IDCODE: version 0, part 0x7264, manufacturer, and 1. -/
def idcodeWord : Nat := 1 + at_ 1 Config.jep106.toNat + at_ 12 0x7264

/-- The TAP has power in every package state, and none without VIN52. -/
def Dev.onTap (d : Dev) (f : Dev → Dev) : Dev := if d.power.vinOk then f d else d

def execIdcode (s : State) : Res := onDev s (fun d => d.onTap (fun d => (d.tap 0x01).emit (.jtag idcodeWord)))

/-- SAMPLE/PRELOAD: the boundary register captures the pins. -/
def Dev.sample (d : Dev) (ir : Nat) (pins : List Bool) : Dev := (d.tap ir).modSec (fun s => { s with boundary := pins })

def execSamplePreload (pins : List Bool) (s : State) : Res := onDev s (fun d => d.onTap (fun d => d.sample 0x02 pins))

/-- EXTEST drives the pins only while PERST_N is asserted, and otherwise acts as SAMPLE/PRELOAD (R552). -/
def execExtest (drive : List Bool) (s : State) : Res :=
  onDev s (fun d => d.onTap (fun d =>
    let d := d.sample 0x03 drive
    if d.boot.perst then d.modSec (fun s => { s with driven := drive }) else d))

/-- DTMCS: version 1, 7 address bits, no error outstanding. A write of dmireset or dmihardreset finds nothing to clear. -/
def execDtmcs (v : BitVec 32) (s : State) : Res :=
  onDev s (fun d => d.onTap (fun d =>
    let d := (d.tap 0x10).modSec (fun s => { s with dtmcs := v &&& 0x30000#32 })
    d.emit (.jtag 0x71)))

def execBypass (s : State) : Res := onDev s (fun d => d.onTap (fun d => (d.tap 0xFF).emit (.jtag 0)))

/-! ### Mailbox (RIND_MBOX, Table 18.10) -/

/-- A RETURN that came through the mailbox goes on: departure, erasure, and then memory, the log and Cold (R537). -/
def Dev.mboxReturnGo (d : Dev) : Dev :=
  match d.sec.mboxReturn with
  | none => d
  | some body =>
    if d.sec.returning then
      let d := (d.zeroMemory.measure 2 3 (Config.shake512 body)).raise (secEvt 4 2 0)
      (d.modSec (fun s => { s with mboxReturn := none })).goCold
    else if d.chain.joined then (if d.leaveDone then d.leaveEnd.setReturned else d.leavePush)
    else d.setReturned

/-- One mailbox exchange. -/
def mbox (d : Dev) (m : MboxCmd) : Dev :=
  let d := d.tap 0x20
  match m with
  | .status =>
    let d := d.mboxReturnGo
    d.emit (.mbox .ok (d.report 0))
  | .nonce =>
    let (x, d) := d.drawNonce
    d.emit (.mbox .ok (leBytes 32 x.toNat))
  | .auth obj =>
    if obj.length ≠ sigLen then d.emit (.mbox .malformed [])
    else
      let (st, d) := submitObj d obj
      let d := if st = .ok && fld (ofLe (obj.take 128)) 16 8 = 6 then
          (d.modSec (fun s => { s with mboxReturn := some (obj.take 128) })).beginReturn
        else d
      d.emit (.mbox st [])
  | .close => (d.closeSession 0).emit (.mbox .ok [])
  | .margin h stack volt buf =>
    if d.power.pstate ≠ .working && d.power.pstate ≠ .glowing then d.emit (.mbox .forbidden [])
    else
      let (st, d) := startMargin d none h stack volt buf
      d.emit (.mbox st [])

def execRindMbox (m : MboxCmd) (s : State) : Res := onDev s (fun d => d.onTap (fun d => mbox d m))

/-! ### Debug modules (R553, R554, R559) -/

/-- What hartsel selects. -/
inductive DbgT where
  | core (h : Fin 64)
  | eng (e : Fin 128)
  | hub (n : Nat)
  | absent
deriving DecidableEq, Repr

/-- R553. -/
def dbgTarget (die : Die) (n : Nat) : DbgT :=
  let half (k : Nat) : DbgT :=
    if n < 32 then .core (Fin.ofNat 64 (32 * k + n))
    else if 64 ≤ n && n < 128 then .eng (Fin.ofNat 128 (64 * k + (n - 64)))
    else .absent
  match die with
  | .west => half 0
  | .east => half 1
  | .hub => if n < 20 then .hub n else .absent

/-- The domain of a target. -/
def DbgT.dom : DbgT → Option Nat
  | .core h => some (pdGroup (halfOf (decide (32 ≤ h.val))) (h.val % 32 / 8))
  | .eng e => some (pdCluster (engHalf e) (engIdx e / 8))
  | .hub n => some (if n < 8 then 41 else if n < 16 then 42 else 53)
  | .absent => Option.none

/-- What an access to a unit finds (R554, Table 18.9). -/
inductive DbgAns where
  | refused
  | asleep
  | open_
deriving DecidableEq, Repr

/-- Whether the package has any unit for debug to reach: not Cold, and past step 4 of a start. -/
def Dev.debugUp (d : Dev) : Bool := d.power.vinOk && d.power.pstate != .cold && !d.boot.waitPerst

/-- An access under one bit of the mask to a unit in a domain: a parked unit un-parks, a gated one wakes with WAKE, and in
Banked only PD40, PD41 and PD43 answer. -/
def Dev.dbgAsk (d : Dev) (grant : Nat) (dom : Nat) : DbgAns × Dev :=
  if !d.debugUp || !d.grants grant then (.refused, d)
  else if d.power.pstate = .banked then (if dom = 40 || dom = 41 || dom = 43 then .open_ else .refused, d)
  else
    let d := if d.power.pstate = .glowing && d.domSt dom == .parked then glowExit d else d
    if d.domSt dom == .on then (.open_, d)
    else if d.grants 7 && !d.domRetired dom then (.asleep, d.wakeDom dom)
    else (.refused, d)

/-- The bit of Table 18.7 for a target. -/
def DbgT.grant : DbgT → Nat
  | .core _ => 0
  | .eng _ => 1
  | _ => 8

/-- Whether a target is there: a retired unit is not, and an engine whose halted step is saved is away (R558). -/
def Dev.dbgExists (d : Dev) (t : DbgT) : Bool :=
  match t with
  | .core h => (d.unit (coreUnit h)).st != .retired
  | .eng e => (d.unit (engUnit e)).st != .retired
  | .hub _ => true
  | .absent => false

def Dev.dbgAway (d : Dev) (t : DbgT) : Bool :=
  match t with
  | .eng e => d.sched.steps.any (fun p => p.2.saveEng.any (fun (q : Nat × Engine) => q.1 == e.val && q.2.halted) && p.2.phase == .saved)
  | _ => false

def Dev.dbgReach (d : Dev) (t : DbgT) : DbgAns × Dev :=
  match t.dom with
  | some n => if d.dbgExists t then d.dbgAsk t.grant n else (.refused, d)
  | none => (.refused, d)

def Dev.dbgHalted (d : Dev) (t : DbgT) : Bool :=
  match t with
  | .core h => (d.core h).halted
  | .eng e => (d.eng e).halted
  | .hub n => d.sec.hubHalted.contains n
  | .absent => false

def Dev.setHalted (d : Dev) (t : DbgT) (v : Bool) : Dev :=
  match t with
  | .core h => d.modCore h (fun c => { c with halted := v, stepping := false })
  | .eng e =>
    (d.modEng e (fun x => { x with halted := v, stepping := false })).stallEnds ((d.engCtx e).getD 4096)
  | .hub n => d.modSec (fun s => { s with hubHalted := (s.hubHalted.filter (· != n)) ++ (if v then [n] else []) })
  | .absent => d

def Dev.modMod (d : Dev) (die : Die) (f : DbgMod → DbgMod) : Dev :=
  d.modSec (fun s => { s with mods := lset s.mods (dieIdx die) (f (lgetD s.mods (dieIdx die) {})) })

def Dev.dbgMod (d : Dev) (die : Die) : DbgMod := lgetD d.sec.mods (dieIdx die) {}

/-- cmderr is sticky until it is cleared. -/
def Dev.cmdErr (d : Dev) (die : Die) (n : Nat) : Dev :=
  d.modMod die (fun m => if m.cmderr = 0 then { m with cmderr := BitVec.ofNat 3 n } else m)

/-- sberror is sticky until it is cleared. -/
def Dev.sbErr (d : Dev) (die : Die) (n : Nat) : Dev :=
  d.modMod die (fun m => if m.sberror = 0 then { m with sberror := BitVec.ofNat 3 n } else m)

/-! ### Halt, resume and single step (R556 to R558) -/

def hartHalt (d : Dev) (t : DbgT) : Dev :=
  match d.dbgReach t with
  | (.open_, d) => if d.dbgAway t then d else d.setHalted t true
  | (_, d) => d

def hartResume (d : Dev) (die : Die) (t : DbgT) : Dev :=
  match d.dbgReach t with
  | (.open_, d) =>
    if d.dbgHalted t then ((d.setHalted t false).modMod die (fun m => { m with resumeAck := true })).settle else d
  | (_, d) => d

/-- A single step: the target runs one instruction and is halted again (R553). -/
def singleStep (d : Dev) (die : Die) (t : DbgT) : Dev :=
  match d.dbgReach t with
  | (.open_, d) =>
    if !d.dbgHalted t then d
    else
      let d := d.modMod die (fun m => { m with resumeAck := true })
      match t with
      | .core h => d.modCore h (fun c => { c with halted := false, stepping := true })
      | .eng e => (d.modEng e (fun x => { x with halted := false, stepping := true })).settle
      | _ => d
  | (_, d) => d

def execHartHalt (t : DbgHart) (s : State) : Res := onDev s (fun d => hartHalt d (dbgTarget t.die t.hartsel.val))
def execHartResume (t : DbgHart) (s : State) : Res := onDev s (fun d => hartResume d t.die (dbgTarget t.die t.hartsel.val))
def execSingleStep (t : DbgHart) (s : State) : Res := onDev s (fun d => singleStep d t.die (dbgTarget t.die t.hartsel.val))

/-! ### Memory for debug: UMR, Vats and Rennet objects of this node, and privileged space (Table 18.7) -/

/-- The access a target needs: grant bit and domain; none for an address that this node does not have. -/
def Dev.busWay (d : Dev) (write : Bool) (a : Word) : Option (Nat × Nat) :=
  match d.target false a.toNat with
  | .umr off => if d.backed off then some (2, pdOfHalf (d.homeHalf off) 0) else none
  | .vat off => some (2, pdVat (vatHalf off))
  | .rennet o _ => some (2, pdOfHalf (objHalf o) 0)
  | .privileged => some (if write then 4 else 3, 40)
  | _ => none

/-- Read 8 bytes for debug, or why there is nothing to read: the home's refusal, or poison. What the owner of a line on another
node answers, and what privileged space holds, are free values. -/
def Dev.busRead (d : Dev) (a : Word) : Except Status Word × Dev :=
  match d.target false a.toNat with
  | .umr off =>
    let (k, d) := d.draw
    (match d.fwRead a 8 (leBytes 8 (Config.freeWord k).toNat) with
     | .ok bs => (.ok (BitVec.ofNat 64 (ofLe bs)), d.homeTouch off 8)
     | .error st => (.error st, d))
  | .vat off => (.ok (BitVec.ofNat 64 (ofLe (d.rd off 8))), d)
  | .rennet o b => (if (d.obj o).poisoned then .error .poison else .ok (BitVec.ofNat 64 (winWord (d.obj o) b)), d)
  | _ =>
    let (n, d) := d.draw
    (.ok (Config.freeWord n), d)

/-- Write 8 bytes for debug. A write to an object's first word is a signal, as in an object window (R209). -/
def Dev.busWrite (d : Dev) (a v : Word) : Dev :=
  match d.target false a.toNat with
  | .umr off => d.fwPut off (leBytes 8 v.toNat)
  | .vat off => d.vatPut (off - vatBase) (leBytes 8 v.toNat) none
  | .rennet o b => if b = 0 then d.applySignal o (fwSrc d (objHalf o) 0) .sig v else d
  | _ => d

/-- SYSTEM_BUS_ACCESS (R554, R559): sberror 7 beyond the mask, 2 for a bad address, 3 for a bad alignment, and 7 for a read that
its home refuses or that returns poison (log 177). -/
def busAccess (d : Dev) (die : Die) (a : Word) (write : Bool) (v : Word) : Dev :=
  if !d.debugUp || d.sec.session.isNone then d.sbErr die 7
  else if a.toNat % 8 ≠ 0 then d.sbErr die 3
  else match d.busWay write a with
    | none => d.sbErr die (if d.grants 2 && d.power.pstate != .banked then 2 else 7)
    | some (g, dom) =>
      match d.dbgAsk g dom with
      | (.refused, d) => d.sbErr die 7
      | (.asleep, d) => d.modMod die (fun m => { m with sbaddr := a })
      | (.open_, d) =>
        if write then (d.busWrite a v).modMod die (fun m => { m with sbaddr := a, sbdata := v })
        else d.fwThen a 8 (fun d =>
          match d.busRead a with
          | (.ok w, d) => d.modMod die (fun m => { m with sbaddr := a, sbdata := w })
          | (.error _, d) => d.sbErr die 7)

def execSystemBusAccess (die : Die) (addr : Word) (write : Bool) (v : Word) (s : State) : Res :=
  onDev s (fun d => busAccess d die addr write v)

/-! ### Abstract commands (R553, R554) -/

/-- Registers that an abstract command names: GPRs 0x1000–0x101F, FPRs 0x1020–0x103F and CSRs (RISC-V Debug 1.0). -/
def Dev.engReg (d : Dev) (e : Fin 128) (r : Nat) : Option Word :=
  let x := d.eng e
  if 0x1000 ≤ r && r < 0x1020 then some (x.rx (Fin.ofNat 32 (r - 0x1000)))
  else if 0x1020 ≤ r && r < 0x1040 then some (x.rf (Fin.ofNat 32 (r - 0x1020)))
  else if r = 0x7b1 then some x.pc
  else d.csrRead e r

def engRegPut (x : Engine) (r : Nat) (v : Word) : Option Engine :=
  if 0x1000 ≤ r && r < 0x1020 then some (x.wx (Fin.ofNat 32 (r - 0x1000)) v)
  else if 0x1020 ≤ r && r < 0x1040 then some (x.wf (Fin.ofNat 32 (r - 0x1020)) v)
  else if r = 0x7b1 then some { x with pc := v }
  else x.csrWrite r v

/-- The CSRs of the options of Table 9.1 that a core holds as plain registers: floating point and vector, supervisor, hypervisor and
virtual supervisor, machine, 64 PMP entries, and 29 programmable counters with their events (numbers PRESUMED from the RISC-V
specifications, log 179). -/
def coreCsr (r : Nat) : Bool :=
  within 0x001 0x003 r || within 0x008 0x00F r ||
  [0x104, 0x106, 0x10A, 0x120, 0x140, 0x144, 0x14D, 0x150, 0x151, 0x15C, 0x180].contains r ||
  [0x200, 0x204, 0x205, 0x240, 0x241, 0x242, 0x243, 0x244, 0x24D, 0x250, 0x251, 0x25C, 0x280].contains r ||
  within 0x600 0x60A r || [0x612, 0x614, 0x643, 0x644, 0x645, 0x64A, 0x680].contains r ||
  [0x300, 0x302, 0x303, 0x304, 0x306, 0x308, 0x309, 0x30A, 0x30C, 0x320, 0x340, 0x344, 0x34A, 0x34B, 0x350, 0x351, 0x35C].contains r ||
  within 0x323 0x33F r || within 0x3A0 0x3AF r || within 0x3B0 0x3EF r || r == 0xB00 || within 0xB02 0xB1F r || within 0xC20 0xC21 r || r == 0xDA0

/-- The mode as dcsr's prv and v give it. -/
def Core.dcsr (c : Core) : Nat := c.priv.code + at_ 5 (b2n c.priv.virt)

def privOf (v : Nat) : Priv :=
  match fld v 0 2, bit v 5 with
  | 0, false => .u
  | 0, true => .vu
  | 1, false => .hs
  | 1, true => .vs
  | _, _ => .m

/-- The register of a hart with a debug number. `time` and `cycle`'s shadows read the half's count and the core's counters; sstatus is
the part of mstatus that S-mode sees. -/
def Dev.coreReg (d : Dev) (h : Fin 64) (r : Nat) : Option Word :=
  let c := d.core h
  if 0x1000 ≤ r && r < 0x1020 then some (c.rx (Fin.ofNat 32 (r - 0x1000)))
  else if 0x1020 ≤ r && r < 0x1040 then some (tgetD c.f (r - 0x1020) 0)
  else match r with
    | 0xF14 => some (BitVec.ofNat 64 h.val)
    | 0x7b0 => some (BitVec.ofNat 64 c.dcsr)
    | 0x7b1 => some c.pc
    | 0x305 => some c.mtvec
    | 0x341 => some c.mepc
    | 0x342 => some c.mcause
    | 0x343 => some c.mtval
    | 0x105 => some c.stvec
    | 0x141 => some c.sepc
    | 0x142 => some c.scause
    | 0x143 => some c.stval
    | 0x5C0 => some c.spdom
    | 0xC01 => some (d.halfCount (coreHalf h))
    | 0xC22 => some 32
    | 0x100 => some (BitVec.ofNat 64 (c.csrOf 0x300) &&& 0x80000003000DE762#64)
    | _ =>
      if r = 0xC00 || within 0xC02 0xC1F r then some (BitVec.ofNat 64 (c.csrOf (r - 0x100)))
      else if coreCsr r then some (BitVec.ofNat 64 (c.csrOf r)) else none

def coreRegPut (c : Core) (r : Nat) (v : Word) : Option Core :=
  if 0x1000 ≤ r && r < 0x1020 then some (c.wx (Fin.ofNat 32 (r - 0x1000)) v)
  else if 0x1020 ≤ r && r < 0x1040 then some { c with f := tput c.f (r - 0x1020) v }
  else match r with
    | 0x7b0 => some { c with priv := privOf v.toNat }
    | 0x7b1 => some { c with pc := v }
    | 0x305 => some { c with mtvec := v }
    | 0x341 => some { c with mepc := v }
    | 0x342 => some { c with mcause := v }
    | 0x343 => some { c with mtval := v }
    | 0x105 => some { c with stvec := v }
    | 0x141 => some { c with sepc := v }
    | 0x142 => some { c with scause := v }
    | 0x143 => some { c with stval := v }
    | 0x5C0 => some { c with spdom := v &&& 0x80000000000FFFFF#64 }
    | 0x100 => some (c.setCsr 0x300 ((BitVec.ofNat 64 (c.csrOf 0x300) &&& ~~~0x80000003000DE762#64) ||| (v &&& 0x80000003000DE762#64)).toNat)
    | _ => if coreCsr r && !within 0xC20 0xC21 r && r != 0xDA0 then some (c.setCsr r v.toNat) else none

/-- hartsel of a target within its module. -/
def DbgT.sel : DbgT → Nat
  | .core h => h.val % 32
  | .eng e => 64 + e.val % 64
  | .hub n => n
  | .absent => 0

/-- tselect and tdata1: which of a hart's four triggers are set (R553). -/
def Dev.setTrigger (d : Dev) (die : Die) (t : DbgT) (r : Nat) (v : Word) : Dev :=
  d.modMod die (fun m =>
    if r = 0x7a0 then { m with tsel := v.toNat % 4 }
    else
      let rest := m.triggers.filter (fun x => x != (t.sel, m.tsel))
      { m with triggers := if v = 0 then rest else rest ++ [(t.sel, m.tsel)] })

/-- An abstract command on a halted target. A register the model does not hold reads as a free value and a write of it
changes nothing that the model holds. -/
def abstractOn (d : Dev) (die : Die) (t : DbgT) (k : AbsCmd) : Dev :=
  let put (d : Dev) (v : Word) : Dev := d.modMod die (fun m => { m with data := v })
  let free (d : Dev) : Dev :=
    let (n, d) := d.draw
    put d (Config.freeWord n)
  match k with
  | .readReg r =>
    (match t with
     | .eng e => match d.engReg e r.toNat with | some v => put d v | none => free d
     | .core h =>
       if r = 0x015 then
         let (x, d) := d.entropy
         put d (BitVec.ofNat 64 (0x80000000 + x.toNat % 2 ^ 16))
       else match d.coreReg h r.toNat with | some v => put d v | none => free d
     | _ => free d)
  | .writeReg r v =>
    if r = 0x7a0 || r = 0x7a1 then d.setTrigger die t r.toNat v
    else (match t with
     | .eng e => match engRegPut (d.eng e) r.toNat v with | some x => d.setEng e x | none => d
     | .core h => match coreRegPut (d.core h) r.toNat v with | some c => d.setCore h c | none => d
     | _ => d)
  | .readMem a =>
    (match d.busWay false a with
     | some (2, _) => if a.toNat % 8 = 0 then d.fwThen a 8 (fun d =>
         match d.busRead a with
         | (.ok w, d) => put d w
         | (.error _, d) => d.cmdErr die 3) else d.cmdErr die 3
     | _ => d.cmdErr die 3)
  | .writeMem a v =>
    (match d.busWay true a with
     | some (2, _) => if a.toNat % 8 = 0 then d.busWrite a v else d.cmdErr die 3
     | _ => d.cmdErr die 3)

/-- ABSTRACT_COMMAND: cmderr 2 beyond the mask, 4 while the target is not halted, 5 while it is unavailable. -/
def abstractCmd (d : Dev) (die : Die) (t : DbgT) (k : AbsCmd) : Dev :=
  match d.dbgReach t with
  | (.refused, d) => d.cmdErr die 2
  | (.asleep, d) => d.cmdErr die 4
  | (.open_, d) =>
    if d.dbgAway t || !d.dbgHalted t then d.cmdErr die 4
    else if (d.dbgMod die).cmderr != 0 then d
    else abstractOn d die t k

def execAbstractCommand (t : DbgHart) (k : AbsCmd) (s : State) : Res :=
  onDev s (fun d => abstractCmd d t.die (dbgTarget t.die t.hartsel.val) k)

/-! ### DMI (RISC-V Debug 1.0) -/

/-- dmstatus of the selected hart: authenticated, version 3, and one state: nonexistent, unavailable, halted or running. -/
def Dev.dmStatus (d : Dev) (die : Die) : Nat :=
  let m := d.dbgMod die
  let t := dbgTarget die m.hartsel.toNat
  let there := d.dbgExists t && d.debugUp && d.grants t.grant
  let up := match t.dom with | some n => d.domSt n == .on || d.domSt n == .parked | none => false
  let st := if !there then 0xC000 else if !up || d.dbgAway t then 0x3000 else if d.dbgHalted t then 0x300 else 0xC00
  3 + 0x80 + st + (if m.resumeAck then 0x30000 else 0)

/-- The base address of the next module: West, East, Hub, then none (R553); the bases are the part's. -/
def nextDm : Die → Nat
  | .west => (Config.dmBase 1).toNat
  | .east => (Config.dmBase 2).toNat
  | .hub => 0

/-- sbcs: version 1, 64-bit addresses, 64-bit accesses, with sberror. -/
def sbcsWord (m : DbgMod) : Nat :=
  0x20000000 + at_ 5 64 + 8 + at_ 12 m.sberror.toNat + (m.sbcs &&& 0x1F8000#32).toNat

def dmiRead (d : Dev) (die : Die) (a : Nat) : Nat × Dev :=
  let m := d.dbgMod die
  match a with
  | 0x04 => (fld m.data.toNat 0 32, d)
  | 0x05 => (fld m.data.toNat 32 32, d)
  | 0x06 => (fld m.arg1.toNat 0 32, d)
  | 0x07 => (fld m.arg1.toNat 32 32, d)
  | 0x10 => (b2n m.active + at_ 16 (fld m.hartsel.toNat 0 10) + at_ 6 (fld m.hartsel.toNat 10 10), d)
  | 0x11 => (d.dmStatus die, d)
  | 0x16 => (4 + at_ 8 m.cmderr.toNat, d)
  | 0x1d => (nextDm die, d)
  | 0x38 => (sbcsWord m, d)
  | 0x39 => (fld m.sbaddr.toNat 0 32, d)
  | 0x3a => (fld m.sbaddr.toNat 32 32, d)
  | 0x3c =>
    let v := fld m.sbdata.toNat 0 32
    (v, if bit m.sbcs.toNat 15 then busAccess d die m.sbaddr false 0 else d)
  | 0x3d => (fld m.sbdata.toNat 32 32, d)
  | _ => (0, d)

/-- Replace one half of a word. -/
def putHalf (w : Word) (hi : Bool) (v : Nat) : Word :=
  BitVec.ofNat 64 (if hi then w.toNat % 2 ^ 32 + at_ 32 v else w.toNat / 2 ^ 32 * 2 ^ 32 + v)

/-- A write of `command`: access register or access memory. -/
def dmiCommand (d : Dev) (die : Die) (v : Nat) : Dev :=
  let m := d.dbgMod die
  let t := dbgTarget die m.hartsel.toNat
  let wr := bit v 16
  match fld v 24 8 with
  | 0 =>
    if !bit v 17 then d
    else
      let r : BitVec 16 := BitVec.ofNat 16 v
      abstractCmd d die t (if wr then .writeReg r m.data else .readReg r)
  | 2 => abstractCmd d die t (if wr then .writeMem m.arg1 m.data else .readMem m.arg1)
  | _ => d.cmdErr die 2

def dmiWrite (d : Dev) (die : Die) (a : Nat) (v : Nat) : Dev :=
  let m := d.dbgMod die
  match a with
  | 0x04 => d.modMod die (fun m => { m with data := putHalf m.data false v })
  | 0x05 => d.modMod die (fun m => { m with data := putHalf m.data true v })
  | 0x06 => d.modMod die (fun m => { m with arg1 := putHalf m.arg1 false v })
  | 0x07 => d.modMod die (fun m => { m with arg1 := putHalf m.arg1 true v })
  | 0x10 =>
    if !bit v 0 then d.modMod die (fun _ => {})
    else
      let sel := fld v 16 10 + at_ 10 (fld v 6 10)
      let d := d.modMod die (fun m => { m with active := true, hartsel := BitVec.ofNat 20 sel, resumeAck := m.resumeAck && !bit v 30 })
      let t := dbgTarget die sel
      if bit v 31 then hartHalt d t
      else if bit v 30 then hartResume d die t
      else d
  | 0x16 => d.modMod die (fun m => { m with cmderr := m.cmderr &&& ~~~(BitVec.ofNat 3 (fld v 8 3)) })
  | 0x17 => dmiCommand d die v
  | 0x38 =>
    d.modMod die (fun m => { m with sbcs := BitVec.ofNat 32 v, sberror := m.sberror &&& ~~~(BitVec.ofNat 3 (fld v 12 3)) })
  | 0x39 =>
    let d := d.modMod die (fun m => { m with sbaddr := putHalf m.sbaddr false v })
    if bit m.sbcs.toNat 20 then busAccess d die (d.dbgMod die).sbaddr false 0 else d
  | 0x3a => d.modMod die (fun m => { m with sbaddr := putHalf m.sbaddr true v })
  | 0x3c =>
    let w := putHalf m.sbdata false v
    busAccess (d.modMod die (fun m => { m with sbdata := w })) die m.sbaddr true w
  | 0x3d => d.modMod die (fun m => { m with sbdata := putHalf m.sbdata true v })
  | _ => d

/-- DMI. A module answers once its die has power; what it lets through to a hart or to memory follows the session's mask. -/
def dmi (d : Dev) (die : Die) (a : Nat) (write : Bool) (v : Nat) : Dev :=
  let d := d.tap 0x11
  if !d.debugUp then d.emit (.jtag 0)
  else if write then (dmiWrite d die a v).emit (.jtag 0)
  else
    let (x, d) := dmiRead d die a
    d.emit (.jtag x)

def execDmi (die : Die) (addr : BitVec 7) (write : Bool) (v : BitVec 32) (s : State) : Res :=
  onDev s (fun d => d.onTap (fun d => dmi d die addr.toNat write v.toNat))

end Sys2Proof.Machine
end

