-- ==== Sys2Proof/Machine/BootM.lean ====
section
/-!
DEFINITION. Start-up, recovery and firmware update (chapter 19), and the SMBus services of chapter 21.
-/
namespace Sys2Proof.Machine

/-! ### Power and PERST_N (R563 to R565) -/

/-- VIN52_RISE: steps 1 and 2, and step 4 at once where PERST_N is already released. -/
def vinRise (d : Dev) (bsel : BitVec 3) (strap : BitVec 2) : Dev :=
  if d.power.vinOk then d
  else
    let d := d.modPower (fun p => { vin := p.vin, iin := p.iin, dom := allGated })
    (d.startUp 0 bsel strap).step4

def execVin52Rise (bootSel : BitVec 3) (addrStrap : BitVec 2) (s : State) : Res := onDev s (fun d => vinRise d bootSel addrStrap)

/-- PERST_ASSERT (R564): in Working, Glowing and Banked the package is reset without a record and waits at step 3; during
start-up the sequence is abandoned. In Cold the pin alone changes. -/
def perstAssert (d : Dev) (bsel : BitVec 3) (strap : BitVec 2) : Dev :=
  let asserted (d : Dev) : Dev := d.modBoot (fun b => { b with perst := true })
  if d.boot.perst then d
  else if !d.power.vinOk || d.power.pstate = .cold || d.boot.waitPerst then asserted d
  else (asserted d.wipe).startUp 2 bsel strap

def execPerstAssert (bootSel : BitVec 3) (addrStrap : BitVec 2) (s : State) : Res := onDev s (fun d => perstAssert d bootSel addrStrap)

/-- PERST_DEASSERT: start-up goes on from step 4; EXTEST lets go of the pins (R552). In Cold this edge is COLD_EXIT. -/
def perstDeassert (d : Dev) : Dev :=
  if !d.boot.perst || (d.power.vinOk && d.power.pstate = .cold) then d
  else ((d.modBoot (fun b => { b with perst := false })).modSec (fun s => { s with driven := [] })).step4

def execPerstDeassert (s : State) : Res := onDev s perstDeassert

/-- PCIE_LINK_UP (R573): the link trains from step 4 onwards. -/
def execPcieLinkUp (s : State) : Res :=
  onDev s (fun d =>
    if d.boot.waitPerst || d.boot.perst || d.power.pstate = .cold || !d.power.vinOk then d
    else d.modHost (fun h => { h with linkUp := true }))

/-! ### Images (R544, R568 to R570) -/

/-- What a header that meets Table 19.5 says: SVN, body length and FWVER. -/
def headerOf (hd : List Byte) : Option (Nat × Nat × Nat) :=
  let n := ofLe hd
  let svn := fld n 48 8
  let blen := fld n 64 32
  let entry (e : Nat) : Bool := e % 4 == 0 && decide (e < blen)
  if hd.length = 4096 && fld n 0 32 == 0x57465852 && fld n 32 16 == 1 && decide (svn ≤ 64) && fld n 56 8 == 0 && blen % 64 == 0 &&
      within 64 50331648 blen && fld n 96 32 == 0 && entry (fld n 192 32) && entry (fld n 224 32) && fld n 256 32512 == 0
  then some (svn, blen, fld n 128 64)
  else none

/-- The digest over the image: the header and BLEN bytes of body (R569). -/
def imageDigest (img : ImageIn) : BitVec 512 := Config.shake512 (img.header ++ img.body)

/-- Whether a signature block signs a digest under a key of the given hash. -/
def sigOk (hash : BitVec 256) (dg : BitVec 512) (key sig : List Byte) : Bool :=
  Config.keyHash key == hash && Config.xmssVerify key (numBytes 64 dg.toNat) sig

/-- R570: FWVER and SVN of an acceptable image, or REASON. -/
def Dev.checkImage (d : Dev) (img : ImageIn) : Except Nat (Word × BitVec 8) :=
  if !img.readable then .error 5
  else match headerOf img.header with
    | none => .error 1
    | some (svn, blen, ver) =>
      let dg := imageDigest img
      if img.body.length ≠ blen then .error 1
      else if !sigOk Config.vendorRoot dg img.vendorKey img.vendorSig then .error 2
      else if d.sec.cosignHash != 0 && !sigOk d.sec.cosignHash dg img.cosignKey img.cosignSig then .error 3
      else if svn < d.sec.svn then .error 4
      else .ok (BitVec.ofNat 64 ver, BitVec.ofNat 8 svn)

/-- MR1: the image and, where one is provisioned, the co-signature key hash (Table 18.5). -/
def Dev.measureImage (d : Dev) (dg : BitVec 512) : Dev :=
  let d := d.measure 1 1 dg
  if d.sec.cosignHash = 0 then d else d.measure 1 2 (Config.shake512 (numBytes 32 d.sec.cosignHash.toNat))

/-- Recovery with a REASON (R570, R571): the aperture takes writes again. -/
def Dev.toRecovery (d : Dev) (reason : Nat) : Dev :=
  (d.modBoot (fun b => { b with st := .recovery, reason := reason, goSet := false, img := none })).setDom 55 .on

/-- Step 7: the control cores run the image. -/
def Dev.runImage (d : Dev) (v : Word × BitVec 8) : Dev :=
  d.modBoot (fun b => { b with st := .train, fwver := v.1, svnImage := v.2, goSet := false, img := none })

/-- IMAGE_LOAD: steps 5 to 7. The bytes that are hashed are the bytes in the West Vat. -/
def imageLoad (d : Dev) (img : ImageIn) : Dev :=
  if d.boot.st ≠ .load then d
  else
    let d := d.wr (vatOff 0) (img.header ++ img.body)
    match d.checkImage img with
    | .error n => d.toRecovery n
    | .ok v => (d.measureImage (imageDigest img)).runImage v

def execImageLoad (img : ImageIn) (s : State) : Res := onDev s (fun d => imageLoad d img)

/-! ### Recovery and update (R571, R574, R582) -/

/-- A signature block's key and signature (R569). -/
def sigBlock (d : Dev) (off : Nat) : List Byte × List Byte := (d.rd (vatOff off) 68, d.rd (vatOff (off + 68)) 18469)

/-- The delivered image, read from the West Vat as Table 19.4 lays it out. -/
def Dev.deliveredImage (d : Dev) : ImageIn :=
  let hd := d.rd (vatOff 0) 4096
  let v := sigBlock d 0x03001000
  let c := sigBlock d 0x03009000
  { readable := true, header := hd, body := d.rd (vatOff 0x1000) (min (fld (ofLe hd) 64 32) 50331648), vendorKey := v.1, vendorSig := v.2,
    cosignKey := c.1, cosignSig := c.2 }

/-- A delivered image is checked; an accepted one is programmed into SPI NOR. -/
def Dev.recover (d : Dev) (img : ImageIn) : Dev :=
  match d.checkImage img with
  | .error n => d.toRecovery n
  | .ok v =>
    let d := d.measureImage (imageDigest img)
    (d.modBoot (fun b => { b with st := .program, reason := 0, goSet := true, img := some v })).emit (.spi true)

/-- RECOVERY_GO (R571, R582). -/
def recoveryGo (d : Dev) : Dev := if d.boot.st = .recovery && d.host.linkUp then d.recover d.deliveredImage else d

def execRecoveryGo (s : State) : Res := onDev s recoveryGo

/-- VerifyComplete's and ApplyComplete's outcome over PLDM: 0 for success, REASON otherwise. -/
def Dev.pldm (d : Dev) (code : Nat) (v : Int) : Dev := d.emit (.pldm code v)

/-- PLDM_FIRMWARE_UPDATE: in recovery the image lands in the West Vat and is recovered from; in Working it is verified and then
programmed while the firmware runs (R574). -/
def pldmUpdate (d : Dev) (img : ImageIn) : Dev :=
  if d.boot.st = .recovery then
    let d := ((d.wr (vatOff 0) (img.header ++ img.body)).wr (vatOff 0x03001000) (img.vendorKey ++ img.vendorSig)).wr (vatOff 0x03009000)
      (img.cosignKey ++ img.cosignSig)
    let d := d.recover img
    d.pldm 100 d.boot.reason
  else if d.boot.st = .ready && d.power.pstate = .working && !d.boot.update then
    match d.checkImage img with
    | .error n => (d.modBoot (fun b => { b with reason := n })).pldm 100 n
    | .ok _ => (((d.modBoot (fun b => { b with update := true })).wakeDom 55).emit (.spi true)).pldm 100 0
  else d

def execPldmFirmwareUpdate (img : ImageIn) (s : State) : Res := onDev s (fun d => pldmUpdate d img)

/-- ACTIVATE_FIRMWARE: self-contained activation in recovery, deferred activation in Working; 1 accepts. -/
def activate (d : Dev) (selfContained : Bool) : Dev :=
  let rec_ := d.boot.st == .recovery || d.boot.st == .program
  let yes := if rec_ then selfContained else d.boot.st == .ready && !selfContained
  d.pldm 102 (b2n yes)

def execActivateFirmware (selfContained : Bool) (s : State) : Res := onDev s (fun d => activate d selfContained)

/-- SPI_PROGRAM_DONE: step 7 with the Vat copy, or recovery with REASON 6; an update in service just ends. -/
def spiDone (d : Dev) (ok : Bool) : Dev :=
  let b := d.boot
  let r := if ok then 0 else 6
  if b.st = .program then
    let d := if ok then (match b.img with | some v => d.runImage v | none => d.toRecovery 6) else d.toRecovery 6
    d.pldm 101 r
  else if b.update then (d.modBoot (fun b => { b with update := false, reason := if ok then b.reason else 6 })).pldm 101 r
  else d

def execSpiProgramDone (ok : Bool) (s : State) : Res := onDev s (fun d => spiDone d ok)

/-! ### Steps 8 to 12 (R386, R387, R517, R566, R575) -/

/-- READY (R575, Table 19.7). -/
def Dev.becomeReady (d : Dev) : Dev :=
  let d := d.modBoot (fun b => { b with st := .ready })
  let b := d.boot
  let n (h : Half) : Nat := popCount (Two.get d.hbm.half h).usable.toNat 6
  let a1 := n .west + at_ 3 (n .east) + at_ 6 b.ddr.toNat + at_ 14 (caveCode d.cave.st) + at_ 16 (lifeCode d.sec.life)
  d.raise (evt 18 .ok .hub (b.cause + at_ 8 b.bsel.toNat) b.fwver.toNat a1)

/-- Stacks of a half that the repair store maps out (R387). -/
def Dev.badStacks (d : Dev) (h : Half) : BitVec 6 :=
  d.faults.repairs.foldl (fun m (p : UnitId × Word) =>
    if p.1.code = 8 && p.2 = mapOut && p.1.die = dieOf h then m ||| BitVec.ofNat 6 (2 ^ fld p.1.unit.toNat 13 3) else m) 0

/-- Deferred row repairs are applied, and the units are in service again (R517). Every lane repair is applied anew (R386). -/
def Dev.applyRepairs (d : Dev) : Dev :=
  let lanes := (d.faults.repairs.filter (fun p => p.1.code == 8 && p.2 != mapOut)).map (·.1)
  (d.modHbm (fun x => { x with steered := lanes })).modFaults (fun f =>
    let row (u : UnitId) : Bool := u.code == 6 || u.code == 7
    { f with
      units := f.units.map (fun (p : UnitId × UnitRec) =>
        if row p.1 && p.2.st = .repairPending then (p.1, { p.2 with st := .inService }) else p)
      repairs := f.repairs.filter (fun p => !row p.1) })

/-- Step 8 done: the usable stacks and channels, the repairs, the never-gated domains, and a frame map with no entry. -/
def Dev.trained (d : Dev) (w e : BitVec 6) (ddr : BitVec 8) (gb : Nat) : Dev :=
  let n := popCount ddr.toNat 8
  let d := d.applyRepairs.modHbm (fun x => { x with half := ⟨{ x.half.w with usable := w }, { x.half.e with usable := e }⟩ })
  let d := d.modTiers (fun t => { t with frames := [], ddrFrames := 512 * gb * n - 512 })
  let d := (d.modBoot (fun b => { b with ddr := ddr })).modPower (fun p => { p with dom := [] })
  d.mapDoms (fun n x => if pdNever n && d.gateable n then .gated else x)

/-- Steps 9 and 10: the West Vat is cleared, and an interrupted RETURN is completed (R538). -/
def Dev.cleared (d : Dev) : Dev :=
  let d := { d with mem := cellsClear d.mem (vatOff 0) vatSize }
  if d.sec.returning then d.zeroMemory else d

/-- FAILED with its REASON (R566). -/
def Dev.startFailed (d : Dev) (n : Nat) : Dev := d.modBoot (fun b => { b with st := .failed, reason := n })

/-- MEMORY_TRAINING: steps 8 to 10. `okW`, `okE` and `ddr` are what trained, and `gb` is the capacity of every DIMM. -/
def memoryTraining (d : Dev) (okW okE : BitVec 6) (ddr : BitVec 8) (gb : Nat) : Dev :=
  let w := okW &&& ~~~(d.badStacks .west)
  let e := okE &&& ~~~(d.badStacks .east)
  if d.boot.st != .train then d
  else if popCount w.toNat 6 < 5 || popCount e.toNat 6 < 5 then d.startFailed 8
  else if popCount ddr.toNat 8 = 0 then d.startFailed 9
  else
    let d := (d.trained w e ddr gb).cleared
    if d.boot.bsel.toNat = 3 then d.becomeReady else d.modBoot (fun b => { b with st := .mount })

def execMemoryTraining (stackOkW stackOkE : BitVec 6) (ddrOk : BitVec 8) (dimmGB : Nat) (s : State) : Res :=
  onDev s (fun d => memoryTraining d stackOkW stackOkE ddrOk dimmGB)

/-- CAVE_MOUNT: steps 11 and 12. The parameter pages of the targets on each channel, the blocks bad since manufacture and the spare
blocks are what the controller finds; a population against R359 leaves the Cave ABSENT. Every logical unit is gone and the counts of
Table 11.8 start again; the wear, read and retirement tables stay (R366). -/
def caveMount (d : Dev) (pop : List (List CavePart)) (factory : List Nat) (spare : Nat) : Dev :=
  if d.boot.st ≠ .mount then d
  else
    let d := d.modCave (fun c =>
      { c with
        pop := cavePop pop, factory := factory, spare := spare, staged := [], badUnits := [], rebuilt := 0, lost := 0, rdReloc := 0
        map := [], cws := [], stripes := [], open_ := [], points := [], moving := [] })
    let d := d.loadCaveKey
    let st : CaveSt := if d.cave.pop.isNone || d.cave.channels.isEmpty then .absent else caveNow { d.cave with st := .normal }
    let d := if st = .absent then d else (d.setDom 53 .on).setDom 54 .on
    (d.setCave st).becomeReady

def execCaveMount (pop : List (List CavePart)) (factory : List Nat) (spare : Nat) (s : State) : Res :=
  onDev s (fun d => caveMount d pop factory spare)

/-! ### SMBus (R598, R601) -/

/-- PLATFORM_EVENT_READ: the bus owner takes one held message; ALERT_N is released with the last. -/
def execPlatformEventRead (s : State) : Res :=
  onDev s (fun d => if d.boot.platform = 0 then d else (d.modBoot (fun b => { b with platform := b.platform - 1 })).pldm 200 1)

/-- ALERT_N (R598): asserted while a message is held. -/
def Dev.alert (d : Dev) : Bool := d.boot.platform != 0

/-- The numeric sensors of R601, in its order. -/
def Dev.sensor (d : Dev) (k : Nat) : Int :=
  let p := d.power
  match k with
  | 0 => p.tjMax .west
  | 1 => p.tjMax .east
  | 2 => p.tjMax .hub
  | 3 => d.hbmMax
  | 4 => p.vin
  | 5 => p.iin
  | _ => p.pin

def execPldmSensorRead (sensor : Fin 7) (s : State) : Res :=
  onDev s (fun d => if d.power.vinOk then d.pldm sensor.val (d.sensor sensor.val) else d)

end Sys2Proof.Machine
end

