-- ==== Sys2Proof/Machine/RegsM.lean ====
section
/-!
DEFINITION. The set-up registers (chapter 20): what each register reads as, what a write of it does, the release of harts, and
GPIO.
-/
namespace Sys2Proof.Machine

/-! ### Reads (Tables 20.2 to 20.8) -/

/-- Number with bit i set where `f i` holds. -/
def bitsOf (n : Nat) (f : Nat → Bool) : Nat := ((List.range n).filter f).foldl (fun m i => m + 2 ^ i) 0

/-- CAP_W and CAP_E. -/
def Dev.capWord (d : Dev) (h : Half) : Nat :=
  let hart (i : Nat) : Bool := (d.unit (coreUnit (Fin.ofNat 64 (32 * halfIdx h + i)))).st == .retired
  popCount (Two.get d.hbm.half h).usable.toNat 6 + at_ 3 (Two.get d.anvil.retiredQ h).toNat + at_ 8 (Two.get d.anvil.spares h).sum +
    at_ 16 (Two.get d.faults.clusterSpare h).toNat + at_ 24 (bitsOf 32 hart) + at_ 56 (Two.get d.faults.coreSpares h)

def Dev.veRet (d : Dev) (h : Half) : Nat :=
  bitsOf 64 (fun i => (d.unit (engUnit (Fin.ofNat 128 (64 * halfIdx h + i)))).st == .retired)

def Dev.tgRet (d : Dev) (h : Half) : Nat := bitsOf 32 (fun t => (d.unit (tongsUnit h t)).st == .retired)

/-- A ring's control register (Table 20.4). -/
def ctlWord (r : RingCtl) : Nat :=
  r.log2 + at_ 8 (b2n r.en) + at_ 9 (b2n r.draining) + at_ 10 (b2n r.busy) + at_ 11 (b2n r.err)

/-- Word 0 of an aperture entry (Table 20.6). -/
def apWord (a : Aperture) : Nat :=
  b2n a.en + at_ 1 (b2n a.rd) + at_ 2 (b2n a.wr) + at_ 3 (b2n a.draining) + at_ 4 (b2n a.busy) + at_ 8 a.pd.toNat + at_ 16 a.ctx.toNat

/-- A word of a placement region's status (Table 20.7). A region is shown enabled until its REGION_DISABLE has completed (R589, log 189). -/
def regionWord (r : Option PRegion) (hi : Bool) : Nat :=
  match r with
  | none => 0
  | some x =>
    if hi then x.off / 4096 + at_ 24 (x.len / 4096 - 1)
    else 1 + at_ 1 (b2n (x.st == .on || x.st == .disabling)) + at_ 2 (b2n (x.st == .disabling)) + at_ 3 (b2n x.read) + at_ 4 (b2n x.counter.isSome) +
      at_ 8 x.ctx + at_ 20 (x.counter.getD 0)

/-- A word of an MSI-X entry (Table 20.8). -/
def msixWord (m : Msix) (hi : Bool) : Nat := if hi then m.data.toNat + at_ 32 (b2n m.mask) else m.addr.toNat

/-- The 8-byte register at an offset of the first MiB; an offset that Table 20.1 does not list reads zero (R578). -/
def Dev.regRead (d : Dev) (off : Nat) : Nat :=
  let h := d.host
  let r := d.regs
  if 0x8000 ≤ off && off < 0x8200 then
    let a := d.apt ((off - 0x8000) / 16)
    if off % 16 = 0 then apWord a else at_ 21 a.base.toNat
  else if 0x10000 ≤ off && off < 0x20000 then regionWord (tget h.regions ((off - 0x10000) / 16)) (off % 16 != 0)
  else if 0x20000 ≤ off && off < 0x28000 then msixWord (tgetD h.msix ((off - 0x20000) / 16) {}) (off % 16 != 0)
  else if 0x28000 ≤ off && off < 0x28100 then bitsOf 64 (fun i => (tgetD h.msix (8 * (off - 0x28000) + i) {}).pending)
  else if 0x5020 ≤ off && off < 0x50A0 then (tgetD r.bind ((off - 0x5020) / 8) 0).toNat
  else match off with
    | 0x0000 => 0x7264 + at_ 20 d.ownNode + at_ 28 (if d.chain.joined then d.chain.inc.toNat else 0)
    | 0x0008 => fld Config.serial.toNat 0 64
    | 0x0010 => fld Config.serial.toNat 64 64
    | 0x0018 => d.boot.fwver.toNat
    | 0x0020 => d.capWord .west
    | 0x0028 => d.capWord .east
    | 0x0030 => d.veRet .west
    | 0x0038 => d.veRet .east
    | 0x0040 => d.tgRet .west + at_ 32 (d.tgRet .east)
    | 0x0048 => d.boot.ddr.toNat + at_ 8 (caveCode d.cave.st)
    | 0x1000 =>
      (match d.boot.st with
       | .rind => 0
       | .load => 1
       | .verify => 2
       | .train => 3
       | .mount => 4
       | .ready => 5
       | .recovery => 6
       | .program => 7
       | .hold => 8
       | .badStrap => 9
       | .failed => 10) + at_ 4 d.boot.reason + at_ 8 d.boot.bsel.toNat + at_ 11 d.boot.cause
    | 0x1008 => lifeCode d.sec.life + at_ 2 d.sec.debugCode + at_ 8 d.sec.svn + at_ 16 d.boot.svnImage.toNat
    | 0x1010 => (match d.sec.session with | some s => s.priv.toNat | none => 0)
    | 0x1018 =>
      pCode d.power.pstate + at_ 2 d.power.trip + at_ 4 (b2n d.power.intOsc) + at_ 5 (b2n d.faults.pkgFault) +
        at_ 6 (b2n d.faults.contain.isSome) + at_ 7 (b2n d.chain.joined)
    | 0x1020 => d.hubCount.toNat
    | 0x1030 => h.notifyIgn
    | 0x1038 => h.placeDrop
    | 0x2000 => h.adm.base.toNat
    | 0x2008 => ctlWord h.adm
    | 0x2010 => h.admTail.toNat
    | 0x2018 => h.admHead.toNat
    | 0x3000 => h.evt.base.toNat
    | 0x3008 => ctlWord h.evt
    | 0x3010 => h.evtHead.toNat
    | 0x3018 => h.evtTail.toNat
    | 0x3020 => h.evtBind.toNat
    | 0x3028 => h.evtDrop
    | 0x4000 => bitsOf 64 (fun i => (d.core (Fin.ofNat 64 i)).run != .reset)
    | 0x4008 => at_ 12 r.rvec.w.toNat
    | 0x4010 => at_ 12 r.rvec.e.toNat
    | 0x4018 => r.hartErr.toNat
    | 0x5000 => r.gpioIn.toNat
    | 0x5008 => r.gpioOut.toNat + at_ 16 r.gpioOe.toNat
    | 0x5010 => r.rise.toNat + at_ 16 r.fall.toNat
    | 0x5018 => r.edge.toNat
    | _ => 0

/-! ### Harts (R576, R586) -/

/-- Release one hart: refused where the reset vector lies outside the UMR, and without effect on a retired or running hart. -/
def hartRelease (d : Dev) (h : Fin 64) : Dev :=
  let half := halfOf (decide (32 ≤ h.val))
  let c := d.core h
  let g := pdGroup half (h.val % 32 / 8)
  if !d.ready || !d.unitUp (coreUnit h) || c.run != .reset || c.starting then d
  else if fld (Two.get d.regs.rvec half).toNat 34 2 != 0 then
    d.modRegs (fun r => { r with hartErr := r.hartErr ||| BitVec.ofNat 64 (2 ^ h.val) })
  else if d.domSt g == .on then d.startHart h
  else (d.modCore h (fun c => { c with starting := true })).wakeDom g

def execHartRelease (h : Fin 64) (s : State) : Res := onDev s (fun d => hartRelease d h)

/-! ### GPIO (R587) -/

/-- An edge on a line: an enabled one sets EDGE and signals once, until the bit is cleared. -/
def gpioEdge (d : Dev) (n : Nat) (rising : Bool) : Dev :=
  let one := BitVec.ofNat 16 (2 ^ n)
  let d := d.modRegs (fun r => { r with gpioIn := if rising then r.gpioIn ||| one else r.gpioIn &&& ~~~one })
  let r := d.regs
  let on := bit (if rising then r.rise else r.fall).toNat n
  if on && !bit r.edge.toNat n then
    (d.modRegs (fun r => { r with edge := r.edge ||| one })).signal (tgetD r.bind n 0)
  else d

def execGpioEdge (n : Fin 16) (rising : Bool) (s : State) : Res := onDev s (fun d => gpioEdge d n.val rising)

/-- The lines that the device drives take the level it drives, and a change of level is an edge (log 75). -/
def Dev.gpioDrive (d : Dev) : Dev :=
  foldDev d (List.range 16) (fun d n =>
    let r := d.regs
    let v := bit r.gpioOut.toNat n
    if bit r.gpioOe.toNat n && v != bit r.gpioIn.toNat n then gpioEdge d n v else d)

def gpioStatClear (d : Dev) (m : BitVec 16) : Dev := d.modRegs (fun r => { r with edge := r.edge &&& ~~~m })

def execGpioStatClear (mask : BitVec 16) (s : State) : Res := onDev s (fun d => gpioStatClear d mask)

/-! ### Writes (R577 to R588) -/

/-- MSI-X: the message of a vector that was masked while pending goes out when the vector is unmasked. -/
def msixWrite (d : Dev) (v : Nat) (hi : Bool) (w : Nat) : Dev :=
  let m := tgetD d.host.msix v {}
  let m' := if hi then { m with data := BitVec.ofNat 32 w, mask := bit w 32 } else { m with addr := BitVec.ofNat 64 (w / 4 * 4) }
  let go := m'.pending && !m'.mask
  let d := d.modHost (fun h => { h with msix := tput h.msix v (if go then { m' with pending := false } else m') })
  if go then d.emit (.msix v m'.addr m'.data) else d

/-- Write a register. `w` is its whole new value, with the half that the access does not cover as it reads now; `lo` and `hi`
tell which halves the access covers. What a write does beyond storing happens with the low half. -/
def regPut (d : Dev) (off w : Nat) (lo hi : Bool) : Dev :=
  if 0x8000 ≤ off && off < 0x8200 then
    let i := (off - 0x8000) / 16
    if off % 16 = 0 then (if lo then apEntryWrite d i w else d) else apBaseWrite d i w
  else if 0x20000 ≤ off && off < 0x28000 then msixWrite d ((off - 0x20000) / 16) (off % 16 != 0) w
  else if 0x5020 ≤ off && off < 0x50A0 then
    d.modRegs (fun r => { r with bind := tput r.bind ((off - 0x5020) / 8) (BitVec.ofNat 64 (w % 2 ^ 33)) })
  else match off with
    | 0x1028 => if lo && bit w 0 then recoveryGo d else d
    | 0x2000 =>
      if d.host.adm.en || d.host.adm.draining then d
      else d.modHost (fun h => { h with adm := { h.adm with base := BitVec.ofNat 64 (fld w 6 50 * 64) } })
    | 0x2008 => if lo then admCtl d w else d
    | 0x2010 => if lo then admTail d (BitVec.ofNat 16 w) [] else d
    | 0x3000 =>
      if d.host.evt.en || d.host.evt.draining then d
      else d.modHost (fun h => { h with evt := { h.evt with base := BitVec.ofNat 64 (fld w 6 50 * 64) } })
    | 0x3008 => if lo then evtCtl d w else d
    | 0x3010 => if lo then evtHeadWrite d (BitVec.ofNat 32 w) else d
    | 0x3020 => d.modHost (fun h => { h with evtBind := BitVec.ofNat 64 (w % 2 ^ 33) })
    | 0x4000 => if lo then foldDev d (allCores.filter (fun h => bit w h.val && (hi || h.val < 32))) hartRelease else d
    | 0x4008 => d.modRegs (fun r => { r with rvec := { r.rvec with w := BitVec.ofNat 36 (fld w 12 36) } })
    | 0x4010 => d.modRegs (fun r => { r with rvec := { r.rvec with e := BitVec.ofNat 36 (fld w 12 36) } })
    | 0x4018 =>
      let m : Word := (if lo then BitVec.ofNat 64 (fld w 0 32) else 0) ||| (if hi then BitVec.ofNat 64 (at_ 32 (fld w 32 32)) else 0)
      d.modRegs (fun r => { r with hartErr := r.hartErr &&& ~~~m })
    | 0x5008 => (d.modRegs (fun r => { r with gpioOut := BitVec.ofNat 16 w, gpioOe := BitVec.ofNat 16 (w / 65536) })).gpioDrive
    | 0x5010 => d.modRegs (fun r => { r with rise := BitVec.ofNat 16 w, fall := BitVec.ofNat 16 (w / 65536) })
    | 0x5018 => if lo then gpioStatClear d (BitVec.ofNat 16 w) else d
    | _ => d

/-- A write access of 4 or 8 bytes, naturally aligned; any other is discarded (R577). -/
def regWrite (d : Dev) (off len : Nat) (v : Word) : Dev :=
  let old := d.regRead (off / 8 * 8)
  if len = 8 && off % 8 = 0 then regPut d off v.toNat true true
  else if len = 4 && off % 8 = 0 then regPut d off (v.toNat % 2 ^ 32 + old / 2 ^ 32 * 2 ^ 32) true false
  else if len = 4 && off % 8 = 4 then regPut d (off - 4) (old % 2 ^ 32 + v.toNat % 2 ^ 32 * 2 ^ 32) false true
  else d

/-- SETUP_REGISTER_WRITE: while the register block has power. -/
def execSetupRegisterWrite (off : BitVec 20) (len : Nat) (v : Word) (s : State) : Res :=
  onDev s (fun d => if d.debugUp then regWrite d off.toNat len v else d)

end Sys2Proof.Machine
end

