-- ==== Sys2Proof/Machine/AppCore.lean ====
section
/-!
DEFINITION. Accesses of application cores (chapter 9), fences, spdom, traps and timers, and the Rennet object windows of cores
and the host (R209). Addresses are physical: a core's own translation is the RISC-V specifications'.
-/
namespace Sys2Proof.Machine

/-! ### Order of a hart's accesses (R293, R294, Table 9.6) -/

/-- Stores of a hart that are not acknowledged yet. -/
def Dev.coreStoresOut (d : Dev) (h : Fin 64) : Bool :=
  d.writes.any (fun w => w.src == .core h) || d.rennetOut (.core h) (fun _ => true) || (d.core h).accs.any (fun a => a.storeAt.isSome)

/-- Loads and AMOs of a hart that are not complete yet. -/
def Dev.coreLoadsOut (d : Dev) (h : Fin 64) : Bool := (d.core h).amoRd.isSome || !(d.core h).loads.isEmpty

/-- Whether a hart waits for a store that a fault of its target would still stop precisely (R296, Table 9.3): one to another node's
Vat, or to a Rennet object. -/
def Dev.storeStalls (d : Dev) (h : Fin 64) : Bool :=
  d.rennetOut (.core h) (fun _ => true) ||
  d.writes.any (fun w => w.src == .core h && !w.done && (w.what.isSig ||
    (w.what == .mem && (match d.target true w.addr with | .remote _ off => isVat off | _ => false))))

/-- What a hart's next access is, for its barriers. -/
inductive CKind where
  | load
  | store
  | both
deriving DecidableEq, Repr

/-- Whether a hart performs its next access now: it runs, no AMO of it is out, no barrier holds the access, and nothing older can
fault any more unless the access is a load, which retires after what is older (R295). -/
def Dev.coreMay (d : Dev) (h : Fin 64) (k : CKind) : Bool :=
  let c := d.core h
  let so := d.coreStoresOut h
  !d.storeStalls h && (k == .load || !d.coreLoadsOut h) && c.run != .reset && !c.halted && c.amoRd.isNone && !(c.rdBar && d.coreLoadsOut h) && !(c.stBar && so && k != .load) &&
    !(c.ldBar && so && k != .store)

/-- Drop the barriers that have nothing left to wait for. -/
def Dev.passBars (d : Dev) (h : Fin 64) : Dev :=
  let so := d.coreStoresOut h
  let lo := d.coreLoadsOut h
  d.modCore h (fun c => { c with stBar := c.stBar && so, ldBar := c.ldBar && so, rdBar := c.rdBar && lo, run := .running })

/-- One instruction of a hart: performed when nothing holds it, and a single step ends with it (R553). -/
def Dev.onCore (d : Dev) (h : Fin 64) (k : CKind) (f : Dev → Dev) : Dev :=
  if !d.coreMay h k then d
  else (f (d.passBars h)).modCore h (fun c => { c with halted := c.halted || c.stepping, stepping := false })

/-- Set a hart's barriers. -/
def Dev.setBars (d : Dev) (h : Fin 64) (st ld rd : Bool) : Dev :=
  d.modCore h (fun c => { c with stBar := c.stBar || st, ldBar := c.ldBar || ld, rdBar := c.rdBar || rd })

/-- CORE_FENCE by Table 9.6; device input and output count with loads and stores. -/
def coreFence (d : Dev) (h : Fin 64) (pred succ : BitVec 4) (tso : Bool) : Dev :=
  let r (v : BitVec 4) : Bool := bit v.toNat 1 || bit v.toNat 3
  let w (v : BitVec 4) : Bool := bit v.toNat 0 || bit v.toNat 2
  if tso then d.setBars h true false true
  else if pred = 0 || succ = 0 then d
  else if r pred && w pred then d.setBars h true true true
  else if r pred then d.setBars h false false true
  else if r succ then d.setBars h true true true
  else d.setBars h true false false

def execCoreFence (h : Fin 64) (pred succ : BitVec 4) (tso : Bool) (s : State) : Res :=
  onDev s (fun d =>
    if (d.core h).run = .reset || (d.core h).halted then d
    else (coreFence d h pred succ tso).modCore h (fun c => { c with run := .running, halted := c.stepping, stepping := false }))

/-! ### Faults -/

def excStoreMisaligned : Nat := 6
def excLoadMisaligned : Nat := 4

/-- A precise fault of a hart. -/
def Dev.coreFault (d : Dev) (h : Fin 64) (cause : Nat) (a : Word) : Dev := d.exc h cause a

/-! ### Where a physical address leads (R287, R288) -/

/-- The core window (Table 9.4). -/
inductive Win where
  | reg (off : Nat)
  | notify (page off : Nat)
  | imsic (hart file off : Nat)
  | timer (h : Half) (off : Nat)
  | info (hart off : Nat)
  | none_
deriving DecidableEq, Repr

def winOf (o : Nat) : Win :=
  if o < 0x100000 then .reg o
  else if o < 0x200000 then .notify ((o - 0x100000) / 4096) (o % 4096)
  else if 0x1000000 ≤ o && o < 0x1040000 then .imsic ((o - 0x1000000) / 4096) 8 (o % 4096)
  else if 0x2000000 ≤ o && o < 0x2200000 then .imsic ((o - 0x2000000) / 32768) (o / 4096 % 8) (o % 4096)
  else if 0x3000000 ≤ o && o < 0x3008000 then .timer .west (o - 0x3000000)
  else if 0x3008000 ≤ o && o < 0x3010000 then .timer .east (o - 0x3008000)
  else if 0x4000000 ≤ o && o < 0x4001000 then .info ((o - 0x4000000) / 64) (o % 64)
  else .none_

/-- The region that a core's access reaches. -/
inductive CoreTo where
  | umr (a : Nat)
  | vat (v : Nat)
  | farVat (n : Nat)
  | rennet (node : Option Nat) (obj off : Nat)
  | window (w : Win)
  | fault
deriving DecidableEq, Repr

def Dev.coreTo (d : Dev) (a : Word) : CoreTo :=
  if fld a.toNat 48 8 = 0xFE then .window (winOf (fld a.toNat 0 48))
  else match d.target false a.toNat with
    | .umr off => .umr off
    | .vat off => .vat (off - vatBase)
    | .rennet o b => .rennet none o b
    | .remote n off =>
      (match localTarget off with
       | .umr o => .umr (remoteAddr n o)
       | .vat _ => .farVat n
       | .rennet o b => .rennet (some n) o b
       | _ => .fault)
    | _ => .fault

/-! ### spdom (R292) -/

def Core.pd (c : Core) : Nat := fld c.spdom.toNat 0 8
def Core.ctx (c : Core) : Nat := fld c.spdom.toNat 8 12
def Core.domEn (c : Core) : Bool := bit c.spdom.toNat 63

/-- The source of a hart's Rennet operations. -/
def Dev.coreSrc (d : Dev) (h : Fin 64) : RSrc :=
  let c := d.core h
  { node := BitVec.ofNat 8 d.ownNode, srct := 3, srcid := BitVec.ofNat 16 (h.val % 32), half := halfOf (decide (32 ≤ h.val)),
    ctx := Fin.ofNat 4096 c.ctx, pd := BitVec.ofNat 8 c.pd }

/-- SPDOM_WRITE: VS and VU raise a virtual-instruction exception, U an illegal instruction; RSVD bits read zero. -/
def spdomWrite (d : Dev) (h : Fin 64) (v : Word) : Dev :=
  match (d.core h).priv with
  | .vs => d.coreFault h 22 0
  | .vu => d.coreFault h 22 0
  | .u => d.coreFault h 2 0
  | _ => d.modCore h (fun c => { c with spdom := v &&& 0x80000000000FFFFF#64 })

def execSpdomWrite (h : Fin 64) (v : Word) (s : State) : Res :=
  onDev s (fun d => if d.coreLoadsOut h then d else d.onCore h .load (fun d => spdomWrite d h v))

/-! ### Timers and hart information (R300, Table 9.7) -/

/-- Physical index of the core that serves a hart. -/
def Dev.hartPhys (d : Dev) (h : Fin 64) : Nat := ((d.unit (coreUnit h)).phys).getD (h.val % 32)

/-- The hart information record, by 8-byte word. -/
def Dev.infoWord (d : Dev) (h : Fin 64) (i : Nat) : Nat :=
  let c := d.core h
  let half := halfOf (decide (32 ≤ h.val))
  let gated := d.domSt (pdGroup half (h.val % 32 / 8)) == .gated
  match i with
  | 0 =>
    h.val + at_ 6 (halfIdx half) + at_ 8 (d.hartPhys h) + at_ 14 (b2n c.repl) + at_ 15 (b2n ((d.unit (coreUnit h)).st == .retired)) +
      at_ 16 (b2n c.imp) + at_ 17 (b2n gated)
  | 1 => c.impAddr.toNat
  | _ => 0

/-- The timer register at an offset of a half's MTIMER: mtimecmp of that half's harts at 8 × h, and mtime. -/
def Dev.timerHart (_d : Dev) (half : Half) (off : Nat) : Option (Fin 64) :=
  let k := off / 8
  if k / 32 = halfIdx half && k < 64 then some (Fin.ofNat 64 k) else none

/-- MTIP follows the comparison. -/
def Dev.setCmp (d : Dev) (h : Fin 64) (v : Word) : Dev :=
  let now := d.halfCount (halfOf (decide (32 ≤ h.val)))
  d.modCore h (fun c => { c with mtimecmp := v, mtip := decide (v.toNat ≤ now.toNat) })

/-- MTIMER_MATCH: the interrupt is raised, and a Glowing package wakes (R497). -/
def mtimerMatch (d : Dev) (h : Fin 64) : Dev :=
  let now := d.halfCount (halfOf (decide (32 ≤ h.val)))
  if now.toNat < (d.core h).mtimecmp.toNat then d
  else glowExit (d.modCore h (fun c => { c with mtip := true }))

def execMtimerMatch (h : Fin 64) (s : State) : Res := onDev s (fun d => mtimerMatch d h)

/-! ### The core window (R287, R291) -/

/-- The part of an 8-byte word that an aligned access at `off` covers. -/
def wordPart (w off n : Nat) : Nat := fld w (8 * (off % 8)) (8 * n)

/-- A load of the core window: the value, or none for an access fault (Table 9.3, which limits the sizes for the set-up registers
alone). -/
def Dev.winLoad (d : Dev) (w : Win) (n : Nat) : Option Nat :=
  let any (off : Nat) : Bool := off % n == 0
  let ok (off : Nat) : Bool := (n == 4 || n == 8) && any off
  match w with
  | .reg off => if ok off then some (wordPart (d.regRead (off / 8 * 8)) off n) else none
  | .notify _ _ => none
  | .imsic h f off => if n = 4 && off % 4 = 0 && h < 64 && f ≤ 8 then some 0 else none
  | .timer half off =>
    if !any off then none
    else if off / 8 = 0xFFF then some (wordPart (d.halfCount half).toNat off n)
    else (d.timerHart half off).map (fun h => wordPart (d.core h).mtimecmp.toNat off n)
  | .info h off => if any off then some (wordPart (d.infoWord (Fin.ofNat 64 h) (off / 8)) off n) else none
  | .none_ => none

/-- An IMSIC file's seteipnum registers: little-endian at 0 and big-endian at 4 (PRESUMED from the AIA specification, log 9). -/
def Dev.imsicWrite (d : Dev) (h f off v : Nat) : Dev :=
  let be := fld v 0 8 * 2 ^ 24 + fld v 8 8 * 2 ^ 16 + fld v 16 8 * 2 ^ 8 + fld v 24 8
  let i := if off = 0 then v else if off = 4 then be else 0
  if i = 0 || 2048 ≤ i then d
  else d.modCore (Fin.ofNat 64 h) (fun c => { c with imsic := if c.imsic.contains (f, i) then c.imsic else c.imsic ++ [(f, i)] })

/-- A store to the core window: the package after it, or none for an access fault. -/
def Dev.winStore (d : Dev) (w : Win) (n v : Nat) : Option Dev :=
  let any (off : Nat) : Bool := off % n == 0
  let ok (off : Nat) : Bool := (n == 4 || n == 8) && any off
  let merge (old off : Nat) : Nat := setFld old (8 * (off % 8)) (8 * n) v
  match w with
  | .reg off => if ok off then some (regWrite d off n (BitVec.ofNat 64 v)) else none
  | .notify page off => if any off then some (notify d page off n (BitVec.ofNat 64 v)) else none
  | .imsic h f off => if n = 4 && off % 4 = 0 && h < 64 && f ≤ 8 then some (d.imsicWrite h f off v) else none
  | .timer half off =>
    if !any off then none
    else if off / 8 = 0xFFF then some d
    else (d.timerHart half off).map (fun h => d.setCmp h (BitVec.ofNat 64 (merge (d.core h).mtimecmp.toNat off)))
  | .info h off =>
    if !any off then none
    else
      let m := if off / 8 = 0 then at_ (8 * (off % 8)) v else 0
      some (d.modCore (Fin.ofNat 64 h) (fun c => { c with repl := c.repl && !bit m 14, imp := c.imp && !bit m 16 }))
  | .none_ => none

/-! ### Rennet object windows (R209, Table 6.4) -/

/-- A load by a core: it waits for the hart's earlier operations on the object (R206); another node answers with `ext`. -/
def coreWinLoad (d : Dev) (h : Fin 64) (rd : Fin 32) (a : Word) (node : Option Nat) (obj off : Nat) (ext : List Byte) : Dev :=
  let c := d.core h
  if !c.domEn || off % 8 ≠ 0 then d.loadExc h 5 a
  else if d.opsOut (.core h) obj then d
  else match node with
    | some n =>
      if !d.live n then d.loadExc h 5 a
      else if !d.reach n then d
      else (match extAnswer ext 8 with
        | .ok bs => d.loadVal h rd (BitVec.ofNat 64 (ofLe bs))
        | .error st => d.loadExc h (if st = .poison then excHardware else 5) a)
    | none => match d.winRead obj off c.pd with
      | .ok v => d.loadVal h rd (BitVec.ofNat 64 v)
      | .error .poison => d.loadExc h excHardware a
      | .error _ => d.loadExc h 5 a

/-- A store by a core: a signal with release semantics at PACKAGE scope, which leaves once the release has completed. -/
def coreWinStore (d : Dev) (h : Fin 64) (a : Word) (node : Option Nat) (obj off : Nat) (v : Word) : Dev :=
  let c := d.core h
  if !c.domEn || off ≠ 0 then d.coreFault h 7 a
  else match node with
    | some n =>
      if d.live n then d.issueSig (.core h) (d.coreSrc h) (some n) obj v
      else d.lostStore (.core h) none none n a.toNat 8 false
    | none => if d.objOpen obj c.pd then d.issueSig (.core h) (d.coreSrc h) none obj v else d.coreFault h 7 a

/-- AMOADD.D by a core: XRADD, which on a barrier is refused as an access fault (log 176), performed once the hart's earlier stores are acknowledged; another node answers over the Chain. -/
def coreWinAdd (d : Dev) (h : Fin 64) (rd : Fin 32) (a : Word) (node : Option Nat) (obj off : Nat) (v : BitVec 32) : Dev :=
  let c := d.core h
  let src := d.coreSrc h
  if !c.domEn || off ≠ 0 then d.coreFault h 7 a
  else if d.sigHolds (.core h) (d.target false a.toNat) then d
  else match node with
    | some n =>
      if !d.live n then d.coreFault h 7 a
      else
        let (tag, d) := d.newTag
        let d := d.modChain (fun x => { x with coreReqs := x.coreReqs ++ [⟨tag, h, n⟩] })
        let d := d.modCore h (fun c => { c with amoRd := some (rd, a.toNat) })
        d.chainSend n 6 (.core h) src.ctx.val src.pd.toNat tag 16 (.rennetAdd (Fin.ofNat 131072 obj) v)
    | none =>
      match d.bankAdd src obj v with
      | .ok (old, d) => d.modCore h (fun c => c.wx rd old)
      | .error st => d.coreFault h (if st = .poison then excHardware else 7) a

/-- Whether an address is one of a Rennet object, of this node or of another. -/
def Dev.rennetRange (d : Dev) (a : Word) : Bool :=
  match d.target false a.toNat with
  | .rennet _ _ => true
  | .remote _ off => (match localTarget off with | .rennet _ _ => true | _ => false)
  | _ => false

/-- RENNET_WINDOW_LOAD: by a core, or by the host through an aperture. -/
def windowLoad (d : Dev) (u : WinUser) (a : Word) (ext : List Byte) : Dev :=
  match u with
  | .core h rd =>
    (match d.coreTo a with
     | .rennet node obj off => d.onCore h .load (fun d => coreWinLoad d h rd a node obj off ext)
     | _ => d)
  | .aperture i =>
    let ap := d.apt i.val
    if d.rennetRange a && ap.addr (d.apOffset i a.toNat) = a.toNat then apRead d (2 ^ 28 * i.val + d.apOffset i a.toNat) 8 ext else d

def execRennetWindowLoad (u : WinUser) (a : FarLoad) (s : State) : Res := onDev s (fun d => windowLoad d u a.addr a.ext)

/-- RENNET_WINDOW_STORE. -/
def windowStore (d : Dev) (u : WinUser) (a v : Word) : Dev :=
  match u with
  | .core h _ =>
    (match d.coreTo a with
     | .rennet node obj off => d.onCore h .store (fun d => coreWinStore d h a node obj off v)
     | _ => d)
  | .aperture i =>
    let ap := d.apt i.val
    if d.rennetRange a && ap.addr (d.apOffset i a.toNat) = a.toNat then apWrite d (2 ^ 28 * i.val + d.apOffset i a.toNat) (leBytes 8 v.toNat)
    else d

def execRennetWindowStore (u : WinUser) (addr : Word) (v : Word) (s : State) : Res := onDev s (fun d => windowStore d u addr v)

/-- RENNET_WINDOW_AMOADD. -/
def windowAdd (d : Dev) (h : Fin 64) (rd : Fin 32) (a : Word) (v : BitVec 32) : Dev :=
  match d.coreTo a with
  | .rennet node obj off => d.onCore h .both (fun d => coreWinAdd d h rd a node obj off v)
  | _ => d

def execRennetWindowAmoadd (h : Fin 64) (rd : Fin 32) (addr : Word) (v : BitVec 32) (s : State) : Res :=
  onDev s (fun d => windowAdd d h rd addr v)

/-! ### Loads and stores (R288 to R290, R296, R297) -/

/-- A load that is performed at once: its value, for a fetch none. -/
def Dev.loaded (d : Dev) (h : Fin 64) (fetch : Bool) (rd : Fin 32) (n : Nat) (sg : Bool) (v : Nat) : Dev :=
  if fetch then d.loadVal h 0 0 else d.loadVal h rd (if sg then sext (8 * n) v else BitVec.ofNat 64 (v % 2 ^ (8 * n)))

/-- A read that another node answers: loaded, or a fault by the status that it gives in place of the bytes. -/
def Dev.loadedFar (d : Dev) (h : Fin 64) (fetch : Bool) (rd : Fin 32) (n : Nat) (sg : Bool) (a : Word) (ext : List Byte) : Dev :=
  match extAnswer ext n with
  | .ok bs => d.loaded h fetch rd n sg (ofLe (d.overlay (.core h) a.toNat bs))
  | .error st => d.loadExc h (if st = .poison then excHardware else if fetch then 1 else 5) a

/-- Whether an IO access of a hart is not performed yet, for the order among the hart's IO accesses (R290). -/
def Dev.ioOut (d : Dev) (h : Fin 64) (ty : Pbmt) : Bool :=
  ty == .io && (d.writes.any (fun w => w.src == .core h && w.io && !w.done) || (d.core h).onces.any (fun o => o.io))

/-- Issue an uncached store of a hart (R290); an IO store is marked for the accesses that come after it. -/
def Dev.ioWrite (d : Dev) (h : Fin 64) (a : Nat) (bs : List Byte) (ty : Pbmt) : Dev :=
  let n := d.writes.length
  let d := d.issueWrites (.core h) a bs none
  { d with writes := d.writes.take n ++ (d.writes.drop n).map (fun w => { w with io := ty == .io }) }

/-- An uncached load of UMR leaves as RdOnce (R290); its Data gives the value. -/
def coreUncached (d : Dev) (h : Fin 64) (fetch : Bool) (rd : Fin 32) (ma : Nat) (w : Fin 4) (sg : Bool) (ty : Pbmt) : Dev :=
  let (n, d) := d.newLoad h (if fetch then 0 else rd)
  let o : COnce := { seq := n, addr := ma, wLog := w, signed := sg, fetch := fetch, io := ty == .io }
  (d.modCore h (fun c => { c with onces := c.onces ++ [o] })).coreAsk h .rdOnce (ma / 64)

/-- A cached load of UMR. -/
def coreCached (d : Dev) (h : Fin 64) (fetch : Bool) (rd : Fin 32) (ma : Nat) (w : Fin 4) (sg : Bool) : Dev :=
  let (n, d) := d.newLoad h (if fetch then 0 else rd)
  d.coreTry h (.load ma w sg fetch n)

/-- CORE_LOAD, by the attributes of the region (Table 9.3). `ext` is what another node's Vat or object answers. -/
def coreLoad (d : Dev) (h : Fin 64) (fetch : Bool) (rd : Fin 32) (a : Word) (w : Fin 4) (sg : Bool) (ty : Pbmt) (ext : List Byte) : Dev :=
  let n := 2 ^ w.val
  let cause := if fetch then 1 else 5
  match d.coreTo a with
  | .umr ma =>
    if !(match maNode ma with | some nd => d.live nd | none => true) then d.loadExc h cause a
    else if ty = .pma then coreCached d h fetch rd ma w sg
    else if d.ioOut h ty then d
    else coreUncached d h fetch rd ma w sg ty
  | .vat v =>
    if a.toNat % n ≠ 0 then d.loadExc h (if fetch then 0 else excLoadMisaligned) a
    else if (d.core h).domEn && d.vatOpen (d.core h).ctx v n then
      let d := d.surface v n
      d.loaded h fetch rd n sg (ofLe (d.overlay (.core h) (ownAddr (vatOff v)) (d.rd (vatOff v) n)))
    else d.loadExc h cause a
  | .farVat nd =>
    if a.toNat % n ≠ 0 then d.loadExc h (if fetch then 0 else excLoadMisaligned) a
    else if (d.core h).domEn && d.live nd then (if d.reach nd then d.loadedFar h fetch rd n sg a ext else d)
    else d.loadExc h cause a
  | .rennet node obj off =>
    if fetch || n ≠ 8 then d.loadExc h cause a else coreWinLoad d h rd a node obj off ext
  | .window x =>
    if fetch then d.loadExc h cause a
    else (match d.winLoad x n with
      | some v => d.loaded h fetch rd n sg v
      | none => d.loadExc h cause a)
  | .fault => d.loadExc h cause a

def execCoreLoad (h : Fin 64) (fetch : Bool) (rd : Fin 32) (addr : Word) (wLog : Fin 4) (signed : Bool) (ty : Pbmt)
    (ext : List Byte) (s : State) : Res :=
  onDev s (fun d => d.onCore h .load (fun d => coreLoad d h fetch rd addr wLog signed ty ext))

/-- The stores of a hart that its store buffer holds: not in a line of its caches yet. -/
def Dev.bufStores (d : Dev) (h : Fin 64) : List (Nat × Nat) :=
  let one (a : CAcc) : List (Nat × Nat) := match a with | .store x bs => [(x, bs.length)] | _ => []
  (d.writes.filter (fun w => w.src == .core h)).flatMap (fun w => match w.what with | .cached a => one a | _ => []) ++
    (d.core h).accs.flatMap one

/-- The 8-byte words that a list of stores touches, each once: the entries they take in a store buffer. -/
def bufWords (l : List (Nat × Nat)) : List Nat :=
  (l.flatMap (fun p => [p.1 / 8, (p.1 + p.2 - 1) / 8])).eraseDups

/-- Whether a store finds no room in the hart's store buffer of 32 entries of up to 8 bytes (Table 9.2). -/
def Dev.bufFull (d : Dev) (h : Fin 64) (acc : CAcc) : Bool :=
  match acc with
  | .store a bs => decide (32 < (bufWords ((a, bs.length) :: d.bufStores h)).length) && !(d.bufStores h).isEmpty
  | _ => false

/-- A store of a hart through its caches is performed in program order with the others to its destination (R222): it waits at
the core for those that are not performed. -/
def Dev.coreOut (d : Dev) (h : Fin 64) (a : Nat) (bs : List Byte) (acc : CAcc) : Dev :=
  let t := d.target true a
  let p := d.pathOf (.core h) t false
  if d.bufFull h acc then d
  else if d.mustHold (.core h) 0 p t false false then
    { d with writes := d.writes ++ [{ src := .core h, addr := canonAddr t a, bytes := bs, path := p, held := true, what := .cached acc }] }
  else d.coreTry h acc

/-- Whether an access of a hart that has its effect at once must wait for the hart's earlier stores (R222). -/
def Dev.coreBehind (d : Dev) (h : Fin 64) (a : Word) : Bool :=
  let t := d.target true a.toNat
  d.mustHold (.core h) 0 (d.pathOf (.core h) t false) t false false

/-- CORE_STORE of 1, 2, 4 or 8 bytes. -/
def coreStore (d : Dev) (h : Fin 64) (a : Word) (bs : List Byte) (ty : Pbmt) : Dev :=
  let n := bs.length
  match d.coreTo a with
  | .umr ma =>
    (match maNode ma with
     | some nd =>
       if !d.live nd then d.lostStore (.core h) none none nd a.toNat n false
       else if ty = .pma then d.coreOut h a.toNat bs (.store ma bs)
       else if d.ioOut h ty then d
       else d.ioWrite h a.toNat bs ty
     | none =>
       if ty = .pma then d.coreOut h a.toNat bs (.store ma bs)
       else if !d.backed ma then d.unbackedStore h a
       else if d.ioOut h ty then d
       else d.ioWrite h a.toNat bs ty)
  | .vat v =>
    if a.toNat % n ≠ 0 then d.coreFault h excStoreMisaligned a
    else if (d.core h).domEn && d.vatOpen (d.core h).ctx v n then
      (if d.coreBehind h a then d else d.issueWrites (.core h) a.toNat bs none)
    else d.coreFault h 7 a
  | .farVat nd =>
    if a.toNat % n ≠ 0 then d.coreFault h excStoreMisaligned a
    else if !(d.core h).domEn then d.coreFault h 7 a
    else if d.live nd then d.issueWrites (.core h) a.toNat bs none
    else d.lostStore (.core h) none none nd a.toNat n false
  | .rennet node obj off =>
    if n ≠ 8 then d.coreFault h 7 a else coreWinStore d h a node obj off (BitVec.ofNat 64 (ofLe bs))
  | .window x =>
    (match d.winStore x n (ofLe bs) with
     | some d => d
     | none => d.coreFault h 7 a)
  | .fault => d.coreFault h 7 a

def execCoreStore (h : Fin 64) (addr : Word) (bytes : List Byte) (ty : Pbmt) (s : State) : Res :=
  onDev s (fun d =>
    let n := bytes.length
    if n = 1 || n = 2 || n = 4 || n = 8 then d.onCore h .store (fun d => coreStore d h addr bytes ty) else d)

/-! ### AMO, LR and SC (R226, R273, R275) -/

/-- `rl` waits for the hart's earlier stores and loads; `aq` holds what follows until this has completed. -/
def Dev.ordered_ (d : Dev) (h : Fin 64) (aq rl : Bool) (f : Dev → Dev) : Dev :=
  if rl && (d.coreStoresOut h || d.coreLoadsOut h) then d
  else
    let d := f d
    if aq then d.setBars h false false true else d

/-- CORE_AMO: at the home of a UMR line, at the bank of a Vat, or AMOADD.D on an object. A misaligned one to UMR is performed
(Table 9.3); one that crosses a line, in the core with both lines held alone (log 180). -/
def coreAmo (d : Dev) (h : Fin 64) (op : AmoOp) (rd : Fin 32) (a v : Word) (dbl : Bool) : Dev :=
  let n := if dbl then 8 else 4
  let mis := decide (a.toNat % n ≠ 0)
  match d.coreTo a with
  | .umr ma =>
    let live := match maNode ma with | some nd => d.live nd | none => true
    if !live then d.coreFault h 7 a
    else if d.coreBehind h a then d
    else
      let d := d.modCore h (fun c => { c with amoRd := some (rd, a.toNat) })
      if ma % 64 + n ≤ 64 then d.send { kind := .atomic, who := .core h, addr := ma, atom := .amo op v dbl }
      else d.coreTry h (.amo op ma v dbl)
  | .vat x =>
    if mis then d.coreFault h excStoreMisaligned a
    else if (d.core h).domEn && d.vatOpen (d.core h).ctx x n then
      if d.coreBehind h a then d
      else
      let (old, d) := d.vatAmo x op n v.toNat
      d.modCore h (fun c => c.wx rd (sext (8 * n) old))
    else d.coreFault h 7 a
  | .farVat nd =>
    if mis then d.coreFault h excStoreMisaligned a
    else if !(d.core h).domEn || !d.live nd then d.coreFault h 7 a
    else if d.coreBehind h a then d
    else
      let (tag, d) := d.newTag
      let d := d.modChain (fun x => { x with coreReqs := x.coreReqs ++ [⟨tag, h, nd⟩] })
      let d := d.modCore h (fun c => { c with amoRd := some (rd, a.toNat) })
      d.chainSend nd 0 (.core h) (d.core h).ctx (d.core h).pd tag 16
        (.coherence { kind := .atomic, who := .node (Fin.ofNat 64 d.chain.node), addr := fld a.toNat 0 48, atom := .amo op v dbl })
  | .rennet node obj off =>
    if op = .add && dbl then coreWinAdd d h rd a node obj off (BitVec.ofNat 32 v.toNat) else d.coreFault h 7 a
  | _ => d.coreFault h 7 a

def execCoreAmo (h : Fin 64) (op : AmoOp) (rd : Fin 32) (addr : Word) (v : Word) (dbl aq rl : Bool) (s : State) : Res :=
  onDev s (fun d => d.onCore h .both (fun d => d.ordered_ h aq rl (fun d => coreAmo d h op rd addr v dbl)))

/-- CORE_LR: UMR only. It gives an earlier reservation up (R275). -/
def coreLr (d : Dev) (h : Fin 64) (rd : Fin 32) (a : Word) (dbl : Bool) : Dev :=
  match d.coreTo a with
  | .umr ma =>
    let live := match maNode ma with | some nd => d.live nd | none => true
    if a.toNat % (if dbl then 8 else 4) ≠ 0 then d.loadExc h excLoadMisaligned a
    else if !live then d.loadExc h 5 a
    else
      let (n, d) := d.newLoad h rd
      (d.modCore h (fun c => { c with resv := none })).coreTry h (.lr ma dbl n)
  | _ => d.loadExc h 5 a

def execCoreLr (h : Fin 64) (rd : Fin 32) (addr : Word) (dbl aq rl : Bool) (s : State) : Res :=
  onDev s (fun d => d.onCore h .load (fun d => d.ordered_ h aq rl (fun d => coreLr d h rd addr dbl)))

/-- CORE_SC: it succeeds while the reservation holds, in the core's cache; either way the reservation is gone. -/
def coreSc (d : Dev) (h : Fin 64) (rd : Fin 32) (a v : Word) (dbl : Bool) : Dev :=
  let n := if dbl then 8 else 4
  match d.coreTo a with
  | .umr ma =>
    let live := match maNode ma with | some nd => d.live nd | none => true
    if a.toNat % n ≠ 0 then d.coreFault h excStoreMisaligned a
    else if !live then d.coreFault h 7 a
    else if d.coreBehind h a then d
    else
      let ok := (d.core h).resv == some (ma / 128) && (d.core h).lineReady true (ma / 64)
      let d := if ok then d.perform h (.store ma (leBytes n v.toNat)) else d
      d.modCore h (fun c => { (c.wx rd (if ok then 0 else 1)) with resv := none, resvHold := none })
  | _ => d.coreFault h 7 a

def execCoreSc (h : Fin 64) (rd : Fin 32) (addr : Word) (v : Word) (dbl aq rl : Bool) (s : State) : Res :=
  onDev s (fun d => d.onCore h .store (fun d => d.ordered_ h aq rl (fun d => coreSc d h rd addr v dbl)))

/-! ### The other rows -/

/-- CBO_ZERO: a whole line of zeros in a line held alone (R279). -/
def cboZero (d : Dev) (h : Fin 64) (a : Word) : Dev :=
  match d.coreTo a with
  | .umr ma =>
    let live := match maNode ma with | some nd => d.live nd | none => true
    if live then d.coreOut h (a.toNat / 64 * 64) zeroLine (.zero (ma / 64 * 64)) else d.lostStore (.core h) none none ((maNode ma).getD 0) a.toNat 64 false
  | _ => d.coreFault h 7 a

def execCboZero (h : Fin 64) (addr : Word) (s : State) : Res := onDev s (fun d => d.onCore h .store (fun d => cboZero d h addr))

/-- SFENCE_VMA: only the executing core's own translations, which the block does not hold (R326). -/
def execSfenceVma (h : Fin 64) (s : State) : Res := onDev s (fun d => d.onCore h .load (fun d => d))

/-- CORE_TRAP: older stores stay where they are and drain, and younger accesses are discarded (R295). An AMO in progress ends first. -/
def execCoreTrap (h : Fin 64) (interrupt : Bool) (cause : BitVec 6) (tval : Word) (toS : Bool) (s : State) : Res :=
  onDev s (fun d =>
    if (d.core h).run = .reset || (d.core h).halted || (d.core h).amoRd.isSome then d else d.trap h interrupt cause.toNat tval toS)

/-- UNBACKED_STORE_REPORT (R296). -/
def execUnbackedStoreReport (h : Fin 64) (addr : Word) (s : State) : Res :=
  onDev s (fun d => if (d.core h).run = .reset then d else d.unbackedStore h addr)

end Sys2Proof.Machine
end

