-- ==== Sys2Proof/Machine/EngFloat.lean ====
section
/-!
DEFINITION. The scalar arithmetic of the standard extensions that R113 names (PRESUMED from the RISC-V standard, log 9):
integer, multiplication and division, and IEEE floating point with its rounding modes and flags.
-/
namespace Sys2Proof.Machine

/-! ### Integer operations -/

/-- A register-register integer operation: funct7 and funct3 of OP. -/
def aluOp (f7 f3 : Nat) (a b : Word) : Option Word :=
  let sa := a.toInt
  let sb := b.toInt
  let sh := b.toNat % 64
  match f7, f3 with
  | 0, 0 => some (a + b)
  | 0x20, 0 => some (a - b)
  | 0, 1 => some (a <<< sh)
  | 0, 2 => some (if sa < sb then 1 else 0)
  | 0, 3 => some (if a.toNat < b.toNat then 1 else 0)
  | 0, 4 => some (a ^^^ b)
  | 0, 5 => some (a >>> sh)
  | 0x20, 5 => some (a.sshiftRight sh)
  | 0, 6 => some (a ||| b)
  | 0, 7 => some (a &&& b)
  | 1, 0 => some (a * b)
  | 1, 1 => some (BitVec.ofInt 64 (sa * sb / 2 ^ 64))
  | 1, 2 => some (BitVec.ofInt 64 (sa * b.toNat / 2 ^ 64))
  | 1, 3 => some (BitVec.ofNat 64 (a.toNat * b.toNat / 2 ^ 64))
  | 1, 4 => some (if b = 0 then -1 else BitVec.ofInt 64 (sa.tdiv sb))
  | 1, 5 => some (if b = 0 then -1 else BitVec.ofNat 64 (a.toNat / b.toNat))
  | 1, 6 => some (if b = 0 then a else BitVec.ofInt 64 (sa.tmod sb))
  | 1, 7 => some (if b = 0 then a else BitVec.ofNat 64 (a.toNat % b.toNat))
  | _, _ => none

/-- The 32-bit operations of OP-32, sign-extended. -/
def aluOp32 (f7 f3 : Nat) (a b : Word) : Option Word :=
  let sa := signed 32 (a.toNat % 2 ^ 32)
  let sb := signed 32 (b.toNat % 2 ^ 32)
  let ua : Nat := a.toNat % 2 ^ 32
  let ub : Nat := b.toNat % 2 ^ 32
  let sh := b.toNat % 32
  let out (i : Int) : Option Word := some (sext 32 (i % 2 ^ 32).toNat)
  match f7, f3 with
  | 0, 0 => out (sa + sb)
  | 0x20, 0 => out (sa - sb)
  | 0, 1 => out (ua * 2 ^ sh)
  | 0, 5 => out (ua / 2 ^ sh : Nat)
  | 0x20, 5 => out (sa / (2 ^ sh : Nat))
  | 1, 0 => out (sa * sb)
  | 1, 4 => out (if sb = 0 then -1 else sa.tdiv sb)
  | 1, 5 => out (if ub = 0 then -1 else ((ua / ub : Nat) : Int))
  | 1, 6 => out (if sb = 0 then sa else sa.tmod sb)
  | 1, 7 => out (if ub = 0 then sa else ((ua % ub : Nat) : Int))
  | _, _ => none

/-! ### IEEE rounding in the five modes -/

/-- Whether a rounding mode takes the larger magnitude; mode 5 is the vector extension's rounding to odd. -/
def rmUp (rm : Nat) (neg odd : Bool) (rem den : Nat) : Bool :=
  match rm with
  | 0 => decide (den < 2 * rem) || (2 * rem == den && odd)
  | 1 => false
  | 2 => neg && rem != 0
  | 3 => !neg && rem != 0
  | 5 => !odd && rem != 0
  | _ => decide (den ≤ 2 * rem)

/-- Significand of ±(num ÷ den) × 2^e rounded at 2^u, and whether that was inexact. -/
def rmAt (rm : Nat) (neg : Bool) (num den : Nat) (e u : Int) : Nat × Bool :=
  let n := num * 2 ^ (e - u).toNat
  let dn := den * 2 ^ (u - e).toNat
  let k := n / dn
  let r := n % dn
  (if rmUp rm neg (k % 2 == 1) r dn then k + 1 else k, r != 0)

/-- Round to an IEEE grid: the bits and the flags OF, UF and NX. -/
def rmRound (g : Grid) (rm : Nat) (neg : Bool) (num den : Nat) (e : Int) : Nat × Nat :=
  if num = 0 then (g.signBit neg, 0)
  else
    let lg := log2Q num den + e
    let u := max lg g.emin - g.mb
    let (k, nx) := rmAt rm neg num den e u
    if g.exceeds k 1 u then
      let toInf := match rm with | 0 => true | 1 => false | 2 => neg | 3 => !neg | 5 => false | _ => true
      let (tm, te) := g.top
      (if toInf then g.infBits neg else g.signBit neg + g.encMag tm te, 5)
    else
      let (k2, _) := rmAt rm neg num den e (lg - g.mb)
      let tiny := decide (lg < g.emin) && decide (k2 < 2 ^ (g.mb + (g.emin - lg).toNat))
      (g.signBit neg + g.encMag k u, b2n nx + 2 * b2n (nx && tiny))

/-- A result number as bits with its flags; NaN is canonical (Table 4.1, RISC-V). -/
def rmNum (g : Grid) (rm : Nat) : Num → Nat × Nat
  | .nan => (g.canonNan, 0)
  | .inf s => (g.infBits s, 0)
  | .fin s m e => rmRound g rm s m 1 e

def fGrid (fmt : Nat) : Option Grid :=
  match fmt with
  | 0 => some fp32
  | 1 => some fp64
  | 2 => some fp16
  | _ => none

def Grid.width (g : Grid) : Nat := 1 + g.eb + g.mb

/-- The encoding that a float register holds for a format: canonical NaN when it is not NaN-boxed. -/
def unbox (g : Grid) (v : Word) : Nat :=
  if g.width = 64 then v.toNat
  else if v.toNat / 2 ^ g.width = 2 ^ (64 - g.width) - 1 then v.toNat % 2 ^ g.width
  else g.canonNan

def box (g : Grid) (b : Nat) : Word := nanBox (g.width / 8) b

def isSnan (g : Grid) (b : Nat) : Bool := (g.val b).isNan && !bit b (g.mb - 1)

def Num.isNeg : Num → Bool
  | .nan => false
  | .inf s => s
  | .fin s _ _ => s

/-- Exact sum with the sign of zero that the mode gives. -/
def addRm (rm : Nat) (a b : Num) : Num :=
  let r := a.add b
  match r with
  | .fin _ 0 e => if a.isNeg == b.isNeg then .fin a.isNeg 0 e else .fin (rm == 2) 0 e
  | r => r

/-- A quotient as bits with flags. -/
def divRm (g : Grid) (rm : Nat) (a b : Num) : Nat × Nat :=
  match a, b with
  | .fin s m e, .fin t n f =>
    if n = 0 then (if m = 0 then (g.canonNan, 16) else (g.infBits (s != t), 8))
    else rmRound g rm (s != t) m n (e - f)
  | _, _ => rmNum g rm (g.divRne a b)

/-- A square root: enough bits for any format, and a sticky bit. -/
def sqrtRm (g : Grid) (rm : Nat) (a : Num) : Nat × Nat :=
  match a with
  | .nan => (g.canonNan, 0)
  | .inf s => if s then (g.canonNan, 16) else (g.infBits false, 0)
  | .fin s m e =>
    if m = 0 then (g.signBit s, 0)
    else if s then (g.canonNan, 16)
    else
      let odd := b2n (e % 2 != 0)
      let n := m * 2 ^ (140 + odd)
      let r := Nat.sqrt n
      rmRound g rm false (2 * r + b2n (r * r != n)) 1 ((e - odd) / 2 - 71)

/-- NV from operands: a signalling NaN, or a NaN that arises from numbers. -/
def nvOf (g : Grid) (ins : List Nat) (res : Nat) : Nat :=
  if ins.any (isSnan g) || ((g.val res).isNan && !ins.any (fun b => (g.val b).isNan)) then 16 else 0

def fAdd (g : Grid) (rm a b : Nat) : Nat × Nat :=
  let (r, f) := rmNum g rm (addRm rm (g.val a) (g.val b))
  (r, f + nvOf g [a, b] r)

def negBits (g : Grid) (b : Nat) : Nat := Nat.xor b (2 ^ (g.width - 1))

def fSub (g : Grid) (rm a b : Nat) : Nat × Nat :=
  let (r, f) := rmNum g rm (addRm rm (g.val a) (g.val b).neg)
  (r, f + nvOf g [a, b] r)

def fMul (g : Grid) (rm a b : Nat) : Nat × Nat :=
  let (r, f) := rmNum g rm ((g.val a).mul (g.val b))
  (r, f + nvOf g [a, b] r)

def fDiv (g : Grid) (rm a b : Nat) : Nat × Nat :=
  let (r, f) := divRm g rm (g.val a) (g.val b)
  (r, Nat.lor f (nvOf g [a, b] r))

def fSqrt (g : Grid) (rm a : Nat) : Nat × Nat :=
  let (r, f) := sqrtRm g rm (g.val a)
  (r, Nat.lor f (nvOf g [a] r))

/-- a × b + c, rounded once. -/
def fFma (g : Grid) (rm a b c : Nat) : Nat × Nat :=
  let p := (g.val a).mul (g.val b)
  let (r, f) := rmNum g rm (addRm rm p (g.val c))
  let nv := [a, b, c].any (isSnan g) || (p.isNan && !(g.val a).isNan && !(g.val b).isNan) ||
    ((g.val r).isNan && !p.isNan && !(g.val c).isNan)
  (r, f + 16 * b2n nv)

def fMinMax (g : Grid) (mx : Bool) (a b : Nat) : Nat × Nat :=
  let x := g.val a
  let y := g.val b
  let less := x.lt y || (x.isZero && y.isZero && x.isNeg && !y.isNeg)
  let r := if x.isNan && y.isNan then g.canonNan else if x.isNan then b else if y.isNan then a
    else if less then (if mx then b else a) else if mx then a else b
  (r, 16 * b2n ([a, b].any (isSnan g)))

def fSgnj (g : Grid) (kind a b : Nat) : Nat :=
  let top := 2 ^ (g.width - 1)
  let s := b / top
  let s := match kind with | 0 => s | 1 => 1 - s | _ => Nat.xor (a / top) s
  a % top + top * s

/-- Order of two encodings as numbers: zeros are equal whatever their signs; none when either is NaN. -/
def fOrd (g : Grid) (a b : Nat) : Option Ordering :=
  let x := g.val a
  let y := g.val b
  if x.isNan || y.isNan then none
  else if x.isZero && y.isZero then some .eq
  else some (if x.lt y then .lt else if y.lt x then .gt else .eq)

/-- FEQ, which signals on a signalling NaN alone, and FLT and FLE, which signal on any. -/
def fEq (g : Grid) (a b : Nat) : Bool × Nat := (fOrd g a b == some .eq, 16 * b2n ([a, b].any (isSnan g)))
def fLt (g : Grid) (a b : Nat) : Bool × Nat := (fOrd g a b == some .lt, 16 * b2n (fOrd g a b).isNone)
def fLe (g : Grid) (a b : Nat) : Bool × Nat :=
  (fOrd g a b == some .lt || fOrd g a b == some .eq, 16 * b2n (fOrd g a b).isNone)

/-- FLE, FLT and FEQ: the result and its flags. -/
def fCmp (g : Grid) (kind a b : Nat) : Option (Bool × Nat) :=
  match kind with
  | 0 => some (fLe g a b)
  | 1 => some (fLt g a b)
  | 2 => some (fEq g a b)
  | _ => none

def fClass (g : Grid) (b : Nat) : Nat :=
  match g.val b with
  | .nan => if isSnan g b then 2 ^ 8 else 2 ^ 9
  | .inf s => if s then 1 else 2 ^ 7
  | .fin s m _ =>
    let sub := m != 0 && fld b g.mb g.eb == 0
    if m = 0 then (if s then 2 ^ 3 else 2 ^ 4)
    else if sub then (if s then 2 ^ 2 else 2 ^ 5)
    else if s then 2 else 2 ^ 6

/-- A float to an integer of `w` bits, saturating (NV) or rounded (NX). -/
def fToInt (g : Grid) (rm : Nat) (sg : Bool) (w b : Nat) : Word × Nat :=
  let lo : Int := if sg then -(2 ^ (w - 1) : Nat) else 0
  let hi : Int := if sg then (2 ^ (w - 1) : Nat) - 1 else (2 ^ w : Nat) - 1
  let out (i : Int) : Word := if w = 64 then BitVec.ofInt 64 i else sext 32 (i % 2 ^ 32).toNat
  match g.val b with
  | .nan => (out hi, 16)
  | .inf s => (out (if s then lo else hi), 16)
  | .fin s m e =>
    let (k, nx) := rmAt rm s m 1 e 0
    let i : Int := if s then -(k : Int) else k
    if i < lo then (out lo, 16) else if hi < i then (out hi, 16) else (out i, b2n nx)

def fOfInt (g : Grid) (rm : Nat) (i : Int) : Nat × Nat := rmRound g rm (decide (i < 0)) i.natAbs 1 0

/-- A conversion between formats. -/
def fConv (src dst : Grid) (rm b : Nat) : Nat × Nat :=
  let (r, f) := rmNum dst rm (src.val b)
  (r, f + 16 * b2n (isSnan src b))

/-- What an OP-FP instruction writes. -/
inductive FOut where
  | f (v : Word) (flags : Nat)
  | x (v : Word) (flags : Nat)
deriving DecidableEq, Repr

def intOfFmt (n : Nat) (v : Word) : Int :=
  match n with
  | 0 => signed 32 (v.toNat % 2 ^ 32)
  | 1 => ((v.toNat % 2 ^ 32 : Nat) : Int)
  | 2 => v.toInt
  | _ => (v.toNat : Int)

/-- OP-FP by funct5, format, rs2 field and funct3: `a`, `b` the float registers, `xa` the integer one, `rm` resolved. -/
def fpOp (f5 fmt r2 f3 rm : Nat) (a b xa : Word) : Option FOut :=
  match fGrid fmt with
  | none => none
  | some g =>
    let u := unbox g a
    let v := unbox g b
    let out (p : Nat × Nat) : Option FOut := some (.f (box g p.1) p.2)
    let rmOk := decide (rm ≤ 4)
    let rounded (p : Nat × Nat) : Option FOut := if rmOk then out p else none
    match f5 with
    | 0 => rounded (fAdd g rm u v)
    | 1 => rounded (fSub g rm u v)
    | 2 => rounded (fMul g rm u v)
    | 3 => rounded (fDiv g rm u v)
    | 11 => if r2 = 0 then rounded (fSqrt g rm u) else none
    | 4 => if f3 ≤ 2 then out (fSgnj g f3 u v, 0) else none
    | 5 => if f3 ≤ 1 then out (fMinMax g (f3 == 1) u v) else none
    | 8 =>
      (match fGrid r2 with
       | some s => if r2 = fmt then none else rounded (fConv s g rm (unbox s a))
       | none => none)
    | 20 => (fCmp g f3 u v).map (fun p => .x (if p.1 then 1 else 0) p.2)
    | 24 =>
      if r2 ≤ 3 && rmOk then
        let p := fToInt g rm (r2 % 2 == 0) (if r2 ≤ 1 then 32 else 64) u
        some (.x p.1 p.2)
      else none
    | 26 => if r2 ≤ 3 then rounded (fOfInt g rm (intOfFmt r2 xa)) else none
    | 28 =>
      if r2 ≠ 0 then none
      else if f3 = 0 then some (.x (sext g.width (a.toNat % 2 ^ g.width)) 0)
      else if f3 = 1 then some (.x (BitVec.ofNat 64 (fClass g u)) 0)
      else none
    | 30 => if r2 = 0 && f3 = 0 then some (.f (box g (xa.toNat % 2 ^ g.width)) 0) else none
    | _ => none

end Sys2Proof.Machine
end

