-- ==== Sys2Proof/Machine/EngVec.lean ====
section
/-!
DEFINITION. The vector extension on an engine: vtype (R118), the instructions of OP-V with the groups that each reads and
writes, and the encodings that the extension reserves, which are illegal (R115). Encodings, groups and reserved forms follow
the RISC-V standard (PRESUMED, log 9).
-/
namespace Sys2Proof.Machine

/-- Whether the engine supports a vtype (R118): SEW 8 to 64 and every LMUL that ELEN 64 permits. -/
def vtypeOk (v : Nat) : Bool :=
  let m8 := vlmul8 (BitVec.ofNat 64 v)
  let sew := 8 * vsewBytes (BitVec.ofNat 64 v)
  decide (v < 256) && m8 != 0 && decide (sew ≤ 64) && decide (sew ≤ 8 * m8)

def vlmax (v : Nat) : Nat := vlmul8 (BitVec.ofNat 64 v) * 32 / vsewBytes (BitVec.ofNat 64 v)

/-- Set vtype and vl for an application length; an unsupported vtype sets vill. -/
def Engine.vset (x : Engine) (v : Nat) (avl : Option Nat) : Engine :=
  if vtypeOk v then
    { x with vtype := BitVec.ofNat 64 v, vl := min (avl.getD x.vl) (vlmax v), vstart := 0 }
  else { x with vtype := 0x8000000000000000, vl := 0, vstart := 0 }

/-- vsetvli, vsetivli and vsetvl; illegal with a nonzero vstart (Table 4.1). -/
def Engine.vconfig (x : Engine) (w rd rs1 rs2 : Nat) : Option Engine :=
  let r1 : Fin 32 := Fin.ofNat 32 rs1
  let rdF : Fin 32 := Fin.ofNat 32 rd
  let avl : Option Nat := if rs1 ≠ 0 then some (x.rx r1).toNat else if rd ≠ 0 then some (2 ^ 64 - 1) else none
  let ok := x.vstart = 0
  let fin (x : Engine) : Option Engine := if ok then some (x.wx rdF (BitVec.ofNat 64 x.vl)) else none
  if !bit w 31 then fin (x.vset (fld w 20 11) avl)
  else if fld w 30 2 = 3 then fin (x.vset (fld w 20 10) (some rs1))
  else if fld w 25 7 = 0x40 then fin (x.vset (x.rx (Fin.ofNat 32 rs2)).toNat avl)
  else none

/-! ### Vector arithmetic instructions -/

/-- What a vector instruction writes. -/
inductive VDst where
  | same
  | wide
  | narrow
  | mask
  | scalar
  | wideScalar
  | xreg
  | freg
  | whole
deriving DecidableEq, Repr

/-- Shape of an OPIVV, OPIVX or OPIVI instruction; `k` is 0, 4 or 3. -/
def shapeI (f6 k : Nat) : Option VDst :=
  let vv := decide (k = 0)
  let vi := decide (k = 3)
  if f6 = 0 || f6 = 9 || f6 = 10 || f6 = 11 || f6 = 12 || f6 = 16 || f6 = 23 || f6 = 32 || f6 = 33 || f6 = 37 ||
     f6 = 40 || f6 = 41 || f6 = 42 || f6 = 43 then some .same
  else if (f6 = 2 || (4 ≤ f6 && f6 ≤ 7) || f6 = 18 || f6 = 34 || f6 = 35) && !vi then some .same
  else if f6 = 3 && !vv then some .same
  else if f6 = 14 then some .same
  else if f6 = 15 && !vv then some .same
  else if f6 = 17 || f6 = 24 || f6 = 25 || f6 = 28 || f6 = 29 then some .mask
  else if (f6 = 19 || f6 = 26 || f6 = 27) && !vi then some .mask
  else if (f6 = 30 || f6 = 31) && !vv then some .mask
  else if f6 = 39 then some (if vi then .whole else .same)
  else if 44 ≤ f6 && f6 ≤ 47 then some .narrow
  else if (f6 = 48 || f6 = 49) && vv then some .wideScalar
  else none

/-- Shape of an OPMVV or OPMVX instruction. -/
def shapeM (f6 vs2 vs1 : Nat) (vv : Bool) : Option VDst :=
  if f6 ≤ 7 then (if vv then some .scalar else none)
  else if 8 ≤ f6 && f6 ≤ 11 then some .same
  else if f6 = 14 || f6 = 15 then (if vv then none else some .same)
  else if f6 = 16 then
    (if vv then (if vs1 = 0 || vs1 = 16 || vs1 = 17 then some .xreg else none) else if vs2 = 0 then some .scalar else none)
  else if f6 = 18 then (if vv && 2 ≤ vs1 && vs1 ≤ 7 then some .same else none)
  else if f6 = 20 then
    (if !vv then none else if vs1 = 1 || vs1 = 2 || vs1 = 3 then some .mask
     else if vs1 = 16 || (vs1 = 17 && vs2 = 0) then some .same else none)
  else if f6 = 23 then (if vv then some .same else none)
  else if 24 ≤ f6 && f6 ≤ 31 then (if vv then some .mask else none)
  else if (32 ≤ f6 && f6 ≤ 39) || f6 = 41 || f6 = 43 || f6 = 45 || f6 = 47 then some .same
  else if (48 ≤ f6 && f6 ≤ 61 && f6 ≠ 57) || f6 = 63 then some .wide
  else if f6 = 62 then (if vv then none else some .wide)
  else none

/-- Shape of an OPFVV or OPFVF instruction. -/
def shapeF (f6 vs2 vs1 : Nat) (vv : Bool) : Option VDst :=
  if f6 = 0 || f6 = 2 || f6 = 4 || f6 = 6 || f6 = 8 || f6 = 9 || f6 = 10 || f6 = 32 || f6 = 36 then some .same
  else if f6 = 1 || f6 = 3 || f6 = 5 || f6 = 7 then (if vv then some .scalar else none)
  else if f6 = 14 || f6 = 15 || f6 = 33 || f6 = 39 || f6 = 23 then (if vv then none else some .same)
  else if f6 = 16 then
    (if vv then (if vs1 = 0 then some .freg else none) else if vs2 = 0 then some .scalar else none)
  else if f6 = 18 then
    (if !vv then none else if vs1 ≤ 3 || vs1 = 6 || vs1 = 7 then some .same
     else if 8 ≤ vs1 && vs1 ≤ 15 then some .wide
     else if (16 ≤ vs1 && vs1 ≤ 23) || vs1 = 29 then some .narrow else none)
  else if f6 = 19 then (if vv && (vs1 = 0 || vs1 = 4 || vs1 = 5 || vs1 = 16) then some .same else none)
  else if f6 = 24 || f6 = 25 || f6 = 27 || f6 = 28 then some .mask
  else if f6 = 29 || f6 = 31 then (if vv then none else some .mask)
  else if 40 ≤ f6 && f6 ≤ 47 then some .same
  else if f6 = 48 || f6 = 50 || f6 = 52 || f6 = 54 || f6 = 56 || (60 ≤ f6 && f6 ≤ 63) then some .wide
  else if f6 = 49 || f6 = 51 then (if vv then some .wideScalar else none)
  else none

/-- A decoded vector arithmetic instruction. -/
structure VArith where
  f6 : Nat
  f3 : Nat
  vm : Bool
  vd : Nat
  vs2 : Nat
  vs1 : Nat
deriving DecidableEq, Repr

def vaOf (w : Nat) : VArith := ⟨fld w 26 6, fld w 12 3, bit w 25, fld w 7 5, fld w 20 5, fld w 15 5⟩

def VArith.vv (i : VArith) : Bool := i.f3 == 0 || i.f3 == 1 || i.f3 == 2
def VArith.isF (i : VArith) : Bool := i.f3 == 1 || i.f3 == 5
def VArith.isM (i : VArith) : Bool := i.f3 == 2 || i.f3 == 6
def VArith.isI (i : VArith) : Bool := !i.isF && !i.isM

def VArith.shape (i : VArith) : Option VDst :=
  if i.isF then shapeF i.f6 i.vs2 i.vs1 i.vv
  else if i.isM then shapeM i.f6 i.vs2 i.vs1 i.vv
  else shapeI i.f6 i.f3

/-- vmerge and vfmerge, whose unmasked forms are vmv.v and vfmv.v. -/
def VArith.isMerge (i : VArith) : Bool := i.f6 == 23 && !i.isM
/-- vadc, vsbc. -/
def VArith.isCarry (i : VArith) : Bool := i.isI && (i.f6 == 16 || i.f6 == 18)
/-- vmadc, vmsbc. -/
def VArith.isCarryOut (i : VArith) : Bool := i.isI && (i.f6 == 17 || i.f6 == 19)
/-- Mask logic: vmand and its kin. -/
def VArith.isMaskOp (i : VArith) : Bool := i.isM && decide (24 ≤ i.f6) && decide (i.f6 ≤ 31)
/-- vrgather, vrgatherei16, vslideup, vslide1up, vcompress, viota, vmsbf, vmsif, vmsof: no source under the destination. -/
def VArith.noOverlap (i : VArith) : Bool :=
  (i.isI && (i.f6 == 12 || i.f6 == 14)) || (!i.isI && i.f6 == 14) || (i.isM && (i.f6 == 23 || (i.f6 == 20 && i.vs1 != 17)))
/-- Multiply-adds read their destination. -/
def VArith.readsVd (i : VArith) : Bool :=
  (i.isM && (i.f6 == 41 || i.f6 == 43 || i.f6 == 45 || i.f6 == 47 || decide (60 ≤ i.f6))) ||
  (i.isF && (decide (40 ≤ i.f6 ∧ i.f6 ≤ 47) || decide (60 ≤ i.f6)))
/-- Forms whose first source is already wide: vwadd.w and its kin, and every narrowing. -/
def VArith.wideSrc (i : VArith) (s : VDst) : Bool :=
  s == .narrow || (s == .wide && !i.isI && decide (52 ≤ i.f6) && decide (i.f6 ≤ 55))

/-- A register group: first register, element bits (1 for a mask) and size in eighths of a register. -/
structure VGrp where
  r : Nat
  ew : Nat
  m8 : Nat
deriving DecidableEq, Repr

def VGrp.n (g : VGrp) : Nat := regsOf g.m8
def VGrp.overlaps (a b : VGrp) : Bool := decide (a.r < b.r + b.n) && decide (b.r < a.r + a.n)

/-- The destination as a group; none for a scalar destination. -/
def VArith.dstGrp (i : VArith) (x : Engine) (s : VDst) : Option VGrp :=
  let w := 8 * vsewBytes x.vtype
  let m := vlmul8 x.vtype
  match s with
  | .same => some ⟨i.vd, w, m⟩
  | .narrow => some ⟨i.vd, w, m⟩
  | .wide => some ⟨i.vd, 2 * w, 2 * m⟩
  | .mask => some ⟨i.vd, 1, 8⟩
  | _ => none

/-- The width ratio of vzext and vsext. -/
def extRatio (vs1 : Nat) : Nat := if vs1 ≤ 3 then 8 else if vs1 ≤ 5 then 4 else 2

/-- The groups that an instruction reads. -/
def VArith.srcGrps (i : VArith) (x : Engine) (s : VDst) : List VGrp :=
  let w := 8 * vsewBytes x.vtype
  let m := vlmul8 x.vtype
  let red := s == .wideScalar || (s == .scalar && i.f6 != 16)
  let v2 : List VGrp :=
    if i.isMaskOp || (i.isM && i.f6 == 20 && i.vs1 != 17) || (s == .xreg && i.vs1 != 0) then [⟨i.vs2, 1, 8⟩]
    else if i.isM && i.f6 == 20 then []
    else if s == .xreg || s == .freg then [⟨i.vs2, w, 8⟩]
    else if s == .scalar && i.f6 == 16 then []
    else if i.isMerge && i.vm then []
    else if i.isM && i.f6 == 18 then [⟨i.vs2, w / extRatio i.vs1, m / extRatio i.vs1⟩]
    else if i.wideSrc s then [⟨i.vs2, 2 * w, 2 * m⟩]
    else [⟨i.vs2, w, m⟩]
  let v1 : List VGrp :=
    if !i.vv || (i.isF && (i.f6 == 16 || i.f6 == 18 || i.f6 == 19)) || (i.isM && (i.f6 == 16 || i.f6 == 18 || i.f6 == 20)) then []
    else if i.isMaskOp || (i.isM && i.f6 == 23) then [⟨i.vs1, 1, 8⟩]
    else if red then [⟨i.vs1, if s == .wideScalar then 2 * w else w, 8⟩]
    else if i.isI && i.f6 == 14 then [⟨i.vs1, 16, 16 * m / w⟩]
    else [⟨i.vs1, w, m⟩]
  let vd : List VGrp := if i.readsVd then (i.dstGrp x s).toList else []
  let v0 : List VGrp := if !i.vm then [⟨0, 1, 8⟩] else []
  v2 ++ v1 ++ vd ++ v0

/-- Whether a source group may lie under a destination group: equal widths; a narrower destination over the lowest part of the
source; a wider one whose highest part is the source. -/
def overlapOk (d s : VGrp) : Bool :=
  !d.overlaps s || d.ew == s.ew || (decide (d.ew < s.ew) && d.r == s.r) ||
  (decide (s.ew < d.ew) && decide (8 ≤ s.m8) && s.r + s.n == d.r + d.n)

/-- Element widths for which a floating instruction exists. -/
def VArith.fpOk (i : VArith) (w : Nat) (s : VDst) : Bool :=
  let std := w == 16 || w == 32 || w == 64
  let half := w == 16 || w == 32
  if !i.isF then true
  else match s with
    | .wide =>
      if i.f6 = 18 then
        (if i.vs1 = 10 || i.vs1 = 11 then w == 8 || half else if i.vs1 = 13 then w == 16 else half)
      else half
    | .narrow =>
      if i.vs1 = 18 || i.vs1 = 19 || i.vs1 = 20 || i.vs1 = 21 then half
      else if i.vs1 = 29 then w == 16
      else w == 8 || half
    | .wideScalar => half
    | _ => std

/-- Whether the mask bit is one that the instruction's encoding allows. -/
def VArith.vmOk (i : VArith) (s : VDst) : Bool :=
  if i.isCarry then !i.vm
  else if i.isMaskOp || (i.isM && i.f6 == 23) || s == .freg || s == .whole || (s == .xreg && i.vs1 == 0) ||
    (s == .scalar && i.f6 == 16) then i.vm
  else if i.isMerge && i.vm then i.vs2 == 0
  else true

/-- Whole-register moves: 1, 2, 4 or 8 registers, aligned. -/
def VArith.wholeBad (i : VArith) : Bool :=
  !(i.vs1 == 0 || i.vs1 == 1 || i.vs1 == 3 || i.vs1 == 7) || i.vd % (i.vs1 + 1) != 0 || i.vs2 % (i.vs1 + 1) != 0

/-- Reserved forms: vill; a nonzero vstart (Table 4.1); a rounding mode that does not exist; a width, a group size, an
alignment or an overlap that the extension reserves; a register read with two element widths; a masked destination in v0. -/
def VArith.bad (i : VArith) (x : Engine) (s : VDst) : Bool :=
  let w := 8 * vsewBytes x.vtype
  let srcs := i.srcGrps x s
  let dst := i.dstGrp x s
  let gs := dst.toList ++ srcs
  let overV0 := s == .same || s == .wide || s == .narrow || (i.isM && i.f6 == 20)
  vill x.vtype || x.vstart != 0 || !i.vmOk s || !i.fpOk w s || (i.isF && decide (4 < x.frm.toNat)) ||
  (s == .whole && i.wholeBad) ||
  (s != .whole && (
    gs.any (fun g => g.m8 == 0 || decide (64 < g.m8) || decide (64 < g.ew) || (g.ew != 1 && decide (g.ew < 8)) ||
      g.r % g.n != 0 || decide (32 < g.r + g.n)) ||
    (s == .wideScalar && decide (32 < w)) ||
    srcs.any (fun a => srcs.any (fun b => a.ew != b.ew && a.overlaps b)) ||
    (!i.vm && overV0 && i.vd == 0) ||
    (match dst with
     | some d => srcs.any (fun g => if i.noOverlap then d.overlaps g else !overlapOk d g)
     | none => false)))

end Sys2Proof.Machine
end

