-- ==== Sys2Proof/Machine/EngVArith.lean ====
section
/-!
DEFINITION. The results of the vector extension's arithmetic on an engine, element by element: integer, fixed-point, floating
and mask instructions, reductions, permutations and moves. Results follow the RISC-V standard (PRESUMED, log 9); the order of
an unordered floating reduction is free (Table 4.1, log 11).
-/
namespace Sys2Proof.Machine

/-- An element's result: its bits, the float flags it raises and whether it saturated. -/
structure VR where
  v : Nat
  fl : Nat := 0
  sat : Bool := false
deriving DecidableEq, Repr

/-- The low `w` bits of an integer. -/
def lowBits (w : Nat) (i : Int) : Nat := (i % (2 ^ w : Nat)).toNat

/-- Fixed-point rounding of v ÷ 2^d under vxrm. -/
def roundoff (rm : Nat) (v : Int) (d : Nat) : Int :=
  let q := v / (2 ^ d : Nat)
  let r := (v % (2 ^ d : Nat)).toNat
  let odd := decide (q % 2 = 1)
  let up := match rm with
    | 0 => d != 0 && decide (2 ^ d ≤ 2 * r)
    | 1 => decide (2 ^ d < 2 * r) || (d != 0 && 2 * r == 2 ^ d && odd)
    | 2 => false
    | _ => r != 0 && !odd
  if up then q + 1 else q

/-- Saturate into `w` bits, signed or unsigned. -/
def satTo (sg : Bool) (w : Nat) (v : Int) : VR :=
  let (lo, hi) := intRange sg w
  let (c, s) := clampInt lo hi v
  { v := lowBits w c, sat := s }

/-- OPI element results of `w` bits: vs2 element `a`, second operand `b`; `rm` is vxrm. -/
def vIntI (rm f6 w a b : Nat) : VR :=
  let m : Nat := 2 ^ w
  let sa := signed w a
  let sb := signed w b
  let sh := b % w
  match f6 with
  | 0 => { v := (a + b) % m }
  | 2 => { v := (a + m - b) % m }
  | 3 => { v := (b + m - a) % m }
  | 4 => { v := min a b }
  | 5 => { v := if sa ≤ sb then a else b }
  | 6 => { v := max a b }
  | 7 => { v := if sa ≤ sb then b else a }
  | 9 => { v := Nat.land a b }
  | 10 => { v := Nat.lor a b }
  | 11 => { v := Nat.xor a b }
  | 32 => satTo false w ((a : Int) + b)
  | 33 => satTo true w (sa + sb)
  | 34 => satTo false w ((a : Int) - b)
  | 35 => satTo true w (sa - sb)
  | 37 => { v := a * 2 ^ sh % m }
  | 39 => satTo true w (roundoff rm (sa * sb) (w - 1))
  | 40 => { v := a / 2 ^ sh }
  | 41 => { v := lowBits w (sa / (2 ^ sh : Nat)) }
  | 42 => { v := lowBits w (roundoff rm a sh) }
  | _ => { v := lowBits w (roundoff rm sa sh) }

/-- Narrowing shifts and clips of a 2w-bit element `a` by `b`. -/
def vNarrowI (rm f6 w a b : Nat) : VR :=
  let sh := b % (2 * w)
  let sa := signed (2 * w) a
  match f6 with
  | 44 => { v := a / 2 ^ sh % 2 ^ w }
  | 45 => { v := lowBits w (sa / (2 ^ sh : Nat)) }
  | 46 => satTo false w (roundoff rm a sh)
  | _ => satTo true w (roundoff rm sa sh)

/-- Integer compares. -/
def vCmpI (f6 w a b : Nat) : Bool :=
  let sa := signed w a
  let sb := signed w b
  match f6 with
  | 24 => a == b
  | 25 => a != b
  | 26 => decide (a < b)
  | 27 => decide (sa < sb)
  | 28 => decide (a ≤ b)
  | 29 => decide (sa ≤ sb)
  | 30 => decide (b < a)
  | _ => decide (sb < sa)

/-- OPM element results of the same width: `c` is the old destination. -/
def vIntM (rm f6 w a b c : Nat) : VR :=
  let m : Nat := 2 ^ w
  let sa := signed w a
  let sb := signed w b
  match f6 with
  | 8 => { v := lowBits w (roundoff rm ((a : Int) + b) 1) }
  | 9 => { v := lowBits w (roundoff rm (sa + sb) 1) }
  | 10 => { v := lowBits w (roundoff rm ((a : Int) - b) 1) }
  | 11 => { v := lowBits w (roundoff rm (sa - sb) 1) }
  | 32 => { v := if b = 0 then m - 1 else a / b }
  | 33 => { v := if b = 0 then m - 1 else lowBits w (sa.tdiv sb) }
  | 34 => { v := if b = 0 then a else a % b }
  | 35 => { v := if b = 0 then a else lowBits w (sa.tmod sb) }
  | 36 => { v := a * b / m }
  | 37 => { v := a * b % m }
  | 38 => { v := lowBits w (sa * b / (m : Int)) }
  | 39 => { v := lowBits w (sa * sb / (m : Int)) }
  | 41 => { v := (b * c + a) % m }
  | 43 => { v := lowBits w ((a : Int) - b * c) }
  | 45 => { v := (b * a + c) % m }
  | _ => { v := lowBits w ((c : Int) - b * a) }

/-- Widening integer results of 2w bits: `a` is w bits wide, or 2w for the .w forms. -/
def vWideM (f6 w a b c : Nat) : VR :=
  let sa := signed w a
  let sb := signed w b
  let out (i : Int) : VR := { v := lowBits (2 * w) i }
  match f6 with
  | 48 => out ((a : Int) + b)
  | 49 => out (sa + sb)
  | 50 => out ((a : Int) - b)
  | 51 => out (sa - sb)
  | 52 => out ((a : Int) + b)
  | 53 => out (signed (2 * w) a + sb)
  | 54 => out ((a : Int) - b)
  | 55 => out (signed (2 * w) a - sb)
  | 56 => out ((a : Int) * b)
  | 58 => out (sa * b)
  | 59 => out (sa * sb)
  | 60 => out ((a : Int) * b + c)
  | 61 => out (sa * sb + c)
  | 62 => out (sa * b + c)
  | _ => out ((a : Int) * sb + c)

def vGrid (w : Nat) : Grid :=
  match w with
  | 16 => fp16
  | 32 => fp32
  | _ => fp64

/-- Floating element results. -/
def vFlt (g : Grid) (rm f6 a b c : Nat) : VR :=
  let out (p : Nat × Nat) : VR := { v := p.1, fl := p.2 }
  match f6 with
  | 0 => out (fAdd g rm a b)
  | 2 => out (fSub g rm a b)
  | 4 => out (fMinMax g false a b)
  | 6 => out (fMinMax g true a b)
  | 8 => { v := fSgnj g 0 a b }
  | 9 => { v := fSgnj g 1 a b }
  | 10 => { v := fSgnj g 2 a b }
  | 32 => out (fDiv g rm a b)
  | 33 => out (fDiv g rm b a)
  | 36 => out (fMul g rm a b)
  | 39 => out (fSub g rm b a)
  | 40 => out (fFma g rm b c a)
  | 41 => out (fFma g rm (negBits g b) c (negBits g a))
  | 42 => out (fFma g rm b c (negBits g a))
  | 43 => out (fFma g rm (negBits g b) c a)
  | 44 => out (fFma g rm b a c)
  | 45 => out (fFma g rm (negBits g b) a (negBits g c))
  | 46 => out (fFma g rm b a (negBits g c))
  | _ => out (fFma g rm (negBits g b) a c)

/-- Widening floating results in the wide format `h`: the operands enter it exactly. -/
def vFltWide (g h : Grid) (rm f6 a b c : Nat) : VR :=
  let out (p : Nat × Nat) (nv : Bool) : VR := { v := p.1, fl := Nat.lor p.2 (16 * b2n nv) }
  let up (n : Nat) : Nat := (fConv g h 0 n).1
  let wide := 52 ≤ f6 && f6 ≤ 55
  let p := if wide then a else up a
  let q := up b
  let nv := isSnan g b || (!wide && isSnan g a)
  match f6 with
  | 48 => out (fAdd h rm p q) nv
  | 50 => out (fSub h rm p q) nv
  | 52 => out (fAdd h rm p q) nv
  | 54 => out (fSub h rm p q) nv
  | 56 => out (fMul h rm p q) nv
  | 60 => out (fFma h rm q p c) nv
  | 61 => out (fFma h rm (negBits h q) p (negBits h c)) nv
  | 62 => out (fFma h rm q p (negBits h c)) nv
  | _ => out (fFma h rm (negBits h q) p c) nv

/-- A float to an integer of `w` bits, saturating (NV) or rounded (NX). -/
def fToBits (g : Grid) (rm : Nat) (sg : Bool) (w b : Nat) : VR :=
  let (lo, hi) := intRange sg w
  let out (i : Int) (fl : Nat) : VR := { v := lowBits w i, fl := fl }
  match g.val b with
  | .nan => out hi 16
  | .inf s => out (if s then lo else hi) 16
  | .fin s m e =>
    let (k, nx) := rmAt rm s m 1 e 0
    let i : Int := if s then -(k : Int) else k
    if i < lo then out lo 16 else if hi < i then out hi 16 else out i (b2n nx)

/-- An integer of `w` bits to a float. -/
def fOfBits (g : Grid) (rm : Nat) (sg : Bool) (w b : Nat) : VR :=
  let p := fOfInt g rm (if sg then signed w b else (b : Int))
  { v := p.1, fl := p.2 }

/-- Conversions of VFUNARY0 by vs1, from an element of `ws` bits to one of `wd`. -/
def vConv (rm vs1 ws wd a : Nat) : VR :=
  let out (p : Nat × Nat) : VR := { v := p.1, fl := p.2 }
  match vs1 % 8, decide (vs1 = 13), decide (vs1 = 29) with
  | _, true, _ => out (fConv bf16 fp32 rm a)
  | _, _, true => out (fConv fp32 bf16 rm a)
  | 0, _, _ => fToBits (vGrid ws) rm false wd a
  | 1, _, _ => fToBits (vGrid ws) rm true wd a
  | 2, _, _ => fOfBits (vGrid wd) rm false ws a
  | 3, _, _ => fOfBits (vGrid wd) rm true ws a
  | 4, _, _ => out (fConv (vGrid ws) (vGrid wd) rm a)
  | 5, _, _ => out (fConv (vGrid ws) (vGrid wd) 5 a)
  | 6, _, _ => fToBits (vGrid ws) 1 false wd a
  | _, _, _ => fToBits (vGrid ws) 1 true wd a

/-- A table entry of the 7-bit reciprocal: the nearest to 2^16 ÷ (257 + 2i), less 128. -/
def rec7Tab (i : Nat) : Nat := (2 * 65536 / (257 + 2 * i) + 1) / 2 - 128
/-- A table entry of the 7-bit reciprocal square root, by the exponent's low bit and six bits of significand: the nearest to
256 ÷ √x, less 128. -/
def rsqrt7Tab (i : Nat) : Nat :=
  let den := (129 + 2 * (i % 64)) * (if i < 64 then 2 else 1)
  (Nat.sqrt (4 * (65536 * 128) / den) + 1) / 2 - 128

/-- Exponent field and fraction of a nonzero finite value, normalised: a subnormal has an exponent of zero or below. -/
def normalised (g : Grid) (b : Nat) : Int × Nat :=
  let e := fld b g.mb g.eb
  let f := fld b 0 g.mb
  if e ≠ 0 then ((e : Int), f)
  else
    let lz := g.mb - 1 - Nat.log2 f
    (-(lz : Int), f * 2 ^ (lz + 1) % 2 ^ g.mb)

/-- vfrsqrt7. -/
def fRsqrt7 (g : Grid) (b : Nat) : VR :=
  match g.val b with
  | .nan => { v := g.canonNan, fl := 16 * b2n (isSnan g b) }
  | .inf s => if s then { v := g.canonNan, fl := 16 } else { v := 0 }
  | .fin s m _ =>
    if m = 0 then { v := g.infBits s, fl := 8 }
    else if s then { v := g.canonNan, fl := 16 }
    else
      let (e, f) := normalised g b
      let idx := (if e % 2 = 0 then 0 else 64) + f / 2 ^ (g.mb - 6)
      let oe := ((3 * g.bias - 1 - e) / 2).toNat
      { v := oe * 2 ^ g.mb + rsqrt7Tab idx * 2 ^ (g.mb - 7) }

/-- vfrec7. -/
def fRec7 (g : Grid) (rm b : Nat) : VR :=
  let sgn := g.signBit (bit b (g.eb + g.mb))
  match g.val b with
  | .nan => { v := g.canonNan, fl := 16 * b2n (isSnan g b) }
  | .inf _ => { v := sgn }
  | .fin s m _ =>
    if m = 0 then { v := g.infBits s, fl := 8 }
    else
      let (e, f) := normalised g b
      if e < -1 then
        let toInf := rm = 0 || rm = 4 || (rm = 2 && s) || (rm = 3 && !s)
        let (tm, te) := g.top
        { v := if toInf then g.infBits s else sgn + g.encMag tm te, fl := 5 }
      else
        let oe := 2 * g.bias - 1 - e
        let sg := rec7Tab (f / 2 ^ (g.mb - 7)) * 2 ^ (g.mb - 7)
        if 1 ≤ oe then { v := sgn + oe.toNat * 2 ^ g.mb + sg }
        else { v := sgn + (2 ^ g.mb + sg) / 2 ^ (1 - oe).toNat }

/-! ### Operands -/

/-- Whether a 5-bit immediate is unsigned: shifts, clips, slides and gathers. -/
def VArith.immU (i : VArith) : Bool :=
  i.f6 == 12 || i.f6 == 14 || i.f6 == 15 || i.f6 == 37 || (decide (40 ≤ i.f6) && decide (i.f6 ≤ 47))

/-- Second operand of element `k`, in bits of SEW. -/
def VArith.opB (i : VArith) (x : Engine) (k : Nat) : Nat :=
  let w := vsewBytes x.vtype
  if i.vv then x.velem i.vs1 w k
  else if i.f3 = 3 then lowBits (8 * w) (if i.immU then (i.vs1 : Int) else signed 5 i.vs1)
  else if i.isF then unbox (vGrid (8 * w)) (x.rf (Fin.ofNat 32 i.vs1))
  else (x.rx (Fin.ofNat 32 i.vs1)).toNat % 2 ^ (8 * w)

/-- An offset or an index of a slide or gather, whole. -/
def VArith.offset (i : VArith) (x : Engine) : Nat :=
  if i.f3 = 3 then i.vs1 else (x.rx (Fin.ofNat 32 i.vs1)).toNat

/-- Element `k` of vs2, zero at and past VLMAX. -/
def VArith.pick (i : VArith) (x : Engine) (k : Nat) : Nat :=
  if k < vlmax x.vtype.toNat then x.velem i.vs2 (vsewBytes x.vtype) k else 0

/-- Set bits of a mask register among active elements below `k`. -/
def VArith.ones (i : VArith) (x : Engine) (k : Nat) : Nat :=
  ((List.range k).filter (fun j => (i.vm || x.vmask j) && bit (x.rv i.vs2).toNat j)).length

/-- The permutations: the element that position `k` takes, and none where the destination keeps its own. -/
def VArith.permute (i : VArith) (x : Engine) (k : Nat) : Option Nat :=
  if i.isI && i.f6 = 12 then some (i.pick x (if i.vv then i.opB x k else i.offset x))
  else if i.isI && i.f6 = 14 then
    (if i.vv then some (i.pick x (x.velem i.vs1 2 k))
     else if k < i.offset x then none else some (i.pick x (k - i.offset x)))
  else if i.isI then some (i.pick x (k + i.offset x))
  else if i.f6 = 14 then some (if k = 0 then i.opB x 0 else i.pick x (k - 1))
  else some (if k + 1 = x.vl then i.opB x 0 else i.pick x (k + 1))

def VArith.isPermute (i : VArith) : Bool := (i.isI && i.f6 == 12) || i.f6 == 14 || i.f6 == 15

/-- The result of element `k` of the same width. -/
def VArith.elem (i : VArith) (x : Engine) (k : Nat) : Option VR :=
  let w := vsewBytes x.vtype
  let a := x.velem i.vs2 w k
  let b := i.opB x k
  let c := x.velem i.vd w k
  let rm := x.vxrm.toNat
  if i.isPermute then (i.permute x k).map (fun v => { v := v })
  else if i.isMerge then some { v := if i.vm || x.vmask k then b else a }
  else if i.isF then
    (if i.f6 = 18 then some (vConv x.frm.toNat i.vs1 (8 * w) (8 * w) a)
     else if i.f6 = 19 then
       (match i.vs1 with
        | 0 => let p := fSqrt (vGrid (8 * w)) x.frm.toNat a; some { v := p.1, fl := p.2 }
        | 4 => some (fRsqrt7 (vGrid (8 * w)) a)
        | 5 => some (fRec7 (vGrid (8 * w)) x.frm.toNat a)
        | _ => some { v := fClass (vGrid (8 * w)) a })
     else some (vFlt (vGrid (8 * w)) x.frm.toNat i.f6 a b c))
  else if i.isM then
    (if i.f6 = 20 then some { v := (if i.vs1 = 17 then k else i.ones x k) % 2 ^ (8 * w) }
     else if i.f6 = 18 then
       let ws := 8 * w / extRatio i.vs1
       let v := x.velem i.vs2 (ws / 8) k
       some { v := if i.vs1 % 2 = 1 then lowBits (8 * w) (signed ws v) else v }
     else some (vIntM rm i.f6 (8 * w) a b c))
  else if i.f6 = 16 then some { v := (a + b + b2n (x.vmask k)) % 2 ^ (8 * w) }
  else if i.f6 = 18 then some { v := (a + 2 ^ (8 * w + 1) - b - b2n (x.vmask k)) % 2 ^ (8 * w) }
  else some (vIntI rm i.f6 (8 * w) a b)

/-- The result of element `k` of twice the width. -/
def VArith.wideElem (i : VArith) (x : Engine) (k : Nat) : VR :=
  let w := vsewBytes x.vtype
  let a := x.velem i.vs2 (if i.wideSrc .wide then 2 * w else w) k
  let b := i.opB x k
  let c := x.velem i.vd (2 * w) k
  if i.isF then
    (if i.f6 = 18 then vConv x.frm.toNat i.vs1 (8 * w) (16 * w) a
     else vFltWide (vGrid (8 * w)) (vGrid (16 * w)) x.frm.toNat i.f6 a b c)
  else vWideM i.f6 (8 * w) a b c

/-- The result of element `k` of half the width. -/
def VArith.narrowElem (i : VArith) (x : Engine) (k : Nat) : VR :=
  let w := vsewBytes x.vtype
  let a := x.velem i.vs2 (2 * w) k
  if i.isF then vConv x.frm.toNat i.vs1 (16 * w) (8 * w) a else vNarrowI x.vxrm.toNat i.f6 (8 * w) a (i.opB x k)

/-! ### Mask results -/

/-- One mask bit of a mask result, with its float flags. -/
def VArith.maskBit (i : VArith) (x : Engine) (k : Nat) : Bool × Nat :=
  let w := vsewBytes x.vtype
  let p := bit (x.rv i.vs2).toNat k
  let q := bit (x.rv i.vs1).toNat k
  let a := x.velem i.vs2 w k
  let b := i.opB x k
  if i.isMaskOp then
    (match i.f6 with
     | 24 => p && !q
     | 25 => p && q
     | 26 => p || q
     | 27 => p != q
     | 28 => p || !q
     | 29 => !(p && q)
     | 30 => !(p || q)
     | _ => p == q, 0)
  else if i.isM then
    let before := i.ones x k != 0
    (match i.vs1 with
     | 1 => !before && !p
     | 2 => !before && p
     | _ => !before, 0)
  else if i.isF then
    let g := vGrid (8 * w)
    match i.f6 with
    | 24 => fEq g a b
    | 25 => fLe g a b
    | 27 => fLt g a b
    | 28 => (!(fEq g a b).1, (fEq g a b).2)
    | 29 => fLt g b a
    | _ => fLe g b a
  else
    let cin := if i.vm then 0 else b2n (x.vmask k)
    match i.f6 with
    | 17 => (decide (2 ^ (8 * w) ≤ a + b + cin), 0)
    | 19 => (decide (a < b + cin), 0)
    | _ => (vCmpI i.f6 (8 * w) a b, 0)

/-! ### Reductions -/

/-- Combine neighbours of a list until one value is left, at free places: an unspecified tree of additions (Table 4.1,
log 11). `n` is at least the length of the list. -/
def treeFold (f : Nat → Nat → Nat × Nat) (draw : Nat) : Nat → List Nat → Nat → Nat × Nat
  | 0, l, fl => (l.headD 0, fl)
  | n + 1, l, fl =>
    if l.length ≤ 1 then (l.headD 0, fl)
    else
      let i := (Config.freeWord (2 ^ 96 + 2 ^ 64 * draw + 2 ^ 32 + n)).toNat % (l.length - 1)
      let r := f (lgetD l i 0) (lgetD l (i + 1) 0)
      treeFold f draw n (l.take i ++ r.1 :: l.drop (i + 2)) (Nat.lor fl r.2)

/-- Values folded from the left, with their flags. -/
def foldFl (f : Nat → Nat → Nat × Nat) (init : Nat) (l : List Nat) : Nat × Nat :=
  l.foldl (fun acc v => let r := f acc.1 v; (r.1, Nat.lor acc.2 r.2)) (init, 0)

/-- A reduction of the active elements onto vs1[0]: the value and its flags; vs1[0] itself where none is active. -/
def VArith.reduce (i : VArith) (x : Engine) (s : VDst) (draw : Nat) : Nat × Nat :=
  let w := vsewBytes x.vtype
  let rm := x.frm.toNat
  let on := (List.range x.vl).filter (fun k => i.vm || x.vmask k)
  let es := on.map (fun k => x.velem i.vs2 w k)
  let wide := s == .wideScalar
  let wd := if wide then 16 * w else 8 * w
  let init := x.velem i.vs1 (wd / 8) 0
  if i.isF then
    let g := vGrid (8 * w)
    let h := vGrid wd
    let es' := if wide then es.map (fun v => (fConv g h 0 v).1) else es
    let fin := if wide then 16 * b2n (es.any (isSnan g)) else 0
    let add (a b : Nat) : Nat × Nat := fAdd h rm a b
    let r :=
      if es.isEmpty then (init, 0)
      else if i.f6 = 5 then foldFl (fMinMax g false) init es
      else if i.f6 = 7 then foldFl (fMinMax g true) init es
      else if i.f6 = 3 || i.f6 = 51 then foldFl add init es'
      else treeFold add draw (es'.length + 1) (shuffle draw (init :: es')) 0
    (r.1, Nat.lor r.2 fin)
  else if wide then
    ((es.foldl (fun (a : Int) v => a + (if i.f6 = 49 then signed (8 * w) v else (v : Int))) (init : Int) % (2 ^ wd : Nat)).toNat, 0)
  else
    let op (a b : Nat) : Nat :=
      match i.f6 with
      | 0 => (a + b) % 2 ^ wd
      | 1 => Nat.land a b
      | 2 => Nat.lor a b
      | 3 => Nat.xor a b
      | 4 => min a b
      | 5 => if signed wd a ≤ signed wd b then a else b
      | 6 => max a b
      | _ => if signed wd a ≤ signed wd b then b else a
    (es.foldl op init, 0)

/-! ### Execution -/

/-- Whether every element is written: vmerge, vfmerge, vadc and vsbc use v0 as an operand. -/
def VArith.all (i : VArith) : Bool := i.isMerge || i.isCarry

def Engine.flag (y : Engine) (fl : Nat) (sat : Bool) : Engine :=
  { y with fflags := y.fflags ||| BitVec.ofNat 5 fl, vxsat := y.vxsat || sat }

/-- Write each active element that has a result; tail and masked-off elements stay (Table 4.1). -/
def VArith.writeElems (i : VArith) (x : Engine) (w : Nat) (f : Nat → Option VR) : Engine :=
  (List.range x.vl).foldl (fun y k =>
    if i.vm || i.all || x.vmask k then
      match f k with
      | some r => (y.vput i.vd w k r.v).flag r.fl r.sat
      | none => y
    else y) x

/-- vcompress: the elements of vs2 that the mask vs1 selects, packed from element 0. -/
def VArith.compress (i : VArith) (x : Engine) : Engine :=
  let w := vsewBytes x.vtype
  let sel := (List.range x.vl).filter (fun k => bit (x.rv i.vs1).toNat k)
  (sel.zipIdx).foldl (fun y p => y.vput i.vd w p.2 (x.velem i.vs2 w p.1)) x

/-- The engine after a vector arithmetic instruction. -/
def VArith.write (i : VArith) (x : Engine) (s : VDst) (draw : Nat) : Engine :=
  let w := vsewBytes x.vtype
  match s with
  | .same => if i.isM && i.f6 = 23 then i.compress x else i.writeElems x w (i.elem x)
  | .wide => i.writeElems x (2 * w) (fun k => some (i.wideElem x k))
  | .narrow => i.writeElems x w (fun k => some (i.narrowElem x k))
  | .mask =>
    let every := i.isMaskOp || i.isCarryOut
    let r := (List.range x.vl).foldl (fun (a : BitVec 2048 × Nat) k =>
      if i.vm || every || x.vmask k then
        let b := i.maskBit x k
        (bitsPut a.1 k 1 (b2n b.1), Nat.lor a.2 b.2)
      else a) (x.rv i.vd, 0)
    (x.wv i.vd r.1).flag r.2 false
  | .scalar =>
    if x.vl = 0 then x
    else if i.f6 = 16 then x.vput i.vd w 0 (i.opB x 0)
    else let r := i.reduce x s draw; (x.vput i.vd w 0 r.1).flag r.2 false
  | .wideScalar => if x.vl = 0 then x else let r := i.reduce x s draw; (x.vput i.vd (2 * w) 0 r.1).flag r.2 false
  | .xreg =>
    let r : Fin 32 := Fin.ofNat 32 i.vd
    let on (k : Nat) : Bool := (i.vm || x.vmask k) && bit (x.rv i.vs2).toNat k
    (match i.vs1 with
     | 0 => x.wx r (sext (8 * w) (x.velem i.vs2 w 0))
     | 16 => x.wx r (BitVec.ofNat 64 ((List.range x.vl).filter on).length)
     | _ => x.wx r (match (List.range x.vl).find? on with | some k => BitVec.ofNat 64 k | none => -1))
  | .freg => x.wf (Fin.ofNat 32 i.vd) (nanBox w (x.velem i.vs2 w 0))
  | .whole => (List.range (i.vs1 + 1)).foldl (fun y k => y.wv (i.vd + k) (x.rv (i.vs2 + k))) x

/-- A vector arithmetic instruction; none where it is illegal. -/
def Dev.varith (d : Dev) (e : Fin 128) (i : VArith) : Option Dev :=
  let x := d.eng e
  match i.shape with
  | none => none
  | some s => if i.bad x s then none else some ({ d with free := d.free + 1 }.setEng e (i.write x s d.free))

end Sys2Proof.Machine
end

