-- ==== Sys2Proof/Machine/XVector.lean ====
section
/-!
DEFINITION. The custom-1 vector instructions of Xanvil (R147 to R156): packed conversions, block scales and dot products.
-/
namespace Sys2Proof.Machine

/-- Packed element `i` of width `w` in the group at register `r` (R147). -/
def Engine.pget (x : Engine) (r w i : Nat) : Nat := fld (x.rv (r + w * i / 2048)).toNat (w * i % 2048) w

/-- Write a packed element; neighbours in the byte stay (R81, R150). -/
def Engine.pput (x : Engine) (r w i v : Nat) : Engine :=
  let k := r + w * i / 2048
  x.wv k (bitsPut (x.rv k) (w * i % 2048) w v)

/-- Registers that a packed group spans (R147). -/
def packSpan (x : Engine) (w : Nat) : Nat := max 1 (vlmul8 x.vtype * w / 256)

/-- Registers that an FP32 group spans. -/
def fpSpan (x : Engine) : Nat := max 1 (vlmul8 x.vtype / 8)

def overlaps (a na b nb : Nat) : Bool := decide (a < b + nb) && decide (b < a + na)

/-- A source or destination group: first register and span. -/
abbrev Grp := Nat × Nat

/-- R147: SEW 32, vstart 0, vill clear, groups aligned and inside the file, and no source over the destination. A masked
destination may be v0, which R147 does not forbid: the mask is read first. -/
def xvBad (x : Engine) (dst : Grp) (srcs : List Grp) : Bool :=
  vill x.vtype || vsewBytes x.vtype != 4 || x.vstart != 0 || vlmul8 x.vtype = 0 ||
  (dst :: srcs).any (fun g => g.1 % g.2 != 0 || 32 < g.1 + g.2) ||
  srcs.any (fun g => overlaps dst.1 dst.2 g.1 g.2)

def xfdFmt (x : Engine) (fd : Nat) : Option Fmt := fmtOf (fld (tgetD x.xfd (fd % 8) 0).toNat 0 16)
def xfdBlk (x : Engine) (fd : Nat) : Nat := fld (tgetD x.xfd (fd % 8) 0).toNat 16 8

/-- Formats of Table 4.9's first row: not FP32, not INT32, not NONE. -/
def vecFmt (x : Engine) (fd : Nat) : Option Fmt :=
  match xfdFmt x fd with
  | some f => if f.isFp32 || f.isInt32 then none else some f
  | none => none

/-- A block-scaling descriptor that R148 accepts with a format. -/
def blkOk (f : Fmt) (b : Nat) : Bool := !blkBad b && (fld b 0 2 == 0 || f.isMini)

def Engine.setFlags (x : Engine) (f : BitVec 5) : Engine := { x with fflags := x.fflags ||| f }

/-- Active elements below vl. -/
def xvElems (x : Engine) (vm : Bool) : List Nat := (List.range x.vl).filter (fun i => vm || x.vmask i)

/-- Scale of element `i`'s block, read from vs1: one without block scaling. -/
def xvScale (x : Engine) (blk : Nat) (vs1 i : Nat) : Num :=
  if blkSize blk = 0 then .fin false 1 0
  else scaleVal (blkE4m3 blk) (x.pget vs1 8 (i / blkSize blk))

/-- XVCVTF of one element (R149). -/
def cvtfElem (f : Fmt) (bits : Nat) (sc : Num) : Nat × BitVec 5 :=
  let v := f.val bits
  match v, sc with
  | .inf s, .fin t _ _ => (fp32.infBits (s != t), 0)
  | _, _ =>
    let p := v.mul sc
    let r := fp32.rne p
    let ov := r.isInf && p.isFin
    let nx := ov || (p.isFin && !(r.sub p).isZero)
    (fp32.bits r, BitVec.ofNat 5 (16 * b2n sc.isNan + 4 * b2n ov + b2n nx))

def Dev.xvcvtf (d : Dev) (e : Fin 128) (vd vs2 vs1 fd : Nat) (vm : Bool) : Dev :=
  let x := d.eng e
  match vecFmt x fd with
  | none => d.engExc e excIllegal 0
  | some f =>
    let blk := xfdBlk x fd
    let scaled_ := blkSize blk != 0
    let srcs : List Grp := (vs2, packSpan x f.width) :: (if scaled_ then [(vs1, 1)] else [])
    if !blkOk f blk || (!scaled_ && vs1 != 0) || xvBad x (vd, fpSpan x) srcs then d.engExc e excIllegal 0
    else d.modEng e (fun x =>
      ((xvElems x vm).foldl (fun y i =>
        let (b, fl) := cvtfElem f (x.pget vs2 f.width i) (xvScale x blk vs1 i)
        (y.vput vd 4 i b).setFlags fl) x).retire)

def execXvcvtf (e : Fin 128) (vd vs2 vs1 : Fin 32) (fd : Fin 8) (vm : Bool) (s : State) : Res :=
  onEng e s (fun d => d.xvcvtf e vd.val vs2.val vs1.val fd.val vm)

/-- Element numbers of block `j` of size `b` below `n`. -/
def blockIdx (b n j : Nat) : List Nat := (List.range (min b (n - b * j))).map (b * j + ·)

/-- Whether element `i` of a scaled conversion lies in a block that holds a NaN or an infinity: the third item of R103, which
R150 takes over. DEDUCED (log 58): the block is its elements below vl, masked off or not. -/
def vecBlockSpecial (x : Engine) (b vs2 i : Nat) : Bool :=
  (blockIdx b x.vl (i / b)).any (fun k => !(fp32.val (x.velem vs2 4 k)).isFin)

/-- XVCVTT and XVCVTT.SR (R150): `sr` draws from the engine's generator (R156). -/
def Dev.xvcvtt (d : Dev) (e : Fin 128) (vd vs2 vs1 fd : Nat) (vm sr : Bool) : Dev :=
  let x := d.eng e
  match vecFmt x fd with
  | none => d.engExc e excIllegal 0
  | some f =>
    let blk := xfdBlk x fd
    let scaled_ := blkSize blk != 0
    let srcs : List Grp := (vs2, fpSpan x) :: (if scaled_ then [(vs1, 1)] else [])
    if !blkOk f blk || (!scaled_ && vs1 != 0) || xvBad x (vd, packSpan x f.width) srcs then d.engExc e excIllegal 0
    else
      let r := (xvElems x vm).foldl (fun (a : Engine × Nat) i =>
        let mode := if sr then Round.draw (Config.freeDraw a.2) else .even
        let v := fp32.val (x.velem vs2 4 i)
        let sc := xvScale x blk vs1 i
        let (b, fl) : Nat × NFlags :=
          if scaled_ && vecBlockSpecial x (blkSize blk) vs2 i then (0, { nanZero := v.isNan })
          else if scaled_ then convScaled f mode sc v
          else f.conv mode false v
        ((a.1.pput vd f.width i b).setFlags (fl.fflags sc.isNan), if sr then a.2 + 1 else a.2)) (x, d.free)
      ({ d with free := r.2 }).setEng e r.1.retire

def execXvcvtt (e : Fin 128) (vd vs2 vs1 : Fin 32) (fd : Fin 8) (vm : Bool) (s : State) : Res :=
  onEng e s (fun d => d.xvcvtt e vd.val vs2.val vs1.val fd.val vm false)

def execXvcvttSr (e : Fin 128) (vd vs2 vs1 : Fin 32) (fd : Fin 8) (vm : Bool) (s : State) : Res :=
  onEng e s (fun d => d.xvcvtt e vd.val vs2.val vs1.val fd.val vm true)

/-- XVSCALE (R151, R155): unmasked, BLK nonzero, a MINI format. DEDUCED (log 56): vd is one register, at any number. -/
def Dev.xvscale (d : Dev) (e : Fin 128) (vd vs2 vs1 fd : Nat) (vm : Bool) : Dev :=
  let x := d.eng e
  let blk := xfdBlk x fd
  match xfdFmt x fd with
  | some (.mini g) =>
    let b := blkSize blk
    if blkBad blk || b = 0 || !vm || vs1 != 0 || xvBad x (vd, 1) [(vs2, fpSpan x)] then d.engExc e excIllegal 0
    else d.modEng e (fun x =>
      ((List.range (ceilDiv x.vl b)).foldl (fun y j =>
        let r := blockScale (blkE4m3 blk) g ((blockIdx b x.vl j).map (fun i => fp32.val (x.velem vs2 4 i)))
        (y.pput vd 8 j r.1).setFlags (r.2.fflags false &&& 5)) x).retire)
  | _ => d.engExc e excIllegal 0

def execXvscale (e : Fin 128) (vd vs2 vs1 : Fin 32) (fd : Fin 8) (vm : Bool) (s : State) : Res :=
  onEng e s (fun d => d.xvscale e vd.val vs2.val vs1.val fd.val vm)

/-- XVSCLF (R152). DEDUCED (log 56): its scale bytes are a packed group of width 8. -/
def Dev.xvsclf (d : Dev) (e : Fin 128) (vd vs2 vs1 fd : Nat) (vm : Bool) : Dev :=
  let x := d.eng e
  let blk := xfdBlk x fd
  match xfdFmt x fd with
  | some (.mini _) =>
    if blkBad blk || blkSize blk = 0 || vs1 != 0 || xvBad x (vd, fpSpan x) [(vs2, packSpan x 8)] then d.engExc e excIllegal 0
    else d.modEng e (fun x =>
      ((xvElems x vm).foldl (fun y j =>
        let v := scaleVal (blkE4m3 blk) (x.pget vs2 8 j)
        (y.vput vd 4 j (fp32.bits v)).setFlags (if v.isNan then 16 else 0)) x).retire)
  | _ => d.engExc e excIllegal 0

def execXvsclf (e : Fin 128) (vd vs2 vs1 : Fin 32) (fd : Fin 8) (vm : Bool) (s : State) : Res :=
  onEng e s (fun d => d.xvsclf e vd.val vs2.val vs1.val fd.val vm)

/-- OF and NX of rounding an exact value into a grid. -/
def roundFlags (ex r : Num) : BitVec 5 :=
  let ov := r.isInf && ex.isFin
  BitVec.ofNat 5 (4 * b2n ov + b2n (ov || (ex.isFin && !(ex.sub r).isZero)))

/-- A signalling NaN of binary32. -/
def fp32Snan (b : Nat) : Bool := fld b 23 8 == 255 && fld b 0 23 != 0 && !bit b 22

/-- A sum in the extended float, each addition rounded, with the flags of its additions (R93, R153). -/
def extSum : List Num → Num × BitVec 5
  | [] => (Num.zero, 0)
  | p :: t =>
    t.foldl (fun acc q =>
      let r := extF.rne (acc.1.add q)
      (r, acc.2 ||| addFlags acc.1 q r)) (extF.rne p, roundFlags p (extF.rne p))

/-- One block of a floating XVDOT: FP32 bits and flags (R153, R155). The order of the sum is not specified: it is a free
permutation (log 11). A product of an infinity and zero is a NaN that sets no flag, since only additions do (log 57). -/
def dotFloat (old : Nat) (ps : List Num) (draw : Nat) : Num × BitVec 5 :=
  let o := fp32.val old
  let (x, f1) := extSum (shuffle draw ps)
  let y := fp32.rne x
  let r := fp32.rne (o.add y)
  (r, f1 ||| roundFlags x y ||| addFlags o y r ||| (if fp32Snan old then 16 else 0))

/-- XVDOT (R153, R154): A in xfd[FD], B in xfd[FD + 1]. DEDUCED (log 56): vd is one register, at any number. -/
def Dev.xvdot (d : Dev) (e : Fin 128) (vd vs2 vs1 fd : Nat) (vm : Bool) : Dev :=
  let x := d.eng e
  let ba := xfdBlk x fd
  let bb := xfdBlk x (fd + 1)
  match vecFmt x fd, vecFmt x (fd + 1) with
  | some fa, some fb =>
    let sz := max (blkSize ba) (blkSize bb)
    let b := if sz = 0 then x.vl else sz
    if !blkOk fa ba || !blkOk fb bb || (blkSize ba != 0 && blkSize bb != 0 && blkSize ba != blkSize bb) ||
        fa.isInt != fb.isInt || !vm || xvBad x (vd, 1) [(vs2, packSpan x fa.width), (vs1, packSpan x fb.width)] then
      d.engExc e excIllegal 0
    else
      let a (k : Nat) : Num := fa.val (x.pget vs2 fa.width k)
      let c (k : Nat) : Num := fb.val (x.pget vs1 fb.width k)
      let r := (List.range (if b = 0 then 0 else ceilDiv x.vl b)).foldl (fun (acc : Engine × Nat) j =>
        let ks := blockIdx b x.vl j
        let ps := ks.map (fun k => (a k).mul (c k))
        let old := x.velem vd 4 j
        if fa.isInt then
          let v := (addI32 (signed 32 old) (sumInt ps).1).1
          (acc.1.vput vd 4 j (v % 4294967296).toNat, acc.2)
        else
          let (v, fl) := dotFloat old ps acc.2
          ((acc.1.vput vd 4 j (fp32.bits v)).setFlags fl, acc.2 + 1)) (x, d.free)
      ({ d with free := r.2 }).setEng e r.1.retire
  | _, _ => d.engExc e excIllegal 0

def execXvdot (e : Fin 128) (vd vs2 vs1 : Fin 32) (fd : Fin 8) (vm : Bool) (s : State) : Res :=
  onEng e s (fun d => d.xvdot e vd.val vs2.val vs1.val fd.val vm)

end Sys2Proof.Machine
end

