-- ==== Sys2Proof/Machine/EngIsa.lean ====
section
/-!
DEFINITION. ENGINE_INSTRUCTION: one instruction word of step code on an engine (R113 to R119, R146): the C expansion,
integer, float and vector arithmetic, branches, CSRs, and the illegal-instruction exception of R115 and R133.
-/
namespace Sys2Proof.Machine

/-! ### Compressed instructions (RV64C with D) -/

/-- Words of the base formats. -/
def encI (op f3 rd rs1 imm : Nat) : Nat := op + at_ 7 rd + at_ 12 f3 + at_ 15 rs1 + at_ 20 (imm % 4096)
def encR (op f7 f3 rd rs1 rs2 : Nat) : Nat := op + at_ 7 rd + at_ 12 f3 + at_ 15 rs1 + at_ 20 rs2 + at_ 25 f7
def encS (op f3 rs1 rs2 imm : Nat) : Nat :=
  op + at_ 7 (fld imm 0 5) + at_ 12 f3 + at_ 15 rs1 + at_ 20 rs2 + at_ 25 (fld imm 5 7)
def encB (f3 rs1 imm : Nat) : Nat :=
  0x63 + at_ 7 (fld imm 11 1) + at_ 8 (fld imm 1 4) + at_ 12 f3 + at_ 15 rs1 + at_ 25 (fld imm 5 6) + at_ 31 (fld imm 12 1)
def encJ (rd imm : Nat) : Nat :=
  0x6F + at_ 7 rd + at_ 12 (fld imm 12 8) + at_ 20 (fld imm 11 1) + at_ 21 (fld imm 1 10) + at_ 31 (fld imm 20 1)

/-- Sign-extend `n` bits to 32. -/
def sx (n v : Nat) : Nat := (signed n (v % 2 ^ n) % (2 ^ 32 : Nat)).toNat

/-- The 32-bit instruction that a 16-bit one stands for; none where it is illegal. -/
def expandC (h : Nat) : Option Nat :=
  let rd := fld h 7 5
  let r2 := fld h 2 5
  let rdp := 8 + fld h 7 3
  let r2p := 8 + fld h 2 3
  let imm6 := sx 6 (fld h 2 5 + at_ 5 (fld h 12 1))
  let sh6 := fld h 2 5 + at_ 5 (fld h 12 1)
  let offW := at_ 3 (fld h 10 3) + at_ 2 (fld h 6 1) + at_ 6 (fld h 5 1)
  let offD := at_ 3 (fld h 10 3) + at_ 6 (fld h 5 2)
  match fld h 0 2, fld h 13 3 with
  | 0, 0 =>
    let imm := at_ 4 (fld h 11 2) + at_ 6 (fld h 7 4) + at_ 2 (fld h 6 1) + at_ 3 (fld h 5 1)
    if imm = 0 then none else some (encI 0x13 0 r2p 2 imm)
  | 0, 1 => some (encI 0x07 3 r2p rdp offD)
  | 0, 2 => some (encI 0x03 2 r2p rdp offW)
  | 0, 3 => some (encI 0x03 3 r2p rdp offD)
  | 0, 5 => some (encS 0x27 3 rdp r2p offD)
  | 0, 6 => some (encS 0x23 2 rdp r2p offW)
  | 0, 7 => some (encS 0x23 3 rdp r2p offD)
  | 1, 0 => some (encI 0x13 0 rd rd imm6)
  | 1, 1 => if rd = 0 then none else some (encI 0x1B 0 rd rd imm6)
  | 1, 2 => some (encI 0x13 0 rd 0 imm6)
  | 1, 3 =>
    if rd = 2 then
      let imm := sx 10 (at_ 9 (fld h 12 1) + at_ 4 (fld h 6 1) + at_ 6 (fld h 5 1) + at_ 7 (fld h 3 2) + at_ 5 (fld h 2 1))
      if imm = 0 then none else some (encI 0x13 0 2 2 imm)
    else if sh6 = 0 then none
    else some (0x37 + at_ 7 rd + at_ 12 (imm6 % 2 ^ 20))
  | 1, 4 =>
    (match fld h 10 2 with
     | 0 => some (encI 0x13 5 rdp rdp sh6)
     | 1 => some (encI 0x13 5 rdp rdp (sh6 + 0x400))
     | 2 => some (encI 0x13 7 rdp rdp imm6)
     | _ =>
       match fld h 12 1, fld h 5 2 with
       | 0, 0 => some (encR 0x33 0x20 0 rdp rdp r2p)
       | 0, 1 => some (encR 0x33 0 4 rdp rdp r2p)
       | 0, 2 => some (encR 0x33 0 6 rdp rdp r2p)
       | 0, _ => some (encR 0x33 0 7 rdp rdp r2p)
       | _, 0 => some (encR 0x3B 0x20 0 rdp rdp r2p)
       | _, 1 => some (encR 0x3B 0 0 rdp rdp r2p)
       | _, _ => none)
  | 1, 5 =>
    some (encJ 0 (sx 12 (at_ 11 (fld h 12 1) + at_ 4 (fld h 11 1) + at_ 8 (fld h 9 2) + at_ 10 (fld h 8 1) +
      at_ 6 (fld h 7 1) + at_ 7 (fld h 6 1) + at_ 1 (fld h 3 3) + at_ 5 (fld h 2 1))))
  | 1, f3 =>
    some (encB (f3 - 6) rdp (sx 9 (at_ 8 (fld h 12 1) + at_ 3 (fld h 10 2) + at_ 6 (fld h 5 2) + at_ 1 (fld h 3 2) +
      at_ 5 (fld h 2 1))))
  | 2, 0 => some (encI 0x13 1 rd rd sh6)
  | 2, 1 => some (encI 0x07 3 rd 2 (at_ 5 (fld h 12 1) + at_ 3 (fld h 5 2) + at_ 6 (fld h 2 3)))
  | 2, 2 => if rd = 0 then none else some (encI 0x03 2 rd 2 (at_ 5 (fld h 12 1) + at_ 2 (fld h 4 3) + at_ 6 (fld h 2 2)))
  | 2, 3 => if rd = 0 then none else some (encI 0x03 3 rd 2 (at_ 5 (fld h 12 1) + at_ 3 (fld h 5 2) + at_ 6 (fld h 2 3)))
  | 2, 4 =>
    if fld h 12 1 = 0 then
      if r2 = 0 then (if rd = 0 then none else some (encI 0x67 0 0 rd 0)) else some (encR 0x33 0 0 rd 0 r2)
    else if r2 = 0 then (if rd = 0 then some 0x00100073 else some (encI 0x67 0 1 rd 0))
    else some (encR 0x33 0 0 rd rd r2)
  | 2, 5 => some (encS 0x27 3 2 r2 (at_ 3 (fld h 10 3) + at_ 6 (fld h 7 3)))
  | 2, 6 => some (encS 0x23 2 2 r2 (at_ 2 (fld h 9 4) + at_ 6 (fld h 7 2)))
  | 2, 7 => some (encS 0x23 3 2 r2 (at_ 3 (fld h 10 3) + at_ 6 (fld h 7 3)))
  | _, _ => none

/-! ### Retiring, and CSR instructions -/

/-- Retire an instruction of `len` bytes. -/
def Engine.next (x : Engine) (len : Nat) : Engine := { x.retire with pc := x.pc + BitVec.ofNat 64 len }

/-- Retire a jump. -/
def Engine.jump (x : Engine) (t : Word) : Engine := { x.retire with pc := t }

/-- The engine clock's cycles go by between instructions as well: a read of `cycle` first lets a free number of them pass
(R116; log 61). -/
def Dev.cyclesPass (d : Dev) (e : Fin 128) (csr : Nat) : Dev :=
  if csr = 0xC00 then
    { (d.modEng e (fun x => { x with cycle := x.cycle + BitVec.ofNat 64 ((Config.freeWord d.free).toNat % 2 ^ 32) })) with
      free := d.free + 1 }
  else d

/-- A Zicsr instruction; none where it is illegal. -/
def Dev.csrOp (d : Dev) (e : Fin 128) (f3 csr rd rs1 : Nat) : Option Dev :=
  let d := d.cyclesPass e csr
  let x := d.eng e
  let src : Word := if 4 ≤ f3 then BitVec.ofNat 64 rs1 else x.rx (Fin.ofNat 32 rs1)
  let writes := f3 % 4 == 1 || rs1 != 0
  match d.csrRead e csr with
  | none => none
  | some old =>
    let new := match f3 % 4 with | 1 => src | 2 => old ||| src | _ => old &&& ~~~src
    let done (x : Engine) : Option Dev := some (d.setEng e (x.wx (Fin.ofNat 32 rd) old))
    if f3 % 4 = 0 then none
    else if writes then (match x.csrWrite csr new with | some y => done y | none => none) else done x

/-! ### One instruction -/

/-- Immediates of the B, J and U formats. -/
def immB (w : Nat) : Word :=
  sext 13 (at_ 1 (fld w 8 4) + at_ 5 (fld w 25 6) + at_ 11 (fld w 7 1) + at_ 12 (fld w 31 1))
def immJ (w : Nat) : Word :=
  sext 21 (at_ 1 (fld w 21 10) + at_ 11 (fld w 20 1) + at_ 12 (fld w 12 8) + at_ 20 (fld w 31 1))
def immU (w : Nat) : Word := sext 32 (at_ 12 (fld w 12 20))

def branchTaken (f3 : Nat) (a b : Word) : Option Bool :=
  match f3 with
  | 0 => some (a == b)
  | 1 => some (a != b)
  | 4 => some (decide (a.toInt < b.toInt))
  | 5 => some (decide (b.toInt ≤ a.toInt))
  | 6 => some (decide (a.toNat < b.toNat))
  | 7 => some (decide (b.toNat ≤ a.toNat))
  | _ => none

/-- An integer instruction with an immediate. -/
def aluImm (w f3 : Nat) (a : Word) : Option Word :=
  let imm := sext 12 (fld w 20 12)
  if f3 = 1 then (if fld w 26 6 = 0 then some (a <<< fld w 20 6) else none)
  else if f3 = 5 then
    (if fld w 26 6 = 0 then some (a >>> fld w 20 6) else if fld w 26 6 = 16 then some (a.sshiftRight (fld w 20 6)) else none)
  else aluOp 0 f3 a imm

def aluImm32 (w f3 : Nat) (a : Word) : Option Word :=
  if f3 = 0 then aluOp32 0 0 a (sext 12 (fld w 20 12))
  else if f3 = 1 || f3 = 5 then
    (if fld w 25 7 = 0 || (f3 = 5 && fld w 25 7 = 0x20) then aluOp32 (fld w 25 7) f3 a (BitVec.ofNat 64 (fld w 20 5))
     else none)
  else none

/-- A float result into its register, with the flags it raises. -/
def Engine.fput (x : Engine) (rd : Fin 32) (o : FOut) : Engine :=
  match o with
  | .f v fl => { x.wf rd v with fflags := x.fflags ||| BitVec.ofNat 5 fl }
  | .x v fl => { x.wx rd v with fflags := x.fflags ||| BitVec.ofNat 5 fl }

/-- OP-FP and the fused multiply-adds; none where illegal. -/
def Engine.fexec (x : Engine) (w : Nat) : Option Engine :=
  let rd : Fin 32 := Fin.ofNat 32 (fld w 7 5)
  let f3 := fld w 12 3
  let rm := if f3 = 7 then x.frm.toNat else f3
  let r1 : Fin 32 := Fin.ofNat 32 (fld w 15 5)
  let r2 : Fin 32 := Fin.ofNat 32 (fld w 20 5)
  if fld w 0 7 = 0x53 then
    if fld w 25 7 = 0x22 && fld w 20 5 = 8 then none
    else (fpOp (fld w 27 5) (fld w 25 2) (fld w 20 5) f3 rm (x.rf r1) (x.rf r2) (x.rx r1)).map (x.fput rd)
  else
    match fGrid (fld w 25 2) with
    | none => none
    | some g =>
      let a := unbox g (x.rf r1)
      let b := unbox g (x.rf r2)
      let c := unbox g (x.rf (Fin.ofNat 32 (fld w 27 5)))
      if 4 < rm then none
      else
        let r := match fld w 2 2 with
          | 0 => fFma g rm a b c
          | 1 => fFma g rm a b (negBits g c)
          | 2 => fFma g rm (negBits g a) b c
          | _ => fFma g rm (negBits g a) b (negBits g c)
        some (x.fput rd (.f (box g r.1) r.2))

/-- Whole-register and mask accesses of LOAD-FP and STORE-FP: the access, log2 of the registers it spans and the length to
run it with. Whole-register stores have elements of 8 bits only. -/
def wholeAccess (x : Engine) (w : Nat) : Option (VMem × Nat × Nat) :=
  let lu := fld w 20 5
  let nf := fld w 29 3
  let m (wl : Fin 4) : VMem := ⟨Fin.ofNat 32 (fld w 7 5), true, .unit, wl, 0, false⟩
  if fld w 26 3 != 0 || !bit w 25 then none
  else if lu = 8 && (nf = 0 || nf = 1 || nf = 3 || nf = 7) && fld w 7 5 % (nf + 1) = 0 && (fld w 0 7 = 0x07 || fld w 12 3 = 0) then
    (vwidth (fld w 12 3)).map (fun wl => (m wl, Nat.log2 (nf + 1), (nf + 1) * 256 / 2 ^ wl.val))
  else if lu = 11 && fld w 12 3 = 0 && nf = 0 && !vill x.vtype then some (m 0, 0, ceilDiv x.vl 8)
  else none

/-- Run a vector access with another vtype (LMUL 2^lm, SEW of 2^wl bytes) and vl, and put them back. -/
def Dev.withVl (d : Dev) (e : Fin 128) (lm wl vl : Nat) (f : Dev → Dev) : Dev :=
  let x := d.eng e
  let d := d.setEng e { x with vtype := BitVec.ofNat 64 (lm + 8 * wl), vl := vl }
  (f d).modEng e (fun y => { y with vtype := x.vtype, vl := x.vl })

/-- The base, float and vector instructions that are no other row; none where illegal. `ext` is what the outside answers to the
reads of a whole-register or mask load. -/
def Dev.plain (d : Dev) (e : Fin 128) (w len : Nat) (ext : List Byte) : Option Dev :=
  let x := d.eng e
  let rd : Fin 32 := Fin.ofNat 32 (fld w 7 5)
  let a := x.rx (Fin.ofNat 32 (fld w 15 5))
  let b := x.rx (Fin.ofNat 32 (fld w 20 5))
  let f3 := fld w 12 3
  let put (v : Option Word) : Option Dev := v.map (fun v => d.setEng e ((x.wx rd v).next len))
  match fld w 0 7 with
  | 0x13 => put (aluImm w f3 a)
  | 0x1B => put (aluImm32 w f3 a)
  | 0x33 => put (aluOp (fld w 25 7) f3 a b)
  | 0x3B => put (aluOp32 (fld w 25 7) f3 a b)
  | 0x37 => put (some (immU w))
  | 0x17 => put (some (x.pc + immU w))
  | 0x63 =>
    (branchTaken f3 a b).map (fun t => d.setEng e (if t then x.jump (x.pc + immB w) else x.next len))
  | 0x6F => some (d.setEng e ((x.wx rd (x.pc + BitVec.ofNat 64 len)).jump (x.pc + immJ w)))
  | 0x67 =>
    if f3 = 0 then
      some (d.setEng e ((x.wx rd (x.pc + BitVec.ofNat 64 len)).jump ((a + sext 12 (fld w 20 12)) &&& ~~~1)))
    else none
  | 0x73 =>
    if f3 = 0 then none
    else (d.csrOp e f3 (fld w 20 12) (fld w 7 5) (fld w 15 5)).map (fun d => d.modEng e (fun x => x.next len))
  | 0x53 => (x.fexec w).map (fun y => d.setEng e (y.next len))
  | 0x43 => (x.fexec w).map (fun y => d.setEng e (y.next len))
  | 0x47 => (x.fexec w).map (fun y => d.setEng e (y.next len))
  | 0x4B => (x.fexec w).map (fun y => d.setEng e (y.next len))
  | 0x4F => (x.fexec w).map (fun y => d.setEng e (y.next len))
  | 0x07 => (wholeAccess x w).map (fun p => d.withVl e p.2.1 p.1.wLog.val p.2.2 (fun d => d.vload e a p.1 ext))
  | 0x27 => (wholeAccess x w).map (fun p => d.withVl e p.2.1 p.1.wLog.val p.2.2 (fun d => d.vstore e a p.1))
  | 0x57 =>
    if f3 = 7 then (x.vconfig w (fld w 7 5) (fld w 15 5) (fld w 20 5)).map (fun y => d.setEng e (y.next len))
    else (d.varith e (vaOf w)).map (fun d => d.modEng e (fun x => x.next len))
  | _ => none

/-- A word that is another row's instruction runs as that row. -/
def rowRun (i : Instr) (s : State) : Res :=
  match i with
  | .xaissue e rd rs1 rl => execXaissue e rd rs1 rl s
  | .xawait e rs1 => execXawait e rs1 s
  | .xapoll e rd rs1 => execXapoll e rd rs1 s
  | .xtissue e rd rs1 rs2 rl => execXtissue e rd rs1 rs2 rl s
  | .xtwait e rs1 => execXtwait e rs1 s
  | .xtpoll e rd rs1 => execXtpoll e rd rs1 s
  | .xrsig e rs1 rs2 sc => execXrsig e rs1 rs2 sc s
  | .xradd e rd rs1 rs2 sc => execXradd e rd rs1 rs2 sc s
  | .xrwait e rd rs1 rs2 sc => execXrwait e rd rs1 rs2 sc s
  | .xacq e sc => execXacq e sc s
  | .xrel e sc => execXrel e sc s
  | .xacqrel e sc => execXacqrel e sc s
  | .xlaW e rd rs1 sc ext => execXlaW e rd rs1 sc ext s
  | .xlaD e rd rs1 sc ext => execXlaD e rd rs1 sc ext s
  | .xsrW e rs1 rs2 sc => execXsrW e rs1 rs2 sc s
  | .xsrD e rs1 rs2 sc => execXsrD e rs1 rs2 sc s
  | .xvfence e => execXvfence e s
  | .xvcvtf e vd vs2 vs1 fd vm => execXvcvtf e vd vs2 vs1 fd vm s
  | .xvcvtt e vd vs2 vs1 fd vm => execXvcvtt e vd vs2 vs1 fd vm s
  | .xvcvttSr e vd vs2 vs1 fd vm => execXvcvttSr e vd vs2 vs1 fd vm s
  | .xvscale e vd vs2 vs1 fd vm => execXvscale e vd vs2 vs1 fd vm s
  | .xvsclf e vd vs2 vs1 fd vm => execXvsclf e vd vs2 vs1 fd vm s
  | .xvdot e vd vs2 vs1 fd vm => execXvdot e vd vs2 vs1 fd vm s
  | .engineLoad e rs1 imm op ext => execEngineLoad e rs1 imm op ext s
  | .engineStore e rs1 imm op => execEngineStore e rs1 imm op s
  | .engineAmo e op rd rs1 rs2 dbl aq rl => execEngineAmo e op rd rs1 rs2 dbl aq rl s
  | .engineLr e rd rs1 dbl aq rl => execEngineLr e rd rs1 dbl aq rl s
  | .engineSc e rd rs1 rs2 dbl aq rl => execEngineSc e rd rs1 rs2 dbl aq rl s
  | .engineFence e => execEngineFence e s
  | .engineFenceI e => execEngineFenceI e s
  | .engineWfi e => execEngineWfi e s
  | .ebreak e => execEbreak e s
  | _ => .next s

/-- A decoded word with what the outside answers to its reads. -/
def withExt (i : Instr) (ext : List Byte) : Instr :=
  match i with
  | .xlaW e rd rs1 sc _ => .xlaW e rd rs1 sc ext
  | .xlaD e rd rs1 sc _ => .xlaD e rd rs1 sc ext
  | .engineLoad e rs1 imm op _ => .engineLoad e rs1 imm op ext
  | i => i

/-- ECALL by a7 (Table 5.6). -/
def ecallRun (e : Fin 128) (s : State) : Res :=
  match ((s.dev.eng e).rx 17).toNat with
  | 0 => execKend e s
  | 1 => execSexit e s
  | 2 => execSfail e s
  | _ => execEcallUnknown e s

/-- The fetch of the two bytes of code at an address (R161, R313): their page is translated for execution; a fetched UMR line
enters the instruction cache. The home of an uncached line may hold or refuse the read, and `ans` is what another node
answers. -/
def Dev.fetchAt (d : Dev) (e : Fin 128) (pc : Word) (ans : Status) : Except Dev Dev :=
  let x := d.eng e
  match d.xlate_ (.engine e) ((d.engCtx e).getD 0) pc .exec with
  | .wait d => .error d
  | .hit pa =>
    match d.target true pa with
    | .umr off =>
      if !d.backed off then .error (d.failEng e .unmapped 0 pc.toNat)
      else if x.l1i.contains (off / 64) then .ok d
      else match d.readGate off 2 with
        | .hold d => .error d
        | .refuse st => .error (d.failEng e st 0 pc.toNat)
        | .go d =>
          if d.cohPoison off 2 then .error (d.failEng e .poison 0 pc.toNat)
          else .ok ((d.setEng e { x with l1i := (x.l1i ++ [off / 64]).drop (x.l1i.length + 1 - 512) }).homeTouch (64 * (off / 64)) 64)
    | .remote n off =>
      (match localTarget off with
       | .umr _ =>
         if !d.live n then .error (d.failEng e .unreachable n pc.toNat)
         else if !d.reach n then .error d
         else if ans != .ok then .error (d.failEng e ans 0 pc.toNat) else .ok d
       | _ => .error (d.failEng e .unmapped 0 pc.toNat))
    | _ => .error (d.failEng e .unmapped 0 pc.toNat)

/-- The fetch of the instruction at pc, `long` for one of 32 bits, whose second half may lie in another page or line. -/
def Dev.fetch (d : Dev) (e : Fin 128) (long : Bool) (ans : Status) : Except Dev Dev :=
  let pc := (d.eng e).pc
  match d.fetchAt e pc ans with
  | .error d => .error d
  | .ok d => if long && pc.toNat % 64 = 62 then d.fetchAt e (pc + 2) ans else .ok d

/-- The pc of a 16-bit instruction that has retired. -/
def fixLen (e : Fin 128) (was : Word) (s : State) : State :=
  { s with dev := s.dev.modEng e (fun x => if x.instret = was then x else { x with pc := x.pc - 2 }) }

/-- Run one 32-bit word, or the expansion of a 16-bit one. -/
def wordRun (e : Fin 128) (w : Option Nat) (len : Nat) (ext : List Byte) (s : State) : Res :=
  match w with
  | none => onDev s (fun d => d.engExc e excIllegal 0)
  | some w =>
    if w = 0x00000073 then ecallRun e s
    else match decodeRow e (BitVec.ofNat 32 w) with
      | some i =>
        (match rowRun (withExt i ext) s with
         | .next t => .next (if len = 2 then fixLen e (s.dev.eng e).instret t else t)
         | r => r)
      | none =>
        onDev s (fun d =>
          match d.plain e w len ext with
          | some d => d
          | none => d.engExc e excIllegal 0)

/-- ENGINE_INSTRUCTION. -/
def execEngineInstruction (e : Fin 128) (w : CodeWord) (s : State) : Res :=
  if s.dev.canRun e || s.dev.midLoad e then
    let b := w.bits.toNat
    let long := fld b 0 2 == 3
    match s.dev.fetch e long w.ans with
    | .error d => .next { s with dev := d }
    | .ok d =>
      let s := { s with dev := d }
      if long then wordRun e (some b) 4 w.ext s
      else wordRun e (expandC (b % 65536)) 2 w.ext s
  else .next s

end Sys2Proof.Machine
end

