-- ==== Sys2Proof/Machine/Held.lean ====
section
/-!
DEFINITION. Writes, signals and stores that wait at their source, and their release (R18, R19, R222, R238).
-/
namespace Sys2Proof.Machine

/-- Whether a held entry is one that a HELD_WRITE_RELEASE of a source stands for. -/
def OutW.heldOf (w : OutW) (src : Agent) : Bool :=
  w.held && (match src with | .region _ => w.src == src | _ => w.of src 0)

/-- Whether an entry must go on waiting, by what its source issued before it. -/
def Dev.stillHeld (d : Dev) (w : OutW) (t : Target) : Bool :=
  d.mustHold w.src w.rq w.path t (w.what == .mem) w.what.isSig || (w.what.isSig && !d.released w.src .package)

/-- Whether the Vat bytes of a write are still open to a source outside the step (R177). -/
def Dev.vatStillOpen (d : Dev) (w : OutW) (v : Nat) : Bool :=
  match w.src with
  | .aperture i => d.vatOpen (d.apt i.val).ctx.toNat v w.bytes.length
  | .core h => d.vatOpen (d.core h).ctx v w.bytes.length
  | .tongs _ _ =>
    (match w.step.bind d.step? with
     | some s => s.covers v w.bytes.length || d.vatOpen s.ctx v w.bytes.length
     | none => false)
  | _ => true

/-- An entry leaves its source. A Vat write whose bytes are no longer open is discarded (R26, R177). -/
def Dev.leaves (d : Dev) (w : OutW) (t : Target) : Dev :=
  match w.what with
  | .mem =>
    (match t, w.src with
     | .vat off, .aperture i =>
       if d.vatStillOpen w (off - vatBase) then d.launch w t else apDrop d i.val (d.apOffset i w.addr) .unmapped
     | .vat off, .core h => if d.vatStillOpen w (off - vatBase) then d.launch w t else d.exc h 7 (BitVec.ofNat 64 w.addr)
     | .vat off, .tongs e c => if d.vatStillOpen w (off - vatBase) then d.launch w t else d.failUser (.tongs e c) .unmapped 0 w.addr
     | _, _ => d.launch w t)
  | .sig s obj v => d.rennetSend (match t with | .remote n _ => some n | _ => none) w.src none (.sig s .sig obj v)
  | .cached a => (match w.src with | .core h => d.coreTry h a | _ => d)
  | .notify page off len v => notify d page off len v

/-- HELD_WRITE_RELEASE (R18): the source's first held write leaves once nothing that it issued before holds it back. -/
def releaseHeld (d : Dev) (src : Agent) : Dev :=
  match d.writes.find? (fun w => w.heldOf src) with
  | none => d
  | some w =>
    let before := d.writes.takeWhile (fun x => !x.heldOf src)
    let after := d.writes.drop (before.length + 1)
    let t := d.target true w.addr
    let e := { d with writes := before }
    if e.stillHeld w t then d
    else
      let r := e.leaves w t
      ({ r with writes := r.writes ++ after }).settle.hostSettle

def execHeldWriteRelease (src : Agent) (s : State) : Res := onDev s (fun d => releaseHeld d src)

end Sys2Proof.Machine
end

