-- ==== Sys2Proof/Machine/Dispatch.lean ====
section
/-!
DEFINITION. One arm for each command: the meaning it has.
-/
namespace Sys2Proof.Machine

/-- The command's effect on everything but the queue. -/
def exec (i : Instr) (s : State) : Host.Outcome State Fault Refusal :=
  match i with
  | .onpackageLinkFailure link => Sys2Proof.Machine.execOnpackageLinkFailure link s
  | .heldWriteRelease src => Sys2Proof.Machine.execHeldWriteRelease src s
  | .xaissue e rd rs1 rl => Sys2Proof.Machine.execXaissue e rd rs1 rl s
  | .opEnter => Sys2Proof.Machine.execOpEnter s
  | .shareStart h => Sys2Proof.Machine.execShareStart h s
  | .shareComplete h cycles => Sys2Proof.Machine.execShareComplete h cycles s
  | .columnSubstitute h => Sys2Proof.Machine.execColumnSubstitute h s
  | .xawait e rs1 => Sys2Proof.Machine.execXawait e rs1 s
  | .xapoll e rd rs1 => Sys2Proof.Machine.execXapoll e rd rs1 s
  | .xtissue e rd rs1 rs2 rl => Sys2Proof.Machine.execXtissue e rd rs1 rs2 rl s
  | .tongsEnter e c => Sys2Proof.Machine.execTongsEnter e c s
  | .xtwait e rs1 => Sys2Proof.Machine.execXtwait e rs1 s
  | .xtpoll e rd rs1 => Sys2Proof.Machine.execXtpoll e rd rs1 s
  | .xrsig e rs1 rs2 sc => Sys2Proof.Machine.execXrsig e rs1 rs2 sc s
  | .xradd e rd rs1 rs2 sc => Sys2Proof.Machine.execXradd e rd rs1 rs2 sc s
  | .xrwait e rd rs1 rs2 sc => Sys2Proof.Machine.execXrwait e rd rs1 rs2 sc s
  | .xacq e sc => Sys2Proof.Machine.execXacq e sc s
  | .xrel e sc => Sys2Proof.Machine.execXrel e sc s
  | .xacqrel e sc => Sys2Proof.Machine.execXacqrel e sc s
  | .xlaW e rd rs1 sc ext => Sys2Proof.Machine.execXlaW e rd rs1 sc ext s
  | .xlaD e rd rs1 sc ext => Sys2Proof.Machine.execXlaD e rd rs1 sc ext s
  | .xsrW e rs1 rs2 sc => Sys2Proof.Machine.execXsrW e rs1 rs2 sc s
  | .xsrD e rs1 rs2 sc => Sys2Proof.Machine.execXsrD e rs1 rs2 sc s
  | .xvfence e => Sys2Proof.Machine.execXvfence e s
  | .xvcvtf e vd vs2 vs1 fd vm => Sys2Proof.Machine.execXvcvtf e vd vs2 vs1 fd vm s
  | .xvcvtt e vd vs2 vs1 fd vm => Sys2Proof.Machine.execXvcvtt e vd vs2 vs1 fd vm s
  | .xvcvttSr e vd vs2 vs1 fd vm => Sys2Proof.Machine.execXvcvttSr e vd vs2 vs1 fd vm s
  | .xvscale e vd vs2 vs1 fd vm => Sys2Proof.Machine.execXvscale e vd vs2 vs1 fd vm s
  | .xvsclf e vd vs2 vs1 fd vm => Sys2Proof.Machine.execXvsclf e vd vs2 vs1 fd vm s
  | .xvdot e vd vs2 vs1 fd vm => Sys2Proof.Machine.execXvdot e vd vs2 vs1 fd vm s
  | .xsrseedWrite e v => Sys2Proof.Machine.execXsrseedWrite e v s
  | .engineFence e => Sys2Proof.Machine.execEngineFence e s
  | .engineFenceI e => Sys2Proof.Machine.execEngineFenceI e s
  | .engineWfi e => Sys2Proof.Machine.execEngineWfi e s
  | .ebreak e => Sys2Proof.Machine.execEbreak e s
  | .kend e => Sys2Proof.Machine.execKend e s
  | .sexit e => Sys2Proof.Machine.execSexit e s
  | .sfail e => Sys2Proof.Machine.execSfail e s
  | .ecallUnknown e => Sys2Proof.Machine.execEcallUnknown e s
  | .engineLoad e rs1 imm op ext => Sys2Proof.Machine.execEngineLoad e rs1 imm op ext s
  | .engineStore e rs1 imm op => Sys2Proof.Machine.execEngineStore e rs1 imm op s
  | .engineAmo e op rd rs1 rs2 dbl aq rl => Sys2Proof.Machine.execEngineAmo e op rd rs1 rs2 dbl aq rl s
  | .engineLr e rd rs1 dbl aq rl => Sys2Proof.Machine.execEngineLr e rd rs1 dbl aq rl s
  | .engineSc e rd rs1 rs2 dbl aq rl => Sys2Proof.Machine.execEngineSc e rd rs1 rs2 dbl aq rl s
  | .descriptorFetch ring ext => Sys2Proof.Machine.execDescriptorFetch ring ext s
  | .stepImageCheck step ext => Sys2Proof.Machine.execStepImageCheck step ext s
  | .schedulerWalk h => Sys2Proof.Machine.execSchedulerWalk h s
  | .vatFillDone step => Sys2Proof.Machine.execVatFillDone step s
  | .kernelEnd step => Sys2Proof.Machine.execKernelEnd step s
  | .stepDrainDone step => Sys2Proof.Machine.execStepDrainDone step s
  | .completionRecordPost ctx => Sys2Proof.Machine.execCompletionRecordPost ctx s
  | .vatClearDone h => Sys2Proof.Machine.execVatClearDone h s
  | .tongsPiece h t ext => Sys2Proof.Machine.execTongsPiece h t ext s
  | .tongsTransferComplete e c => Sys2Proof.Machine.execTongsTransferComplete e c s
  | .rennetSignal src kind obj operand => Sys2Proof.Machine.execRennetSignal src kind obj operand s
  | .rennetConfigure src obj operand => Sys2Proof.Machine.execRennetConfigure src obj operand s
  | .rennetSetRealign src obj operand => Sys2Proof.Machine.execRennetSetRealign src obj operand s
  | .rennetAdd src obj v => Sys2Proof.Machine.execRennetAdd src obj v s
  | .rennetWaitRegister src obj operand sc => Sys2Proof.Machine.execRennetWaitRegister src obj operand sc s
  | .rennetWake e => Sys2Proof.Machine.execRennetWake e s
  | .rennetWindowLoad u a => Sys2Proof.Machine.execRennetWindowLoad u a s
  | .rennetWindowStore u addr v => Sys2Proof.Machine.execRennetWindowStore u addr v s
  | .rennetWindowAmoadd h rd addr v => Sys2Proof.Machine.execRennetWindowAmoadd h rd addr v s
  | .landingAdd => Sys2Proof.Machine.execLandingAdd s
  | .deadlockWindowExpiry ctx => Sys2Proof.Machine.execDeadlockWindowExpiry ctx s
  | .dumpComplete => Sys2Proof.Machine.execDumpComplete s
  | .rdShared req addr ticket => Sys2Proof.Machine.execRdShared req addr ticket s
  | .rdUnique req addr ticket => Sys2Proof.Machine.execRdUnique req addr ticket s
  | .claimUnique req addr ticket => Sys2Proof.Machine.execClaimUnique req addr ticket s
  | .rdOnce req addr ticket => Sys2Proof.Machine.execRdOnce req addr ticket s
  | .wrLine req addr bytes ticket => Sys2Proof.Machine.execWrLine req addr bytes ticket s
  | .wrPart req addr bytes ticket => Sys2Proof.Machine.execWrPart req addr bytes ticket s
  | .atomic req addr op ticket => Sys2Proof.Machine.execAtomic req addr op ticket s
  | .snpShared holder addr => Sys2Proof.Machine.execSnpShared holder addr s
  | .snpUnique holder addr => Sys2Proof.Machine.execSnpUnique holder addr s
  | .snpInv holder addr => Sys2Proof.Machine.execSnpInv holder addr s
  | .snpOnce holder addr => Sys2Proof.Machine.execSnpOnce holder addr s
  | .snpBack addr => Sys2Proof.Machine.execSnpBack addr s
  | .snpAck holder addr dirty wbSent => Sys2Proof.Machine.execSnpAck holder addr dirty wbSent s
  | .compAck req addr => Sys2Proof.Machine.execCompAck req addr s
  | .comp req addr body => Sys2Proof.Machine.execComp req addr body s
  | .data req addr bytes grant poison => Sys2Proof.Machine.execData req addr bytes grant poison s
  | .retry req addr ticket => Sys2Proof.Machine.execRetry req addr ticket s
  | .redAck e c addr poison => Sys2Proof.Machine.execRedAck e c addr poison s
  | .wbDirty holder addr bytes poison => Sys2Proof.Machine.execWbDirty holder addr bytes poison s
  | .evict holder addr => Sys2Proof.Machine.execEvict holder addr s
  | .redAdd src addr ty bytes => Sys2Proof.Machine.execRedAdd src addr ty bytes s
  | .redMin src addr ty bytes => Sys2Proof.Machine.execRedMin src addr ty bytes s
  | .redMax src addr ty bytes => Sys2Proof.Machine.execRedMax src addr ty bytes s
  | .ticketExpiry slice ticket => Sys2Proof.Machine.execTicketExpiry slice ticket s
  | .proxyHoldExpiry addr => Sys2Proof.Machine.execProxyHoldExpiry addr s
  | .lrHoldExpiry h => Sys2Proof.Machine.execLrHoldExpiry h s
  | .coreLoad h fetch rd addr wLog signed ty ext => Sys2Proof.Machine.execCoreLoad h fetch rd addr wLog signed ty ext s
  | .coreStore h addr bytes ty => Sys2Proof.Machine.execCoreStore h addr bytes ty s
  | .coreAmo h op rd addr v dbl aq rl => Sys2Proof.Machine.execCoreAmo h op rd addr v dbl aq rl s
  | .coreLr h rd addr dbl aq rl => Sys2Proof.Machine.execCoreLr h rd addr dbl aq rl s
  | .coreSc h rd addr v dbl aq rl => Sys2Proof.Machine.execCoreSc h rd addr v dbl aq rl s
  | .coreFence h pred succ tso => Sys2Proof.Machine.execCoreFence h pred succ tso s
  | .cboZero h addr => Sys2Proof.Machine.execCboZero h addr s
  | .sfenceVma h => Sys2Proof.Machine.execSfenceVma h s
  | .spdomWrite h v => Sys2Proof.Machine.execSpdomWrite h v s
  | .coreTrap h interrupt cause tval toS => Sys2Proof.Machine.execCoreTrap h interrupt cause tval toS s
  | .unbackedStoreReport h addr => Sys2Proof.Machine.execUnbackedStoreReport h addr s
  | .mtimerMatch h => Sys2Proof.Machine.execMtimerMatch h s
  | .translationWalk h ctx va => Sys2Proof.Machine.execTranslationWalk h ctx va s
  | .prefetchWalk h ctx va t => Sys2Proof.Machine.execPrefetchWalk h ctx va t s
  | .faultRecordWrite ctx => Sys2Proof.Machine.execFaultRecordWrite ctx s
  | .atsInvalidationRequest ctx addr => Sys2Proof.Machine.execAtsInvalidationRequest ctx addr s
  | .atsTranslationCompletion ctx addr xaddr => Sys2Proof.Machine.execAtsTranslationCompletion ctx addr xaddr s
  | .epochEnd => Sys2Proof.Machine.execEpochEnd s
  | .migrationStart frame => Sys2Proof.Machine.execMigrationStart frame s
  | .migrationPassEnd frame => Sys2Proof.Machine.execMigrationPassEnd frame s
  | .migrationFlip frame => Sys2Proof.Machine.execMigrationFlip frame s
  | .fillFlip frame => Sys2Proof.Machine.execFillFlip frame s
  | .caveUnitRead frame unit res => Sys2Proof.Machine.execCaveUnitRead frame unit res s
  | .caveStagingProgram ok => Sys2Proof.Machine.execCaveStagingProgram ok s
  | .cavePatrol weak bad => Sys2Proof.Machine.execCavePatrol weak bad s
  | .redBufferIdleWriteback addr => Sys2Proof.Machine.execRedBufferIdleWriteback addr s
  | .brineVisit res => Sys2Proof.Machine.execBrineVisit res s
  | .laneRepair u => Sys2Proof.Machine.execLaneRepair u s
  | .hbmTempSample h stack temp => Sys2Proof.Machine.execHbmTempSample h stack temp s
  | .thermalClockStep die => Sys2Proof.Machine.execThermalClockStep die s
  | .marginPointDone pass => Sys2Proof.Machine.execMarginPointDone pass s
  | .linkTrainingDone p lanes => Sys2Proof.Machine.execLinkTrainingDone p lanes s
  | .identityExchange p ix => Sys2Proof.Machine.execIdentityExchange p ix s
  | .keyConfirmation p tag => Sys2Proof.Machine.execKeyConfirmation p tag s
  | .bringupRetryTimer p => Sys2Proof.Machine.execBringupRetryTimer p s
  | .linkFrameReceive p hdr crcOk tagOk => Sys2Proof.Machine.execLinkFrameReceive p hdr crcOk tagOk s
  | .replayRequest p seq => Sys2Proof.Machine.execReplayRequest p seq s
  | .idleFrameTimer p => Sys2Proof.Machine.execIdleFrameTimer p s
  | .laneDegrade p bad => Sys2Proof.Machine.execLaneDegrade p bad s
  | .linkRetrainDone p => Sys2Proof.Machine.execLinkRetrainDone p s
  | .linkSilenceTimeout p => Sys2Proof.Machine.execLinkSilenceTimeout p s
  | .linkStateReceive a b up => Sys2Proof.Machine.execLinkStateReceive a b up s
  | .chainPacketReceive p k => Sys2Proof.Machine.execChainPacketReceive p k s
  | .packetForward p k => Sys2Proof.Machine.execPacketForward p k s
  | .chainAckReceive k => Sys2Proof.Machine.execChainAckReceive k s
  | .ackTimer src cls => Sys2Proof.Machine.execAckTimer src cls s
  | .retransmitTimeout dst cls => Sys2Proof.Machine.execRetransmitTimeout dst cls s
  | .rekeyTimer p => Sys2Proof.Machine.execRekeyTimer p s
  | .rekeyConfirm p nonce tag => Sys2Proof.Machine.execRekeyConfirm p nonce tag s
  | .heartbeatTimer => Sys2Proof.Machine.execHeartbeatTimer s
  | .heartbeatReceive n inc => Sys2Proof.Machine.execHeartbeatReceive n inc s
  | .heartbeatTimeout n => Sys2Proof.Machine.execHeartbeatTimeout n s
  | .deadDeclarationReceive n inc => Sys2Proof.Machine.execDeadDeclarationReceive n inc s
  | .noLinkTimeout => Sys2Proof.Machine.execNoLinkTimeout s
  | .departureReceive n => Sys2Proof.Machine.execDepartureReceive n s
  | .slotChangeReceive n slot => Sys2Proof.Machine.execSlotChangeReceive n slot s
  | .functionLevelReset => Sys2Proof.Machine.execFunctionLevelReset s
  | .hostApertureWrite off bytes => Sys2Proof.Machine.execHostApertureWrite off bytes s
  | .hostApertureRead off len ext => Sys2Proof.Machine.execHostApertureRead off len ext s
  | .apertureReadTimeout id => Sys2Proof.Machine.execApertureReadTimeout id s
  | .apertureEnable ix w => Sys2Proof.Machine.execApertureEnable ix w s
  | .apertureDisable ix w => Sys2Proof.Machine.execApertureDisable ix w s
  | .apertureDrainDone ix => Sys2Proof.Machine.execApertureDrainDone ix s
  | .peerPlacementWrite p bytes => Sys2Proof.Machine.execPeerPlacementWrite p bytes s
  | .peerPlacementRead off n => Sys2Proof.Machine.execPeerPlacementRead off n s
  | .notifyWrite page off len v => Sys2Proof.Machine.execNotifyWrite page off len v s
  | .doorbellLineRead line ext => Sys2Proof.Machine.execDoorbellLineRead line ext s
  | .headWordReread ctx ext => Sys2Proof.Machine.execHeadWordReread ctx ext s
  | .moderationTimer ctx => Sys2Proof.Machine.execModerationTimer ctx s
  | .eventRecordPost => Sys2Proof.Machine.execEventRecordPost s
  | .adminTailWrite v unknown => Sys2Proof.Machine.execAdminTailWrite v unknown s
  | .adminCommandComplete slot => Sys2Proof.Machine.execAdminCommandComplete slot s
  | .adminRingEnable w => Sys2Proof.Machine.execAdminRingEnable w s
  | .adminRingDisable w => Sys2Proof.Machine.execAdminRingDisable w s
  | .adminRingDrainDone => Sys2Proof.Machine.execAdminRingDrainDone s
  | .eventRingEnable w => Sys2Proof.Machine.execEventRingEnable w s
  | .eventRingDisable w => Sys2Proof.Machine.execEventRingDisable w s
  | .eventRingDrainDone => Sys2Proof.Machine.execEventRingDrainDone s
  | .evtHeadWrite v => Sys2Proof.Machine.execEvtHeadWrite v s
  | .hartRelease h => Sys2Proof.Machine.execHartRelease h s
  | .recoveryGo => Sys2Proof.Machine.execRecoveryGo s
  | .gpioEdge n rising => Sys2Proof.Machine.execGpioEdge n rising s
  | .gpioStatClear mask => Sys2Proof.Machine.execGpioStatClear mask s
  | .setupRegisterWrite off len v => Sys2Proof.Machine.execSetupRegisterWrite off len v s
  | .ctxCreate c => Sys2Proof.Machine.execCtxCreate c s
  | .ctxDestroy c => Sys2Proof.Machine.execCtxDestroy c s
  | .ctxRoot c => Sys2Proof.Machine.execCtxRoot c s
  | .ctxParams c => Sys2Proof.Machine.execCtxParams c s
  | .acctSet c => Sys2Proof.Machine.execAcctSet c s
  | .acctNow c => Sys2Proof.Machine.execAcctNow c s
  | .ringCreate c ext => Sys2Proof.Machine.execRingCreate c ext s
  | .ringDestroy c => Sys2Proof.Machine.execRingDestroy c s
  | .dblineSet c => Sys2Proof.Machine.execDblineSet c s
  | .regionReg c => Sys2Proof.Machine.execRegionReg c s
  | .regionEnable c => Sys2Proof.Machine.execRegionEnable c s
  | .regionDisable c => Sys2Proof.Machine.execRegionDisable c s
  | .regionFree c => Sys2Proof.Machine.execRegionFree c s
  | .flushImages c => Sys2Proof.Machine.execFlushImages c s
  | .saveArea c => Sys2Proof.Machine.execSaveArea c s
  | .rennetPools c => Sys2Proof.Machine.execRennetPools c s
  | .rennetAlloc c => Sys2Proof.Machine.execRennetAlloc c s
  | .rennetFree c => Sys2Proof.Machine.execRennetFree c s
  | .dumpReg c => Sys2Proof.Machine.execDumpReg c s
  | .dump c => Sys2Proof.Machine.execDump c s
  | .faultQueue c => Sys2Proof.Machine.execFaultQueue c s
  | .faultReply c => Sys2Proof.Machine.execFaultReply c s
  | .invalidate c => Sys2Proof.Machine.execInvalidate c s
  | .frameAlloc c => Sys2Proof.Machine.execFrameAlloc c s
  | .frameFree c => Sys2Proof.Machine.execFrameFree c s
  | .frameAttach c => Sys2Proof.Machine.execFrameAttach c s
  | .frameDetach c => Sys2Proof.Machine.execFrameDetach c s
  | .framePolicy c => Sys2Proof.Machine.execFramePolicy c s
  | .frameMove c => Sys2Proof.Machine.execFrameMove c s
  | .frameQuery c => Sys2Proof.Machine.execFrameQuery c s
  | .quotaSet c => Sys2Proof.Machine.execQuotaSet c s
  | .tierParams c => Sys2Proof.Machine.execTierParams c s
  | .caveParams c => Sys2Proof.Machine.execCaveParams c s
  | .caveHealth c => Sys2Proof.Machine.execCaveHealth c s
  | .brinePeriod c => Sys2Proof.Machine.execBrinePeriod c s
  | .hbmMargin c => Sys2Proof.Machine.execHbmMargin c s
  | .chainJoin c => Sys2Proof.Machine.execChainJoin c s
  | .chainLeave c => Sys2Proof.Machine.execChainLeave c s
  | .chainPortDisable c => Sys2Proof.Machine.execChainPortDisable c s
  | .chainPortEnable c => Sys2Proof.Machine.execChainPortEnable c s
  | .chainPortRetrain c => Sys2Proof.Machine.execChainPortRetrain c s
  | .chainStatus c => Sys2Proof.Machine.execChainStatus c s
  | .cohStats c => Sys2Proof.Machine.execCohStats c s
  | .candidateBlockedTimeout h step => Sys2Proof.Machine.execCandidateBlockedTimeout h step s
  | .preemptStart step => Sys2Proof.Machine.execPreemptStart step s
  | .preemptSave step => Sys2Proof.Machine.execPreemptSave step s
  | .preemptSaveDone step => Sys2Proof.Machine.execPreemptSaveDone step s
  | .restoreDone step => Sys2Proof.Machine.execRestoreDone step s
  | .spareEngineSubstitute h c => Sys2Proof.Machine.execSpareEngineSubstitute h c s
  | .vinSample vin10mV iin10mA => Sys2Proof.Machine.execVinSample vin10mV iin10mA s
  | .overcurrent iin10mA => Sys2Proof.Machine.execOvercurrent iin10mA s
  | .xtalFail => Sys2Proof.Machine.execXtalFail s
  | .xtalRecover => Sys2Proof.Machine.execXtalRecover s
  | .clockChange c mhz => Sys2Proof.Machine.execClockChange c mhz s
  | .domainGate dom => Sys2Proof.Machine.execDomainGate dom s
  | .drainTimeout dom => Sys2Proof.Machine.execDrainTimeout dom s
  | .domainWake dom cause => Sys2Proof.Machine.execDomainWake dom cause s
  | .domainWakeDone dom => Sys2Proof.Machine.execDomainWakeDone dom s
  | .glowEntry => Sys2Proof.Machine.execGlowEntry s
  | .glowExit cause => Sys2Proof.Machine.execGlowExit cause s
  | .bankEntry => Sys2Proof.Machine.execBankEntry s
  | .bankExit cause => Sys2Proof.Machine.execBankExit cause s
  | .coldExit cause bootSel addrStrap => Sys2Proof.Machine.execColdExit cause bootSel addrStrap s
  | .powerDemand wWest wEast hubDraw => Sys2Proof.Machine.execPowerDemand wWest wEast hubDraw s
  | .powerGrant h seq watts => Sys2Proof.Machine.execPowerGrant h seq watts s
  | .grantLapse h => Sys2Proof.Machine.execGrantLapse h s
  | .junctionTempSample die sensor temp => Sys2Proof.Machine.execJunctionTempSample die sensor temp s
  | .thermtripRelease => Sys2Proof.Machine.execThermtripRelease s
  | .powerPolicy c => Sys2Proof.Machine.execPowerPolicy c s
  | .powerCold c => Sys2Proof.Machine.execPowerCold c s
  | .powerLimit c => Sys2Proof.Machine.execPowerLimit c s
  | .coreClock c => Sys2Proof.Machine.execCoreClock c s
  | .powerStatus c => Sys2Proof.Machine.execPowerStatus c s
  | .wakeGpio c => Sys2Proof.Machine.execWakeGpio c s
  | .correctedError u loc => Sys2Proof.Machine.execCorrectedError u loc s
  | .uncorrectedError u loc => Sys2Proof.Machine.execUncorrectedError u loc s
  | .errorCounterLeak u uncorrected => Sys2Proof.Machine.execErrorCounterLeak u uncorrected s
  | .bellowsProbe die => Sys2Proof.Machine.execBellowsProbe die s
  | .probeTimeout u => Sys2Proof.Machine.execProbeTimeout u s
  | .containmentSettled => Sys2Proof.Machine.execContainmentSettled s
  | .selfTestDone u pass => Sys2Proof.Machine.execSelfTestDone u pass s
  | .ringResume c => Sys2Proof.Machine.execRingResume c s
  | .faultThresh c => Sys2Proof.Machine.execFaultThresh c s
  | .faultCounters c => Sys2Proof.Machine.execFaultCounters c s
  | .errInject c => Sys2Proof.Machine.execErrInject c s
  | .secStatus c => Sys2Proof.Machine.execSecStatus c s
  | .secNonce c => Sys2Proof.Machine.execSecNonce c s
  | .debugAuth c obj => Sys2Proof.Machine.execDebugAuth c obj s
  | .rotateFabric c obj => Sys2Proof.Machine.execRotateFabric c obj s
  | .debugKey c obj => Sys2Proof.Machine.execDebugKey c obj s
  | .cosignKey c obj => Sys2Proof.Machine.execCosignKey c obj s
  | .advanceSvn c obj => Sys2Proof.Machine.execAdvanceSvn c obj s
  | .returnAuth c obj => Sys2Proof.Machine.execReturnAuth c obj s
  | .secClose c => Sys2Proof.Machine.execSecClose c s
  | .secProvision c rec => Sys2Proof.Machine.execSecProvision c rec s
  | .attest c nonce => Sys2Proof.Machine.execAttest c nonce s
  | .attestLog c => Sys2Proof.Machine.execAttestLog c s
  | .secCert c => Sys2Proof.Machine.execSecCert c s
  | .nonceExpiry => Sys2Proof.Machine.execNonceExpiry s
  | .sessionExpiry => Sys2Proof.Machine.execSessionExpiry s
  | .doeAttest nonce => Sys2Proof.Machine.execDoeAttest nonce s
  | .doeLog => Sys2Proof.Machine.execDoeLog s
  | .doeCert => Sys2Proof.Machine.execDoeCert s
  | .idcode => Sys2Proof.Machine.execIdcode s
  | .samplePreload pins => Sys2Proof.Machine.execSamplePreload pins s
  | .extest drive => Sys2Proof.Machine.execExtest drive s
  | .dtmcs v => Sys2Proof.Machine.execDtmcs v s
  | .dmi die addr write v => Sys2Proof.Machine.execDmi die addr write v s
  | .rindMbox m => Sys2Proof.Machine.execRindMbox m s
  | .bypass => Sys2Proof.Machine.execBypass s
  | .abstractCommand t k => Sys2Proof.Machine.execAbstractCommand t k s
  | .hartHalt t => Sys2Proof.Machine.execHartHalt t s
  | .hartResume t => Sys2Proof.Machine.execHartResume t s
  | .singleStep t => Sys2Proof.Machine.execSingleStep t s
  | .systemBusAccess die addr write v => Sys2Proof.Machine.execSystemBusAccess die addr write v s
  | .vin52Rise bootSel addrStrap => Sys2Proof.Machine.execVin52Rise bootSel addrStrap s
  | .perstAssert bootSel addrStrap => Sys2Proof.Machine.execPerstAssert bootSel addrStrap s
  | .perstDeassert => Sys2Proof.Machine.execPerstDeassert s
  | .imageLoad img => Sys2Proof.Machine.execImageLoad img s
  | .memoryTraining stackOkW stackOkE ddrOk dimmGB => Sys2Proof.Machine.execMemoryTraining stackOkW stackOkE ddrOk dimmGB s
  | .caveMount pop factory spare => Sys2Proof.Machine.execCaveMount pop factory spare s
  | .pldmFirmwareUpdate img => Sys2Proof.Machine.execPldmFirmwareUpdate img s
  | .activateFirmware selfContained => Sys2Proof.Machine.execActivateFirmware selfContained s
  | .spiProgramDone ok => Sys2Proof.Machine.execSpiProgramDone ok s
  | .platformEventRead => Sys2Proof.Machine.execPlatformEventRead s
  | .pldmSensorRead sensor => Sys2Proof.Machine.execPldmSensorRead sensor s
  | .engineInstruction e w => Sys2Proof.Machine.execEngineInstruction e w s
  | .pcieLinkUp => Sys2Proof.Machine.execPcieLinkUp s
  | .domainPowerDownDone dom => Sys2Proof.Machine.execDomainPowerDownDone dom s
  | .bankedEntryDone => Sys2Proof.Machine.execBankedEntryDone s

end Sys2Proof.Machine
end

