-- ==== Sys2Proof/Machine/Tick.lean ====
section
/-!
DEFINITION. What happens when no command waits: one period of the 24 MHz counts passes (log 2).
-/
namespace Sys2Proof.Machine

/-- Whether the halves' always-on islands have power (R489). -/
def Dev.islandsUp (d : Dev) : Bool := d.power.vinOk && d.power.pstate != .cold && !d.boot.waitPerst

/-- The next point of a margining sweep starts (R391, R392). -/
def Dev.marginGo (d : Dev) : Dev :=
  if d.power.pstate ≠ .working then d
  else d.modHbm (fun h => { h with margin := h.margin.map (fun m => { m with held := true }) })

/-- One period of the local counts, which no command changes (R489); a RETURN that came through the mailbox goes on (R537), and
reads of the host that can be answered are (R440). Then a margining sweep goes on (log 72). -/
def Dev.tick (d : Dev) : Dev :=
  (Dev.hostSettle (Dev.mboxReturnGo
    { d with
      hubCount := if d.power.vinOk then d.hubCount + 1 else d.hubCount
      count := if d.islandsUp then ⟨d.count.w + 1, d.count.e + 1⟩ else d.count })).marginGo

end Sys2Proof.Machine
end

