-- ==== Sys2Proof/Safety.lean ====
section
/-!
DEFINITION. The words that statements about the package are made of: what a command leaves alone, and what every step
keeps.
-/
namespace Sys2Proof.Machine

/-- Every byte of memory reads as it did. -/
def SameBytes (d d' : Dev) : Prop := ∀ a, cellGet d'.mem a = cellGet d.mem a

/-- Every byte of memory outside `n` bytes at `lo` reads as it did. -/
def SameBytesBut (lo n : Nat) (d d' : Dev) : Prop := ∀ a, (a < lo ∨ lo + n ≤ a) → cellGet d'.mem a = cellGet d.mem a

/-- The package differs in one engine alone. -/
def OnlyEngine (e : Fin 128) (d d' : Dev) : Prop := { d' with engines := d.engines } = d ∧ ∀ g, g ≠ e → d'.eng g = d.eng g

/-- The package differs in one application core alone. -/
def OnlyCore (h : Fin 64) (d d' : Dev) : Prop := { d' with cores := d.cores } = d ∧ ∀ g, g ≠ h → d'.core g = d.core g

/-- The home of this node takes request `m`, at the address `w` names, now: the message in flight is the one meant and
leaves `d0`, its frame may be reached, its line has no transaction and no ticket ahead of it, and the slice has room and a
free ticket. -/
def HomeTakes (d : Dev) (w : Word) (m : NMsg) (d0 : Dev) : Prop :=
  d.maddr w = some m.addr ∧ maNode m.addr = none ∧ m.ticket = none ∧ d.outOfOrder m = false ∧
  d.arriveMsg m (fun x => x.ticket == m.ticket && x.addr == m.addr && x.bytes == m.bytes && x.atom == m.atom) = (m, d0) ∧
  d0.frameGate m.addr = .go d0 ∧ d0.busyLine (maKey m.addr) = false ∧ d0.coh.txns.length < 448 ∧
  d0.lineTickets (maKey m.addr) = [] ∧ (d0.newTicket (d0.slice m.addr)).isSome = true ∧ d0.dirFull m = false

/-- A line with bytes `bs` put at `off`. -/
def putAt (l : List Byte) (off : Nat) (bs : List Byte) : List Byte := l.take off ++ bs ++ l.drop (off + bs.length)

/-- The device has taken the command at the head of the admin ring and reported it: an ADMIN_DONE event with the command's
identifier and slot, a status and a result (R454, R455, Table 14.9). -/
def AdmDone (d d' : Dev) (c : AdmCmd) (st : Status) (lo hi : Nat) : Prop :=
  d'.host.admHead = d.host.admHead + 1 ∧
  ∃ e, d'.host.evtQ.getLast? = some e ∧ e.kind = 1 ∧ e.status = st ∧
    e.info = BitVec.ofNat 32 (c.cid.toNat + 65536 * d.host.admHead.toNat) ∧ e.a0 = BitVec.ofNat 64 lo ∧ e.a1 = BitVec.ofNat 64 hi

/-- A background command has been accepted: it waits for ADMIN_COMMAND_COMPLETE (R456). -/
def AdmTaken (d d' : Dev) (c : AdmCmd) (b : Background) : Prop :=
  d'.host.admHead = d.host.admHead + 1 ∧ tget d'.host.bg d.host.admHead.toNat = some (c.cid, b)

/-- The operand words of an admin command are `l`, and the words above them are zero (Table 14.7). -/
def opsAre (c : AdmCmd) (l : List Word) : Prop := c.ops = l ++ List.replicate (7 - l.length) 0

/-- Nothing waits at a home or proxy slice but transactions for the answers that they have asked for. -/
def NoneHeld (d : Dev) : Prop :=
  d.coh.held = [] ∧ d.coh.redQ = [] ∧ ∀ p ∈ d.coh.txns, p.2.ack = true ∨ p.2.waits ≠ [] ∨ p.2.wbs ≠ []

/-- No engine waits for a release to complete. -/
def NoRelease (d : Dev) : Prop := ∀ e sc k, (d.eng e).run ≠ .release sc k

/-- A port that no frame of either direction brings to its rekey (R420). -/
def Port.calm (q : Port) : Prop := q.rekeying = true ∨ (q.frameCtr + 1 < rekeyFrames ∧ q.rxCtr + 1 < rekeyFrames)

/-- What a safe state is: its memory list is in canonical form, so that equal memories are equal lists. -/
def State.Safe (s : State) : Prop := Memory.wf s.dev.mem = true

/-- Run every command that waits, front first. -/
def runAll (k : Nat) (s : State) : Host.Outcome State Fault Refusal :=
  match k with
  | 0 => .next s
  | k + 1 =>
    match step s with
    | .next t => runAll k t
    | .fault f => .fault f
    | .refused r => .refused r

end Sys2Proof.Machine
end

