-- ==== Sys2Proof/WellFormed.lean ====
section
/-!
DEFINITION. Which commands are well formed: the operand lists have the lengths and the widths that the rules give them.
A command that is not is no command of the package; its meaning is total all the same.
-/
namespace Sys2Proof

/-- An admin command has words 1 to 7 beside word 0 (Table 14.7). -/
def AdmCmd.wf (c : AdmCmd) : Bool := c.ops.length == 7

/-- A segment's fields fit the register file, and only a unit-stride load is fault-only-first. -/
def VMem.wf (m : VMem) : Bool :=
  decide (m.v.val + m.nf.val < 32) &&
    (match m.mode with
     | .unit => true
     | .strided _ => !m.ff
     | .indexed _ _ _ => !m.ff)

/-- Integer loads of 1 to 8 bytes, the 8-byte one without a sign form; floating-point loads of 2 to 8 bytes. -/
def LoadOp.wf : LoadOp → Bool
  | .int _ w signed => decide (w.val < 3) || (decide (w.val = 3) && signed)
  | .fp _ w => decide (1 ≤ w.val)
  | .vec m => m.wf

/-- An integer store is of 1 to 8 bytes, a floating-point one of 2 to 8; no store is fault-only-first. -/
def StoreOp.wf : StoreOp → Bool
  | .int _ _ => true
  | .fp _ w => decide (1 ≤ w.val)
  | .vec m => m.wf && !m.ff

/-- Bytes of one element type of Table 5.7. -/
def RType.size : RType → Nat
  | .fp32 => 4
  | .bf16 => 2
  | .fp16 => 2
  | .int32 => 4
  | .int64 => 8
  | .uint32 => 4
  | .uint64 => 8

/-- A reduction carries whole elements of one line (R219). -/
def redWf (addr : Word) (ty : RType) (bytes : List Byte) : Bool :=
  decide (bytes.length % ty.size = 0) && decide (0 < bytes.length) && decide (addr.toNat % 64 + bytes.length ≤ 64)

/-- A whole 64-byte line (Table 8.5). -/
def lineWf (bytes : List Byte) : Bool := bytes.length == 64

/-- A Chain packet's length field agrees with a body that carries bytes (Table 13.4), which are at most a line. -/
def ChainBody.wf : ChainBody → Bool
  | .write a bs => decide (0 < bs.length) && decide (a.toNat % 64 + bs.length ≤ 64)
  | .red _ ty a bs => redWf a ty bs
  | .coherence m => decide (m.bytes.length ≤ 64)
  | .answer _ _ bs => decide (bs.length ≤ 64)
  | .rdOnce _ => true
  | .rennetSig _ _ => true
  | .rennetAdd _ _ => true
  | .rennetWait _ _ _ _ => true
  | .rennetCancel _ _ => true

/-- An identity record names each slot once (R393). -/
def Identity.wf (i : Identity) : Bool := decide ((i.slots.map (·.1)).Nodup)

/-- The lengths of Table 19.4 and R569: the header, a signer key and an XMSS-MT signature. An unreadable image has none. -/
def ImageIn.wf (i : ImageIn) : Bool :=
  !i.readable ||
    (i.header.length == 4096 && i.vendorKey.length == 68 && i.vendorSig.length == 18469 && i.cosignKey.length == 68 &&
      i.cosignSig.length == 18469)

/-- Whether the operands of a command have the shapes that its rule gives them. -/
def Instr.wf : Instr → Bool
  | .engineLoad _ _ _ op _ => op.wf
  | .engineStore _ _ _ op => op.wf
  | .wrLine _ a bs _ => lineWf bs && decide (a.toNat % 64 = 0)
  | .wrPart _ a bs _ => decide (0 < bs.length) && decide (a.toNat % 64 + bs.length ≤ 64)
  | .data _ a bs _ _ => lineWf bs && decide (a.toNat % 64 = 0)
  | .wbDirty _ a bs _ => lineWf bs && decide (a.toNat % 64 = 0)
  | .redAdd _ a ty bs => redWf a ty bs
  | .redMin _ a ty bs => redWf a ty bs
  | .redMax _ a ty bs => redWf a ty bs
  | .coreLoad _ _ _ _ w signed _ _ => decide (w.val < 3) || (decide (w.val = 3) && signed)
  | .coreStore _ _ bs _ => bs.length == 1 || bs.length == 2 || bs.length == 4 || bs.length == 8
  | .identityExchange _ i => i.wf
  | .chainPacketReceive _ k => k.body.wf
  | .packetForward _ k => k.body.wf
  | .chainAckReceive k => k.body.wf
  | .hostApertureWrite _ bs => decide (0 < bs.length)
  | .peerPlacementWrite _ bs => decide (0 < bs.length)
  | .hostApertureRead _ len _ => decide (0 < len)
  | .peerPlacementRead _ n => decide (0 < n.len)
  | .imageLoad img => img.wf
  | .pldmFirmwareUpdate img => img.wf
  | .attest c nonce => c.wf && nonce.length == 32
  | .ctxCreate c => c.wf
  | .ctxDestroy c => c.wf
  | .ctxRoot c => c.wf
  | .ctxParams c => c.wf
  | .acctSet c => c.wf
  | .acctNow c => c.wf
  | .ringCreate c _ => c.wf
  | .ringDestroy c => c.wf
  | .dblineSet c => c.wf
  | .regionReg c => c.wf
  | .regionEnable c => c.wf
  | .regionDisable c => c.wf
  | .regionFree c => c.wf
  | .flushImages c => c.wf
  | .saveArea c => c.wf
  | .rennetPools c => c.wf
  | .rennetAlloc c => c.wf
  | .rennetFree c => c.wf
  | .dumpReg c => c.wf
  | .dump c => c.wf
  | .faultQueue c => c.wf
  | .faultReply c => c.wf
  | .invalidate c => c.wf
  | .frameAlloc c => c.wf
  | .frameFree c => c.wf
  | .frameAttach c => c.wf
  | .frameDetach c => c.wf
  | .framePolicy c => c.wf
  | .frameMove c => c.wf
  | .frameQuery c => c.wf
  | .quotaSet c => c.wf
  | .tierParams c => c.wf
  | .caveParams c => c.wf
  | .caveHealth c => c.wf
  | .brinePeriod c => c.wf
  | .hbmMargin c => c.wf
  | .chainJoin c => c.wf
  | .chainLeave c => c.wf
  | .chainPortDisable c => c.wf
  | .chainPortEnable c => c.wf
  | .chainPortRetrain c => c.wf
  | .chainStatus c => c.wf
  | .cohStats c => c.wf
  | .powerPolicy c => c.wf
  | .powerCold c => c.wf
  | .powerLimit c => c.wf
  | .coreClock c => c.wf
  | .powerStatus c => c.wf
  | .wakeGpio c => c.wf
  | .ringResume c => c.wf
  | .faultThresh c => c.wf
  | .faultCounters c => c.wf
  | .errInject c => c.wf
  | .secStatus c => c.wf
  | .secNonce c => c.wf
  | .debugAuth c _ => c.wf
  | .rotateFabric c _ => c.wf
  | .debugKey c _ => c.wf
  | .cosignKey c _ => c.wf
  | .advanceSvn c _ => c.wf
  | .returnAuth c _ => c.wf
  | .secClose c => c.wf
  | .secProvision c _ => c.wf
  | .attestLog c => c.wf
  | .secCert c => c.wf
  | .onpackageLinkFailure _ => true
  | .heldWriteRelease _ => true
  | .xaissue _ _ _ _ => true
  | .opEnter => true
  | .shareStart _ => true
  | .shareComplete _ _ => true
  | .columnSubstitute _ => true
  | .xawait _ _ => true
  | .xapoll _ _ _ => true
  | .xtissue _ _ _ _ _ => true
  | .tongsEnter _ _ => true
  | .xtwait _ _ => true
  | .xtpoll _ _ _ => true
  | .xrsig _ _ _ _ => true
  | .xradd _ _ _ _ _ => true
  | .xrwait _ _ _ _ _ => true
  | .xacq _ _ => true
  | .xrel _ _ => true
  | .xacqrel _ _ => true
  | .xlaW _ _ _ _ _ => true
  | .xlaD _ _ _ _ _ => true
  | .xsrW _ _ _ _ => true
  | .xsrD _ _ _ _ => true
  | .xvfence _ => true
  | .xvcvtf _ _ _ _ _ _ => true
  | .xvcvtt _ _ _ _ _ _ => true
  | .xvcvttSr _ _ _ _ _ _ => true
  | .xvscale _ _ _ _ _ _ => true
  | .xvsclf _ _ _ _ _ _ => true
  | .xvdot _ _ _ _ _ _ => true
  | .xsrseedWrite _ _ => true
  | .engineFence _ => true
  | .engineFenceI _ => true
  | .engineWfi _ => true
  | .ebreak _ => true
  | .kend _ => true
  | .sexit _ => true
  | .sfail _ => true
  | .ecallUnknown _ => true
  | .engineAmo _ _ _ _ _ _ _ _ => true
  | .engineLr _ _ _ _ _ _ => true
  | .engineSc _ _ _ _ _ _ _ => true
  | .descriptorFetch _ _ => true
  | .stepImageCheck _ _ => true
  | .schedulerWalk _ => true
  | .vatFillDone _ => true
  | .kernelEnd _ => true
  | .stepDrainDone _ => true
  | .completionRecordPost _ => true
  | .vatClearDone _ => true
  | .tongsPiece _ _ _ => true
  | .tongsTransferComplete _ _ => true
  | .rennetSignal _ _ _ _ => true
  | .rennetConfigure _ _ _ => true
  | .rennetSetRealign _ _ _ => true
  | .rennetAdd _ _ _ => true
  | .rennetWaitRegister _ _ _ _ => true
  | .rennetWake _ => true
  | .rennetWindowLoad _ _ => true
  | .rennetWindowStore _ _ _ => true
  | .rennetWindowAmoadd _ _ _ _ => true
  | .landingAdd => true
  | .deadlockWindowExpiry _ => true
  | .dumpComplete => true
  | .rdShared _ _ _ => true
  | .rdUnique _ _ _ => true
  | .claimUnique _ _ _ => true
  | .rdOnce _ _ _ => true
  | .atomic _ _ _ _ => true
  | .snpShared _ _ => true
  | .snpUnique _ _ => true
  | .snpInv _ _ => true
  | .snpOnce _ _ => true
  | .snpBack _ => true
  | .snpAck _ _ _ _ => true
  | .compAck _ _ => true
  | .comp _ _ _ => true
  | .retry _ _ _ => true
  | .redAck _ _ _ _ => true
  | .evict _ _ => true
  | .ticketExpiry _ _ => true
  | .proxyHoldExpiry _ => true
  | .lrHoldExpiry _ => true
  | .coreAmo _ _ _ _ _ _ _ _ => true
  | .coreLr _ _ _ _ _ _ => true
  | .coreSc _ _ _ _ _ _ _ => true
  | .coreFence _ _ _ _ => true
  | .cboZero _ _ => true
  | .sfenceVma _ => true
  | .spdomWrite _ _ => true
  | .coreTrap _ _ _ _ _ => true
  | .unbackedStoreReport _ _ => true
  | .mtimerMatch _ => true
  | .translationWalk _ _ _ => true
  | .prefetchWalk _ _ _ _ => true
  | .faultRecordWrite _ => true
  | .atsInvalidationRequest _ _ => true
  | .atsTranslationCompletion _ _ _ => true
  | .epochEnd => true
  | .migrationStart _ => true
  | .migrationPassEnd _ => true
  | .migrationFlip _ => true
  | .fillFlip _ => true
  | .caveUnitRead _ _ _ => true
  | .caveStagingProgram _ => true
  | .cavePatrol _ _ => true
  | .redBufferIdleWriteback _ => true
  | .brineVisit _ => true
  | .laneRepair _ => true
  | .hbmTempSample _ _ _ => true
  | .thermalClockStep _ => true
  | .marginPointDone _ => true
  | .linkTrainingDone _ _ => true
  | .keyConfirmation _ _ => true
  | .bringupRetryTimer _ => true
  | .linkFrameReceive _ _ _ _ => true
  | .replayRequest _ _ => true
  | .idleFrameTimer _ => true
  | .laneDegrade _ _ => true
  | .linkRetrainDone _ => true
  | .linkSilenceTimeout _ => true
  | .linkStateReceive _ _ _ => true
  | .ackTimer _ _ => true
  | .retransmitTimeout _ _ => true
  | .rekeyTimer _ => true
  | .rekeyConfirm _ _ _ => true
  | .heartbeatTimer => true
  | .heartbeatReceive _ _ => true
  | .heartbeatTimeout _ => true
  | .deadDeclarationReceive _ _ => true
  | .noLinkTimeout => true
  | .departureReceive _ => true
  | .slotChangeReceive _ _ => true
  | .functionLevelReset => true
  | .apertureReadTimeout _ => true
  | .apertureEnable _ _ => true
  | .apertureDisable _ _ => true
  | .apertureDrainDone _ => true
  | .notifyWrite _ _ _ _ => true
  | .doorbellLineRead _ _ => true
  | .headWordReread _ _ => true
  | .moderationTimer _ => true
  | .eventRecordPost => true
  | .adminTailWrite _ _ => true
  | .adminCommandComplete _ => true
  | .adminRingEnable _ => true
  | .adminRingDisable _ => true
  | .adminRingDrainDone => true
  | .eventRingEnable _ => true
  | .eventRingDisable _ => true
  | .eventRingDrainDone => true
  | .evtHeadWrite _ => true
  | .hartRelease _ => true
  | .recoveryGo => true
  | .gpioEdge _ _ => true
  | .gpioStatClear _ => true
  | .setupRegisterWrite _ _ _ => true
  | .candidateBlockedTimeout _ _ => true
  | .preemptStart _ => true
  | .preemptSave _ => true
  | .preemptSaveDone _ => true
  | .restoreDone _ => true
  | .spareEngineSubstitute _ _ => true
  | .vinSample _ _ => true
  | .overcurrent _ => true
  | .xtalFail => true
  | .xtalRecover => true
  | .clockChange _ _ => true
  | .domainGate _ => true
  | .drainTimeout _ => true
  | .domainWake _ _ => true
  | .domainWakeDone _ => true
  | .glowEntry => true
  | .glowExit _ => true
  | .bankEntry => true
  | .bankExit _ => true
  | .coldExit _ _ _ => true
  | .powerDemand _ _ _ => true
  | .powerGrant _ _ _ => true
  | .grantLapse _ => true
  | .junctionTempSample _ _ _ => true
  | .thermtripRelease => true
  | .correctedError _ _ => true
  | .uncorrectedError _ _ => true
  | .errorCounterLeak _ _ => true
  | .bellowsProbe _ => true
  | .probeTimeout _ => true
  | .containmentSettled => true
  | .selfTestDone _ _ => true
  | .nonceExpiry => true
  | .sessionExpiry => true
  | .doeAttest _ => true
  | .doeLog => true
  | .doeCert => true
  | .idcode => true
  | .samplePreload _ => true
  | .extest _ => true
  | .dtmcs _ => true
  | .dmi _ _ _ _ => true
  | .rindMbox _ => true
  | .bypass => true
  | .abstractCommand _ _ => true
  | .hartHalt _ => true
  | .hartResume _ => true
  | .singleStep _ => true
  | .systemBusAccess _ _ _ _ => true
  | .vin52Rise _ _ => true
  | .perstAssert _ _ => true
  | .perstDeassert => true
  | .memoryTraining _ _ _ _ => true
  | .caveMount _ _ _ => true
  | .activateFirmware _ => true
  | .spiProgramDone _ => true
  | .platformEventRead => true
  | .pldmSensorRead _ => true
  | .engineInstruction _ _ => true
  | .pcieLinkUp => true
  | .domainPowerDownDone _ => true
  | .bankedEntryDone => true

end Sys2Proof
end

