-- ==== Sys2Proof/Certificates/Slice0/Obligations.lean ====
section
/-!
DEFINITION. What is claimed of the block: each statement cites in its docstring the rules it formalises.
-/
open Sys2Proof
open Sys2Proof.Machine

/-! ### The queue and the step -/

/-- One step takes the command at the front of the queue and runs it with the queue's rest (the block's own form). -/
def Obligations.StepRunsTheFrontCommand : Prop :=
  ∀ (s : State) (c : Instr) (rest : List Instr),
    step { s with pending := c :: rest } = exec c { s with pending := rest }

/-- R489 on an empty queue: the Hub's count advances while VIN52 is valid, each half's count while its always-on island
has power, and the counts of two halves advance together, and with no read of the host waiting, no margining sweep and no
mailbox RETURN under way nothing else changes. That a step on an empty queue is one period of the 24 MHz
counts is the model's choice (log 2). -/
def Obligations.IdleStepAdvancesTheCounts : Prop :=
  ∀ (s : State), s.pending = [] → s.dev.sec.mboxReturn = none → s.dev.host.reads = [] → s.dev.hbm.margin = none →
    ∃ d, step s = .next { s with dev := d } ∧
      d.hubCount = (if s.dev.power.vinOk then s.dev.hubCount + 1 else s.dev.hubCount) ∧
      d.count = (if s.dev.islandsUp then ⟨s.dev.count.w + 1, s.dev.count.e + 1⟩ else s.dev.count) ∧
      { d with hubCount := s.dev.hubCount, count := s.dev.count } = s.dev

/-- Every command of the block has an effect: none stops with a fault or a refusal, and none adds to or takes from the
queue of waiting commands, or reorders it.

The queue is first in, first out: as many steps as commands wait run them in their order, and leave the queue
empty. -/
def Obligations.CommandsAnswerInOrder : Prop :=
  (∀ (i : Instr) (s : State), ∃ d, exec i s = .next { s with dev := d }) ∧
  (∀ (s : State), ∃ t, runAll s.pending.length s = .next t ∧ t.pending = [] ∧
    .next { t with pending := s.pending } = s.pending.foldl
      (fun (r : Host.Outcome State Fault Refusal) (i : Instr) =>
        match r with
        | .next u => exec i { u with pending := s.pending }
        | x => x) (.next s))


/-! ### Vector engines: instructions of one engine -/

/-- R117, R137, R139, R143, R146, R168: polls, a local acquire, FENCE.I, WFI, a write of xsrseed and KEND run at once.
Each changes its own engine alone: rd holds 1 exactly when the polled work is complete, an acquire wider than ENGINE and
FENCE.I drop the cached lines they must, xsrseed takes the value, and after KEND the engine's kernel has ended. -/
def Obligations.EngineInstructionsThatRunAtOnce : Prop :=
  ∀ (s : State) (e : Fin 128) (rd rs1 : Fin 32) (sc : Scope) (v : Word) (n : Nat) (st : Step),
    s.dev.canRun e = true → (s.dev.eng e).step = some n → s.dev.step? n = some st →
    let t := ((s.dev.eng e).rx rs1).toNat
    let lim := if t = 0 ∨ st.ticket < t then st.ticket else t
    (∃ d, exec (.xapoll e rd rs1) s = .next { s with dev := d } ∧ OnlyEngine e s.dev d ∧
      d.eng e = ((s.dev.eng e).wx rd (if s.dev.anvilDone n lim then 1 else 0)).retire) ∧
    (∃ d, exec (.xtpoll e rd rs1) s = .next { s with dev := d } ∧ OnlyEngine e s.dev d ∧
      d.eng e = ((s.dev.eng e).wx rd (if s.dev.tongsDone e ((s.dev.eng e).rx rs1) then 1 else 0)).retire) ∧
    (∃ d, exec (.xacq e sc) s = .next { s with dev := d } ∧ OnlyEngine e s.dev d ∧
      d.eng e = { s.dev.eng e with l1d := if sc = Scope.engine then (s.dev.eng e).l1d else [] }.retire) ∧
    (∃ d, exec (.engineFenceI e) s = .next { s with dev := d } ∧ OnlyEngine e s.dev d ∧
      d.eng e = { s.dev.eng e with l1i := [] }.retire) ∧
    (∃ d, exec (.engineWfi e) s = .next { s with dev := d } ∧ OnlyEngine e s.dev d ∧
      d.eng e = (s.dev.eng e).retire) ∧
    (∃ d, exec (.xsrseedWrite e v) s = .next { s with dev := d } ∧ OnlyEngine e s.dev d ∧
      d.eng e = { s.dev.eng e with xsrseed := v }.retire) ∧
    (∃ d, exec (.kend e) s = .next { s with dev := d } ∧ OnlyEngine e s.dev d ∧
      d.eng e = { (s.dev.eng e).retire with run := .kended })

/-- R137, R139, R145: XAWAIT, XTWAIT and XVFENCE complete at once when what they wait for has happened, XTWAIT with an
acquire; otherwise the engine waits. XAWAIT waits for the tickets given when it starts (log 172), which fit a register.
Nothing but the engine changes. -/
def Obligations.EngineWaits : Prop :=
  ∀ (s : State) (e : Fin 128) (rs1 : Fin 32) (n : Nat) (st : Step),
    s.dev.canRun e = true → (s.dev.eng e).step = some n → s.dev.step? n = some st → st.ticket < 2 ^ 64 →
    let t := ((s.dev.eng e).rx rs1).toNat
    let lim := if t = 0 ∨ st.ticket < t then st.ticket else t
    (∃ d, exec (.xawait e rs1) s = .next { s with dev := d } ∧ OnlyEngine e s.dev d ∧
      d.eng e = (if s.dev.anvilDone n lim then (s.dev.eng e).retire
        else { s.dev.eng e with run := .await (BitVec.ofNat 64 lim) })) ∧
    (∃ d, exec (.xtwait e rs1) s = .next { s with dev := d } ∧ OnlyEngine e s.dev d ∧
      d.eng e = (if s.dev.tongsDone e ((s.dev.eng e).rx rs1) then { s.dev.eng e with l1d := [] }.retire
        else { s.dev.eng e with run := .twait ((s.dev.eng e).rx rs1) })) ∧
    (∃ d, exec (.xvfence e) s = .next { s with dev := d } ∧ OnlyEngine e s.dev d ∧
      d.eng e = (if s.dev.vatQuiet e then (s.dev.eng e).retire else { s.dev.eng e with run := .vfence }))

/-- R117, R143: XREL, XACQREL and FENCE complete once every earlier write of the engine in the scope has been
acknowledged, with the acquire's loss of cached lines after it, and wait until then. Nothing but the engine changes. -/
def Obligations.EngineReleases : Prop :=
  ∀ (s : State) (e : Fin 128) (sc : Scope), s.dev.canRun e = true →
    (∃ d, exec (.xrel e sc) s = .next { s with dev := d } ∧ OnlyEngine e s.dev d ∧
      d.eng e = (if s.dev.released (.engine e) sc then (s.dev.eng e).retire
        else { s.dev.eng e with run := .release sc .fence })) ∧
    (∃ d, exec (.xacqrel e sc) s = .next { s with dev := d } ∧ OnlyEngine e s.dev d ∧
      d.eng e = (if s.dev.released (.engine e) sc then
          { s.dev.eng e with l1d := if sc = Scope.engine then (s.dev.eng e).l1d else [] }.retire
        else { s.dev.eng e with run := .release sc (.acquire sc) })) ∧
    (∃ d, exec (.engineFence e) s = .next { s with dev := d } ∧ OnlyEngine e s.dev d ∧
      d.eng e = (if s.dev.released (.engine e) .package then { s.dev.eng e with l1d := [] }.retire
        else { s.dev.eng e with run := .release .package (.acquire .package) }))

/-- R37, R135, R138: XAISSUE joins the waiting issues in issue order, and with RL set only after the release. XTISSUE
with a channel of 0 to 3 waits for room in its channel; a nonzero rs2[63:2] is an illegal instruction, which ends the
step with cause 2. -/
def Obligations.EngineIssues : Prop :=
  ∀ (s : State) (e : Fin 128) (rd rs1 rs2 : Fin 32) (rl : Bool) (n : Nat),
    s.dev.canRun e = true → (s.dev.eng e).step = some n →
    ((rl = true → s.dev.released (.engine e) .package = true) →
      ∃ d, exec (.xaissue e rd rs1 rl) s = .next { s with dev := d } ∧
        d.anvil.issues = s.dev.anvil.issues ++ [e] ∧ d.eng e = { s.dev.eng e with run := .issue rd ((s.dev.eng e).rx rs1) } ∧
        { d with engines := s.dev.engines, anvil := s.dev.anvil } = s.dev ∧ ∀ g, g ≠ e → d.eng g = s.dev.eng g) ∧
    ((rl = true → s.dev.released (.engine e) .package = true) → ((s.dev.eng e).rx rs2).toNat < 4 →
      ∃ d, exec (.xtissue e rd rs1 rs2 rl) s = .next { s with dev := d } ∧ OnlyEngine e s.dev d ∧
        d.eng e = { s.dev.eng e with
          run := .tissue rd ((s.dev.eng e).rx rs1) (Fin.ofNat 4 ((s.dev.eng e).rx rs2).toNat) }) ∧
    (4 ≤ ((s.dev.eng e).rx rs2).toNat →
      exec (.xtissue e rd rs1 rs2 rl) s = .next { s with dev := s.dev.engExc e 2 0 })

/-- R140, R141, R203, R222: on an object of this node, XRSIG, after its release and once no earlier write of the engine holds
it back, sends the signal to the bank and goes on;
XRADD, after its release, sends the add and waits for the old count; XRWAIT sends the wait and sleeps. The messages keep
the order in which they are sent. -/
def Obligations.EngineRennetOperations : Prop :=
  ∀ (s : State) (e : Fin 128) (rd rs1 rs2 : Fin 32) (sc : Scope) (obj : Nat),
    s.dev.canRun e = true → ((s.dev.eng e).rx rs1).toNat % 64 = 0 →
    s.dev.rennetAddr ((s.dev.eng e).rx rs1) = some (none, obj) →
    s.dev.released (.engine e) sc = true →
    s.dev.contReady e (.signal ((s.dev.eng e).rx rs1) ((s.dev.eng e).rx rs2)) = true →
    (∃ d, exec (.xrsig e rs1 rs2 sc) s = .next { s with dev := d } ∧ d.eng e = (s.dev.eng e).retire ∧
      d.rennet = { s.dev.rennet with msgs := s.dev.rennet.msgs ++ [.sig (s.dev.engSrc e) .sig obj ((s.dev.eng e).rx rs2)] } ∧
      { d with engines := s.dev.engines, rennet := s.dev.rennet } = s.dev ∧ ∀ g, g ≠ e → d.eng g = s.dev.eng g) ∧
    (∃ d, exec (.xradd e rd rs1 rs2 sc) s = .next { s with dev := d } ∧
      d.eng e = { s.dev.eng e with run := .reply rd ((s.dev.eng e).rx rs1) (sc != .engine) } ∧
      d.rennet = { s.dev.rennet with
        msgs := s.dev.rennet.msgs ++ [.add (s.dev.engSrc e) obj (((s.dev.eng e).rx rs2).truncate 32)] } ∧
      { d with engines := s.dev.engines, rennet := s.dev.rennet } = s.dev ∧ ∀ g, g ≠ e → d.eng g = s.dev.eng g) ∧
    (∃ d, exec (.xrwait e rd rs1 rs2 sc) s = .next { s with dev := d } ∧
      d.eng e = { s.dev.eng e with run := .rwait rd ((s.dev.eng e).rx rs1) sc } ∧
      d.rennet = { s.dev.rennet with
        msgs := s.dev.rennet.msgs ++ [.wait (s.dev.engSrc e) obj ((s.dev.eng e).rx rs2) sc] } ∧
      { d with engines := s.dev.engines, rennet := s.dev.rennet } = s.dev ∧ ∀ g, g ≠ e → d.eng g = s.dev.eng g)


/-! ### Vector engines: memory, vectors and ends -/

/-- R123, R125, R144, R176, R224, R236: a naturally aligned access of an engine to Vat bytes that its step's grant covers. A
load returns the bytes of the Vat as the engine's own stores have made them, after the outputs that operations of the Anvil let
appear among them (none where there is no operation); a store (of an engine with no write and no Rennet operation
outstanding) changes exactly its bytes there. XLA and XSR add their acquire and their release. The address of each is what
the instruction computes. -/
def Obligations.EngineVatAccesses : Prop :=
  ∀ (s : State) (e : Fin 128) (rd rs1 rs2 : Fin 32) (imm : BitVec 12) (wl : Fin 4) (sg : Bool) (sc : Scope) (ext : List Byte)
    (n v : Nat) (st : Step),
    s.dev.canRun e = true → (s.dev.eng e).step = some n → s.dev.step? n = some st →
    v < 0x20000000 → v % 0x10000000 < vatSize →
    let quiet : Prop := (∀ w ∈ s.dev.writes, w.src ≠ .engine e) ∧ s.dev.rennetOut (.engine e) (fun _ => true) = false
    let seen (w : Nat) : List Byte := (s.dev.surface v w).overlay (.engine e) (0xFF * 2 ^ 48 + vatBase + v)
      ((s.dev.surface v w).rd (vatOff v) w)
    let stored (w : Nat) (d : Dev) : Prop :=
      d.mem = cellsPut s.dev.mem (vatOff v) (leBytes w ((s.dev.eng e).rx rs2).toNat) ∧
      d.eng e = (s.dev.eng e).retire ∧ (∀ g, g ≠ e → d.eng g = s.dev.eng g) ∧
      { d with mem := s.dev.mem, engines := s.dev.engines, anvil := s.dev.anvil } = s.dev
    (s.dev.anvil.ops = [] → ∀ w, s.dev.surface v w = s.dev) ∧
    (((s.dev.eng e).rx rs1 + imm.signExtend 64).toNat = 0xFF * 2 ^ 48 + vatBase + v →
      v % 2 ^ wl.val = 0 → st.covers v (2 ^ wl.val) = true →
      exec (.engineLoad e rs1 imm (.int rd wl sg) ext) s =
        .next { s with dev := (s.dev.surface v (2 ^ wl.val)).modEng e (fun x =>
          (x.wx rd (loadValue sg (2 ^ wl.val) (ofLe (seen (2 ^ wl.val))))).retire) }) ∧
    (((s.dev.eng e).rx rs1 + imm.signExtend 64).toNat = 0xFF * 2 ^ 48 + vatBase + v →
      v % 2 ^ wl.val = 0 → st.covers v (2 ^ wl.val) = true → quiet →
      ∃ d, exec (.engineStore e rs1 imm (.int rs2 wl)) s = .next { s with dev := d } ∧ stored (2 ^ wl.val) d) ∧
    (((s.dev.eng e).rx rs1).toNat = 0xFF * 2 ^ 48 + vatBase + v → v % 4 = 0 → st.covers v 4 = true →
      exec (.xlaW e rd rs1 sc ext) s = .next { s with dev := (s.dev.surface v 4).modEng e (fun x =>
        ((x.acquire sc).wx rd (sext 32 (ofLe (seen 4)))).retire) }) ∧
    (((s.dev.eng e).rx rs1).toNat = 0xFF * 2 ^ 48 + vatBase + v → v % 8 = 0 → st.covers v 8 = true →
      exec (.xlaD e rd rs1 sc ext) s = .next { s with dev := (s.dev.surface v 8).modEng e (fun x =>
        ((x.acquire sc).wx rd (sext 64 (ofLe (seen 8)))).retire) }) ∧
    (((s.dev.eng e).rx rs1).toNat = 0xFF * 2 ^ 48 + vatBase + v → v % 4 = 0 → st.covers v 4 = true → quiet →
      ∃ d, exec (.xsrW e rs1 rs2 sc) s = .next { s with dev := d } ∧ stored 4 d) ∧
    (((s.dev.eng e).rx rs1).toNat = 0xFF * 2 ^ 48 + vatBase + v → v % 8 = 0 → st.covers v 8 = true → quiet →
      ∃ d, exec (.xsrD e rs1 rs2 sc) s = .next { s with dev := d } ∧ stored 8 d)

/-- R125, R126, R273: an aligned AMO of an engine on granted Vat bytes returns the old value, sign-extended, and leaves
the operation's result there; LR and SC on a Vat raise the access fault of Table 4.2; on a backed UMR address whose
translation is held, LR and SC send one Atomic to the home slice and wait for its reply. The engine has no write
and no Rennet operation outstanding. -/
def Obligations.EngineAtomics : Prop :=
  ∀ (s : State) (e : Fin 128) (op : AmoOp) (rd rs1 rs2 : Fin 32) (dbl aq rl : Bool) (n v off : Nat) (st : Step),
    s.dev.canRun e = true → (s.dev.eng e).step = some n → s.dev.step? n = some st →
    ((s.dev.eng e).rx rs1).toNat % (if dbl then 8 else 4) = 0 → (∀ w ∈ s.dev.writes, w.src ≠ .engine e) →
    s.dev.rennetOut (.engine e) (fun _ => true) = false →
    (v < 0x20000000 → v % 0x10000000 < vatSize → ((s.dev.eng e).rx rs1).toNat = 0xFF * 2 ^ 48 + vatBase + v →
      st.covers v (if dbl then 8 else 4) = true →
      ∃ d, exec (.engineAmo e op rd rs1 rs2 dbl aq rl) s = .next { s with dev := d } ∧
        (let w := if dbl then 8 else 4
         let old := ofLe (s.dev.rd (vatOff v) w)
         d.mem = cellsPut s.dev.mem (vatOff v) (leBytes w (amoVal op w old (((s.dev.eng e).rx rs2).toNat % 2 ^ (8 * w)))) ∧
         (d.eng e).rx rd = (if rd.val = 0 then 0 else sext (8 * w) old)) ∧
        (d.eng e).pc = (s.dev.eng e).pc + 4 ∧
        { d with mem := s.dev.mem, engines := s.dev.engines, anvil := s.dev.anvil } = s.dev) ∧
    (v < 0x20000000 → v % 0x10000000 < vatSize → ((s.dev.eng e).rx rs1).toNat = 0xFF * 2 ^ 48 + vatBase + v →
      exec (.engineLr e rd rs1 dbl aq rl) s =
        .next { s with dev := s.dev.engExc e excLoadFault ((s.dev.eng e).rx rs1).toNat } ∧
      exec (.engineSc e rd rs1 rs2 dbl aq rl) s =
        .next { s with dev := s.dev.engExc e excStoreFault ((s.dev.eng e).rx rs1).toNat }) ∧
    (s.dev.vatWindow ((s.dev.eng e).rx rs1).toNat = none → s.dev.rennetWindow ((s.dev.eng e).rx rs1).toNat = false →
      s.dev.backed off = true →
      ∀ pa, s.dev.target true pa = .umr off →
      (s.dev.xlookup (.engine e) ((s.dev.engCtx e).getD 0) ((s.dev.eng e).rx rs1).toNat .read = some pa →
        ∃ d, exec (.engineLr e rd rs1 dbl aq rl) s = .next { s with dev := d } ∧
          d.coh.noc = s.dev.coh.noc ++ [{ kind := .atomic, who := .engine e, addr := off, atom := .lr dbl }] ∧
          (d.eng e).run = .reply rd (BitVec.ofNat 64 (0xFF * 2 ^ 48 + off)) aq ∧ SameBytes s.dev d) ∧
      (s.dev.xlookup (.engine e) ((s.dev.engCtx e).getD 0) ((s.dev.eng e).rx rs1).toNat .write = some pa →
        ∃ d, exec (.engineSc e rd rs1 rs2 dbl aq rl) s = .next { s with dev := d } ∧
          d.coh.noc = s.dev.coh.noc ++
            [{ kind := .atomic, who := .engine e, addr := off, atom := .sc ((s.dev.eng e).rx rs2) dbl }] ∧
          (d.eng e).run = .reply rd (BitVec.ofNat 64 (0xFF * 2 ^ 48 + off)) aq ∧ SameBytes s.dev d))

/-- R147 to R153: a custom-1 instruction whose descriptors and register groups are legal runs on ordinary data and
retires; x and f registers, memory and every other engine stay. With one element the conversions write exactly that
element of vd (the draw of XVCVTT.SR is a free value, log 7). -/
def Obligations.VectorFormatInstructions : Prop :=
  ∀ (s : State) (e : Fin 128) (vd vs2 vs1 : Fin 32) (fd : Fin 8) (vm : Bool),
    s.dev.canRun e = true →
    let x := s.dev.eng e
    let blk := xfdBlk x fd.val
    let src1 : List Grp := if blkSize blk = 0 then [] else [(vs1.val, 1)]
    let Kept (d : Dev) : Prop := (d.eng e).x = x.x ∧ (d.eng e).f = x.f ∧ (d.eng e).pc = x.pc + 4 ∧ (d.eng e).vl = x.vl ∧
      (∀ g, g ≠ e → d.eng g = s.dev.eng g) ∧ { d with engines := s.dev.engines, free := s.dev.free } = s.dev
    (∀ f, vecFmt x fd.val = some f → blkOk f blk = true → (blkSize blk = 0 → vs1.val = 0) →
      (xvBad x (vd.val, fpSpan x) ((vs2.val, packSpan x f.width) :: src1) = false →
        ∃ d, exec (.xvcvtf e vd vs2 vs1 fd vm) s = .next { s with dev := d } ∧ Kept d ∧
          (x.vl = 1 → vm = true →
            (d.eng e).velem vd.val 4 0 = (cvtfElem f (x.pget vs2.val f.width 0) (xvScale x blk vs1.val 0)).1 % 2 ^ 32)) ∧
      (xvBad x (vd.val, packSpan x f.width) ((vs2.val, fpSpan x) :: src1) = false →
        (∃ d, exec (.xvcvtt e vd vs2 vs1 fd vm) s = .next { s with dev := d } ∧ Kept d ∧ d.free = s.dev.free ∧
          (x.vl = 1 → vm = true → blkSize blk = 0 →
            (d.eng e).pget vd.val f.width 0 = (f.conv .even false (fp32.val (x.velem vs2.val 4 0))).1 % 2 ^ f.width)) ∧
        (∃ d, exec (.xvcvttSr e vd vs2 vs1 fd vm) s = .next { s with dev := d } ∧ Kept d ∧
          (x.vl = 1 → vm = true → blkSize blk = 0 →
            (d.eng e).pget vd.val f.width 0 =
              (f.conv (.draw (Config.freeDraw s.dev.free)) false (fp32.val (x.velem vs2.val 4 0))).1 % 2 ^ f.width)))) ∧
    (∀ g, xfdFmt x fd.val = some (.mini g) → blkBad blk = false → blkSize blk ≠ 0 → vs1.val = 0 →
      (xvBad x (vd.val, 1) [(vs2.val, fpSpan x)] = false →
        ∃ d, exec (.xvscale e vd vs2 vs1 fd true) s = .next { s with dev := d } ∧ Kept d ∧
          (x.vl = 1 → (d.eng e).pget vd.val 8 0 =
            (blockScale (blkE4m3 blk) g [fp32.val (x.velem vs2.val 4 0)]).1 % 256)) ∧
      (xvBad x (vd.val, fpSpan x) [(vs2.val, packSpan x 8)] = false →
        ∃ d, exec (.xvsclf e vd vs2 vs1 fd vm) s = .next { s with dev := d } ∧ Kept d ∧
          (x.vl = 1 → vm = true →
            (d.eng e).velem vd.val 4 0 = fp32.bits (scaleVal (blkE4m3 blk) (x.pget vs2.val 8 0)) % 2 ^ 32))) ∧
    (∀ fa fb, vecFmt x fd.val = some fa → vecFmt x (fd.val + 1) = some fb → blkOk fa blk = true →
      blkOk fb (xfdBlk x (fd.val + 1)) = true →
      (blkSize blk = 0 ∨ blkSize (xfdBlk x (fd.val + 1)) = 0 ∨ blkSize blk = blkSize (xfdBlk x (fd.val + 1))) →
      fa.isInt = fb.isInt →
      xvBad x (vd.val, 1) [(vs2.val, packSpan x fa.width), (vs1.val, packSpan x fb.width)] = false →
      ∃ d, exec (.xvdot e vd vs2 vs1 fd true) s = .next { s with dev := d } ∧ Kept d ∧
        (fa.isInt = true → (d.eng e).fflags = x.fflags ∧ d.free = s.dev.free))

/-- R117, R128, R168, R169: SEXIT and SFAIL end the step with a0[31:0] as its user code and the status of their name;
an undefined ECALL ends it with an environment-call exception (cause 8), and EBREAK with a breakpoint exception
(cause 3) at the pc unless the open session grants it to the debugger, when the engine halts.

R113, R161: an instruction word whose fetch succeeds runs: ADDI a0, a0, 1 (0x0015_0513), ADD a0, a0, a1
(0x00B5_0533) and C.ADDI a0, 1 (0x0505) write a0 and move the pc past the word; the
reserved word 0 is an illegal instruction. The standard encodings are PRESUMED (log 9). -/
def Obligations.EnginesRunWordsAndEndTheirStep : Prop :=
  (∀ (s : State) (e : Fin 128) (n : Nat) (st : Step),
    s.dev.canRun e = true → (s.dev.eng e).step = some n → s.dev.step? n = some st → st.phase = .running →
    (∃ d, exec (.sexit e) s = .next { s with dev := d } ∧ SameBytes s.dev d ∧ d.step? n =
      some { st with outcome := some { status := .ok, ucode := ((s.dev.eng e).rx 10).truncate 32 }, phase := .draining,
                     victimOf := none }) ∧
    (∃ d, exec (.sfail e) s = .next { s with dev := d } ∧ SameBytes s.dev d ∧ d.step? n =
      some { st with outcome := some { status := .userFail, ucode := ((s.dev.eng e).rx 10).truncate 32 },
                     phase := .draining, victimOf := none }) ∧
    (∃ d, exec (.ecallUnknown e) s = .next { s with dev := d } ∧ SameBytes s.dev d ∧ d.step? n =
      some { st with outcome := some { status := .engineException, eng := some e, cause := 8 }, phase := .draining,
                     victimOf := none }) ∧
    (s.dev.ebreakDebug = false →
      ∃ d, exec (.ebreak e) s = .next { s with dev := d } ∧ SameBytes s.dev d ∧ d.step? n =
        some { st with outcome := some { status := .engineException, eng := some e, cause := 3, addr := (s.dev.eng e).pc },
                       phase := .draining, victimOf := none }) ∧
    (s.dev.ebreakDebug = true →
      ∃ d, exec (.ebreak e) s = .next { s with dev := d } ∧ OnlyEngine e s.dev d ∧
        d.eng e = { s.dev.eng e with halted := true })) ∧
  (∀ (s : State) (e : Fin 128) (a : Status) (l : List Byte) (d : Dev), s.dev.canRun e = true → s.dev.fetch e true a = .ok d →
    (∃ t, exec (.engineInstruction e { bits := 0x00150513, ans := a, ext := l }) s = .next { s with dev := t } ∧
      (t.eng e).rx 10 = (d.eng e).rx 10 + 1 ∧ (t.eng e).pc = (d.eng e).pc + 4 ∧ OnlyEngine e d t) ∧
    (∃ t, exec (.engineInstruction e { bits := 0x00B50533, ans := a, ext := l }) s = .next { s with dev := t } ∧
      (t.eng e).rx 10 = (d.eng e).rx 10 + (d.eng e).rx 11 ∧ (t.eng e).pc = (d.eng e).pc + 4 ∧ OnlyEngine e d t)) ∧
  (∀ (s : State) (e : Fin 128) (a : Status) (l : List Byte) (d : Dev), s.dev.canRun e = true → s.dev.fetch e false a = .ok d →
    (∃ t, exec (.engineInstruction e { bits := 0x00000505, ans := a, ext := l }) s = .next { s with dev := t } ∧
      (t.eng e).rx 10 = (d.eng e).rx 10 + 1 ∧ (t.eng e).pc = (d.eng e).pc + 2 ∧ OnlyEngine e d t) ∧
    exec (.engineInstruction e { bits := 0, ans := a, ext := l }) s = .next { s with dev := d.engExc e excIllegal 0 })


/-! ### The Anvils -/

/-- R37, R39, R135: with a legal descriptor that fits, the issue at the head of the waiting issues enters the queue of
every half that it spans, takes the step's next ticket and returns it in rd; the issuing engine goes on, and no byte of
memory changes.

R34, R35, R40, R41, R42, R43: a half starts the operation at the head of its queue, or the next one while the head's share
still runs there (at most one share runs before it: log 60), when the Anvil is in service and, under ORDER, no earlier
operation is still incomplete, and the accumulation entries that its curds need are free (R34, log 163); the curds take them, bytes
that earlier operations will write become undefined for it, and nothing else changes but the free values that the share takes. -/
def Obligations.AnvilOperationsEnterAndStart : Prop :=
  (∀ (s : State) (e : Fin 128) (es : List (Fin 128)) (rd : Fin 32) (a : Word) (n : Nat) (st : Step) (o : OpDesc),
    (∀ p ∈ s.dev.sched.steps, p.2.lostOps = []) →
    s.dev.anvil.issues = e :: es → (s.dev.eng e).run = .issue rd a → (s.dev.eng e).step = some n →
    s.dev.step? n = some st → opCheck s.dev st a = .ok o → s.dev.opFits n st o = true →
    ∃ d, exec .opEnter s = .next { s with dev := d } ∧
      d.anvil.issues = es ∧
      tget d.anvil.ops s.dev.anvil.next = some { step := n, ticket := st.ticket + 1, desc := o, addr := a.toNat } ∧
      (∀ h, Two.get d.anvil.queue h =
        if spanHas o.span h then Two.get s.dev.anvil.queue h ++ [s.dev.anvil.next] else Two.get s.dev.anvil.queue h) ∧
      d.step? n = some { st with ticket := st.ticket + 1, lastIn := e.val } ∧
      d.eng e = ((s.dev.eng e).wx rd (BitVec.ofNat 64 (st.ticket + 1))).retire ∧
      { d with anvil := s.dev.anvil, sched := s.dev.sched, engines := s.dev.engines } = s.dev) ∧
  (∀ (s : State) (h : Half) (i : Nat) (q : List Nat) (o : AOp),
    Two.get s.dev.anvil.queue h = i :: q → tget s.dev.anvil.ops i = some o →
    (Two.get o.started h = false → s.dev.nextShare h = some i) ∧
    (Two.get o.started h = true → ∀ k r p, q = k :: r → tget s.dev.anvil.ops k = some p →
      s.dev.nextShare h = if Two.get p.started h then none else some k)) ∧
  (∀ (s : State) (h : Half) (i : Nat) (o : AOp),
    s.dev.nextShare h = some i → tget s.dev.anvil.ops i = some o →
    s.dev.unitUp (anvilUnit h) = true → (o.desc.order = true → ∀ p ∈ s.dev.anvil.ops, i ≤ p.1) →
    entriesFit (Two.get s.dev.anvil.acc h) (entriesUsed o.desc h i) = true →
    ∃ d, exec (.shareStart h) s = .next { s with dev := d } ∧
      tget d.anvil.ops i = some
        { o with
          started := Two.set o.started h true
          base := Two.set o.base h s.dev.free
          dirtied := o.dirtied ++ (s.dev.anvil.ops.filter (fun p => decide (p.1 < i))).flatMap (fun p => opOuts p.2.desc) } ∧
      Two.get d.anvil.acc h = Two.get s.dev.anvil.acc h ++ entriesUsed o.desc h i ∧
      Two.get d.anvil.acc (otherHalf h) = Two.get s.dev.anvil.acc (otherHalf h) ∧
      d.anvil = { s.dev.anvil with ops := d.anvil.ops, acc := d.anvil.acc } ∧
      { d with anvil := s.dev.anvil, free := s.dev.free } = s.dev ∧
      ∀ k, k ≠ i → tget d.anvil.ops k = tget s.dev.anvil.ops k)

/-- R40, R41, R47, R483: a running share that completes leaves the head of its half's queue. With the other share of a
package operation outstanding the operation stays, marked done in this half, with its accumulation entries of the half free
again, and no DONE signal goes; the streamed cycles are added to the context's account. (Outputs whose inputs another agent has
written since are noted in it: R71.)

R75, R530: while no operation streams in the half, the first failed column that waits takes a spare of its quadrant:
one spare fewer is left there, the column's unit is replaced by the physical spare, and a RELIABILITY event names it. -/
def Obligations.AnvilSharesCompleteAndColumnsAreSubstituted : Prop :=
  (∀ (s : State) (h : Half) (cycles i : Nat) (q : List Nat) (o : AOp) (st : Step) (c : Ctx),
    Two.get s.dev.anvil.queue h = i :: q → tget s.dev.anvil.ops i = some o → Two.get o.started h = true →
    o.desc.span = 2 → Two.get o.done (otherHalf h) = false → s.dev.step? o.step = some st → s.dev.ctx? st.ctx = some c →
    ∃ d, exec (.shareComplete h cycles) s = .next { s with dev := d } ∧
      Two.get d.anvil.queue h = q ∧ Two.get d.anvil.queue (otherHalf h) = Two.get s.dev.anvil.queue (otherHalf h) ∧
      (∃ sp, tget d.anvil.ops i = some { o with done := Two.set o.done h true, spoilt := o.spoilt ++ sp }) ∧
      Two.get d.anvil.acc h = (Two.get s.dev.anvil.acc h).filter (fun x => x.op != i) ∧
      d.ctx? st.ctx = some { c with acct := { c.acct with
        anvil := Two.mod c.acct.anvil h (· + BitVec.ofNat 64 cycles) } } ∧
      d.rennet = s.dev.rennet ∧ d.engines = s.dev.engines ∧ d.writes = s.dev.writes) ∧
  (∀ (s : State) (h : Half) (c : Nat) (cs : List Nat),
    Two.get s.dev.anvil.failedCols h = c :: cs → s.dev.streaming h = false →
    lgetD (Two.get s.dev.anvil.spares h) (c / 256) 0 ≠ 0 →
    ∃ d, exec (.columnSubstitute h) s = .next { s with dev := d } ∧
      Two.get d.anvil.failedCols h = cs ∧
      Two.get d.anvil.spares h =
        lset (Two.get s.dev.anvil.spares h) (c / 256) (lgetD (Two.get s.dev.anvil.spares h) (c / 256) 0 - 1) ∧
      (d.unit ⟨0, dieOf h, BitVec.ofNat 16 c⟩).st = .replaced ∧
      { d with anvil := s.dev.anvil, faults := s.dev.faults, host := s.dev.host } = s.dev)

/-! ### Steps -/

/-- R447, R449: a ring with an announced descriptor that may be fetched gives one read of 64 bytes, which its home does not hold back;
a readable, well formed one becomes a fetched step with the ring's next index, and the ring's head moves past it.

R158, R165, R466, R467: a fetched step whose image checks out becomes a candidate with its image; the walk of a half
that finds it as its one candidate, with room for it, grants it all of its resources in one action; once every domain is
awake and its Vat ranges are filled, kernel 0 starts on every granted engine with the argument block in a0. -/
def Obligations.DescriptorsBecomeStepsThatStart : Prop :=
  (∀ (s : State) (ring : Fin 16384) (ext : List Byte) (r : Ring) (bs : List Byte),
    tget s.dev.host.rings ring.val = some r → s.dev.fetchOpen ring.val r = true →
    s.dev.fwHolds (r.base + BitVec.ofNat 64 (64 * (r.head.toNat % 2 ^ r.log2))) 64 = none →
    s.dev.fwRead (r.base + BitVec.ofNat 64 (64 * (r.head.toNat % 2 ^ r.log2))) 64 ext = .ok bs →
    stepDescBad (ofLe bs) = false →
    ∃ d, exec (.descriptorFetch ring ext) s = .next { s with dev := d } ∧
      tget d.host.rings ring.val = some { r with head := r.head + 1 } ∧
      d.step? s.dev.sched.next = some
        { ring := ring.val, ctx := r.ctx, cls := r.cls, count := r.head, desc := stepDescOf (ofLe bs),
          fetchT := s.dev.count } ∧
      { d with host := s.dev.host, sched := s.dev.sched } =
        s.dev.fwTouch (r.base + BitVec.ofNat 64 (64 * (r.head.toNat % 2 ^ r.log2))) 64) ∧
  (∀ (s : State) (n : Nat) (st : Step),
    s.dev.step? n = some st →
    (∀ (ext : List Byte) (i : Image) (gs : List Seg), st.phase = .fetched → st.parked = none → st.outcome = none →
      s.dev.phase1 n st ext = .ok (i, gs) →
      ∃ d, exec (.stepImageCheck n ext) s = .next { s with dev := d } ∧
        d.step? n = some { st with phase := .candidate, image := i } ∧
        { d with sched := s.dev.sched, free := s.dev.free, tiers := s.dev.tiers, coh := s.dev.coh } = s.dev) ∧
    (∀ (h : Half) (a : Alloc1 × Alloc1), s.dev.faults.contain = none → s.dev.sched.half.w.waiting = none →
      s.dev.sched.half.e.waiting = none → s.dev.walkList h = [n] → s.dev.isCandidate n st = true →
      s.dev.fit st (s.dev.passed n) = some a → (∀ g, s.dev.heldBy g n st = false) →
      ∃ d t, exec (.schedulerWalk h) s = .next { s with dev := d } ∧ d.step? n = some t ∧
        t.engines = a.1.eng ++ a.2.eng ∧ t.vat = ⟨a.1.vat, a.2.vat⟩ ∧ t.ren = ⟨a.1.ren, a.2.ren⟩ ∧
        (t.phase = .waking ∨ t.phase = .filling) ∧ SameBytes s.dev d) ∧
    (st.phase = .filling →
      ∃ d, exec (.vatFillDone n) s = .next { s with dev := d } ∧
        d.step? n = some { st with phase := .running, kernel := 0 } ∧
        (∀ e ∈ st.engines, (d.eng e).run = .running ∧ (d.eng e).pc = lgetD st.image.kernels 0 0 ∧
          (d.eng e).rx 10 = st.desc.args ∧ (d.eng e).step = some n ∧ (d.eng e).tTicket = 0) ∧
        (∀ e, e ∉ st.engines → d.eng e = s.dev.eng e) ∧
        { d with mem := s.dev.mem, engines := s.dev.engines, sched := s.dev.sched, rennet := s.dev.rennet } = s.dev ∧
        d.rennet = { s.dev.rennet with fired := d.rennet.fired }))

/-- R158, R170: when every engine of a running step has ended its kernel, its work has completed and nothing that it
issued is in flight, the next kernel starts, and after the last one the step drains with status OK. -/
def Obligations.KernelsEnd : Prop :=
  ∀ (s : State) (n : Nat) (st : Step),
    s.dev.step? n = some st → st.phase = .running → st.outcome = none → st.victimOf = none →
    (∀ e ∈ st.engines, (s.dev.eng e).run = .kended) → s.dev.workLeft n st = false →
    s.dev.inFlight n st = false →
    (st.kernel + 1 < st.image.kernels.length →
      ∃ d, exec (.kernelEnd n) s = .next { s with dev := d } ∧
        d.step? n = some { st with kernel := st.kernel + 1 } ∧
        (∀ e ∈ st.engines, (d.eng e).run = .running ∧ (d.eng e).pc = lgetD st.image.kernels (st.kernel + 1) 0) ∧
        { d with engines := s.dev.engines, sched := s.dev.sched, rennet := s.dev.rennet } = s.dev ∧
        d.rennet = { s.dev.rennet with fired := d.rennet.fired }) ∧
    (st.image.kernels.length ≤ st.kernel + 1 →
      ∃ d, exec (.kernelEnd n) s = .next { s with dev := d } ∧
        d.step? n = some { st with outcome := some {}, phase := .draining } ∧ SameBytes s.dev d)

/-- R158, R452, R609: a drained step queues its completion record in its context; the first held record of a context
whose ring has room is posted and leaves the queue; and a returned Vat range is zero before it is free. -/
def Obligations.StepsComplete : Prop :=
  (∀ (s : State) (n : Nat) (st : Step) (c : Ctx),
    s.dev.step? n = some st → st.phase = .draining → s.dev.ctx? st.ctx = some c →
    s.dev.workLeft n st = false → s.dev.inFlight n st = false →
    ∃ d c', exec (.stepDrainDone n) s = .next { s with dev := d } ∧ d.ctx? st.ctx = some c' ∧
      c'.recs = c.recs ++ [stepRec n st] ∧ (∃ t, d.step? n = some t ∧ t.phase = .recorded) ∧
      ((st.outcome.getD {}).status = .ok → SameBytes s.dev d)) ∧
  (∀ (s : State) (c : Fin 4096) (x : Ctx) (r : CRec) (rs : List CRec),
    s.dev.ctx? c.val = some x → x.recs = r :: rs → x.room ≠ 0 →
    ∃ d x', exec (.completionRecordPost c) s = .next { s with dev := d } ∧ d.ctx? c.val = some x' ∧
      x'.recs = rs ∧ x'.posted = x.posted + 1 ∧ (∀ n, r.step = some n → d.step? n = none)) ∧
  (∀ (s : State) (h : Half) (r : Nat × Nat) (rs : List (Nat × Nat)),
    (Two.get s.dev.sched.half h).clearing = r :: rs → Memory.wf s.dev.mem = true →
    ∃ d, exec (.vatClearDone h) s = .next { s with dev := d } ∧ (Two.get d.sched.half h).clearing = rs ∧
      (∀ a, cellGet d.mem a = if vatOff (0x10000000 * halfIdx h + r.1) ≤ a ∧
          a < vatOff (0x10000000 * halfIdx h + r.1) + r.2 then 0 else cellGet s.dev.mem a) ∧
      { d with mem := s.dev.mem, sched := s.dev.sched } = s.dev)

/-! ### Tongs -/

/-- R180, R138: a waiting XTISSUE with a legal descriptor enters its channel while fewer than 16 transfers are there,
with the engine's next ticket in rd. R186, R187: the first transfer of a channel that has performed every row, with its
writes acknowledged and its step neither saved nor being saved or restored, leaves the channel; without a DONE object nothing is signalled.

R179, R183, R222: a Tongs engine in service serves the engines of its cluster in turn. While the Anvils have no operation, a copy of at most 4 KiB
from Vat to Vat whose ranges do not overlap is one piece: the destination bytes become the source bytes, no other byte
changes, the row is done and the turn passes to the next engine. -/
def Obligations.TongsTransfersEnterCopyAndComplete : Prop :=
  ((∀ (s : State) (e : Fin 128) (c : Fin 4) (rd : Fin 32) (a : Word) (n : Nat) (st : Step) (t : TDesc),
    (s.dev.eng e).run = .tissue rd a c → (s.dev.eng e).step = some n → s.dev.step? n = some st →
    xferCheck s.dev st a = .ok t → (tgetD s.dev.tongs (chanKey e c) []).length < 16 →
    ∃ d, exec (.tongsEnter e c) s = .next { s with dev := d } ∧
      tgetD d.tongs (chanKey e c) [] =
        tgetD s.dev.tongs (chanKey e c) [] ++ [{ ticket := (s.dev.eng e).tTicket + 1, step := n, desc := t }] ∧
      (d.eng e).rx rd = (if rd.val = 0 then 0 else BitVec.ofNat 64 ((s.dev.eng e).tTicket + 1)) ∧
      (d.eng e).tTicket = (s.dev.eng e).tTicket + 1 ∧ (d.eng e).pc = (s.dev.eng e).pc + 4 ∧
      (∀ g, g ≠ e → d.eng g = s.dev.eng g) ∧ { d with engines := s.dev.engines, tongs := s.dev.tongs } = s.dev) ∧
  (∀ (s : State) (e : Fin 128) (c : Fin 4) (x : Xfer) (xs : List Xfer),
    tgetD s.dev.tongs (chanKey e c) [] = x :: xs → x.failed = false → x.desc.rows ≤ x.row → x.desc.doneObj = none →
    (∀ w ∈ s.dev.writes, w.src ≠ .tongs e c) →
    (∀ sc k, (s.dev.eng e).run ≠ .release sc k) →
    (∀ st, s.dev.step? x.step = some st → st.phase ≠ .saving ∧ st.phase ≠ .saved ∧ st.phase ≠ .restoring) →
    ∃ d, exec (.tongsTransferComplete e c) s = .next { s with dev := d } ∧
      tgetD d.tongs (chanKey e c) [] = xs ∧ { d with engines := s.dev.engines, tongs := s.dev.tongs } = s.dev)) ∧
  (∀ (s : State) (e : Fin 128) (c : Fin 4) (t : Fin 32) (ext : List Byte) (x : Xfer) (xs : List Xfer) (st : Step),
    t.val / 4 = engIdx e / 8 → (s.dev.unitUp (tongsUnit (engHalf e) t.val)) = true →
    (List.range 4).filter (fun k => s.dev.tongsFor (engHalf e) (t.val / 4) k == some t.val) = [c.val] →
    tgetD s.dev.tongsNext (32 * halfIdx (engHalf e) + t.val) 0 = engIdx e % 8 →
    tgetD s.dev.tongs (chanKey e c) [] = x :: xs → x.failed = false → x.parked = none → x.walking = false →
    x.row = 0 → x.col = 0 → s.dev.step? x.step = some st → st.phase = .running →
    x.desc.op = 1 → x.desc.cvt = false → x.desc.ssp = true → x.desc.dsp = true → x.desc.isp = false →
    x.desc.e 1 = 1 → x.desc.e 2 = 1 → x.desc.e 3 = 1 → 0 < x.desc.e 0 → x.desc.e 0 ≤ 4096 →
    x.desc.dst < 0x20000000 → x.desc.dst % 0x10000000 + x.desc.e 0 ≤ vatSize →
    s.dev.overlapping e x = false → s.dev.anvil.ops = [] → (∀ w ∈ s.dev.writes, w.src ≠ .tongs e c) →
    ∃ d, exec (.tongsPiece (engHalf e) t ext) s = .next { s with dev := d } ∧
      d.mem = cellsPut s.dev.mem (vatOff x.desc.dst) (s.dev.rd (vatOff x.desc.src) (x.desc.e 0)) ∧
      tgetD d.tongs (chanKey e c) [] = { x with row := 1, held := tdel x.held 0 } :: xs ∧
      tgetD d.tongsNext (32 * halfIdx (engHalf e) + t.val) 0 = (engIdx e % 8 + 1) % 8 ∧
      { d with mem := s.dev.mem, tongs := s.dev.tongs, tongsNext := s.dev.tongsNext, anvil := s.dev.anvil } = s.dev)

/-! ### Scheduling -/

/-- R470 to R476, Table 15.2: a candidate blocked for 500 µs is noted; a victim's pre-emption stops its engines, then
saves its Vat bytes and engines, then frees its engines with the pre-emption counted; and a restore brings the saved
engines back to running. No stage but the restore changes a byte of memory. -/
def Obligations.PreemptionStages : Prop :=
  (∀ (s : State) (h : Half) (n : Nat), n ∈ (Two.get s.dev.sched.half h).blocked →
    n ∉ (Two.get s.dev.sched.half h).timedOut →
    ∃ d, exec (.candidateBlockedTimeout h n) s = .next { s with dev := d } ∧
      (Two.get d.sched.half h).timedOut = (Two.get s.dev.sched.half h).timedOut ++ [n] ∧
      { d with sched := s.dev.sched } = s.dev) ∧
  (∀ (s : State) (n v : Nat) (st : Step), s.dev.step? n = some st → st.phase = .running → st.victimOf = some v →
    (∀ e ∈ st.engines, (s.dev.eng e).stopAs.isSome) →
    ∃ d t, exec (.preemptStart n) s = .next { s with dev := d } ∧ d.step? n = some t ∧ t.phase = .stopping ∧
      SameBytes s.dev d) ∧
  (∀ (s : State) (n : Nat) (st : Step), s.dev.step? n = some st → st.phase = .stopping →
    st.outcome = none → (∀ p ∈ s.dev.anvil.ops, p.2.step ≠ n) → s.dev.inFlight n st = false →
    ∃ d t, exec (.preemptSave n) s = .next { s with dev := d } ∧ d.step? n = some t ∧ t.phase = .saving ∧
      t.saveEng = st.engines.map (fun e => (e.val, { s.dev.eng e with l1d := [], l1i := [] })) ∧
      { d with sched := s.dev.sched } = s.dev) ∧
  (∀ (s : State) (n : Nat) (st : Step) (c : Ctx), s.dev.step? n = some st → st.phase = .saving → st.victimOf = none →
    s.dev.ctx? st.ctx = some c →
    ∃ d, exec (.preemptSaveDone n) s = .next { s with dev := d } ∧
      d.step? n = some { st with phase := .saved, fetchT := s.dev.count } ∧
      (∀ e ∈ st.engines, (d.eng e).step = none ∧ (d.eng e).run = .idle) ∧
      d.ctx? st.ctx = some { c with acct := { c.acct with preempts := c.acct.preempts + 1 } } ∧ SameBytes s.dev d) ∧
  (∀ (s : State) (n : Nat) (st : Step), s.dev.step? n = some st → st.phase = .restoring →
    (∀ k ∈ st.domains, s.dev.awake k = true) →
    ∃ d, exec (.restoreDone n) s = .next { s with dev := d } ∧
      d.step? n = some { st with phase := .running, saveVat := ⟨[], []⟩, saveEng := [], saveTongs := [], victimOf := none,
                                 parked := none })


/-! ### Rennet -/

/-- R24: identifier n's object lies at 0xFE00_0000_0000 + 64 × n, of the West half below 65,536 and of the East half from
there on, and no other address leads to it. -/
def Obligations.RennetObjectsHaveTheirAddresses : Prop :=
  ∀ n : Nat, n < 131072 →
    (∀ b, b < 64 → localTarget (0xFE0000000000 + 64 * n + b) = .rennet n b) ∧
    objHalf n = (if n < 65536 then .west else .east) ∧
    ∀ off m b, off < 2 ^ 48 → localTarget off = .rennet m b → off = 0xFE0000000000 + 64 * m + b ∧ m < 131072 ∧ b < 64

/-- R202: COUNT has reached T when (COUNT − T) mod 2^32 is less than 2^31. -/
def Obligations.CountReachesItsTarget : Prop :=
  ∀ count t : BitVec 32, reached count t = true ↔ ((count.toNat + (2 ^ 32 - t.toNat)) % 2 ^ 32 < 2 ^ 31)

/-- R201, R205 (the Signal row of Table 6.3, spelled out): a signal, DONE signal or landing add that arrives at an open
object acts by the object's type, and afterwards no registered wait on the object is met any more (R203); engines whose
release the performed signal completes then go on (`settle`). -/
def Obligations.RennetSignalsActByType : Prop :=
  ∀ (s : State) (src : RSrc) (kind : SigKind) (obj : Fin 131072) (operand : Word) (d0 : Dev),
    s.dev.arriveTag (.sig src kind obj.val operand) = some (none, d0) →
    s.dev.rennetGate src obj.val = none → (kind = .sig → sigBad (s.dev.obj obj.val).typ operand = false) →
    let o := s.dev.obj obj.val
    let v : BitVec 32 := operand.truncate 32
    let p := operand.toNat % 256
    ∃ d : Dev, exec (.rennetSignal src kind obj operand) s = .next { s with dev := d.settle } ∧
      (∀ w ∈ d.rennet.waiters, w.obj = obj.val → waitDone (d.obj obj.val) w.operand = false) ∧
      (o.typ = .counter → d.obj obj.val =
        if o.thresh ≠ 0 ∧ v.msb = true then { o with stray := true }
        else if o.thresh = 0 then { o with count := o.count + v }
        else { o with count := (o.count + v) % o.thresh, gen := o.gen + (o.count + v) / o.thresh }) ∧
      (o.typ = .semaphore → d.obj obj.val =
        if v.msb = true then (if (-v).toNat ≤ o.count.toNat then { o with count := o.count + v } else o)
        else if o.thresh ≠ 0 ∧ o.thresh.toNat < o.count.toNat + v.toNat then { o with count := o.thresh, ovf := true }
        else { o with count := o.count + v }) ∧
      (o.typ = .barrier → kind ≠ .sig → d.obj obj.val = { o with stray := true }) ∧
      (o.typ = .barrier → kind = .sig → (o.thresh.toNat ≤ p ∨ o.mask.getLsbD p = true) →
        d.obj obj.val = { o with stray := true }) ∧
      (o.typ = .barrier → kind = .sig → p < o.thresh.toNat → o.mask.getLsbD p = false → o.count + 1 ≠ o.thresh →
        d.obj obj.val = { o with count := o.count + 1, mask := o.mask ||| BitVec.ofNat 256 (2 ^ p) }) ∧
      (o.typ = .barrier → kind = .sig → p < o.thresh.toNat → o.mask.getLsbD p = false → o.count + 1 = o.thresh →
        o.rcnt = 0 → d.obj obj.val = { o with count := 0, mask := 0, gen := o.gen + 1 }) ∧
      d.mem = s.dev.mem ∧ d.engines = s.dev.engines ∧ d.sched = s.dev.sched

/-- R204: a configure operation sets TYPE and THRESH from its operand and clears COUNT, MASK, STRAY, OVF, RBASE, RCNT and
EXPECT; it also advances GEN by 1, so that every registered wait completes. The operand is one that R200 and Table 6.2
accept, and the waits registered on the object are those that had not completed. Engines whose release
the performed operation completes then go on (`settle`). -/
def Obligations.ConfigureRewritesTheObject : Prop :=
  ∀ (s : State) (src : RSrc) (obj : Fin 131072) (operand : Word) (t : RTyp) (d0 : Dev),
    s.dev.arriveTag (.sig src .sig obj.val operand) = some (none, d0) →
    s.dev.objOpen obj.val src.pd.toNat = true →
    operand.toNat / 2 ^ 62 = 1 → rtypOf (operand.toNat / 2 ^ 60 % 4) = some t → operand.toNat / 2 ^ 32 % 2 ^ 28 = 0 →
    (t = .barrier → 1 ≤ operand.toNat % 2 ^ 32 ∧ operand.toNat % 2 ^ 32 ≤ 256) →
    (∀ w ∈ s.dev.rennet.waiters, w.obj = obj.val → waitDone (s.dev.obj obj.val) w.operand = false) →
    ∃ d : Dev, exec (.rennetConfigure src obj operand) s = .next { s with dev := d.settle } ∧
      d.obj obj.val = { gen := (s.dev.obj obj.val).gen + 1, thresh := operand.truncate 32, typ := t,
                        owner := (s.dev.obj obj.val).owner } ∧
      (∀ w ∈ d.rennet.waiters, w.obj ≠ obj.val) ∧ (∀ n, n ≠ obj.val → d.obj n = s.dev.obj n) ∧ (∀ n, d.settle.obj n = d.obj n) ∧
      d.mem = s.dev.mem ∧ d.engines = s.dev.engines ∧ d.sched = s.dev.sched

/-- R200, R201, R203, R208: a set-realign on a counter or semaphore stores EXPECT; an XRADD that arrives on one answers
its engine with the count from before, as the type's rule changes it; a wait that arrives completes at once with COUNT
and GEN when it is met and is registered otherwise; and a wake retires the wait of its engine with that value. -/
def Obligations.RennetAddsAndWaits : Prop :=
  ∀ (s : State) (src : RSrc) (obj : Fin 131072) (d0 : Dev),
    s.dev.rennetGate src obj.val = none →
    (∀ operand : Word, s.dev.arriveTag (.sig src .sig obj.val operand) = some (none, d0) →
      (s.dev.obj obj.val).typ ≠ .barrier → operand.toNat / 2 ^ 62 = 2 → operand.toNat / 2 ^ 32 % 2 ^ 30 = 0 →
      ∃ d : Dev, exec (.rennetSetRealign src obj operand) s = .next { s with dev := d.settle } ∧
        d.obj obj.val = { s.dev.obj obj.val with expect := operand.truncate 32 } ∧ d.mem = s.dev.mem) ∧
    (∀ (v : BitVec 32) (e : Fin 128) (rd : Fin 32) (a : Word) (acq : Bool),
      s.dev.arriveTag (.add src obj.val v) = some (none, d0) → (s.dev.obj obj.val).typ ≠ .barrier →
      srcEng s.dev src = some e → (s.dev.eng e).run = .reply rd a acq →
      ∃ d, exec (.rennetAdd src obj v) s = .next { s with dev := d } ∧
        d.obj obj.val = (if (s.dev.obj obj.val).typ = .counter then counterAdd (s.dev.obj obj.val) v
          else semAdd (s.dev.obj obj.val) v) ∧
        (d.eng e).rx rd = (if rd.val = 0 then 0 else (s.dev.obj obj.val).count.setWidth 64) ∧
        (d.eng e).pc = (s.dev.eng e).pc + 4 ∧ d.mem = s.dev.mem) ∧
    (∀ (operand : Word) (sc : Scope) (e : Fin 128), s.dev.arriveTag (.wait src obj.val operand sc) = some (none, d0) →
      srcEng s.dev src = some e →
      ∃ d, exec (.rennetWaitRegister src obj operand sc) s = .next { s with dev := d } ∧
        (let o := s.dev.obj obj.val
         let w : Waiter := { obj := obj.val, src := src, eng := e, sc := sc, operand := operand }
         if waitDone o operand = true then
           d.rennet.waiters = s.dev.rennet.waiters ∧
           d.rennet.msgs = d0.rennet.msgs ++ [.wake e (BitVec.ofNat 64 (o.count.toNat + 2 ^ 32 * o.gen.toNat))]
         else d.rennet.waiters = s.dev.rennet.waiters ++ [w] ∧ d.rennet.msgs = d0.rennet.msgs) ∧
        { d with rennet := s.dev.rennet } = s.dev) ∧
    (∀ (e : Fin 128) (v a : Word) (rd : Fin 32) (sc : Scope) (ms : List RMsg),
      s.dev.rennet.msgs = .wake e v :: ms → (s.dev.eng e).run = .rwait rd a sc →
      ∃ d, exec (.rennetWake e) s = .next { s with dev := d } ∧ d.rennet.msgs = ms ∧
        d.eng e = (({ s.dev.eng e with l1d := if sc = Scope.engine then (s.dev.eng e).l1d else [] }).wx rd v).retire ∧
        (∀ g, g ≠ e → d.eng g = s.dev.eng g) ∧ { d with rennet := s.dev.rennet, engines := s.dev.engines } = s.dev)

/-- R209, R292: a hart with a domain that may perform the access, with no load outstanding, loads COUNT and GEN, or another word, from
an open object's window; its 8-byte store at offset 0 leaves as a signal, at once when nothing earlier of the hart holds it
back, and is held at the hart otherwise; and its AMOADD.D, with nothing holding it back, returns the old count.

R210, R217, R218, R221: the oldest landing add whose region has no write outstanding adds its byte count to the
region's counter; a context that has stayed stalled for its window, with no operation on its objects within it, raises a DEADLOCK event once; and a finished dump
leaves the queue of dumps with a DUMP_DONE event. -/
def Obligations.WindowsLandingsAndDumpsAct : Prop :=
  (∀ (s : State) (h : Fin 64) (rd : Fin 32) (a v : Word) (obj off : Nat) (ext : List Byte),
    s.dev.coreTo a = .rennet none obj off → (s.dev.core h).domEn = true →
    s.dev.objOpen obj (s.dev.core h).pd = true → (s.dev.obj obj).poisoned = false →
    (off % 8 = 0 → s.dev.coreMay h .load = true → (s.dev.core h).loads = [] → s.dev.opsOut (.core h) obj = false →
      ∃ d, exec (.rennetWindowLoad (.core h rd) ⟨a, ext⟩) s = .next { s with dev := d } ∧ OnlyCore h s.dev d ∧
        (d.core h).rx rd = (if rd.val = 0 then 0 else BitVec.ofNat 64 (winWord (s.dev.obj obj) off))) ∧
    (off = 0 → s.dev.coreMay h .store = true →
      ∃ d, exec (.rennetWindowStore (.core h rd) a v) s = .next { s with dev := d } ∧
        (if s.dev.sigHolds (.core h) (s.dev.target true (objAddr obj)) = true then
          d.rennet = s.dev.rennet ∧ (∃ w, d.writes = s.dev.writes ++ [w] ∧ w.held = true ∧ w.src = .core h ∧
            w.addr = objAddr obj ∧ w.what = .sig (s.dev.coreSrc h) obj v) ∧
          { d with cores := s.dev.cores, writes := s.dev.writes } = s.dev
        else
          d.rennet = { s.dev.rennet with msgs := s.dev.rennet.msgs ++ [.sig (s.dev.coreSrc h) .sig obj v] } ∧
          { d with rennet := s.dev.rennet, cores := s.dev.cores } = s.dev)) ∧
    (off = 0 → s.dev.coreMay h .both = true → s.dev.sigHolds (.core h) (s.dev.target false a.toNat) = false →
      (s.dev.obj obj).typ ≠ .barrier →
      ∃ d, exec (.rennetWindowAmoadd h rd a (v.truncate 32)) s = .next { s with dev := d } ∧
        (d.core h).rx rd = (if rd.val = 0 then 0 else (s.dev.obj obj).count.setWidth 64) ∧
        d.obj obj = (if (s.dev.obj obj).typ = .counter then counterAdd (s.dev.obj obj) (v.truncate 32)
          else semAdd (s.dev.obj obj) (v.truncate 32)) ∧ d.mem = s.dev.mem)) ∧
  ((∀ (s : State) (r : Fin 4096) (n : Nat) (ls : List (Fin 4096 × Nat)) (reg : PRegion) (obj : Nat),
    s.dev.rennet.landings = (r, n) :: ls → (∀ w ∈ s.dev.writes, w.src ≠ .region r) →
    tget s.dev.host.regions r.val = some reg → reg.counter = some obj → (s.dev.obj obj).typ = .counter →
    (s.dev.obj obj).thresh = 0 → s.dev.objOpen obj (s.dev.pdOf reg.ctx % 256) = true → (s.dev.obj obj).poisoned = false →
    ∃ d, exec .landingAdd s = .next { s with dev := d } ∧ d.rennet.landings = ls ∧
      d.obj obj = { s.dev.obj obj with count := (s.dev.obj obj).count + BitVec.ofNat 32 n } ∧ d.mem = s.dev.mem) ∧
  (∀ (s : State) (c : Fin 4096) (x : Ctx), c.val < 4095 → s.dev.ctx? c.val = some x → s.dev.stalled c.val = true →
    c.val ∉ s.dev.rennet.fired → s.dev.opsInWindow c.val = false → s.dev.faults.contain = none → x.dumpOn = false → s.dev.host.canHold = true →
    ∃ d, exec (.deadlockWindowExpiry c) s = .next { s with dev := d } ∧
      d.host.evtQ = s.dev.host.evtQ ++ [{ kind := 3, info := BitVec.ofNat 32 c.val, t := s.dev.hubCount }] ∧
      d.rennet.fired = c.val :: s.dev.rennet.fired ∧ { d with rennet := s.dev.rennet, host := s.dev.host } = s.dev) ∧
  (∀ (s : State) (j : DumpJob) (js : List DumpJob), s.dev.rennet.dumps = j :: js → j.slot = none →
    s.dev.host.canHold = true →
    ∃ d e, exec .dumpComplete s = .next { s with dev := d } ∧ d.rennet.dumps = js ∧
      d.host.evtQ = s.dev.host.evtQ ++ [e] ∧ e.kind = 4 ∧ d.rennet.objs = s.dev.rennet.objs ∧ d.sched = s.dev.sched))


/-! ### Coherence -/

/-- R256 to R262, Table 8.6 (rows without holders), R273, R277: a home that takes a request for a line that nobody holds
answers it from memory. A core's RdShared or RdUnique gets the line exclusive and clean and is recorded as its owner; a
RdOnce gets it with no state; a WrLine or WrPart is performed and acknowledged; an AMO returns the old value and performs
its operation; a core that alone holds the line is granted it. -/
def Obligations.HomesServeUnheldLines : Prop :=
  ∀ (s : State) (w : Word) (d0 : Dev) (m : NMsg), HomeTakes s.dev w m d0 →
    let key := maKey m.addr
    let comp (b : CompBody) : NMsg := { m with kind := .comp, was := m.kind, body := b, bytes := [] }
    let data (st : Moesi) : NMsg := { kind := .data, who := m.who, addr := maLine m.addr, bytes := (s.dev.memLine m.addr).1,
                                      st := st, poison := (s.dev.memLine m.addr).2 }
    (d0.holders key = [] →
      (∀ h, m = { kind := .rdShared, who := .core h, addr := m.addr } →
        ∃ d, exec (.rdShared (.core h) w none) s = .next { s with dev := d } ∧ d.coh.noc = d0.coh.noc ++ [data .e] ∧
          d.coreHolders key = [(h, .em)] ∧ tget d.coh.txns key = some { req := m, waits := [], ack := true } ∧
          d.mem = s.dev.mem ∧ d.cores = s.dev.cores) ∧
      (∀ h, m = { kind := .rdUnique, who := .core h, addr := m.addr } →
        ∃ d, exec (.rdUnique (.core h) w none) s = .next { s with dev := d } ∧ d.coh.noc = d0.coh.noc ++ [data .e] ∧
          d.coreHolders key = [(h, .em)] ∧ tget d.coh.txns key = some { req := m, waits := [], ack := true } ∧
          d.mem = s.dev.mem ∧ d.cores = s.dev.cores) ∧
      ((∀ n, m.who ≠ .node n) → m = { kind := .rdOnce, who := m.who, addr := m.addr } →
        ∃ d, exec (.rdOnce m.who w none) s = .next { s with dev := d } ∧ d.coh.noc = d0.coh.noc ++ [data .i] ∧
          d.coreHolders key = [] ∧ d.mem = s.dev.mem ∧ d.cores = s.dev.cores) ∧
      ((∀ n, m.who ≠ .node n) → m = { kind := .wrLine, who := m.who, addr := m.addr, bytes := m.bytes } →
        m.bytes.length = 64 → w.toNat % 64 = 0 →
        ∃ d, exec (.wrLine m.who w m.bytes none) s = .next { s with dev := d } ∧ d.mem = cellsPut s.dev.mem m.addr m.bytes ∧
          d.isPoison key = false ∧ d.coh.noc = d0.coh.noc ++ [comp .write] ∧ tget d.coh.txns key = none) ∧
      ((∀ n, m.who ≠ .node n) → m = { kind := .wrPart, who := m.who, addr := m.addr, bytes := m.bytes } →
        w.toNat % 64 + m.bytes.length ≤ 64 →
        ∃ d, exec (.wrPart m.who w m.bytes none) s = .next { s with dev := d } ∧ d.mem = cellsPut s.dev.mem m.addr m.bytes ∧
          d.poison = s.dev.poison ∧ d.coh.noc = d0.coh.noc ++ [comp .write] ∧ tget d.coh.txns key = none) ∧
      (∀ op v dbl, (∀ n, m.who ≠ .node n) → m = { kind := .atomic, who := m.who, addr := m.addr, atom := .amo op v dbl } →
        let wd := if dbl then 8 else 4
        let old := ofLe (s.dev.rd m.addr wd)
        ∃ d, exec (.atomic m.who w (.amo op v dbl) none) s = .next { s with dev := d } ∧
          d.mem = cellsPut s.dev.mem m.addr (leBytes wd (amoVal op wd old (v.toNat % 2 ^ (8 * wd)))) ∧
          d.coh.noc = d0.coh.noc ++ [comp (.old (sext (8 * wd) old) (s.dev.isPoison key))])) ∧
    (∀ h, m = { kind := .claimUnique, who := .core h, addr := m.addr } → d0.holders key = [(.core h, false)] →
      ∃ d, exec (.claimUnique (.core h) w none) s = .next { s with dev := d } ∧
        d.coh.noc = d0.coh.noc ++ [comp (.grant .e)] ∧ d.coreHolders key = [(h, .em)] ∧ d.mem = s.dev.mem ∧
        d.cores = s.dev.cores)

/-- Table 8.6, R264: a request for a line that another core owns starts a transaction that waits for the answer to one FWD:
SnpShared for RdShared, SnpUnique for RdUnique, an Atomic or a partial write, SnpOnce for RdOnce, SnpInv for a whole line
written; memory does not change until it comes. A request for a line with a transaction is refused with a free ticket. -/
def Obligations.HomesForwardToTheOwner : Prop :=
  ∀ (s : State) (w : Word) (d0 : Dev) (m : NMsg) (g : Fin 64), (∀ n, m.who ≠ .node n) → m.who ≠ .core g →
    let key := maKey m.addr
    (HomeTakes s.dev w m d0 → d0.holders key = [(.core g, true)] →
      let fwd (d : Dev) (k : NKind) (rq : Option Agent) : Prop :=
        d.coh.noc = d0.coh.noc ++ [{ kind := k, who := .core g, addr := maLine m.addr, rq := rq }] ∧
        tget d.coh.txns key = some { req := m, waits := [.core g] } ∧ d.coreHolders key = s.dev.coreHolders key ∧
        d.mem = s.dev.mem ∧ d.cores = s.dev.cores ∧ d.writes = s.dev.writes
      (m = { kind := .rdShared, who := m.who, addr := m.addr } →
        ∃ d, exec (.rdShared m.who w none) s = .next { s with dev := d } ∧ fwd d .snpShared (some m.who)) ∧
      (m = { kind := .rdUnique, who := m.who, addr := m.addr } →
        ∃ d, exec (.rdUnique m.who w none) s = .next { s with dev := d } ∧ fwd d .snpUnique (some m.who)) ∧
      (m = { kind := .rdOnce, who := m.who, addr := m.addr } →
        ∃ d, exec (.rdOnce m.who w none) s = .next { s with dev := d } ∧ fwd d .snpOnce (some m.who)) ∧
      (∀ op, m = { kind := .atomic, who := m.who, addr := m.addr, atom := op } →
        ∃ d, exec (.atomic m.who w op none) s = .next { s with dev := d } ∧ fwd d .snpUnique none) ∧
      (m = { kind := .wrPart, who := m.who, addr := m.addr, bytes := m.bytes } → w.toNat % 64 + m.bytes.length ≤ 64 →
        ∃ d, exec (.wrPart m.who w m.bytes none) s = .next { s with dev := d } ∧ fwd d .snpUnique none) ∧
      (m = { kind := .wrLine, who := m.who, addr := m.addr, bytes := m.bytes } → m.bytes.length = 64 → w.toNat % 64 = 0 →
        ∃ d, exec (.wrLine m.who w m.bytes none) s = .next { s with dev := d } ∧ fwd d .snpInv none)) ∧
    (∀ t, m = { kind := .rdShared, who := m.who, addr := m.addr } → s.dev.maddr w = some m.addr → maNode m.addr = none →
      s.dev.arriveMsg m (fun x => x.ticket == none && x.addr == m.addr && x.bytes == [] && x.atom == m.atom) = (m, d0) →
      d0.frameGate m.addr = .go d0 → d0.busyLine key = true → d0.newTicket (d0.slice m.addr) = some t →
      ∃ d, exec (.rdShared m.who w none) s = .next { s with dev := d } ∧
        d.coh.noc = d0.coh.noc ++ [{ m with kind := .retry, was := .rdShared, ticket := some t }] ∧
        d.coh.tickets = d0.coh.tickets ++ [{ slice := d0.slice m.addr, id := t, line := key, who := m.who }] ∧
        d.coh.txns = d0.coh.txns ∧ d.mem = s.dev.mem)

/-- Tables 8.7 and 8.8, R270, R276: what a core that holds a line does on a FWD for it (the rows of M for the three that
supply data, of S for SnpInv), that it delays every FWD of its granule while it holds the line for an LR (an access that waits for
the line, or for the next one beside it, delays one too: `fwdWaits`), and that a node's proxy gives an
unheld line of its node back with an acknowledgement. -/
def Obligations.HoldersAnswerForwards : Prop :=
  ∀ (s : State) (a : Nat) (w : Word) (d0 : Dev), s.dev.maddr w = some a →
    (∀ (h : Fin 64) (q : Agent) (l : CLine), (∀ n, q ≠ .node n) → tget (s.dev.core h).lines (maKey a) = some l →
      maNode a = none → (s.dev.core h).resv = none → (s.dev.core h).resvHold ≠ some (maKey a / 2) → d0.fwdWaits h (maKey a) = false →
      let fwd (k : NKind) : NMsg := { kind := k, who := .core h, addr := maLine a, rq := some q }
      let came (k : NKind) : Prop :=
        s.dev.arriveMsg { kind := k, who := .core h, addr := maLine a } (fun _ => true) = (fwd k, d0)
      let data (st : Moesi) : NMsg :=
        { kind := .data, who := q, addr := maLine a, bytes := l.data, st := st, dirty := true, poison := l.poison,
          fresh := l.fresh }
      let ack (got : Bool) : NMsg :=
        { kind := .snpAck, who := .core h, addr := maLine a, dirty := got, supplied := got, poison := got && l.poison,
          fresh := got && l.fresh }
      (l.st = .m → came .snpShared → ∃ d, exec (.snpShared (.core h) w) s = .next { s with dev := d } ∧
        d.coh.noc = d0.coh.noc ++ [data .s, ack true] ∧
        tget (d.core h).lines (maKey a) = some { l with st := .o } ∧ d.mem = s.dev.mem) ∧
      (l.st = .m → came .snpUnique → ∃ d, exec (.snpUnique (.core h) w) s = .next { s with dev := d } ∧
        d.coh.noc = d0.coh.noc ++ [data .m, ack true] ∧ tget (d.core h).lines (maKey a) = none ∧ d.mem = s.dev.mem) ∧
      (l.st = .m → came .snpOnce → ∃ d, exec (.snpOnce (.core h) w) s = .next { s with dev := d } ∧
        d.coh.noc = d0.coh.noc ++ [data .i, ack true] ∧ tget (d.core h).lines (maKey a) = some l ∧ d.mem = s.dev.mem) ∧
      (l.st = .s → came .snpInv → ∃ d, exec (.snpInv (.core h) w) s = .next { s with dev := d } ∧
        d.coh.noc = d0.coh.noc ++ [ack false] ∧ tget (d.core h).lines (maKey a) = none ∧ d.mem = s.dev.mem)) ∧
    (∀ (h : Fin 64) (m : NMsg), (s.dev.core h).resvHold = some (maKey a / 2) →
      s.dev.arriveMsg { kind := .snpUnique, who := .core h, addr := maLine a } (fun _ => true) = (m, d0) →
      m.addr = maLine a →
      ∃ d, exec (.snpUnique (.core h) w) s = .next { s with dev := d } ∧ d.cores = s.dev.cores ∧
        d.coh.noc = d0.coh.noc ++ [m]) ∧
    (∀ n, maNode a = some n → (s.dev.proxyLine (maKey a)).hold = false → s.dev.busyLine (maKey a) = false →
      s.dev.holders (maKey a) = [] → NoneHeld s.dev →
      s.dev.arriveMsg { kind := .snpBack, who := .proxy, addr := maLine a } (fun _ => true) =
        ({ kind := .snpBack, who := .proxy, addr := maLine a }, d0) →
      ∃ d, exec (.snpBack w) s = .next { s with dev := d } ∧
        d.proxyLine (maKey a) = { s.dev.proxyLine (maKey a) with mode := none } ∧ d.busyLine (maKey a) = false ∧
        d.cores = s.dev.cores ∧ d.mem = s.dev.mem)

/-- R260 to R263, R265, R274: an owner's SnpAck completes a RdShared and leaves the owner as O and the requester as S; the
requester's CompAck ends the transaction; Data fills a core's line, performs the load that waits for it (of a
core with no other access and no write outstanding) and is acknowledged; a grant lets the store that waits be performed, so that the line is M; a refused request goes out again with
its ticket; an AMO's Comp writes the engine's register and drops the L1 copy of
its line; and RedAck takes a reduction off the outstanding writes. -/
def Obligations.AnswersReachTheirAgents : Prop :=
  ∀ (s : State) (a : Nat) (w : Word) (d0 : Dev), s.dev.maddr w = some a → maNode a = none →
    let key := maKey a
    (∀ (g r : Fin 64) (q : NMsg), g ≠ r → NoneHeld s.dev → q.kind = .rdShared → q.who = .core r → q.addr = maLine a →
      tget s.dev.coh.txns key = some { req := q, waits := [.core g] } → s.dev.coreHolders key = [(g, .em)] →
      s.dev.arriveMsg { kind := .snpAck, who := .core g, addr := maLine a, dirty := true } (fun _ => true) =
        ({ kind := .snpAck, who := .core g, addr := maLine a, dirty := true, supplied := true }, d0) →
      ∃ d, exec (.snpAck (.core g) w true false) s = .next { s with dev := d } ∧
        d.coreHolders key = [(g, .o), (r, .s)] ∧
        tget d.coh.txns key = some { req := q, waits := [], supplied := true, ack := true } ∧
        d.coh.noc = d0.coh.noc ∧ d.mem = s.dev.mem) ∧
    (∀ (r : Agent) (t : Txn), NoneHeld s.dev → tget s.dev.coh.txns key = some t → t.ack = true → t.wb = false → t.req.who = r →
      s.dev.arriveMsg { kind := .compAck, who := r, addr := maLine a } (fun _ => true) =
        ({ kind := .compAck, who := r, addr := maLine a }, d0) →
      ∃ d, exec (.compAck r w) s = .next { s with dev := d } ∧ tget d.coh.txns key = none ∧
        (∀ k, k ≠ key → tget d.coh.txns k = tget s.dev.coh.txns k) ∧ d.coh.noc = d0.coh.noc ∧ d.mem = s.dev.mem) ∧
    (∀ (h : Fin 64) (rd : Fin 32) (ad sq : Nat) (wl : Fin 4) (sg : Bool) (bs : List Byte) (st : Moesi) (old : List Byte),
      ad / 64 = key → ad % 64 + 2 ^ wl.val ≤ 64 → bs.length = 64 → (∀ x ∈ s.dev.writes, x.src ≠ .core h) →
      tget (s.dev.core h).lines key = some { st := .isD, data := old, acc := [.load ad wl sg false sq []] } →
      (s.dev.core h).accs = [.load ad wl sg false sq []] → (s.dev.core h).loads = [{ seq := sq, rd := rd }] → (s.dev.core h).onces = [] →
      s.dev.arriveMsg { kind := .data, who := .core h, addr := maLine a, bytes := bs, st := st } (fun _ => true) =
        ({ kind := .data, who := .core h, addr := maLine a, bytes := bs, st := st }, d0) →
      ∃ d, exec (.data (.core h) w bs st false) s = .next { s with dev := d } ∧
        (d.core h).rx rd = (if rd.val = 0 then 0 else
          let v := ofLe ((bs.drop (ad % 64)).take (2 ^ wl.val))
          if sg then sext (8 * 2 ^ wl.val) v else BitVec.ofNat 64 v) ∧
        tget (d.core h).lines key = some { st := cstOf st, data := bs } ∧
        d.coh.noc = d0.coh.noc ++ [{ kind := .compAck, who := .core h, addr := 64 * key }] ∧ d.mem = s.dev.mem) ∧
    (∀ (h : Fin 64) (ad : Nat) (bs l0 : List Byte) (wk : NKind), wk ≠ .wrPart → wk ≠ .wrLine → ad / 64 = key → ad % 64 + bs.length ≤ 64 → bs ≠ [] → l0.length = 64 →
      tget (s.dev.core h).lines key = some { st := .smD, data := l0, acc := [.store ad bs] } → (s.dev.core h).waitAcc = [] →
      s.dev.arriveMsg { kind := .comp, who := .core h, addr := a, body := .grant .e } (fun x => x.body == .grant .e) =
        ({ kind := .comp, was := wk, who := .core h, addr := a, body := .grant .e }, d0) →
      ∃ d l, exec (.comp (.core h) w (.grant .e)) s = .next { s with dev := d } ∧
        tget (d.core h).lines key = some l ∧ l.st = .m ∧
        l.data = putAt l0 (ad % 64) bs ∧
        d.coh.noc = d0.coh.noc ++ [{ kind := .compAck, who := .core h, addr := 64 * key }] ∧ d.mem = s.dev.mem) ∧
    (∀ (e : Fin 128) (rd : Fin 32) (x : Word) (v : Word) (wk : NKind), (s.dev.eng e).run = .reply rd x false →
      s.dev.arriveMsg { kind := .comp, who := .engine e, addr := a, body := .old v false } (fun y => y.body == .old v false) =
        ({ kind := .comp, was := wk, who := .engine e, addr := a, body := .old v false }, d0) →
      ∃ d, exec (.comp (.engine e) w (.old v false)) s = .next { s with dev := d } ∧
        d.eng e = (((s.dev.eng e).dropLine (x.toNat % 2 ^ 48 / 64)).wx rd v).retire ∧ (∀ g, g ≠ e → d.eng g = s.dev.eng g) ∧ d.mem = s.dev.mem) ∧
    (∀ (h : Fin 64) (t : BitVec 10) (m : NMsg), m.who = .core h → m.kind = .retry → m.was = .rdUnique →
      s.dev.arriveMsg { kind := .retry, who := .core h, addr := a, ticket := some t } (fun x => x.ticket == some t) = (m, d0) →
      ∃ d, exec (.retry (.core h) w t) s = .next { s with dev := d } ∧
        d.coh.noc = d0.coh.noc ++ [{ m with kind := .rdUnique, was := .retry }] ∧ d.mem = s.dev.mem ∧ d.cores = s.dev.cores) ∧
    (∀ (e : Fin 128) (c : Fin 4) (x : OutW) (ws : List OutW), NoRelease s.dev → s.dev.writes = x :: ws →
      x.src = .tongs e c → x.held = false → x.done = true → x.red.isSome = true → x.addr / 64 = ownAddr a / 64 →
      s.dev.arriveMsg { kind := .redAck, who := .tongs e c, addr := a } (fun _ => true) =
        ({ kind := .redAck, who := .tongs e c, addr := a }, d0) →
      ∃ d, exec (.redAck e c w false) s = .next { s with dev := d } ∧ d.writes = ws ∧ d.mem = s.dev.mem)

/-- R251, R268, R274, R371, Table 12.4: a dirty line written back by its core reaches memory, whose poison only data that a cbo.zero
has made clears (R279), a clean one dropped leaves memory
alone, and either way the core is no longer its holder; an element of a reduction of a line nobody holds is combined with
the element in memory by its operation and acknowledged.

R18, R266, R271, R276: a held write leaves for its home once nothing that its source issued before it is left; an expired ticket is free
again; and an expired hold of a proxy or of a core's LR ends. -/
def Obligations.WriteBacksReachMemoryAndHoldsExpire : Prop :=
  (∀ (s : State) (a : Nat) (w : Word) (d0 : Dev), s.dev.maddr w = some a → maNode a = none → NoneHeld s.dev →
    d0.frameGate (maLine a) = .go d0 → tget s.dev.coh.txns (maKey a) = none →
    (∀ (h : Fin 64) (x : FSt) (m : NMsg), (h, x) ∈ s.dev.coreHolders (maKey a) → m.who = .core h → m.addr = maLine a →
      (m.kind = .wbDirty → m ∈ s.dev.coh.noc → m.bytes.length = 64 → ∀ bs p,
        s.dev.arriveMsg { kind := .wbDirty, who := .core h, addr := maLine a, bytes := bs, poison := p } (fun _ => true) = (m, d0) →
        ∃ d, exec (.wbDirty (.core h) w bs p) s = .next { s with dev := d } ∧ d.mem = cellsPut s.dev.mem (maLine a) m.bytes ∧
          d.isPoison (maKey a) = (m.poison || (!m.fresh && s.dev.isPoison (maKey a))) ∧ (∀ y, (h, y) ∉ d.coreHolders (maKey a)) ∧
          d.coh.noc = d0.coh.noc ++ [{ m with kind := .comp, body := .evicted, bytes := [] }]) ∧
      (m.kind = .evict → m ∈ s.dev.coh.noc →
        s.dev.arriveMsg { kind := .evict, who := .core h, addr := maLine a } (fun _ => true) = (m, d0) →
        ∃ d, exec (.evict (.core h) w) s = .next { s with dev := d } ∧ d.mem = s.dev.mem ∧
          (∀ y, (h, y) ∉ d.coreHolders (maKey a)) ∧
          d.coh.noc = d0.coh.noc ++ [{ m with kind := .comp, body := .evicted }])) ∧
    (∀ (e : Fin 128) (c : Fin 4) (op : RedOp) (ty : RType) (bs : List Byte), bs.length = redWidth ty →
      a % 64 + bs.length ≤ 64 → s.dev.holders (maKey a) = [] → d0.frameGate a = .go d0 →
      s.dev.arriveMsg (redMsg (.tongs e c) a bs (op, ty)) (fun x => x.red == op && x.ty == ty && x.bytes == bs && x.addr == a) =
        (redMsg (.tongs e c) a bs (op, ty), d0) →
      let done (d : Dev) : Prop :=
        d.mem = cellsPut s.dev.mem a (leBytes (redWidth ty) (redElem op ty (ofLe (s.dev.rd a (redWidth ty))) (ofLe bs))) ∧
        d.coh.noc = d0.coh.noc ++ [{ redMsg (.tongs e c) a [] (op, ty) with kind := .redAck, poison := s.dev.isPoison (maKey a) }]
      (op = .add → ∃ d, exec (.redAdd (.tongs e c) w ty bs) s = .next { s with dev := d } ∧ done d) ∧
      (op = .min → ty = .uint32 ∨ ty = .uint64 →
        ∃ d, exec (.redMin (.tongs e c) w ty bs) s = .next { s with dev := d } ∧ done d) ∧
      (op = .max → ty = .uint32 ∨ ty = .uint64 →
        ∃ d, exec (.redMax (.tongs e c) w ty bs) s = .next { s with dev := d } ∧ done d))) ∧
  (∀ s : State,
    (∀ (x : OutW) (off : Nat), NoRelease s.dev → s.dev.host.reads = [] → s.dev.writes = [x] → x.held = true → x.what = .mem →
      x.red = none → s.dev.rennetOut x.src (fun _ => true) = false → s.dev.lineStores x.src (· == 255) = false →
      s.dev.target true x.addr = .umr off →
      ∃ d, exec (.heldWriteRelease x.src) s = .next { s with dev := d } ∧ d.writes = [{ x with held := false }] ∧
        d.coh.noc = s.dev.coh.noc ++ [writeMsg x.src off x.bytes] ∧ d.mem = s.dev.mem) ∧
    (∀ (sl : Fin 32) (t : BitVec 10), NoneHeld s.dev →
      ∃ d, exec (.ticketExpiry sl t) s = .next { s with dev := d } ∧
        (∀ x, x ∈ d.coh.tickets ↔ x ∈ s.dev.coh.tickets ∧ ¬(x.slice = sl.val ∧ x.id = t)) ∧
        { d with coh := { d.coh with tickets := s.dev.coh.tickets } } = s.dev) ∧
    (∀ (w : Word) (a : Nat), NoneHeld s.dev → s.dev.maddr w = some a →
      ∃ d, exec (.proxyHoldExpiry w) s = .next { s with dev := d } ∧
        d.proxyLine (maKey a) = { s.dev.proxyLine (maKey a) with hold := false } ∧
        (∀ k, k ≠ maKey a → d.proxyLine k = s.dev.proxyLine k) ∧ { d with coh := s.dev.coh } = s.dev) ∧
    (∀ h : Fin 64, ∃ d, exec (.lrHoldExpiry h) s = .next { s with dev := d } ∧ OnlyCore h s.dev d ∧
      d.core h = { s.dev.core h with resvHold := none }))


/-! ### Application cores and translation -/

/-- R288 to R290, R222, Table 9.3, Table 8.7: a cacheable load that hits, with no older load of the hart out, returns
the line's bytes with the hart's own stores in flight over them, and one that misses asks for the line with RdShared; a cacheable store that nothing earlier of the hart
holds back and that its store buffer has room for makes a line held alone M with the stored bytes, and one that misses
asks with RdUnique; a granted and aligned Vat access reads (here with no operation in the array) or writes the bank; an access to no
region traps precisely, here where medeleg does not send it on. -/
def Obligations.CoresLoadAndStore : Prop :=
  ∀ (s : State) (h : Fin 64) (a : Word),
    (∀ (ma : Nat) (rd : Fin 32) (wl : Fin 4) (sg : Bool) (ext : List Byte), s.dev.coreMay h .load = true →
      s.dev.coreTo a = .umr ma → maNode ma = none → ma % 64 + 2 ^ wl.val ≤ 64 →
      (∀ l, tget (s.dev.core h).lines (ma / 64) = some l → stable l.st = true → l.poison = false →
        (s.dev.core h).loads = [] →
        ((s.dev.core h).accs = [] → s.dev.coreBytes h ma (2 ^ wl.val) =
          s.dev.overlay (.core h) (gaddr ma).toNat ((s.dev.core h).bytesAt ma (2 ^ wl.val))) ∧
        ∃ d, exec (.coreLoad h false rd a wl sg .pma ext) s = .next { s with dev := d } ∧ OnlyCore h s.dev d ∧
          (d.core h).rx rd = (if rd.val = 0 then 0 else
            let v := ofLe (s.dev.coreBytes h ma (2 ^ wl.val))
            if sg then sext (8 * 2 ^ wl.val) v else BitVec.ofNat 64 v) ∧
          (∀ r : Fin 32, r ≠ rd → (d.core h).rx r = (s.dev.core h).rx r) ∧ (d.core h).lines = (s.dev.core h).lines) ∧
      (tget (s.dev.core h).lines (ma / 64) = none →
        ((s.dev.core h).lines.filter (fun p => p.1 % 2048 == ma / 64 % 2048 && !leaving p.2.st)).length < 16 →
        ∃ d, exec (.coreLoad h false rd a wl sg .pma ext) s = .next { s with dev := d } ∧
          d.coh.noc = s.dev.coh.noc ++ [{ kind := .rdShared, who := .core h, addr := 64 * (ma / 64) }] ∧
          tget (d.core h).lines (ma / 64) = some { st := .isD, acc := [.load ma wl sg false (s.dev.core h).nextLoad []] } ∧
          (d.core h).loads = (s.dev.core h).loads ++ [{ seq := (s.dev.core h).nextLoad, rd := rd }] ∧ d.mem = s.dev.mem ∧
          (∀ r : Fin 32, (d.core h).rx r = (s.dev.core h).rx r))) ∧
    (∀ (ma : Nat) (bs : List Byte), s.dev.coreMay h .store = true → bs.length = 1 ∨ bs.length = 2 ∨ bs.length = 4 ∨ bs.length = 8 →
      s.dev.coreTo a = .umr ma → maNode ma = none → ma % 64 + bs.length ≤ 64 →
      s.dev.coreBehind h a = false → s.dev.bufFull h (.store ma bs) = false →
      (∀ l, tget (s.dev.core h).lines (ma / 64) = some l → l.st = .m ∨ l.st = .e → l.data.length = 64 →
        ∃ d, exec (.coreStore h a bs .pma) s = .next { s with dev := d } ∧
          tget (d.core h).lines (ma / 64) = some { l with st := .m, data := putAt l.data (ma % 64) bs } ∧
          (∀ k, k ≠ ma / 64 → tget (d.core h).lines k = tget (s.dev.core h).lines k) ∧
          (∀ r : Fin 32, (d.core h).rx r = (s.dev.core h).rx r) ∧ d.coh.noc = s.dev.coh.noc ∧ d.mem = s.dev.mem) ∧
      (tget (s.dev.core h).lines (ma / 64) = none →
        ((s.dev.core h).lines.filter (fun p => p.1 % 2048 == ma / 64 % 2048 && !leaving p.2.st)).length < 16 →
        ∃ d, exec (.coreStore h a bs .pma) s = .next { s with dev := d } ∧
          d.coh.noc = s.dev.coh.noc ++ [{ kind := .rdUnique, who := .core h, addr := 64 * (ma / 64) }] ∧
          tget (d.core h).lines (ma / 64) = some { st := .imD, acc := [.store ma bs] } ∧ d.mem = s.dev.mem)) ∧
    (∀ v, s.dev.coreTo a = .vat v → (s.dev.core h).domEn = true →
      (∀ (rd : Fin 32) (wl : Fin 4) (ty : Pbmt), s.dev.coreMay h .load = true → a.toNat % 2 ^ wl.val = 0 →
        s.dev.vatOpen (s.dev.core h).ctx v (2 ^ wl.val) = true → s.dev.anvil.ops = [] → (s.dev.core h).loads = [] →
        ∃ d, exec (.coreLoad h false rd a wl false ty []) s = .next { s with dev := d } ∧ OnlyCore h s.dev d ∧
          (d.core h).rx rd = (if rd.val = 0 then 0 else
            BitVec.ofNat 64 (ofLe (s.dev.overlay (.core h) (ownAddr (vatOff v)) (s.dev.rd (vatOff v) (2 ^ wl.val))) %
              2 ^ (8 * 2 ^ wl.val)))) ∧
      (∀ (bs : List Byte) (ty : Pbmt), s.dev.coreMay h .store = true → bs.length = 1 ∨ bs.length = 2 ∨ bs.length = 4 ∨ bs.length = 8 →
        a.toNat % bs.length = 0 → s.dev.vatOpen (s.dev.core h).ctx v bs.length = true → s.dev.coreBehind h a = false →
        ∃ d, exec (.coreStore h a bs ty) s = .next { s with dev := d } ∧ d.mem = cellsPut s.dev.mem (vatOff v) bs ∧
          d.coh = s.dev.coh ∧ d.engines = s.dev.engines)) ∧
    (∀ bs, s.dev.coreTo a = .fault → s.dev.coreMay h .store = true → bs.length = 8 →
      ¬((s.dev.core h).priv ≠ .m ∧ bit ((s.dev.core h).csrOf 0x302) 7 = true) →
      ∃ d, exec (.coreStore h a bs .pma) s = .next { s with dev := d } ∧ (d.core h).mcause = 7 ∧ (d.core h).mtval = a ∧
        (d.core h).priv = .m ∧ d.mem = s.dev.mem ∧ d.coh = s.dev.coh)

/-- R226, R273, R275, R276, R279, Table 9.6: an AMO leaves for the home of its line; a LR on lines held alone reads and
reserves the 128-byte granule; a SC stores and writes 0 when the reservation stands and writes 1 when not, and ends the
reservation either way; a full fence raises every barrier; CBO_ZERO of a line held alone makes it M and zero; SFENCE_VMA
changes no register. -/
def Obligations.CoresUseAtomicsAndFences : Prop :=
  ∀ (s : State) (h : Fin 64) (rd : Fin 32) (a v : Word) (dbl aq rl : Bool) (ma : Nat),
    s.dev.coreTo a = .umr ma → maNode ma = none → a.toNat % (if dbl then 8 else 4) = 0 →
    ma % 64 + (if dbl then 8 else 4) ≤ 64 → s.dev.coreStoresOut h = false → s.dev.coreLoadsOut h = false →
    let n := if dbl then 8 else 4
    let c := s.dev.core h
    (∀ op, s.dev.coreMay h .both = true →
      ∃ d, exec (.coreAmo h op rd a v dbl aq rl) s = .next { s with dev := d } ∧ (d.core h).amoRd = some (rd, a.toNat) ∧
        d.coh.noc = s.dev.coh.noc ++ [{ kind := .atomic, who := .core h, addr := ma, atom := .amo op v dbl }] ∧
        d.mem = s.dev.mem ∧ (∀ r : Fin 32, (d.core h).rx r = c.rx r)) ∧
    (s.dev.coreMay h .load = true → c.lineReady true (ma / 128 * 2) = true → c.lineReady true (ma / 128 * 2 + 1) = true →
      c.poisonAt ma n = false →
      ∃ d, exec (.coreLr h rd a dbl aq rl) s = .next { s with dev := d } ∧ OnlyCore h s.dev d ∧
        (d.core h).rx rd = (if rd.val = 0 then 0 else sext (8 * n) (ofLe (c.bytesAt ma n))) ∧
        (d.core h).resv = some (ma / 128) ∧ (d.core h).resvHold = some (ma / 128) ∧ (d.core h).lines = c.lines) ∧
    (∀ l, s.dev.coreMay h .store = true → c.resv = some (ma / 128) → tget c.lines (ma / 64) = some l →
      l.st = .m ∨ l.st = .e → l.data.length = 64 →
      ∃ d, exec (.coreSc h rd a v dbl aq rl) s = .next { s with dev := d } ∧ (d.core h).rx rd = 0 ∧
        (d.core h).resv = none ∧ tget (d.core h).lines (ma / 64) = some { l with st := .m, data := putAt l.data (ma % 64) (leBytes n v.toNat) } ∧ d.mem = s.dev.mem) ∧
    (s.dev.coreMay h .store = true → c.resv ≠ some (ma / 128) →
      ∃ d, exec (.coreSc h rd a v dbl aq rl) s = .next { s with dev := d } ∧ OnlyCore h s.dev d ∧
        (d.core h).rx rd = (if rd.val = 0 then 0 else 1) ∧ (d.core h).resv = none ∧ (d.core h).lines = c.lines) ∧
    (∀ l, s.dev.coreMay h .store = true → tget c.lines (ma / 64) = some l → l.st = .m ∨ l.st = .e →
      ∃ d, exec (.cboZero h a) s = .next { s with dev := d } ∧
        tget (d.core h).lines (ma / 64) = some { st := .m, data := zeroLine, fresh := true } ∧ d.mem = s.dev.mem ∧ d.coh.noc = s.dev.coh.noc) ∧
    (c.run ≠ .reset → c.halted = false →
      ∃ d, exec (.coreFence h 3 3 false) s = .next { s with dev := d } ∧ OnlyCore h s.dev d ∧ (d.core h).stBar = true ∧
        (d.core h).ldBar = true ∧ (d.core h).rdBar = true ∧ (d.core h).x = c.x ∧ (d.core h).lines = c.lines) ∧
    (s.dev.coreMay h .load = true →
      ∃ d, exec (.sfenceVma h) s = .next { s with dev := d } ∧ OnlyCore h s.dev d ∧ (d.core h).x = c.x ∧
        (d.core h).lines = c.lines ∧ (d.core h).resv = c.resv)

/-- R275, R292, R295, R296, R300: spdom keeps PD, CTX and EN of what M- or HS-mode writes and reads its RSVD bits as zero;
a trap saves cause and value in the registers of the mode that takes it (M, HS, or VS where the hart is virtual and
hedeleg or hideleg says so: log 179), goes to that mode's vector and ends the reservation; lines keep state and bytes; an unbacked store is reported imprecisely with cause 7; and MTIP rises when the half's count has reached
mtimecmp. -/
def Obligations.CoresTrapAndKeepTheirDomain : Prop :=
  ∀ (s : State) (h : Fin 64),
    let c := s.dev.core h
    (∀ v : Word, s.dev.coreMay h .load = true → s.dev.coreLoadsOut h = false → c.priv = .m ∨ c.priv = .hs →
      ∃ d, exec (.spdomWrite h v) s = .next { s with dev := d } ∧ OnlyCore h s.dev d ∧
        (∀ i, (d.core h).spdom.getLsbD i = (v.getLsbD i && (decide (i < 20) || decide (i = 63)))) ∧ (d.core h).x = c.x) ∧
    (∀ (intr : Bool) (cause : BitVec 6) (tv : Word), c.run ≠ .reset → c.halted = false → c.amoRd = none →
      let same (d : Dev) : Prop := (d.core h).resv = none ∧ (d.core h).x = c.x ∧ d.writes = s.dev.writes ∧ d.mem = s.dev.mem ∧
        ∀ k, (tget (d.core h).lines k).map (fun l => (l.st, l.data)) = (tget c.lines k).map (fun l => (l.st, l.data))
      let code := BitVec.ofNat 64 (cause.toNat + if intr then 2 ^ 63 else 0)
      (∃ d, exec (.coreTrap h intr cause tv false) s = .next { s with dev := d } ∧ (d.core h).mcause = code ∧
        (d.core h).mtval = tv ∧ (d.core h).priv = .m ∧ (d.core h).scause = c.scause ∧ same d ∧
        (c.mtvec &&& 3 = 0 → (d.core h).pc = c.mtvec)) ∧
      (c.toVs intr cause.toNat = false →
        ∃ d, exec (.coreTrap h intr cause tv true) s = .next { s with dev := d } ∧ (d.core h).scause = code ∧
        (d.core h).stval = tv ∧ (d.core h).priv = .hs ∧ (d.core h).mcause = c.mcause ∧ same d ∧
        (c.stvec &&& 3 = 0 → (d.core h).pc = c.stvec)) ∧
      (c.toVs intr cause.toNat = true →
        ∃ d, exec (.coreTrap h intr cause tv true) s = .next { s with dev := d } ∧ (d.core h).csrOf 0x242 = code.toNat ∧
        (d.core h).csrOf 0x243 = tv.toNat ∧ (d.core h).priv = .vs ∧ (d.core h).mcause = c.mcause ∧
        (d.core h).scause = c.scause ∧ same d)) ∧
    (∀ a : Word, c.run ≠ .reset → ¬(c.priv ≠ .m ∧ bit (c.csrOf 0x302) 7 = true) →
      ∃ d, exec (.unbackedStoreReport h a) s = .next { s with dev := d } ∧ (d.core h).imp = true ∧ (d.core h).impAddr = a ∧
        (d.core h).mcause = 7 ∧ (d.core h).mtval = a ∧ (d.core h).priv = .m ∧ d.mem = s.dev.mem) ∧
    (c.mtimecmp.toNat ≤ (s.dev.halfCount (halfOf (decide (32 ≤ h.val)))).toNat →
      ∃ d, exec (.mtimerMatch h) s = .next { s with dev := d } ∧ (d.core h).mtip = true ∧ (d.core h).mtimecmp = c.mtimecmp ∧
        d.mem = s.dev.mem ∧ d.engines = s.dev.engines)

/-- R304, R311 to R316, R331: a walk that ends in a leaf that permits the access holds the translation and lets its engine
replay; one whose leaf does not permit it raises a record in the lowest free slot and parks the engine; a prefetch walk
for a page that a running transfer is about to need takes a free walker and holds its translation in the Tongs engine's structure and raises nothing; a record goes to the context's fault queue; and
ATS translations are held and invalidated page by page. -/
def Obligations.TranslationServesWalks : Prop :=
  ∀ s : State,
    (∀ (h : Half) (c : Fin 4096) (va : VaIn) (e : Fin 128) (acc : Access) (ua : Word) (w : Walk) (l p : Nat) (ws : List WalkEnt),
      ((Two.get s.dev.xlate h).walks.take 32).find? (fun w => w.ctx == c.val && w.page == va.va.toNat / 4096) = some w →
      w.users = [⟨.engine e, acc, ua⟩] → s.dev.walk h c.val (4096 * w.page) va.ext = (.leaf l p, ws) → (s.dev.eng e).run = .walking →
      (leafCheck acc p = none →
        ∃ d, exec (.translationWalk h c va) s = .next { s with dev := d } ∧
          d.eng e = { s.dev.eng e with run := .running } ∧
          { holder := userHolder (.engine e) acc, ctx := c.val, page := 4096 * w.page / 2 ^ (leafHeld l p (4096 * w.page)).1,
            sizeLog := (leafHeld l p (4096 * w.page)).1, pte := BitVec.ofNat 64 (leafHeld l p (4096 * w.page)).2 } ∈ (Two.get d.xlate h).tlb ∧
          (Two.get d.xlate h).walks = removeFirst (· == w) (Two.get s.dev.xlate h).walks ∧
          { d with xlate := s.dev.xlate, engines := s.dev.engines, tiers := s.dev.tiers, coh := s.dev.coh } = s.dev) ∧
      (∀ cause i, leafCheck acc p = some cause →
        (∀ q ∈ (Two.get s.dev.xlate h).recs, ¬(q.2.ctx = c.val ∧ q.2.va.toNat / 4096 = ua.toNat / 4096)) →
        s.dev.endedUser (.engine e) = false →
        freeSlot (Two.get s.dev.xlate h) = some i →
        ∃ d r, exec (.translationWalk h c va) s = .next { s with dev := d } ∧
          tget (Two.get d.xlate h).recs i = some r ∧ r.cause = cause ∧ r.acc = acc ∧ r.ctx = c.val ∧ r.level = l ∧
          r.va = ua ∧ r.users = [.engine e] ∧ r.written = false ∧
          d.eng e = { s.dev.eng e with run := .parked (1024 * halfIdx h + i), mid := false } ∧ d.mem = s.dev.mem)) ∧
    (∀ (h : Half) (c : Fin 4096) (va : VaIn) (t : Fin 32),
      let a := va.va.toNat
      (s.dev.prefetches h c.val (a / 4096) t = false ∨ s.dev.walkerFree h = false → exec (.prefetchWalk h c va t) s = .next s) ∧
      (∀ l p ws, s.dev.prefetches h c.val (a / 4096) t = true → s.dev.walkerFree h = true → s.dev.walk h c.val a = (.leaf l p, ws) →
        (∀ q ∈ s.dev.tongs, ∀ x ∈ q.2, x.desc.indexed = false ∨ x.desc.isp = true) →
        ∃ d, exec (.prefetchWalk h c va t) s = .next { s with dev := d } ∧
          { holder := .tongs h t, ctx := c.val, page := a / 2 ^ (leafHeld l p a).1,
            sizeLog := (leafHeld l p a).1, pte := BitVec.ofNat 64 (leafHeld l p a).2 } ∈ (Two.get d.xlate h).tlb ∧
          (Two.get d.xlate h).recs = (Two.get s.dev.xlate h).recs ∧
          { d with xlate := s.dev.xlate, tiers := s.dev.tiers, coh := s.dev.coh } = s.dev) ∧
      (∀ cause l ws, s.dev.walk h c.val a = (.fault cause l, ws) → exec (.prefetchWalk h c va t) s = .next s)) ∧
    (∀ (c : Fin 4096) (x : Ctx) (q : FQueue) (fid : Nat) (r : FRec) (ha : Nat), s.dev.ctx? c.val = some x → x.fq = some q →
      firstRec (s.dev.ctxRecs c.val) = some (fid, r) →
      ((s.dev.ctxRecs c.val).filter (fun p => p.2.written)).length < 2 ^ q.log2 →
      s.dev.target true (q.addr + BitVec.ofNat 64 (32 * (q.posted % 2 ^ q.log2))).toNat = .host ha →
      ∃ d, exec (.faultRecordWrite c) s = .next { s with dev := d } ∧
        OutMsg.hostWrite ha (faultRec fid r (decide ((q.posted / 2 ^ q.log2) % 2 = 0))) none ∈ d.out ∧
        d.ctx? c.val = some { x with fq := some { q with posted := q.posted + 1 } } ∧ d.mem = s.dev.mem ∧
        d.engines = s.dev.engines) ∧
    (∀ (c : Fin 4096) (a xa : Word),
      (∃ d, exec (.atsInvalidationRequest c a) s = .next { s with dev := d } ∧
        (∀ y, y ∈ d.host.atsCache ↔ y ∈ s.dev.host.atsCache ∧ ¬(y.1 = c.val ∧ y.2.1 = a.toNat / 4096)) ∧
        d.out = s.dev.out ++ [.atsInvalidated a.toNat (s.dev.ctxPasid (some c.val))] ∧
        { d with host := { d.host with atsCache := s.dev.host.atsCache }, out := s.dev.out } = s.dev) ∧
      (∀ x, s.dev.ctx? c.val = some x → x.ats = true →
        ∃ d, exec (.atsTranslationCompletion c a xa) s = .next { s with dev := d } ∧
          (c.val, a.toNat / 4096, xa) ∈ d.host.atsCache ∧ { d with host := s.dev.host } = s.dev))


/-! ### Tiers and the memory controllers -/

/-- R345, R349 to R353, R355, R370, Table 11.5: an epoch's end halves every HEAT and chooses nothing without bandwidth; a
wanted move starts with an empty mask; its copy pass blocks the frame at 8 mask bits or fewer and repeats with more, at
most four times, before it is abandoned; the flip gives the frame its new backing; and a fill's flip poisons exactly what could not be read.

R362 to R364, R369, R370, Table 11.7: a unit of a fill that cannot be read back is counted and recorded with the fill, and
one that decodes counts a read of its page; staged sub-blocks are programmed in order, each 4 KiB unit encrypted with its
logical address as the tweak (R367), a poisoned one not at all (R372); a failed program retires its block and takes a
spare, and the unit is written elsewhere; where no block takes it, the Cave is read-only; a patrol reads every page; each
leaves the Cave in the state of Table 11.7; and flash work that finds its channels gated wakes them and waits (R493). -/
def Obligations.FramesMoveAndTheCaveRetires : Prop :=
  (∀ s : State, NoneHeld s.dev →
    (∃ d, exec .epochEnd s = .next { s with dev := d } ∧ d.tiers.epochNo = s.dev.tiers.epochNo + 1 ∧
      (∀ n f, tget s.dev.tiers.frames n = some f → ∃ g, tget d.tiers.frames n = some g ∧ g.heat = f.heat / 2 ∧
        g.back = f.back ∧ g.loc = f.loc ∧ g.wdirty = f.wdirty) ∧
      (s.dev.tiers.params.migbw = 0 → d.tiers.chosen = []) ∧ d.tiers.moves = s.dev.tiers.moves ∧
      (∀ x ∈ d.cave.staged, x ∈ s.dev.cave.staged) ∧ { d.cave with staged := s.dev.cave.staged } = s.dev.cave ∧
      { d with tiers := s.dev.tiers, cave := s.dev.cave, free := s.dev.free } = s.dev) ∧
    (∀ (n : Fin 33554432) (b : Back), s.dev.wanted n.val = some b → (s.dev.frame n.val).back ≠ .unbacked →
      (s.dev.frame n.val).back ≠ b → tget s.dev.tiers.moves n.val = none → s.dev.mayMove n.val b = true →
      (b = .cave → s.dev.stageRoom = true) →
      ∃ d m, exec (.migrationStart n) s = .next { s with dev := d } ∧ tget d.tiers.moves n.val = some m ∧ m.dst = b ∧
        m.fill = decide ((s.dev.frame n.val).back = .cave) ∧ m.mask = 0 ∧ m.blocked = false ∧
        d.tiers.frames = s.dev.tiers.frames ∧ { d with tiers := s.dev.tiers } = s.dev) ∧
    (∀ (n : Fin 33554432) (m : Move), tget s.dev.tiers.moves n.val = some m → m.fill = false → m.blocked = false →
      (m.dst = .cave → s.dev.regionOn n.val = false) →
      (popCount m.mask.toNat 32 ≤ 8 →
        ∃ d, exec (.migrationPassEnd n) s = .next { s with dev := d } ∧
          tget d.tiers.moves n.val = some { m with blocked := true } ∧ { d with tiers := s.dev.tiers } = s.dev) ∧
      (8 < popCount m.mask.toNat 32 → m.pass < 5 →
        ∃ d, exec (.migrationPassEnd n) s = .next { s with dev := d } ∧
          tget d.tiers.moves n.val = some { m with pass := m.pass + 1, mask := 0 } ∧ { d with tiers := s.dev.tiers } = s.dev) ∧
      (8 < popCount m.mask.toNat 32 → 5 ≤ m.pass →
        ∃ d, exec (.migrationPassEnd n) s = .next { s with dev := d } ∧ tget d.tiers.moves n.val = none ∧
          d.tiers.abandoned = s.dev.tiers.abandoned + 1 ∧ tget d.tiers.noMove n.val = some (s.dev.tiers.epochNo + 2) ∧
          d.mem = s.dev.mem)) ∧
    (∀ (n : Fin 33554432) (m : Move) (f : Frame), tget s.dev.tiers.moves n.val = some m → m.fill = false → m.blocked = true →
      (m.dst = .cave → s.dev.regionOn n.val = false) → tget s.dev.tiers.frames n.val = some f →
      ∃ d g, exec (.migrationFlip n) s = .next { s with dev := d } ∧ tget d.tiers.moves n.val = none ∧
        tget d.tiers.frames n.val = some g ∧ g.back = m.dst ∧ g.loc = m.dstLoc ∧ g.heat = f.heat ∧
        (tierRank f.back < tierRank m.dst → g.wdirty = 0) ∧ (tierRank m.dst ≤ tierRank f.back → g.shTier = .unbacked) ∧
        d.mem = s.dev.mem ∧ d.poison = s.dev.poison) ∧
    (∀ (n : Fin 33554432) (m : Move) (f : Frame), tget s.dev.tiers.moves n.val = some m → m.fill = true →
      tget s.dev.tiers.frames n.val = some f →
      ∃ d g, exec (.fillFlip n) s = .next { s with dev := d } ∧ tget d.tiers.moves n.val = none ∧
        tget d.tiers.frames n.val = some g ∧ g.back = m.dst ∧ g.loc = m.dstLoc ∧ d.mem = s.dev.mem ∧
        (∀ l, d.isPoison l = true ↔ (s.dev.isPoison l = true ∨
          ∃ u, (u ∈ m.lost ∨ (n.val, u) ∈ s.dev.cave.badUnits) ∧ ∃ i, i < 64 ∧ l = n.val * 32768 + 64 * u + i)))) ∧
  (∀ s : State,
    let cv := s.dev.trimCave.cave
    let ready := s.dev.cave.st = .absent ∨ (s.dev.awake 53 = true ∧ s.dev.awake 54 = true)
    (∀ (n : Fin 33554432) (u : Fin 512) (m : Move) (p : Nat), ready → tget s.dev.tiers.moves n.val = some m → m.fill = true →
      s.dev.cave.pageOf (512 * (s.dev.frame n.val).loc + u.val) = some p →
      (n.val, u.val / 16) ∉ s.dev.cave.staged → (n.val, u.val) ∉ s.dev.cave.badUnits →
      exec (.caveUnitRead n u .decoded) s = .next { s with dev := s.dev.modCave (fun c => c.readPage p 1) } ∧
      ∃ d, exec (.caveUnitRead n u .lost) s = .next { s with dev := d } ∧
        tget d.tiers.moves n.val = some { m with lost := m.lost ++ [u.val] } ∧ d.cave.lost = s.dev.cave.lost + 1 ∧
        (n.val, u.val) ∈ d.cave.badUnits ∧ { d with tiers := s.dev.tiers, cave := s.dev.cave } = s.dev) ∧
    (∀ (j : Nat × Nat) (js : List (Nat × Nat)) (k : BitVec 512) (u : Nat) (ok : Bool), ready → s.dev.cave.staged = j :: js →
      s.dev.unitOf j = some u → s.dev.cave.key = some k →
      let ws := s.dev.stagedSlots k j u
      let c : Cave := { cv with staged := js, moving := tdel cv.moving u }
      (∀ i, i < 16 → lgetD ws i none = (if (j.1, 16 * j.2 + i) ∈ s.dev.cave.badUnits then none
        else some (codeword (Config.aesXts k (16 * u + i) (s.dev.rd (frameSize * j.1 + 4096 * (16 * j.2 + i)) 4096))))) ∧
      (∀ x, (if ok then c else c.failNext).writeUnit u ws = some x →
        ∃ d, exec (.caveStagingProgram ok) s = .next { s with dev := d } ∧ d.cave = { x.level with st := caveNow x.level } ∧
          d.cave.staged = js ∧ d.mem = s.dev.mem ∧ d.tiers = s.dev.tiers) ∧
      ((if ok then c else c.failNext).writeUnit u ws = none →
        ∃ d, exec (.caveStagingProgram ok) s = .next { s with dev := d } ∧ d.cave.st = .readOnly ∧ d.cave.staged = j :: js ∧
          d.mem = s.dev.mem ∧ d.tiers = s.dev.tiers)) ∧
    (s.dev.cave.st ≠ .absent → s.dev.power.pstate = .working → s.dev.domSt 53 = .gated →
      ∃ d, exec (.caveStagingProgram true) s = .next { s with dev := d } ∧ d.domSt 53 = .waking ∧ d.cave = s.dev.cave ∧
        d.mem = s.dev.mem) ∧
    (∀ weak bad : List Nat,
      (s.dev.cave.st = .absent → exec (.cavePatrol weak bad) s = .next s) ∧
      (s.dev.cave.st ≠ .absent → ready →
        ∃ d, exec (.cavePatrol weak bad) s = .next { s with dev := d } ∧
          d.cave = { cv.patrol weak bad with st := caveNow (cv.patrol weak bad) } ∧ d.cave.staged = s.dev.cave.staged ∧
          d.mem = s.dev.mem ∧ d.tiers = s.dev.tiers))) ∧
  (∀ (c x : Cave) (p : Nat), c.allocPage (lgetD c.channels c.open_.length 0) = some (p, x) → x.good (x.blkOf p) = true →
    (c.failNext.blk (x.blkOf p)).retired = true ∧ c.failNext.spare ≤ x.spare - 1)

/-- R379, R382 to R385, R388, R391 to R393, R505, R506, Table 12.5: a line leaves the reduction buffer with memory as it
is; Brine visits the places in order, leaves a clean line alone, and poisons a line with errors on two lanes that has no copy
on chip or elsewhere; a failed lane is steered onto its spare for good; a stack's sample is kept, refreshes at half the interval above 85 °C, and holds the Anvil at 95 °C; the
periodic step lowers the Anvil's ceiling by 100 MHz at 90 °C; and a margining point counts and goes on to the next. -/
def Obligations.MemoryControllersPatrolAndMargin : Prop :=
  ∀ s : State, NoneHeld s.dev →
    (∀ (w : Word) (a : Nat), s.dev.maddr w = some a →
      ∃ d, exec (.redBufferIdleWriteback w) s = .next { s with dev := d } ∧
        (∀ x, x ∈ d.coh.redBuf ↔ x ∈ s.dev.coh.redBuf ∧ x.1 ≠ maKey a) ∧
        { d with coh := { d.coh with redBuf := s.dev.coh.redBuf } } = s.dev) ∧
    (∀ b loc o nxt, s.dev.power.pstate = .working → s.dev.brinePlace = some (b, loc, o, nxt) →
      (b = .ddr → s.dev.faults.ddrPend = []) →
      (∃ d, exec (.brineVisit .clean) s = .next { s with dev := d } ∧ d.hbm.brineNext = nxt ∧
        d.hbm.brinePass = s.dev.hbm.brinePass + (if nxt = 0 then 1 else 0) ∧ { d with hbm := s.dev.hbm } = s.dev) ∧
      (∀ (l : Nat) (f g : Fin 36), s.dev.lineAt b loc o = some l → s.dev.isPoison l = false → l ∉ s.dev.coh.sysCache →
        (∀ x ∈ s.dev.coh.redBuf, x.1 ≠ l) → s.dev.owner l = none → s.dev.flying l = none → s.dev.farOwner l = none →
        ∃ d, exec (.brineVisit (.lanes f [g])) s = .next { s with dev := d } ∧ d.hbm.brineNext = nxt ∧ d.isPoison l = true)) ∧
    (∀ u : UnitId, u.code.val = 8 → unitOk u = true → (s.dev.unit u).st = .repairPending → s.dev.laneUsed u = false →
      ∃ d, exec (.laneRepair u) s = .next { s with dev := d } ∧ (d.unit u).st = .replaced ∧ u ∈ d.faults.laneSpare ∧
        d.faults.repairs = s.dev.faults.repairs ++ [(u, 0)] ∧ d.hbm.steered = s.dev.hbm.steered ++ [u] ∧
        { d with faults := s.dev.faults, hbm := s.dev.hbm } = s.dev) ∧
    (∀ (h : Half) (k : Fin 6) (t : Int), s.dev.power.pstate ≠ .cold → s.dev.power.vinOk = true → t < 95 →
      (∀ u ∈ (Two.get s.dev.hbm.half h).temps, u < 95) → k.val < (Two.get s.dev.hbm.half h).temps.length →
      ∃ d, exec (.hbmTempSample h k t) s = .next { s with dev := d } ∧
        lgetD (Two.get d.hbm.half h).temps k.val 0 = t ∧ (Two.get d.hbm.half h).hold = false ∧
        (85 < t → (Two.get d.hbm.half h).halved.getLsbD k.val = true) ∧
        (t < 82 → (Two.get d.hbm.half h).halved.getLsbD k.val = false) ∧
        { d with hbm := s.dev.hbm, boot := s.dev.boot } = s.dev) ∧
    (∀ h : Half, s.dev.power.pstate ≠ .cold → s.dev.power.vinOk = true → 90 ≤ (Two.get s.dev.hbm.half h).tMax →
      s.dev.power.hottest (dieOf h) = none →
      ∃ d, exec (.thermalClockStep (dieOf h)) s = .next { s with dev := d } ∧
        (Two.get d.hbm.half h).hbmCeil = max 100 (s.dev.anvClock h - 100) ∧ { d with hbm := s.dev.hbm } = s.dev) ∧
    (∀ (m : Margin) (pass : Bool), s.dev.hbm.margin = some m → m.held = true → m.point < marginHi m.volt →
      ∃ d m', exec (.marginPointDone pass) s = .next { s with dev := d } ∧ d.hbm.margin = some m' ∧
        m'.point = m.point + 1 ∧ m'.lane = m.lane ∧
        (pass = true → m'.high = m.point ∧ m'.low = some (m.low.getD m.point)) ∧
        (pass = false → m'.high = m.high ∧ m'.low = m.low) ∧ { d with hbm := s.dev.hbm } = s.dev)


/-! ### Power, clocks and temperature -/

/-- R485 to R490, R501 to R504, Table 16.2: a sample within range is kept; one above 62 V loses the supply, with all memory;
an overcurrent holds every clock at its floor; the oscillator switches; a clock moves by one step of 100 MHz within its
range; a round of demands sends both halves grants that stay together within the package limit; a half applies a grant
that is newer than its own and ignores an older one; and a lapsed half has 120 W. -/
def Obligations.SupplyClocksAndBudgets : Prop :=
  ∀ s : State, s.dev.power.vinOk = true →
    (∀ v i : Nat, 4300 ≤ v → v ≤ 5800 →
      ∃ d, exec (.vinSample v i) s = .next { s with dev := d } ∧ d.power.vin = v ∧ d.power.iin = i ∧ d.power.vinOk = true ∧
        d.power.vinHist = ((v, i) :: s.dev.power.vinHist).take 100 ∧ { d with power := s.dev.power, boot := s.dev.boot } = s.dev) ∧
    (∀ v i : Nat, 6200 < v →
      ∃ d, exec (.vinSample v i) s = .next { s with dev := d } ∧ d.power.vinOk = false ∧ d.mem = [] ∧ d.hubCount = 0 ∧
        d.sec.owned = s.dev.sec.owned ∧ d.sec.svn = s.dev.sec.svn) ∧
    (∀ i, 4600 < i →
      ∃ d, exec (.overcurrent i) s = .next { s with dev := d } ∧ (∀ h, d.anvClock h = 100) ∧ (∀ h c, d.engClock h c = 200) ∧
        (∀ h g, d.coreClock h g = 400) ∧ { d with power := s.dev.power, host := s.dev.host } = s.dev) ∧
    (s.dev.power.intOsc = false → ∃ d, exec .xtalFail s = .next { s with dev := d } ∧
      d.power = { s.dev.power with intOsc := true } ∧ { d with power := s.dev.power, host := s.dev.host } = s.dev) ∧
    (s.dev.power.intOsc = true → ∃ d, exec .xtalRecover s = .next { s with dev := d } ∧
      d.power = { s.dev.power with intOsc := false } ∧ { d with power := s.dev.power, host := s.dev.host } = s.dev) ∧
    (∀ (h : Half) (mhz : Nat), s.dev.power.pstate = .working → 100 ≤ mhz → mhz ≤ 800 →
      mhz = Two.get s.dev.power.anvMhz h + 100 ∨ Two.get s.dev.power.anvMhz h = mhz + 100 →
      ∃ d, exec (.clockChange (.anvil h) mhz) s = .next { s with dev := d } ∧
        d.power = { s.dev.power with anvMhz := Two.set s.dev.power.anvMhz h mhz } ∧ { d with power := s.dev.power } = s.dev) ∧
    (∀ w e hub : Nat, s.dev.power.pstate ≠ .cold → s.dev.halfAwake .west = true → s.dev.halfAwake .east = true →
      (hub * 105 + 99) / 100 + 240 ≤ s.dev.power.limit →
      ∃ d gw ge, exec (.powerDemand w e hub) s = .next { s with dev := d } ∧
        d.power.sent = s.dev.power.sent ++ [(.west, s.dev.power.nextSeq, gw), (.east, s.dev.power.nextSeq, ge)] ∧
        d.power.nextSeq = s.dev.power.nextSeq + 1 ∧ 120 ≤ gw ∧ 120 ≤ ge ∧
        gw + ge + (hub * 105 + 99) / 100 ≤ s.dev.power.limit ∧ { d with power := s.dev.power } = s.dev) ∧
    (∀ (h : Half) (seq watts : Nat), (h, seq, watts) ∈ s.dev.power.sent →
      ∃ d, exec (.powerGrant h seq watts) s = .next { s with dev := d } ∧
        (Two.get s.dev.power.grantSeq h < seq → Two.get d.power.grant h = watts ∧ Two.get d.power.grantSeq h = seq ∧
          Two.get d.power.lapsed h = false) ∧
        (seq ≤ Two.get s.dev.power.grantSeq h → d.power.grant = s.dev.power.grant ∧ d.power.grantSeq = s.dev.power.grantSeq ∧
          d.power.anvMhz = s.dev.power.anvMhz ∧ d.power.engMhz = s.dev.power.engMhz ∧ d.power.coreMhz = s.dev.power.coreMhz) ∧
        { d with power := s.dev.power, free := s.dev.free } = s.dev) ∧
    (∀ h : Half, Two.get s.dev.power.lapsed h = false → s.dev.power.pstate ≠ .cold →
      ∃ d, exec (.grantLapse h) s = .next { s with dev := d } ∧ Two.get d.power.grant h = 120 ∧
        Two.get d.power.lapsed h = true ∧ { d with power := s.dev.power, host := s.dev.host, free := s.dev.free } = s.dev)

/-- R491 to R496, R492, R505 to R507, Table 16.3: domains drain when their gating condition holds, quench when the drain does
not finish, gate when it does, and wake on request, a Vat with zeros; a junction below every threshold is only recorded;
one at 108 °C sends the package Cold with THERMTRIP_N asserted; and that pin is released below 70 °C.

R497 to R500, Tables 16.4 to 16.6: an idle package that is ready and may glow enters Glowing, and a wake returns it to
Working; an entry to Banked begins with every idle condition met and ends in Banked, and a wake source leaves it again; a
Cold package with supply starts on an MCTP request. -/
def Obligations.DomainsWakeAndPackageStatesChange : Prop :=
  (∀ s : State,
    (∀ n : Fin 56, s.dev.power.pstate = .working →
      (s.dev.domSt n.val = .on → s.dev.gateable n.val = true →
        ∃ d, exec (.domainGate n) s = .next { s with dev := d } ∧ d.domSt n.val = .draining ∧
          (∀ m, m ≠ n.val → d.domSt m = s.dev.domSt m) ∧
          ((∀ h, (s.dev.core h).lines = []) → { d with power := s.dev.power } = s.dev)) ∧
      (s.dev.domSt n.val = .draining →
        ∃ d, exec (.drainTimeout n) s = .next { s with dev := d } ∧ d.domSt n.val = .quenched) ∧
      (s.dev.domSt n.val = .draining → s.dev.drained n.val = true → n.val ∉ s.dev.power.wakePend →
        ∃ d, exec (.domainPowerDownDone n) s = .next { s with dev := d } ∧ d.domSt n.val = .gated ∧
          (∀ m, m ≠ n.val → d.domSt m = s.dev.domSt m) ∧ d.mem = s.dev.mem) ∧
      (∀ c, s.dev.domSt n.val = .gated → s.dev.domRetired n.val = false → s.dev.boot.waitPerst = false →
        ∃ d, exec (.domainWake n c) s = .next { s with dev := d } ∧ d.domSt n.val = .waking ∧
          (∀ m, m ≠ n.val → d.domSt m = s.dev.domSt m) ∧ { d with power := s.dev.power } = s.dev)) ∧
    (∀ (h : Half) (n : Fin 56), n.val = pdVat h → s.dev.domSt n.val = .waking → s.dev.sched.steps = [] → s.Safe →
      ∃ d, exec (.domainWakeDone n) s = .next { s with dev := d } ∧ d.domSt n.val = .on ∧
        (∀ a, vatOff (0x10000000 * halfIdx h) ≤ a → a < vatOff (0x10000000 * halfIdx h) + vatSize → cellGet d.mem a = 0) ∧
        SameBytesBut (vatOff (0x10000000 * halfIdx h)) vatSize s.dev d) ∧
    (∀ (die : Die) (k : Fin 16) (t : Int), s.dev.power.vinOk = true → (die = .hub → k.val < 8) →
      (t < 102 → (∀ x ∈ s.dev.power.tj, x.2 < 102) →
        ∃ d, exec (.junctionTempSample die k t) s = .next { s with dev := d } ∧ (16 * dieIdx die + k.val, t) ∈ d.power.tj ∧
          (∀ x ∈ s.dev.power.tj, x.1 ≠ 16 * dieIdx die + k.val → x ∈ d.power.tj) ∧
          { d with power := s.dev.power, boot := s.dev.boot } = s.dev) ∧
      (108 ≤ t → s.dev.power.pstate ≠ .cold →
        ∃ d, exec (.junctionTempSample die k t) s = .next { s with dev := d } ∧ d.power.pstate = .cold ∧
          d.power.thermtrip = true ∧ d.power.trip = 1 ∧ d.mem = [] ∧ d.sec.session = none)) ∧
    (s.dev.power.thermtrip = true → s.dev.power.tjMax .hub < 70 →
      ∃ d, exec .thermtripRelease s = .next { s with dev := d } ∧ d.power.thermtrip = false ∧ d.mem = s.dev.mem)) ∧
  (∀ s : State,
    (s.dev.power.pstate = .working → s.dev.boot.st = .ready → 1 ≤ s.dev.power.policy → s.dev.idle = true →
      ∃ d, exec .glowEntry s = .next { s with dev := d } ∧ d.power.pstate = .glowing ∧ d.mem = s.dev.mem ∧
        d.engines = s.dev.engines ∧ d.sched = s.dev.sched) ∧
    (∀ c, s.dev.power.pstate = .glowing → s.dev.power.entering = false →
      ∃ d, exec (.glowExit c) s = .next { s with dev := d } ∧ d.power.pstate = .working ∧ (∀ n, n < 56 → d.domSt n ≠ .parked) ∧
        d.mem = s.dev.mem ∧ d.engines = s.dev.engines ∧ d.sched = s.dev.sched) ∧
    (s.dev.power.pstate = .glowing → s.dev.power.entering = false → s.dev.power.policy = 2 → s.dev.idle = true →
      s.dev.sched.steps = [] → s.dev.cave.staged = [] →
      (∀ n, n ∈ [13, 14, 15, 16, 33, 34, 35, 36] → s.dev.domSt n = .gated ∨ s.dev.domRetired n = true) →
      ∃ d, exec .bankEntry s = .next { s with dev := d } ∧ d.power.entering = true ∧ d.power.pstate = .glowing ∧
        d.mem = s.dev.mem) ∧
    (s.dev.power.entering = true → s.dev.power.exitPend = none →
      ∃ d, exec .bankedEntryDone s = .next { s with dev := d } ∧ d.power.pstate = .banked ∧ d.power.entering = false ∧
        d.mem = s.dev.mem) ∧
    (∀ c, s.dev.power.pstate = .banked → s.dev.power.entering = false → s.dev.wakes c = true →
      ∃ d, exec (.bankExit c) s = .next { s with dev := d } ∧ d.power.pstate = .working ∧ d.mem = s.dev.mem) ∧
    (∀ (bs : BitVec 3) (st : BitVec 2), s.dev.power.pstate = .cold → s.dev.power.vinOk = true →
      ∃ d, exec (.coldExit .mctp bs st) s = .next { s with dev := d } ∧ d.power.pstate = .working ∧ d.boot.bsel = bs ∧
        d.boot.smbus = 0x60 + st.toNat ∧ d.sec.session = none))

/-- Table 16.9: each power command with operands in its range is answered OK and does what its row says; POWER_COLD of a
package that is not joined and runs nothing ends in Cold. -/
def Obligations.PowerCommandsComplete : Prop :=
  ∀ (s : State) (c : AdmCmd), s.dev.adminOpen = true → c.rsvd = false →
    (∀ p g b : Word, opsAre c [p, g, b] → p.toNat ≤ 2 → 10 ≤ g.toNat → g.toNat ≤ 1000 → 1 ≤ b.toNat → b.toNat ≤ 3600000 →
      ∃ d, exec (.powerPolicy c) s = .next { s with dev := d } ∧ AdmDone s.dev d c .ok 0 0 ∧
        d.power = { s.dev.power with policy := p.toNat, glowIdle := g.toNat, bankIdle := b.toNat } ∧
        { d with power := s.dev.power, host := s.dev.host } = s.dev) ∧
    (∀ w : Word, opsAre c [w] → 300 ≤ w.toNat → w.toNat ≤ 1850 →
      ∃ d, exec (.powerLimit c) s = .next { s with dev := d } ∧ AdmDone s.dev d c .ok 0 0 ∧
        d.power = { s.dev.power with limitSet := w.toNat } ∧ { d with power := s.dev.power, host := s.dev.host } = s.dev) ∧
    (∀ h g f : Word, opsAre c [h, g, f] → h.toNat ≤ 1 → g.toNat ≤ 3 → 400 ≤ f.toNat → f.toNat ≤ 3200 → f.toNat % 100 = 0 →
      ∃ d, exec (.coreClock c) s = .next { s with dev := d } ∧ AdmDone s.dev d c .ok 0 0 ∧
        d.power = { s.dev.power with coreSet := Two.mod s.dev.power.coreSet (halfOfNat h.toNat) (fun l => lset l g.toNat f.toNat) } ∧
        { d with power := s.dev.power, host := s.dev.host } = s.dev) ∧
    (∀ (a : Word) (ha : Nat), opsAre c [a] → a.toNat < 2 ^ 56 → s.dev.target true a.toNat = .host ha →
      ∃ d, exec (.powerStatus c) s = .next { s with dev := d } ∧ AdmDone s.dev d c .ok 0 0 ∧
        d.out = s.dev.out ++ [.hostWrite ha s.dev.powerRec none] ∧ { d with out := s.dev.out, host := s.dev.host } = s.dev) ∧
    (∀ w : Word, opsAre c [w] → w.toNat < 2 ^ 32 →
      ∃ d, exec (.wakeGpio c) s = .next { s with dev := d } ∧ AdmDone s.dev d c .ok 0 0 ∧
        d.power = { s.dev.power with wakeGpio := w.truncate 16, wakeRise := BitVec.ofNat 16 (w.toNat / 65536) } ∧
        { d with power := s.dev.power, host := s.dev.host } = s.dev) ∧
    (opsAre c [] → s.dev.sched.steps = [] → (∀ r ∈ s.dev.host.rings, r.2.enabled = false) → s.dev.chain.joined = false →
      ∃ d, exec (.powerCold c) s = .next { s with dev := d } ∧ d.power.pstate = .cold ∧ d.mem = [] ∧ d.cores = [] ∧
        d.engines = [] ∧ d.sec.session = none)


/-! ### Reliability and security -/

/-- R20, R111, R512 to R525, R514, R519: errors below their threshold are counted and leak one at a time, an
engine's or a core's parity error with the line it lay in, and a lane's also for its pseudo-channel; an engine that reports an
uncorrected error is quenched; a failed
on-package link contains the package; a unit that does not answer a probe is quenched under a new incarnation, and serves
again after it passes its test; a cluster's spare takes a failed engine's place; and the end of containment holds every
ring whose step was discarded. A probe itself changes nothing. -/
def Obligations.UnitsCountQuenchAndRecover : Prop :=
  ∀ s : State,
    (∀ (u : UnitId) (loc : Word) (th win : Nat), unitOk u = true → s.dev.threshOf u.code.val false = some (th, win) →
      (s.dev.unit u).cc + 1 < th →
      ∃ d, exec (.correctedError u loc) s = .next { s with dev := d } ∧ (d.unit u).cc = (s.dev.unit u).cc + 1 ∧
        (d.unit u).st = (s.dev.unit u).st ∧
        (u.code.val ∉ [2, 4, 8, 9, 11] ∨ (u.code.val = 8 ∧ s.dev.threshOf 9 false = none) → { d with faults := s.dev.faults } = s.dev) ∧
        (u.code.val = 8 → s.dev.threshOf 9 false = none → s.dev.unit (laneChan u) = d.unit (laneChan u) ∨
          (d.unit (laneChan u)).ctotal = sat32 ((s.dev.unit (laneChan u)).ctotal + 1)) ∧
        (u.code.val = 4 → d.core (Fin.ofNat 64 u.unit.toNat) = (s.dev.core (Fin.ofNat 64 u.unit.toNat)).l1Drop (loc.toNat % 2 ^ 48 / 64) ∧
          { d with faults := s.dev.faults, cores := s.dev.cores } = s.dev) ∧
        (∀ e : Fin 128, u = engUnit e → d.eng e = (s.dev.eng e).dropParity (loc.toNat % 2 ^ 48) ∧
          (∀ g, g ≠ e → d.eng g = s.dev.eng g) ∧ { d with faults := s.dev.faults, engines := s.dev.engines } = s.dev) ∧
        (u.code.val = 11 → (∀ p, p ≠ fld u.unit.toNat 8 4 → d.port p = s.dev.port p) ∧
          { d with faults := s.dev.faults, chain := s.dev.chain, free := s.dev.free } = s.dev)) ∧
    (∀ (u : UnitId) (loc : Word) (th win : Nat), unitOk u = true → quenchable u = false →
      u.code.val ≠ 0 → u.code.val ≠ 6 → u.code.val ≠ 7 → u.code.val ≠ 12 → (u.code.val = 9 → s.dev.hbmPlace loc.toNat = none) →
      (u.code.val = 10 → s.dev.backing loc.toNat ≠ .ddr) →
      s.dev.threshOf u.code.val true = some (th, win) →
      (s.dev.unit u).uc + 1 < th →
      ∃ d, exec (.uncorrectedError u loc) s = .next { s with dev := d } ∧ (d.unit u).uc = (s.dev.unit u).uc + 1 ∧
        { d with faults := s.dev.faults } = s.dev) ∧
    (∀ (u : UnitId) (loc : Word), unitOk u = true → u.code.val = 2 → (s.dev.unit u).quenched = false → (s.dev.unit u).st ≠ .retired →
      (s.dev.unit u).inc.toNat < 15 →
      ∃ d, exec (.uncorrectedError u loc) s = .next { s with dev := d } ∧ (d.unit u).quenched = true ∧
        (d.unit u).inc = (s.dev.unit u).inc + 1 ∧ d.faults.contain.isSome = true) ∧
    (∀ (u : UnitId) (th win : Nat), unitOk u = true → s.dev.threshOf u.code.val false = some (th, win) → th ≠ 1 →
      ∃ d, exec (.errorCounterLeak u false) s = .next { s with dev := d } ∧ (d.unit u).cc = (s.dev.unit u).cc - 1 ∧
        (d.unit u).uc = (s.dev.unit u).uc ∧ { d with faults := s.dev.faults } = s.dev) ∧
    (∀ die, exec (.bellowsProbe die) s = .next s) ∧
    (∀ link : Fin 4, ∃ d, exec (.onpackageLinkFailure link) s = .next { s with dev := d } ∧ d.faults.pkgFault = true ∧
      d.faults.contain.isSome = true ∧ (∀ p ∈ d.sched.steps, p.2.phase = .stopping) ∧ d.anvil.ops = [] ∧
      (s.dev.anvil.ops = [] → (∀ p ∈ s.dev.sched.steps, p.2.lostOps = []) → d.mem = s.dev.mem)) ∧
    (∀ u : UnitId, unitOk u = true → u.code.val = 2 → s.dev.unitUp u = true → s.dev.unitHalted u = false → (s.dev.unit u).quenched = false →
      (s.dev.unit u).inc.toNat < 15 →
      ∃ d, exec (.probeTimeout u) s = .next { s with dev := d } ∧ (d.unit u).quenched = true ∧ (d.unit u).testing = true ∧
        (d.unit u).inc = (s.dev.unit u).inc + 1 ∧ d.faults.contain.isSome = true) ∧
    (∀ u : UnitId, unitOk u = true → (s.dev.unit u).quenched = true → (s.dev.unit u).testing = true →
      ∃ d, exec (.selfTestDone u true) s = .next { s with dev := d } ∧ (d.unit u).quenched = false ∧
        (d.unit u).testing = false ∧ (d.unit u).inc = (s.dev.unit u).inc ∧
        { d with faults := s.dev.faults, host := s.dev.host } = s.dev) ∧
    (∀ (h : Half) (c : Fin 8) (e : Fin 128), engHalf e = h → engIdx e / 8 = c.val →
      (s.dev.unit (engUnit e)).awaiting = true →
      (∀ g, g ≠ e → engHalf g = h → engIdx g / 8 = c.val → (s.dev.unit (engUnit g)).awaiting = false) →
      s.dev.sched.steps = [] → (∀ g, (s.dev.eng g).step = none) →
      ∃ d, exec (.spareEngineSubstitute h c) s = .next { s with dev := d } ∧ (d.unit (engUnit e)).st = .replaced ∧
        (d.unit (engUnit e)).awaiting = false ∧ (d.unit (engUnit e)).phys = some (9 * c.val + 8) ∧ d.eng e = {} ∧
        (∀ g, g ≠ e → d.eng g = s.dev.eng g) ∧ d.mem = s.dev.mem) ∧
    (∀ k : Contain, s.dev.faults.contain = some k → s.dev.settled k.steps = true →
      ∃ d, exec .containmentSettled s = .next { s with dev := d } ∧ d.faults.contain = none ∧
        ((∀ n st, n ∈ k.steps → s.dev.step? n = some st → ∀ r ∈ st.image.regions, r.dir = 0) → d.mem = s.dev.mem) ∧
        (∀ n st r, n ∈ k.steps → s.dev.step? n = some st → tget s.dev.host.rings st.ring = some r →
          ∃ r', tget d.host.rings st.ring = some r' ∧ r'.held = true))

/-- Tables 17.7 and 17.8: RING_RESUME ends a ring's hold outside containment, FAULT_THRESH stores a pair that the unit code
has, FAULT_COUNTERS writes every unit's record, and an injected corrected error is counted as a real one. -/
def Obligations.ReliabilityCommandsComplete : Prop :=
  ∀ (s : State) (c : AdmCmd), s.dev.adminOpen = true → c.rsvd = false →
    (∀ (r : Word) (x : Ring), opsAre c [r] → r.toNat < 16384 → s.dev.faults.contain = none →
      tget s.dev.host.rings r.toNat = some x →
      ∃ d, exec (.ringResume c) s = .next { s with dev := d } ∧ AdmDone s.dev d c .ok 0 0 ∧
        tget d.host.rings r.toNat = some { x with held := false } ∧ { d with host := s.dev.host } = s.dev) ∧
    (∀ k u t w : Word, opsAre c [k, u, t, w] → k.toNat ≤ 13 → u.toNat ≤ 1 → 1 ≤ t.toNat → t.toNat ≤ 65535 → 1 ≤ w.toNat →
      w.toNat ≤ 2592000000 → (defaultThresh k.toNat (u.toNat == 1)).isSome = true →
      ∃ d, exec (.faultThresh c) s = .next { s with dev := d } ∧ AdmDone s.dev d c .ok 0 0 ∧
        d.threshOf k.toNat (u.toNat == 1) = some (t.toNat, w.toNat) ∧
        { d with faults := s.dev.faults, host := s.dev.host } = s.dev) ∧
    (∀ (a : Word) (ha : Nat), opsAre c [a] → a.toNat < 2 ^ 56 → s.dev.target true a.toNat = .host ha →
      ∃ d, exec (.faultCounters c) s = .next { s with dev := d } ∧ AdmDone s.dev d c .ok 0 0 ∧
        d.out = s.dev.out ++ [.hostWrite ha (allUnits.flatMap s.dev.unitRec) none] ∧
        { d with out := s.dev.out, host := s.dev.host } = s.dev) ∧
    (∀ (n : Word) (th win : Nat), opsAre c [11, n, 0] → n.toNat < 65536 →
      let u : UnitId := ⟨11, .hub, n.truncate 16⟩
      unitOk u = true → s.dev.grants 6 = true → s.dev.threshOf 11 false = some (th, win) → (s.dev.unit u).cc + 1 < th →
      ∃ d, exec (.errInject c) s = .next { s with dev := d } ∧ AdmDone s.dev d c .ok 0 0 ∧
        (d.unit u).cc = (s.dev.unit u).cc + 1 ∧ d.mem = s.dev.mem)

/-- R539 to R545, R555, Tables 18.3 and 18.4: a signed object that passes every check of R540 does what its KIND does,
consumes the nonce and is answered OK; an object that fails a check after the first consumes the nonce, changes nothing it
names and is answered FORBIDDEN; a RETURN of an idle unjoined package sets RETURNED and erases the owner's secrets. -/
def Obligations.SignedObjectsAct : Prop :=
  ∀ (s : State) (c : AdmCmd) (a : Word) (obj bs : List Byte), s.dev.adminOpen = true → c.rsvd = false →
    opsAre c [a, 18665] → a.toNat < 2 ^ 56 → s.dev.fwHolds a 18665 = none → s.dev.fwRead a 18665 obj = .ok bs → s.dev.sec.log.length < 4096 →
    let body := bs.take 128
    let kind := ofLe body / 2 ^ 16 % 256
    let val := ofLe body / 2 ^ 512 % 2 ^ 256
    (s.dev.sigCheck bs = none →
      (kind = 1 → ∃ d, exec (.debugAuth c obj) s = .next { s with dev := d } ∧ AdmDone s.dev d c .ok 0 0 ∧
        d.sec.nonce = none ∧ (∃ x, d.sec.session = some x ∧ x.priv = BitVec.ofNat 64 (ofLe body / 2 ^ 448) ∧
          x.life = ofLe body / 2 ^ 32 % 2 ^ 32 ∧ x.vendor = decide (s.dev.sec.life = .returned)) ∧
        (s.dev.hbm.margin = none → d.mem = s.dev.mem)) ∧
      (kind = 2 → s.dev.chain.joined = false → ∃ d, exec (.rotateFabric c obj) s = .next { s with dev := d } ∧
        AdmDone s.dev d c .ok 0 0 ∧ d.sec.nonce = none ∧ d.sec.fabric.toNat = val ∧ d.sec.svn = s.dev.sec.svn ∧
        { d with sec := s.dev.sec, host := s.dev.host, tiers := s.dev.tiers, coh := s.dev.coh } = s.dev) ∧
      (kind = 3 → ∃ d, exec (.debugKey c obj) s = .next { s with dev := d } ∧ AdmDone s.dev d c .ok 0 0 ∧
        d.sec.nonce = none ∧ d.sec.debugHash.toNat = val ∧ d.sec.ownerHash = s.dev.sec.ownerHash ∧
        { d with sec := s.dev.sec, host := s.dev.host, tiers := s.dev.tiers, coh := s.dev.coh } = s.dev) ∧
      (kind = 4 → ∃ d, exec (.cosignKey c obj) s = .next { s with dev := d } ∧ AdmDone s.dev d c .ok 0 0 ∧
        d.sec.nonce = none ∧ d.sec.cosignNext = some (BitVec.ofNat 256 val) ∧ d.sec.cosignHash = s.dev.sec.cosignHash ∧
        { d with sec := s.dev.sec, host := s.dev.host, tiers := s.dev.tiers, coh := s.dev.coh } = s.dev) ∧
      (kind = 5 → s.dev.sec.svn ≤ val → val ≤ 64 → val ≤ s.dev.boot.svnImage.toNat →
        ∃ d, exec (.advanceSvn c obj) s = .next { s with dev := d } ∧ AdmDone s.dev d c .ok 0 0 ∧ d.sec.nonce = none ∧
          d.sec.svn = val ∧ { d with sec := s.dev.sec, host := s.dev.host, tiers := s.dev.tiers, coh := s.dev.coh } = s.dev) ∧
      (kind = 6 → s.dev.coldBusy = false → s.dev.chain.joined = false →
        ∃ d, exec (.returnAuth c obj) s = .next { s with dev := d } ∧ AdmTaken s.dev d c (.secReturn body) ∧
          d.sec.returned = true ∧ d.sec.ownerHash = 0 ∧ d.sec.debugHash = 0 ∧ d.sec.fabric = 0 ∧ d.sec.cave = none ∧
          d.sec.nonce = none ∧ d.mem = s.dev.mem)) ∧
    (∀ n, s.dev.sigCheck bs = some n → n ≠ 1 → kind = 5 →
      ∃ d, exec (.advanceSvn c obj) s = .next { s with dev := d } ∧ AdmDone s.dev d c .forbidden 0 0 ∧
        d.sec = { s.dev.sec with nonce := none } ∧ { d with sec := s.dev.sec, host := s.dev.host, tiers := s.dev.tiers, coh := s.dev.coh } = s.dev)

/-- R535, R536, R541, R546 to R551, R555, R560, Table 18.6: status, nonce, close, attestation, log and certificate commands
write what their rows say; DOE gives the same over a link that is up; nonce and session expire, and with the session a margining sweep that it granted; and provisioning a BLANK
idle package makes it OWNED with the record's hashes and leaves it Cold. -/
def Obligations.SecurityCommandsComplete : Prop :=
  ∀ s : State,
    (∀ (c : AdmCmd) (a : Word) (ha : Nat), s.dev.adminOpen = true → c.rsvd = false → a.toNat < 2 ^ 56 → s.dev.target true a.toNat = .host ha →
      (opsAre c [a] →
        (∃ d, exec (.secStatus c) s = .next { s with dev := d } ∧ AdmDone s.dev d c .ok 0 0 ∧
          d.out = s.dev.out ++ [.hostWrite ha (s.dev.report 0) none] ∧ { d with out := s.dev.out, host := s.dev.host } = s.dev) ∧
        (∃ d x, exec (.secNonce c) s = .next { s with dev := d } ∧ AdmDone s.dev d c .ok 0 0 ∧ d.sec.nonce = some x ∧
          d.out = s.dev.out ++ [.hostWrite ha (leBytes 32 x.toNat) none] ∧ d.mem = s.dev.mem) ∧
        (∃ d, exec (.secCert c) s = .next { s with dev := d } ∧ AdmDone s.dev d c .ok 0 0 ∧
          d.out = s.dev.out ++ [.hostWrite ha Config.certificate none] ∧ { d with out := s.dev.out, host := s.dev.host } = s.dev)) ∧
      (∀ n : Word, opsAre c [a, n] →
        ∃ d, exec (.attestLog c) s = .next { s with dev := d } ∧ AdmDone s.dev d c .ok 0 0 ∧
          d.out = s.dev.out ++ [.hostWrite ha ((s.dev.sec.log.take (n.toNat / 80)).flatMap logBytes) none] ∧
          { d with out := s.dev.out, host := s.dev.host } = s.dev) ∧
      (∀ (b : Word) (nonce bs o : List Byte) (d1 : Dev), opsAre c [b, a] → b.toNat < 2 ^ 56 → s.dev.fwHolds b 32 = none → s.dev.fwRead b 32 nonce = .ok bs →
        s.dev.attestBytes (ofLe bs) = some (o, d1) →
        ∃ d, exec (.attest c nonce) s = .next { s with dev := d } ∧ AdmDone s.dev d c .ok 0 0 ∧
          d.out = s.dev.out ++ [.hostWrite ha o none] ∧ d.sec = d1.sec ∧ d.mem = s.dev.mem)) ∧
    (∀ c : AdmCmd, s.dev.adminOpen = true → c.rsvd = false → opsAre c [] →
      ∃ d, exec (.secClose c) s = .next { s with dev := d } ∧ AdmDone s.dev d c .ok 0 0 ∧ d.sec.session = none ∧
        (s.dev.hbm.margin = none → d.mem = s.dev.mem)) ∧
    (∃ d, exec .nonceExpiry s = .next { s with dev := d } ∧ d.sec = { s.dev.sec with nonce := none } ∧
      { d with sec := s.dev.sec } = s.dev) ∧
    (∃ d, exec .sessionExpiry s = .next { s with dev := d } ∧ d.sec.session = none ∧
      (s.dev.hbm.margin = none → d.mem = s.dev.mem) ∧ (s.dev.sec.session ≠ none → d.hbm.margin = none) ∧
      (s.dev.sec.session = none → d = s.dev)) ∧
    (s.dev.host.linkUp = true →
      (∀ (nonce : BitVec 256) (o : List Byte) (d1 : Dev), s.dev.attestBytes nonce.toNat = some (o, d1) →
        ∃ d, exec (.doeAttest nonce) s = .next { s with dev := d } ∧ d.out = s.dev.out ++ [.doe o] ∧ d.sec = d1.sec ∧
          { d with sec := s.dev.sec, out := s.dev.out } = s.dev) ∧
      (∃ d, exec .doeLog s = .next { s with dev := d } ∧ d.out = s.dev.out ++ [.doe (s.dev.sec.log.flatMap logBytes)] ∧
        { d with out := s.dev.out } = s.dev) ∧
      (∃ d, exec .doeCert s = .next { s with dev := d } ∧ d.out = s.dev.out ++ [.doe Config.certificate] ∧
        { d with out := s.dev.out } = s.dev)) ∧
    (∀ (c : AdmCmd) (a : Word) (rec bs : List Byte), s.dev.adminOpen = true → c.rsvd = false → opsAre c [a] → a.toNat < 2 ^ 56 →
      s.dev.fwHolds a 128 = none → s.dev.fwRead a 128 rec = .ok bs → s.dev.coldBusy = false → s.dev.sec.life = .blank → s.dev.sec.log.length < 4096 →
      ofLe bs % 2 ^ 256 ≠ 0 → s.dev.chain.joined = false →
      ∃ d, exec (.secProvision c rec) s = .next { s with dev := d } ∧ d.sec.owned = true ∧
        d.sec.ownerHash = BitVec.ofNat 256 (ofLe bs) ∧ d.sec.debugHash = BitVec.ofNat 256 (ofLe bs / 2 ^ 256) ∧
        d.sec.cosignHash = BitVec.ofNat 256 (ofLe bs / 2 ^ 512) ∧ d.sec.fabric = BitVec.ofNat 256 (ofLe bs / 2 ^ 768) ∧
        d.power.pstate = .cold ∧ d.mem = [])


/-! ### Debug and start-up -/

/-- R552 to R559, Tables 18.8 to 18.10: with supply, the TAP selects its instruction and answers with its register; EXTEST drives pins
only while PERST_N is asserted; the mailbox answers status, nonces and the close of a session; a debug module that answers
halts, resumes and steps an application core, reads its registers, and reaches a Vat over the system bus. -/
def Obligations.DebugPortActs : Prop :=
  ∀ s : State, s.dev.power.vinOk = true →
    (∃ d, exec .idcode s = .next { s with dev := d } ∧ d.sec = { s.dev.sec with ir := 0x01, driven := [] } ∧
      d.out = s.dev.out ++ [.jtag (1 + 2 * Config.jep106.toNat + 4096 * 0x7264)] ∧
      { d with sec := s.dev.sec, out := s.dev.out } = s.dev) ∧
    (∀ pins, ∃ d, exec (.samplePreload pins) s = .next { s with dev := d } ∧
      d.sec = { s.dev.sec with ir := 0x02, driven := [], boundary := pins } ∧ { d with sec := s.dev.sec } = s.dev) ∧
    (∀ drive, ∃ d, exec (.extest drive) s = .next { s with dev := d } ∧
      d.sec = { s.dev.sec with ir := 0x03, boundary := drive, driven := if s.dev.boot.perst then drive else [] } ∧
      { d with sec := s.dev.sec } = s.dev) ∧
    (∀ v, ∃ d, exec (.dtmcs v) s = .next { s with dev := d } ∧ d.sec.ir = 0x10 ∧ d.sec.driven = [] ∧
      d.out = s.dev.out ++ [.jtag (1 + 16 * 7)] ∧ { d with sec := s.dev.sec, out := s.dev.out } = s.dev) ∧
    (∃ d, exec .bypass s = .next { s with dev := d } ∧ d.sec = { s.dev.sec with ir := 0xFF, driven := [] } ∧
      d.out = s.dev.out ++ [.jtag 0] ∧ { d with sec := s.dev.sec, out := s.dev.out } = s.dev) ∧
    (s.dev.sec.mboxReturn = none →
      ∃ d, exec (.rindMbox .status) s = .next { s with dev := d } ∧ d.out = s.dev.out ++ [.mbox .ok (s.dev.report 0)] ∧
        { d with sec := s.dev.sec, out := s.dev.out } = s.dev) ∧
    (∃ d x, exec (.rindMbox .nonce) s = .next { s with dev := d } ∧ d.sec.nonce = some x ∧
      d.out = s.dev.out ++ [.mbox .ok (leBytes 32 x.toNat)] ∧ d.mem = s.dev.mem) ∧
    (∃ d, exec (.rindMbox .close) s = .next { s with dev := d } ∧ d.sec.session = none ∧
      (s.dev.hbm.margin = none → d.out = s.dev.out ++ [.mbox .ok []] ∧ d.mem = s.dev.mem)) ∧
    (∀ (die : Die) (v : BitVec 32), s.dev.debugUp = true → (s.dev.sec.mods.length = 3) →
      (∃ d, exec (.dmi die 4 true v) s = .next { s with dev := d } ∧ (d.dbgMod die).data.toNat % 2 ^ 32 = v.toNat ∧
        (d.dbgMod die).data.toNat / 2 ^ 32 = (s.dev.dbgMod die).data.toNat / 2 ^ 32 ∧
        { d with sec := s.dev.sec, out := s.dev.out } = s.dev) ∧
      (∃ d, exec (.dmi die 4 false v) s = .next { s with dev := d } ∧ d.sec.mods = s.dev.sec.mods ∧
        d.out = s.dev.out ++ [.jtag ((s.dev.dbgMod die).data.toNat % 2 ^ 32)] ∧
        { d with sec := s.dev.sec, out := s.dev.out } = s.dev)) ∧
    (∀ (t : DbgHart) (h : Fin 64), dbgTarget t.die t.hartsel.val = .core h → s.dev.dbgReach (.core h) = (.open_, s.dev) →
      s.dev.sec.mods.length = 3 →
      (∃ d, exec (.hartHalt t) s = .next { s with dev := d } ∧ (d.core h).halted = true ∧ (d.core h).x = (s.dev.core h).x ∧
        OnlyCore h s.dev d) ∧
      ((s.dev.core h).halted = true →
        (∃ d, exec (.hartResume t) s = .next { s with dev := d } ∧ (d.core h).halted = false ∧ (d.core h).x = (s.dev.core h).x) ∧
        (∃ d, exec (.singleStep t) s = .next { s with dev := d } ∧ (d.core h).halted = false ∧ (d.core h).stepping = true ∧
          d.mem = s.dev.mem) ∧
        (∀ r : Fin 32, (s.dev.dbgMod t.die).cmderr = 0 →
          ∃ d, exec (.abstractCommand t (.readReg (BitVec.ofNat 16 (0x1000 + r.val)))) s = .next { s with dev := d } ∧
            (d.dbgMod t.die).data = (s.dev.core h).rx r ∧ { d with sec := s.dev.sec } = s.dev))) ∧
    (∀ (die : Die) (a v : Word) (off : Nat), s.dev.debugUp = true → s.dev.sec.session.isSome = true → a.toNat % 8 = 0 →
      s.dev.target false a.toNat = .vat off → s.dev.dbgAsk 2 (pdVat (vatHalf off)) = (.open_, s.dev) →
      s.dev.sec.mods.length = 3 →
      (∃ d, exec (.systemBusAccess die a false v) s = .next { s with dev := d } ∧
        (d.dbgMod die).sbdata = BitVec.ofNat 64 (ofLe (s.dev.rd off 8)) ∧ { d with sec := s.dev.sec } = s.dev) ∧
      (vatBase ≤ off →
        ∃ d, exec (.systemBusAccess die a true v) s = .next { s with dev := d } ∧
          d.mem = cellsPut s.dev.mem off (leBytes 8 v.toNat) ∧ (d.dbgMod die).sbaddr = a))

/-- R563 to R575, R582, R598, R601, Tables 19.1 and 19.2: the supply's rise and PERST_N's edges start, reset and continue
the package; an image that passes R570 runs and one that fails sends it to recovery with its REASON; recovery and update
check, program and activate images; training and the Cave's mount lead to READY with its event, the mount finding the population, giving up every unit and
keeping the wear; and the SMBus owner reads
one held event or a sensor. -/
def Obligations.StartUpReachesReady : Prop :=
  ∀ s : State,
    (∀ (bs : BitVec 3) (st : BitVec 2), s.dev.power.vinOk = false →
      ∃ d, exec (.vin52Rise bs st) s = .next { s with dev := d } ∧ d.power.vinOk = true ∧ d.power.pstate = .working ∧
        d.boot.bsel = bs ∧ d.boot.smbus = 0x60 + st.toNat ∧ d.boot.cause = 0 ∧ d.sec.session = none ∧
        (s.dev.boot.perst = true → d.boot.waitPerst = true)) ∧
    (∀ (bs : BitVec 3) (st : BitVec 2), s.dev.boot.perst = false → s.dev.power.vinOk = true → s.dev.power.pstate ≠ .cold →
      s.dev.boot.waitPerst = false →
      ∃ d, exec (.perstAssert bs st) s = .next { s with dev := d } ∧ d.boot.perst = true ∧ d.boot.waitPerst = true ∧
        d.boot.bsel = bs ∧ d.boot.cause = 2 ∧ d.mem = [] ∧ d.engines = [] ∧ d.cores = [] ∧ d.sec.owned = s.dev.sec.owned ∧
        d.sec.svn = s.dev.sec.svn ∧ d.sec.session = none) ∧
    (s.dev.boot.perst = true → s.dev.power.vinOk = true → s.dev.power.pstate ≠ .cold →
      ∃ d, exec .perstDeassert s = .next { s with dev := d } ∧ d.boot.perst = false ∧ d.sec.driven = [] ∧ d.mem = s.dev.mem ∧
        (s.dev.boot.waitPerst = true → s.dev.power.thermtrip = false →
          d.boot.waitPerst = false ∧ d.boot.st = afterStep4 s.dev.boot.bsel ∧ d.count = ⟨0, 0⟩)) ∧
    (s.dev.boot.waitPerst = false → s.dev.boot.perst = false → s.dev.power.pstate ≠ .cold → s.dev.power.vinOk = true →
      ∃ d, exec .pcieLinkUp s = .next { s with dev := d } ∧ d.host = { s.dev.host with linkUp := true } ∧
        { d with host := s.dev.host } = s.dev) ∧
    (∀ img : ImageIn, s.dev.boot.st = .load →
      (∀ v, s.dev.checkImage img = .ok v →
        ∃ d, exec (.imageLoad img) s = .next { s with dev := d } ∧ d.boot.st = .train ∧ d.boot.fwver = v.1 ∧
          d.boot.svnImage = v.2 ∧ d.mem = cellsPut s.dev.mem (vatOff 0) (img.header ++ img.body)) ∧
      (∀ n, s.dev.checkImage img = .error n →
        ∃ d, exec (.imageLoad img) s = .next { s with dev := d } ∧ d.boot.st = .recovery ∧ d.boot.reason = n ∧ d.sec = s.dev.sec)) ∧
    (∀ v, s.dev.boot.st = .recovery → s.dev.host.linkUp = true → s.dev.checkImage s.dev.deliveredImage = .ok v →
      ∃ d, exec .recoveryGo s = .next { s with dev := d } ∧ d.boot.st = .program ∧ d.boot.img = some v ∧ d.boot.reason = 0 ∧
        d.out = s.dev.out ++ [.spi true] ∧ d.mem = s.dev.mem) ∧
    (∀ (img : ImageIn) (v : Word × BitVec 8), s.dev.boot.st = .ready → s.dev.power.pstate = .working →
      s.dev.boot.update = false → s.dev.checkImage img = .ok v →
      ∃ d, exec (.pldmFirmwareUpdate img) s = .next { s with dev := d } ∧ d.boot.update = true ∧
        d.out = s.dev.out ++ [.spi true, .pldm 100 0] ∧ d.mem = s.dev.mem ∧ d.sched = s.dev.sched) ∧
    (∀ sc : Bool, s.dev.boot.st = .recovery →
      ∃ d, exec (.activateFirmware sc) s = .next { s with dev := d } ∧
        d.out = s.dev.out ++ [.pldm 102 (if sc then 1 else 0)] ∧ { d with out := s.dev.out } = s.dev) ∧
    (∀ v, s.dev.boot.st = .program → s.dev.boot.img = some v →
      (∃ d, exec (.spiProgramDone true) s = .next { s with dev := d } ∧ d.boot.st = .train ∧ d.boot.fwver = v.1 ∧
        d.out = s.dev.out ++ [.pldm 101 0]) ∧
      (∃ d, exec (.spiProgramDone false) s = .next { s with dev := d } ∧ d.boot.st = .recovery ∧ d.boot.reason = 6)) ∧
    (∀ (w e : BitVec 6) (ddr : BitVec 8) (gb : Nat), s.dev.boot.st = .train →
      let uw := w &&& ~~~(s.dev.badStacks .west)
      let ue := e &&& ~~~(s.dev.badStacks .east)
      (5 ≤ popCount uw.toNat 6 → 5 ≤ popCount ue.toNat 6 → 1 ≤ popCount ddr.toNat 8 → s.Safe →
        ∃ d, exec (.memoryTraining w e ddr gb) s = .next { s with dev := d } ∧ d.hbm.half.w.usable = uw ∧
          d.hbm.half.e.usable = ue ∧ d.tiers.frames = [] ∧
          (s.dev.boot.bsel ≠ 3 → d.boot.st = .mount) ∧ (s.dev.boot.bsel = 3 → d.boot.st = .ready) ∧
          (∀ a, vatOff 0 ≤ a → a < vatOff 0 + vatSize → cellGet d.mem a = 0)) ∧
      (popCount uw.toNat 6 < 5 →
        ∃ d, exec (.memoryTraining w e ddr gb) s = .next { s with dev := d } ∧ d.boot.st = .failed ∧ d.boot.reason = 8 ∧
          { d with boot := s.dev.boot } = s.dev)) ∧
    (∀ (pop : List (List CavePart)) (factory : List Nat) (spare : Nat), s.dev.boot.st = .mount →
      ∃ d, exec (.caveMount pop factory spare) s = .next { s with dev := d } ∧ d.boot.st = .ready ∧ d.cave.pop = cavePop pop ∧
        d.cave.factory = factory ∧ d.cave.spare = spare ∧ d.cave.staged = [] ∧ d.cave.map = [] ∧ d.cave.lost = 0 ∧
        d.cave.blks = s.dev.cave.blks ∧ d.cave.deadDies = s.dev.cave.deadDies ∧ d.mem = s.dev.mem ∧ d.tiers = s.dev.tiers ∧
        ((cavePop pop).isSome = true → d.cave.channels ≠ [] →
          d.cave.st = caveNow { d.cave with st := .normal } ∧ d.domSt 53 = .on ∧ d.domSt 54 = .on) ∧
        (cavePop pop = none → d.cave.st = .absent ∧ (s.dev.cave.st = .absent → s.dev.host.canHold = true →
          ∃ e, d.host.evtQ = s.dev.host.evtQ ++ [e] ∧ e.kind = 18 ∧ e.a0 = s.dev.boot.fwver))) ∧
    (s.dev.boot.platform ≠ 0 →
      ∃ d, exec .platformEventRead s = .next { s with dev := d } ∧ d.boot.platform = s.dev.boot.platform - 1 ∧
        { d with boot := s.dev.boot, out := s.dev.out } = s.dev) ∧
    (∀ k : Fin 7, s.dev.power.vinOk = true →
      ∃ d, exec (.pldmSensorRead k) s = .next { s with dev := d } ∧ d.out = s.dev.out ++ [.pldm k.val (s.dev.sensor k.val)] ∧
        { d with out := s.dev.out } = s.dev)


/-! ### The Chain -/

/-- R397, R401 to R403, R408 to R410, R418 to R424, Table 13.6: a port that trains sends its identity; the identity of a
neighbour with free places gives both ends their incarnation and the pair its key, and one of no neighbour is refused; the
right confirmation brings the link up and the wrong one refuses it; frames are taken in sequence, with the acknowledgement and
the credits that they carry, replayed on request, sent and sealed when idle; a link retrains, rekeys, dies of silence, and starts again.

R400, R404 to R407, R412 to R417, R425 to R430: an in-sequence packet of a live node is delivered once and advances its
stream; a stale or malformed one is counted and dropped; a transit packet leaves by the active link to its last hop when that has credits; acknowledgements free
what they cover; a timeout doubles the timer; link and slot changes are learnt and flooded on; silence makes a node dead,
a departure empties its slot, and a node without links quenches itself. -/
def Obligations.ChainLinksComeUpAndCarryPackets : Prop :=
  (∀ (s : State) (p : Fin 16), s.dev.chain.waitSend = [] → s.dev.chain.transit = [] →
    let q := s.dev.port p.val
    (∀ l : Fin 9, s.dev.chain.joined = true → q.st = .training → q.lanes = 0 → l.val = 8 ∨ l.val = 6 ∨ l.val = 4 →
      ∃ d i, exec (.linkTrainingDone p l) s = .next { s with dev := d } ∧ (d.port p.val).lanes = l.val ∧
        (d.port p.val).mine = some i ∧ i.node = BitVec.ofNat 8 s.dev.chain.node ∧ i.serial = Config.serial ∧
        d.out = s.dev.out ++ [.linkIdentity p.val i] ∧ d.mem = s.dev.mem) ∧
    (∀ i mi : Identity, s.dev.chain.joined = true → q.st = .training → q.lanes ≠ 0 → q.idDone = false → q.mine = some mi →
      s.dev.upPorts = [] →
      let far := i.node.toNat
      let own := s.dev.chain.node
      (far < 64 → far ≠ own → far / 8 = own / 8 ∨ far % 8 = own % 8 → s.dev.sec.fabric ≠ 0 → s.dev.slot far = noSlot →
        s.dev.slot own = noSlot → i.slots = [] →
        ∃ d, exec (.identityExchange p i) s = .next { s with dev := d } ∧ (d.port p.val).idDone = true ∧
          (d.port p.val).farNode = far ∧ (d.port p.val).far = some i ∧ d.chain.inc = 0 ∧ (d.port p.val).farInc = 0 ∧
          (d.port p.val).key = Config.kmacChain s.dev.sec.fabric (linkX mi i q.nonce i.nonce 0) ∧ d.mem = s.dev.mem) ∧
      (far < 64 → far / 8 ≠ own / 8 → far % 8 ≠ own % 8 →
        ∃ d, exec (.identityExchange p i) s = .next { s with dev := d } ∧ (d.port p.val).st = .refused ∧
          (d.port p.val).refuse = 1 ∧ d.chain.slots = s.dev.chain.slots)) ∧
    (∀ (i : Identity) (tag : BitVec 256), q.far = some i → q.st = .training → q.idDone = true → s.dev.upTo q.farNode = [] →
      q.farNode ≠ s.dev.chain.node →
      (tag = Config.kmacConfirm (confirmKey q.key) i →
        ∃ d, exec (.keyConfirmation p tag) s = .next { s with dev := d } ∧ (d.port p.val).st = .upActive ∧
          (d.port p.val).lanes = q.lanes ∧ (d.port p.val).farNode = q.farNode ∧ (d.slot s.dev.chain.node).st = .live ∧
          (d.slot q.farNode).st = .live ∧ d.mem = s.dev.mem) ∧
      (tag ≠ Config.kmacConfirm (confirmKey q.key) i →
        ∃ d, exec (.keyConfirmation p tag) s = .next { s with dev := d } ∧ (d.port p.val).st = .refused ∧
          (d.port p.val).refuse = 3 ∧ d.chain.slots = s.dev.chain.slots)) ∧
    (s.dev.chain.joined = true → q.enabled = true → q.st = .refused ∨ q.st = .dead ∨ q.st = .training →
      ∃ d, exec (.bringupRetryTimer p) s = .next { s with dev := d } ∧ (d.port p.val).st = .training ∧
        (d.port p.val).lanes = 0 ∧ { d with chain := s.dev.chain } = s.dev) ∧
    (q.st = .upActive → q.retrain = false →
      (∀ hd : LinkHdr, hd.seq = q.rxSeq → q.calm →
        ∃ d, exec (.linkFrameReceive p hd true true) s = .next { s with dev := d } ∧
          (d.port p.val).rxSeq = q.rxSeq + 1 ∧ (d.port p.val).crcRun = 0 ∧
          (d.port p.val).used = q.used.zipIdx.map (fun x => x.1 - lgetD hd.credits x.2 0) ∧
          ((∀ f ∈ q.replayBuf, f.1 ≠ hd.ack) → hd.ack = q.txSeq → (d.port p.val).replayBuf = []) ∧
          { d with chain := s.dev.chain } = s.dev) ∧
      (∀ hd, q.crcRun < 15 → ∃ d, exec (.linkFrameReceive p hd false true) s = .next { s with dev := d } ∧
        (d.port p.val).rxSeq = q.rxSeq ∧ (d.port p.val).crcRun = q.crcRun + 1 ∧
        d.out = s.dev.out ++ [.linkReplayReq p.val q.rxSeq]) ∧
      (∀ sq, ∃ d, exec (.replayRequest p sq) s = .next { s with dev := d } ∧
        d.out = s.dev.out ++ (q.replayBuf.dropWhile (fun f => f.1 != sq)).map (fun f => .linkReplay p.val f.1) ∧
        { d with chain := s.dev.chain, out := s.dev.out } = s.dev) ∧
      (q.calm → ∃ d, exec (.idleFrameTimer p) s = .next { s with dev := d } ∧
        d.out = s.dev.out ++ [.linkFrame p.val { seq := q.txSeq, ack := q.rxSeq, credits := q.owed } (q.nonce96 s.dev.chain.node) none
          (Config.gcmSeal (q.txKey s.dev.chain.node).1 (q.nonce96 s.dev.chain.node)
            (leBytes 3 q.txSeq.toNat ++ leBytes 2 64) none)] ∧
        (d.port p.val).txSeq = q.txSeq + 1 ∧ (d.port p.val).owed = List.replicate 22 0 ∧ { d with chain := s.dev.chain, out := s.dev.out } = s.dev) ∧
      (∀ b : Fin 9, 1 ≤ b.val → b.val ≤ 4 → ∃ d, exec (.laneDegrade p b) s = .next { s with dev := d } ∧
        (d.port p.val).retrain = true ∧ (d.port p.val).lanes = min q.lanes (if b.val ≤ 2 then 6 else 4) ∧
        { d with chain := s.dev.chain } = s.dev) ∧
      ((s.dev.modPort p.val (fun x => { x with st := .dead })).upTo q.farNode = [] →
        ∃ d, exec (.linkSilenceTimeout p) s = .next { s with dev := d } ∧ (d.port p.val).st = .dead ∧ (d.port p.val).key = 0 ∧
          d.chain.up s.dev.chain.node q.farNode = false ∧ d.mem = s.dev.mem) ∧
      (q.rekeying = false → ∃ d n, exec (.rekeyTimer p) s = .next { s with dev := d } ∧ (d.port p.val).rekeying = true ∧
        (d.port p.val).nonce = n ∧ (d.port p.val).key = q.key ∧ d.out = s.dev.out ++ [.linkRekey p.val n] ∧ d.mem = s.dev.mem) ∧
      (∀ (mi fa : Identity) (n tag : BitVec 256), q.rekeying = true → q.mine = some mi → q.far = some fa →
        let key := Config.kmacChain s.dev.sec.fabric (linkX mi fa q.nonce n (q.epoch + 1))
        tag = Config.kmacConfirm (confirmKey key) fa →
        ∃ d, exec (.rekeyConfirm p n tag) s = .next { s with dev := d } ∧ (d.port p.val).key = key ∧
          (d.port p.val).epoch = q.epoch + 1 ∧ (d.port p.val).frameCtr = 0 ∧ (d.port p.val).rekeying = false ∧
          { d with chain := s.dev.chain, out := s.dev.out } = s.dev)) ∧
    (q.st = .upActive → q.retrain = true → s.dev.upTo q.farNode = [(p.val, q)] →
      ∃ d, exec (.linkRetrainDone p) s = .next { s with dev := d } ∧ (d.port p.val).retrain = false ∧
        d.out = s.dev.out ++ q.replayBuf.map (fun f => .linkReplay p.val f.1) ∧
        { d with chain := s.dev.chain, out := s.dev.out } = s.dev)) ∧
  (∀ s : State, s.dev.chain.waitSend = [] → s.dev.chain.transit = [] → s.dev.chain.joined = true →
    (∀ (p : Fin 16) (k : ChainPkt) (obj : Fin 131072) (v : Word), (s.dev.port p.val).st = .upActive → malformedPkt k = false →
      k.cls.val ≠ 7 → k.dst.toNat = s.dev.chain.node → k.body = .rennetSig obj v → s.dev.chain.leaving = false →
      let r := tgetD s.dev.chain.rx (streamKey k.src.toNat k.cls.val) {}
      (s.dev.stalePkt k = false → k.seq = r.next → r.pend < 31 →
        ∃ d, exec (.chainPacketReceive p k) s = .next { s with dev := d } ∧
          tget d.chain.rx (streamKey k.src.toNat k.cls.val) = some { next := r.next + 1, pend := r.pend + 1 } ∧
          d.rennet.msgs = s.dev.rennet.msgs ++ [.sig (pktSrc k) .sig obj.val v (some k.tag.toNat)] ∧ d.mem = s.dev.mem) ∧
      (s.dev.stalePkt k = true →
        ∃ d, exec (.chainPacketReceive p k) s = .next { s with dev := d } ∧
          (d.port p.val).stale = (s.dev.port p.val).stale + 1 ∧ { d with chain := s.dev.chain } = s.dev)) ∧
    (∀ (p : Fin 16) (k : ChainPkt), (s.dev.port p.val).st = .upActive → malformedPkt k = true →
      ∃ d, exec (.chainPacketReceive p k) s = .next { s with dev := d } ∧
        d.chain.badHeader = s.dev.chain.badHeader + 1 ∧ d.chain.rx = s.dev.chain.rx ∧
        d.port p.val = { s.dev.port p.val with owed := (d.port p.val).owed } ∧ { d with chain := s.dev.chain } = s.dev) ∧
    (∀ (p : Fin 16) (k : ChainPkt) (pn : Nat), (s.dev.port p.val).st = .upActive → malformedPkt k = false →
      k.dst.toNat ≠ s.dev.chain.node → s.dev.chain.portTo k.dst.toNat = some pn → (s.dev.port pn).calm →
      let k' : ChainPkt :=
        { k with vset := if k.src.toNat / 8 = k.dst.toNat / 8 || k.src.toNat % 8 = k.dst.toNat % 8 then 2 else k.vset }
      (s.dev.port pn).canSend k' = true →
      ∃ d h n b, exec (.packetForward p k) s = .next { s with dev := d } ∧
        d.out = s.dev.out ++ [.linkFrame pn h n (some k') b] ∧ h.seq = (s.dev.port pn).txSeq ∧
        h.ack = (s.dev.port pn).rxSeq ∧ d.chain.transit = [] ∧ { d with chain := s.dev.chain, out := s.dev.out } = s.dev) ∧
    (∀ (k : ChainPkt) (i : Nat), k.cls.val = 7 → k.dst.toNat = s.dev.chain.node → malformedPkt k = false →
      s.dev.stalePkt k = false →
      let t := tgetD s.dev.chain.tx (streamKey k.src.toNat k.acls.val) {}
      t.unacked.findIdx? (fun x => x.seq == k.seq) = some i →
      ∃ d, exec (.chainAckReceive k) s = .next { s with dev := d } ∧
        tget d.chain.tx (streamKey k.src.toNat k.acls.val) = some { t with unacked := t.unacked.drop (i + 1), timer := 20 } ∧
        { d with chain := s.dev.chain } = s.dev) ∧
    (∀ (src : Fin 64) (cls : Fin 8) (nh vs pn : Nat), s.dev.live src.val = true →
      s.dev.chain.route s.dev.chain.node src.val = some (nh, vs) → s.dev.chain.portTo nh = some pn →
      (∀ k', (s.dev.port pn).canSend k' = true) → (s.dev.port pn).calm →
      let r := tgetD s.dev.chain.rx (streamKey src.val cls.val) {}
      r.pend ≠ 0 →
      ∃ d h n b k, exec (.ackTimer src cls) s = .next { s with dev := d } ∧
        tget d.chain.rx (streamKey src.val cls.val) = some { r with pend := 0 } ∧ d.out = s.dev.out ++ [.linkFrame pn h n (some k) b] ∧
        k.seq = r.next - 1 ∧ k.acls = cls ∧ k.cls = 7) ∧
    (∀ (dst : Fin 64) (cls : Fin 8), s.dev.live dst.val = true →
      let t := tgetD s.dev.chain.tx (streamKey dst.val cls.val) {}
      t.unacked ≠ [] →
      ∃ d, exec (.retransmitTimeout dst cls) s = .next { s with dev := d } ∧
        tget d.chain.tx (streamKey dst.val cls.val) = some { t with timer := min 320 (2 * t.timer) } ∧
        { d with chain := s.dev.chain, out := s.dev.out, free := s.dev.free } = s.dev) ∧
    (∃ d, exec .heartbeatTimer s = .next { s with dev := d } ∧
      (∀ n, n < 64 → n ≠ s.dev.chain.node → s.dev.reach n = true → .heartbeat n s.dev.chain.inc ∈ d.out) ∧
      { d with out := s.dev.out } = s.dev) ∧
    (∀ n inc, exec (.heartbeatReceive n inc) s = .next s) ∧
    (∀ n : Fin 64, n.val ≠ s.dev.chain.node → s.dev.live n.val = true →
      (∃ d, exec (.heartbeatTimeout n) s = .next { s with dev := d } ∧ (d.slot n.val).st = .dead ∧
        .floodDead n.val (s.dev.slot n.val).inc ∈ d.out) ∧
      (∃ d, exec (.deadDeclarationReceive n (s.dev.slot n.val).inc) s = .next { s with dev := d } ∧ (d.slot n.val).st = .dead) ∧
      (∃ d, exec (.departureReceive n) s = .next { s with dev := d } ∧ (d.slot n.val).st = .empty ∧ .floodLeave n.val ∈ d.out)) ∧
    (s.dev.upPorts = [] → (s.dev.slot s.dev.chain.node).st = .live →
      ∃ d, exec .noLinkTimeout s = .next { s with dev := d } ∧ (d.slot s.dev.chain.node).st ≠ .live ∧
        d.faults.contain.isSome = true) ∧
    (∀ (n : Fin 64) (x : Slot), n.val ≠ s.dev.chain.node → s.dev.slot n.val = noSlot → x.st = .live → x.used = true →
      ∃ d, exec (.slotChangeReceive n x) s = .next { s with dev := d } ∧ d.slot n.val = x ∧ d.mem = s.dev.mem) ∧
    (∀ (a b : Fin 64) (up : Bool), a ≠ b → a.val ≠ s.dev.chain.node → b.val ≠ s.dev.chain.node →
      ∃ d, exec (.linkStateReceive a b up) s = .next { s with dev := d } ∧ d.chain.up a.val b.val = up ∧ d.mem = s.dev.mem))

/-- R399, R410, R428, R429, Table 13.8: the Chain's admin commands: joining takes the number and starts every enabled port;
leaving is accepted of a package that runs nothing; a port that is down is disabled or enabled at once and an up one
retrains for 8 lanes; and the status command writes every port's record. -/
def Obligations.ChainCommandsComplete : Prop :=
  ∀ (s : State) (c : AdmCmd), s.dev.adminOpen = true → c.rsvd = false →
    (∀ n : Word, opsAre c [n] → n.toNat < 64 → s.dev.chain.joined = false → s.dev.chain.leaving = false →
      ∃ d, exec (.chainJoin c) s = .next { s with dev := d } ∧ AdmTaken s.dev d c .chainJoin ∧ d.chain.joined = true ∧
        d.chain.node = n.toNat ∧ d.chain.links = [] ∧ d.mem = s.dev.mem ∧
        (∀ p, p < 16 → (s.dev.port p).enabled = true → (s.dev.port p).st ≠ .draining → (d.port p).st = .training)) ∧
    (opsAre c [] → s.dev.stepsBusy = false → s.dev.chain.leaving = false → s.dev.chain.joined = true →
      ∃ d, exec (.chainLeave c) s = .next { s with dev := d } ∧ AdmTaken s.dev d c .chainLeave ∧ d.chain.leaving = true ∧
        (s.dev.coh.dir = [] → d.mem = s.dev.mem)) ∧
    (∀ p : Word, p.toNat < 16 →
      (opsAre c [p, 0] → (s.dev.port p.toNat).isUp = false → (s.dev.port p.toNat).st ≠ .draining →
        ∃ d, exec (.chainPortDisable c) s = .next { s with dev := d } ∧ AdmTaken s.dev d c (.portDisable p.toNat) ∧
          (d.port p.toNat).enabled = false ∧ (d.port p.toNat).st = .disabled ∧ d.mem = s.dev.mem) ∧
      (opsAre c [p, 1] → (s.dev.port p.toNat).st = .disabled → s.dev.chain.joined = true →
        ∃ d, exec (.chainPortEnable c) s = .next { s with dev := d } ∧ AdmTaken s.dev d c (.portEnable p.toNat) ∧
          (d.port p.toNat).enabled = true ∧ (d.port p.toNat).st = .training ∧ d.mem = s.dev.mem) ∧
      (opsAre c [p, 2] → (s.dev.port p.toNat).isUp = true →
        ∃ d, exec (.chainPortRetrain c) s = .next { s with dev := d } ∧ AdmTaken s.dev d c (.portRetrain p.toNat) ∧
          (d.port p.toNat).retrain = true ∧ (d.port p.toNat).lanes = 8 ∧ d.mem = s.dev.mem)) ∧
    (∀ (a : Word) (ha : Nat), opsAre c [a] → a.toNat < 2 ^ 56 → s.dev.target true a.toNat = .host ha →
      ∃ d, exec (.chainStatus c) s = .next { s with dev := d } ∧ AdmDone s.dev d c .ok 0 0 ∧
        d.out = s.dev.out ++ [.hostWrite ha ((List.range 16).flatMap (fun p => portRec (s.dev.port p))) none] ∧
        { d with out := s.dev.out, host := s.dev.host } = s.dev)


/-! ### The host interface -/

/-- R436 to R438, R440, Table 14.1, R604: a write of the host through an open aperture leaves for the home of its line or
for the Vat bank, and a word at an object's window is a signal; a read answers with the bytes; an access outside what the
aperture allows is discarded or answered with Unsupported Request, with an event; a read that waits too long answers with
Completer Abort; and an aperture's fields change only while it is off, with its accesses drained in between. -/
def Obligations.AperturesReachTheDevice : Prop :=
  ∀ (s : State) (i : Fin 32) (o : Nat), o < 2 ^ 28 →
    let off : BitVec 33 := BitVec.ofNat 33 (2 ^ 28 * i.val + o)
    let a := s.dev.apt i.val
    let g := a.addr o
    let noted (d : Dev) (st : Status) : Prop := d.host = { s.dev.host with evtQ := s.dev.host.evtQ ++ [{ apEvent i.val o st with t := s.dev.hubCount }] }
    (s.dev.boot.st = .ready → a.en = true →
      (∀ bs : List Byte, a.wr = true → s.dev.writes.any (fun w => w.of (.aperture i) 0) = false →
        s.dev.rennetOut (.aperture i) (fun _ => true) = false →
        let ps := writeUnits (.aperture i) 0 g bs false
        (∀ u, s.dev.target false g = .umr u → s.dev.backed u = true → 0 < bs.length → u % 64 + bs.length ≤ 64 →
          ∃ d p, exec (.hostApertureWrite off bs) s = .next { s with dev := d } ∧
            d.coh.noc = s.dev.coh.noc ++ ps.map (fun q => writeMsg (.aperture i) (u + (q.1 - g)) q.2) ∧
            d.writes = s.dev.writes ++ ps.map (fun q =>
              { src := .aperture i, addr := ownAddr (u + (q.1 - g)), bytes := q.2, path := p }) ∧
            d.mem = s.dev.mem ∧ d.host = s.dev.host ∧ d.out = s.dev.out) ∧
        (∀ v, s.dev.target false g = .vat (vatBase + v) → s.dev.vatOpen a.ctx.toNat v bs.length = true → 0 < bs.length →
          v % 64 + bs.length ≤ 64 →
          ∃ d, exec (.hostApertureWrite off bs) s = .next { s with dev := d } ∧ d.mem = cellsPut s.dev.mem (vatOff v) bs ∧
            d.coh = s.dev.coh ∧ d.host = s.dev.host ∧ d.out = s.dev.out) ∧
        (∀ obj, s.dev.target false g = .rennet obj 0 → bs.length = 8 →
          let v : Word := BitVec.ofNat 64 (ofLe bs)
          ∃ d p, exec (.hostApertureWrite off bs) s = .next { s with dev := d } ∧
            (if s.dev.sigHolds (.aperture i) (s.dev.target true (objAddr obj)) = true then
              d.writes = s.dev.writes ++ [{ src := .aperture i, addr := objAddr obj, bytes := leBytes 8 v.toNat, path := p, held := true,
                                            what := .sig (s.dev.apSrc i.val a) obj v }] ∧ { d with writes := s.dev.writes } = s.dev
            else d.rennet.msgs = s.dev.rennet.msgs ++ [.sig (s.dev.apSrc i.val a) .sig obj v] ∧
              { d with rennet := s.dev.rennet } = s.dev))) ∧
      (∀ (n : Nat) (ext : List Byte), a.rd = true → s.dev.srcBusy (.aperture i) 0 = false →
        let rd := s.dev.modHost (fun h => { h with readId := h.readId + 1 })
        (∀ u, s.dev.target false g = .umr u → rd.readGate u n = .go rd → s.dev.farLines u n = [] →
          s.dev.contended (.aperture i) = false →
          let bs := s.dev.cohRead u n
          (s.dev.cohPoison u n = false →
            ∃ d, exec (.hostApertureRead off n ext) s = .next { s with dev := d } ∧ d.out = s.dev.out ++ [.completion bs] ∧
              d.host = { s.dev.host with readId := s.dev.host.readId + 1 } ∧
              { d with out := s.dev.out, host := s.dev.host, tiers := s.dev.tiers } = s.dev) ∧
          (s.dev.cohPoison u n = true → s.dev.host.canHold = true →
            ∃ d, exec (.hostApertureRead off n ext) s = .next { s with dev := d } ∧ d.out = s.dev.out ++ [.poisonedCpl bs] ∧
              d.host.evtQ = s.dev.host.evtQ ++ [{ apEvent i.val o .poison with t := s.dev.hubCount }] ∧
              { d with out := s.dev.out, host := s.dev.host, tiers := s.dev.tiers } = s.dev)) ∧
        (∀ u d0, s.dev.target false g = .umr u → rd.readGate u n = .hold d0 →
          exec (.hostApertureRead off n ext) s = .next { s with dev := d0.modHost (fun h => { h with
            reads := h.reads ++ [{ id := s.dev.host.readId, ap := i, off := o, addr := g, len := n, ext := ext }] }) })) ∧
      (∀ (bs : List Byte) (ext : List Byte) (n : Nat), s.dev.host.canHold = true →
        (s.dev.target false g = .reserved ∨ s.dev.target false g = .privileged ∨ (a.wr = false ∧ a.rd = false)) →
        (∃ d, exec (.hostApertureWrite off bs) s = .next { s with dev := d } ∧ noted d .unmapped ∧ { d with host := s.dev.host } = s.dev) ∧
        (s.dev.srcBusy (.aperture i) 0 = false →
          ∃ d, exec (.hostApertureRead off n ext) s = .next { s with dev := d } ∧ d.out = s.dev.out ++ [.unsupported] ∧
            d.host.evtQ = s.dev.host.evtQ ++ [{ apEvent i.val o .unmapped with t := s.dev.hubCount }] ∧
            { d with host := s.dev.host, out := s.dev.out } = s.dev))) ∧
    (∀ (id : Nat) (r : PendRead), s.dev.host.reads.find? (fun x => x.id == id) = some r → s.dev.host.canHold = true →
      ∃ d, exec (.apertureReadTimeout id) s = .next { s with dev := d } ∧ d.out = s.dev.out ++ [.abortCpl] ∧
        d.host = { s.dev.host with reads := s.dev.host.reads.filter (fun x => x.id != id), evtQ := s.dev.host.evtQ ++ [{ apEvent r.ap.val r.off .notReady with t := s.dev.hubCount }] } ∧
        { d with out := s.dev.out, host := s.dev.host } = s.dev) ∧
    (∀ w : Word,
      let only (d : Dev) : Prop := { d with host := s.dev.host } = s.dev ∧ ∀ k, k ≠ i.val → d.apt k = s.dev.apt k
      (w.getLsbD 0 = true → a.en = false → a.draining = false →
        ∃ d, exec (.apertureEnable i w) s = .next { s with dev := d } ∧ only d ∧
          d.apt i.val = { a with en := true, rd := w.getLsbD 1, wr := w.getLsbD 2, busy := a.busy && !w.getLsbD 4, pd := w.extractLsb' 8 8, ctx := w.extractLsb' 16 12 }) ∧
      (w.getLsbD 0 = true → a.en = false → a.draining = true →
        ∃ d, exec (.apertureEnable i w) s = .next { s with dev := d } ∧ only d ∧ d.apt i.val = { a with busy := true }) ∧
      (w.getLsbD 0 = false → a.en = true →
        ∃ d, exec (.apertureDisable i w) s = .next { s with dev := d } ∧ only d ∧
          d.apt i.val = { a with en := false, draining := true, busy := a.busy && !w.getLsbD 4 })) ∧
    (a.draining = true → s.dev.writes.any (fun w => w.src == .aperture i && w.what.isData) = false →
      s.dev.host.reads.any (fun r => r.ap == i && r.region.isNone) = false →
      ∃ d, exec (.apertureDrainDone i) s = .next { s with dev := d } ∧ d.apt i.val = { a with draining := false } ∧
        (∀ k, k ≠ i.val → d.apt k = s.dev.apt k) ∧ { d with host := s.dev.host } = s.dev)

/-- R441, R442, R445, R447, R448, R452, R462, R604: a write of a peer inside an enabled region leaves for the UMR page that
the region gives, and one outside is dropped and counted, with one event a millisecond; a read inside a readable region
answers with the bytes; a notify of a domain's own line marks it, and any other is counted; reading a marked line gives each
of its rings its tail, or sets the ring's overrun; a context's head word and moderation follow. -/
def Obligations.RegionsAndDoorbellsReachTheDevice : Prop :=
  ∀ s : State, s.dev.boot.st = .ready →
    (∀ (rq : BitVec 16) (off : BitVec 36) (bs : List Byte) (fr : Fin 4096) (r : PRegion) (u : Nat), 0 < bs.length → off.toNat % 64 + bs.length ≤ 64 →
      s.dev.regionAt off.toNat bs.length = some (fr.val, r) → r.place off.toNat = u → s.dev.target true (ownAddr u) = .umr u →
      s.dev.writes.any (fun w => w.of (.region fr) rq.toNat) = false → s.dev.rennetOut (.region fr) (fun _ => true) = false →
      (∃ d p, exec (.peerPlacementWrite ⟨rq, off⟩ bs) s = .next { s with dev := d } ∧
        let ps := writeUnits (.region fr) 0 (ownAddr u) bs false
        d.coh.noc = s.dev.coh.noc ++ ps.map (fun q => writeMsg (.region fr) (q.1 - ownAddr 0) q.2) ∧
        d.writes = s.dev.writes ++ ps.map (fun q => { src := .region fr, addr := q.1, bytes := q.2, path := p, rq := rq.toNat }) ∧
        d.mem = s.dev.mem ∧
        d.rennet.landings = s.dev.rennet.landings ++ (if r.counter.isSome then [(fr, bs.length)] else []) ∧ d.host = s.dev.host) ∧
      (∀ (n : Nat) (ext : List Byte), s.dev.regionAt off.toNat n = some (fr.val, r) →
        (r.read = false → exec (.peerPlacementRead off ⟨n, ext⟩) s = .next { s with dev := s.dev.emit .unsupported }) ∧
        (r.read = true → s.dev.writes.any (fun w => (match w.src with | .region _ => true | _ => false) && !w.done) = false →
          0 < n → off.toNat % 4096 + n ≤ 4096 →
          let rd := s.dev.modHost (fun h => { h with readId := h.readId + 1 })
          rd.readGate u n = .go rd → s.dev.farLines u n = [] →
          let bs := s.dev.cohRead u n
          ∃ d, exec (.peerPlacementRead off ⟨n, ext⟩) s = .next { s with dev := d } ∧
            d.out = s.dev.out ++ [if s.dev.cohPoison u n then .poisonedCpl bs else .completion bs] ∧
            d.host = { s.dev.host with readId := s.dev.host.readId + 1 } ∧
            { d with out := s.dev.out, host := s.dev.host, tiers := s.dev.tiers } = s.dev))) ∧
    (∀ (rq : BitVec 16) (off : BitVec 36) (bs ext : List Byte) (n : Nat), 0 < bs.length → s.dev.regionAt off.toNat bs.length = none →
      let h := s.dev.host
      (h.dropMs = some (s.dev.hubCount.toNat / 24000) →
        ∃ d, exec (.peerPlacementWrite ⟨rq, off⟩ bs) s = .next { s with dev := d } ∧ { d with host := h } = s.dev ∧
          d.host = { h with placeDrop := min (h.placeDrop + 1) 0xFFFFFFFF, dropsSince := h.dropsSince + 1 }) ∧
      (h.dropMs ≠ some (s.dev.hubCount.toNat / 24000) → h.canHold = true →
        ∃ d e, exec (.peerPlacementWrite ⟨rq, off⟩ bs) s = .next { s with dev := d } ∧ { d with host := h } = s.dev ∧
          d.host = { h with placeDrop := min (h.placeDrop + 1) 0xFFFFFFFF, dropsSince := 0, dropMs := some (s.dev.hubCount.toNat / 24000), evtQ := h.evtQ ++ [e] } ∧
          e.kind = 9 ∧ e.info = BitVec.ofNat 32 (h.dropsSince + 1) ∧ e.a0 = BitVec.ofNat 64 off.toNat) ∧
      (s.dev.regionAt off.toNat n = none → exec (.peerPlacementRead off ⟨n, ext⟩) s = .next { s with dev := s.dev.emit .unsupported })) ∧
    (∀ (page : Fin 256) (off : BitVec 12) (len : Nat) (v : Word),
      s.dev.mustHold (.aperture 0) 0 .near .reserved false false = true →
      ∃ d w, exec (.notifyWrite page off len v) s = .next { s with dev := d } ∧ d.writes = s.dev.writes ++ [w] ∧ w.held = true ∧
        w.what = .notify page.val off.toNat len v ∧ { d with writes := s.dev.writes } = s.dev) ∧
    (∀ (page : Fin 256) (off : BitVec 12) (len : Nat) (v : Word),
      s.dev.mustHold (.aperture 0) 0 .near .reserved false false = false →
      let n := v.toNat % 2 ^ (8 * len)
      let good (l : DbLine) : Prop := off = 0 ∧ (len = 4 ∨ len = 8) ∧ n < 1024 ∧ l.pd.toNat = page.val
      (∀ l, tget s.dev.host.lines n = some l → good l →
        ∃ d, exec (.notifyWrite page off len v) s = .next { s with dev := d } ∧ tget d.host.lines n = some { l with pending := true } ∧
          (∀ k, k ≠ n → tget d.host.lines k = tget s.dev.host.lines k) ∧ d.host.notifyIgn = s.dev.host.notifyIgn ∧
          { d with host := s.dev.host } = s.dev) ∧
      ((∀ l, tget s.dev.host.lines n = some l → ¬good l) →
        ∃ d, exec (.notifyWrite page off len v) s = .next { s with dev := d } ∧ { d with host := s.dev.host } = s.dev ∧
          d.host = { s.dev.host with notifyIgn := min (s.dev.host.notifyIgn + 1) 0xFFFFFFFF })) ∧
    (∀ (n : Fin 1024) (l : DbLine) (ext : List Byte) (d0 : Dev), tget s.dev.host.lines n.val = some l → l.pending = true →
      s.dev.fwHolds l.addr 64 = some d0 → exec (.doorbellLineRead n ext) s = .next { s with dev := d0 }) ∧
    (∀ (n : Fin 1024) (l : DbLine) (ext bs : List Byte), tget s.dev.host.lines n.val = some l → l.pending = true →
      s.dev.fwHolds l.addr 64 = none → s.dev.fwRead l.addr 64 ext = .ok bs →
      ∃ d, exec (.doorbellLineRead n ext) s = .next { s with dev := d } ∧ tget d.host.lines n.val = some { l with pending := false } ∧
        { d with host := s.dev.host, tiers := s.dev.tiers, coh := s.dev.coh } = s.dev ∧
        (∀ (k : Fin 16) (r : Ring), tget s.dev.host.rings (16 * n.val + k.val) = some r →
          tget d.host.rings (16 * n.val + k.val) = some
            (if !r.enabled || r.overrun || r.destroying then r
             else if 2 ^ r.log2 < (lineTail bs k.val - r.head).toNat then { r with overrun := true, tail := r.head }
             else { r with tail := lineTail bs k.val })) ∧
        (∀ k, k / 16 ≠ n.val → tget d.host.rings k = tget s.dev.host.rings k)) ∧
    (∀ (n : Fin 4096) (x : Ctx), s.dev.ctx? n.val = some x →
      (∀ ext bs, s.dev.fwHolds x.head 8 = none → s.dev.fwRead x.head 8 ext = .ok bs →
        ∃ d, exec (.headWordReread n ext) s = .next { s with dev := d } ∧ d.ctx? n.val = some { x with headVal := ofLe bs } ∧
          (∀ k, k ≠ n.val → d.ctx? k = s.dev.ctx? k) ∧
          { d with host := s.dev.host, tiers := s.dev.tiers, coh := s.dev.coh } = s.dev) ∧
      (x.unsig ≠ 0 → x.bind.getLsbD 0 = false →
        let m := tgetD s.dev.host.msix (fld x.bind.toNat 1 11) {}
        let wait := s.dev.writes.any (fun w => w.src == .firmware)
        ∃ d, exec (.moderationTimer n) s = .next { s with dev := d } ∧ d.ctx? n.val = some { x with unsig := 0 } ∧
          d.out = s.dev.out ++ (if wait || m.mask then [] else [.msix (fld x.bind.toNat 1 11) m.addr m.data]) ∧
          (wait = true → d.host.irqs = s.dev.host.irqs ++ [x.bind]) ∧
          (wait = false → m.mask = true → tget d.host.msix (fld x.bind.toNat 1 11) = some { m with pending := true }) ∧
          { d with out := s.dev.out, host := s.dev.host } = s.dev) ∧
      (x.unsig = 0 → exec (.moderationTimer n) s = .next s))

/-- R459, R460, R583 to R585, Tables 14.9 and 20.4: the event ring takes the first held record while it has room, writes it
at the tail with its phase, and signals; the rings' controls enable an empty ring of a legal size, refuse while draining and
report a bad size; an impossible tail turns the admin ring off; an unknown opcode is reported; and Function Level Reset
(R434, R580) leaves no region, ring or context, both rings off and every aperture off. -/
def Obligations.RingsAndFunctionLevelResetAct : Prop :=
  ∀ s : State,
    let h := s.dev.host
    (∀ (e : Event) (t : List Event) (a : Nat), h.evtRoom ≠ 0 → h.evtQ = e :: t →
      s.dev.target true (h.evt.base + BitVec.ofNat 64 (32 * (h.evtTail.toNat % 2 ^ h.evt.log2))).toNat = .host a → h.evtBind.getLsbD 0 = false →
      s.dev.writes.any (fun w => w.src == .firmware) = false →
      let m := tgetD h.msix (fld h.evtBind.toNat 1 11) {}
      ∃ d, exec .eventRecordPost s = .next { s with dev := d } ∧ d.host.evtTail = h.evtTail + 1 ∧
        d.out = s.dev.out ++ [.hostWrite a (eventBytes e (h.evtTail.toNat / 2 ^ h.evt.log2 % 2 == 0)) none] ++
          (if m.mask then [] else [.msix (fld h.evtBind.toNat 1 11) m.addr m.data]) ∧
        (h.evtLost = 0 → d.host.evtQ = t) ∧ d.host.evtLost = 0 ∧
        (h.evtLost ≠ 0 → ∃ o, d.host.evtQ = t ++ [o] ∧ o.kind = 16 ∧ o.info = BitVec.ofNat 32 h.evtLost) ∧
        { d with out := s.dev.out, host := h } = s.dev) ∧
    (h.evtRoom = 0 → exec .eventRecordPost s = .next s) ∧
    (∀ v : BitVec 32,
      ∃ d, exec (.evtHeadWrite v) s = .next { s with dev := d } ∧ { d with host := h } = s.dev ∧ d.host.evtHead = v ∧
        d.host.evt = { h.evt with err := h.evt.err || decide (2 ^ h.evt.log2 < (h.evtTail - v).toNat) } ∧ d.host.evtTail = h.evtTail) ∧
    (∀ v : BitVec 16,
      (h.adm.en = false ∨ (v - h.admHead).toNat ≤ 2 ^ h.adm.log2 →
        exec (.adminTailWrite v []) s = .next { s with dev := s.dev.modHost (fun h => { h with admTail := v }) }) ∧
      (h.adm.en = true → 2 ^ h.adm.log2 < (v - h.admHead).toNat →
        ∃ d, exec (.adminTailWrite v []) s = .next { s with dev := d } ∧ { d with host := h } = s.dev ∧
          d.host.adm = { h.adm with en := false, err := true } ∧ d.host.admTail = v ∧ d.host.admHead = h.admHead) ∧
      (∀ w : BitVec 512, knownOp (fld w.toNat 0 8) = false → (s.dev.modHost (fun h => { h with admTail := v })).adminOpen = true →
        (v - h.admHead).toNat ≤ 2 ^ h.adm.log2 →
        ∃ d, exec (.adminTailWrite v [w]) s = .next { s with dev := d } ∧ { d with host := h } = s.dev ∧
          AdmDone s.dev d { cid := BitVec.ofNat 16 (fld w.toNat 16 16), rsvd := false, ops := [] } .badCommand 0 0)) ∧
    (∀ w : Word,
      (∀ n : Nat, fld w.toNat 0 4 = n → w.getLsbD 8 = true → h.adm.en = false →
        (h.adm.draining = false → 4 ≤ n → n ≤ 12 → (h.admTail - h.admHead).toNat ≤ 2 ^ n →
          ∃ d, exec (.adminRingEnable w) s = .next { s with dev := d } ∧ { d with host := h } = s.dev ∧
            d.host = { h with adm := { h.adm with log2 := n, en := true, busy := h.adm.busy && !w.getLsbD 10, err := h.adm.err && !w.getLsbD 11 } }) ∧
        (h.adm.draining = false → n < 4 ∨ 12 < n →
          ∃ d, exec (.adminRingEnable w) s = .next { s with dev := d } ∧ { d with host := h } = s.dev ∧ d.host.adm.err = true ∧
            d.host.adm.en = false) ∧
        (h.adm.draining = true →
          ∃ d, exec (.adminRingEnable w) s = .next { s with dev := d } ∧ { d with host := h } = s.dev ∧ d.host.adm.busy = true ∧
            d.host.adm.en = false ∧ d.host.adm.log2 = h.adm.log2)) ∧
      (w.getLsbD 8 = false → h.adm.en = true →
        ∃ d, exec (.adminRingDisable w) s = .next { s with dev := d } ∧ { d with host := h } = s.dev ∧ d.host.adm.en = false ∧
          d.host.adm.draining = true ∧ d.host.adm.log2 = h.adm.log2 ∧ d.host.admHead = h.admHead) ∧
      (∀ n : Nat, fld w.toNat 0 5 = n → w.getLsbD 8 = true → h.evt.en = false →
        (h.evt.draining = false → 8 ≤ n → n ≤ 16 →
          ∃ d, exec (.eventRingEnable w) s = .next { s with dev := d } ∧ { d with host := h } = s.dev ∧
            d.host = { h with evt := { h.evt with log2 := n, en := true, busy := h.evt.busy && !w.getLsbD 10, err := h.evt.err && !w.getLsbD 11 } }) ∧
        (h.evt.draining = false → n < 8 ∨ 16 < n →
          ∃ d, exec (.eventRingEnable w) s = .next { s with dev := d } ∧ { d with host := h } = s.dev ∧ d.host.evt.err = true ∧
            d.host.evt.en = false)) ∧
      (w.getLsbD 8 = false → h.evt.en = true →
        ∃ d, exec (.eventRingDisable w) s = .next { s with dev := d } ∧ { d with host := h } = s.dev ∧ d.host.evt.en = false ∧
          d.host.evt.draining = true ∧ d.host.evtTail = h.evtTail)) ∧
    (h.admBusy = false → exec .adminRingDrainDone s = .next { s with dev := s.dev.modHost (fun h => { h with adm := { h.adm with draining := false } }) }) ∧
    exec .eventRingDrainDone s = .next { s with dev := s.dev.modHost (fun h => { h with evt := { h.evt with draining := false } }) } ∧
    (s.dev.sched.steps = [] → s.dev.faults.contain = none →
      ∃ d, exec .functionLevelReset s = .next { s with dev := d } ∧ d.host.regions = [] ∧ d.host.rings = [] ∧ d.host.ctxs = [] ∧
        d.host.adm = {} ∧ d.host.evt = {} ∧ d.host.admHead = 0 ∧ d.host.admTail = 0 ∧ d.host.evtTail = 0 ∧ d.host.evtHead = 0 ∧
        d.host.evtBind = 0 ∧ d.host.evtDrop = 0 ∧ d.host.atsCache = [] ∧
        (∀ i, (d.apt i).en = false ∧ ((s.dev.apt i).en = true → (d.apt i).draining = true)) ∧ (Two.get d.xlate .west).tlb = [] ∧
        (Two.get d.xlate .east).tlb = [] ∧ d.mem = s.dev.mem ∧ d.cores = s.dev.cores ∧ d.regs = s.dev.regs)

/-- R576 to R578, R586 to R588: releasing a hart that waits in reset starts it at its half's reset vector with its number in
a0; a vector outside the UMR sets its error bit; an enabled edge sets its bit and signals its binding once; a write of a
set-up register changes what the register holds, and one of another size or alignment changes nothing. -/
def Obligations.SetUpRegistersAct : Prop :=
  ∀ s : State,
    (∀ h : Fin 64, s.dev.boot.st = .ready → s.dev.unitUp (coreUnit h) = true → (s.dev.core h).run = .reset → (s.dev.core h).starting = false →
      let half := halfOf (decide (32 ≤ h.val))
      let v := Two.get s.dev.regs.rvec half
      (v.toNat < 2 ^ 34 → s.dev.domSt (pdGroup half (h.val % 32 / 8)) = .on →
        ∃ d, exec (.hartRelease h) s = .next { s with dev := d } ∧ OnlyCore h s.dev d ∧ (d.core h).run = .running ∧
          (d.core h).priv = .m ∧ (d.core h).pc = BitVec.ofNat 64 (4096 * v.toNat) ∧ (d.core h).rx 10 = BitVec.ofNat 64 h.val ∧
          (d.core h).rx 11 = 0) ∧
      (2 ^ 34 ≤ v.toNat →
        ∃ d, exec (.hartRelease h) s = .next { s with dev := d } ∧ d.regs.hartErr = s.dev.regs.hartErr ||| BitVec.ofNat 64 (2 ^ h.val) ∧
          { d with regs := s.dev.regs } = s.dev)) ∧
    (∀ (n : Fin 16) (up : Bool),
      let r := s.dev.regs
      let en := if up then r.rise.getLsbD n.val else r.fall.getLsbD n.val
      (∃ d, exec (.gpioEdge n up) s = .next { s with dev := d } ∧ d.regs.gpioIn.getLsbD n.val = up ∧
        d.regs.edge = (if en then r.edge ||| BitVec.ofNat 16 (2 ^ n.val) else r.edge) ∧
        (∀ k, k ≠ n.val → d.regs.gpioIn.getLsbD k = r.gpioIn.getLsbD k) ∧ d.mem = s.dev.mem ∧
        (en = false ∨ r.edge.getLsbD n.val = true → { d with regs := r } = s.dev))) ∧
    (∀ m : BitVec 16, exec (.gpioStatClear m) s = .next { s with dev := s.dev.modRegs (fun r => { r with edge := r.edge &&& ~~~m }) }) ∧
    (s.dev.debugUp = true → ∀ v : Word,
      (∃ d, exec (.setupRegisterWrite 0x5008 8 v) s = .next { s with dev := d } ∧ d.regs.gpioOut = v.extractLsb' 0 16 ∧
        d.regs.gpioOe = v.extractLsb' 16 16 ∧
        (∀ n, n < 16 → d.regs.gpioIn.getLsbD n = if v.getLsbD (16 + n) then v.getLsbD n else s.dev.regs.gpioIn.getLsbD n) ∧
        d.mem = s.dev.mem ∧ d.sched = s.dev.sched) ∧
      exec (.setupRegisterWrite 0x5010 8 v) s = .next { s with dev := s.dev.modRegs (fun r => { r with rise := v.extractLsb' 0 16, fall := v.extractLsb' 16 16 }) } ∧
      (∃ d, exec (.setupRegisterWrite 0x4008 8 v) s = .next { s with dev := d } ∧ d.regs.rvec = { s.dev.regs.rvec with w := v.extractLsb' 12 36 } ∧
        { d with regs := s.dev.regs } = s.dev) ∧
      exec (.setupRegisterWrite 0x3020 8 v) s = .next { s with dev := s.dev.modHost (fun h => { h with evtBind := BitVec.ofNat 64 (v.toNat % 2 ^ 33) }) } ∧
      (∀ i : Fin 32, (s.dev.apt i.val).en = false → (s.dev.apt i.val).draining = false →
        ∃ d, exec (.setupRegisterWrite (BitVec.ofNat 20 (0x8008 + 16 * i.val)) 8 v) s = .next { s with dev := d } ∧
          d.apt i.val = { s.dev.apt i.val with base := v.extractLsb' 21 35 } ∧ (∀ k, k ≠ i.val → d.apt k = s.dev.apt k) ∧
          { d with host := s.dev.host } = s.dev) ∧
      (∀ (off : BitVec 20) (n : Nat), (n ≠ 4 ∧ n ≠ 8) ∨ off.toNat % n ≠ 0 → exec (.setupRegisterWrite off n v) s = .next s) ∧
      (∀ off : BitVec 20, off.toNat < 0x1000 → exec (.setupRegisterWrite off 8 v) s = .next s))


/-! ### The admin ring's commands -/

/-- Table 14.8, R458, R464, R305, R480, R166, R474: with the admin ring open, a command on contexts, rings, doorbell lines,
accounting, images or the save area whose operands are in range and whose object is as the rule asks is taken from the ring
and completes with OK and this effect alone; one that runs in the background is accepted. -/
def Obligations.AdminCommandsOnContextsAndRings : Prop :=
  ∀ (s : State) (c : AdmCmd), s.dev.adminOpen = true → c.rsvd = false →
    let h := s.dev.host
    let only (d : Dev) (t : HostIf) : Prop := { d with host := h } = s.dev ∧ { d.host with admHead := h.admHead, evtQ := h.evtQ } = t
    (∀ (n : Fin 4095) (pd : Fin 256) (ring head bind : Word) (lg : Nat) (cnt : BitVec 8) (dly : BitVec 16),
      opsAre c [BitVec.ofNat 64 n.val, BitVec.ofNat 64 pd.val, ring, BitVec.ofNat 64 lg, head, bind, BitVec.ofNat 64 (cnt.toNat + 256 * dly.toNat)] →
      6 ≤ lg → lg ≤ 16 → ring.toNat % 32 = 0 → ring.toNat < 2 ^ 56 → head.toNat % 8 = 0 → head.toNat < 2 ^ 56 → bindOk bind.toNat = true → s.dev.ctx? n.val = none →
      ∃ d, exec (.ctxCreate c) s = .next { s with dev := d } ∧ AdmDone s.dev d c .ok 0 0 ∧
        only d { h with ctxs := tput h.ctxs n.val { pd := BitVec.ofNat 8 pd.val, ring := ring, log2 := lg, head := head, bind := bind, modCount := cnt.toNat, modDelay := dly.toNat } }) ∧
    (∀ (n : Fin 4096) (x : Ctx), s.dev.ctx? n.val = some x → x.destroying = false →
      let set (y : Ctx) : HostIf := { h with ctxs := tput h.ctxs n.val y }
      let n' : Word := BitVec.ofNat 64 n.val
      (opsAre c [n'] → s.dev.sched.steps.any (fun p => p.2.ctx == n.val) = false →
        h.rings.any (fun r => r.2.ctx == n.val && r.2.enabled && !r.2.overrun && !r.2.destroying) = false →
        (h.regions.any (fun r => r.2.ctx == n.val)) = false →
        ∃ d, exec (.ctxDestroy c) s = .next { s with dev := d } ∧ AdmTaken s.dev d c (.ctxDestroy n.val) ∧
          d.ctx? n.val = some { x with destroying := true } ∧ (∀ k, k ≠ n.val → d.ctx? k = s.dev.ctx? k) ∧ d.mem = s.dev.mem ∧
          (∀ i a, tget d.tiers.allocs i = some a → a.attach.contains n.val = false)) ∧
      (∀ (r : BitVec 44) (p : BitVec 20), opsAre c [n', BitVec.ofNat 64 r.toNat, BitVec.ofNat 64 p.toNat] → s.dev.ctxSteps n.val = false →
        ∃ d, exec (.ctxRoot c) s = .next { s with dev := d } ∧ AdmDone s.dev d c .ok 0 0 ∧ only d (set { x with root := some (r, p) })) ∧
      (∀ (la w f : Nat), opsAre c [n', BitVec.ofNat 64 la, BitVec.ofNat 64 w, BitVec.ofNat 64 f] → n.val ≠ 4095 → 1 ≤ la → la ≤ 16 →
        1000 ≤ w → w ≤ 60000000 → f < 4 →
        ∃ d, exec (.ctxParams c) s = .next { s with dev := d } ∧ AdmDone s.dev d c .ok 0 0 ∧
          only d (set { x with lookahead := la, window := w, dumpOn := bit f 0, ats := bit f 1 })) ∧
      (∀ (a : Word) (p : BitVec 32), opsAre c [n', a, BitVec.ofNat 64 p.toNat] → a.toNat % 64 = 0 → a.toNat < 2 ^ 56 → a = 0 ∨ s.dev.hostOrUmr a.toNat = true →
        ∃ d, exec (.acctSet c) s = .next { s with dev := d } ∧ AdmDone s.dev d c .ok 0 0 ∧
          only d (set { x with acct := { x.acct with buf := a, period := p.toNat } })) ∧
      (∀ (k : Nat), opsAre c [n'] → x.acct.buf ≠ 0 → k + 256 < 2 ^ 48 →
        s.dev.target true x.acct.buf.toNat = .host k →
        ∃ d, exec (.acctNow c) s = .next { s with dev := d } ∧ AdmDone s.dev d c .ok 0 0 ∧
          d.out = s.dev.out ++ [.hostWrite k (wordsBytes [(x.acct.seq + 1).toNat, s.dev.hubCount.toNat]) none,
            .hostWrite (k + 64) (acctCounters n.val true x.acct) none, .hostWrite (k + 16) (wordsBytes [(x.acct.seq + 1).toNat]) none] ∧
          only { d with out := s.dev.out } (set { x with acct := { x.acct with seq := x.acct.seq + 1 } })) ∧
      (opsAre c [n'] →
        ∃ d, exec (.flushImages c) s = .next { s with dev := d } ∧ AdmDone s.dev d c .ok 0 0 ∧ only d (set { x with images := [] })) ∧
      (∀ (rn : Fin 16384) (cls : Fin 4) (base : Word) (lg : Nat) (l : DbLine) (ext bs : List Byte),
        opsAre c [BitVec.ofNat 64 rn.val, n', BitVec.ofNat 64 cls.val, base, BitVec.ofNat 64 lg] → base.toNat % 64 = 0 → base.toNat < 2 ^ 56 → 4 ≤ lg → lg ≤ 15 →
        s.dev.hostOrUmr base.toNat = true → tget h.rings rn.val = none → tget h.lines (rn.val / 16) = some l → l.pd = x.pd →
        s.dev.fwHolds l.addr 64 = none → s.dev.fwRead l.addr 64 ext = .ok bs →
        let t := lineTail bs (rn.val % 16)
        ∃ d, exec (.ringCreate c ext) s = .next { s with dev := d } ∧ AdmDone s.dev d c .ok 0 0 ∧
          { d with host := h, tiers := s.dev.tiers, coh := s.dev.coh } = s.dev ∧
          tget d.host.rings rn.val = some { ctx := n.val, cls := cls.val, base := base, log2 := lg, head := t, tail := t } ∧
          (∀ k, k / 16 ≠ rn.val / 16 → tget d.host.rings k = tget h.rings k) ∧
          (∀ (k : Fin 16) (r : Ring), k.val ≠ rn.val % 16 → tget h.rings (rn.val / 16 * 16 + k.val) = some r →
            tget d.host.rings (rn.val / 16 * 16 + k.val) = some
              (if !r.enabled || r.overrun || r.destroying then r
               else if 2 ^ r.log2 < (lineTail bs k.val - r.head).toNat then { r with overrun := true, tail := r.head }
               else { r with tail := lineTail bs k.val })))) ∧
    (∀ (rn : Fin 16384) (r : Ring), opsAre c [BitVec.ofNat 64 rn.val] → tget h.rings rn.val = some r → r.destroying = false →
      ∃ d, exec (.ringDestroy c) s = .next { s with dev := d } ∧ AdmTaken s.dev d c (.ringDestroy rn.val) ∧
        tget d.host.rings rn.val = some { r with destroying := true, enabled := false } ∧ { d with host := h } = s.dev) ∧
    (∀ (l : Fin 1024) (pd : Fin 256) (a : Word), opsAre c [BitVec.ofNat 64 l.val, BitVec.ofNat 64 pd.val, a] → a.toNat % 64 = 0 → a.toNat < 2 ^ 56 →
      (h.rings.any (fun r => r.1 / 16 == l.val) = false →
        ∃ d, exec (.dblineSet c) s = .next { s with dev := d } ∧ AdmDone s.dev d c .ok 0 0 ∧
          only d { h with lines := tput h.lines l.val { pd := BitVec.ofNat 8 pd.val, addr := a } }) ∧
      (h.rings.any (fun r => r.1 / 16 == l.val) = true →
        ∃ d, exec (.dblineSet c) s = .next { s with dev := d } ∧ AdmDone s.dev d c .busy 0 0 ∧ only d h)) ∧
    (∀ (k : Fin 2) (n : Nat), opsAre c [BitVec.ofNat 64 k.val, BitVec.ofNat 64 (64 * 2 ^ 20 * n)] → n < 2 ^ 30 → s.dev.faults.contain = none →
      (Two.get s.dev.sched.half (halfOfNat k.val)).saveBytes ≤ 64 * 2 ^ 20 * n + s.dev.saveFree (halfOfNat k.val) →
      s.dev.hbmUsed (halfOfNat k.val) + 64 * n ≤ s.dev.hbmMiB (halfOfNat k.val) + (Two.get s.dev.sched.half (halfOfNat k.val)).saveBytes / 2 ^ 20 →
      ∃ d, exec (.saveArea c) s = .next { s with dev := d } ∧ AdmDone s.dev d c .ok 0 0 ∧
        (Two.get d.sched.half (halfOfNat k.val)).saveBytes = 64 * 2 ^ 20 * n ∧ { d with host := h, sched := s.dev.sched } = s.dev)

/-- Table 14.8, R195, R198, R219, R315, R318 to R323, R329, R441, R443: registering, enabling, disabling and freeing a
placement region; sizing the context pool, taking and freeing its objects, and dumps; fault queues, replies to translation
faults, and invalidation. -/
def Obligations.AdminCommandsOnRegionsRennetAndTranslation : Prop :=
  ∀ (s : State) (c : AdmCmd), s.dev.adminOpen = true → c.rsvd = false →
    let h := s.dev.host
    let only (d : Dev) (t : HostIf) : Prop := { d with host := h } = s.dev ∧ { d.host with admHead := h.admHead, evtQ := h.evtQ } = t
    (∀ (r : Fin 4096) (n : Fin 4096) (off len : Nat) (vb : Word) (cnt : BitVec 18) (f : Bool) (ps : List Nat),
      opsAre c [BitVec.ofNat 64 r.val, BitVec.ofNat 64 n.val, BitVec.ofNat 64 (4096 * off), BitVec.ofNat 64 (4096 * len), vb, BitVec.ofNat 64 cnt.toNat, BitVec.ofNat 64 (b2n f)] →
      0 < len → off + len ≤ 2 ^ 24 → vb.toNat % 4096 = 0 → s.dev.ctxLive n.val = true → tget h.regions r.val = none →
      (h.regions.any (fun p => 4096 * off < p.2.off + p.2.len && p.2.off < 4096 * (off + len)) = false →
        s.dev.regionPages n.val f len vb.toNat = .ok ps →
        ∃ d, exec (.regionReg c) s = .next { s with dev := d } ∧ AdmDone s.dev d c .ok 0 0 ∧
          only d { h with regions := tput h.regions r.val { ctx := n.val, off := 4096 * off, len := 4096 * len, vbase := vb, pages := ps, counter := if cnt.getLsbD 17 then some (cnt.toNat % 2 ^ 17) else none, read := f } }) ∧
      (h.regions.any (fun p => 4096 * off < p.2.off + p.2.len && p.2.off < 4096 * (off + len)) = true →
        ∃ d, exec (.regionReg c) s = .next { s with dev := d } ∧ AdmDone s.dev d c .overlap 0 0 ∧ only d h)) ∧
    (∀ (r : Fin 4096) (x : PRegion), opsAre c [BitVec.ofNat 64 r.val] → tget h.regions r.val = some x →
      (x.st = .off ∨ x.st = .enabling → (x.frames.all (fun f => s.dev.backing (f * frameSize) != .cave)) = true →
        ∃ d, exec (.regionEnable c) s = .next { s with dev := d } ∧ AdmTaken s.dev d c (.regionEnable r.val) ∧
          tget d.host.regions r.val = some { x with st := .enabling } ∧ { d with host := h } = s.dev) ∧
      (x.st ≠ .off →
        ∃ d, exec (.regionDisable c) s = .next { s with dev := d } ∧ AdmTaken s.dev d c (.regionDisable r.val) ∧
          tget d.host.regions r.val = some { x with st := .disabling } ∧ { d with host := h } = s.dev) ∧
      (x.st = .off →
        ∃ d, exec (.regionFree c) s = .next { s with dev := d } ∧ AdmDone s.dev d c .ok 0 0 ∧ tget d.host.regions r.val = none ∧
          (∀ k, k ≠ r.val → tget d.host.regions k = tget h.regions k) ∧ { d with host := h } = s.dev)) ∧
    (∀ (k : Fin 2) (n : Nat), n ≤ 16 → opsAre c [BitVec.ofNat 64 k.val, BitVec.ofNat 64 (4096 * n)] →
      let f := halfOfNat k.val
      let old := Two.get s.dev.rennet.pool f
      (s.dev.objsHeld f (min old (4096 * n)) (max old (4096 * n)) = false →
        ∃ d, exec (.rennetPools c) s = .next { s with dev := d } ∧ AdmDone s.dev d c .ok 0 0 ∧ Two.get d.rennet.pool f = 4096 * n ∧
          { d with host := h, rennet := s.dev.rennet } = s.dev ∧ d.rennet.objs = s.dev.rennet.objs) ∧
      (s.dev.objsHeld f (min old (4096 * n)) (max old (4096 * n)) = true →
        ∃ d, exec (.rennetPools c) s = .next { s with dev := d } ∧ AdmDone s.dev d c .busy 0 0 ∧ only d h)) ∧
    (∀ (n : Fin 4096) (k : Fin 2) (q i : Nat), opsAre c [BitVec.ofNat 64 n.val, BitVec.ofNat 64 k.val, BitVec.ofNat 64 q] → 0 < q → q ≤ 65536 →
      s.dev.ctxLive n.val = true → s.dev.freeRun (halfOfNat k.val) q = some i →
      ∃ d, exec (.rennetAlloc c) s = .next { s with dev := d } ∧ AdmDone s.dev d c .ok (65536 * k.val + i) 0 ∧
        (∀ j, j < q → d.obj (65536 * k.val + i + j) = { owner := some (.ctx n.val) }) ∧
        (∀ j, j < 65536 * k.val + i ∨ 65536 * k.val + i + q ≤ j → d.obj j = s.dev.obj j) ∧
        { d with host := h, rennet := s.dev.rennet } = s.dev) ∧
    (∀ (i k : Nat), opsAre c [BitVec.ofNat 64 i, BitVec.ofNat 64 k] → 0 < k → i + k ≤ 131072 → s.dev.rennet.waiters = [] →
      s.dev.chain.waitSend = [] → s.dev.chain.transit = [] → (∀ j, j < k → ∃ n, (s.dev.obj (i + j)).owner = some (.ctx n)) →
      ∃ d, exec (.rennetFree c) s = .next { s with dev := d } ∧ AdmDone s.dev d c .ok 0 0 ∧ (∀ j, j < k → d.obj (i + j) = {}) ∧
        (∀ j, j < i ∨ i + k ≤ j → d.obj j = s.dev.obj j) ∧ d.mem = s.dev.mem) ∧
    (∀ a n : Word, opsAre c [a, n] → a.toNat < 2 ^ 56 →
      ∃ d, exec (.dumpReg c) s = .next { s with dev := d } ∧ AdmDone s.dev d c .ok 0 0 ∧
        d.rennet = { s.dev.rennet with dumpBuf := a, dumpLen := n.toNat } ∧ { d with host := h, rennet := s.dev.rennet } = s.dev) ∧
    (∀ (n : Fin 4096), opsAre c [BitVec.ofNat 64 n.val] → n.val = 4095 ∨ (s.dev.ctx? n.val).isSome = true →
      ∃ d x, exec (.dump c) s = .next { s with dev := d } ∧ AdmTaken s.dev d c .dump ∧ d.rennet.dumps = s.dev.rennet.dumps ++ [x] ∧
        x.slot = some h.admHead ∧ x.ctx = n.val ∧ x.cause = false ∧ { d with host := h, rennet := s.dev.rennet } = s.dev) ∧
    (∀ (n : Fin 4096) (a b : Word) (lg : Nat) (x : Ctx), opsAre c [BitVec.ofNat 64 n.val, a, BitVec.ofNat 64 lg, b] → a.toNat % 32 = 0 → a.toNat < 2 ^ 56 → 6 ≤ lg → lg ≤ 16 →
      bindOk b.toNat = true → s.dev.hostOrUmr a.toNat = true → s.dev.ctx? n.val = some x → x.destroying = false →
      ∃ d, exec (.faultQueue c) s = .next { s with dev := d } ∧ AdmDone s.dev d c .ok 0 0 ∧
        only d { h with ctxs := tput h.ctxs n.val { x with fq := some { addr := a, log2 := lg, bind := b } } }) ∧
    (∀ (f : Fin 2048) (r : Bool), opsAre c [BitVec.ofNat 64 f.val, BitVec.ofNat 64 (b2n r)] →
      let hf := halfOfNat (f.val / 1024)
      (tget (Two.get s.dev.xlate hf).recs (f.val % 1024) = none →
        ∃ d, exec (.faultReply c) s = .next { s with dev := d } ∧ AdmDone s.dev d c .noFault 0 0 ∧ only d h) ∧
      (∀ q, tget (Two.get s.dev.xlate hf).recs (f.val % 1024) = some q → (Two.get s.dev.xlate hf).waiting = [] → q.users = [] →
        ∃ d, exec (.faultReply c) s = .next { s with dev := d } ∧ AdmDone s.dev d c .ok 0 0 ∧
          tget (Two.get d.xlate hf).recs (f.val % 1024) = none ∧ { d with host := h, xlate := s.dev.xlate } = s.dev)) ∧
    (∀ (n : Fin 4096) (lo len : Word), opsAre c [BitVec.ofNat 64 n.val, lo, len] → s.dev.ctxLive n.val = true →
      h.regions.any (fun r => r.2.ctx == n.val && r.2.st == .on &&
        (len == 0 || (r.2.vbase.toNat < lo.toNat + len.toNat && lo.toNat < r.2.vbase.toNat + r.2.len))) = false →
      ∃ d, exec (.invalidate c) s = .next { s with dev := d } ∧ AdmTaken s.dev d c (.invalidate n.val) ∧ d.host.admBusy = true ∧
        { d with host := h, xlate := s.dev.xlate, tongs := s.dev.tongs } = s.dev ∧
        (∀ (hf : Half) (t : TlbEnt), t ∈ (Two.get d.xlate hf).tlb ↔ (t ∈ (Two.get s.dev.xlate hf).tlb ∧
          ¬ (t.ctx = n.val ∧ (len = 0 ∨ (t.page * 2 ^ t.sizeLog < lo.toNat + len.toNat ∧ lo.toNat < t.page * 2 ^ t.sizeLog + 2 ^ t.sizeLog))))))

/-- Table 14.8, R332 to R349, R361, R369, R390, R456: allocating frames backs each with a tier its policy allows and makes
their bytes zero; freeing, attaching, detaching, policy, moves, queries and quotas act on the allocation or context they
name; tier, Cave, Brine and margin parameters are stored; and a background command that has nothing left to do completes. -/
def Obligations.AdminCommandsOnMemoryComplete : Prop :=
  ∀ (s : State),
    let h := s.dev.host
    (∀ c : AdmCmd, s.dev.adminOpen = true → c.rsvd = false →
      let only (d : Dev) (t : HostIf) : Prop := { d with host := h } = s.dev ∧ { d.host with admHead := h.admHead, evtQ := h.evtQ } = t
      let tiersOnly (d : Dev) (t : Tiers) : Prop := { d with host := h, tiers := s.dev.tiers } = s.dev ∧ d.tiers = t
      (∀ (first count : Nat) (n : Fin 4096) (p : Fin 4) (il hm : Bool) (id : Nat) (d0 : Dev),
        opsAre c [BitVec.ofNat 64 first, BitVec.ofNat 64 count, BitVec.ofNat 64 n.val, BitVec.ofNat 64 p.val, BitVec.ofNat 64 (b2n il), BitVec.ofNat 64 (b2n hm)] →
        0 < count → first + count ≤ 2 ^ 25 → s.dev.ctxLive n.val = true → (s.dev.tiers.allocs.any (fun a => spans first count a.2)) = false →
        (List.range 65536).find? (fun i => !thas s.dev.tiers.allocs i) = some id →
        allocFrames count first { policy := policyOf p.val, il := il, home := halfOf hm, ctx := n.val, alloc := id } s.dev.trimCave = some d0 → s.Safe →
        ∃ d, exec (.frameAlloc c) s = .next { s with dev := d } ∧ AdmDone s.dev d c .ok id 0 ∧
          tget d.tiers.allocs id = some { first := first, count := count, ctx := n.val, policy := policyOf p.val, il := il, home := halfOf hm } ∧
          d.tiers.frames = d0.tiers.frames ∧ (∀ a, first * frameSize ≤ a → a < (first + count) * frameSize → cellGet d.mem a = 0) ∧
          SameBytesBut (first * frameSize) (count * frameSize) s.dev d ∧
          { d with host := h, tiers := s.dev.tiers, mem := s.dev.mem, poison := s.dev.poison, cave := s.dev.cave } = s.dev) ∧
      (∀ (i : Fin 65536) (a : Alloc), tget s.dev.tiers.allocs i.val = some a → a.freeing = false →
        let i' : Word := BitVec.ofNat 64 i.val
        let t := s.dev.tiers
        (opsAre c [i'] →
          ∃ d, exec (.frameFree c) s = .next { s with dev := d } ∧ AdmTaken s.dev d c (.frameFree i.val) ∧
            tget d.tiers.allocs i.val = some { a with freeing := true } ∧ (NoneHeld s.dev → ∀ f, a.first ≤ f → f < a.first + a.count → tget d.tiers.frames f = none) ∧
            (NoneHeld s.dev → ∀ (g : Fin 64) l x, a.has l = true → tget (s.dev.core g).lines l = some x → stable x.st = true → tget (d.core g).lines l = none)) ∧
        (∀ n : Fin 4096, opsAre c [i', BitVec.ofNat 64 n.val] →
          (s.dev.ctxLive n.val = true → n.val ≠ a.ctx → a.attach.contains n.val = false →
            ∃ d, exec (.frameAttach c) s = .next { s with dev := d } ∧ AdmDone s.dev d c .ok 0 0 ∧
              tiersOnly d { t with allocs := tput t.allocs i.val { a with attach := a.attach ++ [n.val] } }) ∧
          (a.attach.contains n.val = true →
            ∃ d, exec (.frameDetach c) s = .next { s with dev := d } ∧ AdmDone s.dev d c .ok 0 0 ∧
              tiersOnly d { t with allocs := tput t.allocs i.val { a with attach := a.attach.filter (· != n.val) } })) ∧
        (∀ p : Fin 4, opsAre c [i', BitVec.ofNat 64 p.val] →
          ∃ d, exec (.framePolicy c) s = .next { s with dev := d } ∧ AdmDone s.dev d c .ok 0 0 ∧
            tiersOnly d { t with allocs := tput t.allocs i.val { a with newPolicy := some (policyOf p.val) } }) ∧
        (∀ (p : Fin 4) (b : Word), 0 < p.val → b.toNat < 2 ^ 56 → opsAre c [i', BitVec.ofNat 64 p.val, b] →
          ∃ d, exec (.frameMove c) s = .next { s with dev := d } ∧ AdmTaken s.dev d c (.frameMove i.val (backOf p.val) b) ∧
            tiersOnly d { t with moveJobs := t.moveJobs ++ [(h.admHead, i.val, backOf p.val, b)] })) ∧
      (∀ (first count : Nat) (a : Word) (k : Nat), opsAre c [BitVec.ofNat 64 first, BitVec.ofNat 64 count, a] → first + count ≤ 2 ^ 25 → a.toNat < 2 ^ 56 →
        s.dev.target true a.toNat = .host k →
        ∃ d, exec (.frameQuery c) s = .next { s with dev := d } ∧ AdmDone s.dev d c .ok 0 0 ∧
          d.out = s.dev.out ++ [.hostWrite k ((List.range count).flatMap (fun i => s.dev.frameRec (first + i))) none] ∧
          { d with host := h, out := s.dev.out } = s.dev) ∧
      (∀ (n : Fin 4096) (p : Fin 4) (q : Nat) (x : Ctx), 0 < p.val → q ≤ 2 ^ 25 → opsAre c [BitVec.ofNat 64 n.val, BitVec.ofNat 64 p.val, BitVec.ofNat 64 q] →
        s.dev.ctx? n.val = some x → x.destroying = false →
        ∃ d, exec (.quotaSet c) s = .next { s with dev := d } ∧ AdmDone s.dev d c .ok 0 0 ∧
          only d { h with ctxs := tput h.ctxs n.val { x with quota := lset x.quota (p.val - 1) q } }) ∧
      (∀ e p m w b g : Nat, opsAre c [BitVec.ofNat 64 e, BitVec.ofNat 64 p, BitVec.ofNat 64 m, BitVec.ofNat 64 w, BitVec.ofNat 64 b, BitVec.ofNat 64 g] →
        1 ≤ e → e ≤ 1000 → p ≤ 255 → m < p → 1 ≤ w → w ≤ 25 → b ≤ 128 → 1 ≤ g → g ≤ 16 →
        ∃ d, exec (.tierParams c) s = .next { s with dev := d } ∧ AdmDone s.dev d c .ok 0 0 ∧
          tiersOnly d { s.dev.tiers with params := { epoch := e, promote := p, demote := m, watermark := w, migbw := b, staging := g } }) ∧
      (∀ n : Nat, 7 ≤ n → n ≤ 40 → opsAre c [BitVec.ofNat 64 n] →
        ∃ d, exec (.caveParams c) s = .next { s with dev := d } ∧ AdmTaken s.dev d c (.caveParams n) ∧ { d with host := h } = s.dev) ∧
      (∀ n : Nat, 1 ≤ n → n ≤ 168 → opsAre c [BitVec.ofNat 64 n] →
        ∃ d, exec (.brinePeriod c) s = .next { s with dev := d } ∧ AdmDone s.dev d c .ok 0 0 ∧ d.hbm = { s.dev.hbm with brineHours := n } ∧
          { d with host := h, hbm := s.dev.hbm } = s.dev) ∧
      (∀ (a : Word) (k : Nat), opsAre c [a] → a.toNat < 2 ^ 56 → s.dev.target true a.toNat = .host k →
        (∃ d, exec (.caveHealth c) s = .next { s with dev := d } ∧ AdmDone s.dev d c .ok 0 0 ∧
          d.out = s.dev.out ++ [.hostWrite k s.dev.caveRec none] ∧ { d with host := h, out := s.dev.out } = s.dev) ∧
        (∃ d, exec (.cohStats c) s = .next { s with dev := d } ∧ AdmDone s.dev d c .ok 0 0 ∧
          d.out = s.dev.out ++ [.hostWrite k (Config.cohStats s.dev.coh.backInv.w s.dev.coh.backInv.e) none] ∧
          { d with host := h, out := s.dev.out } = s.dev)) ∧
      (∀ (f : Fin 2) (k : Fin 6) (v : Bool) (a : Word), opsAre c [BitVec.ofNat 64 f.val, BitVec.ofNat 64 k.val, BitVec.ofNat 64 (b2n v), a] → a.toNat < 2 ^ 56 →
        (s.dev.grants 5 = true → bit (Two.get s.dev.hbm.half (halfOfNat f.val)).usable.toNat k.val = true → s.dev.hbm.margin = none →
          ∃ d, exec (.hbmMargin c) s = .next { s with dev := d } ∧ AdmTaken s.dev d c .margin ∧ { d with host := h, hbm := s.dev.hbm } = s.dev ∧
            d.hbm = { s.dev.hbm with margin := some { slot := some h.admHead, half := halfOfNat f.val, stack := k, volt := v, buf := a, point := marginLo v, held := s.dev.power.pstate == .working } }) ∧
        (s.dev.grants 5 = false →
          ∃ d, exec (.hbmMargin c) s = .next { s with dev := d } ∧ AdmDone s.dev d c .forbidden 0 0 ∧ only d h))) ∧
    (∀ (slot : BitVec 16) (cid : BitVec 16),
      let done (d : Dev) : Prop := tget d.host.bg slot.toNat = none ∧ ∃ e, d.host.evtQ = h.evtQ ++ [e] ∧ e.kind = 1 ∧ e.status = .ok ∧
        e.info = BitVec.ofNat 32 (cid.toNat + 65536 * slot.toNat) ∧ e.a0 = 0
      (∀ n, tget h.bg slot.toNat = some (cid, .caveParams n) →
        ∃ d, exec (.adminCommandComplete slot) s = .next { s with dev := d } ∧ done d ∧ d.cave = { s.dev.cave with op := n } ∧
          { d with host := h, cave := s.dev.cave } = s.dev) ∧
      (∀ r, tget h.bg slot.toNat = some (cid, .ringDestroy r) → s.dev.sched.steps.any (fun p => p.2.ring == r) = false →
        ∃ d, exec (.adminCommandComplete slot) s = .next { s with dev := d } ∧ done d ∧ tget d.host.rings r = none ∧
          { d with host := h } = s.dev) ∧
      (∀ n, tget h.bg slot.toNat = some (cid, .invalidate n) → s.dev.usesLeft n = false →
        ∃ d, exec (.adminCommandComplete slot) s = .next { s with dev := d } ∧ done d ∧ d.host.admBusy = false ∧ { d with host := h } = s.dev) ∧
      (∀ (b : Background) (r : Nat) (e : Dev), tget h.bg slot.toNat = some (cid, b) → b ≠ .powerCold → (∀ m, b ≠ .secReturn m) →
        s.dev.bgEnd slot.toNat b = some (r, e) →
        ∃ d x, exec (.adminCommandComplete slot) s = .next { s with dev := d } ∧ tget d.host.bg slot.toNat = none ∧
          d = e.modHost (fun t => { t with bg := tdel t.bg slot.toNat, evtQ := t.evtQ ++ [x] }) ∧ x.kind = 1 ∧ x.status = .ok ∧
          x.info = BitVec.ofNat 32 (cid.toNat + 65536 * slot.toNat) ∧ x.a0 = BitVec.ofNat 64 r) ∧
      (tget h.bg slot.toNat = some (cid, .powerCold) → s.dev.chain.joined = false →
        ∃ d, exec (.adminCommandComplete slot) s = .next { s with dev := d } ∧ d.power.pstate = .cold) ∧
      (tget h.bg slot.toNat = none → exec (.adminCommandComplete slot) s = .next s))


/-! ### Reset, the machine as a whole, and encodings -/

/-- R431, R546, R553, Table 19.1, Table 9.1: before a start the cores are held in reset and the engines idle, the rings and
apertures are off, no vector is unmasked, the node is in no Chain, only the Hearth has power, and MR0 holds the fuse state.
That the machine is met there, waiting for PERST_N, is the model's choice (log 1), and so is the empty memory (log 6). -/
def Obligations.ResetHoldsTheMachineIdle : Prop :=
  let d := State.reset.dev
  State.reset.Safe ∧ State.reset.pending = [] ∧ d.mem = [] ∧ (∀ h, (d.core h).run = .reset ∧ (d.core h).starting = false) ∧
  (∀ e, (d.eng e).step = none ∧ (d.eng e).run = .idle) ∧ d.host.adm = {} ∧ d.host.evt = {} ∧ (∀ i, (d.apt i).en = false) ∧
  (∀ v, (tgetD d.host.msix v {}).mask = true) ∧ d.chain.joined = false ∧ (∀ n, n < 56 → d.domSt n = .gated) ∧ d.sched.steps = [] ∧
  d.sec.session = none ∧ d.sec.mrs = [extendMr 0 (fuseDigest 0 0), 0, 0, 0] ∧ d.writes = [] ∧ d.coh.noc = [] ∧ d.coh.txns = []

/-- What every step keeps, from every state and whatever command is in front: the memory list stays in canonical form, so
that equal memories are equal lists. -/
def Obligations.EveryStepKeepsTheStateSafe : Prop := ∀ (s t : State), s.Safe → step s = .next t → t.Safe

/-- R133, R134, Tables 4.3 to 4.5, 4.7 and 4.8: every Xanvil instruction's word decodes to that instruction, with every
operand at every value that its layout admits; and each word that decodes is the word of what it decodes to, so that no bit
of it is dropped and no reserved bit is read past. -/
def Obligations.XanvilWordsAndInstructionsAgree : Prop :=
  (∀ (e : Fin 128) (rd rs1 rs2 : Fin 32) (sc : Scope) (b : Bool) (fd : Fin 8) (i : Instr),
    i ∈ [Instr.xaissue e rd rs1 b, .xawait e rs1, .xapoll e rd rs1, .xtissue e rd rs1 rs2 b, .xtwait e rs1, .xtpoll e rd rs1,
         .xrsig e rs1 rs2 sc, .xradd e rd rs1 rs2 sc, .xrwait e rd rs1 rs2 sc, .xacq e sc, .xrel e sc, .xacqrel e sc,
         .xlaW e rd rs1 sc [], .xlaD e rd rs1 sc [], .xsrW e rs1 rs2 sc, .xsrD e rs1 rs2 sc, .xvfence e,
         .xvcvtf e rd rs2 rs1 fd b, .xvcvtt e rd rs2 rs1 fd b, .xvcvttSr e rd rs2 rs1 fd b, .xvscale e rd rs2 rs1 fd b,
         .xvsclf e rd rs2 rs1 fd b, .xvdot e rd rs2 rs1 fd b] →
    ∃ w, encodeX i = some w ∧ decodeX e w = some i) ∧
  (∀ (e : Fin 128) (w : BitVec 32) (i : Instr), decodeX e w = some i → encodeX i = some w)

/-- Tables 4.3, 4.4, 4.5, 4.7 and 4.8: words written out field by field decode to what they stand for, and words with a
reserved scope, a reserved modifier or a nonzero unused field are no Xanvil instruction. -/
def Obligations.WordsDecodeAsTheTablesLayThemOut : Prop :=
  ∀ e : Fin 128,
    decodeX e 0x0005850B = some (.xaissue e 10 11 false) ∧ decodeX e 0x0205850B = some (.xaissue e 10 11 true) ∧
    decodeX e 0x170C242B = some (.xvdot e 8 16 24 2 true) ∧ decodeX e 0x00C5A00B = some (.xrsig e 11 12 .engine) ∧
    decodeX e 0x0400300B = some (.xacq e .half) ∧ decodeX e 0x0000400B = some (.xvfence e) ∧
    decodeX e 0x0A00300B = none ∧ decodeX e 0x0405850B = none ∧ decodeX e 0x0015850B = none ∧ decodeX e 0x1802202B = none ∧
    decodeRow e 0x00053583 = some (.engineLoad e 10 0 (.int 11 3 true) [])


/-! ### Where the commands of the host, of security and of debug complete -/

/-- R552 to R558, R539 to R541, R546 to R551, Table 18.3: where each command of the TAP, the mailbox, the debug modules, the
signed objects, attestation and provisioning completes with its own effect: the conditions are on the state and the operands
alone. `ok i` says that the admin command `i` answers a next state in which it is reported OK, `runs i p` that command `i` answers
one of which `p` holds. -/
def Obligations.SecurityAndDebugCommandsComplete : Prop :=
  ∀ s : State,
    let runs (i : Instr) (p : Dev → Prop) : Prop := ∃ d, exec i s = .next { s with dev := d } ∧ p d
    (s.dev.power.vinOk = true →
      runs .idcode (fun d => d.sec.ir = 0x01) ∧ (∀ pins, runs (.samplePreload pins) (fun d => d.sec.boundary = pins)) ∧
      (∀ pins, runs (.extest pins) (fun d => d.sec.ir = 0x03 ∧ d.sec.boundary = pins)) ∧
      (∀ v, runs (.dtmcs v) (fun d => d.sec.ir = 0x10)) ∧ runs .bypass (fun d => d.sec.ir = 0xFF) ∧
      (s.dev.sec.mboxReturn = none → runs (.rindMbox .status) (fun d => d.out = s.dev.out ++ [.mbox .ok (s.dev.report 0)]))) ∧
    (∀ die v, s.dev.debugUp = true → s.dev.sec.mods.length = 3 →
      runs (.dmi die 4 true v) (fun d => (d.dbgMod die).data.toNat % 2 ^ 32 = v.toNat)) ∧
    (∀ (t : DbgHart) (h : Fin 64), dbgTarget t.die t.hartsel.val = .core h → s.dev.dbgReach (.core h) = (.open_, s.dev) →
      runs (.hartHalt t) (fun d => (d.core h).halted = true) ∧
      ((s.dev.core h).halted = true →
        runs (.hartResume t) (fun d => (d.core h).halted = false) ∧
        runs (.singleStep t) (fun d => (d.core h).halted = false ∧ (d.core h).stepping = true) ∧
        (s.dev.sec.mods.length = 3 → (s.dev.dbgMod t.die).cmderr = 0 →
          runs (.abstractCommand t (.readReg 0x100A)) (fun d => (d.dbgMod t.die).data = (s.dev.core h).rx 10)))) ∧
    (∀ (die : Die) (a v : Word) (off : Nat), s.dev.debugUp = true → s.dev.sec.session.isSome = true → a.toNat % 8 = 0 →
      s.dev.target false a.toNat = .vat off → s.dev.dbgAsk 2 (pdVat (vatHalf off)) = (.open_, s.dev) → s.dev.sec.mods.length = 3 →
      runs (.systemBusAccess die a false v) (fun d => (d.dbgMod die).sbdata = BitVec.ofNat 64 (ofLe (s.dev.rd off 8)))) ∧
    runs .nonceExpiry (fun d => d.sec.nonce = none) ∧ runs .sessionExpiry (fun d => d.sec.session = none) ∧
    (s.dev.host.linkUp = true →
      (∀ (nonce : BitVec 256) (o : List Byte) (d1 : Dev), s.dev.attestBytes nonce.toNat = some (o, d1) →
        runs (.doeAttest nonce) (fun d => d.out = s.dev.out ++ [.doe o])) ∧
      runs .doeLog (fun d => d.out = s.dev.out ++ [.doe (s.dev.sec.log.flatMap logBytes)]) ∧
      runs .doeCert (fun d => d.out = s.dev.out ++ [.doe Config.certificate])) ∧
    (∀ c : AdmCmd, s.dev.adminOpen = true → c.rsvd = false →
      let ok (i : Instr) : Prop := ∃ d, exec i s = .next { s with dev := d } ∧ AdmDone s.dev d c .ok 0 0
      (opsAre c [] → ok (.secClose c)) ∧
      (∀ a : Word, a.toNat < 2 ^ 56 → opsAre c [a] → ok (.secStatus c) ∧ ok (.secNonce c) ∧ ok (.secCert c)) ∧
      (∀ a n : Word, a.toNat < 2 ^ 56 → opsAre c [a, n] → ok (.attestLog c)) ∧
      (∀ (b a : Word) (nonce bs o : List Byte) (d1 : Dev), opsAre c [b, a] → a.toNat < 2 ^ 56 → b.toNat < 2 ^ 56 →
        s.dev.fwHolds b 32 = none → s.dev.fwRead b 32 nonce = .ok bs →
        s.dev.attestBytes (ofLe bs) = some (o, d1) → ok (.attest c nonce)) ∧
      (∀ (a : Word) (rec bs : List Byte), opsAre c [a] → a.toNat < 2 ^ 56 → s.dev.fwHolds a 128 = none → s.dev.fwRead a 128 rec = .ok bs → s.dev.coldBusy = false →
        s.dev.sec.life = .blank → s.dev.sec.log.length < 4096 → ofLe bs % 2 ^ 256 ≠ 0 → s.dev.chain.joined = false →
        runs (.secProvision c rec) (fun d => d.sec.owned = true ∧ d.power.pstate = .cold)) ∧
      (∀ (a : Word) (obj bs : List Byte), opsAre c [a, 18665] → a.toNat < 2 ^ 56 → s.dev.fwHolds a 18665 = none →
        s.dev.fwRead a 18665 obj = .ok bs → s.dev.sec.log.length < 4096 →
        s.dev.sigCheck bs = none →
        let body := bs.take 128
        let kind := ofLe body / 2 ^ 16 % 256
        let val := ofLe body / 2 ^ 512 % 2 ^ 256
        (kind = 1 → ok (.debugAuth c obj)) ∧ (kind = 2 → s.dev.chain.joined = false → ok (.rotateFabric c obj)) ∧
        (kind = 3 → ok (.debugKey c obj)) ∧ (kind = 4 → ok (.cosignKey c obj)) ∧
        (kind = 5 → s.dev.sec.svn ≤ val → val ≤ 64 → val ≤ s.dev.boot.svnImage.toNat → ok (.advanceSvn c obj)) ∧
        (kind = 6 → s.dev.coldBusy = false → s.dev.chain.joined = false →
          runs (.returnAuth c obj) (fun d => AdmTaken s.dev d c (.secReturn body) ∧ d.sec.returned = true))))

/-- Table 14.8, R434, R454 to R460, R576 to R588: where each command of the rings, of Function Level Reset, of the set-up registers and
of the admin ring completes with its own effect: the conditions are on the state and the operands alone. `ok i` says that the
admin command `i` answers a next state in which it is reported OK, `taken i b` that it answers one in which it is accepted as
background command `b`, `runs i p` that command `i` answers one of which `p` holds. -/
def Obligations.HostSideCommandsComplete : Prop :=
  ∀ s : State,
    let h := s.dev.host
    let runs (i : Instr) (p : Dev → Prop) : Prop := ∃ d, exec i s = .next { s with dev := d } ∧ p d
    (∀ (e : Event) (t : List Event), h.evtRoom ≠ 0 → h.evtQ = e :: t → h.evtBind.getLsbD 0 = false →
      runs .eventRecordPost (fun d => d.host.evtTail = h.evtTail + 1)) ∧
    (∀ v, runs (.evtHeadWrite v) (fun d => d.host.evtHead = v)) ∧ (∀ v, runs (.adminTailWrite v []) (fun d => d.host.admTail = v)) ∧
    (∀ w : Word, w.getLsbD 8 = true →
      (h.adm.en = false → h.adm.draining = false → 4 ≤ fld w.toNat 0 4 → fld w.toNat 0 4 ≤ 12 →
        (h.admTail - h.admHead).toNat ≤ 2 ^ fld w.toNat 0 4 → runs (.adminRingEnable w) (fun d => d.host.adm.en = true)) ∧
      (h.evt.en = false → h.evt.draining = false → 8 ≤ fld w.toNat 0 5 → fld w.toNat 0 5 ≤ 16 →
        runs (.eventRingEnable w) (fun d => d.host.evt.en = true))) ∧
    (∀ w : Word, w.getLsbD 8 = false →
      (h.adm.en = true → runs (.adminRingDisable w) (fun d => d.host.adm.en = false ∧ d.host.adm.draining = true)) ∧
      (h.evt.en = true → runs (.eventRingDisable w) (fun d => d.host.evt.en = false ∧ d.host.evt.draining = true))) ∧
    (h.admBusy = false → runs .adminRingDrainDone (fun d => d.host.adm.draining = false)) ∧
    runs .eventRingDrainDone (fun d => d.host.evt.draining = false) ∧
    runs .functionLevelReset (fun d => d.host.rings = [] ∧ d.host.ctxs = [] ∧ d.host.regions = [] ∧ d.host.adm = {}) ∧
    (∀ g : Fin 64, s.dev.boot.st = .ready → s.dev.unitUp (coreUnit g) = true → (s.dev.core g).run = .reset →
      (s.dev.core g).starting = false → (Two.get s.dev.regs.rvec (halfOf (decide (32 ≤ g.val)))).toNat < 2 ^ 34 →
      s.dev.domSt (pdGroup (halfOf (decide (32 ≤ g.val))) (g.val % 32 / 8)) = .on →
      runs (.hartRelease g) (fun d => (d.core g).run = .running)) ∧
    (∀ n up, runs (.gpioEdge n up) (fun d => d.regs.gpioIn.getLsbD n.val = up)) ∧
    (∀ m, runs (.gpioStatClear m) (fun d => d.regs.edge = s.dev.regs.edge &&& ~~~m)) ∧
    (∀ v : Word, s.dev.debugUp = true → runs (.setupRegisterWrite 0x5010 8 v) (fun d => d.regs.rise = v.extractLsb' 0 16)) ∧
    (∀ (slot cid : BitVec 16) (n : Nat), tget h.bg slot.toNat = some (cid, .caveParams n) →
      runs (.adminCommandComplete slot) (fun d => tget d.host.bg slot.toNat = none ∧ d.cave.op = n)) ∧
    (∀ c : AdmCmd, s.dev.adminOpen = true → c.rsvd = false →
      let okAs (i : Instr) (r : Nat) : Prop := ∃ d, exec i s = .next { s with dev := d } ∧ AdmDone s.dev d c .ok r 0
      let ok (i : Instr) : Prop := okAs i 0
      let taken (i : Instr) (b : Background) : Prop := ∃ d, exec i s = .next { s with dev := d } ∧ AdmTaken s.dev d c b
      let num (l : List Nat) : Prop := opsAre c (l.map (BitVec.ofNat 64))
      (∀ n pd ring lg head bind md : Nat, num [n, pd, ring, lg, head, bind, md] → n < 4095 → pd < 256 → 6 ≤ lg → lg ≤ 16 →
        ring < 2 ^ 56 → ring % 32 = 0 → head < 2 ^ 56 → head % 8 = 0 → bind < 2 ^ 64 → bindOk bind = true → md < 2 ^ 24 →
        s.dev.ctx? n = none → ok (.ctxCreate c)) ∧
      (∀ (n : Nat) (x : Ctx), n < 4096 → s.dev.ctx? n = some x → x.destroying = false →
        (num [n] → ok (.acctNow c) ∧ ok (.flushImages c) ∧ taken (.dump c) .dump) ∧
        (num [n] → s.dev.sched.steps.any (fun p => p.2.ctx == n) = false →
          h.rings.any (fun r => r.2.ctx == n && r.2.enabled && !r.2.overrun && !r.2.destroying) = false → h.regions.any (fun r => r.2.ctx == n) = false →
          taken (.ctxDestroy c) (.ctxDestroy n)) ∧
        (∀ r p, num [n, r, p] → r < 2 ^ 44 → p < 2 ^ 20 → s.dev.ctxSteps n = false → ok (.ctxRoot c)) ∧
        (∀ la w f, num [n, la, w, f] → 1 ≤ la → la ≤ 16 → 1000 ≤ w → w ≤ 60000000 → f < 4 → ok (.ctxParams c)) ∧
        (∀ p, num [n, 0, p] → p < 2 ^ 32 → ok (.acctSet c)) ∧
        (∀ rn cls base lg (l : DbLine) (ext bs : List Byte), num [rn, n, cls, base, lg] → rn < 16384 → cls < 4 → base < 2 ^ 56 →
          base % 64 = 0 → 4 ≤ lg → lg ≤ 15 → s.dev.hostOrUmr base = true → tget h.rings rn = none →
          tget h.lines (rn / 16) = some l → l.pd = x.pd → s.dev.fwHolds l.addr 64 = none → s.dev.fwRead l.addr 64 ext = .ok bs → ok (.ringCreate c ext)) ∧
        (∀ r off len vb f ps, num [r, n, 4096 * off, 4096 * len, vb, 0, b2n f] → r < 4096 → 0 < len → off + len ≤ 2 ^ 24 →
          vb < 2 ^ 64 → vb % 4096 = 0 → tget h.regions r = none →
          h.regions.any (fun p => decide (4096 * off < p.2.off + p.2.len) && decide (p.2.off < 4096 * (off + len))) = false →
          s.dev.regionPages n f len vb = .ok ps → ok (.regionReg c)) ∧
        (∀ k q i, num [n, k, q] → k < 2 → 0 < q → q ≤ 65536 → s.dev.freeRun (halfOfNat k) q = some i →
          okAs (.rennetAlloc c) (65536 * k + i)) ∧
        (∀ a lg b, num [n, a, lg, b] → a < 2 ^ 56 → a % 32 = 0 → 6 ≤ lg → lg ≤ 16 → b < 2 ^ 64 → bindOk b = true →
          s.dev.hostOrUmr a = true → ok (.faultQueue c)) ∧
        (∀ lo len, num [n, lo, len] → h.regions.any (fun r => r.2.ctx == n && r.2.st == .on) = false → taken (.invalidate c) (.invalidate n)) ∧
        (∀ p q, num [n, p, q] → 0 < p → p < 4 → q ≤ 2 ^ 25 → ok (.quotaSet c)) ∧
        (∀ first count p il hm id d0, num [first, count, n, p, b2n il, b2n hm] → 0 < count → first + count ≤ 2 ^ 25 → p < 4 →
          s.dev.tiers.allocs.any (fun a => spans first count a.2) = false →
          (List.range 65536).find? (fun i => !thas s.dev.tiers.allocs i) = some id →
          allocFrames count first { policy := policyOf p, il := il, home := halfOf hm, ctx := n, alloc := id } s.dev.trimCave = some d0 →
          okAs (.frameAlloc c) id)) ∧
      (∀ rn (r : Ring), num [rn] → rn < 16384 → tget h.rings rn = some r → r.destroying = false → taken (.ringDestroy c) (.ringDestroy rn)) ∧
      (∀ l pd a, num [l, pd, a] → l < 1024 → pd < 256 → a < 2 ^ 56 → a % 64 = 0 → h.rings.any (fun r => r.1 / 16 == l) = false →
        ok (.dblineSet c)) ∧
      (∀ k, num [k, 0] → k < 2 → s.dev.faults.contain = none →
        (Two.get s.dev.sched.half (halfOfNat k)).saveBytes ≤ s.dev.saveFree (halfOfNat k) →
        s.dev.hbmUsed (halfOfNat k) ≤ s.dev.hbmMiB (halfOfNat k) + (Two.get s.dev.sched.half (halfOfNat k)).saveBytes / 2 ^ 20 → ok (.saveArea c)) ∧
      (∀ r (x : PRegion), num [r] → r < 4096 → tget h.regions r = some x →
        (x.st = .off → ok (.regionFree c)) ∧ (x.st = .on → taken (.regionEnable c) (.regionEnable r)) ∧
        taken (.regionDisable c) (.regionDisable r)) ∧
      (∀ k, num [k, 0] → k < 2 → s.dev.objsHeld (halfOfNat k) 0 (Two.get s.dev.rennet.pool (halfOfNat k)) = false → ok (.rennetPools c)) ∧
      (∀ i k, num [i, k] → 0 < k → i + k ≤ 131072 → (∀ j, j < k → ∃ n, (s.dev.obj (i + j)).owner = some (.ctx n)) → ok (.rennetFree c)) ∧
      (∀ a n : Word, a.toNat < 2 ^ 56 → opsAre c [a, n] → ok (.dumpReg c)) ∧
      (∀ f r q, num [f, b2n r] → f < 2048 → tget (Two.get s.dev.xlate (halfOfNat (f / 1024))).recs (f % 1024) = some q → ok (.faultReply c)) ∧
      (∀ i (a : Alloc), i < 65536 → tget s.dev.tiers.allocs i = some a → a.freeing = false →
        (num [i] → taken (.frameFree c) (.frameFree i)) ∧
        (∀ n, num [i, n] → n < 4096 → (s.dev.ctxLive n = true → ok (.frameAttach c)) ∧ (a.attach.contains n = true → ok (.frameDetach c))) ∧
        (∀ p, num [i, p] → p < 4 → ok (.framePolicy c)) ∧
        (∀ p b, num [i, p, b] → 0 < p → p < 4 → b < 2 ^ 56 → taken (.frameMove c) (.frameMove i (backOf p) (BitVec.ofNat 64 b)))) ∧
      (∀ first count a, num [first, count, a] → first + count ≤ 2 ^ 25 → a < 2 ^ 56 → ok (.frameQuery c)) ∧
      (∀ e p m w b g, num [e, p, m, w, b, g] → 1 ≤ e → e ≤ 1000 → p ≤ 255 → m < p → 1 ≤ w → w ≤ 25 → b ≤ 128 → 1 ≤ g → g ≤ 16 →
        ok (.tierParams c)) ∧
      (∀ n, num [n] → (7 ≤ n → n ≤ 40 → taken (.caveParams c) (.caveParams n)) ∧ (1 ≤ n → n ≤ 168 → ok (.brinePeriod c))) ∧
      (∀ a : Word, a.toNat < 2 ^ 56 → opsAre c [a] → ok (.caveHealth c) ∧ ok (.cohStats c)) ∧
      (∀ f k v a, num [f, k, b2n v, a] → f < 2 → k < 6 → a < 2 ^ 56 → s.dev.grants 5 = true →
        bit (Two.get s.dev.hbm.half (halfOfNat f)).usable.toNat k = true → s.dev.hbm.margin = none → taken (.hbmMargin c) .margin))
end

