-- ==== Sys2Proof/Laws/Bytes.lean ====
section
/-!
SUPPORT. Numbers and the bytes that spell them, least significant first.
-/
namespace Sys2Proof.Machine

@[simp] theorem leBytes_length (n v : Nat) : (leBytes n v).length = n := by
  induction n generalizing v with
  | zero => rfl
  | succ n ih => simp [leBytes, ih]

/-- What `n` bytes spell is the number they were made from, modulo their range. -/
theorem ofLe_leBytes (n v : Nat) : ofLe (leBytes n v) = v % 256 ^ n := by
  induction n generalizing v with
  | zero => simp [leBytes, ofLe, Nat.mod_one]
  | succ n ih =>
    simp only [leBytes, ofLe, ih, BitVec.toNat_ofNat]
    have h8 : v % 256 % 2 ^ 8 = v % 256 := Nat.mod_eq_of_lt (Nat.mod_lt _ (by decide))
    rw [h8, Nat.pow_succ', Nat.mod_mul]

/-- Bytes read from a number of bytes stay below their range. -/
theorem ofLe_lt (bs : List Byte) : ofLe bs < 256 ^ bs.length := by
  induction bs with
  | nil => simp [ofLe]
  | cons b t ih =>
    have := b.isLt
    simp only [ofLe, List.length_cons, Nat.pow_succ]
    omega

/-- A field's bits are the bits of the number from the field's place on. -/
theorem testBit_fld (v lo w i : Nat) : (fld v lo w).testBit i = (decide (i < w) && v.testBit (lo + i)) := by
  simp [fld, Nat.testBit_mod_two_pow, Nat.testBit_div_two_pow, Nat.add_comm]

/-- A field below bit `k` of `2 ^ k * x + a` is that field of `a`. -/
theorem fld_low {k a x lo w : Nat} (ha : a < 2 ^ k) (h : lo + w ≤ k) : fld (2 ^ k * x + a) lo w = fld a lo w := by
  apply Nat.eq_of_testBit_eq
  intro i
  rw [testBit_fld, testBit_fld, Nat.testBit_two_pow_mul_add _ ha]
  by_cases hi : i < w
  · rw [if_pos (by omega)]
  · simp [hi]

/-- A field from bit `k` on of `2 ^ k * x + a` is the field of `x` that many places lower. -/
theorem fld_high {k a x lo w : Nat} (ha : a < 2 ^ k) (h : k ≤ lo) : fld (2 ^ k * x + a) lo w = fld x (lo - k) w := by
  apply Nat.eq_of_testBit_eq
  intro i
  rw [testBit_fld, testBit_fld, Nat.testBit_two_pow_mul_add _ ha]
  simp [show ¬ lo + i < k by omega, show lo + i - k = lo - k + i by omega]

end Sys2Proof.Machine
end

