-- ==== Sys2Proof/Laws/Memory.lean ====
section
/-!
SUPPORT. The memory list: every operation keeps its canonical form, a byte reads as it was last written, and a write
leaves every other byte alone.
-/
namespace Sys2Proof.Machine

/-- The canonical form, as a chain of rising addresses with no zero byte. -/
theorem Memory.wf_iff (m : List Host.Cell) :
    Memory.wf m = true ↔ m.Pairwise (fun a b => a.1 < b.1) ∧ ∀ c ∈ m, c.2 ≠ 0 := by
  induction m with
  | nil => simp [Memory.wf]
  | cons a t ih =>
    cases t with
    | nil => simp [Memory.wf]
    | cons b t =>
      simp only [Memory.wf, Bool.and_eq_true, bne_iff_ne, decide_eq_true_eq, ih, List.pairwise_cons, List.mem_cons,
        forall_eq_or_imp]
      constructor
      · rintro ⟨⟨ha, hab⟩, ⟨hb, ht⟩, hz⟩
        exact ⟨⟨⟨hab, fun c hc => lt_trans hab (hb c hc)⟩, hb, ht⟩, ha, hz⟩
      · rintro ⟨⟨⟨hab, _⟩, hb, ht⟩, ha, hz⟩
        exact ⟨⟨ha, hab⟩, ⟨hb, ht⟩, hz⟩

/-- Every cell of a written list was there before or is the written one. -/
theorem mem_cellPut {m : List Host.Cell} {a : Nat} {b : Byte} {c : Host.Cell} (h : c ∈ cellPut m a b) :
    c ∈ m ∨ (c = (a, b) ∧ b ≠ 0) := by
  induction m with
  | nil =>
    simp only [cellPut] at h
    split at h
    · cases h
    · exact .inr ⟨by simpa using h, ‹_›⟩
  | cons p t ih =>
    obtain ⟨k, v⟩ := p
    simp only [cellPut] at h
    split at h
    · split at h
      · exact .inl h
      · rcases List.mem_cons.1 h with h | h
        · exact .inr ⟨h, ‹_›⟩
        · exact .inl h
    · split at h
      · split at h
        · exact .inl (List.mem_cons_of_mem _ h)
        · rcases List.mem_cons.1 h with h | h
          · exact .inr ⟨h, ‹_›⟩
          · exact .inl (List.mem_cons_of_mem _ h)
      · rcases List.mem_cons.1 h with h | h
        · exact .inl (h ▸ List.mem_cons_self)
        · rcases ih h with h | h
          · exact .inl (List.mem_cons_of_mem _ h)
          · exact .inr h

/-- Writing one byte keeps the canonical form. -/
theorem cellPut_wf {m : List Host.Cell} (a : Nat) (b : Byte) (h : Memory.wf m = true) : Memory.wf (cellPut m a b) = true := by
  rw [Memory.wf_iff] at h ⊢
  refine ⟨?_, fun c hc => ?_⟩
  · obtain ⟨hp, -⟩ := h
    induction m with
    | nil => simp only [cellPut]; split <;> simp
    | cons p t ih =>
      obtain ⟨k, v⟩ := p
      rw [List.pairwise_cons] at hp
      simp only [cellPut]
      split
      · split
        · exact List.pairwise_cons.2 hp
        · refine List.pairwise_cons.2 ⟨fun c hc => ?_, List.pairwise_cons.2 hp⟩
          rcases List.mem_cons.1 hc with rfl | hc
          · assumption
          · exact lt_trans (by assumption) (hp.1 c hc)
      · split
        · rename_i hk
          subst hk
          split
          · exact hp.2
          · exact List.pairwise_cons.2 ⟨hp.1, hp.2⟩
        · refine List.pairwise_cons.2 ⟨fun c hc => ?_, ih hp.2⟩
          rcases mem_cellPut hc with hc | ⟨rfl, -⟩
          · exact hp.1 c hc
          · show k < a
            omega
  · rcases mem_cellPut hc with hc | ⟨rfl, hb⟩
    · exact h.2 c hc
    · exact hb

theorem cellsPut_wf {m : List Host.Cell} (a : Nat) (bs : List Byte) (h : Memory.wf m = true) :
    Memory.wf (cellsPut m a bs) = true := by
  induction bs generalizing m a with
  | nil => exact h
  | cons b t ih => exact ih (a + 1) (cellPut_wf a b h)

/-- Dropping cells keeps the canonical form. -/
theorem filter_wf {m : List Host.Cell} (f : Host.Cell → Bool) (h : Memory.wf m = true) : Memory.wf (m.filter f) = true := by
  rw [Memory.wf_iff] at h ⊢
  exact ⟨h.1.filter f, fun c hc => h.2 c (List.mem_filter.1 hc).1⟩

theorem cellsClear_wf {m : List Host.Cell} (lo len : Nat) (h : Memory.wf m = true) : Memory.wf (cellsClear m lo len) = true :=
  filter_wf _ h

theorem cellsIn_wf {m : List Host.Cell} (lo len : Nat) (h : Memory.wf m = true) : Memory.wf (cellsIn m lo len) = true :=
  filter_wf _ h

theorem cellsRestore_wf {m : List Host.Cell} (cs : List Host.Cell) (h : Memory.wf m = true) :
    Memory.wf (cellsRestore m cs) = true := by
  induction cs generalizing m with
  | nil => exact h
  | cons c t ih => exact ih (cellPut_wf c.1 c.2 h)

/-- An address below every listed one reads as an unlisted byte. -/
theorem cellGet_lt {m : List Host.Cell} {a : Nat} (h : ∀ c ∈ m, a < c.1) : cellGet m a = 0 := by
  cases m with
  | nil => rfl
  | cons p t =>
    obtain ⟨k, v⟩ := p
    have hk : a < k := h _ List.mem_cons_self
    simp [cellGet, hk, Nat.ne_of_gt hk]

/-- A byte reads as it was last written. -/
theorem cellGet_cellPut_self {m : List Host.Cell} (a : Nat) (b : Byte) (h : Memory.wf m = true) :
    cellGet (cellPut m a b) a = b := by
  rw [Memory.wf_iff] at h
  obtain ⟨hp, -⟩ := h
  induction m with
  | nil =>
    simp only [cellPut]
    split
    · simp_all [cellGet]
    · simp [cellGet]
  | cons p t ih =>
    obtain ⟨k, v⟩ := p
    rw [List.pairwise_cons] at hp
    simp only [cellPut]
    split
    · split
      · rename_i hk hb
        simp [cellGet, hk, Nat.ne_of_gt hk, hb]
      · simp [cellGet]
    · split
      · rename_i hk
        subst hk
        split
        · rename_i hb
          rw [cellGet_lt (fun c hc => hp.1 c hc), hb]
        · simp [cellGet]
      · rename_i h1 h2
        have h3 : k ≠ a := fun e => h2 e.symm
        simp [cellGet, h1, h3, ih hp.2]

/-- A write leaves every other byte alone. -/
theorem cellGet_cellPut_ne {m : List Host.Cell} {a x : Nat} (b : Byte) (hx : x ≠ a) (h : Memory.wf m = true) :
    cellGet (cellPut m a b) x = cellGet m x := by
  have hx' : a ≠ x := fun e => hx e.symm
  rw [Memory.wf_iff] at h
  obtain ⟨hp, -⟩ := h
  induction m with
  | nil =>
    simp only [cellPut]
    split
    · rfl
    · simp [cellGet, hx']
  | cons p t ih =>
    obtain ⟨k, v⟩ := p
    rw [List.pairwise_cons] at hp
    simp only [cellPut]
    split
    · split
      · rfl
      · rename_i hk _
        simp only [cellGet, hx', if_false]
        split
        · rename_i hxa
          have : k ≠ x := by omega
          simp [this, show x < k by omega]
        · rfl
    · split
      · rename_i hk
        subst hk
        split
        · simp only [cellGet, hx', if_false]
          split
          · exact cellGet_lt (fun c hc => lt_trans (by assumption) (hp.1 c hc))
          · rfl
        · simp [cellGet, hx']
      · simp only [cellGet, ih hp.2]

end Sys2Proof.Machine
end

