-- ==== Sys2Proof/Laws/State.lean ====
section
/-!
SUPPORT. One lemma for each field and each update of the package: what the update makes of the field.
-/
namespace Sys2Proof.Machine

@[simp] theorem Dev.modAnvil_mem (d : Dev) (f : Anvil → Anvil) : (d.modAnvil f).mem = d.mem := rfl
@[simp] theorem Dev.modAnvil_poison (d : Dev) (f : Anvil → Anvil) : (d.modAnvil f).poison = d.poison := rfl
@[simp] theorem Dev.modAnvil_free (d : Dev) (f : Anvil → Anvil) : (d.modAnvil f).free = d.free := rfl
@[simp] theorem Dev.modAnvil_count (d : Dev) (f : Anvil → Anvil) : (d.modAnvil f).count = d.count := rfl
@[simp] theorem Dev.modAnvil_hubCount (d : Dev) (f : Anvil → Anvil) : (d.modAnvil f).hubCount = d.hubCount := rfl
@[simp] theorem Dev.modAnvil_writes (d : Dev) (f : Anvil → Anvil) : (d.modAnvil f).writes = d.writes := rfl
@[simp] theorem Dev.modAnvil_anvil (d : Dev) (f : Anvil → Anvil) : (d.modAnvil f).anvil = f d.anvil := rfl
@[simp] theorem Dev.modAnvil_engines (d : Dev) (f : Anvil → Anvil) : (d.modAnvil f).engines = d.engines := rfl
@[simp] theorem Dev.modAnvil_tongs (d : Dev) (f : Anvil → Anvil) : (d.modAnvil f).tongs = d.tongs := rfl
@[simp] theorem Dev.modAnvil_tongsNext (d : Dev) (f : Anvil → Anvil) : (d.modAnvil f).tongsNext = d.tongsNext := rfl
@[simp] theorem Dev.modAnvil_rennet (d : Dev) (f : Anvil → Anvil) : (d.modAnvil f).rennet = d.rennet := rfl
@[simp] theorem Dev.modAnvil_cores (d : Dev) (f : Anvil → Anvil) : (d.modAnvil f).cores = d.cores := rfl
@[simp] theorem Dev.modAnvil_coh (d : Dev) (f : Anvil → Anvil) : (d.modAnvil f).coh = d.coh := rfl
@[simp] theorem Dev.modAnvil_xlate (d : Dev) (f : Anvil → Anvil) : (d.modAnvil f).xlate = d.xlate := rfl
@[simp] theorem Dev.modAnvil_tiers (d : Dev) (f : Anvil → Anvil) : (d.modAnvil f).tiers = d.tiers := rfl
@[simp] theorem Dev.modAnvil_cave (d : Dev) (f : Anvil → Anvil) : (d.modAnvil f).cave = d.cave := rfl
@[simp] theorem Dev.modAnvil_hbm (d : Dev) (f : Anvil → Anvil) : (d.modAnvil f).hbm = d.hbm := rfl
@[simp] theorem Dev.modAnvil_chain (d : Dev) (f : Anvil → Anvil) : (d.modAnvil f).chain = d.chain := rfl
@[simp] theorem Dev.modAnvil_host (d : Dev) (f : Anvil → Anvil) : (d.modAnvil f).host = d.host := rfl
@[simp] theorem Dev.modAnvil_sched (d : Dev) (f : Anvil → Anvil) : (d.modAnvil f).sched = d.sched := rfl
@[simp] theorem Dev.modAnvil_power (d : Dev) (f : Anvil → Anvil) : (d.modAnvil f).power = d.power := rfl
@[simp] theorem Dev.modAnvil_faults (d : Dev) (f : Anvil → Anvil) : (d.modAnvil f).faults = d.faults := rfl
@[simp] theorem Dev.modAnvil_sec (d : Dev) (f : Anvil → Anvil) : (d.modAnvil f).sec = d.sec := rfl
@[simp] theorem Dev.modAnvil_boot (d : Dev) (f : Anvil → Anvil) : (d.modAnvil f).boot = d.boot := rfl
@[simp] theorem Dev.modAnvil_regs (d : Dev) (f : Anvil → Anvil) : (d.modAnvil f).regs = d.regs := rfl
@[simp] theorem Dev.modAnvil_out (d : Dev) (f : Anvil → Anvil) : (d.modAnvil f).out = d.out := rfl

@[simp] theorem Dev.modRennet_mem (d : Dev) (f : Rennet → Rennet) : (d.modRennet f).mem = d.mem := rfl
@[simp] theorem Dev.modRennet_poison (d : Dev) (f : Rennet → Rennet) : (d.modRennet f).poison = d.poison := rfl
@[simp] theorem Dev.modRennet_free (d : Dev) (f : Rennet → Rennet) : (d.modRennet f).free = d.free := rfl
@[simp] theorem Dev.modRennet_count (d : Dev) (f : Rennet → Rennet) : (d.modRennet f).count = d.count := rfl
@[simp] theorem Dev.modRennet_hubCount (d : Dev) (f : Rennet → Rennet) : (d.modRennet f).hubCount = d.hubCount := rfl
@[simp] theorem Dev.modRennet_writes (d : Dev) (f : Rennet → Rennet) : (d.modRennet f).writes = d.writes := rfl
@[simp] theorem Dev.modRennet_anvil (d : Dev) (f : Rennet → Rennet) : (d.modRennet f).anvil = d.anvil := rfl
@[simp] theorem Dev.modRennet_engines (d : Dev) (f : Rennet → Rennet) : (d.modRennet f).engines = d.engines := rfl
@[simp] theorem Dev.modRennet_tongs (d : Dev) (f : Rennet → Rennet) : (d.modRennet f).tongs = d.tongs := rfl
@[simp] theorem Dev.modRennet_tongsNext (d : Dev) (f : Rennet → Rennet) : (d.modRennet f).tongsNext = d.tongsNext := rfl
@[simp] theorem Dev.modRennet_rennet (d : Dev) (f : Rennet → Rennet) : (d.modRennet f).rennet = f d.rennet := rfl
@[simp] theorem Dev.modRennet_cores (d : Dev) (f : Rennet → Rennet) : (d.modRennet f).cores = d.cores := rfl
@[simp] theorem Dev.modRennet_coh (d : Dev) (f : Rennet → Rennet) : (d.modRennet f).coh = d.coh := rfl
@[simp] theorem Dev.modRennet_xlate (d : Dev) (f : Rennet → Rennet) : (d.modRennet f).xlate = d.xlate := rfl
@[simp] theorem Dev.modRennet_tiers (d : Dev) (f : Rennet → Rennet) : (d.modRennet f).tiers = d.tiers := rfl
@[simp] theorem Dev.modRennet_cave (d : Dev) (f : Rennet → Rennet) : (d.modRennet f).cave = d.cave := rfl
@[simp] theorem Dev.modRennet_hbm (d : Dev) (f : Rennet → Rennet) : (d.modRennet f).hbm = d.hbm := rfl
@[simp] theorem Dev.modRennet_chain (d : Dev) (f : Rennet → Rennet) : (d.modRennet f).chain = d.chain := rfl
@[simp] theorem Dev.modRennet_host (d : Dev) (f : Rennet → Rennet) : (d.modRennet f).host = d.host := rfl
@[simp] theorem Dev.modRennet_sched (d : Dev) (f : Rennet → Rennet) : (d.modRennet f).sched = d.sched := rfl
@[simp] theorem Dev.modRennet_power (d : Dev) (f : Rennet → Rennet) : (d.modRennet f).power = d.power := rfl
@[simp] theorem Dev.modRennet_faults (d : Dev) (f : Rennet → Rennet) : (d.modRennet f).faults = d.faults := rfl
@[simp] theorem Dev.modRennet_sec (d : Dev) (f : Rennet → Rennet) : (d.modRennet f).sec = d.sec := rfl
@[simp] theorem Dev.modRennet_boot (d : Dev) (f : Rennet → Rennet) : (d.modRennet f).boot = d.boot := rfl
@[simp] theorem Dev.modRennet_regs (d : Dev) (f : Rennet → Rennet) : (d.modRennet f).regs = d.regs := rfl
@[simp] theorem Dev.modRennet_out (d : Dev) (f : Rennet → Rennet) : (d.modRennet f).out = d.out := rfl

@[simp] theorem Dev.modCoh_mem (d : Dev) (f : Coh → Coh) : (d.modCoh f).mem = d.mem := rfl
@[simp] theorem Dev.modCoh_poison (d : Dev) (f : Coh → Coh) : (d.modCoh f).poison = d.poison := rfl
@[simp] theorem Dev.modCoh_free (d : Dev) (f : Coh → Coh) : (d.modCoh f).free = d.free := rfl
@[simp] theorem Dev.modCoh_count (d : Dev) (f : Coh → Coh) : (d.modCoh f).count = d.count := rfl
@[simp] theorem Dev.modCoh_hubCount (d : Dev) (f : Coh → Coh) : (d.modCoh f).hubCount = d.hubCount := rfl
@[simp] theorem Dev.modCoh_writes (d : Dev) (f : Coh → Coh) : (d.modCoh f).writes = d.writes := rfl
@[simp] theorem Dev.modCoh_anvil (d : Dev) (f : Coh → Coh) : (d.modCoh f).anvil = d.anvil := rfl
@[simp] theorem Dev.modCoh_engines (d : Dev) (f : Coh → Coh) : (d.modCoh f).engines = d.engines := rfl
@[simp] theorem Dev.modCoh_tongs (d : Dev) (f : Coh → Coh) : (d.modCoh f).tongs = d.tongs := rfl
@[simp] theorem Dev.modCoh_tongsNext (d : Dev) (f : Coh → Coh) : (d.modCoh f).tongsNext = d.tongsNext := rfl
@[simp] theorem Dev.modCoh_rennet (d : Dev) (f : Coh → Coh) : (d.modCoh f).rennet = d.rennet := rfl
@[simp] theorem Dev.modCoh_cores (d : Dev) (f : Coh → Coh) : (d.modCoh f).cores = d.cores := rfl
@[simp] theorem Dev.modCoh_coh (d : Dev) (f : Coh → Coh) : (d.modCoh f).coh = f d.coh := rfl
@[simp] theorem Dev.modCoh_xlate (d : Dev) (f : Coh → Coh) : (d.modCoh f).xlate = d.xlate := rfl
@[simp] theorem Dev.modCoh_tiers (d : Dev) (f : Coh → Coh) : (d.modCoh f).tiers = d.tiers := rfl
@[simp] theorem Dev.modCoh_cave (d : Dev) (f : Coh → Coh) : (d.modCoh f).cave = d.cave := rfl
@[simp] theorem Dev.modCoh_hbm (d : Dev) (f : Coh → Coh) : (d.modCoh f).hbm = d.hbm := rfl
@[simp] theorem Dev.modCoh_chain (d : Dev) (f : Coh → Coh) : (d.modCoh f).chain = d.chain := rfl
@[simp] theorem Dev.modCoh_host (d : Dev) (f : Coh → Coh) : (d.modCoh f).host = d.host := rfl
@[simp] theorem Dev.modCoh_sched (d : Dev) (f : Coh → Coh) : (d.modCoh f).sched = d.sched := rfl
@[simp] theorem Dev.modCoh_power (d : Dev) (f : Coh → Coh) : (d.modCoh f).power = d.power := rfl
@[simp] theorem Dev.modCoh_faults (d : Dev) (f : Coh → Coh) : (d.modCoh f).faults = d.faults := rfl
@[simp] theorem Dev.modCoh_sec (d : Dev) (f : Coh → Coh) : (d.modCoh f).sec = d.sec := rfl
@[simp] theorem Dev.modCoh_boot (d : Dev) (f : Coh → Coh) : (d.modCoh f).boot = d.boot := rfl
@[simp] theorem Dev.modCoh_regs (d : Dev) (f : Coh → Coh) : (d.modCoh f).regs = d.regs := rfl
@[simp] theorem Dev.modCoh_out (d : Dev) (f : Coh → Coh) : (d.modCoh f).out = d.out := rfl

@[simp] theorem Dev.modTiers_mem (d : Dev) (f : Tiers → Tiers) : (d.modTiers f).mem = d.mem := rfl
@[simp] theorem Dev.modTiers_poison (d : Dev) (f : Tiers → Tiers) : (d.modTiers f).poison = d.poison := rfl
@[simp] theorem Dev.modTiers_free (d : Dev) (f : Tiers → Tiers) : (d.modTiers f).free = d.free := rfl
@[simp] theorem Dev.modTiers_count (d : Dev) (f : Tiers → Tiers) : (d.modTiers f).count = d.count := rfl
@[simp] theorem Dev.modTiers_hubCount (d : Dev) (f : Tiers → Tiers) : (d.modTiers f).hubCount = d.hubCount := rfl
@[simp] theorem Dev.modTiers_writes (d : Dev) (f : Tiers → Tiers) : (d.modTiers f).writes = d.writes := rfl
@[simp] theorem Dev.modTiers_anvil (d : Dev) (f : Tiers → Tiers) : (d.modTiers f).anvil = d.anvil := rfl
@[simp] theorem Dev.modTiers_engines (d : Dev) (f : Tiers → Tiers) : (d.modTiers f).engines = d.engines := rfl
@[simp] theorem Dev.modTiers_tongs (d : Dev) (f : Tiers → Tiers) : (d.modTiers f).tongs = d.tongs := rfl
@[simp] theorem Dev.modTiers_tongsNext (d : Dev) (f : Tiers → Tiers) : (d.modTiers f).tongsNext = d.tongsNext := rfl
@[simp] theorem Dev.modTiers_rennet (d : Dev) (f : Tiers → Tiers) : (d.modTiers f).rennet = d.rennet := rfl
@[simp] theorem Dev.modTiers_cores (d : Dev) (f : Tiers → Tiers) : (d.modTiers f).cores = d.cores := rfl
@[simp] theorem Dev.modTiers_coh (d : Dev) (f : Tiers → Tiers) : (d.modTiers f).coh = d.coh := rfl
@[simp] theorem Dev.modTiers_xlate (d : Dev) (f : Tiers → Tiers) : (d.modTiers f).xlate = d.xlate := rfl
@[simp] theorem Dev.modTiers_tiers (d : Dev) (f : Tiers → Tiers) : (d.modTiers f).tiers = f d.tiers := rfl
@[simp] theorem Dev.modTiers_cave (d : Dev) (f : Tiers → Tiers) : (d.modTiers f).cave = d.cave := rfl
@[simp] theorem Dev.modTiers_hbm (d : Dev) (f : Tiers → Tiers) : (d.modTiers f).hbm = d.hbm := rfl
@[simp] theorem Dev.modTiers_chain (d : Dev) (f : Tiers → Tiers) : (d.modTiers f).chain = d.chain := rfl
@[simp] theorem Dev.modTiers_host (d : Dev) (f : Tiers → Tiers) : (d.modTiers f).host = d.host := rfl
@[simp] theorem Dev.modTiers_sched (d : Dev) (f : Tiers → Tiers) : (d.modTiers f).sched = d.sched := rfl
@[simp] theorem Dev.modTiers_power (d : Dev) (f : Tiers → Tiers) : (d.modTiers f).power = d.power := rfl
@[simp] theorem Dev.modTiers_faults (d : Dev) (f : Tiers → Tiers) : (d.modTiers f).faults = d.faults := rfl
@[simp] theorem Dev.modTiers_sec (d : Dev) (f : Tiers → Tiers) : (d.modTiers f).sec = d.sec := rfl
@[simp] theorem Dev.modTiers_boot (d : Dev) (f : Tiers → Tiers) : (d.modTiers f).boot = d.boot := rfl
@[simp] theorem Dev.modTiers_regs (d : Dev) (f : Tiers → Tiers) : (d.modTiers f).regs = d.regs := rfl
@[simp] theorem Dev.modTiers_out (d : Dev) (f : Tiers → Tiers) : (d.modTiers f).out = d.out := rfl

@[simp] theorem Dev.modCave_mem (d : Dev) (f : Cave → Cave) : (d.modCave f).mem = d.mem := rfl
@[simp] theorem Dev.modCave_poison (d : Dev) (f : Cave → Cave) : (d.modCave f).poison = d.poison := rfl
@[simp] theorem Dev.modCave_free (d : Dev) (f : Cave → Cave) : (d.modCave f).free = d.free := rfl
@[simp] theorem Dev.modCave_count (d : Dev) (f : Cave → Cave) : (d.modCave f).count = d.count := rfl
@[simp] theorem Dev.modCave_hubCount (d : Dev) (f : Cave → Cave) : (d.modCave f).hubCount = d.hubCount := rfl
@[simp] theorem Dev.modCave_writes (d : Dev) (f : Cave → Cave) : (d.modCave f).writes = d.writes := rfl
@[simp] theorem Dev.modCave_anvil (d : Dev) (f : Cave → Cave) : (d.modCave f).anvil = d.anvil := rfl
@[simp] theorem Dev.modCave_engines (d : Dev) (f : Cave → Cave) : (d.modCave f).engines = d.engines := rfl
@[simp] theorem Dev.modCave_tongs (d : Dev) (f : Cave → Cave) : (d.modCave f).tongs = d.tongs := rfl
@[simp] theorem Dev.modCave_tongsNext (d : Dev) (f : Cave → Cave) : (d.modCave f).tongsNext = d.tongsNext := rfl
@[simp] theorem Dev.modCave_rennet (d : Dev) (f : Cave → Cave) : (d.modCave f).rennet = d.rennet := rfl
@[simp] theorem Dev.modCave_cores (d : Dev) (f : Cave → Cave) : (d.modCave f).cores = d.cores := rfl
@[simp] theorem Dev.modCave_coh (d : Dev) (f : Cave → Cave) : (d.modCave f).coh = d.coh := rfl
@[simp] theorem Dev.modCave_xlate (d : Dev) (f : Cave → Cave) : (d.modCave f).xlate = d.xlate := rfl
@[simp] theorem Dev.modCave_tiers (d : Dev) (f : Cave → Cave) : (d.modCave f).tiers = d.tiers := rfl
@[simp] theorem Dev.modCave_cave (d : Dev) (f : Cave → Cave) : (d.modCave f).cave = f d.cave := rfl
@[simp] theorem Dev.modCave_hbm (d : Dev) (f : Cave → Cave) : (d.modCave f).hbm = d.hbm := rfl
@[simp] theorem Dev.modCave_chain (d : Dev) (f : Cave → Cave) : (d.modCave f).chain = d.chain := rfl
@[simp] theorem Dev.modCave_host (d : Dev) (f : Cave → Cave) : (d.modCave f).host = d.host := rfl
@[simp] theorem Dev.modCave_sched (d : Dev) (f : Cave → Cave) : (d.modCave f).sched = d.sched := rfl
@[simp] theorem Dev.modCave_power (d : Dev) (f : Cave → Cave) : (d.modCave f).power = d.power := rfl
@[simp] theorem Dev.modCave_faults (d : Dev) (f : Cave → Cave) : (d.modCave f).faults = d.faults := rfl
@[simp] theorem Dev.modCave_sec (d : Dev) (f : Cave → Cave) : (d.modCave f).sec = d.sec := rfl
@[simp] theorem Dev.modCave_boot (d : Dev) (f : Cave → Cave) : (d.modCave f).boot = d.boot := rfl
@[simp] theorem Dev.modCave_regs (d : Dev) (f : Cave → Cave) : (d.modCave f).regs = d.regs := rfl
@[simp] theorem Dev.modCave_out (d : Dev) (f : Cave → Cave) : (d.modCave f).out = d.out := rfl

@[simp] theorem Dev.modHbm_mem (d : Dev) (f : Hbm → Hbm) : (d.modHbm f).mem = d.mem := rfl
@[simp] theorem Dev.modHbm_poison (d : Dev) (f : Hbm → Hbm) : (d.modHbm f).poison = d.poison := rfl
@[simp] theorem Dev.modHbm_free (d : Dev) (f : Hbm → Hbm) : (d.modHbm f).free = d.free := rfl
@[simp] theorem Dev.modHbm_count (d : Dev) (f : Hbm → Hbm) : (d.modHbm f).count = d.count := rfl
@[simp] theorem Dev.modHbm_hubCount (d : Dev) (f : Hbm → Hbm) : (d.modHbm f).hubCount = d.hubCount := rfl
@[simp] theorem Dev.modHbm_writes (d : Dev) (f : Hbm → Hbm) : (d.modHbm f).writes = d.writes := rfl
@[simp] theorem Dev.modHbm_anvil (d : Dev) (f : Hbm → Hbm) : (d.modHbm f).anvil = d.anvil := rfl
@[simp] theorem Dev.modHbm_engines (d : Dev) (f : Hbm → Hbm) : (d.modHbm f).engines = d.engines := rfl
@[simp] theorem Dev.modHbm_tongs (d : Dev) (f : Hbm → Hbm) : (d.modHbm f).tongs = d.tongs := rfl
@[simp] theorem Dev.modHbm_tongsNext (d : Dev) (f : Hbm → Hbm) : (d.modHbm f).tongsNext = d.tongsNext := rfl
@[simp] theorem Dev.modHbm_rennet (d : Dev) (f : Hbm → Hbm) : (d.modHbm f).rennet = d.rennet := rfl
@[simp] theorem Dev.modHbm_cores (d : Dev) (f : Hbm → Hbm) : (d.modHbm f).cores = d.cores := rfl
@[simp] theorem Dev.modHbm_coh (d : Dev) (f : Hbm → Hbm) : (d.modHbm f).coh = d.coh := rfl
@[simp] theorem Dev.modHbm_xlate (d : Dev) (f : Hbm → Hbm) : (d.modHbm f).xlate = d.xlate := rfl
@[simp] theorem Dev.modHbm_tiers (d : Dev) (f : Hbm → Hbm) : (d.modHbm f).tiers = d.tiers := rfl
@[simp] theorem Dev.modHbm_cave (d : Dev) (f : Hbm → Hbm) : (d.modHbm f).cave = d.cave := rfl
@[simp] theorem Dev.modHbm_hbm (d : Dev) (f : Hbm → Hbm) : (d.modHbm f).hbm = f d.hbm := rfl
@[simp] theorem Dev.modHbm_chain (d : Dev) (f : Hbm → Hbm) : (d.modHbm f).chain = d.chain := rfl
@[simp] theorem Dev.modHbm_host (d : Dev) (f : Hbm → Hbm) : (d.modHbm f).host = d.host := rfl
@[simp] theorem Dev.modHbm_sched (d : Dev) (f : Hbm → Hbm) : (d.modHbm f).sched = d.sched := rfl
@[simp] theorem Dev.modHbm_power (d : Dev) (f : Hbm → Hbm) : (d.modHbm f).power = d.power := rfl
@[simp] theorem Dev.modHbm_faults (d : Dev) (f : Hbm → Hbm) : (d.modHbm f).faults = d.faults := rfl
@[simp] theorem Dev.modHbm_sec (d : Dev) (f : Hbm → Hbm) : (d.modHbm f).sec = d.sec := rfl
@[simp] theorem Dev.modHbm_boot (d : Dev) (f : Hbm → Hbm) : (d.modHbm f).boot = d.boot := rfl
@[simp] theorem Dev.modHbm_regs (d : Dev) (f : Hbm → Hbm) : (d.modHbm f).regs = d.regs := rfl
@[simp] theorem Dev.modHbm_out (d : Dev) (f : Hbm → Hbm) : (d.modHbm f).out = d.out := rfl

@[simp] theorem Dev.modChain_mem (d : Dev) (f : Chain → Chain) : (d.modChain f).mem = d.mem := rfl
@[simp] theorem Dev.modChain_poison (d : Dev) (f : Chain → Chain) : (d.modChain f).poison = d.poison := rfl
@[simp] theorem Dev.modChain_free (d : Dev) (f : Chain → Chain) : (d.modChain f).free = d.free := rfl
@[simp] theorem Dev.modChain_count (d : Dev) (f : Chain → Chain) : (d.modChain f).count = d.count := rfl
@[simp] theorem Dev.modChain_hubCount (d : Dev) (f : Chain → Chain) : (d.modChain f).hubCount = d.hubCount := rfl
@[simp] theorem Dev.modChain_writes (d : Dev) (f : Chain → Chain) : (d.modChain f).writes = d.writes := rfl
@[simp] theorem Dev.modChain_anvil (d : Dev) (f : Chain → Chain) : (d.modChain f).anvil = d.anvil := rfl
@[simp] theorem Dev.modChain_engines (d : Dev) (f : Chain → Chain) : (d.modChain f).engines = d.engines := rfl
@[simp] theorem Dev.modChain_tongs (d : Dev) (f : Chain → Chain) : (d.modChain f).tongs = d.tongs := rfl
@[simp] theorem Dev.modChain_tongsNext (d : Dev) (f : Chain → Chain) : (d.modChain f).tongsNext = d.tongsNext := rfl
@[simp] theorem Dev.modChain_rennet (d : Dev) (f : Chain → Chain) : (d.modChain f).rennet = d.rennet := rfl
@[simp] theorem Dev.modChain_cores (d : Dev) (f : Chain → Chain) : (d.modChain f).cores = d.cores := rfl
@[simp] theorem Dev.modChain_coh (d : Dev) (f : Chain → Chain) : (d.modChain f).coh = d.coh := rfl
@[simp] theorem Dev.modChain_xlate (d : Dev) (f : Chain → Chain) : (d.modChain f).xlate = d.xlate := rfl
@[simp] theorem Dev.modChain_tiers (d : Dev) (f : Chain → Chain) : (d.modChain f).tiers = d.tiers := rfl
@[simp] theorem Dev.modChain_cave (d : Dev) (f : Chain → Chain) : (d.modChain f).cave = d.cave := rfl
@[simp] theorem Dev.modChain_hbm (d : Dev) (f : Chain → Chain) : (d.modChain f).hbm = d.hbm := rfl
@[simp] theorem Dev.modChain_chain (d : Dev) (f : Chain → Chain) : (d.modChain f).chain = f d.chain := rfl
@[simp] theorem Dev.modChain_host (d : Dev) (f : Chain → Chain) : (d.modChain f).host = d.host := rfl
@[simp] theorem Dev.modChain_sched (d : Dev) (f : Chain → Chain) : (d.modChain f).sched = d.sched := rfl
@[simp] theorem Dev.modChain_power (d : Dev) (f : Chain → Chain) : (d.modChain f).power = d.power := rfl
@[simp] theorem Dev.modChain_faults (d : Dev) (f : Chain → Chain) : (d.modChain f).faults = d.faults := rfl
@[simp] theorem Dev.modChain_sec (d : Dev) (f : Chain → Chain) : (d.modChain f).sec = d.sec := rfl
@[simp] theorem Dev.modChain_boot (d : Dev) (f : Chain → Chain) : (d.modChain f).boot = d.boot := rfl
@[simp] theorem Dev.modChain_regs (d : Dev) (f : Chain → Chain) : (d.modChain f).regs = d.regs := rfl
@[simp] theorem Dev.modChain_out (d : Dev) (f : Chain → Chain) : (d.modChain f).out = d.out := rfl

@[simp] theorem Dev.modHost_mem (d : Dev) (f : HostIf → HostIf) : (d.modHost f).mem = d.mem := rfl
@[simp] theorem Dev.modHost_poison (d : Dev) (f : HostIf → HostIf) : (d.modHost f).poison = d.poison := rfl
@[simp] theorem Dev.modHost_free (d : Dev) (f : HostIf → HostIf) : (d.modHost f).free = d.free := rfl
@[simp] theorem Dev.modHost_count (d : Dev) (f : HostIf → HostIf) : (d.modHost f).count = d.count := rfl
@[simp] theorem Dev.modHost_hubCount (d : Dev) (f : HostIf → HostIf) : (d.modHost f).hubCount = d.hubCount := rfl
@[simp] theorem Dev.modHost_writes (d : Dev) (f : HostIf → HostIf) : (d.modHost f).writes = d.writes := rfl
@[simp] theorem Dev.modHost_anvil (d : Dev) (f : HostIf → HostIf) : (d.modHost f).anvil = d.anvil := rfl
@[simp] theorem Dev.modHost_engines (d : Dev) (f : HostIf → HostIf) : (d.modHost f).engines = d.engines := rfl
@[simp] theorem Dev.modHost_tongs (d : Dev) (f : HostIf → HostIf) : (d.modHost f).tongs = d.tongs := rfl
@[simp] theorem Dev.modHost_tongsNext (d : Dev) (f : HostIf → HostIf) : (d.modHost f).tongsNext = d.tongsNext := rfl
@[simp] theorem Dev.modHost_rennet (d : Dev) (f : HostIf → HostIf) : (d.modHost f).rennet = d.rennet := rfl
@[simp] theorem Dev.modHost_cores (d : Dev) (f : HostIf → HostIf) : (d.modHost f).cores = d.cores := rfl
@[simp] theorem Dev.modHost_coh (d : Dev) (f : HostIf → HostIf) : (d.modHost f).coh = d.coh := rfl
@[simp] theorem Dev.modHost_xlate (d : Dev) (f : HostIf → HostIf) : (d.modHost f).xlate = d.xlate := rfl
@[simp] theorem Dev.modHost_tiers (d : Dev) (f : HostIf → HostIf) : (d.modHost f).tiers = d.tiers := rfl
@[simp] theorem Dev.modHost_cave (d : Dev) (f : HostIf → HostIf) : (d.modHost f).cave = d.cave := rfl
@[simp] theorem Dev.modHost_hbm (d : Dev) (f : HostIf → HostIf) : (d.modHost f).hbm = d.hbm := rfl
@[simp] theorem Dev.modHost_chain (d : Dev) (f : HostIf → HostIf) : (d.modHost f).chain = d.chain := rfl
@[simp] theorem Dev.modHost_host (d : Dev) (f : HostIf → HostIf) : (d.modHost f).host = f d.host := rfl
@[simp] theorem Dev.modHost_sched (d : Dev) (f : HostIf → HostIf) : (d.modHost f).sched = d.sched := rfl
@[simp] theorem Dev.modHost_power (d : Dev) (f : HostIf → HostIf) : (d.modHost f).power = d.power := rfl
@[simp] theorem Dev.modHost_faults (d : Dev) (f : HostIf → HostIf) : (d.modHost f).faults = d.faults := rfl
@[simp] theorem Dev.modHost_sec (d : Dev) (f : HostIf → HostIf) : (d.modHost f).sec = d.sec := rfl
@[simp] theorem Dev.modHost_boot (d : Dev) (f : HostIf → HostIf) : (d.modHost f).boot = d.boot := rfl
@[simp] theorem Dev.modHost_regs (d : Dev) (f : HostIf → HostIf) : (d.modHost f).regs = d.regs := rfl
@[simp] theorem Dev.modHost_out (d : Dev) (f : HostIf → HostIf) : (d.modHost f).out = d.out := rfl

@[simp] theorem Dev.modSched_mem (d : Dev) (f : Sched → Sched) : (d.modSched f).mem = d.mem := rfl
@[simp] theorem Dev.modSched_poison (d : Dev) (f : Sched → Sched) : (d.modSched f).poison = d.poison := rfl
@[simp] theorem Dev.modSched_free (d : Dev) (f : Sched → Sched) : (d.modSched f).free = d.free := rfl
@[simp] theorem Dev.modSched_count (d : Dev) (f : Sched → Sched) : (d.modSched f).count = d.count := rfl
@[simp] theorem Dev.modSched_hubCount (d : Dev) (f : Sched → Sched) : (d.modSched f).hubCount = d.hubCount := rfl
@[simp] theorem Dev.modSched_writes (d : Dev) (f : Sched → Sched) : (d.modSched f).writes = d.writes := rfl
@[simp] theorem Dev.modSched_anvil (d : Dev) (f : Sched → Sched) : (d.modSched f).anvil = d.anvil := rfl
@[simp] theorem Dev.modSched_engines (d : Dev) (f : Sched → Sched) : (d.modSched f).engines = d.engines := rfl
@[simp] theorem Dev.modSched_tongs (d : Dev) (f : Sched → Sched) : (d.modSched f).tongs = d.tongs := rfl
@[simp] theorem Dev.modSched_tongsNext (d : Dev) (f : Sched → Sched) : (d.modSched f).tongsNext = d.tongsNext := rfl
@[simp] theorem Dev.modSched_rennet (d : Dev) (f : Sched → Sched) : (d.modSched f).rennet = d.rennet := rfl
@[simp] theorem Dev.modSched_cores (d : Dev) (f : Sched → Sched) : (d.modSched f).cores = d.cores := rfl
@[simp] theorem Dev.modSched_coh (d : Dev) (f : Sched → Sched) : (d.modSched f).coh = d.coh := rfl
@[simp] theorem Dev.modSched_xlate (d : Dev) (f : Sched → Sched) : (d.modSched f).xlate = d.xlate := rfl
@[simp] theorem Dev.modSched_tiers (d : Dev) (f : Sched → Sched) : (d.modSched f).tiers = d.tiers := rfl
@[simp] theorem Dev.modSched_cave (d : Dev) (f : Sched → Sched) : (d.modSched f).cave = d.cave := rfl
@[simp] theorem Dev.modSched_hbm (d : Dev) (f : Sched → Sched) : (d.modSched f).hbm = d.hbm := rfl
@[simp] theorem Dev.modSched_chain (d : Dev) (f : Sched → Sched) : (d.modSched f).chain = d.chain := rfl
@[simp] theorem Dev.modSched_host (d : Dev) (f : Sched → Sched) : (d.modSched f).host = d.host := rfl
@[simp] theorem Dev.modSched_sched (d : Dev) (f : Sched → Sched) : (d.modSched f).sched = f d.sched := rfl
@[simp] theorem Dev.modSched_power (d : Dev) (f : Sched → Sched) : (d.modSched f).power = d.power := rfl
@[simp] theorem Dev.modSched_faults (d : Dev) (f : Sched → Sched) : (d.modSched f).faults = d.faults := rfl
@[simp] theorem Dev.modSched_sec (d : Dev) (f : Sched → Sched) : (d.modSched f).sec = d.sec := rfl
@[simp] theorem Dev.modSched_boot (d : Dev) (f : Sched → Sched) : (d.modSched f).boot = d.boot := rfl
@[simp] theorem Dev.modSched_regs (d : Dev) (f : Sched → Sched) : (d.modSched f).regs = d.regs := rfl
@[simp] theorem Dev.modSched_out (d : Dev) (f : Sched → Sched) : (d.modSched f).out = d.out := rfl

@[simp] theorem Dev.modPower_mem (d : Dev) (f : Power → Power) : (d.modPower f).mem = d.mem := rfl
@[simp] theorem Dev.modPower_poison (d : Dev) (f : Power → Power) : (d.modPower f).poison = d.poison := rfl
@[simp] theorem Dev.modPower_free (d : Dev) (f : Power → Power) : (d.modPower f).free = d.free := rfl
@[simp] theorem Dev.modPower_count (d : Dev) (f : Power → Power) : (d.modPower f).count = d.count := rfl
@[simp] theorem Dev.modPower_hubCount (d : Dev) (f : Power → Power) : (d.modPower f).hubCount = d.hubCount := rfl
@[simp] theorem Dev.modPower_writes (d : Dev) (f : Power → Power) : (d.modPower f).writes = d.writes := rfl
@[simp] theorem Dev.modPower_anvil (d : Dev) (f : Power → Power) : (d.modPower f).anvil = d.anvil := rfl
@[simp] theorem Dev.modPower_engines (d : Dev) (f : Power → Power) : (d.modPower f).engines = d.engines := rfl
@[simp] theorem Dev.modPower_tongs (d : Dev) (f : Power → Power) : (d.modPower f).tongs = d.tongs := rfl
@[simp] theorem Dev.modPower_tongsNext (d : Dev) (f : Power → Power) : (d.modPower f).tongsNext = d.tongsNext := rfl
@[simp] theorem Dev.modPower_rennet (d : Dev) (f : Power → Power) : (d.modPower f).rennet = d.rennet := rfl
@[simp] theorem Dev.modPower_cores (d : Dev) (f : Power → Power) : (d.modPower f).cores = d.cores := rfl
@[simp] theorem Dev.modPower_coh (d : Dev) (f : Power → Power) : (d.modPower f).coh = d.coh := rfl
@[simp] theorem Dev.modPower_xlate (d : Dev) (f : Power → Power) : (d.modPower f).xlate = d.xlate := rfl
@[simp] theorem Dev.modPower_tiers (d : Dev) (f : Power → Power) : (d.modPower f).tiers = d.tiers := rfl
@[simp] theorem Dev.modPower_cave (d : Dev) (f : Power → Power) : (d.modPower f).cave = d.cave := rfl
@[simp] theorem Dev.modPower_hbm (d : Dev) (f : Power → Power) : (d.modPower f).hbm = d.hbm := rfl
@[simp] theorem Dev.modPower_chain (d : Dev) (f : Power → Power) : (d.modPower f).chain = d.chain := rfl
@[simp] theorem Dev.modPower_host (d : Dev) (f : Power → Power) : (d.modPower f).host = d.host := rfl
@[simp] theorem Dev.modPower_sched (d : Dev) (f : Power → Power) : (d.modPower f).sched = d.sched := rfl
@[simp] theorem Dev.modPower_power (d : Dev) (f : Power → Power) : (d.modPower f).power = f d.power := rfl
@[simp] theorem Dev.modPower_faults (d : Dev) (f : Power → Power) : (d.modPower f).faults = d.faults := rfl
@[simp] theorem Dev.modPower_sec (d : Dev) (f : Power → Power) : (d.modPower f).sec = d.sec := rfl
@[simp] theorem Dev.modPower_boot (d : Dev) (f : Power → Power) : (d.modPower f).boot = d.boot := rfl
@[simp] theorem Dev.modPower_regs (d : Dev) (f : Power → Power) : (d.modPower f).regs = d.regs := rfl
@[simp] theorem Dev.modPower_out (d : Dev) (f : Power → Power) : (d.modPower f).out = d.out := rfl

@[simp] theorem Dev.modFaults_mem (d : Dev) (f : Faults → Faults) : (d.modFaults f).mem = d.mem := rfl
@[simp] theorem Dev.modFaults_poison (d : Dev) (f : Faults → Faults) : (d.modFaults f).poison = d.poison := rfl
@[simp] theorem Dev.modFaults_free (d : Dev) (f : Faults → Faults) : (d.modFaults f).free = d.free := rfl
@[simp] theorem Dev.modFaults_count (d : Dev) (f : Faults → Faults) : (d.modFaults f).count = d.count := rfl
@[simp] theorem Dev.modFaults_hubCount (d : Dev) (f : Faults → Faults) : (d.modFaults f).hubCount = d.hubCount := rfl
@[simp] theorem Dev.modFaults_writes (d : Dev) (f : Faults → Faults) : (d.modFaults f).writes = d.writes := rfl
@[simp] theorem Dev.modFaults_anvil (d : Dev) (f : Faults → Faults) : (d.modFaults f).anvil = d.anvil := rfl
@[simp] theorem Dev.modFaults_engines (d : Dev) (f : Faults → Faults) : (d.modFaults f).engines = d.engines := rfl
@[simp] theorem Dev.modFaults_tongs (d : Dev) (f : Faults → Faults) : (d.modFaults f).tongs = d.tongs := rfl
@[simp] theorem Dev.modFaults_tongsNext (d : Dev) (f : Faults → Faults) : (d.modFaults f).tongsNext = d.tongsNext := rfl
@[simp] theorem Dev.modFaults_rennet (d : Dev) (f : Faults → Faults) : (d.modFaults f).rennet = d.rennet := rfl
@[simp] theorem Dev.modFaults_cores (d : Dev) (f : Faults → Faults) : (d.modFaults f).cores = d.cores := rfl
@[simp] theorem Dev.modFaults_coh (d : Dev) (f : Faults → Faults) : (d.modFaults f).coh = d.coh := rfl
@[simp] theorem Dev.modFaults_xlate (d : Dev) (f : Faults → Faults) : (d.modFaults f).xlate = d.xlate := rfl
@[simp] theorem Dev.modFaults_tiers (d : Dev) (f : Faults → Faults) : (d.modFaults f).tiers = d.tiers := rfl
@[simp] theorem Dev.modFaults_cave (d : Dev) (f : Faults → Faults) : (d.modFaults f).cave = d.cave := rfl
@[simp] theorem Dev.modFaults_hbm (d : Dev) (f : Faults → Faults) : (d.modFaults f).hbm = d.hbm := rfl
@[simp] theorem Dev.modFaults_chain (d : Dev) (f : Faults → Faults) : (d.modFaults f).chain = d.chain := rfl
@[simp] theorem Dev.modFaults_host (d : Dev) (f : Faults → Faults) : (d.modFaults f).host = d.host := rfl
@[simp] theorem Dev.modFaults_sched (d : Dev) (f : Faults → Faults) : (d.modFaults f).sched = d.sched := rfl
@[simp] theorem Dev.modFaults_power (d : Dev) (f : Faults → Faults) : (d.modFaults f).power = d.power := rfl
@[simp] theorem Dev.modFaults_faults (d : Dev) (f : Faults → Faults) : (d.modFaults f).faults = f d.faults := rfl
@[simp] theorem Dev.modFaults_sec (d : Dev) (f : Faults → Faults) : (d.modFaults f).sec = d.sec := rfl
@[simp] theorem Dev.modFaults_boot (d : Dev) (f : Faults → Faults) : (d.modFaults f).boot = d.boot := rfl
@[simp] theorem Dev.modFaults_regs (d : Dev) (f : Faults → Faults) : (d.modFaults f).regs = d.regs := rfl
@[simp] theorem Dev.modFaults_out (d : Dev) (f : Faults → Faults) : (d.modFaults f).out = d.out := rfl

@[simp] theorem Dev.modSec_mem (d : Dev) (f : Sec → Sec) : (d.modSec f).mem = d.mem := rfl
@[simp] theorem Dev.modSec_poison (d : Dev) (f : Sec → Sec) : (d.modSec f).poison = d.poison := rfl
@[simp] theorem Dev.modSec_free (d : Dev) (f : Sec → Sec) : (d.modSec f).free = d.free := rfl
@[simp] theorem Dev.modSec_count (d : Dev) (f : Sec → Sec) : (d.modSec f).count = d.count := rfl
@[simp] theorem Dev.modSec_hubCount (d : Dev) (f : Sec → Sec) : (d.modSec f).hubCount = d.hubCount := rfl
@[simp] theorem Dev.modSec_writes (d : Dev) (f : Sec → Sec) : (d.modSec f).writes = d.writes := rfl
@[simp] theorem Dev.modSec_anvil (d : Dev) (f : Sec → Sec) : (d.modSec f).anvil = d.anvil := rfl
@[simp] theorem Dev.modSec_engines (d : Dev) (f : Sec → Sec) : (d.modSec f).engines = d.engines := rfl
@[simp] theorem Dev.modSec_tongs (d : Dev) (f : Sec → Sec) : (d.modSec f).tongs = d.tongs := rfl
@[simp] theorem Dev.modSec_tongsNext (d : Dev) (f : Sec → Sec) : (d.modSec f).tongsNext = d.tongsNext := rfl
@[simp] theorem Dev.modSec_rennet (d : Dev) (f : Sec → Sec) : (d.modSec f).rennet = d.rennet := rfl
@[simp] theorem Dev.modSec_cores (d : Dev) (f : Sec → Sec) : (d.modSec f).cores = d.cores := rfl
@[simp] theorem Dev.modSec_coh (d : Dev) (f : Sec → Sec) : (d.modSec f).coh = d.coh := rfl
@[simp] theorem Dev.modSec_xlate (d : Dev) (f : Sec → Sec) : (d.modSec f).xlate = d.xlate := rfl
@[simp] theorem Dev.modSec_tiers (d : Dev) (f : Sec → Sec) : (d.modSec f).tiers = d.tiers := rfl
@[simp] theorem Dev.modSec_cave (d : Dev) (f : Sec → Sec) : (d.modSec f).cave = d.cave := rfl
@[simp] theorem Dev.modSec_hbm (d : Dev) (f : Sec → Sec) : (d.modSec f).hbm = d.hbm := rfl
@[simp] theorem Dev.modSec_chain (d : Dev) (f : Sec → Sec) : (d.modSec f).chain = d.chain := rfl
@[simp] theorem Dev.modSec_host (d : Dev) (f : Sec → Sec) : (d.modSec f).host = d.host := rfl
@[simp] theorem Dev.modSec_sched (d : Dev) (f : Sec → Sec) : (d.modSec f).sched = d.sched := rfl
@[simp] theorem Dev.modSec_power (d : Dev) (f : Sec → Sec) : (d.modSec f).power = d.power := rfl
@[simp] theorem Dev.modSec_faults (d : Dev) (f : Sec → Sec) : (d.modSec f).faults = d.faults := rfl
@[simp] theorem Dev.modSec_sec (d : Dev) (f : Sec → Sec) : (d.modSec f).sec = f d.sec := rfl
@[simp] theorem Dev.modSec_boot (d : Dev) (f : Sec → Sec) : (d.modSec f).boot = d.boot := rfl
@[simp] theorem Dev.modSec_regs (d : Dev) (f : Sec → Sec) : (d.modSec f).regs = d.regs := rfl
@[simp] theorem Dev.modSec_out (d : Dev) (f : Sec → Sec) : (d.modSec f).out = d.out := rfl

@[simp] theorem Dev.modBoot_mem (d : Dev) (f : Boot → Boot) : (d.modBoot f).mem = d.mem := rfl
@[simp] theorem Dev.modBoot_poison (d : Dev) (f : Boot → Boot) : (d.modBoot f).poison = d.poison := rfl
@[simp] theorem Dev.modBoot_free (d : Dev) (f : Boot → Boot) : (d.modBoot f).free = d.free := rfl
@[simp] theorem Dev.modBoot_count (d : Dev) (f : Boot → Boot) : (d.modBoot f).count = d.count := rfl
@[simp] theorem Dev.modBoot_hubCount (d : Dev) (f : Boot → Boot) : (d.modBoot f).hubCount = d.hubCount := rfl
@[simp] theorem Dev.modBoot_writes (d : Dev) (f : Boot → Boot) : (d.modBoot f).writes = d.writes := rfl
@[simp] theorem Dev.modBoot_anvil (d : Dev) (f : Boot → Boot) : (d.modBoot f).anvil = d.anvil := rfl
@[simp] theorem Dev.modBoot_engines (d : Dev) (f : Boot → Boot) : (d.modBoot f).engines = d.engines := rfl
@[simp] theorem Dev.modBoot_tongs (d : Dev) (f : Boot → Boot) : (d.modBoot f).tongs = d.tongs := rfl
@[simp] theorem Dev.modBoot_tongsNext (d : Dev) (f : Boot → Boot) : (d.modBoot f).tongsNext = d.tongsNext := rfl
@[simp] theorem Dev.modBoot_rennet (d : Dev) (f : Boot → Boot) : (d.modBoot f).rennet = d.rennet := rfl
@[simp] theorem Dev.modBoot_cores (d : Dev) (f : Boot → Boot) : (d.modBoot f).cores = d.cores := rfl
@[simp] theorem Dev.modBoot_coh (d : Dev) (f : Boot → Boot) : (d.modBoot f).coh = d.coh := rfl
@[simp] theorem Dev.modBoot_xlate (d : Dev) (f : Boot → Boot) : (d.modBoot f).xlate = d.xlate := rfl
@[simp] theorem Dev.modBoot_tiers (d : Dev) (f : Boot → Boot) : (d.modBoot f).tiers = d.tiers := rfl
@[simp] theorem Dev.modBoot_cave (d : Dev) (f : Boot → Boot) : (d.modBoot f).cave = d.cave := rfl
@[simp] theorem Dev.modBoot_hbm (d : Dev) (f : Boot → Boot) : (d.modBoot f).hbm = d.hbm := rfl
@[simp] theorem Dev.modBoot_chain (d : Dev) (f : Boot → Boot) : (d.modBoot f).chain = d.chain := rfl
@[simp] theorem Dev.modBoot_host (d : Dev) (f : Boot → Boot) : (d.modBoot f).host = d.host := rfl
@[simp] theorem Dev.modBoot_sched (d : Dev) (f : Boot → Boot) : (d.modBoot f).sched = d.sched := rfl
@[simp] theorem Dev.modBoot_power (d : Dev) (f : Boot → Boot) : (d.modBoot f).power = d.power := rfl
@[simp] theorem Dev.modBoot_faults (d : Dev) (f : Boot → Boot) : (d.modBoot f).faults = d.faults := rfl
@[simp] theorem Dev.modBoot_sec (d : Dev) (f : Boot → Boot) : (d.modBoot f).sec = d.sec := rfl
@[simp] theorem Dev.modBoot_boot (d : Dev) (f : Boot → Boot) : (d.modBoot f).boot = f d.boot := rfl
@[simp] theorem Dev.modBoot_regs (d : Dev) (f : Boot → Boot) : (d.modBoot f).regs = d.regs := rfl
@[simp] theorem Dev.modBoot_out (d : Dev) (f : Boot → Boot) : (d.modBoot f).out = d.out := rfl

@[simp] theorem Dev.modRegs_mem (d : Dev) (f : Regs → Regs) : (d.modRegs f).mem = d.mem := rfl
@[simp] theorem Dev.modRegs_poison (d : Dev) (f : Regs → Regs) : (d.modRegs f).poison = d.poison := rfl
@[simp] theorem Dev.modRegs_free (d : Dev) (f : Regs → Regs) : (d.modRegs f).free = d.free := rfl
@[simp] theorem Dev.modRegs_count (d : Dev) (f : Regs → Regs) : (d.modRegs f).count = d.count := rfl
@[simp] theorem Dev.modRegs_hubCount (d : Dev) (f : Regs → Regs) : (d.modRegs f).hubCount = d.hubCount := rfl
@[simp] theorem Dev.modRegs_writes (d : Dev) (f : Regs → Regs) : (d.modRegs f).writes = d.writes := rfl
@[simp] theorem Dev.modRegs_anvil (d : Dev) (f : Regs → Regs) : (d.modRegs f).anvil = d.anvil := rfl
@[simp] theorem Dev.modRegs_engines (d : Dev) (f : Regs → Regs) : (d.modRegs f).engines = d.engines := rfl
@[simp] theorem Dev.modRegs_tongs (d : Dev) (f : Regs → Regs) : (d.modRegs f).tongs = d.tongs := rfl
@[simp] theorem Dev.modRegs_tongsNext (d : Dev) (f : Regs → Regs) : (d.modRegs f).tongsNext = d.tongsNext := rfl
@[simp] theorem Dev.modRegs_rennet (d : Dev) (f : Regs → Regs) : (d.modRegs f).rennet = d.rennet := rfl
@[simp] theorem Dev.modRegs_cores (d : Dev) (f : Regs → Regs) : (d.modRegs f).cores = d.cores := rfl
@[simp] theorem Dev.modRegs_coh (d : Dev) (f : Regs → Regs) : (d.modRegs f).coh = d.coh := rfl
@[simp] theorem Dev.modRegs_xlate (d : Dev) (f : Regs → Regs) : (d.modRegs f).xlate = d.xlate := rfl
@[simp] theorem Dev.modRegs_tiers (d : Dev) (f : Regs → Regs) : (d.modRegs f).tiers = d.tiers := rfl
@[simp] theorem Dev.modRegs_cave (d : Dev) (f : Regs → Regs) : (d.modRegs f).cave = d.cave := rfl
@[simp] theorem Dev.modRegs_hbm (d : Dev) (f : Regs → Regs) : (d.modRegs f).hbm = d.hbm := rfl
@[simp] theorem Dev.modRegs_chain (d : Dev) (f : Regs → Regs) : (d.modRegs f).chain = d.chain := rfl
@[simp] theorem Dev.modRegs_host (d : Dev) (f : Regs → Regs) : (d.modRegs f).host = d.host := rfl
@[simp] theorem Dev.modRegs_sched (d : Dev) (f : Regs → Regs) : (d.modRegs f).sched = d.sched := rfl
@[simp] theorem Dev.modRegs_power (d : Dev) (f : Regs → Regs) : (d.modRegs f).power = d.power := rfl
@[simp] theorem Dev.modRegs_faults (d : Dev) (f : Regs → Regs) : (d.modRegs f).faults = d.faults := rfl
@[simp] theorem Dev.modRegs_sec (d : Dev) (f : Regs → Regs) : (d.modRegs f).sec = d.sec := rfl
@[simp] theorem Dev.modRegs_boot (d : Dev) (f : Regs → Regs) : (d.modRegs f).boot = d.boot := rfl
@[simp] theorem Dev.modRegs_regs (d : Dev) (f : Regs → Regs) : (d.modRegs f).regs = f d.regs := rfl
@[simp] theorem Dev.modRegs_out (d : Dev) (f : Regs → Regs) : (d.modRegs f).out = d.out := rfl

@[simp] theorem Dev.emit_mem (d : Dev) (m : OutMsg) : (d.emit m).mem = d.mem := rfl
@[simp] theorem Dev.emit_poison (d : Dev) (m : OutMsg) : (d.emit m).poison = d.poison := rfl
@[simp] theorem Dev.emit_free (d : Dev) (m : OutMsg) : (d.emit m).free = d.free := rfl
@[simp] theorem Dev.emit_count (d : Dev) (m : OutMsg) : (d.emit m).count = d.count := rfl
@[simp] theorem Dev.emit_hubCount (d : Dev) (m : OutMsg) : (d.emit m).hubCount = d.hubCount := rfl
@[simp] theorem Dev.emit_writes (d : Dev) (m : OutMsg) : (d.emit m).writes = d.writes := rfl
@[simp] theorem Dev.emit_anvil (d : Dev) (m : OutMsg) : (d.emit m).anvil = d.anvil := rfl
@[simp] theorem Dev.emit_engines (d : Dev) (m : OutMsg) : (d.emit m).engines = d.engines := rfl
@[simp] theorem Dev.emit_tongs (d : Dev) (m : OutMsg) : (d.emit m).tongs = d.tongs := rfl
@[simp] theorem Dev.emit_tongsNext (d : Dev) (m : OutMsg) : (d.emit m).tongsNext = d.tongsNext := rfl
@[simp] theorem Dev.emit_rennet (d : Dev) (m : OutMsg) : (d.emit m).rennet = d.rennet := rfl
@[simp] theorem Dev.emit_cores (d : Dev) (m : OutMsg) : (d.emit m).cores = d.cores := rfl
@[simp] theorem Dev.emit_coh (d : Dev) (m : OutMsg) : (d.emit m).coh = d.coh := rfl
@[simp] theorem Dev.emit_xlate (d : Dev) (m : OutMsg) : (d.emit m).xlate = d.xlate := rfl
@[simp] theorem Dev.emit_tiers (d : Dev) (m : OutMsg) : (d.emit m).tiers = d.tiers := rfl
@[simp] theorem Dev.emit_cave (d : Dev) (m : OutMsg) : (d.emit m).cave = d.cave := rfl
@[simp] theorem Dev.emit_hbm (d : Dev) (m : OutMsg) : (d.emit m).hbm = d.hbm := rfl
@[simp] theorem Dev.emit_chain (d : Dev) (m : OutMsg) : (d.emit m).chain = d.chain := rfl
@[simp] theorem Dev.emit_host (d : Dev) (m : OutMsg) : (d.emit m).host = d.host := rfl
@[simp] theorem Dev.emit_sched (d : Dev) (m : OutMsg) : (d.emit m).sched = d.sched := rfl
@[simp] theorem Dev.emit_power (d : Dev) (m : OutMsg) : (d.emit m).power = d.power := rfl
@[simp] theorem Dev.emit_faults (d : Dev) (m : OutMsg) : (d.emit m).faults = d.faults := rfl
@[simp] theorem Dev.emit_sec (d : Dev) (m : OutMsg) : (d.emit m).sec = d.sec := rfl
@[simp] theorem Dev.emit_boot (d : Dev) (m : OutMsg) : (d.emit m).boot = d.boot := rfl
@[simp] theorem Dev.emit_regs (d : Dev) (m : OutMsg) : (d.emit m).regs = d.regs := rfl
@[simp] theorem Dev.emit_out (d : Dev) (m : OutMsg) : (d.emit m).out = d.out ++ [m] := rfl

@[simp] theorem Dev.modEng_mem (d : Dev) (i : Fin 128) (f : Engine → Engine) : (d.modEng i f).mem = d.mem := rfl
@[simp] theorem Dev.modEng_poison (d : Dev) (i : Fin 128) (f : Engine → Engine) : (d.modEng i f).poison = d.poison := rfl
@[simp] theorem Dev.modEng_free (d : Dev) (i : Fin 128) (f : Engine → Engine) : (d.modEng i f).free = d.free := rfl
@[simp] theorem Dev.modEng_count (d : Dev) (i : Fin 128) (f : Engine → Engine) : (d.modEng i f).count = d.count := rfl
@[simp] theorem Dev.modEng_hubCount (d : Dev) (i : Fin 128) (f : Engine → Engine) : (d.modEng i f).hubCount = d.hubCount := rfl
@[simp] theorem Dev.modEng_writes (d : Dev) (i : Fin 128) (f : Engine → Engine) : (d.modEng i f).writes = d.writes := rfl
@[simp] theorem Dev.modEng_anvil (d : Dev) (i : Fin 128) (f : Engine → Engine) : (d.modEng i f).anvil = d.anvil := rfl
@[simp] theorem Dev.modEng_tongs (d : Dev) (i : Fin 128) (f : Engine → Engine) : (d.modEng i f).tongs = d.tongs := rfl
@[simp] theorem Dev.modEng_tongsNext (d : Dev) (i : Fin 128) (f : Engine → Engine) : (d.modEng i f).tongsNext = d.tongsNext := rfl
@[simp] theorem Dev.modEng_rennet (d : Dev) (i : Fin 128) (f : Engine → Engine) : (d.modEng i f).rennet = d.rennet := rfl
@[simp] theorem Dev.modEng_cores (d : Dev) (i : Fin 128) (f : Engine → Engine) : (d.modEng i f).cores = d.cores := rfl
@[simp] theorem Dev.modEng_coh (d : Dev) (i : Fin 128) (f : Engine → Engine) : (d.modEng i f).coh = d.coh := rfl
@[simp] theorem Dev.modEng_xlate (d : Dev) (i : Fin 128) (f : Engine → Engine) : (d.modEng i f).xlate = d.xlate := rfl
@[simp] theorem Dev.modEng_tiers (d : Dev) (i : Fin 128) (f : Engine → Engine) : (d.modEng i f).tiers = d.tiers := rfl
@[simp] theorem Dev.modEng_cave (d : Dev) (i : Fin 128) (f : Engine → Engine) : (d.modEng i f).cave = d.cave := rfl
@[simp] theorem Dev.modEng_hbm (d : Dev) (i : Fin 128) (f : Engine → Engine) : (d.modEng i f).hbm = d.hbm := rfl
@[simp] theorem Dev.modEng_chain (d : Dev) (i : Fin 128) (f : Engine → Engine) : (d.modEng i f).chain = d.chain := rfl
@[simp] theorem Dev.modEng_host (d : Dev) (i : Fin 128) (f : Engine → Engine) : (d.modEng i f).host = d.host := rfl
@[simp] theorem Dev.modEng_sched (d : Dev) (i : Fin 128) (f : Engine → Engine) : (d.modEng i f).sched = d.sched := rfl
@[simp] theorem Dev.modEng_power (d : Dev) (i : Fin 128) (f : Engine → Engine) : (d.modEng i f).power = d.power := rfl
@[simp] theorem Dev.modEng_faults (d : Dev) (i : Fin 128) (f : Engine → Engine) : (d.modEng i f).faults = d.faults := rfl
@[simp] theorem Dev.modEng_sec (d : Dev) (i : Fin 128) (f : Engine → Engine) : (d.modEng i f).sec = d.sec := rfl
@[simp] theorem Dev.modEng_boot (d : Dev) (i : Fin 128) (f : Engine → Engine) : (d.modEng i f).boot = d.boot := rfl
@[simp] theorem Dev.modEng_regs (d : Dev) (i : Fin 128) (f : Engine → Engine) : (d.modEng i f).regs = d.regs := rfl
@[simp] theorem Dev.modEng_out (d : Dev) (i : Fin 128) (f : Engine → Engine) : (d.modEng i f).out = d.out := rfl

@[simp] theorem Dev.modCore_mem (d : Dev) (i : Fin 64) (f : Core → Core) : (d.modCore i f).mem = d.mem := rfl
@[simp] theorem Dev.modCore_poison (d : Dev) (i : Fin 64) (f : Core → Core) : (d.modCore i f).poison = d.poison := rfl
@[simp] theorem Dev.modCore_free (d : Dev) (i : Fin 64) (f : Core → Core) : (d.modCore i f).free = d.free := rfl
@[simp] theorem Dev.modCore_count (d : Dev) (i : Fin 64) (f : Core → Core) : (d.modCore i f).count = d.count := rfl
@[simp] theorem Dev.modCore_hubCount (d : Dev) (i : Fin 64) (f : Core → Core) : (d.modCore i f).hubCount = d.hubCount := rfl
@[simp] theorem Dev.modCore_writes (d : Dev) (i : Fin 64) (f : Core → Core) : (d.modCore i f).writes = d.writes := rfl
@[simp] theorem Dev.modCore_anvil (d : Dev) (i : Fin 64) (f : Core → Core) : (d.modCore i f).anvil = d.anvil := rfl
@[simp] theorem Dev.modCore_engines (d : Dev) (i : Fin 64) (f : Core → Core) : (d.modCore i f).engines = d.engines := rfl
@[simp] theorem Dev.modCore_tongs (d : Dev) (i : Fin 64) (f : Core → Core) : (d.modCore i f).tongs = d.tongs := rfl
@[simp] theorem Dev.modCore_tongsNext (d : Dev) (i : Fin 64) (f : Core → Core) : (d.modCore i f).tongsNext = d.tongsNext := rfl
@[simp] theorem Dev.modCore_rennet (d : Dev) (i : Fin 64) (f : Core → Core) : (d.modCore i f).rennet = d.rennet := rfl
@[simp] theorem Dev.modCore_coh (d : Dev) (i : Fin 64) (f : Core → Core) : (d.modCore i f).coh = d.coh := rfl
@[simp] theorem Dev.modCore_xlate (d : Dev) (i : Fin 64) (f : Core → Core) : (d.modCore i f).xlate = d.xlate := rfl
@[simp] theorem Dev.modCore_tiers (d : Dev) (i : Fin 64) (f : Core → Core) : (d.modCore i f).tiers = d.tiers := rfl
@[simp] theorem Dev.modCore_cave (d : Dev) (i : Fin 64) (f : Core → Core) : (d.modCore i f).cave = d.cave := rfl
@[simp] theorem Dev.modCore_hbm (d : Dev) (i : Fin 64) (f : Core → Core) : (d.modCore i f).hbm = d.hbm := rfl
@[simp] theorem Dev.modCore_chain (d : Dev) (i : Fin 64) (f : Core → Core) : (d.modCore i f).chain = d.chain := rfl
@[simp] theorem Dev.modCore_host (d : Dev) (i : Fin 64) (f : Core → Core) : (d.modCore i f).host = d.host := rfl
@[simp] theorem Dev.modCore_sched (d : Dev) (i : Fin 64) (f : Core → Core) : (d.modCore i f).sched = d.sched := rfl
@[simp] theorem Dev.modCore_power (d : Dev) (i : Fin 64) (f : Core → Core) : (d.modCore i f).power = d.power := rfl
@[simp] theorem Dev.modCore_faults (d : Dev) (i : Fin 64) (f : Core → Core) : (d.modCore i f).faults = d.faults := rfl
@[simp] theorem Dev.modCore_sec (d : Dev) (i : Fin 64) (f : Core → Core) : (d.modCore i f).sec = d.sec := rfl
@[simp] theorem Dev.modCore_boot (d : Dev) (i : Fin 64) (f : Core → Core) : (d.modCore i f).boot = d.boot := rfl
@[simp] theorem Dev.modCore_regs (d : Dev) (i : Fin 64) (f : Core → Core) : (d.modCore i f).regs = d.regs := rfl
@[simp] theorem Dev.modCore_out (d : Dev) (i : Fin 64) (f : Core → Core) : (d.modCore i f).out = d.out := rfl

end Sys2Proof.Machine
end

