-- ==== Sys2Proof/Laws/Tables.lean ====
section
/-!
SUPPORT. Reading a table after writing it, and the accessors of engines, cores, steps and contexts that rest on it.
-/
namespace Sys2Proof.Machine

@[simp] theorem tget_tput_self {α : Type} (t : Tbl α) (n : Nat) (x : α) : tget (tput t n x) n = some x := by
  induction t with
  | nil => simp [tput, tget]
  | cons p t ih =>
    obtain ⟨k, v⟩ := p
    by_cases h1 : n < k
    · simp [tput, tget, h1]
    · by_cases h2 : n = k
      · simp [tput, tget, h2]
      · have h3 : k ≠ n := fun e => h2 e.symm
        simp [tput, tget, h1, h2, h3, ih]

theorem tget_tput_ne {α : Type} (t : Tbl α) {n m : Nat} (x : α) (h : m ≠ n) : tget (tput t n x) m = tget t m := by
  have h' : n ≠ m := fun e => h e.symm
  induction t with
  | nil => simp [tput, tget, h']
  | cons p t ih =>
    obtain ⟨k, v⟩ := p
    by_cases h1 : n < k
    · simp [tput, tget, h1, h']
    · by_cases h2 : n = k
      · subst h2
        simp [tput, tget, h']
      · simp only [tput, h1, h2, if_false, tget, ih]

theorem tget_tdel_self {α : Type} (t : Tbl α) (n : Nat) : tget (tdel t n) n = none := by
  induction t with
  | nil => rfl
  | cons p t ih =>
    obtain ⟨k, v⟩ := p
    by_cases h : k = n
    · simpa [tdel, h] using ih
    · simpa [tdel, h, tget] using ih

theorem tget_tdel_ne {α : Type} (t : Tbl α) {n m : Nat} (h : m ≠ n) : tget (tdel t n) m = tget t m := by
  induction t with
  | nil => rfl
  | cons p t ih =>
    obtain ⟨k, v⟩ := p
    by_cases hk : k = n
    · subst hk
      have hm : k ≠ m := fun e => h e.symm
      simpa [tdel, tget, hm] using ih
    · by_cases hm : k = m
      · subst hm
        simp [tdel, tget, h]
      · simpa [tdel, hk, tget, hm] using ih

@[simp] theorem tgetD_tput_self {α : Type} (t : Tbl α) (n : Nat) (x y : α) : tgetD (tput t n x) n y = x := by
  simp [tgetD]

theorem tgetD_tput_ne {α : Type} (t : Tbl α) {n m : Nat} (x y : α) (h : m ≠ n) :
    tgetD (tput t n x) m y = tgetD t m y := by
  simp [tgetD, tget_tput_ne t x h]

theorem tget_tmod_self {α : Type} (t : Tbl α) (n : Nat) (f : α → α) : tget (tmod t n f) n = (tget t n).map f := by
  unfold tmod
  cases h : tget t n with
  | none => simp [h]
  | some x => simp

theorem tget_tmod_ne {α : Type} (t : Tbl α) {n m : Nat} (f : α → α) (h : m ≠ n) :
    tget (tmod t n f) m = tget t m := by
  unfold tmod
  cases tget t n with
  | none => rfl
  | some x => exact tget_tput_ne t _ h

/-! ### Engines and cores -/

@[simp] theorem Dev.eng_modEng_self (d : Dev) (e : Fin 128) (f : Engine → Engine) : (d.modEng e f).eng e = f (d.eng e) := by
  simp [Dev.modEng, Dev.setEng, Dev.eng]

theorem Dev.eng_modEng_ne (d : Dev) {e g : Fin 128} (f : Engine → Engine) (h : g ≠ e) :
    (d.modEng e f).eng g = d.eng g := by
  have : g.val ≠ e.val := fun x => h (Fin.ext x)
  simp [Dev.modEng, Dev.setEng, Dev.eng, tgetD_tput_ne _ _ _ this]

@[simp] theorem Dev.core_modCore_self (d : Dev) (h : Fin 64) (f : Core → Core) : (d.modCore h f).core h = f (d.core h) := by
  simp [Dev.modCore, Dev.setCore, Dev.core]

theorem Dev.core_modCore_ne (d : Dev) {h g : Fin 64} (f : Core → Core) (hn : g ≠ h) :
    (d.modCore h f).core g = d.core g := by
  have : g.val ≠ h.val := fun x => hn (Fin.ext x)
  simp [Dev.modCore, Dev.setCore, Dev.core, tgetD_tput_ne _ _ _ this]

theorem Dev.step?_modStep_self (d : Dev) (n : Nat) (f : Step → Step) : (d.modStep n f).step? n = (d.step? n).map f := by
  simp [Dev.modStep, Dev.modSched, Dev.step?, tget_tmod_self]

theorem Dev.step?_modStep_ne (d : Dev) {n m : Nat} (f : Step → Step) (h : m ≠ n) :
    (d.modStep n f).step? m = d.step? m := by
  simp [Dev.modStep, Dev.modSched, Dev.step?, tget_tmod_ne _ _ h]

theorem Dev.ctx?_modCtx_self (d : Dev) (c : Nat) (f : Ctx → Ctx) : (d.modCtx c f).ctx? c = (d.ctx? c).map f := by
  simp [Dev.modCtx, Dev.modHost, Dev.ctx?, tget_tmod_self]

theorem Dev.ctx?_modCtx_ne (d : Dev) {c k : Nat} (f : Ctx → Ctx) (h : k ≠ c) : (d.modCtx c f).ctx? k = d.ctx? k := by
  simp [Dev.modCtx, Dev.modHost, Dev.ctx?, tget_tmod_ne _ _ h]

end Sys2Proof.Machine
end

