-- ==== Sys2Proof/Laws/Ops.lean ====
section
/-!
SUPPORT. For each shared operation, once, everything it can do: the fields it may change and the value it leaves in them.
-/
namespace Sys2Proof.Machine

/-! ### A command's frame on the queue -/

/-- A meaning over the package alone answers a next state with that package and the same queue. -/
theorem onDev_eq (s : State) (f : Dev → Dev) : onDev s f = .next { s with dev := f s.dev } := rfl

theorem onDev_next {s t : State} {f : Dev → Dev} (h : onDev s f = .next t) : t.dev = f s.dev ∧ t.pending = s.pending := by
  cases h; exact ⟨rfl, rfl⟩

/-- What every part of a fold keeps, the fold keeps. -/
theorem foldDev_keeps {α : Type} (P : Dev → Prop) {f : Dev → α → Dev} (hf : ∀ d x, P d → P (f d x)) (l : List α) {d : Dev}
    (h : P d) : P (foldDev d l f) := by
  induction l generalizing d with
  | nil => exact h
  | cons x t ih => exact ih (hf d x h)

/-! ### Events, outputs and free values -/

/-- An event changes the host interface alone. -/
theorem Dev.raise_only (d : Dev) (e : Event) : { d.raise e with host := d.host } = d := rfl

/-- R459: an event is appended with its time while a record can be held, and an ADMIN_DONE always. -/
theorem Dev.raise_held (d : Dev) (e : Event) (h : d.host.canHold = true ∨ e.kind = 1) :
    (d.raise e).host = { d.host with evtQ := d.host.evtQ ++ [{ e with t := d.dieCount e.die }] } := by
  rcases h with h | h <;> simp [Dev.raise, h]

/-- R459: any other event that cannot be held is dropped and counted. -/
theorem Dev.raise_dropped (d : Dev) (e : Event) (h : d.host.canHold = false) (hk : e.kind ≠ 1) :
    (d.raise e).host = { d.host with evtDrop := sat32 (d.host.evtDrop + 1), evtLost := d.host.evtLost + 1 } := by
  simpa [Dev.raise, h] using hk

/-- An output changes the record of outputs alone. -/
theorem Dev.emit_eq (d : Dev) (m : OutMsg) : d.emit m = { d with out := d.out ++ [m] } := rfl

/-- A free value spends its number. -/
theorem Dev.draw_eq (d : Dev) : d.draw = (d.free, { d with free := d.free + 1 }) := rfl

/-- R461: a binding signals a vector, marks a masked one, or sets an IMSIC identity; nothing else changes. -/
theorem Dev.signal_only (d : Dev) (b : Word) : { d.signal b with host := d.host, out := d.out, cores := d.cores } = d := by
  unfold Dev.signal
  dsimp only
  split
  · split <;> rfl
  · split <;> rfl

/-! ### Memory -/

/-- A write of bytes changes memory alone, and keeps its form. -/
theorem Dev.wr_eq (d : Dev) (off : Nat) (bs : List Byte) : d.wr off bs = { d with mem := cellsPut d.mem off bs } := rfl

theorem Dev.wr_wf (d : Dev) (off : Nat) (bs : List Byte) (h : Memory.wf d.mem = true) : Memory.wf (d.wr off bs).mem = true :=
  cellsPut_wf off bs h

/-! ### Tables of units -/

theorem Dev.port_modPort_self (d : Dev) (p : Nat) (f : Port → Port) : (d.modPort p f).port p = f (d.port p) := by
  simp [Dev.modPort, Dev.port, Dev.modChain]

theorem Dev.port_modPort_ne (d : Dev) {p q : Nat} (f : Port → Port) (h : q ≠ p) : (d.modPort p f).port q = d.port q := by
  simp [Dev.modPort, Dev.port, Dev.modChain, tgetD_tput_ne _ _ _ h]

theorem Dev.apt_setApt_self (d : Dev) (i : Nat) (a : Aperture) : (d.setApt i a).apt i = a := by
  simp [Dev.setApt, Dev.apt, Dev.modHost]

theorem Dev.apt_setApt_ne (d : Dev) {i k : Nat} (a : Aperture) (h : k ≠ i) : (d.setApt i a).apt k = d.apt k := by
  simp [Dev.setApt, Dev.apt, Dev.modHost, tgetD_tput_ne _ _ _ h]

theorem Dev.obj_setObj_self (d : Dev) (n : Nat) (o : RObj) : (d.setObj n o).obj n = o := by
  simp [Dev.setObj, Dev.obj, Dev.modRennet]

theorem Dev.obj_setObj_ne (d : Dev) {n m : Nat} (o : RObj) (h : m ≠ n) : (d.setObj n o).obj m = d.obj m := by
  simp [Dev.setObj, Dev.obj, Dev.modRennet, tgetD_tput_ne _ _ _ h]

theorem Dev.domSt_setDom_self (d : Dev) (n : Nat) (x : DomSt) : (d.setDom n x).domSt n = x := by
  simp [Dev.setDom, Dev.domSt, Dev.modPower]

theorem Dev.domSt_setDom_ne (d : Dev) {n m : Nat} (x : DomSt) (h : m ≠ n) : (d.setDom n x).domSt m = d.domSt m := by
  simp [Dev.setDom, Dev.domSt, Dev.modPower, tgetD_tput_ne _ _ _ h]

theorem Dev.ctx_modCtx_self (d : Dev) (c : Nat) (f : Ctx → Ctx) : (d.modCtx c f).ctx? c = (d.ctx? c).map f := by
  simp [Dev.modCtx, Dev.ctx?, Dev.modHost, tget_tmod_self]

theorem Dev.ctx_modCtx_ne (d : Dev) {c k : Nat} (f : Ctx → Ctx) (h : k ≠ c) : (d.modCtx c f).ctx? k = d.ctx? k := by
  simp [Dev.modCtx, Dev.ctx?, Dev.modHost, tget_tmod_ne _ _ h]

theorem Dev.step_modStep_self (d : Dev) (n : Nat) (f : Step → Step) : (d.modStep n f).step? n = (d.step? n).map f := by
  simp [Dev.modStep, Dev.step?, Dev.modSched, tget_tmod_self]

theorem Dev.step_modStep_ne (d : Dev) {n k : Nat} (f : Step → Step) (h : k ≠ n) : (d.modStep n f).step? k = d.step? k := by
  simp [Dev.modStep, Dev.step?, Dev.modSched, tget_tmod_ne _ _ h]

theorem Dev.frame_modFrame_ne (d : Dev) {n k : Nat} (g : Frame → Frame) (h : k ≠ n) : (d.modFrame n g).frame k = d.frame k := by
  simp [Dev.modFrame, Dev.frame, Dev.modTiers, tgetD, tget_tmod_ne _ _ h]

/-! ### The admin ring -/

/-- A command of a ring that does not take it changes nothing (R454). -/
theorem Dev.admin_closed (d : Dev) (c : AdmCmd) (f : Dev → AdmRes) (h : d.adminOpen = false) : d.admin c f = d := by
  simp [Dev.admin, h]

end Sys2Proof.Machine
end

