-- ==== Sys2Proof/Machine/Lands.lean ====
section
/-!
DEFINITION. The land array (R590 to R592): which sites are populated, the region that each lies in (Table 21.1), and the land
that each signal takes.
-/
namespace Sys2Proof.Machine

/-- A site of the 106 × 116 grid. -/
structure Land where
  row : Nat
  col : Nat
deriving DecidableEq, Repr

/-- Codes of Table 21.1. -/
inductive LandRegion where
  | pwr
  | sys
  | pci
  | chn
  | ddr
  | nfc
  | gnd
deriving DecidableEq, Repr

/-- Whether `n` lies from `lo` to `hi`. -/
def landSpan (lo hi n : Nat) : Bool := decide (lo ≤ n) && decide (n ≤ hi)

/-- Whether a site carries a land: not in the land-free field and not at a corner (R590). -/
def Land.populated (l : Land) : Bool :=
  landSpan 1 106 l.row && landSpan 1 116 l.col && !(landSpan 31 90 l.row && landSpan 27 88 l.col) &&
  !((landSpan 1 3 l.row || landSpan 104 106 l.row) && (landSpan 1 3 l.col || landSpan 114 116 l.col))

/-- The region of a populated site (Table 21.1). -/
def Land.region (l : Land) : LandRegion :=
  if landSpan 9 16 l.row && landSpan 30 87 l.col then .pwr
  else if landSpan 1 8 l.row && landSpan 30 59 l.col then .sys
  else if landSpan 1 8 l.row && landSpan 60 87 l.col then .pci
  else if landSpan 1 20 l.row && (landSpan 1 29 l.col || landSpan 88 116 l.col) then .chn
  else if landSpan 21 104 l.row && (landSpan 1 14 l.col || landSpan 103 116 l.col) then .ddr
  else if landSpan 95 106 l.row && landSpan 15 102 l.col then .nfc
  else .gnd

/-- The true and complement legs of a differential pair. -/
structure LandPair where
  t : Land
  c : Land
deriving DecidableEq, Repr

/-- Lands of VIN52 and VIN52_RTN. -/
def landVin (l : Land) : Bool := landSpan 11 12 l.row && landSpan 34 81 l.col
def landRtn (l : Land) : Bool := landSpan 14 15 l.row && landSpan 34 81 l.col

/-- The TX or RX pair of a Chain port's lane: ports 0 to 7 in the west columns, 8 to 15 mirrored in the east. -/
def landChain (port lane : Nat) (rx : Bool) : LandPair :=
  let row := 2 * (port % 8) + (if rx then 4 else 3)
  let at_ (c : Nat) : Land := ⟨row, if port < 8 then c else 117 - c⟩
  ⟨at_ (3 * lane + 4), at_ (3 * lane + 5)⟩

def landChainClk : LandPair := ⟨⟨1, 14⟩, ⟨1, 15⟩⟩

/-- The TX or RX pair of a PCIe lane. -/
def landPcie (lane : Nat) (rx : Bool) : LandPair :=
  let row := (if lane < 8 then 2 else 6) + (if rx then 2 else 0)
  ⟨⟨row, 61 + 3 * (lane % 8)⟩, ⟨row, 62 + 3 * (lane % 8)⟩⟩

def landPcieClk : LandPair := ⟨⟨1, 72⟩, ⟨1, 73⟩⟩

/-- The rows and the columns of a memory channel's block. -/
structure LandBlock where
  rows : List Nat
  cols : List Nat
deriving DecidableEq, Repr

def blockDdr (c : Nat) : LandBlock :=
  ⟨(List.range 21).map (21 + 21 * (c % 4) + ·), (List.range 14).map ((if c < 4 then 1 else 103) + ·)⟩

def blockNfc (k : Nat) : LandBlock :=
  ⟨(List.range 6).map ((if k < 8 then 95 else 101) + ·), (List.range 11).map (15 + 11 * (k % 8) + ·)⟩

/-- A block's sites in signal order: row by row from north, within a row from west, without those whose row plus column is a
multiple of 3. -/
def LandBlock.sites (b : LandBlock) : List Land :=
  b.rows.flatMap (fun r => b.cols.filterMap (fun c => if (r + c) % 3 = 0 then none else some ⟨r, c⟩))

/-- The land of the n-th signal of a block, in the order of Table 21.2. -/
def LandBlock.land (b : LandBlock) (n : Nat) : Option Land := b.sites[n]?

/-- Numbers of signals of one DDR and one ONFI channel (Table 21.2). -/
def ddrSignals : Nat := 2 * (32 + 8 + 20 + 7 + 2 + 2 + 1) + 4
def onfiSignals : Nat := 8 + 2 + 2 + 4 + 8 + 1

/-- Lands of the GPIO pins (Table 21.3). -/
def landGpio (n : Nat) : Land := if n = 15 then ⟨6, 45⟩ else ⟨8, 31 + 2 * n⟩

/-- Land of FSPI_IO[n] (Table 21.3). -/
def landFspi (n : Nat) : Land := ⟨4, 41 + 2 * n⟩

end Sys2Proof.Machine
end

