-- ==== Sys2Proof/Tests/Slice0.lean ====
section
/-!
SUPPORT. Tests of the model: a refusal of `WellFormed` for each of its checks, words decoded by hand from the spec's
layouts, small results that the spec states, and for every statement with hypotheses concrete values that meet them.
-/
namespace Sys2Proof
open Machine
set_option Elab.async false

/-! ### Small states that the witnesses use -/

def wDev : Dev := { State.reset.dev with
  sec := {}
  mem := [(0x1000, 0xDF), (0x1005, 0xC0), (0x1006, 0x3F)],
  tiers := { State.reset.dev.tiers with frames := [(0, { back := .hbm })] },
  boot := { State.reset.dev.boot with st := .ready, waitPerst := false },
  host := { State.reset.dev.host with adm := { log2 := 4, en := true }, admTail := 5, admHead := 2, evt := { log2 := 8, en := true }, linkUp := true },
  power := { State.reset.dev.power with pstate := .working, vinOk := true, dom := [] } }
def wS : State := { dev := wDev, pending := [] }
def wOps (l : List Word) : AdmCmd := { cid := 7, rsvd := false, ops := l ++ List.replicate (7 - l.length) 0 }
def wCtx : Ctx := { pd := 4, ring := 0x1000, log2 := 6, head := 8, bind := 0, modCount := 3, modDelay := 2, root := some (0xFF000000001, 0) }
def wC : State := { wS with dev := { wDev with host := { wDev.host with ctxs := [(3, wCtx)] } } }
def wL : State := { wC with dev := { wC.dev with host := { wC.dev.host with lines := [(1, { pd := 4, addr := 0xFD000000002000 })] } } }
def wR : State := { wL with dev := { wL.dev with host := { wL.dev.host with rings := [(17, { ctx := 3, cls := 2, base := 0, log2 := 4, head := 1, tail := 4 })] } } }
def wReg : PRegion := { ctx := 3, off := 0x1000, len := 0x1000, vbase := 0x2000, pages := [7], counter := some 5, read := true }
def wG (st : RegSt) : State := { wC with dev := { wC.dev with host := { wC.dev.host with regions := [(9, { wReg with st := st })] } } }
def wO (st : Option ROwner) : State := { wC with dev := { wC.dev with rennet := { wC.dev.rennet with pool := ⟨4096, 4096⟩, objs := [(0, { owner := st }), (70000, { owner := st })] } } }
def wStep : Step := { ring := 17, ctx := 3, cls := 2, count := 1, desc := { image := 0, args := 0, tag := 9, serial := false }, phase := .running, engines := [3], vat := ⟨(0, 4096), (0, 4096)⟩ }
def wEng : Engine := { x := [(10, 5), (11, BitVec.ofNat 64 (0xFF * 2 ^ 48 + vatBase + 4088)), (12, 3), (13, BitVec.ofNat 64 (0xFF * 2 ^ 48 + rennetBase + 64 * 7))], run := .running, step := some 0, l1d := [(1, [])], l1i := [4] }
def wE : State := { wC with dev := { wC.dev with engines := [(3, wEng)], sched := { wC.dev.sched with steps := [(0, wStep)], next := 1 } } }
def wPut (m : List Host.Cell) (a : Nat) (bs : List Byte) : List Host.Cell := cellsPut m a bs
def wView (lo : Byte) : List Byte := [lo, 2, 0, 0x40, 0, 0, 0, 0, 1, 0, 1, 0, 1, 0, 1, 0, 1, 0, 1, 0] ++ List.replicate 44 0
def wOpBytes : List Byte := [1, 1, 0x10, 0, 0, 0, 0, 0, 0, 1, 0, 0, 0, 0, 0, 0, 3, 0, 3, 0, 3] ++ List.replicate 107 0 ++
  ([0, 0, 0, 0, 0x40, 1, 0, 0, 0x80, 1, 0, 0, 0xC0, 1, 0, 0] ++ List.replicate 48 0) ++ wView 0 ++ wView 0x40 ++ wView 0x80
def wTBytes : List Byte := [0x31, 0, 0, 0, 0, 0, 0, 0, 0, 0, 0, 0, 0, 0, 0, 0, 0, 2, 0, 0, 0, 0, 0, 0, 0, 4, 0, 0, 0, 0, 0, 0, 0, 0, 0, 0, 0, 0, 0, 0, 64, 0, 0, 0, 1, 0, 1, 0, 1]
def wU (a : Nat) : State := { wE with dev := { wE.dev with xlate := ⟨{ tlb := [⟨.data 3, 3, 1, 12, BitVec.ofNat 64 (0xFF * 2 ^ 46 + 0x4DF)⟩] }, {}⟩, engines := [(3, { wEng with x := [(11, BitVec.ofNat 64 a)] })] } }
def wEd : State := { wE with dev := { wE.dev with sec := { wE.dev.sec with session := some { priv := 0xFFFFFFFFFFFFFFFF, life := 100, vendor := false } } } }
def wFe : State := { wU 0 with dev := { (wU 0).dev with engines := [(3, { wEng with pc := 0x1000, l1i := [] })], xlate := ⟨{ tlb := [⟨.inst 3, 3, 1, 12, BitVec.ofNat 64 (0xFF * 2 ^ 46 + 0x4DF)⟩] }, {}⟩ } }
def wFd (b : Bool) : Dev := match wFe.dev.fetch 3 b .ok with | .ok d => d | _ => {}
def wVec (xfd : List (Nat × BitVec 24)) : State := { wE with dev := { wE.dev with engines := [(3, { wEng with vtype := 0xD0, vl := 1, xfd := xfd, v := [(8, 0x3F800000), (16, 0x38), (24, 0x7F)] })] } }
def wStC : Step := { wStep with image := { decl := ⟨{ cur := 1 }, {}⟩ } }
def wI : State := { wE with dev := { wE.dev with mem := wPut wE.dev.mem (vatOff 128) wOpBytes, anvil := { wE.dev.anvil with issues := [3], next := 4 }, engines := [(3, { wEng with run := .issue 5 128 })], sched := { wE.dev.sched with steps := [(0, wStC)] } } }
def wOd : OpDesc := match opCheck wI.dev wStC 128 with | .ok o => o | _ => opOf 0
def wAop : AOp := { step := 0, ticket := 1, desc := { wOd with span := 2 } }
def wQd : State := { wE with dev := { wE.dev with anvil := { wE.dev.anvil with ops := [(6, wAop)], queue := ⟨[6], [6]⟩ } } }
def wQs : State := { wE with dev := { wE.dev with anvil := { wE.dev.anvil with ops := [(6, { wAop with started := ⟨true, true⟩ })], queue := ⟨[6], [6]⟩ } } }
def wRing : Ring := { ctx := 3, cls := 2, base := 0xFD000000004000, log2 := 4, head := 1, tail := 4 }
def wRn : State := { wR with dev := { wR.dev with host := { wR.dev.host with rings := [(17, wRing)] } } }
def wElf (va : Nat) : List Byte :=
  let sect (nm off size : Nat) : List Byte := leBytes 4 nm ++ leBytes 4 1 ++ leBytes 16 0 ++ leBytes 8 off ++ leBytes 8 size ++ leBytes 24 0
  [0x7F, 0x45, 0x4C, 0x46, 2, 1, 1, 0, 0, 0, 0, 0, 0, 0, 0, 0, 2, 0, 243, 0, 0, 0, 0, 0] ++ leBytes 8 0 ++ leBytes 8 64 ++ leBytes 8 128 ++
    [0, 0, 0, 0, 0, 0, 56, 0, 1, 0, 64, 0, 3, 0, 0, 0] ++
    (leBytes 4 1 ++ leBytes 4 5 ++ leBytes 8 0 ++ leBytes 8 va ++ leBytes 8 0 ++ leBytes 8 392 ++ leBytes 8 392 ++ leBytes 8 0) ++ leBytes 8 0 ++
    sect 0 320 25 ++ sect 1 352 32 ++ sect 13 384 8 ++
    ([0] ++ nameBytes ".rurix.decl" ++ nameBytes ".rurix.kern" ++ leBytes 7 0) ++
    (leBytes 8 0x10001 ++ leBytes 8 0x1000 ++ leBytes 16 0) ++ leBytes 8 va
def wSt1 : Step := { ring := 17, ctx := 3, cls := 2, count := 1, desc := { image := 0x1000, args := 0x2000, tag := 9, serial := false } }
def wPte (p : Nat) : Word := BitVec.ofNat 64 (at_ 10 p + 0xDF)
def wPh : State := { wS with dev := { wS.dev with sched := { wS.dev.sched with steps := [(0, wSt1)], next := 1 }, xlate := ⟨{ tlb := [⟨.shared, 3, 1, 12, wPte 0xFD000000001⟩, ⟨.shared, 3, 2, 12, wPte 0xFD000000002⟩] }, {}⟩ } }
def wExt : List Byte := List.replicate 512 0 ++ wElf 0x1000
def wImgS : Image × List Seg := match wPh.dev.phase1 0 wSt1 wExt with | .ok i => i | _ => ({}, [])
def wSt3 : Step := { wStep with phase := .filling, image := { kernels := [0x1000, 0x2000] }, vat := ⟨(0, 64), (0, 0)⟩ }
def wFi : State := { wE with dev := { wE.dev with sched := { wE.dev.sched with steps := [(0, wSt3)] } } }
def wK (k : Nat) : Step := { wStep with image := { kernels := [0x1000, 0x2000] }, kernel := k }
def wKe (k : Nat) : State := { wE with dev := { wE.dev with sched := { wE.dev.sched with steps := [(0, wK k)] }, engines := [(3, { wEng with run := .kended })] } }
def wDr : Step := { wStep with phase := .draining, outcome := some {} }
def wDrs : State := { wE with dev := { wE.dev with sched := { wE.dev.sched with steps := [(0, wDr)] } } }
def wRec : CRec := stepRec 0 wDr
def wCx : Ctx := { wCtx with recs := [wRec], ring := 0xFD000000005000 }
def wPo : State := { wE with dev := { wE.dev with host := { wE.dev.host with ctxs := [(3, wCx)] }, sched := { wE.dev.sched with steps := [(0, { wDr with phase := .recorded })] } } }
def wTe : State := { wE with dev := { wE.dev with mem := wPut wE.dev.mem (vatOff 0) wTBytes, engines := [(3, { wEng with run := .tissue 5 0 1 })] } }
def wTd : TDesc := match xferCheck wTe.dev wStep 0 with | .ok o => o | _ => tdescOf 0
def wXf : Xfer := { ticket := 1, step := 0, desc := wTd }
def wXs (x : Xfer) : State := { wE with dev := { wE.dev with mem := wPut wE.dev.mem (vatOff 0x200) [9, 8, 7], tongs := [(13, [x])], tongsNext := [(1, 3)] } }
def wB1 : State := { wE with dev := { wE.dev with sched := { wE.dev.sched with half := ⟨{}, { blocked := [4] }⟩ } } }
def wV (p : Phase) (v : Option Nat) : Step := { wStep with phase := p, victimOf := v }
def wVs (p : Phase) (v : Option Nat) : State := { wE with dev := { wE.dev with power := { wE.dev.power with dom := [(5, .on)] }, sched := { wE.dev.sched with steps := [(0, wV p v)] } } }
def w04s1 : AOp := { wAop with started := ⟨true, true⟩ }
def w04s2 : State := { wE with dev := { wE.dev with anvil := { wE.dev.anvil with failedCols := ⟨[], [1023, 5]⟩ } } }
def w04s3 : State := { wE with dev := { wE.dev with mem := wPut [] (vatOff 0x10000000) [1, 2, 3], sched := { wE.dev.sched with half := ⟨{}, { clearing := [(0, 4096), (8192, 4096)] }⟩ } } }
def w04s4 : State := wXs { wXf with row := 1 }
def w04s5 : Xfer := { wXf with row := 1 }
def wSrc : RSrc := { node := 0xFF, srct := 0, srcid := 3, half := .west, ctx := 3, pd := 4 }
def wN (o : RObj) (ms : List RMsg) : State := { wE with dev := { wE.dev with rennet := { wE.dev.rennet with objs := [(5, { o with owner := some (.ctx 3) })], msgs := ms } } }
def wArr (s : State) (m : RMsg) : Dev := match s.dev.arriveTag m with | some (_, d) => d | none => {}
def wSg (v : Word) : RMsg := .sig wSrc .sig 5 v
def wOb1 : RObj := { count := 3, thresh := 4, rcnt := 1, rbase := 7 }
def wOb2 : RObj := { count := 3, thresh := 4, typ := .semaphore }
def wOb3 : RObj := { count := 3, thresh := 4, typ := .barrier, mask := 7 }
def wOb4 : RObj := { count := 3, thresh := 5, typ := .barrier, mask := 7 }
def wSd : RMsg := .sig wSrc .done 5 1
def wAd : RMsg := .add wSrc 5 2
def wNr (o : RObj) (ms : List RMsg) (r : EngRun) : State := { wN o ms with dev := { (wN o ms).dev with engines := [(3, { wEng with run := r })] } }
def wWt (v : Word) : RMsg := .wait wSrc 5 v .half
def wH (o : RObj) : State := { wN o [] with dev := { (wN o []).dev with cores := [(8, { run := .running, spdom := 0x8000000000000304, x := [(5, 1)] })] } }
def wLd : State := { wN {} [] with dev := { (wN {} []).dev with host := { (wG .on).dev.host with evt := { log2 := 8, en := true } }, rennet := { (wN {} []).dev.rennet with landings := [(9, 64)] } } }
def wDl : State := { wE with dev := { wE.dev with engines := [(3, { wEng with run := .rwait 5 0 .half })] } }
def wDj : DumpJob := { slot := none, ctx := 3, cause := false, t0 := ⟨0, 0⟩ }
def w05s2 : PRegion := { wReg with st := .on }
def w05s3 : State := { wE with dev := { wE.dev with rennet := { wE.dev.rennet with dumps := [wDj] } } }
def wM (k : NKind) (who : Agent) : NMsg := { kind := k, who := who, addr := 0x1000 }
def wNc (m : List NMsg) : State := { wE with dev := { wE.dev with coh := { wE.dev.coh with noc := m } } }
def w0 : Dev := (wNc []).dev
def wAddr : Word := 0xFF000000001000
def wHold (x : FSt) (m : List NMsg) : State := { wNc m with dev := { (wNc m).dev with coh := { (wNc m).dev.coh with filter := [(0x40, [(5, x)])] } } }
def wBusy (m : List NMsg) : State := { wNc m with dev := { (wNc m).dev with coh := { (wNc m).dev.coh with txns := [(0x40, { req := wM .rdOnce (.core 7), waits := [.core 5] })] } } }
def wLn (st : CSt) (m : List NMsg) : State := { wHold .em m with dev := { (wHold .em m).dev with cores := [(5, { run := .running, lines := [(0x40, { st := st, data := List.replicate 64 9 })] })] } }
def wFw (k : NKind) : NMsg := { kind := k, who := .core 5, addr := 0x1000, rq := some (.core 6) }
def wRv (m : List NMsg) : State := { wHold .em m with dev := { (wHold .em m).dev with cores := [(5, { run := .running, resv := some 0x20, resvHold := some 0x20, lines := [(0x40, { st := .m, data := List.replicate 64 9 })] })] } }
def wJ (m : List NMsg) : State := { wNc m with dev := { (wNc m).dev with chain := { (wNc m).dev.chain with joined := true, node := 2, slots := [(7, { serial := 9, st := .live, inc := 1, used := true })] } } }
def wFar : Word := 0x07000000001000
def wTx (t : Txn) (m : List NMsg) : State := { wHold .em m with dev := { (wHold .em m).dev with coh := { (wHold .em m).dev.coh with txns := [(0x40, t)] } } }
def wT1 : Txn := { req := wM .rdShared (.core 6), waits := [.core 5] }
def wAk : NMsg := { kind := .snpAck, who := .core 5, addr := 0x1000, dirty := true, supplied := true }
def wT2 : Txn := { req := wM .rdShared (.core 6), waits := [], ack := true }
def wDs (l : CLine) (m : List NMsg) : State := { wNc m with dev := { (wNc m).dev with cores := [(5, { run := .running, lines := [(0x40, l)] })] } }
def wLi : CLine := { st := .isD, acc := [.load 0x1008 3 true false 1 []] }
def wDt : NMsg := { kind := .data, who := .core 5, addr := 0x1000, bytes := (List.range 64).map (fun n => BitVec.ofNat 8 (3 * n)), st := .e }
def wDl06 (m : List NMsg) : State := { wNc m with dev := { (wNc m).dev with cores := [(5, { run := .running, lines := [(0x40, wLi)], loads := [{ seq := 1, rd := 7 }] })] } }
def wLs : CLine := { st := .smD, data := List.replicate 64 9, acc := [.store 0x1004 [1, 2]] }
def wGr : NMsg := { kind := .comp, was := .rdUnique, who := .core 5, addr := 0x1000, body := .grant .e }
def wOl : NMsg := { kind := .comp, who := .engine 3, addr := 0x1000, body := .old 77 false }
def wEr (m : List NMsg) : State := { wNc m with dev := { (wNc m).dev with engines := [(3, { wEng with run := .reply 7 0 false })] } }
def wRt : NMsg := { kind := .retry, who := .core 5, addr := 0x1000, was := .rdUnique, ticket := some 3 }
def wOw : OutW := { src := .tongs 3 1, addr := ownAddr 0x1000, bytes := [], path := .weld, done := true, red := some (.add, .fp32) }
def wRa (m : List NMsg) : State := { wNc m with dev := { (wNc m).dev with writes := [wOw] } }
def wWb : NMsg := { kind := .wbDirty, who := .core 5, addr := 0x1000, bytes := List.replicate 64 4 }
def wRd (op : RedOp) (ty : RType) : NMsg := redMsg (.tongs 3 1) 0x1000 (leBytes (redWidth ty) 5) (op, ty)
def wHw : OutW := { src := .engine 3, addr := ownAddr 0x1000, bytes := [1], path := .weld, held := true }
def wTk : State := { wE with dev := { wE.dev with coh := { wE.dev.coh with tickets := [{ slice := 31, id := 5, line := 0x40, who := .core 5 }, { slice := 31, id := 6, line := 0x41, who := .core 5 }] } } }
def w06s1 : State := wNc [{ wM .wrLine (.tongs 3 1) with bytes := List.replicate 64 7 }]
def w06s2 : NMsg := { wM .wrLine (.tongs 3 1) with bytes := List.replicate 64 7 }
def w06s3 : State := wNc [{ wM .wrPart (.tongs 3 1) with bytes := [7, 8] }]
def w06s4 : NMsg := { wM .wrPart (.tongs 3 1) with bytes := [7, 8] }
def w06s5 : State := wNc [{ wM .atomic (.engine 3) with atom := .amo .add 7 true }]
def w06s6 : NMsg := { wM .atomic (.engine 3) with atom := .amo .add 7 true }
def w06s7 : State := wHold .em [{ wM .atomic (.core 6) with atom := .amo .add 7 true }]
def w06s8 : NMsg := { wM .atomic (.core 6) with atom := .amo .add 7 true }
def w06s9 : State := wHold .em [{ wM .wrPart (.core 6) with bytes := [7] }]
def w06s10 : NMsg := { wM .wrPart (.core 6) with bytes := [7] }
def w06s11 : State := wHold .em [{ wM .wrLine (.core 6) with bytes := List.replicate 64 7 }]
def w06s12 : NMsg := { wM .wrLine (.core 6) with bytes := List.replicate 64 7 }
def w06s13 : CLine := { st := .m, data := List.replicate 64 9 }
def w06s14 : CLine := { st := .s, data := List.replicate 64 9 }
def w06s15 : State := wJ [{ kind := .snpBack, who := .proxy, addr := remoteAddr 7 0x1000 }]
def w06s16 : State := { wE with dev := { wE.dev with writes := [wHw] } }
def wCo (c : Core) : State := { wE with dev := { wE.dev with cores := [(5, { c with run := .running })] } }
def wUm : Word := 0xFF000000001010
def wCl (st : CSt) : CLine := { st := st, data := (List.range 64).map (fun n => BitVec.ofNat 8 (5 * n)) }
def wVaw : Word := BitVec.ofNat 64 (0xFF * 2 ^ 48 + vatBase + 64)
def wWk : Walk := { ctx := 3, page := 5, users := [⟨.engine 3, .read, 0x5008⟩] }
def wTr (a : Access) : State := { wE with dev := { wE.dev with engines := [(3, { wEng with run := .walking })], xlate := ⟨{ walks := [{ wWk with users := [⟨.engine 3, a, 0x5008⟩] }] }, {}⟩ } }
def wPx : Xfer := { ticket := 1, step := 0, desc := { tdescOf 0 with src := 0x3000, dst := 0x4800, ext := [64, 2, 1, 1], sstr := [0x1000, 0, 0], dstr := [64, 0, 0] } }
def wPr : State := { wE with dev := { wE.dev with tongs := [(12, [wPx])], host := { wE.dev.host with ctxs := [(3, { wCtx with lookahead := 4 })] } } }
def wFq : FQueue := { addr := 0xFD000000006000, log2 := 6, bind := 0 }
def wFr : FRec := { ctx := 3, va := 0x5000, acc := .read, cause := 1, level := 0, users := [], t := 0, src := .engine 0, ring := 0 }
def wFqC : Ctx := { wCtx with fq := some wFq }
def wFqs : State := { wC with dev := { wC.dev with xlate := ⟨{ recs := [(0, wFr)] }, {}⟩, host := { wC.dev.host with ctxs := [(3, wFqC)] } } }
def w07s1 : State := wCo { lines := [(0x40, wCl .s)] }
def w07s2 : State := wCo { lines := [] }
def w07s3 : State := wCo { lines := [(0x40, wCl .e)] }
def w07s4 : State := wCo { spdom := 0x8000000000000304 }
def w07s5 : State := wCo {}
def w07s6 : State := wCo { lines := [(0x40, wCl .e), (0x41, wCl .m)] }
def w07s7 : State := wCo { lines := [(0x40, wCl .e)], resv := some 0x20 }
def w07s8 : State := wCo { priv := .hs }
def w07s9 : State := wCo { priv := .hs, mtvec := 0x4000, resv := some 3 }
def w07s10 : State := wCo { priv := .u, stvec := 0x4000, resv := some 3 }
def w07s11 : State := wCo { priv := .vs, csr := [(0x602, 0x2000)], resv := some 3 }
def w07s12 : State := wCo { mtimecmp := 0 }
def w07s13 : State := { (wTr .read) with dev := { (wTr .read).dev with mem := [(0x1000, 0x1F), (0x1005, 0xC0), (0x1006, 0x3F)] } }
def w07s14 : State := { wC with dev := { wC.dev with host := { wC.dev.host with atsCache := [(3, 5, 1), (3, 6, 2)], ctxs := [(3, { wCtx with ats := true })] } } }
def w07s15 : Ctx := { wCtx with ats := true }
def wMv : Move := { dst := .hbm, dstLoc := 3, fill := false }
def wTi (fr : Tbl Frame) (mv : Tbl Move) : State := { wE with dev := { wE.dev with hbm := { wE.dev.hbm with half := ⟨{ usable := 63 }, { usable := 63 }⟩ }, tiers := { wE.dev.tiers with frames := fr, moves := mv, allocs := [(6, { first := 0, count := 2, ctx := 3, policy := .preferHbm, il := true, home := .west })] }, host := { wE.dev.host with ctxs := [(3, { wCtx with quota := [100, 100, 100] })] } } }
def wFd0 : Frame := { back := .ddr, alloc := 6, ctx := 3, heat := 41, wdirty := 3, il := true, policy := .preferHbm }
def wCh : State := { wTi [(1, wFd0)] [] with dev := { (wTi [(1, wFd0)] []).dev with tiers := { (wTi [(1, wFd0)] []).dev.tiers with chosen := [(1, .hbm)] } } }
def wPt : CavePart := { onfi5 := true, rate := 3600, pageData := 16384, pageSpare := 2048, pagesPerBlock := 8, bitsPerCell := 3, dies := 1, blocksPerDie := 2, rated := 3000, readLimit := 100000 }
def wCb : Cave := { st := .normal, pop := some (wPt, 1), key := some 5, spare := 4 }
def wCm (s : State) (c : Cave) : State := { s with dev := { s.dev with cave := c, power := { s.dev.power with dom := (List.range 56).map (fun n => (n, DomSt.on)) } } }
def wUr : State := wCm (wTi [(1, { wFd0 with back := .cave })] [(1, { wMv with fill := true })]) { wCb with map := [(0, [1, 2, 3, 4])] }
def wSt0 (c : Cave) : State := wCm (wTi [(1, { wFd0 with back := .cave })] []) { c with staged := [(1, 2), (1, 3)], badUnits := (List.range 16).map (fun i => (1, 32 + i)) }
def wNo : List (Option (List Byte)) := List.replicate 16 none
def wCs (ok : Bool) : Cave := let c : Cave := { (wSt0 wCb).dev.trimCave.cave with staged := [(1, 3)] }; ((if ok then c else c.failNext).writeUnit 2 wNo).getD {}
def wGt : State := { wSt0 wCb with dev := { (wSt0 wCb).dev with power := { wE.dev.power with dom := [(53, .gated)] } } }
def wCa1 : Nat × Cave := (wCb.allocPage 0).getD (0, {})
def wRb : State := { wTi [(0, { back := .hbm }), (1, { back := .hbm })] [] with dev := { (wTi [(0, { back := .hbm }), (1, { back := .hbm })] []).dev with coh := { wE.dev.coh with redBuf := [(0x40, 3), (0x41, 4)] } } }
def wUl : UnitId := ⟨8, .west, 3⟩
def wLu : State := { wRb with dev := { wRb.dev with faults := { wRb.dev.faults with units := [(wUl, { st := .repairPending })] } } }
def wHot : State := { wRb with dev := { wRb.dev with hbm := { wRb.dev.hbm with half := ⟨{ usable := 63 }, { usable := 63, temps := [20, 20, 90, 20, 20, 20] }⟩ } } }
def wMg : Margin := { slot := none, half := .west, stack := 2, volt := true, buf := 0, point := 19 }
def w08s1 : State := wTi [(1, wFd0)] [(1, { wMv with mask := 0xFF })]
def w08s2 : Move := { wMv with mask := 0xFF }
def w08s3 : State := wTi [(1, wFd0)] [(1, { wMv with mask := 0x1FF, pass := 4 })]
def w08s4 : Move := { wMv with mask := 0x1FF, pass := 4 }
def w08s5 : State := wTi [(1, wFd0)] [(1, { wMv with blocked := true })]
def w08s6 : Move := { wMv with blocked := true }
def w08s7 : State := wTi [(1, { wFd0 with back := .hbm })] [(1, { wMv with dst := .ddr, blocked := true })]
def w08s8 : Move := { wMv with dst := .ddr, blocked := true }
def w08s9 : Frame := { wFd0 with back := .hbm }
def w08s10 : State := wTi [(1, { wFd0 with back := .cave })] [(1, { wMv with fill := true, lost := [2] })]
def w08s11 : Move := { wMv with fill := true, lost := [2] }
def w08s12 : Frame := { wFd0 with back := .cave }
def w08s13 : Move := { wMv with fill := true }
def w08s14 : State := wSt0 { wCb with pop := none }
def w08s15 : State := { wRb with dev := { wRb.dev with hbm := { wRb.dev.hbm with margin := some wMg } } }
def wP (p : Power) : State := { wE with dev := { wE.dev with power := p } }
def wPw : Power := wE.dev.power
def wDm (n : Nat) (x : DomSt) : State := wP { wPw with dom := [(n, x)] }
def wVw : State := { wS with dev := { wS.dev with mem := wPut wS.dev.mem (vatOff 5) [1, 2], power := { wPw with dom := [(pdVat .west, .waking)] } } }
def wId (p : Power) : State := { wS with dev := { wS.dev with power := p } }
def w09s1 : State := wP { wPw with intOsc := false }
def w09s2 : State := wP { wPw with intOsc := true }
def w09s3 : State := wP { wPw with anvMhz := ⟨700, 700⟩ }
def w09s4 : State := wP { wPw with anvMhz := ⟨200, 700⟩ }
def w09s5 : State := wP { wPw with sent := [(.west, 5, 300), (.east, 5, 400)], grantSeq := ⟨4, 5⟩ }
def w09s6 : State := wP { wPw with tj := [(2, 101), (3, 50)] }
def w09s7 : State := wP { wPw with thermtrip := true, pstate := .cold }
def w09s8 : State := wId { wPw with policy := 1 }
def w09s9 : State := wId { wPw with pstate := .glowing, dom := [(13, .parked), (14, .gated)] }
def w09s10 : State := wId { wPw with pstate := .glowing, policy := 2, dom := (List.range 56).map (fun n => (n, DomSt.gated)) }
def w09s11 : State := wId { wPw with pstate := .glowing, entering := true, policy := 2, dom := (List.range 56).map (fun n => (n, DomSt.gated)) }
def w09s12 : State := wId { wPw with pstate := .banked, dom := (List.range 56).map (fun n => (n, DomSt.gated)) }
def w09s13 : State := wId { wPw with pstate := .cold }
def wU10 (n : Nat) (k : Nat) (die : Die) : UnitId := ⟨Fin.ofNat 14 k, die, BitVec.ofNat 16 n⟩
def wQn (u : UnitId) (r : UnitRec) : State := { wE with dev := { wE.dev with faults := { wE.dev.faults with units := [(u, r)] } } }
def wSp : State := { wC with dev := { wC.dev with engines := [(11, wEng), (12, {x := [(1,2)]})].map (fun p => (p.1, { p.2 with step := none })), faults := { wC.dev.faults with units := [(engUnit 11, { awaiting := true })] } } }
def wCt : State := { wR with dev := { wR.dev with engines := [(3, wEng)], sched := { wC.dev.sched with steps := [(0, { wStep with phase := .stopping, outcome := some { status := .discarded } })], next := 1 }, faults := { wC.dev.faults with contain := some { steps := [0, 9], t0 := 0 } } } }
def wSes (p : Word) : State := { wC with dev := { wC.dev with sec := { wC.dev.sec with session := some { priv := p, life := 100, vendor := false } } } }
def wOwn : State := { wC with dev := { wC.dev with sec := { wC.dev.sec with owned := true, ownerHash := 77, debugHash := 77, cosignHash := 5, nonce := some 99, svn := 3 }, boot := { wC.dev.boot with svnImage := 9 } } }
def w10s1 : State := wQn (wU10 9 10 .hub) { cc := 2 }
def w10s2 : State := wQn (wU10 7 10 .hub) { cc := 6 }
def w10s3 : State := wQn (wU10 3 4 .west) { cc := 6, uc := 2 }
def w10s4 : State := wQn (wU10 3 4 .west) { cc := 0, uc := 2 }
def w10s5 : State := wQn (wU10 3 2 .west) { inc := 14 }
def w10s6 : State := wQn (wU10 3 4 .west) { inc := 14, quenched := true, testing := true }
def w10s7 : Contain := { steps := [0, 9], t0 := 0 }
def w10s8 : Ring := { ctx := 3, cls := 2, base := 0, log2 := 4, head := 1, tail := 4 }
def wDb : State := { wE with dev := { wE.dev with power := { wE.dev.power with dom := (List.range 56).map (fun n => (n, DomSt.on)) }, sec := { wE.dev.sec with session := some { priv := 0xFF, life := 100, vendor := false } } } }
def wPd (b : Bool) : State := { wE with dev := { wE.dev with boot := { wE.dev.boot with perst := b } } }
def wHl : State := { wDb with dev := { wDb.dev with cores := [(33, { halted := true, x := [(5, 99)], run := .running })] } }
def wMd : State := { wDb with dev := { wDb.dev with sec := { wDb.dev.sec with mods := [{data := 0x123456789ABCDEF0}, {data := 0x123456789ABCDEF0}, {}] } } }
def wVr : State := { wDb with dev := { wDb.dev with mem := wPut wDb.dev.mem (vatOff 0x1000) [1,2,3,4,5,6,7,8,9] } }
def wB (f : Boot → Boot) : State := { wE with dev := { wE.dev with boot := f wE.dev.boot } }
def wV0 : State := { wE with dev := { wE.dev with power := { wE.dev.power with vinOk := false } } }
def wHd (svn blen ver e0 e1 : Nat) : List Byte := leBytes 4096 (0x57465852 + 2^32 + 2^48 * svn + 2^64 * blen + 2^128 * ver + 2^192 * e0 + 2^224 * e1)
def wImg (svn : Nat) : ImageIn := { readable := true, header := wHd svn 64 0x1234 0 60, body := List.replicate 64 7, vendorKey := List.replicate 68 1, vendorSig := List.replicate 18469 2, cosignKey := List.replicate 68 1, cosignSig := List.replicate 18469 2 }
def wVv : Word × BitVec 8 := (0x1234, 2)
def wRcv : State := { wE with dev := { (((wE.dev.wr (vatOff 0) ((wImg 2).header ++ (wImg 2).body)).wr (vatOff 0x03001000) (List.replicate 68 1)).wr (vatOff 0x03009000) (List.replicate 68 1)) with boot := { wE.dev.boot with st := .recovery, reason := 4 } } }
def wTr11 (b : BitVec 3) : State := { wB (fun x => { x with st := .train, bsel := b }) with dev := { (wB (fun x => { x with st := .train, bsel := b })).dev with mem := wPut [] (vatOff 5) [1, 2] } }
def wM0 : State := { wB (fun b => { b with st := .mount, fwver := 88 }) with dev := { (wB (fun b => { b with st := .mount, fwver := 88 })).dev with cave := { wE.dev.cave with st := .absent } } }
def w11s1 : State := { wE with dev := { wE.dev with boot := { wE.dev.boot with perst := true } } }
def w11s2 : DbgHart := { die := .east, hartsel := 1 }
def w11s3 : State := { wV0 with dev := { wV0.dev with boot := { wV0.dev.boot with perst := true } } }
def w11s4 : State := wB (fun b => { b with perst := true })
def w11s5 : State := wB (fun b => { b with st := .load })
def w11s6 : ImageIn := { wImg 2 with readable := false }
def w11s7 : State := wB (fun b => { b with st := .program, img := some wVv })
def w11s8 : State := wB (fun b => { b with st := .mount })
def w11s9 : State := wB (fun b => { b with platform := 3 })
def wId12 : Identity := { node := 9, port := 2, serial := 0, inc := 1, nonce := 4, slots := [] }
def wId2 : Identity := { node := 10, port := 3, serial := 5, inc := 2, nonce := 6, slots := [(10, ⟨.live, 5, 2, true⟩)] }
def wSl (i : BitVec 4) : Slot := ⟨.live, 5, i, true⟩
def wPt12 : Port := { st := .upActive, lanes := 8, farNode := 10, farPort := 3, farInc := 2, rxSeq := 7, txSeq := 100, replayBuf := [(98, 64), (99, 64)], crcRun := 3, key := 12345, mine := some wId12, far := some wId2, nonce := 4, epoch := 1 }
def wCh12 : State := { wR with dev := { wR.dev with sec := { wR.dev.sec with fabric := 9 }, chain := { joined := true, node := 9, inc := 1, slots := [(9, wSl 1), (10, wSl 2)], ports := [(2, wPt12), (5, { enabled := true, st := .disabled })], links := [(9, 10)] } } }
def wPo12 (f : Port → Port) : State := { wCh12 with dev := wCh12.dev.modPort 2 f }
def wTn (f : Port → Port) : State := { wCh12 with dev := { wCh12.dev with chain := { joined := true, node := 9, ports := [(2, f { st := .training })] } } }
def wKy : State := wTn (fun q => { q with lanes := 8, mine := some wId12, far := some wId2, farNode := 10, farInc := 2, key := 77, idDone := true })
def wPk : ChainPkt := { dst := 9, src := 10, cls := 2, vset := 0, utype := 1, sinc := 2, dinc := 1, seq := 0, unit := 3, uinc := 0, rsvd := false, pd := 4, ctx := 3, len := 1, acls := 0, tag := 8, body := .rennetSig 70 5 }
def wTx12 : State := { wCh12 with dev := wCh12.dev.modChain (fun c => { c with tx := [(streamKey 10 2, { seq := 5, timer := 40, unacked := [{ wPk with seq := 3, dst := 10, src := 9 }, { wPk with seq := 4, dst := 10, src := 9 }] })], rx := [(streamKey 10 3, { next := 6, pend := 2 })] }) }
def wIdle : State := { wCh12 with dev := { wCh12.dev with host := { wCh12.dev.host with rings := [] } } }
def w12s1 : State := wTn (fun q => { q with lanes := 8, mine := some wId12, nonce := 4 })
def w12s2 : Identity := { wId2 with slots := [] }
def w12s3 : Identity := { wId2 with node := 1, slots := [] }
def w12s4 : Identity := { wId2 with node := 63 }
def w12s5 : State := wPo12 (fun q => { q with st := .refused })
def w12s6 : LinkHdr := { seq := 7, ack := 99, credits := [] }
def w12s7 : State := wPo12 (fun q => { q with rxSeq := 0xFFFFFF })
def w12s8 : LinkHdr := { seq := 0xFFFFFF, ack := 100, credits := [0, 4] }
def w12s9 : State := wPo12 (fun q => { q with crcRun := 14 })
def w12s11 : State := wPo12 (fun q => { q with rekeying := true })
def w12s12 : State := wPo12 (fun q => { q with retrain := true })
def w12s13 : State := { wCh12 with dev := wCh12.dev.modChain (fun c => { c with rx := [(streamKey 10 2, { next := 0xFFFF, pend := 30 })] }) }
def w12s14 : ChainPkt := { wPk with seq := 0xFFFF }
def w12s15 : ChainPkt := { wPk with sinc := 1 }
def w12s16 : ChainPkt := { wPk with vset := 3 }
def w12s17 : ChainPkt := { wPk with dst := 10, src := 11 }
def w12s18 : ChainPkt := { wPk with dst := 10, src := 63, vset := 1 }
def w12s19 : ChainPkt := { wPk with cls := 7, acls := 2, seq := 3 }
def w12s20 : State := wPo12 (fun q => { q with st := .dead })
def wDr13 : State := { wR with dev := wR.dev.modHost (fun h => { h with dropMs := some 7, dropsSince := 4 }) }
def wAd13 (r : RingCtl) : State := { wC with dev := wC.dev.modHost (fun h => { h with adm := r }) }
def wEv (r : RingCtl) : State := { wC with dev := wC.dev.modHost (fun h => { h with evt := r }) }
def wFl : State := { wR with dev := { wR.dev with host := { wR.dev.host with ap := [(31, { en := true })], regions := [(9, wReg)] }, xlate := ⟨{ tlb := [⟨.shared, 3, 1, 12, 0⟩] }, {}⟩ } }
def wApB (a : Nat) (f : Aperture → Aperture) : State := { wE with dev := { wE.dev with host := { wE.dev.host with ap := [(31, f { en := true, rd := true, wr := true, pd := 4, ctx := 3, base := BitVec.ofNat 35 (a / 2 ^ 21) })] } } }
def wUm13 : State := wApB (0xFF * 2 ^ 48) id
def wPo13 (s : State) : State := { s with dev := { s.dev with poison := [64], coh := s.dev.coh } }
def wFm (s : State) (f : Frame) : State := { s with dev := { s.dev with tiers := { s.dev.tiers with frames := [(0, f)] } } }
def wCv : State := { wFm wUm13 { back := .cave, ctx := 3, policy := .preferHbm } with dev := { (wFm wUm13 { back := .cave, ctx := 3, policy := .preferHbm }).dev with hbm := { wUm13.dev.hbm with half := ⟨{ usable := 63 }, { usable := 63 }⟩ }, host := { wUm13.dev.host with ctxs := [(3, { wCtx with quota := [100, 100, 100] })] }  } }
def wCvH : Dev := match (wCv.dev.modHost (fun h => { h with readId := h.readId + 1 })).readGate 0x1000 8 with | .hold d => d | _ => wDev
def wRd13 : State := { wUm13 with dev := { wUm13.dev with host := { wUm13.dev.host with reads := [{ id := 4, ap := 31, off := 5, addr := 6, len := 7 }] } } }
def wRg (r : Bool) (c : Option Nat) : State := { wR with dev := { wR.dev with host := { wR.dev.host with regions := [(9, { wReg with st := .on, pages := [0], read := r, counter := c })] } } }
def wNh : State := { wL with dev := { wL.dev with writes := [{ src := .aperture 0, addr := ownAddr 0x1000, bytes := [1], path := .weld }] } }
def wDbl : State := { wR with dev := wR.dev.modHost (fun h => { h with lines := [(1, { pd := 4, addr := 0xFD000000002000, pending := true })], rings := h.rings.map (fun p => (p.1, { p.2 with enabled := true })) ++ [(18, { ctx := 3, cls := 2, base := 0, log2 := 4, head := 1, tail := 4, enabled := true }), (40, { ctx := 3, cls := 2, base := 0, log2 := 4, head := 1, tail := 4, enabled := true })] }) }
def wDbH : State := { wCv with dev := wCv.dev.modHost (fun h => { h with lines := [(1, { pd := 4, addr := ownAddr 0x1000, pending := true })] }) }
def wMm (m : Bool) : State := { wC with dev := { wC.dev with host := { wC.dev.host with msix := [(2, { mask := m, addr := 77, data := 5 })], ctxs := [(3, { wCtx with unsig := 2, bind := 4 })] } } }
def wEq (l : Nat) (m : Bool) : State := { wC with dev := { wC.dev with host := { wC.dev.host with evtQ := [{ kind := 5, a0 := 9 }, { kind := 6 }], evtLost := l, evtBind := 4, evt := { log2 := 8, en := true, base := 0xFD000000004000 }, msix := [(2, { mask := m, addr := 77, data := 5 })] } } }
def wHr (v : BitVec 36) : State := { wE with dev := { wE.dev with power := { wE.dev.power with dom := (List.range 56).map (fun n => (n, DomSt.on)) }, regs := { wE.dev.regs with rvec := ⟨1, v⟩ }, cores := [(33, { run := .reset, x := [(5, 9)] })] } }
def wGp (r : Regs) : State := { wE with dev := { wE.dev with regs := r } }
def w13s1 : State := wApB (0xFF * 2 ^ 48) (fun a => { a with rd := false, wr := false })
def w13s2 : PendRead := { id := 4, ap := 31, off := 5, addr := 6, len := 7 }
def w13s3 : State := wApB 0 (fun a => { a with en := false, busy := true })
def w13s4 : State := wApB 0 (fun a => { a with en := false, draining := true })
def w13s5 : State := wApB 0 (fun a => { a with busy := true })
def w13s6 : PRegion := { wReg with st := .on, pages := [0] }
def w13s7 : PRegion := { wReg with st := .on, pages := [0], read := false, counter := none }
def w13s8 : PRegion := { wReg with st := .on, pages := [0], counter := none }
def w13s9 : State := { wR with dev := wR.dev.modHost (fun h => { h with dropMs := some 0, dropsSince := 4 }) }
def w13s10 : DbLine := { pd := 4, addr := 0xFD000000002000 }
def w13s11 : DbLine := { pd := 4, addr := 0xFD000000002000, pending := true }
def w13s12 : DbLine := { pd := 4, addr := ownAddr 0x1000, pending := true }
def w13s13 : State := { wC with dev := { wC.dev with host := { wC.dev.host with ctxs := [(3, { wCtx with head := 0xFD000000002000 })] } } }
def w13s14 : Ctx := { wCtx with head := 0xFD000000002000 }
def w13s15 : Ctx := { wCtx with unsig := 2, bind := 4 }
def w13s16 : Event := { kind := 5, a0 := 9 }
def w13s17 : State := { wEq 0 true with dev := (wEq 0 true).dev.modHost (fun h => { h with evtTail := 256 }) }
def w13s18 : State := wAd13 {busy := true, err := true}
def w13s19 : State := wAd13 {}
def w13s20 : State := wAd13 {draining := true}
def w13s21 : State := wEv {busy := true}
def w13s22 : State := wEv {}
def w13s27 : State := wGp {}
def wQ : FRec := { ctx := 3, va := 0x5000, acc := .read, cause := 1, level := 0, users := [], t := 0, src := .engine 0, ring := 0 }
def wA : Alloc := { first := 0, count := 2, ctx := 3, policy := .preferHbm, il := true, home := .west, attach := [5] }
def wF : State := { wC with dev := { wC.dev with hbm := { wC.dev.hbm with half := ⟨{ usable := 63 }, { usable := 63 }⟩ }, tiers := { wC.dev.tiers with allocs := [(6, wA)], frames := [(0, { back := .hbm, alloc := 6 }), (1, { back := .hbm, alloc := 6 })] }, host := { wC.dev.host with ctxs := [(3, { wCtx with quota := [100, 100, 100] })] } } }
def wF2 : Dev := (allocFrames 2 5 { policy := .preferHbm, il := true, home := .west, ctx := 3, alloc := 0 } wF.dev).getD {}
def wFl14 : State := { wF with dev := { wF.dev with cores := [(3, { lines := [(3, { st := .m, data := zeroLine }), (32768 * 2, { st := .m, data := zeroLine })] })] } }
def wB14 (b : Background) : State := { wC with dev := { wC.dev with host := { wC.dev.host with bg := [(4, (9, b))], rings := [(17, { ctx := 3, cls := 2, base := 0, log2 := 4 })] } } }
def w14s1 : State := { wS with dev := { wDev with host := { wDev.host with ctxs := [(3, { wCtx with acct := { wCtx.acct with buf := 0xFD000000001000 } })] } } }
def w14s2 : Ctx := { wCtx with acct := { wCtx.acct with buf := 0xFD000000001000 } }
def w14s3 : DbLine := { pd := 4, addr := 0xFD000000002000 }
def w14s4 : Ring := { ctx := 3, cls := 2, base := 0, log2 := 4, head := 1, tail := 4 }
def w14s5 : State := { wS with dev := { wDev with hbm := { wDev.hbm with half := ⟨{ usable := 63 }, { usable := 63 }⟩ } } }
def w14s6 : PRegion := { wReg with st := .on }
def w14s7 : State := { wC with dev := { wC.dev with xlate := ⟨{}, { recs := [(1023, wQ)] }⟩ } }
def w14s8 : State := { wC with dev := { wC.dev with xlate := ⟨{ tlb := [⟨.shared, 3, 1, 12, 0⟩, ⟨.shared, 3, 3, 12, 0⟩, ⟨.shared, 4, 2, 12, 0⟩] }, {}⟩ } }
def w14s9 : State := { wF with dev := wF.dev.modHost (fun h => { h with ctxs := h.ctxs ++ [(9, wCtx)] }) }
def w14s10 : Ctx := { wCtx with quota := [100, 100, 100] }
def w14s11 : State := { wF with dev := { wF.dev with sec := { wF.dev.sec with session := some { priv := 32, life := 100, vendor := false } } } }
def wDb16 : State := { wE with dev := { wE.dev with power := { wE.dev.power with dom := (List.range 56).map (fun n => (n, DomSt.on)) }, sec := { wE.dev.sec with session := some { priv := 0xFF, life := 100, vendor := false } } } }
def wHl16 : State := { wDb16 with dev := { wDb16.dev with cores := [(33, { halted := true, x := [(5, 99)], run := .running })] } }
def wVr16 : State := { wDb16 with dev := { wDb16.dev with mem := wPut wDb16.dev.mem (vatOff 0x1000) [1,2,3,4,5,6,7,8,9] } }
def wRec16 : List Byte := List.replicate 128 7
def wAd16 (r : RingCtl) : State := { wC with dev := wC.dev.modHost (fun h => { h with adm := r }) }
def wEv16 (r : RingCtl) : State := { wC with dev := wC.dev.modHost (fun h => { h with evt := r }) }
def wHr16 (v : BitVec 36) : State := { wE with dev := { wE.dev with power := { wE.dev.power with dom := (List.range 56).map (fun n => (n, DomSt.on)) }, regs := { wE.dev.regs with rvec := ⟨1, v⟩ }, cores := [(33, { run := .reset, x := [(5, 9)] })] } }
def wB16 (b : Background) : State := { wC with dev := { wC.dev with host := { wC.dev.host with bg := [(4, (9, b))] } } }
def wOp (st : Option ROwner) : State := wO st
def wA16 : Alloc := { first := 0, count := 2, ctx := 3, policy := .preferHbm, il := true, home := .west, attach := [5] }
def wF16 : State := { wC with dev := { wC.dev with hbm := { wC.dev.hbm with half := ⟨{ usable := 63 }, { usable := 63 }⟩ }, tiers := { wC.dev.tiers with allocs := [(6, wA16)], frames := [(0, { back := .hbm, alloc := 6 }), (1, { back := .hbm, alloc := 6 })] }, host := { wC.dev.host with ctxs := [(3, { wCtx with quota := [100, 100, 100] })] } } }
def wF216 : Dev := (allocFrames 2 5 { policy := .preferHbm, il := true, home := .west, ctx := 3, alloc := 0 } wF16.dev).getD {}
def wQ16 : FRec := { ctx := 3, va := 0x5000, acc := .read, cause := 1, level := 0, users := [], t := 0, src := .engine 0, ring := 0 }
def w16s1 : DbgHart := { die := .east, hartsel := 1 }
def w16s2 : State := { wC with dev := { wC.dev with host := { wC.dev.host with evtQ := [{ kind := 5, a0 := 9 }, { kind := 6 }] } } }
def w16s3 : Event := { kind := 5, a0 := 9 }
def w16s4 : State := wAd16 {}
def w16s5 : State := wEv16 {}
def w16s6 : DbLine := { pd := 4, addr := 0xFD000000002000 }
def w16s7 : Ctx := { wCtx with quota := [100, 100, 100] }
def w16s8 : Ring := { ctx := 3, cls := 2, base := 0, log2 := 4, head := 1, tail := 4 }
def w16s9 : State := { wS with dev := { wDev with hbm := { wDev.hbm with half := ⟨{ usable := 63 }, { usable := 63 }⟩ } } }
def w16s10 : PRegion := { wReg with st := .on }
def w16s11 : State := { wC with dev := { wC.dev with xlate := ⟨{}, { recs := [(1023, wQ16)] }⟩ } }
def w16s12 : State := { wF16 with dev := { wF16.dev with sec := { wF16.dev.sec with session := some { priv := 32, life := 100, vendor := false } } } }

/-! ### How a premise about a result is decided -/

theorem eqOk {α ε : Type} [DecidableEq α] {e : Except ε α} {v : α}
    (h : (match e with | .ok x => decide (x = v) | .error _ => false) = true) : e = .ok v := by
  cases e <;> simp_all
theorem eqErr {α ε : Type} [DecidableEq ε] {e : Except ε α} {v : ε}
    (h : (match e with | .error x => decide (x = v) | .ok _ => false) = true) : e = .error v := by
  cases e <;> simp_all
theorem eqGo {g : Gate} {v : Dev} (h : (match g with | .go x => decide (x = v) | _ => false) = true) : g = .go v := by
  cases g <;> simp_all
theorem eqHold {g : Gate} {v : Dev} (h : (match g with | .hold x => decide (x = v) | _ => false) = true) : g = .hold v := by
  cases g <;> simp_all
theorem safeOf {s : State} (h : Memory.wf s.dev.mem = true) : s.Safe := h

theorem ne_add_one {x y : BitVec 256} (h : y = x) : x + 1 ≠ y := by
  subst h; intro h; bv_omega
theorem notRelease {r : EngRun} (h : (match r with | .release _ _ => false | _ => true) = true) :
    ∀ (sc : Scope) (k : Cont), r ≠ EngRun.release sc k := by
  rintro sc k rfl; simp at h
theorem noReleaseOf {d : Dev} (h : ∀ e, (match (d.eng e).run with | .release _ _ => false | _ => true) = true) : NoRelease d :=
  fun e sc k => notRelease (h e) sc k
theorem lgetD_zeros (n i : Nat) : lgetD (List.replicate n 0) i 0 = 0 := by
  induction n generalizing i with
  | zero => rfl
  | succ n ih => cases i <;> simp [List.replicate_succ, lgetD, ih]
theorem canSend_fresh {p : Port} (h : p.retrain = false ∧ p.used = List.replicate 22 0 ∧ (p.replayBuf.map (·.2)).sum ≤ 512) :
    ∀ k : ChainPkt, p.canSend k = true := by
  intro k
  have hl : k.len.toNat < 32 := k.len.isLt
  have h0 : lgetD (List.replicate 22 0) (pktChan k) 0 = 0 := by
    exact lgetD_zeros 22 _
  have hc : pktCredits k ≤ 16 := by simp only [pktCredits, ceilDiv]; omega
  have hf : frameBytes (some k) ≤ 1024 := by simp only [frameBytes]; omega
  have hr := h.2.2
  simp only [Port.canSend, h.1, h.2.1, h0]
  simp; omega

/-! ### The hypotheses of the statements can be met -/


theorem test_wit_IdleStepAdvancesTheCounts :
    (wS.pending = [] ∧ wS.dev.sec.mboxReturn = none ∧ wS.dev.host.reads = [] ∧ wS.dev.hbm.margin = none) :=
  by decide +kernel

theorem test_wit_EngineInstructionsThatRunAtOnce :
    (wE.dev.canRun 3 = true ∧ (wE.dev.eng 3).step = some 0 ∧ wE.dev.step? 0 = some wStep) :=
  by decide +kernel

theorem test_wit_EngineWaits :
    (wE.dev.canRun 3 = true ∧ (wE.dev.eng 3).step = some 0 ∧ wE.dev.step? 0 = some wStep ∧ wStep.ticket < 2 ^ 64) :=
  by decide +kernel

theorem test_wit_EngineReleases :
    (wE.dev.canRun 3 = true) :=
  by decide +kernel

theorem test_wit_EngineIssues :
    (wE.dev.canRun 3 = true ∧ (wE.dev.eng 3).step = some 0 ∧ (true = true → wE.dev.released (Agent.engine 3) Scope.package = true)) ∧
    (wE.dev.canRun 3 = true ∧ (wE.dev.eng 3).step = some 0 ∧ (true = true → wE.dev.released (Agent.engine 3) Scope.package = true) ∧ BitVec.toNat ((wE.dev.eng 3).rx 12) < 4) ∧
    (wE.dev.canRun 3 = true ∧ (wE.dev.eng 3).step = some 0 ∧ 4 ≤ BitVec.toNat ((wE.dev.eng 3).rx 10)) :=
  by and_intros <;> decide +kernel

theorem test_wit_EngineRennetOperations :
    (wE.dev.canRun 3 = true ∧ BitVec.toNat ((wE.dev.eng 3).rx 13) % 64 = 0 ∧ wE.dev.rennetAddr ((wE.dev.eng 3).rx 13) = some (none, 7) ∧ wE.dev.released (Agent.engine 3) Scope.package = true ∧ wE.dev.contReady 3 (Cont.signal ((wE.dev.eng 3).rx 13) ((wE.dev.eng 3).rx 10)) = true) :=
  by decide +kernel

theorem test_wit_EngineVatAccesses :
    (wE.dev.canRun 3 = true ∧ (wE.dev.eng 3).step = some 0 ∧ wE.dev.step? 0 = some wStep ∧ 4088 < 536870912 ∧ 4088 % 268435456 < vatSize ∧ wE.dev.anvil.ops = []) ∧
    (wE.dev.canRun 3 = true ∧ (wE.dev.eng 3).step = some 0 ∧ wE.dev.step? 0 = some wStep ∧ 4088 < 536870912 ∧ 4088 % 268435456 < vatSize ∧ BitVec.toNat ((wE.dev.eng (3 : Fin (128 : Nat))).rx (11 : Fin (32 : Nat)) + BitVec.signExtend (64 : Nat) (0 : BitVec (12 : Nat))) = (255 : Nat) * (2 : Nat) ^ (48 : Nat) + vatBase + (4088 : Nat) ∧ 4088 % 2 ^ 3 = 0 ∧ wStep.covers 4088 (2 ^ 3) = true) ∧
    (wE.dev.canRun 3 = true ∧ (wE.dev.eng 3).step = some 0 ∧ wE.dev.step? 0 = some wStep ∧ 4088 < 536870912 ∧ 4088 % 268435456 < vatSize ∧ BitVec.toNat ((wE.dev.eng (3 : Fin (128 : Nat))).rx (11 : Fin (32 : Nat)) + BitVec.signExtend (64 : Nat) (0 : BitVec (12 : Nat))) = (255 : Nat) * (2 : Nat) ^ (48 : Nat) + vatBase + (4088 : Nat) ∧ 4088 % 2 ^ 3 = 0 ∧ wStep.covers 4088 (2 ^ 3) = true ∧ ((∀ w ∈ wE.dev.writes, w.src ≠ Agent.engine 3) ∧ (wE.dev.rennetOut (Agent.engine 3) fun (x : Nat) => true) = false)) ∧
    (wE.dev.canRun 3 = true ∧ (wE.dev.eng 3).step = some 0 ∧ wE.dev.step? 0 = some wStep ∧ 4088 < 536870912 ∧ 4088 % 268435456 < vatSize ∧ BitVec.toNat ((wE.dev.eng 3).rx 11) = 255 * 2 ^ 48 + vatBase + 4088 ∧ 4088 % 4 = 0 ∧ wStep.covers 4088 4 = true) ∧
    (wE.dev.canRun 3 = true ∧ (wE.dev.eng 3).step = some 0 ∧ wE.dev.step? 0 = some wStep ∧ 4088 < 536870912 ∧ 4088 % 268435456 < vatSize ∧ BitVec.toNat ((wE.dev.eng 3).rx 11) = 255 * 2 ^ 48 + vatBase + 4088 ∧ 4088 % 8 = 0 ∧ wStep.covers 4088 8 = true) ∧
    (wE.dev.canRun 3 = true ∧ (wE.dev.eng 3).step = some 0 ∧ wE.dev.step? 0 = some wStep ∧ 4088 < 536870912 ∧ 4088 % 268435456 < vatSize ∧ BitVec.toNat ((wE.dev.eng 3).rx 11) = 255 * 2 ^ 48 + vatBase + 4088 ∧ 4088 % 4 = 0 ∧ wStep.covers 4088 4 = true ∧ ((∀ w ∈ wE.dev.writes, w.src ≠ Agent.engine 3) ∧ (wE.dev.rennetOut (Agent.engine 3) fun (x : Nat) => true) = false)) :=
  by and_intros <;> decide +kernel

theorem test_wit_EngineAtomics :
    (wE.dev.canRun 3 = true ∧ (wE.dev.eng 3).step = some 0 ∧ wE.dev.step? 0 = some wStep ∧ (BitVec.toNat ((wE.dev.eng 3).rx 11) % if true = true then 8 else 4) = 0 ∧ (∀ w ∈ wE.dev.writes, w.src ≠ Agent.engine 3) ∧ (wE.dev.rennetOut (Agent.engine 3) fun (x : Nat) => true) = false ∧ 4088 < 536870912 ∧ 4088 % 268435456 < vatSize ∧ BitVec.toNat ((wE.dev.eng 3).rx 11) = 255 * 2 ^ 48 + vatBase + 4088 ∧ wStep.covers 4088 (if true = true then 8 else 4) = true) ∧
    (wE.dev.canRun 3 = true ∧ (wE.dev.eng 3).step = some 0 ∧ wE.dev.step? 0 = some wStep ∧ (BitVec.toNat ((wE.dev.eng 3).rx 11) % if true = true then 8 else 4) = 0 ∧ (∀ w ∈ wE.dev.writes, w.src ≠ Agent.engine 3) ∧ (wE.dev.rennetOut (Agent.engine 3) fun (x : Nat) => true) = false ∧ 4088 < 536870912 ∧ 4088 % 268435456 < vatSize ∧ BitVec.toNat ((wE.dev.eng 3).rx 11) = 255 * 2 ^ 48 + vatBase + 4088) ∧
    ((wU 4104).dev.canRun 3 = true ∧ ((wU 4104).dev.eng 3).step = some 0 ∧ (wU 4104).dev.step? 0 = some wStep ∧ (BitVec.toNat (((wU 4104).dev.eng 3).rx 11) % if true = true then 8 else 4) = 0 ∧ (∀ w ∈ (wU 4104).dev.writes, w.src ≠ Agent.engine 3) ∧ ((wU 4104).dev.rennetOut (Agent.engine 3) fun (x : Nat) => true) = false ∧ (wU 4104).dev.vatWindow (BitVec.toNat (((wU 4104).dev.eng 3).rx 11)) = none ∧ (wU 4104).dev.rennetWindow (BitVec.toNat (((wU 4104).dev.eng 3).rx 11)) = false ∧ (wU 4104).dev.backed 4104 = true ∧ (wU 4104).dev.target true 71776119061221384 = Target.umr 4104 ∧ (wU 4104).dev.xlookup (XUser.engine 3) (((wU 4104).dev.engCtx 3).getD 0) (BitVec.toNat (((wU 4104).dev.eng 3).rx 11)) Access.read = some 71776119061221384) ∧
    ((wU 4104).dev.canRun 3 = true ∧ ((wU 4104).dev.eng 3).step = some 0 ∧ (wU 4104).dev.step? 0 = some wStep ∧ (BitVec.toNat (((wU 4104).dev.eng 3).rx 11) % if true = true then 8 else 4) = 0 ∧ (∀ w ∈ (wU 4104).dev.writes, w.src ≠ Agent.engine 3) ∧ ((wU 4104).dev.rennetOut (Agent.engine 3) fun (x : Nat) => true) = false ∧ (wU 4104).dev.vatWindow (BitVec.toNat (((wU 4104).dev.eng 3).rx 11)) = none ∧ (wU 4104).dev.rennetWindow (BitVec.toNat (((wU 4104).dev.eng 3).rx 11)) = false ∧ (wU 4104).dev.backed 4104 = true ∧ (wU 4104).dev.target true 71776119061221384 = Target.umr 4104 ∧ (wU 4104).dev.xlookup (XUser.engine 3) (((wU 4104).dev.engCtx 3).getD 0) (BitVec.toNat (((wU 4104).dev.eng 3).rx 11)) Access.write = some 71776119061221384) :=
  by and_intros <;> decide +kernel

theorem test_wit_VectorFormatInstructions :
    ((wVec [(2, 1393)]).dev.canRun 3 = true ∧ vecFmt ((wVec [(2, 1393)]).dev.eng 3) 2 = some (Fmt.mini { eb := 4, mb := 3, spec := 1, sub := true, bias := 0 }) ∧ blkOk (Fmt.mini { eb := 4, mb := 3, spec := 1, sub := true, bias := 0 }) (xfdBlk ((wVec [(2, 1393)]).dev.eng 3) 2) = true ∧ (blkSize (xfdBlk ((wVec [(2, 1393)]).dev.eng 3) 2) = 0 → 0 = 0) ∧ xvBad ((wVec [(2, 1393)]).dev.eng 3) (8, fpSpan ((wVec [(2, 1393)]).dev.eng 3)) ((16, packSpan ((wVec [(2, 1393)]).dev.eng 3) (Fmt.mini { eb := 4, mb := 3, spec := 1, sub := true, bias := 0 }).width) :: if blkSize (xfdBlk ((wVec [(2, 1393)]).dev.eng 3) 2) = 0 then [] else [(0, 1)]) = false) ∧
    ((wVec [(2, 1393)]).dev.canRun 3 = true ∧ vecFmt ((wVec [(2, 1393)]).dev.eng 3) 2 = some (Fmt.mini { eb := 4, mb := 3, spec := 1, sub := true, bias := 0 }) ∧ blkOk (Fmt.mini { eb := 4, mb := 3, spec := 1, sub := true, bias := 0 }) (xfdBlk ((wVec [(2, 1393)]).dev.eng 3) 2) = true ∧ (blkSize (xfdBlk ((wVec [(2, 1393)]).dev.eng 3) 2) = 0 → 0 = 0) ∧ xvBad ((wVec [(2, 1393)]).dev.eng 3) (8, packSpan ((wVec [(2, 1393)]).dev.eng 3) (Fmt.mini { eb := 4, mb := 3, spec := 1, sub := true, bias := 0 }).width) ((16, fpSpan ((wVec [(2, 1393)]).dev.eng 3)) :: if blkSize (xfdBlk ((wVec [(2, 1393)]).dev.eng 3) 2) = 0 then [] else [(0, 1)]) = false) ∧
    ((wVec [(2, 66929)]).dev.canRun 3 = true ∧ xfdFmt ((wVec [(2, 66929)]).dev.eng 3) 2 = some (Fmt.mini { eb := 4, mb := 3, spec := 1, sub := true, bias := 0 }) ∧ blkBad (xfdBlk ((wVec [(2, 66929)]).dev.eng 3) 2) = false ∧ blkSize (xfdBlk ((wVec [(2, 66929)]).dev.eng 3) 2) ≠ 0 ∧ 0 = 0 ∧ xvBad ((wVec [(2, 66929)]).dev.eng 3) (8, 1) [(16, fpSpan ((wVec [(2, 66929)]).dev.eng 3))] = false) ∧
    ((wVec [(2, 66929)]).dev.canRun 3 = true ∧ xfdFmt ((wVec [(2, 66929)]).dev.eng 3) 2 = some (Fmt.mini { eb := 4, mb := 3, spec := 1, sub := true, bias := 0 }) ∧ blkBad (xfdBlk ((wVec [(2, 66929)]).dev.eng 3) 2) = false ∧ blkSize (xfdBlk ((wVec [(2, 66929)]).dev.eng 3) 2) ≠ 0 ∧ 0 = 0 ∧ xvBad ((wVec [(2, 66929)]).dev.eng 3) (8, fpSpan ((wVec [(2, 66929)]).dev.eng 3)) [(16, packSpan ((wVec [(2, 66929)]).dev.eng 3) 8)] = false) ∧
    ((wVec [(2, 3), (3, 3)]).dev.canRun 3 = true ∧ vecFmt ((wVec [(2, 3), (3, 3)]).dev.eng 3) 2 = some (Fmt.int true 8) ∧ vecFmt ((wVec [(2, 3), (3, 3)]).dev.eng 3) (2 + 1) = some (Fmt.int true 8) ∧ blkOk (Fmt.int true 8) (xfdBlk ((wVec [(2, 3), (3, 3)]).dev.eng 3) 2) = true ∧ blkOk (Fmt.int true 8) (xfdBlk ((wVec [(2, 3), (3, 3)]).dev.eng 3) (2 + 1)) = true ∧ (blkSize (xfdBlk ((wVec [(2, 3), (3, 3)]).dev.eng 3) 2) = 0 ∨ blkSize (xfdBlk ((wVec [(2, 3), (3, 3)]).dev.eng 3) (2 + 1)) = 0 ∨ blkSize (xfdBlk ((wVec [(2, 3), (3, 3)]).dev.eng 3) 2) = blkSize (xfdBlk ((wVec [(2, 3), (3, 3)]).dev.eng 3) (2 + 1))) ∧ (Fmt.int true 8).isInt = (Fmt.int true 8).isInt ∧ xvBad ((wVec [(2, 3), (3, 3)]).dev.eng 3) (8, 1) [(16, packSpan ((wVec [(2, 3), (3, 3)]).dev.eng 3) (Fmt.int true 8).width), (24, packSpan ((wVec [(2, 3), (3, 3)]).dev.eng 3) (Fmt.int true 8).width)] = false) ∧
    ((wVec [(2, 1393), (3, 1393)]).dev.canRun 3 = true ∧ vecFmt ((wVec [(2, 1393), (3, 1393)]).dev.eng 3) 2 = some (Fmt.mini { eb := 4, mb := 3, spec := 1, sub := true, bias := 0 }) ∧ vecFmt ((wVec [(2, 1393), (3, 1393)]).dev.eng 3) (2 + 1) = some (Fmt.mini { eb := 4, mb := 3, spec := 1, sub := true, bias := 0 }) ∧ blkOk (Fmt.mini { eb := 4, mb := 3, spec := 1, sub := true, bias := 0 }) (xfdBlk ((wVec [(2, 1393), (3, 1393)]).dev.eng 3) 2) = true ∧ blkOk (Fmt.mini { eb := 4, mb := 3, spec := 1, sub := true, bias := 0 }) (xfdBlk ((wVec [(2, 1393), (3, 1393)]).dev.eng 3) (2 + 1)) = true ∧ (blkSize (xfdBlk ((wVec [(2, 1393), (3, 1393)]).dev.eng 3) 2) = 0 ∨ blkSize (xfdBlk ((wVec [(2, 1393), (3, 1393)]).dev.eng 3) (2 + 1)) = 0 ∨ blkSize (xfdBlk ((wVec [(2, 1393), (3, 1393)]).dev.eng 3) 2) = blkSize (xfdBlk ((wVec [(2, 1393), (3, 1393)]).dev.eng 3) (2 + 1))) ∧ (Fmt.mini { eb := 4, mb := 3, spec := 1, sub := true, bias := 0 }).isInt = (Fmt.mini { eb := 4, mb := 3, spec := 1, sub := true, bias := 0 }).isInt ∧ xvBad ((wVec [(2, 1393), (3, 1393)]).dev.eng 3) (8, 1) [(16, packSpan ((wVec [(2, 1393), (3, 1393)]).dev.eng 3) (Fmt.mini { eb := 4, mb := 3, spec := 1, sub := true, bias := 0 }).width), (24, packSpan ((wVec [(2, 1393), (3, 1393)]).dev.eng 3) (Fmt.mini { eb := 4, mb := 3, spec := 1, sub := true, bias := 0 }).width)] = false) :=
  by and_intros <;> decide +kernel

theorem test_wit_EnginesRunWordsAndEndTheirStep :
    (wE.dev.canRun 3 = true ∧ (wE.dev.eng 3).step = some 0 ∧ wE.dev.step? 0 = some wStep ∧ wStep.phase = Phase.running) ∧
    (wE.dev.canRun 3 = true ∧ (wE.dev.eng 3).step = some 0 ∧ wE.dev.step? 0 = some wStep ∧ wStep.phase = Phase.running ∧ wE.dev.ebreakDebug = false) ∧
    (wEd.dev.canRun 3 = true ∧ (wEd.dev.eng 3).step = some 0 ∧ wEd.dev.step? 0 = some wStep ∧ wStep.phase = Phase.running ∧ wEd.dev.ebreakDebug = true) ∧
    (wFe.dev.canRun 3 = true ∧ wFe.dev.fetch 3 true Status.ok = Except.ok (wFd true)) ∧
    (wFe.dev.canRun 3 = true ∧ wFe.dev.fetch 3 false Status.ok = Except.ok (wFd false)) :=
  by and_intros <;> first | decide +kernel | exact eqOk (by decide +kernel)

theorem test_wit_AnvilOperationsEnterAndStart :
    ((∀ p ∈ wI.dev.sched.steps, p.2.lostOps = []) ∧ wI.dev.anvil.issues = [3] ∧ (wI.dev.eng 3).run = EngRun.issue 5 128 ∧ (wI.dev.eng 3).step = some 0 ∧ wI.dev.step? 0 = some wStC ∧ opCheck wI.dev wStC 128 = Except.ok wOd ∧ wI.dev.opFits 0 wStC wOd = true) ∧
    (Two.get wQd.dev.anvil.queue Half.east = [6] ∧ tget wQd.dev.anvil.ops 6 = some wAop) :=
  by and_intros <;> first | decide +kernel | exact eqOk (by decide +kernel)

theorem test_wit_AnvilSharesCompleteAndColumnsAreSubstituted :
    (Two.get wQs.dev.anvil.queue Half.east = [6] ∧ tget wQs.dev.anvil.ops 6 = some w04s1 ∧ Two.get w04s1.started Half.east = true ∧ w04s1.desc.span = 2 ∧ Two.get w04s1.done (otherHalf Half.east) = false ∧ wQs.dev.step? w04s1.step = some wStep ∧ wQs.dev.ctx? wStep.ctx = some wCtx) ∧
    (Two.get w04s2.dev.anvil.failedCols Half.east = [1023, 5] ∧ w04s2.dev.streaming Half.east = false ∧ lgetD (Two.get w04s2.dev.anvil.spares Half.east) (1023 / 256) 0 ≠ 0) :=
  by and_intros <;> decide +kernel

theorem test_wit_DescriptorsBecomeStepsThatStart :
    (tget wRn.dev.host.rings 17 = some wRing ∧ wRn.dev.fetchOpen 17 wRing = true ∧ wRn.dev.fwHolds (wRing.base + BitVec.ofNat 64 (64 * (wRing.head.toNat % 2 ^ wRing.log2))) 64 = none ∧ wRn.dev.fwRead (wRing.base + BitVec.ofNat 64 (64 * (wRing.head.toNat % 2 ^ wRing.log2))) 64 [] = Except.ok (List.replicate 64 0) ∧ stepDescBad (ofLe (List.replicate 64 0)) = false) ∧
    (wPh.dev.step? 0 = some wSt1 ∧ wSt1.phase = Phase.fetched ∧ wSt1.parked = none ∧ wSt1.outcome = none ∧ wPh.dev.phase1 0 wSt1 wExt = Except.ok (wImgS.1, wImgS.2)) ∧
    (wFi.dev.step? 0 = some wSt3 ∧ wSt3.phase = Phase.filling) :=
  by and_intros <;> first | decide +kernel | exact eqOk (by decide +kernel)

theorem test_wit_KernelsEnd :
    ((wKe 0).dev.step? 0 = some (wK 0) ∧ (wK 0).phase = Phase.running ∧ (wK 0).outcome = none ∧ (wK 0).victimOf = none ∧ (∀ e ∈ (wK 0).engines, ((wKe 0).dev.eng e).run = EngRun.kended) ∧ (wKe 0).dev.workLeft 0 (wK 0) = false ∧ (wKe 0).dev.inFlight 0 (wK 0) = false ∧ (wK 0).kernel + 1 < (wK 0).image.kernels.length) ∧
    ((wKe 1).dev.step? 0 = some (wK 1) ∧ (wK 1).phase = Phase.running ∧ (wK 1).outcome = none ∧ (wK 1).victimOf = none ∧ (∀ e ∈ (wK 1).engines, ((wKe 1).dev.eng e).run = EngRun.kended) ∧ (wKe 1).dev.workLeft 0 (wK 1) = false ∧ (wKe 1).dev.inFlight 0 (wK 1) = false ∧ (wK 1).image.kernels.length ≤ (wK 1).kernel + 1) :=
  by and_intros <;> decide +kernel

theorem test_wit_StepsComplete :
    (wDrs.dev.step? 0 = some wDr ∧ wDr.phase = Phase.draining ∧ wDrs.dev.ctx? wDr.ctx = some wCtx ∧ wDrs.dev.workLeft 0 wDr = false ∧ wDrs.dev.inFlight 0 wDr = false) ∧
    (wPo.dev.ctx? 3 = some wCx ∧ wCx.recs = [wRec] ∧ wCx.room ≠ 0) ∧
    ((Two.get w04s3.dev.sched.half Half.east).clearing = [(0, 4096), (8192, 4096)] ∧ Memory.wf w04s3.dev.mem = true) :=
  by and_intros <;> decide +kernel

theorem test_wit_TongsTransfersEnterCopyAndComplete :
    ((wTe.dev.eng 3).run = EngRun.tissue 5 0 1 ∧ (wTe.dev.eng 3).step = some 0 ∧ wTe.dev.step? 0 = some wStep ∧ xferCheck wTe.dev wStep 0 = Except.ok wTd ∧ (tgetD wTe.dev.tongs (chanKey 3 1) []).length < 16) ∧
    (tgetD w04s4.dev.tongs (chanKey 3 1) [] = [w04s5] ∧ w04s5.failed = false ∧ w04s5.desc.rows ≤ w04s5.row ∧ w04s5.desc.doneObj = none ∧ (∀ w ∈ w04s4.dev.writes, w.src ≠ Agent.tongs 3 1) ∧ (∀ (sc : Scope) (k : Cont), (w04s4.dev.eng 3).run ≠ EngRun.release sc k) ∧ (∀ (st : Step), w04s4.dev.step? w04s5.step = some st → st.phase ≠ Phase.saving ∧ st.phase ≠ Phase.saved ∧ st.phase ≠ Phase.restoring)) ∧
    (1 / 4 = engIdx 3 / 8 ∧ (wXs wXf).dev.unitUp (tongsUnit (engHalf 3) 1) = true ∧ List.filter (fun (k : Nat) => (wXs wXf).dev.tongsFor (engHalf 3) (1 / 4) k == some 1) (List.range 4) = [1] ∧ tgetD (wXs wXf).dev.tongsNext (32 * halfIdx (engHalf 3) + 1) 0 = engIdx 3 % 8 ∧ tgetD (wXs wXf).dev.tongs (chanKey 3 1) [] = [wXf] ∧ wXf.failed = false ∧ wXf.parked = none ∧ wXf.walking = false ∧ wXf.row = 0 ∧ wXf.col = 0 ∧ (wXs wXf).dev.step? wXf.step = some wStep ∧ wStep.phase = Phase.running ∧ wXf.desc.op = 1 ∧ wXf.desc.cvt = false ∧ wXf.desc.ssp = true ∧ wXf.desc.dsp = true ∧ wXf.desc.isp = false ∧ wXf.desc.e 1 = 1 ∧ wXf.desc.e 2 = 1 ∧ wXf.desc.e 3 = 1 ∧ 0 < wXf.desc.e 0 ∧ wXf.desc.e 0 ≤ 4096 ∧ wXf.desc.dst < 536870912 ∧ wXf.desc.dst % 268435456 + wXf.desc.e 0 ≤ vatSize ∧ (wXs wXf).dev.overlapping 3 wXf = false ∧ (wXs wXf).dev.anvil.ops = [] ∧ (∀ w ∈ (wXs wXf).dev.writes, w.src ≠ Agent.tongs 3 1)) :=
  by and_intros <;> first | decide +kernel | exact eqOk (by decide +kernel) | exact notRelease (by decide +kernel)

theorem test_wit_PreemptionStages :
    (4 ∈ (Two.get wB1.dev.sched.half Half.east).blocked ∧ 4 ∉ (Two.get wB1.dev.sched.half Half.east).timedOut) ∧
    ((wVs Phase.running (some 8)).dev.step? 0 = some (wV Phase.running (some 8)) ∧ (wV Phase.running (some 8)).phase = Phase.running ∧ (wV Phase.running (some 8)).victimOf = some 8 ∧ (∀ e ∈ (wV Phase.running (some 8)).engines, ((wVs Phase.running (some 8)).dev.eng e).stopAs.isSome = true)) ∧
    ((wVs Phase.stopping (some 8)).dev.step? 0 = some (wV Phase.stopping (some 8)) ∧ (wV Phase.stopping (some 8)).phase = Phase.stopping ∧ (wV Phase.stopping (some 8)).outcome = none ∧ (∀ p ∈ (wVs Phase.stopping (some 8)).dev.anvil.ops, p.2.step ≠ 0) ∧ (wVs Phase.stopping (some 8)).dev.inFlight 0 (wV Phase.stopping (some 8)) = false) ∧
    ((wVs Phase.saving none).dev.step? 0 = some (wV Phase.saving none) ∧ (wV Phase.saving none).phase = Phase.saving ∧ (wV Phase.saving none).victimOf = none ∧ (wVs Phase.saving none).dev.ctx? (wV Phase.saving none).ctx = some wCtx) ∧
    ((wVs Phase.restoring none).dev.step? 0 = some (wV Phase.restoring none) ∧ (wV Phase.restoring none).phase = Phase.restoring ∧ (∀ k ∈ (wV Phase.restoring none).domains, (wVs Phase.restoring none).dev.awake k = true)) :=
  by and_intros <;> decide +kernel

theorem test_wit_RennetObjectsHaveTheirAddresses :
    (131071 < 131072) ∧
    (65535 < 131072) :=
  by and_intros <;> decide +kernel

theorem test_wit_RennetSignalsActByType :
    ((wN wOb1 [wSg 2]).dev.arriveTag (RMsg.sig wSrc SigKind.sig 5 2) = some (none, wArr (wN wOb1 [wSg 2]) (wSg 2)) ∧ (wN wOb1 [wSg 2]).dev.rennetGate wSrc 5 = none ∧ (SigKind.sig = SigKind.sig → sigBad ((wN wOb1 [wSg 2]).dev.obj 5).typ 2 = false)) ∧
    ((wN wOb2 [wSg 2]).dev.arriveTag (RMsg.sig wSrc SigKind.sig 5 2) = some (none, wArr (wN wOb2 [wSg 2]) (wSg 2)) ∧ (wN wOb2 [wSg 2]).dev.rennetGate wSrc 5 = none ∧ (SigKind.sig = SigKind.sig → sigBad ((wN wOb2 [wSg 2]).dev.obj 5).typ 2 = false)) ∧
    ((wN wOb2 [wSg 4294967293]).dev.arriveTag (RMsg.sig wSrc SigKind.sig 5 4294967293) = some (none, wArr (wN wOb2 [wSg 4294967293]) (wSg 4294967293)) ∧ (wN wOb2 [wSg 4294967293]).dev.rennetGate wSrc 5 = none ∧ (SigKind.sig = SigKind.sig → sigBad ((wN wOb2 [wSg 4294967293]).dev.obj 5).typ 4294967293 = false)) ∧
    ((wN wOb3 [wSg 3]).dev.arriveTag (RMsg.sig wSrc SigKind.sig 5 3) = some (none, wArr (wN wOb3 [wSg 3]) (wSg 3)) ∧ (wN wOb3 [wSg 3]).dev.rennetGate wSrc 5 = none ∧ (SigKind.sig = SigKind.sig → sigBad ((wN wOb3 [wSg 3]).dev.obj 5).typ 3 = false)) ∧
    ((wN wOb3 [wSg 2]).dev.arriveTag (RMsg.sig wSrc SigKind.sig 5 2) = some (none, wArr (wN wOb3 [wSg 2]) (wSg 2)) ∧ (wN wOb3 [wSg 2]).dev.rennetGate wSrc 5 = none ∧ (SigKind.sig = SigKind.sig → sigBad ((wN wOb3 [wSg 2]).dev.obj 5).typ 2 = false)) ∧
    ((wN wOb4 [wSg 4]).dev.arriveTag (RMsg.sig wSrc SigKind.sig 5 4) = some (none, wArr (wN wOb4 [wSg 4]) (wSg 4)) ∧ (wN wOb4 [wSg 4]).dev.rennetGate wSrc 5 = none ∧ (SigKind.sig = SigKind.sig → sigBad ((wN wOb4 [wSg 4]).dev.obj 5).typ 4 = false)) ∧
    ((wN wOb4 [wSd]).dev.arriveTag (RMsg.sig wSrc SigKind.done 5 1) = some (none, wArr (wN wOb4 [wSd]) wSd) ∧ (wN wOb4 [wSd]).dev.rennetGate wSrc 5 = none ∧ (SigKind.done = SigKind.sig → sigBad ((wN wOb4 [wSd]).dev.obj 5).typ 1 = false)) :=
  by and_intros <;> decide +kernel

theorem test_wit_ConfigureRewritesTheObject :
    ((wN wOb4 [wSg 5764607523034235136]).dev.arriveTag (RMsg.sig wSrc SigKind.sig 5 5764607523034235136) = some (none, wArr (wN wOb4 [wSg 5764607523034235136]) (wSg 5764607523034235136)) ∧ (wN wOb4 [wSg 5764607523034235136]).dev.objOpen 5 wSrc.pd.toNat = true ∧ 5764607523034235136 / 2 ^ 62 = 1 ∧ rtypOf (5764607523034235136 / 2 ^ 60 % 4) = some RTyp.barrier ∧ 5764607523034235136 / 2 ^ 32 % 2 ^ 28 = 0 ∧ (RTyp.barrier = RTyp.barrier → 1 ≤ 5764607523034235136 % 2 ^ 32 ∧ 5764607523034235136 % 2 ^ 32 ≤ 256) ∧ (∀ w ∈ (wN wOb4 [wSg 5764607523034235136]).dev.rennet.waiters, w.obj = 5 → waitDone ((wN wOb4 [wSg 5764607523034235136]).dev.obj 5) w.operand = false)) :=
  by decide +kernel

theorem test_wit_RennetAddsAndWaits :
    ((wN wOb2 [wSg 9223372036854775927]).dev.rennetGate wSrc 5 = none ∧ (wN wOb2 [wSg 9223372036854775927]).dev.arriveTag (RMsg.sig wSrc SigKind.sig 5 9223372036854775927) = some (none, wArr (wN wOb2 [wSg 9223372036854775927]) (wSg 9223372036854775927)) ∧ ((wN wOb2 [wSg 9223372036854775927]).dev.obj 5).typ ≠ RTyp.barrier ∧ 9223372036854775927 / 2 ^ 62 = 2 ∧ 9223372036854775927 / 2 ^ 32 % 2 ^ 30 = 0) ∧
    ((wNr wOb1 [wAd] (EngRun.reply 5 0 true)).dev.rennetGate wSrc 5 = none ∧ (wNr wOb1 [wAd] (EngRun.reply 5 0 true)).dev.arriveTag (RMsg.add wSrc 5 2) = some (none, wArr (wNr wOb1 [wAd] (EngRun.reply 5 0 true)) wAd) ∧ ((wNr wOb1 [wAd] (EngRun.reply 5 0 true)).dev.obj 5).typ ≠ RTyp.barrier ∧ srcEng (wNr wOb1 [wAd] (EngRun.reply 5 0 true)).dev wSrc = some 3 ∧ ((wNr wOb1 [wAd] (EngRun.reply 5 0 true)).dev.eng 3).run = EngRun.reply 5 0 true) ∧
    ((wNr wOb1 [wWt 9] (EngRun.rwait 5 0 Scope.half)).dev.rennetGate wSrc 5 = none ∧ (wNr wOb1 [wWt 9] (EngRun.rwait 5 0 Scope.half)).dev.arriveTag (RMsg.wait wSrc 5 9 Scope.half) = some (none, wArr (wNr wOb1 [wWt 9] (EngRun.rwait 5 0 Scope.half)) (wWt 9)) ∧ srcEng (wNr wOb1 [wWt 9] (EngRun.rwait 5 0 Scope.half)).dev wSrc = some 3) ∧
    ((wNr wOb1 [wWt 2] (EngRun.rwait 5 0 Scope.half)).dev.rennetGate wSrc 5 = none ∧ (wNr wOb1 [wWt 2] (EngRun.rwait 5 0 Scope.half)).dev.arriveTag (RMsg.wait wSrc 5 2 Scope.half) = some (none, wArr (wNr wOb1 [wWt 2] (EngRun.rwait 5 0 Scope.half)) (wWt 2)) ∧ srcEng (wNr wOb1 [wWt 2] (EngRun.rwait 5 0 Scope.half)).dev wSrc = some 3) ∧
    ((wNr wOb1 [RMsg.wake 3 77] (EngRun.rwait 5 0 Scope.half)).dev.rennetGate wSrc 5 = none ∧ (wNr wOb1 [RMsg.wake 3 77] (EngRun.rwait 5 0 Scope.half)).dev.rennet.msgs = [RMsg.wake 3 77] ∧ ((wNr wOb1 [RMsg.wake 3 77] (EngRun.rwait 5 0 Scope.half)).dev.eng 3).run = EngRun.rwait 5 0 Scope.half) :=
  by and_intros <;> decide +kernel

theorem test_wit_WindowsLandingsAndDumpsAct :
    ((wH wOb1).dev.coreTo (BitVec.ofNat 64 (255 * 2 ^ 48 + rennetBase + 64 * 5)) = CoreTo.rennet none 5 0 ∧ ((wH wOb1).dev.core 8).domEn = true ∧ (wH wOb1).dev.objOpen 5 ((wH wOb1).dev.core 8).pd = true ∧ ((wH wOb1).dev.obj 5).poisoned = false ∧ 0 % 8 = 0 ∧ (wH wOb1).dev.coreMay 8 CKind.load = true ∧ ((wH wOb1).dev.core 8).loads = [] ∧ (wH wOb1).dev.opsOut (Agent.core 8) 5 = false) ∧
    ((wH wOb1).dev.coreTo (BitVec.ofNat 64 (255 * 2 ^ 48 + rennetBase + 64 * 5)) = CoreTo.rennet none 5 0 ∧ ((wH wOb1).dev.core 8).domEn = true ∧ (wH wOb1).dev.objOpen 5 ((wH wOb1).dev.core 8).pd = true ∧ ((wH wOb1).dev.obj 5).poisoned = false ∧ 0 = 0 ∧ (wH wOb1).dev.coreMay 8 CKind.store = true) ∧
    ((wH wOb2).dev.coreTo (BitVec.ofNat 64 (255 * 2 ^ 48 + rennetBase + 64 * 5)) = CoreTo.rennet none 5 0 ∧ ((wH wOb2).dev.core 8).domEn = true ∧ (wH wOb2).dev.objOpen 5 ((wH wOb2).dev.core 8).pd = true ∧ ((wH wOb2).dev.obj 5).poisoned = false ∧ 0 = 0 ∧ (wH wOb2).dev.coreMay 8 CKind.both = true ∧ (wH wOb2).dev.sigHolds (Agent.core 8) ((wH wOb2).dev.target false 72055395014672704) = false ∧ ((wH wOb2).dev.obj 5).typ ≠ RTyp.barrier) ∧
    (wLd.dev.rennet.landings = [(9, 64)] ∧ (∀ w ∈ wLd.dev.writes, w.src ≠ Agent.region 9) ∧ tget wLd.dev.host.regions 9 = some w05s2 ∧ w05s2.counter = some 5 ∧ (wLd.dev.obj 5).typ = RTyp.counter ∧ (wLd.dev.obj 5).thresh = 0 ∧ wLd.dev.objOpen 5 (wLd.dev.pdOf w05s2.ctx % 256) = true ∧ (wLd.dev.obj 5).poisoned = false) ∧
    (3 < 4095 ∧ wDl.dev.ctx? 3 = some wCtx ∧ wDl.dev.stalled 3 = true ∧ 3 ∉ wDl.dev.rennet.fired ∧ wDl.dev.opsInWindow 3 = false ∧ wDl.dev.faults.contain = none ∧ wCtx.dumpOn = false ∧ wDl.dev.host.canHold = true) ∧
    (w05s3.dev.rennet.dumps = [wDj] ∧ wDj.slot = none ∧ w05s3.dev.host.canHold = true) :=
  by and_intros <;> decide +kernel

theorem test_wit_HomesServeUnheldLines :
    (HomeTakes (wNc [wM NKind.rdShared (Agent.core 5)]).dev wAddr (wM NKind.rdShared (Agent.core 5)) w0 ∧ w0.holders (maKey (wM NKind.rdShared (Agent.core 5)).addr) = [] ∧ wM NKind.rdShared (Agent.core 5) = { kind := NKind.rdShared, who := Agent.core 5, addr := (wM NKind.rdShared (Agent.core 5)).addr }) ∧
    (HomeTakes (wNc [wM NKind.rdUnique (Agent.core 5)]).dev wAddr (wM NKind.rdUnique (Agent.core 5)) w0 ∧ w0.holders (maKey (wM NKind.rdUnique (Agent.core 5)).addr) = [] ∧ wM NKind.rdUnique (Agent.core 5) = { kind := NKind.rdUnique, who := Agent.core 5, addr := (wM NKind.rdUnique (Agent.core 5)).addr }) ∧
    (HomeTakes (wNc [wM NKind.rdOnce (Agent.core 5)]).dev wAddr (wM NKind.rdOnce (Agent.core 5)) w0 ∧ w0.holders (maKey (wM NKind.rdOnce (Agent.core 5)).addr) = [] ∧ (∀ (n : Fin 64), (wM NKind.rdOnce (Agent.core 5)).who ≠ Agent.node n) ∧ wM NKind.rdOnce (Agent.core 5) = { kind := NKind.rdOnce, who := (wM NKind.rdOnce (Agent.core 5)).who, addr := (wM NKind.rdOnce (Agent.core 5)).addr }) ∧
    (HomeTakes w06s1.dev wAddr w06s2 w0 ∧ w0.holders (maKey w06s2.addr) = [] ∧ (∀ (n : Fin 64), w06s2.who ≠ Agent.node n) ∧ w06s2 = { kind := NKind.wrLine, who := w06s2.who, addr := w06s2.addr, bytes := w06s2.bytes } ∧ w06s2.bytes.length = 64 ∧ BitVec.toNat wAddr % 64 = 0) ∧
    (HomeTakes w06s3.dev wAddr w06s4 w0 ∧ w0.holders (maKey w06s4.addr) = [] ∧ (∀ (n : Fin 64), w06s4.who ≠ Agent.node n) ∧ w06s4 = { kind := NKind.wrPart, who := w06s4.who, addr := w06s4.addr, bytes := w06s4.bytes } ∧ BitVec.toNat wAddr % 64 + w06s4.bytes.length ≤ 64) ∧
    (HomeTakes w06s5.dev wAddr w06s6 w0 ∧ w0.holders (maKey w06s6.addr) = [] ∧ (∀ (n : Fin 64), w06s6.who ≠ Agent.node n) ∧ w06s6 = { kind := NKind.atomic, who := w06s6.who, addr := w06s6.addr, atom := AtomOp.amo AmoOp.add 7 true }) ∧
    (HomeTakes (wHold FSt.s [wM NKind.claimUnique (Agent.core 5)]).dev wAddr (wM NKind.claimUnique (Agent.core 5)) (wHold FSt.s []).dev ∧ wM NKind.claimUnique (Agent.core 5) = { kind := NKind.claimUnique, who := Agent.core 5, addr := (wM NKind.claimUnique (Agent.core 5)).addr } ∧ (wHold FSt.s []).dev.holders (maKey (wM NKind.claimUnique (Agent.core 5)).addr) = [(Agent.core 5, false)]) :=
  by and_intros <;> first | decide +kernel | exact eqGo (by decide +kernel)

theorem test_wit_HomesForwardToTheOwner :
    ((∀ (n : Fin 64), (wM NKind.rdShared (Agent.core 6)).who ≠ Agent.node n) ∧ (wM NKind.rdShared (Agent.core 6)).who ≠ Agent.core 5 ∧ HomeTakes (wHold FSt.em [wM NKind.rdShared (Agent.core 6)]).dev wAddr (wM NKind.rdShared (Agent.core 6)) (wHold FSt.em []).dev ∧ (wHold FSt.em []).dev.holders (maKey (wM NKind.rdShared (Agent.core 6)).addr) = [(Agent.core 5, true)] ∧ wM NKind.rdShared (Agent.core 6) = { kind := NKind.rdShared, who := (wM NKind.rdShared (Agent.core 6)).who, addr := (wM NKind.rdShared (Agent.core 6)).addr }) ∧
    ((∀ (n : Fin 64), (wM NKind.rdUnique (Agent.core 6)).who ≠ Agent.node n) ∧ (wM NKind.rdUnique (Agent.core 6)).who ≠ Agent.core 5 ∧ HomeTakes (wHold FSt.em [wM NKind.rdUnique (Agent.core 6)]).dev wAddr (wM NKind.rdUnique (Agent.core 6)) (wHold FSt.em []).dev ∧ (wHold FSt.em []).dev.holders (maKey (wM NKind.rdUnique (Agent.core 6)).addr) = [(Agent.core 5, true)] ∧ wM NKind.rdUnique (Agent.core 6) = { kind := NKind.rdUnique, who := (wM NKind.rdUnique (Agent.core 6)).who, addr := (wM NKind.rdUnique (Agent.core 6)).addr }) ∧
    ((∀ (n : Fin 64), (wM NKind.rdOnce (Agent.core 6)).who ≠ Agent.node n) ∧ (wM NKind.rdOnce (Agent.core 6)).who ≠ Agent.core 5 ∧ HomeTakes (wHold FSt.em [wM NKind.rdOnce (Agent.core 6)]).dev wAddr (wM NKind.rdOnce (Agent.core 6)) (wHold FSt.em []).dev ∧ (wHold FSt.em []).dev.holders (maKey (wM NKind.rdOnce (Agent.core 6)).addr) = [(Agent.core 5, true)] ∧ wM NKind.rdOnce (Agent.core 6) = { kind := NKind.rdOnce, who := (wM NKind.rdOnce (Agent.core 6)).who, addr := (wM NKind.rdOnce (Agent.core 6)).addr }) ∧
    ((∀ (n : Fin 64), w06s8.who ≠ Agent.node n) ∧ w06s8.who ≠ Agent.core 5 ∧ HomeTakes w06s7.dev wAddr w06s8 (wHold FSt.em []).dev ∧ (wHold FSt.em []).dev.holders (maKey w06s8.addr) = [(Agent.core 5, true)] ∧ w06s8 = { kind := NKind.atomic, who := w06s8.who, addr := w06s8.addr, atom := AtomOp.amo AmoOp.add 7 true }) ∧
    ((∀ (n : Fin 64), w06s10.who ≠ Agent.node n) ∧ w06s10.who ≠ Agent.core 5 ∧ HomeTakes w06s9.dev wAddr w06s10 (wHold FSt.em []).dev ∧ (wHold FSt.em []).dev.holders (maKey w06s10.addr) = [(Agent.core 5, true)] ∧ w06s10 = { kind := NKind.wrPart, who := w06s10.who, addr := w06s10.addr, bytes := w06s10.bytes } ∧ BitVec.toNat wAddr % 64 + w06s10.bytes.length ≤ 64) ∧
    ((∀ (n : Fin 64), w06s12.who ≠ Agent.node n) ∧ w06s12.who ≠ Agent.core 5 ∧ HomeTakes w06s11.dev wAddr w06s12 (wHold FSt.em []).dev ∧ (wHold FSt.em []).dev.holders (maKey w06s12.addr) = [(Agent.core 5, true)] ∧ w06s12 = { kind := NKind.wrLine, who := w06s12.who, addr := w06s12.addr, bytes := w06s12.bytes } ∧ w06s12.bytes.length = 64 ∧ BitVec.toNat wAddr % 64 = 0) ∧
    ((∀ (n : Fin 64), (wM NKind.rdShared (Agent.core 6)).who ≠ Agent.node n) ∧ (wM NKind.rdShared (Agent.core 6)).who ≠ Agent.core 5 ∧ wM NKind.rdShared (Agent.core 6) = { kind := NKind.rdShared, who := (wM NKind.rdShared (Agent.core 6)).who, addr := (wM NKind.rdShared (Agent.core 6)).addr } ∧ (wBusy [wM NKind.rdShared (Agent.core 6)]).dev.maddr wAddr = some (wM NKind.rdShared (Agent.core 6)).addr ∧ maNode (wM NKind.rdShared (Agent.core 6)).addr = none ∧ ((wBusy [wM NKind.rdShared (Agent.core 6)]).dev.arriveMsg (wM NKind.rdShared (Agent.core 6)) fun (x : NMsg) => x.ticket == none && x.addr == (wM NKind.rdShared (Agent.core 6)).addr && x.bytes == [] && x.atom == (wM NKind.rdShared (Agent.core 6)).atom) = (wM NKind.rdShared (Agent.core 6), (wBusy []).dev) ∧ (wBusy []).dev.frameGate (wM NKind.rdShared (Agent.core 6)).addr = Gate.go (wBusy []).dev ∧ (wBusy []).dev.busyLine (maKey (wM NKind.rdShared (Agent.core 6)).addr) = true ∧ (wBusy []).dev.newTicket ((wBusy []).dev.slice (wM NKind.rdShared (Agent.core 6)).addr) = some (((wBusy []).dev.newTicket ((wBusy []).dev.slice 4096)).getD 0)) :=
  by and_intros <;> first | decide +kernel | exact eqGo (by decide +kernel)

theorem test_wit_HoldersAnswerForwards :
    ((wLn CSt.m [wFw NKind.snpShared]).dev.maddr wAddr = some 4096 ∧ (∀ (n : Fin 64), Agent.core 6 ≠ Agent.node n) ∧ tget ((wLn CSt.m [wFw NKind.snpShared]).dev.core 5).lines (maKey 4096) = some w06s13 ∧ maNode 4096 = none ∧ ((wLn CSt.m [wFw NKind.snpShared]).dev.core 5).resv = none ∧ ((wLn CSt.m [wFw NKind.snpShared]).dev.core 5).resvHold ≠ some (maKey 4096 / 2) ∧ (wLn CSt.m []).dev.fwdWaits 5 (maKey 4096) = false ∧ w06s13.st = CSt.m ∧ ((wLn CSt.m [wFw NKind.snpShared]).dev.arriveMsg { kind := NKind.snpShared, who := Agent.core 5, addr := maLine 4096 } fun (x : NMsg) => true) = ({ kind := NKind.snpShared, who := Agent.core 5, addr := maLine 4096, rq := some (Agent.core 6) }, (wLn CSt.m []).dev)) ∧
    ((wLn CSt.m [wFw NKind.snpUnique]).dev.maddr wAddr = some 4096 ∧ (∀ (n : Fin 64), Agent.core 6 ≠ Agent.node n) ∧ tget ((wLn CSt.m [wFw NKind.snpUnique]).dev.core 5).lines (maKey 4096) = some w06s13 ∧ maNode 4096 = none ∧ ((wLn CSt.m [wFw NKind.snpUnique]).dev.core 5).resv = none ∧ ((wLn CSt.m [wFw NKind.snpUnique]).dev.core 5).resvHold ≠ some (maKey 4096 / 2) ∧ (wLn CSt.m []).dev.fwdWaits 5 (maKey 4096) = false ∧ w06s13.st = CSt.m ∧ ((wLn CSt.m [wFw NKind.snpUnique]).dev.arriveMsg { kind := NKind.snpUnique, who := Agent.core 5, addr := maLine 4096 } fun (x : NMsg) => true) = ({ kind := NKind.snpUnique, who := Agent.core 5, addr := maLine 4096, rq := some (Agent.core 6) }, (wLn CSt.m []).dev)) ∧
    ((wLn CSt.m [wFw NKind.snpOnce]).dev.maddr wAddr = some 4096 ∧ (∀ (n : Fin 64), Agent.core 6 ≠ Agent.node n) ∧ tget ((wLn CSt.m [wFw NKind.snpOnce]).dev.core 5).lines (maKey 4096) = some w06s13 ∧ maNode 4096 = none ∧ ((wLn CSt.m [wFw NKind.snpOnce]).dev.core 5).resv = none ∧ ((wLn CSt.m [wFw NKind.snpOnce]).dev.core 5).resvHold ≠ some (maKey 4096 / 2) ∧ (wLn CSt.m []).dev.fwdWaits 5 (maKey 4096) = false ∧ w06s13.st = CSt.m ∧ ((wLn CSt.m [wFw NKind.snpOnce]).dev.arriveMsg { kind := NKind.snpOnce, who := Agent.core 5, addr := maLine 4096 } fun (x : NMsg) => true) = ({ kind := NKind.snpOnce, who := Agent.core 5, addr := maLine 4096, rq := some (Agent.core 6) }, (wLn CSt.m []).dev)) ∧
    ((wLn CSt.s [wFw NKind.snpInv]).dev.maddr wAddr = some 4096 ∧ (∀ (n : Fin 64), Agent.core 6 ≠ Agent.node n) ∧ tget ((wLn CSt.s [wFw NKind.snpInv]).dev.core 5).lines (maKey 4096) = some w06s14 ∧ maNode 4096 = none ∧ ((wLn CSt.s [wFw NKind.snpInv]).dev.core 5).resv = none ∧ ((wLn CSt.s [wFw NKind.snpInv]).dev.core 5).resvHold ≠ some (maKey 4096 / 2) ∧ (wLn CSt.s []).dev.fwdWaits 5 (maKey 4096) = false ∧ w06s14.st = CSt.s ∧ ((wLn CSt.s [wFw NKind.snpInv]).dev.arriveMsg { kind := NKind.snpInv, who := Agent.core 5, addr := maLine 4096 } fun (x : NMsg) => true) = ({ kind := NKind.snpInv, who := Agent.core 5, addr := maLine 4096, rq := some (Agent.core 6) }, (wLn CSt.s []).dev)) ∧
    ((wRv [wFw NKind.snpUnique]).dev.maddr wAddr = some 4096 ∧ ((wRv [wFw NKind.snpUnique]).dev.core 5).resvHold = some (maKey 4096 / 2) ∧ ((wRv [wFw NKind.snpUnique]).dev.arriveMsg { kind := NKind.snpUnique, who := Agent.core 5, addr := maLine 4096 } fun (x : NMsg) => true) = (wFw NKind.snpUnique, (wRv []).dev) ∧ (wFw NKind.snpUnique).addr = maLine 4096) ∧
    (w06s15.dev.maddr wFar = some (remoteAddr 7 4096) ∧ maNode (remoteAddr 7 4096) = some 7 ∧ (w06s15.dev.proxyLine (maKey (remoteAddr 7 4096))).hold = false ∧ w06s15.dev.busyLine (maKey (remoteAddr 7 4096)) = false ∧ w06s15.dev.holders (maKey (remoteAddr 7 4096)) = [] ∧ NoneHeld w06s15.dev ∧ (w06s15.dev.arriveMsg { kind := NKind.snpBack, who := Agent.proxy, addr := maLine (remoteAddr 7 4096) } fun (x : NMsg) => true) = ({ kind := NKind.snpBack, who := Agent.proxy, addr := maLine (remoteAddr 7 4096) }, (wJ []).dev)) :=
  by and_intros <;> first | decide +kernel | exact ⟨by decide +kernel, by decide +kernel, by decide +kernel⟩

theorem test_wit_AnswersReachTheirAgents :
    ((wTx wT1 [wAk]).dev.maddr wAddr = some 4096 ∧ maNode 4096 = none ∧ (5 : Fin (64 : Nat)) ≠ (6 : Fin (64 : Nat)) ∧ NoneHeld (wTx wT1 [wAk]).dev ∧ (wM NKind.rdShared (Agent.core 6)).kind = NKind.rdShared ∧ (wM NKind.rdShared (Agent.core 6)).who = Agent.core 6 ∧ (wM NKind.rdShared (Agent.core 6)).addr = maLine 4096 ∧ tget (wTx wT1 [wAk]).dev.coh.txns (maKey 4096) = some { req := wM NKind.rdShared (Agent.core 6), waits := [Agent.core 5] } ∧ (wTx wT1 [wAk]).dev.coreHolders (maKey 4096) = [(5, FSt.em)] ∧ ((wTx wT1 [wAk]).dev.arriveMsg { kind := NKind.snpAck, who := Agent.core 5, addr := maLine 4096, dirty := true } fun (x : NMsg) => true) = ({ kind := NKind.snpAck, who := Agent.core 5, addr := maLine 4096, dirty := true, supplied := true }, (wTx wT1 []).dev)) ∧
    ((wTx wT2 [wM NKind.compAck (Agent.core 6)]).dev.maddr wAddr = some 4096 ∧ maNode 4096 = none ∧ NoneHeld (wTx wT2 [wM NKind.compAck (Agent.core 6)]).dev ∧ tget (wTx wT2 [wM NKind.compAck (Agent.core 6)]).dev.coh.txns (maKey 4096) = some wT2 ∧ wT2.ack = true ∧ wT2.wb = false ∧ wT2.req.who = Agent.core 6 ∧ ((wTx wT2 [wM NKind.compAck (Agent.core 6)]).dev.arriveMsg { kind := NKind.compAck, who := Agent.core 6, addr := maLine 4096 } fun (x : NMsg) => true) = ({ kind := NKind.compAck, who := Agent.core 6, addr := maLine 4096 }, (wTx wT2 []).dev)) ∧
    ((wDl06 [wDt]).dev.maddr wAddr = some 4096 ∧ maNode 4096 = none ∧ 4104 / 64 = maKey 4096 ∧ 4104 % 64 + 2 ^ 3 ≤ 64 ∧ wDt.bytes.length = 64 ∧ (∀ x ∈ (wDl06 [wDt]).dev.writes, x.src ≠ Agent.core 5) ∧ tget ((wDl06 [wDt]).dev.core 5).lines (maKey 4096) = some { st := CSt.isD, acc := [CAcc.load 4104 3 true false 1] } ∧ ((wDl06 [wDt]).dev.core 5).accs = [CAcc.load 4104 3 true false 1] ∧ ((wDl06 [wDt]).dev.core 5).loads = [{ seq := 1, rd := 7 }] ∧ ((wDl06 [wDt]).dev.core 5).onces = [] ∧ ((wDl06 [wDt]).dev.arriveMsg { kind := NKind.data, who := Agent.core 5, addr := maLine 4096, bytes := wDt.bytes, st := Moesi.e } fun (x : NMsg) => true) = ({ kind := NKind.data, who := Agent.core 5, addr := maLine 4096, bytes := wDt.bytes, st := Moesi.e }, (wDl06 []).dev)) ∧
    ((wDs wLs [wGr]).dev.maddr wAddr = some 4096 ∧ maNode 4096 = none ∧ NKind.rdUnique ≠ NKind.wrPart ∧ NKind.rdUnique ≠ NKind.wrLine ∧ 4100 / 64 = maKey 4096 ∧ (4100 : Nat) % (64 : Nat) + [(1 : Byte), (2 : Byte)].length ≤ (64 : Nat) ∧ [(1 : Byte), (2 : Byte)] ≠ [] ∧ (List.replicate (64 : Nat) (9 : Byte)).length = (64 : Nat) ∧ tget ((wDs wLs [wGr]).dev.core 5).lines (maKey 4096) = some { st := CSt.smD, data := List.replicate 64 9, acc := [CAcc.store 4100 [1, 2]] } ∧ ((wDs wLs [wGr]).dev.core 5).waitAcc = [] ∧ ((wDs wLs [wGr]).dev.arriveMsg { kind := NKind.comp, who := Agent.core 5, addr := 4096, body := CompBody.grant Moesi.e } fun (x : NMsg) => x.body == CompBody.grant Moesi.e) = ({ kind := NKind.comp, who := Agent.core 5, addr := 4096, body := CompBody.grant Moesi.e, was := NKind.rdUnique }, (wDs wLs []).dev)) ∧
    ((wEr [wOl]).dev.maddr wAddr = some 4096 ∧ maNode 4096 = none ∧ ((wEr [wOl]).dev.eng 3).run = EngRun.reply 7 0 false ∧ ((wEr [wOl]).dev.arriveMsg { kind := NKind.comp, who := Agent.engine 3, addr := 4096, body := CompBody.old 77 false } fun (y : NMsg) => y.body == CompBody.old 77 false) = ({ kind := NKind.comp, who := Agent.engine 3, addr := 4096, body := CompBody.old 77 false, was := wOl.was }, (wEr []).dev)) ∧
    ((wNc [wRt]).dev.maddr wAddr = some 4096 ∧ maNode 4096 = none ∧ wRt.who = Agent.core 5 ∧ wRt.kind = NKind.retry ∧ wRt.was = NKind.rdUnique ∧ ((wNc [wRt]).dev.arriveMsg { kind := NKind.retry, who := Agent.core 5, addr := 4096, ticket := some 3 } fun (x : NMsg) => x.ticket == some 3) = (wRt, w0)) ∧
    ((wRa [wM NKind.redAck (Agent.tongs 3 1)]).dev.maddr wAddr = some 4096 ∧ maNode 4096 = none ∧ NoRelease (wRa [wM NKind.redAck (Agent.tongs 3 1)]).dev ∧ (wRa [wM NKind.redAck (Agent.tongs 3 1)]).dev.writes = [wOw] ∧ wOw.src = Agent.tongs 3 1 ∧ wOw.held = false ∧ wOw.done = true ∧ wOw.red.isSome = true ∧ wOw.addr / 64 = ownAddr 4096 / 64 ∧ ((wRa [wM NKind.redAck (Agent.tongs 3 1)]).dev.arriveMsg { kind := NKind.redAck, who := Agent.tongs 3 1, addr := 4096 } fun (x : NMsg) => true) = ({ kind := NKind.redAck, who := Agent.tongs 3 1, addr := 4096 }, (wRa []).dev)) :=
  by and_intros <;> first | decide +kernel | exact ⟨by decide +kernel, by decide +kernel, by decide +kernel⟩ | exact noReleaseOf (by decide +kernel)

theorem test_wit_WriteBacksReachMemoryAndHoldsExpire :
    ((wHold FSt.em [wWb]).dev.maddr wAddr = some 4096 ∧ maNode 4096 = none ∧ NoneHeld (wHold FSt.em [wWb]).dev ∧ (wHold FSt.em []).dev.frameGate (maLine 4096) = Gate.go (wHold FSt.em []).dev ∧ tget (wHold FSt.em [wWb]).dev.coh.txns (maKey 4096) = none ∧ (5, FSt.em) ∈ (wHold FSt.em [wWb]).dev.coreHolders (maKey 4096) ∧ wWb.who = Agent.core 5 ∧ wWb.addr = maLine 4096 ∧ wWb.kind = NKind.wbDirty ∧ wWb ∈ (wHold FSt.em [wWb]).dev.coh.noc ∧ wWb.bytes.length = 64 ∧ ((wHold FSt.em [wWb]).dev.arriveMsg { kind := NKind.wbDirty, who := Agent.core 5, addr := maLine 4096, bytes := List.replicate 64 4 } fun (x : NMsg) => true) = (wWb, (wHold FSt.em []).dev)) ∧
    ((wHold FSt.em [wM NKind.evict (Agent.core 5)]).dev.maddr wAddr = some 4096 ∧ maNode 4096 = none ∧ NoneHeld (wHold FSt.em [wM NKind.evict (Agent.core 5)]).dev ∧ (wHold FSt.em []).dev.frameGate (maLine 4096) = Gate.go (wHold FSt.em []).dev ∧ tget (wHold FSt.em [wM NKind.evict (Agent.core 5)]).dev.coh.txns (maKey 4096) = none ∧ (5, FSt.em) ∈ (wHold FSt.em [wM NKind.evict (Agent.core 5)]).dev.coreHolders (maKey 4096) ∧ (wM NKind.evict (Agent.core 5)).who = Agent.core 5 ∧ (wM NKind.evict (Agent.core 5)).addr = maLine 4096 ∧ (wM NKind.evict (Agent.core 5)).kind = NKind.evict ∧ wM NKind.evict (Agent.core 5) ∈ (wHold FSt.em [wM NKind.evict (Agent.core 5)]).dev.coh.noc ∧ ((wHold FSt.em [wM NKind.evict (Agent.core 5)]).dev.arriveMsg { kind := NKind.evict, who := Agent.core 5, addr := maLine 4096 } fun (x : NMsg) => true) = (wM NKind.evict (Agent.core 5), (wHold FSt.em []).dev)) ∧
    ((wNc [wRd RedOp.add RType.fp32]).dev.maddr wAddr = some 4096 ∧ maNode 4096 = none ∧ NoneHeld (wNc [wRd RedOp.add RType.fp32]).dev ∧ w0.frameGate (maLine 4096) = Gate.go w0 ∧ tget (wNc [wRd RedOp.add RType.fp32]).dev.coh.txns (maKey 4096) = none ∧ (leBytes 4 5).length = redWidth RType.fp32 ∧ 4096 % 64 + (leBytes 4 5).length ≤ 64 ∧ (wNc [wRd RedOp.add RType.fp32]).dev.holders (maKey 4096) = [] ∧ w0.frameGate 4096 = Gate.go w0 ∧ ((wNc [wRd RedOp.add RType.fp32]).dev.arriveMsg (redMsg (Agent.tongs 3 1) 4096 (leBytes 4 5) (RedOp.add, RType.fp32)) fun (x : NMsg) => x.red == RedOp.add && x.ty == RType.fp32 && x.bytes == leBytes 4 5 && x.addr == 4096) = (redMsg (Agent.tongs 3 1) 4096 (leBytes 4 5) (RedOp.add, RType.fp32), w0) ∧ RedOp.add = RedOp.add) ∧
    ((wNc [wRd RedOp.min RType.uint64]).dev.maddr wAddr = some 4096 ∧ maNode 4096 = none ∧ NoneHeld (wNc [wRd RedOp.min RType.uint64]).dev ∧ w0.frameGate (maLine 4096) = Gate.go w0 ∧ tget (wNc [wRd RedOp.min RType.uint64]).dev.coh.txns (maKey 4096) = none ∧ (leBytes 8 5).length = redWidth RType.uint64 ∧ 4096 % 64 + (leBytes 8 5).length ≤ 64 ∧ (wNc [wRd RedOp.min RType.uint64]).dev.holders (maKey 4096) = [] ∧ w0.frameGate 4096 = Gate.go w0 ∧ ((wNc [wRd RedOp.min RType.uint64]).dev.arriveMsg (redMsg (Agent.tongs 3 1) 4096 (leBytes 8 5) (RedOp.min, RType.uint64)) fun (x : NMsg) => x.red == RedOp.min && x.ty == RType.uint64 && x.bytes == leBytes 8 5 && x.addr == 4096) = (redMsg (Agent.tongs 3 1) 4096 (leBytes 8 5) (RedOp.min, RType.uint64), w0) ∧ RedOp.min = RedOp.min ∧ (RType.uint64 = RType.uint32 ∨ RType.uint64 = RType.uint64)) ∧
    ((wNc [wRd RedOp.max RType.uint32]).dev.maddr wAddr = some 4096 ∧ maNode 4096 = none ∧ NoneHeld (wNc [wRd RedOp.max RType.uint32]).dev ∧ w0.frameGate (maLine 4096) = Gate.go w0 ∧ tget (wNc [wRd RedOp.max RType.uint32]).dev.coh.txns (maKey 4096) = none ∧ (leBytes 4 5).length = redWidth RType.uint32 ∧ 4096 % 64 + (leBytes 4 5).length ≤ 64 ∧ (wNc [wRd RedOp.max RType.uint32]).dev.holders (maKey 4096) = [] ∧ w0.frameGate 4096 = Gate.go w0 ∧ ((wNc [wRd RedOp.max RType.uint32]).dev.arriveMsg (redMsg (Agent.tongs 3 1) 4096 (leBytes 4 5) (RedOp.max, RType.uint32)) fun (x : NMsg) => x.red == RedOp.max && x.ty == RType.uint32 && x.bytes == leBytes 4 5 && x.addr == 4096) = (redMsg (Agent.tongs 3 1) 4096 (leBytes 4 5) (RedOp.max, RType.uint32), w0) ∧ RedOp.max = RedOp.max ∧ (RType.uint32 = RType.uint32 ∨ RType.uint32 = RType.uint64)) ∧
    (NoRelease w06s16.dev ∧ w06s16.dev.host.reads = [] ∧ w06s16.dev.writes = [wHw] ∧ wHw.held = true ∧ wHw.what = WOp.mem ∧ wHw.red = none ∧ (w06s16.dev.rennetOut wHw.src fun (x : Nat) => true) = false ∧ (w06s16.dev.lineStores wHw.src fun (x : Nat) => x == 255) = false ∧ w06s16.dev.target true wHw.addr = Target.umr 4096) ∧
    (NoneHeld wTk.dev) ∧
    (NoneHeld (wJ []).dev ∧ (wJ []).dev.maddr wFar = some (remoteAddr 7 4096)) :=
  by and_intros <;> first | decide +kernel | exact ⟨by decide +kernel, by decide +kernel, by decide +kernel⟩ | exact eqGo (by decide +kernel) | exact noReleaseOf (by decide +kernel)

theorem test_wit_CoresLoadAndStore :
    (w07s1.dev.coreMay 5 CKind.load = true ∧ w07s1.dev.coreTo wUm = CoreTo.umr 4112 ∧ maNode 4112 = none ∧ 4112 % 64 + 2 ^ 3 ≤ 64 ∧ tget (w07s1.dev.core 5).lines (4112 / 64) = some (wCl CSt.s) ∧ stable (wCl CSt.s).st = true ∧ (wCl CSt.s).poison = false ∧ (w07s1.dev.core 5).loads = []) ∧
    (w07s2.dev.coreMay 5 CKind.load = true ∧ w07s2.dev.coreTo wUm = CoreTo.umr 4112 ∧ maNode 4112 = none ∧ 4112 % 64 + 2 ^ 3 ≤ 64 ∧ tget (w07s2.dev.core 5).lines (4112 / 64) = none ∧ (List.filter (fun (p : Nat × CLine) => p.1 % 2048 == 4112 / 64 % 2048 && !leaving p.2.st) (w07s2.dev.core 5).lines).length < 16) ∧
    (w07s3.dev.coreMay 5 CKind.store = true ∧ ([(1 : Byte), (2 : Byte), (3 : Byte), (4 : Byte)].length = (1 : Nat) ∨ [(1 : Byte), (2 : Byte), (3 : Byte), (4 : Byte)].length = (2 : Nat) ∨ [(1 : Byte), (2 : Byte), (3 : Byte), (4 : Byte)].length = (4 : Nat) ∨ [(1 : Byte), (2 : Byte), (3 : Byte), (4 : Byte)].length = (8 : Nat)) ∧ w07s3.dev.coreTo wUm = CoreTo.umr 4112 ∧ maNode 4112 = none ∧ (4112 : Nat) % (64 : Nat) + [(1 : Byte), (2 : Byte), (3 : Byte), (4 : Byte)].length ≤ (64 : Nat) ∧ w07s3.dev.coreBehind 5 wUm = false ∧ w07s3.dev.bufFull 5 (CAcc.store 4112 [1, 2, 3, 4]) = false ∧ tget (w07s3.dev.core 5).lines (4112 / 64) = some (wCl CSt.e) ∧ ((wCl CSt.e).st = CSt.m ∨ (wCl CSt.e).st = CSt.e) ∧ (wCl CSt.e).data.length = 64) ∧
    (w07s2.dev.coreMay 5 CKind.store = true ∧ ([(1 : Byte), (2 : Byte), (3 : Byte), (4 : Byte)].length = (1 : Nat) ∨ [(1 : Byte), (2 : Byte), (3 : Byte), (4 : Byte)].length = (2 : Nat) ∨ [(1 : Byte), (2 : Byte), (3 : Byte), (4 : Byte)].length = (4 : Nat) ∨ [(1 : Byte), (2 : Byte), (3 : Byte), (4 : Byte)].length = (8 : Nat)) ∧ w07s2.dev.coreTo wUm = CoreTo.umr 4112 ∧ maNode 4112 = none ∧ (4112 : Nat) % (64 : Nat) + [(1 : Byte), (2 : Byte), (3 : Byte), (4 : Byte)].length ≤ (64 : Nat) ∧ w07s2.dev.coreBehind 5 wUm = false ∧ w07s2.dev.bufFull 5 (CAcc.store 4112 [1, 2, 3, 4]) = false ∧ tget (w07s2.dev.core 5).lines (4112 / 64) = none ∧ (List.filter (fun (p : Nat × CLine) => p.1 % 2048 == 4112 / 64 % 2048 && !leaving p.2.st) (w07s2.dev.core 5).lines).length < 16) ∧
    (w07s4.dev.coreTo wVaw = CoreTo.vat 64 ∧ (w07s4.dev.core 5).domEn = true ∧ w07s4.dev.coreMay 5 CKind.load = true ∧ BitVec.toNat wVaw % 2 ^ 3 = 0 ∧ w07s4.dev.vatOpen (w07s4.dev.core 5).ctx 64 (2 ^ 3) = true ∧ w07s4.dev.anvil.ops = [] ∧ (w07s4.dev.core 5).loads = []) ∧
    (w07s4.dev.coreTo wVaw = CoreTo.vat 64 ∧ (w07s4.dev.core 5).domEn = true ∧ w07s4.dev.coreMay 5 CKind.store = true ∧ ([(1 : Byte), (2 : Byte), (3 : Byte), (4 : Byte), (5 : Byte), (6 : Byte), (7 : Byte), (8 : Byte)].length = (1 : Nat) ∨ [(1 : Byte), (2 : Byte), (3 : Byte), (4 : Byte), (5 : Byte), (6 : Byte), (7 : Byte), (8 : Byte)].length = (2 : Nat) ∨ [(1 : Byte), (2 : Byte), (3 : Byte), (4 : Byte), (5 : Byte), (6 : Byte), (7 : Byte), (8 : Byte)].length = (4 : Nat) ∨ [(1 : Byte), (2 : Byte), (3 : Byte), (4 : Byte), (5 : Byte), (6 : Byte), (7 : Byte), (8 : Byte)].length = (8 : Nat)) ∧ BitVec.toNat wVaw % [(1 : Byte), (2 : Byte), (3 : Byte), (4 : Byte), (5 : Byte), (6 : Byte), (7 : Byte), (8 : Byte)].length = (0 : Nat) ∧ w07s4.dev.vatOpen (w07s4.dev.core (5 : Fin (64 : Nat))).ctx (64 : Nat) [(1 : Byte), (2 : Byte), (3 : Byte), (4 : Byte), (5 : Byte), (6 : Byte), (7 : Byte), (8 : Byte)].length = true ∧ w07s4.dev.coreBehind 5 wVaw = false) ∧
    (w07s5.dev.coreTo 72056494526300160 = CoreTo.fault ∧ w07s5.dev.coreMay 5 CKind.store = true ∧ (List.replicate (8 : Nat) (0 : Byte)).length = (8 : Nat) ∧ (¬((w07s5.dev.core 5).priv ≠ Priv.m ∧ bit ((w07s5.dev.core 5).csrOf 770) 7 = true))) :=
  by and_intros <;> decide +kernel

theorem test_wit_CoresUseAtomicsAndFences :
    (w07s5.dev.coreTo wUm = CoreTo.umr 4112 ∧ maNode 4112 = none ∧ (BitVec.toNat wUm % if true = true then 8 else 4) = 0 ∧ (4112 % 64 + if true = true then 8 else 4) ≤ 64 ∧ w07s5.dev.coreStoresOut 5 = false ∧ w07s5.dev.coreLoadsOut 5 = false ∧ w07s5.dev.coreMay 5 CKind.both = true) ∧
    (w07s6.dev.coreTo wUm = CoreTo.umr 4112 ∧ maNode 4112 = none ∧ (BitVec.toNat wUm % if true = true then 8 else 4) = 0 ∧ (4112 % 64 + if true = true then 8 else 4) ≤ 64 ∧ w07s6.dev.coreStoresOut 5 = false ∧ w07s6.dev.coreLoadsOut 5 = false ∧ w07s6.dev.coreMay 5 CKind.load = true ∧ (w07s6.dev.core 5).lineReady true (4112 / 128 * 2) = true ∧ (w07s6.dev.core 5).lineReady true (4112 / 128 * 2 + 1) = true ∧ (w07s6.dev.core 5).poisonAt 4112 (if true = true then 8 else 4) = false) ∧
    (w07s7.dev.coreTo wUm = CoreTo.umr 4112 ∧ maNode 4112 = none ∧ (BitVec.toNat wUm % if true = true then 8 else 4) = 0 ∧ (4112 % 64 + if true = true then 8 else 4) ≤ 64 ∧ w07s7.dev.coreStoresOut 5 = false ∧ w07s7.dev.coreLoadsOut 5 = false ∧ w07s7.dev.coreMay 5 CKind.store = true ∧ (w07s7.dev.core 5).resv = some (4112 / 128) ∧ tget (w07s7.dev.core 5).lines (4112 / 64) = some (wCl CSt.e) ∧ ((wCl CSt.e).st = CSt.m ∨ (wCl CSt.e).st = CSt.e) ∧ (wCl CSt.e).data.length = 64) ∧
    (w07s3.dev.coreTo wUm = CoreTo.umr 4112 ∧ maNode 4112 = none ∧ (BitVec.toNat wUm % if true = true then 8 else 4) = 0 ∧ (4112 % 64 + if true = true then 8 else 4) ≤ 64 ∧ w07s3.dev.coreStoresOut 5 = false ∧ w07s3.dev.coreLoadsOut 5 = false ∧ w07s3.dev.coreMay 5 CKind.store = true ∧ (w07s3.dev.core 5).resv ≠ some (4112 / 128)) ∧
    (w07s3.dev.coreTo wUm = CoreTo.umr 4112 ∧ maNode 4112 = none ∧ (BitVec.toNat wUm % if true = true then 8 else 4) = 0 ∧ (4112 % 64 + if true = true then 8 else 4) ≤ 64 ∧ w07s3.dev.coreStoresOut 5 = false ∧ w07s3.dev.coreLoadsOut 5 = false ∧ w07s3.dev.coreMay 5 CKind.store = true ∧ tget (w07s3.dev.core 5).lines (4112 / 64) = some (wCl CSt.e) ∧ ((wCl CSt.e).st = CSt.m ∨ (wCl CSt.e).st = CSt.e)) ∧
    (w07s3.dev.coreTo wUm = CoreTo.umr 4112 ∧ maNode 4112 = none ∧ (BitVec.toNat wUm % if true = true then 8 else 4) = 0 ∧ (4112 % 64 + if true = true then 8 else 4) ≤ 64 ∧ w07s3.dev.coreStoresOut 5 = false ∧ w07s3.dev.coreLoadsOut 5 = false ∧ (w07s3.dev.core 5).run ≠ HartRun.reset ∧ (w07s3.dev.core 5).halted = false) ∧
    (w07s3.dev.coreTo wUm = CoreTo.umr 4112 ∧ maNode 4112 = none ∧ (BitVec.toNat wUm % if true = true then 8 else 4) = 0 ∧ (4112 % 64 + if true = true then 8 else 4) ≤ 64 ∧ w07s3.dev.coreStoresOut 5 = false ∧ w07s3.dev.coreLoadsOut 5 = false ∧ w07s3.dev.coreMay 5 CKind.load = true) :=
  by and_intros <;> decide +kernel

theorem test_wit_CoresTrapAndKeepTheirDomain :
    (w07s8.dev.coreMay 5 CKind.load = true ∧ w07s8.dev.coreLoadsOut 5 = false ∧ ((w07s8.dev.core 5).priv = Priv.m ∨ (w07s8.dev.core 5).priv = Priv.hs)) ∧
    ((w07s9.dev.core 5).run ≠ HartRun.reset ∧ (w07s9.dev.core 5).halted = false ∧ (w07s9.dev.core 5).amoRd = none) ∧
    ((w07s10.dev.core 5).run ≠ HartRun.reset ∧ (w07s10.dev.core 5).halted = false ∧ (w07s10.dev.core 5).amoRd = none) ∧
    ((w07s11.dev.core 5).run ≠ HartRun.reset ∧ (w07s11.dev.core 5).halted = false ∧ (w07s11.dev.core 5).amoRd = none) ∧
    ((w07s5.dev.core 5).run ≠ HartRun.reset ∧ (¬((w07s5.dev.core 5).priv ≠ Priv.m ∧ bit ((w07s5.dev.core 5).csrOf 770) 7 = true))) ∧
    (BitVec.toNat (w07s12.dev.core 5).mtimecmp ≤ BitVec.toNat (w07s12.dev.halfCount (halfOf (decide (32 ≤ 5))))) :=
  by and_intros <;> decide +kernel

theorem test_wit_TranslationServesWalks :
    (List.find? (fun (w : Walk) => Walk.ctx w == (3 : Nat) && Walk.page w == BitVec.toNat (VaIn.va { va := (20496 : Word) }) / (4096 : Nat)) (List.take (32 : Nat) (Xlate.walks (Two.get (Dev.xlate (State.dev (wTr Access.read))) Half.west))) = some wWk ∧ wWk.users = [{ user := XUser.engine 3, acc := Access.read, va := 20488 }] ∧ Dev.walk (State.dev (wTr Access.read)) Half.west (3 : Nat) ((4096 : Nat) * Walk.page wWk) (VaIn.ext { va := (20496 : Word) }) = (WalkRes.leaf (4 : Nat) ((255 : Nat) * (2 : Nat) ^ (46 : Nat) + (223 : Nat)), []) ∧ ((wTr Access.read).dev.eng 3).run = EngRun.walking ∧ leafCheck Access.read (255 * 2 ^ 46 + 223) = none) ∧
    (List.find? (fun (w : Walk) => Walk.ctx w == (3 : Nat) && Walk.page w == BitVec.toNat (VaIn.va { va := (20496 : Word) }) / (4096 : Nat)) (List.take (32 : Nat) (Xlate.walks (Two.get (Dev.xlate (State.dev w07s13)) Half.west))) = some wWk ∧ wWk.users = [{ user := XUser.engine 3, acc := Access.read, va := 20488 }] ∧ Dev.walk (State.dev w07s13) Half.west (3 : Nat) ((4096 : Nat) * Walk.page wWk) (VaIn.ext { va := (20496 : Word) }) = (WalkRes.leaf (4 : Nat) ((255 : Nat) * (2 : Nat) ^ (46 : Nat) + (31 : Nat)), []) ∧ (w07s13.dev.eng 3).run = EngRun.walking ∧ leafCheck Access.read (255 * 2 ^ 46 + 31) = some 2 ∧ (∀ q ∈ (Two.get w07s13.dev.xlate Half.west).recs, ¬(q.2.ctx = 3 ∧ BitVec.toNat q.2.va / 4096 = 20488 / 4096)) ∧ w07s13.dev.endedUser (XUser.engine 3) = false ∧ freeSlot (Two.get w07s13.dev.xlate Half.west) = some 0) ∧
    ((Dev.prefetches (State.dev wC) Half.east (9 : Nat) (BitVec.toNat (VaIn.va { va := (20496 : Word) }) / (4096 : Nat)) (31 : Fin (32 : Nat)) = false ∨ Dev.walkerFree (State.dev wC) Half.east = false)) ∧
    (Dev.prefetches (State.dev wPr) Half.west (3 : Nat) (BitVec.toNat (VaIn.va { va := (16400 : Word) }) / (4096 : Nat)) (0 : Fin (32 : Nat)) = true ∧ wPr.dev.walkerFree Half.west = true ∧ Dev.walk (State.dev wPr) Half.west (3 : Nat) (BitVec.toNat (VaIn.va { va := (16400 : Word) })) = (WalkRes.leaf (4 : Nat) ((255 : Nat) * (2 : Nat) ^ (46 : Nat) + (223 : Nat)), []) ∧ (∀ q ∈ wPr.dev.tongs, ∀ x ∈ q.2, x.desc.indexed = false ∨ x.desc.isp = true)) ∧
    (Dev.walk (State.dev wC) Half.east (9 : Nat) (BitVec.toNat (VaIn.va { va := (20496 : Word) })) = (WalkRes.fault (5 : Nat) (4 : Nat), [])) ∧
    (wFqs.dev.ctx? 3 = some wFqC ∧ wFqC.fq = some wFq ∧ firstRec (wFqs.dev.ctxRecs 3) = some (0, wFr) ∧ (List.filter (fun (p : Nat × FRec) => p.2.written) (wFqs.dev.ctxRecs 3)).length < 2 ^ wFq.log2 ∧ wFqs.dev.target true (BitVec.toNat (wFq.addr + BitVec.ofNat 64 (32 * (wFq.posted % 2 ^ wFq.log2)))) = Target.host 24576) ∧
    (w07s14.dev.ctx? 3 = some w07s15 ∧ w07s15.ats = true) :=
  by and_intros <;> decide +kernel

theorem test_wit_FramesMoveAndTheCaveRetires :
    (NoneHeld (wTi [(1, wFd0)] []).dev) ∧
    (NoneHeld wCh.dev ∧ wCh.dev.wanted 1 = some Back.hbm ∧ (wCh.dev.frame 1).back ≠ Back.unbacked ∧ (wCh.dev.frame 1).back ≠ Back.hbm ∧ tget wCh.dev.tiers.moves 1 = none ∧ wCh.dev.mayMove 1 Back.hbm = true ∧ (Back.hbm = Back.cave → wCh.dev.stageRoom = true)) ∧
    (NoneHeld w08s1.dev ∧ tget w08s1.dev.tiers.moves 1 = some w08s2 ∧ w08s2.fill = false ∧ w08s2.blocked = false ∧ (w08s2.dst = Back.cave → w08s1.dev.regionOn 1 = false) ∧ popCount w08s2.mask.toNat 32 ≤ 8) ∧
    (NoneHeld w08s3.dev ∧ tget w08s3.dev.tiers.moves 1 = some w08s4 ∧ w08s4.fill = false ∧ w08s4.blocked = false ∧ (w08s4.dst = Back.cave → w08s3.dev.regionOn 1 = false) ∧ 8 < popCount w08s4.mask.toNat 32 ∧ w08s4.pass < 5) ∧
    (NoneHeld w08s5.dev ∧ tget w08s5.dev.tiers.moves 1 = some w08s6 ∧ w08s6.fill = false ∧ w08s6.blocked = true ∧ (w08s6.dst = Back.cave → w08s5.dev.regionOn 1 = false) ∧ tget w08s5.dev.tiers.frames 1 = some wFd0) ∧
    (NoneHeld w08s7.dev ∧ tget w08s7.dev.tiers.moves 1 = some w08s8 ∧ w08s8.fill = false ∧ w08s8.blocked = true ∧ (w08s8.dst = Back.cave → w08s7.dev.regionOn 1 = false) ∧ tget w08s7.dev.tiers.frames 1 = some w08s9) ∧
    (NoneHeld w08s10.dev ∧ tget w08s10.dev.tiers.moves 1 = some w08s11 ∧ w08s11.fill = true ∧ tget w08s10.dev.tiers.frames 1 = some w08s12) ∧
    ((wUr.dev.cave.st = CaveSt.absent ∨ wUr.dev.awake 53 = true ∧ wUr.dev.awake 54 = true) ∧ tget wUr.dev.tiers.moves 1 = some w08s13 ∧ w08s13.fill = true ∧ wUr.dev.cave.pageOf (512 * (wUr.dev.frame 1).loc + 5) = some 2 ∧ (1, 5 / 16) ∉ wUr.dev.cave.staged ∧ (1, 5) ∉ wUr.dev.cave.badUnits) ∧
    (((wSt0 wCb).dev.cave.st = CaveSt.absent ∨ (wSt0 wCb).dev.awake 53 = true ∧ (wSt0 wCb).dev.awake 54 = true) ∧ (wSt0 wCb).dev.cave.staged = [(1, 2), (1, 3)] ∧ (wSt0 wCb).dev.unitOf (1, 2) = some 2 ∧ (wSt0 wCb).dev.cave.key = some 5) ∧
    (((wSt0 wCb).dev.cave.st = CaveSt.absent ∨ (wSt0 wCb).dev.awake 53 = true ∧ (wSt0 wCb).dev.awake 54 = true) ∧ (wSt0 wCb).dev.cave.staged = [(1, 2), (1, 3)] ∧ (wSt0 wCb).dev.unitOf (1, 2) = some 2 ∧ (wSt0 wCb).dev.cave.key = some 5 ∧ Cave.writeUnit (if true = true then { st := Cave.st (Dev.cave (Dev.trimCave (State.dev (wSt0 wCb)))), op := Cave.op (Dev.cave (Dev.trimCave (State.dev (wSt0 wCb)))), pop := Cave.pop (Dev.cave (Dev.trimCave (State.dev (wSt0 wCb)))), factory := Cave.factory (Dev.cave (Dev.trimCave (State.dev (wSt0 wCb)))), blks := Cave.blks (Dev.cave (Dev.trimCave (State.dev (wSt0 wCb)))), deadDies := Cave.deadDies (Dev.cave (Dev.trimCave (State.dev (wSt0 wCb)))), spare := Cave.spare (Dev.cave (Dev.trimCave (State.dev (wSt0 wCb)))), rebuilt := Cave.rebuilt (Dev.cave (Dev.trimCave (State.dev (wSt0 wCb)))), lost := Cave.lost (Dev.cave (Dev.trimCave (State.dev (wSt0 wCb)))), rdReloc := Cave.rdReloc (Dev.cave (Dev.trimCave (State.dev (wSt0 wCb)))), staged := [((1 : Nat), (3 : Nat))], badUnits := Cave.badUnits (Dev.cave (Dev.trimCave (State.dev (wSt0 wCb)))), key := Cave.key (Dev.cave (Dev.trimCave (State.dev (wSt0 wCb)))), map := Cave.map (Dev.cave (Dev.trimCave (State.dev (wSt0 wCb)))), cws := Cave.cws (Dev.cave (Dev.trimCave (State.dev (wSt0 wCb)))), stripes := Cave.stripes (Dev.cave (Dev.trimCave (State.dev (wSt0 wCb)))), open_ := Cave.open_ (Dev.cave (Dev.trimCave (State.dev (wSt0 wCb)))), points := Cave.points (Dev.cave (Dev.trimCave (State.dev (wSt0 wCb)))), moving := tdel (Cave.moving (Dev.cave (Dev.trimCave (State.dev (wSt0 wCb))))) (2 : Nat) } else Cave.failNext { st := Cave.st (Dev.cave (Dev.trimCave (State.dev (wSt0 wCb)))), op := Cave.op (Dev.cave (Dev.trimCave (State.dev (wSt0 wCb)))), pop := Cave.pop (Dev.cave (Dev.trimCave (State.dev (wSt0 wCb)))), factory := Cave.factory (Dev.cave (Dev.trimCave (State.dev (wSt0 wCb)))), blks := Cave.blks (Dev.cave (Dev.trimCave (State.dev (wSt0 wCb)))), deadDies := Cave.deadDies (Dev.cave (Dev.trimCave (State.dev (wSt0 wCb)))), spare := Cave.spare (Dev.cave (Dev.trimCave (State.dev (wSt0 wCb)))), rebuilt := Cave.rebuilt (Dev.cave (Dev.trimCave (State.dev (wSt0 wCb)))), lost := Cave.lost (Dev.cave (Dev.trimCave (State.dev (wSt0 wCb)))), rdReloc := Cave.rdReloc (Dev.cave (Dev.trimCave (State.dev (wSt0 wCb)))), staged := [((1 : Nat), (3 : Nat))], badUnits := Cave.badUnits (Dev.cave (Dev.trimCave (State.dev (wSt0 wCb)))), key := Cave.key (Dev.cave (Dev.trimCave (State.dev (wSt0 wCb)))), map := Cave.map (Dev.cave (Dev.trimCave (State.dev (wSt0 wCb)))), cws := Cave.cws (Dev.cave (Dev.trimCave (State.dev (wSt0 wCb)))), stripes := Cave.stripes (Dev.cave (Dev.trimCave (State.dev (wSt0 wCb)))), open_ := Cave.open_ (Dev.cave (Dev.trimCave (State.dev (wSt0 wCb)))), points := Cave.points (Dev.cave (Dev.trimCave (State.dev (wSt0 wCb)))), moving := tdel (Cave.moving (Dev.cave (Dev.trimCave (State.dev (wSt0 wCb))))) (2 : Nat) }) (2 : Nat) (Dev.stagedSlots (State.dev (wSt0 wCb)) (5 : BitVec (512 : Nat)) ((1 : Nat), (2 : Nat)) (2 : Nat)) = some (wCs true)) ∧
    (((wSt0 wCb).dev.cave.st = CaveSt.absent ∨ (wSt0 wCb).dev.awake 53 = true ∧ (wSt0 wCb).dev.awake 54 = true) ∧ (wSt0 wCb).dev.cave.staged = [(1, 2), (1, 3)] ∧ (wSt0 wCb).dev.unitOf (1, 2) = some 2 ∧ (wSt0 wCb).dev.cave.key = some 5 ∧ Cave.writeUnit (if false = true then { st := Cave.st (Dev.cave (Dev.trimCave (State.dev (wSt0 wCb)))), op := Cave.op (Dev.cave (Dev.trimCave (State.dev (wSt0 wCb)))), pop := Cave.pop (Dev.cave (Dev.trimCave (State.dev (wSt0 wCb)))), factory := Cave.factory (Dev.cave (Dev.trimCave (State.dev (wSt0 wCb)))), blks := Cave.blks (Dev.cave (Dev.trimCave (State.dev (wSt0 wCb)))), deadDies := Cave.deadDies (Dev.cave (Dev.trimCave (State.dev (wSt0 wCb)))), spare := Cave.spare (Dev.cave (Dev.trimCave (State.dev (wSt0 wCb)))), rebuilt := Cave.rebuilt (Dev.cave (Dev.trimCave (State.dev (wSt0 wCb)))), lost := Cave.lost (Dev.cave (Dev.trimCave (State.dev (wSt0 wCb)))), rdReloc := Cave.rdReloc (Dev.cave (Dev.trimCave (State.dev (wSt0 wCb)))), staged := [((1 : Nat), (3 : Nat))], badUnits := Cave.badUnits (Dev.cave (Dev.trimCave (State.dev (wSt0 wCb)))), key := Cave.key (Dev.cave (Dev.trimCave (State.dev (wSt0 wCb)))), map := Cave.map (Dev.cave (Dev.trimCave (State.dev (wSt0 wCb)))), cws := Cave.cws (Dev.cave (Dev.trimCave (State.dev (wSt0 wCb)))), stripes := Cave.stripes (Dev.cave (Dev.trimCave (State.dev (wSt0 wCb)))), open_ := Cave.open_ (Dev.cave (Dev.trimCave (State.dev (wSt0 wCb)))), points := Cave.points (Dev.cave (Dev.trimCave (State.dev (wSt0 wCb)))), moving := tdel (Cave.moving (Dev.cave (Dev.trimCave (State.dev (wSt0 wCb))))) (2 : Nat) } else Cave.failNext { st := Cave.st (Dev.cave (Dev.trimCave (State.dev (wSt0 wCb)))), op := Cave.op (Dev.cave (Dev.trimCave (State.dev (wSt0 wCb)))), pop := Cave.pop (Dev.cave (Dev.trimCave (State.dev (wSt0 wCb)))), factory := Cave.factory (Dev.cave (Dev.trimCave (State.dev (wSt0 wCb)))), blks := Cave.blks (Dev.cave (Dev.trimCave (State.dev (wSt0 wCb)))), deadDies := Cave.deadDies (Dev.cave (Dev.trimCave (State.dev (wSt0 wCb)))), spare := Cave.spare (Dev.cave (Dev.trimCave (State.dev (wSt0 wCb)))), rebuilt := Cave.rebuilt (Dev.cave (Dev.trimCave (State.dev (wSt0 wCb)))), lost := Cave.lost (Dev.cave (Dev.trimCave (State.dev (wSt0 wCb)))), rdReloc := Cave.rdReloc (Dev.cave (Dev.trimCave (State.dev (wSt0 wCb)))), staged := [((1 : Nat), (3 : Nat))], badUnits := Cave.badUnits (Dev.cave (Dev.trimCave (State.dev (wSt0 wCb)))), key := Cave.key (Dev.cave (Dev.trimCave (State.dev (wSt0 wCb)))), map := Cave.map (Dev.cave (Dev.trimCave (State.dev (wSt0 wCb)))), cws := Cave.cws (Dev.cave (Dev.trimCave (State.dev (wSt0 wCb)))), stripes := Cave.stripes (Dev.cave (Dev.trimCave (State.dev (wSt0 wCb)))), open_ := Cave.open_ (Dev.cave (Dev.trimCave (State.dev (wSt0 wCb)))), points := Cave.points (Dev.cave (Dev.trimCave (State.dev (wSt0 wCb)))), moving := tdel (Cave.moving (Dev.cave (Dev.trimCave (State.dev (wSt0 wCb))))) (2 : Nat) }) (2 : Nat) (Dev.stagedSlots (State.dev (wSt0 wCb)) (5 : BitVec (512 : Nat)) ((1 : Nat), (2 : Nat)) (2 : Nat)) = some (wCs false)) ∧
    ((w08s14.dev.cave.st = CaveSt.absent ∨ w08s14.dev.awake 53 = true ∧ w08s14.dev.awake 54 = true) ∧ w08s14.dev.cave.staged = [(1, 2), (1, 3)] ∧ w08s14.dev.unitOf (1, 2) = some 2 ∧ w08s14.dev.cave.key = some 5 ∧ Cave.writeUnit (if true = true then { st := Cave.st (Dev.cave (Dev.trimCave (State.dev w08s14))), op := Cave.op (Dev.cave (Dev.trimCave (State.dev w08s14))), pop := Cave.pop (Dev.cave (Dev.trimCave (State.dev w08s14))), factory := Cave.factory (Dev.cave (Dev.trimCave (State.dev w08s14))), blks := Cave.blks (Dev.cave (Dev.trimCave (State.dev w08s14))), deadDies := Cave.deadDies (Dev.cave (Dev.trimCave (State.dev w08s14))), spare := Cave.spare (Dev.cave (Dev.trimCave (State.dev w08s14))), rebuilt := Cave.rebuilt (Dev.cave (Dev.trimCave (State.dev w08s14))), lost := Cave.lost (Dev.cave (Dev.trimCave (State.dev w08s14))), rdReloc := Cave.rdReloc (Dev.cave (Dev.trimCave (State.dev w08s14))), staged := [((1 : Nat), (3 : Nat))], badUnits := Cave.badUnits (Dev.cave (Dev.trimCave (State.dev w08s14))), key := Cave.key (Dev.cave (Dev.trimCave (State.dev w08s14))), map := Cave.map (Dev.cave (Dev.trimCave (State.dev w08s14))), cws := Cave.cws (Dev.cave (Dev.trimCave (State.dev w08s14))), stripes := Cave.stripes (Dev.cave (Dev.trimCave (State.dev w08s14))), open_ := Cave.open_ (Dev.cave (Dev.trimCave (State.dev w08s14))), points := Cave.points (Dev.cave (Dev.trimCave (State.dev w08s14))), moving := tdel (Cave.moving (Dev.cave (Dev.trimCave (State.dev w08s14)))) (2 : Nat) } else Cave.failNext { st := Cave.st (Dev.cave (Dev.trimCave (State.dev w08s14))), op := Cave.op (Dev.cave (Dev.trimCave (State.dev w08s14))), pop := Cave.pop (Dev.cave (Dev.trimCave (State.dev w08s14))), factory := Cave.factory (Dev.cave (Dev.trimCave (State.dev w08s14))), blks := Cave.blks (Dev.cave (Dev.trimCave (State.dev w08s14))), deadDies := Cave.deadDies (Dev.cave (Dev.trimCave (State.dev w08s14))), spare := Cave.spare (Dev.cave (Dev.trimCave (State.dev w08s14))), rebuilt := Cave.rebuilt (Dev.cave (Dev.trimCave (State.dev w08s14))), lost := Cave.lost (Dev.cave (Dev.trimCave (State.dev w08s14))), rdReloc := Cave.rdReloc (Dev.cave (Dev.trimCave (State.dev w08s14))), staged := [((1 : Nat), (3 : Nat))], badUnits := Cave.badUnits (Dev.cave (Dev.trimCave (State.dev w08s14))), key := Cave.key (Dev.cave (Dev.trimCave (State.dev w08s14))), map := Cave.map (Dev.cave (Dev.trimCave (State.dev w08s14))), cws := Cave.cws (Dev.cave (Dev.trimCave (State.dev w08s14))), stripes := Cave.stripes (Dev.cave (Dev.trimCave (State.dev w08s14))), open_ := Cave.open_ (Dev.cave (Dev.trimCave (State.dev w08s14))), points := Cave.points (Dev.cave (Dev.trimCave (State.dev w08s14))), moving := tdel (Cave.moving (Dev.cave (Dev.trimCave (State.dev w08s14)))) (2 : Nat) }) (2 : Nat) (Dev.stagedSlots (State.dev w08s14) (5 : BitVec (512 : Nat)) ((1 : Nat), (2 : Nat)) (2 : Nat)) = none) ∧
    (wGt.dev.cave.st ≠ CaveSt.absent ∧ wGt.dev.power.pstate = PState.working ∧ wGt.dev.domSt 53 = DomSt.gated) ∧
    (wUr.dev.cave.st ≠ CaveSt.absent ∧ (wUr.dev.cave.st = CaveSt.absent ∨ wUr.dev.awake 53 = true ∧ wUr.dev.awake 54 = true)) ∧
    ((wTi [] []).dev.cave.st = CaveSt.absent) ∧
    (wCb.allocPage (lgetD wCb.channels wCb.open_.length 0) = some (wCa1.1, wCa1.2) ∧ wCa1.2.good (wCa1.2.blkOf wCa1.1) = true) :=
  by and_intros <;> first | decide +kernel | exact ⟨by decide +kernel, by decide +kernel, by decide +kernel⟩

theorem test_wit_MemoryControllersPatrolAndMargin :
    (NoneHeld wRb.dev ∧ wRb.dev.maddr 71776119061221376 = some 4096) ∧
    (NoneHeld wRb.dev ∧ wRb.dev.power.pstate = PState.working ∧ wRb.dev.brinePlace = some (Back.hbm, 0, 0, 1) ∧ (Back.hbm = Back.ddr → wRb.dev.faults.ddrPend = [])) ∧
    (NoneHeld wRb.dev ∧ wRb.dev.power.pstate = PState.working ∧ wRb.dev.brinePlace = some (Back.hbm, 0, 0, 1) ∧ (Back.hbm = Back.ddr → wRb.dev.faults.ddrPend = []) ∧ wRb.dev.lineAt Back.hbm 0 0 = some 0 ∧ wRb.dev.isPoison 0 = false ∧ 0 ∉ wRb.dev.coh.sysCache ∧ (∀ x ∈ wRb.dev.coh.redBuf, x.1 ≠ 0) ∧ wRb.dev.owner 0 = none ∧ wRb.dev.flying 0 = none ∧ wRb.dev.farOwner 0 = none) ∧
    (NoneHeld wLu.dev ∧ ↑wUl.code = (8 : Nat) ∧ unitOk wUl = true ∧ (wLu.dev.unit wUl).st = UnitSt.repairPending ∧ wLu.dev.laneUsed wUl = false) ∧
    (NoneHeld wRb.dev ∧ wRb.dev.power.pstate ≠ PState.cold ∧ wRb.dev.power.vinOk = true ∧ (90 : ℤ) < (95 : ℤ) ∧ (∀ u ∈ (Two.get wRb.dev.hbm.half Half.east).temps, u < 95) ∧ 5 < (Two.get wRb.dev.hbm.half Half.east).temps.length) ∧
    (NoneHeld wRb.dev ∧ wRb.dev.power.pstate ≠ PState.cold ∧ wRb.dev.power.vinOk = true ∧ (80 : ℤ) < (95 : ℤ) ∧ (∀ u ∈ (Two.get wRb.dev.hbm.half Half.east).temps, u < 95) ∧ 5 < (Two.get wRb.dev.hbm.half Half.east).temps.length) ∧
    (NoneHeld wHot.dev ∧ wHot.dev.power.pstate ≠ PState.cold ∧ wHot.dev.power.vinOk = true ∧ 90 ≤ (Two.get wHot.dev.hbm.half Half.east).tMax ∧ wHot.dev.power.hottest (dieOf Half.east) = none) ∧
    (NoneHeld w08s15.dev ∧ w08s15.dev.hbm.margin = some wMg ∧ wMg.held = true ∧ wMg.point < marginHi wMg.volt) :=
  by and_intros <;> first | decide +kernel | exact ⟨by decide +kernel, by decide +kernel, by decide +kernel⟩

theorem test_wit_SupplyClocksAndBudgets :
    (wE.dev.power.vinOk = true ∧ 4300 ≤ 4300 ∧ 4300 ≤ 5800) ∧
    (wE.dev.power.vinOk = true ∧ 4300 ≤ 5800 ∧ 5800 ≤ 5800) ∧
    (wE.dev.power.vinOk = true ∧ 6200 < 6201) ∧
    (wE.dev.power.vinOk = true ∧ 4600 < 4601) ∧
    (w09s1.dev.power.vinOk = true ∧ w09s1.dev.power.intOsc = false) ∧
    (w09s2.dev.power.vinOk = true ∧ w09s2.dev.power.intOsc = true) ∧
    (w09s3.dev.power.vinOk = true ∧ w09s3.dev.power.pstate = PState.working ∧ 100 ≤ 800 ∧ 800 ≤ 800 ∧ (800 = Two.get w09s3.dev.power.anvMhz Half.east + 100 ∨ Two.get w09s3.dev.power.anvMhz Half.east = 800 + 100)) ∧
    (w09s4.dev.power.vinOk = true ∧ w09s4.dev.power.pstate = PState.working ∧ 100 ≤ 100 ∧ 100 ≤ 800 ∧ (100 = Two.get w09s4.dev.power.anvMhz Half.west + 100 ∨ Two.get w09s4.dev.power.anvMhz Half.west = 100 + 100)) ∧
    (wE.dev.power.vinOk = true ∧ wE.dev.power.pstate ≠ PState.cold ∧ wE.dev.halfAwake Half.west = true ∧ wE.dev.halfAwake Half.east = true ∧ (60 * 105 + 99) / 100 + 240 ≤ wE.dev.power.limit) ∧
    (wE.dev.power.vinOk = true ∧ wE.dev.power.pstate ≠ PState.cold ∧ wE.dev.halfAwake Half.west = true ∧ wE.dev.halfAwake Half.east = true ∧ (0 * 105 + 99) / 100 + 240 ≤ wE.dev.power.limit) ∧
    (wE.dev.power.vinOk = true ∧ wE.dev.power.pstate ≠ PState.cold ∧ wE.dev.halfAwake Half.west = true ∧ wE.dev.halfAwake Half.east = true ∧ (100 * 105 + 99) / 100 + 240 ≤ wE.dev.power.limit) ∧
    (wE.dev.power.vinOk = true ∧ wE.dev.power.pstate ≠ PState.cold ∧ wE.dev.halfAwake Half.west = true ∧ wE.dev.halfAwake Half.east = true ∧ (600 * 105 + 99) / 100 + 240 ≤ wE.dev.power.limit) ∧
    (w09s5.dev.power.vinOk = true ∧ (Half.west, 5, 300) ∈ w09s5.dev.power.sent) ∧
    (w09s5.dev.power.vinOk = true ∧ (Half.east, 5, 400) ∈ w09s5.dev.power.sent) ∧
    (wE.dev.power.vinOk = true ∧ Two.get wE.dev.power.lapsed Half.east = false ∧ wE.dev.power.pstate ≠ PState.cold) :=
  by and_intros <;> decide +kernel

theorem test_wit_DomainsWakeAndPackageStatesChange :
    ((wDm 13 DomSt.on).dev.power.pstate = PState.working ∧ (wDm 13 DomSt.on).dev.domSt 13 = DomSt.on ∧ (wDm 13 DomSt.on).dev.gateable 13 = true) ∧
    ((wDm 13 DomSt.draining).dev.power.pstate = PState.working ∧ (wDm 13 DomSt.draining).dev.domSt 13 = DomSt.draining) ∧
    ((wDm 13 DomSt.draining).dev.power.pstate = PState.working ∧ (wDm 13 DomSt.draining).dev.domSt 13 = DomSt.draining ∧ (wDm 13 DomSt.draining).dev.drained 13 = true ∧ 13 ∉ (wDm 13 DomSt.draining).dev.power.wakePend) ∧
    ((wDm 13 DomSt.gated).dev.power.pstate = PState.working ∧ (wDm 13 DomSt.gated).dev.domSt 13 = DomSt.gated ∧ (wDm 13 DomSt.gated).dev.domRetired 13 = false ∧ (wDm 13 DomSt.gated).dev.boot.waitPerst = false) ∧
    (2 = pdVat Half.west ∧ wVw.dev.domSt 2 = DomSt.waking ∧ wVw.dev.sched.steps = [] ∧ wVw.Safe) ∧
    (w09s6.dev.power.vinOk = true ∧ (Die.west = Die.hub → 3 < 8) ∧ (101 : ℤ) < (102 : ℤ) ∧ (∀ x ∈ w09s6.dev.power.tj, x.2 < 102)) ∧
    (w09s6.dev.power.vinOk = true ∧ (Die.hub = Die.hub → 7 < 8) ∧ (108 : ℤ) ≤ (108 : ℤ) ∧ w09s6.dev.power.pstate ≠ PState.cold) ∧
    (w09s7.dev.power.thermtrip = true ∧ w09s7.dev.power.tjMax Die.hub < 70) ∧
    (w09s8.dev.power.pstate = PState.working ∧ w09s8.dev.boot.st = BootSt.ready ∧ 1 ≤ w09s8.dev.power.policy ∧ w09s8.dev.idle = true) ∧
    (w09s9.dev.power.pstate = PState.glowing ∧ w09s9.dev.power.entering = false) ∧
    (w09s10.dev.power.pstate = PState.glowing ∧ w09s10.dev.power.entering = false ∧ w09s10.dev.power.policy = 2 ∧ w09s10.dev.idle = true ∧ w09s10.dev.sched.steps = [] ∧ w09s10.dev.cave.staged = [] ∧ (∀ n ∈ [13, 14, 15, 16, 33, 34, 35, 36], w09s10.dev.domSt n = DomSt.gated ∨ w09s10.dev.domRetired n = true)) ∧
    (w09s11.dev.power.entering = true ∧ w09s11.dev.power.exitPend = none) ∧
    (w09s12.dev.power.pstate = PState.banked ∧ w09s12.dev.power.entering = false ∧ w09s12.dev.wakes WakeCause.mctp = true) ∧
    (w09s13.dev.power.pstate = PState.cold ∧ w09s13.dev.power.vinOk = true) :=
  by and_intros <;> first | decide +kernel | exact safeOf (by decide +kernel)

theorem test_wit_PowerCommandsComplete :
    (wS.dev.adminOpen = true ∧ (wOps [2, 1000, 3600000]).rsvd = false ∧ opsAre (wOps [2, 1000, 3600000]) [2, 1000, 3600000] ∧ 2 ≤ 2 ∧ 10 ≤ 1000 ∧ 1000 ≤ 1000 ∧ 1 ≤ 3600000 ∧ 3600000 ≤ 3600000) ∧
    (wS.dev.adminOpen = true ∧ (wOps [1850]).rsvd = false ∧ opsAre (wOps [1850]) [1850] ∧ 300 ≤ 1850 ∧ 1850 ≤ 1850) ∧
    (wS.dev.adminOpen = true ∧ (wOps [1, 3, 3200]).rsvd = false ∧ opsAre (wOps [1, 3, 3200]) [1, 3, 3200] ∧ 1 ≤ 1 ∧ 3 ≤ 3 ∧ 400 ≤ 3200 ∧ 3200 ≤ 3200 ∧ 3200 % 100 = 0) ∧
    (wS.dev.adminOpen = true ∧ (wOps [71213169107800064]).rsvd = false ∧ opsAre (wOps [71213169107800064]) [71213169107800064] ∧ 71213169107800064 < 2 ^ 56 ∧ wS.dev.target true 71213169107800064 = Target.host 4096) ∧
    (wS.dev.adminOpen = true ∧ (wOps [4294901761]).rsvd = false ∧ opsAre (wOps [4294901761]) [4294901761] ∧ 4294901761 < 2 ^ 32) ∧
    (wS.dev.adminOpen = true ∧ (wOps []).rsvd = false ∧ opsAre (wOps []) [] ∧ wS.dev.sched.steps = [] ∧ (∀ r ∈ wS.dev.host.rings, r.2.enabled = false) ∧ wS.dev.chain.joined = false) :=
  by and_intros <;> first | decide +kernel | exact rfl

theorem test_wit_UnitsCountQuenchAndRecover :
    (unitOk (wU10 3 2 Die.west) = true ∧ wE.dev.threshOf (↑(wU10 3 2 Die.west).code) false = some (32, 86400000) ∧ (wE.dev.unit (wU10 3 2 Die.west)).cc + 1 < 32) ∧
    (unitOk (wU10 7 10 Die.hub) = true ∧ w10s1.dev.threshOf (↑(wU10 7 10 Die.hub).code) false = some (8, 86400000) ∧ (w10s1.dev.unit (wU10 7 10 Die.hub)).cc + 1 < 8) ∧
    (unitOk (wU10 7 10 Die.hub) = true ∧ w10s2.dev.threshOf (↑(wU10 7 10 Die.hub).code) false = some (8, 86400000) ∧ (w10s2.dev.unit (wU10 7 10 Die.hub)).cc + 1 < 8) ∧
    (unitOk (wU10 7 10 Die.hub) = true ∧ quenchable (wU10 7 10 Die.hub) = false ∧ ↑(wU10 (7 : Nat) (10 : Nat) Die.hub).code ≠ (0 : Nat) ∧ ↑(wU10 (7 : Nat) (10 : Nat) Die.hub).code ≠ (6 : Nat) ∧ ↑(wU10 (7 : Nat) (10 : Nat) Die.hub).code ≠ (7 : Nat) ∧ ↑(wU10 (7 : Nat) (10 : Nat) Die.hub).code ≠ (12 : Nat) ∧ (↑(wU10 (7 : Nat) (10 : Nat) Die.hub).code = (9 : Nat) → wE.dev.hbmPlace (5 : Nat) = none) ∧ (↑(wU10 (7 : Nat) (10 : Nat) Die.hub).code = (10 : Nat) → wE.dev.backing (5 : Nat) ≠ Back.ddr) ∧ wE.dev.threshOf (↑(wU10 7 10 Die.hub).code) true = some (2, 604800000) ∧ (wE.dev.unit (wU10 7 10 Die.hub)).uc + 1 < 2) ∧
    (unitOk (wU10 8192 9 Die.east) = true ∧ quenchable (wU10 8192 9 Die.east) = false ∧ ↑(wU10 (8192 : Nat) (9 : Nat) Die.east).code ≠ (0 : Nat) ∧ ↑(wU10 (8192 : Nat) (9 : Nat) Die.east).code ≠ (6 : Nat) ∧ ↑(wU10 (8192 : Nat) (9 : Nat) Die.east).code ≠ (7 : Nat) ∧ ↑(wU10 (8192 : Nat) (9 : Nat) Die.east).code ≠ (12 : Nat) ∧ (↑(wU10 (8192 : Nat) (9 : Nat) Die.east).code = (9 : Nat) → wE.dev.hbmPlace (1073741824 : Nat) = none) ∧ (↑(wU10 (8192 : Nat) (9 : Nat) Die.east).code = (10 : Nat) → wE.dev.backing (1073741824 : Nat) ≠ Back.ddr) ∧ wE.dev.threshOf (↑(wU10 8192 9 Die.east).code) true = some (16, 86400000) ∧ (wE.dev.unit (wU10 8192 9 Die.east)).uc + 1 < 16) ∧
    (unitOk (wU10 3 4 Die.west) = true ∧ w10s3.dev.threshOf (↑(wU10 3 4 Die.west).code) false = some (32, 86400000) ∧ 32 ≠ 1) ∧
    (unitOk (wU10 3 4 Die.west) = true ∧ w10s4.dev.threshOf (↑(wU10 3 4 Die.west).code) false = some (32, 86400000) ∧ 32 ≠ 1) ∧
    (unitOk (wU10 3 2 Die.west) = true ∧ ↑(wU10 (3 : Nat) (2 : Nat) Die.west).code = (2 : Nat) ∧ (wE.dev.unit (wU10 3 2 Die.west)).quenched = false ∧ (wE.dev.unit (wU10 3 2 Die.west)).st ≠ UnitSt.retired ∧ (wE.dev.unit (wU10 3 2 Die.west)).inc.toNat < 15) ∧
    (unitOk (wU10 3 2 Die.west) = true ∧ ↑(wU10 (3 : Nat) (2 : Nat) Die.west).code = (2 : Nat) ∧ wE.dev.unitUp (wU10 3 2 Die.west) = true ∧ wE.dev.unitHalted (wU10 3 2 Die.west) = false ∧ (wE.dev.unit (wU10 3 2 Die.west)).quenched = false ∧ (wE.dev.unit (wU10 3 2 Die.west)).inc.toNat < 15) ∧
    (unitOk (wU10 3 2 Die.west) = true ∧ ↑(wU10 (3 : Nat) (2 : Nat) Die.west).code = (2 : Nat) ∧ w10s5.dev.unitUp (wU10 3 2 Die.west) = true ∧ w10s5.dev.unitHalted (wU10 3 2 Die.west) = false ∧ (w10s5.dev.unit (wU10 3 2 Die.west)).quenched = false ∧ (w10s5.dev.unit (wU10 3 2 Die.west)).inc.toNat < 15) ∧
    (unitOk (wU10 3 4 Die.west) = true ∧ (w10s6.dev.unit (wU10 3 4 Die.west)).quenched = true ∧ (w10s6.dev.unit (wU10 3 4 Die.west)).testing = true) ∧
    (engHalf 11 = Half.west ∧ engIdx 11 / 8 = 1 ∧ (wSp.dev.unit (engUnit 11)).awaiting = true ∧ (∀ (g : Fin 128), g ≠ 11 → engHalf g = Half.west → engIdx g / 8 = 1 → (wSp.dev.unit (engUnit g)).awaiting = false) ∧ wSp.dev.sched.steps = [] ∧ (∀ (g : Fin 128), (wSp.dev.eng g).step = none)) ∧
    (wCt.dev.faults.contain = some w10s7 ∧ wCt.dev.settled w10s7.steps = true) :=
  by and_intros <;> decide +kernel

theorem test_wit_ReliabilityCommandsComplete :
    (wR.dev.adminOpen = true ∧ (wOps [17]).rsvd = false ∧ opsAre (wOps [17]) [17] ∧ 17 < 16384 ∧ wR.dev.faults.contain = none ∧ tget wR.dev.host.rings 17 = some w10s8) ∧
    (wR.dev.adminOpen = true ∧ (wOps [13, 1, 65535, 2592000000]).rsvd = false ∧ opsAre (wOps [13, 1, 65535, 2592000000]) [13, 1, 65535, 2592000000] ∧ 13 ≤ 13 ∧ 1 ≤ 1 ∧ 1 ≤ 65535 ∧ 65535 ≤ 65535 ∧ 1 ≤ 2592000000 ∧ 2592000000 ≤ 2592000000 ∧ (defaultThresh 13 (1 == 1)).isSome = true) ∧
    (wR.dev.adminOpen = true ∧ (wOps [0, 0, 1, 1]).rsvd = false ∧ opsAre (wOps [0, 0, 1, 1]) [0, 0, 1, 1] ∧ 0 ≤ 13 ∧ 0 ≤ 1 ∧ 1 ≤ 1 ∧ 1 ≤ 65535 ∧ 1 ≤ 1 ∧ 1 ≤ 2592000000 ∧ (defaultThresh 0 (0 == 1)).isSome = true) ∧
    (wR.dev.adminOpen = true ∧ (wOps [71213169107800064]).rsvd = false ∧ opsAre (wOps [71213169107800064]) [71213169107800064] ∧ 71213169107800064 < 2 ^ 56 ∧ wR.dev.target true 71213169107800064 = Target.host 4096) ∧
    ((wSes 64).dev.adminOpen = true ∧ (wOps [11, 769, 0]).rsvd = false ∧ opsAre (wOps [11, 769, 0]) [11, 769, 0] ∧ 769 < 65536 ∧ unitOk { code := (11 : Fin (14 : Nat)), die := Die.hub, unit := BitVec.truncate (16 : Nat) (769 : Word) } = true ∧ (wSes 64).dev.grants 6 = true ∧ (wSes 64).dev.threshOf 11 false = some (4096, 100) ∧ ((wSes (64 : Word)).dev.unit { code := (11 : Fin (14 : Nat)), die := Die.hub, unit := BitVec.truncate (16 : Nat) (769 : Word) }).cc + (1 : Nat) < (4096 : Nat)) :=
  by and_intros <;> first | decide +kernel | exact rfl

theorem test_wit_SecurityCommandsComplete :
    (wOwn.dev.adminOpen = true ∧ (wOps [71213169107800064]).rsvd = false ∧ 71213169107800064 < 2 ^ 56 ∧ wOwn.dev.target true 71213169107800064 = Target.host 4096 ∧ opsAre (wOps [71213169107800064]) [71213169107800064]) ∧
    (wOwn.dev.adminOpen = true ∧ (wOps [71213169107800064, 160]).rsvd = false ∧ 71213169107800064 < 2 ^ 56 ∧ wOwn.dev.target true 71213169107800064 = Target.host 4096 ∧ opsAre (wOps [71213169107800064, 160]) [71213169107800064, 160]) ∧
    (wOwn.dev.adminOpen = true ∧ (wOps [71213169107828736, 71213169107800064]).rsvd = false ∧ 71213169107800064 < 2 ^ 56 ∧ wOwn.dev.target true 71213169107800064 = Target.host 4096 ∧ opsAre (wOps [71213169107828736, 71213169107800064]) [71213169107828736, 71213169107800064] ∧ 71213169107828736 < 2 ^ 56 ∧ wOwn.dev.fwHolds 71213169107828736 32 = none ∧ wOwn.dev.fwRead 71213169107828736 32 (List.replicate 32 7) = Except.ok (List.replicate 32 7) ∧ (wOwn.dev.attestBytes (ofLe (List.replicate 32 7))).isSome = true) ∧
    ((wSes 3).dev.adminOpen = true ∧ (wOps []).rsvd = false ∧ opsAre (wOps []) []) ∧
    (wOwn.dev.host.linkUp = true ∧ (wOwn.dev.attestBytes 3178606371220444580254889784552217078325058402586211561867463090413301597959).isSome = true) ∧
    (wOwn.dev.host.linkUp = true) ∧
    (wC.dev.adminOpen = true ∧ (wOps [71213169107800064]).rsvd = false ∧ opsAre (wOps [71213169107800064]) [71213169107800064] ∧ 71213169107800064 < 2 ^ 56 ∧ wC.dev.fwHolds 71213169107800064 128 = none ∧ wC.dev.fwRead 71213169107800064 128 (List.replicate 128 1) = Except.ok (List.replicate 128 1) ∧ wC.dev.coldBusy = false ∧ wC.dev.sec.life = Lifecycle.blank ∧ wC.dev.sec.log.length < 4096 ∧ ofLe (List.replicate 128 1) % 2 ^ 256 ≠ 0 ∧ wC.dev.chain.joined = false) :=
  by and_intros <;> first | decide +kernel | exact rfl | exact eqOk (by decide +kernel)

theorem test_wit_DebugPortActs :
    (wE.dev.power.vinOk = true) ∧
    (w11s1.dev.power.vinOk = true) ∧
    (wE.dev.power.vinOk = true ∧ wE.dev.sec.mboxReturn = none) ∧
    (wDb.dev.power.vinOk = true) ∧
    (wMd.dev.power.vinOk = true ∧ wMd.dev.debugUp = true ∧ wMd.dev.sec.mods.length = 3) ∧
    (wDb.dev.power.vinOk = true ∧ dbgTarget w11s2.die ↑w11s2.hartsel = DbgT.core 33 ∧ wDb.dev.dbgReach (DbgT.core 33) = (DbgAns.open_, wDb.dev) ∧ wDb.dev.sec.mods.length = 3) ∧
    (wHl.dev.power.vinOk = true ∧ dbgTarget w11s2.die ↑w11s2.hartsel = DbgT.core 33 ∧ wHl.dev.dbgReach (DbgT.core 33) = (DbgAns.open_, wHl.dev) ∧ wHl.dev.sec.mods.length = 3 ∧ (wHl.dev.core 33).halted = true) ∧
    (wHl.dev.power.vinOk = true ∧ dbgTarget w11s2.die ↑w11s2.hartsel = DbgT.core 33 ∧ wHl.dev.dbgReach (DbgT.core 33) = (DbgAns.open_, wHl.dev) ∧ wHl.dev.sec.mods.length = 3 ∧ (wHl.dev.core 33).halted = true ∧ (wHl.dev.dbgMod w11s2.die).cmderr = 0) ∧
    (wVr.dev.power.vinOk = true ∧ wVr.dev.debugUp = true ∧ wVr.dev.sec.session.isSome = true ∧ BitVec.toNat (gaddr (vatBase + 4096)) % 8 = 0 ∧ wVr.dev.target false (BitVec.toNat (gaddr (vatBase + 4096))) = Target.vat (vatBase + 4096) ∧ wVr.dev.dbgAsk 2 (pdVat (vatHalf (vatBase + 4096))) = (DbgAns.open_, wVr.dev) ∧ wVr.dev.sec.mods.length = 3) ∧
    (wVr.dev.power.vinOk = true ∧ wVr.dev.debugUp = true ∧ wVr.dev.sec.session.isSome = true ∧ BitVec.toNat (gaddr (vatBase + 4096)) % 8 = 0 ∧ wVr.dev.target false (BitVec.toNat (gaddr (vatBase + 4096))) = Target.vat (vatBase + 4096) ∧ wVr.dev.dbgAsk 2 (pdVat (vatHalf (vatBase + 4096))) = (DbgAns.open_, wVr.dev) ∧ wVr.dev.sec.mods.length = 3 ∧ vatBase ≤ vatBase + 4096) :=
  by and_intros <;> decide +kernel

theorem test_wit_StartUpReachesReady :
    (wV0.dev.power.vinOk = false) ∧
    (w11s3.dev.power.vinOk = false) ∧
    ((wPd false).dev.boot.perst = false ∧ (wPd false).dev.power.vinOk = true ∧ (wPd false).dev.power.pstate ≠ PState.cold ∧ (wPd false).dev.boot.waitPerst = false) ∧
    (State.reset.dev.boot.perst = true ∧ State.reset.dev.power.vinOk = true ∧ State.reset.dev.power.pstate ≠ PState.cold) ∧
    (w11s4.dev.boot.perst = true ∧ w11s4.dev.power.vinOk = true ∧ w11s4.dev.power.pstate ≠ PState.cold) ∧
    ((wPd false).dev.boot.waitPerst = false ∧ (wPd false).dev.boot.perst = false ∧ (wPd false).dev.power.pstate ≠ PState.cold ∧ (wPd false).dev.power.vinOk = true) ∧
    (w11s5.dev.boot.st = BootSt.load ∧ w11s5.dev.checkImage (wImg 65) = Except.error 1) ∧
    (w11s5.dev.boot.st = BootSt.load ∧ w11s5.dev.checkImage w11s6 = Except.error 5) ∧
    (wRcv.dev.boot.st = BootSt.recovery) ∧
    (w11s7.dev.boot.st = BootSt.program ∧ w11s7.dev.boot.img = some wVv) ∧
    ((wTr11 0).dev.boot.st = BootSt.train ∧ 5 ≤ popCount (63 &&& ~~~(wTr11 0).dev.badStacks Half.west).toNat 6 ∧ 5 ≤ popCount (62 &&& ~~~(wTr11 0).dev.badStacks Half.east).toNat 6 ∧ 1 ≤ popCount 1 8 ∧ (wTr11 0).Safe) ∧
    ((wTr11 3).dev.boot.st = BootSt.train ∧ 5 ≤ popCount (63 &&& ~~~(wTr11 3).dev.badStacks Half.west).toNat 6 ∧ 5 ≤ popCount (62 &&& ~~~(wTr11 3).dev.badStacks Half.east).toNat 6 ∧ 1 ≤ popCount 255 8 ∧ (wTr11 3).Safe) ∧
    ((wTr11 3).dev.boot.st = BootSt.train ∧ popCount (15 &&& ~~~(wTr11 3).dev.badStacks Half.west).toNat 6 < 5) ∧
    (w11s8.dev.boot.st = BootSt.mount) ∧
    (wM0.dev.boot.st = BootSt.mount) ∧
    (w11s9.dev.boot.platform ≠ 0) ∧
    (wE.dev.power.vinOk = true) :=
  by and_intros <;> first | decide +kernel | exact eqErr (by decide +kernel) | exact safeOf (by decide +kernel)

theorem test_wit_ChainLinksComeUpAndCarryPackets :
    ((wTn id).dev.chain.waitSend = [] ∧ (wTn id).dev.chain.transit = [] ∧ (wTn id).dev.chain.joined = true ∧ ((wTn id).dev.port 2).st = PortSt.training ∧ ((wTn id).dev.port 2).lanes = 0 ∧ (6 = 8 ∨ 6 = 6 ∨ 6 = 4)) ∧
    (w12s1.dev.chain.waitSend = [] ∧ w12s1.dev.chain.transit = [] ∧ w12s1.dev.chain.joined = true ∧ (w12s1.dev.port 2).st = PortSt.training ∧ (w12s1.dev.port 2).lanes ≠ 0 ∧ (w12s1.dev.port 2).idDone = false ∧ (w12s1.dev.port 2).mine = some wId12 ∧ w12s1.dev.upPorts = [] ∧ w12s2.node.toNat < 64 ∧ w12s2.node.toNat ≠ w12s1.dev.chain.node ∧ (w12s2.node.toNat / 8 = w12s1.dev.chain.node / 8 ∨ w12s2.node.toNat % 8 = w12s1.dev.chain.node % 8) ∧ w12s1.dev.sec.fabric ≠ 0 ∧ w12s1.dev.slot w12s2.node.toNat = noSlot ∧ w12s1.dev.slot w12s1.dev.chain.node = noSlot ∧ w12s2.slots = []) ∧
    (w12s1.dev.chain.waitSend = [] ∧ w12s1.dev.chain.transit = [] ∧ w12s1.dev.chain.joined = true ∧ (w12s1.dev.port 2).st = PortSt.training ∧ (w12s1.dev.port 2).lanes ≠ 0 ∧ (w12s1.dev.port 2).idDone = false ∧ (w12s1.dev.port 2).mine = some wId12 ∧ w12s1.dev.upPorts = [] ∧ w12s3.node.toNat < 64 ∧ w12s3.node.toNat ≠ w12s1.dev.chain.node ∧ (w12s3.node.toNat / 8 = w12s1.dev.chain.node / 8 ∨ w12s3.node.toNat % 8 = w12s1.dev.chain.node % 8) ∧ w12s1.dev.sec.fabric ≠ 0 ∧ w12s1.dev.slot w12s3.node.toNat = noSlot ∧ w12s1.dev.slot w12s1.dev.chain.node = noSlot ∧ w12s3.slots = []) ∧
    (w12s1.dev.chain.waitSend = [] ∧ w12s1.dev.chain.transit = [] ∧ w12s1.dev.chain.joined = true ∧ (w12s1.dev.port 2).st = PortSt.training ∧ (w12s1.dev.port 2).lanes ≠ 0 ∧ (w12s1.dev.port 2).idDone = false ∧ (w12s1.dev.port 2).mine = some wId12 ∧ w12s1.dev.upPorts = [] ∧ w12s4.node.toNat < 64 ∧ w12s4.node.toNat / 8 ≠ w12s1.dev.chain.node / 8 ∧ w12s4.node.toNat % 8 ≠ w12s1.dev.chain.node % 8) ∧
    (wKy.dev.chain.waitSend = [] ∧ wKy.dev.chain.transit = [] ∧ (wKy.dev.port 2).far = some wId2 ∧ (wKy.dev.port 2).st = PortSt.training ∧ (wKy.dev.port 2).idDone = true ∧ wKy.dev.upTo (wKy.dev.port 2).farNode = [] ∧ (wKy.dev.port 2).farNode ≠ wKy.dev.chain.node ∧ Config.kmacConfirm (confirmKey 77) wId2 = Config.kmacConfirm (confirmKey (wKy.dev.port 2).key) wId2) ∧
    (wKy.dev.chain.waitSend = [] ∧ wKy.dev.chain.transit = [] ∧ (wKy.dev.port 2).far = some wId2 ∧ (wKy.dev.port 2).st = PortSt.training ∧ (wKy.dev.port 2).idDone = true ∧ wKy.dev.upTo (wKy.dev.port 2).farNode = [] ∧ (wKy.dev.port 2).farNode ≠ wKy.dev.chain.node ∧ Config.kmacConfirm (confirmKey 77) wId2 + 1 ≠ Config.kmacConfirm (confirmKey (wKy.dev.port 2).key) wId2) ∧
    (w12s5.dev.chain.waitSend = [] ∧ w12s5.dev.chain.transit = [] ∧ w12s5.dev.chain.joined = true ∧ (w12s5.dev.port 2).enabled = true ∧ ((w12s5.dev.port 2).st = PortSt.refused ∨ (w12s5.dev.port 2).st = PortSt.dead ∨ (w12s5.dev.port 2).st = PortSt.training)) ∧
    (wCh12.dev.chain.waitSend = [] ∧ wCh12.dev.chain.transit = [] ∧ (wCh12.dev.port 2).st = PortSt.upActive ∧ (wCh12.dev.port 2).retrain = false ∧ w12s6.seq = (wCh12.dev.port 2).rxSeq ∧ (wCh12.dev.port 2).calm) ∧
    (w12s7.dev.chain.waitSend = [] ∧ w12s7.dev.chain.transit = [] ∧ (w12s7.dev.port 2).st = PortSt.upActive ∧ (w12s7.dev.port 2).retrain = false ∧ w12s8.seq = (w12s7.dev.port 2).rxSeq ∧ (w12s7.dev.port 2).calm) ∧
    (w12s9.dev.chain.waitSend = [] ∧ w12s9.dev.chain.transit = [] ∧ (w12s9.dev.port 2).st = PortSt.upActive ∧ (w12s9.dev.port 2).retrain = false ∧ (w12s9.dev.port 2).crcRun < 15) ∧
    (wCh12.dev.chain.waitSend = [] ∧ wCh12.dev.chain.transit = [] ∧ (wCh12.dev.port 2).st = PortSt.upActive ∧ (wCh12.dev.port 2).retrain = false) ∧
    (wCh12.dev.chain.waitSend = [] ∧ wCh12.dev.chain.transit = [] ∧ (wCh12.dev.port 2).st = PortSt.upActive ∧ (wCh12.dev.port 2).retrain = false ∧ (wCh12.dev.port 2).calm) ∧
    (wCh12.dev.chain.waitSend = [] ∧ wCh12.dev.chain.transit = [] ∧ (wCh12.dev.port 2).st = PortSt.upActive ∧ (wCh12.dev.port 2).retrain = false ∧ 1 ≤ 2 ∧ 2 ≤ 4) ∧
    (wCh12.dev.chain.waitSend = [] ∧ wCh12.dev.chain.transit = [] ∧ (wCh12.dev.port 2).st = PortSt.upActive ∧ (wCh12.dev.port 2).retrain = false ∧ 1 ≤ 4 ∧ 4 ≤ 4) ∧
    (wCh12.dev.chain.waitSend = [] ∧ wCh12.dev.chain.transit = [] ∧ (wCh12.dev.port 2).st = PortSt.upActive ∧ (wCh12.dev.port 2).retrain = false ∧ (wCh12.dev.modPort 2 fun (x : Port) => { st := PortSt.dead, enabled := x.enabled, refuse := x.refuse, lanes := x.lanes, farNode := x.farNode, farPort := x.farPort, farInc := x.farInc, nonce := x.nonce, mine := x.mine, far := x.far, epoch := x.epoch, replays := x.replays, tagFail := x.tagFail, stale := x.stale, outseq := x.outseq, fecCorr := x.fecCorr, uptime := x.uptime, idDone := x.idDone, retrain := x.retrain, txSeq := x.txSeq, rxSeq := x.rxSeq, frameCtr := x.frameCtr, replayBuf := x.replayBuf, rxCtr := x.rxCtr, crcRun := x.crcRun, tagRun := x.tagRun, rekeying := x.rekeying, key := x.key, used := x.used, owed := x.owed, bankLanes := x.bankLanes, laneBad := x.laneBad }).upTo (wCh12.dev.port 2).farNode = []) ∧
    (wCh12.dev.chain.waitSend = [] ∧ wCh12.dev.chain.transit = [] ∧ (wCh12.dev.port 2).st = PortSt.upActive ∧ (wCh12.dev.port 2).retrain = false ∧ (wCh12.dev.port 2).rekeying = false) ∧
    (w12s11.dev.chain.waitSend = [] ∧ w12s11.dev.chain.transit = [] ∧ (w12s11.dev.port 2).st = PortSt.upActive ∧ (w12s11.dev.port 2).retrain = false ∧ (w12s11.dev.port 2).rekeying = true ∧ (w12s11.dev.port 2).mine = some wId12 ∧ (w12s11.dev.port 2).far = some wId2 ∧ Config.kmacConfirm (confirmKey (Config.kmacChain wCh12.dev.sec.fabric (linkX wId12 wId2 4 44 2))) wId2 = Config.kmacConfirm (confirmKey (Config.kmacChain w12s11.dev.sec.fabric (linkX wId12 wId2 (w12s11.dev.port 2).nonce 44 ((w12s11.dev.port 2).epoch + 1)))) wId2) ∧
    (w12s12.dev.chain.waitSend = [] ∧ w12s12.dev.chain.transit = [] ∧ (w12s12.dev.port 2).st = PortSt.upActive ∧ (w12s12.dev.port 2).retrain = true ∧ w12s12.dev.upTo (w12s12.dev.port 2).farNode = [(2, w12s12.dev.port 2)]) ∧
    (wCh12.dev.chain.waitSend = [] ∧ wCh12.dev.chain.transit = [] ∧ wCh12.dev.chain.joined = true ∧ (wCh12.dev.port 2).st = PortSt.upActive ∧ malformedPkt wPk = false ∧ ↑wPk.cls ≠ (7 : Nat) ∧ wPk.dst.toNat = wCh12.dev.chain.node ∧ wPk.body = ChainBody.rennetSig 70 5 ∧ wCh12.dev.chain.leaving = false ∧ wCh12.dev.stalePkt wPk = false ∧ wPk.seq = (tgetD wCh12.dev.chain.rx (streamKey wPk.src.toNat ↑wPk.cls) { }).next ∧ (tgetD wCh12.dev.chain.rx (streamKey wPk.src.toNat ↑wPk.cls) { }).pend < 31) ∧
    (w12s13.dev.chain.waitSend = [] ∧ w12s13.dev.chain.transit = [] ∧ w12s13.dev.chain.joined = true ∧ (w12s13.dev.port 2).st = PortSt.upActive ∧ malformedPkt w12s14 = false ∧ ↑w12s14.cls ≠ (7 : Nat) ∧ w12s14.dst.toNat = w12s13.dev.chain.node ∧ w12s14.body = ChainBody.rennetSig 70 5 ∧ w12s13.dev.chain.leaving = false ∧ w12s13.dev.stalePkt w12s14 = false ∧ w12s14.seq = (tgetD w12s13.dev.chain.rx (streamKey w12s14.src.toNat ↑w12s14.cls) { }).next ∧ (tgetD w12s13.dev.chain.rx (streamKey w12s14.src.toNat ↑w12s14.cls) { }).pend < 31) ∧
    (wCh12.dev.chain.waitSend = [] ∧ wCh12.dev.chain.transit = [] ∧ wCh12.dev.chain.joined = true ∧ (wCh12.dev.port 2).st = PortSt.upActive ∧ malformedPkt w12s15 = false ∧ ↑w12s15.cls ≠ (7 : Nat) ∧ w12s15.dst.toNat = wCh12.dev.chain.node ∧ w12s15.body = ChainBody.rennetSig 70 5 ∧ wCh12.dev.chain.leaving = false ∧ wCh12.dev.stalePkt w12s15 = true) ∧
    (wCh12.dev.chain.waitSend = [] ∧ wCh12.dev.chain.transit = [] ∧ wCh12.dev.chain.joined = true ∧ (wCh12.dev.port 2).st = PortSt.upActive ∧ malformedPkt w12s16 = true) ∧
    (wCh12.dev.chain.waitSend = [] ∧ wCh12.dev.chain.transit = [] ∧ wCh12.dev.chain.joined = true ∧ (wCh12.dev.port 2).st = PortSt.upActive ∧ malformedPkt w12s17 = false ∧ w12s17.dst.toNat ≠ wCh12.dev.chain.node ∧ wCh12.dev.chain.portTo w12s17.dst.toNat = some 2 ∧ (wCh12.dev.port 2).calm ∧ (wCh12.dev.port 2).canSend { dst := w12s17.dst, src := w12s17.src, cls := w12s17.cls, vset := if (decide (w12s17.src.toNat / 8 = w12s17.dst.toNat / 8) || decide (w12s17.src.toNat % 8 = w12s17.dst.toNat % 8)) = true then 2 else w12s17.vset, utype := w12s17.utype, sinc := w12s17.sinc, dinc := w12s17.dinc, seq := w12s17.seq, unit := w12s17.unit, uinc := w12s17.uinc, rsvd := w12s17.rsvd, pd := w12s17.pd, ctx := w12s17.ctx, len := w12s17.len, acls := w12s17.acls, tag := w12s17.tag, body := w12s17.body } = true) ∧
    (wCh12.dev.chain.waitSend = [] ∧ wCh12.dev.chain.transit = [] ∧ wCh12.dev.chain.joined = true ∧ (wCh12.dev.port 2).st = PortSt.upActive ∧ malformedPkt w12s18 = false ∧ w12s18.dst.toNat ≠ wCh12.dev.chain.node ∧ wCh12.dev.chain.portTo w12s18.dst.toNat = some 2 ∧ (wCh12.dev.port 2).calm ∧ (wCh12.dev.port 2).canSend { dst := w12s18.dst, src := w12s18.src, cls := w12s18.cls, vset := if (decide (w12s18.src.toNat / 8 = w12s18.dst.toNat / 8) || decide (w12s18.src.toNat % 8 = w12s18.dst.toNat % 8)) = true then 2 else w12s18.vset, utype := w12s18.utype, sinc := w12s18.sinc, dinc := w12s18.dinc, seq := w12s18.seq, unit := w12s18.unit, uinc := w12s18.uinc, rsvd := w12s18.rsvd, pd := w12s18.pd, ctx := w12s18.ctx, len := w12s18.len, acls := w12s18.acls, tag := w12s18.tag, body := w12s18.body } = true) ∧
    (wTx12.dev.chain.waitSend = [] ∧ wTx12.dev.chain.transit = [] ∧ wTx12.dev.chain.joined = true ∧ ↑w12s19.cls = (7 : Nat) ∧ w12s19.dst.toNat = wTx12.dev.chain.node ∧ malformedPkt w12s19 = false ∧ wTx12.dev.stalePkt w12s19 = false ∧ List.findIdx? (fun (x : ChainPkt) => x.seq == w12s19.seq) (tgetD wTx12.dev.chain.tx (streamKey w12s19.src.toNat ↑w12s19.acls) { }).unacked = some 0) ∧
    (wTx12.dev.chain.waitSend = [] ∧ wTx12.dev.chain.transit = [] ∧ wTx12.dev.chain.joined = true ∧ wTx12.dev.live 10 = true ∧ wTx12.dev.chain.route wTx12.dev.chain.node 10 = some (10, 0) ∧ wTx12.dev.chain.portTo 10 = some 2 ∧ (∀ (k' : ChainPkt), (wTx12.dev.port 2).canSend k' = true) ∧ (wTx12.dev.port 2).calm ∧ (tgetD wTx12.dev.chain.rx (streamKey 10 3) { }).pend ≠ 0) ∧
    (wTx12.dev.chain.waitSend = [] ∧ wTx12.dev.chain.transit = [] ∧ wTx12.dev.chain.joined = true ∧ wTx12.dev.live 10 = true ∧ (tgetD wTx12.dev.chain.tx (streamKey 10 2) { }).unacked ≠ []) ∧
    (wTx12.dev.chain.waitSend = [] ∧ wTx12.dev.chain.transit = [] ∧ wTx12.dev.chain.joined = true) ∧
    (wTx12.dev.chain.waitSend = [] ∧ wTx12.dev.chain.transit = [] ∧ wTx12.dev.chain.joined = true ∧ 10 ≠ wTx12.dev.chain.node ∧ wTx12.dev.live 10 = true) ∧
    (w12s20.dev.chain.waitSend = [] ∧ w12s20.dev.chain.transit = [] ∧ w12s20.dev.chain.joined = true ∧ w12s20.dev.upPorts = [] ∧ (w12s20.dev.slot w12s20.dev.chain.node).st = SlotState.live) ∧
    (wTx12.dev.chain.waitSend = [] ∧ wTx12.dev.chain.transit = [] ∧ wTx12.dev.chain.joined = true ∧ 11 ≠ wTx12.dev.chain.node ∧ wTx12.dev.slot 11 = noSlot ∧ (wSl 0).st = SlotState.live ∧ (wSl 0).used = true) ∧
    (wTx12.dev.chain.waitSend = [] ∧ wTx12.dev.chain.transit = [] ∧ wTx12.dev.chain.joined = true ∧ (11 : Fin (64 : Nat)) ≠ (12 : Fin (64 : Nat)) ∧ 11 ≠ wTx12.dev.chain.node ∧ 12 ≠ wTx12.dev.chain.node) ∧
    (wTx12.dev.chain.waitSend = [] ∧ wTx12.dev.chain.transit = [] ∧ wTx12.dev.chain.joined = true ∧ (12 : Fin (64 : Nat)) ≠ (11 : Fin (64 : Nat)) ∧ 12 ≠ wTx12.dev.chain.node ∧ 11 ≠ wTx12.dev.chain.node) :=
  by and_intros <;> first | decide +kernel | exact rfl | exact ne_add_one rfl | exact Or.inr ⟨by decide +kernel, by decide +kernel⟩ | exact canSend_fresh (by decide +kernel)

theorem test_wit_ChainCommandsComplete :
    (wR.dev.adminOpen = true ∧ (wOps [63]).rsvd = false ∧ opsAre (wOps [63]) [63] ∧ 63 < 64 ∧ wR.dev.chain.joined = false ∧ wR.dev.chain.leaving = false) ∧
    (wIdle.dev.adminOpen = true ∧ (wOps []).rsvd = false ∧ opsAre (wOps []) [] ∧ wIdle.dev.stepsBusy = false ∧ wIdle.dev.chain.leaving = false ∧ wIdle.dev.chain.joined = true) ∧
    (wIdle.dev.adminOpen = true ∧ (wOps [5, 0]).rsvd = false ∧ 5 < 16 ∧ opsAre (wOps [5, 0]) [5, 0] ∧ (wIdle.dev.port 5).isUp = false ∧ (wIdle.dev.port 5).st ≠ PortSt.draining) ∧
    (wIdle.dev.adminOpen = true ∧ (wOps [5, 1]).rsvd = false ∧ 5 < 16 ∧ opsAre (wOps [5, 1]) [5, 1] ∧ (wIdle.dev.port 5).st = PortSt.disabled ∧ wIdle.dev.chain.joined = true) ∧
    (wIdle.dev.adminOpen = true ∧ (wOps [2, 2]).rsvd = false ∧ 2 < 16 ∧ opsAre (wOps [2, 2]) [2, 2] ∧ (wIdle.dev.port 2).isUp = true) ∧
    (wIdle.dev.adminOpen = true ∧ (wOps [71213169107800064]).rsvd = false ∧ opsAre (wOps [71213169107800064]) [71213169107800064] ∧ 71213169107800064 < 2 ^ 56 ∧ wIdle.dev.target true 71213169107800064 = Target.host 4096) :=
  by and_intros <;> first | decide +kernel | exact rfl

theorem test_wit_AperturesReachTheDevice :
    (4096 < 2 ^ 28 ∧ wUm13.dev.boot.st = BootSt.ready ∧ (wUm13.dev.apt 31).en = true ∧ (wUm13.dev.apt 31).wr = true ∧ (wUm13.dev.writes.any fun (w : OutW) => w.of (Agent.aperture 31) 0) = false ∧ (wUm13.dev.rennetOut (Agent.aperture 31) fun (x : Nat) => true) = false ∧ wUm13.dev.target false ((wUm13.dev.apt 31).addr 4096) = Target.umr 4096 ∧ wUm13.dev.backed 4096 = true ∧ (0 : Nat) < [(1 : Byte), (2 : Byte), (3 : Byte)].length ∧ (4096 : Nat) % (64 : Nat) + [(1 : Byte), (2 : Byte), (3 : Byte)].length ≤ (64 : Nat)) ∧
    (2097151 < 2 ^ 28 ∧ wUm13.dev.boot.st = BootSt.ready ∧ (wUm13.dev.apt 31).en = true ∧ (wUm13.dev.apt 31).wr = true ∧ (wUm13.dev.writes.any fun (w : OutW) => w.of (Agent.aperture 31) 0) = false ∧ (wUm13.dev.rennetOut (Agent.aperture 31) fun (x : Nat) => true) = false ∧ wUm13.dev.target false ((wUm13.dev.apt 31).addr 2097151) = Target.umr 2097151 ∧ wUm13.dev.backed 2097151 = true ∧ (0 : Nat) < [(1 : Byte)].length ∧ (2097151 : Nat) % (64 : Nat) + [(1 : Byte)].length ≤ (64 : Nat)) ∧
    (64 < 2 ^ 28 ∧ (wApB (255 * 2 ^ 48 + vatBase) id).dev.boot.st = BootSt.ready ∧ ((wApB (255 * 2 ^ 48 + vatBase) id).dev.apt 31).en = true ∧ ((wApB (255 * 2 ^ 48 + vatBase) id).dev.apt 31).wr = true ∧ ((wApB (255 * 2 ^ 48 + vatBase) id).dev.writes.any fun (w : OutW) => w.of (Agent.aperture 31) 0) = false ∧ ((wApB (255 * 2 ^ 48 + vatBase) id).dev.rennetOut (Agent.aperture 31) fun (x : Nat) => true) = false ∧ (wApB (255 * 2 ^ 48 + vatBase) id).dev.target false (((wApB (255 * 2 ^ 48 + vatBase) id).dev.apt 31).addr 64) = Target.vat (vatBase + 64) ∧ (wApB ((255 : Nat) * (2 : Nat) ^ (48 : Nat) + vatBase) id).dev.vatOpen ((wApB ((255 : Nat) * (2 : Nat) ^ (48 : Nat) + vatBase) id).dev.apt (31 : Nat)).ctx.toNat (64 : Nat) [(1 : Byte), (2 : Byte), (3 : Byte)].length = true ∧ (0 : Nat) < [(1 : Byte), (2 : Byte), (3 : Byte)].length ∧ (64 : Nat) % (64 : Nat) + [(1 : Byte), (2 : Byte), (3 : Byte)].length ≤ (64 : Nat)) ∧
    (64 * 70 < 2 ^ 28 ∧ (wApB (255 * 2 ^ 48 + rennetBase) id).dev.boot.st = BootSt.ready ∧ ((wApB (255 * 2 ^ 48 + rennetBase) id).dev.apt 31).en = true ∧ ((wApB (255 * 2 ^ 48 + rennetBase) id).dev.apt 31).wr = true ∧ ((wApB (255 * 2 ^ 48 + rennetBase) id).dev.writes.any fun (w : OutW) => w.of (Agent.aperture 31) 0) = false ∧ ((wApB (255 * 2 ^ 48 + rennetBase) id).dev.rennetOut (Agent.aperture 31) fun (x : Nat) => true) = false ∧ (wApB (255 * 2 ^ 48 + rennetBase) id).dev.target false (((wApB (255 * 2 ^ 48 + rennetBase) id).dev.apt 31).addr (64 * 70)) = Target.rennet 70 0 ∧ [(1 : Byte), (2 : Byte), (3 : Byte), (4 : Byte), (5 : Byte), (6 : Byte), (7 : Byte), (8 : Byte)].length = (8 : Nat)) ∧
    (4096 < 2 ^ 28 ∧ wUm13.dev.boot.st = BootSt.ready ∧ (wUm13.dev.apt 31).en = true ∧ (wUm13.dev.apt 31).rd = true ∧ wUm13.dev.srcBusy (Agent.aperture 31) 0 = false ∧ wUm13.dev.target false ((wUm13.dev.apt 31).addr 4096) = Target.umr 4096 ∧ (wUm13.dev.modHost fun (h : HostIf) => { linkUp := h.linkUp, ap := h.ap, reads := h.reads, readId := h.readId + 1, regions := h.regions, placeDrop := h.placeDrop, dropsSince := h.dropsSince, dropMs := h.dropMs, rings := h.rings, lines := h.lines, notifyIgn := h.notifyIgn, ctxs := h.ctxs, adm := h.adm, admTail := h.admTail, admHead := h.admHead, admBusy := h.admBusy, bg := h.bg, evt := h.evt, evtHead := h.evtHead, evtTail := h.evtTail, evtBind := h.evtBind, evtDrop := h.evtDrop, evtLost := h.evtLost, evtQ := h.evtQ, msix := h.msix, atsCache := h.atsCache, atsAsked := h.atsAsked, irqs := h.irqs }).readGate 4096 8 = Gate.go (wUm13.dev.modHost fun (h : HostIf) => { linkUp := h.linkUp, ap := h.ap, reads := h.reads, readId := h.readId + 1, regions := h.regions, placeDrop := h.placeDrop, dropsSince := h.dropsSince, dropMs := h.dropMs, rings := h.rings, lines := h.lines, notifyIgn := h.notifyIgn, ctxs := h.ctxs, adm := h.adm, admTail := h.admTail, admHead := h.admHead, admBusy := h.admBusy, bg := h.bg, evt := h.evt, evtHead := h.evtHead, evtTail := h.evtTail, evtBind := h.evtBind, evtDrop := h.evtDrop, evtLost := h.evtLost, evtQ := h.evtQ, msix := h.msix, atsCache := h.atsCache, atsAsked := h.atsAsked, irqs := h.irqs }) ∧ wUm13.dev.farLines 4096 8 = [] ∧ wUm13.dev.contended (Agent.aperture 31) = false ∧ wUm13.dev.cohPoison 4096 8 = false) ∧
    (4096 < 2 ^ 28 ∧ (wPo13 wUm13).dev.boot.st = BootSt.ready ∧ ((wPo13 wUm13).dev.apt 31).en = true ∧ ((wPo13 wUm13).dev.apt 31).rd = true ∧ (wPo13 wUm13).dev.srcBusy (Agent.aperture 31) 0 = false ∧ (wPo13 wUm13).dev.target false (((wPo13 wUm13).dev.apt 31).addr 4096) = Target.umr 4096 ∧ ((wPo13 wUm13).dev.modHost fun (h : HostIf) => { linkUp := h.linkUp, ap := h.ap, reads := h.reads, readId := h.readId + 1, regions := h.regions, placeDrop := h.placeDrop, dropsSince := h.dropsSince, dropMs := h.dropMs, rings := h.rings, lines := h.lines, notifyIgn := h.notifyIgn, ctxs := h.ctxs, adm := h.adm, admTail := h.admTail, admHead := h.admHead, admBusy := h.admBusy, bg := h.bg, evt := h.evt, evtHead := h.evtHead, evtTail := h.evtTail, evtBind := h.evtBind, evtDrop := h.evtDrop, evtLost := h.evtLost, evtQ := h.evtQ, msix := h.msix, atsCache := h.atsCache, atsAsked := h.atsAsked, irqs := h.irqs }).readGate 4096 8 = Gate.go ((wPo13 wUm13).dev.modHost fun (h : HostIf) => { linkUp := h.linkUp, ap := h.ap, reads := h.reads, readId := h.readId + 1, regions := h.regions, placeDrop := h.placeDrop, dropsSince := h.dropsSince, dropMs := h.dropMs, rings := h.rings, lines := h.lines, notifyIgn := h.notifyIgn, ctxs := h.ctxs, adm := h.adm, admTail := h.admTail, admHead := h.admHead, admBusy := h.admBusy, bg := h.bg, evt := h.evt, evtHead := h.evtHead, evtTail := h.evtTail, evtBind := h.evtBind, evtDrop := h.evtDrop, evtLost := h.evtLost, evtQ := h.evtQ, msix := h.msix, atsCache := h.atsCache, atsAsked := h.atsAsked, irqs := h.irqs }) ∧ (wPo13 wUm13).dev.farLines 4096 8 = [] ∧ (wPo13 wUm13).dev.contended (Agent.aperture 31) = false ∧ (wPo13 wUm13).dev.cohPoison 4096 8 = true ∧ (wPo13 wUm13).dev.host.canHold = true) ∧
    (4096 < 2 ^ 28 ∧ wCv.dev.boot.st = BootSt.ready ∧ (wCv.dev.apt 31).en = true ∧ (wCv.dev.apt 31).rd = true ∧ wCv.dev.srcBusy (Agent.aperture 31) 0 = false ∧ wCv.dev.target false ((wCv.dev.apt 31).addr 4096) = Target.umr 4096 ∧ (wCv.dev.modHost fun (h : HostIf) => { linkUp := h.linkUp, ap := h.ap, reads := h.reads, readId := h.readId + 1, regions := h.regions, placeDrop := h.placeDrop, dropsSince := h.dropsSince, dropMs := h.dropMs, rings := h.rings, lines := h.lines, notifyIgn := h.notifyIgn, ctxs := h.ctxs, adm := h.adm, admTail := h.admTail, admHead := h.admHead, admBusy := h.admBusy, bg := h.bg, evt := h.evt, evtHead := h.evtHead, evtTail := h.evtTail, evtBind := h.evtBind, evtDrop := h.evtDrop, evtLost := h.evtLost, evtQ := h.evtQ, msix := h.msix, atsCache := h.atsCache, atsAsked := h.atsAsked, irqs := h.irqs }).readGate 4096 8 = Gate.hold wCvH) ∧
    (4096 < 2 ^ 28 ∧ w13s1.dev.boot.st = BootSt.ready ∧ (w13s1.dev.apt 31).en = true ∧ w13s1.dev.host.canHold = true ∧ (w13s1.dev.target false ((w13s1.dev.apt 31).addr 4096) = Target.reserved ∨ w13s1.dev.target false ((w13s1.dev.apt 31).addr 4096) = Target.privileged ∨ (w13s1.dev.apt 31).wr = false ∧ (w13s1.dev.apt 31).rd = false)) ∧
    (4096 < 2 ^ 28 ∧ (wApB (255 * 2 ^ 48 + 280375465082880) id).dev.boot.st = BootSt.ready ∧ ((wApB (255 * 2 ^ 48 + 280375465082880) id).dev.apt 31).en = true ∧ (wApB (255 * 2 ^ 48 + 280375465082880) id).dev.host.canHold = true ∧ ((wApB (255 * 2 ^ 48 + 280375465082880) id).dev.target false (((wApB (255 * 2 ^ 48 + 280375465082880) id).dev.apt 31).addr 4096) = Target.reserved ∨ (wApB (255 * 2 ^ 48 + 280375465082880) id).dev.target false (((wApB (255 * 2 ^ 48 + 280375465082880) id).dev.apt 31).addr 4096) = Target.privileged ∨ ((wApB (255 * 2 ^ 48 + 280375465082880) id).dev.apt 31).wr = false ∧ ((wApB (255 * 2 ^ 48 + 280375465082880) id).dev.apt 31).rd = false)) ∧
    (0 < 2 ^ 28 ∧ List.find? (fun (x : PendRead) => x.id == 4) wRd13.dev.host.reads = some w13s2 ∧ wRd13.dev.host.canHold = true) ∧
    (0 < 2 ^ 28 ∧ BitVec.getLsbD (48358647703819895 : Word) (0 : Nat) = true ∧ (w13s3.dev.apt 31).en = false ∧ (w13s3.dev.apt 31).draining = false) ∧
    (0 < 2 ^ 28 ∧ BitVec.getLsbD (48358647703819895 : Word) (0 : Nat) = true ∧ (w13s4.dev.apt 31).en = false ∧ (w13s4.dev.apt 31).draining = true) ∧
    (0 < 2 ^ 28 ∧ BitVec.getLsbD (48358647703819792 : Word) (0 : Nat) = false ∧ (w13s5.dev.apt 31).en = true) ∧
    (0 < 2 ^ 28 ∧ (w13s4.dev.apt 31).draining = true ∧ (w13s4.dev.writes.any fun (w : OutW) => w.src == Agent.aperture 31 && w.what.isData) = false ∧ (w13s4.dev.host.reads.any fun (r : PendRead) => r.ap == 31 && r.region.isNone) = false) :=
  by and_intros <;> first | decide +kernel | exact eqGo (by decide +kernel) | exact eqHold (by decide +kernel)

theorem test_wit_RegionsAndDoorbellsReachTheDevice :
    ((wRg true (some 5)).dev.boot.st = BootSt.ready ∧ (0 : Nat) < [(1 : Byte)].length ∧ (8191 : Nat) % (64 : Nat) + [(1 : Byte)].length ≤ (64 : Nat) ∧ (wRg true (some (5 : Nat))).dev.regionAt (8191 : Nat) [(1 : Byte)].length = some ((9 : Nat), w13s6) ∧ w13s6.place 8191 = 4095 ∧ (wRg true (some 5)).dev.target true (ownAddr 4095) = Target.umr 4095 ∧ ((wRg true (some 5)).dev.writes.any fun (w : OutW) => w.of (Agent.region 9) 7) = false ∧ ((wRg true (some 5)).dev.rennetOut (Agent.region 9) fun (x : Nat) => true) = false) ∧
    ((wRg false none).dev.boot.st = BootSt.ready ∧ (0 : Nat) < [(1 : Byte), (2 : Byte)].length ∧ (4096 : Nat) % (64 : Nat) + [(1 : Byte), (2 : Byte)].length ≤ (64 : Nat) ∧ (wRg false none).dev.regionAt (4096 : Nat) [(1 : Byte), (2 : Byte)].length = some ((9 : Nat), w13s7) ∧ w13s7.place 4096 = 0 ∧ (wRg false none).dev.target true (ownAddr 0) = Target.umr 0 ∧ ((wRg false none).dev.writes.any fun (w : OutW) => w.of (Agent.region 9) 7) = false ∧ ((wRg false none).dev.rennetOut (Agent.region 9) fun (x : Nat) => true) = false) ∧
    ((wRg false none).dev.boot.st = BootSt.ready ∧ (0 : Nat) < [(1 : Byte), (2 : Byte)].length ∧ (4096 : Nat) % (64 : Nat) + [(1 : Byte), (2 : Byte)].length ≤ (64 : Nat) ∧ (wRg false none).dev.regionAt (4096 : Nat) [(1 : Byte), (2 : Byte)].length = some ((9 : Nat), w13s7) ∧ w13s7.place 4096 = 0 ∧ (wRg false none).dev.target true (ownAddr 0) = Target.umr 0 ∧ ((wRg false none).dev.writes.any fun (w : OutW) => w.of (Agent.region 9) 7) = false ∧ ((wRg false none).dev.rennetOut (Agent.region 9) fun (x : Nat) => true) = false ∧ (wRg false none).dev.regionAt 4096 2 = some (9, w13s7) ∧ w13s7.read = false) ∧
    ((wRg true none).dev.boot.st = BootSt.ready ∧ (0 : Nat) < [(1 : Byte), (2 : Byte)].length ∧ (4096 : Nat) % (64 : Nat) + [(1 : Byte), (2 : Byte)].length ≤ (64 : Nat) ∧ (wRg true none).dev.regionAt (4096 : Nat) [(1 : Byte), (2 : Byte)].length = some ((9 : Nat), w13s8) ∧ w13s8.place 4096 = 0 ∧ (wRg true none).dev.target true (ownAddr 0) = Target.umr 0 ∧ ((wRg true none).dev.writes.any fun (w : OutW) => w.of (Agent.region 9) 7) = false ∧ ((wRg true none).dev.rennetOut (Agent.region 9) fun (x : Nat) => true) = false ∧ (wRg true none).dev.regionAt 4096 2 = some (9, w13s8) ∧ w13s8.read = true ∧ ((wRg true none).dev.writes.any fun w =>     (match w.src with       | Agent.region _ => true       | _ => false) &&       !w.done) =   false ∧ 0 < 2 ∧ 4096 % 4096 + 2 ≤ 4096 ∧ ((wRg true none).dev.modHost fun (h : HostIf) => { linkUp := h.linkUp, ap := h.ap, reads := h.reads, readId := h.readId + 1, regions := h.regions, placeDrop := h.placeDrop, dropsSince := h.dropsSince, dropMs := h.dropMs, rings := h.rings, lines := h.lines, notifyIgn := h.notifyIgn, ctxs := h.ctxs, adm := h.adm, admTail := h.admTail, admHead := h.admHead, admBusy := h.admBusy, bg := h.bg, evt := h.evt, evtHead := h.evtHead, evtTail := h.evtTail, evtBind := h.evtBind, evtDrop := h.evtDrop, evtLost := h.evtLost, evtQ := h.evtQ, msix := h.msix, atsCache := h.atsCache, atsAsked := h.atsAsked, irqs := h.irqs }).readGate 0 2 = Gate.go ((wRg true none).dev.modHost fun (h : HostIf) => { linkUp := h.linkUp, ap := h.ap, reads := h.reads, readId := h.readId + 1, regions := h.regions, placeDrop := h.placeDrop, dropsSince := h.dropsSince, dropMs := h.dropMs, rings := h.rings, lines := h.lines, notifyIgn := h.notifyIgn, ctxs := h.ctxs, adm := h.adm, admTail := h.admTail, admHead := h.admHead, admBusy := h.admBusy, bg := h.bg, evt := h.evt, evtHead := h.evtHead, evtTail := h.evtTail, evtBind := h.evtBind, evtDrop := h.evtDrop, evtLost := h.evtLost, evtQ := h.evtQ, msix := h.msix, atsCache := h.atsCache, atsAsked := h.atsAsked, irqs := h.irqs }) ∧ (wRg true none).dev.farLines 0 2 = []) ∧
    (w13s9.dev.boot.st = BootSt.ready ∧ (0 : Nat) < [(1 : Byte)].length ∧ w13s9.dev.regionAt (5 : Nat) [(1 : Byte)].length = none ∧ w13s9.dev.host.dropMs = some (BitVec.toNat w13s9.dev.hubCount / 24000)) ∧
    (wDr13.dev.boot.st = BootSt.ready ∧ (0 : Nat) < [(1 : Byte)].length ∧ wDr13.dev.regionAt (5 : Nat) [(1 : Byte)].length = none ∧ wDr13.dev.host.dropMs ≠ some (BitVec.toNat wDr13.dev.hubCount / 24000) ∧ wDr13.dev.host.canHold = true) ∧
    (wR.dev.boot.st = BootSt.ready ∧ (0 : Nat) < [(1 : Byte)].length ∧ wR.dev.regionAt (5 : Nat) [(1 : Byte)].length = none ∧ wR.dev.regionAt 5 1 = none) ∧
    (wL.dev.boot.st = BootSt.ready ∧ wL.dev.mustHold (Agent.aperture 0) 0 Path.near Target.reserved false false = false ∧ tget wL.dev.host.lines (4294967297 % 2 ^ (8 * 4)) = some w13s10 ∧ ((0 : BitVec (12 : Nat)) = (0 : BitVec (12 : Nat)) ∧ ((4 : Nat) = (4 : Nat) ∨ (4 : Nat) = (8 : Nat)) ∧ (4294967297 : Nat) % (2 : Nat) ^ ((8 : Nat) * (4 : Nat)) < (1024 : Nat) ∧ w13s10.pd.toNat = (4 : Nat))) ∧
    (wL.dev.boot.st = BootSt.ready ∧ wL.dev.mustHold (Agent.aperture 0) 0 Path.near Target.reserved false false = false ∧ (∀ (l : DbLine), tget wL.dev.host.lines ((1025 : Nat) % (2 : Nat) ^ ((8 : Nat) * (8 : Nat))) = some l → ¬((0 : BitVec (12 : Nat)) = (0 : BitVec (12 : Nat)) ∧ ((8 : Nat) = (4 : Nat) ∨ (8 : Nat) = (8 : Nat)) ∧ (1025 : Nat) % (2 : Nat) ^ ((8 : Nat) * (8 : Nat)) < (1024 : Nat) ∧ l.pd.toNat = (4 : Nat)))) ∧
    (wL.dev.boot.st = BootSt.ready ∧ wL.dev.mustHold (Agent.aperture 0) 0 Path.near Target.reserved false false = false ∧ (∀ (l : DbLine), tget wL.dev.host.lines ((0 : Nat) % (2 : Nat) ^ ((8 : Nat) * (8 : Nat))) = some l → ¬((8 : BitVec (12 : Nat)) = (0 : BitVec (12 : Nat)) ∧ ((8 : Nat) = (4 : Nat) ∨ (8 : Nat) = (8 : Nat)) ∧ (0 : Nat) % (2 : Nat) ^ ((8 : Nat) * (8 : Nat)) < (1024 : Nat) ∧ l.pd.toNat = (4 : Nat)))) ∧
    (wNh.dev.boot.st = BootSt.ready ∧ wNh.dev.mustHold (Agent.aperture 0) 0 Path.near Target.reserved false false = true) ∧
    (wDbl.dev.boot.st = BootSt.ready ∧ tget wDbl.dev.host.lines 1 = some w13s11 ∧ w13s11.pending = true ∧ wDbl.dev.fwHolds w13s11.addr 64 = none ∧ wDbl.dev.fwRead w13s11.addr 64 [0, 0, 0, 0, 5, 0, 0, 0, 99] = Except.ok ([0, 0, 0, 0, 5, 0, 0, 0, 99] ++ List.replicate 55 0)) ∧
    (wDbH.dev.boot.st = BootSt.ready ∧ tget wDbH.dev.host.lines 1 = some w13s12 ∧ w13s12.pending = true ∧ wDbH.dev.fwHolds w13s12.addr 64 = some ((wDbH.dev.fwHolds (↑(ownAddr 4096)) 64).getD wDev)) ∧
    (w13s13.dev.boot.st = BootSt.ready ∧ w13s13.dev.ctx? 3 = some w13s14 ∧ w13s13.dev.fwHolds w13s14.head 8 = none ∧ w13s13.dev.fwRead w13s14.head 8 [7] = Except.ok [7, 0, 0, 0, 0, 0, 0, 0]) ∧
    ((wMm true).dev.boot.st = BootSt.ready ∧ (wMm true).dev.ctx? 3 = some w13s15 ∧ w13s15.unsig ≠ 0 ∧ BitVec.getLsbD w13s15.bind 0 = false) ∧
    ((wMm false).dev.boot.st = BootSt.ready ∧ (wMm false).dev.ctx? 3 = some w13s15 ∧ w13s15.unsig ≠ 0 ∧ BitVec.getLsbD w13s15.bind 0 = false) ∧
    (wC.dev.boot.st = BootSt.ready ∧ wC.dev.ctx? 3 = some wCtx ∧ wCtx.unsig = 0) :=
  by and_intros <;> first | decide +kernel | exact eqGo (by decide +kernel) | exact eqOk (by decide +kernel)

theorem test_wit_RingsAndFunctionLevelResetAct :
    ((wEq 0 false).dev.host.evtRoom ≠ 0 ∧ (wEq 0 false).dev.host.evtQ = [w13s16, { kind := 6 }] ∧ (wEq 0 false).dev.target true (BitVec.toNat ((wEq 0 false).dev.host.evt.base + BitVec.ofNat 64 (32 * ((wEq 0 false).dev.host.evtTail.toNat % 2 ^ (wEq 0 false).dev.host.evt.log2)))) = Target.host 16384 ∧ BitVec.getLsbD (wEq 0 false).dev.host.evtBind 0 = false ∧ ((wEq 0 false).dev.writes.any fun (w : OutW) => w.src == Agent.firmware) = false) ∧
    ((wEq 3 true).dev.host.evtRoom ≠ 0 ∧ (wEq 3 true).dev.host.evtQ = [w13s16, { kind := 6 }] ∧ (wEq 3 true).dev.target true (BitVec.toNat ((wEq 3 true).dev.host.evt.base + BitVec.ofNat 64 (32 * ((wEq 3 true).dev.host.evtTail.toNat % 2 ^ (wEq 3 true).dev.host.evt.log2)))) = Target.host 16384 ∧ BitVec.getLsbD (wEq 3 true).dev.host.evtBind 0 = false ∧ ((wEq 3 true).dev.writes.any fun (w : OutW) => w.src == Agent.firmware) = false) ∧
    (w13s17.dev.host.evtRoom = 0) ∧
    ((wC.dev.host.adm.en = false ∨ (18 - wC.dev.host.admHead).toNat ≤ 2 ^ wC.dev.host.adm.log2)) ∧
    (wC.dev.host.adm.en = true ∧ 2 ^ wC.dev.host.adm.log2 < (19 - wC.dev.host.admHead).toNat) ∧
    (knownOp (fld ((458752 : BitVec (512 : Nat)) + (254 : BitVec (512 : Nat))).toNat (0 : Nat) (8 : Nat)) = false ∧ (wC.dev.modHost fun (h : HostIf) => { linkUp := h.linkUp, ap := h.ap, reads := h.reads, readId := h.readId, regions := h.regions, placeDrop := h.placeDrop, dropsSince := h.dropsSince, dropMs := h.dropMs, rings := h.rings, lines := h.lines, notifyIgn := h.notifyIgn, ctxs := h.ctxs, adm := h.adm, admTail := 3, admHead := h.admHead, admBusy := h.admBusy, bg := h.bg, evt := h.evt, evtHead := h.evtHead, evtTail := h.evtTail, evtBind := h.evtBind, evtDrop := h.evtDrop, evtLost := h.evtLost, evtQ := h.evtQ, msix := h.msix, atsCache := h.atsCache, atsAsked := h.atsAsked, irqs := h.irqs }).adminOpen = true ∧ (3 - wC.dev.host.admHead).toNat ≤ 2 ^ wC.dev.host.adm.log2) ∧
    (fld 3332 0 4 = 4 ∧ BitVec.getLsbD (3332 : Word) (8 : Nat) = true ∧ w13s18.dev.host.adm.en = false ∧ w13s18.dev.host.adm.draining = false ∧ 4 ≤ 4 ∧ 4 ≤ 12 ∧ (w13s18.dev.host.admTail - w13s18.dev.host.admHead).toNat ≤ 2 ^ 4) ∧
    (fld 268 0 4 = 12 ∧ BitVec.getLsbD (268 : Word) (8 : Nat) = true ∧ w13s18.dev.host.adm.en = false ∧ w13s18.dev.host.adm.draining = false ∧ 4 ≤ 12 ∧ 12 ≤ 12 ∧ (w13s18.dev.host.admTail - w13s18.dev.host.admHead).toNat ≤ 2 ^ 12) ∧
    (fld 259 0 4 = 3 ∧ BitVec.getLsbD (259 : Word) (8 : Nat) = true ∧ w13s19.dev.host.adm.en = false ∧ w13s19.dev.host.adm.draining = false ∧ (3 < 4 ∨ 12 < 3)) ∧
    (fld 269 0 4 = 13 ∧ BitVec.getLsbD (269 : Word) (8 : Nat) = true ∧ w13s19.dev.host.adm.en = false ∧ w13s19.dev.host.adm.draining = false ∧ (13 < 4 ∨ 12 < 13)) ∧
    (fld 260 0 4 = 4 ∧ BitVec.getLsbD (260 : Word) (8 : Nat) = true ∧ w13s20.dev.host.adm.en = false ∧ w13s20.dev.host.adm.draining = true) ∧
    (BitVec.getLsbD (4 : Word) (8 : Nat) = false ∧ wC.dev.host.adm.en = true) ∧
    (fld 3336 0 5 = 8 ∧ BitVec.getLsbD (3336 : Word) (8 : Nat) = true ∧ w13s21.dev.host.evt.en = false ∧ w13s21.dev.host.evt.draining = false ∧ 8 ≤ 8 ∧ 8 ≤ 16) ∧
    (fld 273 0 5 = 17 ∧ BitVec.getLsbD (273 : Word) (8 : Nat) = true ∧ w13s22.dev.host.evt.en = false ∧ w13s22.dev.host.evt.draining = false ∧ (17 < 8 ∨ 16 < 17)) ∧
    (BitVec.getLsbD (8 : Word) (8 : Nat) = false ∧ wC.dev.host.evt.en = true) ∧
    (wC.dev.host.admBusy = false) ∧
    (wFl.dev.sched.steps = [] ∧ wFl.dev.faults.contain = none) :=
  by and_intros <;> decide +kernel

theorem test_wit_SetUpRegistersAct :
    ((wHr 17179869183).dev.boot.st = BootSt.ready ∧ (wHr 17179869183).dev.unitUp (coreUnit 33) = true ∧ ((wHr 17179869183).dev.core 33).run = HartRun.reset ∧ ((wHr 17179869183).dev.core 33).starting = false ∧ (Two.get (wHr 17179869183).dev.regs.rvec (halfOf (decide (32 ≤ 33)))).toNat < 2 ^ 34 ∧ (wHr 17179869183).dev.domSt (pdGroup (halfOf (decide (32 ≤ 33))) (33 % 32 / 8)) = DomSt.on) ∧
    ((wHr 17179869184).dev.boot.st = BootSt.ready ∧ (wHr 17179869184).dev.unitUp (coreUnit 33) = true ∧ ((wHr 17179869184).dev.core 33).run = HartRun.reset ∧ ((wHr 17179869184).dev.core 33).starting = false ∧ 2 ^ 34 ≤ (Two.get (wHr 17179869184).dev.regs.rvec (halfOf (decide (32 ≤ 33)))).toNat) ∧
    (w13s27.dev.debugUp = true) ∧
    (w13s27.dev.debugUp = true ∧ (w13s27.dev.apt 31).en = false ∧ (w13s27.dev.apt 31).draining = false) ∧
    (w13s27.dev.debugUp = true ∧ (2 ≠ 4 ∧ 2 ≠ 8 ∨ 20488 % 2 ≠ 0)) ∧
    (w13s27.dev.debugUp = true ∧ (8 ≠ 4 ∧ 8 ≠ 8 ∨ 20492 % 8 ≠ 0)) ∧
    (w13s27.dev.debugUp = true ∧ 4088 < 4096) :=
  by and_intros <;> decide +kernel

theorem test_wit_AdminCommandsOnContextsAndRings :
    (wS.dev.adminOpen = true ∧ (wOps [3, 4, 64, 6, 8, 0, 515]).rsvd = false ∧ opsAre (wOps [3, 4, 64, 6, 8, 0, 515]) [3#64, 4#64, 64, 6#64, 8, 0, BitVec.ofNat 64 (3 + 256 * 2)] ∧ 6 ≤ 6 ∧ 6 ≤ 16 ∧ 64 % 32 = 0 ∧ 64 < 2 ^ 56 ∧ 8 % 8 = 0 ∧ 8 < 2 ^ 56 ∧ bindOk 0 = true ∧ wS.dev.ctx? 3 = none) ∧
    (wC.dev.adminOpen = true ∧ (wOps [3]).rsvd = false ∧ wC.dev.ctx? 3 = some wCtx ∧ wCtx.destroying = false ∧ opsAre (wOps [3]) [3#64] ∧ (List.any wC.dev.sched.steps fun (p : Nat × Step) => p.2.ctx == 3) = false ∧ (List.any wC.dev.host.rings fun (r : Nat × Machine.Ring) => r.2.ctx == 3 && r.2.enabled && !r.2.overrun && !r.2.destroying) = false ∧ (List.any wC.dev.host.regions fun (r : Nat × PRegion) => r.2.ctx == 3) = false) ∧
    (wC.dev.adminOpen = true ∧ (wOps [3, 17, 5]).rsvd = false ∧ wC.dev.ctx? 3 = some wCtx ∧ wCtx.destroying = false ∧ opsAre (wOps [3, 17, 5]) [3#64, 17#64, 5#64] ∧ wC.dev.ctxSteps 3 = false) ∧
    (wC.dev.adminOpen = true ∧ (wOps [3, 16, 60000000, 3]).rsvd = false ∧ wC.dev.ctx? 3 = some wCtx ∧ wCtx.destroying = false ∧ opsAre (wOps [3, 16, 60000000, 3]) [3#64, 16#64, 60000000#64, 3#64] ∧ 3 ≠ 4095 ∧ 1 ≤ 16 ∧ 16 ≤ 16 ∧ 1000 ≤ 60000000 ∧ 60000000 ≤ 60000000 ∧ 3 < 4) ∧
    (wC.dev.adminOpen = true ∧ (wOps [3, 0, 9]).rsvd = false ∧ wC.dev.ctx? 3 = some wCtx ∧ wCtx.destroying = false ∧ opsAre (wOps [3, 0, 9]) [3#64, 0, 9#64] ∧ 0 % 64 = 0 ∧ 0 < 2 ^ 56 ∧ ((0 : Word) = (0 : Word) ∨ wC.dev.hostOrUmr (0 : Nat) = true)) ∧
    (w14s1.dev.adminOpen = true ∧ (wOps [3]).rsvd = false ∧ w14s1.dev.ctx? 3 = some w14s2 ∧ w14s2.destroying = false ∧ opsAre (wOps [3]) [3#64] ∧ w14s2.acct.buf ≠ 0 ∧ 4096 + 256 < 2 ^ 48 ∧ w14s1.dev.target true (BitVec.toNat w14s2.acct.buf) = Target.host 4096) ∧
    (wC.dev.adminOpen = true ∧ (wOps [3]).rsvd = false ∧ wC.dev.ctx? 3 = some wCtx ∧ wCtx.destroying = false ∧ opsAre (wOps [3]) [3#64]) ∧
    (wL.dev.adminOpen = true ∧ (wOps [17, 3, 2, 71213169107808256, 4]).rsvd = false ∧ wL.dev.ctx? 3 = some wCtx ∧ wCtx.destroying = false ∧ opsAre (wOps [17, 3, 2, 71213169107808256, 4]) [17#64, 3#64, 2#64, 71213169107808256, 4#64] ∧ 71213169107808256 % 64 = 0 ∧ 71213169107808256 < 2 ^ 56 ∧ 4 ≤ 4 ∧ 4 ≤ 15 ∧ wL.dev.hostOrUmr 71213169107808256 = true ∧ tget wL.dev.host.rings 17 = none ∧ tget wL.dev.host.lines (17 / 16) = some w14s3 ∧ w14s3.pd = wCtx.pd ∧ wL.dev.fwHolds w14s3.addr 64 = none ∧ wL.dev.fwRead w14s3.addr 64 [0, 0, 0, 0, 5] = Except.ok ([0, 0, 0, 0, 5] ++ List.replicate 59 0)) ∧
    (wR.dev.adminOpen = true ∧ (wOps [17]).rsvd = false ∧ opsAre (wOps [17]) [17#64] ∧ tget wR.dev.host.rings 17 = some w14s4 ∧ w14s4.destroying = false) ∧
    (wR.dev.adminOpen = true ∧ (wOps [2, 4, 64]).rsvd = false ∧ opsAre (wOps [2, 4, 64]) [2#64, 4#64, 64] ∧ 64 % 64 = 0 ∧ 64 < 2 ^ 56 ∧ (List.any wR.dev.host.rings fun (r : Nat × Machine.Ring) => r.1 / 16 == 2) = false) ∧
    (wR.dev.adminOpen = true ∧ (wOps [1, 4, 64]).rsvd = false ∧ opsAre (wOps [1, 4, 64]) [1#64, 4#64, 64] ∧ 64 % 64 = 0 ∧ 64 < 2 ^ 56 ∧ (List.any wR.dev.host.rings fun (r : Nat × Machine.Ring) => r.1 / 16 == 1) = true) ∧
    (w14s5.dev.adminOpen = true ∧ (wOps [1, 134217728]).rsvd = false ∧ opsAre (wOps [1, 134217728]) [1#64, BitVec.ofNat 64 (64 * 2 ^ 20 * 2)] ∧ 2 < 2 ^ 30 ∧ w14s5.dev.faults.contain = none ∧ (Two.get w14s5.dev.sched.half (halfOfNat 1)).saveBytes ≤ 64 * 2 ^ 20 * 2 + w14s5.dev.saveFree (halfOfNat 1) ∧ w14s5.dev.hbmUsed (halfOfNat 1) + 64 * 2 ≤ w14s5.dev.hbmMiB (halfOfNat 1) + (Two.get w14s5.dev.sched.half (halfOfNat 1)).saveBytes / 2 ^ 20) :=
  by and_intros <;> first | decide +kernel | exact rfl | exact eqOk (by decide +kernel)

theorem test_wit_AdminCommandsOnRegionsRennetAndTranslation :
    (wC.dev.adminOpen = true ∧ (wOps [9, 3, 4096, 4096, 8192, 131077, 1]).rsvd = false ∧ opsAre (wOps [9, 3, 4096, 4096, 8192, 131077, 1]) [9#64, 3#64, BitVec.ofNat 64 (4096 * 1), BitVec.ofNat 64 (4096 * 1), 8192, 131077#64, BitVec.ofNat 64 (b2n true)] ∧ 0 < 1 ∧ 1 + 1 ≤ 2 ^ 24 ∧ 8192 % 4096 = 0 ∧ wC.dev.ctxLive 3 = true ∧ tget wC.dev.host.regions 9 = none ∧ (List.any wC.dev.host.regions fun (p : Nat × PRegion) => decide (4096 * 1 < p.2.off + p.2.len) && decide (p.2.off < 4096 * (1 + 1))) = false ∧ wC.dev.regionPages 3 true 1 8192 = Except.ok [2]) ∧
    ((wG RegSt.on).dev.adminOpen = true ∧ (wOps [8, 3, 4096, 4096, 8192, 131077, 1]).rsvd = false ∧ opsAre (wOps [8, 3, 4096, 4096, 8192, 131077, 1]) [8#64, 3#64, BitVec.ofNat 64 (4096 * 1), BitVec.ofNat 64 (4096 * 1), 8192, 131077#64, BitVec.ofNat 64 (b2n true)] ∧ 0 < 1 ∧ 1 + 1 ≤ 2 ^ 24 ∧ 8192 % 4096 = 0 ∧ (wG RegSt.on).dev.ctxLive 3 = true ∧ tget (wG RegSt.on).dev.host.regions 8 = none ∧ (List.any (wG RegSt.on).dev.host.regions fun (p : Nat × PRegion) => decide (4096 * 1 < p.2.off + p.2.len) && decide (p.2.off < 4096 * (1 + 1))) = true) ∧
    ((wG RegSt.off).dev.adminOpen = true ∧ (wOps [9]).rsvd = false ∧ opsAre (wOps [9]) [9#64] ∧ tget (wG RegSt.off).dev.host.regions 9 = some wReg ∧ (wReg.st = RegSt.off ∨ wReg.st = RegSt.enabling) ∧ (wReg.frames.all fun (f : Nat) => (wG RegSt.off).dev.backing (f * frameSize) != Back.cave) = true) ∧
    ((wG RegSt.on).dev.adminOpen = true ∧ (wOps [9]).rsvd = false ∧ opsAre (wOps [9]) [9#64] ∧ tget (wG RegSt.on).dev.host.regions 9 = some w14s6 ∧ w14s6.st ≠ RegSt.off) ∧
    ((wG RegSt.off).dev.adminOpen = true ∧ (wOps [9]).rsvd = false ∧ opsAre (wOps [9]) [9#64] ∧ tget (wG RegSt.off).dev.host.regions 9 = some wReg ∧ wReg.st = RegSt.off) ∧
    ((wG RegSt.off).dev.adminOpen = true ∧ (wOps [1, 65536]).rsvd = false ∧ 16 ≤ 16 ∧ opsAre (wOps [1, 65536]) [1#64, BitVec.ofNat 64 (4096 * 16)] ∧ (wG RegSt.off).dev.objsHeld (halfOfNat 1) (min (Two.get (wG RegSt.off).dev.rennet.pool (halfOfNat 1)) (4096 * 16)) (max (Two.get (wG RegSt.off).dev.rennet.pool (halfOfNat 1)) (4096 * 16)) = false) ∧
    ((wO (some (ROwner.ctx 3))).dev.adminOpen = true ∧ (wOps [0, 0]).rsvd = false ∧ 0 ≤ 16 ∧ opsAre (wOps [0, 0]) [0#64, BitVec.ofNat 64 (4096 * 0)] ∧ (wO (some (ROwner.ctx 3))).dev.objsHeld (halfOfNat 0) (min (Two.get (wO (some (ROwner.ctx 3))).dev.rennet.pool (halfOfNat 0)) (4096 * 0)) (max (Two.get (wO (some (ROwner.ctx 3))).dev.rennet.pool (halfOfNat 0)) (4096 * 0)) = true) ∧
    ((wO none).dev.adminOpen = true ∧ (wOps [3, 0, 4]).rsvd = false ∧ opsAre (wOps [3, 0, 4]) [3#64, 0#64, 4#64] ∧ 0 < 4 ∧ 4 ≤ 65536 ∧ (wO none).dev.ctxLive 3 = true ∧ (wO none).dev.freeRun (halfOfNat 0) 4 = some 4096) ∧
    ((wO (some (ROwner.ctx 3))).dev.adminOpen = true ∧ (wOps [70000, 1]).rsvd = false ∧ opsAre (wOps [70000, 1]) [70000#64, 1#64] ∧ 0 < 1 ∧ 70000 + 1 ≤ 131072 ∧ (wO (some (ROwner.ctx 3))).dev.rennet.waiters = [] ∧ (wO (some (ROwner.ctx 3))).dev.chain.waitSend = [] ∧ (wO (some (ROwner.ctx 3))).dev.chain.transit = [] ∧ (∀ j < 1, ∃ (n : Nat), ((wO (some (ROwner.ctx 3))).dev.obj (70000 + j)).owner = some (ROwner.ctx n))) ∧
    (wS.dev.adminOpen = true ∧ (wOps [70000, 1]).rsvd = false ∧ opsAre (wOps [70000, 1]) [70000, 1] ∧ 70000 < 2 ^ 56) ∧
    (wC.dev.adminOpen = true ∧ (wOps [3]).rsvd = false ∧ opsAre (wOps [3]) [3#64] ∧ (3 = 4095 ∨ (wC.dev.ctx? 3).isSome = true)) ∧
    (wC.dev.adminOpen = true ∧ (wOps [3, 71213169107800064, 16, 0]).rsvd = false ∧ opsAre (wOps [3, 71213169107800064, 16, 0]) [3#64, 71213169107800064, 16#64, 0] ∧ 71213169107800064 % 32 = 0 ∧ 71213169107800064 < 2 ^ 56 ∧ 6 ≤ 16 ∧ 16 ≤ 16 ∧ bindOk 0 = true ∧ wC.dev.hostOrUmr 71213169107800064 = true ∧ wC.dev.ctx? 3 = some wCtx ∧ wCtx.destroying = false) ∧
    (wC.dev.adminOpen = true ∧ (wOps [2047, 0]).rsvd = false ∧ opsAre (wOps [2047, 0]) [2047#64, BitVec.ofNat 64 (b2n false)] ∧ tget (Two.get wC.dev.xlate (halfOfNat (2047 / 1024))).recs (2047 % 1024) = none) ∧
    (wC.dev.adminOpen = true ∧ (wOps [3, 4096, 8192]).rsvd = false ∧ opsAre (wOps [3, 4096, 8192]) [3#64, 4096, 8192] ∧ wC.dev.ctxLive 3 = true ∧ (List.any wC.dev.host.regions fun (r : Nat × PRegion) => r.2.ctx == (3 : Nat) && r.2.st == RegSt.on && ((8192 : Word) == (0 : Word) || decide (BitVec.toNat r.2.vbase < (4096 : Nat) + (8192 : Nat)) && decide ((4096 : Nat) < BitVec.toNat r.2.vbase + r.2.len))) = false) ∧
    (w14s7.dev.adminOpen = true ∧ (wOps [2047, 1]).rsvd = false ∧ opsAre (wOps [2047, 1]) [2047#64, BitVec.ofNat 64 (b2n true)] ∧ tget (Two.get w14s7.dev.xlate (halfOfNat (2047 / 1024))).recs (2047 % 1024) = some wQ ∧ (Two.get w14s7.dev.xlate (halfOfNat (2047 / 1024))).waiting = [] ∧ wQ.users = []) ∧
    (w14s8.dev.adminOpen = true ∧ (wOps [3, 4096, 8192]).rsvd = false ∧ opsAre (wOps [3, 4096, 8192]) [3#64, 4096, 8192] ∧ w14s8.dev.ctxLive 3 = true ∧ (List.any w14s8.dev.host.regions fun (r : Nat × PRegion) => r.2.ctx == (3 : Nat) && r.2.st == RegSt.on && ((8192 : Word) == (0 : Word) || decide (BitVec.toNat r.2.vbase < (4096 : Nat) + (8192 : Nat)) && decide ((4096 : Nat) < BitVec.toNat r.2.vbase + r.2.len))) = false) :=
  by and_intros <;> first | decide +kernel | exact rfl | exact eqOk (by decide +kernel) | exact fun j hj => ⟨3, by obtain rfl : j = 0 := (by omega); decide +kernel⟩

theorem test_wit_AdminCommandsOnMemoryComplete :
    (wF.dev.adminOpen = true ∧ (wOps [5, 2, 3, 1, 1, 0]).rsvd = false ∧ opsAre (wOps [5, 2, 3, 1, 1, 0]) [5#64, 2#64, 3#64, 1#64, BitVec.ofNat 64 (b2n true), BitVec.ofNat 64 (b2n false)] ∧ 0 < 2 ∧ 5 + 2 ≤ 2 ^ 25 ∧ wF.dev.ctxLive 3 = true ∧ (List.any wF.dev.tiers.allocs fun (a : Nat × Alloc) => spans 5 2 a.2) = false ∧ List.find? (fun (i : Nat) => !thas wF.dev.tiers.allocs i) (List.range 65536) = some 0 ∧ allocFrames 2 5 { policy := policyOf 1, il := true, home := halfOf false, ctx := 3 } wF.dev.trimCave = some wF2 ∧ wF.Safe) ∧
    (wF.dev.adminOpen = true ∧ (wOps [6]).rsvd = false ∧ tget wF.dev.tiers.allocs 6 = some wA ∧ wA.freeing = false ∧ opsAre (wOps [6]) [6#64]) ∧
    (wFl14.dev.adminOpen = true ∧ (wOps [6]).rsvd = false ∧ tget wFl14.dev.tiers.allocs 6 = some wA ∧ wA.freeing = false ∧ opsAre (wOps [6]) [6#64]) ∧
    (w14s9.dev.adminOpen = true ∧ (wOps [6, 9]).rsvd = false ∧ tget w14s9.dev.tiers.allocs 6 = some wA ∧ wA.freeing = false ∧ opsAre (wOps [6, 9]) [6#64, 9#64] ∧ w14s9.dev.ctxLive 9 = true ∧ 9 ≠ wA.ctx ∧ wA.attach.contains 9 = false) ∧
    (wF.dev.adminOpen = true ∧ (wOps [6, 5]).rsvd = false ∧ tget wF.dev.tiers.allocs 6 = some wA ∧ wA.freeing = false ∧ opsAre (wOps [6, 5]) [6#64, 5#64] ∧ wA.attach.contains 5 = true) ∧
    (wF.dev.adminOpen = true ∧ (wOps [6, 3]).rsvd = false ∧ tget wF.dev.tiers.allocs 6 = some wA ∧ wA.freeing = false ∧ opsAre (wOps [6, 3]) [6#64, 3#64]) ∧
    (wF.dev.adminOpen = true ∧ (wOps [6, 2, 119]).rsvd = false ∧ tget wF.dev.tiers.allocs 6 = some wA ∧ wA.freeing = false ∧ 0 < 2 ∧ 119 < 2 ^ 56 ∧ opsAre (wOps [6, 2, 119]) [6#64, 2#64, 119]) ∧
    (wF.dev.adminOpen = true ∧ (wOps [1, 2, 71213169107800064]).rsvd = false ∧ opsAre (wOps [1, 2, 71213169107800064]) [1#64, 2#64, 71213169107800064] ∧ 1 + 2 ≤ 2 ^ 25 ∧ 71213169107800064 < 2 ^ 56 ∧ wF.dev.target true 71213169107800064 = Target.host 4096) ∧
    (wF.dev.adminOpen = true ∧ (wOps [3, 2, 77]).rsvd = false ∧ 0 < 2 ∧ 77 ≤ 2 ^ 25 ∧ opsAre (wOps [3, 2, 77]) [3#64, 2#64, 77#64] ∧ wF.dev.ctx? 3 = some w14s10 ∧ w14s10.destroying = false) ∧
    (wF.dev.adminOpen = true ∧ (wOps [1000, 255, 254, 25, 128, 16]).rsvd = false ∧ opsAre (wOps [1000, 255, 254, 25, 128, 16]) [1000#64, 255#64, 254#64, 25#64, 128#64, 16#64] ∧ 1 ≤ 1000 ∧ 1000 ≤ 1000 ∧ 255 ≤ 255 ∧ 254 < 255 ∧ 1 ≤ 25 ∧ 25 ≤ 25 ∧ 128 ≤ 128 ∧ 1 ≤ 16 ∧ 16 ≤ 16) ∧
    (wF.dev.adminOpen = true ∧ (wOps [40]).rsvd = false ∧ 7 ≤ 40 ∧ 40 ≤ 40 ∧ opsAre (wOps [40]) [40#64]) ∧
    (wF.dev.adminOpen = true ∧ (wOps [168]).rsvd = false ∧ 1 ≤ 168 ∧ 168 ≤ 168 ∧ opsAre (wOps [168]) [168#64]) ∧
    (wF.dev.adminOpen = true ∧ (wOps [71213169107800064]).rsvd = false ∧ opsAre (wOps [71213169107800064]) [71213169107800064] ∧ 71213169107800064 < 2 ^ 56 ∧ wF.dev.target true 71213169107800064 = Target.host 4096) ∧
    (w14s11.dev.adminOpen = true ∧ (wOps [1, 5, 1, 64]).rsvd = false ∧ opsAre (wOps [1, 5, 1, 64]) [1#64, 5#64, BitVec.ofNat 64 (b2n true), 64] ∧ 64 < 2 ^ 56 ∧ w14s11.dev.grants 5 = true ∧ bit (Two.get w14s11.dev.hbm.half (halfOfNat 1)).usable.toNat 5 = true ∧ w14s11.dev.hbm.margin = none) ∧
    (wF.dev.adminOpen = true ∧ (wOps [1, 5, 1, 64]).rsvd = false ∧ opsAre (wOps [1, 5, 1, 64]) [1#64, 5#64, BitVec.ofNat 64 (b2n true), 64] ∧ 64 < 2 ^ 56 ∧ wF.dev.grants 5 = false) ∧
    (tget (wB14 (Background.caveParams 12)).dev.host.bg 4 = some (9, Background.caveParams 12)) ∧
    (tget (wB14 (Background.ringDestroy 17)).dev.host.bg 4 = some (9, Background.ringDestroy 17) ∧ (List.any (wB14 (Background.ringDestroy 17)).dev.sched.steps fun (p : Nat × Step) => p.2.ring == 17) = false) ∧
    (tget (wB14 (Background.invalidate 3)).dev.host.bg 4 = some (9, Background.invalidate 3) ∧ (wB14 (Background.invalidate 3)).dev.usesLeft 3 = false) ∧
    (tget (wB14 (Background.invalidate 3)).dev.host.bg 4 = some (9, Background.invalidate 3) ∧ Background.invalidate 3 ≠ Background.powerCold ∧ (∀ (m : List Byte), Background.invalidate 3 ≠ Background.secReturn m) ∧ (wB14 (Background.invalidate 3)).dev.bgEnd 4 (Background.invalidate 3) = some (0, (Option.map (fun (x : Nat × Dev) => x.2) ((wB14 (Background.invalidate 3)).dev.bgEnd 4 (Background.invalidate 3))).getD wDev)) ∧
    (tget (wB14 Background.powerCold).dev.host.bg 4 = some (9, Background.powerCold) ∧ (wB14 Background.powerCold).dev.chain.joined = false) ∧
    (tget wC.dev.host.bg 4 = none) :=
  by and_intros <;> first | decide +kernel | exact rfl | exact safeOf (by decide +kernel) | exact (by intro m; exact nofun)

theorem test_wit_SecurityAndDebugCommandsComplete :
    (wE.dev.power.vinOk = true) ∧
    (wE.dev.power.vinOk = true ∧ wE.dev.sec.mboxReturn = none) ∧
    (wE.dev.host.linkUp = true) ∧
    (wDb16.dev.debugUp = true ∧ wDb16.dev.sec.mods.length = 3) ∧
    (dbgTarget w16s1.die ↑w16s1.hartsel = DbgT.core 33 ∧ wHl16.dev.dbgReach (DbgT.core 33) = (DbgAns.open_, wHl16.dev)) ∧
    (dbgTarget w16s1.die ↑w16s1.hartsel = DbgT.core 33 ∧ wHl16.dev.dbgReach (DbgT.core 33) = (DbgAns.open_, wHl16.dev) ∧ (wHl16.dev.core 33).halted = true) ∧
    (dbgTarget w16s1.die ↑w16s1.hartsel = DbgT.core 33 ∧ wHl16.dev.dbgReach (DbgT.core 33) = (DbgAns.open_, wHl16.dev) ∧ (wHl16.dev.core 33).halted = true ∧ wHl16.dev.sec.mods.length = 3 ∧ (wHl16.dev.dbgMod w16s1.die).cmderr = 0) ∧
    (wVr16.dev.debugUp = true ∧ wVr16.dev.sec.session.isSome = true ∧ BitVec.toNat (gaddr (vatBase + 4096)) % 8 = 0 ∧ wVr16.dev.target false (BitVec.toNat (gaddr (vatBase + 4096))) = Target.vat (vatBase + 4096) ∧ wVr16.dev.dbgAsk 2 (pdVat (vatHalf (vatBase + 4096))) = (DbgAns.open_, wVr16.dev) ∧ wVr16.dev.sec.mods.length = 3) ∧
    (wS.dev.adminOpen = true ∧ (wOps []).rsvd = false ∧ opsAre (wOps []) []) ∧
    (wS.dev.adminOpen = true ∧ (wOps [71213169107800064]).rsvd = false ∧ 71213169107800064 < 2 ^ 56 ∧ opsAre (wOps [71213169107800064]) [71213169107800064]) ∧
    (wS.dev.adminOpen = true ∧ (wOps [71213169107800064, 64]).rsvd = false ∧ 71213169107800064 < 2 ^ 56 ∧ opsAre (wOps [71213169107800064, 64]) [71213169107800064, 64]) ∧
    (wS.dev.adminOpen = true ∧ (wOps [71213169107800064]).rsvd = false ∧ opsAre (wOps [71213169107800064]) [71213169107800064] ∧ 71213169107800064 < 2 ^ 56 ∧ wS.dev.fwHolds 71213169107800064 128 = none ∧ wS.dev.fwRead 71213169107800064 128 wRec16 = Except.ok wRec16 ∧ wS.dev.coldBusy = false ∧ wS.dev.sec.life = Lifecycle.blank ∧ wS.dev.sec.log.length < 4096 ∧ ofLe wRec16 % 2 ^ 256 ≠ 0 ∧ wS.dev.chain.joined = false) :=
  by and_intros <;> first | decide +kernel | exact rfl | exact eqOk (by decide +kernel)

theorem test_wit_HostSideCommandsComplete :
    (w16s2.dev.host.evtRoom ≠ 0 ∧ w16s2.dev.host.evtQ = [w16s3, { kind := 6 }] ∧ BitVec.getLsbD w16s2.dev.host.evtBind 0 = false) ∧
    (BitVec.getLsbD (268 : Word) (8 : Nat) = true ∧ w16s4.dev.host.adm.en = false ∧ w16s4.dev.host.adm.draining = false ∧ 4 ≤ fld 268 0 4 ∧ fld 268 0 4 ≤ 12 ∧ (w16s4.dev.host.admTail - w16s4.dev.host.admHead).toNat ≤ 2 ^ fld 268 0 4) ∧
    (BitVec.getLsbD (264 : Word) (8 : Nat) = true ∧ w16s5.dev.host.evt.en = false ∧ w16s5.dev.host.evt.draining = false ∧ 8 ≤ fld 264 0 5 ∧ fld 264 0 5 ≤ 16) ∧
    (BitVec.getLsbD (4 : Word) (8 : Nat) = false ∧ wC.dev.host.adm.en = true) ∧
    (BitVec.getLsbD (4 : Word) (8 : Nat) = false ∧ wC.dev.host.evt.en = true) ∧
    (wC.dev.host.admBusy = false) ∧
    ((wHr16 17179869183).dev.boot.st = BootSt.ready ∧ (wHr16 17179869183).dev.unitUp (coreUnit 33) = true ∧ ((wHr16 17179869183).dev.core 33).run = HartRun.reset ∧ ((wHr16 17179869183).dev.core 33).starting = false ∧ (Two.get (wHr16 17179869183).dev.regs.rvec (halfOf (decide (32 ≤ 33)))).toNat < 2 ^ 34 ∧ (wHr16 17179869183).dev.domSt (pdGroup (halfOf (decide (32 ≤ 33))) (33 % 32 / 8)) = DomSt.on) ∧
    (wE.dev.debugUp = true) ∧
    (tget (wB16 (Background.caveParams 12)).dev.host.bg 4 = some (9, Background.caveParams 12)) ∧
    (wS.dev.adminOpen = true ∧ (wOps [3, 4, 64, 6, 8, 0, 515]).rsvd = false ∧ opsAre (wOps [3, 4, 64, 6, 8, 0, 515]) (List.map (BitVec.ofNat 64) [3, 4, 64, 6, 8, 0, 515]) ∧ 3 < 4095 ∧ 4 < 256 ∧ 6 ≤ 6 ∧ 6 ≤ 16 ∧ 64 < 2 ^ 56 ∧ 64 % 32 = 0 ∧ 8 < 2 ^ 56 ∧ 8 % 8 = 0 ∧ 0 < 2 ^ 64 ∧ bindOk 0 = true ∧ 515 < 2 ^ 24 ∧ wS.dev.ctx? 3 = none) ∧
    (wC.dev.adminOpen = true ∧ (wOps [3]).rsvd = false ∧ 3 < 4096 ∧ wC.dev.ctx? 3 = some wCtx ∧ wCtx.destroying = false ∧ opsAre (wOps [3]) (List.map (BitVec.ofNat 64) [3])) ∧
    (wC.dev.adminOpen = true ∧ (wOps [3]).rsvd = false ∧ 3 < 4096 ∧ wC.dev.ctx? 3 = some wCtx ∧ wCtx.destroying = false ∧ opsAre (wOps [3]) (List.map (BitVec.ofNat 64) [3]) ∧ (List.any wC.dev.sched.steps fun (p : Nat × Step) => p.2.ctx == 3) = false ∧ (List.any wC.dev.host.rings fun (r : Nat × Machine.Ring) => r.2.ctx == 3 && r.2.enabled && !r.2.overrun && !r.2.destroying) = false ∧ (List.any wC.dev.host.regions fun (r : Nat × PRegion) => r.2.ctx == 3) = false) ∧
    (wC.dev.adminOpen = true ∧ (wOps [3, 17, 5]).rsvd = false ∧ 3 < 4096 ∧ wC.dev.ctx? 3 = some wCtx ∧ wCtx.destroying = false ∧ opsAre (wOps [3, 17, 5]) (List.map (BitVec.ofNat 64) [3, 17, 5]) ∧ 17 < 2 ^ 44 ∧ 5 < 2 ^ 20 ∧ wC.dev.ctxSteps 3 = false) ∧
    (wC.dev.adminOpen = true ∧ (wOps [3, 16, 60000000, 3]).rsvd = false ∧ 3 < 4096 ∧ wC.dev.ctx? 3 = some wCtx ∧ wCtx.destroying = false ∧ opsAre (wOps [3, 16, 60000000, 3]) (List.map (BitVec.ofNat 64) [3, 16, 60000000, 3]) ∧ 1 ≤ 16 ∧ 16 ≤ 16 ∧ 1000 ≤ 60000000 ∧ 60000000 ≤ 60000000 ∧ 3 < 4) ∧
    (wC.dev.adminOpen = true ∧ (wOps [3, 0, 9]).rsvd = false ∧ 3 < 4096 ∧ wC.dev.ctx? 3 = some wCtx ∧ wCtx.destroying = false ∧ opsAre (wOps [3, 0, 9]) (List.map (BitVec.ofNat 64) [3, 0, 9]) ∧ 9 < 2 ^ 32) ∧
    (wL.dev.adminOpen = true ∧ (wOps [17, 3, 2, 71213169107808256, 4]).rsvd = false ∧ 3 < 4096 ∧ wL.dev.ctx? 3 = some wCtx ∧ wCtx.destroying = false ∧ opsAre (wOps [17, 3, 2, 71213169107808256, 4]) (List.map (BitVec.ofNat 64) [17, 3, 2, 71213169107808256, 4]) ∧ 17 < 16384 ∧ 2 < 4 ∧ 71213169107808256 < 2 ^ 56 ∧ 71213169107808256 % 64 = 0 ∧ 4 ≤ 4 ∧ 4 ≤ 15 ∧ wL.dev.hostOrUmr 71213169107808256 = true ∧ tget wL.dev.host.rings 17 = none ∧ tget wL.dev.host.lines (17 / 16) = some w16s6 ∧ w16s6.pd = wCtx.pd ∧ wL.dev.fwHolds w16s6.addr 64 = none ∧ wL.dev.fwRead w16s6.addr 64 (List.replicate 64 0) = Except.ok (List.replicate 64 0)) ∧
    (wC.dev.adminOpen = true ∧ (wOps [9, 3, 4096, 4096, 8192, 0, 1]).rsvd = false ∧ 3 < 4096 ∧ wC.dev.ctx? 3 = some wCtx ∧ wCtx.destroying = false ∧ opsAre (wOps [9, 3, 4096, 4096, 8192, 0, 1]) (List.map (BitVec.ofNat 64) [9, 3, 4096 * 1, 4096 * 1, 8192, 0, b2n true]) ∧ 9 < 4096 ∧ 0 < 1 ∧ 1 + 1 ≤ 2 ^ 24 ∧ 8192 < 2 ^ 64 ∧ 8192 % 4096 = 0 ∧ tget wC.dev.host.regions 9 = none ∧ (List.any wC.dev.host.regions fun (p : Nat × PRegion) => decide (4096 * 1 < p.2.off + p.2.len) && decide (p.2.off < 4096 * (1 + 1))) = false ∧ wC.dev.regionPages 3 true 1 8192 = Except.ok [2]) ∧
    ((wOp none).dev.adminOpen = true ∧ (wOps [3, 0, 4]).rsvd = false ∧ 3 < 4096 ∧ (wOp none).dev.ctx? 3 = some wCtx ∧ wCtx.destroying = false ∧ opsAre (wOps [3, 0, 4]) (List.map (BitVec.ofNat 64) [3, 0, 4]) ∧ 0 < 2 ∧ 0 < 4 ∧ 4 ≤ 65536 ∧ (wOp none).dev.freeRun (halfOfNat 0) 4 = some 4096) ∧
    (wC.dev.adminOpen = true ∧ (wOps [3, 71213169107800064, 16, 0]).rsvd = false ∧ 3 < 4096 ∧ wC.dev.ctx? 3 = some wCtx ∧ wCtx.destroying = false ∧ opsAre (wOps [3, 71213169107800064, 16, 0]) (List.map (BitVec.ofNat 64) [3, 71213169107800064, 16, 0]) ∧ 71213169107800064 < 2 ^ 56 ∧ 71213169107800064 % 32 = 0 ∧ 6 ≤ 16 ∧ 16 ≤ 16 ∧ 0 < 2 ^ 64 ∧ bindOk 0 = true ∧ wC.dev.hostOrUmr 71213169107800064 = true) ∧
    (wC.dev.adminOpen = true ∧ (wOps [3, 4096, 8192]).rsvd = false ∧ 3 < 4096 ∧ wC.dev.ctx? 3 = some wCtx ∧ wCtx.destroying = false ∧ opsAre (wOps [3, 4096, 8192]) (List.map (BitVec.ofNat 64) [3, 4096, 8192]) ∧ (List.any wC.dev.host.regions fun (r : Nat × PRegion) => r.2.ctx == 3 && r.2.st == RegSt.on) = false) ∧
    (wC.dev.adminOpen = true ∧ (wOps [3, 2, 77]).rsvd = false ∧ 3 < 4096 ∧ wC.dev.ctx? 3 = some wCtx ∧ wCtx.destroying = false ∧ opsAre (wOps [3, 2, 77]) (List.map (BitVec.ofNat 64) [3, 2, 77]) ∧ 0 < 2 ∧ 2 < 4 ∧ 77 ≤ 2 ^ 25) ∧
    (wF16.dev.adminOpen = true ∧ (wOps [5, 2, 3, 1, 1, 0]).rsvd = false ∧ 3 < 4096 ∧ wF16.dev.ctx? 3 = some w16s7 ∧ w16s7.destroying = false ∧ opsAre (wOps [5, 2, 3, 1, 1, 0]) (List.map (BitVec.ofNat 64) [5, 2, 3, 1, b2n true, b2n false]) ∧ 0 < 2 ∧ 5 + 2 ≤ 2 ^ 25 ∧ 1 < 4 ∧ (List.any wF16.dev.tiers.allocs fun (a : Nat × Alloc) => spans 5 2 a.2) = false ∧ List.find? (fun (i : Nat) => !thas wF16.dev.tiers.allocs i) (List.range 65536) = some 0 ∧ allocFrames 2 5 { policy := policyOf 1, il := true, home := halfOf false, ctx := 3 } wF16.dev.trimCave = some wF216) ∧
    (wR.dev.adminOpen = true ∧ (wOps [17]).rsvd = false ∧ opsAre (wOps [17]) (List.map (BitVec.ofNat 64) [17]) ∧ 17 < 16384 ∧ tget wR.dev.host.rings 17 = some w16s8 ∧ w16s8.destroying = false) ∧
    (wC.dev.adminOpen = true ∧ (wOps [2, 4, 64]).rsvd = false ∧ opsAre (wOps [2, 4, 64]) (List.map (BitVec.ofNat 64) [2, 4, 64]) ∧ 2 < 1024 ∧ 4 < 256 ∧ 64 < 2 ^ 56 ∧ 64 % 64 = 0 ∧ (List.any wC.dev.host.rings fun (r : Nat × Machine.Ring) => r.1 / 16 == 2) = false) ∧
    (w16s9.dev.adminOpen = true ∧ (wOps [1, 0]).rsvd = false ∧ opsAre (wOps [1, 0]) (List.map (BitVec.ofNat 64) [1, 0]) ∧ 1 < 2 ∧ w16s9.dev.faults.contain = none ∧ (Two.get w16s9.dev.sched.half (halfOfNat 1)).saveBytes ≤ w16s9.dev.saveFree (halfOfNat 1) ∧ w16s9.dev.hbmUsed (halfOfNat 1) ≤ w16s9.dev.hbmMiB (halfOfNat 1) + (Two.get w16s9.dev.sched.half (halfOfNat 1)).saveBytes / 2 ^ 20) ∧
    ((wG RegSt.off).dev.adminOpen = true ∧ (wOps [9]).rsvd = false ∧ opsAre (wOps [9]) (List.map (BitVec.ofNat 64) [9]) ∧ 9 < 4096 ∧ tget (wG RegSt.off).dev.host.regions 9 = some wReg ∧ wReg.st = RegSt.off) ∧
    ((wG RegSt.on).dev.adminOpen = true ∧ (wOps [9]).rsvd = false ∧ opsAre (wOps [9]) (List.map (BitVec.ofNat 64) [9]) ∧ 9 < 4096 ∧ tget (wG RegSt.on).dev.host.regions 9 = some w16s10 ∧ w16s10.st = RegSt.on) ∧
    ((wO none).dev.adminOpen = true ∧ (wOps [1, 0]).rsvd = false ∧ opsAre (wOps [1, 0]) (List.map (BitVec.ofNat 64) [1, 0]) ∧ 1 < 2 ∧ (wO none).dev.objsHeld (halfOfNat 1) 0 (Two.get (wO none).dev.rennet.pool (halfOfNat 1)) = false) ∧
    ((wO (some (ROwner.ctx 3))).dev.adminOpen = true ∧ (wOps [70000, 1]).rsvd = false ∧ opsAre (wOps [70000, 1]) (List.map (BitVec.ofNat 64) [70000, 1]) ∧ 0 < 1 ∧ 70000 + 1 ≤ 131072 ∧ (∀ j < 1, ∃ (n : Nat), ((wO (some (ROwner.ctx 3))).dev.obj (70000 + j)).owner = some (ROwner.ctx n))) ∧
    (wS.dev.adminOpen = true ∧ (wOps [71213169107800064, 1]).rsvd = false ∧ 71213169107800064 < 2 ^ 56 ∧ opsAre (wOps [71213169107800064, 1]) [71213169107800064, 1]) ∧
    (w16s11.dev.adminOpen = true ∧ (wOps [2047, 1]).rsvd = false ∧ opsAre (wOps [2047, 1]) (List.map (BitVec.ofNat 64) [2047, b2n true]) ∧ 2047 < 2048 ∧ tget (Two.get w16s11.dev.xlate (halfOfNat (2047 / 1024))).recs (2047 % 1024) = some wQ16) ∧
    (wF16.dev.adminOpen = true ∧ (wOps [6]).rsvd = false ∧ 6 < 65536 ∧ tget wF16.dev.tiers.allocs 6 = some wA16 ∧ wA16.freeing = false ∧ opsAre (wOps [6]) (List.map (BitVec.ofNat 64) [6])) ∧
    (wF16.dev.adminOpen = true ∧ (wOps [6, 3]).rsvd = false ∧ 6 < 65536 ∧ tget wF16.dev.tiers.allocs 6 = some wA16 ∧ wA16.freeing = false ∧ opsAre (wOps [6, 3]) (List.map (BitVec.ofNat 64) [6, 3]) ∧ 3 < 4096 ∧ wF16.dev.ctxLive 3 = true) ∧
    (wF16.dev.adminOpen = true ∧ (wOps [6, 5]).rsvd = false ∧ 6 < 65536 ∧ tget wF16.dev.tiers.allocs 6 = some wA16 ∧ wA16.freeing = false ∧ opsAre (wOps [6, 5]) (List.map (BitVec.ofNat 64) [6, 5]) ∧ 5 < 4096 ∧ wA16.attach.contains 5 = true) ∧
    (wF16.dev.adminOpen = true ∧ (wOps [6, 3]).rsvd = false ∧ 6 < 65536 ∧ tget wF16.dev.tiers.allocs 6 = some wA16 ∧ wA16.freeing = false ∧ opsAre (wOps [6, 3]) (List.map (BitVec.ofNat 64) [6, 3]) ∧ 3 < 4) ∧
    (wF16.dev.adminOpen = true ∧ (wOps [6, 2, 119]).rsvd = false ∧ 6 < 65536 ∧ tget wF16.dev.tiers.allocs 6 = some wA16 ∧ wA16.freeing = false ∧ opsAre (wOps [6, 2, 119]) (List.map (BitVec.ofNat 64) [6, 2, 119]) ∧ 0 < 2 ∧ 2 < 4 ∧ 119 < 2 ^ 56) ∧
    (wF16.dev.adminOpen = true ∧ (wOps [1, 2, 71213169107800064]).rsvd = false ∧ opsAre (wOps [1, 2, 71213169107800064]) (List.map (BitVec.ofNat 64) [1, 2, 71213169107800064]) ∧ 1 + 2 ≤ 2 ^ 25 ∧ 71213169107800064 < 2 ^ 56) ∧
    (wF16.dev.adminOpen = true ∧ (wOps [1000, 255, 254, 25, 128, 16]).rsvd = false ∧ opsAre (wOps [1000, 255, 254, 25, 128, 16]) (List.map (BitVec.ofNat 64) [1000, 255, 254, 25, 128, 16]) ∧ 1 ≤ 1000 ∧ 1000 ≤ 1000 ∧ 255 ≤ 255 ∧ 254 < 255 ∧ 1 ≤ 25 ∧ 25 ≤ 25 ∧ 128 ≤ 128 ∧ 1 ≤ 16 ∧ 16 ≤ 16) ∧
    (wF16.dev.adminOpen = true ∧ (wOps [40]).rsvd = false ∧ opsAre (wOps [40]) (List.map (BitVec.ofNat 64) [40]) ∧ 7 ≤ 40 ∧ 40 ≤ 40) ∧
    (wF16.dev.adminOpen = true ∧ (wOps [168]).rsvd = false ∧ opsAre (wOps [168]) (List.map (BitVec.ofNat 64) [168]) ∧ 1 ≤ 168 ∧ 168 ≤ 168) ∧
    (wF16.dev.adminOpen = true ∧ (wOps [71213169107800064]).rsvd = false ∧ 71213169107800064 < 2 ^ 56 ∧ opsAre (wOps [71213169107800064]) [71213169107800064]) ∧
    (w16s12.dev.adminOpen = true ∧ (wOps [1, 5, 1, 64]).rsvd = false ∧ opsAre (wOps [1, 5, 1, 64]) (List.map (BitVec.ofNat 64) [1, 5, b2n true, 64]) ∧ 1 < 2 ∧ 5 < 6 ∧ 64 < 2 ^ 56 ∧ w16s12.dev.grants 5 = true ∧ bit (Two.get w16s12.dev.hbm.half (halfOfNat 1)).usable.toNat 5 = true ∧ w16s12.dev.hbm.margin = none) :=
  by and_intros <;> first | decide +kernel | exact rfl | exact eqOk (by decide +kernel) | exact fun j hj => ⟨3, by obtain rfl : j = 0 := (by omega); decide +kernel⟩


/-! ### Signed objects and images -/

/-- A signed object's body (Table 18.3): bits 63 to 0, the serial, and the bits from 192 on. -/
def zBody (lo hi : Nat) : List Byte := leBytes 128 (2 ^ 64 * (2 ^ 128 * hi + Config.serial.toNat) + lo)
/-- An OWNED package whose owner and debug keys are `key`. -/
def zKeyed (key : List Byte) : Dev :=
  { wDev with sec := { owned := true, ownerHash := Config.keyHash key, debugHash := Config.keyHash key, nonce := some 99, svn := 3 } }
/-- Bits from 192 on: the nonce, PRIV and VALUE. -/
def zHigh (priv val : Nat) : Nat := 99 + 2 ^ 256 * (priv + 2 ^ 64 * val)
/-- Bits 63 to 0: VERSION, KIND and LIFETIME. -/
def zLow (kind life : Nat) : Nat := 1 + 2 ^ 16 * kind + 2 ^ 32 * life

def zObj5 : List Byte := leBytes 128 (1 + 2 ^ 16 * 5 + 2 ^ 192 * 98 + 2 ^ 512 * 4)
/-- The nonzero fields of an image header (Table 19.5): magic, version, SVN 2, 64 bytes of body and FWVER. -/
def zHd : Nat := 0x57465852 + 2 ^ 32 + 2 ^ 48 * 2 + 2 ^ 64 * 64 + 2 ^ 128 * 0x1234 + 2 ^ 224 * 60
def zImg (key sig : List Byte) : ImageIn :=
  { readable := true, header := leBytes 4096 zHd, body := List.replicate 64 7, vendorKey := key, vendorSig := sig, cosignKey := [], cosignSig := [] }
def zRcv : Dev := { (wDev.wr (vatOff 0) (leBytes 32 zHd)) with boot := { wDev.boot with st := .recovery, reason := 4 } }

/-- For every KIND, a signed object that meets R540: the signature scheme is uninterpreted (log 10), so the object is that
of any key and signature that it accepts. -/
theorem test_wit_SignedObjectsAct_accepted (key sig : List Byte) (hl : key.length = 68) (h0 : Config.keyHash key ≠ 0)
    (kind life priv val : Nat)
    (hk : (kind, life, priv, val) ∈ [(1, 840, 0x85, 0), (2, 0, 0, 6), (3, 0, 0, 6), (4, 0, 0, 6), (5, 0, 0, 4), (6, 0, 0, 0)])
    (hv : Config.xmssVerify key (zBody (zLow kind life) (zHigh priv val)) sig = true) :
    (zKeyed key).sigCheck (zBody (zLow kind life) (zHigh priv val) ++ (key ++ sig)) = none ∧
      fld (ofLe (zBody (zLow kind life) (zHigh priv val))) 16 8 = kind := by
  have hσ := Config.serial.isLt
  have hlo : zLow kind life < 2 ^ 64 ∧ zHigh priv val < 2 ^ 832 ∧ bodyForm (zLow kind life + 2 ^ 192 * zHigh priv val) kind = true ∧
      fld (zLow kind life) 16 8 = kind ∧ fld (zHigh priv val) 0 256 = 99 ∧ fld (zHigh priv val) 256 64 = priv ∧
      (zKeyed key).sec.keyFor kind = some (Config.keyHash key) ∧
      (decide (kind = 1) && Nat.land priv (0x1FF - privMask (decide ((zKeyed key).sec.life = .returned))) != 0) = false := by
    simp only [List.mem_cons, Prod.mk.injEq, List.not_mem_nil, or_false] at hk
    rcases hk with h | h | h | h | h | h <;> obtain ⟨rfl, rfl, rfl, rfl⟩ := h <;>
      exact ⟨by decide +kernel, by decide +kernel, by decide +kernel, by decide +kernel, by decide +kernel, by decide +kernel, rfl,
        by simp [zKeyed, Sec.life, privMask]⟩
  obtain ⟨hlo, hhi, hform, hkind, hnonce, hpriv, hkf, h6⟩ := hlo
  generalize zLow kind life = lo at *
  generalize zHigh priv val = hi at *
  have hn : ofLe (zBody lo hi) = 2 ^ 64 * (2 ^ 128 * hi + Config.serial.toNat) + lo := by
    rw [zBody, ofLe_leBytes]
    apply Nat.mod_eq_of_lt
    have h1 : hi + 1 ≤ 2 ^ 832 := hhi
    calc 2 ^ 64 * (2 ^ 128 * hi + Config.serial.toNat) + lo
        < 2 ^ 64 * (2 ^ 128 * hi + Config.serial.toNat) + 2 ^ 64 := by omega
      _ = 2 ^ 64 * (2 ^ 128 * hi + (Config.serial.toNat + 1)) := by ring
      _ ≤ 2 ^ 64 * (2 ^ 128 * hi + 2 ^ 128) := Nat.mul_le_mul_left _ (by omega)
      _ = 2 ^ 192 * (hi + 1) := by ring
      _ ≤ 2 ^ 192 * 2 ^ 832 := Nat.mul_le_mul_left _ h1
      _ = 256 ^ 128 := by rw [← Nat.pow_add, show (256 : Nat) = 2 ^ 8 from rfl, ← Nat.pow_mul]
  have low (p w : Nat) (h : p + w ≤ 64) : fld (ofLe (zBody lo hi)) p w = fld lo p w := by rw [hn, fld_low hlo h]
  have high (p w : Nat) (h : 192 ≤ p) : fld (ofLe (zBody lo hi)) p w = fld hi (p - 192) w := by
    rw [hn, fld_high hlo (by omega), fld_high hσ (by omega), Nat.sub_sub]
  have hser : BitVec.ofNat 128 (fld (ofLe (zBody lo hi)) 64 128) = Config.serial := by
    rw [hn, fld_high hlo (by omega), fld_low hσ (by omega)]
    simp [fld, Nat.mod_eq_of_lt hσ]
  have hf : bodyForm (ofLe (zBody lo hi)) kind = true := by
    have e : lo + 2 ^ 192 * hi = 2 ^ 64 * (2 ^ 128 * hi + 0) + lo := by ring
    have low' (p w : Nat) (h : p + w ≤ 64) : fld (lo + 2 ^ 192 * hi) p w = fld lo p w := by rw [e, fld_low hlo h]
    have high' (p w : Nat) (h : 192 ≤ p) : fld (lo + 2 ^ 192 * hi) p w = fld hi (p - 192) w := by
      rw [e, fld_high hlo (by omega), fld_high (by decide) (by omega), Nat.sub_sub]
    rw [← hform]
    simp only [bodyForm]
    rw [low 32 32 (by omega), low 0 16 (by omega), low 24 8 (by omega), high 448 64 (by omega), high 512 256 (by omega),
      high 768 256 (by omega), low' 32 32 (by omega), low' 0 16 (by omega), low' 24 8 (by omega), high' 448 64 (by omega),
      high' 512 256 (by omega), high' 768 256 (by omega)]
  have hb : (zBody lo hi).length = 128 := by rw [zBody, leBytes_length]
  have ht : (zBody lo hi ++ (key ++ sig)).take 128 = zBody lo hi := List.take_left' hb
  have hd : (zBody lo hi ++ (key ++ sig)).drop 128 = key ++ sig := List.drop_left' hb
  have hd2 : (zBody lo hi ++ (key ++ sig)).drop 196 = sig := by
    rw [show 196 = 128 + 68 from rfl, ← List.drop_drop, hd]
    exact List.drop_left' hl
  have hk16 : fld (ofLe (zBody lo hi)) 16 8 = kind := by rw [low 16 8 (by omega), hkind]
  refine ⟨?_, hk16⟩
  simp only [Dev.sigCheck, ht, hd, hd2, List.take_left' hl, hk16, hkf, hf, hser, high 192 256 (by omega), high 448 64 (by omega),
    hnonce, hpriv, hv, h6]
  simp only [zKeyed, wDev]
  simpa using h0

/-- The rest of what a signed object's submission needs: an open admin ring and a buffer of 18,665 bytes in host memory. -/
theorem test_wit_SignedObjectsAct (obj : List Byte) (h : obj.length = 18665) :
    wDev.adminOpen = true ∧ (wOps [0xFD000000001000, 18665]).rsvd = false ∧
      opsAre (wOps [0xFD000000001000, 18665]) [0xFD000000001000, 18665] ∧ (0xFD000000001000 : Word).toNat < 2 ^ 56 ∧
      wDev.fwHolds 0xFD000000001000 18665 = none ∧ wDev.fwRead 0xFD000000001000 18665 obj = .ok obj ∧ wDev.sec.log.length < 4096 ∧ wDev.chain.joined = false ∧
      wDev.coldBusy = false := by
  refine ⟨by decide +kernel, rfl, rfl, by decide, by decide +kernel, ?_, by decide +kernel, by decide +kernel, by decide +kernel⟩
  have ht : wDev.target true (0xFD000000001000 : Word).toNat = .host 0x1000 := by decide +kernel
  simp only [Dev.fwRead, ht]
  rw [List.take_left' h]

theorem sigCheck_late (d : Dev) (o rest : List Byte) (h : BitVec 256) (ht : (o ++ rest).take 128 = o)
    (h16 : fld (ofLe o) 16 8 = 5) (hf : bodyForm (ofLe o) 5 = true) (hk : d.sec.keyFor 5 = some h)
    (hn : (d.sec.nonce != some (BitVec.ofNat 256 (fld (ofLe o) 192 256))) = true) :
    ∃ n, d.sigCheck (o ++ rest) = some n ∧ n ≠ 1 := by
  by_cases hs : BitVec.ofNat 128 (fld (ofLe o) 64 128) = Config.serial
  · refine ⟨3, ?_, by decide⟩
    simp only [Dev.sigCheck, ht, h16, hk, hf, hn]
    simp [hs]
  · refine ⟨2, ?_, by decide⟩
    simp only [Dev.sigCheck, ht, h16, hk, hf, hn]
    simp [hs]

theorem zObj5_length : zObj5.length = 128 := by rw [zObj5, leBytes_length]

/-- A body of KIND 5 under a nonce that is not the outstanding one fails a later check than the first. -/
theorem test_wit_SignedObjectsAct_refused (rest : List Byte) :
    (∃ n, (zKeyed []).sigCheck (zObj5 ++ rest) = some n ∧ n ≠ 1) ∧ fld (ofLe zObj5) 16 8 = 5 :=
  ⟨sigCheck_late _ _ _ _ (List.take_left' zObj5_length) (by decide +kernel) (by decide +kernel) rfl (by decide +kernel),
    by decide +kernel⟩

/-- An image that meets R570 under any key and signature that the uninterpreted scheme accepts (log 10). -/
theorem test_wit_StartUpReachesReady_image (d : Dev) (img : ImageIn) (hd : d.sec.cosignHash = 0 ∧ d.sec.svn = 0)
    (hi : img.readable = true ∧ headerOf img.header = some (2, 64, 0x1234) ∧ img.body.length = 64)
    (hv : sigOk Config.vendorRoot (imageDigest img) img.vendorKey img.vendorSig = true) :
    d.checkImage img = .ok (0x1234, 2) := by
  simp [Dev.checkImage, hi, hd, hv]

/-- Such an image, as IMAGE_LOAD and the PLDM update carry it, and as the West Vat holds it in recovery. -/
theorem test_wit_StartUpReachesReady_bytes :
    (wDev.sec.cosignHash = 0 ∧ wDev.sec.svn = 0) ∧ wDev.boot.st = .ready ∧ wDev.power.pstate = .working ∧ wDev.boot.update = false ∧
    ((zImg [] []).readable = true ∧ headerOf (zImg [] []).header = some (2, 64, 0x1234) ∧ (zImg [] []).body.length = 64) ∧
    zRcv.boot.st = .recovery ∧ zRcv.host.linkUp = true ∧
    (zRcv.deliveredImage.readable = true ∧ headerOf zRcv.deliveredImage.header = some (2, 64, 0x1234) ∧
      zRcv.deliveredImage.body.length = 64) := by
  decide +kernel

/-! ### Hypotheses met by hand -/

theorem test_wit_EveryStepKeepsTheStateSafe : State.reset.Safe ∧ ∃ t, step State.reset = .next t :=
  ⟨safeOf (by decide +kernel), _, rfl⟩

theorem test_wit_XanvilWordsAndInstructionsAgree : decodeX 0 0x0005850B = some (.xaissue 0 10 11 false) := by decide +kernel

/-! ### WellFormed refuses -/

def zOps (n : Nat) : AdmCmd := { cid := 0, rsvd := false, ops := List.replicate n 0 }
def zVec (v : Fin 32) (nf : Fin 8) (ff : Bool) (m : VMode) : VMem := { v := v, wLog := 2, nf := nf, ff := ff, mode := m, vm := true }

theorem test_wf_admin_words : (Instr.ctxCreate (zOps 6)).wf = false ∧ (Instr.ctxCreate (zOps 7)).wf = true := by decide +kernel
theorem test_wf_attest_nonce : (Instr.attest (zOps 7) (List.replicate 31 0)).wf = false ∧
    (Instr.attest (zOps 7) (List.replicate 32 0)).wf = true := by decide +kernel

theorem test_wf_vector_fields_past_v31 : (zVec 30 2 false .unit).wf = false ∧ (zVec 30 1 false .unit).wf = true := by decide +kernel

theorem test_wf_fault_only_first_is_unit_stride : (zVec 0 0 true (.strided 1)).wf = false ∧
    (zVec 0 0 true (.indexed 1 true 2)).wf = false ∧ (Instr.engineStore 0 0 0 (.vec (zVec 0 0 true .unit))).wf = false ∧
    (Instr.engineLoad 0 0 0 (.vec (zVec 0 0 true .unit)) []).wf = true := by decide +kernel

theorem test_wf_no_unsigned_doubleword_load : (Instr.engineLoad 0 0 0 (.int 1 3 false) []).wf = false ∧
    (Instr.engineLoad 0 0 0 (.int 1 3 true) []).wf = true ∧ (Instr.coreLoad 0 false 1 0 3 false .pma []).wf = false := by
  decide +kernel

theorem test_wf_no_byte_float : (Instr.engineLoad 0 0 0 (.fp 1 0) []).wf = false ∧
    (Instr.engineStore 0 0 0 (.fp 1 0)).wf = false := by decide +kernel

theorem test_wf_reduction_elements : (Instr.redAdd (.core 0) 0 .fp32 (List.replicate 6 0)).wf = false ∧
    (Instr.redMin (.core 0) 0 .fp32 []).wf = false ∧ (Instr.redMax (.core 0) 60 .fp32 (List.replicate 8 0)).wf = false ∧
    (Instr.redMax (.core 0) 56 .fp32 (List.replicate 8 0)).wf = true := by decide +kernel

theorem test_wf_whole_line : (Instr.wrLine (.core 0) 0 (List.replicate 63 0) none).wf = false ∧
    (Instr.wrLine (.core 0) 8 (List.replicate 64 0) none).wf = false ∧
    (Instr.data (.core 0) 0 (List.replicate 63 0) .s false).wf = false ∧
    (Instr.wbDirty (.core 0) 8 (List.replicate 64 0) false).wf = false := by decide +kernel

theorem test_wf_part_of_a_line : (Instr.wrPart (.core 0) 60 (List.replicate 5 0) none).wf = false ∧
    (Instr.wrPart (.core 0) 60 [] none).wf = false ∧ (Instr.wrPart (.core 0) 60 (List.replicate 4 0) none).wf = true := by
  decide +kernel

theorem test_wf_core_store_widths : (Instr.coreStore 0 0 (List.replicate 3 0) .pma).wf = false ∧
    (Instr.coreStore 0 0 (List.replicate 8 0) .pma).wf = true := by decide +kernel

theorem test_wf_identity_names_a_slot_once :
    ({ node := 1, port := 0, serial := 0, inc := 0, nonce := 0, slots := [(3, noSlot), (3, noSlot)] } : Identity).wf = false := by
  decide +kernel

theorem test_wf_packet_bodies : (ChainBody.write 60 (List.replicate 5 0)).wf = false ∧ (ChainBody.write 60 []).wf = false ∧
    (ChainBody.red .add .int64 0 (List.replicate 4 0)).wf = false ∧ (ChainBody.answer 0 .ok (List.replicate 65 0)).wf = false ∧
    (ChainBody.write 60 (List.replicate 4 0)).wf = true := by decide +kernel

theorem test_wf_host_accesses_carry_bytes : (Instr.hostApertureWrite 0 []).wf = false ∧ (Instr.peerPlacementWrite ⟨0, 0⟩ []).wf = false ∧
    (Instr.hostApertureRead 0 0 []).wf = false ∧ (Instr.peerPlacementRead 0 ⟨0, []⟩).wf = false := by decide +kernel

theorem test_wf_image_lengths : (Instr.imageLoad (zImg [] [])).wf = false ∧
    (Instr.pldmFirmwareUpdate { zImg [] [] with readable := false }).wf = true := by decide +kernel

/-! ### Words decoded by hand from the layouts of Tables 4.3 to 4.8 and the standard extensions -/

/-- XAISSUE x10, (x11) of a package operation: custom-0, funct3 0, rd 10, rs1 11, bit 25. -/
theorem test_word_xaissue : decodeX 3 0x0205850B = some (.xaissue 3 10 11 true) := by decide +kernel
/-- XRSIG x11, x12: custom-0, funct3 2, scope 0. -/
theorem test_word_xrsig : decodeX 3 0x00C5A00B = some (.xrsig 3 11 12 .engine) := by decide +kernel
/-- XVDOT v8, v16, v24: custom-1, masked off. -/
theorem test_word_xvdot : decodeX 3 0x170C242B = some (.xvdot 3 8 16 24 2 true) := by decide +kernel
/-- A scope of 5 is reserved. -/
theorem test_word_reserved_scope : decodeX 3 0x0A00300B = none := by decide +kernel
/-- LD x11, 0(x10). -/
theorem test_word_ld : decodeRow 3 0x00053583 = some (.engineLoad 3 10 0 (.int 11 3 true) []) := by decide +kernel

/-! ### The spec's worked examples -/

/-- Chapter 14: ring 845 completes descriptor count 0x01FF in the first pass; word 0 is 0x0000_01FF_0034_D001. -/
theorem test_completion_word0 :
    (recBytes (stepRec 0 { wStep with ring := 845, count := 0x1FF, outcome := some { status := .ok } }) 0 8).take 8 =
      [0x01, 0xD0, 0x34, 0x00, 0xFF, 0x01, 0x00, 0x00] := by decide +kernel

/-- Chapter 3: descriptor 0x4851 is a 7-bit format in one byte whose largest finite value is 112 and smallest magnitude 2 ^ −8. -/
theorem test_format_4851 :
    (fmtOf 0x4851).map Fmt.width = some 8 ∧ (fmtOf 0x4851).map (fun f => (Machine.Num.sub (f.val 0x3F) (.ofInt 112)).isZero) = some true ∧
      (fmtOf 0x4851).map (fun f => (Machine.Num.sub ((f.val 0x04).mul (.ofInt 256)) (.ofInt 1)).isZero) = some true := by decide +kernel

/-- Chapter 16: at 44 V the package limit is 1,760 W. -/
theorem test_limit_at_44_volts : ({ wDev.power with vin := 4400, vinHist := [] } : Power).limit = 1760 := by decide +kernel

/-- Chapter 18: word 0 of the DEBUG token, 0x0000_0348_0001_0001, with PRIV 0x85, has the form of Table 18.3. -/
theorem test_debug_token_form : bodyForm (0x0000034800010001 + 2 ^ 448 * 0x85) 1 = true := by decide +kernel

def zApt : State := { dev := { wDev with regs := {} }, pending := [] }
/-- The core window's write of an aperture entry's word, and the state after it. -/
def zAfter (o : Host.Outcome State Fault Refusal) : State := match o with | .next t => t | _ => State.reset

/-- Chapter 20: BASE 0x4000_0000 and word 0 0x00D4_0907 set aperture 3 up for context 212 in domain 9; 0x00D4_0906 then clears
EN, sets DRAINING and leaves the other fields. -/
theorem test_aperture_example :
    let a := zAfter (exec (.setupRegisterWrite 0x8038 8 0x40000000) zApt)
    let b := zAfter (exec (.apertureEnable 3 0x00D40907) a)
    let c := zAfter (exec (.apertureDisable 3 0x00D40906) b)
    b.dev.apt 3 = { en := true, rd := true, wr := true, pd := 9, ctx := 212, base := 0x200 } ∧
      c.dev.apt 3 = { en := false, rd := true, wr := true, pd := 9, ctx := 212, base := 0x200, draining := true } := by decide +kernel

/-- Chapter 19: READY with six stacks in each half, eight channels, NORMAL and OWNED has ARG1 0x0001_3FF6. -/
theorem test_ready_event :
    let d := { wDev with
      hbm := { wDev.hbm with half := ⟨{ usable := 63 }, { usable := 63 }⟩ }, cave := { wDev.cave with st := .normal }
      sec := { owned := true }, boot := { wDev.boot with ddr := 0xFF } }
    (d.becomeReady.host.evtQ.getLast?).map (fun e => (e.kind, e.info, e.a1)) = some (18, 0, 0x13FF6) := by decide +kernel

/-- Chapter 6: the operand 0x4000_0000_0024_C000 configures a counter with THRESH 0x0024_C000 and moves GEN from 0 to 1. -/
theorem test_configure_counter :
    let o := ((wN {} []).dev.bankConfigure wSrc 5 0x400000000024C000).obj 5
    o.typ = .counter ∧ o.thresh = 0x24C000 ∧ o.gen = 1 ∧ o.count = 0 := by decide +kernel

/-- Table 21.10: the transmit pairs of lane 3 of CP00, CP05 and CP10. -/
theorem test_lands_of_chain_lanes : landChain 0 3 false = ⟨⟨3, 13⟩, ⟨3, 14⟩⟩ ∧ landChain 5 3 false = ⟨⟨13, 13⟩, ⟨13, 14⟩⟩ ∧
    landChain 10 3 false = ⟨⟨7, 104⟩, ⟨7, 103⟩⟩ := by decide +kernel

end Sys2Proof
end

/-!
The Xanvil words (R133, R134, Tables 4.3 to 4.5, 4.7 and 4.8). A word of a layout has the fields it was laid out from, and a
word is the layout of its own fields; the decoder reads fields only, so both directions of the round trip follow row by row.
-/
namespace Sys2Proof

/-! ### The fields of a laid-out word, and the word of its fields -/

theorem wfield_lt (w : BitVec 32) (lo n : Nat) : wfield w lo n < 2 ^ n := Nat.mod_lt _ (Nat.two_pow_pos n)

section Custom0
variable {grp sub md : Nat} (rd rs1 rs2 : Fin 32)

theorem custom0_toNat (hg : grp < 8) (hs : sub < 16) (hm : md < 8) :
    (custom0 grp sub md rd rs1 rs2).toNat =
      0x0B + 2 ^ 7 * rd.val + 2 ^ 12 * grp + 2 ^ 15 * rs1.val + 2 ^ 20 * rs2.val + 2 ^ 25 * md + 2 ^ 28 * sub := by
  rw [custom0, BitVec.toNat_ofNat]
  omega

@[simp] theorem wfield_custom0_opcode (hg : grp < 8) (hs : sub < 16) (hm : md < 8) :
    wfield (custom0 grp sub md rd rs1 rs2) 0 7 = 0x0B := by
  rw [wfield, custom0_toNat rd rs1 rs2 hg hs hm]
  omega

@[simp] theorem wfield_custom0_grp (hg : grp < 8) (hs : sub < 16) (hm : md < 8) :
    wfield (custom0 grp sub md rd rs1 rs2) 12 3 = grp := by
  rw [wfield, custom0_toNat rd rs1 rs2 hg hs hm]
  omega

@[simp] theorem wfield_custom0_md (hg : grp < 8) (hs : sub < 16) (hm : md < 8) :
    wfield (custom0 grp sub md rd rs1 rs2) 25 3 = md := by
  rw [wfield, custom0_toNat rd rs1 rs2 hg hs hm]
  omega

@[simp] theorem wfield_custom0_sub (hg : grp < 8) (hs : sub < 16) (hm : md < 8) :
    wfield (custom0 grp sub md rd rs1 rs2) 28 4 = sub := by
  rw [wfield, custom0_toNat rd rs1 rs2 hg hs hm]
  omega

@[simp] theorem wreg_custom0_rd (hg : grp < 8) (hs : sub < 16) (hm : md < 8) :
    wreg (custom0 grp sub md rd rs1 rs2) 7 = rd := by
  apply Fin.ext
  rw [wreg, Fin.val_ofNat, custom0_toNat rd rs1 rs2 hg hs hm]
  omega

@[simp] theorem wreg_custom0_rs1 (hg : grp < 8) (hs : sub < 16) (hm : md < 8) :
    wreg (custom0 grp sub md rd rs1 rs2) 15 = rs1 := by
  apply Fin.ext
  rw [wreg, Fin.val_ofNat, custom0_toNat rd rs1 rs2 hg hs hm]
  omega

@[simp] theorem wreg_custom0_rs2 (hg : grp < 8) (hs : sub < 16) (hm : md < 8) :
    wreg (custom0 grp sub md rd rs1 rs2) 20 = rs2 := by
  apply Fin.ext
  rw [wreg, Fin.val_ofNat, custom0_toNat rd rs1 rs2 hg hs hm]
  omega

end Custom0

theorem wbit_toNat (w : BitVec 32) (n : Nat) : (wbit w n).toNat = w.toNat / 2 ^ n % 2 := by
  rcases Nat.mod_two_eq_zero_or_one (w.toNat / 2 ^ n) with h | h <;> simp [wbit, wfield, h]

section Custom1
variable {funct6 : Nat} (vm : Bool) (vd vs2 vs1 : Fin 32) (fd : Fin 8)

theorem custom1_toNat (hf : funct6 < 64) :
    (custom1 funct6 vm vd vs2 vs1 fd).toNat =
      0x2B + 2 ^ 7 * vd.val + 2 ^ 12 * fd.val + 2 ^ 15 * vs1.val + 2 ^ 20 * vs2.val + 2 ^ 25 * vm.toNat + 2 ^ 26 * funct6 := by
  rw [custom1, BitVec.toNat_ofNat]
  cases vm <;> simp only [Bool.toNat_true, Bool.toNat_false, if_true, if_false, Bool.false_eq_true] <;> omega

@[simp] theorem wfield_custom1_opcode (hf : funct6 < 64) :
    wfield (custom1 funct6 vm vd vs2 vs1 fd) 0 7 = 0x2B := by
  rw [wfield, custom1_toNat vm vd vs2 vs1 fd hf]
  omega

@[simp] theorem wfield_custom1_fd (hf : funct6 < 64) :
    wfield (custom1 funct6 vm vd vs2 vs1 fd) 12 3 = fd.val := by
  rw [wfield, custom1_toNat vm vd vs2 vs1 fd hf]
  omega

@[simp] theorem wfield_custom1_funct6 (hf : funct6 < 64) :
    wfield (custom1 funct6 vm vd vs2 vs1 fd) 26 6 = funct6 := by
  have hvm := vm.toNat_lt
  rw [wfield, custom1_toNat vm vd vs2 vs1 fd hf]
  omega

@[simp] theorem wbit_custom1_vm (hf : funct6 < 64) : wbit (custom1 funct6 vm vd vs2 vs1 fd) 25 = vm := by
  have hvm := vm.toNat_lt
  rw [Bool.eq_iff_iff, ← Bool.toNat_eq_one, ← Bool.toNat_eq_one, wbit_toNat, custom1_toNat vm vd vs2 vs1 fd hf]
  omega

@[simp] theorem wreg_custom1_vd (hf : funct6 < 64) : wreg (custom1 funct6 vm vd vs2 vs1 fd) 7 = vd := by
  apply Fin.ext
  rw [wreg, Fin.val_ofNat, custom1_toNat vm vd vs2 vs1 fd hf]
  omega

@[simp] theorem wreg_custom1_vs1 (hf : funct6 < 64) : wreg (custom1 funct6 vm vd vs2 vs1 fd) 15 = vs1 := by
  apply Fin.ext
  rw [wreg, Fin.val_ofNat, custom1_toNat vm vd vs2 vs1 fd hf]
  omega

@[simp] theorem wreg_custom1_vs2 (hf : funct6 < 64) : wreg (custom1 funct6 vm vd vs2 vs1 fd) 20 = vs2 := by
  apply Fin.ext
  rw [wreg, Fin.val_ofNat, custom1_toNat vm vd vs2 vs1 fd hf]
  omega

end Custom1

/-- The seven fields of Table 4.3 cover the word: nothing of a custom-0 word is outside them. -/
theorem custom0_of_fields {w : BitVec 32} (hop : wfield w 0 7 = 0x0B) :
    custom0 (wfield w 12 3) (wfield w 28 4) (wfield w 25 3) (wreg w 7) (wreg w 15) (wreg w 20) = w := by
  apply BitVec.eq_of_toNat_eq
  have hw := w.isLt
  simp only [custom0, wfield, wreg, Fin.val_ofNat, BitVec.toNat_ofNat] at hop ⊢
  omega

/-- The seven fields of Table 4.7 cover the word. -/
theorem custom1_of_fields {w : BitVec 32} (hop : wfield w 0 7 = 0x2B) :
    custom1 (wfield w 26 6) (wbit w 25) (wreg w 7) (wreg w 20) (wreg w 15) (Fin.ofNat 8 (wfield w 12 3)) = w := by
  apply BitVec.eq_of_toNat_eq
  have hw := w.isLt
  rw [custom1_toNat _ _ _ _ _ (wfield_lt w 26 6), wbit_toNat]
  simp only [wfield, wreg, Fin.val_ofNat] at hop ⊢
  omega

/-! ### The modifier: a scope (Table 4.5) or the release bit -/

@[simp] theorem scopeBits_lt (sc : Scope) : scopeBits sc < 8 := by cases sc <;> decide

@[simp] theorem scopeOf_scopeBits (sc : Scope) : scopeOf (scopeBits sc) = some sc := by cases sc <;> rfl

theorem scopeBits_of_scopeOf {n : Nat} {sc : Scope} (h : scopeOf n = some sc) : scopeBits sc = n := by
  unfold scopeOf at h
  split at h <;> cases h <;> rfl

/-- A modifier whose upper bits are zero is the release bit it is read as. -/
theorem releaseBit_of_div_two {n : Nat} (h : n / 2 = 0) : (if (n % 2 == 1) = true then 1 else 0) = n := by
  obtain rfl | rfl : n = 0 ∨ n = 1 := by omega
  all_goals rfl

/-! ### Decode of encode -/

/-- The word of `i` decodes, on engine `e`, to `i`. -/
def WordDecodes (e : Fin 128) (i : Instr) : Prop := ∃ w, encodeX i = some w ∧ decodeX e w = some i

/-- The rows that issue to the Anvil and the Tongs and follow their tickets: groups 0 and 1 of Table 4.4. -/
def ticketForms (e : Fin 128) (rd rs1 rs2 : Fin 32) (b : Bool) : List Instr :=
  [.xaissue e rd rs1 b, .xawait e rs1, .xapoll e rd rs1, .xtissue e rd rs1 rs2 b, .xtwait e rs1, .xtpoll e rd rs1]

/-- The rows whose modifier is a scope: groups 2 and 3 of Table 4.4. -/
def scopedForms (e : Fin 128) (rd rs1 rs2 : Fin 32) (sc : Scope) : List Instr :=
  [.xrsig e rs1 rs2 sc, .xradd e rd rs1 rs2 sc, .xrwait e rd rs1 rs2 sc, .xacq e sc, .xrel e sc, .xacqrel e sc,
   .xlaW e rd rs1 sc [], .xlaD e rd rs1 sc [], .xsrW e rs1 rs2 sc, .xsrD e rs1 rs2 sc]

/-- The rows of Table 4.8. -/
def vectorForms (e : Fin 128) (rd rs1 rs2 : Fin 32) (fd : Fin 8) (b : Bool) : List Instr :=
  [.xvcvtf e rd rs2 rs1 fd b, .xvcvtt e rd rs2 rs1 fd b, .xvcvttSr e rd rs2 rs1 fd b, .xvscale e rd rs2 rs1 fd b,
   .xvsclf e rd rs2 rs1 fd b, .xvdot e rd rs2 rs1 fd b]

section Rows
variable (e : Fin 128) (rd rs1 rs2 : Fin 32)

theorem wordDecodes_of_mem_ticketForms (b : Bool) : ∀ i ∈ ticketForms e rd rs1 rs2 b, WordDecodes e i := by
  simp only [ticketForms, List.forall_mem_cons, List.not_mem_nil, false_imp_iff, implies_true, and_true]
  refine ⟨?_, ?_, ?_, ?_, ?_, ?_⟩
  all_goals exact ⟨_, rfl, by cases b <;> simp [decodeX, decode0]⟩

theorem wordDecodes_of_mem_scopedForms (sc : Scope) : ∀ i ∈ scopedForms e rd rs1 rs2 sc, WordDecodes e i := by
  simp only [scopedForms, List.forall_mem_cons, List.not_mem_nil, false_imp_iff, implies_true, and_true]
  refine ⟨?_, ?_, ?_, ?_, ?_, ?_, ?_, ?_, ?_, ?_⟩
  all_goals exact ⟨_, rfl, by simp [decodeX, decode0]⟩

theorem wordDecodes_xvfence : WordDecodes e (.xvfence e) := ⟨_, rfl, by simp [decodeX, decode0]⟩

theorem wordDecodes_of_mem_vectorForms (fd : Fin 8) (b : Bool) : ∀ i ∈ vectorForms e rd rs1 rs2 fd b, WordDecodes e i := by
  simp only [vectorForms, List.forall_mem_cons, List.not_mem_nil, false_imp_iff, implies_true, and_true]
  refine ⟨?_, ?_, ?_, ?_, ?_, ?_⟩
  all_goals exact ⟨_, rfl, by simp [decodeX, decode1]⟩

end Rows

/-! ### Encode of decode -/

theorem encodeX_of_decode0 {e : Fin 128} {w : BitVec 32} {i : Instr} (hop : wfield w 0 7 = 0x0B)
    (h : decode0 e w = some i) : encodeX i = some w := by
  have hw := custom0_of_fields hop
  simp only [decode0] at h
  split at h
  case h_18 => cases h
  all_goals
    rename_i hgrp hsub
    rw [hgrp, hsub] at hw
    simp only [Option.ite_none_right_eq_some, Bool.and_eq_true, beq_iff_eq, decide_eq_true_eq, Option.some.injEq,
      Option.map_eq_some_iff, true_and] at h
  case h_1 =>
    obtain ⟨⟨hrs2, hmd⟩, rfl⟩ := h
    rw [encodeX, releaseBit_of_div_two hmd, ← hrs2, hw]
  case h_4 =>
    obtain ⟨hmd, rfl⟩ := h
    rw [encodeX, releaseBit_of_div_two hmd, hw]
  case h_2 | h_5 =>
    obtain ⟨⟨⟨hrd, hrs2⟩, hmd⟩, rfl⟩ := h
    rw [hrd, hrs2, hmd] at hw
    exact congrArg some hw
  case h_3 | h_6 =>
    obtain ⟨⟨hrs2, hmd⟩, rfl⟩ := h
    rw [hrs2, hmd] at hw
    exact congrArg some hw
  case h_17 =>
    obtain ⟨⟨⟨⟨hrd, hrs1⟩, hrs2⟩, hmd⟩, rfl⟩ := h
    rw [hrd, hrs1, hrs2, hmd] at hw
    exact congrArg some hw
  case h_8 | h_9 =>
    obtain ⟨sc, hsc, rfl⟩ := h
    rw [encodeX, scopeBits_of_scopeOf hsc, hw]
  case h_7 | h_15 | h_16 =>
    obtain ⟨hrd, sc, hsc, rfl⟩ := h
    rw [encodeX, scopeBits_of_scopeOf hsc, ← hrd, hw]
  case h_13 | h_14 =>
    obtain ⟨hrs2, sc, hsc, rfl⟩ := h
    rw [encodeX, scopeBits_of_scopeOf hsc, ← hrs2, hw]
  case h_10 | h_11 | h_12 =>
    obtain ⟨⟨⟨hrd, hrs1⟩, hrs2⟩, sc, hsc, rfl⟩ := h
    rw [hrd, hrs1, hrs2] at hw
    rw [encodeX, scopeBits_of_scopeOf hsc, hw]

theorem encodeX_of_decode1 {e : Fin 128} {w : BitVec 32} {i : Instr} (hop : wfield w 0 7 = 0x2B)
    (h : decode1 e w = some i) : encodeX i = some w := by
  have hw := custom1_of_fields hop
  simp only [decode1] at h
  split at h
  case h_7 => cases h
  all_goals
    rename_i hfunct6
    rw [hfunct6] at hw
    cases h
    exact congrArg some hw

theorem encodeX_of_decodeX {e : Fin 128} {w : BitVec 32} {i : Instr} (h : decodeX e w = some i) : encodeX i = some w := by
  unfold decodeX at h
  split at h
  · exact encodeX_of_decode0 ‹_› h
  · exact encodeX_of_decode1 ‹_› h
  · cases h

/-! ### The obligations -/

/-- Settles O57: the forms of each layout decode from their words, and a word that decodes is the layout of its own fields,
each of which the row it decodes to keeps or fixes. -/
theorem xanvilWordsAndInstructionsAgree : Obligations.XanvilWordsAndInstructionsAgree := by
  refine ⟨fun e rd rs1 rs2 sc b fd i hi => ?_, fun _ _ _ => encodeX_of_decodeX⟩
  change i ∈ ticketForms e rd rs1 rs2 b ++ (scopedForms e rd rs1 rs2 sc ++ .xvfence e :: vectorForms e rd rs1 rs2 fd b) at hi
  simp only [List.mem_append, List.mem_cons] at hi
  obtain hi | hi | rfl | hi := hi
  · exact wordDecodes_of_mem_ticketForms e rd rs1 rs2 b i hi
  · exact wordDecodes_of_mem_scopedForms e rd rs1 rs2 sc i hi
  · exact wordDecodes_xvfence e
  · exact wordDecodes_of_mem_vectorForms e rd rs1 rs2 fd b i hi

/-- Settles O58: no field of these words is the engine's number, so each decodes by computation with the engine left open. -/
theorem wordsDecodeAsTheTablesLayThemOut : Obligations.WordsDecodeAsTheTablesLayThemOut :=
  fun _ => ⟨rfl, rfl, rfl, rfl, rfl, rfl, rfl, rfl, rfl, rfl, rfl⟩

end Sys2Proof

/-!
The admin commands on contexts, rings, doorbell lines, accounting, images and the save area (Table 14.8, R454 to R456, R458).
A command is fetched, answers by its own equation, and is reported by ADMIN_DONE or held for its completion: the ring's part is
proved once for every command, and each command's part is the equation of its answer on operands in range.
-/
namespace Sys2Proof.Machine

/-! ### An admin command's operands (R455, Table 14.7) -/

theorem lgetD_replicate {α : Type} (k i : Nat) (z : α) : lgetD (List.replicate k z) i z = z := by
  induction k generalizing i with
  | zero => rfl
  | succ k ih => cases i with
    | zero => rfl
    | succ i => exact ih i

theorem lgetD_append_replicate {α : Type} (l : List α) (k i : Nat) (z : α) :
    lgetD (l ++ List.replicate k z) i z = lgetD l i z := by
  induction l generalizing i with
  | nil => exact lgetD_replicate k i z
  | cons a t ih => cases i with
    | zero => rfl
    | succ i => exact ih i

section Operands
variable {c : AdmCmd} {l : List Word} (hops : opsAre c l)
include hops

/-- An operand word is the one listed, and zero past the list. -/
theorem lgetD_ops (i : Nat) : lgetD c.ops i 0 = lgetD l i 0 := by
  rw [show c.ops = _ from hops, lgetD_append_replicate]

theorem admOp_eq (i : Nat) : admOp c i = (lgetD l i 0).toNat := by
  rw [admOp, lgetD_ops hops]

theorem admOnly_length (hr : c.rsvd = false) : admOnly c l.length = true := by
  simp [admOnly, hr, show c.ops = _ from hops]

end Operands

theorem admOp_zero {c : AdmCmd} {n : Nat} {l : List Word} (hops : opsAre c (BitVec.ofNat 64 n :: l)) (hn : n < 2 ^ 64) :
    admOp c 0 = n :=
  (admOp_eq hops 0).trans (Nat.mod_eq_of_lt hn)

/-! ### An admin command from its fetch to its answer (R454 to R456, R459) -/

/-- The package that has fetched the command at the head of the admin ring. -/
def Dev.fetched (d : Dev) : Dev := d.modHost (fun h => { h with admHead := h.admHead + 1 })

/-- R459: an ADMIN_DONE is queued whether or not another event could be held. -/
theorem Dev.adminDone_eq (d : Dev) (cid slot : BitVec 16) (st : Status) (lo hi : Nat) :
    d.adminDone cid slot st lo hi = d.modHost (fun h => { h with
      evtQ := h.evtQ ++ [{ evt 1 st .hub (cid.toNat + 65536 * slot.toNat) lo hi with t := d.hubCount }] }) := by
  have hheld := Dev.raise_held d (evt 1 st .hub (cid.toNat + 65536 * slot.toNat) lo hi) (.inr rfl)
  calc d.adminDone cid slot st lo hi
      = { d with host := (d.adminDone cid slot st lo hi).host } := rfl
    _ = _ := by rw [Dev.adminDone, hheld]; rfl

section Ring
variable {s : State} {c : AdmCmd} {i : Instr} (hopen : s.dev.adminOpen = true)
include hopen

/-- A command that answers `st` and leaves `d'` is reported ADMIN_DONE, and beside the event leaves `d'`. -/
theorem exec_admin {f : Dev → AdmRes} (hi : exec i s = onDev s (fun d => d.admin c f)) {st : Status} {d' : Dev}
    (hf : f s.dev.fetched = ans st d') (hhead : d'.host.admHead = s.dev.host.admHead + 1) :
    ∃ q, exec i s = .next { s with dev := d'.modHost (fun h => { h with evtQ := q }) } ∧
      AdmDone s.dev (d'.modHost (fun h => { h with evtQ := q })) c st 0 0 := by
  have hadm : s.dev.admin c f = d'.adminDone c.cid s.dev.host.admHead st 0 0 := by
    rw [Dev.fetched] at hf
    simp only [Dev.admin, if_pos hopen, hf, ans]
  rw [hi, onDev_eq, hadm, Dev.adminDone_eq]
  exact ⟨_, rfl, hhead, _, List.getLast?_concat, rfl, rfl, rfl, rfl, rfl⟩

/-- A command whose answer leaves the host interface as `t` and everything else as it was. -/
theorem exec_admin_host {f : Dev → AdmRes} (hi : exec i s = onDev s (fun d => d.admin c f)) {st : Status} (t : HostIf)
    (hf : f s.dev.fetched = ans st { s.dev with host := { t with admHead := s.dev.host.admHead + 1 } })
    (hhead : t.admHead = s.dev.host.admHead) (hq : t.evtQ = s.dev.host.evtQ) :
    ∃ d, exec i s = .next { s with dev := d } ∧ AdmDone s.dev d c st 0 0 ∧ { d with host := s.dev.host } = s.dev ∧
      { d.host with admHead := s.dev.host.admHead, evtQ := s.dev.host.evtQ } = t := by
  obtain ⟨q, hexec, hdone⟩ := exec_admin hopen hi hf rfl
  refine ⟨_, hexec, hdone, rfl, ?_⟩
  rw [← hhead, ← hq]
  rfl

/-- A background command that is accepted waits for ADMIN_COMMAND_COMPLETE. -/
theorem exec_adminBg {f : Dev → Status × Dev} {b : Background} (hi : exec i s = onDev s (fun d => d.adminBg c f b)) {d' : Dev}
    (hf : f s.dev.fetched = (.ok, d')) (hhead : d'.host.admHead = s.dev.host.admHead + 1) :
    ∃ t, exec i s = .next { s with dev := d'.modHost (fun h => { h with bg := t }) } ∧
      AdmTaken s.dev (d'.modHost (fun h => { h with bg := t })) c b := by
  have hadm : s.dev.adminBg c f b =
      d'.modHost (fun h => { h with bg := tput h.bg s.dev.host.admHead.toNat (c.cid, b) }) := by
    rw [Dev.fetched] at hf
    simp only [Dev.adminBg, if_pos hopen, hf]
  rw [hi, onDev_eq, hadm]
  exact ⟨_, rfl, hhead, tget_tput_self _ _ _⟩

end Ring

/-! ### Commands that change one context (R458, R305, R480, R166) -/

theorem Dev.modCtx_of_ctx? {d : Dev} {n : Nat} {x : Ctx} (hx : d.ctx? n = some x) (f : Ctx → Ctx) :
    d.modCtx n f = d.modHost (fun h => { h with ctxs := tput h.ctxs n (f x) }) := by
  simp only [Dev.ctx?] at hx
  simp [Dev.modCtx, Dev.modHost, tmod, hx]

theorem Dev.ctxLive_of_ctx? {d : Dev} {n : Nat} {x : Ctx} (hx : d.ctx? n = some x) (hlive : x.destroying = false) :
    d.ctxLive n = true := by
  simp [Dev.ctxLive, hx, hlive]

/-- A command that changes one context changes nothing else. -/
theorem exec_admin_ctx {s : State} {c : AdmCmd} {i : Instr} (hopen : s.dev.adminOpen = true) {f : Dev → AdmRes}
    (hi : exec i s = onDev s (fun d => d.admin c f)) {n : Nat} {x : Ctx} (hx : s.dev.ctx? n = some x) {g : Ctx → Ctx}
    (hf : f s.dev.fetched = ans .ok (s.dev.fetched.modCtx n g)) :
    ∃ d, exec i s = .next { s with dev := d } ∧ AdmDone s.dev d c .ok 0 0 ∧ { d with host := s.dev.host } = s.dev ∧
      { d.host with admHead := s.dev.host.admHead, evtQ := s.dev.host.evtQ } =
        { s.dev.host with ctxs := tput s.dev.host.ctxs n (g x) } := by
  rw [Dev.modCtx_of_ctx? (show s.dev.fetched.ctx? n = some x from hx)] at hf
  exact exec_admin_host hopen hi _ hf rfl rfl

@[simp] theorem Two.get_mod_self {α : Type} (t : Two α) (h : Half) (f : α → α) : Two.get (Two.mod t h f) h = f (Two.get t h) := by
  cases h <;> rfl

/-! ### What each command answers (Table 14.8)

The guard of a command falls away on operands in range; what is left is its answer. -/

section Commands
variable {d : Dev} {c : AdmCmd} (hr : c.rsvd = false)
include hr

theorem ctxCreate_ok {n : Fin 4095} {pd : Fin 256} {ring head bind : Word} {lg : Nat} {cnt : BitVec 8} {dly : BitVec 16}
    (hops : opsAre c [BitVec.ofNat 64 n.val, BitVec.ofNat 64 pd.val, ring, BitVec.ofNat 64 lg, head, bind,
      BitVec.ofNat 64 (cnt.toNat + 256 * dly.toNat)])
    (hlo : 6 ≤ lg) (hhi : lg ≤ 16) (hra : ring.toNat % 32 = 0) (hrl : ring.toNat < 2 ^ 56) (hha : head.toNat % 8 = 0)
    (hhl : head.toNat < 2 ^ 56) (hb : bindOk bind.toNat = true) (hx : d.ctx? n.val = none) :
    ctxCreate d c = ans .ok (d.modHost (fun h =>
      { h with
        ctxs := tput h.ctxs n.val
          { pd := BitVec.ofNat 8 pd.val, ring := ring, log2 := lg, head := head, bind := bind, modCount := cnt.toNat,
            modDelay := dly.toNat } })) := by
  have hn := n.isLt
  have hpd := pd.isLt
  have hcnt8 := cnt.isLt
  have hdly16 := dly.isLt
  have hz : admOnly c 7 = true := admOnly_length hops hr
  have hcnt : fld (cnt.toNat + 256 * dly.toNat) 0 8 = cnt.toNat := by simp only [fld]; omega
  have hdly : fld (cnt.toNat + 256 * dly.toNat) 8 16 = dly.toNat := by simp only [fld]; omega
  unfold ctxCreate
  simp (disch := omega) only [admOp_eq hops, lgetD_ops hops, lgetD, BitVec.toNat_ofNat, Nat.mod_eq_of_lt, admAddr, hx, hcnt, hdly]
  rw [if_neg (by simp [hz, hra, hha, hb]; omega)]

theorem ctxDestroy_ok {n : Fin 4096} {x : Ctx} (hops : opsAre c [BitVec.ofNat 64 n.val]) (hx : d.ctx? n.val = some x)
    (hlive : x.destroying = false) (hsteps : d.sched.steps.any (fun p => p.2.ctx == n.val) = false)
    (hrings : d.host.rings.any (fun r => r.2.ctx == n.val && r.2.enabled && !r.2.overrun && !r.2.destroying) = false)
    (hregions : (d.host.regions.any (fun r => r.2.ctx == n.val)) = false) :
    ctxDestroy d c = (.ok, (d.modTiers (fun t =>
      { t with
        allocs := t.allocs.map (fun (p : Nat × Alloc) =>
          (p.1, { p.2 with attach := p.2.attach.filter (· != n.val) })) })).modCtx n.val
            (fun x => { x with destroying := true })) := by
  have hn := n.isLt
  have hz : admOnly c 1 = true := admOnly_length hops hr
  unfold ctxDestroy
  simp (disch := omega) only [admOp_eq hops, lgetD, BitVec.toNat_ofNat, Nat.mod_eq_of_lt, hx]
  rw [if_neg (by simp [hz]; omega), if_neg (by simp [hlive]), if_neg (by simp [hsteps, hrings, hregions])]

theorem ctxRoot_ok {n : Fin 4096} {r : BitVec 44} {p : BitVec 20}
    (hops : opsAre c [BitVec.ofNat 64 n.val, BitVec.ofNat 64 r.toNat, BitVec.ofNat 64 p.toNat])
    (hlive : d.ctxLive n.val = true) (hsteps : d.ctxSteps n.val = false) :
    ctxRoot d c = ans .ok (d.modCtx n.val (fun x => { x with root := some (r, p) })) := by
  have hn := n.isLt
  have hr' := r.isLt
  have hp := p.isLt
  have hz : admOnly c 3 = true := admOnly_length hops hr
  unfold ctxRoot
  simp (disch := omega) only [admOp_eq hops, lgetD, BitVec.toNat_ofNat, Nat.mod_eq_of_lt]
  rw [if_neg (by simp [hz]; omega), if_neg (by simp [hlive]), if_neg (by simp [hsteps])]
  simp only [BitVec.ofNat_toNat, BitVec.setWidth_eq]

theorem ctxParams_ok {n : Fin 4096} {la w f : Nat}
    (hops : opsAre c [BitVec.ofNat 64 n.val, BitVec.ofNat 64 la, BitVec.ofNat 64 w, BitVec.ofNat 64 f])
    (hctx : n.val ≠ 4095) (hla : 1 ≤ la) (hla' : la ≤ 16) (hw : 1000 ≤ w) (hw' : w ≤ 60000000) (hf : f < 4)
    (hlive : d.ctxLive n.val = true) :
    ctxParams d c = ans .ok (d.modCtx n.val (fun x =>
      { x with lookahead := la, window := w, dumpOn := bit f 0, ats := bit f 1 })) := by
  have hn := n.isLt
  have hz : admOnly c 4 = true := admOnly_length hops hr
  unfold ctxParams
  simp (disch := omega) only [admOp_eq hops, lgetD, BitVec.toNat_ofNat, Nat.mod_eq_of_lt]
  rw [if_neg (by simp [hz]; omega), if_neg hctx, if_neg (by simp; omega), if_neg (by simp [hlive])]

theorem acctSet_ok {n : Fin 4096} {a : Word} {p : BitVec 32}
    (hops : opsAre c [BitVec.ofNat 64 n.val, a, BitVec.ofNat 64 p.toNat])
    (hal : a.toNat % 64 = 0) (hlt : a.toNat < 2 ^ 56) (ha : a = 0 ∨ d.hostOrUmr a.toNat = true)
    (hlive : d.ctxLive n.val = true) :
    acctSet d c = ans .ok (d.modCtx n.val (fun x => { x with acct := { x.acct with buf := a, period := p.toNat } })) := by
  have hn := n.isLt
  have hp := p.isLt
  have hz : admOnly c 3 = true := admOnly_length hops hr
  have ha' : (decide (a.toNat = 0) || d.hostOrUmr a.toNat) = true := by
    obtain rfl | h := ha
    · rfl
    · simp [h]
  unfold acctSet
  simp (disch := omega) only [admOp_eq hops, lgetD_ops hops, lgetD, BitVec.toNat_ofNat, Nat.mod_eq_of_lt, admAddr]
  rw [ha', if_neg (by simp [hz, hal]; omega), if_neg (by simp [hlive])]

theorem acctNow_ok {n : Fin 4096} (hops : opsAre c [BitVec.ofNat 64 n.val]) (hlive : d.ctxLive n.val = true) :
    acctNow d c = ans .ok (d.acctWrite n.val true) := by
  have hn := n.isLt
  have hz : admOnly c 1 = true := admOnly_length hops hr
  unfold acctNow
  simp (disch := omega) only [admOp_eq hops, lgetD, BitVec.toNat_ofNat, Nat.mod_eq_of_lt]
  rw [if_neg (by simp [hz]; omega), if_neg (by simp [hlive])]

theorem flushImages_ok {n : Fin 4096} (hops : opsAre c [BitVec.ofNat 64 n.val]) (hlive : d.ctxLive n.val = true) :
    flushImages d c = ans .ok (d.modCtx n.val (fun x => { x with images := [] })) := by
  have hn := n.isLt
  have hz : admOnly c 1 = true := admOnly_length hops hr
  unfold flushImages
  simp (disch := omega) only [admOp_eq hops, lgetD, BitVec.toNat_ofNat, Nat.mod_eq_of_lt]
  rw [if_neg (by simp [hz]; omega), if_neg (by simp [hlive])]

theorem ringDestroy_ok {rn : Fin 16384} {r : Ring} (hops : opsAre c [BitVec.ofNat 64 rn.val])
    (hring : tget d.host.rings rn.val = some r) (hlive : r.destroying = false) :
    ringDestroy d c = (.ok, d.modHost (fun h =>
      { h with rings := tput h.rings rn.val { r with destroying := true, enabled := false } })) := by
  have hrn := rn.isLt
  have hz : admOnly c 1 = true := admOnly_length hops hr
  unfold ringDestroy
  simp (disch := omega) only [admOp_eq hops, lgetD, BitVec.toNat_ofNat, Nat.mod_eq_of_lt, hring]
  rw [if_neg (by simp [hz]), if_neg (by simp [hlive])]

theorem dblineSet_eq {l : Fin 1024} {pd : Fin 256} {a : Word}
    (hops : opsAre c [BitVec.ofNat 64 l.val, BitVec.ofNat 64 pd.val, a]) (hal : a.toNat % 64 = 0) (hlt : a.toNat < 2 ^ 56) :
    dblineSet d c =
      if d.host.rings.any (fun r => r.1 / 16 == l.val) then ans .busy d
      else ans .ok (d.modHost (fun h =>
        { h with lines := tput h.lines l.val { pd := BitVec.ofNat 8 pd.val, addr := a } })) := by
  have hl := l.isLt
  have hpd := pd.isLt
  have hz : admOnly c 3 = true := admOnly_length hops hr
  unfold dblineSet
  simp (disch := omega) only [admOp_eq hops, lgetD_ops hops, lgetD, BitVec.toNat_ofNat, Nat.mod_eq_of_lt, admAddr]
  rw [if_neg (by simp [hz, hal]; omega)]

theorem saveArea_ok {k : Fin 2} {n : Nat} (hops : opsAre c [BitVec.ofNat 64 k.val, BitVec.ofNat 64 (64 * 2 ^ 20 * n)])
    (hn : n < 2 ^ 30) (hcont : d.faults.contain = none)
    (hfree : (Two.get d.sched.half (halfOfNat k.val)).saveBytes ≤ 64 * 2 ^ 20 * n + d.saveFree (halfOfNat k.val))
    (hhbm : d.hbmUsed (halfOfNat k.val) + 64 * n ≤
      d.hbmMiB (halfOfNat k.val) + (Two.get d.sched.half (halfOfNat k.val)).saveBytes / 2 ^ 20) :
    saveArea d c = ans .ok (d.setHalf (halfOfNat k.val) (fun x => { x with saveBytes := 64 * 2 ^ 20 * n })) := by
  have hk := k.isLt
  have hz : admOnly c 2 = true := admOnly_length hops hr
  have hMiB : 64 * 2 ^ 20 * n / 2 ^ 20 = 64 * n := by omega
  unfold saveArea
  simp (disch := omega) only [admOp_eq hops, lgetD, BitVec.toNat_ofNat, Nat.mod_eq_of_lt, hMiB]
  rw [if_neg (by simp [hz]; omega), if_neg (by simp [hcont]), if_neg (by omega), if_neg (by omega)]

end Commands

/-! ### ACCT_NOW's writes (R480) -/

theorem localTarget_ne_host (off k : Nat) : localTarget off ≠ .host k := by
  unfold localTarget
  repeat' split
  all_goals simp

/-- Host memory is reached through an address's node number, and at its low 48 bits. -/
theorem Dev.target_of_host {d : Dev} {a k : Nat} (h : d.target true a = .host k) :
    a % 2 ^ 48 = k ∧ ∀ b, fld b 48 8 = fld a 48 8 → d.target true b = .host (b % 2 ^ 48) := by
  unfold Dev.target at h ⊢
  dsimp only at h ⊢
  split at h
  · exact absurd h (localTarget_ne_host _ _)
  next hlocal =>
    split at h
    · cases h
    next hremote =>
      split at h
      next hhost =>
        cases h
        exact ⟨rfl, fun b hb => by rw [hb, if_neg hlocal, if_neg hremote, if_pos hhost]⟩
      · cases h

theorem Dev.fwWrite_host {d : Dev} {a : Word} {k : Nat} (h : d.target true a.toNat = .host k) (bs : List Byte) :
    d.fwWrite a bs = d.emit (.hostWrite k bs none) := by
  simp [Dev.fwWrite, h]

theorem Dev.fwWrite_host_add {d : Dev} {a j : Word} {k : Nat} (h : d.target true a.toNat = .host k)
    (hj : k + j.toNat < 2 ^ 48) (bs : List Byte) : d.fwWrite (a + j) bs = d.emit (.hostWrite (k + j.toNat) bs none) := by
  obtain ⟨hoff, hnode⟩ := Dev.target_of_host h
  have hsum : (a + j).toNat = a.toNat + j.toNat := by rw [BitVec.toNat_add]; omega
  have htgt := hnode (a + j).toNat (by simp only [fld]; omega)
  rw [hsum, show (a.toNat + j.toNat) % 2 ^ 48 = k + j.toNat by omega, ← hsum] at htgt
  exact Dev.fwWrite_host htgt bs

theorem Dev.acctWrite_host {d : Dev} {n k : Nat} {x : Ctx} (hx : d.ctx? n = some x) (hbuf : x.acct.buf ≠ 0)
    (hk : k + 256 < 2 ^ 48) (htgt : d.target true x.acct.buf.toNat = .host k) :
    d.acctWrite n true =
      { d.modHost (fun h => { h with ctxs := tput h.ctxs n { x with acct := { x.acct with seq := x.acct.seq + 1 } } }) with
        out := d.out ++ [.hostWrite k (wordsBytes [(x.acct.seq + 1).toNat, d.hubCount.toNat]) none,
          .hostWrite (k + 64) (acctCounters n true x.acct) none,
          .hostWrite (k + 16) (wordsBytes [(x.acct.seq + 1).toNat]) none] } := by
  unfold Dev.acctWrite
  simp only [hx, if_neg hbuf, Dev.modCtx_of_ctx? hx]
  rw [Dev.fwWrite_host (a := x.acct.buf) (k := k), Dev.fwWrite_host_add (j := 64) (k := k),
    Dev.fwWrite_host_add (j := 16) (k := k)]
  · simp only [Dev.emit, List.append_assoc]
    rfl
  · exact htgt
  · exact (Nat.add_lt_add_left (by decide) k).trans hk
  · exact htgt
  · exact (Nat.add_lt_add_left (by decide) k).trans hk
  · exact htgt

/-! ### The doorbell line that RING_CREATE reads (R448) -/

/-- The status by which a gate refuses, if it does. -/
def Gate.refusal : Gate → Option Status
  | .refuse st => some st
  | _ => none

theorem Dev.startFill_fst (d : Dev) (f : Nat) :
    (d.startFill f).1 = (thas d.tiers.moves f || ((fillOrder (d.frame f).policy).find?
      (fun b => d.admits (d.frame f).ctx b (d.frame f).il (d.frame f).home false)).isSome) := by
  unfold Dev.startFill
  dsimp only
  split
  · simp [*]
  · split <;> simp [*]

theorem Dev.frameGate_refusal (d : Dev) (off : Nat) :
    (d.frameGate off).refusal =
      match d.backing off with
      | .unbacked => some .unmapped
      | .cave => if (d.startFill (frameOf off)).1 then none else some .noTier
      | _ => none := by
  unfold Dev.frameGate
  dsimp only
  cases d.backing off
  case unbacked => rfl
  case cave =>
    dsimp only
    split <;> rfl
  all_goals
    dsimp only
    split
    · rfl
    · split
      · split <;> rfl
      · rfl

theorem Dev.readGate_refusal (d : Dev) (off n : Nat) :
    (d.readGate off n).refusal =
      if (keysOf off n).any (fun k => thas d.coh.txns k) ||
          decide (1024 ≤ (d.coh.tickets.filter (fun x => x.slice == d.slice off)).length) then none
      else (d.frameGate off).refusal := by
  unfold Dev.readGate
  split <;> rfl

theorem Dev.homeRead_bytes (d : Dev) (off n : Nat) (ext : List Byte) :
    (d.homeRead off n ext).map (·.1) =
      if (d.farLines off n).isEmpty then .ok (d.cohRead off n)
      else (extAnswer ext n).map (fun bs => (List.range n).map (fun i =>
        if (d.farLines off n).contains ((off + i) / 64) then lgetD bs i 0 else d.cohByte (off + i))) := by
  unfold Dev.homeRead
  dsimp only
  split
  · rfl
  · cases extAnswer ext n <;> rfl

theorem Dev.fwRead_eq (d : Dev) (a : Word) (n : Nat) (ext : List Byte) :
    d.fwRead a n ext =
      match d.target true a.toNat with
      | .host _ => .ok ((ext ++ List.replicate n 0).take n)
      | .umr off => (match (d.readGate off n).refusal with
        | some st => .error st
        | none => if d.cohPoison off n then .error .poison else (d.homeRead off n ext).map (·.1))
      | .remote nd _ => if d.live nd then extAnswer ext n else .error .unreachable
      | _ => .error .unmapped := by
  unfold Dev.fwRead
  cases d.target true a.toNat
  case umr off => cases h : d.readGate off n <;> simp [Gate.refusal, h]
  all_goals rfl

theorem Dev.cohRead_fetched (d : Dev) (off n : Nat) : d.fetched.cohRead off n = d.cohRead off n := by
  induction n generalizing off with
  | zero => rfl
  | succ n ih => exact congrArg (d.cohByte off :: ·) (ih (off + 1))

/-- Fetching an admin command does not change what firmware reads: of the host interface only the contexts' quotas matter. -/
theorem Dev.fwRead_fetched (d : Dev) (a : Word) (n : Nat) (ext : List Byte) : d.fetched.fwRead a n ext = d.fwRead a n ext := by
  have hfill (f : Nat) : (d.fetched.startFill f).1 = (d.startFill f).1 := by
    rw [Dev.startFill_fst, Dev.startFill_fst]; rfl
  have hgate (off : Nat) : (d.fetched.readGate off n).refusal = (d.readGate off n).refusal := by
    rw [Dev.readGate_refusal, Dev.readGate_refusal, Dev.frameGate_refusal, Dev.frameGate_refusal, hfill]; rfl
  have hread (off : Nat) : (d.fetched.homeRead off n ext).map (·.1) = (d.homeRead off n ext).map (·.1) := by
    rw [Dev.homeRead_bytes, Dev.homeRead_bytes, Dev.cohRead_fetched]; rfl
  simp only [Dev.fwRead_eq, hgate, hread]
  rfl

theorem Dev.heatLines_only (d : Dev) (off n : Nat) : ∃ t, d.heatLines off n = { d with tiers := t } :=
  foldDev_keeps (fun d' => ∃ t, d' = { d with tiers := t })
    (by rintro _ i ⟨t, rfl⟩; exact ⟨_, rfl⟩) _ ⟨d.tiers, rfl⟩

theorem Dev.homeRead_only {d : Dev} {off n : Nat} {ext : List Byte} {r : List Byte × Dev} (h : d.homeRead off n ext = .ok r) :
    ∃ k, r.2 = { d with coh := k } := by
  unfold Dev.homeRead at h
  dsimp only at h
  split at h
  · cases h; exact ⟨_, rfl⟩
  · split at h
    · cases h
    · cases h; exact ⟨_, rfl⟩

theorem Dev.homeTouch_only (d : Dev) (off n : Nat) : ∃ t k, d.homeTouch off n = { d with tiers := t, coh := k } := by
  unfold Dev.homeTouch
  split
  next r hr =>
    obtain ⟨k, hk⟩ := Dev.homeRead_only hr
    obtain ⟨t, ht⟩ := r.2.heatLines_only off n
    exact ⟨t, k, by rw [ht, hk]⟩
  · exact ⟨_, _, rfl⟩

/-- A firmware read leaves HEAT at its home, and SnpOnce on their way to the nodes that own lines. -/
theorem Dev.fwTouch_only (d : Dev) (a : Word) (n : Nat) : ∃ t k, d.fwTouch a n = { d with tiers := t, coh := k } := by
  unfold Dev.fwTouch
  split
  · split
    · exact d.homeTouch_only _ _
    · exact ⟨_, _, rfl⟩
  · exact ⟨_, _, rfl⟩

/-! ### The tails of a doorbell line (R444, R448) -/

/-- A ring that takes the tail of its line: an impossible one is an overrun. -/
def Ring.takes (r : Ring) (t : BitVec 16) : Ring :=
  if !r.enabled || r.overrun || r.destroying then r
  else if 2 ^ r.log2 < (t - r.head).toNat then { r with overrun := true, tail := r.head }
  else { r with tail := t }

/-- An event is queued or dropped: the rings and the admin ring's head stay. -/
theorem Dev.raise_rings_admHead (d : Dev) (e : Event) :
    (d.raise e).host.rings = d.host.rings ∧ (d.raise e).host.admHead = d.host.admHead := by
  by_cases hheld : d.host.canHold = true ∨ e.kind = 1
  · rw [Dev.raise_held d e hheld]
    exact ⟨rfl, rfl⟩
  · obtain ⟨hfull, hkind⟩ := not_or.1 hheld
    rw [Dev.raise_dropped d e (Bool.eq_false_iff.2 hfull) hkind]
    exact ⟨rfl, rfl⟩

theorem tget_tput {α : Type} (t : Tbl α) (n k : Nat) (x : α) : tget (tput t n x) k = if k = n then some x else tget t k := by
  split
  next h => rw [h, tget_tput_self]
  next h => exact tget_tput_ne t x h

/-- A ring of a line leaves a tail aside, or takes it. -/
theorem Dev.takeTail_of_ring {d : Dev} {rn : Nat} {r : Ring} (hring : tget d.host.rings rn = some r) (v : BitVec 16) :
    (d.takeTail rn v = d ∧ r.takes v = r) ∨
      ∃ h, d.takeTail rn v = { d with host := h } ∧ h.admHead = d.host.admHead ∧
        h.rings = tput d.host.rings rn (r.takes v) := by
  unfold Dev.takeTail Ring.takes
  simp only [hring]
  split
  · exact .inl ⟨rfl, rfl⟩
  · split
    · exact .inr ⟨_, rfl, (Dev.raise_rings_admHead _ _).2, (Dev.raise_rings_admHead _ _).1⟩
    · exact .inr ⟨_, rfl, rfl, rfl⟩

/-- A tail reaches its own ring, and of the rest of the package the event queue and its counters at most. -/
theorem Dev.takeTail_only (d : Dev) (rn : Nat) (v : BitVec 16) :
    ∃ h, d.takeTail rn v = { d with host := h } ∧ h.admHead = d.host.admHead ∧
      ∀ j, tget h.rings j = if j = rn then (tget d.host.rings j).map (fun r => r.takes v) else tget d.host.rings j := by
  cases hring : tget d.host.rings rn with
  | none =>
    refine ⟨d.host, by simp only [Dev.takeTail, hring], rfl, fun j => ?_⟩
    split
    next hj => rw [hj, hring, Option.map_none]
    · rfl
  | some r =>
    obtain ⟨hsame, htakes⟩ | ⟨h, honly, hhead, hrings⟩ := Dev.takeTail_of_ring hring v
    · refine ⟨d.host, hsame, rfl, fun j => ?_⟩
      split
      next hj => rw [hj, hring, Option.map_some, htakes]
      · rfl
    · refine ⟨h, honly, hhead, fun j => ?_⟩
      rw [hrings, tget_tput]
      split
      next hj => rw [hj, hring, Option.map_some]
      · rfl

/-- The tails of the line of rings `16 * g` and up reach the listed rings of that line. -/
theorem foldDev_takeTail_only (g : Nat) (bs : List Byte) (l : List Nat) (hl : l.Nodup) (d : Dev) :
    ∃ h, foldDev d l (fun d k => d.takeTail (16 * g + k) (lineTail bs k)) = { d with host := h } ∧
      h.admHead = d.host.admHead ∧ ∀ j, tget h.rings j =
        if 16 * g ≤ j ∧ j - 16 * g ∈ l then (tget d.host.rings j).map (fun r => r.takes (lineTail bs (j - 16 * g)))
        else tget d.host.rings j := by
  induction l generalizing d with
  | nil => exact ⟨d.host, rfl, rfl, fun j => by simp⟩
  | cons k t ih =>
    obtain ⟨hk, ht⟩ := List.nodup_cons.1 hl
    obtain ⟨h1, honly1, hhead1, hrings1⟩ := d.takeTail_only (16 * g + k) (lineTail bs k)
    obtain ⟨h2, honly2, hhead2, hrings2⟩ := ih ht { d with host := h1 }
    refine ⟨h2, ?_, hhead2.trans hhead1, fun j => ?_⟩
    · change foldDev (d.takeTail (16 * g + k) (lineTail bs k)) t _ = _
      rw [honly1]
      exact honly2
    · rw [hrings2, hrings1]
      by_cases hj : j = 16 * g + k
      · subst hj
        simp [hk]
      · have hmem : (16 * g ≤ j ∧ j - 16 * g ∈ k :: t) ↔ (16 * g ≤ j ∧ j - 16 * g ∈ t) := by
          refine and_congr_right fun hle => ?_
          rw [List.mem_cons, or_iff_right (by omega)]
        simp only [hmem, if_neg hj]

/-- A ring as RING_CREATE makes it, at the tail of its line: it has nothing to fetch. -/
def newRing (n cls : Nat) (base : Word) (lg : Nat) (t : BitVec 16) : Ring :=
  { ctx := n, cls := cls, base := base, log2 := lg, head := t, tail := t }

/-- A new ring's own tail leaves it as it is. -/
theorem newRing_takes (n cls : Nat) (base : Word) (lg : Nat) (t : BitVec 16) :
    (newRing n cls base lg t).takes t = newRing n cls base lg t := by
  simp [Ring.takes, newRing]

theorem ringCreate_ok {d : Dev} {c : AdmCmd} (hr : c.rsvd = false) {rn : Fin 16384} {n : Fin 4096} {cls : Fin 4} {base : Word}
    {lg : Nat} {l : DbLine} {ext bs : List Byte} {x : Ctx}
    (hops : opsAre c [BitVec.ofNat 64 rn.val, BitVec.ofNat 64 n.val, BitVec.ofNat 64 cls.val, base, BitVec.ofNat 64 lg])
    (hal : base.toNat % 64 = 0) (hlt : base.toNat < 2 ^ 56) (hlo : 4 ≤ lg) (hhi : lg ≤ 15) (hbase : d.hostOrUmr base.toNat = true)
    (hnew : tget d.host.rings rn.val = none) (hline : tget d.host.lines (rn.val / 16) = some l) (hpd : l.pd = x.pd)
    (hx : d.ctx? n.val = some x) (hlive : x.destroying = false) (hread : d.fwRead l.addr 64 ext = .ok bs) :
    ∃ h t k, ringCreate d c ext = ans .ok { d with host := h, tiers := t, coh := k } ∧ h.admHead = d.host.admHead ∧
      ∀ j, tget h.rings j =
        if j / 16 = rn.val / 16 then
          (tget (tput d.host.rings rn.val (newRing n.val cls.val base lg (lineTail bs (rn.val % 16)))) j).map
            (fun r => r.takes (lineTail bs (j % 16)))
        else tget d.host.rings j := by
  have hrn := rn.isLt
  have hn := n.isLt
  have hcls := cls.isLt
  have hz : admOnly c 5 = true := admOnly_length hops hr
  obtain ⟨t, k, htouch⟩ := d.fwTouch_only l.addr 64
  obtain ⟨h, hfold, hhead, hrings⟩ := foldDev_takeTail_only (rn.val / 16) bs (List.range 16) List.nodup_range
    ((d.fwTouch l.addr 64).modHost (fun h =>
      { h with rings := tput h.rings rn.val (newRing n.val cls.val base lg (lineTail bs (rn.val % 16))) }))
  refine ⟨h, t, k, ?_, ?_, fun j => ?_⟩
  · unfold ringCreate
    simp (disch := omega) only [admOp_eq hops, lgetD_ops hops, lgetD, BitVec.toNat_ofNat, Nat.mod_eq_of_lt, admAddr]
    rw [if_neg (by simp [hz, hal, hbase]; omega)]
    simp only [hnew, hx, hline, hread]
    rw [if_neg (by simp [hlive, hpd])]
    refine congrArg (ans .ok) (hfold.trans ?_)
    rw [htouch]
    rfl
  · rw [hhead, htouch]
    rfl
  · rw [hrings j, htouch]
    by_cases hj : j / 16 = rn.val / 16
    · rw [if_pos ⟨by omega, List.mem_range.2 (by omega)⟩, if_pos hj, show j - 16 * (rn.val / 16) = j % 16 by omega]
      rfl
    · rw [if_neg (by rw [List.mem_range]; omega), if_neg hj]
      exact tget_tput_ne _ _ (by rintro rfl; exact hj rfl)

/-- The command is answered at once when its line's home does not hold the read (R448). -/
theorem exec_ringCreate_eq_admin {s : State} {c : AdmCmd} {ext : List Byte} {l : DbLine} (hopen : s.dev.adminOpen = true)
    (hline : tget s.dev.host.lines (admOp c 0 / 16) = some l) (hholds : s.dev.fwHolds l.addr 64 = none) :
    exec (.ringCreate c ext) s = onDev s (fun d => d.admin c (fun d => ringCreate d c ext)) := by
  change execRingCreate c ext s = _
  rw [execRingCreate, onDev_eq, onDev_eq]
  simp only [hopen, hline, Dev.fwThen, hholds]

/-! ### The allocations of a context that is destroyed (R458) -/

theorem tget_map {α β : Type} (f : α → β) (t : Tbl α) (n : Nat) :
    tget (t.map (fun p => (p.1, f p.2))) n = (tget t n).map f := by
  induction t with
  | nil => rfl
  | cons p t ih =>
    obtain ⟨k, v⟩ := p
    by_cases h : k = n
    · simp [tget, h]
    · simpa [tget, h] using ih

/-- An allocation from which context `n` is detached. -/
def Alloc.detach (n : Nat) (a : Alloc) : Alloc := { a with attach := a.attach.filter (· != n) }

theorem Alloc.detach_contains (n : Nat) (a : Alloc) : (a.detach n).attach.contains n = false := by
  simp [Alloc.detach]

/-! ### The commands that touch more than the host interface, or more than one entry of it -/

section Answers
variable {s : State} {c : AdmCmd} (hopen : s.dev.adminOpen = true) (hr : c.rsvd = false)
include hopen hr

/-- R458: a context without steps, rings or regions is accepted for destruction, and no allocation keeps it attached. -/
theorem exec_ctxDestroy {n : Fin 4096} {x : Ctx} (hops : opsAre c [BitVec.ofNat 64 n.val]) (hx : s.dev.ctx? n.val = some x)
    (hlive : x.destroying = false) (hsteps : s.dev.sched.steps.any (fun p => p.2.ctx == n.val) = false)
    (hrings : s.dev.host.rings.any (fun r => r.2.ctx == n.val && r.2.enabled && !r.2.overrun && !r.2.destroying) = false)
    (hregions : (s.dev.host.regions.any (fun r => r.2.ctx == n.val)) = false) :
    ∃ d, exec (.ctxDestroy c) s = .next { s with dev := d } ∧ AdmTaken s.dev d c (.ctxDestroy n.val) ∧
      d.ctx? n.val = some { x with destroying := true } ∧ (∀ k, k ≠ n.val → d.ctx? k = s.dev.ctx? k) ∧ d.mem = s.dev.mem ∧
      (∀ i a, tget d.tiers.allocs i = some a → a.attach.contains n.val = false) := by
  obtain ⟨t, hexec, htaken⟩ := exec_adminBg (i := .ctxDestroy c) hopen rfl
    (ctxDestroy_ok (d := s.dev.fetched) hr hops hx hlive hsteps hrings hregions) rfl
  rw [admOp_zero hops (by omega)] at htaken
  refine ⟨_, hexec, htaken, ?_, fun k hk => ?_, ?_, fun i a ha => ?_⟩
  · exact (Dev.ctx?_modCtx_self _ _ _).trans (congrArg _ hx)
  · exact Dev.ctx?_modCtx_ne _ _ hk
  · simp [Dev.fetched, Dev.modCtx]
  · obtain ⟨b, -, rfl⟩ := Option.map_eq_some_iff.1 ((tget_map (Alloc.detach n.val) _ i).symm.trans ha)
    exact b.detach_contains n.val

/-- R480: the sequence number goes before and after the counters. -/
theorem exec_acctNow {n : Fin 4096} {x : Ctx} {k : Nat} (hops : opsAre c [BitVec.ofNat 64 n.val])
    (hx : s.dev.ctx? n.val = some x) (hlive : x.destroying = false) (hbuf : x.acct.buf ≠ 0) (hk : k + 256 < 2 ^ 48)
    (htgt : s.dev.target true x.acct.buf.toNat = .host k) :
    ∃ d, exec (.acctNow c) s = .next { s with dev := d } ∧ AdmDone s.dev d c .ok 0 0 ∧
      d.out = s.dev.out ++ [.hostWrite k (wordsBytes [(x.acct.seq + 1).toNat, s.dev.hubCount.toNat]) none,
        .hostWrite (k + 64) (acctCounters n.val true x.acct) none,
        .hostWrite (k + 16) (wordsBytes [(x.acct.seq + 1).toNat]) none] ∧
      { d with out := s.dev.out, host := s.dev.host } = s.dev ∧
      { d.host with admHead := s.dev.host.admHead, evtQ := s.dev.host.evtQ } =
        { s.dev.host with
          ctxs := tput s.dev.host.ctxs n.val { x with acct := { x.acct with seq := x.acct.seq + 1 } } } := by
  have hctx : s.dev.fetched.ctxLive n.val = true := Dev.ctxLive_of_ctx? hx hlive
  have hwrite := Dev.acctWrite_host (d := s.dev.fetched) hx hbuf hk htgt
  obtain ⟨q, hexec, hdone⟩ := exec_admin (i := .acctNow c) hopen rfl
    ((acctNow_ok hr hops hctx).trans (congrArg _ hwrite)) rfl
  refine ⟨_, hexec, hdone, rfl, ?_, ?_⟩
  · simp [Dev.fetched]
  · simp [Dev.fetched]

/-- R444, R448: the new ring stands at its line's tail, and the other rings of the line take theirs. -/
theorem exec_ringCreate {rn : Fin 16384} {n : Fin 4096} {cls : Fin 4} {base : Word} {lg : Nat} {l : DbLine}
    {ext bs : List Byte} {x : Ctx}
    (hops : opsAre c [BitVec.ofNat 64 rn.val, BitVec.ofNat 64 n.val, BitVec.ofNat 64 cls.val, base, BitVec.ofNat 64 lg])
    (hx : s.dev.ctx? n.val = some x) (hlive : x.destroying = false)
    (hal : base.toNat % 64 = 0) (hlt : base.toNat < 2 ^ 56) (hlo : 4 ≤ lg) (hhi : lg ≤ 15)
    (hbase : s.dev.hostOrUmr base.toNat = true) (hnew : tget s.dev.host.rings rn.val = none)
    (hline : tget s.dev.host.lines (rn.val / 16) = some l) (hpd : l.pd = x.pd) (hholds : s.dev.fwHolds l.addr 64 = none)
    (hread : s.dev.fwRead l.addr 64 ext = .ok bs) :
    ∃ d, exec (.ringCreate c ext) s = .next { s with dev := d } ∧ AdmDone s.dev d c .ok 0 0 ∧
      { d with host := s.dev.host, tiers := s.dev.tiers, coh := s.dev.coh } = s.dev ∧
      tget d.host.rings rn.val = some (newRing n.val cls.val base lg (lineTail bs (rn.val % 16))) ∧
      (∀ k, k / 16 ≠ rn.val / 16 → tget d.host.rings k = tget s.dev.host.rings k) ∧
      (∀ (k : Fin 16) (r : Ring), k.val ≠ rn.val % 16 → tget s.dev.host.rings (rn.val / 16 * 16 + k.val) = some r →
        tget d.host.rings (rn.val / 16 * 16 + k.val) = some (r.takes (lineTail bs k.val))) := by
  have hline' : tget s.dev.host.lines (admOp c 0 / 16) = some l := by rwa [admOp_zero hops (by omega)]
  obtain ⟨h, t, k, hans, hhead, hrings⟩ := ringCreate_ok (d := s.dev.fetched) hr hops hal hlt hlo hhi hbase hnew hline hpd hx
    hlive ((s.dev.fwRead_fetched _ _ _).trans hread)
  obtain ⟨q, hexec, hdone⟩ := exec_admin hopen (exec_ringCreate_eq_admin hopen hline' hholds) hans hhead
  refine ⟨_, hexec, hdone, ?_, ?_, fun j hj => ?_, fun j r hj hring => ?_⟩
  · simp [Dev.fetched]
  · refine (hrings rn.val).trans ?_
    rw [if_pos rfl, tget_tput_self, Option.map_some, newRing_takes]
  · exact (hrings j).trans (if_neg hj)
  · refine (hrings _).trans ?_
    rw [if_pos (by omega), tget_tput_ne _ _ (by omega), show (rn.val / 16 * 16 + j.val) % 16 = j.val by omega]
    exact congrArg _ hring

theorem exec_ringDestroy {rn : Fin 16384} {r : Ring} (hops : opsAre c [BitVec.ofNat 64 rn.val])
    (hring : tget s.dev.host.rings rn.val = some r) (hlive : r.destroying = false) :
    ∃ d, exec (.ringDestroy c) s = .next { s with dev := d } ∧ AdmTaken s.dev d c (.ringDestroy rn.val) ∧
      tget d.host.rings rn.val = some { r with destroying := true, enabled := false } ∧
      { d with host := s.dev.host } = s.dev := by
  obtain ⟨t, hexec, htaken⟩ := exec_adminBg (i := .ringDestroy c) hopen rfl
    (ringDestroy_ok (d := s.dev.fetched) hr hops hring hlive) rfl
  rw [admOp_zero hops (by omega)] at htaken
  refine ⟨_, hexec, htaken, tget_tput_self _ _ _, ?_⟩
  simp [Dev.fetched]

theorem exec_saveArea {k : Fin 2} {n : Nat} (hops : opsAre c [BitVec.ofNat 64 k.val, BitVec.ofNat 64 (64 * 2 ^ 20 * n)])
    (hn : n < 2 ^ 30) (hcont : s.dev.faults.contain = none)
    (hfree : (Two.get s.dev.sched.half (halfOfNat k.val)).saveBytes ≤ 64 * 2 ^ 20 * n + s.dev.saveFree (halfOfNat k.val))
    (hhbm : s.dev.hbmUsed (halfOfNat k.val) + 64 * n ≤
      s.dev.hbmMiB (halfOfNat k.val) + (Two.get s.dev.sched.half (halfOfNat k.val)).saveBytes / 2 ^ 20) :
    ∃ d, exec (.saveArea c) s = .next { s with dev := d } ∧ AdmDone s.dev d c .ok 0 0 ∧
      (Two.get d.sched.half (halfOfNat k.val)).saveBytes = 64 * 2 ^ 20 * n ∧
      { d with host := s.dev.host, sched := s.dev.sched } = s.dev := by
  obtain ⟨q, hexec, hdone⟩ := exec_admin (i := .saveArea c) hopen rfl
    (saveArea_ok (d := s.dev.fetched) hr hops hn hcont hfree hhbm) rfl
  refine ⟨_, hexec, hdone, ?_, ?_⟩
  · simp [Dev.setHalf]
  · simp [Dev.fetched, Dev.setHalf]

end Answers

/-! ### The obligation -/

/-- Settles O52: a command that completes changes the host interface as its answer says, by the admin ring's lemmas; the
others have their own. -/
theorem adminCommandsOnContextsAndRings : Obligations.AdminCommandsOnContextsAndRings := by
  intro s c hopen hr
  refine ⟨?_, ?_, ?_, ?_, ?_⟩
  · intro n pd ring head bind lg cnt dly hops hlo hhi hra hrl hha hhl hb hx
    exact exec_admin_host hopen rfl _ (ctxCreate_ok (d := s.dev.fetched) hr hops hlo hhi hra hrl hha hhl hb hx) rfl rfl
  · intro n x hx hlive
    have hctx : s.dev.fetched.ctxLive n.val = true := Dev.ctxLive_of_ctx? hx hlive
    refine ⟨?_, ?_, ?_, ?_, ?_, ?_, ?_⟩
    · intro hops hsteps hrings hregions
      exact exec_ctxDestroy hopen hr hops hx hlive hsteps hrings hregions
    · intro r p hops hsteps
      exact exec_admin_ctx (f := fun d => ctxRoot d c) hopen rfl hx (ctxRoot_ok hr hops hctx hsteps)
    · intro la w f hops hn hla hla' hw hw' hf
      exact exec_admin_ctx (f := fun d => ctxParams d c) hopen rfl hx (ctxParams_ok hr hops hn hla hla' hw hw' hf hctx)
    · intro a p hops hal hlt ha
      exact exec_admin_ctx (f := fun d => acctSet d c) hopen rfl hx (acctSet_ok hr hops hal hlt ha hctx)
    · intro k hops hbuf hk htgt
      exact exec_acctNow hopen hr hops hx hlive hbuf hk htgt
    · intro hops
      exact exec_admin_ctx (f := fun d => flushImages d c) hopen rfl hx (flushImages_ok hr hops hctx)
    · intro rn cls base lg l ext bs hops hal hlt hlo hhi hbase hnew hline hpd hholds hread
      exact exec_ringCreate hopen hr hops hx hlive hal hlt hlo hhi hbase hnew hline hpd hholds hread
  · intro rn r hops hring hlive
    exact exec_ringDestroy hopen hr hops hring hlive
  · intro l pd a hops hal hlt
    have hans := dblineSet_eq (d := s.dev.fetched) hr hops hal hlt
    refine ⟨fun hrings => ?_, fun hrings => ?_⟩
    · exact exec_admin_host hopen rfl _ (hans.trans (if_neg (Bool.eq_false_iff.1 hrings))) rfl rfl
    · exact exec_admin_host hopen rfl _ (hans.trans (if_pos hrings)) rfl rfl
  · intro k n hops hn hcont hfree hhbm
    exact exec_saveArea hopen hr hops hn hcont hfree hhbm

end Sys2Proof.Machine

/-!
Rennet objects at their banks (R202, R204). A configure rewrites its object and completes every wait on it; what follows a
performed operation, wakes and answers to other nodes and then the engines that go on, leaves every object as it is.
-/
namespace Sys2Proof.Machine

/-! ### What a signal that arrives takes with it (R206) -/

/-- An operation that arrives leaves the messages in flight, and nothing else. -/
theorem Dev.arriveTag_only {d d0 : Dev} {m : RMsg} {t : Option Nat} (h : d.arriveTag m = some (t, d0)) :
    ∃ l, d0 = d.modRennet (fun r => { r with msgs := l }) := by
  unfold Dev.arriveTag at h
  split at h
  · split at h
    · cases h; exact ⟨_, rfl⟩
    · cases h
  · cases h; exact ⟨_, rfl⟩

/-- A configure of this node's own that arrives is performed, and the engines that it lets go on do so. -/
theorem Dev.sigArrives_configure {d d0 : Dev} {src : RSrc} {obj : Nat} {v : Word}
    (harr : d.arriveTag (.sig src .sig obj v) = some (none, d0)) (hk : fld v.toNat 62 2 = 1) :
    d.sigArrives src .sig obj v = (d0.bankConfigure src obj v).settle := by
  simp [Dev.sigArrives, harr, Dev.bankOp, hk]

/-! ### Packets and wakes that leave (R203, R411) -/

/-- `d'` is `d` after messages have been sent: packets and link frames, with the entropy that their rekeys spend, and Rennet
messages to engines of this node. -/
def Dev.Sends (d d' : Dev) : Prop :=
  ∃ c n o m, d' = { d with chain := c, free := n, out := o, rennet := { d.rennet with msgs := m } }

theorem Dev.Sends.refl (d : Dev) : d.Sends d := ⟨_, _, _, _, rfl⟩

theorem Dev.Sends.trans {d e f : Dev} : d.Sends e → e.Sends f → d.Sends f := by
  rintro ⟨_, _, _, _, rfl⟩ ⟨_, _, _, _, rfl⟩
  exact ⟨_, _, _, _, rfl⟩

section SendsKeeps
variable {d d' : Dev} (h : d.Sends d')
include h

theorem Dev.Sends.objs : d'.rennet.objs = d.rennet.objs := by obtain ⟨_, _, _, _, rfl⟩ := h; rfl
theorem Dev.Sends.waiters : d'.rennet.waiters = d.rennet.waiters := by obtain ⟨_, _, _, _, rfl⟩ := h; rfl
theorem Dev.Sends.mem : d'.mem = d.mem := by obtain ⟨_, _, _, _, rfl⟩ := h; rfl
theorem Dev.Sends.engines : d'.engines = d.engines := by obtain ⟨_, _, _, _, rfl⟩ := h; rfl
theorem Dev.Sends.sched : d'.sched = d.sched := by obtain ⟨_, _, _, _, rfl⟩ := h; rfl
theorem Dev.Sends.host : d'.host = d.host := by obtain ⟨_, _, _, _, rfl⟩ := h; rfl

theorem Dev.Sends.obj (n : Nat) : d'.obj n = d.obj n := by rw [Dev.obj, h.objs, Dev.obj]

end SendsKeeps

theorem Dev.modChain_sends (d : Dev) (f : Chain → Chain) : d.Sends (d.modChain f) := ⟨_, _, _, _, rfl⟩

theorem Dev.rekeyDue_sends (d : Dev) (pn : Nat) : d.Sends (d.rekeyDue pn) := by
  unfold Dev.rekeyDue
  dsimp only
  split
  · exact ⟨_, _, _, _, rfl⟩
  · exact .refl d

theorem Dev.frameOut_sends (d : Dev) (pn : Nat) (k : Option ChainPkt) : d.Sends (d.frameOut pn k) :=
  .trans ⟨_, _, _, _, rfl⟩ (Dev.rekeyDue_sends _ pn)

theorem Dev.portSend_sends (d : Dev) (pn : Nat) (k : ChainPkt) : d.Sends (d.portSend pn k) :=
  .trans (d.modChain_sends _) (Dev.frameOut_sends _ pn _)

theorem Dev.trySend_sends {d d' : Dev} {dst : Nat} {k : ChainPkt} (h : d.trySend dst k = some d') : d.Sends d' := by
  unfold Dev.trySend at h
  split at h
  · cases h
  · split at h
    · cases h
    · dsimp only at h
      split at h
      · cases h
      · cases h
        exact .trans (d.modChain_sends _) (Dev.portSend_sends _ _ _)

theorem flushList_sends (l : List (Nat × ChainPkt)) (d : Dev) (keep : List (Nat × ChainPkt)) :
    d.Sends (flushList d l keep) := by
  induction l generalizing d keep with
  | nil => exact d.modChain_sends _
  | cons p t ih =>
    unfold flushList
    split
    · exact ih d _
    · split
      · exact (Dev.trySend_sends ‹_›).trans (ih _ _)
      · exact ih d _

theorem transitList_sends (l : List (Nat × ChainPkt)) (d : Dev) (keep : List (Nat × ChainPkt)) :
    d.Sends (transitList d l keep) := by
  induction l generalizing d keep with
  | nil => exact d.modChain_sends _
  | cons p t ih =>
    have howe : d.Sends (d.owe p.1 p.2) := ⟨_, _, _, _, rfl⟩
    unfold transitList
    split
    · exact howe.trans (ih _ _)
    · extract_lets src dst out
      split
      · exact ih d _
      · exact (howe.trans (Dev.portSend_sends _ _ _)).trans (ih _ _)

theorem Dev.flushSend_sends (d : Dev) : d.Sends d.flushSend := by
  unfold Dev.flushSend
  dsimp only
  split
  · exact flushList_sends _ d _
  · exact (transitList_sends _ d _).trans (flushList_sends _ _ _)

theorem Dev.answerWaiter_sends (d : Dev) (w : Waiter) (st : Status) (v : Word) : d.Sends (d.answerWaiter w st v) := by
  unfold Dev.answerWaiter
  dsimp only
  split
  · split
    · exact d.modChain_sends _
    · exact .refl d
  · exact .refl d

theorem Dev.wakeOne_sends (d : Dev) (w : Waiter) (v : Word) : d.Sends (d.wakeOne w v) := by
  unfold Dev.wakeOne
  split
  · exact ⟨_, _, _, _, rfl⟩
  · exact (d.answerWaiter_sends w .ok v).trans (Dev.flushSend_sends _)

/-- R203: the waits on an object that are met are retired, and their wakes are sent. -/
theorem Dev.checkWaits_sends (d : Dev) (obj : Nat) :
    (d.modRennet (fun r =>
      { r with waiters := r.waiters.filter (fun w => !(w.obj == obj && waitDone (d.obj obj) w.operand)) })).Sends
      (d.checkWaits obj) :=
  foldDev_keeps _ (fun e w h => h.trans (e.wakeOne_sends w (waitValue (d.obj obj)))) _ (.refl _)

/-! ### A performed configure (R204) -/

/-- An operation that ends a stall changes what the deadlock detector holds, and nothing else (R216). -/
theorem Dev.opEndsStall_only (d : Dev) (obj : Nat) :
    ∃ f, d.opEndsStall obj = d.modRennet (fun r => { r with fired := f }) := by
  unfold Dev.opEndsStall
  split
  · exact ⟨_, rfl⟩
  · exact ⟨d.rennet.fired, rfl⟩

/-- The record of an operation changes the histories and what the deadlock detector holds, and nothing else (R216, R219). -/
theorem Dev.record_only (d : Dev) (obj kind : Nat) (s : RSrc) (v : Word) :
    ∃ h l f, d.record obj kind s v = d.modRennet (fun r => { r with hist := h, last := l, fired := f }) := by
  unfold Dev.record
  dsimp only
  obtain ⟨f, hf⟩ := Dev.opEndsStall_only (d.modRennet _) obj
  exact ⟨_, _, f, hf⟩

/-- An object as a configure leaves it: a new type and target, one generation on, everything else cleared. -/
def RObj.configured (o : RObj) (t : RTyp) (v : Word) : RObj :=
  { gen := o.gen + 1, thresh := v.truncate 32, typ := t, owner := o.owner }

/-- A wait that had not completed completes by the generation of a configure. -/
theorem waitDone_configured {o : RObj} {w : Word} (h : waitDone o w = false) (t : RTyp) (v : Word) :
    waitDone (o.configured t v) w = true := by
  have hgen : o.gen = BitVec.ofNat 32 (w.toNat / 2 ^ 32) := by
    simp only [waitDone, Bool.or_eq_false_iff, bne_eq_false_iff_eq] at h
    exact h.1
  have hnext : o.gen + 1 ≠ o.gen := by simp
  simp only [waitDone, RObj.configured, ← hgen, bne_iff_ne.2 hnext, Bool.true_or]

/-- On a legal operand a configure is performed: the object is rewritten, then its waits are checked. -/
theorem Dev.bankConfigure_ok {d : Dev} {src : RSrc} {obj : Nat} {v : Word} {t : RTyp}
    (hopen : d.objOpen obj src.pd.toNat = true) (hk : v.toNat / 2 ^ 62 = 1) (ht : rtypOf (v.toNat / 2 ^ 60 % 4) = some t)
    (hz : v.toNat / 2 ^ 32 % 2 ^ 28 = 0) (hb : t = .barrier → 1 ≤ v.toNat % 2 ^ 32 ∧ v.toNat % 2 ^ 32 ≤ 256) :
    d.bankConfigure src obj v =
      ((d.record obj 2 src v).setObj obj ((d.obj obj).configured t v)).checkWaits obj := by
  have hthresh : BitVec.ofNat 32 (v.toNat % 2 ^ 32) = v.truncate 32 := by
    apply BitVec.eq_of_toNat_eq
    simp
  unfold Dev.bankConfigure
  simp only [fld, Nat.pow_zero, Nat.div_one, hopen, Bool.not_true, Bool.false_eq_true, if_false,
    show (2 : Nat) ^ 2 = 4 from rfl, ht, hz, hk, hthresh]
  by_cases hbar : t = .barrier
  · obtain ⟨hlo, hhi⟩ := hb hbar
    rw [if_neg (by simp [hbar]; omega)]
    rfl
  · rw [if_neg (by simp [hbar])]
    rfl

/-- What a legal configure leaves: its object rewritten and without waits, the others, memory, engines and steps as they were. -/
theorem Dev.bankConfigure_result {d : Dev} {src : RSrc} {obj : Nat} {v : Word} {t : RTyp}
    (hopen : d.objOpen obj src.pd.toNat = true) (hk : v.toNat / 2 ^ 62 = 1) (ht : rtypOf (v.toNat / 2 ^ 60 % 4) = some t)
    (hz : v.toNat / 2 ^ 32 % 2 ^ 28 = 0) (hb : t = .barrier → 1 ≤ v.toNat % 2 ^ 32 ∧ v.toNat % 2 ^ 32 ≤ 256)
    (hwaits : ∀ w ∈ d.rennet.waiters, w.obj = obj → waitDone (d.obj obj) w.operand = false) :
    (d.bankConfigure src obj v).obj obj = (d.obj obj).configured t v ∧
      (∀ w ∈ (d.bankConfigure src obj v).rennet.waiters, w.obj ≠ obj) ∧
      (∀ n, n ≠ obj → (d.bankConfigure src obj v).obj n = d.obj n) ∧ (d.bankConfigure src obj v).mem = d.mem ∧
      (d.bankConfigure src obj v).engines = d.engines ∧ (d.bankConfigure src obj v).sched = d.sched := by
  obtain ⟨h, l, f, hrec⟩ := d.record_only obj 2 src v
  have hsends := Dev.checkWaits_sends ((d.record obj 2 src v).setObj obj ((d.obj obj).configured t v)) obj
  rw [hrec] at hsends
  rw [Dev.bankConfigure_ok hopen hk ht hz hb, hrec]
  refine ⟨(hsends.obj obj).trans (Dev.obj_setObj_self _ _ _), fun w hw hobj => ?_,
    fun n hn => (hsends.obj n).trans (Dev.obj_setObj_ne _ _ hn), hsends.mem, hsends.engines, hsends.sched⟩
  rw [hsends.waiters] at hw
  obtain ⟨hreg, hunmet⟩ := List.mem_filter.1 hw
  have hmet := waitDone_configured (hwaits w hreg hobj) t v
  rw [Dev.obj_setObj_self, hmet, hobj] at hunmet
  simp at hunmet

/-! ### Engines that go on leave every object as it is (R129, R135 to R145) -/

theorem foldDev_objs {α : Type} {f : Dev → α → Dev} (hf : ∀ d x, (f d x).rennet.objs = d.rennet.objs) (l : List α)
    (d : Dev) :
    (foldDev d l f).rennet.objs = d.rennet.objs :=
  foldDev_keeps (fun e => e.rennet.objs = d.rennet.objs) (fun e x h => (hf e x).trans h) l rfl

@[simp] theorem Dev.signal_objs (d : Dev) (b : Word) : (d.signal b).rennet.objs = d.rennet.objs :=
  (congrArg (fun e : Dev => e.rennet.objs) (d.signal_only b) :)

@[simp] theorem Dev.flushIrqs_objs (d : Dev) : d.flushIrqs.rennet.objs = d.rennet.objs := by
  unfold Dev.flushIrqs
  split
  · rfl
  · exact foldDev_objs Dev.signal_objs _ _

@[simp] theorem Dev.chainSend_objs (d : Dev) (dst : Nat) (cls : Fin 8) (src : Agent) (ctx pd tag len : Nat) (body : ChainBody)
    (slice : Nat) : (d.chainSend dst cls src ctx pd tag len body slice).rennet.objs = d.rennet.objs :=
  (Dev.flushSend_sends _).objs

@[simp] theorem Dev.lostStore_objs (d : Dev) (src : Agent) (ctx step : Option Nat) (node addr len : Nat) (red sg : Bool) :
    (d.lostStore src ctx step node addr len red sg).rennet.objs = d.rennet.objs := by
  unfold Dev.lostStore
  split
  · rfl
  · rfl
  · dsimp only
    split <;> rfl

@[simp] theorem Dev.launch_objs (d : Dev) (w : OutW) (t : Target) : (d.launch w t).rennet.objs = d.rennet.objs := by
  unfold Dev.launch
  dsimp only
  split
  case h_4 =>
    split
    · simp
    · split
      · rfl
      · simp [Dev.newTag]
  all_goals rfl

@[simp] theorem Dev.issueWrite_objs (d : Dev) (src : Agent) (addr : Nat) (bs : List Byte) (red : Option (RedOp × RType))
    (rq : Nat) : (d.issueWrite src addr bs red rq).rennet.objs = d.rennet.objs := by
  unfold Dev.issueWrite
  dsimp only
  split
  · rfl
  · simp

@[simp] theorem Dev.issueWrites_objs (d : Dev) (src : Agent) (addr : Nat) (bs : List Byte) (red : Option (RedOp × RType))
    (u rq : Nat) : (d.issueWrites src addr bs red u rq).rennet.objs = d.rennet.objs := by
  unfold Dev.issueWrites
  refine foldDev_objs (fun e p => ?_) _ _
  simp

@[simp] theorem Dev.rennetSend_objs (d : Dev) (n : Option Nat) (src : Agent) (step : Option Nat) (m : RMsg) :
    (d.rennetSend n src step m).rennet.objs = d.rennet.objs := by
  unfold Dev.rennetSend
  cases n with
  | none => rfl
  | some node =>
    cases m with
    | sig s k obj v t st =>
      dsimp only
      split <;> simp [Dev.newTag]
    | add s obj v t => cases src <;> simp [Dev.newTag]
    | wait s obj v sc t => cases src <;> simp [Dev.newTag]
    | wake e v => rfl

@[simp] theorem Dev.sendAtomic_objs (d : Dev) (e : Fin 128) (addr : Nat) (op : AtomOp) :
    (d.sendAtomic e addr op).rennet.objs = d.rennet.objs := by
  unfold Dev.sendAtomic
  split
  · rfl
  · simp [Dev.newTag]
  · rfl

@[simp] theorem Dev.stopEng_objs (d : Dev) (e : Fin 128) : (d.stopEng e).rennet.objs = d.rennet.objs := by
  have hwait (b : Bool) : (if b = true then d.cancelFar e else d).rennet.objs = d.rennet.objs := by cases b <;> rfl
  simp only [Dev.stopEng, Dev.modEng_rennet, Dev.dropUser, Dev.abandon, Dev.modAnvil_rennet, Dev.modRennet_rennet]
  exact hwait _

@[simp] theorem Dev.endStep_objs (d : Dev) (n : Nat) (o : Outcome) : (d.endStep n o).rennet.objs = d.rennet.objs := by
  have hstop (es : List (Fin 128)) : (d.stopAll n es).rennet.objs = d.rennet.objs := by
    refine foldDev_objs (fun e x => ?_) _ _
    split
    · exact e.stopEng_objs x
    · rfl
  unfold Dev.endStep
  split
  · rfl
  · split
    · rfl
    · exact hstop _

@[simp] theorem Dev.failEng_objs (d : Dev) (e : Fin 128) (st : Status) (detail addr : Nat) :
    (d.failEng e st detail addr).rennet.objs = d.rennet.objs := by
  unfold Dev.failEng
  split
  · simp [Dev.failStep]
  · rfl

@[simp] theorem Dev.setRun_objs (d : Dev) (e : Fin 128) (r : EngRun) : (d.setRun e r).rennet.objs = d.rennet.objs := rfl

/-- What follows a release writes, sends, or ends a step: none of it is an operation at a bank. -/
@[simp] theorem Dev.runCont_objs (d : Dev) (e : Fin 128) (k : Cont) : (d.runCont e k).rennet.objs = d.rennet.objs := by
  cases k with
  | fence => rfl
  | acquire sc => rfl
  | store a bs => simp [Dev.runCont]
  | signal a v =>
    unfold Dev.runCont
    dsimp only
    split
    · simp
    · rfl
  | add rd a v sc =>
    unfold Dev.runCont
    dsimp only
    split
    · split
      · split
        · exact d.failEng_objs _ _ _ _
        · simp
      · simp
    · rfl
  | issue rd a => rfl
  | tissue rd a c => rfl
  | amo rd a op acq =>
    unfold Dev.runCont
    dsimp only
    split
    · split <;> simp
    · rfl
    · simp

theorem Dev.ite_objs {d e f : Dev} (b : Bool) (he : e.rennet.objs = d.rennet.objs) (hf : f.rennet.objs = d.rennet.objs) :
    (if b = true then e else f).rennet.objs = d.rennet.objs := by
  cases b
  · exact hf
  · exact he

@[simp] theorem Dev.settleEng_objs (d : Dev) (e : Fin 128) : (d.settleEng e).rennet.objs = d.rennet.objs := by
  unfold Dev.settleEng
  dsimp only
  cases (d.eng e).run with
  | release sc k => exact Dev.ite_objs _ (d.runCont_objs e k) rfl
  | await t =>
    cases (d.eng e).step with
    | none => rfl
    | some n => exact Dev.ite_objs _ rfl rfl
  | twait t => exact Dev.ite_objs _ rfl rfl
  | vfence => exact Dev.ite_objs _ rfl rfl
  | _ => rfl

/-- No object changes when engines go on. -/
theorem Dev.settle_obj (d : Dev) (n : Nat) : d.settle.obj n = d.obj n := by
  have hobjs : d.settle.rennet.objs = d.rennet.objs := by
    unfold Dev.settle
    dsimp only
    rw [Dev.modAnvil_rennet, foldDev_objs Dev.settleEng_objs, Dev.flushIrqs_objs]
  rw [Dev.obj, hobjs, Dev.obj]

/-! ### The obligations -/

/-- Settles O21: COUNT − T of 32 bits is the difference modulo 2^32. -/
theorem countReachesItsTarget : Obligations.CountReachesItsTarget := by
  intro count t
  rw [reached, decide_eq_true_iff, BitVec.toNat_sub, Nat.add_comm]

/-- Settles O23: the arrival takes the message, the record and the rewritten object follow, and the generation that has gone on
completes every wait that stood on the object. -/
theorem configureRewritesTheObject : Obligations.ConfigureRewritesTheObject := by
  intro s src obj v t d0 harr hopen hk ht hz hb hwaits
  obtain ⟨l, rfl⟩ := Dev.arriveTag_only harr
  have hexec : exec (.rennetConfigure src obj v) s =
      .next { s with dev := ((s.dev.modRennet (fun r => { r with msgs := l })).bankConfigure src obj.val v).settle } := by
    have hkind : fld v.toNat 62 2 = 1 := by simp only [fld]; omega
    change execRennetConfigure src obj v s = _
    rw [execRennetConfigure, onDev_eq, if_pos hkind, Dev.sigArrives_configure harr hkind]
  obtain ⟨hobj, hnone, hothers, hmem, heng, hsched⟩ :=
    Dev.bankConfigure_result (d := s.dev.modRennet (fun r => { r with msgs := l })) hopen hk ht hz hb hwaits
  exact ⟨_, hexec, hobj, hnone, hothers, Dev.settle_obj _, hmem, heng, hsched⟩

end Sys2Proof.Machine

/-!
The admin commands on placement regions, Rennet pools and dumps, and translation (Table 14.8, R195, R198, R219, R315 to R323,
R329, R441, R443). As for the commands on contexts and rings, each command's part is the equation of its answer on operands in
range; the admin ring's part is shared.
-/
namespace Sys2Proof.Machine

/-! ### Answers with a result, and answers that change Rennet (R454 to R456) -/

section Ring
variable {s : State} {c : AdmCmd} {i : Instr} (hopen : s.dev.adminOpen = true)
include hopen

/-- A command that answers `st` with result `lo` is reported by an ADMIN_DONE that carries both. -/
theorem exec_admin_result {f : Dev → AdmRes} (hi : exec i s = onDev s (fun d => d.admin c f)) {st : Status} {lo : Nat} {d' : Dev}
    (hf : f s.dev.fetched = { st := st, lo := lo, dev := d' }) (hhead : d'.host.admHead = s.dev.host.admHead + 1) :
    ∃ q, exec i s = .next { s with dev := d'.modHost (fun h => { h with evtQ := q }) } ∧
      AdmDone s.dev (d'.modHost (fun h => { h with evtQ := q })) c st lo 0 := by
  have hadm : s.dev.admin c f = d'.adminDone c.cid s.dev.host.admHead st lo 0 := by
    rw [Dev.fetched] at hf
    simp only [Dev.admin, if_pos hopen, hf]
  rw [hi, onDev_eq, hadm, Dev.adminDone_eq]
  exact ⟨_, rfl, hhead, _, List.getLast?_concat, rfl, rfl, rfl, rfl, rfl⟩

/-- A command that changes Rennet changes nothing else beside the admin ring. -/
theorem exec_admin_rennet {f : Dev → AdmRes} (hi : exec i s = onDev s (fun d => d.admin c f)) {lo : Nat} {g : Rennet → Rennet}
    (hf : f s.dev.fetched = { lo := lo, dev := s.dev.fetched.modRennet g }) :
    ∃ d, exec i s = .next { s with dev := d } ∧ AdmDone s.dev d c .ok lo 0 ∧ d.rennet = g s.dev.rennet ∧
      { d with host := s.dev.host, rennet := s.dev.rennet } = s.dev := by
  obtain ⟨q, hexec, hdone⟩ := exec_admin_result hopen hi hf rfl
  refine ⟨_, hexec, hdone, rfl, ?_⟩
  simp [Dev.fetched]

/-- A refusal that changes nothing leaves the host interface as it was. -/
theorem exec_admin_same {f : Dev → AdmRes} (hi : exec i s = onDev s (fun d => d.admin c f)) {st : Status}
    (hf : f s.dev.fetched = ans st s.dev.fetched) :
    ∃ d, exec i s = .next { s with dev := d } ∧ AdmDone s.dev d c st 0 0 ∧ { d with host := s.dev.host } = s.dev ∧
      { d.host with admHead := s.dev.host.admHead, evtQ := s.dev.host.evtQ } = s.dev.host :=
  exec_admin_host hopen hi s.dev.host hf rfl rfl

end Ring

/-! ### A fetched command leaves the walks of page tables as they are (R306) -/

/-- A gate with what it does to the package changed. -/
def Gate.map (f : Dev → Dev) : Gate → Gate
  | .go d => .go (f d)
  | .hold d => .hold (f d)
  | .refuse st => .refuse st

theorem Dev.startFill_fetched (d : Dev) (f : Nat) :
    d.fetched.startFill f = ((d.startFill f).1, (d.startFill f).2.fetched) := by
  have hadmits (x : Nat) (b : Back) (il : Bool) (home : Half) :
      d.fetched.admits x b il home false = d.admits x b il home false := rfl
  unfold Dev.startFill
  simp only [hadmits, show d.fetched.frame f = d.frame f from rfl, show d.fetched.tiers = d.tiers from rfl]
  split
  · rfl
  · split <;> rfl

theorem Dev.frameGate_fetched (d : Dev) (off : Nat) : d.fetched.frameGate off = (d.frameGate off).map Dev.fetched := by
  unfold Dev.frameGate
  simp only [show d.fetched.backing off = d.backing off from rfl, Dev.startFill_fetched,
    show d.fetched.hbmHeld off = d.hbmHeld off from rfl, show d.fetched.tiers = d.tiers from rfl]
  cases d.backing off with
  | unbacked => rfl
  | cave =>
    dsimp only
    split <;> rfl
  | _ =>
    dsimp only
    split
    · rfl
    · split
      · split <;> rfl
      · rfl

theorem Dev.readGate_fetched (d : Dev) (off n : Nat) : d.fetched.readGate off n = (d.readGate off n).map Dev.fetched := by
  unfold Dev.readGate
  simp only [show d.fetched.coh = d.coh from rfl, show d.fetched.slice off = d.slice off from rfl, Dev.frameGate_fetched]
  split <;> rfl

theorem walkFrom_fetched (d : Dev) (h : Half) (ctx va : Nat) (l : List Nat) (ext : List Byte) (ppn : Nat)
    (ws : List WalkEnt) : walkFrom d.fetched h ctx va false ext l ppn ws = walkFrom d h ctx va false ext l ppn ws := by
  induction l generalizing ext ppn ws with
  | nil => rfl
  | cons k t ih =>
    have htable (n : Nat) : d.fetched.tableOff n = d.tableOff n := rfl
    have hpoison (a : Nat) : d.fetched.cohPoison a 8 = d.cohPoison a 8 := rfl
    have hfar (a : Nat) : d.fetched.lineFar a = d.lineFar a := rfl
    unfold walkFrom
    simp only [ih, Dev.readGate_fetched, Dev.cohRead_fetched, show d.fetched.xlate = d.xlate from rfl, htable, hpoison, hfar,
      if_neg Bool.false_ne_true]
    split
    · rfl
    · split
      · rfl
      · generalize d.readGate _ 8 = g
        cases g <;> rfl

theorem Dev.regionPage_fetched (d : Dev) (ctx va : Nat) (read : Bool) :
    d.fetched.regionPage ctx va read = d.regionPage ctx va read := by
  have hwalk : d.fetched.walk .west ctx va = d.walk .west ctx va := by
    unfold Dev.walk
    simp only [walkFrom_fetched]
    rfl
  unfold Dev.regionPage
  rw [hwalk]
  rfl

theorem Dev.regionPages_fetched (d : Dev) (ctx : Nat) (read : Bool) (k va : Nat) :
    d.fetched.regionPages ctx read k va = d.regionPages ctx read k va := by
  induction k generalizing va with
  | zero => rfl
  | succ k ih =>
    unfold Dev.regionPages
    rw [Dev.regionPage_fetched, ih]

/-! ### Placement regions (R329, R341, R441, R443) -/

theorem bit_b2n (f : Bool) : bit (b2n f) 0 = f := by cases f <;> rfl

theorem b2n_lt (f : Bool) : b2n f < 2 := by cases f <;> decide

theorem bit_toNat {w : Nat} (x : BitVec w) (i : Nat) : bit x.toNat i = x.getLsbD i := by
  rw [bit, fld, ← BitVec.testBit_toNat, Nat.testBit_eq_decide_div_mod_eq]
  rfl

/-- A region none of whose frames lies in the Cave needs no fill. -/
theorem Dev.fillAll_of_no_cave {d : Dev} {l : List Nat} (h : l.all (fun f => d.backing (f * frameSize) != .cave) = true) :
    d.fillAll l = (true, d) := by
  induction l with
  | nil => rfl
  | cons f t ih =>
    obtain ⟨hf, ht⟩ := Bool.and_eq_true_iff.1 (List.all_cons.symm.trans h)
    rw [Dev.fillAll, if_neg (bne_iff_ne.1 hf), ih ht]

section Regions
variable {d : Dev} {c : AdmCmd} (hr : c.rsvd = false)
include hr

section Registered
variable {r n : Fin 4096} {off len : Nat} {vb : Word} {cnt : BitVec 18} {f : Bool}
  (hops : opsAre c [BitVec.ofNat 64 r.val, BitVec.ofNat 64 n.val, BitVec.ofNat 64 (4096 * off), BitVec.ofNat 64 (4096 * len), vb,
    BitVec.ofNat 64 cnt.toNat, BitVec.ofNat 64 (b2n f)])
  (hlen : 0 < len) (hfit : off + len ≤ 2 ^ 24) (hvb : vb.toNat % 4096 = 0) (hlive : d.ctxLive n.val = true)
  (hnew : tget d.host.regions r.val = none)
include hops hlen hfit hvb hlive hnew

/-- A free region that a live context registers meets the regions there are, then its own pages. -/
theorem regionReg_answers :
    (d.host.regions.any (fun p => 4096 * off < p.2.off + p.2.len && p.2.off < 4096 * (off + len)) = false →
      ∀ ps, d.regionPages n.val f len vb.toNat = .ok ps → regionReg d c = ans .ok (d.modHost (fun h =>
        { h with
          regions := tput h.regions r.val
            { ctx := n.val, off := 4096 * off, len := 4096 * len, vbase := vb, pages := ps,
              counter := if cnt.getLsbD 17 then some (cnt.toNat % 2 ^ 17) else none, read := f } }))) ∧
    (d.host.regions.any (fun p => 4096 * off < p.2.off + p.2.len && p.2.off < 4096 * (off + len)) = true →
      regionReg d c = ans .overlap d) := by
  have hr' := r.isLt
  have hn := n.isLt
  have hcnt := cnt.isLt
  have hf := b2n_lt f
  have hz : admOnly c 7 = true := admOnly_length hops hr
  unfold regionReg
  simp (disch := omega) only [admOp_eq hops, lgetD_ops hops, lgetD, BitVec.toNat_ofNat, Nat.mod_eq_of_lt, hnew, bit_b2n, bit_toNat,
    Nat.mul_div_cancel_left]
  rw [if_neg (by simp [hz, hvb]; omega), if_neg (by simp [hlive]), ← Nat.mul_add]
  have hwindow : ¬ windowSize < 4096 * (off + len) := by simp only [windowSize]; omega
  refine ⟨fun hfree ps hps => ?_, fun hover => ?_⟩
  · rw [hfree, if_neg (by simp [hwindow]), hps]
    simp [fld]
  · rw [hover, if_pos (by simp)]

end Registered

theorem regionEnable_ok {r : Fin 4096} {x : PRegion} (hops : opsAre c [BitVec.ofNat 64 r.val])
    (hx : tget d.host.regions r.val = some x) (hst : x.st = .off ∨ x.st = .enabling)
    (hcave : (x.frames.all (fun f => d.backing (f * frameSize) != .cave)) = true) :
    regionEnable d c = (.ok, setRegion d r.val .enabling) := by
  have hr' := r.isLt
  have hz : admOnly c 1 = true := admOnly_length hops hr
  have hbusy : x.st ≠ .disabling := by intro h; simp [h] at hst
  have hon : x.st ≠ .on := by intro h; simp [h] at hst
  unfold regionEnable
  simp (disch := omega) only [admOp_eq hops, lgetD, BitVec.toNat_ofNat, Nat.mod_eq_of_lt, hx, Dev.fillAll_of_no_cave hcave, if_true]
  rw [if_neg (by simp [hz]), if_neg hbusy, if_neg hon]

theorem regionDisable_ok {r : Fin 4096} {x : PRegion} (hops : opsAre c [BitVec.ofNat 64 r.val])
    (hx : tget d.host.regions r.val = some x) (hst : x.st ≠ .off) :
    regionDisable d c = (.ok, setRegion d r.val .disabling) := by
  have hr' := r.isLt
  have hz : admOnly c 1 = true := admOnly_length hops hr
  unfold regionDisable
  simp (disch := omega) only [admOp_eq hops, lgetD, BitVec.toNat_ofNat, Nat.mod_eq_of_lt, hx, if_neg hst]
  rw [if_neg (by simp [hz])]

theorem regionFree_ok {r : Fin 4096} {x : PRegion} (hops : opsAre c [BitVec.ofNat 64 r.val])
    (hx : tget d.host.regions r.val = some x) (hst : x.st = .off) :
    regionFree d c = ans .ok (d.modHost (fun h => { h with regions := tdel h.regions r.val })) := by
  have hr' := r.isLt
  have hz : admOnly c 1 = true := admOnly_length hops hr
  unfold regionFree
  simp (disch := omega) only [admOp_eq hops, lgetD, BitVec.toNat_ofNat, Nat.mod_eq_of_lt, hx, if_pos hst]
  rw [if_neg (by simp [hz])]

end Regions

/-- A background command that only moves a region to another state. -/
theorem exec_adminBg_setRegion {s : State} {c : AdmCmd} {i : Instr} (hopen : s.dev.adminOpen = true) {f : Dev → Status × Dev}
    {b : Background} (hi : exec i s = onDev s (fun d => d.adminBg c f b)) {r : Nat} {x : PRegion} {st : RegSt}
    (hx : tget s.dev.host.regions r = some x) (hf : f s.dev.fetched = (.ok, setRegion s.dev.fetched r st)) :
    ∃ d, exec i s = .next { s with dev := d } ∧ AdmTaken s.dev d c b ∧ tget d.host.regions r = some { x with st := st } ∧
      { d with host := s.dev.host } = s.dev := by
  obtain ⟨t, hexec, htaken⟩ := exec_adminBg hopen hi hf rfl
  refine ⟨_, hexec, htaken, ?_, ?_⟩
  · simp only [setRegion, Dev.modHost_host, Dev.fetched, tget_tmod_self, hx, Option.map_some]
  · simp only [setRegion, Dev.modHost, Dev.fetched]

/-! ### Tables of objects (R195, R198) -/

theorem tget_filter {α : Type} (f : Nat → Bool) (t : Tbl α) (n : Nat) :
    tget (t.filter (fun p => f p.1)) n = if f n then tget t n else none := by
  induction t with
  | nil => simp [tget]
  | cons p t ih =>
    obtain ⟨k, v⟩ := p
    by_cases hk : k = n
    · subst hk
      cases hf : f k <;> simp [tget, hf, ih]
    · cases hf : f k <;> simp [tget, hf, hk, ih]

/-- New objects are the run that is named, empty but for their owner; the others stay. -/
theorem tgetD_newObjs (o : ROwner) (first k : Nat) (t : Tbl RObj) (n : Nat) :
    tgetD (newObjs o (first, k) t) n {} = if first ≤ n ∧ n < first + k then { owner := some o } else tgetD t n {} := by
  induction k with
  | zero => rw [if_neg (by omega)]; rfl
  | succ k ih =>
    have hnew : newObjs o (first, k + 1) t = tput (newObjs o (first, k) t) (first + k) { owner := some o } := by
      simp only [newObjs, List.range_succ, List.foldl_append, List.foldl_cons, List.foldl_nil]
    rw [hnew]
    by_cases hn : n = first + k
    · rw [hn, tgetD_tput_self, if_pos (by omega)]
    · rw [tgetD_tput_ne _ _ _ hn, ih]
      congr 1
      simp only [eq_iff_iff]
      omega

/-- Objects on which nobody waits are freed without ending any step. -/
theorem Dev.freeObjs_of_no_waiters {d : Dev} (h : d.rennet.waiters = []) (first k : Nat) :
    d.freeObjs first k = d.modRennet (fun r =>
      { r with
        objs := r.objs.filter (fun p => p.1 < first || first + k ≤ p.1)
        last := r.last.filter (fun p => p.1 < first || first + k ≤ p.1) }) := by
  simp [Dev.freeObjs, h, foldDev]

theorem Dev.obj_freeObjs {d : Dev} (h : d.rennet.waiters = []) (first k n : Nat) :
    (d.freeObjs first k).obj n = if n < first ∨ first + k ≤ n then d.obj n else {} := by
  rw [Dev.freeObjs_of_no_waiters h, Dev.obj, Dev.modRennet_rennet, tgetD,
    tget_filter (fun m => decide (m < first) || decide (first + k ≤ m))]
  by_cases hn : n < first ∨ first + k ≤ n
  · rw [if_pos (by simpa using hn), if_pos hn]
    rfl
  · rw [if_neg (by simpa using hn), if_neg hn]
    rfl

theorem halfIdx_halfOfNat (k : Fin 2) : halfIdx (halfOfNat k.val) = k.val := by
  obtain rfl | rfl := Fin.exists_fin_two.1 ⟨k, rfl⟩ <;> rfl

@[simp] theorem Two.get_set_self {α : Type} (t : Two α) (h : Half) (v : α) : Two.get (Two.set t h v) h = v := by
  cases h <;> rfl

/-! ### Rennet pools, objects and dumps (R195, R198, R219) -/

section Rennet
variable {d : Dev} {c : AdmCmd} (hr : c.rsvd = false)
include hr

theorem rennetPools_eq {k : Fin 2} {n : Nat} (hn : n ≤ 16) (hops : opsAre c [BitVec.ofNat 64 k.val, BitVec.ofNat 64 (4096 * n)]) :
    rennetPools d c =
      if d.objsHeld (halfOfNat k.val) (min (Two.get d.rennet.pool (halfOfNat k.val)) (4096 * n))
          (max (Two.get d.rennet.pool (halfOfNat k.val)) (4096 * n)) then ans .busy d
      else ans .ok (d.modRennet (fun r => { r with pool := Two.set r.pool (halfOfNat k.val) (4096 * n) })) := by
  have hk := k.isLt
  have hz : admOnly c 2 = true := admOnly_length hops hr
  unfold rennetPools
  simp (disch := omega) only [admOp_eq hops, lgetD, BitVec.toNat_ofNat, Nat.mod_eq_of_lt]
  rw [if_neg (by simp [hz]; omega)]

theorem rennetAlloc_ok {n : Fin 4096} {k : Fin 2} {q i : Nat}
    (hops : opsAre c [BitVec.ofNat 64 n.val, BitVec.ofNat 64 k.val, BitVec.ofNat 64 q]) (hlo : 0 < q) (hhi : q ≤ 65536)
    (hlive : d.ctxLive n.val = true) (hrun : d.freeRun (halfOfNat k.val) q = some i) :
    rennetAlloc d c =
      { lo := 65536 * k.val + i
        dev := d.modRennet (fun r => { r with objs := newObjs (.ctx n.val) (65536 * k.val + i, q) r.objs }) } := by
  have hn := n.isLt
  have hk := k.isLt
  have hz : admOnly c 3 = true := admOnly_length hops hr
  unfold rennetAlloc
  simp (disch := omega) only [admOp_eq hops, lgetD, BitVec.toNat_ofNat, Nat.mod_eq_of_lt, hrun, halfIdx_halfOfNat]
  rw [if_neg (by simp [hz]; omega), if_neg (by simp [hlive])]

theorem rennetFree_ok {i k : Nat} (hops : opsAre c [BitVec.ofNat 64 i, BitVec.ofNat 64 k]) (hk : 0 < k) (hik : i + k ≤ 131072)
    (howned : ∀ j, j < k → ∃ n, (d.obj (i + j)).owner = some (.ctx n)) :
    rennetFree d c = ans .ok (d.freeObjs i k).flushSend := by
  have hz : admOnly c 2 = true := admOnly_length hops hr
  unfold rennetFree
  simp (disch := omega) only [admOp_eq hops, lgetD, BitVec.toNat_ofNat, Nat.mod_eq_of_lt]
  rw [if_neg (by simp [hz]; omega), if_neg]
  rw [Bool.not_eq_true', Bool.not_eq_false, List.all_eq_true]
  intro j hj
  obtain ⟨n, hn⟩ := howned j (List.mem_range.1 hj)
  rw [hn]

theorem dumpReg_ok {a n : Word} (hops : opsAre c [a, n]) (ha : a.toNat < 2 ^ 56) :
    dumpReg d c = ans .ok (d.modRennet (fun r => { r with dumpBuf := a, dumpLen := n.toNat })) := by
  have hz : admOnly c 2 = true := admOnly_length hops hr
  unfold dumpReg
  simp only [admOp_eq hops, lgetD_ops hops, lgetD, admAddr]
  rw [if_neg (by simp [hz]; omega)]

/-- DUMP's 4,095 stands for the package (log 130), which the dump holds as that number. -/
theorem dumpStart_ok {n : Fin 4096} (hops : opsAre c [BitVec.ofNat 64 n.val])
    (hn : n.val = 4095 ∨ (d.ctx? n.val).isSome = true) :
    dumpStart d c = (.ok, d.startDump (some (d.host.admHead - 1)) n.val false) := by
  have hlt := n.isLt
  have hz : admOnly c 1 = true := admOnly_length hops hr
  have hmax : decide (n.val = 2 ^ 64 - 1) = false := decide_eq_false (by omega)
  have hscope : (if decide (n.val = 4095) = true then 0xFFF else n.val) = n.val := by
    split
    next h => exact (of_decide_eq_true h).symm
    · rfl
  unfold dumpStart
  simp (disch := omega) only [admOp_eq hops, lgetD, BitVec.toNat_ofNat, Nat.mod_eq_of_lt, hmax, Bool.or_false, hscope]
  rw [if_neg (by simp [hz]; omega), if_neg (by simpa [or_iff_not_imp_left, Option.isSome_iff_ne_none] using hn)]

end Rennet

/-! ### Fault queues and replies (R315, R318 to R321) -/

theorem Dev.raiseWaiting_of_none {d : Dev} {h : Half} (hw : (Two.get d.xlate h).waiting = []) :
    d.raiseWaiting h = d.modXlate h (fun x => { x with waiting := [] }) := by
  rw [Dev.raiseWaiting, hw]
  rfl

section Faults
variable {d : Dev} {c : AdmCmd} (hr : c.rsvd = false)
include hr

theorem faultQueue_ok {n : Fin 4096} {a b : Word} {lg : Nat}
    (hops : opsAre c [BitVec.ofNat 64 n.val, a, BitVec.ofNat 64 lg, b]) (hal : a.toNat % 32 = 0) (hlt : a.toNat < 2 ^ 56)
    (hlo : 6 ≤ lg) (hhi : lg ≤ 16) (hb : bindOk b.toNat = true) (ha : d.hostOrUmr a.toNat = true)
    (hlive : d.ctxLive n.val = true) :
    faultQueue d c = ans .ok (d.modCtx n.val (fun x => { x with fq := some { addr := a, log2 := lg, bind := b } })) := by
  have hn := n.isLt
  have hz : admOnly c 4 = true := admOnly_length hops hr
  unfold faultQueue
  simp (disch := omega) only [admOp_eq hops, lgetD_ops hops, lgetD, BitVec.toNat_ofNat, Nat.mod_eq_of_lt, admAddr]
  rw [if_neg (by simp [hz, hal, hb, ha]; omega), if_neg (by simp [hlive])]

theorem faultReply_noFault {f : Fin 2048} {r : Bool} (hops : opsAre c [BitVec.ofNat 64 f.val, BitVec.ofNat 64 (b2n r)])
    (hrec : tget (Two.get d.xlate (halfOfNat (f.val / 1024))).recs (f.val % 1024) = none) : faultReply d c = ans .noFault d := by
  have hf := f.isLt
  have hb := b2n_lt r
  have hz : admOnly c 2 = true := admOnly_length hops hr
  unfold faultReply
  simp (disch := omega) only [admOp_eq hops, lgetD, BitVec.toNat_ofNat, Nat.mod_eq_of_lt, hrec]
  rw [if_neg (by simp [hz]; omega)]

/-- A record that nobody waits on, in a half where no record waits for a slot: the reply frees the slot, and no more. -/
theorem faultReply_ok {f : Fin 2048} {r : Bool} {q : FRec} (hops : opsAre c [BitVec.ofNat 64 f.val, BitVec.ofNat 64 (b2n r)])
    (hrec : tget (Two.get d.xlate (halfOfNat (f.val / 1024))).recs (f.val % 1024) = some q)
    (hwaiting : (Two.get d.xlate (halfOfNat (f.val / 1024))).waiting = []) (husers : q.users = []) :
    faultReply d c = ans .ok
      ((d.modXlate (halfOfNat (f.val / 1024)) (fun x => { x with recs := tdel x.recs (f.val % 1024) })).modXlate
        (halfOfNat (f.val / 1024)) (fun x => { x with waiting := [] })) := by
  have hf := f.isLt
  have hb := b2n_lt r
  have hz : admOnly c 2 = true := admOnly_length hops hr
  unfold faultReply
  simp (disch := omega) only [admOp_eq hops, lgetD, BitVec.toNat_ofNat, Nat.mod_eq_of_lt, hrec, husers]
  rw [if_neg (by simp [hz]; omega)]
  have hnobody (e : Dev) (g g' : Dev → XUser → Dev) (p : Prop) [Decidable p] :
      (if p then foldDev e [] g else foldDev e [] g') = e := by
    split <;> rfl
  have hnone : (Two.get (d.modXlate (halfOfNat (f.val / 1024)) (fun x =>
      { x with recs := tdel x.recs (f.val % 1024) })).xlate (halfOfNat (f.val / 1024))).waiting = [] := by
    rw [Dev.modXlate, Two.get_mod_self, hwaiting]
  rw [hnobody, Dev.raiseWaiting_of_none hnone]

end Faults

/-! ### Invalidation (R322, R323) -/

/-- A half's translations after INVALIDATE: without those of context `n` that touch the range. -/
def Xlate.invalidated (x : Xlate) (n lo len : Nat) : Xlate :=
  { x with
    tlb := x.tlb.filter (fun t => !(t.ctx == n && tlbTouches (t.page * 2 ^ t.sizeLog) t.sizeLog lo len))
    wcache := x.wcache.filter (fun w => w.ctx != n) }

theorem Xlate.mem_invalidated_tlb {x : Xlate} {n lo len : Nat} {t : TlbEnt} :
    t ∈ (x.invalidated n lo len).tlb ↔ t ∈ x.tlb ∧ ¬ (t.ctx = n ∧ (len = 0 ∨
      (t.page * 2 ^ t.sizeLog < lo + len ∧ lo < t.page * 2 ^ t.sizeLog + 2 ^ t.sizeLog))) := by
  have htouch : (t.ctx == n && tlbTouches (t.page * 2 ^ t.sizeLog) t.sizeLog lo len) = true ↔ t.ctx = n ∧ (len = 0 ∨
      (t.page * 2 ^ t.sizeLog < lo + len ∧ lo < t.page * 2 ^ t.sizeLog + 2 ^ t.sizeLog)) := by simp [tlbTouches]
  rw [Xlate.invalidated, List.mem_filter, Bool.not_eq_true', ← Bool.not_eq_true, htouch]

theorem invalidate_ok {d : Dev} {c : AdmCmd} (hr : c.rsvd = false) {n : Fin 4096} {lo len : Word}
    (hops : opsAre c [BitVec.ofNat 64 n.val, lo, len]) (hlive : d.ctxLive n.val = true)
    (hregions : d.host.regions.any (fun r => r.2.ctx == n.val && r.2.st == .on &&
      (len == 0 || (r.2.vbase.toNat < lo.toNat + len.toNat && lo.toNat < r.2.vbase.toNat + r.2.len))) = false) :
    ∃ t, invalidate d c = (.ok,
      { d with
        xlate := ⟨d.xlate.w.invalidated n.val lo.toNat len.toNat, d.xlate.e.invalidated n.val lo.toNat len.toNat⟩
        tongs := t
        host := { d.host with admBusy := true } }) := by
  have hn := n.isLt
  have hz : admOnly c 3 = true := admOnly_length hops hr
  have hzero : (len.toNat == 0) = (len == 0) := by
    rw [Bool.eq_iff_iff, beq_iff_eq, beq_iff_eq, BitVec.toNat_eq]
    rfl
  unfold invalidate
  simp (disch := omega) only [admOp_eq hops, lgetD, BitVec.toNat_ofNat, Nat.mod_eq_of_lt, hzero]
  rw [if_neg (by simp [hz]; omega), if_neg (by simp [hlive]), if_neg (Bool.eq_false_iff.1 hregions)]
  exact ⟨_, rfl⟩

/-! ### The commands whose effect is not the host interface's alone -/

section Answers
variable {s : State} {c : AdmCmd} (hopen : s.dev.adminOpen = true) (hr : c.rsvd = false)
include hopen hr

theorem exec_regionFree {r : Fin 4096} {x : PRegion} (hops : opsAre c [BitVec.ofNat 64 r.val])
    (hx : tget s.dev.host.regions r.val = some x) (hst : x.st = .off) :
    ∃ d, exec (.regionFree c) s = .next { s with dev := d } ∧ AdmDone s.dev d c .ok 0 0 ∧ tget d.host.regions r.val = none ∧
      (∀ k, k ≠ r.val → tget d.host.regions k = tget s.dev.host.regions k) ∧ { d with host := s.dev.host } = s.dev := by
  obtain ⟨q, hexec, hdone⟩ := exec_admin (i := .regionFree c) hopen rfl
    (regionFree_ok (d := s.dev.fetched) hr hops hx hst) rfl
  refine ⟨_, hexec, hdone, ?_, fun k hk => ?_, ?_⟩
  · exact tget_tdel_self _ _
  · exact tget_tdel_ne _ hk
  · simp [Dev.fetched]

theorem exec_rennetAlloc {n : Fin 4096} {k : Fin 2} {q i : Nat}
    (hops : opsAre c [BitVec.ofNat 64 n.val, BitVec.ofNat 64 k.val, BitVec.ofNat 64 q]) (hlo : 0 < q) (hhi : q ≤ 65536)
    (hlive : s.dev.ctxLive n.val = true) (hrun : s.dev.freeRun (halfOfNat k.val) q = some i) :
    ∃ d, exec (.rennetAlloc c) s = .next { s with dev := d } ∧ AdmDone s.dev d c .ok (65536 * k.val + i) 0 ∧
      (∀ j, j < q → d.obj (65536 * k.val + i + j) = { owner := some (.ctx n.val) }) ∧
      (∀ j, j < 65536 * k.val + i ∨ 65536 * k.val + i + q ≤ j → d.obj j = s.dev.obj j) ∧
      { d with host := s.dev.host, rennet := s.dev.rennet } = s.dev := by
  obtain ⟨d, hexec, hdone, hren, hrest⟩ := exec_admin_rennet (i := .rennetAlloc c) hopen rfl
    (rennetAlloc_ok (d := s.dev.fetched) hr hops hlo hhi hlive hrun)
  have hobj (j : Nat) : d.obj j =
      if 65536 * k.val + i ≤ j ∧ j < 65536 * k.val + i + q then { owner := some (.ctx n.val) } else s.dev.obj j := by
    rw [Dev.obj, hren]
    exact tgetD_newObjs _ _ _ _ _
  exact ⟨d, hexec, hdone, fun j hj => (hobj _).trans (if_pos (by omega)), fun j hj => (hobj j).trans (if_neg (by omega)), hrest⟩

theorem exec_rennetFree {i k : Nat} (hops : opsAre c [BitVec.ofNat 64 i, BitVec.ofNat 64 k]) (hk : 0 < k)
    (hik : i + k ≤ 131072) (hwaiters : s.dev.rennet.waiters = [])
    (howned : ∀ j, j < k → ∃ n, (s.dev.obj (i + j)).owner = some (.ctx n)) :
    ∃ d, exec (.rennetFree c) s = .next { s with dev := d } ∧ AdmDone s.dev d c .ok 0 0 ∧
      (∀ j, j < k → d.obj (i + j) = {}) ∧ (∀ j, j < i ∨ i + k ≤ j → d.obj j = s.dev.obj j) ∧ d.mem = s.dev.mem := by
  have hsends := (s.dev.fetched.freeObjs i k).flushSend_sends
  have hfreed := Dev.freeObjs_of_no_waiters (d := s.dev.fetched) hwaiters i k
  have hobj := Dev.obj_freeObjs (d := s.dev.fetched) hwaiters i k
  obtain ⟨q, hexec, hdone⟩ := exec_admin (i := .rennetFree c) hopen rfl
    (rennetFree_ok (d := s.dev.fetched) hr hops hk hik howned) (by rw [hsends.host, hfreed]; rfl)
  refine ⟨_, hexec, hdone, fun j hj => ?_, fun j hj => ?_, ?_⟩
  · exact ((hsends.obj _).trans (hobj _)).trans (if_neg (by omega))
  · exact ((hsends.obj _).trans (hobj _)).trans (if_pos hj)
  · exact hsends.mem.trans (by rw [hfreed]; rfl)

theorem exec_dump {n : Fin 4096} (hops : opsAre c [BitVec.ofNat 64 n.val])
    (hn : n.val = 4095 ∨ (s.dev.ctx? n.val).isSome = true) :
    ∃ d x, exec (.dump c) s = .next { s with dev := d } ∧ AdmTaken s.dev d c .dump ∧
      d.rennet.dumps = s.dev.rennet.dumps ++ [x] ∧ x.slot = some s.dev.host.admHead ∧ x.ctx = n.val ∧ x.cause = false ∧
      { d with host := s.dev.host, rennet := s.dev.rennet } = s.dev := by
  have hslot : s.dev.fetched.host.admHead - 1 = s.dev.host.admHead := add_sub_cancel_right _ _
  obtain ⟨t, hexec, htaken⟩ := exec_adminBg (i := .dump c) hopen rfl (dumpStart_ok (d := s.dev.fetched) hr hops hn) rfl
  refine ⟨_, _, hexec, htaken, rfl, congrArg some hslot, rfl, rfl, ?_⟩
  simp [Dev.startDump, Dev.fetched]

theorem exec_faultReply {f : Fin 2048} {r : Bool} {q : FRec} (hops : opsAre c [BitVec.ofNat 64 f.val, BitVec.ofNat 64 (b2n r)])
    (hrec : tget (Two.get s.dev.xlate (halfOfNat (f.val / 1024))).recs (f.val % 1024) = some q)
    (hwaiting : (Two.get s.dev.xlate (halfOfNat (f.val / 1024))).waiting = []) (husers : q.users = []) :
    ∃ d, exec (.faultReply c) s = .next { s with dev := d } ∧ AdmDone s.dev d c .ok 0 0 ∧
      tget (Two.get d.xlate (halfOfNat (f.val / 1024))).recs (f.val % 1024) = none ∧
      { d with host := s.dev.host, xlate := s.dev.xlate } = s.dev := by
  obtain ⟨t, hexec, hdone⟩ := exec_admin (i := .faultReply c) hopen rfl
    (faultReply_ok (d := s.dev.fetched) hr hops hrec hwaiting husers) rfl
  refine ⟨_, hexec, hdone, ?_, ?_⟩
  · simp [Dev.modXlate, tget_tdel_self]
  · simp [Dev.modXlate, Dev.fetched]

theorem exec_invalidate {n : Fin 4096} {lo len : Word} (hops : opsAre c [BitVec.ofNat 64 n.val, lo, len])
    (hlive : s.dev.ctxLive n.val = true)
    (hregions : s.dev.host.regions.any (fun r => r.2.ctx == n.val && r.2.st == .on &&
      (len == 0 || (r.2.vbase.toNat < lo.toNat + len.toNat && lo.toNat < r.2.vbase.toNat + r.2.len))) = false) :
    ∃ d, exec (.invalidate c) s = .next { s with dev := d } ∧ AdmTaken s.dev d c (.invalidate n.val) ∧
      d.host.admBusy = true ∧ { d with host := s.dev.host, xlate := s.dev.xlate, tongs := s.dev.tongs } = s.dev ∧
      (∀ (hf : Half) (t : TlbEnt), t ∈ (Two.get d.xlate hf).tlb ↔ (t ∈ (Two.get s.dev.xlate hf).tlb ∧
        ¬ (t.ctx = n.val ∧ (len = 0 ∨
          (t.page * 2 ^ t.sizeLog < lo.toNat + len.toNat ∧ lo.toNat < t.page * 2 ^ t.sizeLog + 2 ^ t.sizeLog))))) := by
  obtain ⟨g, hans⟩ := invalidate_ok (d := s.dev.fetched) hr hops hlive hregions
  obtain ⟨b, hexec, htaken⟩ := exec_adminBg (i := .invalidate c) hopen rfl hans rfl
  rw [admOp_zero hops (by omega)] at htaken
  refine ⟨_, hexec, htaken, rfl, by simp [Dev.fetched], fun hf t => ?_⟩
  have hzero : len = 0 ↔ len.toNat = 0 := BitVec.toNat_eq
  rw [hzero]
  cases hf
  · exact Xlate.mem_invalidated_tlb
  · exact Xlate.mem_invalidated_tlb

end Answers

/-! ### The obligation -/

/-- Settles O53: each command answers by its own equation, and the admin ring's lemmas report it. That INVALIDATE is held as a
background command, and that DUMP's 4,095 stands for the package, are the model's choices (log 129, log 130). -/
theorem adminCommandsOnRegionsRennetAndTranslation : Obligations.AdminCommandsOnRegionsRennetAndTranslation := by
  intro s c hopen hr
  refine ⟨?_, ?_, ?_, ?_, ?_, ?_, ?_, ?_, ?_, ?_⟩
  · intro r n off len vb cnt f ps hops hlen hfit hvb hlive hnew
    obtain ⟨hok, hoverlap⟩ := regionReg_answers (d := s.dev.fetched) hr hops hlen hfit hvb hlive hnew
    refine ⟨fun hfree hps => ?_, fun hover => ?_⟩
    · exact exec_admin_host hopen rfl _ (hok hfree ps ((Dev.regionPages_fetched _ _ _ _ _).trans hps)) rfl rfl
    · exact exec_admin_same hopen rfl (hoverlap hover)
  · intro r x hops hx
    have hnum : admOp c 0 = r.val := admOp_zero hops (by omega)
    refine ⟨fun hst hcave => ?_, fun hst => ?_, fun hst => exec_regionFree hopen hr hops hx hst⟩
    · have h := exec_adminBg_setRegion (i := .regionEnable c) hopen rfl hx
        (regionEnable_ok (d := s.dev.fetched) hr hops hx hst hcave)
      rwa [hnum] at h
    · have h := exec_adminBg_setRegion (i := .regionDisable c) hopen rfl hx
        (regionDisable_ok (d := s.dev.fetched) hr hops hx hst)
      rwa [hnum] at h
  · intro k n hn hops
    have hans := rennetPools_eq (d := s.dev.fetched) hr hn hops
    refine ⟨fun hfree => ?_, fun hheld => ?_⟩
    · obtain ⟨d, hexec, hdone, hren, hrest⟩ := exec_admin_rennet (i := .rennetPools c) hopen rfl
        (hans.trans (if_neg (Bool.eq_false_iff.1 hfree)))
      exact ⟨d, hexec, hdone, by rw [hren, Two.get_set_self], hrest, by rw [hren]⟩
    · exact exec_admin_same hopen rfl (hans.trans (if_pos hheld))
  · intro n k q i hops hlo hhi hlive hrun
    exact exec_rennetAlloc hopen hr hops hlo hhi hlive hrun
  · intro i k hops hk hik hwaiters _ _ howned
    exact exec_rennetFree hopen hr hops hk hik hwaiters howned
  · intro a n hops ha
    exact exec_admin_rennet (i := .dumpReg c) hopen rfl (dumpReg_ok (d := s.dev.fetched) hr hops ha)
  · intro n hops hn
    exact exec_dump hopen hr hops hn
  · intro n a b lg x hops hal hlt hlo hhi hb ha hx hlive
    exact exec_admin_ctx (f := fun d => faultQueue d c) hopen rfl hx
      (faultQueue_ok hr hops hal hlt hlo hhi hb ha (Dev.ctxLive_of_ctx? hx hlive))
  · intro f r hops
    refine ⟨fun hnone => ?_, fun q hrec hwaiting husers => ?_⟩
    · exact exec_admin_same hopen rfl (faultReply_noFault (d := s.dev.fetched) hr hops hnone)
    · exact exec_faultReply hopen hr hops hrec hwaiting husers
  · intro n lo len hops hlive hregions
    exact exec_invalidate hopen hr hops hlive hregions

end Sys2Proof.Machine

/-!
The memory list under the package's operations, part one: the operations that leave it as it is. Most of the machine moves
messages, tables and registers and never the bytes of memory; each such operation has one rule here, in the order of the model,
and the rules of the operations that it calls give it. An operation that answers only in some cases has a rule about its answer.
-/
namespace Sys2Proof.Machine

/-- The package that a vector load or store has reached. -/
def VRun.dev : VRun → Dev
  | .go d _ => d
  | .stop d => d
  | .trim d => d

@[simp] theorem Dev.ite_mem {c : Prop} [Decidable c] (d e : Dev) : (if c then d else e).mem = if c then d.mem else e.mem :=
  apply_ite Dev.mem c d e

/-! ### The operations that every family shares -/

@[simp] theorem foldDev_mem {α : Type} {f : Dev → α → Dev} (hf : ∀ d x, (f d x).mem = d.mem) (d : Dev) (l : List α) :
    (foldDev d l f).mem = d.mem :=
  foldDev_keeps (fun e => e.mem = d.mem) (fun e x h => (hf e x).trans h) l rfl

theorem foldDev_modEng_mem {α : Type} (e : α → Fin 128) (f : Dev → α → Engine → Engine) (d : Dev) (l : List α) :
    (foldDev d l (fun d p => d.modEng (e p) (f d p))).mem = d.mem :=
  foldDev_mem (fun d p => d.modEng_mem (e p) (f d p)) d l

@[simp] theorem Dev.modXlate_mem (d : Dev) (h f) : (d.modXlate h f).mem = d.mem := rfl

@[simp] theorem Dev.setEng_mem (d : Dev) (e x) : (d.setEng e x).mem = d.mem := rfl

@[simp] theorem Dev.setCore_mem (d : Dev) (h x) : (d.setCore h x).mem = d.mem := rfl

@[simp] theorem Dev.modStep_mem (d : Dev) (n f) : (d.modStep n f).mem = d.mem := rfl

@[simp] theorem Dev.modCtx_mem (d : Dev) (c f) : (d.modCtx c f).mem = d.mem := rfl

@[simp] theorem Dev.draw_mem (d : Dev) : (d.draw).2.mem = d.mem := rfl

@[simp] theorem Dev.modPort_mem (d : Dev) (p f) : (d.modPort p f).mem = d.mem := rfl

@[simp] theorem Dev.setPoison_mem (d : Dev) (line) : (d.setPoison line).mem = d.mem := by simp [Dev.setPoison]

@[simp] theorem Dev.clrPoison_mem (d : Dev) (line) : (d.clrPoison line).mem = d.mem := rfl

@[simp] theorem Dev.modFrame_mem (d : Dev) (f g) : (d.modFrame f g).mem = d.mem := rfl

@[simp] theorem Dev.heatUp_mem (d : Dev) (off) : (d.heatUp off).mem = d.mem := rfl

@[simp] theorem Dev.heatLines_mem (d : Dev) (off n) : (d.heatLines off n).mem = d.mem :=
  foldDev_mem (fun e _ => e.heatUp_mem _) d _

@[simp] theorem Dev.fixPsn_mem (d : Dev) (f) : (d.fixPsn f).mem = d.mem := rfl

theorem Dev.homeRead_mem {d : Dev} {off n : Nat} {ext : List Byte} {r : List Byte × Dev} (h : d.homeRead off n ext = .ok r) :
    r.2.mem = d.mem := by
  obtain ⟨k, hk⟩ := Dev.homeRead_only h
  rw [hk]

@[simp] theorem Dev.markDirty_mem (d : Dev) (off) : (d.markDirty off).mem = d.mem := rfl

@[simp] theorem Dev.loseResv_mem (d : Dev) (off who sub) : (d.loseResv off who sub).mem = d.mem := rfl

@[simp] theorem Dev.homeTouch_mem (d : Dev) (off n) : (d.homeTouch off n).mem = d.mem := by
  obtain ⟨t, k, h⟩ := d.homeTouch_only off n
  rw [h]

@[simp] theorem Dev.raise_mem (d : Dev) (e) : (d.raise e).mem = d.mem := rfl

@[simp] theorem Dev.signal_mem (d : Dev) (b) : (d.signal b).mem = d.mem := by simp [Dev.signal]

@[simp] theorem Dev.queueRec_mem (d : Dev) (c r) : (d.queueRec c r).mem = d.mem := rfl

@[simp] theorem Dev.dataRec_mem (d : Dev) (kind off gran source die) : (d.dataRec kind off gran source die).mem = d.mem :=
  foldDev_mem (fun e c => e.queueRec_mem c _) d _

@[simp] theorem Dev.loseLine_mem (d : Dev) (off source die) : (d.loseLine off source die).mem = d.mem := by simp [Dev.loseLine]

@[simp] theorem Dev.lostStore_mem (d : Dev) (src ctx step node addr len red sg) :
    (d.lostStore src ctx step node addr len red sg).mem = d.mem := by
  unfold Dev.lostStore
  (repeat' split) <;> simp

@[simp] theorem Dev.answerWaiter_mem (d : Dev) (w st v) : (d.answerWaiter w st v).mem = d.mem := by
  unfold Dev.answerWaiter
  split <;> simp

@[simp] theorem Dev.cancelFar_mem (d : Dev) (e) : (d.cancelFar e).mem = d.mem := rfl

@[simp] theorem Dev.abandon_mem (d : Dev) (e) : (d.abandon e).mem = d.mem := by simp [Dev.abandon]

@[simp] theorem Dev.dropUser_mem (d : Dev) (u) : (d.dropUser u).mem = d.mem := rfl

@[simp] theorem Dev.stopEng_mem (d : Dev) (e) : (d.stopEng e).mem = d.mem := by simp [Dev.stopEng]

@[simp] theorem Dev.stallEnds_mem (d : Dev) (c) : (d.stallEnds c).mem = d.mem := rfl

@[simp] theorem Dev.stopAll_mem (d : Dev) (n es) : (d.stopAll n es).mem = d.mem := by simp [Dev.stopAll]

@[simp] theorem Dev.endStep_mem (d : Dev) (n o) : (d.endStep n o).mem = d.mem := by
  unfold Dev.endStep
  split <;> simp

@[simp] theorem Dev.failStep_mem (d : Dev) (n st detail addr) :
    (d.failStep n st detail addr).mem = d.mem := by simp [Dev.failStep]

@[simp] theorem Dev.failEng_mem (d : Dev) (e st detail addr) : (d.failEng e st detail addr).mem = d.mem := by
  unfold Dev.failEng
  split <;> simp

@[simp] theorem Dev.engExc_mem (d : Dev) (e cause addr) : (d.engExc e cause addr).mem = d.mem := by
  unfold Dev.engExc
  split <;> simp

@[simp] theorem Dev.unqueue_mem (d : Dev) (n) : (d.unqueue n).mem = d.mem := rfl

@[simp] theorem Dev.dropWaits_mem (d : Dev) (obj st) : (d.dropWaits obj st).mem = d.mem := by simp [Dev.dropWaits]

@[simp] theorem Dev.freeObjs_mem (d : Dev) (first count) : (d.freeObjs first count).mem = d.mem := by simp [Dev.freeObjs]

@[simp] theorem Dev.release_mem (d : Dev) (n) : (d.release n).mem = d.mem := by
  unfold Dev.release
  split <;> simp

@[simp] theorem Dev.finish_mem (d : Dev) (n) : (d.finish n).mem = d.mem := by
  unfold Dev.finish
  dsimp only
  (repeat' split) <;> simp

@[simp] theorem Dev.completeNow_mem (d : Dev) (n st addr detail) :
    (d.completeNow n st addr detail).mem = d.mem := by simp [Dev.completeNow]

@[simp] theorem Dev.adminDone_mem (d : Dev) (cid slot st lo hi) : (d.adminDone cid slot st lo hi).mem = d.mem := rfl

theorem Dev.admin_mem {f : Dev → AdmRes} (hf : ∀ e, (f e).dev.mem = e.mem) (d : Dev) (c) : (d.admin c f).mem = d.mem := by
  unfold Dev.admin
  split <;> simp [hf]

theorem Dev.adminBg_mem {f : Dev → Status × Dev} (hf : ∀ e, (f e).2.mem = e.mem) (d : Dev) (c b) :
    (d.adminBg c f b).mem = d.mem := by
  unfold Dev.adminBg
  dsimp only
  split
  · refine Eq.trans ?_ (hf (d.modHost (fun h => { h with admHead := h.admHead + 1 })))
    split
    next e he => rw [he]; simp
    next st e _ he => rw [he]; simp
  · rfl

@[simp] theorem Dev.bgDone_mem (d : Dev) (slot st lo) : (d.bgDone slot st lo).mem = d.mem := by
  unfold Dev.bgDone
  split <;> rfl

/-! ### Writes, reads and messages on their way -/

@[simp] theorem Dev.entropy_mem (d : Dev) : (d.entropy).2.mem = d.mem := rfl

@[simp] theorem Dev.rekey_mem (d : Dev) (pn) : (d.rekey pn).mem = d.mem := rfl

@[simp] theorem Dev.rekeyDue_mem (d : Dev) (pn) : (d.rekeyDue pn).mem = d.mem := by simp [Dev.rekeyDue]

@[simp] theorem Dev.frameOut_mem (d : Dev) (pn k) : (d.frameOut pn k).mem = d.mem := by simp [Dev.frameOut]

@[simp] theorem Dev.portSend_mem (d : Dev) (pn k) : (d.portSend pn k).mem = d.mem := by simp [Dev.portSend]

@[simp] theorem Dev.owe_mem (d : Dev) (pn k) : (d.owe pn k).mem = d.mem := rfl

theorem Dev.trySend_mem {d e : Dev} {dst : Nat} {k : ChainPkt} (h : d.trySend dst k = some e) : e.mem = d.mem :=
  (Dev.trySend_sends h).mem

@[simp] theorem flushList_mem (d : Dev) (l keep) : (flushList d l keep).mem = d.mem := (flushList_sends l d keep).mem

@[simp] theorem transitList_mem (d : Dev) (l keep) : (transitList d l keep).mem = d.mem := (transitList_sends l d keep).mem

@[simp] theorem Dev.flushSend_mem (d : Dev) : (d.flushSend).mem = d.mem := by simp [Dev.flushSend]

@[simp] theorem Dev.chainSend_mem (d : Dev) (dst cls src ctx pd tag len body slice) :
    (d.chainSend dst cls src ctx pd tag len body slice).mem = d.mem := by simp [Dev.chainSend]

@[simp] theorem Dev.newTag_mem (d : Dev) : (d.newTag).2.mem = d.mem := rfl

@[simp] theorem Dev.dirtyOps_mem (d : Dev) (v n but) : (d.dirtyOps v n but).mem = d.mem := rfl

@[simp] theorem Dev.send_mem (d : Dev) (m) : (d.send m).mem = d.mem := rfl

@[simp] theorem Dev.take_mem (d : Dev) (f) : (d.take f).2.mem = d.mem := rfl

@[simp] theorem Dev.hostGet_mem (d : Dev) (ctx a n) : (d.hostGet ctx a n).mem = d.mem := rfl

theorem Dev.atsWait_mem {d e : Dev} {ctx : Option Nat} {a : Nat} (h : d.atsWait ctx a = some e) : e.mem = d.mem := by
  unfold Dev.atsWait at h
  grind [Dev.emit_mem, Dev.modHost_mem]

@[simp] theorem Dev.ackWrite_mem (d : Dev) (f) : (d.ackWrite f).mem = d.mem := rfl

@[simp] theorem Dev.rennetSend_mem (d : Dev) (n src step m) : (d.rennetSend n src step m).mem = d.mem := by
  unfold Dev.rennetSend
  dsimp only
  (repeat' split) <;> simp

@[simp] theorem Dev.doneSignal_mem (d : Dev) (srct srcid h ctx obj step) :
    (d.doneSignal srct srcid h ctx obj step).mem = d.mem := rfl

@[simp] theorem Dev.setRun_mem (d : Dev) (e r) : (d.setRun e r).mem = d.mem := rfl

@[simp] theorem Dev.sendAtomic_mem (d : Dev) (e addr op) : (d.sendAtomic e addr op).mem = d.mem := by
  unfold Dev.sendAtomic
  split <;> simp

@[simp] theorem Dev.flushIrqs_mem (d : Dev) : (d.flushIrqs).mem = d.mem := by simp [Dev.flushIrqs]

@[simp] theorem Dev.replyEng_mem (d : Dev) (e v) : (d.replyEng e v).mem = d.mem := by
  unfold Dev.replyEng
  split <;> rfl

/-! ### Frames and firmware accesses -/

@[simp] theorem Dev.trimCave_mem (d : Dev) : (d.trimCave).mem = d.mem := rfl

@[simp] theorem Dev.startFill_mem (d : Dev) (f) : (d.startFill f).2.mem = d.mem := by
  unfold Dev.startFill
  dsimp only
  (repeat' split) <;> simp

@[simp] theorem Dev.redEnter_mem (d : Dev) (line) : (d.redEnter line).mem = d.mem := rfl

theorem Dev.frameGate_mem {d e : Dev} {off : Nat} (h : d.frameGate off = .go e ∨ d.frameGate off = .hold e) :
    e.mem = d.mem := by
  unfold Dev.frameGate at h
  grind [Dev.startFill_mem]

theorem Dev.readGate_mem {d e : Dev} {off n : Nat} (h : d.readGate off n = .go e ∨ d.readGate off n = .hold e) :
    e.mem = d.mem := by
  unfold Dev.readGate at h
  grind [Dev.frameGate_mem]

@[simp] theorem Dev.fwSignal_mem (d : Dev) (b) : (d.fwSignal b).mem = d.mem := by simp [Dev.fwSignal]

theorem Dev.fwHolds_mem {d e : Dev} {a : Word} {n : Nat} (h : d.fwHolds a n = some e) : e.mem = d.mem := by
  unfold Dev.fwHolds at h
  grind [Dev.readGate_mem]

theorem Dev.fwThen_mem {d : Dev} {f : Dev → Dev} (hf : (f d).mem = d.mem) (a n) : (d.fwThen a n f).mem = d.mem := by
  unfold Dev.fwThen
  split
  next e he => exact Dev.fwHolds_mem he
  · exact hf

@[simp] theorem Dev.fwTouch_mem (d : Dev) (a n) : (d.fwTouch a n).mem = d.mem := by
  unfold Dev.fwTouch
  split <;> simp

/-! ### Rennet -/

@[simp] theorem Dev.trap_mem (d : Dev) (h intr cause tval toS) : (d.trap h intr cause tval toS).mem = d.mem := rfl

@[simp] theorem Dev.exc_mem (d : Dev) (h cause tval) : (d.exc h cause tval).mem = d.mem := rfl

@[simp] theorem retireLoads_mem (n) (d : Dev) (h) : (retireLoads n d h).mem = d.mem := by
  fun_induction retireLoads n d h <;> simp [*]

@[simp] theorem Dev.retireCore_mem (d : Dev) (h) : (d.retireCore h).mem = d.mem := by simp [Dev.retireCore]

@[simp] theorem Dev.newLoad_mem (d : Dev) (h rd) : (d.newLoad h rd).2.mem = d.mem := rfl

@[simp] theorem Dev.loadDone_mem (d : Dev) (h seq v) : (d.loadDone h seq v).mem = d.mem := by simp [Dev.loadDone]

@[simp] theorem Dev.loadFail_mem (d : Dev) (h seq cause a) : (d.loadFail h seq cause a).mem = d.mem := by simp [Dev.loadFail]

@[simp] theorem Dev.loadVal_mem (d : Dev) (h rd v) : (d.loadVal h rd v).mem = d.mem := by simp [Dev.loadVal]

@[simp] theorem Dev.loadExc_mem (d : Dev) (h cause a) : (d.loadExc h cause a).mem = d.mem := by simp [Dev.loadExc]

@[simp] theorem Dev.setObj_mem (d : Dev) (n o) : (d.setObj n o).mem = d.mem := rfl

@[simp] theorem Dev.opEndsStall_mem (d : Dev) (obj) : (d.opEndsStall obj).mem = d.mem := by
  unfold Dev.opEndsStall
  split <;> rfl

@[simp] theorem Dev.record_mem (d : Dev) (obj kind s operand) : (d.record obj kind s operand).mem = d.mem := by simp [Dev.record]

@[simp] theorem Dev.wakeOne_mem (d : Dev) (w v) : (d.wakeOne w v).mem = d.mem := by
  unfold Dev.wakeOne
  split <;> simp

@[simp] theorem Dev.checkWaits_mem (d : Dev) (obj) : (d.checkWaits obj).mem = d.mem := by simp [Dev.checkWaits]

@[simp] theorem Dev.drift_mem (d : Dev) (barrier obj gen o) : (d.drift barrier obj gen o).mem = d.mem := rfl

@[simp] theorem Dev.realignOne_mem (d : Dev) (barrier gen n) :
    (d.realignOne barrier gen n).mem = d.mem := by simp [Dev.realignOne]

@[simp] theorem Dev.realign_mem (d : Dev) (barrier was) : (d.realign barrier was).mem = d.mem := by simp [Dev.realign]

@[simp] theorem Dev.applySignal_mem (d : Dev) (obj src kind v) : (d.applySignal obj src kind v).mem = d.mem := by
  unfold Dev.applySignal
  dsimp only
  split <;> simp

@[simp] theorem Dev.rennetRefuse_mem (d : Dev) (s obj operand st by_) : (d.rennetRefuse s obj operand st by_).mem = d.mem := by
  unfold Dev.rennetRefuse
  (repeat' split) <;> simp

@[simp] theorem Dev.bankSignal_mem (d : Dev) (s kind obj v by_) : (d.bankSignal s kind obj v by_).mem = d.mem := by
  unfold Dev.bankSignal
  split <;> simp

@[simp] theorem Dev.bankConfigure_mem (d : Dev) (s obj v) : (d.bankConfigure s obj v).mem = d.mem := by
  unfold Dev.bankConfigure
  dsimp only
  (repeat' split) <;> simp

@[simp] theorem Dev.bankSetRealign_mem (d : Dev) (s obj v) : (d.bankSetRealign s obj v).mem = d.mem := by
  unfold Dev.bankSetRealign
  split <;> simp

theorem Dev.bankAdd_mem {d : Dev} {s : RSrc} {obj : Nat} {v : BitVec 32} {r : Word × Dev} (h : d.bankAdd s obj v = .ok r) :
    r.2.mem = d.mem := by
  unfold Dev.bankAdd at h
  grind [Dev.checkWaits_mem, Dev.setObj_mem, Dev.record_mem]

theorem Dev.bankWait_mem {d e : Dev} {w : Waiter} (h : d.bankWait w = .ok e) : e.mem = d.mem := by
  unfold Dev.bankWait at h
  grind [Dev.wakeOne_mem, Dev.modRennet_mem]

theorem Dev.arriveTag_mem {d e : Dev} {m : RMsg} {t : Option Nat} (h : d.arriveTag m = some (t, e)) : e.mem = d.mem := by
  obtain ⟨l, rfl⟩ := Dev.arriveTag_only h
  rfl

@[simp] theorem Dev.bankAnswer_mem (d : Dev) (s obj tag st v) :
    (d.bankAnswer s obj tag st v).mem = d.mem := by simp [Dev.bankAnswer]

@[simp] theorem Dev.bankOp_mem (d : Dev) (s kind obj v by_) : (d.bankOp s kind obj v by_).mem = d.mem := by
  unfold Dev.bankOp
  (repeat' split) <;> simp

@[simp] theorem Dev.startDump_mem (d : Dev) (slot ctx cause) : (d.startDump slot ctx cause).mem = d.mem := rfl

@[simp] theorem deadlockExpiry_mem (d : Dev) (c) : (deadlockExpiry d c).mem = d.mem := by simp [deadlockExpiry]

/-! ### Anvil operations -/

@[simp] theorem Dev.modUnit_mem (d : Dev) (u f) : (d.modUnit u f).mem = d.mem := rfl

@[simp] theorem Dev.enqueue_mem (d : Dev) (o) : (d.enqueue o).mem = d.mem := rfl

@[simp] theorem Dev.opReject_mem (d : Dev) (n st ticket addr) :
    (d.opReject n st ticket addr).mem = d.mem := by simp [Dev.opReject]

@[simp] theorem opEnter_mem (d : Dev) : (opEnter d).mem = d.mem := by
  unfold opEnter
  (repeat' split) <;> simp

@[simp] theorem shareStart_mem (d : Dev) (h) : (shareStart d h).mem = d.mem := by
  unfold shareStart
  (repeat' split) <;> simp

@[simp] theorem columnSubstitute_mem (d : Dev) (h) : (columnSubstitute d h).mem = d.mem := by
  unfold columnSubstitute
  split <;> simp

/-! ### Translation -/

@[simp] theorem Dev.walkTouch_mem (d : Dev) (h ctx va ext) : (d.walkTouch h ctx va ext).mem = d.mem := by
  unfold Dev.walkTouch
  split <;> simp

@[simp] theorem Dev.xfill_mem (d : Dev) (h holder ctx va level pte ws) : (d.xfill h holder ctx va level pte ws).mem = d.mem := rfl

@[simp] theorem Dev.modHead_mem (d : Dev) (e c f) : (d.modHead e c f).mem = d.mem := rfl

@[simp] theorem Dev.park_mem (d : Dev) (u fid) : (d.park u fid).mem = d.mem := by
  unfold Dev.park
  split <;> rfl

@[simp] theorem Dev.unpark_mem (d : Dev) (u) : (d.unpark u).mem = d.mem := by
  unfold Dev.unpark
  (repeat' split) <;> simp

@[simp] theorem Dev.failUser_mem (d : Dev) (u st detail addr) : (d.failUser u st detail addr).mem = d.mem := by
  unfold Dev.failUser
  dsimp only
  (repeat' split) <;> simp

@[simp] theorem Dev.raiseFault_mem (d : Dev) (h r) : (d.raiseFault h r).mem = d.mem := by
  unfold Dev.raiseFault
  dsimp only
  (repeat' split) <;> simp

@[simp] theorem Dev.raiseWaiting_mem (d : Dev) (h) : (d.raiseWaiting h).mem = d.mem := by simp [Dev.raiseWaiting]

@[simp] theorem Dev.faultUser_mem (d : Dev) (u ctx va acc cause level) :
    (d.faultUser u ctx va acc cause level).mem = d.mem := by simp [Dev.faultUser]

@[simp] theorem Dev.missUser_mem (d : Dev) (u ctx va acc) : (d.missUser u ctx va acc).mem = d.mem := by
  unfold Dev.missUser
  split <;> rfl

@[simp] theorem Dev.faultWalk_mem (d : Dev) (h w cause level us) : (d.faultWalk h w cause level us).mem = d.mem := by
  have hstop : (foldDev d (us.filter (fun u => d.endedUser u.user))
      (fun d u => match u.user with | .engine e => d.stopEng e | _ => d)).mem = d.mem :=
    foldDev_mem (by intro e u; split <;> simp) _ _
  unfold Dev.faultWalk
  dsimp only
  split
  · exact hstop
  · rw [Dev.raiseFault_mem]
    exact hstop

@[simp] theorem walkDone_mem (d : Dev) (h ctx va ext) : (walkDone d h ctx va ext).mem = d.mem := by
  unfold walkDone
  dsimp only
  split
  · rfl
  · split
    · split
      next e he => exact Dev.readGate_mem (.inr he)
      · rfl
    all_goals simp

theorem Dev.xlate_wait_mem {d e : Dev} {u : XUser} {ctx : Nat} {va : Word} {acc : Access} (h : d.xlate_ u ctx va acc = .wait e) :
    e.mem = d.mem := by
  unfold Dev.xlate_ at h
  grind [Dev.missUser_mem]

/-! ### Engine loads and stores -/

theorem Dev.engVat_ne_wait (d e : Dev) (g k v n mis) : d.engVat g k v n mis ≠ .wait e := by
  unfold Dev.engVat
  grind

theorem Dev.engTarget_mem {d f : Dev} {e : Fin 128} {k : AccKind} {pa n : Nat} {mis home : Bool}
    (h : d.engTarget e k pa n mis home = .wait f) : f.mem = d.mem := by
  unfold Dev.engTarget at h
  grind [Dev.readGate_mem, Dev.atsWait_mem, Dev.engVat_ne_wait]

theorem Dev.engResolve_mem {d f : Dev} {e : Fin 128} {k : AccKind} {va : Word} {n : Nat} {mis home : Bool}
    (h : d.engResolve e k va n mis home = .wait f) : f.mem = d.mem := by
  unfold Dev.engResolve at h
  grind [Dev.xlate_wait_mem, Dev.engTarget_mem, Dev.engVat_ne_wait]

theorem Dev.engUmr_mem {d : Dev} {e : Fin 128} {home : Bool} {off n : Nat} {ext : List Byte} {r : List Byte × Dev}
    (h : d.engUmr e home off n ext = .ok r) : r.2.mem = d.mem := by
  unfold Dev.engUmr at h
  dsimp only at h
  split at h
  · cases h; rfl
  · split at h
    · cases hq : d.homeRead off n ext with
      | error st => rw [hq] at h; cases h
      | ok q =>
        rw [hq] at h
        cases h
        simp [Dev.homeRead_mem hq]
    · cases h
      simp

theorem Dev.engStop_mem {d : Dev} (e : Fin 128) (va : Nat) {t : EngTo} (ht : ∀ f, t = .wait f → f.mem = d.mem) :
    (d.engStop e va t).dev.mem = d.mem := by
  unfold Dev.engStop
  split <;> simp [EngGot.dev, *]

theorem Dev.engStoreTo_mem {d : Dev} {e : Fin 128} {va : Word} {n el : Nat} :
    ∀ g, d.engStoreTo e va n el = .error g → g.dev.mem = d.mem := by
  unfold Dev.engStoreTo
  refine List.foldlRecOn (motive := fun a => ∀ g : EngGot, a = Except.error g → g.dev.mem = d.mem) _ _ ?_ ?_
  · intro g hg; cases hg
  · intro a ih p _ g hg
    split at hg
    · exact ih g hg
    · dsimp only at hg
      split at hg <;> cases hg
      exact Dev.engStop_mem e _ fun f hf => Dev.engResolve_mem hf

theorem Dev.pageReady_mem (d : Dev) (e va) : (d.pageReady e va).dev.mem = d.mem := by
  unfold Dev.pageReady
  dsimp only
  split
  · rfl
  · split
    · rfl
    · split
      · split <;> simp [VRun.dev]
      · split
        next f hf => exact Dev.readGate_mem (.inr hf)
        · rfl
      · rfl

theorem Dev.ffReady_mem (d : Dev) (e va n) : (d.ffReady e va n).dev.mem = d.mem := by
  unfold Dev.ffReady
  split
  · rfl
  · have hpage := d.pageReady_mem e va.toNat
    split
    next f l hf =>
      rw [hf] at hpage
      exact (f.pageReady_mem _ _).trans hpage
    · exact hpage

@[simp] theorem Dev.vstopAt_mem (d : Dev) (e i) : (d.vstopAt e i).mem = d.mem := rfl

@[simp] theorem Dev.pauses_mem (d : Dev) (e first) : (d.pauses e first).2.mem = d.mem := by
  unfold Dev.pauses
  split <;> rfl

/-! ### Xanvil instructions -/

theorem Dev.rennetStop_mem {d f : Dev} {e : Fin 128} {a : Word} {store waits : Bool} (h : d.rennetStop e a store waits = some f) :
    f.mem = d.mem := by
  unfold Dev.rennetStop at h
  grind [Dev.engExc_mem, Dev.failEng_mem]

@[simp] theorem Dev.userEnd_mem (d : Dev) (e st) : (d.userEnd e st).mem = d.mem := by
  unfold Dev.userEnd
  dsimp only
  split <;> simp

/-! ### Tongs -/

@[simp] theorem tongsEnter_mem (d : Dev) (e c) : (tongsEnter d e c).mem = d.mem := by
  unfold tongsEnter
  (repeat' split) <;> simp

theorem Dev.tongsRuns_mem {d : Dev} {e : Fin 128} {c : Fin 4} {va n : Nat} {acc : Access} :
    ∀ f, d.tongsRuns e c va n acc = .wait f → f.mem = d.mem := by
  unfold Dev.tongsRuns
  refine List.foldlRecOn (motive := fun a => ∀ f : Dev, a = TGot.wait f → f.mem = d.mem) _ _ ?_ ?_
  · intro f hf; cases hf
  · intro a ih p _ f hf
    split at hf
    · split at hf
      · cases hf
      next g hg => cases hf; exact Dev.xlate_wait_mem hg
    · exact ih f hf

@[simp] theorem Dev.xferFail_mem (d : Dev) (e c n st detail addr) :
    (d.xferFail e c n st detail addr).mem = d.mem := by simp [Dev.xferFail]

/-! ### Power domains -/

@[simp] theorem Dev.setDom_mem (d : Dev) (n x) : (d.setDom n x).mem = d.mem := rfl

@[simp] theorem Dev.wakeDom_mem (d : Dev) (n) : (d.wakeDom n).mem = d.mem := by
  unfold Dev.wakeDom
  split <;> rfl

/-! ### Steps -/

@[simp] theorem descriptorFetch_mem (d : Dev) (rn ext) : (descriptorFetch d rn ext).mem = d.mem := by
  unfold descriptorFetch
  dsimp only
  split
  · rfl
  · split
    · rfl
    · refine Dev.fwThen_mem ?_ _ _
      split
      · simp
      · split <;> simp

@[simp] theorem Dev.p1Touch_mem (d : Dev) (n ctx va len acc) : (d.p1Touch n ctx va len acc).mem = d.mem := by
  unfold Dev.p1Touch
  refine foldDev_mem (fun e i => ?_) _ _
  dsimp only
  split
  · split
    · split <;> simp
    · rfl
  · rfl

@[simp] theorem Dev.startKernel_mem (d : Dev) (n k) : (d.startKernel n k).mem = d.mem := by
  unfold Dev.startKernel
  dsimp only
  split
  · rfl
  · exact foldDev_mem (fun _ _ => by rfl) _ _

@[simp] theorem kernelEnd_mem (d : Dev) (n) : (kernelEnd d n).mem = d.mem := by
  unfold kernelEnd
  split <;> simp

/-! ### Scheduling -/

@[simp] theorem Dev.countWait_mem (d : Dev) (s) : (d.countWait s).mem = d.mem := rfl

@[simp] theorem Dev.grantReady_mem (d : Dev) (n) : (d.grantReady n).mem = d.mem := by
  unfold Dev.grantReady
  split <;> simp

@[simp] theorem Dev.grantStep_mem (d : Dev) (n s a) : (d.grantStep n s a).mem = d.mem := by
  unfold Dev.grantStep
  dsimp only
  split
  · simp [foldDev_modEng_mem]
  · simp [foldDev_modEng_mem]

@[simp] theorem Dev.startRestore_mem (d : Dev) (n s) : (d.startRestore n s).mem = d.mem := by
  simp [Dev.startRestore, foldDev_modEng_mem]

@[simp] theorem Dev.setHalf_mem (d : Dev) (h f) : (d.setHalf h f).mem = d.mem := rfl

@[simp] theorem Dev.visit_mem (d : Dev) (h n) : (d.visit h n).mem = d.mem := by
  have hvictims (l : List Nat) : (foldDev d l (fun d v => d.modStep v (fun x => { x with victimOf := some n }))).mem = d.mem :=
    foldDev_mem (fun e v => e.modStep_mem v _) d l
  unfold Dev.visit
  (repeat' split) <;> simp [hvictims]

@[simp] theorem Dev.endWaiting_mem (d : Dev) (h) : (d.endWaiting h).mem = d.mem := by
  unfold Dev.endWaiting
  split <;> simp

@[simp] theorem schedWalk_mem (d : Dev) (h) : (schedWalk d h).mem = d.mem := by simp [schedWalk]

@[simp] theorem preemptStart_mem (d : Dev) (n) : (preemptStart d n).mem = d.mem := by
  unfold preemptStart
  split <;> simp

@[simp] theorem preemptSave_mem (d : Dev) (n) : (preemptSave d n).mem = d.mem := by
  unfold preemptSave
  split <;> simp

@[simp] theorem Dev.saveUsers_mem (d : Dev) (n s) : (d.saveUsers n s).mem = d.mem := rfl

@[simp] theorem Dev.passTo_mem (d : Dev) (n) : (d.passTo n).mem = d.mem := by
  unfold Dev.passTo
  (repeat' split) <;> simp

@[simp] theorem preemptSaveDone_mem (d : Dev) (n) : (preemptSaveDone d n).mem = d.mem := by
  unfold preemptSaveDone
  dsimp only
  split
  · rfl
  · split
    · rfl
    · split
      · simp [foldDev_modEng_mem]
      · split <;> simp [foldDev_modEng_mem]

/-! ### Coherence messages -/

@[simp] theorem Dev.chainMsg_mem (d : Dev) (n m) : (d.chainMsg n m).mem = d.mem := by simp [Dev.chainMsg]

@[simp] theorem Dev.toAgent_mem (d : Dev) (m) : (d.toAgent m).mem = d.mem := by
  unfold Dev.toAgent
  split <;> simp

@[simp] theorem Dev.toHome_mem (d : Dev) (m) : (d.toHome m).mem = d.mem := by
  unfold Dev.toHome
  split <;> simp

@[simp] theorem Dev.arriveMsg_mem (d : Dev) (m same) : (d.arriveMsg m same).2.mem = d.mem := by
  unfold Dev.arriveMsg
  split
  next x e h => rw [← Prod.eq_iff_fst_eq_snd_eq.1 h |>.2]; simp
  · rfl

theorem Dev.refuseReq_mem {d e : Dev} {m : NMsg} (h : d.refuseReq m = some e) : e.mem = d.mem := by
  unfold Dev.refuseReq at h
  grind [Dev.toAgent_mem, Dev.modCoh_mem]

@[simp] theorem Dev.spendTicket_mem (d : Dev) (m) : (d.spendTicket m).mem = d.mem := by
  unfold Dev.spendTicket
  split <;> rfl

@[simp] theorem Dev.setHolder_mem (d : Dev) (key h s) : (d.setHolder key h s).mem = d.mem := rfl

@[simp] theorem Dev.noteHolder_mem (d : Dev) (key who st) : (d.noteHolder key who st).mem = d.mem := by
  unfold Dev.noteHolder
  split <;> rfl

@[simp] theorem Dev.takeEntry_mem (d : Dev) (key) : (d.takeEntry key).mem = d.mem := by simp [Dev.takeEntry]

@[simp] theorem Dev.dropHolder_mem (d : Dev) (key who) : (d.dropHolder key who).mem = d.mem := by
  unfold Dev.dropHolder
  split <;> rfl

@[simp] theorem Dev.shareHolder_mem (d : Dev) (key who dirty) : (d.shareHolder key who dirty).mem = d.mem := by
  unfold Dev.shareHolder
  split <;> rfl

@[simp] theorem Dev.touchSys_mem (d : Dev) (line) : (d.touchSys line).mem = d.mem := rfl

@[simp] theorem Dev.dropSys_mem (d : Dev) (line) : (d.dropSys line).mem = d.mem := rfl

@[simp] theorem Dev.noteRefusal_mem (d : Dev) (n st) : (d.noteRefusal n st).mem = d.mem := rfl

@[simp] theorem Dev.answer_mem (d : Dev) (m b) : (d.answer m b).mem = d.mem := by
  unfold Dev.answer
  (repeat' split) <;> simp

@[simp] theorem Dev.sendData_mem (d : Dev) (m bs st dirty poison fresh) :
    (d.sendData m bs st dirty poison fresh).mem = d.mem := by simp [Dev.sendData]

/-! ### Coherence at the home -/

@[simp] theorem Dev.setTxn_mem (d : Dev) (key t) : (d.setTxn key t).mem = d.mem := rfl

@[simp] theorem Dev.dropTxn_mem (d : Dev) (key) : (d.dropTxn key).mem = d.mem := rfl

@[simp] theorem Dev.modProxy_mem (d : Dev) (key f) : (d.modProxy key f).mem = d.mem := rfl

@[simp] theorem Dev.holdMsg_mem (d : Dev) (m) : (d.holdMsg m).mem = d.mem := rfl

@[simp] theorem Dev.queueRed_mem (d : Dev) (m) : (d.queueRed m).mem = d.mem := rfl

@[simp] theorem Dev.answerRead_mem (d : Dev) (m) : (d.answerRead m).mem = d.mem := by
  unfold Dev.answerRead
  dsimp only
  split <;> simp

@[simp] theorem Dev.awaitAck_mem (d : Dev) (key t) : (d.awaitAck key t).mem = d.mem := by simp [Dev.awaitAck]

@[simp] theorem Dev.noCopy_mem (d : Dev) (key) : (d.noCopy key).mem = d.mem := by simp [Dev.noCopy]

@[simp] theorem Dev.ask_mem (d : Dev) (m k) : (d.ask m k).mem = d.mem := by simp [Dev.ask]

@[simp] theorem Dev.sendWb_mem (d : Dev) (key m) : (d.sendWb key m).mem = d.mem := by simp [Dev.sendWb]

@[simp] theorem Dev.sendEvict_mem (d : Dev) (key) : (d.sendEvict key).mem = d.mem := by simp [Dev.sendEvict]

@[simp] theorem Dev.proxySupply_mem (d : Dev) (home r m) : (d.proxySupply home r m).mem = d.mem := by
  unfold Dev.proxySupply
  split <;> simp

@[simp] theorem Dev.respond_mem (d : Dev) (key t) : (d.respond key t).mem = d.mem := by
  unfold Dev.respond
  dsimp only
  (repeat' split) <;> simp

@[simp] theorem Dev.giveUp_mem (d : Dev) (m) : (d.giveUp m).mem = d.mem := by simp [Dev.giveUp]

@[simp] theorem Dev.finishProxy_mem (d : Dev) (key t) : (d.finishProxy key t).mem = d.mem := by
  unfold Dev.finishProxy
  dsimp only
  (repeat' split) <;> simp

@[simp] theorem Dev.endAbandoned_mem (d : Dev) (key t) : (d.endAbandoned key t).mem = d.mem := by
  unfold Dev.endAbandoned
  split <;> simp

@[simp] theorem Dev.served_mem (d : Dev) (m) : (d.served m).mem = d.mem := rfl

@[simp] theorem Dev.endAck_mem (d : Dev) (key t) : (d.endAck key t).mem = d.mem := by simp [Dev.endAck]

/-! ### Coherence at a core -/

@[simp] theorem Dev.unbackedStore_mem (d : Dev) (h addr) : (d.unbackedStore h addr).mem = d.mem := rfl

@[simp] theorem Dev.perform_mem (d : Dev) (h a) : (d.perform h a).mem = d.mem := by
  unfold Dev.perform
  dsimp only
  (repeat' split) <;> simp

@[simp] theorem Dev.evictLine_mem (d : Dev) (h key) : (d.evictLine h key).mem = d.mem := by
  unfold Dev.evictLine
  dsimp only
  (repeat' split) <;> simp

theorem Dev.makeRoom_mem {d e : Dev} {h : Fin 64} {key : Nat} (he : d.makeRoom h key = some e) : e.mem = d.mem := by
  unfold Dev.makeRoom at he
  grind [Dev.evictLine_mem]

@[simp] theorem Dev.coreAsk_mem (d : Dev) (h k key) : (d.coreAsk h k key).mem = d.mem := rfl

@[simp] theorem Dev.wantLine_mem (d : Dev) (h key a) : (d.wantLine h key a).mem = d.mem := by
  unfold Dev.wantLine
  dsimp only
  split
  · split <;> simp
  · split
    · rfl
    next e he => simp [Dev.makeRoom_mem he]

@[simp] theorem Dev.coreOne_mem (d : Dev) (h a) : (d.coreOne h a).mem = d.mem := by
  unfold Dev.coreOne
  split <;> simp

@[simp] theorem Dev.coreTry_mem (d : Dev) (h a) : (d.coreTry h a).mem = d.mem := by
  unfold Dev.coreTry
  split <;> simp

@[simp] theorem Dev.retryAccs_mem (d : Dev) (h) : (d.retryAccs h).mem = d.mem := by simp [Dev.retryAccs]

@[simp] theorem Dev.lineCame_mem (d : Dev) (h key l st) : (d.lineCame h key l st).mem = d.mem := by simp [Dev.lineCame]

@[simp] theorem Dev.onceData_mem (d : Dev) (h m o) : (d.onceData h m o).mem = d.mem := by simp [Dev.onceData]

@[simp] theorem Dev.coreData_mem (d : Dev) (h m) : (d.coreData h m).mem = d.mem := by
  unfold Dev.coreData
  dsimp only
  (repeat' split) <;> simp

@[simp] theorem Dev.refusedAcc_mem (d : Dev) (h st a) : (d.refusedAcc h st a).mem = d.mem := by
  unfold Dev.refusedAcc
  split <;> simp

@[simp] theorem Dev.coreReply_mem (d : Dev) (h st v) : (d.coreReply h st v).mem = d.mem := by
  unfold Dev.coreReply
  split <;> simp

@[simp] theorem Dev.storeEnds_mem (d : Dev) (h m) : (d.storeEnds h m).mem = d.mem := by
  unfold Dev.storeEnds
  split <;> rfl

@[simp] theorem Dev.onceRefused_mem (d : Dev) (h key) : (d.onceRefused h key).mem = d.mem := by
  unfold Dev.onceRefused
  split <;> simp

@[simp] theorem Dev.coreComp_mem (d : Dev) (h m) : (d.coreComp h m).mem = d.mem := by
  unfold Dev.coreComp
  dsimp only
  (repeat' split) <;> simp

@[simp] theorem Dev.coreFwd_mem (d : Dev) (h m) : (d.coreFwd h m).mem = d.mem := by
  unfold Dev.coreFwd
  split <;> simp

/-! ### The rows of the coherence protocol -/

@[simp] theorem Dev.dropWrite_mem (d : Dev) (m) : (d.dropWrite m).mem = d.mem := rfl

@[simp] theorem Dev.leaveNow_mem (d : Dev) (k holder key) : (d.leaveNow k holder key).mem = d.mem := by
  unfold Dev.leaveNow
  (repeat' split) <;> simp

/-! ### Containment and reclaim -/

@[simp] theorem Dev.lostHolder_mem (d : Dev) (key) : (d.lostHolder key).mem = d.mem := by simp [Dev.lostHolder]

@[simp] theorem Dev.reclaimProxy_mem (d : Dev) (key) : (d.reclaimProxy key).mem = d.mem := by
  unfold Dev.reclaimProxy
  split <;> simp

@[simp] theorem Dev.resetCore_mem (d : Dev) (h) : (d.resetCore h).mem = d.mem := rfl

@[simp] theorem Dev.dropRemote_mem (d : Dev) (n tell) : (d.dropRemote n tell).mem = d.mem := by
  have htell (l : List (Nat × Nat)) :
      (foldDev d l (fun d p => d.raise (evt 5 .lostStore .hub p.2 (gaddr (64 * p.1)).toNat 0))).mem = d.mem :=
    foldDev_mem (fun _ _ => Dev.raise_mem _ _) d l
  have hlines : ∀ e : Dev, ∀ h (l : List (Nat × CLine)), (foldDev e l (fun e p =>
      let dirty := p.2.st == .m || p.2.st == .o || p.2.st == .omD || p.2.st == .miA
      let ga := (gaddr (64 * p.1)).toNat
      let e := e.modCore h (fun c => { (c.delLine p.1) with resv := if c.resv = some (p.1 / 2) then none else c.resv })
      let e := if dirty && tell then e.raise (evt 5 .lostStore .hub h.val ga 0) else e
      foldDev e p.2.acc (fun e a => e.refusedAcc h .unreachable a))).mem = e.mem := by
    intro e h l
    refine foldDev_mem (fun e p => ?_) e l
    dsimp only
    rw [foldDev_mem (by simp)]
    split <;> simp
  unfold Dev.dropRemote
  dsimp only
  rw [foldDev_mem (by simp), Dev.modCoh_mem, foldDev_mem, foldDev_mem]
  · split
    · exact htell _
    · rfl
  · intro e h
    exact hlines e h _
  · intro e h
    exact foldDev_mem (by simp) _ _

@[simp] theorem Dev.retireUnit_mem (d : Dev) (u why) : (d.retireUnit u why).mem = d.mem := by simp [Dev.retireUnit]

@[simp] theorem Dev.retireCluster_mem (d : Dev) (h cl) : (d.retireCluster h cl).mem = d.mem := by simp [Dev.retireCluster]

@[simp] theorem Dev.deferRow_mem (d : Dev) (u spare loc) : (d.deferRow u spare loc).mem = d.mem := by simp [Dev.deferRow]

@[simp] theorem Dev.poisonObj_mem (d : Dev) (obj) : (d.poisonObj obj).mem = d.mem := by
  unfold Dev.poisonObj
  dsimp only
  split <;> simp

@[simp] theorem Dev.vatError_mem (d : Dev) (h v) : (d.vatError h v).mem = d.mem := by
  unfold Dev.vatError
  dsimp only
  split <;> simp

@[simp] theorem Dev.fecSymbols_mem (d : Dev) (u) : (d.fecSymbols u).mem = d.mem := rfl

@[simp] theorem spareEngine_mem (d : Dev) (h c) : (spareEngine d h c).mem = d.mem := by
  unfold spareEngine
  dsimp only
  split <;> simp

/-! ### Memory tiers and the Cave -/

@[simp] theorem Dev.newPolicies_mem (d : Dev) : (d.newPolicies).mem = d.mem := rfl

@[simp] theorem Dev.dropShadows_mem (d : Dev) : (d.dropShadows).mem = d.mem := rfl

@[simp] theorem epochEnd_mem (d : Dev) : (epochEnd d).mem = d.mem := rfl

@[simp] theorem migrationStart_mem (d : Dev) (n) : (migrationStart d n).mem = d.mem := by
  unfold migrationStart
  split <;> simp

@[simp] theorem Dev.loseUnit_mem (d : Dev) (n u) : (d.loseUnit n u).mem = d.mem := by
  unfold Dev.loseUnit
  simp

@[simp] theorem Dev.hostAnswer_mem (d : Dev) (i off bs poison) :
    (d.hostAnswer i off bs poison).mem = d.mem := by simp [Dev.hostAnswer]

@[simp] theorem Dev.stayLost_mem (d : Dev) (n) : (d.stayLost n).mem = d.mem := by simp [Dev.stayLost]

@[simp] theorem Dev.setCave_mem (d : Dev) (st) : (d.setCave st).mem = d.mem := by simp [Dev.setCave]

@[simp] theorem Dev.caveCheck_mem (d : Dev) : (d.caveCheck).mem = d.mem := by simp [Dev.caveCheck]

@[simp] theorem caveUnitRead_mem (d : Dev) (n u r) : (caveUnitRead d n u r).mem = d.mem := by
  unfold caveUnitRead
  (repeat' split) <;> simp

@[simp] theorem stagingProgram_mem (d : Dev) (ok) : (stagingProgram d ok).mem = d.mem := by
  unfold stagingProgram
  dsimp only
  (repeat' split) <;> simp

@[simp] theorem cavePatrol_mem (d : Dev) (weak bad) : (cavePatrol d weak bad).mem = d.mem := by simp [cavePatrol]

@[simp] theorem Dev.ddrRepair_mem (d : Dev) (n) : (d.ddrRepair n).mem = d.mem := by
  unfold Dev.ddrRepair
  split <;> simp

/-! ### The Chain -/

@[simp] theorem Dev.setSlot_mem (d : Dev) (n s) : (d.setSlot n s).mem = d.mem := by simp [Dev.setSlot]

@[simp] theorem Dev.dropStreams_mem (d : Dev) (n) : (d.dropStreams n).mem = d.mem := rfl

@[simp] theorem Dev.setLink_mem (d : Dev) (a b up) : (d.setLink a b up).mem = d.mem := by simp [Dev.setLink]

@[simp] theorem Dev.portDown_mem (d : Dev) (p st) : (d.portDown p st).mem = d.mem := by
  unfold Dev.portDown
  dsimp only
  (repeat' split) <;> simp

@[simp] theorem Dev.linkRoles_mem (d : Dev) (far) : (d.linkRoles far).mem = d.mem := by
  unfold Dev.linkRoles
  split <;> simp

@[simp] theorem Dev.portRefuse_mem (d : Dev) (p far code) : (d.portRefuse p far code).mem = d.mem := rfl

@[simp] theorem Dev.portUp_mem (d : Dev) (p) : (d.portUp p).mem = d.mem := by simp [Dev.portUp]

@[simp] theorem Dev.linkDead_mem (d : Dev) (p) : (d.linkDead p).mem = d.mem := by simp [Dev.linkDead]

@[simp] theorem Dev.askReplay_mem (d : Dev) (p) : (d.askReplay p).mem = d.mem := rfl

@[simp] theorem linkFrame_mem (d : Dev) (p h crcOk tagOk) : (linkFrame d p h crcOk tagOk).mem = d.mem := by simp [linkFrame]

@[simp] theorem Dev.replayFrom_mem (d : Dev) (p fs) : (d.replayFrom p fs).mem = d.mem :=
  foldDev_mem (fun e (f : BitVec 24 × Nat) => e.emit_mem (.linkReplay p f.1)) d fs

@[simp] theorem Dev.laneDegrade_mem (d : Dev) (p bad) : (d.laneDegrade p bad).mem = d.mem := by simp [Dev.laneDegrade]

@[simp] theorem Dev.noteUnit_mem (d : Dev) (k) : (d.noteUnit k).mem = d.mem := by simp [Dev.noteUnit]

@[simp] theorem Dev.sendAck_mem (d : Dev) (src cls) : (d.sendAck src cls).mem = d.mem := by
  unfold Dev.sendAck
  (repeat' split) <;> simp

@[simp] theorem Dev.replyPkt_mem (d : Dev) (k st bs) : (d.replyPkt k st bs).mem = d.mem := by simp [Dev.replyPkt]

@[simp] theorem Dev.refusePkt_mem (d : Dev) (p k st) : (d.refusePkt p k st).mem = d.mem := by simp [Dev.refusePkt]

@[simp] theorem Dev.cancelWait_mem (d : Dev) (n tag) : (d.cancelWait n tag).mem = d.mem := rfl

@[simp] theorem resendList_mem (d : Dev) (pn vs l) : (resendList d pn vs l).mem = d.mem := by
  fun_induction resendList d pn vs l <;> simp [*]

/-! ### The host interface -/

@[simp] theorem Dev.setApt_mem (d : Dev) (i a) : (d.setApt i a).mem = d.mem := rfl

@[simp] theorem Dev.issueSig_mem (d : Dev) (src s node obj v) :
    (d.issueSig src s node obj v).mem = d.mem := by simp [Dev.issueSig]

@[simp] theorem apDrop_mem (d : Dev) (i o st) : (apDrop d i o st).mem = d.mem := rfl

@[simp] theorem apNo_mem (d : Dev) (i o st) : (apNo d i o st).mem = d.mem := rfl

@[simp] theorem Dev.readWaits_mem (d : Dev) (r) : (d.readWaits r).mem = d.mem := rfl

@[simp] theorem Dev.readChunk_mem (d : Dev) (src o left) : (d.readChunk src o left).2.mem = d.mem := by
  unfold Dev.readChunk
  split <;> rfl

@[simp] theorem Dev.readUmr_mem (d : Dev) (r src off) : (d.readUmr r src off).mem = d.mem := by
  unfold Dev.readUmr
  split
  · simp
  next e he => simp [Dev.readGate_mem (.inr he)]
  next e he =>
    have hgo := Dev.readGate_mem (.inl he)
    dsimp only
    split
    · simp [hgo]
    · simp [hgo]
    next q hq =>
      have hread := Dev.homeRead_mem hq
      split <;> split <;> simp_all

@[simp] theorem apEntryWrite_mem (d : Dev) (i w) : (apEntryWrite d i w).mem = d.mem := rfl

@[simp] theorem apBaseWrite_mem (d : Dev) (i w) : (apBaseWrite d i w).mem = d.mem := by simp [apBaseWrite]

theorem Dev.placeGate_mem {d e : Dev} {reg : PRegion} {l : List (Nat × Nat)}
    (h : d.placeGate reg l = .go e ∨ d.placeGate reg l = .hold e) : e.mem = d.mem := by
  induction l generalizing d with
  | nil => simp_all [Dev.placeGate]
  | cons p t ih =>
    unfold Dev.placeGate at h
    split at h
    next f hf => exact (ih h).trans (Dev.readGate_mem (.inl hf))
    · exact Dev.readGate_mem h

@[simp] theorem Dev.placeBytes_mem (d : Dev) (reg ext l) : (d.placeBytes reg ext l).2.2.mem = d.mem := by
  induction l generalizing d ext with
  | nil => rfl
  | cons p t ih =>
    unfold Dev.placeBytes
    dsimp only
    rw [ih]
    split
    next r hr => simp [Dev.homeRead_mem hr]
    · rfl

@[simp] theorem Dev.placeTry_mem (d : Dev) (r) : (d.placeTry r).mem = d.mem := by
  unfold Dev.placeTry
  split
  · simp
  · split
    · simp
    · split
      next e he => simp [Dev.placeGate_mem (.inr he)]
      · simp
      next e he =>
        dsimp only
        split <;> simp [Dev.placeGate_mem (.inl he)]

@[simp] theorem placeRead_mem (d : Dev) (off len ext) : (placeRead d off len ext).mem = d.mem := by
  unfold placeRead
  split <;> simp

@[simp] theorem notify_mem (d : Dev) (page off len v) : (notify d page off len v).mem = d.mem := by simp [notify]

@[simp] theorem hostNotify_mem (d : Dev) (page off len v) : (hostNotify d page off len v).mem = d.mem := by simp [hostNotify]

@[simp] theorem Dev.takeTail_mem (d : Dev) (rn tail) : (d.takeTail rn tail).mem = d.mem := by
  unfold Dev.takeTail
  split <;> simp

@[simp] theorem doorbell_mem (d : Dev) (n ext) : (doorbell d n ext).mem = d.mem := by
  unfold doorbell
  split
  · split
    · rfl
    · refine Dev.fwThen_mem ?_ _ _
      dsimp only
      split <;> simp
  · rfl

@[simp] theorem evtHeadWrite_mem (d : Dev) (v) : (evtHeadWrite d v).mem = d.mem := rfl

@[simp] theorem Dev.admCheck_mem (d : Dev) : (d.admCheck).mem = d.mem := by simp [Dev.admCheck]

@[simp] theorem admCtl_mem (d : Dev) (w) : (admCtl d w).mem = d.mem := by simp [admCtl]

@[simp] theorem evtCtl_mem (d : Dev) (w) : (evtCtl d w).mem = d.mem := rfl

@[simp] theorem Dev.badCommand_mem (d : Dev) (w) : (d.badCommand w).mem = d.mem := by simp [Dev.badCommand]

@[simp] theorem admTail_mem (d : Dev) (v unknown) : (admTail d v unknown).mem = d.mem := by simp [admTail]

/-! ### The admin commands -/

@[simp] theorem bad_mem (d : Dev) : (bad d).dev.mem = d.mem := rfl

@[simp] theorem ans_mem (st) (d : Dev) : (ans st d).dev.mem = d.mem := rfl

@[simp] theorem ctxCreate_mem (d : Dev) (c) : (ctxCreate d c).dev.mem = d.mem := by
  unfold ctxCreate
  dsimp only
  (repeat' split) <;> simp

@[simp] theorem ctxDestroy_mem (d : Dev) (c) : (ctxDestroy d c).2.mem = d.mem := by
  unfold ctxDestroy
  dsimp only
  (repeat' split) <;> simp

@[simp] theorem ctxRoot_mem (d : Dev) (c) : (ctxRoot d c).dev.mem = d.mem := by
  unfold ctxRoot
  dsimp only
  (repeat' split) <;> simp

@[simp] theorem ctxParams_mem (d : Dev) (c) : (ctxParams d c).dev.mem = d.mem := by
  unfold ctxParams
  dsimp only
  (repeat' split) <;> simp

@[simp] theorem acctSet_mem (d : Dev) (c) : (acctSet d c).dev.mem = d.mem := by
  unfold acctSet
  dsimp only
  (repeat' split) <;> simp

@[simp] theorem ringCreate_mem (d : Dev) (c ext) : (ringCreate d c ext).dev.mem = d.mem := by
  unfold ringCreate
  dsimp only
  (repeat' split) <;> simp

@[simp] theorem ringDestroy_mem (d : Dev) (c) : (ringDestroy d c).2.mem = d.mem := by
  unfold ringDestroy
  dsimp only
  (repeat' split) <;> simp

@[simp] theorem dblineSet_mem (d : Dev) (c) : (dblineSet d c).dev.mem = d.mem := by
  unfold dblineSet
  dsimp only
  (repeat' split) <;> simp

@[simp] theorem regionReg_mem (d : Dev) (c) : (regionReg d c).dev.mem = d.mem := by
  unfold regionReg
  dsimp only
  (repeat' split) <;> simp

@[simp] theorem Dev.fillAll_mem (d : Dev) (l) : (d.fillAll l).2.mem = d.mem := by
  induction l generalizing d with
  | nil => rfl
  | cons f t ih =>
    unfold Dev.fillAll
    dsimp only
    split
    · split <;> simp [ih]
    · exact ih d

@[simp] theorem setRegion_mem (d : Dev) (r st) : (setRegion d r st).mem = d.mem := rfl

@[simp] theorem regionEnable_mem (d : Dev) (c) : (regionEnable d c).2.mem = d.mem := by
  unfold regionEnable
  dsimp only
  (repeat' split) <;> simp

@[simp] theorem regionDisable_mem (d : Dev) (c) : (regionDisable d c).2.mem = d.mem := by
  unfold regionDisable
  dsimp only
  (repeat' split) <;> simp

@[simp] theorem regionFree_mem (d : Dev) (c) : (regionFree d c).dev.mem = d.mem := by
  unfold regionFree
  dsimp only
  (repeat' split) <;> simp

@[simp] theorem flushImages_mem (d : Dev) (c) : (flushImages d c).dev.mem = d.mem := by
  unfold flushImages
  dsimp only
  (repeat' split) <;> simp

@[simp] theorem saveArea_mem (d : Dev) (c) : (saveArea d c).dev.mem = d.mem := by
  unfold saveArea
  dsimp only
  (repeat' split) <;> simp

@[simp] theorem rennetPools_mem (d : Dev) (c) : (rennetPools d c).dev.mem = d.mem := by
  unfold rennetPools
  dsimp only
  (repeat' split) <;> simp

@[simp] theorem rennetAlloc_mem (d : Dev) (c) : (rennetAlloc d c).dev.mem = d.mem := by
  unfold rennetAlloc
  dsimp only
  (repeat' split) <;> simp

@[simp] theorem rennetFree_mem (d : Dev) (c) : (rennetFree d c).dev.mem = d.mem := by
  unfold rennetFree
  dsimp only
  (repeat' split) <;> simp

@[simp] theorem dumpReg_mem (d : Dev) (c) : (dumpReg d c).dev.mem = d.mem := by
  unfold dumpReg
  split <;> rfl

@[simp] theorem dumpStart_mem (d : Dev) (c) : (dumpStart d c).2.mem = d.mem := by
  unfold dumpStart
  dsimp only
  (repeat' split) <;> simp

@[simp] theorem faultQueue_mem (d : Dev) (c) : (faultQueue d c).dev.mem = d.mem := by
  unfold faultQueue
  dsimp only
  (repeat' split) <;> simp

@[simp] theorem faultReply_mem (d : Dev) (c) : (faultReply d c).dev.mem = d.mem := by
  unfold faultReply
  dsimp only
  (repeat' split) <;> simp

@[simp] theorem invalidate_mem (d : Dev) (c) : (invalidate d c).2.mem = d.mem := by
  unfold invalidate
  dsimp only
  (repeat' split) <;> simp

theorem allocFrames_mem {k n : Nat} {f : Frame} {d e : Dev} (h : allocFrames k n f d = some e) : e.mem = d.mem := by
  induction k generalizing n d with
  | zero => cases h; rfl
  | succ k ih =>
    unfold allocFrames at h
    dsimp only at h
    split at h
    · cases h
    · simpa using ih h

@[simp] theorem onAlloc_mem (d : Dev) (i f) : (onAlloc d i f).dev.mem = d.mem := by
  unfold onAlloc
  (repeat' split) <;> simp

@[simp] theorem frameAttach_mem (d : Dev) (c) : (frameAttach d c).dev.mem = d.mem := by
  unfold frameAttach
  dsimp only
  (repeat' split) <;> simp

@[simp] theorem frameDetach_mem (d : Dev) (c) : (frameDetach d c).dev.mem = d.mem := by
  unfold frameDetach
  dsimp only
  split <;> simp

@[simp] theorem framePolicy_mem (d : Dev) (c) : (framePolicy d c).dev.mem = d.mem := by
  unfold framePolicy
  split <;> simp

@[simp] theorem frameMove_mem (d : Dev) (c) : (frameMove d c).2.mem = d.mem := by
  unfold frameMove
  dsimp only
  (repeat' split) <;> simp

@[simp] theorem quotaSet_mem (d : Dev) (c) : (quotaSet d c).dev.mem = d.mem := by
  unfold quotaSet
  dsimp only
  (repeat' split) <;> simp

@[simp] theorem tierParams_mem (d : Dev) (c) : (tierParams d c).dev.mem = d.mem := by
  unfold tierParams
  dsimp only
  split <;> simp

@[simp] theorem caveParams_mem (d : Dev) (c) : (caveParams d c).2.mem = d.mem := by
  unfold caveParams
  split <;> rfl

@[simp] theorem brinePeriod_mem (d : Dev) (c) : (brinePeriod d c).dev.mem = d.mem := by
  unfold brinePeriod
  split <;> rfl

@[simp] theorem startMargin_mem (d : Dev) (slot h stack volt buf) : (startMargin d slot h stack volt buf).2.mem = d.mem := by
  unfold startMargin
  (repeat' split) <;> simp

@[simp] theorem hbmMargin_mem (d : Dev) (c) : (hbmMargin d c).2.mem = d.mem := by
  unfold hbmMargin
  split <;> simp

@[simp] theorem Dev.fillAgain_mem (d : Dev) (slot r) : (d.fillAgain slot r).mem = d.mem := by
  unfold Dev.fillAgain
  split <;> simp

/-! ### Starts -/

@[simp] theorem Dev.measure_mem (d : Dev) (mr event dg) : (d.measure mr event dg).mem = d.mem := by simp [Dev.measure]

@[simp] theorem Dev.startUp_mem (d : Dev) (cause bsel strap) : (d.startUp cause bsel strap).mem = d.mem := by simp [Dev.startUp]

@[simp] theorem Dev.loadCaveKey_mem (d : Dev) : (d.loadCaveKey).mem = d.mem := rfl

@[simp] theorem Dev.step4_mem (d : Dev) : (d.step4).mem = d.mem := by
  unfold Dev.step4
  dsimp only
  split
  · rw [Dev.modBoot_mem, Dev.emit_mem]
    exact foldDev_mem (fun e n => e.setDom_mem n _) _ _
  · rfl

@[simp] theorem Dev.setReturned_mem (d : Dev) : (d.setReturned).mem = d.mem := rfl

/-! ### Power and heat -/

@[simp] theorem Dev.notePlatform_mem (d : Dev) (old new ths) : (d.notePlatform old new ths).mem = d.mem := rfl

@[simp] theorem oscSwitch_mem (d : Dev) (internal) : (oscSwitch d internal).mem = d.mem := by simp [oscSwitch]

@[simp] theorem clockChange_mem (d : Dev) (c mhz) : (clockChange d c mhz).mem = d.mem := by
  unfold clockChange
  split <;> simp

@[simp] theorem Dev.evictAll_mem (d : Dev) (c) : (d.evictAll c).mem = d.mem := by simp [Dev.evictAll]

@[simp] theorem domainGate_mem (d : Dev) (n) : (domainGate d n).mem = d.mem := by
  unfold domainGate
  split <;> simp

@[simp] theorem domainWake_mem (d : Dev) (n) : (domainWake d n).mem = d.mem := by simp [domainWake]

@[simp] theorem Dev.startHart_mem (d : Dev) (h) : (d.startHart h).mem = d.mem := rfl

@[simp] theorem Dev.vatDark_mem (d : Dev) (h) : (d.vatDark h).mem = d.mem := rfl

@[simp] theorem domainPowerDownDone_mem (d : Dev) (n) : (domainPowerDownDone d n).mem = d.mem := by
  unfold domainPowerDownDone
  (repeat' split) <;> simp

@[simp] theorem Dev.setPState_mem (d : Dev) (p) : (d.setPState p).mem = d.mem := rfl

@[simp] theorem Dev.mapDoms_mem (d : Dev) (f) : (d.mapDoms f).mem = d.mem := by simp [Dev.mapDoms]

@[simp] theorem Dev.harts_wfi_mem (d : Dev) : d.harts_wfi.mem = d.mem := by
  simp [Dev.harts_wfi]

@[simp] theorem glowEntry_mem (d : Dev) : (glowEntry d).mem = d.mem := by simp [glowEntry]

@[simp] theorem Dev.unparkDoms_mem (d : Dev) : d.unpark_.mem = d.mem := by
  simp [Dev.unpark_]

@[simp] theorem glowExit_mem (d : Dev) : (glowExit d).mem = d.mem := by simp [glowExit]

@[simp] theorem bankEntry_mem (d : Dev) : (bankEntry d).mem = d.mem := by
  unfold bankEntry
  dsimp only
  split
  · exact foldDev_mem (fun e p => e.modPort_mem p _) _ _
  · rfl

@[simp] theorem Dev.leaveBanked_mem (d : Dev) : (d.leaveBanked).mem = d.mem := by
  unfold Dev.leaveBanked
  dsimp only
  rw [Dev.setPState_mem, Dev.loadCaveKey_mem, foldDev_mem (fun e p => e.modPort_mem p _), Dev.mapDoms_mem]

@[simp] theorem bankedDone_mem (d : Dev) : (bankedDone d).mem = d.mem := by simp [bankedDone]

@[simp] theorem bankExit_mem (d : Dev) (c) : (bankExit d c).mem = d.mem := by simp [bankExit]

@[simp] theorem coldExit_mem (d : Dev) (c bsel strap) : (coldExit d c bsel strap).mem = d.mem := by simp [coldExit]

@[simp] theorem powerDemand_mem (d : Dev) (w e hub) : (powerDemand d w e hub).mem = d.mem := by simp [powerDemand]

@[simp] theorem Dev.toGrant_mem (d : Dev) (h old) : (d.toGrant h old).mem = d.mem := by simp [Dev.toGrant]

@[simp] theorem powerGrant_mem (d : Dev) (h seq watts) : (powerGrant d h seq watts).mem = d.mem := by
  unfold powerGrant
  dsimp only
  (repeat' split) <;> simp

@[simp] theorem Dev.lowerGrants_mem (d : Dev) (f) : (d.lowerGrants f).mem = d.mem := by simp [Dev.lowerGrants]

@[simp] theorem Dev.hbmStep_mem (d : Dev) (h) : (d.hbmStep h).mem = d.mem := by simp [Dev.hbmStep]

@[simp] theorem Dev.junctionStep_mem (d : Dev) (h) : (d.junctionStep h).mem = d.mem := by
  unfold Dev.junctionStep
  dsimp only
  split <;> simp

@[simp] theorem Dev.hubStep_mem (d : Dev) : (d.hubStep).mem = d.mem := by
  unfold Dev.hubStep
  split <;> simp

@[simp] theorem thermalStep_mem (d : Dev) (die) : (thermalStep d die).mem = d.mem := by
  unfold thermalStep
  (repeat' split) <;> simp

@[simp] theorem thermtripRelease_mem (d : Dev) : (thermtripRelease d).mem = d.mem := by simp [thermtripRelease]

@[simp] theorem powerPolicy_mem (d : Dev) (c) : (powerPolicy d c).dev.mem = d.mem := by
  unfold powerPolicy
  split <;> rfl

@[simp] theorem powerLimit_mem (d : Dev) (c) : (powerLimit d c).dev.mem = d.mem := by
  unfold powerLimit
  split <;> rfl

@[simp] theorem coreClock_mem (d : Dev) (c) : (coreClock d c).dev.mem = d.mem := by
  unfold coreClock
  dsimp only
  split <;> simp

@[simp] theorem wakeGpio_mem (d : Dev) (c) : (wakeGpio d c).dev.mem = d.mem := by
  unfold wakeGpio
  dsimp only
  split <;> simp

/-! ### Reliability -/

@[simp] theorem ringResume_mem (d : Dev) (c) : (ringResume d c).dev.mem = d.mem := by
  unfold ringResume
  dsimp only
  (repeat' split) <;> simp

@[simp] theorem faultThresh_mem (d : Dev) (c) : (faultThresh d c).dev.mem = d.mem := by
  unfold faultThresh
  dsimp only
  split <;> simp

/-! ### Security -/

@[simp] theorem Dev.authLog_mem (d : Dev) (body) : (d.authLog body).mem = d.mem := by simp [Dev.authLog]

theorem Dev.admThen_mem {d : Dev} {f : Dev → Dev} (hf : (f d).mem = d.mem) (c n) : (d.admThen c n f).mem = d.mem := by
  unfold Dev.admThen
  split
  · exact Dev.fwThen_mem hf _ _
  · exact hf

@[simp] theorem Dev.drawNonce_mem (d : Dev) : (d.drawNonce).2.mem = d.mem := rfl

@[simp] theorem Dev.provision_mem (d : Dev) (rec) : (d.provision rec).mem = d.mem := by simp [Dev.provision]

theorem Dev.nextIndex_mem {d e : Dev} {i : Nat} (h : d.nextIndex = some (i, e)) : e.mem = d.mem := by
  unfold Dev.nextIndex at h
  grind [Dev.modSec_mem]

theorem Dev.attestBytes_mem {d e : Dev} {nonce : Nat} {l : List Byte} (h : d.attestBytes nonce = some (l, e)) :
    e.mem = d.mem := by
  unfold Dev.attestBytes at h
  grind [Dev.nextIndex_mem]

/-! ### Debug -/

@[simp] theorem Dev.tap_mem (d : Dev) (ir) : (d.tap ir).mem = d.mem := rfl

@[simp] theorem Dev.sample_mem (d : Dev) (ir pins) : (d.sample ir pins).mem = d.mem := rfl

@[simp] theorem Dev.dbgAsk_mem (d : Dev) (grant dom) : (d.dbgAsk grant dom).2.mem = d.mem := by
  unfold Dev.dbgAsk
  dsimp only
  (repeat' split) <;> simp

@[simp] theorem Dev.dbgReach_mem (d : Dev) (t) : (d.dbgReach t).2.mem = d.mem := by
  unfold Dev.dbgReach
  (repeat' split) <;> simp

@[simp] theorem Dev.setHalted_mem (d : Dev) (t v) : (d.setHalted t v).mem = d.mem := by
  unfold Dev.setHalted
  split <;> rfl

@[simp] theorem Dev.modMod_mem (d : Dev) (die f) : (d.modMod die f).mem = d.mem := rfl

@[simp] theorem Dev.cmdErr_mem (d : Dev) (die n) : (d.cmdErr die n).mem = d.mem := rfl

@[simp] theorem Dev.sbErr_mem (d : Dev) (die n) : (d.sbErr die n).mem = d.mem := rfl

@[simp] theorem hartHalt_mem (d : Dev) (t) : (hartHalt d t).mem = d.mem := by
  have hreach := d.dbgReach_mem t
  unfold hartHalt
  split
  next e he => split <;> simp_all
  next a e _ he => simp_all

@[simp] theorem Dev.busRead_mem (d : Dev) (a) : (d.busRead a).2.mem = d.mem := by
  unfold Dev.busRead
  dsimp only
  (repeat' split) <;> simp

@[simp] theorem Dev.setTrigger_mem (d : Dev) (die t r v) : (d.setTrigger die t r v).mem = d.mem := rfl

/-! ### Boot -/

@[simp] theorem vinRise_mem (d : Dev) (bsel strap) : (vinRise d bsel strap).mem = d.mem := by simp [vinRise]

@[simp] theorem perstDeassert_mem (d : Dev) : (perstDeassert d).mem = d.mem := by simp [perstDeassert]

@[simp] theorem Dev.measureImage_mem (d : Dev) (dg) : (d.measureImage dg).mem = d.mem := by simp [Dev.measureImage]

@[simp] theorem Dev.toRecovery_mem (d : Dev) (reason) : (d.toRecovery reason).mem = d.mem := rfl

@[simp] theorem Dev.runImage_mem (d : Dev) (v) : (d.runImage v).mem = d.mem := rfl

@[simp] theorem Dev.recover_mem (d : Dev) (img) : (d.recover img).mem = d.mem := by
  unfold Dev.recover
  split <;> simp

@[simp] theorem recoveryGo_mem (d : Dev) : (recoveryGo d).mem = d.mem := by simp [recoveryGo]

@[simp] theorem Dev.pldm_mem (d : Dev) (code v) : (d.pldm code v).mem = d.mem := rfl

@[simp] theorem activate_mem (d : Dev) (selfContained) : (activate d selfContained).mem = d.mem := rfl

@[simp] theorem spiDone_mem (d : Dev) (ok) : (spiDone d ok).mem = d.mem := by
  unfold spiDone
  dsimp only
  (repeat' split) <;> simp

@[simp] theorem Dev.becomeReady_mem (d : Dev) : (d.becomeReady).mem = d.mem := rfl

@[simp] theorem Dev.applyRepairs_mem (d : Dev) : (d.applyRepairs).mem = d.mem := rfl

@[simp] theorem Dev.trained_mem (d : Dev) (w e ddr gb) : (d.trained w e ddr gb).mem = d.mem := by
  simp [Dev.trained]

@[simp] theorem Dev.startFailed_mem (d : Dev) (n) : (d.startFailed n).mem = d.mem := rfl

@[simp] theorem caveMount_mem (d : Dev) (pop factory spare) : (caveMount d pop factory spare).mem = d.mem := by simp [caveMount]

/-! ### Registers -/

@[simp] theorem hartRelease_mem (d : Dev) (h) : (hartRelease d h).mem = d.mem := by simp [hartRelease]

@[simp] theorem gpioEdge_mem (d : Dev) (n rising) : (gpioEdge d n rising).mem = d.mem := by simp [gpioEdge]

@[simp] theorem Dev.gpioDrive_mem (d : Dev) : (d.gpioDrive).mem = d.mem := by simp [Dev.gpioDrive]

@[simp] theorem gpioStatClear_mem (d : Dev) (m) : (gpioStatClear d m).mem = d.mem := rfl

@[simp] theorem msixWrite_mem (d : Dev) (v hi w) : (msixWrite d v hi w).mem = d.mem := by simp [msixWrite]

@[simp] theorem regPut_mem (d : Dev) (off w lo hi) : (regPut d off w lo hi).mem = d.mem := by
  unfold regPut
  (repeat' split) <;> simp

@[simp] theorem regWrite_mem (d : Dev) (off len v) : (regWrite d off len v).mem = d.mem := by simp [regWrite]

/-! ### Application cores -/

@[simp] theorem Dev.passBars_mem (d : Dev) (h) : (d.passBars h).mem = d.mem := rfl

theorem Dev.onCore_mem {f : Dev → Dev} (hf : ∀ e, (f e).mem = e.mem) (d : Dev) (h k) : (d.onCore h k f).mem = d.mem := by
  unfold Dev.onCore
  split <;> simp [hf]

@[simp] theorem Dev.setBars_mem (d : Dev) (h st ld rd) : (d.setBars h st ld rd).mem = d.mem := rfl

@[simp] theorem coreFence_mem (d : Dev) (h pred succ tso) : (coreFence d h pred succ tso).mem = d.mem := by simp [coreFence]

@[simp] theorem Dev.coreFault_mem (d : Dev) (h cause a) : (d.coreFault h cause a).mem = d.mem := rfl

@[simp] theorem spdomWrite_mem (d : Dev) (h v) : (spdomWrite d h v).mem = d.mem := by
  unfold spdomWrite
  split <;> rfl

@[simp] theorem Dev.setCmp_mem (d : Dev) (h v) : (d.setCmp h v).mem = d.mem := rfl

@[simp] theorem mtimerMatch_mem (d : Dev) (h) : (mtimerMatch d h).mem = d.mem := by simp [mtimerMatch]

@[simp] theorem Dev.imsicWrite_mem (d : Dev) (h f off v) : (d.imsicWrite h f off v).mem = d.mem := by simp [Dev.imsicWrite]

theorem Dev.winStore_mem {d e : Dev} {w : Win} {n v : Nat} (h : d.winStore w n v = some e) : e.mem = d.mem := by
  unfold Dev.winStore at h
  dsimp only at h
  split at h
  · split at h <;> cases h
    simp
  · split at h <;> cases h
    simp
  · split at h <;> cases h
    simp
  · split at h
    · cases h
    · split at h
      · cases h; rfl
      · obtain ⟨g, -, rfl⟩ := Option.map_eq_some_iff.1 h
        simp
  · split at h <;> cases h
    simp
  · cases h

@[simp] theorem coreWinLoad_mem (d : Dev) (h rd a node obj off ext) : (coreWinLoad d h rd a node obj off ext).mem = d.mem := by
  unfold coreWinLoad
  dsimp only
  (repeat' split) <;> simp

@[simp] theorem coreWinStore_mem (d : Dev) (h a node obj off v) : (coreWinStore d h a node obj off v).mem = d.mem := by
  unfold coreWinStore
  split <;> simp

@[simp] theorem coreWinAdd_mem (d : Dev) (h rd a node obj off v) : (coreWinAdd d h rd a node obj off v).mem = d.mem := by
  unfold coreWinAdd
  dsimp only
  split
  · simp
  · split
    · rfl
    · split
      · split <;> simp
      · split
        next r old e hr => simpa using Dev.bankAdd_mem hr
        · simp

@[simp] theorem windowAdd_mem (d : Dev) (h rd a v) : (windowAdd d h rd a v).mem = d.mem := by
  unfold windowAdd
  split
  · exact Dev.onCore_mem (fun e => coreWinAdd_mem e _ _ _ _ _ _ _) _ _ _
  · rfl

@[simp] theorem Dev.loaded_mem (d : Dev) (h fetch rd n sg v) : (d.loaded h fetch rd n sg v).mem = d.mem := by simp [Dev.loaded]

@[simp] theorem Dev.loadedFar_mem (d : Dev) (h fetch rd n sg a ext) : (d.loadedFar h fetch rd n sg a ext).mem = d.mem := by
  unfold Dev.loadedFar
  split <;> simp

@[simp] theorem coreUncached_mem (d : Dev) (h fetch rd ma w sg ty) : (coreUncached d h fetch rd ma w sg ty).mem = d.mem := rfl

@[simp] theorem coreCached_mem (d : Dev) (h fetch rd ma w sg) :
    (coreCached d h fetch rd ma w sg).mem = d.mem := by simp [coreCached]

@[simp] theorem Dev.coreOut_mem (d : Dev) (h a bs acc) : (d.coreOut h a bs acc).mem = d.mem := by simp [Dev.coreOut]

@[simp] theorem coreLr_mem (d : Dev) (h rd a dbl) : (coreLr d h rd a dbl).mem = d.mem := by
  unfold coreLr
  split <;> simp

@[simp] theorem coreSc_mem (d : Dev) (h rd a v dbl) : (coreSc d h rd a v dbl).mem = d.mem := by
  unfold coreSc
  dsimp only
  split <;> simp

@[simp] theorem cboZero_mem (d : Dev) (h a) : (cboZero d h a).mem = d.mem := by
  unfold cboZero
  split <;> simp

/-! ### Vector arithmetic -/

theorem Dev.varith_mem {d f : Dev} {e : Fin 128} {i : VArith} (h : d.varith e i = some f) : f.mem = d.mem := by
  unfold Dev.varith at h
  grind [Dev.setEng_mem]

/-! ### Xanvil vector instructions -/

@[simp] theorem Dev.xvcvtf_mem (d : Dev) (e vd vs2 vs1 fd vm) : (d.xvcvtf e vd vs2 vs1 fd vm).mem = d.mem := by
  unfold Dev.xvcvtf
  dsimp only
  split <;> simp

@[simp] theorem Dev.xvcvtt_mem (d : Dev) (e vd vs2 vs1 fd vm sr) : (d.xvcvtt e vd vs2 vs1 fd vm sr).mem = d.mem := by
  unfold Dev.xvcvtt
  dsimp only
  split <;> simp

@[simp] theorem Dev.xvscale_mem (d : Dev) (e vd vs2 vs1 fd vm) : (d.xvscale e vd vs2 vs1 fd vm).mem = d.mem := by
  unfold Dev.xvscale
  dsimp only
  split <;> simp

@[simp] theorem Dev.xvsclf_mem (d : Dev) (e vd vs2 vs1 fd vm) : (d.xvsclf e vd vs2 vs1 fd vm).mem = d.mem := by
  unfold Dev.xvsclf
  dsimp only
  split <;> simp

@[simp] theorem Dev.xvdot_mem (d : Dev) (e vd vs2 vs1 fd vm) : (d.xvdot e vd vs2 vs1 fd vm).mem = d.mem := by
  unfold Dev.xvdot
  dsimp only
  split <;> simp

/-! ### The engine instruction set -/

@[simp] theorem Dev.cyclesPass_mem (d : Dev) (e csr) : (d.cyclesPass e csr).mem = d.mem := by simp [Dev.cyclesPass]

theorem Dev.csrOp_mem {d f : Dev} {e : Fin 128} {f3 csr rd rs1 : Nat} (h : d.csrOp e f3 csr rd rs1 = some f) :
    f.mem = d.mem := by
  unfold Dev.csrOp at h
  grind [Dev.setEng_mem, Dev.cyclesPass_mem]

theorem Dev.fetchAt_mem {d f : Dev} {e : Fin 128} {pc : Word} {ans : Status}
    (h : d.fetchAt e pc ans = .ok f ∨ d.fetchAt e pc ans = .error f) : f.mem = d.mem := by
  unfold Dev.fetchAt at h
  grind [Dev.xlate_wait_mem, Dev.readGate_mem, Dev.failEng_mem, Dev.homeTouch_mem, Dev.setEng_mem]

theorem Dev.fetch_mem {d f : Dev} {e : Fin 128} {long : Bool} {ans : Status}
    (h : d.fetch e long ans = .ok f ∨ d.fetch e long ans = .error f) : f.mem = d.mem := by
  unfold Dev.fetch at h
  dsimp only at h
  split at h
  next g hg =>
    simp only [reduceCtorEq, Except.error.injEq, false_or] at h
    exact h ▸ Dev.fetchAt_mem (.inr hg)
  next g hg =>
    split at h
    · exact (Dev.fetchAt_mem h).trans (Dev.fetchAt_mem (.inl hg))
    · simp only [reduceCtorEq, Except.ok.injEq, or_false] at h
      exact h ▸ Dev.fetchAt_mem (.inl hg)

@[simp] theorem fixLen_mem (e was) (s : State) : (fixLen e was s).dev.mem = s.dev.mem := rfl

/-! ### A step with no command -/

@[simp] theorem Dev.marginGo_mem (d : Dev) : (d.marginGo).mem = d.mem := by simp [Dev.marginGo]

end Sys2Proof.Machine

/-!
The memory list under the package's operations, part two: the operations that write memory keep it in canonical form. Every write
ends in `Dev.wr`, `cellsPut`, `cellsClear` or `cellsRestore`, which keep the form (Laws/Memory); a package that goes Cold or is
wiped has the empty list.
-/
namespace Sys2Proof.Machine

/-- What a read of Tongs answers leaves the memory list in canonical form. -/
def TGot.Wf : TGot → Prop
  | .bytes _ _ d => Memory.wf d.mem
  | .wait d => Memory.wf d.mem
  | _ => True

theorem TGot.Wf.ite {c : Prop} [Decidable c] {g k : TGot} (hg : g.Wf) (hk : k.Wf) : (if c then g else k).Wf := by
  split <;> assumption

@[simp] theorem Memory.wf_nil : Memory.wf [] = true := rfl

@[simp] theorem Memory.wf_ite {c : Prop} [Decidable c] (m n : List Host.Cell) :
    Memory.wf (if c then m else n) = if c then Memory.wf m else Memory.wf n := apply_ite Memory.wf c m n

/-! ### The operations that every family shares -/

theorem Dev.admin_wf {f : Dev → AdmRes} (hf : ∀ e, Memory.wf e.mem → Memory.wf (f e).dev.mem) {d : Dev}
    (h : Memory.wf d.mem) (c) : Memory.wf (d.admin c f).mem := by
  unfold Dev.admin
  split
  · exact (congrArg Memory.wf (Dev.adminDone_mem _ _ _ _ _ _)).trans (hf _ h)
  · exact h

theorem Dev.adminBg_wf {f : Dev → Status × Dev} (hf : ∀ e, Memory.wf e.mem → Memory.wf (f e).2.mem) {d : Dev}
    (h : Memory.wf d.mem) (c b) : Memory.wf (d.adminBg c f b).mem := by
  unfold Dev.adminBg
  split
  · have hstart := hf (d.modHost (fun h => { h with admHead := h.admHead + 1 })) h
    dsimp only
    split
    next hr => rwa [hr] at hstart
    next hr =>
      rw [hr] at hstart
      simpa using hstart
  · exact h

theorem foldDev_wf {α : Type} {f : Dev → α → Dev} (hf : ∀ d x, Memory.wf d.mem → Memory.wf (f d x).mem) {d : Dev}
    (h : Memory.wf d.mem) (l : List α) : Memory.wf (foldDev d l f).mem :=
  foldDev_keeps (fun e => Memory.wf e.mem) hf l h

/-! ### Writes, reads and messages on their way -/

@[simp] theorem Dev.vatPut_wf {d : Dev} (h : Memory.wf d.mem) (v bs but) : Memory.wf (d.vatPut v bs but).mem := by
  simp [Dev.vatPut, Dev.wr_wf, h]

@[simp] theorem Dev.launch_wf {d : Dev} (h : Memory.wf d.mem) (w t) : Memory.wf (d.launch w t).mem := by
  unfold Dev.launch
  split <;> simp [h]

@[simp] theorem Dev.issueWrite_wf {d : Dev} (h : Memory.wf d.mem) (src addr bs red rq) :
    Memory.wf (d.issueWrite src addr bs red rq).mem := by simp [Dev.issueWrite, h]

@[simp] theorem Dev.issueWrites_wf {d : Dev} (h : Memory.wf d.mem) (src addr bs red u rq) :
    Memory.wf (d.issueWrites src addr bs red u rq).mem :=
  foldDev_wf (fun _ _ he => Dev.issueWrite_wf he _ _ _ _ _) h _

@[simp] theorem Dev.vatAmo_wf {d : Dev} (h : Memory.wf d.mem) (v op w b) :
    Memory.wf (d.vatAmo v op w b).2.mem := by simp [Dev.vatAmo, h]

@[simp] theorem Dev.runCont_wf {d : Dev} (h : Memory.wf d.mem) (e k) : Memory.wf (d.runCont e k).mem := by
  unfold Dev.runCont
  (repeat' split) <;> simp [h]

@[simp] theorem Dev.settleEng_wf {d : Dev} (h : Memory.wf d.mem) (e) : Memory.wf (d.settleEng e).mem := by
  unfold Dev.settleEng
  dsimp only
  cases (d.eng e).run with
  | release sc k => simp [h]
  | await t =>
    cases (d.eng e).step with
    | none => exact h
    | some n => simp [h]
  | twait t => simp [h]
  | vfence => simp [h]
  | _ => exact h

@[simp] theorem Dev.settle_wf {d : Dev} (h : Memory.wf d.mem) : Memory.wf d.settle.mem := by
  unfold Dev.settle
  dsimp only
  rw [Dev.modAnvil_mem]
  exact foldDev_wf (fun _ e he => Dev.settleEng_wf he e) (by simpa using h) _

@[simp] theorem Dev.releaseThen_wf {d : Dev} (h : Memory.wf d.mem) (e sc k) :
    Memory.wf (d.release_ e sc k).mem := by simp [Dev.release_, h]

/-! ### Frames and firmware accesses -/

theorem Dev.fwThen_wf {d : Dev} (h : Memory.wf d.mem) {f : Dev → Dev} (hf : Memory.wf (f d).mem) (a n) :
    Memory.wf (d.fwThen a n f).mem := by
  unfold Dev.fwThen
  split
  next e he => rwa [Dev.fwHolds_mem he]
  · exact hf

@[simp] theorem Dev.fwPut_wf {d : Dev} (h : Memory.wf d.mem) (off bs) : Memory.wf (d.fwPut off bs).mem := by
  unfold Dev.fwPut
  split
  next e he _ =>
    have hgo : Memory.wf e.mem := by rwa [Dev.readGate_mem (.inl he)]
    dsimp only
    split <;> simp [Dev.wr_wf, hgo]
  · simp [h]

@[simp] theorem Dev.fwWrite_wf {d : Dev} (h : Memory.wf d.mem) (a bs) : Memory.wf (d.fwWrite a bs).mem := by
  unfold Dev.fwWrite
  split
  · simp [h]
  · split
    · exact foldDev_wf (fun _ p he => Dev.fwPut_wf he p.1 p.2) h _
    · exact h
  · exact h

/-! ### Rennet -/

@[simp] theorem Dev.sigArrives_wf {d : Dev} (h : Memory.wf d.mem) (src kind obj v) :
    Memory.wf (d.sigArrives src kind obj v).mem := by
  unfold Dev.sigArrives
  dsimp only
  split
  · exact h
  next tag e he =>
    have harr : Memory.wf e.mem := by rwa [Dev.arriveTag_mem he]
    split <;> simp [harr]

@[simp] theorem dumpFinish_wf {d : Dev} (h : Memory.wf d.mem) : Memory.wf (dumpFinish d).mem := by
  unfold dumpFinish
  (repeat' split) <;> simp [h]

/-! ### Anvil operations -/

@[simp] theorem writeOuts_wf {d : Dev} (h : Memory.wf d.mem) (i n ws) : Memory.wf (writeOuts d i n ws).mem :=
  foldDev_wf (fun _ _ he => by simp [he]) h ws

@[simp] theorem Dev.spoil_wf {d : Dev} (h : Memory.wf d.mem) (i) : Memory.wf (d.spoil i).mem := by
  unfold Dev.spoil
  split
  · exact h
  · exact foldDev_wf (fun _ _ he => by simp [he]) h _

@[simp] theorem Dev.surface_wf {d : Dev} (h : Memory.wf d.mem) (v n) : Memory.wf (d.surface v n).mem := by
  unfold Dev.surface
  refine foldDev_wf (fun e g he => foldDev_wf (fun f p hf => ?_) he _) (foldDev_wf (fun _ p he => Dev.spoil_wf he p.1) h _) _
  dsimp only
  split <;> simp [hf]

@[simp] theorem shareComplete_wf {d : Dev} (hd : Memory.wf d.mem) (h cycles) : Memory.wf (shareComplete d h cycles).mem := by
  unfold shareComplete
  split
  · exact hd
  next i t _ =>
    split
    · exact hd
    next o _ =>
      split
      · exact hd
      · extract_lets d1 d2 done all d3 d4
        have h3 : Memory.wf d3.mem := by
          have h1 : Memory.wf d1.mem := Dev.spoil_wf (writeOuts_wf hd _ _ _) _
          have h2 : d2.mem = d1.mem := by
            simp only [d2]
            split <;> simp
          rw [Dev.modAnvil_mem, h2]
          exact h1
        have h4 : d4.mem = d3.mem := by
          simp only [d4]
          split <;> simp
        split
        · exact Dev.settle_wf (by rwa [h4])
        · exact h3

/-! ### Translation -/

@[simp] theorem faultWrite_wf {d : Dev} (h : Memory.wf d.mem) (ctx) : Memory.wf (faultWrite d ctx).mem := by
  unfold faultWrite
  (repeat' split) <;> simp [h]

/-! ### Engine loads and stores -/

@[simp] theorem Dev.engLoadPiece_wf {d : Dev} (h : Memory.wf d.mem) (e home va n mis ext) :
    Memory.wf (d.engLoadPiece e home va n mis ext).dev.mem := by
  have hstop {t : EngTo} (ht : ∀ f, t = .wait f → f.mem = d.mem) : Memory.wf (d.engStop e va.toNat t).dev.mem := by
    rwa [Dev.engStop_mem e va.toNat ht]
  unfold Dev.engLoadPiece
  split
  · split
    next r hr =>
      rw [EngGot.dev, Dev.engUmr_mem hr]
      exact h
    next st _ => exact hstop (t := .fail st 0) (by simp)
  · exact Dev.surface_wf h _ _
  · exact (congrArg Memory.wf (Dev.hostGet_mem _ _ _ _)).trans h
  · split
    · exact h
    next st _ => exact hstop (t := .fail st 0) (by simp)
  · exact hstop fun f hf => Dev.engResolve_mem hf

@[simp] theorem Dev.engLoadBytes_wf {d : Dev} (h : Memory.wf d.mem) (e home va n el ext) :
    Memory.wf (d.engLoadBytes e home va n el ext).dev.mem := by
  unfold Dev.engLoadBytes
  refine List.foldlRecOn (motive := fun g : EngGot => Memory.wf g.dev.mem) _ _ h fun a ih p _ => ?_
  split
  next bs f =>
    have hpiece := Dev.engLoadPiece_wf ih e home (va + BitVec.ofNat 64 p.1) p.2 (decide (va.toNat % el ≠ 0)) (ext.drop p.1)
    split
    next hg => rwa [EngGot.dev, hg] at hpiece
    · exact hpiece
  · exact ih

@[simp] theorem Dev.engStoreBytes_wf {d : Dev} (h : Memory.wf d.mem) (e va bs el) :
    Memory.wf (d.engStoreBytes e va bs el).dev.mem := by
  unfold Dev.engStoreBytes
  split
  next g hg => rwa [Dev.engStoreTo_mem g hg]
  next l _ =>
    refine List.foldlRecOn (motive := fun r : Dev × List Byte => Memory.wf r.1.mem) l _ h fun a ih p _ => ?_
    dsimp only
    split <;> simp [ih]

@[simp] theorem Dev.vloadPiece_wf {d : Dev} (h : Memory.wf d.mem) (e w ff g ext) :
    Memory.wf (d.vloadPiece e w ff g ext).dev.mem := by
  have hready (b : Bool) (va : Word) (n : Nat) : Memory.wf (if b then d.ffReady e va n else .go d []).dev.mem := by
    cases b
    · exact h
    · exact (congrArg Memory.wf (d.ffReady_mem e va n)).trans h
  unfold Dev.vloadPiece
  split
  · exact h
  next it t =>
    dsimp only
    have hpage := hready (ff && decide (it.i ≠ 0)) it.va (List.length (it :: t) * w)
    split
    next hg => rwa [hg] at hpage
    next hg => rwa [hg] at hpage
    next f _ hg =>
      have hgot := Dev.engLoadBytes_wf (d := f) (by rwa [hg] at hpage) e false it.va (List.length (it :: t) * w) w ext
      rw [hg] at hpage
      split
      next hl => rwa [hl] at hgot
      next hl =>
        rw [hl] at hgot
        split
        · exact hpage
        · exact hgot
      next hl => rwa [hl] at hgot

@[simp] theorem Dev.vload_wf {d : Dev} (h : Memory.wf d.mem) (e base m ext) : Memory.wf (d.vload e base m ext).mem := by
  unfold Dev.vload
  dsimp only
  split
  · simp [h]
  · generalize hr : List.foldl _ _ _ = r
    have hrun : Memory.wf r.1.dev.mem := by
      rw [← hr]
      refine List.foldlRecOn (motive := fun a : VRun × Bool => Memory.wf a.1.dev.mem) _ _ h fun a ih g _ => ?_
      split
      next f l first =>
        have hpause : Memory.wf (f.pauses e first).2.mem := by
          rw [Dev.pauses_mem]
          exact ih
        split
        · exact hpause
        · exact Dev.vloadPiece_wf hpause _ _ _ _ _
      · exact ih
    split
    next hg => rwa [hg] at hrun
    next hg => rwa [hg] at hrun
    next hg => rwa [hg] at hrun

@[simp] theorem Dev.vstorePiece_wf {d : Dev} (h : Memory.wf d.mem) (e w g) : Memory.wf (d.vstorePiece e w g).dev.mem := by
  unfold Dev.vstorePiece
  split
  · exact h
  next it t =>
    have hput := Dev.engStoreBytes_wf h e it.va ((it :: t).flatMap (fun j => leBytes w ((d.eng e).velem j.r w j.i))) w
    dsimp only
    split
    next hg => rwa [hg] at hput
    · simpa [VRun.dev] using hput

@[simp] theorem Dev.vstore_wf {d : Dev} (h : Memory.wf d.mem) (e base m) : Memory.wf (d.vstore e base m).mem := by
  unfold Dev.vstore
  dsimp only
  split
  · simp [h]
  · generalize hr : List.foldl _ _ _ = r
    have hrun : Memory.wf r.dev.mem := by
      rw [← hr]
      refine List.foldlRecOn (motive := fun a : VRun => Memory.wf a.dev.mem) _ _ h fun a ih g _ => ?_
      split
      next f _ => exact Dev.vstorePiece_wf (d := f) ih _ _ _
      · exact ih
    split <;> exact hrun

@[simp] theorem Dev.engLoad_wf {d : Dev} (h : Memory.wf d.mem) (e rs1 imm op ext) :
    Memory.wf (d.engLoad e rs1 imm op ext).mem := by
  have hload (va : Word) (n : Nat) (f : List Byte → Engine → Engine) : Memory.wf (match d.engLoadBytes e false va n n ext with
      | .bytes bs d => d.modEng e (f bs)
      | g => g.dev).mem := by
    have hgot := Dev.engLoadBytes_wf h e false va n n ext
    split
    next hg => rwa [hg] at hgot
    · exact hgot
  unfold Dev.engLoad
  dsimp only
  split
  · exact hload _ _ _
  · exact hload _ _ _
  · simp [h]

@[simp] theorem Dev.engStore_wf {d : Dev} (h : Memory.wf d.mem) (e rs1 imm op) : Memory.wf (d.engStore e rs1 imm op).mem := by
  have hput (va : Word) (w : Nat) (v : Word) : Memory.wf (match d.engStoreBytes e va (leBytes w v.toNat) w with
      | .bytes _ d => d.modEng e Engine.retire
      | g => g.dev).mem := by
    have hgot := Dev.engStoreBytes_wf h e va (leBytes w v.toNat) w
    split
    next hg => rwa [hg] at hgot
    · exact hgot
  unfold Dev.engStore
  dsimp only
  split
  · exact hput _ _ _
  · exact hput _ _ _
  · simp [h]

@[simp] theorem Dev.engAtomicAt_wf {d : Dev} (h : Memory.wf d.mem) (e rd va w op aq rl) :
    Memory.wf (d.engAtomicAt e rd va w op aq rl).mem := by
  unfold Dev.engAtomicAt
  dsimp only
  split
  · simp [h]
  · split
    case h_4 => rwa [Dev.engStop_mem e _ fun f hf => Dev.engResolve_mem hf]
    all_goals simp [h]

/-! ### Xanvil instructions -/

@[simp] theorem Dev.xtissue_wf {d : Dev} (h : Memory.wf d.mem) (e rd rs1 rs2 rl) :
    Memory.wf (d.xtissue e rd rs1 rs2 rl).mem := by simp [Dev.xtissue, h]

@[simp] theorem Dev.xla_wf {d : Dev} (h : Memory.wf d.mem) (e rd rs1 w sc ext) : Memory.wf (d.xla e rd rs1 w sc ext).mem := by
  unfold Dev.xla
  dsimp only
  split
  · simp [h]
  · have hgot := Dev.engLoadPiece_wf h e true ((d.eng e).rx rs1) w false ext
    split
    next hg => rwa [hg] at hgot
    · exact hgot

@[simp] theorem Dev.xsr_wf {d : Dev} (h : Memory.wf d.mem) (e rs1 rs2 w sc) : Memory.wf (d.xsr e rs1 rs2 w sc).mem := by
  unfold Dev.xsr
  dsimp only
  split
  · simp [h]
  · split
    case h_5 => rwa [Dev.engStop_mem e _ fun f hf => Dev.engResolve_mem hf]
    all_goals simp [h]

/-! ### Tongs -/

theorem Dev.tongsRuns_wf {d : Dev} (h : Memory.wf d.mem) (e c va n acc) : (d.tongsRuns e c va n acc).Wf := by
  unfold Dev.tongsRuns
  refine List.foldlRecOn (motive := fun a : TGot => a.Wf) _ _ trivial fun a ih p _ => ?_
  split
  · split
    · trivial
    next f hf => exact (congrArg Memory.wf (Dev.xlate_wait_mem hf)).trans h
  · exact ih

theorem Dev.tongsRead1_wf {d : Dev} (h : Memory.wf d.mem) (e s pa n va ext) : (d.tongsRead1 e s pa n va ext).Wf := by
  unfold Dev.tongsRead1
  split
  · split
    · trivial
    next f hf => exact (congrArg Memory.wf (Dev.readGate_mem (.inr hf))).trans h
    next f hf =>
      have hgo := (congrArg Memory.wf (Dev.readGate_mem (.inl hf))).trans h
      split
      · trivial
      · dsimp only
        split
        next r hr => simpa [TGot.Wf, Dev.homeRead_mem hr] using hgo
        · trivial
  · split
    · exact Dev.surface_wf h _ _
    · trivial
  · split
    next f hf => exact (congrArg Memory.wf (Dev.atsWait_mem hf)).trans h
    · simpa [TGot.Wf] using h
  · refine TGot.Wf.ite ?_ trivial
    refine TGot.Wf.ite trivial (TGot.Wf.ite h ?_)
    split
    · exact h
    · trivial
  · trivial

theorem Dev.tongsRead_wf {d : Dev} (h : Memory.wf d.mem) (e c s vat a n ext) : (d.tongsRead e c s vat a n ext).Wf := by
  unfold Dev.tongsRead
  split
  · exact Dev.surface_wf h _ _
  · dsimp only
    split
    next l _ =>
      refine List.foldlRecOn (motive := fun x : TGot × Nat => x.1.Wf) l _ h fun x ih p _ => ?_
      split
      next bs rest f at0 =>
        have hpiece := Dev.tongsRead1_wf (d := f) ih e s p.1 p.2 at0 rest
        split
        next hg => rwa [hg] at hpiece
        · exact hpiece
      · exact ih
    · exact Dev.tongsRuns_wf h _ _ _ _ _

theorem Dev.tongsWrite_wf {d : Dev} (h : Memory.wf d.mem) (e c s t a bs red) :
    (∀ f rem, d.tongsWrite e c s t a bs red = .ok (f, rem) → Memory.wf f.mem) ∧
      ∀ f, d.tongsWrite e c s t a bs red = .error (.wait f) → Memory.wf f.mem := by
  unfold Dev.tongsWrite
  dsimp only
  split
  · simp [h]
  · have hruns := Dev.tongsRuns_wf h e c (a % (2 ^ 64 : Nat)).toNat bs.length (if t.isRed = true then .reduce else .write)
    split
    next l _ =>
      split
      · simp
      next f _ hf =>
        obtain ⟨p, -, hp⟩ := List.exists_of_findSome?_eq_some hf
        have : Memory.wf f.mem := by
          split at hp
          · rwa [Dev.atsWait_mem hp]
          · cases hp
        simpa
      · have hput : Memory.wf (l.foldl (fun (x : Dev × List Byte) p =>
            (x.1.issueWrites (.tongs e c) p.1 (x.2.take p.2) (if red then some (t.red, t.ty) else none) (max 1 (t.dw / 8)),
              x.2.drop p.2)) (d, bs)).1.mem :=
          List.foldlRecOn (motive := fun x : Dev × List Byte => Memory.wf x.1.mem) l _ h fun x ih p _ =>
            Dev.issueWrites_wf ih _ _ _ _ _ _
        simpa
    · constructor
      · intro f rem hf
        cases hf
      · intro f hf
        rw [Except.error.inj hf] at hruns
        exact hruns

@[simp] theorem Dev.freeRange_wf {d : Dev} (h : Memory.wf d.mem) (off n) : Memory.wf (d.freeRange off n).mem :=
  cellsPut_wf off _ h

@[simp] theorem Dev.freeDst_wf {d : Dev} (h : Memory.wf d.mem) (e x) : Memory.wf (d.freeDst e x).mem := by
  refine foldDev_wf (fun f p hf => ?_) h _
  split
  · split <;> simp [hf]
  · simp [hf]
  · exact hf

theorem Dev.rowIndex_wf {d : Dev} (h : Memory.wf d.mem) (e c s x ext) : (d.rowIndex e c s x ext).Wf := by
  unfold Dev.rowIndex
  dsimp only
  split
  · split
    · exact h
    · exact Dev.tongsRead_wf h _ _ _ _ _ _ _
  · exact h

@[simp] theorem Dev.xferPiece_wf {d : Dev} (h : Memory.wf d.mem) (e c s x ext) : Memory.wf (d.xferPiece e c s x ext).mem := by
  have hrow := Dev.rowIndex_wf h e c s x ext
  unfold Dev.xferPiece
  extract_lets t n cnt i1
  cases hg : d.rowIndex e c s x ext with
  | wait f => rwa [hg] at hrow
  | fail => simp [h]
  | runs => exact h
  | bytes ib rest f =>
    have hf : Memory.wf f.mem := by rwa [hg] at hrow
    dsimp -zeta only
    extract_lets ix sa da
    cases t.rowOut s x.row ix with
    | some b => simp [hf]
    | none =>
      have hread := Dev.tongsRead_wf hf e c s t.ssp sa (cnt * t.sw / 8) rest
      dsimp -zeta only
      cases hg : f.tongsRead e c s t.ssp sa (cnt * t.sw / 8) rest with
      | wait f => rwa [hg] at hread
      | fail => simp [hf]
      | runs => exact hf
      | bytes bs _ g =>
        have hg : Memory.wf g.mem := by rwa [hg] at hread
        dsimp -zeta only
        extract_lets out known y overlaps d1 out' d2
        have h1 : Memory.wf d1.mem := by
          simp only [d1]
          split
          · exact Dev.freeDst_wf hg _ _
          · exact hg
        have h2 : Memory.wf d2.mem := by
          simp only [d2]
          split <;> exact h1
        clear_value d2
        obtain ⟨hok, hwait⟩ := Dev.tongsWrite_wf h2 e c s t da out' (t.isRed && !overlaps)
        split
        next f hf => exact hwait f hf
        · simp [h2]
        · exact h2
        next f rem hf => simp [hok f rem hf]

@[simp] theorem tongsPiece_wf {d : Dev} (hd : Memory.wf d.mem) (h t ext) : Memory.wf (tongsPiece d h t ext).mem := by
  unfold tongsPiece
  dsimp only
  (repeat' split) <;> simp [hd]

@[simp] theorem Dev.holdIdx_wf {d : Dev} (h : Memory.wf d.mem) (e c s x look page pa ext) :
    Memory.wf (d.holdIdx e c s x look page pa ext).1.mem := by
  unfold Dev.holdIdx
  refine List.foldlRecOn (motive := fun a : Dev × List Byte => Memory.wf a.1.mem) _ _ h fun a ih i _ => ?_
  have hread := Dev.tongsRead1_wf ih e s (pa + (x.desc.idx + i * idxBytes x.desc) % 4096) (idxBytes x.desc)
    (x.desc.idx + i * idxBytes x.desc) a.2
  dsimp only
  split
  next hg => rwa [hg] at hread
  · exact ih

@[simp] theorem Dev.holdAhead_wf {d : Dev} (hd : Memory.wf d.mem) (h ctx page t pa ext) :
    Memory.wf (d.holdAhead h ctx page t pa ext).mem := by
  unfold Dev.holdAhead
  refine List.foldlRecOn (motive := fun a : Dev × List Byte => Memory.wf a.1.mem) _ _ hd fun a ih p _ => ?_
  split
  · split
    · split
      · exact Dev.holdIdx_wf ih _ _ _ _ _ _ _ _
      · exact ih
    · exact ih
  · exact ih

@[simp] theorem tongsComplete_wf {d : Dev} (h : Memory.wf d.mem) (e c) : Memory.wf (tongsComplete d e c).mem := by
  unfold tongsComplete
  dsimp only
  (repeat' split) <;> simp [h]

/-! ### Steps -/

@[simp] theorem Dev.freeRegions_wf {d : Dev} (h : Memory.wf d.mem) (n) : Memory.wf (d.freeRegions n).mem := by
  unfold Dev.freeRegions
  split
  · exact h
  · split
    · exact h
    · refine foldDev_wf (fun e r he => foldDev_wf (fun f p hf => ?_) he _) h _
      dsimp only
      split
      · split
        · split <;> simp [hf]
        · simp [hf]
        · exact hf
      · exact hf

@[simp] theorem stepImageCheck_wf {d : Dev} (h : Memory.wf d.mem) (n ext) : Memory.wf (stepImageCheck d n ext).mem := by
  unfold stepImageCheck
  split
  · exact h
  · split
    · exact h
    · extract_lets r d1
      have h1 : Memory.wf d1.mem := h
      clear_value r d1
      split
      · split
        next f hf => rwa [Dev.readGate_mem (.inr hf)]
        · exact h1
      · exact h1
      · simp [h1]
      · simp [h1]
      · simp [h1]
      · simp [h1]
      · rwa [Dev.modStep_mem, Dev.p1Touch_mem, foldDev_mem fun e g => e.p1Touch_mem _ _ _ _ _]

@[simp] theorem vatFillDone_wf {d : Dev} (h : Memory.wf d.mem) (n) : Memory.wf (vatFillDone d n).mem := by
  have hfill {m : List Host.Cell} (hm : Memory.wf m) (lo len : Nat) (bs : List Byte) :
      Memory.wf (cellsPut (cellsClear m lo len) lo bs) := cellsPut_wf lo bs (cellsClear_wf lo len hm)
  unfold vatFillDone
  dsimp only
  split
  · exact h
  · split
    · exact h
    · rw [Dev.startKernel_mem, foldDev_modEng_mem (fun e => e)]
      split <;> split <;> simp [hfill, h]

@[simp] theorem stepDrainDone_wf {d : Dev} (h : Memory.wf d.mem) (n) : Memory.wf (stepDrainDone d n).mem := by
  unfold stepDrainDone
  split <;> simp [h]

@[simp] theorem vatClearDone_wf {d : Dev} (hd : Memory.wf d.mem) (h) : Memory.wf (vatClearDone d h).mem := by
  unfold vatClearDone
  split
  · exact hd
  · exact cellsClear_wf _ _ hd

@[simp] theorem Dev.acctWrite_wf {d : Dev} (h : Memory.wf d.mem) (c now) : Memory.wf (d.acctWrite c now).mem := by
  unfold Dev.acctWrite
  dsimp only
  split
  · exact h
  · split
    · exact h
    · refine Dev.fwWrite_wf (Dev.fwWrite_wf (Dev.fwWrite_wf ?_ _ _) _ _) _ _
      simpa using h

@[simp] theorem Dev.acctStep_wf {d : Dev} (h : Memory.wf d.mem) (c ok) : Memory.wf (d.acctStep c ok).mem := by
  unfold Dev.acctStep
  dsimp only
  split <;> simp [h]

@[simp] theorem completionPost_wf {d : Dev} (h : Memory.wf d.mem) (c) : Memory.wf (completionPost d c).mem := by
  unfold completionPost
  (repeat' split) <;> simp [h]

/-! ### Scheduling -/

@[simp] theorem restoreDone_wf {d : Dev} (h : Memory.wf d.mem) (n) : Memory.wf (restoreDone d n).mem := by
  have hback {m : List Host.Cell} (hm : Memory.wf m) (lo len : Nat) (cs : List Host.Cell) :
      Memory.wf (cellsRestore (cellsClear m lo len) cs) := cellsRestore_wf cs (cellsClear_wf lo len hm)
  unfold restoreDone
  dsimp only
  split
  · exact h
  · split
    · exact h
    · rw [Dev.modStep_mem, Dev.countWait_mem, foldDev_mem]
      · exact hback (hback h _ _ _) _ _ _
      · intro e p; rfl

/-! ### Coherence messages -/

@[simp] theorem Dev.toMemory_wf {d : Dev} (h : Memory.wf d.mem) (a bs poison fresh) :
    Memory.wf (d.toMemory a bs poison fresh).mem := by
  unfold Dev.toMemory
  dsimp only
  split
  · simp [Dev.wr_wf, h]
  · split <;> simp [Dev.wr_wf, h]

@[simp] theorem Dev.doAtomic_wf {d : Dev} (h : Memory.wf d.mem) (m) : Memory.wf (d.doAtomic m).2.mem := by
  unfold Dev.doAtomic
  dsimp only
  split
  · simp [Dev.wr_wf, h]
  · simp [h]
  · split <;> simp [Dev.wr_wf, h]

@[simp] theorem Dev.doWrite_wf {d : Dev} (h : Memory.wf d.mem) (m) : Memory.wf (d.doWrite m).mem := by
  unfold Dev.doWrite
  dsimp only
  split <;> simp [Dev.wr_wf, h]

/-! ### Coherence at the home -/

@[simp] theorem Dev.applyRed_wf {d : Dev} (h : Memory.wf d.mem) (m) : Memory.wf (d.applyRed m).mem := by
  unfold Dev.applyRed
  dsimp only
  split
  · split <;> simp [Dev.wr_wf, h]
  · simp [Dev.wr_wf, h]

@[simp] theorem Dev.finishHome_wf {d : Dev} (h : Memory.wf d.mem) (key t) : Memory.wf (d.finishHome key t).mem := by
  unfold Dev.finishHome
  dsimp only
  (repeat' split) <;> simp [h]

@[simp] theorem Dev.tryFinish_wf {d : Dev} (h : Memory.wf d.mem) (key) : Memory.wf (d.tryFinish key).mem := by
  unfold Dev.tryFinish
  split
  · split
    · exact h
    · split
      · simp [h]
      · split
        · split
          · split
            next f hf => exact Dev.finishHome_wf ((congrArg Memory.wf (Dev.frameGate_mem (.inl hf))).trans h) _ _
            next f hf => exact (congrArg Memory.wf (Dev.frameGate_mem (.inr hf))).trans h
            · simp [h]
          · simp [h]
        · simp [h]
  · exact h

@[simp] theorem Dev.startWith_wf {d : Dev} (h : Memory.wf d.mem) (m old) :
    Memory.wf (d.startWith m old).mem := by simp [Dev.startWith, h]

@[simp] theorem Dev.startTxn_wf {d : Dev} (h : Memory.wf d.mem) (m) : Memory.wf (d.startTxn m).mem := by simp [Dev.startTxn, h]

@[simp] theorem Dev.backInvalidate_wf {d : Dev} (h : Memory.wf d.mem) (key) : Memory.wf (d.backInvalidate key).mem := by
  unfold Dev.backInvalidate
  (repeat' split) <;> simp [h]

@[simp] theorem Dev.admitHome_wf {d : Dev} (h : Memory.wf d.mem) (m old) : Memory.wf (d.admitHome m old).mem := by
  unfold Dev.admitHome
  dsimp only
  split
  · simp [h]
  · split
    · simp [h]
    next f hf => simp [Dev.frameGate_mem (.inr hf), h]
    next f hf =>
      have hgo := (congrArg Memory.wf (Dev.frameGate_mem (.inl hf))).trans h
      split
      · split
        · simp [hgo]
        · split
          next g hg => rw [Dev.refuseReq_mem hg]; exact hgo
          · simp [hgo]
      · split
        · simp [hgo]
        · split <;> simp [hgo]

@[simp] theorem Dev.admitRed_wf {d : Dev} (h : Memory.wf d.mem) (m) : Memory.wf (d.admitRed m).mem := by
  unfold Dev.admitRed
  dsimp only
  split
  · simp [h]
  next f hf => simp [Dev.frameGate_mem (.inr hf), h]
  next f hf =>
    have hgo := (congrArg Memory.wf (Dev.frameGate_mem (.inl hf))).trans h
    split <;> simp [hgo]

@[simp] theorem Dev.admitProxy_wf {d : Dev} (h : Memory.wf d.mem) (m) : Memory.wf (d.admitProxy m).mem := by
  unfold Dev.admitProxy
  (repeat' split) <;> simp [h]

@[simp] theorem Dev.wbCame_wf {d : Dev} (h : Memory.wf d.mem) (key who back) : Memory.wf (d.wbCame key who back).mem := by
  unfold Dev.wbCame
  split <;> simp [h]

@[simp] theorem Dev.applyWb_wf {d : Dev} (h : Memory.wf d.mem) (m) : Memory.wf (d.applyWb m).mem := by
  unfold Dev.applyWb
  dsimp only
  split
  · simp [h]
  · split
    next f hf =>
      have hgo := (congrArg Memory.wf (Dev.frameGate_mem (.inl hf))).trans h
      simp [hgo]
    next f hf => simp [Dev.frameGate_mem (.inr hf), h]
    all_goals simp [h]

@[simp] theorem Dev.proxyFwd_wf {d : Dev} (h : Memory.wf d.mem) (m) : Memory.wf (d.proxyFwd m).mem := by simp [Dev.proxyFwd, h]

@[simp] theorem Dev.readmit_wf {d : Dev} (h : Memory.wf d.mem) (m) : Memory.wf (d.readmit m).mem := by
  unfold Dev.readmit
  (repeat' split) <;> simp [h]

@[simp] theorem Dev.retryHeld_wf {d : Dev} (h : Memory.wf d.mem) : Memory.wf d.retryHeld.mem := by
  unfold Dev.retryHeld
  exact foldDev_wf (fun _ m he => Dev.readmit_wf he m)
    (d := Dev.modCoh _ _) (foldDev_wf (fun _ k he => Dev.tryFinish_wf he k) h _) _

@[simp] theorem Dev.snpAcked_wf {d : Dev} (h : Memory.wf d.mem) (m) : Memory.wf (d.snpAcked m).mem := by
  unfold Dev.snpAcked
  extract_lets key held wb far data go d1
  have h1 : Memory.wf d1.mem := by
    simp only [d1]
    split
    · exact h
    · split <;> simp [h]
  clear_value d1
  split
  · exact h
  · split
    · exact h
    · extract_lets t d2
      have h2 : Memory.wf d2.mem := by
        simp only [d2]
        split
        · exact h1
        · split
          case h_5 => simp [h1]
          all_goals split <;> simp [h1]
      simp [h2]

@[simp] theorem Dev.compAcked_wf {d : Dev} (h : Memory.wf d.mem) (m) : Memory.wf (d.compAcked m).mem := by
  unfold Dev.compAcked
  dsimp only
  split <;> simp [h]

@[simp] theorem Dev.homeWb_wf {d : Dev} (h : Memory.wf d.mem) (m) : Memory.wf (d.homeWb m).mem := by
  unfold Dev.homeWb
  split <;> simp [h]

@[simp] theorem Dev.proxyWb_wf {d : Dev} (h : Memory.wf d.mem) (m) : Memory.wf (d.proxyWb m).mem := by
  unfold Dev.proxyWb
  dsimp only
  (repeat' split) <;> simp [h]

@[simp] theorem Dev.evicted_wf {d : Dev} (h : Memory.wf d.mem) (m) : Memory.wf (d.evicted m).mem := by
  unfold Dev.evicted
  split <;> simp [h]

@[simp] theorem Dev.proxyData_wf {d : Dev} (h : Memory.wf d.mem) (m) : Memory.wf (d.proxyData m).mem := by
  unfold Dev.proxyData
  dsimp only
  split <;> simp [h]

@[simp] theorem Dev.proxyComp_wf {d : Dev} (h : Memory.wf d.mem) (m) : Memory.wf (d.proxyComp m).mem := by
  unfold Dev.proxyComp
  dsimp only
  split <;> simp [h]

/-! ### Coherence at a core -/

@[simp] theorem Dev.resend_wf {d : Dev} (h : Memory.wf d.mem) (m) : Memory.wf (d.resend m).mem := by
  unfold Dev.resend
  (repeat' split) <;> simp [h]

/-! ### The rows of the coherence protocol -/

@[simp] theorem reqRow_wf {d : Dev} (h : Memory.wf d.mem) (m w) : Memory.wf (reqRow d m w).mem := by
  unfold reqRow
  dsimp only
  (repeat' split) <;> simp [h]

@[simp] theorem snpRow_wf {d : Dev} (h : Memory.wf d.mem) (k holder w) : Memory.wf (snpRow d k holder w).mem := by
  unfold snpRow
  dsimp only
  (repeat' split) <;> simp [h]

@[simp] theorem compRow_wf {d : Dev} (h : Memory.wf d.mem) (m) : Memory.wf (compRow d m).mem := by
  unfold compRow
  (repeat' split) <;> simp [h]

@[simp] theorem wbRow_wf {d : Dev} (h : Memory.wf d.mem) (m w) : Memory.wf (wbRow d m w).mem := by
  unfold wbRow
  dsimp only
  (repeat' split) <;> simp [h]

@[simp] theorem redRow_wf {d : Dev} (h : Memory.wf d.mem) (src op w ty bytes) : Memory.wf (redRow d src op w ty bytes).mem := by
  unfold redRow
  split
  · simp [h]
  next a _ =>
    split
    · exact h
    · have harr := (congrArg Memory.wf (d.arriveMsg_mem (redMsg src a bytes (op, ty))
        (fun x => x.red == op && x.ty == ty && x.bytes == bytes && x.addr == a))).trans h
      exact foldDev_wf (fun _ _ he => Dev.admitRed_wf he _) harr _

/-! ### Containment and reclaim -/

@[simp] theorem Dev.dropSharers_wf {d : Dev} (h : Memory.wf d.mem) (key) :
    Memory.wf (d.dropSharers key).mem := by simp [Dev.dropSharers, h]

@[simp] theorem Dev.forgetAgent_wf {d : Dev} (h : Memory.wf d.mem) (a) : Memory.wf (d.forgetAgent a).mem := by
  unfold Dev.forgetAgent
  dsimp only
  refine Dev.retryHeld_wf (foldDev_wf (fun e p he => ?_) (foldDev_wf (fun e p he => ?_) (by simpa using h) _) _)
  · split
    · split <;> simp [he]
    · exact he
  · split
    · simp [he]
    · split <;> simp [he]

@[simp] theorem Dev.reclaimCore_wf {d : Dev} (hd : Memory.wf d.mem) (h) : Memory.wf (d.reclaimCore h).mem := by
  unfold Dev.reclaimCore
  extract_lets keys d1 d2 d3 outs d4
  have h1 : Memory.wf d1.mem := hd
  clear_value d1
  have h2 : Memory.wf d2.mem := by
    refine foldDev_wf (fun e p he => ?_) h1 _
    dsimp only
    split
    · simp [he]
    · split
      · split <;> simp [he]
      · simp [he]
  clear_value d2
  have h3 : Memory.wf d3.mem := Dev.forgetAgent_wf h2 _
  clear_value d3
  have h4 : Memory.wf d4.mem := foldDev_wf (fun e k he => by simp [he]) h3 _
  exact h4

@[simp] theorem Dev.reclaimDir_wf {d : Dev} (h : Memory.wf d.mem) (n) : Memory.wf (d.reclaimDir n).mem := by
  unfold Dev.reclaimDir
  refine Dev.forgetAgent_wf (foldDev_wf (fun e p he => ?_) h _) _
  dsimp only
  split <;> simp [he]

@[simp] theorem Dev.cleanRejoin_wf {d : Dev} (h : Memory.wf d.mem) : Memory.wf d.cleanRejoin.mem :=
  foldDev_wf (fun _ n he => Dev.reclaimDir_wf he n) (foldDev_wf (fun _ _ he => by simp [he]) h _) _

@[simp] theorem Dev.contain_wf {d : Dev} (h : Memory.wf d.mem) (silent selfQ) : Memory.wf (d.contain silent selfQ).mem := by
  unfold Dev.contain
  extract_lets ids c c' d1 quiet d2 outs d3 d4 clr d5 d6 d7
  have h1 : Memory.wf d1.mem := by
    refine foldDev_wf (fun e g he => ?_) h _
    split
    · simp [he]
    · exact he
  clear_value d1
  have h2 : Memory.wf d2.mem := h1
  clear_value d2
  have h3 : Memory.wf d3.mem := foldDev_wf (fun _ r he => Dev.freeRange_wf he (vatOff r.1) r.2) h2 outs
  clear_value d3
  exact h3

@[simp] theorem Dev.packageFault_wf {d : Dev} (h : Memory.wf d.mem) (u) :
    Memory.wf (d.packageFault u).mem := by simp [Dev.packageFault, h]

@[simp] theorem containmentSettled_wf {d : Dev} (h : Memory.wf d.mem) : Memory.wf (containmentSettled d).mem := by
  unfold containmentSettled
  dsimp only
  split
  · exact h
  · split
    · exact h
    · have hfree (l : List Nat) : Memory.wf (foldDev d l (fun d n => (d.freeRegions n).release n)).mem :=
        foldDev_wf (fun _ n he => by simp [he]) h l
      split <;> simp [hfree]

@[simp] theorem Dev.fence_wf {d : Dev} (h : Memory.wf d.mem) (u) : Memory.wf (d.fence u).mem := by
  unfold Dev.fence
  dsimp only
  rw [Dev.modUnit_mem, Dev.modChain_mem]
  refine foldDev_wf (fun e a he => ?_) h _
  split <;> simp [he]

@[simp] theorem Dev.quench_wf {d : Dev} (h : Memory.wf d.mem) (u why test) :
    Memory.wf (d.quench u why test).mem := by simp [Dev.quench, h]

@[simp] theorem Dev.lasting_wf {d : Dev} (h : Memory.wf d.mem) (u loc) : Memory.wf (d.lasting u loc).mem := by
  unfold Dev.lasting
  split <;> simp [h]

@[simp] theorem Dev.countErr_wf {d : Dev} (h : Memory.wf d.mem) (u unc loc) : Memory.wf (d.countErr u unc loc).mem := by
  unfold Dev.countErr
  split <;> simp [h]

@[simp] theorem Dev.lineGone_wf {d : Dev} (h : Memory.wf d.mem) (l) : Memory.wf (d.lineGone l).mem := by simp [Dev.lineGone, h]

@[simp] theorem Dev.lineFound_wf {d : Dev} (h : Memory.wf d.mem) (l) : Memory.wf (d.lineFound l).mem := by
  unfold Dev.lineFound
  (repeat' split) <;> simp [h]

@[simp] theorem Dev.countFixed_wf {d : Dev} (h : Memory.wf d.mem) (u lane loc) :
    Memory.wf (d.countFixed u lane loc).mem := by simp [Dev.countFixed, h]

@[simp] theorem Dev.lineFixed_wf {d : Dev} (h : Memory.wf d.mem) (l lane) :
    Memory.wf (d.lineFixed l lane).mem := by simp [Dev.lineFixed, h]

@[simp] theorem Dev.quenchFor_wf {d : Dev} (h : Memory.wf d.mem) (u) : Memory.wf (d.quenchFor u).mem := by simp [Dev.quenchFor, h]

@[simp] theorem uncorrected_wf {d : Dev} (h : Memory.wf d.mem) (u loc) : Memory.wf (uncorrected d u loc).mem := by
  unfold uncorrected
  (repeat' split) <;> simp [h]

@[simp] theorem corrected_wf {d : Dev} (h : Memory.wf d.mem) (u loc) : Memory.wf (corrected d u loc).mem := by simp [corrected, h]

@[simp] theorem selfTestDone_wf {d : Dev} (h : Memory.wf d.mem) (u pass) :
    Memory.wf (selfTestDone d u pass).mem := by simp [selfTestDone, h]

/-! ### Memory tiers and the Cave -/

@[simp] theorem Dev.abandonMove_wf {d : Dev} (h : Memory.wf d.mem) (n) :
    Memory.wf (d.abandonMove n).mem := by simp [Dev.abandonMove, h]

@[simp] theorem migrationPassEnd_wf {d : Dev} (h : Memory.wf d.mem) (n) : Memory.wf (migrationPassEnd d n).mem := by
  unfold migrationPassEnd
  split <;> simp [h]

@[simp] theorem Dev.flip_wf {d : Dev} (h : Memory.wf d.mem) (n m) : Memory.wf (d.flip n m).mem := by simp [Dev.flip, h]

@[simp] theorem migrationFlip_wf {d : Dev} (h : Memory.wf d.mem) (n) : Memory.wf (migrationFlip d n).mem := by
  unfold migrationFlip
  split <;> simp [h]

@[simp] theorem fillFlip_wf {d : Dev} (h : Memory.wf d.mem) (n) : Memory.wf (fillFlip d n).mem := by
  unfold fillFlip
  split <;> simp [h]

@[simp] theorem Dev.brineSpare_wf {d : Dev} (h : Memory.wf d.mem) (b loc fixed lane) :
    Memory.wf (d.brineSpare b loc fixed lane).mem := by simp [Dev.brineSpare, h]

@[simp] theorem Dev.lineAny_wf {d : Dev} (h : Memory.wf d.mem) (l) : Memory.wf (d.lineAny l).mem :=
  Dev.wr_wf _ _ _ h

@[simp] theorem brineVisit_wf {d : Dev} (h : Memory.wf d.mem) (r) : Memory.wf (brineVisit d r).mem := by
  unfold brineVisit
  split
  · exact h
  · split
    · exact h
    · extract_lets d1
      have h1 : Memory.wf d1.mem := h
      clear_value d1
      split
      · exact h1
      · simp [h1]
      · extract_lets d2
        have h2 : Memory.wf d2.mem := by
          simp only [d2]
          split <;> simp [h1]
        clear_value d2
        split
        · exact h2
        · simp [h2]
        · simp [h2]
        · dsimp only
          split <;> simp [h2]

@[simp] theorem laneRepair_wf {d : Dev} (h : Memory.wf d.mem) (u) : Memory.wf (laneRepair d u).mem := by simp [laneRepair, h]

@[simp] theorem Dev.marginPoint_wf {d : Dev} (h : Memory.wf d.mem) (pass) : Memory.wf (d.marginPoint pass).mem := by
  unfold Dev.marginPoint
  dsimp only
  (repeat' split) <;> simp [h]

@[simp] theorem marginPointDone_wf {d : Dev} (h : Memory.wf d.mem) (pass) :
    Memory.wf (marginPointDone d pass).mem := by simp [marginPointDone, h]

/-! ### The Chain -/

@[simp] theorem Dev.cutNode_wf {d : Dev} (h : Memory.wf d.mem) (n tell) : Memory.wf (d.cutNode n tell).mem := by
  unfold Dev.cutNode
  extract_lets at_n lost reqs d1 amos d2 d3 ctxOf d4 d5 d6 far reads d7 d8
  have h3 : Memory.wf d3.mem := h
  clear_value d3
  have h4 : d4.mem = d3.mem := by
    simp only [d4]
    split
    · exact foldDev_mem (fun _ _ => Dev.lostStore_mem _ _ _ _ _ _ _ _ _) _ _
    · rfl
  clear_value d4
  have h5 : d5.mem = d4.mem := foldDev_mem (fun _ _ => Dev.failEng_mem _ _ _ _ _) _ _
  clear_value d5
  have h6 : d6.mem = d5.mem := foldDev_mem (fun _ _ => Dev.coreReply_mem _ _ _ _) _ _
  clear_value d6
  have h7 : d7.mem = d6.mem := by rfl
  clear_value d7
  have h8 : d8.mem = d7.mem := foldDev_mem (fun _ _ => by simp) _ _
  clear_value d8
  refine Dev.settle_wf ?_
  rwa [Dev.dropStreams_mem, h8, h7, h6, h5, h4]

@[simp] theorem Dev.declareDead_wf {d : Dev} (h : Memory.wf d.mem) (n) :
    Memory.wf (d.declareDead n).mem := by simp [Dev.declareDead, h]

@[simp] theorem Dev.selfQuench_wf {d : Dev} (h : Memory.wf d.mem) : Memory.wf d.selfQuench.mem :=
  foldDev_wf (fun _ n he => Dev.cutNode_wf he n false) (Dev.cleanRejoin_wf (Dev.contain_wf h false true)) _

@[simp] theorem Dev.departed_wf {d : Dev} (h : Memory.wf d.mem) (n) : Memory.wf (d.departed n).mem := by simp [Dev.departed, h]

@[simp] theorem Dev.learnSlot_wf {d : Dev} (h : Memory.wf d.mem) (n s) : Memory.wf (d.learnSlot n s).mem := by
  unfold Dev.learnSlot
  (repeat' split) <;> simp [h]

@[simp] theorem identityIn_wf {d : Dev} (h : Memory.wf d.mem) (p i) : Memory.wf (identityIn d p i).mem := by
  unfold identityIn
  extract_lets q own far fs ms d1 wasLive d2 best mine key
  have h1 : Memory.wf d1.mem := foldDev_wf (fun _ x he => Dev.learnSlot_wf he _ _) h _
  clear_value d1
  have h2 : Memory.wf d2.mem := by
    simp only [d2]
    split <;> simp [h1]
  clear_value d2
  split
  · exact h
  · split
    · simp [h]
    · split
      · simp [h]
      · split
        · simp [h]
        · split
          · split <;> simp [h]
          · split
            · dsimp only
              split <;> simp [h]
            · split
              · exact h2
              · split
                · dsimp only
                  split <;> simp [h2]
                · simp [h2]
                · split <;> simp [h2]

@[simp] theorem Dev.answered_wf {d : Dev} (h : Memory.wf d.mem) (tag st bs) : Memory.wf (d.answered tag st bs).mem := by
  unfold Dev.answered
  dsimp only
  (repeat' split) <;> simp [h]

@[simp] theorem deliver_wf {d : Dev} (h : Memory.wf d.mem) (p k) : Memory.wf (deliver d p k).mem := by
  unfold deliver
  dsimp only
  (repeat' split) <;> simp [h]

@[simp] theorem packetIn_wf {d : Dev} (h : Memory.wf d.mem) (p k) : Memory.wf (packetIn d p k).mem := by
  unfold packetIn
  (repeat' split) <;> simp [h]

@[simp] theorem Dev.leavePush_wf {d : Dev} (h : Memory.wf d.mem) : Memory.wf d.leavePush.mem := by
  unfold Dev.leavePush
  refine foldDev_wf (fun e g he => foldDev_wf (fun _ _ hf => by simp [hf]) he _) (foldDev_wf (fun e k he => ?_) h _) _
  split <;> simp [he]

@[simp] theorem Dev.leaveEnd_wf {d : Dev} (h : Memory.wf d.mem) : Memory.wf d.leaveEnd.mem :=
  foldDev_wf (fun _ n he => Dev.cutNode_wf he n false) (d := Dev.emit (Dev.setSlot _ _ _) _) (by simpa using h) _

/-! ### The host interface -/

@[simp] theorem apWrite_wf {d : Dev} (h : Memory.wf d.mem) (off bs) : Memory.wf (apWrite d off bs).mem := by
  unfold apWrite
  extract_lets i o a fi g put
  have hput : Memory.wf (put ()).mem := Dev.issueWrites_wf h _ _ _ _ _ _
  split
  · split <;> simp [Dev.wr_wf, h]
  · split
    · exact h
    · split
      · simp [h]
      · split
        · split <;> simp [h, hput]
        · split <;> simp [h, hput]
        · split <;> simp [h]
        · split
          · split <;> simp [h, hput]
          · split <;> simp [h, hput]
          · split <;> simp [h]
          · simp [h]
        · simp [h]

@[simp] theorem Dev.readTry_wf {d : Dev} (h : Memory.wf d.mem) (r) : Memory.wf (d.readTry r).mem := by
  unfold Dev.readTry
  dsimp only
  (repeat' split) <;> simp [h]

@[simp] theorem apRead_wf {d : Dev} (h : Memory.wf d.mem) (off len ext) :
    Memory.wf (apRead d off len ext).mem := by simp [apRead, h]

@[simp] theorem placeWrite_wf {d : Dev} (h : Memory.wf d.mem) (rq off bs) : Memory.wf (placeWrite d rq off bs).mem := by
  unfold placeWrite
  dsimp only
  split
  · exact h
  · split
    next n r _ =>
      have hput := foldDev_wf (fun e (p : Nat × List Byte) he =>
        Dev.issueWrites_wf he (.region (Fin.ofNat 4096 n)) (ownAddr (r.place p.1)) p.2 none 0 rq) h (lines64 off bs)
      split
      · simpa using hput
      · exact hput
    · split <;> simp [h]

@[simp] theorem Dev.hostSettle_wf {d : Dev} (h : Memory.wf d.mem) : Memory.wf d.hostSettle.mem := by
  refine foldDev_wf (fun e r he => ?_) (by simpa using h) _
  split <;> simp [he]

@[simp] theorem eventPost_wf {d : Dev} (h : Memory.wf d.mem) : Memory.wf (eventPost d).mem := by
  unfold eventPost
  dsimp only
  (repeat' split) <;> simp [h]

@[simp] theorem flr_wf {d : Dev} (h : Memory.wf d.mem) : Memory.wf (flr d).mem := by simp [flr, h]

/-! ### The admin commands -/

@[simp] theorem acctNow_wf {d : Dev} (h : Memory.wf d.mem) (c) : Memory.wf (acctNow d c).dev.mem := by
  unfold acctNow
  dsimp only
  (repeat' split) <;> simp [h]

@[simp] theorem frameAlloc_wf {d : Dev} (h : Memory.wf d.mem) (c) : Memory.wf (frameAlloc d c).dev.mem := by
  unfold frameAlloc
  dsimp only
  split
  · simp [h]
  · split
    · simp [h]
    · split
      · simp [h]
      · split
        · simp [h]
        · split
          · simp [h]
          · split
            · simp [h]
            next e he =>
              have hback := (congrArg Memory.wf (allocFrames_mem he)).trans ((congrArg Memory.wf (Dev.trimCave_mem d)).trans h)
              simpa using cellsClear_wf _ _ hback

@[simp] theorem Dev.dropCopies_wf {d : Dev} (h : Memory.wf d.mem) (a) : Memory.wf (d.dropCopies a).mem := by
  unfold Dev.dropCopies
  extract_lets d1 cs d2
  have h1 : Memory.wf d1.mem := by
    refine foldDev_wf (fun e g he => foldDev_wf (fun f p hf => ?_) he _) h _
    simp [hf]
  clear_value d1
  have h2 : Memory.wf d2.mem := by
    refine foldDev_wf (fun e k he => foldDev_wf (fun f g hf => ?_) he _) h1 _
    simp [hf]
  clear_value d2
  refine foldDev_wf (fun e k he => ?_) h2 _
  split <;> simp [he]

@[simp] theorem Dev.dropFrames_wf {d : Dev} (h : Memory.wf d.mem) (a) :
    Memory.wf (d.dropFrames a).mem := by simp [Dev.dropFrames, h]

@[simp] theorem frameFree_wf {d : Dev} (h : Memory.wf d.mem) (c) : Memory.wf (frameFree d c).2.mem := by
  unfold frameFree
  dsimp only
  (repeat' split) <;> simp [h]

@[simp] theorem frameQuery_wf {d : Dev} (h : Memory.wf d.mem) (c) : Memory.wf (frameQuery d c).dev.mem := by
  unfold frameQuery
  dsimp only
  split <;> simp [h]

@[simp] theorem caveHealth_wf {d : Dev} (h : Memory.wf d.mem) (c) : Memory.wf (caveHealth d c).dev.mem := by
  unfold caveHealth
  split <;> simp [h]

@[simp] theorem cohStats_wf {d : Dev} (h : Memory.wf d.mem) (c) : Memory.wf (cohStats d c).dev.mem := by
  unfold cohStats
  split <;> simp [h]

@[simp] theorem Dev.freeAgain_wf {d : Dev} (h : Memory.wf d.mem) (i) : Memory.wf (d.freeAgain i).mem := by
  unfold Dev.freeAgain
  split <;> simp [h]

theorem Dev.bgEnd_wf {d e : Dev} {slot r : Nat} {b : Background} (h : Memory.wf d.mem) (hb : d.bgEnd slot b = some (r, e)) :
    Memory.wf e.mem := by
  unfold Dev.bgEnd at hb
  dsimp only at hb
  repeat' split at hb
  all_goals cases hb
  all_goals simp [h]

/-! ### Starts -/

@[simp] theorem Dev.stopMargin_wf {d : Dev} (h : Memory.wf d.mem) : Memory.wf (d.stopMargin).mem := by
  unfold Dev.stopMargin
  (repeat' split) <;> simp [h]

@[simp] theorem Dev.dropDebug_wf {d : Dev} (h : Memory.wf d.mem) (mask) :
    Memory.wf (d.dropDebug mask).mem := by simp [Dev.dropDebug, h]

@[simp] theorem Dev.closeSession_wf {d : Dev} (h : Memory.wf d.mem) (reason) : Memory.wf (d.closeSession reason).mem := by
  unfold Dev.closeSession
  split <;> simp [h]

@[simp] theorem Dev.wipe_mem (d : Dev) : d.wipe.mem = [] := rfl

@[simp] theorem postAll_wf {d : Dev} (h : Memory.wf d.mem) (n) : Memory.wf (postAll n d).mem := by
  induction n generalizing d with
  | zero => exact h
  | succ n ih => exact ih (eventPost_wf h)

@[simp] theorem Dev.flushEvents_wf {d : Dev} (h : Memory.wf d.mem) : Memory.wf d.flushEvents.mem := postAll_wf h _

@[simp] theorem Dev.cold_mem (d : Dev) : d.cold.mem = [] := rfl

@[simp] theorem Dev.goCold_mem (d : Dev) : d.goCold.mem = [] := rfl

@[simp] theorem Dev.thermalTrip_mem (d : Dev) (cause) : (d.thermalTrip cause).mem = [] := rfl

@[simp] theorem Dev.powerLost_mem (d : Dev) : d.powerLost.mem = [] := rfl

@[simp] theorem Dev.zeroMemory_mem (d : Dev) : d.zeroMemory.mem = [] := rfl

@[simp] theorem adminComplete_wf {d : Dev} (h : Memory.wf d.mem) (slot) : Memory.wf (adminComplete d slot).mem := by
  unfold adminComplete
  extract_lets n leave
  have hleave {k : Dev → Dev} (hk : ∀ e : Dev, Memory.wf e.mem → Memory.wf (k e).mem) : Memory.wf (leave k).mem := by
    simp only [leave]
    split
    · split
      · exact hk _ (Dev.leaveEnd_wf h)
      · exact Dev.leavePush_wf h
    · exact hk d h
  clear_value leave
  split
  · exact h
  · exact hleave fun e _ => by rw [Dev.goCold_mem]; rfl
  · split
    · rw [Dev.goCold_mem]; rfl
    · exact hleave fun e he => by simp [he]
  · split
    next r e he => simp [Dev.bgEnd_wf h he]
    · split <;> simp [h]

/-! ### Power and heat -/

@[simp] theorem vinSample_wf {d : Dev} (h : Memory.wf d.mem) (v i) : Memory.wf (vinSample d v i).mem := by
  unfold vinSample
  extract_lets p run d1 d2
  have h2 : Memory.wf d2.mem := by
    simp only [d2, d1]
    rwa [Dev.modPower_mem, Dev.notePlatform_mem]
  clear_value d2
  split
  · exact h
  · split
    · rw [Dev.powerLost_mem]
      rfl
    · split
      · rwa [Dev.raise_mem]
      · split
        · rwa [Dev.raise_mem]
        · exact h2

@[simp] theorem drainTimeout_wf {d : Dev} (h : Memory.wf d.mem) (n) : Memory.wf (drainTimeout d n).mem := by
  unfold drainTimeout
  dsimp only
  split
  · exact h
  · refine foldDev_wf (fun e u he => ?_) (by simpa using h) _
    split <;> simp [he]

@[simp] theorem domainWakeDone_wf {d : Dev} (h : Memory.wf d.mem) (n) : Memory.wf (domainWakeDone d n).mem := by
  unfold domainWakeDone
  dsimp only
  split
  · exact h
  · rw [foldDev_mem Dev.grantReady_mem]
    split
    · split
      · exact cellsClear_wf _ _ h
      · split
        · refine foldDev_wf (fun e c he => ?_) (by simpa using h) _
          split <;> simp [he]
        · simpa using h
    · simpa using h

@[simp] theorem junctionSample_wf {d : Dev} (h : Memory.wf d.mem) (die sensor t) :
    Memory.wf (junctionSample d die sensor t).mem := by
  unfold junctionSample
  dsimp only
  split
  · exact h
  · split
    · simp [h]
    · split
      · rw [Dev.thermalTrip_mem]; rfl
      · split
        · simp [h]
        · cases die <;> simp [h]

@[simp] theorem hbmSample_wf {d : Dev} (hd : Memory.wf d.mem) (h k t) : Memory.wf (hbmSample d h k t).mem := by
  unfold hbmSample
  dsimp only
  split
  · exact hd
  · split
    · rw [Dev.thermalTrip_mem]; rfl
    · split <;> simp [hd]

@[simp] theorem powerCold_wf {d : Dev} (h : Memory.wf d.mem) (c) : Memory.wf (powerCold d c).mem := by
  unfold powerCold
  split
  · split
    · extract_lets d1
      have h1 : d1.mem = d.mem := Dev.adminBg_mem (fun _ => rfl) _ _ _
      exact Dev.leavePush_wf ((congrArg Memory.wf h1).trans h)
    · simp
  · rw [Dev.admin_mem fun e => by split <;> simp]
    exact h

@[simp] theorem powerStatus_wf {d : Dev} (h : Memory.wf d.mem) (c) : Memory.wf (powerStatus d c).dev.mem := by
  unfold powerStatus
  split <;> simp [h]

/-! ### Reliability -/

@[simp] theorem faultCounters_wf {d : Dev} (h : Memory.wf d.mem) (c) : Memory.wf (faultCounters d c).dev.mem := by
  unfold faultCounters
  split <;> simp [h]

@[simp] theorem correctedErr_wf {d : Dev} (h : Memory.wf d.mem) (u loc) :
    Memory.wf (correctedErr d u loc).mem := by simp [correctedErr, h]

@[simp] theorem errInject_wf {d : Dev} (h : Memory.wf d.mem) (c) : Memory.wf (errInject d c).dev.mem := by
  unfold errInject
  dsimp only
  (repeat' split) <;> simp [h]

/-! ### Security -/

theorem Dev.admThen_wf {d : Dev} (h : Memory.wf d.mem) {f : Dev → Dev} (hf : Memory.wf (f d).mem) (c n) :
    Memory.wf (d.admThen c n f).mem := by
  unfold Dev.admThen
  split
  · exact Dev.fwThen_wf h hf _ _
  · exact hf

@[simp] theorem Dev.openSession_wf {d : Dev} (h : Memory.wf d.mem) (body) : Memory.wf (d.openSession body).mem := by
  unfold Dev.openSession
  split <;> simp [h]

@[simp] theorem Dev.applyObj_wf {d : Dev} (h : Memory.wf d.mem) (body) : Memory.wf (d.applyObj body).2.mem := by
  unfold Dev.applyObj
  dsimp only
  (repeat' split) <;> simp [h]

@[simp] theorem submitObj_wf {d : Dev} (h : Memory.wf d.mem) (obj) : Memory.wf (submitObj d obj).2.mem := by
  unfold submitObj
  dsimp only
  split <;> simp [h]

@[simp] theorem Dev.beginReturn_wf {d : Dev} (h : Memory.wf d.mem) : Memory.wf (d.beginReturn).mem := by simp [Dev.beginReturn, h]

@[simp] theorem secAuth_wf {d : Dev} (h : Memory.wf d.mem) (c obj kind) : Memory.wf (secAuth d c obj kind).mem := by
  unfold secAuth
  refine Dev.admThen_wf h ?_ _ _
  split
  · rw [Dev.admin_mem fun e => by split <;> simp]
    exact h
  next bs _ =>
    extract_lets k d1
    have h1 : Memory.wf d1.mem := (congrArg Memory.wf (Dev.fwTouch_mem _ _ _)).trans h
    clear_value d1
    split
    · exact h
    · split
      · rw [Dev.admin_mem fun e => by simp]
        exact h
      · dsimp only
        split
        · have h2 : Memory.wf (submitObj d1 bs).2.mem := submitObj_wf h1 bs
          refine Dev.beginReturn_wf ?_
          rw [Dev.adminBg_mem fun e => rfl]
          exact h2
        · exact Dev.admin_wf (fun e he => by simp [he]) h1 _

@[simp] theorem secStatus_wf {d : Dev} (h : Memory.wf d.mem) (c) : Memory.wf (secStatus d c).dev.mem := by
  unfold secStatus
  split <;> simp [h]

@[simp] theorem secNonce_wf {d : Dev} (h : Memory.wf d.mem) (c) : Memory.wf (secNonce d c).dev.mem := by
  unfold secNonce
  split <;> simp [h]

@[simp] theorem secProvision_wf {d : Dev} (h : Memory.wf d.mem) (c rec) : Memory.wf (secProvision d c rec).mem := by
  unfold secProvision
  dsimp only
  split
  · split
    · rw [Dev.goCold_mem]; rfl
    · exact h
  · rw [Dev.admin_mem fun e => by simp]
    exact h

@[simp] theorem attest_wf {d : Dev} (h : Memory.wf d.mem) (c nonce) : Memory.wf (attest d c nonce).dev.mem := by
  unfold attest
  split
  · simp [h]
  · split
    · simp [h]
    · split
      · simp [h]
      next he => simp [Dev.attestBytes_mem he, h]

@[simp] theorem attestLog_wf {d : Dev} (h : Memory.wf d.mem) (c) : Memory.wf (attestLog d c).dev.mem := by
  unfold attestLog
  split <;> simp [h]

@[simp] theorem secCert_wf {d : Dev} (h : Memory.wf d.mem) (c) : Memory.wf (secCert d c).dev.mem := by
  unfold secCert
  split <;> simp [h]

/-! ### Debug -/

@[simp] theorem Dev.mboxReturnGo_wf {d : Dev} (h : Memory.wf d.mem) : Memory.wf d.mboxReturnGo.mem := by
  unfold Dev.mboxReturnGo
  dsimp only
  split
  · exact h
  · split
    · rfl
    · split
      · split <;> simp [h]
      · simp [h]

@[simp] theorem mbox_wf {d : Dev} (h : Memory.wf d.mem) (m) : Memory.wf (mbox d m).mem := by
  unfold mbox
  split <;> simp [h]

@[simp] theorem hartResume_wf {d : Dev} (h : Memory.wf d.mem) (die t) : Memory.wf (hartResume d die t).mem := by
  have hreach := (congrArg Memory.wf (d.dbgReach_mem t)).trans h
  unfold hartResume
  split
  next e hr =>
    have he : Memory.wf e.mem := by rwa [hr] at hreach
    split <;> simp [he]
  next hr => rwa [hr] at hreach

@[simp] theorem singleStep_wf {d : Dev} (h : Memory.wf d.mem) (die t) : Memory.wf (singleStep d die t).mem := by
  have hreach := (congrArg Memory.wf (d.dbgReach_mem t)).trans h
  unfold singleStep
  split
  next e hr =>
    have he : Memory.wf e.mem := by rwa [hr] at hreach
    split
    · exact he
    · split <;> simp [he]
  next hr => rwa [hr] at hreach

@[simp] theorem Dev.busWrite_wf {d : Dev} (h : Memory.wf d.mem) (a v) : Memory.wf (d.busWrite a v).mem := by
  unfold Dev.busWrite
  split <;> simp [h]

@[simp] theorem busAccess_wf {d : Dev} (h : Memory.wf d.mem) (die a write v) : Memory.wf (busAccess d die a write v).mem := by
  unfold busAccess
  split
  · simp [h]
  · split
    · simp [h]
    · split
      · simp [h]
      next g dom _ =>
        have hask := (congrArg Memory.wf (d.dbgAsk_mem g dom)).trans h
        split
        next hr =>
          rw [hr] at hask
          simpa using hask
        next hr =>
          rw [hr] at hask
          simpa using hask
        next e hr =>
          rw [hr] at hask
          split
          · simp [hask]
          · rw [Dev.fwThen_mem]
            · exact hask
            · have hread := e.busRead_mem a
              split
              next hr => simpa [hr] using hread
              next hr => simpa [hr] using hread

@[simp] theorem abstractOn_wf {d : Dev} (h : Memory.wf d.mem) (die t k) : Memory.wf (abstractOn d die t k).mem := by
  unfold abstractOn
  extract_lets put free
  have hfree : (free d).mem = d.mem := rfl
  split
  · split
    · split
      · exact h
      · rwa [hfree]
    · split
      · exact h
      · split
        · exact h
        · rwa [hfree]
    · rwa [hfree]
  · split
    · simp [h]
    · split
      · split <;> simp [h]
      · split <;> simp [h]
      · exact h
  next a =>
    have hread := d.busRead_mem a
    split
    · split
      · refine Dev.fwThen_wf h ?_ _ _
        split
        next hr =>
          rw [hr] at hread
          exact (congrArg Memory.wf hread).trans h
        next hr =>
          rw [hr] at hread
          simpa [← hread] using h
      · simp [h]
    · simp [h]
  · split
    · split <;> simp [h]
    · simp [h]

@[simp] theorem abstractCmd_wf {d : Dev} (h : Memory.wf d.mem) (die t k) : Memory.wf (abstractCmd d die t k).mem := by
  have hreach := (congrArg Memory.wf (d.dbgReach_mem t)).trans h
  unfold abstractCmd
  split
  next hr => simpa [hr] using hreach
  next hr => simpa [hr] using hreach
  next hr =>
    rw [hr] at hreach
    split
    · simpa using hreach
    · split <;> simp [hreach]

@[simp] theorem dmiRead_wf {d : Dev} (h : Memory.wf d.mem) (die a) : Memory.wf (dmiRead d die a).2.mem := by
  unfold dmiRead
  split <;> simp [h]

@[simp] theorem dmiCommand_wf {d : Dev} (h : Memory.wf d.mem) (die v) : Memory.wf (dmiCommand d die v).mem := by
  unfold dmiCommand
  split <;> simp [h]

@[simp] theorem dmiWrite_wf {d : Dev} (h : Memory.wf d.mem) (die a v) : Memory.wf (dmiWrite d die a v).mem := by
  unfold dmiWrite
  split <;> simp [h]

@[simp] theorem dmi_wf {d : Dev} (h : Memory.wf d.mem) (die a write v) : Memory.wf (dmi d die a write v).mem := by simp [dmi, h]

/-! ### Boot -/

@[simp] theorem perstAssert_wf {d : Dev} (h : Memory.wf d.mem) (bsel strap) : Memory.wf (perstAssert d bsel strap).mem := by
  unfold perstAssert
  dsimp only
  split
  · exact h
  · split
    · simp [h]
    · simp

@[simp] theorem imageLoad_wf {d : Dev} (h : Memory.wf d.mem) (img) : Memory.wf (imageLoad d img).mem := by
  unfold imageLoad
  dsimp only
  split
  · exact h
  · split <;> simp [Dev.wr_wf, h]

@[simp] theorem pldmUpdate_wf {d : Dev} (h : Memory.wf d.mem) (img) : Memory.wf (pldmUpdate d img).mem := by
  unfold pldmUpdate
  dsimp only
  split
  · simpa using Dev.wr_wf _ _ _ (Dev.wr_wf _ _ _ (Dev.wr_wf _ _ _ h))
  · split
    · split <;> simp [h]
    · exact h

@[simp] theorem Dev.cleared_wf {d : Dev} (h : Memory.wf d.mem) : Memory.wf d.cleared.mem := by
  unfold Dev.cleared
  dsimp only
  split
  · rfl
  · exact cellsClear_wf _ _ h

@[simp] theorem memoryTraining_wf {d : Dev} (h : Memory.wf d.mem) (okW okE ddr gb) :
    Memory.wf (memoryTraining d okW okE ddr gb).mem := by simp [memoryTraining, h]

/-! ### Application cores -/

@[simp] theorem windowLoad_wf {d : Dev} (h : Memory.wf d.mem) (u a ext) : Memory.wf (windowLoad d u a ext).mem := by
  unfold windowLoad
  split
  · split
    · rw [Dev.onCore_mem fun e => by simp]
      exact h
    · exact h
  · dsimp only
    split <;> simp [h]

@[simp] theorem windowStore_wf {d : Dev} (h : Memory.wf d.mem) (u a v) : Memory.wf (windowStore d u a v).mem := by
  unfold windowStore
  split
  · split
    · rw [Dev.onCore_mem fun e => by simp]
      exact h
    · exact h
  · dsimp only
    split <;> simp [h]

@[simp] theorem Dev.ioWrite_wf {d : Dev} (hd : Memory.wf d.mem) (h a bs ty) :
    Memory.wf (d.ioWrite h a bs ty).mem := by simp [Dev.ioWrite, hd]

@[simp] theorem coreLoad_wf {d : Dev} (hd : Memory.wf d.mem) (h fetch rd a w sg ty ext) :
    Memory.wf (coreLoad d h fetch rd a w sg ty ext).mem := by
  unfold coreLoad
  dsimp only
  (repeat' split) <;> simp [hd]

@[simp] theorem coreStore_wf {d : Dev} (hd : Memory.wf d.mem) (h a bs ty) : Memory.wf (coreStore d h a bs ty).mem := by
  unfold coreStore
  extract_lets n
  split
  · split
    · repeat' split
      all_goals simp [hd]
    · repeat' split
      all_goals simp [hd]
  · repeat' split
    all_goals simp [hd]
  · repeat' split
    all_goals simp [hd]
  · split <;> simp [hd]
  · split
    next e he => rwa [Dev.winStore_mem he]
    · simp [hd]
  · simp [hd]

@[simp] theorem coreAmo_wf {d : Dev} (hd : Memory.wf d.mem) (h op rd a v dbl) : Memory.wf (coreAmo d h op rd a v dbl).mem := by
  unfold coreAmo
  dsimp only
  split <;> simp [hd]

/-! ### The engine instruction set -/

theorem Dev.wf_of_map {α : Type} {o : Option α} {g : α → Dev} {f : Dev} (hg : ∀ y, o = some y → Memory.wf (g y).mem)
    (hf : o.map g = some f) : Memory.wf f.mem := by
  obtain ⟨y, hy, rfl⟩ := Option.map_eq_some_iff.1 hf
  exact hg y hy

theorem Dev.plain_wf {d f : Dev} (h : Memory.wf d.mem) {e : Fin 128} {w len : Nat} {ext : List Byte}
    (hf : d.plain e w len ext = some f) : Memory.wf f.mem := by
  unfold Dev.plain at hf
  dsimp only at hf
  split at hf
  case h_8 => cases hf; simp [h]
  case h_9 =>
    split at hf <;> cases hf
    simp [h]
  case h_10 =>
    split at hf
    · cases hf
    · exact Dev.wf_of_map (fun y hy => by simp [Dev.csrOp_mem hy, h]) hf
  case h_16 =>
    refine Dev.wf_of_map (fun p _ => ?_) hf
    simp [Dev.withVl, h]
  case h_17 =>
    refine Dev.wf_of_map (fun p _ => ?_) hf
    simp [Dev.withVl, h]
  case h_18 =>
    split at hf
    · exact Dev.wf_of_map (fun _ _ => by simp [h]) hf
    · exact Dev.wf_of_map (fun y hy => by simp [Dev.varith_mem hy, h]) hf
  case h_19 => cases hf
  all_goals exact Dev.wf_of_map (fun _ _ => by simp [h]) hf

/-! ### Held writes -/

@[simp] theorem Dev.leaves_wf {d : Dev} (h : Memory.wf d.mem) (w t) : Memory.wf (d.leaves w t).mem := by
  unfold Dev.leaves
  (repeat' split) <;> simp [h]

@[simp] theorem releaseHeld_wf {d : Dev} (h : Memory.wf d.mem) (src) : Memory.wf (releaseHeld d src).mem := by
  unfold releaseHeld
  split
  · exact h
  next w _ =>
    extract_lets before after t e
    split
    · exact h
    · exact Dev.hostSettle_wf (Dev.settle_wf (Dev.leaves_wf (d := e) h w t :))

/-! ### A step with no command -/

@[simp] theorem Dev.tick_wf {d : Dev} (h : Memory.wf d.mem) : Memory.wf (d.tick).mem := by simp [Dev.tick, h]

end Sys2Proof.Machine

/-!
Every step keeps the memory list in canonical form (log 6, R335, R175): the rules of the two parts above, command by command.
-/
namespace Sys2Proof.Machine

/-! ### Outcomes -/

/-- The state that a command answers, where it answers one, has its memory list in canonical form. -/
def Res.Wf : Res → Prop
  | .next t => Memory.wf t.dev.mem
  | _ => True

theorem Res.wf_next {s : State} : Res.Wf (.next s) ↔ Memory.wf s.dev.mem := Iff.rfl

theorem onDev_wf {s : State} {f : Dev → Dev} (h : Memory.wf (f s.dev).mem) : Res.Wf (onDev s f) := h

theorem onEng_wf {s : State} (h : Memory.wf s.dev.mem) {e : Fin 128} {f : Dev → Dev} (hf : Memory.wf (f s.dev).mem) :
    Res.Wf (onEng e s f) := by
  unfold onEng
  exact onDev_wf (by split <;> assumption)

/-! ### The commands that branch or wait before they act -/

theorem execRennetAdd_wf {s : State} (h : Memory.wf s.dev.mem) (src obj v) : Res.Wf (execRennetAdd src obj v s) := by
  refine onDev_wf ?_
  split
  · exact h
  next tag e ht =>
    have he : Memory.wf e.mem := by rwa [Dev.arriveTag_mem ht]
    split
    · simp [he]
    · simp [he]
    next old f t hb =>
      have hf : Memory.wf f.mem := (congrArg Memory.wf (Dev.bankAdd_mem hb)).trans he
      simp [hf]
    next old f hb =>
      have hf : Memory.wf f.mem := (congrArg Memory.wf (Dev.bankAdd_mem hb)).trans he
      split <;> simp [hf]

theorem execRennetWaitRegister_wf {s : State} (h : Memory.wf s.dev.mem) (src obj operand sc) :
    Res.Wf (execRennetWaitRegister src obj operand sc s) := by
  refine onDev_wf ?_
  split
  · exact h
  next tag e ht =>
    have he : Memory.wf e.mem := by rwa [Dev.arriveTag_mem ht]
    dsimp only
    split
    · split <;> simp [he]
    next f hb => rwa [Dev.bankWait_mem hb]

theorem execRennetWake_wf {s : State} (h : Memory.wf s.dev.mem) (e) : Res.Wf (execRennetWake e s) := by
  refine onDev_wf ?_
  dsimp only
  (repeat' split) <;> simp [h]

theorem execLandingAdd_wf {s : State} (h : Memory.wf s.dev.mem) : Res.Wf (execLandingAdd s) := by
  refine onDev_wf ?_
  dsimp only
  (repeat' split) <;> simp [h]

theorem execAtsTranslationCompletion_wf {s : State} (h : Memory.wf s.dev.mem) (ctx addr xaddr) :
    Res.Wf (execAtsTranslationCompletion ctx addr xaddr s) := by
  refine onDev_wf ?_
  split
  · split
    · rwa [Dev.modHost_mem]
    · exact h
  · exact h

theorem execXrsig_wf {s : State} (h : Memory.wf s.dev.mem) (e rs1 rs2 sc) : Res.Wf (execXrsig e rs1 rs2 sc s) := by
  refine onEng_wf h ?_
  dsimp only
  split
  next f hf => rwa [Dev.rennetStop_mem hf]
  · simp [h]

theorem execXradd_wf {s : State} (h : Memory.wf s.dev.mem) (e rd rs1 rs2 sc) : Res.Wf (execXradd e rd rs1 rs2 sc s) := by
  refine onEng_wf h ?_
  dsimp only
  split
  next f hf => rwa [Dev.rennetStop_mem hf]
  · simp [h]

theorem execXrwait_wf {s : State} (h : Memory.wf s.dev.mem) (e rd rs1 rs2 sc) : Res.Wf (execXrwait e rd rs1 rs2 sc s) := by
  refine onEng_wf h ?_
  dsimp only
  split
  next f hf => rwa [Dev.rennetStop_mem hf]
  · split <;> simp [h]

theorem execPrefetchWalk_wf {s : State} (hs : Memory.wf s.dev.mem) (h ctx va t) : Res.Wf (execPrefetchWalk h ctx va t s) := by
  refine onDev_wf ?_
  dsimp only
  split
  · split
    · split <;> simp [hs]
    · split
      next e he => rwa [Dev.readGate_mem (.inr he)]
      · exact hs
    · exact hs
  · exact hs

theorem execSnpAck_wf {s : State} (h : Memory.wf s.dev.mem) (holder addr dirty wbSent) :
    Res.Wf (execSnpAck holder addr dirty wbSent s) := by
  refine onDev_wf ?_
  split <;> simp [h]

theorem execCompAck_wf {s : State} (h : Memory.wf s.dev.mem) (req addr) : Res.Wf (execCompAck req addr s) := by
  refine onDev_wf ?_
  split <;> simp [h]

theorem execData_wf {s : State} (h : Memory.wf s.dev.mem) (req addr bytes grant poison) :
    Res.Wf (execData req addr bytes grant poison s) := by
  refine onDev_wf ?_
  (repeat' split) <;> simp [h]

theorem execProxyHoldExpiry_wf {s : State} (h : Memory.wf s.dev.mem) (addr) : Res.Wf (execProxyHoldExpiry addr s) := by
  refine onDev_wf ?_
  split <;> simp [h]

theorem execErrorCounterLeak_wf {s : State} (h : Memory.wf s.dev.mem) (u uncorrected) :
    Res.Wf (execErrorCounterLeak u uncorrected s) := by
  refine onDev_wf ?_
  split <;> simp [h]

theorem Dev.flashThen_wf {d : Dev} (h : Memory.wf d.mem) {f : Dev → Dev} (hf : Memory.wf (f d).mem) :
    Memory.wf (d.flashThen f).mem := by
  unfold Dev.flashThen
  split
  · exact hf
  · split <;> simp [h]
theorem execCaveUnitRead_wf {s : State} (h : Memory.wf s.dev.mem) (frame unit res) : Res.Wf (execCaveUnitRead frame unit res s) :=
  onDev_wf (Dev.flashThen_wf h (by simp [h]))

theorem execCaveStagingProgram_wf {s : State} (h : Memory.wf s.dev.mem) (ok) : Res.Wf (execCaveStagingProgram ok s) :=
  onDev_wf (Dev.flashThen_wf h (by simp [h]))

theorem execCavePatrol_wf {s : State} (h : Memory.wf s.dev.mem) (weak bad) : Res.Wf (execCavePatrol weak bad s) :=
  onDev_wf (Dev.flashThen_wf h (by simp [h]))

theorem execRedBufferIdleWriteback_wf {s : State} (h : Memory.wf s.dev.mem) (addr) :
    Res.Wf (execRedBufferIdleWriteback addr s) := by
  refine onDev_wf ?_
  split <;> simp [h]

theorem execKeyConfirmation_wf {s : State} (h : Memory.wf s.dev.mem) (p tag) : Res.Wf (execKeyConfirmation p tag s) := by
  refine onDev_wf ?_
  dsimp only
  split <;> simp [h]

theorem execChainAckReceive_wf {s : State} (h : Memory.wf s.dev.mem) (k) : Res.Wf (execChainAckReceive k s) := by
  refine onDev_wf ?_
  dsimp only
  (repeat' split) <;> simp [h]

theorem execRetransmitTimeout_wf {s : State} (h : Memory.wf s.dev.mem) (dst cls) :
    Res.Wf (execRetransmitTimeout dst cls s) := by
  refine onDev_wf ?_
  dsimp only
  (repeat' split) <;> simp [h]

theorem execRekeyConfirm_wf {s : State} (h : Memory.wf s.dev.mem) (p nonce tag) :
    Res.Wf (execRekeyConfirm p nonce tag s) := by
  refine onDev_wf ?_
  dsimp only
  split <;> simp [h]

theorem execHeartbeatTimer_wf {s : State} (h : Memory.wf s.dev.mem) : Res.Wf (execHeartbeatTimer s) := by
  refine onDev_wf ?_
  split
  · exact h
  · exact foldDev_wf (fun e x he => by simp [he]) h _

theorem execChainJoin_wf {s : State} (h : Memory.wf s.dev.mem) (c) : Res.Wf (execChainJoin c s) := by
  refine onDev_wf (Dev.adminBg_wf (fun e he => ?_) h _ _)
  dsimp only
  split
  · exact he
  · split
    · exact he
    · split
      · exact he
      · exact foldDev_wf (fun f k hf => by simp [hf]) (by simpa using he) _

theorem execChainLeave_wf {s : State} (h : Memory.wf s.dev.mem) (c) : Res.Wf (execChainLeave c s) := by
  refine onDev_wf (Dev.adminBg_wf (fun e he => ?_) h _ _)
  (repeat' split) <;> simp [he]

theorem execChainPortDisable_wf {s : State} (h : Memory.wf s.dev.mem) (c) : Res.Wf (execChainPortDisable c s) := by
  refine onDev_wf (Dev.adminBg_wf (fun e he => ?_) h _ _)
  dsimp only
  (repeat' split) <;> simp [he]

theorem execChainPortEnable_wf {s : State} (h : Memory.wf s.dev.mem) (c) : Res.Wf (execChainPortEnable c s) := by
  refine onDev_wf (Dev.adminBg_wf (fun e he => ?_) h _ _)
  dsimp only
  (repeat' split) <;> simp [he]

theorem execChainPortRetrain_wf {s : State} (h : Memory.wf s.dev.mem) (c) : Res.Wf (execChainPortRetrain c s) := by
  refine onDev_wf (Dev.adminBg_wf (fun e he => ?_) h _ _)
  dsimp only
  (repeat' split) <;> simp [he]

theorem execChainStatus_wf {s : State} (h : Memory.wf s.dev.mem) (c) : Res.Wf (execChainStatus c s) := by
  refine onDev_wf (Dev.admin_wf (fun e he => ?_) h _)
  split <;> simp [he]

theorem execApertureReadTimeout_wf {s : State} (h : Memory.wf s.dev.mem) (id) : Res.Wf (execApertureReadTimeout id s) := by
  refine onDev_wf ?_
  split <;> simp [h]

theorem execHeadWordReread_wf {s : State} (h : Memory.wf s.dev.mem) (ctx ext) : Res.Wf (execHeadWordReread ctx ext s) := by
  refine onDev_wf ?_
  split
  · refine Dev.fwThen_wf h ?_ _ _
    split <;> simp [h]
  · exact h

theorem execModerationTimer_wf {s : State} (h : Memory.wf s.dev.mem) (ctx) : Res.Wf (execModerationTimer ctx s) := by
  refine onDev_wf ?_
  split <;> simp [h]

theorem execRingCreate_wf {s : State} (h : Memory.wf s.dev.mem) (c ext) : Res.Wf (execRingCreate c ext s) := by
  have hgo : Memory.wf (s.dev.admin c (fun d => ringCreate d c ext)).mem := Dev.admin_wf (fun e he => by simp [he]) h c
  refine onDev_wf ?_
  dsimp only
  split
  · exact Dev.fwThen_wf h hgo _ _
  · exact hgo

theorem execSecClose_wf {s : State} (h : Memory.wf s.dev.mem) (c) : Res.Wf (execSecClose c s) := by
  refine onDev_wf (Dev.admin_wf (fun e he => ?_) h _)
  split <;> simp [bad, ans, he]

theorem execSecProvision_wf {s : State} (h : Memory.wf s.dev.mem) (c rec) : Res.Wf (execSecProvision c rec s) :=
  onDev_wf (Dev.admThen_wf h (secProvision_wf h c rec) _ _)

theorem execAttest_wf {s : State} (h : Memory.wf s.dev.mem) (c nonce) : Res.Wf (execAttest c nonce s) :=
  onDev_wf (Dev.admThen_wf h (Dev.admin_wf (fun _ he => attest_wf he c nonce) h _) _ _)

theorem execDoeAttest_wf {s : State} (h : Memory.wf s.dev.mem) (nonce) : Res.Wf (execDoeAttest nonce s) := by
  refine onDev_wf ?_
  split
  · exact h
  · split
    next he => simpa [Dev.attestBytes_mem he] using h
    · exact h

theorem Dev.onTap_wf {d : Dev} (h : Memory.wf d.mem) {f : Dev → Dev} (hf : Memory.wf (f d).mem) :
    Memory.wf (d.onTap f).mem := by
  unfold Dev.onTap
  split <;> assumption
theorem execIdcode_wf {s : State} (h : Memory.wf s.dev.mem) : Res.Wf (execIdcode s) :=
  onDev_wf (Dev.onTap_wf h (by simp [h]))

theorem execSamplePreload_wf {s : State} (h : Memory.wf s.dev.mem) (pins) : Res.Wf (execSamplePreload pins s) :=
  onDev_wf (Dev.onTap_wf h (by simp [h]))

theorem execExtest_wf {s : State} (h : Memory.wf s.dev.mem) (drive) : Res.Wf (execExtest drive s) :=
  onDev_wf (Dev.onTap_wf h (by dsimp only; split <;> simp [h]))

theorem execDtmcs_wf {s : State} (h : Memory.wf s.dev.mem) (v) : Res.Wf (execDtmcs v s) :=
  onDev_wf (Dev.onTap_wf h (by simp [h]))

theorem execBypass_wf {s : State} (h : Memory.wf s.dev.mem) : Res.Wf (execBypass s) :=
  onDev_wf (Dev.onTap_wf h (by simp [h]))

theorem execRindMbox_wf {s : State} (h : Memory.wf s.dev.mem) (m) : Res.Wf (execRindMbox m s) :=
  onDev_wf (Dev.onTap_wf h (by simp [h]))

theorem execDmi_wf {s : State} (h : Memory.wf s.dev.mem) (die addr write v) : Res.Wf (execDmi die addr write v s) :=
  onDev_wf (Dev.onTap_wf h (by simp [h]))

theorem Dev.onCore_wf {d : Dev} (hd : Memory.wf d.mem) {f : Dev → Dev}
    (hf : ∀ e, Memory.wf e.mem → Memory.wf (f e).mem) (h k) : Memory.wf (d.onCore h k f).mem := by
  unfold Dev.onCore
  split
  · exact hd
  · simpa using hf _ (by simpa using hd)
theorem Dev.ordered_wf {d : Dev} (hd : Memory.wf d.mem) {f : Dev → Dev} (hf : Memory.wf (f d).mem) (h aq rl) :
    Memory.wf (d.ordered_ h aq rl f).mem := by
  unfold Dev.ordered_
  dsimp only
  split
  · exact hd
  · split <;> simp [hf]
theorem execSpdomWrite_wf {s : State} (hd : Memory.wf s.dev.mem) (h v) : Res.Wf (execSpdomWrite h v s) := by
  refine onDev_wf ?_
  split
  · exact hd
  · exact Dev.onCore_wf hd (fun e he => by simp [he]) _ _

theorem execCoreLoad_wf {s : State} (hd : Memory.wf s.dev.mem) (h fetch rd addr wLog signed ty ext) :
    Res.Wf (execCoreLoad h fetch rd addr wLog signed ty ext s) :=
  onDev_wf (Dev.onCore_wf hd (fun e he => by simp [he]) _ _)

theorem execCoreStore_wf {s : State} (hd : Memory.wf s.dev.mem) (h addr bytes ty) : Res.Wf (execCoreStore h addr bytes ty s) := by
  refine onDev_wf ?_
  dsimp only
  split
  · exact Dev.onCore_wf hd (fun e he => by simp [he]) _ _
  · exact hd

theorem execCoreAmo_wf {s : State} (hd : Memory.wf s.dev.mem) (h op rd addr v dbl aq rl) :
    Res.Wf (execCoreAmo h op rd addr v dbl aq rl s) :=
  onDev_wf (Dev.onCore_wf hd (fun e he => Dev.ordered_wf he (by simp [he]) _ _ _) _ _)

theorem execCoreLr_wf {s : State} (hd : Memory.wf s.dev.mem) (h rd addr dbl aq rl) :
    Res.Wf (execCoreLr h rd addr dbl aq rl s) :=
  onDev_wf (Dev.onCore_wf hd (fun e he => Dev.ordered_wf he (by simp [he]) _ _ _) _ _)

theorem execCoreSc_wf {s : State} (hd : Memory.wf s.dev.mem) (h rd addr v dbl aq rl) :
    Res.Wf (execCoreSc h rd addr v dbl aq rl s) :=
  onDev_wf (Dev.onCore_wf hd (fun e he => Dev.ordered_wf he (by simp [he]) _ _ _) _ _)

theorem execCboZero_wf {s : State} (hd : Memory.wf s.dev.mem) (h addr) : Res.Wf (execCboZero h addr s) :=
  onDev_wf (Dev.onCore_wf hd (fun e he => by simp [he]) _ _)

theorem execSfenceVma_wf {s : State} (hd : Memory.wf s.dev.mem) (h) : Res.Wf (execSfenceVma h s) :=
  onDev_wf (Dev.onCore_wf hd (fun _ he => he) _ _)

/-! ### An engine's instruction word -/

/-- An instruction of the rows runs as the command of the same name. -/
theorem rowRun_wf (i : Instr) {s : State} (h : Memory.wf s.dev.mem) : Res.Wf (rowRun i s) := by
  unfold rowRun
  cases i with
  | xaissue | xawait | xapoll | xtissue | xtwait | xtpoll | xacq | xrel | xacqrel | xlaW | xlaD | xsrW | xsrD
  | xvfence | xvcvtf | xvcvtt | xvcvttSr | xvscale | xvsclf | xvdot | engineFence | engineFenceI | engineWfi | ebreak
  | engineLoad | engineStore | engineAmo | engineLr | engineSc =>
    dsimp only
    exact onDev_wf (by simp [h])
  | xrsig => exact execXrsig_wf h ..
  | xradd => exact execXradd_wf h ..
  | xrwait => exact execXrwait_wf h ..
  | _ => exact h

theorem ecallRun_wf {s : State} (h : Memory.wf s.dev.mem) (e) : Res.Wf (ecallRun e s) := by
  unfold ecallRun
  split <;> exact onEng_wf h (by simp [h])

theorem wordRun_wf {s : State} (h : Memory.wf s.dev.mem) (e w len ext) : Res.Wf (wordRun e w len ext s) := by
  unfold wordRun
  split
  · exact onDev_wf (by simp [h])
  · split
    · exact ecallRun_wf h e
    · split
      next i _ =>
        have hrow := rowRun_wf (withExt i ext) h
        split
        next t ht =>
          rw [ht, Res.wf_next] at hrow
          rw [Res.wf_next]
          split
          · simpa using hrow
          · exact hrow
        · exact hrow
      · refine onDev_wf ?_
        split
        next hf => exact Dev.plain_wf h hf
        · simp [h]

theorem execEngineInstruction_wf {s : State} (h : Memory.wf s.dev.mem) (e w) : Res.Wf (execEngineInstruction e w s) := by
  unfold execEngineInstruction
  split
  · dsimp only
    split
    next hf => rwa [Res.wf_next, Dev.fetch_mem (.inr hf)]
    next f hf =>
      have hf' : Memory.wf f.mem := by rwa [Dev.fetch_mem (.inl hf)]
      split
      · exact wordRun_wf (s := { s with dev := f }) hf' ..
      · exact wordRun_wf (s := { s with dev := f }) hf' ..
  · exact h

/-! ### Every command, every step -/

theorem exec_wf (i : Instr) {s : State} (h : Memory.wf s.dev.mem) : Res.Wf (exec i s) := by
  unfold exec
  cases i with
  | onpackageLinkFailure | heldWriteRelease | xaissue | opEnter | shareStart | shareComplete | columnSubstitute
  | xawait | xapoll | xtissue | tongsEnter | xtwait | xtpoll | xacq | xrel | xacqrel | xlaW | xlaD | xsrW | xsrD
  | xvfence | xvcvtf | xvcvtt | xvcvttSr | xvscale | xvsclf | xvdot | xsrseedWrite | engineFence | engineFenceI
  | engineWfi | ebreak | kend | sexit | sfail | ecallUnknown | engineLoad | engineStore | engineAmo | engineLr
  | engineSc | descriptorFetch | stepImageCheck | schedulerWalk | vatFillDone | kernelEnd | stepDrainDone
  | completionRecordPost | vatClearDone | tongsPiece | tongsTransferComplete | rennetSignal | rennetConfigure
  | rennetSetRealign | rennetWindowLoad | rennetWindowStore | rennetWindowAmoadd | deadlockWindowExpiry
  | dumpComplete | rdShared | rdUnique | claimUnique | rdOnce | wrLine | wrPart | atomic | snpShared | snpUnique
  | snpInv | snpOnce | snpBack | comp | retry | redAck | wbDirty | evict | redAdd | redMin | redMax | ticketExpiry
  | lrHoldExpiry | coreFence | coreTrap | unbackedStoreReport | mtimerMatch | translationWalk | faultRecordWrite
  | atsInvalidationRequest | epochEnd | migrationStart | migrationPassEnd | migrationFlip | fillFlip | brineVisit
  | laneRepair | hbmTempSample | thermalClockStep | marginPointDone | linkTrainingDone | identityExchange
  | bringupRetryTimer | linkFrameReceive | replayRequest | idleFrameTimer | laneDegrade | linkRetrainDone
  | linkSilenceTimeout | linkStateReceive | chainPacketReceive | packetForward | ackTimer | rekeyTimer
  | heartbeatReceive | heartbeatTimeout | deadDeclarationReceive | noLinkTimeout | departureReceive
  | slotChangeReceive | functionLevelReset | hostApertureWrite | hostApertureRead | apertureEnable | apertureDisable
  | apertureDrainDone | peerPlacementWrite | peerPlacementRead | notifyWrite | doorbellLineRead | eventRecordPost
  | adminTailWrite | adminCommandComplete | adminRingEnable | adminRingDisable | adminRingDrainDone | eventRingEnable
  | eventRingDisable | eventRingDrainDone | evtHeadWrite | hartRelease | recoveryGo | gpioEdge | gpioStatClear
  | setupRegisterWrite | candidateBlockedTimeout | preemptStart | preemptSave | preemptSaveDone | restoreDone
  | spareEngineSubstitute | vinSample | overcurrent | xtalFail | xtalRecover | clockChange | domainGate
  | drainTimeout | domainWake | domainWakeDone | glowEntry | glowExit | bankEntry | bankExit | coldExit | powerDemand
  | powerGrant | grantLapse | junctionTempSample | thermtripRelease | powerCold | correctedError | uncorrectedError
  | bellowsProbe | probeTimeout | containmentSettled | selfTestDone | debugAuth | rotateFabric | debugKey | cosignKey
  | advanceSvn | returnAuth | nonceExpiry | sessionExpiry | doeLog | doeCert | abstractCommand | hartHalt
  | hartResume | singleStep | systemBusAccess | vin52Rise | perstAssert | perstDeassert | imageLoad | memoryTraining
  | caveMount | pldmFirmwareUpdate | activateFirmware | spiProgramDone | platformEventRead | pldmSensorRead
  | pcieLinkUp | domainPowerDownDone | bankedEntryDone =>
    dsimp only
    exact onDev_wf (by simp [h])
  | ctxCreate | ctxRoot | ctxParams | acctSet | acctNow | dblineSet | regionReg | regionFree | flushImages | saveArea
  | rennetPools | rennetAlloc | rennetFree | dumpReg | faultQueue | faultReply | frameAlloc | frameAttach
  | frameDetach | framePolicy | frameQuery | quotaSet | tierParams | caveHealth | brinePeriod | cohStats
  | powerPolicy | powerLimit | coreClock | powerStatus | wakeGpio | ringResume | faultThresh | faultCounters
  | errInject | secStatus | secNonce | attestLog | secCert =>
    dsimp only
    exact onDev_wf (Dev.admin_wf (fun e he => by simp [he]) h _)
  | ctxDestroy | ringDestroy | regionEnable | regionDisable | dump | invalidate | frameFree | frameMove | caveParams
  | hbmMargin =>
    dsimp only
    exact onDev_wf (Dev.adminBg_wf (fun e he => by simp [he]) h _ _)
  | xrsig => exact execXrsig_wf h ..
  | xradd => exact execXradd_wf h ..
  | xrwait => exact execXrwait_wf h ..
  | rennetAdd => exact execRennetAdd_wf h ..
  | rennetWaitRegister => exact execRennetWaitRegister_wf h ..
  | rennetWake => exact execRennetWake_wf h ..
  | landingAdd => exact execLandingAdd_wf h
  | snpAck => exact execSnpAck_wf h ..
  | compAck => exact execCompAck_wf h ..
  | data => exact execData_wf h ..
  | proxyHoldExpiry => exact execProxyHoldExpiry_wf h ..
  | coreLoad => exact execCoreLoad_wf h ..
  | coreStore => exact execCoreStore_wf h ..
  | coreAmo => exact execCoreAmo_wf h ..
  | coreLr => exact execCoreLr_wf h ..
  | coreSc => exact execCoreSc_wf h ..
  | cboZero => exact execCboZero_wf h ..
  | sfenceVma => exact execSfenceVma_wf h ..
  | spdomWrite => exact execSpdomWrite_wf h ..
  | prefetchWalk => exact execPrefetchWalk_wf h ..
  | atsTranslationCompletion => exact execAtsTranslationCompletion_wf h ..
  | caveUnitRead => exact execCaveUnitRead_wf h ..
  | caveStagingProgram => exact execCaveStagingProgram_wf h ..
  | cavePatrol => exact execCavePatrol_wf h ..
  | redBufferIdleWriteback => exact execRedBufferIdleWriteback_wf h ..
  | keyConfirmation => exact execKeyConfirmation_wf h ..
  | chainAckReceive => exact execChainAckReceive_wf h ..
  | retransmitTimeout => exact execRetransmitTimeout_wf h ..
  | rekeyConfirm => exact execRekeyConfirm_wf h ..
  | heartbeatTimer => exact execHeartbeatTimer_wf h
  | apertureReadTimeout => exact execApertureReadTimeout_wf h ..
  | headWordReread => exact execHeadWordReread_wf h ..
  | moderationTimer => exact execModerationTimer_wf h ..
  | ringCreate => exact execRingCreate_wf h ..
  | chainJoin => exact execChainJoin_wf h ..
  | chainLeave => exact execChainLeave_wf h ..
  | chainPortDisable => exact execChainPortDisable_wf h ..
  | chainPortEnable => exact execChainPortEnable_wf h ..
  | chainPortRetrain => exact execChainPortRetrain_wf h ..
  | chainStatus => exact execChainStatus_wf h ..
  | errorCounterLeak => exact execErrorCounterLeak_wf h ..
  | secClose => exact execSecClose_wf h ..
  | secProvision => exact execSecProvision_wf h ..
  | attest => exact execAttest_wf h ..
  | doeAttest => exact execDoeAttest_wf h ..
  | idcode => exact execIdcode_wf h
  | samplePreload => exact execSamplePreload_wf h ..
  | extest => exact execExtest_wf h ..
  | dtmcs => exact execDtmcs_wf h ..
  | dmi => exact execDmi_wf h ..
  | rindMbox => exact execRindMbox_wf h ..
  | bypass => exact execBypass_wf h
  | engineInstruction => exact execEngineInstruction_wf h ..

theorem step_wf {s : State} (h : Memory.wf s.dev.mem) : Res.Wf (step s) := by
  unfold step
  split
  · exact Dev.tick_wf h
  · exact exec_wf _ h

/-- Settles O56: canonical form is kept by every command and by a step with none. That memory is a list in canonical form, so
that equal memories are equal lists, is the model's choice of representation (log 6). -/
theorem everyStepKeepsTheStateSafe : Obligations.EveryStepKeepsTheStateSafe := by
  intro s t h hstep
  have hwf := step_wf h
  rwa [hstep] at hwf

end Sys2Proof.Machine

/-!
The admin ring's ledger under the package's operations: the allocations, the ring's head and the commands that wait in it, on
which the end of a background command rests. Dropping an allocation's copies, a firmware write and leaving the Chain leave it as
it is; each operation that they come to has one rule here, in the order of the model.
-/
namespace Sys2Proof.Machine

/-- What the admin ring's part of a background command rests on: the allocations, the ring's head and the commands that wait. -/
def Dev.ledger (d : Dev) : Tbl Alloc × BitVec 16 × Tbl (BitVec 16 × Background) := (d.tiers.allocs, d.host.admHead, d.host.bg)

theorem Dev.allocs_of_ledger {d e : Dev} (h : d.ledger = e.ledger) : d.tiers.allocs = e.tiers.allocs := congrArg (fun x => x.1) h

theorem Dev.admHead_of_ledger {d e : Dev} (h : d.ledger = e.ledger) :
    d.host.admHead = e.host.admHead := congrArg (fun x => x.2.1) h

theorem Dev.bg_of_ledger {d e : Dev} (h : d.ledger = e.ledger) : d.host.bg = e.host.bg := congrArg (fun x => x.2.2) h

@[simp] theorem Dev.ite_ledger {c : Prop} [Decidable c] (d e : Dev) :
    (if c then d else e).ledger = if c then d.ledger else e.ledger := apply_ite Dev.ledger c d e

theorem Dev.Sends.ledger {d e : Dev} (h : d.Sends e) : e.ledger = d.ledger := by
  obtain ⟨_, _, _, _, rfl⟩ := h
  rfl

@[simp] theorem Dev.setWrites_ledger (d : Dev) (l : List OutW) : ({ d with writes := l } : Dev).ledger = d.ledger := rfl

/-! ### The operations that every family shares -/

@[simp] theorem foldDev_ledger {α : Type} {f : Dev → α → Dev} (hf : ∀ d x, (f d x).ledger = d.ledger) (d : Dev)
    (l : List α) : (foldDev d l f).ledger = d.ledger :=
  foldDev_keeps (fun e => e.ledger = d.ledger) (fun e x h => (hf e x).trans h) l rfl

@[simp] theorem Dev.modHost_ledger (d : Dev) {f : HostIf → HostIf} (hhead : (f d.host).admHead = d.host.admHead)
    (hbg : (f d.host).bg = d.host.bg) : (d.modHost f).ledger = d.ledger := by
  simp [Dev.ledger, Dev.modHost, hhead, hbg]

@[simp] theorem Dev.modTiers_ledger (d : Dev) {f : Tiers → Tiers} (h : (f d.tiers).allocs = d.tiers.allocs) :
    (d.modTiers f).ledger = d.ledger := by
  simp [Dev.ledger, Dev.modTiers, h]

@[simp] theorem Dev.modAnvil_ledger (d : Dev) (f) : (d.modAnvil f).ledger = d.ledger := rfl

@[simp] theorem Dev.modRennet_ledger (d : Dev) (f) : (d.modRennet f).ledger = d.ledger := rfl

@[simp] theorem Dev.modCoh_ledger (d : Dev) (f) : (d.modCoh f).ledger = d.ledger := rfl

@[simp] theorem Dev.modChain_ledger (d : Dev) (f) : (d.modChain f).ledger = d.ledger := rfl

@[simp] theorem Dev.emit_ledger (d : Dev) (o) : (d.emit o).ledger = d.ledger := rfl

@[simp] theorem Dev.modEng_ledger (d : Dev) (e f) : (d.modEng e f).ledger = d.ledger := rfl

@[simp] theorem Dev.modCore_ledger (d : Dev) (h f) : (d.modCore h f).ledger = d.ledger := rfl

@[simp] theorem Dev.modStep_ledger (d : Dev) (n f) : (d.modStep n f).ledger = d.ledger := rfl

@[simp] theorem Dev.wr_ledger (d : Dev) (off bs) : (d.wr off bs).ledger = d.ledger := rfl

@[simp] theorem Dev.setPoison_ledger (d : Dev) (line) : (d.setPoison line).ledger = d.ledger := by
  unfold Dev.setPoison
  split <;> rfl

@[simp] theorem Dev.clrPoison_ledger (d : Dev) (line) : (d.clrPoison line).ledger = d.ledger := rfl

@[simp] theorem Dev.heatUp_ledger (d : Dev) (off) : (d.heatUp off).ledger = d.ledger := rfl

@[simp] theorem Dev.fixPsn_ledger (d : Dev) (f) : (d.fixPsn f).ledger = d.ledger := rfl

@[simp] theorem Dev.markDirty_ledger (d : Dev) (off) : (d.markDirty off).ledger = d.ledger := rfl

@[simp] theorem Dev.loseResv_ledger (d : Dev) (off who sub) : (d.loseResv off who sub).ledger = d.ledger := rfl

@[simp] theorem Dev.raise_ledger (d : Dev) (e) : (d.raise e).ledger = d.ledger := by
  unfold Dev.raise
  refine Dev.modHost_ledger d ?_ ?_ <;> split <;> rfl

@[simp] theorem Dev.signal_ledger (d : Dev) (b) : (d.signal b).ledger = d.ledger := by simp [Dev.signal]

@[simp] theorem Dev.queueRec_ledger (d : Dev) (c r) : (d.queueRec c r).ledger = d.ledger := rfl

@[simp] theorem Dev.dataRec_ledger (d : Dev) (kind off gran source die) :
    (d.dataRec kind off gran source die).ledger = d.ledger :=
  foldDev_ledger (fun e c => e.queueRec_ledger c _) d _

@[simp] theorem Dev.loseLine_ledger (d : Dev) (off source die) :
    (d.loseLine off source die).ledger = d.ledger := by simp [Dev.loseLine]

@[simp] theorem Dev.lostStore_ledger (d : Dev) (src ctx step node addr len red sg) :
    (d.lostStore src ctx step node addr len red sg).ledger = d.ledger := by
  unfold Dev.lostStore
  (repeat' split) <;> simp

@[simp] theorem Dev.cancelFar_ledger (d : Dev) (e) : (d.cancelFar e).ledger = d.ledger := rfl

@[simp] theorem Dev.abandon_ledger (d : Dev) (e) : (d.abandon e).ledger = d.ledger := by simp [Dev.abandon]

@[simp] theorem Dev.dropUser_ledger (d : Dev) (u) : (d.dropUser u).ledger = d.ledger := rfl

@[simp] theorem Dev.stopEng_ledger (d : Dev) (e) : (d.stopEng e).ledger = d.ledger := by simp [Dev.stopEng]

@[simp] theorem Dev.stallEnds_ledger (d : Dev) (c) : (d.stallEnds c).ledger = d.ledger := rfl

@[simp] theorem Dev.stopAll_ledger (d : Dev) (n es) : (d.stopAll n es).ledger = d.ledger := by simp [Dev.stopAll]

@[simp] theorem Dev.endStep_ledger (d : Dev) (n o) : (d.endStep n o).ledger = d.ledger := by
  unfold Dev.endStep
  split <;> simp

@[simp] theorem Dev.failStep_ledger (d : Dev) (n st detail addr) :
    (d.failStep n st detail addr).ledger = d.ledger := by simp [Dev.failStep]

@[simp] theorem Dev.failEng_ledger (d : Dev) (e st detail addr) : (d.failEng e st detail addr).ledger = d.ledger := by
  unfold Dev.failEng
  split <;> simp

/-! ### Writes, reads and messages on their way -/

@[simp] theorem flushList_ledger (d : Dev) (l keep) : (flushList d l keep).ledger = d.ledger := (flushList_sends l d keep).ledger

@[simp] theorem transitList_ledger (d : Dev) (l keep) : (transitList d l keep).ledger = d.ledger :=
  (transitList_sends l d keep).ledger

@[simp] theorem Dev.flushSend_ledger (d : Dev) : d.flushSend.ledger = d.ledger := by simp [Dev.flushSend]

@[simp] theorem Dev.chainSend_ledger (d : Dev) (dst cls src ctx pd tag len body slice) :
    (d.chainSend dst cls src ctx pd tag len body slice).ledger = d.ledger := by simp [Dev.chainSend]

@[simp] theorem Dev.newTag_ledger (d : Dev) : d.newTag.2.ledger = d.ledger := rfl

@[simp] theorem Dev.vatPut_ledger (d : Dev) (v bs but) : (d.vatPut v bs but).ledger = d.ledger := rfl

@[simp] theorem Dev.send_ledger (d : Dev) (m) : (d.send m).ledger = d.ledger := rfl

@[simp] theorem Dev.launch_ledger (d : Dev) (w t) : (d.launch w t).ledger = d.ledger := by
  unfold Dev.launch
  dsimp only
  split
  · rw [Dev.setWrites_ledger, Dev.send_ledger]
  · simp
  · simp
  · split
    · simp
    · rw [Dev.ite_ledger, Dev.setWrites_ledger, Dev.send_ledger, Dev.chainSend_ledger, Dev.setWrites_ledger d.newTag.2,
        Dev.newTag_ledger, ite_self]
  · rfl

@[simp] theorem Dev.issueWrite_ledger (d : Dev) (src addr bs red rq) : (d.issueWrite src addr bs red rq).ledger = d.ledger := by
  unfold Dev.issueWrite
  dsimp only
  split
  · rfl
  · exact Dev.launch_ledger d _ _

@[simp] theorem Dev.issueWrites_ledger (d : Dev) (src addr bs red u rq) :
    (d.issueWrites src addr bs red u rq).ledger = d.ledger := by simp [Dev.issueWrites]

@[simp] theorem Dev.rennetSend_ledger (d : Dev) (n src step m) : (d.rennetSend n src step m).ledger = d.ledger := by
  unfold Dev.rennetSend
  dsimp only
  split
  · rfl
  · split
    · split
      · rw [Dev.chainSend_ledger, Dev.setWrites_ledger, Dev.newTag_ledger]
      · simp
    · split <;> simp
    · split <;> simp
    · rfl

@[simp] theorem Dev.setRun_ledger (d : Dev) (e r) : (d.setRun e r).ledger = d.ledger := rfl

@[simp] theorem Dev.sendAtomic_ledger (d : Dev) (e addr op) : (d.sendAtomic e addr op).ledger = d.ledger := by
  unfold Dev.sendAtomic
  split <;> simp

@[simp] theorem Dev.vatAmo_ledger (d : Dev) (v op w b) : (d.vatAmo v op w b).2.ledger = d.ledger := rfl

@[simp] theorem Dev.runCont_ledger (d : Dev) (e k) : (d.runCont e k).ledger = d.ledger := by
  unfold Dev.runCont
  (repeat' split) <;> simp

@[simp] theorem Dev.settleEng_ledger (d : Dev) (e) : (d.settleEng e).ledger = d.ledger := by
  unfold Dev.settleEng
  dsimp only
  cases (d.eng e).run with
  | release sc k => simp
  | await t =>
    cases (d.eng e).step with
    | none => rfl
    | some n => simp
  | twait t => simp
  | vfence => simp
  | _ => rfl

@[simp] theorem Dev.flushIrqs_ledger (d : Dev) : d.flushIrqs.ledger = d.ledger := by
  unfold Dev.flushIrqs
  split
  · rfl
  · rw [foldDev_ledger Dev.signal_ledger]
    rfl

@[simp] theorem Dev.settle_ledger (d : Dev) : d.settle.ledger = d.ledger := by
  unfold Dev.settle
  dsimp only
  rw [Dev.modAnvil_ledger, foldDev_ledger Dev.settleEng_ledger, Dev.flushIrqs_ledger]

/-! ### Frames and firmware accesses -/

@[simp] theorem Dev.startFill_ledger (d : Dev) (f) : (d.startFill f).2.ledger = d.ledger := by
  unfold Dev.startFill
  dsimp only
  (repeat' split) <;> simp

@[simp] theorem Dev.redEnter_ledger (d : Dev) (line) : (d.redEnter line).ledger = d.ledger := rfl

theorem Dev.frameGate_ledger {d e : Dev} {off : Nat} (h : d.frameGate off = .go e ∨ d.frameGate off = .hold e) :
    e.ledger = d.ledger := by
  unfold Dev.frameGate at h
  grind [Dev.startFill_ledger]

theorem Dev.readGate_ledger {d e : Dev} {off n : Nat} (h : d.readGate off n = .go e ∨ d.readGate off n = .hold e) :
    e.ledger = d.ledger := by
  unfold Dev.readGate at h
  grind [Dev.frameGate_ledger]

@[simp] theorem Dev.fwPut_ledger (d : Dev) (off bs) : (d.fwPut off bs).ledger = d.ledger := by
  unfold Dev.fwPut
  split
  next e he _ =>
    have hgo := Dev.readGate_ledger (.inl he)
    dsimp only
    split <;> simp [hgo]
  · simp

@[simp] theorem Dev.fwWrite_ledger (d : Dev) (a bs) : (d.fwWrite a bs).ledger = d.ledger := by
  unfold Dev.fwWrite
  split <;> simp

/-! ### Traps of the application cores -/

@[simp] theorem Dev.exc_ledger (d : Dev) (h cause tval) : (d.exc h cause tval).ledger = d.ledger := rfl

/-! ### Coherence messages -/

@[simp] theorem Dev.chainMsg_ledger (d : Dev) (n m) : (d.chainMsg n m).ledger = d.ledger := by simp [Dev.chainMsg]

@[simp] theorem Dev.toAgent_ledger (d : Dev) (m) : (d.toAgent m).ledger = d.ledger := by
  unfold Dev.toAgent
  split <;> simp

@[simp] theorem Dev.toHome_ledger (d : Dev) (m) : (d.toHome m).ledger = d.ledger := by
  unfold Dev.toHome
  split <;> simp

theorem Dev.refuseReq_ledger {d e : Dev} {m : NMsg} (h : d.refuseReq m = some e) : e.ledger = d.ledger := by
  unfold Dev.refuseReq at h
  grind [Dev.toAgent_ledger, Dev.modCoh_ledger]

@[simp] theorem Dev.spendTicket_ledger (d : Dev) (m) : (d.spendTicket m).ledger = d.ledger := by
  unfold Dev.spendTicket
  split <;> rfl

@[simp] theorem Dev.setHolder_ledger (d : Dev) (key h s) : (d.setHolder key h s).ledger = d.ledger := rfl

@[simp] theorem Dev.noteHolder_ledger (d : Dev) (key who st) : (d.noteHolder key who st).ledger = d.ledger := by
  unfold Dev.noteHolder
  split <;> rfl

@[simp] theorem Dev.takeEntry_ledger (d : Dev) (key) : (d.takeEntry key).ledger = d.ledger := by simp [Dev.takeEntry]

@[simp] theorem Dev.touchSys_ledger (d : Dev) (line) : (d.touchSys line).ledger = d.ledger := rfl

@[simp] theorem Dev.dropSys_ledger (d : Dev) (line) : (d.dropSys line).ledger = d.ledger := rfl

@[simp] theorem Dev.toMemory_ledger (d : Dev) (a bs poison fresh) :
    (d.toMemory a bs poison fresh).ledger = d.ledger := by simp [Dev.toMemory]

@[simp] theorem Dev.doAtomic_ledger (d : Dev) (m) : (d.doAtomic m).2.ledger = d.ledger := by
  unfold Dev.doAtomic
  split <;> simp

@[simp] theorem Dev.doWrite_ledger (d : Dev) (m) : (d.doWrite m).ledger = d.ledger := by
  unfold Dev.doWrite
  split <;> rfl

@[simp] theorem Dev.noteRefusal_ledger (d : Dev) (n st) : (d.noteRefusal n st).ledger = d.ledger := by simp [Dev.noteRefusal]

@[simp] theorem Dev.answer_ledger (d : Dev) (m b) : (d.answer m b).ledger = d.ledger := by
  unfold Dev.answer
  (repeat' split) <;> simp

@[simp] theorem Dev.sendData_ledger (d : Dev) (m bs st dirty poison fresh) :
    (d.sendData m bs st dirty poison fresh).ledger = d.ledger := by simp [Dev.sendData]

/-! ### Coherence at the home -/

@[simp] theorem Dev.setTxn_ledger (d : Dev) (key t) : (d.setTxn key t).ledger = d.ledger := rfl

@[simp] theorem Dev.dropTxn_ledger (d : Dev) (key) : (d.dropTxn key).ledger = d.ledger := rfl

@[simp] theorem Dev.modProxy_ledger (d : Dev) (key f) : (d.modProxy key f).ledger = d.ledger := rfl

@[simp] theorem Dev.holdMsg_ledger (d : Dev) (m) : (d.holdMsg m).ledger = d.ledger := rfl

@[simp] theorem Dev.queueRed_ledger (d : Dev) (m) : (d.queueRed m).ledger = d.ledger := rfl

@[simp] theorem Dev.applyRed_ledger (d : Dev) (m) : (d.applyRed m).ledger = d.ledger := by
  have hput : (((((d.loseResv m.addr m.who m.rq).wr m.addr
      (redBytes m.red m.ty m.bytes.length (d.rd m.addr m.bytes.length) m.bytes)).markDirty m.addr).heatUp m.addr).dropSys
      (maKey m.addr) |>.redEnter (maKey m.addr)).ledger = d.ledger := by simp
  unfold Dev.applyRed
  dsimp only
  split
  · split
    · rwa [Dev.chainSend_ledger]
    · exact hput
  · rwa [Dev.setWrites_ledger, Dev.send_ledger]

@[simp] theorem Dev.answerRead_ledger (d : Dev) (m) : (d.answerRead m).ledger = d.ledger := by
  unfold Dev.answerRead
  dsimp only
  split <;> simp

@[simp] theorem Dev.awaitAck_ledger (d : Dev) (key t) : (d.awaitAck key t).ledger = d.ledger := by simp [Dev.awaitAck]

@[simp] theorem Dev.noCopy_ledger (d : Dev) (key) : (d.noCopy key).ledger = d.ledger := by simp [Dev.noCopy]

@[simp] theorem Dev.finishHome_ledger (d : Dev) (key t) : (d.finishHome key t).ledger = d.ledger := by
  unfold Dev.finishHome
  dsimp only
  (repeat' split) <;> simp

@[simp] theorem Dev.ask_ledger (d : Dev) (m k) : (d.ask m k).ledger = d.ledger := by simp [Dev.ask]

@[simp] theorem Dev.sendWb_ledger (d : Dev) (key m) : (d.sendWb key m).ledger = d.ledger := by simp [Dev.sendWb]

@[simp] theorem Dev.sendEvict_ledger (d : Dev) (key) : (d.sendEvict key).ledger = d.ledger := by simp [Dev.sendEvict]

@[simp] theorem Dev.proxySupply_ledger (d : Dev) (home r m) : (d.proxySupply home r m).ledger = d.ledger := by
  unfold Dev.proxySupply
  split <;> simp

@[simp] theorem Dev.respond_ledger (d : Dev) (key t) : (d.respond key t).ledger = d.ledger := by
  unfold Dev.respond
  dsimp only
  (repeat' split) <;> simp

@[simp] theorem Dev.giveUp_ledger (d : Dev) (m) : (d.giveUp m).ledger = d.ledger := by simp [Dev.giveUp]

@[simp] theorem Dev.finishProxy_ledger (d : Dev) (key t) : (d.finishProxy key t).ledger = d.ledger := by
  unfold Dev.finishProxy
  dsimp only
  (repeat' split) <;> simp

@[simp] theorem Dev.endAbandoned_ledger (d : Dev) (key t) : (d.endAbandoned key t).ledger = d.ledger := by
  unfold Dev.endAbandoned
  split <;> simp

@[simp] theorem Dev.tryFinish_ledger (d : Dev) (key) : (d.tryFinish key).ledger = d.ledger := by
  unfold Dev.tryFinish
  split
  · split
    · rfl
    · split
      · simp
      · split
        · split
          · split
            next e he => rw [Dev.finishHome_ledger, Dev.frameGate_ledger (.inl he)]
            next e he => exact Dev.frameGate_ledger (.inr he)
            · simp
          · simp
        · simp
  · rfl

@[simp] theorem Dev.startWith_ledger (d : Dev) (m old) : (d.startWith m old).ledger = d.ledger := by simp [Dev.startWith]

@[simp] theorem Dev.startTxn_ledger (d : Dev) (m) : (d.startTxn m).ledger = d.ledger := by simp [Dev.startTxn]

@[simp] theorem Dev.backInvalidate_ledger (d : Dev) (key) : (d.backInvalidate key).ledger = d.ledger := by
  unfold Dev.backInvalidate
  (repeat' split) <;> simp

@[simp] theorem Dev.served_ledger (d : Dev) (m) : (d.served m).ledger = d.ledger := rfl

@[simp] theorem Dev.admitHome_ledger (d : Dev) (m old) : (d.admitHome m old).ledger = d.ledger := by
  unfold Dev.admitHome
  dsimp only
  split
  · simp
  · split
    · simp
    next e he => simp [Dev.frameGate_ledger (.inr he)]
    next e he =>
      have hgo := Dev.frameGate_ledger (.inl he)
      split
      · split
        · simp [hgo]
        · split
          next f hf => exact (Dev.refuseReq_ledger hf).trans hgo
          · simp [hgo]
      · split
        · simp [hgo]
        · split <;> simp [hgo]

@[simp] theorem Dev.admitRed_ledger (d : Dev) (m) : (d.admitRed m).ledger = d.ledger := by
  unfold Dev.admitRed
  dsimp only
  split
  · simp
  next e he => simp [Dev.frameGate_ledger (.inr he)]
  next e he =>
    have hgo := Dev.frameGate_ledger (.inl he)
    split <;> simp [hgo]

@[simp] theorem Dev.admitProxy_ledger (d : Dev) (m) : (d.admitProxy m).ledger = d.ledger := by
  unfold Dev.admitProxy
  (repeat' split) <;> simp

@[simp] theorem Dev.wbCame_ledger (d : Dev) (key who back) : (d.wbCame key who back).ledger = d.ledger := by
  unfold Dev.wbCame
  split <;> simp

@[simp] theorem Dev.applyWb_ledger (d : Dev) (m) : (d.applyWb m).ledger = d.ledger := by
  unfold Dev.applyWb
  dsimp only
  split
  · simp
  · split
    next e he => simp [Dev.frameGate_ledger (.inl he)]
    next e he => simp [Dev.frameGate_ledger (.inr he)]
    all_goals simp

@[simp] theorem Dev.proxyFwd_ledger (d : Dev) (m) : (d.proxyFwd m).ledger = d.ledger := by simp [Dev.proxyFwd]

@[simp] theorem Dev.readmit_ledger (d : Dev) (m) : (d.readmit m).ledger = d.ledger := by
  unfold Dev.readmit
  (repeat' split) <;> simp

@[simp] theorem Dev.retryHeld_ledger (d : Dev) : d.retryHeld.ledger = d.ledger := by simp [Dev.retryHeld]

/-! ### Coherence at a core -/

@[simp] theorem Dev.coreReply_ledger (d : Dev) (h st v) : (d.coreReply h st v).ledger = d.ledger := by
  unfold Dev.coreReply
  split <;> simp

/-! ### Containment and reclaim -/

@[simp] theorem Dev.dropSharers_ledger (d : Dev) (key) : (d.dropSharers key).ledger = d.ledger := by simp [Dev.dropSharers]

/-! ### The Chain -/

@[simp] theorem Dev.setSlot_ledger (d : Dev) (n s) : (d.setSlot n s).ledger = d.ledger := by simp [Dev.setSlot]

@[simp] theorem Dev.dropStreams_ledger (d : Dev) (n) : (d.dropStreams n).ledger = d.ledger := rfl

@[simp] theorem Dev.cutNode_ledger (d : Dev) (n tell) : (d.cutNode n tell).ledger = d.ledger := by
  unfold Dev.cutNode
  extract_lets at_n lost reqs d1 amos d2 d3 ctxOf d4 d5 d6 far reads d7 d8
  have h3 : d3.ledger = d.ledger := rfl
  clear_value d3
  have h4 : d4.ledger = d3.ledger := by
    simp only [d4]
    split
    · exact foldDev_ledger (fun _ _ => Dev.lostStore_ledger _ _ _ _ _ _ _ _ _) _ _
    · rfl
  clear_value d4
  have h5 : d5.ledger = d4.ledger := foldDev_ledger (fun _ _ => Dev.failEng_ledger _ _ _ _ _) _ _
  clear_value d5
  have h6 : d6.ledger = d5.ledger := foldDev_ledger (fun _ _ => Dev.coreReply_ledger _ _ _ _) _ _
  clear_value d6
  have h7 : d7.ledger = d6.ledger := rfl
  clear_value d7
  have h8 : d8.ledger = d7.ledger := foldDev_ledger (fun _ _ => by simp) _ _
  clear_value d8
  rw [Dev.settle_ledger, Dev.dropStreams_ledger, h8, h7, h6, h5, h4, h3]

@[simp] theorem Dev.leaveEnd_ledger (d : Dev) : d.leaveEnd.ledger = d.ledger := by simp [Dev.leaveEnd]

/-! ### The admin commands -/

@[simp] theorem Dev.dropCopies_ledger (d : Dev) (a) : (d.dropCopies a).ledger = d.ledger := by
  unfold Dev.dropCopies
  dsimp only
  rw [foldDev_ledger (fun e k => by split <;> simp),
    foldDev_ledger fun e k => foldDev_ledger (fun f g => f.setHolder_ledger k g none) e _,
    foldDev_ledger fun e g => foldDev_ledger (fun f p => f.modCore_ledger g _) e _]

end Sys2Proof.Machine

/-!
Memory under FRAME_ALLOC, and dropping an allocation's copies under FRAME_FREE: which bytes and lines are left, and that a
firmware invalidation leaves nothing that a request held before waits for.
-/
namespace Sys2Proof.Machine

/-! ### Bytes that are cleared -/

theorem cellGet_of_unlisted {m : List Host.Cell} {a : Nat} (h : ∀ c ∈ m, c.1 ≠ a) : cellGet m a = 0 := by
  induction m with
  | nil => rfl
  | cons p t ih =>
    obtain ⟨k, v⟩ := p
    have hk : k ≠ a := h _ List.mem_cons_self
    simp [cellGet, hk, ih fun c hc => h c (List.mem_cons_of_mem _ hc)]

/-- Dropping cells of other addresses leaves a byte as it was. -/
theorem cellGet_filter {m : List Host.Cell} {a : Nat} {f : Host.Cell → Bool} (hwf : Memory.wf m = true)
    (hf : ∀ c, c.1 = a → f c = true) : cellGet (m.filter f) a = cellGet m a := by
  rw [Memory.wf_iff] at hwf
  obtain ⟨hp, -⟩ := hwf
  induction m with
  | nil => rfl
  | cons p t ih =>
    obtain ⟨k, v⟩ := p
    rw [List.pairwise_cons] at hp
    have ht := ih hp.2
    by_cases hkeep : f (k, v) = true
    · simp [hkeep, cellGet, ht]
    · have hk : k ≠ a := fun e => hkeep (hf _ e)
      by_cases hlt : a < k
      · have hz : cellGet t a = 0 := cellGet_lt fun c hc => lt_trans hlt (hp.1 c hc)
        simp [hkeep, cellGet, hk, hlt, ht, hz]
      · simp [hkeep, cellGet, hk, hlt, ht]

theorem cellGet_cellsClear_in {m : List Host.Cell} {lo n a : Nat} (hlo : lo ≤ a) (hhi : a < lo + n) :
    cellGet (cellsClear m lo n) a = 0 := by
  refine cellGet_of_unlisted fun c hc e => ?_
  have hout := (List.mem_filter.1 hc).2
  simp [e] at hout
  omega

theorem cellGet_cellsClear_out {m : List Host.Cell} {lo n a : Nat} (hwf : Memory.wf m = true) (h : a < lo ∨ lo + n ≤ a) :
    cellGet (cellsClear m lo n) a = cellGet m a := by
  refine cellGet_filter hwf fun c e => ?_
  simp [e]
  omega

/-! ### Allocated frames -/

theorem allocFrames_only {k n : Nat} {f : Frame} {d e : Dev} (h : allocFrames k n f d = some e) :
    ∃ t, e = { d with tiers := t } ∧ t.allocs = d.tiers.allocs := by
  induction k generalizing n d with
  | zero => cases h; exact ⟨_, rfl, rfl⟩
  | succ k ih =>
    unfold allocFrames at h
    dsimp only at h
    split at h
    · cases h
    · obtain ⟨t, rfl, ht⟩ := ih h
      exact ⟨t, rfl, ht⟩

/-- Fetching an admin command does not change which frames are taken. -/
theorem allocFrames_fetched (k n : Nat) (f : Frame) (d : Dev) :
    allocFrames k n f d.fetched = (allocFrames k n f d).map Dev.fetched := by
  induction k generalizing n d with
  | zero => rfl
  | succ k ih =>
    have hadmits : d.fetched.admits = d.admits := rfl
    unfold allocFrames
    rw [hadmits]
    split
    · rfl
    next b _ =>
      exact ih (n + 1) (d.modTiers (fun t => { t with frames := tput t.frames n { f with back := b, loc := d.freeLoc b } }))

/-! ### Tables and lines -/

theorem mem_of_tget {α : Type} {t : Tbl α} {n : Nat} {x : α} (h : tget t n = some x) : (n, x) ∈ t := by
  induction t with
  | nil => cases h
  | cons p t ih =>
    obtain ⟨k, v⟩ := p
    by_cases hk : k = n
    · subst hk
      simp only [tget, if_true, Option.some.injEq] at h
      exact h ▸ List.mem_cons_self
    · simp only [tget, hk, if_false] at h
      exact List.mem_cons_of_mem _ (ih h)

theorem mem_tput {α : Type} {t : Tbl α} {n : Nat} {x : α} {p : Nat × α} (h : p ∈ tput t n x) : p = (n, x) ∨ p ∈ t := by
  induction t with
  | nil => exact .inl (List.mem_singleton.1 h)
  | cons q t ih =>
    obtain ⟨k, v⟩ := q
    unfold tput at h
    split at h
    · exact List.mem_cons.1 h
    · split at h
      · exact (List.mem_cons.1 h).imp_right (List.mem_cons_of_mem _)
      · obtain rfl | h := List.mem_cons.1 h
        · exact .inr List.mem_cons_self
        · exact (ih h).imp_right (List.mem_cons_of_mem _)

theorem Dev.core_of_cores {d e : Dev} (h : d.cores = e.cores) (g : Fin 64) : d.core g = e.core g := by
  rw [Dev.core, h, Dev.core]

/-! ### Cached lines that are dropped -/

/-- A core whose copy of a line, if it has one, is in a stable state. -/
def Core.Settled (c : Core) (l : Nat) : Prop := ∀ x, tget c.lines l = some x → stable x.st = true

theorem tget_coreDrop_ne (c : Core) {k l : Nat} (h : l ≠ k) : tget (coreDrop c k).lines l = tget c.lines l := by
  unfold coreDrop
  dsimp only
  split
  · split
    · exact tget_tdel_ne _ h
    · exact tget_tdel_ne _ h
    · exact tget_tdel_ne _ h
    · exact tget_tdel_ne _ h
    · exact tget_tput_ne _ _ h
    · exact tget_tput_ne _ _ h
    · rfl
  · rfl

theorem Core.Settled.coreDrop {c : Core} {l : Nat} (h : c.Settled l) : tget (coreDrop c l).lines l = none := by
  unfold Machine.coreDrop
  dsimp only
  split
  next x hx =>
    have hst := h x hx
    split
    · exact tget_tdel_self _ _
    · exact tget_tdel_self _ _
    · exact tget_tdel_self _ _
    · exact tget_tdel_self _ _
    all_goals simp_all [stable]
  next hx => exact hx

theorem Core.Settled.of_lacks {c : Core} {l : Nat} (h : tget c.lines l = none) : c.Settled l := by
  intro x hx
  rw [h] at hx
  cases hx

/-- A core without the lines of a list, as FRAME_FREE drops them (R336). -/
def Core.dropLines (c : Core) (ps : List (Nat × CLine)) : Core := ps.foldl (fun c p => (Machine.coreDrop c p.1).l1Drop p.1) c

theorem Core.Settled.drop {c : Core} {l : Nat} (h : c.Settled l) (k : Nat) : ((Machine.coreDrop c k).l1Drop k).Settled l := by
  by_cases hk : l = k
  · subst hk
    exact Core.Settled.of_lacks h.coreDrop
  · intro x hx
    exact h x ((tget_coreDrop_ne c hk).symm.trans hx)

/-- A line that the list names, or that is not there, is not there after. -/
theorem Core.Settled.dropLines {l : Nat} (ps : List (Nat × CLine)) {c : Core} (h : c.Settled l)
    (hl : l ∈ ps.map (·.1) ∨ tget c.lines l = none) : tget (c.dropLines ps).lines l = none := by
  induction ps generalizing c with
  | nil => exact hl.resolve_left List.not_mem_nil
  | cons p t ih =>
    refine ih (h.drop p.1) ?_
    by_cases hp : l = p.1
    · exact .inr (hp ▸ (hp ▸ h : c.Settled p.1).coreDrop)
    · obtain hmem | hnone := hl
      · exact .inl ((List.mem_cons.1 hmem).resolve_left hp)
      · exact .inr ((tget_coreDrop_ne c hp).trans hnone)

/-- Changes of one core, as a fold over the package and over the core. -/
theorem Dev.core_foldDev_modCore {α : Type} (g : Fin 64) (f : α → Core → Core) (l : List α) (d : Dev) :
    (foldDev d l (fun d x => d.modCore g (f x))).core g = l.foldl (fun c x => f x c) (d.core g) := by
  induction l generalizing d with
  | nil => rfl
  | cons x t ih => exact (ih _).trans (by rw [Dev.core_modCore_self]; rfl)

theorem Dev.core_foldDev_modCore_ne {α : Type} {g h : Fin 64} (hne : h ≠ g) (f : α → Core → Core) (l : List α)
    (d : Dev) : (foldDev d l (fun d x => d.modCore g (f x))).core h = d.core h :=
  foldDev_keeps (fun e => e.core h = d.core h) (fun e _ he => (e.core_modCore_ne _ hne).trans he) l rfl

/-- The first part of dropping an allocation's copies: every core's own stable lines. -/
def Dev.dropLines (d : Dev) (a : Alloc) (hs : List (Fin 64)) : Dev :=
  foldDev d hs (fun d h => foldDev d ((d.core h).lines.filter (fun p => a.has p.1 && stable p.2.st))
    (fun d p => d.modCore h (fun c => (Machine.coreDrop c p.1).l1Drop p.1)))

theorem Dev.dropLines_lacks {a : Alloc} {g : Fin 64} {l : Nat} (ha : a.has l = true) (hs : List (Fin 64)) {d : Dev}
    (h : (d.core g).Settled l) (hg : g ∈ hs ∨ tget (d.core g).lines l = none) :
    tget ((d.dropLines a hs).core g).lines l = none := by
  induction hs generalizing d with
  | nil => exact hg.resolve_left List.not_mem_nil
  | cons k t ih =>
    by_cases hk : g = k
    · subst hk
      have hnone := h.dropLines ((d.core g).lines.filter (fun p => a.has p.1 && stable p.2.st)) (by
        cases hx : tget (d.core g).lines l with
        | none => exact .inr rfl
        | some x =>
          exact .inl (List.mem_map.2 ⟨_, List.mem_filter.2 ⟨mem_of_tget hx, by simp [ha, h x hx]⟩, rfl⟩))
      rw [Core.dropLines, ← Dev.core_foldDev_modCore g
        (fun (p : Nat × CLine) c => (Machine.coreDrop c p.1).l1Drop p.1)] at hnone
      exact ih (Core.Settled.of_lacks hnone) (.inr hnone)
    · have hsame := Dev.core_foldDev_modCore_ne hk (fun (p : Nat × CLine) c => (Machine.coreDrop c p.1).l1Drop p.1)
        ((d.core k).lines.filter (fun p => a.has p.1 && stable p.2.st)) d
      refine ih ?_ ?_
      · rwa [hsame]
      · rw [hsame]
        exact hg.imp_left fun hmem => (List.mem_cons.1 hmem).resolve_left hk

theorem Dev.dropLines_coh (d : Dev) (a : Alloc) (hs : List (Fin 64)) : (d.dropLines a hs).coh = d.coh :=
  foldDev_keeps (fun e => e.coh = d.coh) (fun _ _ he => foldDev_keeps (fun e => e.coh = d.coh)
    (fun e _ hf => (show (e.modCore _ _).coh = e.coh from rfl).trans hf) _ he) hs rfl

/-! ### What a firmware SnpInv leaves waiting -/

/-- `d'` has the cores of `d` and waits for no more than `d` does, but for transactions that have asked for answers. -/
structure Dev.Asks (d d' : Dev) : Prop where
  cores : d'.cores = d.cores
  held : d'.coh.held = d.coh.held
  redQ : d'.coh.redQ = d.coh.redQ
  txns : ∀ p ∈ d'.coh.txns, p ∈ d.coh.txns ∨ p.2.waits ≠ []

theorem Dev.Asks.of_eq {d d' : Dev} (hcores : d'.cores = d.cores) (hheld : d'.coh.held = d.coh.held)
    (hred : d'.coh.redQ = d.coh.redQ) (htxns : d'.coh.txns = d.coh.txns) : d.Asks d' :=
  ⟨hcores, hheld, hred, fun _ hp => .inl (htxns ▸ hp)⟩

theorem Dev.Asks.refl (d : Dev) : d.Asks d := .of_eq rfl rfl rfl rfl

theorem Dev.Asks.trans {d e f : Dev} (h : d.Asks e) (k : e.Asks f) : d.Asks f :=
  ⟨k.cores.trans h.cores, k.held.trans h.held, k.redQ.trans h.redQ, fun p hp => (k.txns p hp).elim (h.txns p) .inr⟩

theorem Dev.Asks.noneHeld {d d' : Dev} (h : d.Asks d') (hn : NoneHeld d) : NoneHeld d' := by
  obtain ⟨hheld, hred, htxns⟩ := hn
  exact ⟨h.held.trans hheld, h.redQ.trans hred, fun p hp => (h.txns p hp).elim (htxns p) fun hw => .inr (.inl hw)⟩

theorem Dev.Sends.asks {d d' : Dev} (h : d.Sends d') : d.Asks d' := by
  obtain ⟨_, _, _, _, rfl⟩ := h
  exact .of_eq rfl rfl rfl rfl

theorem foldDev_asks {α : Type} {f : Dev → α → Dev} (hf : ∀ (d : Dev) x, d.Asks (f d x)) (d : Dev) (l : List α) :
    d.Asks (foldDev d l f) :=
  foldDev_keeps d.Asks (fun e x h => h.trans (hf e x)) l (.refl d)

theorem Dev.Sends.coh {d d' : Dev} (h : d.Sends d') : d'.coh = d.coh := by
  obtain ⟨_, _, _, _, rfl⟩ := h
  rfl

theorem Dev.chainMsg_sends (d : Dev) (n : Nat) (m : NMsg) : d.Sends (d.chainMsg n m) := by
  unfold Dev.chainMsg
  dsimp only
  split
  · exact (Dev.modChain_sends d _).trans (Dev.flushSend_sends _)
  · exact Dev.Sends.refl d

theorem Dev.toAgent_asks (d : Dev) (m : NMsg) : d.Asks (d.toAgent m) := by
  unfold Dev.toAgent
  split
  · exact (d.chainMsg_sends _ _).asks
  · exact .of_eq rfl rfl rfl rfl

theorem Dev.toHome_asks (d : Dev) (m : NMsg) : d.Asks (d.toHome m) := by
  unfold Dev.toHome
  split
  · exact (d.chainMsg_sends _ _).asks
  · exact .of_eq rfl rfl rfl rfl

theorem Dev.setHolder_asks (d : Dev) (key : Nat) (h : Fin 64) (s : Option FSt) : d.Asks (d.setHolder key h s) :=
  .of_eq rfl rfl rfl rfl

theorem Dev.toAgent_txns (d : Dev) (m : NMsg) : (d.toAgent m).coh.txns = d.coh.txns := by
  unfold Dev.toAgent
  split
  · rw [(d.chainMsg_sends _ _).coh]
  · rfl

/-- A transaction that is entered and dropped leaves none behind. -/
theorem Dev.setTxn_dropTxn_asks (d : Dev) (key : Nat) (t : Txn) : d.Asks ((d.setTxn key t).dropTxn key) := by
  refine ⟨rfl, rfl, rfl, fun p hp => ?_⟩
  obtain ⟨hmem, hkey⟩ := List.mem_filter.1 hp
  obtain rfl | hold := mem_tput hmem
  · simp at hkey
  · exact .inl hold

/-- The transaction of a firmware SnpInv at address `a`, waiting for `ws` (R278). -/
def invTxn (a : Nat) (ws : List Agent) : Txn := { req := { kind := .snpInv, who := .firmware, addr := a }, waits := ws }

/-- The answer of a proxy slice to a firmware SnpInv: the transaction ends and its home is told. -/
theorem Dev.respond_invTxn_asks (d : Dev) (key a : Nat) : (d.dropTxn key).Asks (d.respond key (invTxn a [])) := by
  have hproxy (f : ProxyLine → ProxyLine) : (d.dropTxn key).Asks ((d.dropTxn key).modProxy key f) := .of_eq rfl rfl rfl rfl
  simp only [Dev.respond, invTxn, reduceCtorEq, decide_false, decide_true, Bool.false_and, Bool.and_false, Bool.or_false,
    Bool.or_self, Bool.not_false, Bool.true_or, Bool.false_eq_true, if_false, if_true]
  exact (hproxy _).trans (Dev.toHome_asks _ _)

/-- A transaction of a firmware SnpInv that waits for nobody ends at once. -/
theorem Dev.tryFinish_invTxn_asks (d : Dev) (key a : Nat) : d.Asks ((d.setTxn key (invTxn a [])).tryFinish key) := by
  have hended := d.setTxn_dropTxn_asks key (invTxn a [])
  unfold Dev.tryFinish
  rw [show tget (d.setTxn key (invTxn a [])).coh.txns key = some (invTxn a []) from tget_tput_self _ _ _]
  cases hn : maNode a with
  | none => simpa [hn, invTxn, Txn.needsFrame, Dev.finishHome] using hended
  | some n =>
    have hresp := hended.trans ((d.setTxn key (invTxn a [])).respond_invTxn_asks key a)
    simpa [hn, invTxn, Dev.finishProxy] using hresp

theorem Dev.tryFinish_of_waits {d : Dev} {key : Nat} {t : Txn} (ht : tget d.coh.txns key = some t) (hw : t.waits ≠ []) :
    d.tryFinish key = d := by
  unfold Dev.tryFinish
  simp [ht, hw]

/-- A firmware SnpInv to the nodes that share a line leaves at most its own transaction, which waits for them. -/
theorem Dev.dropSharers_asks (d : Dev) {key : Nat} (hfree : d.busyLine key = false) : d.Asks (d.dropSharers key) := by
  obtain ⟨k, fs, h⟩ : ∃ k fs, d.dropSharers key = (foldDev (d.setTxn k (invTxn (64 * key) (fs.map (·.2)))) fs
      (fun d (f : NKind × Agent) => d.toAgent { kind := f.1, who := f.2, addr := maLine (64 * key) })).tryFinish k := by
    unfold Dev.dropSharers
    rw [hfree]
    exact ⟨_, _, rfl⟩
  rw [h]
  cases fs with
  | nil => exact d.tryFinish_invTxn_asks k (64 * key)
  | cons f r =>
    have hw : (invTxn (64 * key) ((f :: r).map (·.2))).waits ≠ [] := List.cons_ne_nil _ _
    generalize invTxn (64 * key) ((f :: r).map (·.2)) = t at hw
    have hsent := foldDev_asks (fun e (g : NKind × Agent) =>
      e.toAgent_asks { kind := g.1, who := g.2, addr := maLine (64 * key) })
      (d.setTxn k t) (f :: r)
    have htxns := foldDev_keeps (fun e => e.coh.txns = tput d.coh.txns k t)
      (fun e (g : NKind × Agent) he => (e.toAgent_txns { kind := g.1, who := g.2, addr := maLine (64 * key) }).trans he) (f :: r)
      (d := d.setTxn k t) rfl
    generalize foldDev (d.setTxn k t) (f :: r) _ = e at hsent htxns
    rw [Dev.tryFinish_of_waits (by rw [htxns, tget_tput_self]) hw]
    refine ⟨hsent.cores, hsent.held, hsent.redQ, fun p hp => ?_⟩
    rw [htxns] at hp
    exact (mem_tput hp).symm.imp_right fun h => by rwa [h]

/-- With nothing held, a retry changes nothing. -/
theorem Dev.retryHeld_of_noneHeld {d : Dev} (hn : NoneHeld d) : d.retryHeld = d := by
  obtain ⟨hheld, hred, htxns⟩ := hn
  have hkeep (key : Nat) : d.tryFinish key = d := by
    unfold Dev.tryFinish
    split
    next t ht =>
      have hasked : t.ack = true ∨ t.waits ≠ [] ∨ t.wbs ≠ [] := htxns _ (mem_of_tget ht)
      rw [if_pos (by simpa [or_assoc] using hasked)]
    · rfl
  have htry : foldDev d (d.coh.txns.map (·.1)) Dev.tryFinish = d :=
    List.foldlRecOn (motive := fun e => e = d) _ _ rfl fun e he k _ => he ▸ hkeep k
  have hempty (l r : List NMsg) (hl : d.coh.held = l) (hr : d.coh.redQ = r) :
      d.modCoh (fun c => { c with held := l, redQ := r }) = d := by
    subst hl hr
    rfl
  simp only [Dev.retryHeld, htry, hempty [] [] hheld hred]
  simp [hheld, hred, byTurn, foldDev]

/-! ### The frames of an allocation that is freed -/

theorem Dev.dropCopies_asks (d : Dev) (a : Alloc) : (d.dropLines a allCores).Asks (d.dropCopies a) := by
  refine (foldDev_asks (fun e k => foldDev_asks (fun f g => f.setHolder_asks k g none) e _) _ _).trans
    (foldDev_asks (fun e k => ?_) _ _)
  split
  · exact .refl e
  next hfree => exact e.dropSharers_asks (Bool.eq_false_iff.2 hfree)

theorem Dev.dropFrames_ledger (d : Dev) (a : Alloc) : (d.dropFrames a).ledger = d.ledger := by
  have h := d.dropCopies_ledger a
  unfold Dev.dropFrames
  generalize d.dropCopies a = e at h ⊢
  exact (Dev.retryHeld_ledger _).trans h

/-- With nothing held, the copies go, their frames leave the tables, and nothing follows. -/
theorem Dev.dropFrames_of_noneHeld {d : Dev} (hn : NoneHeld d) (a : Alloc) :
    (d.dropFrames a).cores = (d.dropLines a allCores).cores ∧
      ∃ t : Tbl Frame, (d.dropFrames a).tiers.frames = t.filter (fun p => !(a.first ≤ p.1 && p.1 < a.first + a.count)) := by
  have hlines : NoneHeld (d.dropLines a allCores) := by
    rwa [NoneHeld, d.dropLines_coh]
  have hcopies := d.dropCopies_asks a
  obtain ⟨e, hretry, hcores, hheld, hred, htxns, hframes⟩ : ∃ e : Dev, d.dropFrames a = e.retryHeld ∧
      e.cores = (d.dropCopies a).cores ∧ e.coh.held = (d.dropCopies a).coh.held ∧ e.coh.redQ = (d.dropCopies a).coh.redQ ∧
      e.coh.txns = (d.dropCopies a).coh.txns ∧ e.tiers.frames =
        (d.dropCopies a).tiers.frames.filter (fun p => !(a.first ≤ p.1 && p.1 < a.first + a.count)) := by
    unfold Dev.dropFrames
    generalize d.dropCopies a = f
    exact ⟨_, rfl, rfl, rfl, rfl, rfl, rfl⟩
  have hquiet : NoneHeld e := (Dev.Asks.of_eq hcores hheld hred htxns).noneHeld (hcopies.noneHeld hlines)
  rw [hretry, Dev.retryHeld_of_noneHeld hquiet]
  exact ⟨hcores.trans hcopies.cores, _, hframes⟩

end Sys2Proof.Machine

/-!
The admin commands on frames, tiers, the Cave and HBM, and the end of background commands (Table 14.8, R332 to R349, R361, R369,
R390, R456): each command's answer on operands in range, its clause, and the obligation.
-/
namespace Sys2Proof.Machine

/-! ### What each command answers (Table 14.8) -/

theorem halfOfNat_b2n (b : Bool) : halfOfNat (b2n b) = halfOf b := by cases b <;> rfl

/-- A change of one allocation. -/
def Tiers.setAlloc (t : Tiers) (i : Nat) (a : Alloc) : Tiers := { t with allocs := tput t.allocs i a }

theorem onAlloc_ok {d : Dev} {i : Nat} {a a' : Alloc} {f : Alloc → Except Status Alloc} (ha : tget d.tiers.allocs i = some a)
    (hlive : a.freeing = false) (hf : f a = .ok a') : onAlloc d i f = ans .ok (d.modTiers (fun t => t.setAlloc i a')) := by
  simp [onAlloc, ha, hlive, hf, Tiers.setAlloc]

section Commands
variable {d : Dev} {c : AdmCmd} (hr : c.rsvd = false)
include hr

theorem frameAlloc_ok {first count id : Nat} {n : Fin 4096} {p : Fin 4} {il hm : Bool} {d0 : Dev}
    (hops : opsAre c [BitVec.ofNat 64 first, BitVec.ofNat 64 count, BitVec.ofNat 64 n.val, BitVec.ofNat 64 p.val,
      BitVec.ofNat 64 (b2n il), BitVec.ofNat 64 (b2n hm)])
    (hpos : 0 < count) (hfit : first + count ≤ 2 ^ 25) (hlive : d.ctxLive n.val = true)
    (hnew : d.tiers.allocs.any (fun a => spans first count a.2) = false)
    (hid : (List.range 65536).find? (fun i => !thas d.tiers.allocs i) = some id)
    (hback : allocFrames count first { policy := policyOf p.val, il := il, home := halfOf hm, ctx := n.val, alloc := id }
      d.trimCave = some d0) :
    ∃ l, frameAlloc d c = { lo := id, dev :=
      ({ d0 with mem := cellsClear d0.mem (first * frameSize) (count * frameSize), poison := l } : Dev).modTiers (fun t =>
        t.setAlloc id
          { first := first, count := count, ctx := n.val, policy := policyOf p.val, il := il, home := halfOf hm }) } := by
  have hn := n.isLt
  have hp := p.isLt
  have hil : b2n il ≤ 1 := by cases il <;> decide
  have hhm : b2n hm ≤ 1 := by cases hm <;> decide
  have hz : admOnly c 6 = true := admOnly_length hops hr
  have hil' : decide (b2n il = 1) = il := by cases il <;> rfl
  have hbusy : d.tiers.allocs.any (fun a => a.2.freeing && spans first count a.2) = false := by
    rw [List.any_eq_false] at hnew ⊢
    exact fun a ha h => hnew a ha (Bool.and_eq_true _ _ ▸ h).2
  unfold frameAlloc
  simp (disch := omega) only [admOp_eq hops, lgetD, BitVec.toNat_ofNat, Nat.mod_eq_of_lt, hil', halfOfNat_b2n]
  rw [if_neg (by simp [hz]; omega), if_neg (by simp [hlive]), if_neg (by simp [hbusy]), if_neg (by simp [hnew])]
  simp only [hid, hback]
  exact ⟨_, rfl⟩

theorem frameFree_ok {i : Fin 65536} {a : Alloc} (hops : opsAre c [BitVec.ofNat 64 i.val])
    (ha : tget d.tiers.allocs i.val = some a) (hlive : a.freeing = false) :
    frameFree d c = (.ok, (d.modTiers (fun t => t.setAlloc i.val { a with freeing := true })).dropFrames a) := by
  have hi := i.isLt
  have hz : admOnly c 1 = true := admOnly_length hops hr
  unfold frameFree
  simp (disch := omega) only [admOp_eq hops, lgetD, BitVec.toNat_ofNat, Nat.mod_eq_of_lt, ha]
  rw [if_neg (by simp [hz]), if_neg (by simp [hlive])]
  rfl

theorem frameAttach_ok {i : Fin 65536} {n : Fin 4096} {a : Alloc} (hops : opsAre c [BitVec.ofNat 64 i.val, BitVec.ofNat 64 n.val])
    (ha : tget d.tiers.allocs i.val = some a) (hlive : a.freeing = false) (hctx : d.ctxLive n.val = true) (hown : n.val ≠ a.ctx)
    (hnew : a.attach.contains n.val = false) :
    frameAttach d c = ans .ok (d.modTiers (fun t => t.setAlloc i.val { a with attach := a.attach ++ [n.val] })) := by
  have hi := i.isLt
  have hn := n.isLt
  have hz : admOnly c 2 = true := admOnly_length hops hr
  unfold frameAttach
  simp (disch := omega) only [admOp_eq hops, lgetD, BitVec.toNat_ofNat, Nat.mod_eq_of_lt]
  rw [if_neg (by simp [hz]; omega), if_neg (by simp [hctx])]
  refine onAlloc_ok ha hlive ?_
  rw [if_neg (by simp only [hnew, Bool.or_false, decide_eq_true_eq]; exact hown.symm)]

theorem frameDetach_ok {i : Fin 65536} {n : Fin 4096} {a : Alloc} (hops : opsAre c [BitVec.ofNat 64 i.val, BitVec.ofNat 64 n.val])
    (ha : tget d.tiers.allocs i.val = some a) (hlive : a.freeing = false) (hold : a.attach.contains n.val = true) :
    frameDetach d c = ans .ok (d.modTiers (fun t => t.setAlloc i.val { a with attach := a.attach.filter (· != n.val) })) := by
  have hi := i.isLt
  have hn := n.isLt
  have hz : admOnly c 2 = true := admOnly_length hops hr
  unfold frameDetach
  simp (disch := omega) only [admOp_eq hops, lgetD, BitVec.toNat_ofNat, Nat.mod_eq_of_lt]
  rw [if_neg (by simp [hz]; omega)]
  exact onAlloc_ok ha hlive (if_pos hold)

theorem framePolicy_ok {i : Fin 65536} {p : Fin 4} {a : Alloc} (hops : opsAre c [BitVec.ofNat 64 i.val, BitVec.ofNat 64 p.val])
    (ha : tget d.tiers.allocs i.val = some a) (hlive : a.freeing = false) :
    framePolicy d c = ans .ok (d.modTiers (fun t => t.setAlloc i.val { a with newPolicy := some (policyOf p.val) })) := by
  have hi := i.isLt
  have hp := p.isLt
  have hz : admOnly c 2 = true := admOnly_length hops hr
  unfold framePolicy
  simp (disch := omega) only [admOp_eq hops, lgetD, BitVec.toNat_ofNat, Nat.mod_eq_of_lt]
  rw [if_neg (by simp [hz]; omega)]
  exact onAlloc_ok ha hlive rfl

theorem frameMove_ok {i : Fin 65536} {p : Fin 4} {b : Word} {a : Alloc}
    (hops : opsAre c [BitVec.ofNat 64 i.val, BitVec.ofNat 64 p.val, b]) (hp : 0 < p.val) (hb : b.toNat < 2 ^ 56)
    (ha : tget d.tiers.allocs i.val = some a) (hlive : a.freeing = false) :
    frameMove d c = (.ok, d.modTiers (fun t =>
      { t with moveJobs := t.moveJobs ++ [(d.host.admHead - 1, i.val, backOf p.val, b)] })) := by
  have hi := i.isLt
  have hp4 := p.isLt
  have hz : admOnly c 3 = true := admOnly_length hops hr
  unfold frameMove
  simp (disch := omega) only [admOp_eq hops, lgetD_ops hops, lgetD, BitVec.toNat_ofNat, Nat.mod_eq_of_lt, admAddr, ha]
  rw [if_neg (by simp [hz]; omega), if_neg (by simp [hlive])]

theorem frameQuery_ok {first count : Nat} {a : Word} (hops : opsAre c [BitVec.ofNat 64 first, BitVec.ofNat 64 count, a])
    (hfit : first + count ≤ 2 ^ 25) (ha : a.toNat < 2 ^ 56) :
    frameQuery d c = ans .ok (d.fwWrite a ((List.range count).flatMap (fun i => d.frameRec (first + i)))) := by
  have hz : admOnly c 3 = true := admOnly_length hops hr
  unfold frameQuery
  simp (disch := omega) only [admOp_eq hops, lgetD_ops hops, lgetD, BitVec.toNat_ofNat, Nat.mod_eq_of_lt, admAddr]
  rw [if_neg (by simp [hz]; omega)]

theorem quotaSet_ok {n : Fin 4096} {p : Fin 4} {q : Nat}
    (hops : opsAre c [BitVec.ofNat 64 n.val, BitVec.ofNat 64 p.val, BitVec.ofNat 64 q]) (hp : 0 < p.val) (hq : q ≤ 2 ^ 25)
    (hlive : d.ctxLive n.val = true) :
    quotaSet d c = ans .ok (d.modCtx n.val (fun x => { x with quota := lset x.quota (p.val - 1) q })) := by
  have hn := n.isLt
  have hp4 := p.isLt
  have hz : admOnly c 3 = true := admOnly_length hops hr
  unfold quotaSet
  simp (disch := omega) only [admOp_eq hops, lgetD, BitVec.toNat_ofNat, Nat.mod_eq_of_lt]
  rw [if_neg (by simp [hz]; omega), if_neg (by simp [hlive])]

theorem tierParams_ok {e p m w b g : Nat}
    (hops : opsAre c [BitVec.ofNat 64 e, BitVec.ofNat 64 p, BitVec.ofNat 64 m, BitVec.ofNat 64 w,
      BitVec.ofNat 64 b, BitVec.ofNat 64 g])
    (he : 1 ≤ e) (he' : e ≤ 1000) (hp : p ≤ 255) (hm : m < p) (hw : 1 ≤ w) (hw' : w ≤ 25) (hb : b ≤ 128)
    (hg : 1 ≤ g) (hg' : g ≤ 16) :
    tierParams d c = ans .ok (d.modTiers (fun t =>
      { t with params := { epoch := e, promote := p, demote := m, watermark := w, migbw := b, staging := g } })) := by
  have hz : admOnly c 6 = true := admOnly_length hops hr
  unfold tierParams
  simp (disch := omega) only [admOp_eq hops, lgetD, BitVec.toNat_ofNat, Nat.mod_eq_of_lt]
  rw [if_neg (by simp [hz, within]; omega)]

theorem caveParams_ok {n : Nat} (hops : opsAre c [BitVec.ofNat 64 n]) (hlo : 7 ≤ n) (hhi : n ≤ 40) :
    caveParams d c = (.ok, d) := by
  have hz : admOnly c 1 = true := admOnly_length hops hr
  unfold caveParams
  simp (disch := omega) only [admOp_eq hops, lgetD, BitVec.toNat_ofNat, Nat.mod_eq_of_lt]
  rw [if_neg (by simp [hz, within]; omega)]

theorem brinePeriod_ok {n : Nat} (hops : opsAre c [BitVec.ofNat 64 n]) (hlo : 1 ≤ n) (hhi : n ≤ 168) :
    brinePeriod d c = ans .ok (d.modHbm (fun h => { h with brineHours := n })) := by
  have hz : admOnly c 1 = true := admOnly_length hops hr
  unfold brinePeriod
  simp (disch := omega) only [admOp_eq hops, lgetD, BitVec.toNat_ofNat, Nat.mod_eq_of_lt]
  rw [if_neg (by simp [hz, within]; omega)]

theorem caveHealth_ok {a : Word} (hops : opsAre c [a]) (ha : a.toNat < 2 ^ 56) :
    caveHealth d c = ans .ok (d.fwWrite a d.caveRec) := by
  have hz : admOnly c 1 = true := admOnly_length hops hr
  unfold caveHealth
  simp only [admOp_eq hops, lgetD_ops hops, lgetD, admAddr]
  rw [if_neg (by simp [hz]; omega)]

theorem cohStats_ok {a : Word} (hops : opsAre c [a]) (ha : a.toNat < 2 ^ 56) :
    cohStats d c = ans .ok (d.fwWrite a (Config.cohStats d.coh.backInv.w d.coh.backInv.e)) := by
  have hz : admOnly c 1 = true := admOnly_length hops hr
  unfold cohStats
  simp only [admOp_eq hops, lgetD_ops hops, lgetD, admAddr]
  rw [if_neg (by simp [hz]; omega)]

theorem hbmMargin_eq {f : Fin 2} {k : Fin 6} {v : Bool} {a : Word}
    (hops : opsAre c [BitVec.ofNat 64 f.val, BitVec.ofNat 64 k.val, BitVec.ofNat 64 (b2n v), a]) (ha : a.toNat < 2 ^ 56) :
    hbmMargin d c = startMargin d (some (d.host.admHead - 1)) (halfOfNat f.val) k v a := by
  have hf := f.isLt
  have hk := k.isLt
  have hv : b2n v ≤ 1 := by cases v <;> decide
  have hv' : decide (b2n v = 1) = v := by cases v <;> rfl
  have hk' : Fin.ofNat 6 k.val = k := Fin.ext (Nat.mod_eq_of_lt hk)
  have hz : admOnly c 4 = true := admOnly_length hops hr
  unfold hbmMargin
  simp (disch := omega) only [admOp_eq hops, lgetD_ops hops, lgetD, BitVec.toNat_ofNat, Nat.mod_eq_of_lt, admAddr, hv', hk']
  rw [if_neg (by simp [hz]; omega)]

end Commands

/-! ### The commands' clauses (Table 14.8) -/

section Fetched
variable {s : State} {c : AdmCmd} {i : Instr} (hopen : s.dev.adminOpen = true)
include hopen

/-- A background command that is refused is reported at once. -/
theorem exec_adminBg_refused {f : Dev → Status × Dev} {b : Background} (hi : exec i s = onDev s (fun d => d.adminBg c f b))
    {st : Status} (hf : f s.dev.fetched = (st, s.dev.fetched)) (hst : st ≠ .ok) :
    ∃ d, exec i s = .next { s with dev := d } ∧ AdmDone s.dev d c st 0 0 ∧ { d with host := s.dev.host } = s.dev ∧
      { d.host with admHead := s.dev.host.admHead, evtQ := s.dev.host.evtQ } = s.dev.host := by
  have hadm : s.dev.adminBg c f b = s.dev.fetched.adminDone c.cid s.dev.host.admHead st 0 0 := by
    have hf' := hf
    rw [Dev.fetched] at hf'
    simp only [Dev.adminBg, if_pos hopen, hf']
    cases st with
    | ok => exact absurd rfl hst
    | _ => rfl
  rw [hi, onDev_eq, hadm, Dev.adminDone_eq]
  exact ⟨_, rfl, ⟨rfl, _, List.getLast?_concat, rfl, rfl, rfl, rfl, rfl⟩, rfl, rfl⟩

/-- A command that changes the tier tables changes nothing else beside the admin ring. -/
theorem exec_admin_tiers {f : Dev → AdmRes} (hi : exec i s = onDev s (fun d => d.admin c f)) {g : Tiers → Tiers}
    (hf : f s.dev.fetched = ans .ok (s.dev.fetched.modTiers g)) :
    ∃ d, exec i s = .next { s with dev := d } ∧ AdmDone s.dev d c .ok 0 0 ∧
      { d with host := s.dev.host, tiers := s.dev.tiers } = s.dev ∧ d.tiers = g s.dev.tiers := by
  obtain ⟨q, hexec, hdone⟩ := exec_admin hopen hi hf rfl
  refine ⟨_, hexec, hdone, ?_, rfl⟩
  simp only [Dev.modTiers, Dev.modHost, Dev.fetched]

/-- A command that writes a record to a host buffer does nothing else. -/
theorem exec_admin_record {f : Dev → AdmRes} (hi : exec i s = onDev s (fun d => d.admin c f)) {a : Word} {k : Nat}
    {bs : List Byte} (htgt : s.dev.target true a.toNat = .host k) (hf : f s.dev.fetched = ans .ok (s.dev.fetched.fwWrite a bs)) :
    ∃ d, exec i s = .next { s with dev := d } ∧ AdmDone s.dev d c .ok 0 0 ∧ d.out = s.dev.out ++ [.hostWrite k bs none] ∧
      { d with host := s.dev.host, out := s.dev.out } = s.dev := by
  rw [Dev.fwWrite_host (show s.dev.fetched.target true a.toNat = .host k from htgt)] at hf
  obtain ⟨q, hexec, hdone⟩ := exec_admin hopen hi hf rfl
  refine ⟨_, hexec, hdone, rfl, ?_⟩
  simp only [Dev.emit, Dev.modHost, Dev.fetched]

end Fetched

theorem startMargin_granted {d : Dev} {h : Half} {k : Fin 6} (hright : d.grants 5 = true)
    (husable : bit (Two.get d.hbm.half h).usable.toNat k.val = true) (hnone : d.hbm.margin = none) (slot : Option (BitVec 16))
    (v : Bool) (a : Word) : startMargin d slot h k v a = (.ok, d.modHbm (fun x =>
      { x with
        margin := some
          { slot := slot, half := h, stack := k, volt := v, buf := a
            point := marginLo v, held := d.power.pstate == .working } })) := by
  simp [startMargin, hright, husable, hnone]

theorem startMargin_forbidden {d : Dev} (hright : d.grants 5 = false) (slot : Option (BitVec 16)) (h : Half) (k : Fin 6)
    (v : Bool) (a : Word) : startMargin d slot h k v a = (.forbidden, d) := by
  simp [startMargin, hright]

section Clauses
variable {s : State} {c : AdmCmd} (hopen : s.dev.adminOpen = true) (hr : c.rsvd = false)
include hopen hr

/-- R334, R335: the frames are backed, their bytes are zero, and nothing else changes but the poison and Cave tables. -/
theorem exec_frameAlloc {first count id : Nat} {n : Fin 4096} {p : Fin 4} {il hm : Bool} {d0 : Dev}
    (hops : opsAre c [BitVec.ofNat 64 first, BitVec.ofNat 64 count, BitVec.ofNat 64 n.val, BitVec.ofNat 64 p.val,
      BitVec.ofNat 64 (b2n il), BitVec.ofNat 64 (b2n hm)])
    (hpos : 0 < count) (hfit : first + count ≤ 2 ^ 25) (hlive : s.dev.ctxLive n.val = true)
    (hnew : s.dev.tiers.allocs.any (fun a => spans first count a.2) = false)
    (hid : (List.range 65536).find? (fun i => !thas s.dev.tiers.allocs i) = some id)
    (hback : allocFrames count first { policy := policyOf p.val, il := il, home := halfOf hm, ctx := n.val, alloc := id }
      s.dev.trimCave = some d0) (hsafe : s.Safe) :
    ∃ d, exec (.frameAlloc c) s = .next { s with dev := d } ∧ AdmDone s.dev d c .ok id 0 ∧
      tget d.tiers.allocs id = some
        { first := first, count := count, ctx := n.val, policy := policyOf p.val, il := il, home := halfOf hm } ∧
      d.tiers.frames = d0.tiers.frames ∧
      (∀ a, first * frameSize ≤ a → a < (first + count) * frameSize → cellGet d.mem a = 0) ∧
      SameBytesBut (first * frameSize) (count * frameSize) s.dev d ∧
      { d with
        host := s.dev.host, tiers := s.dev.tiers, mem := s.dev.mem, poison := s.dev.poison
        cave := s.dev.cave } = s.dev := by
  obtain ⟨t, rfl, -⟩ := allocFrames_only hback
  have hback' := allocFrames_fetched count first
    { policy := policyOf p.val, il := il, home := halfOf hm, ctx := n.val, alloc := id } s.dev.trimCave
  rw [hback] at hback'
  obtain ⟨l, hans⟩ := frameAlloc_ok (d := s.dev.fetched) hr hops hpos hfit hlive hnew hid hback'
  obtain ⟨q, hexec, hdone⟩ := exec_admin_result (i := .frameAlloc c) hopen rfl hans rfl
  refine ⟨_, hexec, hdone, tget_tput_self _ _ _, rfl, fun a hlo hhi => ?_, fun a ha => ?_, rfl⟩
  · exact cellGet_cellsClear_in hlo (by rwa [← Nat.add_mul])
  · exact cellGet_cellsClear_out hsafe ha

/-- R336: the allocation is being freed, its frames are free, and no core keeps a stable line of it. -/
theorem exec_frameFree {i : Fin 65536} {a : Alloc} (ha : tget s.dev.tiers.allocs i.val = some a) (hlive : a.freeing = false)
    (hops : opsAre c [BitVec.ofNat 64 i.val]) :
    ∃ d, exec (.frameFree c) s = .next { s with dev := d } ∧ AdmTaken s.dev d c (.frameFree i.val) ∧
      tget d.tiers.allocs i.val = some { a with freeing := true } ∧
      (NoneHeld s.dev → ∀ f, a.first ≤ f → f < a.first + a.count → tget d.tiers.frames f = none) ∧
      (NoneHeld s.dev → ∀ (g : Fin 64) l x, a.has l = true → tget (s.dev.core g).lines l = some x → stable x.st = true →
        tget (d.core g).lines l = none) := by
  have hi := i.isLt
  have hbg : exec (.frameFree c) s = onDev s (fun d => d.adminBg c (fun d => frameFree d c) (.frameFree i.val)) := by
    rw [← admOp_zero hops (by omega)]
    rfl
  generalize he : s.dev.fetched.modTiers (fun t => t.setAlloc i.val { a with freeing := true }) = e
  have hans : frameFree s.dev.fetched c = (.ok, e.dropFrames a) := he ▸ frameFree_ok (d := s.dev.fetched) hr hops ha hlive
  have hhead : (e.dropFrames a).host.admHead = s.dev.host.admHead + 1 :=
    (Dev.admHead_of_ledger (e.dropFrames_ledger a)).trans (he ▸ rfl)
  have hallocs : (e.dropFrames a).tiers.allocs = tput s.dev.tiers.allocs i.val { a with freeing := true } :=
    (Dev.allocs_of_ledger (e.dropFrames_ledger a)).trans (he ▸ rfl)
  have hheld (hn : NoneHeld s.dev) : NoneHeld e := he ▸ hn
  have hcore (g : Fin 64) : e.core g = s.dev.core g := he ▸ rfl
  have hfree (hn : NoneHeld s.dev) (f : Nat) (hlo : a.first ≤ f) (hhi : f < a.first + a.count) :
      tget (e.dropFrames a).tiers.frames f = none := by
    obtain ⟨-, u, hframes⟩ := Dev.dropFrames_of_noneHeld (hheld hn) a
    rw [hframes]
    exact (tget_filter (fun k => !(decide (a.first ≤ k) && decide (k < a.first + a.count))) u f).trans
      (if_neg (by simp [hlo, hhi]))
  have hlines (hn : NoneHeld s.dev) (g : Fin 64) (l : Nat) (x : CLine) (hl : a.has l = true)
      (hx : tget (s.dev.core g).lines l = some x) (hst : stable x.st = true) :
      tget ((e.dropFrames a).core g).lines l = none := by
    obtain ⟨hcores, -⟩ := Dev.dropFrames_of_noneHeld (hheld hn) a
    have hset : (e.core g).Settled l := fun y hy => by
      rw [hcore, hx] at hy
      exact Option.some.inj hy ▸ hst
    rw [Dev.core_of_cores hcores]
    exact Dev.dropLines_lacks hl allCores hset (.inl (List.mem_finRange g))
  generalize e.dropFrames a = d at *
  obtain ⟨t, hexec, htaken⟩ := exec_adminBg hopen hbg hans hhead
  exact ⟨_, hexec, htaken, (congrArg (tget · i.val) hallocs).trans (tget_tput_self _ _ _), hfree, hlines⟩

/-- R349: a move waits in its slot of the admin ring, among the tiers' jobs. -/
theorem exec_frameMove {i : Fin 65536} {p : Fin 4} {b : Word} {a : Alloc} (hp : 0 < p.val) (hb : b.toNat < 2 ^ 56)
    (hops : opsAre c [BitVec.ofNat 64 i.val, BitVec.ofNat 64 p.val, b]) (ha : tget s.dev.tiers.allocs i.val = some a)
    (hlive : a.freeing = false) :
    ∃ d, exec (.frameMove c) s = .next { s with dev := d } ∧ AdmTaken s.dev d c (.frameMove i.val (backOf p.val) b) ∧
      { d with host := s.dev.host, tiers := s.dev.tiers } = s.dev ∧
      d.tiers = { s.dev.tiers with moveJobs := s.dev.tiers.moveJobs ++ [(s.dev.host.admHead, i.val, backOf p.val, b)] } := by
  have hi := i.isLt
  have hp4 := p.isLt
  have hbg : exec (.frameMove c) s =
      onDev s (fun d => d.adminBg c (fun d => frameMove d c) (.frameMove i.val (backOf p.val) b)) := by
    have h0 : admOp c 0 = i.val := admOp_zero hops (by omega)
    have h1 : admOp c 1 = p.val := (admOp_eq hops 1).trans (Nat.mod_eq_of_lt (by omega))
    have h2 : lgetD c.ops 2 0 = b := lgetD_ops hops 2
    rw [← h0, ← h1, ← h2]
    rfl
  have hslot : s.dev.fetched.host.admHead - 1 = s.dev.host.admHead := add_sub_cancel_right _ _
  have hans := frameMove_ok (d := s.dev.fetched) hr hops hp hb ha hlive
  rw [hslot] at hans
  obtain ⟨t, hexec, htaken⟩ := exec_adminBg hopen hbg hans rfl
  refine ⟨_, hexec, htaken, ?_, rfl⟩
  simp only [Dev.modTiers, Dev.modHost, Dev.fetched]

theorem exec_caveParams {n : Nat} (hlo : 7 ≤ n) (hhi : n ≤ 40) (hops : opsAre c [BitVec.ofNat 64 n]) :
    ∃ d, exec (.caveParams c) s = .next { s with dev := d } ∧ AdmTaken s.dev d c (.caveParams n) ∧
      { d with host := s.dev.host } = s.dev := by
  have hbg : exec (.caveParams c) s = onDev s (fun d => d.adminBg c (fun d => caveParams d c) (.caveParams n)) := by
    rw [← admOp_zero hops (by omega)]
    rfl
  obtain ⟨t, hexec, htaken⟩ := exec_adminBg hopen hbg (caveParams_ok hr hops hlo hhi) rfl
  exact ⟨_, hexec, htaken, rfl⟩

theorem exec_brinePeriod {n : Nat} (hlo : 1 ≤ n) (hhi : n ≤ 168) (hops : opsAre c [BitVec.ofNat 64 n]) :
    ∃ d, exec (.brinePeriod c) s = .next { s with dev := d } ∧ AdmDone s.dev d c .ok 0 0 ∧
      d.hbm = { s.dev.hbm with brineHours := n } ∧ { d with host := s.dev.host, hbm := s.dev.hbm } = s.dev := by
  obtain ⟨q, hexec, hdone⟩ := exec_admin (i := .brinePeriod c) hopen rfl
    (brinePeriod_ok (d := s.dev.fetched) hr hops hlo hhi) rfl
  refine ⟨_, hexec, hdone, rfl, ?_⟩
  simp only [Dev.modHbm, Dev.modHost, Dev.fetched]

section Margin
variable {f : Fin 2} {k : Fin 6} {v : Bool} {a : Word}
  (hops : opsAre c [BitVec.ofNat 64 f.val, BitVec.ofNat 64 k.val, BitVec.ofNat 64 (b2n v), a]) (ha : a.toNat < 2 ^ 56)
include hops ha

/-- R390: a sweep begins at its first point and holds the power state for the whole run. -/
theorem exec_hbmMargin_granted (hright : s.dev.grants 5 = true)
    (husable : bit (Two.get s.dev.hbm.half (halfOfNat f.val)).usable.toNat k.val = true) (hnone : s.dev.hbm.margin = none) :
    ∃ d, exec (.hbmMargin c) s = .next { s with dev := d } ∧ AdmTaken s.dev d c .margin ∧
      { d with host := s.dev.host, hbm := s.dev.hbm } = s.dev ∧
      d.hbm = { s.dev.hbm with
        margin := some
          { slot := some s.dev.host.admHead, half := halfOfNat f.val, stack := k, volt := v, buf := a
            point := marginLo v, held := s.dev.power.pstate == .working } } := by
  have hslot : s.dev.fetched.host.admHead - 1 = s.dev.host.admHead := add_sub_cancel_right _ _
  have hans := hbmMargin_eq (d := s.dev.fetched) hr hops ha
  rw [hslot, startMargin_granted (d := s.dev.fetched) hright husable hnone] at hans
  obtain ⟨t, hexec, htaken⟩ := exec_adminBg (i := .hbmMargin c) hopen rfl hans rfl
  refine ⟨_, hexec, htaken, ?_, rfl⟩
  simp only [Dev.modHbm, Dev.modHost, Dev.fetched]

theorem exec_hbmMargin_forbidden (hright : s.dev.grants 5 = false) :
    ∃ d, exec (.hbmMargin c) s = .next { s with dev := d } ∧ AdmDone s.dev d c .forbidden 0 0 ∧
      { d with host := s.dev.host } = s.dev ∧
      { d.host with admHead := s.dev.host.admHead, evtQ := s.dev.host.evtQ } = s.dev.host := by
  have hans := hbmMargin_eq (d := s.dev.fetched) hr hops ha
  rw [startMargin_forbidden (d := s.dev.fetched) hright] at hans
  exact exec_adminBg_refused (i := .hbmMargin c) hopen rfl hans nofun

end Margin
end Clauses

/-! ### The end of a background command (R456) -/

theorem Dev.bgEnd_bg {d e : Dev} {n r : Nat} {b : Background} (h : d.bgEnd n b = some (r, e)) : e.host.bg = d.host.bg := by
  cases b with
  | chainLeave =>
    unfold Dev.bgEnd at h
    dsimp only at h
    split at h
    · cases h; rfl
    · split at h
      · cases h; exact Dev.bg_of_ledger d.leaveEnd_ledger
      · cases h
  | frameMove i dst buf =>
    unfold Dev.bgEnd at h
    dsimp only at h
    split at h
    · cases h
      exact Dev.bg_of_ledger ((Dev.fwWrite_ledger _ _ _).trans (Dev.modTiers_ledger d rfl))
    · cases h
  | _ =>
    unfold Dev.bgEnd at h
    dsimp only at h
    repeat' split at h
    all_goals
      cases h
      try rfl

theorem Dev.bgDone_eq {d : Dev} {slot cid : BitVec 16} {b : Background} (hb : tget d.host.bg slot.toNat = some (cid, b))
    (st : Status) (r : Nat) : d.bgDone slot.toNat st r = d.modHost (fun t => { t with bg := tdel t.bg slot.toNat, evtQ :=
      t.evtQ ++ [{ evt 1 st .hub (cid.toNat + 65536 * slot.toNat) r 0 with t := d.hubCount }] }) := by
  unfold Dev.bgDone
  simp only [hb, BitVec.ofNat_toNat, BitVec.setWidth_eq, Dev.adminDone_eq]
  rfl

theorem adminComplete_of_bgEnd {d e : Dev} {slot cid : BitVec 16} {b : Background} {r : Nat}
    (hb : tget d.host.bg slot.toNat = some (cid, b)) (hcold : b ≠ .powerCold) (hret : ∀ m, b ≠ .secReturn m)
    (hend : d.bgEnd slot.toNat b = some (r, e)) : adminComplete d slot = e.bgDone slot.toNat .ok r := by
  unfold adminComplete
  cases b with
  | powerCold => exact absurd rfl hcold
  | secReturn m => exact absurd rfl (hret m)
  | _ => simp only [hb, hend]

/-- The slot is free, and the last event of `d'` reports its command done with no result. -/
def BgEnded (d d' : Dev) (slot cid : BitVec 16) : Prop :=
  tget d'.host.bg slot.toNat = none ∧ ∃ e, d'.host.evtQ = d.host.evtQ ++ [e] ∧ e.kind = 1 ∧ e.status = .ok ∧
    e.info = BitVec.ofNat 32 (cid.toNat + 65536 * slot.toNat) ∧ e.a0 = 0

theorem exec_adminCommandComplete_eq (s : State) (slot : BitVec 16) :
    exec (.adminCommandComplete slot) s = .next { s with dev := adminComplete s.dev slot } := by rfl

section Complete
variable {s : State} {slot cid : BitVec 16}

/-- A background command with nothing left to do gives up its slot and is reported ADMIN_DONE with its result. -/
theorem exec_adminCommandComplete {b : Background} {r : Nat} {e : Dev} (hb : tget s.dev.host.bg slot.toNat = some (cid, b))
    (hcold : b ≠ .powerCold) (hret : ∀ m, b ≠ .secReturn m) (hend : s.dev.bgEnd slot.toNat b = some (r, e)) :
    ∃ d x, exec (.adminCommandComplete slot) s = .next { s with dev := d } ∧ tget d.host.bg slot.toNat = none ∧
      d = e.modHost (fun t => { t with bg := tdel t.bg slot.toNat, evtQ := t.evtQ ++ [x] }) ∧ x.kind = 1 ∧ x.status = .ok ∧
      x.info = BitVec.ofNat 32 (cid.toNat + 65536 * slot.toNat) ∧ x.a0 = BitVec.ofNat 64 r := by
  have hexec := exec_adminCommandComplete_eq s slot
  have he : tget e.host.bg slot.toNat = some (cid, b) := by rw [Dev.bgEnd_bg hend, hb]
  rw [adminComplete_of_bgEnd hb hcold hret hend, Dev.bgDone_eq he] at hexec
  exact ⟨_, _, hexec, tget_tdel_self _ _, rfl, rfl, rfl, rfl, rfl⟩

theorem exec_adminCommandComplete_caveParams {n : Nat} (hb : tget s.dev.host.bg slot.toNat = some (cid, .caveParams n)) :
    ∃ d, exec (.adminCommandComplete slot) s = .next { s with dev := d } ∧ BgEnded s.dev d slot cid ∧
      d.cave = { s.dev.cave with op := n } ∧ { d with host := s.dev.host, cave := s.dev.cave } = s.dev := by
  obtain ⟨d, x, hexec, hnone, rfl, hx⟩ := exec_adminCommandComplete hb nofun nofun rfl
  exact ⟨_, hexec, ⟨hnone, x, rfl, hx⟩, rfl, rfl⟩

theorem exec_adminCommandComplete_ringDestroy {r : Nat} (hb : tget s.dev.host.bg slot.toNat = some (cid, .ringDestroy r))
    (hquiet : s.dev.sched.steps.any (fun p => p.2.ring == r) = false) :
    ∃ d, exec (.adminCommandComplete slot) s = .next { s with dev := d } ∧ BgEnded s.dev d slot cid ∧
      tget d.host.rings r = none ∧ { d with host := s.dev.host } = s.dev := by
  have hend : s.dev.bgEnd slot.toNat (.ringDestroy r) = some (0, s.dev.modHost (fun h => { h with rings := tdel h.rings r })) :=
    if_neg (by simp [hquiet])
  obtain ⟨d, x, hexec, hnone, rfl, hx⟩ := exec_adminCommandComplete hb nofun nofun hend
  exact ⟨_, hexec, ⟨hnone, x, rfl, hx⟩, tget_tdel_self _ _, rfl⟩

theorem exec_adminCommandComplete_invalidate {n : Nat} (hb : tget s.dev.host.bg slot.toNat = some (cid, .invalidate n))
    (hquiet : s.dev.usesLeft n = false) :
    ∃ d, exec (.adminCommandComplete slot) s = .next { s with dev := d } ∧ BgEnded s.dev d slot cid ∧
      d.host.admBusy = false ∧ { d with host := s.dev.host } = s.dev := by
  have hend : s.dev.bgEnd slot.toNat (.invalidate n) = some (0, s.dev.modHost (fun h => { h with admBusy := false })) :=
    if_neg (by simp [hquiet])
  obtain ⟨d, x, hexec, hnone, rfl, hx⟩ := exec_adminCommandComplete hb nofun nofun hend
  exact ⟨_, hexec, ⟨hnone, x, rfl, hx⟩, rfl, rfl⟩

theorem Dev.goCold_pstate (d : Dev) : d.goCold.power.pstate = .cold := by
  rw [Dev.goCold, Dev.cold]
  rfl

theorem exec_adminCommandComplete_powerCold (hb : tget s.dev.host.bg slot.toNat = some (cid, .powerCold))
    (hout : s.dev.chain.joined = false) :
    ∃ d, exec (.adminCommandComplete slot) s = .next { s with dev := d } ∧ d.power.pstate = .cold := by
  have hcold : adminComplete s.dev slot = (s.dev.bgDone slot.toNat .ok 0).goCold := by
    simp [adminComplete, hb, hout]
  exact ⟨_, exec_adminCommandComplete_eq s slot, hcold ▸ Dev.goCold_pstate _⟩

theorem exec_adminCommandComplete_none (hb : tget s.dev.host.bg slot.toNat = none) :
    exec (.adminCommandComplete slot) s = .next s := by
  have hsame : adminComplete s.dev slot = s.dev := by simp [adminComplete, hb]
  rw [exec_adminCommandComplete_eq, hsame]

end Complete

/-! ### The obligation -/

/-- Settles O54: each command's answer on operands in range gives its clause, and a background command's end gives the rest. The
layout of the COH_STATS record is the configuration's (log 43). -/
theorem adminCommandsOnMemoryComplete : Obligations.AdminCommandsOnMemoryComplete := by
  intro s
  refine ⟨fun c hopen hr => ⟨?alloc, fun i a ha hlive => ⟨?free, fun n hops => ⟨?attach, ?detach⟩, ?policy, ?move⟩,
    ?query, ?quota, ?tiers, ?cave, ?brine, fun a k hops ha htgt => ⟨?health, ?coh⟩,
    fun f k v a hops ha => ⟨?granted, ?forbidden⟩⟩,
    fun slot cid => ⟨?caveEnd, ?ringEnd, ?invEnd, ?ended, ?coldEnd, ?noneEnd⟩⟩
  case alloc =>
    intro first count n p il hm id d0 hops hpos hfit hlive hnew hid hback hsafe
    exact exec_frameAlloc hopen hr hops hpos hfit hlive hnew hid hback hsafe
  case free => exact exec_frameFree hopen hr ha hlive
  case attach =>
    intro hctx hown hnew
    exact exec_admin_tiers (i := .frameAttach c) hopen rfl (frameAttach_ok (d := s.dev.fetched) hr hops ha hlive hctx hown hnew)
  case detach =>
    intro hold
    exact exec_admin_tiers (i := .frameDetach c) hopen rfl (frameDetach_ok (d := s.dev.fetched) hr hops ha hlive hold)
  case policy =>
    intro p hops
    exact exec_admin_tiers (i := .framePolicy c) hopen rfl (framePolicy_ok (d := s.dev.fetched) hr hops ha hlive)
  case move =>
    intro p b hp hb hops
    exact exec_frameMove hopen hr hp hb hops ha hlive
  case query =>
    intro first count a k hops hfit ha htgt
    exact exec_admin_record (i := .frameQuery c) hopen rfl htgt (frameQuery_ok (d := s.dev.fetched) hr hops hfit ha)
  case quota =>
    intro n p q x hp hq hops hx hlive
    exact exec_admin_ctx (i := .quotaSet c) hopen rfl hx
      (quotaSet_ok (d := s.dev.fetched) hr hops hp hq (Dev.ctxLive_of_ctx? hx hlive))
  case tiers =>
    intro e p m w b g hops he he' hp hm hw hw' hb hg hg'
    exact exec_admin_tiers (i := .tierParams c) hopen rfl
      (tierParams_ok (d := s.dev.fetched) hr hops he he' hp hm hw hw' hb hg hg')
  case cave =>
    intro n hlo hhi hops
    exact exec_caveParams hopen hr hlo hhi hops
  case brine =>
    intro n hlo hhi hops
    exact exec_brinePeriod hopen hr hlo hhi hops
  case health => exact exec_admin_record (i := .caveHealth c) hopen rfl htgt (caveHealth_ok (d := s.dev.fetched) hr hops ha)
  case coh => exact exec_admin_record (i := .cohStats c) hopen rfl htgt (cohStats_ok (d := s.dev.fetched) hr hops ha)
  case granted => exact exec_hbmMargin_granted hopen hr hops ha
  case forbidden => exact exec_hbmMargin_forbidden hopen hr hops ha
  case caveEnd => exact fun n hb => exec_adminCommandComplete_caveParams hb
  case ringEnd => exact fun r hb hquiet => exec_adminCommandComplete_ringDestroy hb hquiet
  case invEnd => exact fun n hb hquiet => exec_adminCommandComplete_invalidate hb hquiet
  case ended => exact fun b r e hb hcold hret hend => exec_adminCommandComplete hb hcold hret hend
  case coldEnd => exact exec_adminCommandComplete_powerCold
  case noneEnd => exact exec_adminCommandComplete_none

end Sys2Proof.Machine

/-!
The event ring, the admin ring's controls and Function Level Reset (chapters 14 and 20). An instruction of the Hub is a function
of the package, so each clause is the equation of that function on operands in range; what an instruction leaves as it was follows
from the shape of its answer.
-/
namespace Sys2Proof.Machine

/-- An instruction that is a function of the package answers what the function makes of it. -/
theorem exec_onDev {i : Instr} {s : State} {f : Dev → Dev} {d : Dev} (hi : exec i s = onDev s f) (h : f s.dev = d) :
    exec i s = .next { s with dev := d } := by
  rw [hi, onDev_eq, h]

/-! ### Events and interrupts (R459 to R462) -/

/-- An event reaches the queue of events or its counters, and nothing else. -/
theorem Dev.raise_eq (d : Dev) (e : Event) :
    ∃ q n k, d.raise e = d.modHost (fun h => { h with evtQ := q, evtDrop := n, evtLost := k }) := by
  unfold Dev.raise
  by_cases hheld : (d.host.canHold || e.kind = 1) = true
  · exact ⟨d.host.evtQ ++ [{ e with t := d.dieCount e.die }], d.host.evtDrop, d.host.evtLost,
      by simp only [Dev.modHost, if_pos hheld]⟩
  · exact ⟨d.host.evtQ, sat32 (d.host.evtDrop + 1), d.host.evtLost + 1, by simp only [Dev.modHost, if_neg hheld]⟩

/-- The MSI-X entry that a binding with bit 0 clear names (R461). -/
def Dev.vectorOf (d : Dev) (b : Word) : Msix := tgetD d.host.msix (fld b.toNat 1 11) {}

/-- R461: a binding with bit 0 clear names an MSI-X vector, which is sent, or is pending while masked. -/
theorem Dev.signal_vector (d : Dev) {b : Word} (hb : b.getLsbD 0 = false) :
    d.signal b =
      if (d.vectorOf b).mask then
        d.modHost (fun h => { h with msix := tput h.msix (fld b.toNat 1 11) { d.vectorOf b with pending := true } })
      else d.emit (.msix (fld b.toNat 1 11) (d.vectorOf b).addr (d.vectorOf b).data) := by
  simp only [Dev.signal, bit_toNat, hb, Bool.not_false, if_true]
  rfl

/-- R461, R242: with no write of firmware under way, a record's signal through a vector leaves at once, or marks the masked
vector. -/
theorem Dev.fwSignal_now (d : Dev) {b : Word} (hb : b.getLsbD 0 = false)
    (hw : d.writes.any (fun w => w.src == .firmware) = false) :
    ∃ x, d.fwSignal b = { d with host := { d.host with msix := x }, out := d.out ++
        if (d.vectorOf b).mask then [] else [.msix (fld b.toNat 1 11) (d.vectorOf b).addr (d.vectorOf b).data] } ∧
      ((d.vectorOf b).mask = true → tget x (fld b.toNat 1 11) = some { d.vectorOf b with pending := true }) := by
  rw [Dev.fwSignal, if_neg (by simp [hw]), d.signal_vector hb]
  split
  · exact ⟨_, by rw [List.append_nil]; rfl, fun _ => tget_tput_self _ _ _⟩
  next hmask => exact ⟨_, rfl, fun h => absurd h hmask⟩

/-- R242: the signal waits for the writes of firmware under way. -/
theorem Dev.fwSignal_later (d : Dev) (b : Word) (hw : d.writes.any (fun w => w.src == .firmware) = true) :
    d.fwSignal b = d.modHost (fun h => { h with irqs := h.irqs ++ [b] }) := by
  simp only [Dev.fwSignal, hw, if_true]

/-! ### The event ring (R459, R460, R585) -/

/-- R459: with records dropped, the queue gains one OVERFLOW record that counts them. -/
theorem eventPost_lost {d : Dev} (hroom : d.host.evtRoom ≠ 0) (hlost : d.host.evtLost ≠ 0) :
    ∃ o : Event, o.kind = 16 ∧ o.info = BitVec.ofNat 32 d.host.evtLost ∧
      eventPost d = eventPost (d.modHost (fun h => { h with evtQ := h.evtQ ++ [o], evtLost := 0 })) := by
  refine ⟨{ evt 16 .ok .hub d.host.evtLost 0 0 with t := d.hubCount }, rfl, rfl, ?_⟩
  have hroom' : ∀ q n, ({ d.host with evtQ := q, evtLost := n } : HostIf).evtRoom ≠ 0 := fun _ _ => hroom
  simp only [eventPost, if_neg hroom, if_neg hlost, Dev.modHost_host, if_neg (hroom' _ _), if_true]

/-- R460: the first held record is written at the tail with its phase, and its binding is signalled. -/
theorem eventPost_write {d : Dev} {e : Event} {t : List Event} {a : Nat} (hroom : d.host.evtRoom ≠ 0)
    (hlost : d.host.evtLost = 0) (hq : d.host.evtQ = e :: t)
    (ha : d.target true (d.host.evt.base + BitVec.ofNat 64 (32 * (d.host.evtTail.toNat % 2 ^ d.host.evt.log2))).toNat = .host a)
    (hbind : d.host.evtBind.getLsbD 0 = false) (hw : d.writes.any (fun w => w.src == .firmware) = false) :
    ∃ x, eventPost d = { d with
      host := { d.host with evtQ := t, evtTail := d.host.evtTail + 1, msix := x }
      out := d.out ++ [.hostWrite a (eventBytes e (d.host.evtTail.toNat / 2 ^ d.host.evt.log2 % 2 == 0)) none] ++
        if (d.vectorOf d.host.evtBind).mask then [] else [.msix (fld d.host.evtBind.toNat 1 11)
          (d.vectorOf d.host.evtBind).addr (d.vectorOf d.host.evtBind).data] } := by
  simp only [eventPost, if_neg hroom, if_pos hlost, hq, Dev.fwWrite_host ha]
  obtain ⟨x, hsignal, -⟩ := Dev.fwSignal_now (Dev.modHost (Dev.emit d _) _) hbind hw
  exact ⟨x, hsignal⟩

/-- R459, R460: the first record of an event ring with room is posted, and once drops have been told of none is counted. -/
theorem exec_eventRecordPost {s : State} {e : Event} {t : List Event} {a : Nat} (hroom : s.dev.host.evtRoom ≠ 0)
    (hq : s.dev.host.evtQ = e :: t)
    (ha : s.dev.target true
      (s.dev.host.evt.base + BitVec.ofNat 64 (32 * (s.dev.host.evtTail.toNat % 2 ^ s.dev.host.evt.log2))).toNat = .host a)
    (hbind : s.dev.host.evtBind.getLsbD 0 = false) (hw : s.dev.writes.any (fun w => w.src == .firmware) = false) :
    ∃ d, exec .eventRecordPost s = .next { s with dev := d } ∧ d.host.evtTail = s.dev.host.evtTail + 1 ∧
      d.out = s.dev.out ++
        [.hostWrite a (eventBytes e (s.dev.host.evtTail.toNat / 2 ^ s.dev.host.evt.log2 % 2 == 0)) none] ++
        (if (s.dev.vectorOf s.dev.host.evtBind).mask then [] else [.msix (fld s.dev.host.evtBind.toNat 1 11)
          (s.dev.vectorOf s.dev.host.evtBind).addr (s.dev.vectorOf s.dev.host.evtBind).data]) ∧
      (s.dev.host.evtLost = 0 → d.host.evtQ = t) ∧ d.host.evtLost = 0 ∧
      (s.dev.host.evtLost ≠ 0 →
        ∃ o, d.host.evtQ = t ++ [o] ∧ o.kind = 16 ∧ o.info = BitVec.ofNat 32 s.dev.host.evtLost) ∧
      { d with out := s.dev.out, host := s.dev.host } = s.dev := by
  refine ⟨eventPost s.dev, rfl, ?_⟩
  by_cases hlost : s.dev.host.evtLost = 0
  · obtain ⟨x, hpost⟩ := eventPost_write hroom hlost hq ha hbind hw
    rw [hpost]
    exact ⟨rfl, rfl, fun _ => rfl, hlost, absurd hlost, rfl⟩
  · obtain ⟨o, hkind, hinfo, htold⟩ := eventPost_lost hroom hlost
    obtain ⟨x, hpost⟩ := eventPost_write (t := t ++ [o])
      (d := s.dev.modHost (fun h => { h with evtQ := h.evtQ ++ [o], evtLost := 0 })) hroom rfl
      (by rw [Dev.modHost_host, hq]; rfl) ha hbind hw
    rw [htold, hpost]
    exact ⟨rfl, rfl, fun h => absurd h hlost, rfl, fun _ => ⟨o, rfl, hkind, hinfo⟩, rfl⟩

theorem eventPost_full {d : Dev} (hroom : d.host.evtRoom = 0) : eventPost d = d := by
  simp only [eventPost, if_pos hroom]

/-- R585: a head that claims more than was posted sets ERR. -/
theorem evtHeadWrite_evt (d : Dev) (v : BitVec 32) :
    (evtHeadWrite d v).host.evt =
      { d.host.evt with err := d.host.evt.err || decide (2 ^ d.host.evt.log2 < (d.host.evtTail - v).toNat) } := by
  by_cases hbad : 2 ^ d.host.evt.log2 < (d.host.evtTail - v).toNat
  · simp only [evtHeadWrite, Dev.modHost, decide_eq_true hbad, if_true, Bool.or_true]
  · simp only [evtHeadWrite, Dev.modHost, decide_eq_false hbad, Bool.false_eq_true, if_false, Bool.or_false]

/-! ### Ring control registers (R583, R584) -/

section Control
variable {r : RingCtl} {w b lo hi : Nat}

/-- An idle ring takes a legal size and is enabled. -/
theorem ctlWrite_enable (hen : r.en = false) (hdrain : r.draining = false) (hw : bit w 8 = true) (hlo : lo ≤ fld w 0 b)
    (hhi : fld w 0 b ≤ hi) :
    ctlWrite r w b lo hi =
      { r with log2 := fld w 0 b, en := true, busy := r.busy && !bit w 10, err := r.err && !bit w 11 } := by
  have hsize : ¬(fld w 0 b < lo ∨ hi < fld w 0 b) := by omega
  cases hb : bit w 10 <;> cases he : bit w 11 <;> simp [ctlWrite, hen, hdrain, hw, hb, he, hsize]

/-- An idle ring reports an illegal size. -/
theorem ctlWrite_badSize (hen : r.en = false) (hdrain : r.draining = false) (hw : bit w 8 = true)
    (hsize : fld w 0 b < lo ∨ hi < fld w 0 b) :
    (ctlWrite r w b lo hi).err = true ∧ (ctlWrite r w b lo hi).en = false := by
  cases hb : bit w 10 <;> cases he : bit w 11 <;> simp [ctlWrite, hen, hdrain, hw, hb, he, hsize]

/-- A ring that drains is busy. -/
theorem ctlWrite_draining (hen : r.en = false) (hdrain : r.draining = true) (hw : bit w 8 = true) :
    (ctlWrite r w b lo hi).busy = true ∧ (ctlWrite r w b lo hi).en = false ∧ (ctlWrite r w b lo hi).log2 = r.log2 := by
  cases hb : bit w 10 <;> cases he : bit w 11 <;> simp [ctlWrite, hen, hdrain, hw, hb, he]

/-- A ring that is disabled drains. -/
theorem ctlWrite_disable (hen : r.en = true) (hw : bit w 8 = false) :
    (ctlWrite r w b lo hi).en = false ∧ (ctlWrite r w b lo hi).draining = true ∧ (ctlWrite r w b lo hi).log2 = r.log2 := by
  cases hb : bit w 10 <;> cases he : bit w 11 <;> simp [ctlWrite, hen, hw, hb, he]

end Control

/-- R584: a ring that is off, or whose tail is possible, stays as it is. -/
theorem Dev.admCheck_ok {d : Dev}
    (h : d.host.adm.en = false ∨ (d.host.admTail - d.host.admHead).toNat ≤ 2 ^ d.host.adm.log2) :
    d.admCheck = d := by
  unfold Dev.admCheck
  rw [if_neg]
  rw [Bool.and_eq_true, decide_eq_true_eq]
  rintro ⟨hen, hlt⟩
  obtain h | h := h
  · simp [h] at hen
  · exact Nat.not_lt.2 h hlt

/-- R584: an impossible tail turns the ring off, with an event. -/
theorem Dev.admCheck_impossible {d : Dev} (hen : d.host.adm.en = true)
    (h : 2 ^ d.host.adm.log2 < (d.host.admTail - d.host.admHead).toNat) :
    ∃ q n k, d.admCheck = d.modHost (fun h =>
      { h with adm := { h.adm with en := false, err := true }, evtQ := q, evtDrop := n, evtLost := k }) := by
  unfold Dev.admCheck
  rw [if_pos (by rw [hen, decide_eq_true h]; rfl)]
  obtain ⟨q, n, k, hraise⟩ := Dev.raise_eq (d.modHost (fun h => { h with adm := { h.adm with en := false, err := true } }))
    (evt 6 .ringOverrun .hub 0xFFFFFFFF d.host.admHead.toNat d.host.admTail.toNat)
  exact ⟨q, n, k, hraise⟩

/-- A write of ADM_CTL that leaves the ring off, or its tail possible, changes the control register alone. -/
theorem admCtl_eq {d : Dev} {w : Nat}
    (h : (ctlWrite d.host.adm w 4 4 12).en = false ∨
      (d.host.admTail - d.host.admHead).toNat ≤ 2 ^ (ctlWrite d.host.adm w 4 4 12).log2) :
    admCtl d w = d.modHost (fun h => { h with adm := ctlWrite h.adm w 4 4 12 }) :=
  Dev.admCheck_ok h

section Rings
variable {s : State} {w : Word}

theorem exec_adminRingEnable (hw : w.getLsbD 8 = true) :
    exec (.adminRingEnable w) s = .next { s with dev := admCtl s.dev w.toNat } := by
  change execAdminRingEnable w s = _
  rw [execAdminRingEnable, onDev_eq, if_pos (by rwa [bit_toNat])]

theorem exec_adminRingDisable (hw : w.getLsbD 8 = false) :
    exec (.adminRingDisable w) s = .next { s with dev := admCtl s.dev w.toNat } := by
  change execAdminRingDisable w s = _
  rw [execAdminRingDisable, onDev_eq, if_neg (by rw [bit_toNat, hw]; decide)]

theorem exec_eventRingEnable (hw : w.getLsbD 8 = true) :
    exec (.eventRingEnable w) s = .next { s with dev := evtCtl s.dev w.toNat } := by
  change execEventRingEnable w s = _
  rw [execEventRingEnable, onDev_eq, if_pos (by rwa [bit_toNat])]

theorem exec_eventRingDisable (hw : w.getLsbD 8 = false) :
    exec (.eventRingDisable w) s = .next { s with dev := evtCtl s.dev w.toNat } := by
  change execEventRingDisable w s = _
  rw [execEventRingDisable, onDev_eq, if_neg (by rw [bit_toNat, hw]; decide)]

end Rings

/-! ### The admin ring's tail (R454, R455, R584) -/

/-- R455: the command at the head whose opcode no row gives is reported BAD_COMMAND. -/
theorem Dev.badCommand_open {d : Dev} {w : BitVec 512} (hopen : d.adminOpen = true) (hop : knownOp (fld w.toNat 0 8) = false) :
    d.badCommand w =
      d.fetched.adminDone (BitVec.ofNat 16 (fld w.toNat 16 16)) d.host.admHead .badCommand 0 0 := by
  simp only [Dev.badCommand, hopen, hop, Bool.not_false, Bool.and_self, if_true]
  rfl

/-! ### Function Level Reset (R434, R580) -/

/-- An aperture after Function Level Reset: an enabled one drains (R437). -/
def Aperture.shut (a : Aperture) : Aperture := if a.en then { a with en := false, draining := true } else a

theorem Aperture.shut_en (a : Aperture) : a.shut.en = false ∧ (a.en = true → a.shut.draining = true) := by
  unfold Aperture.shut
  split
  next h => exact ⟨rfl, fun _ => rfl⟩
  next h => exact ⟨Bool.eq_false_iff.2 h, fun h' => absurd h' h⟩

/-- The host interface after Function Level Reset: what the host set up is gone. -/
def HostIf.flr (h : HostIf) : HostIf :=
  { h with
    ap := h.ap.map (fun p => (p.1, p.2.shut))
    regions := [], rings := [], ctxs := [], atsCache := [], atsAsked := []
    lines := h.lines.map (fun p => (p.1, { p.2 with pending := false }))
    adm := {}, admTail := 0, admHead := 0, evt := {}, evtHead := 0, evtTail := 0, evtBind := 0, evtDrop := 0 }

/-- R580: with no step and no containment, the reset reaches the host interface, the translations and the attachments of
allocations alone. -/
theorem flr_eq {d : Dev} (hsteps : d.sched.steps = []) (hcontain : d.faults.contain = none) :
    ∃ t x, flr d = { d with tiers := t, xlate := x, host := d.host.flr } ∧ (Two.get x .west).tlb = [] ∧
      (Two.get x .east).tlb = [] := by
  unfold Machine.flr
  rw [if_pos (by rw [hsteps, hcontain]; rfl)]
  exact ⟨_, _, rfl, rfl, rfl⟩

/-- Every aperture is shut, listed or not. -/
theorem tgetD_flr_ap (h : HostIf) (i : Nat) : tgetD h.flr.ap i {} = (tgetD h.ap i {}).shut := by
  rw [tgetD, tgetD, HostIf.flr, tget_map]
  cases tget h.ap i <;> rfl

/-! ### The clauses on rings and resets -/

section Clauses
variable {s : State}

/-- R584: a tail that no ring can have turns the admin ring off. -/
theorem exec_adminTailWrite_impossible {v : BitVec 16} (hen : s.dev.host.adm.en = true)
    (hbad : 2 ^ s.dev.host.adm.log2 < (v - s.dev.host.admHead).toNat) :
    ∃ d, exec (.adminTailWrite v []) s = .next { s with dev := d } ∧ { d with host := s.dev.host } = s.dev ∧
      d.host.adm = { s.dev.host.adm with en := false, err := true } ∧ d.host.admTail = v ∧
      d.host.admHead = s.dev.host.admHead := by
  obtain ⟨q, n, k, hcheck⟩ := Dev.admCheck_impossible (d := s.dev.modHost (fun h => { h with admTail := v })) hen hbad
  have htail : admTail s.dev v [] = _ := hcheck
  refine ⟨_, exec_onDev (f := (admTail · v [])) rfl htail, ?_⟩
  exact ⟨rfl, rfl, rfl, rfl⟩

/-- R455: an unknown opcode at the head of an open ring is fetched and reported. -/
theorem exec_adminTailWrite_badCommand {v : BitVec 16} {w : BitVec 512} (hop : knownOp (fld w.toNat 0 8) = false)
    (hopen : (s.dev.modHost (fun h => { h with admTail := v })).adminOpen = true)
    (hok : (v - s.dev.host.admHead).toNat ≤ 2 ^ s.dev.host.adm.log2) :
    ∃ d, exec (.adminTailWrite v [w]) s = .next { s with dev := d } ∧ { d with host := s.dev.host } = s.dev ∧
      AdmDone s.dev d { cid := BitVec.ofNat 16 (fld w.toNat 16 16), rsvd := false, ops := [] } .badCommand 0 0 := by
  have htail : admTail s.dev v [w] = s.dev.modHost (fun h => { h with
      admTail := v, admHead := h.admHead + 1
      evtQ := h.evtQ ++ [{ evt 1 .badCommand .hub ((BitVec.ofNat 16 (fld w.toNat 16 16)).toNat + 65536 * h.admHead.toNat) 0 0 with
        t := s.dev.hubCount }] }) := by
    change (Dev.admCheck _).badCommand w = _
    rw [Dev.admCheck_ok (d := s.dev.modHost (fun h => { h with admTail := v })) (.inr hok), Dev.badCommand_open hopen hop,
      Dev.adminDone_eq]
    rfl
  refine ⟨_, exec_onDev (f := (admTail · v [w])) rfl htail, ?_⟩
  exact ⟨rfl, rfl, _, List.getLast?_concat, rfl, rfl, rfl, rfl, rfl⟩

/-- R583, R584: ADM_CTL enables an idle ring of a legal size, reports another size, and is busy while the ring drains. -/
theorem exec_adminRingEnable_ctl {w : Word} (hw : w.getLsbD 8 = true) (hen : s.dev.host.adm.en = false) :
    (s.dev.host.adm.draining = false → 4 ≤ fld w.toNat 0 4 → fld w.toNat 0 4 ≤ 12 →
        (s.dev.host.admTail - s.dev.host.admHead).toNat ≤ 2 ^ fld w.toNat 0 4 →
      ∃ d, exec (.adminRingEnable w) s = .next { s with dev := d } ∧ { d with host := s.dev.host } = s.dev ∧
        d.host = { s.dev.host with adm := { s.dev.host.adm with
          log2 := fld w.toNat 0 4, en := true, busy := s.dev.host.adm.busy && !w.getLsbD 10,
          err := s.dev.host.adm.err && !w.getLsbD 11 } }) ∧
    (s.dev.host.adm.draining = false → fld w.toNat 0 4 < 4 ∨ 12 < fld w.toNat 0 4 →
      ∃ d, exec (.adminRingEnable w) s = .next { s with dev := d } ∧ { d with host := s.dev.host } = s.dev ∧
        d.host.adm.err = true ∧ d.host.adm.en = false) ∧
    (s.dev.host.adm.draining = true →
      ∃ d, exec (.adminRingEnable w) s = .next { s with dev := d } ∧ { d with host := s.dev.host } = s.dev ∧
        d.host.adm.busy = true ∧ d.host.adm.en = false ∧ d.host.adm.log2 = s.dev.host.adm.log2) := by
  have hbit : bit w.toNat 8 = true := (bit_toNat w 8).trans hw
  simp only [exec_adminRingEnable hw]
  refine ⟨fun hdrain hlo hhi hfit => ⟨_, rfl, ?_⟩, fun hdrain hsize => ⟨_, rfl, ?_⟩, fun hdrain => ⟨_, rfl, ?_⟩⟩
  · have hctl := ctlWrite_enable hen hdrain hbit hlo hhi
    rw [admCtl_eq (.inr (by rw [hctl]; exact hfit)), ← bit_toNat, ← bit_toNat]
    exact ⟨rfl, congrArg (fun c => { s.dev.host with adm := c }) hctl⟩
  · have hctl := ctlWrite_badSize hen hdrain hbit hsize
    rw [admCtl_eq (.inl hctl.2)]
    exact ⟨rfl, hctl⟩
  · have hctl := ctlWrite_draining (b := 4) (lo := 4) (hi := 12) hen hdrain hbit
    rw [admCtl_eq (.inl hctl.2.1)]
    exact ⟨rfl, hctl⟩

/-- R583: ADM_CTL disables an enabled ring, which drains. -/
theorem exec_adminRingDisable_ctl {w : Word} (hw : w.getLsbD 8 = false) (hen : s.dev.host.adm.en = true) :
    ∃ d, exec (.adminRingDisable w) s = .next { s with dev := d } ∧ { d with host := s.dev.host } = s.dev ∧
      d.host.adm.en = false ∧ d.host.adm.draining = true ∧ d.host.adm.log2 = s.dev.host.adm.log2 ∧
      d.host.admHead = s.dev.host.admHead := by
  obtain ⟨hoff, hdrain, hsize⟩ := ctlWrite_disable (b := 4) (lo := 4) (hi := 12) hen ((bit_toNat w 8).trans hw)
  rw [exec_adminRingDisable hw, admCtl_eq (.inl hoff)]
  exact ⟨_, rfl, rfl, hoff, hdrain, hsize, rfl⟩

/-- R583, R585: EVT_CTL enables an idle ring of a legal size and reports another size. -/
theorem exec_eventRingEnable_ctl {w : Word} (hw : w.getLsbD 8 = true) (hen : s.dev.host.evt.en = false)
    (hdrain : s.dev.host.evt.draining = false) :
    (8 ≤ fld w.toNat 0 5 → fld w.toNat 0 5 ≤ 16 →
      ∃ d, exec (.eventRingEnable w) s = .next { s with dev := d } ∧ { d with host := s.dev.host } = s.dev ∧
        d.host = { s.dev.host with evt := { s.dev.host.evt with
          log2 := fld w.toNat 0 5, en := true, busy := s.dev.host.evt.busy && !w.getLsbD 10,
          err := s.dev.host.evt.err && !w.getLsbD 11 } }) ∧
    (fld w.toNat 0 5 < 8 ∨ 16 < fld w.toNat 0 5 →
      ∃ d, exec (.eventRingEnable w) s = .next { s with dev := d } ∧ { d with host := s.dev.host } = s.dev ∧
        d.host.evt.err = true ∧ d.host.evt.en = false) := by
  have hbit : bit w.toNat 8 = true := (bit_toNat w 8).trans hw
  rw [exec_eventRingEnable hw, ← bit_toNat, ← bit_toNat]
  refine ⟨fun hlo hhi => ⟨_, rfl, rfl, ?_⟩, fun hsize => ⟨_, rfl, rfl, ctlWrite_badSize hen hdrain hbit hsize⟩⟩
  exact congrArg (fun c => { s.dev.host with evt := c }) (ctlWrite_enable hen hdrain hbit hlo hhi)

/-- R583: EVT_CTL disables an enabled ring, which drains. -/
theorem exec_eventRingDisable_ctl {w : Word} (hw : w.getLsbD 8 = false) (hen : s.dev.host.evt.en = true) :
    ∃ d, exec (.eventRingDisable w) s = .next { s with dev := d } ∧ { d with host := s.dev.host } = s.dev ∧
      d.host.evt.en = false ∧ d.host.evt.draining = true ∧ d.host.evtTail = s.dev.host.evtTail := by
  obtain ⟨hoff, hdrain, -⟩ := ctlWrite_disable (b := 5) (lo := 8) (hi := 16) hen ((bit_toNat w 8).trans hw)
  rw [exec_eventRingDisable hw]
  exact ⟨_, rfl, rfl, hoff, hdrain, rfl⟩

end Clauses

/-! ### The obligation on rings and resets -/

/-- Settles O50: each clause is the equation of its instruction, and FLR's reset of the host interface is one function of it. -/
theorem ringsAndFunctionLevelResetAct : Obligations.RingsAndFunctionLevelResetAct := by
  unfold Obligations.RingsAndFunctionLevelResetAct
  intro s
  refine ⟨?post, ?full, ?head, fun v => ⟨?tail, ?badTail, ?unknown⟩, fun w => ⟨?admOn, ?admOff, ?evtOn, ?evtOff⟩,
    ?admDrained, rfl, ?flr⟩
  case post => exact fun e t a hroom hq ha hbind hw => exec_eventRecordPost hroom hq ha hbind hw
  case full => exact fun hroom => exec_onDev rfl (eventPost_full hroom)
  case head => exact fun v => ⟨evtHeadWrite s.dev v, rfl, rfl, rfl, evtHeadWrite_evt s.dev v, rfl⟩
  case tail =>
    exact fun hok => exec_onDev (f := (admTail · v [])) rfl
      (Dev.admCheck_ok (d := s.dev.modHost (fun h => { h with admTail := v })) hok)
  case badTail => exact fun hen hbad => exec_adminTailWrite_impossible hen hbad
  case unknown => exact fun w hop hopen hok => exec_adminTailWrite_badCommand hop hopen hok
  case admOn =>
    rintro _ rfl hw hen
    exact exec_adminRingEnable_ctl hw hen
  case admOff => exact fun hw hen => exec_adminRingDisable_ctl hw hen
  case evtOn =>
    rintro _ rfl hw hen
    exact ⟨fun hdrain => (exec_eventRingEnable_ctl hw hen hdrain).1, fun hdrain => (exec_eventRingEnable_ctl hw hen hdrain).2⟩
  case evtOff => exact fun hw hen => exec_eventRingDisable_ctl hw hen
  case admDrained =>
    intro hidle
    change execAdminRingDrainDone s = _
    rw [execAdminRingDrainDone, onDev_eq, if_neg (by rw [hidle]; decide)]
  case flr =>
    intro hsteps hcontain
    obtain ⟨t, x, hflr, hwest, heast⟩ := flr_eq hsteps hcontain
    refine ⟨_, exec_onDev rfl hflr, rfl, rfl, rfl, rfl, rfl, rfl, rfl, rfl, rfl, rfl, rfl, rfl,
      fun i => ?_, hwest, heast, rfl, rfl, rfl⟩
    change (tgetD s.dev.host.flr.ap i {}).en = false ∧ (_ → (tgetD s.dev.host.flr.ap i {}).draining = true)
    rw [tgetD_flr_ap]
    exact Aperture.shut_en _

end Sys2Proof.Machine

/-!
Writes of the host and of peers on their way to the device (chapters 7 and 14): an access within one line leaves in its units of
single-copy atomicity (Table 7.3), and while its source has nothing else under way none of the units holds another back (R222).
-/
namespace Sys2Proof.Machine

/-! ### Addresses of one line (R21, Table 1.6) -/

theorem localTarget_umr {off u : Nat} (h : localTarget off = .umr u) : off = u ∧ u < 2 ^ 46 := by
  unfold localTarget at h
  split at h
  next hlt => cases h; exact ⟨rfl, hlt⟩
  · repeat' split at h
    all_goals cases h

theorem localTarget_vat {off v : Nat} (h : localTarget off = .vat v) : off = v ∧ isVat v = true := by
  unfold localTarget at h
  split at h
  · cases h
  · split at h
    next hvat => cases h; exact ⟨rfl, hvat⟩
    · repeat' split at h
      all_goals cases h

/-- UMR and the Vats are made of whole lines. -/
theorem localTarget_line {k : Nat → Target} (hk : k = .umr ∨ k = .vat) {off t j : Nat} (h : localTarget off = k t)
    (hj : off % 64 + j < 64) : off = t ∧ localTarget (off + j) = k (off + j) := by
  obtain rfl | rfl := hk
  · obtain ⟨rfl, hlt⟩ := localTarget_umr h
    exact ⟨rfl, if_pos (by omega)⟩
  · obtain ⟨rfl, hvat⟩ := localTarget_vat h
    refine ⟨rfl, ?_⟩
    have hbase : vatBase = 0xF00000000000 := rfl
    have hsize : vatSize = 0xC000000 := rfl
    have hvat' : isVat (off + j) = true := by
      rw [isVat, Bool.and_eq_true, Bool.and_eq_true, decide_eq_true_eq, decide_eq_true_eq, decide_eq_true_eq] at hvat ⊢
      omega
    have hge : ¬off + j < 0x400000000000 := by
      rw [isVat, Bool.and_eq_true, Bool.and_eq_true, decide_eq_true_eq, decide_eq_true_eq] at hvat'
      omega
    rw [localTarget, if_neg hge, if_pos hvat']

/-- An address of this node's memory leads where its low 48 bits do, and so does every address of the same node. -/
theorem Dev.target_own {d : Dev} {l : Bool} {a t : Nat} {k : Nat → Target} (hk : k = .umr ∨ k = .vat)
    (h : d.target l a = k t) :
    localTarget (a % 2 ^ 48) = k t ∧ ∀ m b, fld b 48 8 = fld a 48 8 → d.target m b = localTarget (b % 2 ^ 48) := by
  unfold Dev.target at h ⊢
  dsimp only at h ⊢
  split at h
  next hown => exact ⟨h, fun m b hb => by rw [hb, if_pos hown]⟩
  · obtain rfl | rfl := hk
    all_goals
      repeat' split at h
      all_goals cases h

/-- The addresses of a line of memory lead to the bytes of that line. -/
theorem Dev.target_line {d : Dev} {l : Bool} {a t j : Nat} {k : Nat → Target} (hk : k = .umr ∨ k = .vat)
    (h : d.target l a = k t) (hj : t % 64 + j < 64) : a % 64 = t % 64 ∧ d.target true (a + j) = k (t + j) := by
  obtain ⟨hlocal, hnode⟩ := Dev.target_own hk h
  obtain ⟨rfl, -⟩ := localTarget_line (j := 0) hk hlocal (by omega)
  obtain ⟨-, hadd⟩ := localTarget_line (j := j) hk hlocal (by omega)
  have hlow : (a + j) % 2 ^ 48 = a % 2 ^ 48 + j := by omega
  refine ⟨by omega, ?_⟩
  rw [hnode true (a + j) (by simp only [fld]; omega), hlow, hadd]

/-- The own address of a UMR byte leads there (R21). -/
theorem Dev.target_ownAddr (d : Dev) (l : Bool) {u : Nat} (h : u < 2 ^ 46) : d.target l (ownAddr u) = .umr u := by
  have hnode : fld (ownAddr u) 48 8 = 0xFF := by simp only [fld, ownAddr]; omega
  have hlow : ownAddr u % 2 ^ 48 = u := by simp only [ownAddr]; omega
  simp only [Dev.target, hnode, hlow, decide_true, Bool.true_or, if_true]
  exact if_pos h

/-! ### Units of single-copy atomicity (Table 7.3) -/

/-- Runs of bytes that follow one another from `off` on and spell `bs` together. -/
def Tiles : Nat → List Byte → List (Nat × List Byte) → Prop
  | _, bs, [] => bs = []
  | off, bs, p :: ps => p.1 = off ∧ p.2 ≠ [] ∧ ∃ t, bs = p.2 ++ t ∧ Tiles (off + p.2.length) t ps

theorem Tiles.mem {off : Nat} {bs : List Byte} {ps : List (Nat × List Byte)} (h : Tiles off bs ps)
    {p : Nat × List Byte} (hp : p ∈ ps) : off ≤ p.1 ∧ p.1 < off + bs.length := by
  induction ps generalizing off bs with
  | nil => cases hp
  | cons q ps ih =>
    obtain ⟨hoff, hne, t, rfl, ht⟩ := h
    have hpos := List.length_pos_iff.2 hne
    rw [List.length_append]
    obtain rfl | hp := List.mem_cons.1 hp
    · omega
    · have := ih ht hp
      omega

theorem Tiles.one {off : Nat} {bs : List Byte} (h : bs ≠ []) : Tiles off bs [(off, bs)] :=
  ⟨rfl, h, [], (List.append_nil _).symm, rfl⟩

theorem cutUnits_tiles {u k off : Nat} {bs : List Byte} (hu : 0 < u) (hk : bs.length ≤ k) :
    Tiles off bs (cutUnits u k off bs) := by
  induction k generalizing off bs with
  | zero => exact List.length_eq_zero_iff.1 (Nat.le_zero.1 hk)
  | succ k ih =>
    cases bs with
    | nil => rfl
    | cons b t =>
      rw [List.length_cons] at hk
      unfold cutUnits
      split
      next hfit =>
        simp only [Bool.and_eq_true, decide_eq_true_eq] at hfit
        have hlen : ((b :: t).take u).length = u := by rw [List.length_take, List.length_cons]; omega
        have hne : (b :: t).take u ≠ [] := List.ne_nil_of_length_pos (by omega)
        refine ⟨rfl, hne, (b :: t).drop u, (List.take_append_drop u _).symm, ?_⟩
        rw [hlen]
        exact ih (by rw [List.length_drop, List.length_cons]; omega)
      next => exact ⟨rfl, List.cons_ne_nil _ _, t, rfl, ih (by omega)⟩

theorem lines64_line {off : Nat} {bs : List Byte} (hpos : 0 < bs.length) (hfit : off % 64 + bs.length ≤ 64) :
    lines64 off bs = [(off, bs)] := by
  obtain ⟨b, t, rfl⟩ := List.exists_cons_of_length_pos hpos
  have htake : (b :: t).take (64 - off % 64) = b :: t := List.take_of_length_le (by omega)
  have hdrop : (b :: t).drop (64 - off % 64) = [] := List.drop_of_length_le (by omega)
  simp only [lines64, splitLines, htake, hdrop, List.length_cons]

/-- The sources whose partial lines are cut into aligned 8 bytes and bytes: apertures and regions. -/
def hostAgent : Agent → Bool
  | .aperture _ => true
  | .region _ => true
  | _ => false

/-- An access within one line is cut into runs that follow one another. -/
theorem writeUnits_tiles {src : Agent} (hsrc : hostAgent src = true) {addr : Nat} {bs : List Byte} (hpos : 0 < bs.length)
    (hfit : addr % 64 + bs.length ≤ 64) : Tiles addr bs (writeUnits src 0 addr bs false) := by
  have hne := List.length_pos_iff.1 hpos
  rw [writeUnits, lines64_line hpos hfit, List.flatMap_singleton]
  split
  · exact Tiles.one hne
  · cases src
    case aperture => exact cutUnits_tiles (by decide) (le_refl _)
    case region => exact cutUnits_tiles (by decide) (le_refl _)
    all_goals cases hsrc

/-! ### Writes of a source with nothing else under way (R18, R222) -/

section Quiet
variable {d : Dev} {src : Agent} {rq : Nat}

/-- A source of the host side with no write and no Rennet operation under way. -/
def Dev.quiet (d : Dev) (src : Agent) (rq : Nat) : Prop :=
  hostAgent src = true ∧ d.writes.any (fun w => w.of src rq) = false ∧ d.rennetOut src (fun _ => true) = false

theorem Dev.lineStores_hostAgent (hsrc : hostAgent src = true) (f : Nat → Bool) : d.lineStores src f = false := by
  cases src
  case core => cases hsrc
  all_goals rfl

theorem Dev.agentStep_hostAgent (hsrc : hostAgent src = true) : d.agentStep src = none := by
  cases src
  case engine => cases hsrc
  case tongs => cases hsrc
  all_goals rfl

/-- The package with units of a write under way to lines of its UMR: `ps` holds their offsets and bytes. -/
def Dev.sent (d : Dev) (src : Agent) (p : Path) (rq : Nat) (ps : List (Nat × List Byte)) : Dev :=
  { d with
    coh := { d.coh with noc := d.coh.noc ++ ps.map (fun q => writeMsg src q.1 q.2) }
    writes := d.writes ++ ps.map (fun q => { src := src, addr := ownAddr q.1, bytes := q.2, path := p, rq := rq }) }

theorem Dev.sent_noc (p : Path) (ps : List (Nat × List Byte)) :
    (d.sent src p rq ps).coh.noc = d.coh.noc ++ ps.map (fun q => writeMsg src q.1 q.2) := rfl

theorem Dev.sent_writes (p : Path) (ps : List (Nat × List Byte)) : (d.sent src p rq ps).writes =
    d.writes ++ ps.map (fun q => { src := src, addr := ownAddr q.1, bytes := q.2, path := p, rq := rq }) := rfl

theorem Dev.sent_nil (p : Path) : d.sent src p rq [] = d := by
  simp [Dev.sent]

theorem Dev.sent_sent (p : Path) (ps qs : List (Nat × List Byte)) :
    (d.sent src p rq ps).sent src p rq qs = d.sent src p rq (ps ++ qs) := by
  simp [Dev.sent]

theorem otherLink_self (p : Path) : otherLink p p = false := by
  cases p <;> rfl

theorem byProxy_umr (u : Nat) : byProxy src (.umr u) = false := by
  cases src <;> rfl

/-- R18, R222: units of one write do not hold one another back, whose path is one and whose homes keep their order. -/
theorem Dev.mustHold_sent (hq : d.quiet src rq) {p : Path} {ps : List (Nat × List Byte)}
    (hps : ∀ q ∈ ps, q.1 < 2 ^ 46) (u : Nat) : (d.sent src p rq ps).mustHold src rq p (.umr u) true false = false := by
  obtain ⟨hsrc, hw, hr⟩ := hq
  have hback : (d.sent src p rq ps).writes.any
      (fun w => w.of src rq && (w.held || (d.sent src p rq ps).holdsBack src p (.umr u) true w)) = false := by
    rw [List.any_eq_false]
    intro w hmem
    obtain hmem | hmem := List.mem_append.1 hmem
    · have := List.any_eq_false.1 hw w hmem
      simp [Bool.eq_false_iff.2 this]
    · obtain ⟨q, hq, rfl⟩ := List.mem_map.1 hmem
      have htarget := (d.sent src p rq ps).target_ownAddr true (hps q hq)
      simp [Dev.holdsBack, htarget, otherLink_self, isUmrT, byProxy_umr]
  have hrennet : (d.sent src p rq ps).rennetOut src (fun _ => true) = false := hr
  rw [Dev.mustHold, hback, hrennet, Dev.lineStores_hostAgent hsrc]
  simp

theorem Dev.mustHold_quiet (hq : d.quiet src rq) (p : Path) (t : Target) (mem bank : Bool) :
    d.mustHold src rq p t mem bank = false := by
  obtain ⟨hsrc, hw, hr⟩ := hq
  have hback : d.writes.any (fun w => w.of src rq && (w.held || d.holdsBack src p t mem w)) = false := by
    rw [List.any_eq_false]
    intro w hmem
    simp [Bool.eq_false_iff.2 (List.any_eq_false.1 hw w hmem)]
  rw [Dev.mustHold, hback, hr, Dev.lineStores_hostAgent hsrc]
  simp

/-- A write of a line that nothing holds back leaves for its home. -/
theorem Dev.issueWrite_umr (hsrc : hostAgent src = true) {p : Path} {a u : Nat} (bs : List Byte) (ht : d.target true a = .umr u)
    (hp : d.pathOf src (.umr u) false = p) (hgo : d.mustHold src rq p (.umr u) true false = false) :
    d.issueWrite src a bs none rq = d.sent src p rq [(u, bs)] := by
  subst hp
  simp only [Dev.issueWrite, ht, Option.isSome_none, hgo, Bool.false_eq_true, if_false, Dev.launch,
    Dev.agentStep_hostAgent hsrc, canonAddr]
  rfl

/-- The units of a write within one line leave one after the other. -/
theorem foldDev_issueWrite_umr (hq : d.quiet src rq) {p : Path} {f : Nat → Nat} (ps done : List (Nat × List Byte))
    (hps : ∀ q ∈ ps, d.target true q.1 = .umr (f q.1) ∧ f q.1 < 2 ^ 46 ∧ d.pathOf src (.umr (f q.1)) false = p)
    (hdone : ∀ q ∈ done, q.1 < 2 ^ 46) :
    foldDev (d.sent src p rq done) ps (fun d q => d.issueWrite src q.1 q.2 none rq) =
      d.sent src p rq (done ++ ps.map (fun q => (f q.1, q.2))) := by
  induction ps generalizing done with
  | nil => simp [foldDev]
  | cons q ps ih =>
    obtain ⟨ht, hlt, hp⟩ := hps q List.mem_cons_self
    have hone : (d.sent src p rq done).issueWrite src q.1 q.2 none rq = d.sent src p rq (done ++ [(f q.1, q.2)]) :=
      (Dev.issueWrite_umr (d := d.sent src p rq done) hq.1 q.2 ht hp (Dev.mustHold_sent hq hdone _)).trans (Dev.sent_sent _ _ _)
    have hrest := ih (done ++ [(f q.1, q.2)]) (fun r hr => hps r (List.mem_cons_of_mem _ hr))
      (fun r hr => (List.mem_append.1 hr).elim (hdone r) (fun hr => by rw [List.mem_singleton.1 hr]; exact hlt))
    rw [List.append_assoc] at hrest
    change foldDev ((d.sent src p rq done).issueWrite src q.1 q.2 none rq) ps _ = _
    rw [hone, hrest]
    rfl

/-- R28: the bytes of a line have one home, and a write of the host side takes one path to it. -/
theorem Dev.pathOf_line (hsrc : hostAgent src = true) {u j : Nat} (hj : u % 64 + j < 64) :
    d.pathOf src (.umr (u + j)) false = d.pathOf src (.umr u) false := by
  have hframe : frameOf (u + j) = frameOf u := by simp only [frameOf, frameSize]; omega
  have hbit : bit (u + j) 12 = bit u 12 := by
    have hdiv : (u + j) / 2 ^ 12 = u / 2 ^ 12 := by omega
    rw [bit, fld, hdiv, bit, fld]
  have hhome : d.homeHalf (u + j) = d.homeHalf u := by rw [Dev.homeHalf, hframe, hbit, Dev.homeHalf]
  cases src
  case aperture => simp only [Dev.pathOf, hhome]; rfl
  case region => simp only [Dev.pathOf, hhome]; rfl
  all_goals cases hsrc

/-- A write within one line of UMR leaves in its units of atomicity, each an outstanding write of its source. -/
theorem Dev.issueWrites_umr (hq : d.quiet src rq) {l : Bool} {g u : Nat} {bs : List Byte} (ht : d.target l g = .umr u)
    (hpos : 0 < bs.length) (hfit : u % 64 + bs.length ≤ 64) :
    d.issueWrites src g bs none 0 rq = d.sent src (d.pathOf src (.umr u) false) rq
      ((writeUnits src 0 g bs false).map (fun q => (u + (q.1 - g), q.2))) := by
  have hlt := (localTarget_umr (Dev.target_own (.inl rfl) ht).1).2
  obtain ⟨hmod, -⟩ := Dev.target_line (j := 0) (.inl rfl) ht (by omega)
  have htiles := writeUnits_tiles hq.1 hpos (addr := g) (by omega)
  have hps : ∀ q ∈ writeUnits src 0 g bs false, d.target true q.1 = .umr (u + (q.1 - g)) ∧ u + (q.1 - g) < 2 ^ 46 ∧
      d.pathOf src (.umr (u + (q.1 - g))) false = d.pathOf src (.umr u) false := by
    intro q hmem
    have hin := htiles.mem hmem
    have hj : u % 64 + (q.1 - g) < 64 := by omega
    have htarget := (Dev.target_line (.inl rfl) ht hj).2
    rw [show g + (q.1 - g) = q.1 by omega] at htarget
    exact ⟨htarget, by omega, Dev.pathOf_line hq.1 hj⟩
  have hall := foldDev_issueWrite_umr hq (f := fun a => u + (a - g)) (writeUnits src 0 g bs false) [] hps (by simp)
  rwa [Dev.sent_nil, List.nil_append] at hall

/-- A write within one line of UMR at its own address: the units keep their addresses. -/
theorem Dev.issueWrites_own (hq : d.quiet src rq) {u : Nat} {bs : List Byte} (ht : d.target true (ownAddr u) = .umr u)
    (hpos : 0 < bs.length) (hfit : u % 64 + bs.length ≤ 64) :
    ∃ p, d.issueWrites src (ownAddr u) bs none 0 rq = { d with
      coh := { d.coh with
        noc := d.coh.noc ++ (writeUnits src 0 (ownAddr u) bs false).map (fun q => writeMsg src (q.1 - ownAddr 0) q.2) }
      writes := d.writes ++ (writeUnits src 0 (ownAddr u) bs false).map
        (fun q => { src := src, addr := q.1, bytes := q.2, path := p, rq := rq }) } := by
  have hmod := (Dev.target_line (j := 0) (.inl rfl) ht (by omega)).1
  have htiles := writeUnits_tiles hq.1 hpos (show ownAddr u % 64 + bs.length ≤ 64 by omega)
  have hunits : ∀ q ∈ writeUnits src 0 (ownAddr u) bs false,
      u + (q.1 - ownAddr u) = q.1 - ownAddr 0 ∧ ownAddr (u + (q.1 - ownAddr u)) = q.1 := by
    intro q hmem
    have hin := (htiles.mem hmem).1
    simp only [ownAddr] at hin ⊢
    omega
  refine ⟨d.pathOf src (.umr u) false, (Dev.issueWrites_umr hq ht hpos hfit).trans ?_⟩
  rw [Dev.sent, List.map_map, List.map_map,
    List.map_congr_left (g := fun q => writeMsg src (q.1 - ownAddr 0) q.2) fun q hmem => by
      rw [Function.comp_apply, (hunits q hmem).1],
    List.map_congr_left (g := fun q => { src := src, addr := q.1, bytes := q.2, path := d.pathOf src (.umr u) false, rq := rq })
      fun q hmem => by rw [Function.comp_apply, (hunits q hmem).2]]

/-- Consecutive writes of bytes are one write of them all. -/
theorem cellsPut_append (m : List Host.Cell) (a : Nat) (xs ys : List Byte) :
    cellsPut m a (xs ++ ys) = cellsPut (cellsPut m a xs) (a + xs.length) ys := by
  induction xs generalizing m a with
  | nil => rfl
  | cons x xs ih =>
    rw [List.cons_append, cellsPut, cellsPut, ih, List.length_cons]
    congr 1
    omega

theorem vatOff_add (v k : Nat) : vatOff (v + k) = vatOff v + k := (Nat.add_assoc _ _ _).symm

/-- A write of a Vat that nothing holds back is performed at its bank. -/
theorem Dev.issueWrite_vat {a v : Nat} (bs : List Byte) (ht : d.target true a = .vat (vatOff v)) (hq : d.quiet src rq) :
    d.issueWrite src a bs none rq = d.vatPut v bs none := by
  simp only [Dev.issueWrite, ht, Option.isSome_none, Dev.mustHold_quiet hq, Bool.false_eq_true, if_false, Dev.launch, vatOff,
    Nat.add_sub_cancel_left]

/-- The units of a write within one line of a Vat are performed at its bank one after the other (R22). -/
theorem foldDev_issueWrite_vat (hq : d.quiet src rq) {g v : Nat} {bs : List Byte} {ps : List (Nat × List Byte)}
    (hps : Tiles g bs ps) (ht : ∀ j, j < bs.length → d.target true (g + j) = .vat (vatOff v + j))
    (m : List Host.Cell) (x : Anvil) :
    ∃ y, foldDev { d with mem := m, anvil := x } ps (fun d q => d.issueWrite src q.1 q.2 none rq) =
      { d with mem := cellsPut m (vatOff v) bs, anvil := y } := by
  induction ps generalizing g v bs m x with
  | nil => cases hps; exact ⟨x, rfl⟩
  | cons q ps ih =>
    obtain ⟨hoff, hne, t, rfl, htiles⟩ := hps
    have hlen := List.length_pos_iff.2 hne
    rw [List.length_append] at ht
    have hfirst : d.target true q.1 = .vat (vatOff v) := hoff ▸ ht 0 (by omega)
    have hone : ({ d with mem := m, anvil := x } : Dev).issueWrite src q.1 q.2 none rq = _ := Dev.issueWrite_vat q.2 hfirst hq
    have hrest : ∀ j, j < t.length → d.target true (g + q.2.length + j) = .vat (vatOff (v + q.2.length) + j) := fun j hj => by
      rw [vatOff_add, Nat.add_assoc, Nat.add_assoc]
      exact ht _ (by omega)
    obtain ⟨z, hz⟩ := ih htiles hrest (cellsPut m (vatOff v) q.2) _
    refine ⟨z, (congrArg (foldDev · ps _) hone).trans (hz.trans ?_)⟩
    rw [cellsPut_append, vatOff_add]

/-- A write within one line of a Vat puts its bytes in the bank, and of the rest marks running operations at most (R71). -/
theorem Dev.issueWrites_vat (hq : d.quiet src rq) {l : Bool} {g v : Nat} {bs : List Byte} (ht : d.target l g = .vat (vatOff v))
    (hpos : 0 < bs.length) (hfit : v % 64 + bs.length ≤ 64) :
    ∃ x, d.issueWrites src g bs none 0 rq = { d with mem := cellsPut d.mem (vatOff v) bs, anvil := x } := by
  have hoff : vatOff v % 64 = v % 64 := by simp only [vatOff, vatBase]; omega
  obtain ⟨hmod, -⟩ := Dev.target_line (j := 0) (.inr rfl) ht (by omega)
  exact foldDev_issueWrite_vat hq (writeUnits_tiles hq.1 hpos (by omega))
    (fun j hj => (Dev.target_line (.inr rfl) ht (show vatOff v % 64 + j < 64 by omega)).2) d.mem d.anvil

end Quiet

end Sys2Proof.Machine

/-!
Apertures (R436 to R440, R588): what a write and a read of the host do at each kind of address that an aperture opens, what it
refuses, and its entry's writes and drain.
-/
namespace Sys2Proof.Machine

/-! ### A BAR2 offset and its aperture (R436) -/

section Offset
variable (i : Fin 32) {o : Nat} (ho : o < 2 ^ 28)
include ho

theorem bar2_toNat : (BitVec.ofNat 33 (2 ^ 28 * i.val + o)).toNat = 2 ^ 28 * i.val + o := by
  have hi := i.isLt
  rw [BitVec.toNat_ofNat, Nat.mod_eq_of_lt (by omega)]

theorem bar2_div : (2 ^ 28 * i.val + o) / 2 ^ 28 = i.val := by omega

theorem bar2_mod : (2 ^ 28 * i.val + o) % 2 ^ 28 = o := by omega

end Offset

theorem Dev.ready_of_boot {d : Dev} (h : d.boot.st = .ready) : d.ready = true := by
  simp [Dev.ready, h]

theorem Dev.inRecovery_of_boot {d : Dev} (h : d.boot.st = .ready) : d.inRecovery = false := by
  simp [Dev.inRecovery, h]

/-! ### Writes through an aperture (R438) -/

section Writes
variable {d : Dev} {i : Fin 32} {o : Nat} (hready : d.boot.st = .ready) (ho : o < 2 ^ 28) (hen : (d.apt i.val).en = true)
  (bs : List Byte)
include hready ho hen

/-- A refused write is discarded with an event. -/
theorem apWrite_refused (h : d.target false ((d.apt i.val).addr o) = .reserved ∨
    d.target false ((d.apt i.val).addr o) = .privileged ∨ (d.apt i.val).wr = false) :
    apWrite d (2 ^ 28 * i.val + o) bs = apDrop d i.val o .unmapped := by
  cases hwr : (d.apt i.val).wr
  · rw [apWrite, bar2_div i ho, bar2_mod i ho]
    simp [Dev.inRecovery_of_boot hready, Dev.ready_of_boot hready, hwr]
  · obtain h | h | h := h
    · rw [apWrite, bar2_div i ho, bar2_mod i ho]
      simp [Dev.inRecovery_of_boot hready, Dev.ready_of_boot hready, hwr, hen, h]
    · rw [apWrite, bar2_div i ho, bar2_mod i ho]
      simp [Dev.inRecovery_of_boot hready, Dev.ready_of_boot hready, hwr, hen, h]
    · rw [hwr] at h; cases h

variable (hwr : (d.apt i.val).wr = true)
include hwr

theorem apWrite_umr {u : Nat} (ht : d.target false ((d.apt i.val).addr o) = .umr u) (hback : d.backed u = true)
    (hpos : 0 < bs.length) (hfit : u % 64 + bs.length ≤ 64) :
    apWrite d (2 ^ 28 * i.val + o) bs = d.issueWrites (.aperture i) ((d.apt i.val).addr o) bs none := by
  rw [apWrite, bar2_div i ho, bar2_mod i ho]
  simp [Dev.inRecovery_of_boot hready, Dev.ready_of_boot hready, hwr, hen, ht,
    lines64_line hpos hfit, hback]

theorem apWrite_vat {v : Nat} (ht : d.target false ((d.apt i.val).addr o) = .vat (vatOff v))
    (hopen : d.vatOpen (d.apt i.val).ctx.toNat v bs.length = true) :
    apWrite d (2 ^ 28 * i.val + o) bs = d.issueWrites (.aperture i) ((d.apt i.val).addr o) bs none := by
  rw [apWrite, bar2_div i ho, bar2_mod i ho]
  simp [Dev.inRecovery_of_boot hready, Dev.ready_of_boot hready, hwr, hen, ht,
    vatOff, hopen]

theorem apWrite_rennet {obj : Nat} (ht : d.target false ((d.apt i.val).addr o) = .rennet obj 0) (hlen : bs.length = 8) :
    apWrite d (2 ^ 28 * i.val + o) bs =
      d.issueSig (.aperture i) (d.apSrc i.val (d.apt i.val)) none obj (BitVec.ofNat 64 (ofLe bs)) := by
  rw [apWrite, bar2_div i ho, bar2_mod i ho]
  simp [Dev.inRecovery_of_boot hready, Dev.ready_of_boot hready, hwr, hen, ht, hlen]

end Writes

/-! ### Reads through an aperture (R438 to R440) -/

/-- The bytes of a range do not depend on the host interface. -/
theorem Dev.cohRead_modHost (d : Dev) (f : HostIf → HostIf) (off n : Nat) : (d.modHost f).cohRead off n = d.cohRead off n := by
  induction n generalizing off with
  | zero => rfl
  | succ n ih => exact congrArg (d.cohByte off :: ·) (ih (off + 1))

/-- The package that has numbered one more read (R440). -/
def Dev.numbered (d : Dev) : Dev := d.modHost (fun h => { h with readId := h.readId + 1 })

@[simp] theorem Dev.numbered_target (d : Dev) (l : Bool) (a : Nat) : d.numbered.target l a = d.target l a := rfl

@[simp] theorem Dev.numbered_srcBusy (d : Dev) (src : Agent) (rq : Nat) : d.numbered.srcBusy src rq = d.srcBusy src rq := rfl

section Reads
variable {d : Dev}

/-- A read that its home takes, of bytes that no other node owns, is answered whole while no write of another source is under
way (R235, R439). -/
theorem Dev.readUmr_go {r : PendRead} {src : Agent} {u : Nat} (hgate : d.readGate u r.len = .go d)
    (hfar : d.farLines u r.len = []) (hcont : d.contended src = false) (hgot : r.got = []) :
    d.readUmr r src u = (d.heatLines u r.len).hostAnswer r.ap.val r.off (d.cohRead u r.len) (d.cohPoison u r.len) := by
  obtain ⟨t, ht⟩ := d.heatLines_only u r.len
  have hpoison : (d.heatLines u r.len).cohPoison u r.len = d.cohPoison u r.len := by rw [ht]; rfl
  simp [Dev.readUmr, hgate, hgot, Dev.readChunk, hcont, Dev.homeRead, hfar, hpoison]

theorem Dev.readUmr_hold {r : PendRead} {src : Agent} {u : Nat} {d0 : Dev} (hgate : d.readGate u r.len = .hold d0) :
    d.readUmr r src u = d0.readWaits r := by
  simp only [Dev.readUmr, hgate]

theorem Dev.readTry_umr {r : PendRead} {u : Nat} (hidle : d.srcBusy (.aperture r.ap) 0 = false)
    (ht : d.target false r.addr = .umr u) : d.readTry r = d.readUmr r (.aperture r.ap) u := by
  simp only [Dev.readTry, hidle, ht, Bool.false_eq_true, if_false]

theorem Dev.readTry_nowhere {r : PendRead} (hidle : d.srcBusy (.aperture r.ap) 0 = false)
    (ht : d.target false r.addr = .reserved ∨ d.target false r.addr = .privileged) :
    d.readTry r = apNo d r.ap.val r.off .unmapped := by
  obtain ht | ht := ht <;> simp only [Dev.readTry, hidle, ht, Bool.false_eq_true, if_false]

/-- A refused or unanswered read leaves an event and what the host is told (R438, R440). -/
theorem Dev.emit_raise_apEvent (hhold : d.host.canHold = true) (m : OutMsg) (n o : Nat) (st : Status) :
    (d.emit m).raise (apEvent n o st) = { d with
      host := { d.host with evtQ := d.host.evtQ ++ [{ apEvent n o st with t := d.hubCount }] }, out := d.out ++ [m] } := by
  have hheld := Dev.raise_held (d.emit m) (apEvent n o st) (.inl hhold)
  calc (d.emit m).raise (apEvent n o st)
      = { d with host := ((d.emit m).raise (apEvent n o st)).host, out := d.out ++ [m] } := rfl
    _ = _ := by rw [hheld]; rfl

end Reads

section Aperture
variable {d : Dev} {i : Fin 32} {o : Nat} (hready : d.boot.st = .ready) (ho : o < 2 ^ 28) (n : Nat) (ext : List Byte)
include hready ho

theorem apRead_closed (hrd : (d.apt i.val).rd = false) : apRead d (2 ^ 28 * i.val + o) n ext = apNo d i.val o .unmapped := by
  rw [apRead, bar2_div i ho, bar2_mod i ho]
  simp [Dev.inRecovery_of_boot hready, Dev.ready_of_boot hready, hrd]

variable (hen : (d.apt i.val).en = true) (hrd : (d.apt i.val).rd = true)
include hen hrd

/-- A read through a readable aperture is numbered and tried. -/
theorem apRead_open : apRead d (2 ^ 28 * i.val + o) n ext =
    d.numbered.readTry { id := d.host.readId, ap := i, off := o, addr := (d.apt i.val).addr o, len := n, ext := ext } := by
  rw [apRead, bar2_div i ho, bar2_mod i ho]
  simp [Dev.inRecovery_of_boot hready, Dev.ready_of_boot hready, hrd, hen, Dev.numbered]

variable (hidle : d.srcBusy (.aperture i) 0 = false)
include hidle

theorem apRead_umr {u : Nat} (ht : d.target false ((d.apt i.val).addr o) = .umr u) : apRead d (2 ^ 28 * i.val + o) n ext =
    d.numbered.readUmr { id := d.host.readId, ap := i, off := o, addr := (d.apt i.val).addr o, len := n, ext := ext }
      (.aperture i) u :=
  (apRead_open hready ho n ext hen hrd).trans
    (Dev.readTry_umr ((d.numbered_srcBusy _ _).trans hidle) ((d.numbered_target _ _).trans ht))

theorem apRead_nowhere (ht : d.target false ((d.apt i.val).addr o) = .reserved ∨
    d.target false ((d.apt i.val).addr o) = .privileged) :
    apRead d (2 ^ 28 * i.val + o) n ext = apNo d.numbered i.val o .unmapped :=
  (apRead_open hready ho n ext hen hrd).trans
    (Dev.readTry_nowhere ((d.numbered_srcBusy _ _).trans hidle)
      (ht.imp (d.numbered_target _ _).trans (d.numbered_target _ _).trans))

end Aperture

/-! ### An aperture's entry (R437, R588) -/

section Entry
variable {d : Dev} {i w : Nat}

/-- An entry that is off and drained takes the word. -/
theorem apEntryWrite_enable (hw : bit w 0 = true) (hen : (d.apt i).en = false) (hdrain : (d.apt i).draining = false) :
    apEntryWrite d i w = d.setApt i { d.apt i with
      en := true, rd := bit w 1, wr := bit w 2, busy := (d.apt i).busy && !bit w 4, pd := BitVec.ofNat 8 (fld w 8 8)
      ctx := BitVec.ofNat 12 (fld w 16 12) } := by
  cases hclear : bit w 4 <;> simp [apEntryWrite, hw, hen, hdrain, hclear]

/-- An entry that drains is busy. -/
theorem apEntryWrite_draining (hw : bit w 0 = true) (hen : (d.apt i).en = false) (hdrain : (d.apt i).draining = true) :
    apEntryWrite d i w = d.setApt i { d.apt i with busy := true } := by
  cases hclear : bit w 4 <;> simp [apEntryWrite, hw, hen, hdrain, hclear]

/-- An entry that is disabled drains. -/
theorem apEntryWrite_disable (hw : bit w 0 = false) (hen : (d.apt i).en = true) :
    apEntryWrite d i w = d.setApt i { d.apt i with en := false, draining := true, busy := (d.apt i).busy && !bit w 4 } := by
  cases hclear : bit w 4 <;> simp [apEntryWrite, hw, hen, hclear]

/-- A field of a word, as bits of it. -/
theorem ofNat_fld (w : Word) (lo n : Nat) : BitVec.ofNat n (fld w.toNat lo n) = w.extractLsb' lo n := by
  apply BitVec.eq_of_toNat_eq
  simp [fld, Nat.shiftRight_eq_div_pow]

end Entry

/-! ### The clauses on apertures -/

section Clauses
variable {s : State} {i : Fin 32} {o : Nat} (ho : o < 2 ^ 28)
include ho

theorem exec_hostApertureWrite (bs : List Byte) {d : Dev} (h : apWrite s.dev (2 ^ 28 * i.val + o) bs = d) :
    exec (.hostApertureWrite (BitVec.ofNat 33 (2 ^ 28 * i.val + o)) bs) s = .next { s with dev := d } :=
  exec_onDev (f := fun d => apWrite d _ bs) rfl ((congrArg (apWrite s.dev · bs) (bar2_toNat i ho)).trans h)

theorem exec_hostApertureRead (n : Nat) (ext : List Byte) {d : Dev} (h : apRead s.dev (2 ^ 28 * i.val + o) n ext = d) :
    exec (.hostApertureRead (BitVec.ofNat 33 (2 ^ 28 * i.val + o)) n ext) s = .next { s with dev := d } :=
  exec_onDev (f := fun d => apRead d _ n ext) rfl ((congrArg (apRead s.dev · n ext) (bar2_toNat i ho)).trans h)

section Writes
variable (hready : s.dev.boot.st = .ready) (hen : (s.dev.apt i.val).en = true) {bs : List Byte}
  (hwr : (s.dev.apt i.val).wr = true)
include hready hen hwr

/-- R438, R222: a word at an object's window is a signal, which leaves or waits at its source. -/
theorem exec_hostApertureWrite_rennet {obj : Nat} (ht : s.dev.target false ((s.dev.apt i.val).addr o) = .rennet obj 0)
    (hlen : bs.length = 8) :
    ∃ d p, exec (.hostApertureWrite (BitVec.ofNat 33 (2 ^ 28 * i.val + o)) bs) s = .next { s with dev := d } ∧
      if s.dev.sigHolds (.aperture i) (s.dev.target true (objAddr obj)) = true then
        d.writes = s.dev.writes ++ [{
          src := .aperture i, addr := objAddr obj, bytes := leBytes 8 (BitVec.ofNat 64 (ofLe bs)).toNat, path := p, held := true
          what := .sig (s.dev.apSrc i.val (s.dev.apt i.val)) obj (BitVec.ofNat 64 (ofLe bs)) }] ∧
          { d with writes := s.dev.writes } = s.dev
      else d.rennet.msgs = s.dev.rennet.msgs ++
          [.sig (s.dev.apSrc i.val (s.dev.apt i.val)) .sig obj (BitVec.ofNat 64 (ofLe bs))] ∧
        { d with rennet := s.dev.rennet } = s.dev := by
  refine ⟨_, s.dev.pathOf (.aperture i) (s.dev.target true (objAddr obj)) false,
    exec_hostApertureWrite ho bs (apWrite_rennet hready ho hen bs hwr ht hlen), ?_⟩
  unfold Dev.issueSig
  dsimp only
  split
  · exact ⟨rfl, rfl⟩
  · exact ⟨rfl, rfl⟩

variable (hq : s.dev.quiet (.aperture i) 0)
include hq

/-- R438, Table 7.3: a write to a backed line leaves in its units of atomicity. -/
theorem exec_hostApertureWrite_umr {u : Nat} (ht : s.dev.target false ((s.dev.apt i.val).addr o) = .umr u)
    (hback : s.dev.backed u = true) (hpos : 0 < bs.length) (hfit : u % 64 + bs.length ≤ 64) :
    ∃ d p, exec (.hostApertureWrite (BitVec.ofNat 33 (2 ^ 28 * i.val + o)) bs) s = .next { s with dev := d } ∧
      d.coh.noc = s.dev.coh.noc ++ (writeUnits (.aperture i) 0 ((s.dev.apt i.val).addr o) bs false).map
        (fun q => writeMsg (.aperture i) (u + (q.1 - (s.dev.apt i.val).addr o)) q.2) ∧
      d.writes = s.dev.writes ++ (writeUnits (.aperture i) 0 ((s.dev.apt i.val).addr o) bs false).map (fun q =>
        { src := .aperture i, addr := ownAddr (u + (q.1 - (s.dev.apt i.val).addr o)), bytes := q.2, path := p }) ∧
      d.mem = s.dev.mem ∧ d.host = s.dev.host ∧ d.out = s.dev.out := by
  have hwrite := (apWrite_umr hready ho hen bs hwr ht hback hpos hfit).trans (Dev.issueWrites_umr hq ht hpos hfit)
  refine ⟨_, s.dev.pathOf (.aperture i) (.umr u) false, exec_hostApertureWrite ho bs hwrite, ?_, ?_, rfl, rfl, rfl⟩
  · rw [Dev.sent_noc, List.map_map]; rfl
  · rw [Dev.sent_writes, List.map_map]; rfl

/-- R438, R177: a write to a granted range of a Vat is performed at its bank. -/
theorem exec_hostApertureWrite_vat {v : Nat} (ht : s.dev.target false ((s.dev.apt i.val).addr o) = .vat (vatOff v))
    (hopen : s.dev.vatOpen (s.dev.apt i.val).ctx.toNat v bs.length = true) (hpos : 0 < bs.length)
    (hfit : v % 64 + bs.length ≤ 64) :
    ∃ d, exec (.hostApertureWrite (BitVec.ofNat 33 (2 ^ 28 * i.val + o)) bs) s = .next { s with dev := d } ∧
      d.mem = cellsPut s.dev.mem (vatOff v) bs ∧ d.coh = s.dev.coh ∧ d.host = s.dev.host ∧ d.out = s.dev.out := by
  obtain ⟨x, hput⟩ := Dev.issueWrites_vat hq ht hpos hfit
  exact ⟨_, exec_hostApertureWrite ho bs ((apWrite_vat hready ho hen bs hwr ht hopen).trans hput), rfl, rfl, rfl, rfl⟩

end Writes

section Reads
variable (hready : s.dev.boot.st = .ready) (hen : (s.dev.apt i.val).en = true) {n : Nat} {ext : List Byte}
  (hrd : (s.dev.apt i.val).rd = true) (hidle : s.dev.srcBusy (.aperture i) 0 = false)
include hready hen hrd hidle

/-- R439, R440: a read that need not wait answers the bytes of its line, and tells of poison. -/
theorem exec_hostApertureRead_umr {u : Nat} (ht : s.dev.target false ((s.dev.apt i.val).addr o) = .umr u)
    (hgate : s.dev.numbered.readGate u n = .go s.dev.numbered) (hfar : s.dev.farLines u n = [])
    (hcont : s.dev.contended (.aperture i) = false) :
    (s.dev.cohPoison u n = false →
      ∃ d, exec (.hostApertureRead (BitVec.ofNat 33 (2 ^ 28 * i.val + o)) n ext) s = .next { s with dev := d } ∧
        d.out = s.dev.out ++ [.completion (s.dev.cohRead u n)] ∧
        d.host = { s.dev.host with readId := s.dev.host.readId + 1 } ∧
        { d with out := s.dev.out, host := s.dev.host, tiers := s.dev.tiers } = s.dev) ∧
    (s.dev.cohPoison u n = true → s.dev.host.canHold = true →
      ∃ d, exec (.hostApertureRead (BitVec.ofNat 33 (2 ^ 28 * i.val + o)) n ext) s = .next { s with dev := d } ∧
        d.out = s.dev.out ++ [.poisonedCpl (s.dev.cohRead u n)] ∧
        d.host.evtQ = s.dev.host.evtQ ++ [{ apEvent i.val o .poison with t := s.dev.hubCount }] ∧
        { d with out := s.dev.out, host := s.dev.host, tiers := s.dev.tiers } = s.dev) := by
  obtain ⟨t, heat⟩ := s.dev.numbered.heatLines_only u n
  have hbytes : s.dev.numbered.cohRead u n = s.dev.cohRead u n := s.dev.cohRead_modHost _ u n
  have hread := (apRead_umr hready ho n ext hen hrd hidle ht).trans (Dev.readUmr_go hgate hfar hcont rfl)
  dsimp only at hread
  rw [heat, hbytes, show s.dev.numbered.cohPoison u n = s.dev.cohPoison u n from rfl] at hread
  refine ⟨fun hpoison => ?_, fun hpoison hhold => ?_⟩
  · rw [hpoison] at hread
    exact ⟨_, exec_hostApertureRead ho n ext hread, rfl, rfl, rfl⟩
  · rw [hpoison] at hread
    have hevent := Dev.emit_raise_apEvent (d := { s.dev.numbered with tiers := t }) hhold
      (.poisonedCpl (s.dev.cohRead u n)) i.val o .poison
    exact ⟨_, exec_hostApertureRead ho n ext (hread.trans hevent), rfl, rfl, rfl⟩

/-- R440: a read that its home holds is kept. -/
theorem exec_hostApertureRead_hold {u : Nat} {d0 : Dev} (ht : s.dev.target false ((s.dev.apt i.val).addr o) = .umr u)
    (hgate : s.dev.numbered.readGate u n = .hold d0) :
    exec (.hostApertureRead (BitVec.ofNat 33 (2 ^ 28 * i.val + o)) n ext) s = .next { s with dev := d0.modHost (fun h => { h with
      reads := h.reads ++
        [{ id := s.dev.host.readId, ap := i, off := o, addr := (s.dev.apt i.val).addr o, len := n, ext := ext }] }) } :=
  exec_hostApertureRead ho n ext ((apRead_umr hready ho n ext hen hrd hidle ht).trans (Dev.readUmr_hold hgate))

end Reads

section Refused
variable (hready : s.dev.boot.st = .ready) (hen : (s.dev.apt i.val).en = true) (hhold : s.dev.host.canHold = true)
  (ht : s.dev.target false ((s.dev.apt i.val).addr o) = .reserved ∨
    s.dev.target false ((s.dev.apt i.val).addr o) = .privileged ∨
    ((s.dev.apt i.val).wr = false ∧ (s.dev.apt i.val).rd = false))
include hready hen hhold ht

/-- R438: a write that the aperture does not allow is discarded, with an event. -/
theorem exec_hostApertureWrite_refused (bs : List Byte) :
    ∃ d, exec (.hostApertureWrite (BitVec.ofNat 33 (2 ^ 28 * i.val + o)) bs) s = .next { s with dev := d } ∧
      d.host = { s.dev.host with evtQ := s.dev.host.evtQ ++ [{ apEvent i.val o .unmapped with t := s.dev.hubCount }] } ∧
      { d with host := s.dev.host } = s.dev :=
  ⟨_, exec_hostApertureWrite ho bs (apWrite_refused hready ho hen bs (ht.imp_right (·.imp_right And.left))),
    Dev.raise_held _ _ (.inl hhold), rfl⟩

/-- R438: a read that the aperture does not allow is answered Unsupported Request, with an event. -/
theorem exec_hostApertureRead_refused (n : Nat) (ext : List Byte) (hidle : s.dev.srcBusy (.aperture i) 0 = false) :
    ∃ d, exec (.hostApertureRead (BitVec.ofNat 33 (2 ^ 28 * i.val + o)) n ext) s = .next { s with dev := d } ∧
      d.out = s.dev.out ++ [.unsupported] ∧
      d.host.evtQ = s.dev.host.evtQ ++ [{ apEvent i.val o .unmapped with t := s.dev.hubCount }] ∧
      { d with host := s.dev.host, out := s.dev.out } = s.dev := by
  cases hrd : (s.dev.apt i.val).rd
  · have hread := (apRead_closed hready ho n ext hrd).trans (Dev.emit_raise_apEvent hhold .unsupported i.val o .unmapped)
    exact ⟨_, exec_hostApertureRead ho n ext hread, rfl, rfl, rfl⟩
  · have hnowhere := ht.imp_right (·.resolve_right (fun h => by rw [hrd] at h; cases h.2))
    have hread := (apRead_nowhere hready ho n ext hen hrd hidle hnowhere).trans
      (Dev.emit_raise_apEvent (d := s.dev.numbered) hhold .unsupported i.val o .unmapped)
    exact ⟨_, exec_hostApertureRead ho n ext hread, rfl, rfl, rfl⟩

end Refused

end Clauses

section Entries
variable {s : State} {i : Fin 32}

/-- R440: a read that waits too long ends with Completer Abort, and an event. -/
theorem exec_apertureReadTimeout {id : Nat} {r : PendRead} (hr : s.dev.host.reads.find? (fun x => x.id == id) = some r)
    (hhold : s.dev.host.canHold = true) :
    ∃ d, exec (.apertureReadTimeout id) s = .next { s with dev := d } ∧ d.out = s.dev.out ++ [.abortCpl] ∧
      d.host = { s.dev.host with
        reads := s.dev.host.reads.filter (fun x => x.id != id)
        evtQ := s.dev.host.evtQ ++ [{ apEvent r.ap.val r.off .notReady with t := s.dev.hubCount }] } ∧
      { d with out := s.dev.out, host := s.dev.host } = s.dev := by
  have hevent := Dev.emit_raise_apEvent (d := s.dev.modHost (fun h => { h with reads := h.reads.filter (fun x => x.id != id) }))
    hhold .abortCpl r.ap.val r.off .notReady
  change ∃ d, execApertureReadTimeout id s = _ ∧ _
  simp only [execApertureReadTimeout, onDev_eq, hr, hevent]
  exact ⟨_, rfl, rfl, rfl, rfl⟩

/-- The package but for one aperture's entry (R437). -/
def Dev.onlyAperture (d e : Dev) (i : Nat) : Prop := { e with host := d.host } = d ∧ ∀ k, k ≠ i → e.apt k = d.apt k

theorem Dev.setApt_onlyAperture (d : Dev) (i : Nat) (a : Aperture) : d.onlyAperture (d.setApt i a) i :=
  ⟨rfl, fun _ hk => d.apt_setApt_ne a hk⟩

theorem exec_apertureEnable {w : Word} (hw : w.getLsbD 0 = true) :
    exec (.apertureEnable i w) s = .next { s with dev := apEntryWrite s.dev i.val w.toNat } := by
  change execApertureEnable i w s = _
  rw [execApertureEnable, onDev_eq, if_pos (by rwa [bit_toNat])]

theorem exec_apertureDisable {w : Word} (hw : w.getLsbD 0 = false) :
    exec (.apertureDisable i w) s = .next { s with dev := apEntryWrite s.dev i.val w.toNat } := by
  change execApertureDisable i w s = _
  rw [execApertureDisable, onDev_eq, if_neg (by rw [bit_toNat, hw]; decide)]

/-- R437: an aperture whose accesses are all performed or discarded has drained. -/
theorem exec_apertureDrainDone (hdrain : (s.dev.apt i.val).draining = true)
    (hw : s.dev.writes.any (fun w => w.src == .aperture i && w.what.isData) = false)
    (hr : s.dev.host.reads.any (fun r => r.ap == i && r.region.isNone) = false) :
    exec (.apertureDrainDone i) s =
      .next { s with dev := s.dev.setApt i.val { s.dev.apt i.val with draining := false } } := by
  change execApertureDrainDone i s = _
  rw [execApertureDrainDone, onDev_eq]
  simp only [hdrain, hw, hr, Bool.not_false, Bool.and_self, if_true]

end Entries

/-! ### The obligation on apertures -/

/-- Settles O48: an access is the equation of its target, and an entry's write replaces the entry. -/
theorem aperturesReachTheDevice : Obligations.AperturesReachTheDevice := by
  unfold Obligations.AperturesReachTheDevice
  intro s i o ho
  refine ⟨fun hready hen => ⟨fun bs hwr hw hr => ⟨?umr, ?vat, ?sig⟩, fun n ext hrd hidle => ⟨?read, ?hold⟩,
    fun bs ext n hhold ht => ⟨?noWrite, ?noRead⟩⟩, ?timeout, fun w => ⟨?enable, ?busy, ?disable⟩, ?drained⟩
  case umr => exact fun u ht hback hpos hfit => exec_hostApertureWrite_umr ho hready hen hwr ⟨rfl, hw, hr⟩ ht hback hpos hfit
  case vat => exact fun v ht hopen hpos hfit => exec_hostApertureWrite_vat ho hready hen hwr ⟨rfl, hw, hr⟩ ht hopen hpos hfit
  case sig => exact fun obj ht hlen => exec_hostApertureWrite_rennet ho hready hen hwr ht hlen
  case read => exact fun u ht hgate hfar hcont => exec_hostApertureRead_umr ho hready hen hrd hidle ht hgate hfar hcont
  case hold => exact fun u d0 ht hgate => exec_hostApertureRead_hold ho hready hen hrd hidle ht hgate
  case noWrite => exact exec_hostApertureWrite_refused ho hready hen hhold ht bs
  case noRead => exact exec_hostApertureRead_refused ho hready hen hhold ht n ext
  case timeout => exact fun id r hr hhold => exec_apertureReadTimeout hr hhold
  case enable =>
    intro hw hen hdrain
    have hentry := apEntryWrite_enable ((bit_toNat w 0).trans hw) hen hdrain
    rw [bit_toNat, bit_toNat, bit_toNat, ofNat_fld, ofNat_fld] at hentry
    rw [exec_apertureEnable hw, hentry]
    exact ⟨_, rfl, Dev.setApt_onlyAperture _ _ _, Dev.apt_setApt_self _ _ _⟩
  case busy =>
    intro hw hen hdrain
    rw [exec_apertureEnable hw, apEntryWrite_draining ((bit_toNat w 0).trans hw) hen hdrain]
    exact ⟨_, rfl, Dev.setApt_onlyAperture _ _ _, Dev.apt_setApt_self _ _ _⟩
  case disable =>
    intro hw hen
    rw [exec_apertureDisable hw, apEntryWrite_disable ((bit_toNat w 0).trans hw) hen, bit_toNat]
    exact ⟨_, rfl, Dev.setApt_onlyAperture _ _ _, Dev.apt_setApt_self _ _ _⟩
  case drained =>
    intro hdrain hw hr
    obtain ⟨hframe, hothers⟩ := Dev.setApt_onlyAperture s.dev i.val { s.dev.apt i.val with draining := false }
    exact ⟨_, exec_apertureDrainDone hdrain hw hr, Dev.apt_setApt_self _ _ _, hothers, hframe⟩

end Sys2Proof.Machine

/-!
Placement regions, notify pages, doorbell lines, head words and moderation (R441 to R452, R462): what a peer's write and read do
inside a region and outside, and what firmware takes from the words that the host leaves for it.
-/
namespace Sys2Proof.Machine

/-! ### Placement regions (R441, R442) -/

/-- A region's pages are whole pages, so that a byte keeps its place in its line. -/
theorem PRegion.place_mod (r : PRegion) (off : Nat) : r.place off % 64 = off % 64 := by
  simp only [PRegion.place]
  omega

section Regions
variable {d : Dev} {rq off n : Nat} {bs : List Byte} {fr : Fin 4096} {r : PRegion}

/-- A write inside an enabled region is one of the region's UMR page, recorded for its landing counter if it has one. -/
theorem placeWrite_region (hready : d.boot.st = .ready) (hpos : 0 < bs.length) (hfit : off % 64 + bs.length ≤ 64)
    (hr : d.regionAt off bs.length = some (fr.val, r)) :
    placeWrite d rq off bs =
      if r.counter.isSome then (d.issueWrites (.region fr) (ownAddr (r.place off)) bs none 0 rq).modRennet
        (fun x => { x with landings := x.landings ++ [(fr, bs.length)] })
      else d.issueWrites (.region fr) (ownAddr (r.place off)) bs none 0 rq := by
  have hne : bs.isEmpty = false := by simpa [List.isEmpty_iff] using List.length_pos_iff.1 hpos
  have hfr : Fin.ofNat 4096 fr.val = fr := Fin.ofNat_val_eq_self fr
  simp only [placeWrite, Dev.ready_of_boot hready, hne, hr, lines64_line hpos hfit, foldDev, List.foldl, hfr, Bool.not_true,
    Bool.or_self, Bool.false_eq_true, if_false]

/-- The package that has counted one more dropped write (R442). -/
def Dev.dropCounted (d : Dev) : Dev :=
  d.modHost (fun h => { h with placeDrop := min (h.placeDrop + 1) 0xFFFFFFFF, dropsSince := h.dropsSince + 1 })

/-- R442: a write outside every region is dropped and counted. -/
theorem placeWrite_counted (hready : d.boot.st = .ready) (hpos : 0 < bs.length) (hr : d.regionAt off bs.length = none)
    (hms : d.host.dropMs = some (d.hubCount.toNat / 24000)) :
    placeWrite d rq off bs = d.dropCounted := by
  have hne : bs.isEmpty = false := by simpa [List.isEmpty_iff] using List.length_pos_iff.1 hpos
  simp only [placeWrite, Dev.ready_of_boot hready, hne, hr, countsPerMs]
  exact if_pos hms

/-- R442: the first write that is dropped in a millisecond of the Hub's count raises an event with the drops since the last. -/
theorem placeWrite_noted (hready : d.boot.st = .ready) (hpos : 0 < bs.length) (hr : d.regionAt off bs.length = none)
    (hms : d.host.dropMs ≠ some (d.hubCount.toNat / 24000)) (hhold : d.host.canHold = true) :
    placeWrite d rq off bs = d.modHost (fun h => { h with
      placeDrop := min (h.placeDrop + 1) 0xFFFFFFFF, dropsSince := 0, dropMs := some (d.hubCount.toNat / 24000)
      evtQ := h.evtQ ++ [{ evt 9 .ok .hub (h.dropsSince + 1) off 0 with t := d.hubCount }] }) := by
  have hne : bs.isEmpty = false := by simpa [List.isEmpty_iff] using List.length_pos_iff.1 hpos
  have hheld := d.dropCounted.raise_held (evt 9 .ok .hub (d.host.dropsSince + 1) off 0) (.inl hhold)
  simp only [placeWrite, Dev.ready_of_boot hready, hne, hr, countsPerMs]
  refine (if_neg hms).trans ?_
  change (d.dropCounted.raise (evt 9 .ok .hub (d.host.dropsSince + 1) off 0)).modHost _ = _
  rw [Dev.modHost, hheld]
  rfl

/-- An access inside one page is one run. -/
theorem pageCuts_page (hpos : 0 < n) (hfit : off % 4096 + n ≤ 4096) : pageCuts off n = [(off, n)] := by
  have hcut : pageCuts off n = (List.range (n / 4096 + 2)).filterMap (fun i => if i = 0 then some (off, n) else none) := by
    refine List.filterMap_congr fun i _ => ?_
    dsimp only
    obtain rfl | hi := Nat.eq_zero_or_pos i
    · have hstart : max off ((off / 4096 + 0) * 4096) = off := by omega
      have hend : min (off + n) ((off / 4096 + 0 + 1) * 4096) = off + n := by omega
      rw [hstart, hend, if_pos (by omega), if_pos rfl, Nat.add_sub_cancel_left]
    · rw [if_neg (by omega), if_neg (by omega)]
  rw [hcut, List.range_succ_eq_map, List.filterMap_cons]
  simp

theorem Dev.placeGate_one {o m : Nat} (h : d.readGate (r.place o) m = .go d) : d.placeGate r [(o, m)] = .go d := by
  simp only [Dev.placeGate, h]

theorem Dev.placeBytes_one {o m : Nat} (ext : List Byte) (hfar : d.farLines (r.place o) m = []) : d.placeBytes r ext [(o, m)] =
    (d.cohRead (r.place o) m, d.cohPoison (r.place o) m, d.heatLines (r.place o) m) := by
  simp [Dev.placeBytes, Dev.homeRead, hfar]

/-- A write that a peer made through a region. -/
def peerWrite (w : OutW) : Bool :=
  match w.src with
  | .region _ => true
  | _ => false

/-- A read of a region that need not wait answers the bytes of its page, poisoned or not. -/
theorem Dev.placeTry_go {x : PendRead} {k : Nat} (hr : d.regionAt x.off x.len = some (k, r))
    (hw : d.writes.any (fun w => peerWrite w && !w.done) = false)
    (hpos : 0 < x.len) (hfit : x.off % 4096 + x.len ≤ 4096) (hgate : d.readGate (r.place x.off) x.len = .go d)
    (hfar : d.farLines (r.place x.off) x.len = []) :
    d.placeTry x = (d.heatLines (r.place x.off) x.len).emit (if d.cohPoison (r.place x.off) x.len then
      .poisonedCpl (d.cohRead (r.place x.off) x.len) else .completion (d.cohRead (r.place x.off) x.len)) := by
  unfold Dev.placeTry
  rw [hr, pageCuts_page hpos hfit]
  dsimp only
  refine (if_neg (Bool.eq_false_iff.1 hw)).trans ?_
  rw [Dev.placeGate_one hgate]
  dsimp only
  rw [Dev.placeBytes_one x.ext hfar]
  exact (apply_ite _ _ _ _).symm

theorem placeRead_outside {ext : List Byte} (hready : d.boot.st = .ready) (hr : d.regionAt off n = none) :
    placeRead d off n ext = d.emit .unsupported := by
  rw [placeRead, if_pos (Dev.ready_of_boot hready), hr]

theorem placeRead_unreadable {ext : List Byte} {k : Nat} (hready : d.boot.st = .ready) (hr : d.regionAt off n = some (k, r))
    (hread : r.read = false) : placeRead d off n ext = d.emit .unsupported := by
  rw [placeRead, if_pos (Dev.ready_of_boot hready), hr]
  simp only [hread, Bool.not_false, if_true]

/-- A read of a readable region is numbered and tried. -/
theorem placeRead_readable {ext : List Byte} {k : Nat} (hready : d.boot.st = .ready) (hr : d.regionAt off n = some (k, r))
    (hread : r.read = true) : placeRead d off n ext = d.numbered.placeTry
      { id := d.host.readId, ap := 0, off := off, addr := ownAddr (r.place off), len := n, ext := ext
        region := some (Fin.ofNat 4096 k) } := by
  rw [placeRead, if_pos (Dev.ready_of_boot hready), hr]
  simp only [hread, Bool.not_true, Bool.false_eq_true, if_false]
  rfl

end Regions

/-! ### Notify pages (R445) -/

section Notify
variable {d : Dev} {page len : Nat} {off : BitVec 12} {v : Word}

/-- A notify that is well formed and names a line of the page's domain. -/
def notifyGood (page : Nat) (off : BitVec 12) (len : Nat) (v : Word) (l : DbLine) : Prop :=
  off = 0 ∧ (len = 4 ∨ len = 8) ∧ v.toNat % 2 ^ (8 * len) < 1024 ∧ l.pd.toNat = page

theorem notify_marks {l : DbLine} (hready : d.boot.st = .ready) (hl : tget d.host.lines (v.toNat % 2 ^ (8 * len)) = some l)
    (hgood : notifyGood page off len v l) : notify d page off.toNat len v = d.modHost (fun h => { h with
      lines := tput h.lines (v.toNat % 2 ^ (8 * len)) { l with pending := true } }) := by
  obtain ⟨rfl, hlen, hlt, hpd⟩ := hgood
  have hline : fld (v.toNat % 2 ^ (8 * len)) 0 10 = v.toNat % 2 ^ (8 * len) := by
    simpa [fld] using Nat.mod_eq_of_lt hlt
  simp only [notify, hline, hl, Dev.ready_of_boot hready, hpd]
  rw [if_pos (by simp [hlen, hlt])]
  simp only [Dev.modHost, tmod, hl]

theorem notify_ignored (hbad : ∀ l, tget d.host.lines (v.toNat % 2 ^ (8 * len)) = some l → ¬notifyGood page off len v l) :
    notify d page off.toNat len v = d.modHost (fun h => { h with notifyIgn := min (h.notifyIgn + 1) 0xFFFFFFFF }) := by
  unfold notify
  dsimp only
  rw [if_neg]
  · rfl
  · simp only [Bool.and_eq_true, Bool.or_eq_true, decide_eq_true_eq]
    rintro ⟨⟨⟨⟨-, hoff⟩, hlen⟩, hlt⟩, hline⟩
    rw [show fld (v.toNat % 2 ^ (8 * len)) 0 10 = v.toNat % 2 ^ (8 * len) by simpa [fld] using Nat.mod_eq_of_lt hlt] at hline
    split at hline
    next l hl => exact hbad l hl ⟨BitVec.eq_of_toNat_eq hoff, hlen, hlt, by simpa using hline⟩
    next => cases hline

end Notify

/-! ### Doorbell lines (R446 to R448) -/

/-- What firmware reads does not depend on the doorbell lines. -/
theorem Dev.fwRead_lines (d : Dev) (t : Tbl DbLine) (a : Word) (n : Nat) (ext : List Byte) :
    (d.modHost (fun h => { h with lines := t })).fwRead a n ext = d.fwRead a n ext := by
  have hfill (f : Nat) : ((d.modHost (fun h => { h with lines := t })).startFill f).1 = (d.startFill f).1 := by
    rw [Dev.startFill_fst, Dev.startFill_fst]; rfl
  have hgate (off : Nat) :
      ((d.modHost (fun h => { h with lines := t })).readGate off n).refusal = (d.readGate off n).refusal := by
    rw [Dev.readGate_refusal, Dev.readGate_refusal, Dev.frameGate_refusal, Dev.frameGate_refusal, hfill]; rfl
  have hread (off : Nat) :
      ((d.modHost (fun h => { h with lines := t })).homeRead off n ext).map (·.1) = (d.homeRead off n ext).map (·.1) := by
    rw [Dev.homeRead_bytes, Dev.homeRead_bytes, Dev.cohRead_modHost]; rfl
  simp only [Dev.fwRead_eq, hgate, hread]
  rfl

theorem Dev.raise_lines (d : Dev) (e : Event) : (d.raise e).host.lines = d.host.lines := by
  obtain ⟨q, n, k, hraise⟩ := d.raise_eq e
  rw [hraise]
  rfl

theorem Dev.takeTail_lines (d : Dev) (rn : Nat) (v : BitVec 16) : (d.takeTail rn v).host.lines = d.host.lines := by
  unfold Dev.takeTail
  split
  · rfl
  · split
    · rfl
    · split
      · exact Dev.raise_lines _ _
      · rfl

theorem foldDev_takeTail_lines (g : Nat) (bs : List Byte) (l : List Nat) (d : Dev) :
    (foldDev d l (fun d k => d.takeTail (16 * g + k) (lineTail bs k))).host.lines = d.host.lines :=
  foldDev_keeps (fun e => e.host.lines = d.host.lines) (fun e _ he => (e.takeTail_lines _ _).trans he) l rfl

/-- The package that has cleared a line's mark (R446). -/
def Dev.unmarked (d : Dev) (n : Nat) (l : DbLine) : Dev :=
  d.modHost (fun h => { h with lines := tput h.lines n { l with pending := false } })

/-- A marked line that need not wait is read: its mark goes, and each of its rings takes its tail (R446, R447). -/
theorem doorbell_read {d : Dev} {n : Nat} {l : DbLine} {ext bs : List Byte} (hl : tget d.host.lines n = some l)
    (hpending : l.pending = true) (hgo : d.fwHolds l.addr 64 = none) (hread : d.fwRead l.addr 64 ext = .ok bs) :
    ∃ h t k, doorbell d n ext = { d with host := h, tiers := t, coh := k } ∧
      h.lines = tput d.host.lines n { l with pending := false } ∧
      ∀ j, tget h.rings j = if j / 16 = n then (tget d.host.rings j).map (fun r => r.takes (lineTail bs (j % 16)))
        else tget d.host.rings j := by
  have hread' : (d.unmarked n l).fwRead l.addr 64 ext = .ok bs := (d.fwRead_lines _ _ _ _).trans hread
  have htails : doorbell d n ext = foldDev ((d.unmarked n l).fwTouch l.addr 64) (List.range 16)
      (fun d k => d.takeTail (16 * n + k) (lineTail bs k)) := by
    rw [Dev.unmarked] at hread' ⊢
    simp only [doorbell, hl, hpending, Bool.not_true, Bool.false_eq_true, if_false, Dev.fwThen, hgo, hread']
  obtain ⟨t, k, htouch⟩ := (d.unmarked n l).fwTouch_only l.addr 64
  obtain ⟨h, honly, -, hrings⟩ := foldDev_takeTail_only n bs (List.range 16) List.nodup_range
    { d.unmarked n l with tiers := t, coh := k }
  have hlines := foldDev_takeTail_lines n bs (List.range 16) { d.unmarked n l with tiers := t, coh := k }
  rw [honly] at hlines
  rw [htouch, honly] at htails
  refine ⟨h, t, k, htails, hlines, fun j => (hrings j).trans ?_⟩
  by_cases hj : j / 16 = n
  · rw [if_pos ⟨by omega, List.mem_range.2 (by omega)⟩, if_pos hj, show j - 16 * n = j % 16 by omega]
    rfl
  · rw [if_neg (by rw [List.mem_range]; omega), if_neg hj]
    rfl

/-! ### Head words and moderation (R452, R462) -/

/-- A context that takes its head word changes, beside what the read leaves at its home, alone (R452). -/
theorem Dev.fwTouch_modCtx {d : Dev} {c : Nat} {x : Ctx} (hx : d.ctx? c = some x) (a : Word) (n : Nat) (f : Ctx → Ctx) :
    ∃ t k, (d.fwTouch a n).modCtx c f =
      { d with tiers := t, coh := k, host := { d.host with ctxs := tput d.host.ctxs c (f x) } } := by
  obtain ⟨t, k, htouch⟩ := d.fwTouch_only a n
  refine ⟨t, k, ?_⟩
  rw [htouch, Dev.modCtx_of_ctx? (d := { d with tiers := t, coh := k }) hx]
  rfl

/-! ### The clauses on regions and doorbells -/

section Clauses
variable {s : State}

section Peers
variable (hready : s.dev.boot.st = .ready) {off : BitVec 36}
include hready

/-- R442, Table 7.3: a peer's write inside a region leaves in its units of atomicity for the region's page. -/
theorem exec_peerPlacementWrite_region {rq : BitVec 16} {bs : List Byte} {fr : Fin 4096} {r : PRegion} {u : Nat}
    (hpos : 0 < bs.length) (hfit : off.toNat % 64 + bs.length ≤ 64) (hr : s.dev.regionAt off.toNat bs.length = some (fr.val, r))
    (hu : r.place off.toNat = u) (ht : s.dev.target true (ownAddr u) = .umr u) (hq : s.dev.quiet (.region fr) rq.toNat) :
    ∃ d p, exec (.peerPlacementWrite ⟨rq, off⟩ bs) s = .next { s with dev := d } ∧
      d.coh.noc = s.dev.coh.noc ++ (writeUnits (.region fr) 0 (ownAddr u) bs false).map
        (fun q => writeMsg (.region fr) (q.1 - ownAddr 0) q.2) ∧
      d.writes = s.dev.writes ++ (writeUnits (.region fr) 0 (ownAddr u) bs false).map (fun q =>
        { src := .region fr, addr := q.1, bytes := q.2, path := p, rq := rq.toNat }) ∧
      d.mem = s.dev.mem ∧
      d.rennet.landings = s.dev.rennet.landings ++ (if r.counter.isSome then [(fr, bs.length)] else []) ∧
      d.host = s.dev.host := by
  subst hu
  obtain ⟨p, hunits⟩ := Dev.issueWrites_own hq ht hpos (by rwa [r.place_mod])
  have hwrite := placeWrite_region (rq := rq.toNat) hready hpos hfit hr
  rw [hunits] at hwrite
  refine ⟨_, p, exec_onDev (f := (placeWrite · rq.toNat off.toNat bs)) rfl hwrite, ?_⟩
  cases r.counter.isSome
  · exact ⟨rfl, rfl, rfl, (List.append_nil _).symm, rfl⟩
  · exact ⟨rfl, rfl, rfl, rfl, rfl⟩

omit hready in
theorem exec_peerPlacementRead {n : Nat} {ext : List Byte} {d : Dev} (h : placeRead s.dev off.toNat n ext = d) :
    exec (.peerPlacementRead off ⟨n, ext⟩) s = .next { s with dev := d } :=
  exec_onDev (f := (placeRead · off.toNat n ext)) rfl h

/-- R442, R439: a read inside a readable region that need not wait answers the bytes, poisoned or not. -/
theorem exec_peerPlacementRead_region {n : Nat} {ext : List Byte} {k : Nat} {r : PRegion} {u : Nat}
    (hr : s.dev.regionAt off.toNat n = some (k, r)) (hu : r.place off.toNat = u) (hread : r.read = true)
    (hw : s.dev.writes.any (fun w => peerWrite w && !w.done) = false)
    (hpos : 0 < n) (hfit : off.toNat % 4096 + n ≤ 4096) (hgate : s.dev.numbered.readGate u n = .go s.dev.numbered)
    (hfar : s.dev.farLines u n = []) :
    ∃ d, exec (.peerPlacementRead off ⟨n, ext⟩) s = .next { s with dev := d } ∧
      d.out = s.dev.out ++ [if s.dev.cohPoison u n then .poisonedCpl (s.dev.cohRead u n) else .completion (s.dev.cohRead u n)] ∧
      d.host = { s.dev.host with readId := s.dev.host.readId + 1 } ∧
      { d with out := s.dev.out, host := s.dev.host, tiers := s.dev.tiers } = s.dev := by
  subst hu
  obtain ⟨t, heat⟩ := s.dev.numbered.heatLines_only (r.place off.toNat) n
  have hbytes : s.dev.numbered.cohRead (r.place off.toNat) n = s.dev.cohRead (r.place off.toNat) n := s.dev.cohRead_modHost _ _ _
  have htry := (placeRead_readable (ext := ext) hready hr hread).trans
    (Dev.placeTry_go (d := s.dev.numbered) hr hw hpos hfit hgate hfar)
  dsimp only at htry
  rw [heat, hbytes] at htry
  exact ⟨_, exec_peerPlacementRead htry, rfl, rfl, rfl⟩

end Peers

section Notify
variable {page : Fin 256} {off : BitVec 12} {len : Nat} {v : Word}

/-- R238: a notify waits for the host's earlier writes. -/
theorem exec_notifyWrite_held (hhold : s.dev.mustHold (.aperture 0) 0 .near .reserved false false = true) :
    ∃ d w, exec (.notifyWrite page off len v) s = .next { s with dev := d } ∧ d.writes = s.dev.writes ++ [w] ∧
      w.held = true ∧ w.what = .notify page.val off.toNat len v ∧ { d with writes := s.dev.writes } = s.dev := by
  change ∃ d w, execNotifyWrite page off len v s = _ ∧ _
  simp only [execNotifyWrite, onDev_eq, hostNotify, if_pos hhold]
  exact ⟨_, _, rfl, rfl, rfl, rfl, rfl⟩

theorem exec_notifyWrite (hgo : s.dev.mustHold (.aperture 0) 0 .near .reserved false false = false) {d : Dev}
    (h : notify s.dev page.val off.toNat len v = d) : exec (.notifyWrite page off len v) s = .next { s with dev := d } :=
  exec_onDev (f := (hostNotify · page.val off.toNat len v)) rfl ((if_neg (Bool.eq_false_iff.1 hgo)).trans h)

end Notify

/-- R446, R447: reading a marked line clears the mark and gives each ring of the line its tail. -/
theorem exec_doorbellLineRead {n : Fin 1024} {l : DbLine} {ext bs : List Byte} (hl : tget s.dev.host.lines n.val = some l)
    (hpending : l.pending = true) (hgo : s.dev.fwHolds l.addr 64 = none) (hread : s.dev.fwRead l.addr 64 ext = .ok bs) :
    ∃ d, exec (.doorbellLineRead n ext) s = .next { s with dev := d } ∧
      tget d.host.lines n.val = some { l with pending := false } ∧
      { d with host := s.dev.host, tiers := s.dev.tiers, coh := s.dev.coh } = s.dev ∧
      (∀ (k : Fin 16) (r : Ring), tget s.dev.host.rings (16 * n.val + k.val) = some r →
        tget d.host.rings (16 * n.val + k.val) = some (r.takes (lineTail bs k.val))) ∧
      (∀ k, k / 16 ≠ n.val → tget d.host.rings k = tget s.dev.host.rings k) := by
  obtain ⟨h, t, k, hdoor, hlines, hrings⟩ := doorbell_read hl hpending hgo hread
  refine ⟨_, exec_onDev (f := (doorbell · n.val ext)) rfl hdoor, ?_, rfl, fun k r hr => ?_, fun k hk => ?_⟩
  · exact (congrArg (tget · n.val) hlines).trans (tget_tput_self _ _ _)
  · have hk := k.isLt
    refine (hrings _).trans ?_
    rw [if_pos (by omega), hr, Option.map_some, show (16 * n.val + k.val) % 16 = k.val by omega]
  · exact (hrings k).trans (if_neg hk)

/-- R446: a line whose home makes the read wait keeps its mark. -/
theorem exec_doorbellLineRead_hold {n : Fin 1024} {l : DbLine} {ext : List Byte} {d0 : Dev}
    (hl : tget s.dev.host.lines n.val = some l) (hpending : l.pending = true) (hhold : s.dev.fwHolds l.addr 64 = some d0) :
    exec (.doorbellLineRead n ext) s = .next { s with dev := d0 } := by
  refine exec_onDev (f := (doorbell · n.val ext)) rfl ?_
  simp only [doorbell, hl, hpending, Bool.not_true, Bool.false_eq_true, if_false, Dev.fwThen, hhold]

/-- R452: a head word that need not wait reaches its context alone. -/
theorem exec_headWordReread {n : Fin 4096} {x : Ctx} {ext bs : List Byte} (hx : s.dev.ctx? n.val = some x)
    (hgo : s.dev.fwHolds x.head 8 = none) (hread : s.dev.fwRead x.head 8 ext = .ok bs) :
    ∃ d, exec (.headWordReread n ext) s = .next { s with dev := d } ∧ d.ctx? n.val = some { x with headVal := ofLe bs } ∧
      (∀ k, k ≠ n.val → d.ctx? k = s.dev.ctx? k) ∧
      { d with host := s.dev.host, tiers := s.dev.tiers, coh := s.dev.coh } = s.dev := by
  obtain ⟨t, k, hhead⟩ := Dev.fwTouch_modCtx hx x.head 8 (fun x => { x with headVal := ofLe bs })
  change ∃ d, execHeadWordReread n ext s = _ ∧ _
  simp only [execHeadWordReread, onDev_eq, hx, Dev.fwThen, hgo, hread, hhead]
  exact ⟨_, rfl, tget_tput_self _ _ _, fun k hk => tget_tput_ne _ _ hk, rfl⟩

/-- R462: a context with unsignalled records signals its binding once. -/
theorem exec_moderationTimer {n : Fin 4096} {x : Ctx} (hx : s.dev.ctx? n.val = some x) (hunsig : x.unsig ≠ 0) :
    exec (.moderationTimer n) s = .next { s with dev := (s.dev.modHost (fun h =>
      { h with ctxs := tput h.ctxs n.val { x with unsig := 0 } })).fwSignal x.bind } := by
  change execModerationTimer n s = _
  simp only [execModerationTimer, onDev_eq, hx, if_neg hunsig, Dev.modCtx_of_ctx? hx]

theorem exec_moderationTimer_idle {n : Fin 4096} {x : Ctx} (hx : s.dev.ctx? n.val = some x) (hunsig : x.unsig = 0) :
    exec (.moderationTimer n) s = .next s := by
  change execModerationTimer n s = _
  simp only [execModerationTimer, onDev_eq, hx, if_pos hunsig]

/-- R462, R461: through a vector, the signal leaves, waits for firmware's writes, or marks a masked vector. -/
theorem exec_moderationTimer_vector {n : Fin 4096} {x : Ctx} (hx : s.dev.ctx? n.val = some x) (hunsig : x.unsig ≠ 0)
    (hbind : x.bind.getLsbD 0 = false) :
    ∃ d, exec (.moderationTimer n) s = .next { s with dev := d } ∧ d.ctx? n.val = some { x with unsig := 0 } ∧
      d.out = s.dev.out ++ (if s.dev.writes.any (fun w => w.src == .firmware) || (s.dev.vectorOf x.bind).mask then []
        else [.msix (fld x.bind.toNat 1 11) (s.dev.vectorOf x.bind).addr (s.dev.vectorOf x.bind).data]) ∧
      (s.dev.writes.any (fun w => w.src == .firmware) = true → d.host.irqs = s.dev.host.irqs ++ [x.bind]) ∧
      (s.dev.writes.any (fun w => w.src == .firmware) = false → (s.dev.vectorOf x.bind).mask = true →
        tget d.host.msix (fld x.bind.toNat 1 11) = some { s.dev.vectorOf x.bind with pending := true }) ∧
      { d with out := s.dev.out, host := s.dev.host } = s.dev := by
  rw [exec_moderationTimer hx hunsig]
  cases hw : s.dev.writes.any (fun w => w.src == .firmware)
  · obtain ⟨t, hsignal, hmasked⟩ := Dev.fwSignal_now
      (s.dev.modHost (fun h => { h with ctxs := tput h.ctxs n.val { x with unsig := 0 } })) hbind hw
    rw [hsignal]
    exact ⟨_, rfl, tget_tput_self _ _ _, rfl, nofun, fun _ => hmasked, rfl⟩
  · have hsignal := Dev.fwSignal_later
      (s.dev.modHost (fun h => { h with ctxs := tput h.ctxs n.val { x with unsig := 0 } })) x.bind hw
    rw [hsignal]
    exact ⟨_, rfl, tget_tput_self _ _ _, (List.append_nil _).symm, fun _ => rfl, nofun, rfl⟩

end Clauses

/-! ### The obligation on regions and doorbells -/

/-- Settles O49: each clause is the equation of its instruction on the branch that its premises choose. -/
theorem regionsAndDoorbellsReachTheDevice : Obligations.RegionsAndDoorbellsReachTheDevice := by
  unfold Obligations.RegionsAndDoorbellsReachTheDevice
  intro s hready
  refine ⟨fun rq off bs fr r u hpos hfit hr hu ht hw hn => ⟨?write, fun n ext hr => ⟨?unreadable, ?read⟩⟩,
    fun rq off bs ext n hpos hr => ⟨?counted, ?noted, ?outside⟩, ?held, fun page off len v hgo => ⟨?marks, ?ignored⟩,
    ?lineHold, ?line, fun n x hx => ⟨?head, ?signal, ?idle⟩⟩
  case write => exact exec_peerPlacementWrite_region hready hpos hfit hr hu ht ⟨rfl, hw, hn⟩
  case unreadable => exact fun hread => exec_peerPlacementRead (placeRead_unreadable hready hr hread)
  case read =>
    exact fun hread hw hpos hfit hgate hfar => exec_peerPlacementRead_region hready hr hu hread hw hpos hfit hgate hfar
  case counted =>
    intro hms
    exact ⟨_, exec_onDev (f := (placeWrite · rq.toNat off.toNat bs)) rfl (placeWrite_counted hready hpos hr hms), rfl, rfl⟩
  case noted =>
    intro hms hhold
    exact ⟨_, _, exec_onDev (f := (placeWrite · rq.toNat off.toNat bs)) rfl (placeWrite_noted hready hpos hr hms hhold),
      rfl, rfl, rfl, rfl, rfl⟩
  case outside => exact fun hr => exec_peerPlacementRead (placeRead_outside hready hr)
  case held => exact fun page off len v hhold => exec_notifyWrite_held hhold
  case marks =>
    intro l hl hgood
    exact ⟨_, exec_notifyWrite hgo (notify_marks hready hl hgood), tget_tput_self _ _ _, fun k hk => tget_tput_ne _ _ hk,
      rfl, rfl⟩
  case ignored => exact fun hbad => ⟨_, exec_notifyWrite hgo (notify_ignored hbad), rfl, rfl⟩
  case lineHold => exact fun n l ext d0 hl hpending hhold => exec_doorbellLineRead_hold hl hpending hhold
  case line => exact fun n l ext bs hl hpending hgo hread => exec_doorbellLineRead hl hpending hgo hread
  case head => exact fun ext bs hgo hread => exec_headWordReread hx hgo hread
  case signal => exact fun hunsig hbind => exec_moderationTimer_vector hx hunsig hbind
  case idle => exact fun hunsig => exec_moderationTimer_idle hx hunsig

end Sys2Proof.Machine

/-!
The state at reset (R546, R564, Table 19.1): every unit but the power domains and the measurements stands at its own default,
so each part of it is read off that default; a table with one entry for each number is read entry by entry.
-/
namespace Sys2Proof.Machine

/-- A table that lists one entry for each number of `l` has the entry of every number of `l`. -/
theorem tget_map_mk_of_mem {α : Type} (f : Nat → α) {l : List Nat} {n : Nat} (h : n ∈ l) :
    tget (l.map fun k => (k, f k)) n = some (f n) := by
  induction l with
  | nil => cases h
  | cons k l ih =>
    by_cases hk : k = n
    · simp [tget, hk]
    · simpa [tget, hk] using ih (List.mem_of_ne_of_mem (Ne.symm hk) h)

theorem State.reset_safe : State.reset.Safe := Memory.wf_nil

theorem State.reset_core (h : Fin 64) : State.reset.dev.core h = {} := rfl

theorem State.reset_eng (e : Fin 128) : State.reset.dev.eng e = {} := rfl

theorem State.reset_host : State.reset.dev.host = {} := rfl

theorem State.reset_apt (i : Nat) : State.reset.dev.apt i = {} := rfl

/-- R564: every domain but the Hearth stands without power at step 3 of a start. -/
theorem State.reset_domSt {n : Nat} (hn : n < 56) : State.reset.dev.domSt n = .gated := by
  have hlisted : tget State.reset.dev.power.dom n = some .gated := tget_map_mk_of_mem (fun _ => DomSt.gated) (List.mem_range.mpr hn)
  simp [Dev.domSt, tgetD, hlisted]

/-- Settles O55: the cores, engines, apertures and the host interface are those of the lemmas above, the domains are read from the
table that lists them, and the rest is a field of the state as it is written out. That the machine is met there is log 1, and that
memory is empty log 6, both the model's own choices. -/
theorem resetHoldsTheMachineIdle : Obligations.ResetHoldsTheMachineIdle := by
  unfold Obligations.ResetHoldsTheMachineIdle
  refine ⟨State.reset_safe, rfl, rfl, fun h => ⟨?coreRun, ?coreStarting⟩, fun e => ⟨?engStep, ?engRun⟩, ?adm, ?evt, fun i => ?apt,
    fun v => ?mask, rfl, fun n hn => State.reset_domSt hn, rfl, rfl, rfl, rfl, rfl, rfl⟩
  case coreRun | coreStarting => rw [State.reset_core]
  case engStep | engRun => rw [State.reset_eng]
  case adm | evt => rw [State.reset_host]
  case apt => rw [State.reset_apt]
  case mask => rw [State.reset_host]; rfl

end Sys2Proof.Machine

/-!
Hart release, GPIO and the set-up registers that software writes (R576 to R578, R586 to R588). A GPIO edge comes to one of two
things, a quiet change of level or an armed edge that signals; driving the lines is a fold of edges; a write of a register is the
equation of its offset.
-/
namespace Sys2Proof.Machine

/-! ### Releasing a hart (R576, R586) -/

theorem Dev.startHart_onlyCore (d : Dev) (h : Fin 64) : OnlyCore h d (d.startHart h) :=
  ⟨rfl, fun _ hg => d.core_modCore_ne _ hg⟩

/-- R586: bits 47 and 46 of the vector's address are clear when its page lies in the UMR. -/
theorem fld_page_eq_zero_iff (v : BitVec 36) : fld v.toNat 34 2 = 0 ↔ v.toNat < 2 ^ 34 := by
  have hv := v.isLt
  rw [fld]
  omega

theorem ofNat_shiftLeft_page (n : Nat) : (BitVec.ofNat 64 n : Word) <<< 12 = BitVec.ofNat 64 (4096 * n) := by
  apply BitVec.eq_of_toNat_eq
  rw [BitVec.toNat_shiftLeft, BitVec.toNat_ofNat, BitVec.toNat_ofNat, Nat.shiftLeft_eq]
  omega

/-- R576: a started hart runs in M-mode at its reset vector, with its number in a0 and zero in a1. -/
theorem Dev.startHart_core (d : Dev) (h : Fin 64) :
    ((d.startHart h).core h).run = .running ∧ ((d.startHart h).core h).priv = .m ∧
      ((d.startHart h).core h).pc = BitVec.ofNat 64 (4096 * (Two.get d.regs.rvec (halfOf (decide (32 ≤ h.val)))).toNat) ∧
      ((d.startHart h).core h).rx 10 = BitVec.ofNat 64 h.val ∧ ((d.startHart h).core h).rx 11 = 0 := by
  rw [Dev.startHart, Dev.core_modCore_self, ofNat_shiftLeft_page]
  exact ⟨rfl, rfl, rfl, rfl, rfl⟩

section Release
variable {d : Dev} {h : Fin 64} (hready : d.boot.st = .ready) (hup : d.unitUp (coreUnit h) = true)
  (hrun : (d.core h).run = .reset) (hidle : (d.core h).starting = false)
include hready hup hrun hidle

theorem hartRelease_starts (hv : (Two.get d.regs.rvec (halfOf (decide (32 ≤ h.val)))).toNat < 2 ^ 34)
    (hdom : d.domSt (pdGroup (halfOf (decide (32 ≤ h.val))) (h.val % 32 / 8)) = .on) : hartRelease d h = d.startHart h := by
  rw [← fld_page_eq_zero_iff] at hv
  simp [hartRelease, Dev.ready_of_boot hready, hup, hrun, hidle, hv, hdom]

theorem hartRelease_badVector (hv : 2 ^ 34 ≤ (Two.get d.regs.rvec (halfOf (decide (32 ≤ h.val)))).toNat) :
    hartRelease d h = d.modRegs (fun r => { r with hartErr := r.hartErr ||| BitVec.ofNat 64 (2 ^ h.val) }) := by
  rw [← Nat.not_lt, ← fld_page_eq_zero_iff] at hv
  simp [hartRelease, Dev.ready_of_boot hready, hup, hrun, hidle, hv]

end Release

/-! ### An edge of a GPIO line (R587) -/

@[simp] theorem Dev.signal_regs (d : Dev) (b : Word) : (d.signal b).regs = d.regs :=
  (congrArg (fun e : Dev => e.regs) (d.signal_only b) :)

@[simp] theorem Dev.signal_sched (d : Dev) (b : Word) : (d.signal b).sched = d.sched :=
  (congrArg (fun e : Dev => e.sched) (d.signal_only b) :)

/-- The level of one of sixteen lines, set. -/
def setLine (x : BitVec 16) (n : Nat) (up : Bool) : BitVec 16 :=
  if up then x ||| BitVec.ofNat 16 (2 ^ n) else x &&& ~~~BitVec.ofNat 16 (2 ^ n)

theorem ofNat_two_pow_line (n : Nat) : BitVec.ofNat 16 (2 ^ n) = BitVec.twoPow 16 n := by
  apply BitVec.eq_of_toNat_eq
  rw [BitVec.toNat_twoPow, BitVec.toNat_ofNat]

theorem getLsbD_setLine (x : BitVec 16) {n : Nat} (k : Nat) (up : Bool) (hn : n < 16) :
    (setLine x n up).getLsbD k = if k = n then up else x.getLsbD k := by
  rw [setLine, ofNat_two_pow_line]
  by_cases hk : k = n
  · cases up <;> simp [hk, hn]
  · have hlt : x.getLsbD k = true → k < 16 := BitVec.lt_of_getLsbD
    cases up
    · simpa [hk, Ne.symm hk] using hlt
    · simp [hk, Ne.symm hk]

theorem or_twoPow_of_getLsbD {x : BitVec 16} {n : Nat} (h : x.getLsbD n = true) : x ||| BitVec.twoPow 16 n = x := by
  apply BitVec.eq_of_getLsbD_eq
  intro k _
  by_cases hk : n = k
  · simp [← hk, h]
  · simp [hk]

/-- Whether an edge of a line is enabled. -/
def Regs.edgeOn (r : Regs) (n : Nat) (up : Bool) : Bool := if up then r.rise.getLsbD n else r.fall.getLsbD n

/-- The registers after an edge of a line, its EDGE bit aside. -/
def Regs.level (r : Regs) (n : Nat) (up : Bool) : Regs := { r with gpioIn := setLine r.gpioIn n up }

/-- The registers after an edge of a line. -/
def Regs.edged (r : Regs) (n : Nat) (up : Bool) : Regs :=
  { r.level n up with edge := if r.edgeOn n up then r.edge ||| BitVec.ofNat 16 (2 ^ n) else r.edge }

section Edge
variable (d : Dev) (n : Nat) (up : Bool)

theorem gpioEdge_eq : gpioEdge d n up =
    if d.regs.edgeOn n up && !d.regs.edge.getLsbD n then
      (d.modRegs (fun r => { r.level n up with edge := r.edge ||| BitVec.ofNat 16 (2 ^ n) })).signal (tgetD d.regs.bind n 0)
    else d.modRegs (·.level n up) := by
  cases up <;> simp only [gpioEdge, bit_toNat] <;> rfl

/-- An edge that is not enabled, or whose bit is still set, changes the level alone. -/
theorem gpioEdge_quiet (h : d.regs.edgeOn n up = false ∨ d.regs.edge.getLsbD n = true) :
    gpioEdge d n up = d.modRegs (·.level n up) := by
  rw [gpioEdge_eq, if_neg]
  obtain h | h := h <;> simp [h]

theorem gpioEdge_regs : (gpioEdge d n up).regs = d.regs.edged n up := by
  cases hon : d.regs.edgeOn n up
  · rw [gpioEdge_quiet d n up (.inl hon), Regs.edged, hon]
    rfl
  cases hset : d.regs.edge.getLsbD n
  · rw [gpioEdge_eq, hon, hset, Regs.edged, hon]
    exact Dev.signal_regs _ _
  · rw [gpioEdge_quiet d n up (.inr hset), Regs.edged, hon, if_pos rfl, ofNat_two_pow_line, or_twoPow_of_getLsbD hset]
    rfl

theorem gpioEdge_sched : (gpioEdge d n up).sched = d.sched := by
  rw [gpioEdge_eq]
  split
  · exact Dev.signal_sched _ _
  · rfl

end Edge

/-- R587: an edge sets its line's level, an enabled one its bit; one that signals nothing changes the registers alone. -/
theorem exec_gpioEdge (s : State) (n : Fin 16) (up : Bool) :
    ∃ d, exec (.gpioEdge n up) s = .next { s with dev := d } ∧ d.regs.gpioIn.getLsbD n.val = up ∧
      d.regs.edge = (if s.dev.regs.edgeOn n.val up then s.dev.regs.edge ||| BitVec.ofNat 16 (2 ^ n.val) else s.dev.regs.edge) ∧
      (∀ k, k ≠ n.val → d.regs.gpioIn.getLsbD k = s.dev.regs.gpioIn.getLsbD k) ∧ d.mem = s.dev.mem ∧
      (s.dev.regs.edgeOn n.val up = false ∨ s.dev.regs.edge.getLsbD n.val = true → { d with regs := s.dev.regs } = s.dev) := by
  have hlevel k := getLsbD_setLine s.dev.regs.gpioIn k up n.isLt
  refine ⟨gpioEdge s.dev n.val up, rfl, ?_, ?_, fun k hk => ?_, gpioEdge_mem _ _ _, fun hquiet => ?_⟩
  · rw [gpioEdge_regs]
    exact (hlevel n.val).trans (if_pos rfl)
  · rw [gpioEdge_regs]
    rfl
  · rw [gpioEdge_regs]
    exact (hlevel k).trans (if_neg hk)
  · rw [gpioEdge_quiet _ _ _ hquiet]
    rfl

/-! ### Lines that the device drives (log 75) -/

/-- One line takes the level that the device drives it to. -/
def Dev.driveLine (d : Dev) (n : Nat) : Dev :=
  if d.regs.gpioOe.getLsbD n && d.regs.gpioOut.getLsbD n != d.regs.gpioIn.getLsbD n then gpioEdge d n (d.regs.gpioOut.getLsbD n)
  else d

theorem Dev.gpioDrive_eq (d : Dev) : d.gpioDrive = foldDev d (List.range 16) Dev.driveLine := by
  simp only [Dev.gpioDrive, bit_toNat]
  rfl

theorem Dev.driveLine_outputs (d : Dev) (n : Nat) :
    (d.driveLine n).regs.gpioOut = d.regs.gpioOut ∧ (d.driveLine n).regs.gpioOe = d.regs.gpioOe := by
  unfold Dev.driveLine
  split
  · rw [gpioEdge_regs]
    exact ⟨rfl, rfl⟩
  · exact ⟨rfl, rfl⟩

theorem Dev.driveLine_sched (d : Dev) (n : Nat) : (d.driveLine n).sched = d.sched := by
  unfold Dev.driveLine
  split
  · exact gpioEdge_sched _ _ _
  · rfl

theorem Dev.driveLine_gpioIn (d : Dev) {n : Nat} (k : Nat) (hn : n < 16) : (d.driveLine n).regs.gpioIn.getLsbD k =
    if k = n ∧ d.regs.gpioOe.getLsbD k = true then d.regs.gpioOut.getLsbD k else d.regs.gpioIn.getLsbD k := by
  unfold Dev.driveLine
  split
  next hdrive =>
    rw [Bool.and_eq_true] at hdrive
    rw [gpioEdge_regs]
    refine (getLsbD_setLine _ k _ hn).trans ?_
    by_cases hk : k = n
    · rw [if_pos hk, if_pos ⟨hk, hk ▸ hdrive.1⟩, hk]
    · rw [if_neg hk, if_neg fun h => hk h.1]
  next hkeep =>
    split
    next h =>
      obtain ⟨rfl, hoe⟩ := h
      simp only [hoe, Bool.true_and, bne_iff_ne, ne_eq, not_not] at hkeep
      exact hkeep.symm
    next => rfl

theorem foldDev_driveLine_outputs (d : Dev) (l : List Nat) :
    (foldDev d l Dev.driveLine).regs.gpioOut = d.regs.gpioOut ∧ (foldDev d l Dev.driveLine).regs.gpioOe = d.regs.gpioOe :=
  foldDev_keeps (fun e => e.regs.gpioOut = d.regs.gpioOut ∧ e.regs.gpioOe = d.regs.gpioOe)
    (fun e n he => ⟨(e.driveLine_outputs n).1.trans he.1, (e.driveLine_outputs n).2.trans he.2⟩) l ⟨rfl, rfl⟩

theorem foldDev_driveLine_gpioIn (d : Dev) {l : List Nat} (hl : ∀ n ∈ l, n < 16) (k : Nat) :
    (foldDev d l Dev.driveLine).regs.gpioIn.getLsbD k =
      if k ∈ l ∧ d.regs.gpioOe.getLsbD k = true then d.regs.gpioOut.getLsbD k else d.regs.gpioIn.getLsbD k := by
  induction l generalizing d with
  | nil => simp [foldDev]
  | cons n t ih =>
    obtain ⟨hout, hoe⟩ := d.driveLine_outputs n
    refine (ih (d.driveLine n) fun m hm => hl m (List.mem_cons_of_mem n hm)).trans ?_
    rw [hout, hoe, d.driveLine_gpioIn k (hl n List.mem_cons_self)]
    by_cases hk : d.regs.gpioOe.getLsbD k = true
    · by_cases ht : k ∈ t <;> simp [hk, ht]
    · simp [hk]

theorem Dev.gpioDrive_outputs (d : Dev) :
    d.gpioDrive.regs.gpioOut = d.regs.gpioOut ∧ d.gpioDrive.regs.gpioOe = d.regs.gpioOe := by
  rw [Dev.gpioDrive_eq]
  exact foldDev_driveLine_outputs d _

theorem Dev.gpioDrive_gpioIn (d : Dev) {k : Nat} (hk : k < 16) : d.gpioDrive.regs.gpioIn.getLsbD k =
    if d.regs.gpioOe.getLsbD k then d.regs.gpioOut.getLsbD k else d.regs.gpioIn.getLsbD k := by
  rw [Dev.gpioDrive_eq, foldDev_driveLine_gpioIn d (fun _ => List.mem_range.1) k]
  simp only [List.mem_range, hk, true_and]

theorem Dev.gpioDrive_sched (d : Dev) : d.gpioDrive.sched = d.sched := by
  rw [Dev.gpioDrive_eq]
  exact foldDev_keeps (fun e => e.sched = d.sched) (fun e n he => (e.driveLine_sched n).trans he) _ rfl

/-! ### Writes of set-up registers (R577, R578) -/

theorem regWrite_whole (d : Dev) {off : Nat} (v : Word) (h : off % 8 = 0) :
    regWrite d off 8 v = regPut d off v.toNat true true := by
  simp [regWrite, h]

/-- R577: a write of another size or alignment is discarded. -/
theorem regWrite_discarded (d : Dev) {off n : Nat} (v : Word) (h : (n ≠ 4 ∧ n ≠ 8) ∨ off % n ≠ 0) :
    regWrite d off n v = d := by
  have hwhole : ¬(n = 8 ∧ off % 8 = 0) := by rintro ⟨rfl, _⟩; omega
  have hlow : ¬(n = 4 ∧ off % 8 = 0) := by rintro ⟨rfl, _⟩; omega
  have hhigh : ¬(n = 4 ∧ off % 8 = 4) := by rintro ⟨rfl, _⟩; omega
  simp only [regWrite, Bool.and_eq_true, decide_eq_true_eq, if_neg hwhole, if_neg hlow, if_neg hhigh]

/-- R578: the identity page holds no register that takes a write. -/
theorem regPut_identity (d : Dev) {off : Nat} (w : Nat) (lo hi : Bool) (h : off < 0x1000) : regPut d off w lo hi = d := by
  have hlow : ∀ a b, 0x1000 ≤ a → (decide (a ≤ off) && decide (off < b)) = false := by
    intro a b ha
    rw [decide_eq_false (by omega : ¬a ≤ off), Bool.false_and]
  unfold regPut
  rw [hlow _ _ (by decide), hlow _ _ (by decide), hlow _ _ (by decide)]
  simp only [Bool.false_eq_true, if_false]
  split
  on_goal -1 => rfl
  all_goals omega

/-- R588: the base of a free aperture's entry takes the field of the word. -/
theorem regPut_apertureBase (d : Dev) (i : Fin 32) (v : Word) (hen : (d.apt i.val).en = false)
    (hdrain : (d.apt i.val).draining = false) :
    regPut d (0x8008 + 16 * i.val) v.toNat true true = d.setApt i.val { d.apt i.val with base := v.extractLsb' 21 35 } := by
  have hin : 0x8000 ≤ 0x8008 + 16 * i.val ∧ 0x8008 + 16 * i.val < 0x8200 := by omega
  have hindex : (0x8008 + 16 * i.val - 0x8000) / 16 = i.val := by omega
  have hbase : ¬(0x8008 + 16 * i.val) % 16 = 0 := by omega
  simp only [regPut, decide_eq_true hin.1, decide_eq_true hin.2, Bool.and_self, if_true, hindex, if_neg hbase, apBaseWrite, hen,
    hdrain, Bool.or_self, Bool.false_eq_true, if_false, ofNat_fld]

/-- The upper of the two sixteen-bit fields of GPIO_OUT and GPIO_EDGE (Table 20.5). -/
theorem ofNat_toNat_high (v : Word) : BitVec.ofNat 16 (v.toNat / 65536) = v.extractLsb' 16 16 :=
  congrArg (BitVec.ofNat 16) (Nat.shiftRight_eq_div_pow v.toNat 16).symm

theorem regPut_gpioOut (d : Dev) (v : Word) : regPut d 0x5008 v.toNat true true =
    (d.modRegs (fun r => { r with gpioOut := v.extractLsb' 0 16, gpioOe := v.extractLsb' 16 16 })).gpioDrive := by
  rw [← ofNat_toNat_high]
  rfl

theorem regPut_gpioEdge (d : Dev) (v : Word) : regPut d 0x5010 v.toNat true true =
    d.modRegs (fun r => { r with rise := v.extractLsb' 0 16, fall := v.extractLsb' 16 16 }) := by
  rw [← ofNat_toNat_high]
  rfl

theorem regPut_westVector (d : Dev) (v : Word) : regPut d 0x4008 v.toNat true true =
    d.modRegs (fun r => { r with rvec := { r.rvec with w := v.extractLsb' 12 36 } }) := by
  rw [← ofNat_fld]
  rfl

section Write
variable {s : State} (hup : s.dev.debugUp = true)
include hup

theorem exec_setupRegisterWrite (off : BitVec 20) (n : Nat) (v : Word) :
    exec (.setupRegisterWrite off n v) s = .next { s with dev := regWrite s.dev off.toNat n v } := by
  change execSetupRegisterWrite off n v s = _
  rw [execSetupRegisterWrite, onDev_eq, if_pos hup]

theorem exec_setupRegisterWrite_whole {off : BitVec 20} {v : Word} {d : Dev} (halign : off.toNat % 8 = 0)
    (h : regPut s.dev off.toNat v.toNat true true = d) : exec (.setupRegisterWrite off 8 v) s = .next { s with dev := d } := by
  rw [exec_setupRegisterWrite hup, regWrite_whole _ _ halign, h]

/-- The outputs and their enables are the two fields of GPIO_OUT, and a driven line takes its level (log 75). -/
theorem exec_setupRegisterWrite_gpioOut (v : Word) :
    ∃ d, exec (.setupRegisterWrite 0x5008 8 v) s = .next { s with dev := d } ∧ d.regs.gpioOut = v.extractLsb' 0 16 ∧
      d.regs.gpioOe = v.extractLsb' 16 16 ∧
      (∀ n, n < 16 → d.regs.gpioIn.getLsbD n = if v.getLsbD (16 + n) then v.getLsbD n else s.dev.regs.gpioIn.getLsbD n) ∧
      d.mem = s.dev.mem ∧ d.sched = s.dev.sched := by
  obtain ⟨hout, hoe⟩ := Dev.gpioDrive_outputs
    (s.dev.modRegs (fun r => { r with gpioOut := v.extractLsb' 0 16, gpioOe := v.extractLsb' 16 16 }))
  refine ⟨_, exec_setupRegisterWrite_whole hup rfl (regPut_gpioOut _ v), hout, hoe, fun n hn => ?_,
    Dev.gpioDrive_mem _, Dev.gpioDrive_sched _⟩
  rw [Dev.gpioDrive_gpioIn _ hn]
  simp [hn]

/-- The base of a free aperture's entry changes, and nothing else. -/
theorem exec_setupRegisterWrite_apertureBase (v : Word) (i : Fin 32) (hen : (s.dev.apt i.val).en = false)
    (hdrain : (s.dev.apt i.val).draining = false) :
    ∃ d, exec (.setupRegisterWrite (BitVec.ofNat 20 (0x8008 + 16 * i.val)) 8 v) s = .next { s with dev := d } ∧
      d.apt i.val = { s.dev.apt i.val with base := v.extractLsb' 21 35 } ∧ (∀ k, k ≠ i.val → d.apt k = s.dev.apt k) ∧
      { d with host := s.dev.host } = s.dev := by
  have hoff : (BitVec.ofNat 20 (0x8008 + 16 * i.val)).toNat = 0x8008 + 16 * i.val := by
    rw [BitVec.toNat_ofNat]
    omega
  obtain ⟨hframe, hothers⟩ := Dev.setApt_onlyAperture s.dev i.val { s.dev.apt i.val with base := v.extractLsb' 21 35 }
  refine ⟨_, exec_setupRegisterWrite_whole hup ?_ (by rw [hoff]; exact regPut_apertureBase s.dev i v hen hdrain),
    Dev.apt_setApt_self _ _ _, hothers, hframe⟩
  omega

/-- R578: the identity page is read-only. -/
theorem exec_setupRegisterWrite_identity (off : BitVec 20) (v : Word) (h : off.toNat < 0x1000) :
    exec (.setupRegisterWrite off 8 v) s = .next s := by
  by_cases halign : off.toNat % 8 = 0
  · exact exec_setupRegisterWrite_whole hup halign (regPut_identity _ _ _ _ h)
  · rw [exec_setupRegisterWrite hup, regWrite_discarded _ _ (.inr halign)]

end Write

/-! ### The obligation on hart release, GPIO and set-up registers -/

/-- Settles O51: a release starts its hart or marks its error; an edge and a driven line are rules of the sixteen lines; each
register is the equation of its offset. That a driven line takes its level is the model's own choice (log 75). -/
theorem setUpRegistersAct : Obligations.SetUpRegistersAct := by
  unfold Obligations.SetUpRegistersAct
  intro s
  refine ⟨fun h hready hunit hrun hidle => ⟨?start, ?badVector⟩, fun n up => exec_gpioEdge s n up, fun _ => rfl,
    fun hup v => ⟨?out, ?edges, ?vector, ?binding, ?base, ?discarded, ?identity⟩⟩
  case start =>
    exact fun hv hdom => ⟨_, exec_onDev (f := (hartRelease · h)) rfl (hartRelease_starts hready hunit hrun hidle hv hdom),
      s.dev.startHart_onlyCore h, s.dev.startHart_core h⟩
  case badVector =>
    exact fun hv => ⟨_, exec_onDev (f := (hartRelease · h)) rfl (hartRelease_badVector hready hunit hrun hidle hv), rfl, rfl⟩
  case out => exact exec_setupRegisterWrite_gpioOut hup v
  case edges => exact exec_setupRegisterWrite_whole hup rfl (regPut_gpioEdge _ v)
  case vector => exact ⟨_, exec_setupRegisterWrite_whole hup rfl (regPut_westVector _ v), rfl, rfl⟩
  case binding => exact exec_setupRegisterWrite_whole hup rfl rfl
  case base => exact fun i hen hdrain => exec_setupRegisterWrite_apertureBase hup v i hen hdrain
  case discarded =>
    intro off n hbad
    rw [exec_setupRegisterWrite hup, regWrite_discarded _ _ hbad]
  case identity => exact fun off hoff => exec_setupRegisterWrite_identity hup off v hoff

end Sys2Proof.Machine

/-!
The queue of waiting commands: no command's effect depends on it, so that it drains in order.
-/
namespace Sys2Proof.Machine

/-! ### What a command does to the package does not depend on the queue -/

/-- A meaning that answers the same package under every queue, and leaves the queue as it is. -/
def Queueless (f : State → Res) : Prop := ∀ d, ∃ d', ∀ q, f ⟨q, d⟩ = .next ⟨q, d'⟩

/-- A meaning over the package alone is one. -/
theorem Queueless.of_onDev {f : State → Res} (h : ∃ g, ∀ s, f s = onDev s g) : Queueless f := by
  obtain ⟨g, h⟩ := h
  exact fun d => ⟨g d, fun q => h ⟨q, d⟩⟩

theorem Queueless.of_onEng {f : State → Res} (h : ∃ e g, ∀ s, f s = onEng e s g) : Queueless f := by
  obtain ⟨e, g, h⟩ := h
  exact .of_onDev ⟨_, h⟩

theorem queueless_rowRun (i : Instr) : Queueless (rowRun i) := by
  unfold rowRun
  cases i with
  | xaissue | xawait | xapoll | engineLoad | engineStore | engineAmo | engineLr | engineSc =>
    dsimp only
    exact .of_onDev ⟨_, fun _ => rfl⟩
  | xtissue | xtwait | xtpoll | xrsig | xradd | xrwait | xacq | xrel | xacqrel | xlaW | xlaD | xsrW | xsrD | xvfence | xvcvtf
  | xvcvtt | xvcvttSr | xvscale | xvsclf | xvdot | engineFence | engineFenceI | engineWfi | ebreak =>
    dsimp only
    exact .of_onEng ⟨_, _, fun _ => rfl⟩
  | _ => exact .of_onDev ⟨id, fun _ => rfl⟩

theorem queueless_ecallRun (e : Fin 128) : Queueless (ecallRun e) := by
  intro d
  unfold ecallRun
  dsimp only
  split
  · exact Queueless.of_onEng (f := execKend e) ⟨_, _, fun _ => rfl⟩ d
  · exact Queueless.of_onEng (f := execSexit e) ⟨_, _, fun _ => rfl⟩ d
  · exact Queueless.of_onEng (f := execSfail e) ⟨_, _, fun _ => rfl⟩ d
  · exact Queueless.of_onEng (f := execEcallUnknown e) ⟨_, _, fun _ => rfl⟩ d

theorem queueless_wordRun (e : Fin 128) (w : Option Nat) (len : Nat) (ext : List Byte) : Queueless (wordRun e w len ext) := by
  cases w with
  | none => exact .of_onDev ⟨fun d => d.engExc e excIllegal 0, fun _ => rfl⟩
  | some w =>
    intro d
    unfold wordRun
    dsimp only
    by_cases hecall : w = 0x00000073
    · simpa only [if_pos hecall] using queueless_ecallRun e d
    · simp only [if_neg hecall]
      cases decodeRow e (BitVec.ofNat 32 w) with
      | none =>
        cases hplain : d.plain e w len ext with
        | none => exact ⟨d.engExc e excIllegal 0, fun _ => by simp only [onDev, hplain]⟩
        | some f => exact ⟨f, fun _ => by simp only [onDev, hplain]⟩
      | some i =>
        obtain ⟨d', hrow⟩ := queueless_rowRun (withExt i ext) d
        by_cases hlen : len = 2
        · exact ⟨(fixLen e (d.eng e).instret ⟨[], d'⟩).dev, fun q => by simp only [hrow, if_pos hlen]; rfl⟩
        · exact ⟨d', fun q => by simp only [hrow, if_neg hlen]⟩

theorem queueless_execEngineInstruction (e : Fin 128) (w : CodeWord) : Queueless (execEngineInstruction e w) := by
  intro d
  unfold execEngineInstruction
  dsimp only
  by_cases hrun : (d.canRun e || d.midLoad e) = true
  · simp only [if_pos hrun]
    cases d.fetch e (fld w.bits.toNat 0 2 == 3) w.ans with
    | error f => exact ⟨f, fun _ => rfl⟩
    | ok f =>
      by_cases hlong : (fld w.bits.toNat 0 2 == 3) = true
      · simpa only [if_pos hlong] using queueless_wordRun e (some w.bits.toNat) 4 w.ext f
      · simpa only [if_neg hlong] using queueless_wordRun e (expandC (w.bits.toNat % 65536)) 2 w.ext f
  · exact ⟨d, fun _ => by simp only [if_neg hrun]⟩

theorem queueless_exec (i : Instr) : Queueless (exec i) := by
  unfold exec
  cases i with
  | engineInstruction e w => exact queueless_execEngineInstruction e w
  | xtissue | xtwait | xtpoll | xrsig | xradd | xrwait | xacq | xrel | xacqrel | xlaW | xlaD | xsrW | xsrD | xvfence | xvcvtf
  | xvcvtt | xvcvttSr | xvscale | xvsclf | xvdot | xsrseedWrite | engineFence | engineFenceI | engineWfi | ebreak | kend | sexit
  | sfail | ecallUnknown =>
    dsimp only
    exact .of_onEng ⟨_, _, fun _ => rfl⟩
  | _ =>
    dsimp only
    exact .of_onDev ⟨_, fun _ => rfl⟩

/-! ### The queue drains in order -/

/-- Perform one command on what the earlier ones answered, with the queue kept at `q`. -/
def performWith (q : List Instr) (r : Res) (i : Instr) : Res :=
  match r with
  | .next u => exec i { u with pending := q }
  | x => x

/-- As many steps as commands wait perform them front first, on the package that each leaves to the next. -/
theorem runAll_eq_foldl (q l : List Instr) (d : Dev) :
    ∃ d', runAll l.length ⟨l, d⟩ = .next ⟨[], d'⟩ ∧ l.foldl (performWith q) (.next ⟨q, d⟩) = .next ⟨q, d'⟩ := by
  induction l generalizing d with
  | nil => exact ⟨d, rfl, rfl⟩
  | cons i l ih =>
    obtain ⟨d₁, hexec⟩ := queueless_exec i d
    obtain ⟨d', hrun, hfold⟩ := ih d₁
    refine ⟨d', ?_, ?_⟩
    · simpa only [List.length_cons, runAll, step, hexec] using hrun
    · simpa only [List.foldl_cons, performWith, hexec] using hfold

/-! ### The obligations on the queue -/

/-- Settles O1: a step on a queue that is not empty is its second equation. -/
theorem stepRunsTheFrontCommand : Obligations.StepRunsTheFrontCommand := fun _ _ _ => rfl

/-- Settles O3: no command reads or writes the queue, so the commands that wait run as the fold over them does. That a command
whose conditions do not hold answers a next state is the model's own choice (log 3). -/
theorem commandsAnswerInOrder : Obligations.CommandsAnswerInOrder := by
  refine ⟨fun i s => (queueless_exec i s.dev).imp fun _ h => h s.pending, fun s => ?_⟩
  obtain ⟨d, hrun, hfold⟩ := runAll_eq_foldl s.pending s.pending s.dev
  exact ⟨⟨[], d⟩, hrun, rfl, hfold.symm⟩

end Sys2Proof.Machine

/-!
The instructions of a vector engine that complete at once, wait for a release, or leave as a message (chapter 04): what each does
to its engine, and that it changes nothing else.
-/
namespace Sys2Proof.Machine

/-! ### A period of the counts (R489) -/

theorem Dev.hostSettle_of_no_reads {d : Dev} (h : d.host.reads = []) : d.hostSettle = d := by
  have hhost : { d.host with reads := [] } = d.host := by rw [← h]
  rw [Dev.hostSettle, h]
  show { d with host := { d.host with reads := [] } } = d
  rw [hhost]

theorem Dev.marginGo_of_no_margin {d : Dev} (h : d.hbm.margin = none) : d.marginGo = d := by
  have hhbm : { d.hbm with margin := none } = d.hbm := by rw [← h]
  unfold Dev.marginGo
  split
  · rfl
  · show { d with hbm := { d.hbm with margin := d.hbm.margin.map _ } } = d
    rw [h, Option.map_none, hhbm]

theorem Dev.mboxReturnGo_of_none {d : Dev} (h : d.sec.mboxReturn = none) : d.mboxReturnGo = d := by
  simp only [Dev.mboxReturnGo, h]

/-- Settles O2: with no RETURN under way, no host read waiting and no margining sweep, a period's later parts change nothing. That
a step on an empty queue is one period is the model's choice (log 2). -/
theorem idleStepAdvancesTheCounts : Obligations.IdleStepAdvancesTheCounts := by
  intro s hq hmbox hreads hmargin
  have htick : s.dev.tick = { s.dev with
      hubCount := if s.dev.power.vinOk then s.dev.hubCount + 1 else s.dev.hubCount
      count := if s.dev.islandsUp then ⟨s.dev.count.w + 1, s.dev.count.e + 1⟩ else s.dev.count } := by
    rw [Dev.tick, Dev.mboxReturnGo_of_none (by exact hmbox), Dev.hostSettle_of_no_reads (by exact hreads),
      Dev.marginGo_of_no_margin (by exact hmargin)]
  refine ⟨s.dev.tick, by simp only [step, hq], ?_, ?_, ?_⟩ <;> rw [htick]

/-! ### An instruction that changes its own engine alone -/

theorem Dev.modEng_onlyEngine (d : Dev) (e : Fin 128) (f : Engine → Engine) : OnlyEngine e d (d.modEng e f) :=
  ⟨rfl, fun _ hg => d.eng_modEng_ne f hg⟩

theorem tput_tput_self {α : Type} (t : Tbl α) (n : Nat) (x y : α) : tput (tput t n x) n y = tput t n y := by
  induction t with
  | nil => simp [tput]
  | cons p t ih =>
    obtain ⟨k, v⟩ := p
    rcases Nat.lt_trichotomy n k with h | h | h
    · simp [tput, h]
    · simp [tput, h]
    · simp [tput, Nat.lt_asymm h, Nat.ne_of_gt h, ih]

/-- Two changes of one engine are one. -/
theorem Dev.modEng_modEng (d : Dev) (e : Fin 128) (f g : Engine → Engine) :
    (d.modEng e f).modEng e g = d.modEng e (fun x => g (f x)) := by
  simp only [Dev.modEng, Dev.setEng, Dev.eng, tgetD_tput_self, tput_tput_self]

section Runs
variable {s : State} {e : Fin 128} {i : Instr} (hrun : s.dev.canRun e = true)
include hrun

/-- An engine that runs code performs its instruction. -/
theorem exec_onEng {f : Dev → Dev} {d : Dev} (hi : exec i s = onEng e s f) (hf : f s.dev = d) :
    exec i s = .next { s with dev := d } :=
  exec_onDev hi (by rw [if_pos hrun, hf])

/-- An instruction that comes to a change of its engine changes that engine alone. -/
theorem exec_onlyEngine {f : Dev → Dev} (g : Engine → Engine) (hi : exec i s = onEng e s f) (hf : f s.dev = s.dev.modEng e g) :
    ∃ d, exec i s = .next { s with dev := d } ∧ OnlyEngine e s.dev d ∧ d.eng e = g (s.dev.eng e) :=
  ⟨_, exec_onEng hrun hi hf, s.dev.modEng_onlyEngine e g, s.dev.eng_modEng_self e g⟩

theorem exec_modEng (g : Engine → Engine) (hi : exec i s = onEng e s (fun d => d.modEng e g)) :
    ∃ d, exec i s = .next { s with dev := d } ∧ OnlyEngine e s.dev d ∧ d.eng e = g (s.dev.eng e) :=
  exec_onlyEngine hrun g hi rfl

end Runs

/-! ### Tickets (R137) -/

/-- R137: a wait for ticket 0, or for one past the last, is for the last ticket given. -/
theorem Dev.waitLimit_eq {d : Dev} {e : Fin 128} {n : Nat} {st : Step} (hn : (d.eng e).step = some n) (hst : d.step? n = some st)
    (t : Word) : d.waitLimit e t = if t.toNat = 0 ∨ st.ticket < t.toNat then st.ticket else t.toNat := by
  have hzero : t = 0#64 ↔ t.toNat = 0 := by simp [← BitVec.toNat_inj]
  simp [Dev.waitLimit, hn, hst, Step.waitLimit, hzero]

/-! ### Releases (R143, R222) -/

/-- What an engine waits for is its own: setting it leaves the progress of its releases as it was. -/
theorem Dev.release_eq (d : Dev) (e : Fin 128) (sc : Scope) (k : Cont) :
    d.release_ e sc k = if d.released (.engine e) sc && d.contReady e k then (d.setRun e (.release sc k)).runCont e k
      else d.setRun e (.release sc k) := by
  have hrun : ((d.setRun e (.release sc k)).eng e).run = .release sc k := by simp [Dev.setRun]
  unfold Dev.release_ Dev.settleEng
  dsimp only
  rw [hrun]
  rfl

/-- A releasing instruction goes on at once when its release has completed and nothing else holds it back. -/
theorem Dev.release_go {d : Dev} {e : Fin 128} {sc : Scope} {k : Cont} (hrel : d.released (.engine e) sc = true)
    (hready : d.contReady e k = true) : d.release_ e sc k = (d.setRun e (.release sc k)).runCont e k := by
  rw [Dev.release_eq, hrel, hready, Bool.true_and, if_pos rfl]

/-- One whose release has not completed waits for it. -/
theorem Dev.release_wait {d : Dev} {e : Fin 128} {sc : Scope} {k : Cont} (hrel : d.released (.engine e) sc = false) :
    d.release_ e sc k = d.setRun e (.release sc k) := by
  rw [Dev.release_eq, hrel, Bool.false_and, if_neg Bool.false_ne_true]

/-- A fence, whose only effect beside the release is one on its engine that does not depend on what the engine waits for. -/
theorem exec_release {s : State} {e : Fin 128} {i : Instr} {sc : Scope} {k : Cont} (hrun : s.dev.canRun e = true)
    {g : Engine → Engine} (hi : exec i s = onEng e s (fun d => d.release_ e sc k)) (hk : s.dev.contReady e k = true)
    (hgo : (s.dev.setRun e (.release sc k)).runCont e k = s.dev.modEng e g) :
    ∃ d, exec i s = .next { s with dev := d } ∧ OnlyEngine e s.dev d ∧
      d.eng e = if s.dev.released (.engine e) sc then g (s.dev.eng e) else { s.dev.eng e with run := .release sc k } := by
  cases hrel : s.dev.released (.engine e) sc with
  | true => exact exec_onlyEngine hrun g hi (by rw [Dev.release_go hrel hk, hgo])
  | false => exact exec_onlyEngine hrun _ hi (Dev.release_wait hrel)

/-- What an acquire leaves of an engine. -/
theorem Engine.acquire_eq (x : Engine) (sc : Scope) :
    x.acquire sc = { x with l1d := if sc = Scope.engine then x.l1d else [] } := by
  by_cases hsc : sc = .engine <;> simp [Engine.acquire, hsc, Engine.dropL1]

/-- A release that goes on to an acquire retires whatever the engine waited for. -/
theorem Dev.runCont_acquire (d : Dev) (e : Fin 128) (r : EngRun) (sc : Scope) :
    (d.setRun e r).runCont e (.acquire sc) =
      d.modEng e (fun x => { x with l1d := if sc = Scope.engine then x.l1d else [] }.retire) := by
  simp only [Dev.runCont, Dev.setRun, Dev.modEng_modEng, Engine.acquire_eq]
  rfl

/-! ### The obligations on an engine's own instructions -/

/-- Settles O4: each comes to one change of its engine. -/
theorem engineInstructionsThatRunAtOnce : Obligations.EngineInstructionsThatRunAtOnce := by
  intro s e rd rs1 sc v n st hrun hn hst
  have hlim := Dev.waitLimit_eq hn hst
  refine ⟨?poll, ?tpoll, ?acq, exec_modEng hrun (fun x => { x with l1i := [] }.retire) rfl, exec_modEng hrun Engine.retire rfl,
    exec_modEng hrun (fun x => { x with xsrseed := v }.retire) rfl,
    exec_modEng hrun (fun x => { x.retire with run := .kended }) rfl⟩
  case tpoll => exact ⟨_, exec_onDev rfl (if_pos hrun), s.dev.modEng_onlyEngine e _, s.dev.eng_modEng_self e _⟩
  case acq =>
    rw [← Engine.acquire_eq]
    exact exec_modEng hrun (fun x => (x.acquire sc).retire) rfl
  case poll =>
    have hexec : exec (.xapoll e rd rs1) s = .next { s with dev := s.dev.modEng e (fun x =>
        (x.wx rd (if s.dev.anvilDone n (s.dev.waitLimit e ((s.dev.eng e).rx rs1)) then 1 else 0)).retire) } :=
      exec_onDev rfl (by simp only [if_pos hrun, hn])
    exact ⟨_, hexec, s.dev.modEng_onlyEngine e _, by rw [Dev.eng_modEng_self, hlim]⟩

/-- Settles O6: each is a release that goes on to no more than its engine's retirement. -/
theorem engineReleases : Obligations.EngineReleases := by
  intro s e sc hrun
  refine ⟨exec_release hrun rfl rfl ?_, exec_release hrun rfl rfl (Dev.runCont_acquire ..),
    exec_release hrun rfl rfl (Dev.runCont_acquire ..)⟩
  simp only [Dev.runCont, Dev.setRun, Dev.modEng_modEng]
  rfl

/-! ### Issues (R37, R135, R138) -/

theorem Dev.setRun_setRun (d : Dev) (e : Fin 128) (r q : EngRun) : (d.setRun e r).setRun e q = d.setRun e q :=
  d.modEng_modEng e _ _

@[simp] theorem Dev.eng_setRun_self (d : Dev) (e : Fin 128) (r : EngRun) : (d.setRun e r).eng e = { d.eng e with run := r } :=
  d.eng_modEng_self e _

theorem Dev.eng_setRun_ne (d : Dev) {e g : Fin 128} (r : EngRun) (h : g ≠ e) : (d.setRun e r).eng g = d.eng g :=
  d.eng_modEng_ne _ h

/-- A release that goes on to an issue issues it: what the engine waited for is replaced. -/
theorem Dev.release_issue {d : Dev} {e : Fin 128} (rd : Fin 32) (a : Word) {rl : Bool}
    (hrel : rl = true → d.released (.engine e) .package = true) :
    (if rl then d.release_ e .package (.issue rd a) else d.runCont e (.issue rd a)) = d.runCont e (.issue rd a) := by
  cases rl with
  | false => rfl
  | true => rw [if_pos rfl, Dev.release_go (hrel rfl) rfl, Dev.runCont, Dev.setRun_setRun]; rfl

theorem Dev.release_tissue {d : Dev} {e : Fin 128} (rd : Fin 32) (a : Word) (c : Fin 4) {rl : Bool}
    (hrel : rl = true → d.released (.engine e) .package = true) :
    (if rl then d.release_ e .package (.tissue rd a c) else d.runCont e (.tissue rd a c)) = d.setRun e (.tissue rd a c) := by
  cases rl with
  | false => rfl
  | true => rw [if_pos rfl, Dev.release_go (hrel rfl) rfl, Dev.runCont, Dev.setRun_setRun]

/-- Settles O7: an issue whose release has completed is its continuation at once, and the channel's check comes first. -/
theorem engineIssues : Obligations.EngineIssues := by
  intro s e rd rs1 rs2 rl n hrun hn
  refine ⟨fun hrel => ?issue, fun hrel hc => ?tissue, fun hc => ?illegal⟩
  case issue =>
    have hexec : exec (.xaissue e rd rs1 rl) s = .next { s with dev := s.dev.runCont e (.issue rd ((s.dev.eng e).rx rs1)) } :=
      exec_onDev rfl (by rw [if_pos hrun]; exact Dev.release_issue rd _ hrel)
    exact ⟨_, hexec, rfl, s.dev.eng_setRun_self e _, rfl, fun g hg => s.dev.eng_setRun_ne _ hg⟩
  case tissue =>
    refine exec_onlyEngine hrun (fun x => { x with
      run := .tissue rd ((s.dev.eng e).rx rs1) (Fin.ofNat 4 ((s.dev.eng e).rx rs2).toNat) })
      (f := fun d => d.xtissue e rd rs1 rs2 rl) rfl ?_
    rw [Dev.xtissue, if_neg (by omega)]
    exact Dev.release_tissue rd _ _ hrel
  case illegal => exact exec_onEng hrun (f := fun d => d.xtissue e rd rs1 rs2 rl) rfl (if_pos hc)

/-! ### Rennet operations (R140, R141, R203, R222) -/

@[simp] theorem Dev.engSrc_setRun (d : Dev) (e : Fin 128) (r : EngRun) : (d.setRun e r).engSrc e = d.engSrc e := by
  have hctx : (d.setRun e r).engCtx e = d.engCtx e := by
    simp only [Dev.engCtx, Dev.eng_setRun_self]
    rfl
  simp only [Dev.engSrc, hctx]
  rfl

/-- A message for a bank of this node joins the messages; with it one engine changes. -/
def Dev.rennetSent (d : Dev) (e : Fin 128) (m : RMsg) (f : Engine → Engine) : Dev :=
  (d.modRennet (fun r => { r with msgs := r.msgs ++ [m] })).modEng e f

theorem Dev.rennetSent_setRun (d : Dev) (e : Fin 128) (r : EngRun) (m : RMsg) (f : Engine → Engine) :
    (d.setRun e r).rennetSent e m f = d.rennetSent e m (fun x => f { x with run := r }) :=
  (d.modRennet (fun r => { r with msgs := r.msgs ++ [m] })).modEng_modEng e (fun x => { x with run := r }) f

section Rennet
variable {d : Dev} {e : Fin 128} {a : Word} {obj : Nat} (hobj : d.rennetAddr a = some (none, obj))
include hobj

/-- R140: an aligned address of an object of this node stops no Rennet instruction. -/
theorem Dev.rennetStop_of_own (halign : a.toNat % 64 = 0) (store waits : Bool) : d.rennetStop e a store waits = none := by
  simp [Dev.rennetStop, halign, hobj]

/-- A signal whose release has completed leaves for its bank, and its engine goes on. -/
theorem Dev.release_signal {sc : Scope} {v : Word} (hrel : d.released (.engine e) sc = true)
    (hready : d.contReady e (.signal a v) = true) :
    d.release_ e sc (.signal a v) = d.rennetSent e (.sig (d.engSrc e) .sig obj v) Engine.retire := by
  have hobj' : (d.setRun e (.release sc (.signal a v))).rennetAddr a = some (none, obj) := hobj
  rw [Dev.release_go hrel hready]
  simp only [Dev.runCont, hobj', Dev.rennetSend, Dev.engSrc_setRun]
  exact d.rennetSent_setRun e _ _ Engine.retire

/-- An add whose release has completed leaves for its bank, and its engine waits for the reply. -/
theorem Dev.release_add {sc : Scope} {rd : Fin 32} {v : BitVec 32} (hrel : d.released (.engine e) sc = true)
    (hready : d.contReady e (.add rd a v sc) = true) :
    d.release_ e sc (.add rd a v sc) =
      d.rennetSent e (.add (d.engSrc e) obj v) (fun x => { x with run := .reply rd a (sc != .engine) }) := by
  have hobj' : (d.setRun e (.release sc (.add rd a v sc))).rennetAddr a = some (none, obj) := hobj
  rw [Dev.release_go hrel hready]
  simp only [Dev.runCont, hobj', Dev.rennetSend, Dev.engSrc_setRun, Bool.false_eq_true, if_false]
  exact d.rennetSent_setRun e _ _ (fun x => { x with run := .reply rd a (sc != .engine) })

end Rennet

/-- An instruction that sends a message to a bank of this node changes its engine and the messages alone. -/
theorem exec_rennetSent {s : State} {e : Fin 128} {i : Instr} (hrun : s.dev.canRun e = true) {f : Dev → Dev} {m : RMsg}
    {g : Engine → Engine} (hi : exec i s = onEng e s f) (hf : f s.dev = s.dev.rennetSent e m g) :
    ∃ d, exec i s = .next { s with dev := d } ∧ d.eng e = g (s.dev.eng e) ∧
      d.rennet = { s.dev.rennet with msgs := s.dev.rennet.msgs ++ [m] } ∧
      { d with engines := s.dev.engines, rennet := s.dev.rennet } = s.dev ∧ ∀ k, k ≠ e → d.eng k = s.dev.eng k :=
  ⟨_, exec_onEng hrun hi hf, (s.dev.modRennet _).eng_modEng_self e g, rfl, rfl, fun _ hk => (s.dev.modRennet _).eng_modEng_ne g hk⟩

/-- Settles O8: past the address checks, each is a message to the object's bank and a change of its engine. -/
theorem engineRennetOperations : Obligations.EngineRennetOperations := by
  intro s e rd rs1 rs2 sc obj hrun halign hobj hrel hready
  have hstop := Dev.rennetStop_of_own (e := e) hobj halign
  refine ⟨exec_rennetSent hrun (g := Engine.retire) (by unfold exec execXrsig; rfl) ?sig,
    exec_rennetSent hrun (g := fun x => { x with run := .reply rd ((s.dev.eng e).rx rs1) (sc != .engine) })
      (by unfold exec execXradd; rfl) ?add,
    exec_rennetSent hrun (g := fun x => { x with run := .rwait rd ((s.dev.eng e).rx rs1) sc })
      (by unfold exec execXrwait; rfl) ?wait⟩
  case sig => simp only [hstop, Dev.release_signal hobj hrel hready]
  case add => simp only [hstop, Dev.release_add hobj hrel hready, BitVec.ofNat_toNat, BitVec.truncate_eq_setWidth]
  case wait => simp only [hstop, hobj, Dev.rennetSend, Dev.rennetSent, Dev.setRun]

end Sys2Proof.Machine

/-!
The addresses of Rennet objects (R24, chapter 06).
-/
namespace Sys2Proof.Machine

/-- The Rennet range of Table 1.6 leads to its objects. -/
theorem localTarget_rennet {off : Nat} (hlo : rennetBase ≤ off) (hhi : off < rennetBase + 0x800000) :
    localTarget off = .rennet ((off - rennetBase) / 64) (off % 64) := by
  have hvat : isVat off = false := by
    have hend : ¬ off < vatBase + 0x20000000 := by simp only [rennetBase, vatBase] at *; omega
    rw [isVat, decide_eq_false hend, Bool.and_false, Bool.false_and]
  have humr : ¬ off < 0x400000000000 := by simp only [rennetBase] at hlo; omega
  simp only [localTarget, if_neg humr, hvat, hlo, hhi]
  rfl

/-- No other offset leads to one. -/
theorem localTarget_eq_rennet {off m b : Nat} (h : localTarget off = .rennet m b) :
    rennetBase ≤ off ∧ off < rennetBase + 0x800000 ∧ m = (off - rennetBase) / 64 ∧ b = off % 64 := by
  unfold localTarget at h
  split at h
  · cases h
  · split at h
    · cases h
    · split at h
      next hr =>
        cases h
        simpa using hr
      · split at h <;> cases h

/-- Settles O20: the range holds 131,072 objects of 64 bytes, numbered from its start. -/
theorem rennetObjectsHaveTheirAddresses : Obligations.RennetObjectsHaveTheirAddresses := by
  intro n hn
  refine ⟨fun b hb => ?address, ?half, fun off m b _ h => ?only⟩
  case address =>
    rw [localTarget_rennet (by simp only [rennetBase]; omega) (by simp only [rennetBase]; omega)]
    simp only [rennetBase, Target.rennet.injEq]
    omega
  case half =>
    by_cases hw : n < 65536
    · rw [if_pos hw, objHalf, decide_eq_false (by omega)]; rfl
    · rw [if_neg hw, objHalf, decide_eq_true (by omega)]; rfl
  case only =>
    obtain ⟨hlo, hhi, rfl, rfl⟩ := localTarget_eq_rennet h
    simp only [rennetBase] at *
    omega

end Sys2Proof.Machine

/-!
What no write, message, wake or record touches: the stacks, the supply, the unit records, the Rind, start-up, the set-up registers,
the Cave and the counts stand aside from all of them. One rule for each operation, in the order of the model.
-/
namespace Sys2Proof.Machine

/-- A node's place in the Chain: whether it is joined or leaving, its number and its incarnation. -/
def Chain.place (c : Chain) : Bool × Bool × Nat × BitVec 4 := (c.joined, c.leaving, c.node, c.inc)

/-- The parts of the package that stand aside. -/
def Dev.aside (d : Dev) :
    Hbm × Power × Faults × Sec × Boot × Regs × Cave × Two Word × Word × Bool × Bool × Nat × BitVec 4 :=
  (d.hbm, d.power, d.faults, d.sec, d.boot, d.regs, d.cave, d.count, d.hubCount, d.chain.place)

section Parts
variable {d e : Dev} (h : d.aside = e.aside)
include h

theorem Dev.hbm_of_aside : d.hbm = e.hbm := congrArg (fun x => x.1) h
theorem Dev.power_of_aside : d.power = e.power := congrArg (fun x => x.2.1) h
theorem Dev.faults_of_aside : d.faults = e.faults := congrArg (fun x => x.2.2.1) h
theorem Dev.sec_of_aside : d.sec = e.sec := congrArg (fun x => x.2.2.2.1) h
theorem Dev.boot_of_aside : d.boot = e.boot := congrArg (fun x => x.2.2.2.2.1) h
theorem Dev.place_of_aside : d.chain.place = e.chain.place := congrArg (fun x => x.2.2.2.2.2.2.2.2.2) h

end Parts

@[simp] theorem Dev.ite_aside {c : Prop} [Decidable c] (d e : Dev) :
    (if c then d else e).aside = if c then d.aside else e.aside := apply_ite Dev.aside c d e

@[simp] theorem Dev.setWrites_aside (d : Dev) (l : List OutW) : ({ d with writes := l } : Dev).aside = d.aside := rfl

/-! ### The operations that every family shares -/

@[simp] theorem foldDev_aside {α : Type} {f : Dev → α → Dev} (hf : ∀ d x, (f d x).aside = d.aside) (d : Dev)
    (l : List α) : (foldDev d l f).aside = d.aside :=
  foldDev_keeps (fun e => e.aside = d.aside) (fun e x h => (hf e x).trans h) l rfl

@[simp] theorem Dev.modHost_aside (d : Dev) (f) : (d.modHost f).aside = d.aside := rfl

@[simp] theorem Dev.modTiers_aside (d : Dev) (f) : (d.modTiers f).aside = d.aside := rfl

@[simp] theorem Dev.modAnvil_aside (d : Dev) (f) : (d.modAnvil f).aside = d.aside := rfl

@[simp] theorem Dev.modRennet_aside (d : Dev) (f) : (d.modRennet f).aside = d.aside := rfl

@[simp] theorem Dev.modCoh_aside (d : Dev) (f) : (d.modCoh f).aside = d.aside := rfl

@[simp] theorem Dev.modChain_aside (d : Dev) {f : Chain → Chain} (hjoined : (f d.chain).joined = d.chain.joined)
    (hleaving : (f d.chain).leaving = d.chain.leaving) (hnode : (f d.chain).node = d.chain.node)
    (hinc : (f d.chain).inc = d.chain.inc) : (d.modChain f).aside = d.aside := by
  simp only [Dev.aside, Chain.place, Dev.modChain, hjoined, hleaving, hnode, hinc]

@[simp] theorem Dev.modPort_aside (d : Dev) (p f) : (d.modPort p f).aside = d.aside := rfl

@[simp] theorem Dev.emit_aside (d : Dev) (o) : (d.emit o).aside = d.aside := rfl

@[simp] theorem Dev.modEng_aside (d : Dev) (e f) : (d.modEng e f).aside = d.aside := rfl

@[simp] theorem Dev.modCore_aside (d : Dev) (h f) : (d.modCore h f).aside = d.aside := rfl

@[simp] theorem Dev.modStep_aside (d : Dev) (n f) : (d.modStep n f).aside = d.aside := rfl

@[simp] theorem Dev.wr_aside (d : Dev) (off bs) : (d.wr off bs).aside = d.aside := rfl

@[simp] theorem Dev.setPoison_aside (d : Dev) (line) : (d.setPoison line).aside = d.aside := by
  unfold Dev.setPoison
  split <;> rfl

@[simp] theorem Dev.clrPoison_aside (d : Dev) (line) : (d.clrPoison line).aside = d.aside := rfl

@[simp] theorem Dev.heatUp_aside (d : Dev) (off) : (d.heatUp off).aside = d.aside := rfl

@[simp] theorem Dev.fixPsn_aside (d : Dev) (f) : (d.fixPsn f).aside = d.aside := rfl

@[simp] theorem Dev.markDirty_aside (d : Dev) (off) : (d.markDirty off).aside = d.aside := rfl

@[simp] theorem Dev.loseResv_aside (d : Dev) (off who sub) : (d.loseResv off who sub).aside = d.aside := rfl

@[simp] theorem Dev.raise_aside (d : Dev) (e) : (d.raise e).aside = d.aside := by
  unfold Dev.raise
  exact Dev.modHost_aside d _

@[simp] theorem Dev.signal_aside (d : Dev) (b) : (d.signal b).aside = d.aside := by simp [Dev.signal]

@[simp] theorem Dev.queueRec_aside (d : Dev) (c r) : (d.queueRec c r).aside = d.aside := rfl

@[simp] theorem Dev.dataRec_aside (d : Dev) (kind off gran source die) :
    (d.dataRec kind off gran source die).aside = d.aside :=
  foldDev_aside (fun e c => e.queueRec_aside c _) d _

@[simp] theorem Dev.loseLine_aside (d : Dev) (off source die) :
    (d.loseLine off source die).aside = d.aside := by simp [Dev.loseLine]

@[simp] theorem Dev.lostStore_aside (d : Dev) (src ctx step node addr len red sg) :
    (d.lostStore src ctx step node addr len red sg).aside = d.aside := by
  unfold Dev.lostStore
  (repeat' split) <;> simp

@[simp] theorem Dev.cancelFar_aside (d : Dev) (e) : (d.cancelFar e).aside = d.aside := rfl

@[simp] theorem Dev.abandon_aside (d : Dev) (e) : (d.abandon e).aside = d.aside := by simp [Dev.abandon]

@[simp] theorem Dev.dropUser_aside (d : Dev) (u) : (d.dropUser u).aside = d.aside := rfl

@[simp] theorem Dev.stopEng_aside (d : Dev) (e) : (d.stopEng e).aside = d.aside := by simp [Dev.stopEng]

@[simp] theorem Dev.stallEnds_aside (d : Dev) (c) : (d.stallEnds c).aside = d.aside := rfl

@[simp] theorem Dev.stopAll_aside (d : Dev) (n es) : (d.stopAll n es).aside = d.aside := by simp [Dev.stopAll]

@[simp] theorem Dev.endStep_aside (d : Dev) (n o) : (d.endStep n o).aside = d.aside := by
  unfold Dev.endStep
  split <;> simp

@[simp] theorem Dev.failStep_aside (d : Dev) (n st detail addr) :
    (d.failStep n st detail addr).aside = d.aside := by simp [Dev.failStep]

@[simp] theorem Dev.failEng_aside (d : Dev) (e st detail addr) : (d.failEng e st detail addr).aside = d.aside := by
  unfold Dev.failEng
  split <;> simp

/-! ### Writes, reads and messages on their way -/

@[simp] theorem Dev.rekeyDue_aside (d : Dev) (pn) : (d.rekeyDue pn).aside = d.aside := by
  unfold Dev.rekeyDue
  dsimp only
  split <;> rfl

@[simp] theorem Dev.frameOut_aside (d : Dev) (pn k) : (d.frameOut pn k).aside = d.aside := by simp [Dev.frameOut]

@[simp] theorem Dev.portSend_aside (d : Dev) (pn k) : (d.portSend pn k).aside = d.aside := by simp [Dev.portSend]

theorem Dev.trySend_aside {d e : Dev} {dst : Nat} {k : ChainPkt} (h : d.trySend dst k = some e) : e.aside = d.aside := by
  unfold Dev.trySend at h
  grind [Dev.portSend_aside, Dev.modChain_aside, Chain.place]

@[simp] theorem flushList_aside (d : Dev) (l keep) : (flushList d l keep).aside = d.aside := by
  induction l generalizing d keep with
  | nil => simp [flushList]
  | cons p t ih =>
    unfold flushList
    split
    · exact ih d _
    · split
      next e he => rw [ih, Dev.trySend_aside he]
      · exact ih d _

@[simp] theorem transitList_aside (d : Dev) (l keep) : (transitList d l keep).aside = d.aside := by
  induction l generalizing d keep with
  | nil => simp [transitList]
  | cons p t ih =>
    unfold transitList
    dsimp only
    (repeat' split) <;> simp [ih, Dev.owe]

@[simp] theorem Dev.flushSend_aside (d : Dev) : d.flushSend.aside = d.aside := by simp [Dev.flushSend]

@[simp] theorem Dev.chainSend_aside (d : Dev) (dst cls src ctx pd tag len body slice) :
    (d.chainSend dst cls src ctx pd tag len body slice).aside = d.aside := by simp [Dev.chainSend]

@[simp] theorem Dev.newTag_aside (d : Dev) : d.newTag.2.aside = d.aside := rfl

@[simp] theorem Dev.vatPut_aside (d : Dev) (v bs but) : (d.vatPut v bs but).aside = d.aside := rfl

@[simp] theorem Dev.send_aside (d : Dev) (m) : (d.send m).aside = d.aside := rfl

@[simp] theorem Dev.launch_aside (d : Dev) (w t) : (d.launch w t).aside = d.aside := by
  unfold Dev.launch
  dsimp only
  split
  · rw [Dev.setWrites_aside, Dev.send_aside]
  · simp
  · simp
  · split
    · simp
    · rw [Dev.ite_aside, Dev.setWrites_aside, Dev.send_aside, Dev.chainSend_aside, Dev.setWrites_aside d.newTag.2,
        Dev.newTag_aside, ite_self]
  · rfl

@[simp] theorem Dev.issueWrite_aside (d : Dev) (src addr bs red rq) : (d.issueWrite src addr bs red rq).aside = d.aside := by
  unfold Dev.issueWrite
  dsimp only
  split
  · rfl
  · exact Dev.launch_aside d _ _

@[simp] theorem Dev.issueWrites_aside (d : Dev) (src addr bs red u rq) :
    (d.issueWrites src addr bs red u rq).aside = d.aside := by simp [Dev.issueWrites]

@[simp] theorem Dev.rennetSend_aside (d : Dev) (n src step m) : (d.rennetSend n src step m).aside = d.aside := by
  unfold Dev.rennetSend
  dsimp only
  split
  · rfl
  · split
    · split
      · rw [Dev.chainSend_aside, Dev.setWrites_aside, Dev.newTag_aside]
      · simp
    · split <;> simp
    · split <;> simp
    · rfl

@[simp] theorem Dev.setRun_aside (d : Dev) (e r) : (d.setRun e r).aside = d.aside := rfl

@[simp] theorem Dev.sendAtomic_aside (d : Dev) (e addr op) : (d.sendAtomic e addr op).aside = d.aside := by
  unfold Dev.sendAtomic
  split <;> simp

@[simp] theorem Dev.vatAmo_aside (d : Dev) (v op w b) : (d.vatAmo v op w b).2.aside = d.aside := rfl

@[simp] theorem Dev.runCont_aside (d : Dev) (e k) : (d.runCont e k).aside = d.aside := by
  unfold Dev.runCont
  (repeat' split) <;> simp

@[simp] theorem Dev.settleEng_aside (d : Dev) (e) : (d.settleEng e).aside = d.aside := by
  unfold Dev.settleEng
  dsimp only
  cases (d.eng e).run with
  | release sc k => simp
  | await t =>
    cases (d.eng e).step with
    | none => rfl
    | some n => simp
  | twait t => simp
  | vfence => simp
  | _ => rfl

@[simp] theorem Dev.flushIrqs_aside (d : Dev) : d.flushIrqs.aside = d.aside := by
  unfold Dev.flushIrqs
  split
  · rfl
  · rw [foldDev_aside Dev.signal_aside]
    rfl

@[simp] theorem Dev.settle_aside (d : Dev) : d.settle.aside = d.aside := by
  unfold Dev.settle
  dsimp only
  rw [Dev.modAnvil_aside, foldDev_aside Dev.settleEng_aside, Dev.flushIrqs_aside]

/-! ### Frames and firmware accesses -/

@[simp] theorem Dev.startFill_aside (d : Dev) (f) : (d.startFill f).2.aside = d.aside := by
  unfold Dev.startFill
  dsimp only
  (repeat' split) <;> simp

@[simp] theorem Dev.redEnter_aside (d : Dev) (line) : (d.redEnter line).aside = d.aside := rfl

theorem Dev.frameGate_aside {d e : Dev} {off : Nat} (h : d.frameGate off = .go e ∨ d.frameGate off = .hold e) :
    e.aside = d.aside := by
  unfold Dev.frameGate at h
  grind [Dev.startFill_aside]

theorem Dev.readGate_aside {d e : Dev} {off n : Nat} (h : d.readGate off n = .go e ∨ d.readGate off n = .hold e) :
    e.aside = d.aside := by
  unfold Dev.readGate at h
  grind [Dev.frameGate_aside]

@[simp] theorem Dev.fwPut_aside (d : Dev) (off bs) : (d.fwPut off bs).aside = d.aside := by
  unfold Dev.fwPut
  split
  next e he _ =>
    have hgo := Dev.readGate_aside (.inl he)
    dsimp only
    split <;> simp [hgo]
  · simp

@[simp] theorem Dev.fwWrite_aside (d : Dev) (a bs) : (d.fwWrite a bs).aside = d.aside := by
  unfold Dev.fwWrite
  split <;> simp

/-! ### Traps of the application cores -/

@[simp] theorem Dev.exc_aside (d : Dev) (h cause tval) : (d.exc h cause tval).aside = d.aside := rfl

/-! ### Coherence messages -/

@[simp] theorem Dev.chainMsg_aside (d : Dev) (n m) : (d.chainMsg n m).aside = d.aside := by simp [Dev.chainMsg]

@[simp] theorem Dev.toAgent_aside (d : Dev) (m) : (d.toAgent m).aside = d.aside := by
  unfold Dev.toAgent
  split <;> simp

@[simp] theorem Dev.toHome_aside (d : Dev) (m) : (d.toHome m).aside = d.aside := by
  unfold Dev.toHome
  split <;> simp

theorem Dev.refuseReq_aside {d e : Dev} {m : NMsg} (h : d.refuseReq m = some e) : e.aside = d.aside := by
  unfold Dev.refuseReq at h
  grind [Dev.toAgent_aside, Dev.modCoh_aside]

@[simp] theorem Dev.spendTicket_aside (d : Dev) (m) : (d.spendTicket m).aside = d.aside := by
  unfold Dev.spendTicket
  split <;> rfl

@[simp] theorem Dev.setHolder_aside (d : Dev) (key h s) : (d.setHolder key h s).aside = d.aside := rfl

@[simp] theorem Dev.noteHolder_aside (d : Dev) (key who st) : (d.noteHolder key who st).aside = d.aside := by
  unfold Dev.noteHolder
  split <;> rfl

@[simp] theorem Dev.takeEntry_aside (d : Dev) (key) : (d.takeEntry key).aside = d.aside := by simp [Dev.takeEntry]

@[simp] theorem Dev.touchSys_aside (d : Dev) (line) : (d.touchSys line).aside = d.aside := rfl

@[simp] theorem Dev.dropSys_aside (d : Dev) (line) : (d.dropSys line).aside = d.aside := rfl

@[simp] theorem Dev.toMemory_aside (d : Dev) (a bs poison fresh) :
    (d.toMemory a bs poison fresh).aside = d.aside := by simp [Dev.toMemory]

@[simp] theorem Dev.doAtomic_aside (d : Dev) (m) : (d.doAtomic m).2.aside = d.aside := by
  unfold Dev.doAtomic
  split <;> simp

@[simp] theorem Dev.doWrite_aside (d : Dev) (m) : (d.doWrite m).aside = d.aside := by
  unfold Dev.doWrite
  split <;> rfl

@[simp] theorem Dev.noteRefusal_aside (d : Dev) (n st) : (d.noteRefusal n st).aside = d.aside := by simp [Dev.noteRefusal]

@[simp] theorem Dev.answer_aside (d : Dev) (m b) : (d.answer m b).aside = d.aside := by
  unfold Dev.answer
  (repeat' split) <;> simp

@[simp] theorem Dev.sendData_aside (d : Dev) (m bs st dirty poison fresh) :
    (d.sendData m bs st dirty poison fresh).aside = d.aside := by simp [Dev.sendData]

/-! ### Coherence at the home -/

@[simp] theorem Dev.setTxn_aside (d : Dev) (key t) : (d.setTxn key t).aside = d.aside := rfl

@[simp] theorem Dev.dropTxn_aside (d : Dev) (key) : (d.dropTxn key).aside = d.aside := rfl

@[simp] theorem Dev.modProxy_aside (d : Dev) (key f) : (d.modProxy key f).aside = d.aside := rfl

@[simp] theorem Dev.holdMsg_aside (d : Dev) (m) : (d.holdMsg m).aside = d.aside := rfl

@[simp] theorem Dev.queueRed_aside (d : Dev) (m) : (d.queueRed m).aside = d.aside := rfl

@[simp] theorem Dev.applyRed_aside (d : Dev) (m) : (d.applyRed m).aside = d.aside := by
  have hput : (((((d.loseResv m.addr m.who m.rq).wr m.addr
      (redBytes m.red m.ty m.bytes.length (d.rd m.addr m.bytes.length) m.bytes)).markDirty m.addr).heatUp m.addr).dropSys
      (maKey m.addr) |>.redEnter (maKey m.addr)).aside = d.aside := by simp
  unfold Dev.applyRed
  dsimp only
  split
  · split
    · rwa [Dev.chainSend_aside]
    · exact hput
  · rwa [Dev.setWrites_aside, Dev.send_aside]

@[simp] theorem Dev.answerRead_aside (d : Dev) (m) : (d.answerRead m).aside = d.aside := by
  unfold Dev.answerRead
  dsimp only
  split <;> simp

@[simp] theorem Dev.awaitAck_aside (d : Dev) (key t) : (d.awaitAck key t).aside = d.aside := by simp [Dev.awaitAck]

@[simp] theorem Dev.noCopy_aside (d : Dev) (key) : (d.noCopy key).aside = d.aside := by simp [Dev.noCopy]

@[simp] theorem Dev.finishHome_aside (d : Dev) (key t) : (d.finishHome key t).aside = d.aside := by
  unfold Dev.finishHome
  dsimp only
  (repeat' split) <;> simp

@[simp] theorem Dev.ask_aside (d : Dev) (m k) : (d.ask m k).aside = d.aside := by simp [Dev.ask]

@[simp] theorem Dev.sendWb_aside (d : Dev) (key m) : (d.sendWb key m).aside = d.aside := by simp [Dev.sendWb]

@[simp] theorem Dev.sendEvict_aside (d : Dev) (key) : (d.sendEvict key).aside = d.aside := by simp [Dev.sendEvict]

@[simp] theorem Dev.proxySupply_aside (d : Dev) (home r m) : (d.proxySupply home r m).aside = d.aside := by
  unfold Dev.proxySupply
  split <;> simp

@[simp] theorem Dev.respond_aside (d : Dev) (key t) : (d.respond key t).aside = d.aside := by
  unfold Dev.respond
  dsimp only
  (repeat' split) <;> simp

@[simp] theorem Dev.giveUp_aside (d : Dev) (m) : (d.giveUp m).aside = d.aside := by simp [Dev.giveUp]

@[simp] theorem Dev.finishProxy_aside (d : Dev) (key t) : (d.finishProxy key t).aside = d.aside := by
  unfold Dev.finishProxy
  dsimp only
  (repeat' split) <;> simp

@[simp] theorem Dev.endAbandoned_aside (d : Dev) (key t) : (d.endAbandoned key t).aside = d.aside := by
  unfold Dev.endAbandoned
  split <;> simp

@[simp] theorem Dev.tryFinish_aside (d : Dev) (key) : (d.tryFinish key).aside = d.aside := by
  unfold Dev.tryFinish
  split
  · split
    · rfl
    · split
      · simp
      · split
        · split
          · split
            next e he => rw [Dev.finishHome_aside, Dev.frameGate_aside (.inl he)]
            next e he => exact Dev.frameGate_aside (.inr he)
            · simp
          · simp
        · simp
  · rfl

@[simp] theorem Dev.startWith_aside (d : Dev) (m old) : (d.startWith m old).aside = d.aside := by simp [Dev.startWith]

@[simp] theorem Dev.startTxn_aside (d : Dev) (m) : (d.startTxn m).aside = d.aside := by simp [Dev.startTxn]

@[simp] theorem Dev.backInvalidate_aside (d : Dev) (key) : (d.backInvalidate key).aside = d.aside := by
  unfold Dev.backInvalidate
  (repeat' split) <;> simp

@[simp] theorem Dev.served_aside (d : Dev) (m) : (d.served m).aside = d.aside := rfl

@[simp] theorem Dev.admitHome_aside (d : Dev) (m old) : (d.admitHome m old).aside = d.aside := by
  unfold Dev.admitHome
  dsimp only
  split
  · simp
  · split
    · simp
    next e he => simp [Dev.frameGate_aside (.inr he)]
    next e he =>
      have hgo := Dev.frameGate_aside (.inl he)
      split
      · split
        · simp [hgo]
        · split
          next f hf => exact (Dev.refuseReq_aside hf).trans hgo
          · simp [hgo]
      · split
        · simp [hgo]
        · split <;> simp [hgo]

@[simp] theorem Dev.admitRed_aside (d : Dev) (m) : (d.admitRed m).aside = d.aside := by
  unfold Dev.admitRed
  dsimp only
  split
  · simp
  next e he => simp [Dev.frameGate_aside (.inr he)]
  next e he =>
    have hgo := Dev.frameGate_aside (.inl he)
    split <;> simp [hgo]

@[simp] theorem Dev.admitProxy_aside (d : Dev) (m) : (d.admitProxy m).aside = d.aside := by
  unfold Dev.admitProxy
  (repeat' split) <;> simp

@[simp] theorem Dev.wbCame_aside (d : Dev) (key who back) : (d.wbCame key who back).aside = d.aside := by
  unfold Dev.wbCame
  split <;> simp

@[simp] theorem Dev.applyWb_aside (d : Dev) (m) : (d.applyWb m).aside = d.aside := by
  unfold Dev.applyWb
  dsimp only
  split
  · simp
  · split
    next e he => simp [Dev.frameGate_aside (.inl he)]
    next e he => simp [Dev.frameGate_aside (.inr he)]
    all_goals simp

@[simp] theorem Dev.proxyFwd_aside (d : Dev) (m) : (d.proxyFwd m).aside = d.aside := by simp [Dev.proxyFwd]

@[simp] theorem Dev.readmit_aside (d : Dev) (m) : (d.readmit m).aside = d.aside := by
  unfold Dev.readmit
  (repeat' split) <;> simp

@[simp] theorem Dev.retryHeld_aside (d : Dev) : d.retryHeld.aside = d.aside := by simp [Dev.retryHeld]

/-! ### Links of the Chain -/

@[simp] theorem Dev.setLink_aside (d : Dev) (a b up) : (d.setLink a b up).aside = d.aside := by simp [Dev.setLink]

@[simp] theorem Dev.portDown_aside (d : Dev) (p st) : (d.portDown p st).aside = d.aside := by
  unfold Dev.portDown
  dsimp only
  (repeat' split) <;> simp

@[simp] theorem Dev.linkDead_aside (d : Dev) (p) : (d.linkDead p).aside = d.aside := by simp [Dev.linkDead]

@[simp] theorem Dev.laneDegrade_aside (d : Dev) (p bad) : (d.laneDegrade p bad).aside = d.aside := by simp [Dev.laneDegrade]

/-! ### Events and their records -/

@[simp] theorem Dev.fwSignal_aside (d : Dev) (b) : (d.fwSignal b).aside = d.aside := by simp [Dev.fwSignal]

@[simp] theorem Dev.adminDone_aside (d : Dev) (cid slot st lo hi) : (d.adminDone cid slot st lo hi).aside = d.aside :=
  Dev.raise_aside d _

@[simp] theorem Dev.bgDone_aside (d : Dev) (slot st lo) : (d.bgDone slot st lo).aside = d.aside := by
  unfold Dev.bgDone
  split <;> simp

@[simp] theorem eventPost_aside (d : Dev) : (eventPost d).aside = d.aside := by
  unfold eventPost
  split
  · rfl
  · dsimp only
    split <;> simp

@[simp] theorem Dev.flushEvents_aside (d : Dev) : d.flushEvents.aside = d.aside := by
  have hpost (n : Nat) : ∀ d : Dev, (postAll n d).aside = d.aside := by
    induction n with
    | zero => exact fun d => rfl
    | succ n ih => exact fun d => (ih _).trans (eventPost_aside d)
  exact hpost _ d

end Sys2Proof.Machine

/-!
The power, reliability and Chain commands of the admin ring (Tables 13.8, 16.9 and 17.8): each answers by its own equation on
operands in range, as the commands of Table 14.8 do.
-/
namespace Sys2Proof.Machine

/-! ### The end of a debug session (R500, R555, R556) -/

theorem foldDev_sec {α : Type} {f : Dev → α → Dev} (hf : ∀ d x, (f d x).sec = d.sec) (d : Dev) (l : List α) :
    (foldDev d l f).sec = d.sec :=
  foldDev_keeps (fun e => e.sec = d.sec) (fun e x h => (hf e x).trans h) l rfl

/-- A margining sweep that ends leaves the Rind alone, whatever the requests do that it held. -/
theorem Dev.stopMargin_sec (d : Dev) : d.stopMargin.sec = d.sec := by
  unfold Dev.stopMargin
  split
  · rfl
  · rw [Dev.sec_of_aside (Dev.retryHeld_aside _)]
    split
    · exact (Dev.sec_of_aside (Dev.bgDone_aside _ _ _ _)).trans rfl
    · rfl

theorem Dev.stopMargin_margin (d : Dev) : d.stopMargin.hbm.margin = none := by
  unfold Dev.stopMargin
  split
  · assumption
  · rw [Dev.hbm_of_aside (Dev.retryHeld_aside _)]
    split
    · rw [Dev.hbm_of_aside (Dev.bgDone_aside _ _ _ _)]
      rfl
    · rfl

/-- The Rind after the triggers and halted harts of a lost right are gone: the session and what is provisioned stay. -/
theorem Dev.dropDebug_sec (d : Dev) (mask : Word) :
    ∃ hub mods, (d.dropDebug mask).sec = { d.sec with hubHalted := hub, mods := mods } := by
  unfold Dev.dropDebug
  extract_lets has d1 d2 run d3 d4 keep
  have h1 : d1.sec = d.sec := by
    simp only [d1]
    split
    · rfl
    · exact d.stopMargin_sec
  have h2 : d2.sec = d1.sec := by
    simp only [d2]
    split
    · rfl
    · exact foldDev_sec (fun e x => by split <;> rfl) d1 _
  have h3 : d3.sec = d2.sec := foldDev_sec (fun e x => by split <;> rfl) d2 _
  clear_value d2 d3
  have h4 : d4.sec = d2.sec := by
    simp only [d4]
    split
    · rfl
    · exact h3
  clear_value d4
  rw [Dev.modSec_sec, h4, h2, h1]
  exact ⟨_, _, rfl⟩

theorem Dev.closeSession_session (d : Dev) (reason : Nat) : (d.closeSession reason).sec.session = none := by
  unfold Dev.closeSession
  split
  · assumption
  · obtain ⟨hub, mods, h⟩ := Dev.dropDebug_sec (((d.raise (secEvt 1 reason 0)).measure 3 5
      (Config.shake512 (numBytes 8 reason))).modSec (fun s => { s with session := none })) 0
    dsimp only
    rw [h]
    rfl

theorem Dev.goCold_session (d : Dev) : d.goCold.sec.session = none := by
  show ((d.closeSession 3).flushEvents).sec.session = none
  rw [Dev.sec_of_aside (Dev.flushEvents_aside _), Dev.closeSession_session]

/-! ### The power commands (Table 16.9) -/

theorem within_eq_true {lo hi n : Nat} : within lo hi n = true ↔ lo ≤ n ∧ n ≤ hi := by simp [within]

section Power
variable {d : Dev} {c : AdmCmd} (hr : c.rsvd = false)
include hr

theorem powerPolicy_ok {p g b : Word} (hops : opsAre c [p, g, b]) (hp : p.toNat ≤ 2) (hglo : 10 ≤ g.toNat)
    (hghi : g.toNat ≤ 1000) (hblo : 1 ≤ b.toNat) (hbhi : b.toNat ≤ 3600000) :
    powerPolicy d c = ans .ok (d.modPower (fun x => { x with policy := p.toNat, glowIdle := g.toNat, bankIdle := b.toNat })) := by
  have hz : admOnly c 3 = true := admOnly_length hops hr
  simp only [powerPolicy, admOp_eq hops, lgetD]
  rw [if_neg (by simp [hz, within]; omega)]

theorem powerLimit_ok {w : Word} (hops : opsAre c [w]) (hlo : 300 ≤ w.toNat) (hhi : w.toNat ≤ 1850) :
    powerLimit d c = ans .ok (d.modPower (fun x => { x with limitSet := w.toNat })) := by
  have hz : admOnly c 1 = true := admOnly_length hops hr
  simp only [powerLimit, admOp_eq hops, lgetD]
  rw [if_neg (by simp [hz, within]; omega)]

theorem coreClock_ok {h g f : Word} (hops : opsAre c [h, g, f]) (hh : h.toNat ≤ 1) (hg : g.toNat ≤ 3) (hlo : 400 ≤ f.toNat)
    (hhi : f.toNat ≤ 3200) (hstep : f.toNat % 100 = 0) :
    coreClock d c = ans .ok (d.modPower (fun x =>
      { x with coreSet := Two.mod x.coreSet (halfOfNat h.toNat) (fun l => lset l g.toNat f.toNat) })) := by
  have hz : admOnly c 3 = true := admOnly_length hops hr
  simp only [coreClock, admOp_eq hops, lgetD]
  rw [if_neg (by simp [hz, within, hstep]; omega)]

theorem wakeGpio_ok {w : Word} (hops : opsAre c [w]) (hw : w.toNat < 2 ^ 32) :
    wakeGpio d c = ans .ok (d.modPower (fun x =>
      { x with wakeGpio := w.truncate 16, wakeRise := BitVec.ofNat 16 (w.toNat / 65536) })) := by
  have hz : admOnly c 1 = true := admOnly_length hops hr
  simp only [wakeGpio, admOp_eq hops, lgetD]
  rw [if_neg (by simp [hz]; omega)]
  simp only [BitVec.ofNat_toNat, BitVec.truncate_eq_setWidth]

theorem powerStatus_ok {a : Word} (hops : opsAre c [a]) (hlt : a.toNat < 2 ^ 56) :
    powerStatus d c = ans .ok (d.fwWrite a d.powerRec) := by
  have hz : admOnly c 1 = true := admOnly_length hops hr
  simp only [powerStatus, admAddr, admOp_eq hops, lgetD_ops hops, lgetD]
  rw [if_neg (by simp [hz]; omega)]

end Power

section Answers
variable {s : State} {c : AdmCmd} {i : Instr} (hopen : s.dev.adminOpen = true)
include hopen

/-- A command that changes the power settings alone. -/
theorem exec_admin_power {f : Dev → AdmRes} (hi : exec i s = onDev s (fun d => d.admin c f)) {g : Power → Power}
    (hf : f s.dev.fetched = ans .ok (s.dev.fetched.modPower g)) :
    ∃ d, exec i s = .next { s with dev := d } ∧ AdmDone s.dev d c .ok 0 0 ∧ d.power = g s.dev.power ∧
      { d with power := s.dev.power, host := s.dev.host } = s.dev := by
  obtain ⟨q, hexec, hdone⟩ := exec_admin hopen hi hf rfl
  refine ⟨_, hexec, hdone, rfl, ?_⟩
  simp only [Dev.modPower, Dev.modHost, Dev.fetched]

/-- POWER_COLD of a package that is not joined and runs nothing (R500). -/
theorem exec_powerCold (hr : c.rsvd = false) (hops : opsAre c []) (hsteps : s.dev.sched.steps = [])
    (hrings : ∀ r ∈ s.dev.host.rings, r.2.enabled = false) (hout : s.dev.chain.joined = false) :
    exec (.powerCold c) s = .next { s with dev := (s.dev.admin c (fun d => ans .ok d)).goCold } := by
  have hz : admOnly c 0 = true := admOnly_length hops hr
  have hidle : s.dev.coldBusy = false := by
    simp only [Dev.coldBusy, hsteps, List.isEmpty_nil, Bool.not_true, Bool.false_or, List.any_eq_false]
    exact fun r hmem => by rw [hrings r hmem]; exact Bool.false_ne_true
  refine exec_onDev (f := fun d => powerCold d c) rfl ?_
  simp only [powerCold, hopen, hz, hidle, hout]
  rfl

end Answers

/-- Settles O39: each command's equation on operands in range gives its clause. -/
theorem powerCommandsComplete : Obligations.PowerCommandsComplete := by
  intro s c hopen hr
  refine ⟨?policy, ?limit, ?clock, ?status, ?gpio, ?cold⟩
  case policy =>
    intro p g b hops hp hglo hghi hblo hbhi
    exact exec_admin_power (i := .powerPolicy c) hopen rfl
      (powerPolicy_ok (d := s.dev.fetched) hr hops hp hglo hghi hblo hbhi)
  case limit =>
    intro w hops hlo hhi
    exact exec_admin_power (i := .powerLimit c) hopen rfl (powerLimit_ok (d := s.dev.fetched) hr hops hlo hhi)
  case clock =>
    intro h g f hops hh hg hlo hhi hstep
    exact exec_admin_power (i := .coreClock c) hopen rfl (coreClock_ok (d := s.dev.fetched) hr hops hh hg hlo hhi hstep)
  case status =>
    intro a ha hops hlt ht
    exact exec_admin_record (i := .powerStatus c) hopen rfl ht (powerStatus_ok (d := s.dev.fetched) hr hops hlt)
  case gpio =>
    intro w hops hw
    exact exec_admin_power (i := .wakeGpio c) hopen rfl (wakeGpio_ok (d := s.dev.fetched) hr hops hw)
  case cold =>
    intro hops hsteps hrings hout
    exact ⟨_, exec_powerCold hopen hr hops hsteps hrings hout, Dev.goCold_pstate _, rfl, rfl, rfl, Dev.goCold_session _⟩

end Sys2Proof.Machine

/-!
The reporting units (chapter 17): their records, what one error counts, and the reliability commands (Table 17.8).
-/
namespace Sys2Proof.Machine

/-! ### The records of the units (R512) -/

theorem find?_map_unit (l : List (UnitId × UnitRec)) (u v : UnitId) (f : UnitRec → UnitRec) :
    (l.map (fun p => if p.1 = u then (p.1, f p.2) else p)).find? (fun p => p.1 == v) =
      (l.find? (fun p => p.1 == v)).map (fun p => if p.1 = u then (p.1, f p.2) else p) := by
  rw [List.find?_map]
  congr 2
  funext p
  show ((if p.1 = u then (p.1, f p.2) else p).1 == v) = (p.1 == v)
  split <;> rfl

/-- A change of a unit's record is read back, and no other unit's record changes. -/
theorem Dev.unit_modUnit (d : Dev) (u v : UnitId) (f : UnitRec → UnitRec) :
    (d.modUnit u f).unit v = if v = u then f (d.unit u) else d.unit v := by
  have hkey {p : UnitId × UnitRec} {w : UnitId} (hp : d.faults.units.find? (fun p => p.1 == w) = some p) : p.1 = w := by
    simpa using List.find?_some hp
  unfold Dev.modUnit Dev.unit Dev.modFaults
  dsimp only
  cases hany : d.faults.units.any (fun p => p.1 == u) with
  | true =>
    obtain ⟨p, hp⟩ := Option.isSome_iff_exists.1 (List.find?_isSome.2 (List.any_eq_true.1 hany))
    simp only [if_true, find?_map_unit]
    by_cases hv : v = u
    · subst hv
      simp [hp, hkey hp]
    · cases hq : d.faults.units.find? (fun p => p.1 == v) with
      | none => simp [hv]
      | some q => simp [hkey hq, hv]
  | false =>
    have hnone : d.faults.units.find? (fun p => p.1 == u) = none := by
      rw [List.find?_eq_none]
      exact fun p hp => by simpa using List.any_eq_false.1 hany p hp
    simp only [Bool.false_eq_true, if_false, List.find?_append]
    by_cases hv : v = u
    · subst hv
      simp [hnone]
    · simp [hv, Ne.symm hv]

@[simp] theorem Dev.unit_modUnit_self (d : Dev) (u : UnitId) (f : UnitRec → UnitRec) : (d.modUnit u f).unit u = f (d.unit u) := by
  rw [Dev.unit_modUnit, if_pos rfl]

theorem Dev.unit_modUnit_ne (d : Dev) {u v : UnitId} (f : UnitRec → UnitRec) (h : v ≠ u) : (d.modUnit u f).unit v = d.unit v := by
  rw [Dev.unit_modUnit, if_neg h]

/-! ### One error below its threshold (R512, Table 17.2) -/

/-- A unit's record whose counter of one kind of error stands at `n`. -/
def UnitRec.counting (unc : Bool) (n : Nat) (r : UnitRec) : UnitRec :=
  if unc then { r with uc := n } else { r with cc := n, ctotal := sat32 (r.ctotal + 1) }

section Below
variable {d : Dev} {u : UnitId} {th win : Nat} {loc : Nat}

/-- An error below the threshold changes its unit's record alone. -/
theorem Dev.countErr_below {unc : Bool} (hth : d.threshOf u.code.val unc = some (th, win))
    (hlt : (if unc then (d.unit u).uc else (d.unit u).cc) + 1 < th) :
    d.countErr u unc loc = d.modUnit u (UnitRec.counting unc ((if unc then (d.unit u).uc else (d.unit u).cc) + 1)) := by
  have hmiss : decide (th ≤ (if unc then (d.unit u).uc else (d.unit u).cc) + 1) = false := by simpa using hlt
  simp only [Dev.countErr, hth, hmiss]
  cases unc <;> rfl

/-- A codeword that corrected more than 8 symbols leaves its port's lanes as they were. -/
theorem Dev.fecSymbols_laneBad (d : Dev) (u : UnitId) :
    ((d.fecSymbols u).port (fld u.unit.toNat 8 4)).laneBad = (d.port (fld u.unit.toNat 8 4)).laneBad := by
  rw [Dev.fecSymbols, Dev.port_modPort_self]
  rfl

/-- A Chain lane's corrected error below the threshold degrades no link: it is counted, with the symbols of its port. -/
theorem correctedErr_lane (hok : unitOk u = true) (hcode : u.code = 11) (hth : d.threshOf 11 false = some (th, win))
    (hlt : (d.unit u).cc + 1 < th) :
    correctedErr d u loc = (d.modUnit u (UnitRec.counting false ((d.unit u).cc + 1))).fecSymbols u := by
  have hcount := Dev.countErr_below (u := u) (loc := loc) (unc := false) (by rw [hcode]; exact hth) hlt
  have hcorr : corrected d u loc = (d.countErr u false loc).fecSymbols u := by simp [corrected, hok, hcode]
  have hsame : ((corrected d u loc).port (fld u.unit.toNat 8 4)).laneBad = (d.port (fld u.unit.toNat 8 4)).laneBad := by
    rw [hcorr, Dev.fecSymbols_laneBad, hcount]
    rfl
  have hkeep : correctedErr d u loc = corrected d u loc := by simp [correctedErr, hsame]
  rw [hkeep, hcorr, hcount]
  rfl

end Below

/-! ### The reliability commands (Table 17.8) -/

section Commands
variable {d : Dev} {c : AdmCmd} (hr : c.rsvd = false)
include hr

theorem ringResume_ok {r : Word} {x : Ring} (hops : opsAre c [r]) (hlt : r.toNat < 16384) (hcont : d.faults.contain = none)
    (hx : tget d.host.rings r.toNat = some x) :
    ringResume d c = ans .ok (d.modHost (fun h => { h with rings := tput h.rings r.toNat { x with held := false } })) := by
  have hz : admOnly c 1 = true := admOnly_length hops hr
  simp only [ringResume, admOp_eq hops, lgetD, hx]
  rw [if_neg (by simp [hz]; omega), if_neg (by simp [hcont])]

/-- A pair of a code's thresholds replaces the one before it. -/
def storeThresh (code : Nat) (unc : Bool) (p : Nat × Nat) (f : Faults) : Faults :=
  { f with thresh := f.thresh.filter (fun q => q.1 != (code, unc)) ++ [((code, unc), p)] }

theorem faultThresh_ok {k u t w : Word} (hops : opsAre c [k, u, t, w]) (hk : k.toNat ≤ 13) (hu : u.toNat ≤ 1)
    (htlo : 1 ≤ t.toNat) (hthi : t.toNat ≤ 65535) (hwlo : 1 ≤ w.toNat) (hwhi : w.toNat ≤ 2592000000)
    (hdef : (defaultThresh k.toNat (u.toNat == 1)).isSome = true) :
    faultThresh d c = ans .ok (d.modFaults (storeThresh k.toNat (u.toNat == 1) (t.toNat, w.toNat))) := by
  have hz : admOnly c 4 = true := admOnly_length hops hr
  have hsome : (defaultThresh k.toNat (u.toNat == 1)).isNone = false := by simpa [Option.isSome_iff_ne_none] using hdef
  simp only [faultThresh, admOp_eq hops, lgetD]
  rw [hsome, if_neg (by simp [hz, within]; omega)]
  rfl

theorem faultCounters_ok {a : Word} (hops : opsAre c [a]) (hlt : a.toNat < 2 ^ 56) :
    faultCounters d c = ans .ok (d.fwWrite a (allUnits.flatMap d.unitRec)) := by
  have hz : admOnly c 1 = true := admOnly_length hops hr
  simp only [faultCounters, admAddr, admOp_eq hops, lgetD_ops hops, lgetD]
  rw [if_neg (by simp [hz]; omega)]

/-- An injected corrected error of a Chain lane is one that the lane reports, wherever the free value puts it. -/
theorem errInject_lane {n : Word} (hops : opsAre c [11, n, 0]) (hn : n.toNat < 65536)
    (hok : unitOk ⟨11, .hub, n.truncate 16⟩ = true) (hright : d.grants 6 = true) :
    errInject d c = ans .ok (correctedErr d.draw.2 ⟨11, .hub, n.truncate 16⟩ (Config.freeWord d.free).toNat) := by
  have hz : admOnly c 3 = true := admOnly_length hops hr
  have hunit : BitVec.ofNat 16 n.toNat = n.truncate 16 := by simp
  have hcode : injectDie 11 n.toNat d.free = .hub := rfl
  have h0 : admOp c 0 = 11 := admOp_eq hops 0
  have h1 : admOp c 1 = n.toNat := admOp_eq hops 1
  have h2 : admOp c 2 = 0 := admOp_eq hops 2
  have hcond : (!admOnly c 3 || !within 0 13 11 || decide (65536 ≤ n.toNat) || !within 0 1 0 ||
      !unitOk ⟨11, .hub, n.truncate 16⟩) = false := by
    simpa [hz, hok, within] using hn
  simp only [errInject, Dev.draw, h0, h1, h2, hunit, hcode]
  exact (if_neg (Bool.eq_false_iff.1 hcond)).trans ((if_neg (by simp [hright])).trans rfl)

end Commands

theorem Dev.threshOf_storeThresh (d : Dev) (code : Nat) (unc : Bool) (p : Nat × Nat) :
    (d.modFaults (storeThresh code unc p)).threshOf code unc = some p := by
  have hnone : (d.faults.thresh.filter (fun q => q.1 != (code, unc))).find? (fun q => q.1 == (code, unc)) = none := by
    rw [List.find?_eq_none]
    exact fun q hq => by simpa using (List.mem_filter.1 hq).2
  simp [Dev.threshOf, Dev.modFaults, storeThresh, List.find?_append, hnone]

/-- Settles O41: each command's equation on operands in range gives its clause; the lane's injected error is counted as a reported one
below its threshold. -/
theorem reliabilityCommandsComplete : Obligations.ReliabilityCommandsComplete := by
  intro s c hopen hr
  refine ⟨?resume, ?thresh, ?counters, ?inject⟩
  case resume =>
    intro r x hops hlt hcont hx
    obtain ⟨q, hexec, hdone⟩ := exec_admin (i := .ringResume c) hopen rfl
      (ringResume_ok (d := s.dev.fetched) hr hops hlt hcont hx) rfl
    refine ⟨_, hexec, hdone, tget_tput_self _ _ _, ?_⟩
    simp only [Dev.modHost, Dev.fetched]
  case thresh =>
    intro k u t w hops hk hu htlo hthi hwlo hwhi hdef
    obtain ⟨q, hexec, hdone⟩ := exec_admin (i := .faultThresh c) hopen rfl
      (faultThresh_ok (d := s.dev.fetched) hr hops hk hu htlo hthi hwlo hwhi hdef) rfl
    refine ⟨_, hexec, hdone, Dev.threshOf_storeThresh s.dev.fetched _ _ _, ?_⟩
    simp only [Dev.modFaults, Dev.modHost, Dev.fetched]
  case counters =>
    intro a ha hops hlt ht
    exact exec_admin_record (i := .faultCounters c) hopen rfl ht (faultCounters_ok (d := s.dev.fetched) hr hops hlt)
  case inject =>
    intro n th win hops hn u hok hright hth hlt
    have hans := (errInject_lane (d := s.dev.fetched) hr hops hn hok hright).trans
      (congrArg (ans .ok) (correctedErr_lane hok rfl hth hlt))
    obtain ⟨q, hexec, hdone⟩ := exec_admin (i := .errInject c) hopen rfl hans rfl
    refine ⟨_, hexec, hdone, ?_, rfl⟩
    exact congrArg UnitRec.cc (Dev.unit_modUnit_self s.dev u (UnitRec.counting false ((s.dev.unit u).cc + 1)))

end Sys2Proof.Machine

/-!
Errors, quench, substitution and containment (chapter 17).
-/
namespace Sys2Proof.Machine

/-! ### Reclaiming what an agent held changes no unit's record (R280) -/

@[simp] theorem Dev.shareHolder_aside (d : Dev) (key who dirty) : (d.shareHolder key who dirty).aside = d.aside := by
  unfold Dev.shareHolder
  split <;> rfl

@[simp] theorem Dev.dropHolder_aside (d : Dev) (key who) : (d.dropHolder key who).aside = d.aside := by
  unfold Dev.dropHolder
  split <;> rfl

@[simp] theorem Dev.snpAcked_aside (d : Dev) (m) : (d.snpAcked m).aside = d.aside := by
  unfold Dev.snpAcked
  dsimp only
  (repeat' split) <;> simp

@[simp] theorem Dev.endAck_aside (d : Dev) (key t) : (d.endAck key t).aside = d.aside := by
  unfold Dev.endAck
  dsimp only
  split <;> simp

@[simp] theorem Dev.forgetAgent_aside (d : Dev) (a) : (d.forgetAgent a).aside = d.aside := by
  unfold Dev.forgetAgent
  extract_lets drop held d1 d2 d3
  have h2 : d2.aside = d.aside := foldDev_aside (fun e p => by (repeat' split) <;> simp) d1 _
  clear_value d2
  have h3 : d3.aside = d2.aside := foldDev_aside (fun e p => by (repeat' split) <;> simp) d2 _
  rw [Dev.retryHeld_aside, h3, h2]

@[simp] theorem Dev.lostHolder_aside (d : Dev) (key) : (d.lostHolder key).aside = d.aside := by simp [Dev.lostHolder]

@[simp] theorem Dev.dropSharers_aside (d : Dev) (key) : (d.dropSharers key).aside = d.aside := by simp [Dev.dropSharers]

@[simp] theorem Dev.reclaimProxy_aside (d : Dev) (key) : (d.reclaimProxy key).aside = d.aside := by
  unfold Dev.reclaimProxy
  split <;> simp

@[simp] theorem Dev.reclaimCore_aside (d : Dev) (h) : (d.reclaimCore h).aside = d.aside := by
  unfold Dev.reclaimCore
  extract_lets keys d1 d2 d3 outs d4
  have h2 : d2.aside = d.aside := foldDev_aside (fun e p => by (repeat' split) <;> simp) d1 _
  clear_value d2
  have h3 : d3.aside = d2.aside := d2.forgetAgent_aside _
  clear_value d3
  have h4 : d4.aside = d3.aside := foldDev_aside (fun e k => e.modProxy_aside k _) d3 _
  clear_value d4
  rw [Dev.setWrites_aside, h4, h3, h2]

/-! ### Containment (R521) -/

theorem Dev.freeRange_aside (d : Dev) (off n) : (d.freeRange off n).aside = d.aside := rfl

/-- Stopping an engine takes its operations off no Anvil queue and changes no step. -/
theorem Dev.stopEng_ops_sched (d : Dev) (e : Fin 128) :
    (d.stopEng e).anvil.ops = d.anvil.ops ∧ (d.stopEng e).sched = d.sched := by
  unfold Dev.stopEng Dev.abandon
  dsimp only
  split <;> exact ⟨rfl, rfl⟩

/-- Containment notes itself in the fault records, and the units' records stay. -/
theorem Dev.contain_faults (d : Dev) (silent selfQ : Bool) :
    ∃ c, (d.contain silent selfQ).faults = { d.faults with contain := some c } := by
  unfold Dev.contain
  extract_lets ids c c' d1 quiet d2 outs d3 d4 clr d5 d6 d7
  have h1 : d1.aside = d.aside := foldDev_aside (fun e g => by (repeat' split) <;> simp) d _
  clear_value d1
  have h3 : d3.aside = d2.aside := foldDev_aside (fun e r => e.freeRange_aside _ _) d2 _
  have h7 : d7.faults = d.faults := Dev.faults_of_aside ((h3.trans rfl).trans h1)
  exact ⟨c', by rw [Dev.modFaults_faults, h7]⟩

theorem Dev.contain_unit (d : Dev) (silent selfQ : Bool) (u : UnitId) : (d.contain silent selfQ).unit u = d.unit u := by
  obtain ⟨c, h⟩ := d.contain_faults silent selfQ
  simp only [Dev.unit, h]

theorem Dev.contain_isSome (d : Dev) (silent selfQ : Bool) : (d.contain silent selfQ).faults.contain.isSome = true := by
  obtain ⟨c, h⟩ := d.contain_faults silent selfQ
  rw [h]
  rfl

/-- Every step stops. -/
theorem Dev.contain_stopping (d : Dev) (silent selfQ : Bool) :
    ∀ p ∈ (d.contain silent selfQ).sched.steps, p.2.phase = .stopping := by
  unfold Dev.contain
  extract_lets ids c c' d1 quiet d2 outs d3 d4 clr d5 d6 d7
  clear_value d5
  intro p hp
  obtain ⟨q, -, rfl⟩ := List.mem_map.1 hp
  rfl

theorem Dev.contain_ops (d : Dev) (silent selfQ : Bool) : (d.contain silent selfQ).anvil.ops = [] := by
  unfold Dev.contain
  extract_lets ids c c' d1 quiet d2 outs d3 d4 clr d5 d6 d7
  clear_value outs d2 c'
  clear_value d3
  rw [Dev.modFaults_anvil, Dev.modHost_anvil, Dev.modSched_anvil]
  simp only [d5, d4, Dev.modAnvil_anvil]

/-- Where no operation runs, waits or was lost, nothing becomes undefined. -/
theorem Dev.contain_same_mem {d : Dev} (silent selfQ : Bool) (hops : d.anvil.ops = [])
    (hlost : ∀ p ∈ d.sched.steps, p.2.lostOps = []) : (d.contain silent selfQ).mem = d.mem := by
  unfold Dev.contain
  extract_lets ids c c' d1 quiet d2 outs d3 d4 clr d5 d6 d7
  have h1 : d1.mem = d.mem ∧ d1.anvil.ops = d.anvil.ops ∧ d1.sched = d.sched := by
    simp only [d1]
    refine foldDev_keeps (fun e => e.mem = d.mem ∧ e.anvil.ops = d.anvil.ops ∧ e.sched = d.sched) ?_ allEngines ⟨rfl, rfl, rfl⟩
    rintro e g ⟨hmem, hop, hsched⟩
    obtain ⟨hstop, hkeep⟩ := e.stopEng_ops_sched g
    split
    · refine ⟨?_, ?_, ?_⟩
      all_goals split <;> simp [hmem, hop, hsched, hstop, hkeep]
    · exact ⟨hmem, hop, hsched⟩
  clear_value d1
  obtain ⟨hmem, hop, hsched⟩ := h1
  have houts : outs = [] := by
    have hsteps : d2.sched.steps.flatMap (fun p => p.2.lostOps.flatMap (fun o => if d2.away p.1 p.2 then [] else opOuts o.desc)) = [] := by
      rw [List.flatMap_eq_nil_iff]
      intro p hp
      rw [hlost p (by rwa [← hsched])]
      rfl
    have hnone : d2.anvil.ops = [] := hop.trans hops
    simp only [outs, hnone, hsteps]
    rfl
  have h2 : d2.mem = d1.mem := rfl
  have h3 : d3.mem = d2.mem := by
    simp only [d3, houts]
    rfl
  clear_value outs d2 c'
  clear_value d3
  have h5 : d5.mem = d3.mem := by simp only [d5, d4, Dev.modAnvil_mem]
  clear_value d5
  rw [Dev.modFaults_mem, Dev.modHost_mem, Dev.modSched_mem, h5, h3, h2, hmem]

theorem Dev.packageFault_faults (d : Dev) (u : UnitId) :
    ∃ c, (d.packageFault u).faults = { d.faults with pkgFault := true, contain := some c } :=
  Dev.contain_faults _ _ _

/-! ### Quench (R518 to R520) -/

theorem Dev.unit_of_aside {d e : Dev} (h : d.aside = e.aside) (u : UnitId) : d.unit u = e.unit u := by
  simp only [Dev.unit, Dev.faults_of_aside h]

/-- Fencing a unit counts what it drops as stale, and leaves the rest of its record. -/
theorem Dev.fence_unit (d : Dev) (u : UnitId) : ∃ n, (d.fence u).unit u = { d.unit u with stale := n } := by
  unfold Dev.fence
  extract_lets as_ sent gone d1 d2 d3
  have h1 : d1.aside = d.aside := foldDev_aside (fun e a => by split <;> simp [Dev.resetCore]) d _
  have hunit : d3.unit u = d.unit u := Dev.unit_of_aside h1 u
  rw [Dev.unit_modUnit_self, hunit]
  exact ⟨_, rfl⟩

/-- A quench of a unit in service, short of its last incarnation: it leaves service under the next one, and everything in flight is
discarded. -/
theorem Dev.quench_unit {d : Dev} {u : UnitId} (hq : (d.unit u).quenched = false)
    (hinc : (d.unit u).inc.toNat < 15) (why : Nat) (test : Bool) :
    ((d.quench u why test).unit u).quenched = true ∧ ((d.quench u why test).unit u).testing = test ∧
      ((d.quench u why test).unit u).inc = (d.unit u).inc + 1 ∧ (d.quench u why test).faults.contain.isSome = true := by
  obtain ⟨n, hfence⟩ := d.fence_unit u
  have hlast : (d.unit u).inc ≠ 15 := fun h => by rw [h] at hinc; exact absurd hinc (by decide)
  simp only [Dev.quench, hq, Bool.false_and, Bool.false_eq_true, if_false, if_neg hlast]
  rw [Dev.contain_unit, Dev.unit_of_aside (Dev.raise_aside _ _), Dev.unit_modUnit_self, hfence]
  exact ⟨rfl, rfl, rfl, Dev.contain_isSome _ _ _⟩

/-! ### What an error of a stack counts besides (R382) -/

/-- A pseudo-channel or a lane that is declared failed has no other unit's record changed. -/
theorem Dev.lasting_unit_ne (d : Dev) {u v : UnitId} (hv : v.code.val = 8 ∨ v.code.val = 9) (hne : u ≠ v) (loc : Nat) :
    (d.lasting v loc).unit u = d.unit u := by
  unfold Dev.lasting
  obtain hv | hv := hv <;> simp only [hv]
  · split
    · obtain ⟨c, hc⟩ := (d.modFaults (fun f => { f with repairs := f.repairs ++ [(v, mapOut)] })).packageFault_faults v
      simp only [Dev.unit, hc]
      rfl
    · exact d.unit_modUnit_ne _ hne
  · rfl

theorem Dev.countErr_unit_ne (d : Dev) {u v : UnitId} (hv : v.code.val = 8 ∨ v.code.val = 9) (hne : u ≠ v) (loc : Nat) :
    (d.countErr v false loc).unit u = d.unit u := by
  simp only [Dev.countErr, Bool.false_eq_true, if_false]
  split
  · exact d.unit_modUnit_ne _ hne
  · split
    · rw [Dev.lasting_unit_ne _ hv hne, Dev.unit_of_aside (Dev.raise_aside _ _)]
      exact d.unit_modUnit_ne _ hne
    · exact d.unit_modUnit_ne _ hne

/-- An error without a threshold adds to its unit's total alone. -/
theorem Dev.countErr_uncounted {d : Dev} {u : UnitId} {loc : Nat} (h : d.threshOf u.code.val false = none) :
    d.countErr u false loc = d.modUnit u (fun r => { r with ctotal := sat32 (r.ctotal + 1) }) := by
  simp only [Dev.countErr, h]
  rfl

section Corrected
variable {d : Dev} {u : UnitId} {loc : Nat}

/-- Only a Chain lane's error can degrade a link. -/
theorem correctedErr_eq (hcode : u.code.val ≠ 11) : correctedErr d u loc = corrected d u loc := by
  have hne : u.code ≠ 11 := fun h => hcode (by rw [h]; rfl)
  simp [correctedErr, hne]

variable {th win : Nat} (hok : unitOk u = true) (hth : d.threshOf u.code.val false = some (th, win)) (hlt : (d.unit u).cc + 1 < th)
include hok hth hlt

/-- What a corrected error below its threshold does, by the unit's code. -/
theorem correctedErr_below : correctedErr d u loc =
    let e := d.modUnit u (UnitRec.counting false ((d.unit u).cc + 1))
    if u.code = 8 then e.countErr (laneChan u) false loc
    else if u.code = 9 then
      e.draw.2.countErr ⟨8, u.die, u.unit + BitVec.ofNat 16 ((Config.freeWord e.free).toNat % 36)⟩ false loc
    else if u.code = 4 then e.modCore (Fin.ofNat 64 u.unit.toNat) (fun c => c.l1Drop (loc % 2 ^ 48 / 64))
    else if u.code = 11 then e.fecSymbols u
    else if u.code = 2 then
      e.modEng (Fin.ofNat 128 (64 * halfIdx (dieHalf u.die) + u.unit.toNat)) (fun x => x.dropParity (loc % 2 ^ 48))
    else e := by
  have hcount := Dev.countErr_below (u := u) (loc := loc) (unc := false) hth hlt
  by_cases h11 : u.code = 11
  · rw [correctedErr_lane hok h11 (by rw [← hth, h11]; rfl) hlt]
    simp [h11]
  · rw [correctedErr_eq (fun h => h11 (Fin.ext h)), corrected]
    simp only [hok, hcount]
    rfl

theorem correctedErr_unit : (correctedErr d u loc).unit u = UnitRec.counting false ((d.unit u).cc + 1) (d.unit u) := by
  have hself := d.unit_modUnit_self u (UnitRec.counting false ((d.unit u).cc + 1))
  rw [correctedErr_below hok hth hlt]
  dsimp only
  split
  next h8 =>
    rw [Dev.countErr_unit_ne _ (.inr rfl) (fun h => absurd (h8.symm.trans (congrArg UnitId.code h) : (8 : Fin 14) = 9) (by decide)), hself]
  next h8 =>
    split
    next h9 =>
      rw [Dev.countErr_unit_ne _ (.inl rfl) (fun h => h8 (congrArg UnitId.code h))]
      exact hself
    next h9 =>
      (repeat' split) <;> exact hself

end Corrected

/-! ### Uncorrected errors (R512, R518) -/

/-- A unit's records are no part of containment. -/
theorem Dev.modUnit_contain (d : Dev) (u : UnitId) (f : UnitRec → UnitRec) :
    (d.modUnit u f).faults.contain = d.faults.contain := by
  rw [Dev.modUnit, Dev.modFaults_faults]
  split <;> rfl

theorem Dev.modUnit_thresh (d : Dev) (u : UnitId) (f : UnitRec → UnitRec) : (d.modUnit u f).faults.thresh = d.faults.thresh := by
  rw [Dev.modUnit, Dev.modFaults_faults]
  split <;> rfl

/-- What a quench has set stays: the unit out of service, its incarnation, and the containment. -/
def Dev.KeepsQuench (u : UnitId) (d d' : Dev) : Prop :=
  (d'.unit u).quenched = (d.unit u).quenched ∧ (d'.unit u).inc = (d.unit u).inc ∧ d'.faults.contain = d.faults.contain

theorem Dev.KeepsQuench.refl (u : UnitId) (d : Dev) : KeepsQuench u d d := ⟨rfl, rfl, rfl⟩

theorem Dev.KeepsQuench.trans {u : UnitId} {d e f : Dev} (h : KeepsQuench u d e) (k : KeepsQuench u e f) : KeepsQuench u d f :=
  ⟨k.1.trans h.1, k.2.1.trans h.2.1, k.2.2.trans h.2.2⟩

theorem Dev.KeepsQuench.of_aside {u : UnitId} {d e : Dev} (h : e.aside = d.aside) : KeepsQuench u d e :=
  ⟨by rw [Dev.unit_of_aside h], by rw [Dev.unit_of_aside h], by rw [Dev.faults_of_aside h]⟩

theorem Dev.modUnit_keepsQuench (d : Dev) (u : UnitId) {f : UnitRec → UnitRec} (hq : ∀ r, (f r).quenched = r.quenched)
    (hinc : ∀ r, (f r).inc = r.inc) : KeepsQuench u d (d.modUnit u f) :=
  ⟨by rw [Dev.unit_modUnit_self, hq], by rw [Dev.unit_modUnit_self, hinc], d.modUnit_contain u f⟩

theorem Dev.retireUnit_keepsQuench (d : Dev) (u : UnitId) (why : Nat) : KeepsQuench u d (d.retireUnit u why) := by
  unfold Dev.retireUnit
  split
  · exact .refl u d
  · refine (d.modUnit_keepsQuench u (f := fun r => { r with st := .retired, awaiting := false, testing := false })
      (fun _ => rfl) (fun _ => rfl)).trans (.of_aside ?_)
    dsimp only
    split <;> simp

/-- A lasting failure of an engine leaves what its quench has set. -/
theorem Dev.lasting_keepsQuench (d : Dev) {u : UnitId} (hcode : u.code.val = 2) (loc : Nat) : KeepsQuench u d (d.lasting u loc) := by
  unfold Dev.lasting
  simp only [hcode]
  split
  · exact .refl u d
  · split
    · exact d.retireUnit_keepsQuench u 0
    · exact Dev.modUnit_keepsQuench _ u (fun _ => rfl) (fun _ => rfl)

theorem Dev.countErr_keepsQuench (d : Dev) {u : UnitId} (hcode : u.code.val = 2) (loc : Nat) :
    KeepsQuench u d (d.countErr u true loc) := by
  have hcount (n : Nat) := d.modUnit_keepsQuench u (f := fun r => { r with uc := n }) (fun _ => rfl) (fun _ => rfl)
  simp only [Dev.countErr, if_true]
  split
  · exact .refl u d
  · split
    · exact ((hcount _).trans (.of_aside (Dev.raise_aside _ _))).trans (Dev.lasting_keepsQuench _ hcode loc)
    · exact hcount _

section Uncorrected
variable {d : Dev} {u : UnitId} {loc : Nat} (hok : unitOk u = true)
include hok

/-- R518: an engine in service that reports an uncorrected error is quenched before the error is counted. -/
theorem uncorrected_engine (hcode : u.code.val = 2) (hq : (d.unit u).quenched = false) (hst : (d.unit u).st ≠ .retired) :
    uncorrected d u loc = (d.quench u 0 (!(d.unit u).awaiting)).countErr u true loc := by
  have hquench : quenchable u = true := by simp [quenchable, hcode]
  simp [uncorrected, hok, hcode, Dev.quenchFor, hquench, hq, hst]

/-- An uncorrected error that neither quenches its unit nor lies in memory is counted alone. -/
theorem uncorrected_counts (hnq : quenchable u = false) (h0 : u.code.val ≠ 0) (h6 : u.code.val ≠ 6) (h7 : u.code.val ≠ 7)
    (h12 : u.code.val ≠ 12) (h9 : u.code.val = 9 → d.hbmPlace loc = none) (h10 : u.code.val = 10 → d.backing loc ≠ .ddr) :
    uncorrected d u loc = d.countErr u true loc := by
  have hfor : d.quenchFor u = d := by simp [Dev.quenchFor, hnq]
  unfold uncorrected
  rw [hok]
  simp only [Bool.not_true, Bool.false_eq_true, if_false]
  split
  case h_1 h => exact absurd h h6
  case h_2 h => exact absurd h h7
  case h_3 h => exact absurd h h12
  case h_4 h => simp [h9 h]
  case h_5 h => simp [h10 h]
  case h_6 h => exact absurd h h0
  case h_7 => rw [hfor]

end Uncorrected

/-! ### A cluster's spare engine (R111, R520) -/

/-- The one engine of a cluster that awaits the spare is the one it replaces. -/
theorem spareEngine_eq {d : Dev} {h : Half} {c : Fin 8} {e : Fin 128} (hhalf : engHalf e = h) (hcl : engIdx e / 8 = c.val)
    (hwait : (d.unit (engUnit e)).awaiting = true)
    (hone : ∀ g, g ≠ e → engHalf g = h → engIdx g / 8 = c.val → (d.unit (engUnit g)).awaiting = false)
    (hfree : ∀ g, (d.eng g).step = none) :
    spareEngine d h c = ((d.setEng e {}).modUnit (engUnit e) (fun r =>
      { r with st := .replaced, awaiting := false, quenched := false, testing := false, phys := some (9 * c.val + 8) })).raise
        (relEvt 1 (engUnit e) (9 * c.val + 8) 0) := by
  have hfind : (allEngines.filter (fun e => engHalf e == h && engIdx e / 8 == c.val)).find?
      (fun e => (d.unit (engUnit e)).awaiting) = some e := by
    have hmem : e ∈ allEngines.filter (fun e => engHalf e == h && engIdx e / 8 == c.val) :=
      List.mem_filter.2 ⟨List.mem_finRange e, by simp [hhalf, hcl]⟩
    have hsome := List.find?_isSome (p := fun e => (d.unit (engUnit e)).awaiting).2 ⟨e, hmem, hwait⟩
    obtain ⟨g, hg⟩ := Option.isSome_iff_exists.1 hsome
    obtain ⟨hgh, hgc⟩ : engHalf g = h ∧ engIdx g / 8 = c.val := by
      simpa using (List.mem_filter.1 (List.mem_of_find?_eq_some hg)).2
    have hga : (d.unit (engUnit g)).awaiting = true := by simpa using List.find?_some hg
    have hge : g = e := by
      by_contra hne
      rw [hone g hne hgh hgc] at hga
      cases hga
    rw [hg, hge]
  have hidle : (allEngines.filter (fun e => engHalf e == h && engIdx e / 8 == c.val)).any (fun e => (d.eng e).step.isSome) = false := by
    simp [hfree]
  simp only [spareEngine, hfind, hidle]
  rfl

/-! ### The end of containment (R524, R525) -/

/-- Giving grants back: the rings stay, and a step's image stays or is given back. -/
structure Dev.Returns (d d' : Dev) : Prop where
  rings : d'.host.rings = d.host.rings
  images : ∀ n st', d'.step? n = some st' → ∃ st, d.step? n = some st ∧ (st'.image = st.image ∨ st'.image = {})

theorem Dev.Returns.of_eq {d d' : Dev} (hrings : d'.host.rings = d.host.rings) (hsched : d'.sched = d.sched) : d.Returns d' :=
  ⟨hrings, fun n st h => ⟨st, by rw [← h, Dev.step?, Dev.step?, hsched], .inl rfl⟩⟩

theorem Dev.Returns.refl (d : Dev) : d.Returns d := .of_eq rfl rfl

theorem Dev.Returns.trans {d e f : Dev} (h : d.Returns e) (k : e.Returns f) : d.Returns f := by
  refine ⟨k.rings.trans h.rings, fun n st hf => ?_⟩
  obtain ⟨se, he, hse⟩ := k.images n st hf
  obtain ⟨sd, hd, hsd⟩ := h.images n se he
  obtain hse | hse := hse
  · exact ⟨sd, hd, by rwa [hse]⟩
  · exact ⟨sd, hd, .inr hse⟩

theorem foldDev_returns {α : Type} {f : Dev → α → Dev} (hf : ∀ (d : Dev) x, d.Returns (f d x)) (d : Dev) (l : List α) :
    d.Returns (foldDev d l f) :=
  foldDev_keeps d.Returns (fun e x h => h.trans (hf e x)) l (.refl d)

theorem Dev.modStep_returns (d : Dev) (n : Nat) {f : Step → Step} (hf : ∀ st, (f st).image = st.image ∨ (f st).image = {}) :
    d.Returns (d.modStep n f) := by
  refine ⟨rfl, fun m st h => ?_⟩
  by_cases hm : m = n
  · subst hm
    rw [Dev.step?_modStep_self, Option.map_eq_some_iff] at h
    obtain ⟨st0, h0, rfl⟩ := h
    exact ⟨st0, h0, hf st0⟩
  · rw [Dev.step?_modStep_ne d f hm] at h
    exact ⟨st, h, .inl rfl⟩

theorem Dev.stopEng_host (d : Dev) (e : Fin 128) : (d.stopEng e).host = d.host := by
  unfold Dev.stopEng Dev.abandon
  dsimp only
  split <;> rfl

theorem Dev.stopEng_returns (d : Dev) (e : Fin 128) : d.Returns (d.stopEng e) :=
  .of_eq (congrArg _ (d.stopEng_host e)) (d.stopEng_ops_sched e).2

theorem Dev.stopAll_returns (d : Dev) (n : Nat) (es : List (Fin 128)) : d.Returns (d.stopAll n es) :=
  foldDev_returns (fun e g => by split; exacts [e.stopEng_returns g, .refl e]) d es

theorem Dev.endStep_returns (d : Dev) (n : Nat) (o : Outcome) : d.Returns (d.endStep n o) := by
  unfold Dev.endStep
  split
  · exact .refl d
  next s _ =>
    split
    · exact .refl d
    · have hend := (d.stopAll n s.engines).modStep_returns n
        (f := fun s => { s with outcome := some o, phase := .draining, victimOf := none }) (fun _ => .inl rfl)
      exact ((d.stopAll_returns n s.engines).trans hend).trans (.of_eq rfl rfl)

theorem Dev.failEng_returns (d : Dev) (e : Fin 128) (st : Status) (detail addr : Nat) : d.Returns (d.failEng e st detail addr) := by
  unfold Dev.failEng
  split
  · exact (d.stopEng_returns e).trans (Dev.endStep_returns _ _ _)
  · exact .refl d

theorem Dev.Sends.returns {d d' : Dev} (h : d.Sends d') : d.Returns d' := .of_eq (congrArg _ h.host) h.sched

theorem Dev.dropWaits_returns (d : Dev) (obj : Nat) (st : Status) : d.Returns (d.dropWaits obj st) := by
  have hdrop (e : Dev) (w : Waiter) :
      e.Returns (if w.tag.isSome then e.answerWaiter w st 0 else e.failEng w.eng st 0 (objAddr obj)) := by
    split
    · exact (e.answerWaiter_sends _ _ _).returns
    · exact e.failEng_returns _ _ _ _
  have hgone : d.Returns (d.modRennet (fun r => { r with waiters := r.waiters.filter (fun w => w.obj != obj) })) := .of_eq rfl rfl
  exact hgone.trans (foldDev_returns hdrop _ _)

theorem Dev.freeObjs_returns (d : Dev) (first count : Nat) : d.Returns (d.freeObjs first count) := by
  have hdrop := foldDev_returns (fun e i => e.dropWaits_returns (first + i) .unmapped) d
    ((List.range count).filter (fun i => d.rennet.waiters.any (fun w => w.obj == first + i)))
  exact hdrop.trans (.of_eq rfl rfl)

theorem Dev.release_returns (d : Dev) (n : Nat) : d.Returns (d.release n) := by
  unfold Dev.release
  split
  · exact .refl d
  next s _ =>
    extract_lets away d1 clear d2 d3 d4
    have h1 : d.Returns d1 := foldDev_returns (fun e g => by split <;> exact .of_eq rfl rfl) d _
    have hclear (e : Dev) (h : Half) : e.Returns (clear e h) := by
      simp only [clear]
      split
      · exact .refl e
      · exact ⟨rfl, fun n st h => ⟨st, h, .inl rfl⟩⟩
    exact (((h1.trans ((hclear d1 .west).trans (hclear _ .east))).trans (d2.freeObjs_returns _ _)).trans
      (d3.freeObjs_returns _ _)).trans (d4.modStep_returns n (fun _ => .inr rfl))

/-- A step whose regions are all inputs has nothing to make undefined. -/
theorem Dev.freeRegions_of_inputs {d : Dev} {n : Nat} (h : ∀ st, d.step? n = some st → ∀ r ∈ st.image.regions, r.dir = 0) :
    d.freeRegions n = d := by
  unfold Dev.freeRegions
  split
  · rfl
  next st hst =>
    split
    · rfl
    · have hnone : st.image.regions.filter (fun r => r.dir != 0) = [] := by
        rw [List.filter_eq_nil_iff]
        exact fun r hr => by simp [h st hst r hr]
      rw [hnone]
      rfl

/-- The grants of discarded steps without output regions go back, with memory and the rings as they were. -/
theorem foldDev_freeRegions_release {d : Dev} {l : List Nat}
    (h : ∀ n st, n ∈ l → d.step? n = some st → ∀ r ∈ st.image.regions, r.dir = 0) :
    (foldDev d l (fun d n => (d.freeRegions n).release n)).mem = d.mem := by
  suffices hkeep : (foldDev d l (fun d n => (d.freeRegions n).release n)).mem = d.mem ∧
      d.Returns (foldDev d l (fun d n => (d.freeRegions n).release n)) from hkeep.1
  refine List.foldlRecOn (motive := fun e => e.mem = d.mem ∧ d.Returns e) l _ ⟨rfl, .refl d⟩ ?_
  rintro e ⟨hmem, hret⟩ n hn
  have hfree : e.freeRegions n = e := Dev.freeRegions_of_inputs (fun st hst r hr => by
    obtain ⟨st0, hst0, himg⟩ := hret.images n st hst
    obtain himg | himg := himg
    · exact h n st0 hn hst0 r (himg ▸ hr)
    · rw [himg] at hr
      cases hr)
  rw [hfree]
  exact ⟨(e.release_mem n).trans hmem, hret.trans (e.release_returns n)⟩

theorem Dev.freeRegions_returns (d : Dev) (n : Nat) : d.Returns (d.freeRegions n) := by
  unfold Dev.freeRegions
  split
  · exact .refl d
  · split
    · exact .refl d
    · refine foldDev_returns (fun e r => foldDev_returns (fun f p => ?_) e _) d _
      split
      · dsimp only
        split
        · split
          · exact .of_eq rfl rfl
          · exact .refl f
        · exact .of_eq rfl rfl
        · exact .refl f
      · exact .refl f

theorem Dev.finish_rings (d : Dev) (n : Nat) : (d.finish n).host.rings = d.host.rings := by
  unfold Dev.finish
  split
  · rfl
  next s _ =>
    have hend : d.Returns (d.modStep n (fun s => { s with phase := .recorded })) := d.modStep_returns n (fun _ => .inl rfl)
    have hroom (b : Bool) : (if b then (d.modStep n (fun s => { s with phase := .recorded })).release n
        else d.modStep n (fun s => { s with phase := .recorded })).host.rings = d.host.rings := by
      split
      · exact (hend.trans (Dev.release_returns _ n)).rings
      · exact hend.rings
    dsimp only
    split
    · exact hroom _
    · exact hroom _

/-- The rings of the discarded steps are held (R523). -/
def holdRings (rings : List Nat) (t : Tbl Ring) : Tbl Ring :=
  t.map (fun p => if rings.contains p.1 then (p.1, { p.2 with held := true }) else p)

theorem tget_holdRings {rings : List Nat} {t : Tbl Ring} {n : Nat} {r : Ring} (hn : n ∈ rings) (hr : tget t n = some r) :
    tget (holdRings rings t) n = some { r with held := true } := by
  induction t with
  | nil => cases hr
  | cons p t ih =>
    obtain ⟨m, v⟩ := p
    by_cases hm : m = n
    · subst hm
      simp only [tget, if_true, Option.some.injEq] at hr
      simp [holdRings, tget, hn, hr]
    · simp only [tget, if_neg hm] at hr
      have hskip : tget (holdRings rings ((m, v) :: t)) n = tget (holdRings rings t) n := by
        rw [holdRings, List.map_cons]
        split <;> exact if_neg hm
      exact hskip.trans (ih hr)

/-- The discarded steps' grants have gone back (R524, stage 5). -/
def Dev.givenBack (d : Dev) (ids : List Nat) : Dev := foldDev d ids (fun d n => (d.freeRegions n).release n)

/-- The discarded steps are gone, with a record each unless the containment is silent (R524, stage 6). -/
def Dev.discardedDone (d : Dev) (ids : List Nat) (silent : Bool) : Dev :=
  if silent then d.modSched (fun s => { s with steps := s.steps.filter (fun p => !ids.contains p.1) })
  else foldDev d ids (fun d n => d.finish n)

/-- The end of containment: grants go back, records are queued, and the rings of the discarded steps are held. -/
theorem containmentSettled_eq {d : Dev} {k : Contain} (hk : d.faults.contain = some k) (hs : d.settled k.steps = true) :
    containmentSettled d =
      let ids := d.discardOrder k.steps
      let e := (d.givenBack ids).discardedDone ids k.silent
      ((e.modHost (fun h => { h with rings := holdRings (ids.filterMap (fun n => (d.step? n).map (·.ring))).eraseDups h.rings })).modFaults
        (fun f => { f with contain := none })).raise (evt 12 .ok .hub 4 ids.length (e.hubCount - k.t0).toNat) := by
  simp only [containmentSettled, hk, hs, Bool.not_true, Bool.false_eq_true, if_false]
  rfl

theorem Dev.discardedDone_mem (d : Dev) (ids : List Nat) (silent : Bool) : (d.discardedDone ids silent).mem = d.mem := by
  unfold Dev.discardedDone
  split
  · rfl
  · exact foldDev_mem (fun e n => e.finish_mem n) d ids

theorem Dev.discardedDone_rings (d : Dev) (ids : List Nat) (silent : Bool) :
    (d.discardedDone ids silent).host.rings = d.host.rings := by
  unfold Dev.discardedDone
  split
  · rfl
  · exact foldDev_keeps (fun e => e.host.rings = d.host.rings) (fun e n he => (e.finish_rings n).trans he) ids rfl

theorem Dev.givenBack_rings (d : Dev) (ids : List Nat) : (d.givenBack ids).host.rings = d.host.rings :=
  (foldDev_returns (fun e n => (e.freeRegions_returns n).trans (Dev.release_returns _ n)) d ids).rings

/-! ### The obligation -/

section Units
variable {s : State} {u : UnitId}

/-- The engine that a unit's record names. -/
theorem engUnit_index (e : Fin 128) :
    Fin.ofNat 128 (64 * halfIdx (dieHalf (engUnit e).die) + (engUnit e).unit.toNat) = e := by
  have he := e.isLt
  apply Fin.ext
  by_cases h : 64 ≤ e.val
  · simp [engUnit, engHalf, engIdx, halfOf, dieOf, dieHalf, halfIdx, h, Fin.ofNat]
    omega
  · simp [engUnit, engHalf, engIdx, halfOf, dieOf, dieHalf, halfIdx, h, Fin.ofNat]
    omega

/-- The clauses on a corrected error. -/
theorem exec_correctedError_below {loc : Word} {th win : Nat} (hok : unitOk u = true)
    (hth : s.dev.threshOf u.code.val false = some (th, win)) (hlt : (s.dev.unit u).cc + 1 < th) :
    ∃ d, exec (.correctedError u loc) s = .next { s with dev := d } ∧ (d.unit u).cc = (s.dev.unit u).cc + 1 ∧
      (d.unit u).st = (s.dev.unit u).st ∧
      (u.code.val ∉ [2, 4, 8, 9, 11] ∨ (u.code.val = 8 ∧ s.dev.threshOf 9 false = none) → { d with faults := s.dev.faults } = s.dev) ∧
      (u.code.val = 8 → s.dev.threshOf 9 false = none → s.dev.unit (laneChan u) = d.unit (laneChan u) ∨
        (d.unit (laneChan u)).ctotal = sat32 ((s.dev.unit (laneChan u)).ctotal + 1)) ∧
      (u.code.val = 4 → d.core (Fin.ofNat 64 u.unit.toNat) = (s.dev.core (Fin.ofNat 64 u.unit.toNat)).l1Drop (loc.toNat % 2 ^ 48 / 64) ∧
        { d with faults := s.dev.faults, cores := s.dev.cores } = s.dev) ∧
      (∀ e : Fin 128, u = engUnit e → d.eng e = (s.dev.eng e).dropParity (loc.toNat % 2 ^ 48) ∧
        (∀ g, g ≠ e → d.eng g = s.dev.eng g) ∧ { d with faults := s.dev.faults, engines := s.dev.engines } = s.dev) ∧
      (u.code.val = 11 → (∀ p, p ≠ fld u.unit.toNat 8 4 → d.port p = s.dev.port p) ∧
        { d with faults := s.dev.faults, chain := s.dev.chain, free := s.dev.free } = s.dev) := by
  have hunit := correctedErr_unit (loc := loc.toNat) hok hth hlt
  have hdev := correctedErr_below (loc := loc.toNat) hok hth hlt
  refine ⟨correctedErr s.dev u loc.toNat, rfl, congrArg UnitRec.cc hunit, (congrArg UnitRec.st hunit).trans rfl, ?plain, ?chan, ?core, ?eng, ?port⟩
  all_goals rw [hdev]
  case plain =>
    rintro (hcode | ⟨h8, hnone⟩)
    · have h2 : u.code ≠ 2 := fun h => hcode (by simp [h])
      have h4 : u.code ≠ 4 := fun h => hcode (by simp [h])
      have h8 : u.code ≠ 8 := fun h => hcode (by simp [h])
      have h9 : u.code ≠ 9 := fun h => hcode (by simp [h])
      have h11 : u.code ≠ 11 := fun h => hcode (by simp [h])
      simp only [if_neg h2, if_neg h4, if_neg h8, if_neg h9, if_neg h11]
      rfl
    · simp only [if_pos (show u.code = 8 from Fin.ext h8)]
      rw [Dev.countErr_uncounted (by rw [Dev.threshOf, Dev.modUnit_thresh]; exact hnone)]
      rfl
  case chan =>
    intro h8 hnone
    right
    have hne : laneChan u ≠ u := fun h => by
      have h89 : 8 = 9 := h8.symm.trans (congrArg (fun v => v.code.val) h.symm)
      omega
    simp only [if_pos (show u.code = 8 from Fin.ext h8)]
    rw [Dev.countErr_uncounted (by rw [Dev.threshOf, Dev.modUnit_thresh]; exact hnone), Dev.unit_modUnit_self, Dev.unit_modUnit_ne _ _ hne]
  case core =>
    intro h4
    have h4' : u.code = 4 := Fin.ext h4
    simp only [h4', Fin.reduceEq, if_false, if_true]
    exact ⟨Dev.core_modCore_self _ _ _, rfl⟩
  case eng =>
    rintro e rfl
    have hcode : (engUnit e).code = 2 := rfl
    have hnum := engUnit_index e
    simp only [hcode, Fin.reduceEq, if_false, if_true, hnum]
    exact ⟨Dev.eng_modEng_self _ _ _, fun g hg => Dev.eng_modEng_ne _ _ hg, rfl⟩
  case port =>
    intro h11
    have h11' : u.code = 11 := Fin.ext h11
    simp only [h11', Fin.reduceEq, if_false, if_true]
    exact ⟨fun p hp => Dev.port_modPort_ne _ _ hp, rfl⟩

end Units

/-- Settles O40: the counting, the quench and the containment each by their own lemmas. That an engine's or a core's parity error names
the line's local offset is the model's choice (log 66). -/
theorem unitsCountQuenchAndRecover : Obligations.UnitsCountQuenchAndRecover := by
  intro s
  refine ⟨fun u loc th win hok hth hlt => exec_correctedError_below hok hth hlt, ?counted, ?engine, ?leak, fun _ => rfl, ?link, ?probe,
    ?test, ?spare, ?settled⟩
  case counted =>
    intro u loc th win hok hnq h0 h6 h7 h12 h9 h10 hth hlt
    refine ⟨uncorrected s.dev u loc.toNat, rfl, ?_⟩
    rw [uncorrected_counts hok hnq h0 h6 h7 h12 h9 h10, Dev.countErr_below (unc := true) hth hlt, Dev.unit_modUnit_self]
    exact ⟨rfl, rfl⟩
  case engine =>
    intro u loc hok hcode hq hst hinc
    refine ⟨uncorrected s.dev u loc.toNat, rfl, ?_⟩
    obtain ⟨hquench, -, hnext, hcont⟩ := Dev.quench_unit hq hinc 0 (!(s.dev.unit u).awaiting)
    obtain ⟨kq, ki, kc⟩ := Dev.countErr_keepsQuench (s.dev.quench u 0 (!(s.dev.unit u).awaiting)) hcode loc.toNat
    rw [uncorrected_engine hok hcode hq hst, kq, ki, kc]
    exact ⟨hquench, hnext, hcont⟩
  case leak =>
    intro u th win hok hth hone
    refine ⟨s.dev.modUnit u (fun r => { r with cc := r.cc - 1 }), exec_onDev (by unfold exec execErrorCounterLeak; rfl) ?_, ?_⟩
    · simp [hth, hone, hok]
    · rw [Dev.unit_modUnit_self]
      exact ⟨rfl, rfl, rfl⟩
  case link =>
    intro link
    obtain ⟨c, hc⟩ := s.dev.packageFault_faults ⟨12, .hub, BitVec.ofNat 16 link.val⟩
    refine ⟨s.dev.packageFault ⟨12, .hub, BitVec.ofNat 16 link.val⟩, rfl, by rw [hc], by rw [hc]; rfl, Dev.contain_stopping _ _ _,
      Dev.contain_ops _ _ _, fun hops hlost => Dev.contain_same_mem _ _ hops hlost⟩
  case probe =>
    intro u hok hcode hup hhalt hq hinc
    have hquench : quenchable u = true := by simp [quenchable, hcode]
    obtain ⟨h1, h2, h3, h4⟩ := Dev.quench_unit hq hinc 1 true
    exact ⟨_, exec_onDev rfl (if_pos (by simp [hok, hquench, hup, hhalt])), h1, h2, h3, h4⟩
  case test =>
    intro u hok hq htest
    have hpass : selfTestDone s.dev u true = (s.dev.modUnit u (fun r => { r with quenched := false, testing := false })).raise
        (relEvt 5 u (s.dev.unit u).inc.toNat 0) := by
      simp [selfTestDone, hok, hq, htest]
    refine ⟨_, exec_onDev (f := fun d => selfTestDone d u true) rfl hpass, ?_⟩
    rw [Dev.unit_of_aside (Dev.raise_aside _ _), Dev.unit_modUnit_self]
    exact ⟨rfl, rfl, rfl, rfl⟩
  case spare =>
    intro h c e hhalf hcl hwait hone _ hfree
    refine ⟨_, exec_onDev (f := fun d => spareEngine d h c) rfl (spareEngine_eq hhalf hcl hwait hone hfree), ?_⟩
    rw [Dev.unit_of_aside (Dev.raise_aside _ _), Dev.unit_modUnit_self]
    exact ⟨rfl, rfl, rfl, s.dev.eng_modEng_self e (fun _ => {}), fun g hg => s.dev.eng_modEng_ne (fun _ => {}) hg, rfl⟩
  case settled =>
    intro k hk hs
    have hin {n : Nat} (h : n ∈ s.dev.discardOrder k.steps) : n ∈ k.steps := (List.mem_filter.1 h).1
    refine ⟨_, exec_onDev rfl (containmentSettled_eq hk hs), rfl, fun hdir => ?_, fun n st r hn hst hr => ?_⟩
    · exact (Dev.discardedDone_mem _ _ _).trans (foldDev_freeRegions_release fun n st h hst => hdir n st (hin h) hst)
    · have hmem : st.ring ∈ ((s.dev.discardOrder k.steps).filterMap (fun n => (s.dev.step? n).map (·.ring))).eraseDups := by
        rw [List.mem_eraseDups]
        exact List.mem_filterMap.2 ⟨n, List.mem_filter.2 ⟨hn, by simp [hst]⟩, by simp [hst]⟩
      have hring : tget ((s.dev.givenBack (s.dev.discardOrder k.steps)).discardedDone (s.dev.discardOrder k.steps)
          k.silent).host.rings st.ring = some r := by
        rw [Dev.discardedDone_rings, Dev.givenBack_rings, hr]
      dsimp only
      rw [(Dev.raise_rings_admHead _ _).1]
      exact ⟨_, tget_holdRings hmem hring, rfl⟩

end Sys2Proof.Machine

/-!
The admin commands of the Chain (Table 14.8, R399 to R402, R428, R429).
-/
namespace Sys2Proof.Machine

/-! ### Ports that start their bring-up (R399, R423) -/

/-- A port as CHAIN_JOIN leaves it: an enabled one starts, unless its last frames drain. -/
def Port.started (q : Port) : Port := if q.enabled && q.st != .draining then q.fresh .training else q

theorem Port.started_st {q : Port} (hen : q.enabled = true) (hst : q.st ≠ .draining) : q.started.st = .training := by
  rw [Port.started, if_pos (by simp [hen, hst])]
  rfl

/-- One port of the table starts. -/
def startPort (t : Tbl Port) (p : Nat) : Tbl Port :=
  if (tgetD t p {}).enabled && (tgetD t p {}).st != .draining then tput t p ((tgetD t p {}).fresh .training) else t

theorem startPort_eq : startPort = fun t p =>
    if (tgetD t p {}).enabled && (tgetD t p {}).st != .draining then tput t p ((tgetD t p {}).fresh .training) else t := rfl

theorem tgetD_startPort (t : Tbl Port) (p k : Nat) :
    tgetD (startPort t p) k {} = if k = p then (tgetD t p {}).started else tgetD t k {} := by
  unfold startPort Port.started
  by_cases hk : k = p
  · subst hk
    split <;> simp
  · split <;> simp [hk, tgetD_tput_ne]

theorem tgetD_foldl_startPort {l : List Nat} (hl : l.Nodup) (t : Tbl Port) (p : Nat) :
    tgetD (l.foldl startPort t) p {} = if p ∈ l then (tgetD t p {}).started else tgetD t p {} := by
  induction l generalizing t with
  | nil => rfl
  | cons k l ih =>
    obtain ⟨hk, hl⟩ := List.nodup_cons.1 hl
    rw [List.foldl_cons, ih hl, tgetD_startPort]
    by_cases hp : p = k
    · subst hp
      simp [hk]
    · simp [hp]

/-- Asking for a domain changes the supply's state alone. -/
theorem Dev.wakeDom_only (d : Dev) (n : Nat) : ∃ p, d.wakeDom n = { d with power := p } := by
  unfold Dev.wakeDom
  split <;> exact ⟨_, rfl⟩

theorem foldDev_wakeDom_keeps (d : Dev) (l : List Nat) :
    (foldDev d l (fun d k => d.wakeDom k)).host = d.host ∧ (foldDev d l (fun d k => d.wakeDom k)).chain = d.chain ∧
      (foldDev d l (fun d k => d.wakeDom k)).mem = d.mem := by
  refine foldDev_keeps (fun e => e.host = d.host ∧ e.chain = d.chain ∧ e.mem = d.mem) ?_ l ⟨rfl, rfl, rfl⟩
  intro e n he
  obtain ⟨p, hp⟩ := e.wakeDom_only n
  rw [hp]
  exact he

theorem Dev.leaving_of_aside {d e : Dev} (h : d.aside = e.aside) : d.chain.leaving = e.chain.leaving :=
  congrArg (fun x => x.2.1) (Dev.place_of_aside h)

/-! ### The lines that leave with a node (R428) -/

theorem Dev.evictLine_aside (d : Dev) (h key) : (d.evictLine h key).aside = d.aside := by
  unfold Dev.evictLine
  dsimp only
  (repeat' split) <;> rfl

theorem Dev.evictLine_ledger (d : Dev) (h key) : (d.evictLine h key).ledger = d.ledger := by
  unfold Dev.evictLine
  dsimp only
  (repeat' split) <;> rfl

theorem Dev.leavePush_aside (d : Dev) : d.leavePush.aside = d.aside := by
  unfold Dev.leavePush
  dsimp only
  rw [foldDev_aside fun e h => foldDev_aside (fun f p => f.evictLine_aside h _) e _]
  exact foldDev_aside (fun e k => by split <;> simp) d _

theorem Dev.leavePush_ledger (d : Dev) : d.leavePush.ledger = d.ledger := by
  unfold Dev.leavePush
  dsimp only
  rw [foldDev_ledger fun e h => foldDev_ledger (fun f p => f.evictLine_ledger h _) e _]
  exact foldDev_ledger (fun e k => by split <;> simp) d _

/-- A node that no other holds a line of writes nothing back to its memory when it leaves. -/
theorem Dev.leavePush_mem {d : Dev} (h : d.coh.dir = []) : d.leavePush.mem = d.mem := by
  unfold Dev.leavePush
  simp only [h, List.map_nil]
  exact foldDev_mem (fun e h => foldDev_mem (fun f p => f.evictLine_mem h _) e _) _ _

/-! ### What each command answers -/

/-- The Chain of a node that has just taken a number (R399). -/
def Dev.joinedAs (d : Dev) (n : Nat) : Dev :=
  d.modChain (fun x => { x with joined := true, node := n, inc := 0, links := [], tx := [], rx := [],
                                ports := (List.range 16).foldl startPort x.ports })

theorem Dev.joinedAs_ports (d : Dev) (n : Nat) : (d.joinedAs n).chain.ports = (List.range 16).foldl startPort d.chain.ports := by
  rw [Dev.joinedAs, Dev.modChain_chain]

theorem Dev.fetched_modChain_admHead (d : Dev) (f : Chain → Chain) :
    (d.fetched.modChain f).host.admHead = d.host.admHead + 1 := rfl

theorem Dev.fetched_chain (d : Dev) : d.fetched.chain = d.chain := rfl

section Commands
variable {s : State} {c : AdmCmd} (hopen : s.dev.adminOpen = true) (hr : c.rsvd = false)
include hopen hr

theorem exec_chainJoin {n : Word} (hops : opsAre c [n]) (hn : n.toNat < 64) (hout : s.dev.chain.joined = false)
    (hstay : s.dev.chain.leaving = false) :
    ∃ d, exec (.chainJoin c) s = .next { s with dev := d } ∧ AdmTaken s.dev d c .chainJoin ∧ d.chain.joined = true ∧
      d.chain.node = n.toNat ∧ d.chain.links = [] ∧ d.mem = s.dev.mem ∧
      (∀ p, p < 16 → (s.dev.port p).enabled = true → (s.dev.port p).st ≠ .draining → (d.port p).st = .training) := by
  have hz : admOnly c 1 = true := admOnly_length hops hr
  have hbg (d' : Dev) := exec_adminBg (i := .chainJoin c) (d' := d') hopen rfl
  obtain ⟨hhost, hchain, hmem⟩ := foldDev_wakeDom_keeps (s.dev.fetched.joinedAs n.toNat) [45, 46, 47, 48]
  obtain ⟨t, hexec, htaken⟩ := hbg (foldDev (s.dev.fetched.joinedAs n.toNat) [45, 46, 47, 48] (fun d k => d.wakeDom k)) (by
    simp only [admOp_eq hops, lgetD]
    rw [if_neg (by simp [hz]; omega), if_neg (by exact Bool.eq_false_iff.1 hstay), if_neg (by exact Bool.eq_false_iff.1 hout),
      Dev.joinedAs, startPort_eq]) (congrArg HostIf.admHead hhost)
  generalize foldDev (s.dev.fetched.joinedAs n.toNat) [45, 46, 47, 48] (fun d k => d.wakeDom k) = d at *
  refine ⟨_, hexec, htaken, ?_, ?_, ?_, hmem, fun p hp hen hst => ?_⟩
  all_goals simp only [Dev.modHost_chain, Dev.port, hchain]
  · rfl
  · rfl
  · rfl
  · rw [Dev.joinedAs_ports, Dev.fetched_chain, tgetD_foldl_startPort List.nodup_range, if_pos (List.mem_range.2 hp)]
    exact Port.started_st hen hst

theorem exec_chainLeave (hops : opsAre c []) (hidle : s.dev.stepsBusy = false) (hstay : s.dev.chain.leaving = false)
    (hin : s.dev.chain.joined = true) :
    ∃ d, exec (.chainLeave c) s = .next { s with dev := d } ∧ AdmTaken s.dev d c .chainLeave ∧ d.chain.leaving = true ∧
      (s.dev.coh.dir = [] → d.mem = s.dev.mem) := by
  have hz : admOnly c 0 = true := admOnly_length hops hr
  have hbg (d' : Dev) := exec_adminBg (i := .chainLeave c) (d' := d') hopen rfl
  have hleft := Dev.leavePush_aside (s.dev.fetched.modChain (fun x => { x with leaving := true }))
  have hhead := (Dev.admHead_of_ledger (Dev.leavePush_ledger (s.dev.fetched.modChain (fun x => { x with leaving := true })))).trans
    (Dev.fetched_modChain_admHead ..)
  obtain ⟨t, hexec, htaken⟩ := hbg (s.dev.fetched.modChain (fun x => { x with leaving := true })).leavePush (by
    rw [if_neg (by simp [hz]), Dev.fetched_chain, hstay, if_neg Bool.false_ne_true, if_neg (by exact Bool.eq_false_iff.1 hidle),
      hin, if_neg (by decide)]) hhead
  refine ⟨_, hexec, htaken, ?_, fun hdir => ?_⟩
  rotate_left
  · rw [Dev.modHost_mem, Dev.leavePush_mem (by rw [Dev.modChain_coh, Dev.fetched, Dev.modHost_coh, hdir]), Dev.modChain_mem]
    rfl
  rw [Dev.modHost_chain, Dev.leaving_of_aside hleft, Dev.modChain_chain]

end Commands

/-- A command that changes one port alone. -/
theorem Dev.modPort_modPort (d : Dev) (p : Nat) (f g : Port → Port) : (d.modPort p f).modPort p g = d.modPort p (fun q => g (f q)) := by
  simp only [Dev.modPort, Dev.modChain, Dev.port, tgetD_tput_self, tput_tput_self]

theorem Dev.power_port (d : Dev) (w : Power) (p : Nat) : { d with power := w }.port p = d.port p := rfl

theorem Dev.fetched_port (d : Dev) (p : Nat) : d.fetched.port p = d.port p := rfl

theorem Dev.modHost_port (d : Dev) (f : HostIf → HostIf) (p : Nat) : (d.modHost f).port p = d.port p := rfl

/-- Settles O47: each command's guards fall away, and what is left is its action on the ports. -/
theorem chainCommandsComplete : Obligations.ChainCommandsComplete := by
  intro s c hopen hr
  refine ⟨fun n hops hn hout hstay => exec_chainJoin hopen hr hops hn hout hstay,
    fun hops hidle hstay hin => exec_chainLeave hopen hr hops hidle hstay hin, fun p hp => ⟨?disable, ?enable, ?retrain⟩, ?status⟩
  case disable =>
    intro hops hup hst
    have hz : admOnly c 2 = true := admOnly_length hops hr
    have hbad : portCmdBad c 0 = false := by simp [portCmdBad, hz, admOp_eq hops, lgetD, hp]
    have hbg (d' : Dev) := exec_adminBg (i := .chainPortDisable c) (d' := d') hopen rfl
    simp only [admOp_eq hops, lgetD] at hbg
    obtain ⟨t, hexec, htaken⟩ := hbg (s.dev.fetched.modPort p.toNat (fun q => { q with enabled := false }.fresh .disabled)) (by
      rw [hbad, if_neg Bool.false_ne_true, Dev.port_modPort_self, if_neg (by exact Bool.eq_false_iff.1 hup),
        if_neg (by exact hst), Dev.modPort_modPort]) rfl
    refine ⟨_, hexec, htaken, ?_, ?_, rfl⟩ <;> rw [Dev.modHost_port, Dev.port_modPort_self] <;> rfl
  case enable =>
    intro hops hst hin
    have hz : admOnly c 2 = true := admOnly_length hops hr
    have hbad : portCmdBad c 1 = false := by simp [portCmdBad, hz, admOp_eq hops, lgetD, hp]
    have hbg (d' : Dev) := exec_adminBg (i := .chainPortEnable c) (d' := d') hopen rfl
    simp only [admOp_eq hops, lgetD] at hbg
    generalize hd : s.dev.fetched.modPort p.toNat (fun q => { q with enabled := true }) = d at hbg
    obtain ⟨w, hw⟩ := d.wakeDom_only (45 + p.toNat / 4)
    rw [hw] at hbg
    have hst' : ({ d with power := w }.port p.toNat).st = .disabled := by
      rw [Dev.power_port, ← hd, Dev.port_modPort_self]
      exact hst
    have hin' : { d with power := w }.chain.joined = true := by
      simp only [← hd]
      exact hin
    have hhead : d.host.admHead = s.dev.host.admHead + 1 := by rw [← hd]; rfl
    have hmem : d.mem = s.dev.mem := by rw [← hd]; rfl
    obtain ⟨t, hexec, htaken⟩ := hbg ({ d with power := w }.modPort p.toNat (fun q => q.fresh .training)) (by
      rw [hbad, if_neg Bool.false_ne_true, if_neg (by rw [Dev.fetched_port, hst]; decide), if_pos (by rw [hst', hin']; rfl)]) hhead
    refine ⟨_, hexec, htaken, ?_, ?_, hmem⟩
    · rw [Dev.modHost_port, Dev.port_modPort_self, Dev.power_port, ← hd, Dev.port_modPort_self]
      rfl
    · rw [Dev.modHost_port, Dev.port_modPort_self]
      rfl
  case retrain =>
    intro hops hup
    have hz : admOnly c 2 = true := admOnly_length hops hr
    have hbad : portCmdBad c 2 = false := by simp [portCmdBad, hz, admOp_eq hops, lgetD, hp]
    have hbg (d' : Dev) := exec_adminBg (i := .chainPortRetrain c) (d' := d') hopen rfl
    simp only [admOp_eq hops, lgetD] at hbg
    obtain ⟨t, hexec, htaken⟩ := hbg (s.dev.fetched.modPort p.toNat (fun q => { q with retrain := true, lanes := 8, laneBad := 0 })) (by
      rw [hbad, if_neg Bool.false_ne_true, if_pos (by exact hup)]) rfl
    refine ⟨_, hexec, htaken, ?_, ?_, rfl⟩ <;> rw [Dev.modHost_port, Dev.port_modPort_self]
  case status =>
    intro a ha hops hlt ht
    have hz : admOnly c 1 = true := admOnly_length hops hr
    refine exec_admin_record (i := .chainStatus c) hopen rfl ht (bs := (List.range 16).flatMap (fun p => portRec (s.dev.port p))) ?_
    simp only [admAddr, admOp_eq hops, lgetD_ops hops, lgetD]
    rw [if_neg (by simp [hz]; omega)]
    rfl

end Sys2Proof.Machine

/-!
Signed objects, security commands and the ends of a debug session (R535 to R560).
-/
namespace Sys2Proof.Machine

/-! ### What a measurement, a report and the end of a session change (R390, R546, R555, R556) -/

/-- A measurement extends the log and its register, and nothing else. -/
theorem Dev.measure_eq (d : Dev) (mr : Fin 4) (event : Nat) (dg : BitVec 512) :
    ∃ l m, d.measure mr event dg = d.modSec (fun s => { s with log := l, mrs := m }) := by
  unfold Dev.measure
  split
  · exact ⟨d.sec.log, d.sec.mrs, rfl⟩
  · exact ⟨_, _, rfl⟩

theorem Dev.raise_sec (d : Dev) (e : Event) : (d.raise e).sec = d.sec := rfl

theorem Dev.stopMargin_of_none {d : Dev} (h : d.hbm.margin = none) : d.stopMargin = d := by
  rw [Dev.stopMargin, h]

theorem Dev.bgDone_admHead (d : Dev) (slot : Nat) (st : Status) (lo : Nat) : (d.bgDone slot st lo).host.admHead = d.host.admHead := by
  unfold Dev.bgDone
  split
  · rw [Dev.adminDone_eq]
    rfl
  · rfl

theorem Dev.stopMargin_admHead (d : Dev) : d.stopMargin.host.admHead = d.host.admHead := by
  unfold Dev.stopMargin
  split
  · rfl
  · rw [Dev.admHead_of_ledger (Dev.retryHeld_ledger _)]
    split
    · rw [Dev.bgDone_admHead]
      rfl
    · rfl

/-- A lost right resumes cores, engines and the saved engines of steps, clears triggers, and ends a margining sweep. -/
theorem Dev.dropDebug_only (d : Dev) (mask : Word) :
    ∃ cs es sc k, d.dropDebug mask =
      { (if bit mask.toNat 5 then d else d.stopMargin) with cores := cs, engines := es, sched := sc, sec := k } := by
  unfold Dev.dropDebug
  extract_lets has d1 d2 run d3 d4 keep
  have h2 : ∃ cs, d2 = { d1 with cores := cs } := by
    simp only [d2]
    split
    · exact ⟨_, rfl⟩
    · refine foldDev_keeps (fun e => ∃ cs, e = { d1 with cores := cs }) ?_ allCores ⟨_, rfl⟩
      rintro e h ⟨cs, rfl⟩
      split <;> exact ⟨_, rfl⟩
  have h3 : ∃ es, d3 = { d2 with engines := es } := by
    refine foldDev_keeps (fun e => ∃ es, e = { d2 with engines := es }) ?_ allEngines ⟨_, rfl⟩
    rintro e h ⟨es, rfl⟩
    split <;> exact ⟨_, rfl⟩
  clear_value d2 d3
  obtain ⟨cs, rfl⟩ := h2
  obtain ⟨es, rfl⟩ := h3
  have h4 : ∃ es sc, d4 = { d1 with cores := cs, engines := es, sched := sc } := by
    simp only [d4]
    split <;> exact ⟨_, _, rfl⟩
  clear_value d4
  obtain ⟨es, sc, rfl⟩ := h4
  exact ⟨cs, es, sc, _, rfl⟩

theorem Dev.dropDebug_admHead (d : Dev) (mask : Word) : (d.dropDebug mask).host.admHead = d.host.admHead := by
  obtain ⟨cs, es, sc, k, h⟩ := d.dropDebug_only mask
  rw [h]
  dsimp only
  split
  · rfl
  · exact d.stopMargin_admHead

/-- Without a margining sweep, a lost right changes neither memory nor what the package has sent. -/
theorem Dev.dropDebug_same {d : Dev} (h : d.hbm.margin = none) (mask : Word) :
    (d.dropDebug mask).mem = d.mem ∧ (d.dropDebug mask).out = d.out := by
  obtain ⟨cs, es, sc, k, hdrop⟩ := d.dropDebug_only mask
  rw [hdrop, Dev.stopMargin_of_none h, ite_self]
  exact ⟨rfl, rfl⟩

/-- A session that closes drops its rights after its event and its log entry. -/
theorem Dev.closeSession_eq {d : Dev} {x : Session} (h : d.sec.session = some x) (reason : Nat) :
    ∃ q n k l m, d.closeSession reason =
      ((d.modHost (fun h => { h with evtQ := q, evtDrop := n, evtLost := k })).modSec
        (fun s => { s with log := l, mrs := m, session := none })).dropDebug 0 := by
  obtain ⟨q, n, k, hraise⟩ := d.raise_eq (secEvt 1 reason 0)
  obtain ⟨l, m, hmeas⟩ := (d.raise (secEvt 1 reason 0)).measure_eq 3 5 (Config.shake512 (numBytes 8 reason))
  refine ⟨q, n, k, l, m, ?_⟩
  rw [Dev.closeSession, h]
  dsimp only
  rw [hmeas, hraise]
  rfl

theorem Dev.closeSession_of_none {d : Dev} (h : d.sec.session = none) (reason : Nat) : d.closeSession reason = d := by
  rw [Dev.closeSession, h]

theorem Dev.closeSession_admHead (d : Dev) (reason : Nat) : (d.closeSession reason).host.admHead = d.host.admHead := by
  cases hs : d.sec.session with
  | none => rw [Dev.closeSession_of_none hs]
  | some x =>
    obtain ⟨q, n, k, l, m, h⟩ := Dev.closeSession_eq hs reason
    rw [h, Dev.dropDebug_admHead]
    rfl

theorem Dev.closeSession_same {d : Dev} (h : d.hbm.margin = none) (reason : Nat) :
    (d.closeSession reason).mem = d.mem ∧ (d.closeSession reason).out = d.out := by
  cases hs : d.sec.session with
  | none => rw [Dev.closeSession_of_none hs]; exact ⟨rfl, rfl⟩
  | some x =>
    obtain ⟨q, n, k, l, m, hclose⟩ := Dev.closeSession_eq hs reason
    rw [hclose]
    exact Dev.dropDebug_same (by exact h) 0

/-- With the session goes a margining sweep that it granted (R390). -/
theorem Dev.closeSession_margin {d : Dev} (h : d.sec.session ≠ none) (reason : Nat) : (d.closeSession reason).hbm.margin = none := by
  obtain ⟨x, hs⟩ := Option.ne_none_iff_exists'.1 h
  obtain ⟨q, n, k, l, m, hclose⟩ := Dev.closeSession_eq hs reason
  obtain ⟨cs, es, sc, k', hdrop⟩ := Dev.dropDebug_only ((d.modHost (fun h => { h with evtQ := q, evtDrop := n, evtLost := k })).modSec
        (fun s => { s with log := l, mrs := m, session := none })) 0
  rw [hclose, hdrop]
  exact Dev.stopMargin_margin _

/-! ### The session that a DEBUG token opens (R555, R556) -/

/-- The session of a token's body (Table 18.3). -/
def tokenSession (s : Sec) (body : List Byte) : Session :=
  { priv := BitVec.ofNat 64 (fld (ofLe body) 448 64), life := fld (ofLe body) 32 32, vendor := s.life = .returned }

/-- A field as wide as the word that takes it. -/
theorem ofNat_fld_eq (n lo w : Nat) : BitVec.ofNat w (fld n lo w) = BitVec.ofNat w (n / 2 ^ lo) :=
  BitVec.eq_of_toNat_eq (by simp only [BitVec.toNat_ofNat, fld, Nat.mod_mod])

theorem tokenSession_priv (s : Sec) (body : List Byte) : (tokenSession s body).priv = BitVec.ofNat 64 (ofLe body / 2 ^ 448) :=
  ofNat_fld_eq _ 448 64

/-- A token replaces the rights of the session before it, and then opens its own. -/
theorem Dev.openSession_eq (d : Dev) (body : List Byte) :
    ∃ (e : Dev) (hub : _) (mods : _) (l : _) (m : _), d.openSession body =
        ((e.modSec (fun s => { s with session := some (tokenSession s body) })).raise
          (secEvt 0 (tokenSession d.sec body).priv.toNat (fld (ofLe body) 32 32))) ∧
      e.sec = { d.sec with hubHalted := hub, mods := mods, log := l, mrs := m } ∧ e.host.admHead = d.host.admHead ∧
      (d.hbm.margin = none → e.mem = d.mem) := by
  unfold Dev.openSession
  extract_lets n priv life d1 d2 d3
  have h1 : ∃ hub mods l m, d1.sec = { d.sec with hubHalted := hub, mods := mods, log := l, mrs := m } ∧
      d1.host.admHead = d.host.admHead ∧ (d.hbm.margin = none → d1.mem = d.mem) := by
    simp only [d1]
    split
    · obtain ⟨q, n, k, hraise⟩ := d.raise_eq (secEvt 1 2 0)
      obtain ⟨l, m, hmeas⟩ := (d.raise (secEvt 1 2 0)).measure_eq 3 5 (Config.shake512 (numBytes 8 2))
      rw [hmeas, hraise]
      obtain ⟨hub, mods, hsec⟩ := Dev.dropDebug_sec ((d.modHost (fun h => { h with evtQ := q, evtDrop := n, evtLost := k })).modSec
        (fun s => { s with log := l, mrs := m })) priv
      exact ⟨hub, mods, l, m, hsec, Dev.dropDebug_admHead _ _, fun h => (Dev.dropDebug_same (by exact h) _).1⟩
    · exact ⟨_, _, _, _, rfl, rfl, fun _ => rfl⟩
  clear_value d1
  obtain ⟨hub, mods, l, m, hsec, hhead, hmem⟩ := h1
  obtain ⟨l', m', hmeas⟩ := d1.measure_eq 3 4 (Config.shake512 body)
  refine ⟨d2, hub, mods, l', m', rfl, ?_, ?_, fun h => ?_⟩
  all_goals simp only [d2, hmeas, Dev.modSec_sec, Dev.modSec_host, Dev.modSec_mem]
  · rw [hsec]
  · exact hhead
  · exact hmem h

/-! ### Signed objects (R539 to R545) -/

/-- The package whose nonce has been used. -/
def Dev.spent (d : Dev) : Dev := d.modSec (fun s => { s with nonce := none })

section Submitted
variable {d : Dev} {obj : List Byte} (hlog : d.sec.log.length < 4096)
include hlog

/-- An object that passes every check acts by its KIND. -/
theorem submitObj_ok (hsig : d.sigCheck obj = none) : submitObj d obj = d.spent.applyObj (obj.take 128) := by
  simp only [submitObj, if_neg (show ¬ 4096 ≤ d.sec.log.length by omega), hsig]
  rfl

/-- An object that fails a check past the first is FORBIDDEN, and a SECURITY event names the check. -/
theorem submitObj_forbidden {n : Nat} (hsig : d.sigCheck obj = some n) (hn : n ≠ 1) :
    submitObj d obj = (.forbidden, d.spent.raise (secEvt 2 n (fld (ofLe (obj.take 128)) 16 8))) := by
  simp only [submitObj, if_neg (show ¬ 4096 ≤ d.sec.log.length by omega), hsig]
  rfl

end Submitted

/-- An accepted object that sets one thing in the Rind logs itself, sets it and raises its event. -/
theorem Dev.authSet_eq (d : Dev) (body : List Byte) (f : Sec → Sec) (e : Event) :
    ∃ q n k l m, ((d.authLog body).modSec f).raise e =
      (d.modSec (fun s => f { s with log := l, mrs := m })).modHost (fun h => { h with evtQ := q, evtDrop := n, evtLost := k }) := by
  obtain ⟨l, m, hmeas⟩ := d.measure_eq 2 3 (Config.shake512 body)
  obtain ⟨q, n, k, hraise⟩ := Dev.raise_eq ((d.authLog body).modSec f) e
  exact ⟨q, n, k, l, m, by rw [hraise, Dev.authLog, hmeas]; rfl⟩

section Kinds
variable {d : Dev} {body : List Byte}

theorem Dev.applyObj_debug (hk : fld (ofLe body) 16 8 = 1) : d.applyObj body = (.ok, d.openSession body) := by
  simp only [Dev.applyObj, hk]

theorem Dev.applyObj_fabric (hk : fld (ofLe body) 16 8 = 2) (hout : d.chain.joined = false) :
    d.applyObj body = (.ok, ((d.authLog body).modSec (fun s => { s with fabric := BitVec.ofNat 256 (fld (ofLe body) 512 256) })).raise
      (secEvt 6 3 0)) := by
  simp only [Dev.applyObj, hk, hout, Bool.false_eq_true, if_false]

theorem Dev.applyObj_debugKey (hk : fld (ofLe body) 16 8 = 3) :
    d.applyObj body = (.ok, ((d.authLog body).modSec (fun s => { s with debugHash := BitVec.ofNat 256 (fld (ofLe body) 512 256) })).raise
      (secEvt 6 1 0)) := by
  simp only [Dev.applyObj, hk]

theorem Dev.applyObj_cosign (hk : fld (ofLe body) 16 8 = 4) :
    d.applyObj body = (.ok, ((d.authLog body).modSec
      (fun s => { s with cosignNext := some (BitVec.ofNat 256 (fld (ofLe body) 512 256)) })).raise (secEvt 6 2 0)) := by
  simp only [Dev.applyObj, hk]

theorem Dev.applyObj_svn (hk : fld (ofLe body) 16 8 = 5) (hlo : d.sec.svn ≤ fld (ofLe body) 512 256)
    (hhi : fld (ofLe body) 512 256 ≤ 64) (himg : fld (ofLe body) 512 256 ≤ d.boot.svnImage.toNat) :
    d.applyObj body = (.ok, ((d.authLog body).modSec (fun s => { s with svn := fld (ofLe body) 512 256 })).raise
      (secEvt 5 (fld (ofLe body) 512 256) 0)) := by
  simp only [Dev.applyObj, hk]
  rw [if_neg (by simp; omega)]

theorem Dev.applyObj_return (hk : fld (ofLe body) 16 8 = 6) (hidle : d.coldBusy = false) : d.applyObj body = (.ok, d) := by
  simp only [Dev.applyObj, hk, hidle, Bool.false_eq_true, if_false]

end Kinds

/-- A command that answers `st` and leaves `d'` is reported ADMIN_DONE, and beside the event leaves `d'`. -/
theorem Dev.admin_done {d d' : Dev} {c : AdmCmd} {f : Dev → AdmRes} {st : Status} (hopen : d.adminOpen = true)
    (hf : f d.fetched = ans st d') (hhead : d'.host.admHead = d.host.admHead + 1) :
    ∃ q, d.admin c f = d'.modHost (fun h => { h with evtQ := q }) ∧ AdmDone d (d'.modHost (fun h => { h with evtQ := q })) c st 0 0 := by
  have hadm : d.admin c f = d'.adminDone c.cid d.host.admHead st 0 0 := by
    rw [Dev.fetched] at hf
    simp only [Dev.admin, if_pos hopen, hf, ans]
  rw [hadm, Dev.adminDone_eq]
  exact ⟨_, rfl, hhead, _, List.getLast?_concat, rfl, rfl, rfl, rfl, rfl⟩

section Signed
variable {s : State} {c : AdmCmd} {a : Word} {obj bs : List Byte} (hopen : s.dev.adminOpen = true) (hr : c.rsvd = false)
  (hops : opsAre c [a, 18665]) (ha : a.toNat < 2 ^ 56) (hhold : s.dev.fwHolds a 18665 = none)
  (hread : s.dev.fwRead a 18665 obj = .ok bs)
include hopen hr hops ha hhold hread

/-- An object whose read need not wait is submitted under its row. -/
theorem secAuth_eq {kind : Nat} (hkind : fld (ofLe (bs.take 128)) 16 8 = kind) :
    secAuth s.dev c obj kind =
      if kind = 6 ∧ (submitObj (s.dev.fwTouch a 18665) bs).1 = .ok then
        ((submitObj (s.dev.fwTouch a 18665) bs).2.adminBg c (fun d => (.ok, d.modHost (fun h => { h with admBusy := true })))
          (.secReturn (bs.take 128))).beginReturn
      else (s.dev.fwTouch a 18665).admin c (fun d => ans (submitObj d bs).1 (submitObj d bs).2) := by
  have hz : admOnly c 2 = true := admOnly_length hops hr
  have h0 : lgetD c.ops 0 0 = a := lgetD_ops hops 0
  have h1 : admOp c 1 = 18665 := admOp_eq hops 1
  have haddr : admAddr c 0 = true := by simpa [admAddr, admOp_eq hops, lgetD] using ha
  unfold secAuth Dev.admThen Dev.fwThen
  simp only [hopen, if_true, h0, sigLen, hhold, hread, hkind, hz, h1, haddr]
  simp

/-- An object of a row that does not hold a RETURN is answered at once. -/
theorem exec_secAuth {kind : Nat} {i : Instr} (hi : exec i s = onDev s (fun d => secAuth d c obj kind)) (h6 : kind ≠ 6)
    (hkind : fld (ofLe (bs.take 128)) 16 8 = kind) :
    ∃ t k, exec i s = .next { s with dev := { s.dev with tiers := t, coh := k }.admin c (fun d => ans (submitObj d bs).1 (submitObj d bs).2) } := by
  obtain ⟨t, k, htouch⟩ := s.dev.fwTouch_only a 18665
  refine ⟨t, k, ?_⟩
  rw [hi, onDev_eq, secAuth_eq hopen hr hops ha hhold hread hkind, if_neg (fun h => h6 h.1), htouch]

/-- An object that leaves `x` in the Rind and its events in the queue changes nothing else. -/
theorem exec_secAuth_sec {kind : Nat} {i : Instr} (hi : exec i s = onDev s (fun d => secAuth d c obj kind)) (h6 : kind ≠ 6)
    (hkind : fld (ofLe (bs.take 128)) 16 8 = kind) {st : Status} {P : Sec → Prop}
    (hsub : ∀ d : Dev, d.sec = s.dev.sec → d.chain = s.dev.chain → d.boot = s.dev.boot →
      ∃ x q n k, submitObj d bs = (st, (d.modSec (fun _ => x)).modHost (fun h => { h with evtQ := q, evtDrop := n, evtLost := k })) ∧ P x) :
    ∃ d, exec i s = .next { s with dev := d } ∧ AdmDone s.dev d c st 0 0 ∧ P d.sec ∧
      { d with sec := s.dev.sec, host := s.dev.host, tiers := s.dev.tiers, coh := s.dev.coh } = s.dev := by
  obtain ⟨t, k, hexec⟩ := exec_secAuth hopen hr hops ha hhold hread hi h6 hkind
  obtain ⟨x, q, n, m, hsubmit, hx⟩ := hsub { s.dev with tiers := t, coh := k }.fetched rfl rfl rfl
  obtain ⟨q', hadm, hdone⟩ := Dev.admin_done (c := c) (d := { s.dev with tiers := t, coh := k }) (st := st)
    (f := fun d => ans (submitObj d bs).1 (submitObj d bs).2) hopen (by rw [hsubmit]) rfl
  rw [hadm] at hexec
  refine ⟨_, hexec, hdone, hx, ?_⟩
  simp only [Dev.modSec, Dev.modHost, Dev.fetched]

/-- An object that passes every check and sets one thing in the Rind changes, beside it, the nonce and the log. -/
theorem exec_secAuth_set {kind : Nat} {i : Instr} (hi : exec i s = onDev s (fun d => secAuth d c obj kind)) (h6 : kind ≠ 6)
    (hkind : fld (ofLe (bs.take 128)) 16 8 = kind) (hlog : s.dev.sec.log.length < 4096) (hsig : s.dev.sigCheck bs = none)
    {f : Sec → Sec} {e : Event} (happly : ∀ d : Dev, d.chain = s.dev.chain → d.boot = s.dev.boot → d.sec.svn = s.dev.sec.svn →
      d.applyObj (bs.take 128) = (.ok, ((d.authLog (bs.take 128)).modSec f).raise e)) :
    ∃ d l m, exec i s = .next { s with dev := d } ∧ AdmDone s.dev d c .ok 0 0 ∧
      d.sec = f { s.dev.sec with nonce := none, log := l, mrs := m } ∧
      { d with sec := s.dev.sec, host := s.dev.host, tiers := s.dev.tiers, coh := s.dev.coh } = s.dev := by
  obtain ⟨d, hexec, hdone, ⟨l, m, hsec⟩, hsame⟩ := exec_secAuth_sec hopen hr hops ha hhold hread hi h6 hkind (st := .ok)
    (P := fun x => ∃ l m, x = f { s.dev.sec with nonce := none, log := l, mrs := m }) (fun d hsec hchain hboot => by
      obtain ⟨q, n, k, l, m, hset⟩ := d.spent.authSet_eq (bs.take 128) f e
      refine ⟨f { s.dev.sec with nonce := none, log := l, mrs := m }, q, n, k, ?_, l, m, rfl⟩
      rw [submitObj_ok (by rw [hsec]; exact hlog) (by rw [Dev.sigCheck, hsec]; exact hsig),
        happly d.spent hchain hboot (by rw [← hsec]; rfl), hset, ← hsec]
      rfl)
  exact ⟨d, l, m, hexec, hdone, hsec, hsame⟩

/-- A DEBUG token opens its session, with every right but its own gone (R555, R556). -/
theorem exec_debugAuth (hkind : fld (ofLe (bs.take 128)) 16 8 = 1) (hlog : s.dev.sec.log.length < 4096)
    (hsig : s.dev.sigCheck bs = none) :
    ∃ d hub mods l m, exec (.debugAuth c obj) s = .next { s with dev := d } ∧ AdmDone s.dev d c .ok 0 0 ∧
      d.sec = { s.dev.sec with
        nonce := none, hubHalted := hub, mods := mods, log := l, mrs := m, session := some (tokenSession s.dev.sec (bs.take 128)) } ∧
      (s.dev.hbm.margin = none → d.mem = s.dev.mem) := by
  obtain ⟨t, k, hexec⟩ := exec_secAuth hopen hr hops ha hhold hread (i := .debugAuth c obj) rfl (by decide) hkind
  generalize hd : ({ s.dev with tiers := t, coh := k } : Dev) = d0 at hexec
  obtain ⟨e, hub, mods, l, m, hopened, hsec, hhead, hmem⟩ := d0.fetched.spent.openSession_eq (bs.take 128)
  have hsub : submitObj d0.fetched bs = (.ok, d0.fetched.spent.openSession (bs.take 128)) := by
    rw [submitObj_ok (by rw [← hd]; exact hlog) (by rw [← hd]; exact hsig), Dev.applyObj_debug hkind]
  have hlast : (d0.fetched.spent.openSession (bs.take 128)).host.admHead = d0.host.admHead + 1 := by
    rw [hopened, (Dev.raise_rings_admHead _ _).2]
    exact hhead
  obtain ⟨q, hadm, hdone⟩ := Dev.admin_done (c := c) (f := fun d => ans (submitObj d bs).1 (submitObj d bs).2)
    (by rw [← hd]; exact hopen) (by rw [hsub]) hlast
  rw [hadm] at hexec
  refine ⟨_, hub, mods, l, m, hexec, by rw [← hd] at hdone ⊢; exact hdone, ?_, fun h => ?_⟩
  · rw [Dev.modHost_sec, hopened, Dev.raise_sec, Dev.modSec_sec, hsec, ← hd]
    rfl
  · rw [Dev.modHost_mem, hopened, Dev.raise_mem, Dev.modSec_mem, hmem (by rw [← hd]; exact h), ← hd]
    rfl

/-- A RETURN of a package that is not joined is accepted, and the owner's secrets go at once (R537). -/
theorem exec_returnAuth (hkind : fld (ofLe (bs.take 128)) 16 8 = 6) (hlog : s.dev.sec.log.length < 4096)
    (hsig : s.dev.sigCheck bs = none) (hidle : s.dev.coldBusy = false) (hout : s.dev.chain.joined = false) :
    ∃ d, exec (.returnAuth c obj) s = .next { s with dev := d } ∧ AdmTaken s.dev d c (.secReturn (bs.take 128)) ∧
      d.sec.returned = true ∧ d.sec.ownerHash = 0 ∧ d.sec.debugHash = 0 ∧ d.sec.fabric = 0 ∧ d.sec.cave = none ∧
      d.sec.nonce = none ∧ d.mem = s.dev.mem := by
  obtain ⟨t, k, htouch⟩ := s.dev.fwTouch_only a 18665
  have hdev := secAuth_eq hopen hr hops ha hhold hread (kind := 6) hkind
  rw [htouch] at hdev
  generalize hd : ({ s.dev with tiers := t, coh := k } : Dev) = d0 at hdev
  have hsub : submitObj d0 bs = (.ok, d0.spent) := by
    rw [submitObj_ok (by rw [← hd]; exact hlog) (by rw [← hd]; exact hsig), Dev.applyObj_return hkind (by rw [← hd]; exact hidle)]
  rw [hsub, if_pos ⟨rfl, rfl⟩, Dev.adminBg, if_pos (by rw [← hd]; exact hopen), Dev.beginReturn,
    if_neg (by rw [← hd]; exact Bool.eq_false_iff.1 hout), ← hd] at hdev
  refine ⟨_, exec_onDev (f := fun d => secAuth d c obj 6) rfl hdev, ⟨rfl, ?_⟩, ?_⟩
  · simp only [Dev.setReturned, Dev.modSec_host, Dev.modCave_host, Dev.modHost_host, Dev.spent]
    exact tget_tput_self _ _ _
  · simp only [Dev.setReturned, Dev.modSec_sec, Dev.modSec_mem, Dev.modCave_sec, Dev.modCave_mem, Dev.modHost_sec, Dev.modHost_mem,
      Dev.spent, and_self]

end Signed

/-- Settles O42: an accepted object acts on the Rind by its KIND alone, a token on the session and its rights. -/
theorem signedObjectsAct : Obligations.SignedObjectsAct := by
  intro s c a obj bs hopen hr hops ha hhold hread hlog body kind val
  have hval : BitVec.toNat (BitVec.ofNat 256 (fld (ofLe body) 512 256)) = val := by simp [fld, val]
  refine ⟨fun hsig => ⟨?debug, ?fabric, ?debugKey, ?cosign, ?svn, ?ret⟩, ?refused⟩
  case fabric =>
    intro hk hout
    obtain ⟨d, l, m, hexec, hdone, hsec, hsame⟩ := exec_secAuth_set hopen hr hops ha hhold hread (i := .rotateFabric c obj) rfl
      (by decide) hk hlog hsig (f := fun s => { s with fabric := BitVec.ofNat 256 (fld (ofLe body) 512 256) }) (e := secEvt 6 3 0)
      (fun d hchain _ _ => Dev.applyObj_fabric hk (by rw [hchain, hout]))
    exact ⟨d, hexec, hdone, by rw [hsec], by rw [hsec]; exact hval, by rw [hsec], hsame⟩
  case debugKey =>
    intro hk
    obtain ⟨d, l, m, hexec, hdone, hsec, hsame⟩ := exec_secAuth_set hopen hr hops ha hhold hread (i := .debugKey c obj) rfl
      (by decide) hk hlog hsig (f := fun s => { s with debugHash := BitVec.ofNat 256 (fld (ofLe body) 512 256) }) (e := secEvt 6 1 0)
      (fun d _ _ _ => Dev.applyObj_debugKey hk)
    exact ⟨d, hexec, hdone, by rw [hsec], by rw [hsec]; exact hval, by rw [hsec], hsame⟩
  case cosign =>
    intro hk
    obtain ⟨d, l, m, hexec, hdone, hsec, hsame⟩ := exec_secAuth_set hopen hr hops ha hhold hread (i := .cosignKey c obj) rfl
      (by decide) hk hlog hsig (f := fun s => { s with cosignNext := some (BitVec.ofNat 256 (fld (ofLe body) 512 256)) }) (e := secEvt 6 2 0)
      (fun d _ _ _ => Dev.applyObj_cosign hk)
    exact ⟨d, hexec, hdone, by rw [hsec], by rw [hsec]; rfl, by rw [hsec], hsame⟩
  case svn =>
    intro hk hlo hhi himg
    obtain ⟨d, l, m, hexec, hdone, hsec, hsame⟩ := exec_secAuth_set hopen hr hops ha hhold hread (i := .advanceSvn c obj) rfl
      (by decide) hk hlog hsig (f := fun s => { s with svn := fld (ofLe body) 512 256 }) (e := secEvt 5 val 0)
      (fun d _ hboot hsvn => Dev.applyObj_svn hk (by rw [hsvn]; exact hlo) hhi (by rw [hboot]; exact himg))
    exact ⟨d, hexec, hdone, by rw [hsec], by rw [hsec]; rfl, hsame⟩
  case debug =>
    intro hk
    obtain ⟨d, hub, mods, l, m, hexec, hdone, hsec, hmem⟩ := exec_debugAuth hopen hr hops ha hhold hread hk hlog hsig
    exact ⟨d, hexec, hdone, by rw [hsec], ⟨_, by rw [hsec], tokenSession_priv _ _, rfl, rfl⟩, hmem⟩
  case ret =>
    intro hk hidle hout
    exact exec_returnAuth hopen hr hops ha hhold hread hk hlog hsig hidle hout
  case refused =>
    intro n hsig hn hk
    obtain ⟨d, hexec, hdone, hsec, hsame⟩ := exec_secAuth_sec hopen hr hops ha hhold hread (i := .advanceSvn c obj) rfl
      (by decide) hk (st := .forbidden) (P := fun x => x = { s.dev.sec with nonce := none }) (fun d hsec hchain hboot => by
        obtain ⟨q, n', k, hraise⟩ := d.spent.raise_eq (secEvt 2 n (fld (ofLe (bs.take 128)) 16 8))
        refine ⟨_, q, n', k, ?_, rfl⟩
        rw [submitObj_forbidden (by rw [hsec]; exact hlog) (by rw [Dev.sigCheck, hsec]; exact hsig) hn, hraise, ← hsec]
        rfl)
    exact ⟨d, hexec, hdone, hsec, hsame⟩

end Sys2Proof.Machine

/-!
Status, nonces, certificates, attestation and provisioning (R535, R536, R541, R546 to R551, R560).
-/
namespace Sys2Proof.Machine

/-- What a closed session leaves in the Rind: all but the session, the triggers, the halted units and the log. -/
theorem Dev.closeSession_sec (d : Dev) (reason : Nat) :
    ∃ hub mods l m, (d.closeSession reason).sec =
      { d.sec with session := none, hubHalted := hub, mods := mods, log := l, mrs := m } := by
  cases hs : d.sec.session with
  | none =>
    rw [Dev.closeSession_of_none hs]
    exact ⟨d.sec.hubHalted, d.sec.mods, d.sec.log, d.sec.mrs, by rw [← hs]⟩
  | some x =>
    obtain ⟨q, n, k, l, m, hclose⟩ := Dev.closeSession_eq hs reason
    obtain ⟨hub, mods, hsec⟩ := Dev.dropDebug_sec ((d.modHost (fun h => { h with evtQ := q, evtDrop := n, evtLost := k })).modSec
        (fun s => { s with log := l, mrs := m, session := none })) 0
    exact ⟨hub, mods, l, m, by rw [hclose, hsec]; rfl⟩

theorem Dev.goCold_sec (d : Dev) :
    ∃ hub mods l m, d.goCold.sec = { d.sec with session := none, hubHalted := hub, mods := mods, log := l, mrs := m } := by
  obtain ⟨hub, mods, l, m, h⟩ := d.closeSession_sec 3
  refine ⟨hub, mods, l, m, ?_⟩
  rw [← h]
  show (d.closeSession 3).flushEvents.sec = _
  exact Dev.sec_of_aside (Dev.flushEvents_aside _)

section Commands
variable {d : Dev} {c : AdmCmd} {a : Word} (hr : c.rsvd = false) (ha : a.toNat < 2 ^ 56)
include hr ha

theorem secStatus_ok (hops : opsAre c [a]) : secStatus d c = ans .ok (d.fwWrite a (d.report 0)) := by
  have hz : admOnly c 1 = true := admOnly_length hops hr
  simp only [secStatus, admAddr, admOp_eq hops, lgetD_ops hops, lgetD]
  rw [if_neg (by simp [hz]; omega)]

/-- The nonce is the next of the Rind's entropy. -/
theorem secNonce_ok (hops : opsAre c [a]) :
    secNonce d c = ans .ok (({ d with free := d.free + 1 }.modSec (fun s => { s with nonce := some (Config.entropy d.free) })).fwWrite a
      (leBytes 32 (Config.entropy d.free).toNat)) := by
  have hz : admOnly c 1 = true := admOnly_length hops hr
  simp only [secNonce, admAddr, admOp_eq hops, lgetD_ops hops, lgetD]
  rw [if_neg (by simp [hz]; omega)]
  rfl

theorem secCert_ok (hops : opsAre c [a]) : secCert d c = ans .ok (d.fwWrite a Config.certificate) := by
  have hz : admOnly c 1 = true := admOnly_length hops hr
  simp only [secCert, admAddr, admOp_eq hops, lgetD_ops hops, lgetD]
  rw [if_neg (by simp [hz]; omega)]

theorem attestLog_ok {n : Word} (hops : opsAre c [a, n]) :
    attestLog d c = ans .ok (d.fwWrite a ((d.sec.log.take (n.toNat / 80)).flatMap logBytes)) := by
  have hz : admOnly c 2 = true := admOnly_length hops hr
  simp only [attestLog, admAddr, admOp_eq hops, lgetD_ops hops, lgetD]
  rw [if_neg (by simp [hz]; omega)]

end Commands

/-- An attestation uses the next index of the key and changes nothing beside (R549). -/
theorem Dev.attestBytes_only {d d1 : Dev} {n : Nat} {o : List Byte} (h : d.attestBytes n = some (o, d1)) :
    ∃ x, d1 = d.modSec (fun _ => x) := by
  unfold Dev.attestBytes Dev.nextIndex at h
  dsimp only at h
  split at h
  · cases h
  next i e hnext =>
    cases h
    split at hnext
    · split at hnext
      · cases hnext
      · cases hnext
        exact ⟨_, rfl⟩
    · cases hnext
      exact ⟨_, rfl⟩

theorem Dev.attestBytes_modHost (d : Dev) (f : HostIf → HostIf) (n : Nat) :
    (d.modHost f).attestBytes n = (d.attestBytes n).map (fun p => (p.1, p.2.modHost f)) := by
  unfold Dev.attestBytes Dev.nextIndex
  dsimp only [Dev.modHost_sec]
  by_cases hleft : d.sec.blockLeft = 0
  · by_cases hnext : 2 ^ 30 ≤ d.sec.nextBlock
    · simp only [if_pos hleft, if_pos hnext, Option.map_none]
    · simp only [if_pos hleft, if_neg hnext]
      rfl
  · simp only [if_neg hleft]
    rfl

/-- What ATTEST answers once the nonce has been read. -/
theorem attest_ok {d d1 : Dev} {c : AdmCmd} {a b : Word} {nonce bs o : List Byte} (hr : c.rsvd = false) (hops : opsAre c [b, a])
    (ha : a.toNat < 2 ^ 56) (hb : b.toNat < 2 ^ 56) (hread : d.fwRead b 32 nonce = .ok bs)
    (hsign : d.attestBytes (ofLe bs) = some (o, d1)) : attest d c nonce = ans .ok ((d1.fwTouch b 32).fwWrite a o) := by
  have hz : admOnly c 2 = true := admOnly_length hops hr
  simp only [attest, admAddr, admOp_eq hops, lgetD_ops hops, lgetD]
  rw [if_neg (by simp [hz]; omega)]
  simp only [hread, hsign]

/-- A firmware write of a record to any address leaves the head of the admin ring. -/
theorem Dev.fwWrite_admHead (d : Dev) (a : Word) (bs : List Byte) : (d.fwWrite a bs).host.admHead = d.host.admHead :=
  Dev.admHead_of_ledger (Dev.fwWrite_ledger d a bs)

/-- The Rind of a package that has been provisioned with a record (R536). -/
def provisioned (s : Sec) (bs : List Byte) (x : BitVec 256) : Sec :=
  { s with
    ownerHash := BitVec.ofNat 256 (fld (ofLe bs) (256 * 0) 256), debugHash := BitVec.ofNat 256 (fld (ofLe bs) (256 * 1) 256)
    cosignHash := BitVec.ofNat 256 (fld (ofLe bs) (256 * 2) 256), fabric := BitVec.ofNat 256 (fld (ofLe bs) (256 * 3) 256)
    owned := true, cave := some x }

theorem Dev.provision_eq (d : Dev) (bs : List Byte) :
    ∃ q n k l m, d.provision bs = ({ d with free := d.free + 1 }.modSec
      (fun s => { provisioned s bs (Config.entropy d.free) with log := l, mrs := m })).modHost
        (fun h => { h with evtQ := q, evtDrop := n, evtLost := k }) := by
  have h := Dev.authSet_eq ({ d with free := d.free + 1 }.modSec (fun s => provisioned s bs (Config.entropy d.free)))
    (bs.take 96 ++ List.replicate 32 0) id (secEvt 4 1 0)
  exact h

section Executed
variable {s : State} {c : AdmCmd} {a : Word} (hopen : s.dev.adminOpen = true) (hr : c.rsvd = false) (ha : a.toNat < 2 ^ 56)
include hopen hr ha

/-- ATTEST of a nonce whose read need not wait: the report leaves for its buffer, and one index of the key is used. -/
theorem exec_attest {b : Word} {nonce bs o : List Byte} {d1 : Dev} (hops : opsAre c [b, a]) (hb : b.toNat < 2 ^ 56)
    (hhold : s.dev.fwHolds b 32 = none) (hread : s.dev.fwRead b 32 nonce = .ok bs)
    (hsign : s.dev.attestBytes (ofLe bs) = some (o, d1)) :
    ∃ t k q, exec (.attest c nonce) s =
        .next { s with dev := ({ s.dev.fetched with sec := d1.sec, tiers := t, coh := k }.fwWrite a o).modHost (fun h => { h with evtQ := q }) } ∧
      AdmDone s.dev (({ s.dev.fetched with sec := d1.sec, tiers := t, coh := k }.fwWrite a o).modHost (fun h => { h with evtQ := q })) c .ok 0 0 := by
  obtain ⟨x, rfl⟩ := Dev.attestBytes_only hsign
  have hsign' : s.dev.fetched.attestBytes (ofLe bs) = some (o, (s.dev.modSec (fun _ => x)).fetched) := by
    rw [Dev.fetched, Dev.attestBytes_modHost, hsign]
    rfl
  obtain ⟨t, k, htouch⟩ := Dev.fwTouch_only (s.dev.modSec (fun _ => x)).fetched b 32
  have hans := attest_ok (d := s.dev.fetched) hr hops ha hb (by rw [Dev.fwRead_fetched, hread]) hsign'
  rw [htouch] at hans
  have h0 : lgetD c.ops 0 0 = b := lgetD_ops hops 0
  have hi : exec (.attest c nonce) s = onDev s (fun d => d.admin c (fun d => attest d c nonce)) := by
    change execAttest c nonce s = _
    simp only [execAttest, onDev_eq, Dev.admThen, Dev.fwThen, hopen, if_true, h0, hhold]
  obtain ⟨q, hexec, hdone⟩ := exec_admin hopen hi hans (by rw [Dev.fwWrite_admHead]; rfl)
  exact ⟨t, k, q, hexec, hdone⟩

/-- SEC_PROVISION of a BLANK idle package: it is OWNED under the record's hashes, and Cold (R535, R536). -/
theorem exec_secProvision {rec bs : List Byte} (hops : opsAre c [a]) (hhold : s.dev.fwHolds a 128 = none)
    (hread : s.dev.fwRead a 128 rec = .ok bs) (hidle : s.dev.coldBusy = false) (hblank : s.dev.sec.life = .blank)
    (hlog : s.dev.sec.log.length < 4096) (hkey : ofLe bs % 2 ^ 256 ≠ 0) (hout : s.dev.chain.joined = false) :
    ∃ d, exec (.secProvision c rec) s = .next { s with dev := d } ∧ d.sec.owned = true ∧
      d.sec.ownerHash = BitVec.ofNat 256 (ofLe bs) ∧ d.sec.debugHash = BitVec.ofNat 256 (ofLe bs / 2 ^ 256) ∧
      d.sec.cosignHash = BitVec.ofNat 256 (ofLe bs / 2 ^ 512) ∧ d.sec.fabric = BitVec.ofNat 256 (ofLe bs / 2 ^ 768) ∧
      d.power.pstate = .cold ∧ d.mem = [] := by
  have hz : admOnly c 1 = true := admOnly_length hops hr
  have h0 : lgetD c.ops 0 0 = a := lgetD_ops hops 0
  have haddr : admAddr c 0 = true := by simpa [admAddr, admOp_eq hops, lgetD] using ha
  obtain ⟨q, n, k, l, m, hprov⟩ := s.dev.fetched.provision_eq bs
  obtain ⟨q', hadm, hdone⟩ := Dev.admin_done (c := c) (f := fun d => ans .ok (d.provision bs)) hopen rfl (by rw [hprov]; rfl)
  have hdev : s.dev.admThen c 128 (fun d => secProvision d c rec) =
      (s.dev.admin c (fun d => ans .ok (d.provision bs))).goCold := by
    simp only [Dev.admThen, Dev.fwThen, hopen, if_true, h0, hhold]
    unfold secProvision
    simp only [h0, hread, hz, haddr, hidle, hblank, hopen]
    have hkey' : ¬ fld (ofLe bs) 0 256 = 0 := by simpa [fld] using hkey
    simp only [Bool.not_true, Bool.or_self, Bool.false_eq_true, if_false, if_true, ne_eq, not_true_eq_false,
      decide_false, Bool.false_or, decide_eq_true_eq, if_neg (show ¬ 4096 ≤ s.dev.sec.log.length by omega), hkey']
    rw [if_neg (by rw [hadm, hprov]; exact Bool.eq_false_iff.1 hout)]
  rw [hadm] at hdev
  obtain ⟨hub, mods, l', m', hcold⟩ := Dev.goCold_sec ((s.dev.fetched.provision bs).modHost (fun h => { h with evtQ := q' }))
  refine ⟨_, exec_onDev (f := fun d => d.admThen c 128 (fun d => secProvision d c rec)) rfl hdev, ?_, ?_, ?_, ?_, ?_,
    Dev.goCold_pstate _, Dev.goCold_mem _⟩
  all_goals rw [hcold, Dev.modHost_sec, hprov]
  · rfl
  · exact (ofNat_fld_eq _ 0 256).trans (by rw [pow_zero, Nat.div_one])
  · exact ofNat_fld_eq _ _ 256
  · exact ofNat_fld_eq _ _ 256
  · exact ofNat_fld_eq _ _ 256

omit ha in
/-- A record for a host buffer leaves at once; SEC_NONCE draws its nonce first. -/
theorem exec_secNonce {ha : Nat} (hlt : a.toNat < 2 ^ 56) (hops : opsAre c [a]) (ht : s.dev.target true a.toNat = .host ha) :
    ∃ d x, exec (.secNonce c) s = .next { s with dev := d } ∧ AdmDone s.dev d c .ok 0 0 ∧ d.sec.nonce = some x ∧
      d.out = s.dev.out ++ [.hostWrite ha (leBytes 32 x.toNat) none] ∧ d.mem = s.dev.mem := by
  have hans := secNonce_ok (d := s.dev.fetched) hr hlt hops
  rw [Dev.fwWrite_host (by exact ht)] at hans
  obtain ⟨q, hexec, hdone⟩ := exec_admin (i := .secNonce c) hopen rfl hans rfl
  exact ⟨_, _, hexec, hdone, rfl, rfl, rfl⟩

end Executed

theorem exec_secClose {s : State} {c : AdmCmd} (hopen : s.dev.adminOpen = true) (hr : c.rsvd = false) (hops : opsAre c []) :
    ∃ d, exec (.secClose c) s = .next { s with dev := d } ∧ AdmDone s.dev d c .ok 0 0 ∧ d.sec.session = none ∧
      (s.dev.hbm.margin = none → d.mem = s.dev.mem) := by
  have hz : admOnly c 0 = true := admOnly_length hops hr
  obtain ⟨q, hexec, hdone⟩ := exec_admin (i := .secClose c) hopen rfl (st := .ok) (d' := s.dev.fetched.closeSession 0)
    (by rw [hz]; rfl) (by rw [Dev.closeSession_admHead]; rfl)
  refine ⟨_, hexec, hdone, Dev.closeSession_session _ _, fun h => ?_⟩
  rw [Dev.modHost_mem, (Dev.closeSession_same (by exact h) 0).1]
  rfl

/-- Settles O43: each command's record leaves for its buffer, and what it changes in the Rind is its own. That ATTEST_LOG writes
whole entries alone is the model's reading (log 147). -/
theorem securityCommandsComplete : Obligations.SecurityCommandsComplete := by
  intro s
  refine ⟨fun c a ha hopen hr hlt ht => ⟨fun hops => ⟨?status, ?nonce, ?cert⟩, fun n hops => ?log, ?attest⟩, ?close, ?expiry,
    ?session, fun hup => ⟨?doeAttest, ?doeLog, ?doeCert⟩, ?provision⟩
  case status => exact exec_admin_record (i := .secStatus c) hopen rfl ht (secStatus_ok (d := s.dev.fetched) hr hlt hops)
  case nonce => exact exec_secNonce hopen hr hlt hops ht
  case cert => exact exec_admin_record (i := .secCert c) hopen rfl ht (secCert_ok (d := s.dev.fetched) hr hlt hops)
  case log => exact exec_admin_record (i := .attestLog c) hopen rfl ht (attestLog_ok (d := s.dev.fetched) hr hlt hops)
  case attest =>
    intro b nonce bs o d1 hops hb hhold hread hsign
    obtain ⟨t, k, q, hexec, hdone⟩ := exec_attest hopen hr hlt hops hb hhold hread hsign
    rw [Dev.fwWrite_host (by exact ht)] at hexec hdone
    exact ⟨_, hexec, hdone, rfl, rfl, rfl⟩
  case close => exact fun c hopen hr hops => exec_secClose hopen hr hops
  case expiry => exact ⟨_, rfl, rfl, rfl⟩
  case session =>
    refine ⟨s.dev.closeSession 1, rfl, Dev.closeSession_session _ _, fun h => (Dev.closeSession_same h 1).1,
      fun h => Dev.closeSession_margin h 1, fun h => Dev.closeSession_of_none h 1⟩
  case doeAttest =>
    intro nonce o d1 hsign
    obtain ⟨x, rfl⟩ := Dev.attestBytes_only hsign
    refine ⟨(s.dev.modSec (fun _ => x)).emit (.doe o), ?_, rfl, rfl, rfl⟩
    change execDoeAttest nonce s = _
    simp only [execDoeAttest, onDev_eq, hup, hsign, Bool.not_true, Bool.false_eq_true, if_false]
  case doeLog => exact ⟨_, exec_onDev rfl (if_pos hup), rfl, rfl⟩
  case doeCert => exact ⟨_, exec_onDev rfl (if_pos hup), rfl, rfl⟩
  case provision =>
    intro c a rec bs hopen hr hops hlt hhold hread hidle hblank hlog hkey hout
    exact exec_secProvision hopen hr hlt hops hhold hread hidle hblank hlog hkey hout

end Sys2Proof.Machine

/-!
What no write, message, wake or record changes in the application cores: all but their reservations, their interrupt files and
the lost store that they have yet to report. One rule for each operation, in the order of the model.
-/
namespace Sys2Proof.Machine

/-- A core without its reservation, its interrupt file and its lost store. -/
def Core.still (c : Core) : Core := { c with resv := none, resvHold := none, imsic := [], imp := false, impAddr := 0 }

/-- The application cores, but for what another agent's operation may change in them. -/
def Dev.harts (d : Dev) : Fin 64 → Core := fun h => (d.core h).still

@[simp] theorem Dev.ite_harts {c : Prop} [Decidable c] (d e : Dev) :
    (if c then d else e).harts = if c then d.harts else e.harts := apply_ite Dev.harts c d e

@[simp] theorem Dev.setWrites_harts (d : Dev) (l : List OutW) : ({ d with writes := l } : Dev).harts = d.harts := rfl

/-! ### The operations that every family shares -/

@[simp] theorem foldDev_harts {α : Type} {f : Dev → α → Dev} (hf : ∀ d x, (f d x).harts = d.harts) (d : Dev)
    (l : List α) : (foldDev d l f).harts = d.harts :=
  foldDev_keeps (fun e => e.harts = d.harts) (fun e x h => (hf e x).trans h) l rfl

@[simp] theorem Dev.modHost_harts (d : Dev) (f) : (d.modHost f).harts = d.harts := rfl

@[simp] theorem Dev.modTiers_harts (d : Dev) (f) : (d.modTiers f).harts = d.harts := rfl

@[simp] theorem Dev.modAnvil_harts (d : Dev) (f) : (d.modAnvil f).harts = d.harts := rfl

@[simp] theorem Dev.modRennet_harts (d : Dev) (f) : (d.modRennet f).harts = d.harts := rfl

@[simp] theorem Dev.modCoh_harts (d : Dev) (f) : (d.modCoh f).harts = d.harts := rfl

@[simp] theorem Dev.modChain_harts (d : Dev) (f) : (d.modChain f).harts = d.harts := rfl

@[simp] theorem Dev.modPort_harts (d : Dev) (p f) : (d.modPort p f).harts = d.harts := rfl

@[simp] theorem Dev.emit_harts (d : Dev) (o) : (d.emit o).harts = d.harts := rfl

@[simp] theorem Dev.modEng_harts (d : Dev) (e f) : (d.modEng e f).harts = d.harts := rfl

/-- A core changed in what does not count here. -/
theorem Dev.modCore_harts (d : Dev) (h : Fin 64) {f : Core → Core} (hf : (f (d.core h)).still = (d.core h).still) :
    (d.modCore h f).harts = d.harts := by
  funext g
  by_cases hg : g = h
  · subst hg
    rw [Dev.harts, Dev.harts, Dev.core_modCore_self, hf]
  · rw [Dev.harts, Dev.harts, Dev.core_modCore_ne _ _ hg]

@[simp] theorem Dev.modStep_harts (d : Dev) (n f) : (d.modStep n f).harts = d.harts := rfl

@[simp] theorem Dev.wr_harts (d : Dev) (off bs) : (d.wr off bs).harts = d.harts := rfl

@[simp] theorem Dev.setPoison_harts (d : Dev) (line) : (d.setPoison line).harts = d.harts := by
  unfold Dev.setPoison
  split <;> rfl

@[simp] theorem Dev.clrPoison_harts (d : Dev) (line) : (d.clrPoison line).harts = d.harts := rfl

@[simp] theorem Dev.heatUp_harts (d : Dev) (off) : (d.heatUp off).harts = d.harts := rfl

@[simp] theorem Dev.fixPsn_harts (d : Dev) (f) : (d.fixPsn f).harts = d.harts := rfl

@[simp] theorem Dev.markDirty_harts (d : Dev) (off) : (d.markDirty off).harts = d.harts := rfl

@[simp] theorem Dev.loseResv_harts (d : Dev) (off who sub) : (d.loseResv off who sub).harts = d.harts := rfl

@[simp] theorem Dev.raise_harts (d : Dev) (e) : (d.raise e).harts = d.harts := by
  unfold Dev.raise
  exact Dev.modHost_harts d _

@[simp] theorem Dev.signal_harts (d : Dev) (b) : (d.signal b).harts = d.harts := by
  unfold Dev.signal
  dsimp only
  split
  · simp
  · split
    · rfl
    · exact Dev.modCore_harts d _ rfl

@[simp] theorem Dev.queueRec_harts (d : Dev) (c r) : (d.queueRec c r).harts = d.harts := rfl

@[simp] theorem Dev.dataRec_harts (d : Dev) (kind off gran source die) :
    (d.dataRec kind off gran source die).harts = d.harts :=
  foldDev_harts (fun e c => e.queueRec_harts c _) d _

@[simp] theorem Dev.loseLine_harts (d : Dev) (off source die) :
    (d.loseLine off source die).harts = d.harts := by simp [Dev.loseLine]

@[simp] theorem Dev.lostStore_harts (d : Dev) (src ctx step node addr len red sg) :
    (d.lostStore src ctx step node addr len red sg).harts = d.harts := by
  unfold Dev.lostStore
  (repeat' split) <;> simp

@[simp] theorem Dev.cancelFar_harts (d : Dev) (e) : (d.cancelFar e).harts = d.harts := rfl

@[simp] theorem Dev.abandon_harts (d : Dev) (e) : (d.abandon e).harts = d.harts := by simp [Dev.abandon]

@[simp] theorem Dev.dropUser_harts (d : Dev) (u) : (d.dropUser u).harts = d.harts := rfl

@[simp] theorem Dev.stopEng_harts (d : Dev) (e) : (d.stopEng e).harts = d.harts := by simp [Dev.stopEng]

@[simp] theorem Dev.stallEnds_harts (d : Dev) (c) : (d.stallEnds c).harts = d.harts := rfl

@[simp] theorem Dev.stopAll_harts (d : Dev) (n es) : (d.stopAll n es).harts = d.harts := by simp [Dev.stopAll]

@[simp] theorem Dev.endStep_harts (d : Dev) (n o) : (d.endStep n o).harts = d.harts := by
  unfold Dev.endStep
  split <;> simp

@[simp] theorem Dev.failStep_harts (d : Dev) (n st detail addr) :
    (d.failStep n st detail addr).harts = d.harts := by simp [Dev.failStep]

@[simp] theorem Dev.failEng_harts (d : Dev) (e st detail addr) : (d.failEng e st detail addr).harts = d.harts := by
  unfold Dev.failEng
  split <;> simp

/-! ### Writes, reads and messages on their way -/

@[simp] theorem Dev.rekeyDue_harts (d : Dev) (pn) : (d.rekeyDue pn).harts = d.harts := by
  unfold Dev.rekeyDue
  dsimp only
  split <;> rfl

@[simp] theorem Dev.frameOut_harts (d : Dev) (pn k) : (d.frameOut pn k).harts = d.harts := by simp [Dev.frameOut]

@[simp] theorem Dev.portSend_harts (d : Dev) (pn k) : (d.portSend pn k).harts = d.harts := by simp [Dev.portSend]

theorem Dev.trySend_harts {d e : Dev} {dst : Nat} {k : ChainPkt} (h : d.trySend dst k = some e) : e.harts = d.harts := by
  unfold Dev.trySend at h
  grind [Dev.portSend_harts, Dev.modChain_harts, Chain.place]

@[simp] theorem flushList_harts (d : Dev) (l keep) : (flushList d l keep).harts = d.harts := by
  induction l generalizing d keep with
  | nil => simp [flushList]
  | cons p t ih =>
    unfold flushList
    split
    · exact ih d _
    · split
      next e he => rw [ih, Dev.trySend_harts he]
      · exact ih d _

@[simp] theorem transitList_harts (d : Dev) (l keep) : (transitList d l keep).harts = d.harts := by
  induction l generalizing d keep with
  | nil => simp [transitList]
  | cons p t ih =>
    unfold transitList
    dsimp only
    (repeat' split) <;> simp [ih, Dev.owe]

@[simp] theorem Dev.flushSend_harts (d : Dev) : d.flushSend.harts = d.harts := by simp [Dev.flushSend]

@[simp] theorem Dev.chainSend_harts (d : Dev) (dst cls src ctx pd tag len body slice) :
    (d.chainSend dst cls src ctx pd tag len body slice).harts = d.harts := by simp [Dev.chainSend]

@[simp] theorem Dev.newTag_harts (d : Dev) : d.newTag.2.harts = d.harts := rfl

@[simp] theorem Dev.vatPut_harts (d : Dev) (v bs but) : (d.vatPut v bs but).harts = d.harts := rfl

@[simp] theorem Dev.send_harts (d : Dev) (m) : (d.send m).harts = d.harts := rfl

@[simp] theorem Dev.launch_harts (d : Dev) (w t) : (d.launch w t).harts = d.harts := by
  unfold Dev.launch
  dsimp only
  split
  · rw [Dev.setWrites_harts, Dev.send_harts]
  · simp
  · simp
  · split
    · simp
    · rw [Dev.ite_harts, Dev.setWrites_harts, Dev.send_harts, Dev.chainSend_harts, Dev.setWrites_harts d.newTag.2,
        Dev.newTag_harts, ite_self]
  · rfl

@[simp] theorem Dev.issueWrite_harts (d : Dev) (src addr bs red rq) : (d.issueWrite src addr bs red rq).harts = d.harts := by
  unfold Dev.issueWrite
  dsimp only
  split
  · rfl
  · exact Dev.launch_harts d _ _

@[simp] theorem Dev.issueWrites_harts (d : Dev) (src addr bs red u rq) :
    (d.issueWrites src addr bs red u rq).harts = d.harts := by simp [Dev.issueWrites]

@[simp] theorem Dev.rennetSend_harts (d : Dev) (n src step m) : (d.rennetSend n src step m).harts = d.harts := by
  unfold Dev.rennetSend
  dsimp only
  split
  · rfl
  · split
    · split
      · rw [Dev.chainSend_harts, Dev.setWrites_harts, Dev.newTag_harts]
      · simp
    · split <;> simp
    · split <;> simp
    · rfl

@[simp] theorem Dev.setRun_harts (d : Dev) (e r) : (d.setRun e r).harts = d.harts := rfl

@[simp] theorem Dev.sendAtomic_harts (d : Dev) (e addr op) : (d.sendAtomic e addr op).harts = d.harts := by
  unfold Dev.sendAtomic
  split <;> simp

@[simp] theorem Dev.vatAmo_harts (d : Dev) (v op w b) : (d.vatAmo v op w b).2.harts = d.harts := rfl

@[simp] theorem Dev.runCont_harts (d : Dev) (e k) : (d.runCont e k).harts = d.harts := by
  unfold Dev.runCont
  (repeat' split) <;> simp

@[simp] theorem Dev.settleEng_harts (d : Dev) (e) : (d.settleEng e).harts = d.harts := by
  unfold Dev.settleEng
  dsimp only
  cases (d.eng e).run with
  | release sc k => simp
  | await t =>
    cases (d.eng e).step with
    | none => rfl
    | some n => simp
  | twait t => simp
  | vfence => simp
  | _ => rfl

@[simp] theorem Dev.flushIrqs_harts (d : Dev) : d.flushIrqs.harts = d.harts := by
  unfold Dev.flushIrqs
  split
  · rfl
  · rw [foldDev_harts Dev.signal_harts]
    rfl

@[simp] theorem Dev.settle_harts (d : Dev) : d.settle.harts = d.harts := by
  unfold Dev.settle
  dsimp only
  rw [Dev.modAnvil_harts, foldDev_harts Dev.settleEng_harts, Dev.flushIrqs_harts]

end Sys2Proof.Machine

/-!
The TAP, the mailbox, the debug modules and the system bus (R552 to R559).
-/
namespace Sys2Proof.Machine

/-! ### A debug module's registers -/

theorem lgetD_lset_self {α : Type} {l : List α} {i : Nat} (h : i < l.length) (x z : α) : lgetD (lset l i x) i z = x := by
  induction l generalizing i with
  | nil => cases h
  | cons a l ih => cases i with
    | zero => rfl
    | succ i => exact ih (Nat.lt_of_succ_lt_succ h)

theorem dieIdx_lt (die : Die) : dieIdx die < 3 := by cases die <;> decide

theorem Dev.dbgMod_modMod_self {d : Dev} (hlen : d.sec.mods.length = 3) (die : Die) (f : DbgMod → DbgMod) :
    (d.modMod die f).dbgMod die = f (d.dbgMod die) :=
  lgetD_lset_self (by rw [hlen]; exact dieIdx_lt die) _ _

/-- The low half of a data register is replaced, and the high half stays. -/
theorem putHalf_low (w : Word) (v : BitVec 32) :
    (putHalf w false v.toNat).toNat % 2 ^ 32 = v.toNat ∧ (putHalf w false v.toNat).toNat / 2 ^ 32 = w.toNat / 2 ^ 32 := by
  have hw := w.isLt
  have hv := v.isLt
  have h : (putHalf w false v.toNat).toNat = w.toNat / 2 ^ 32 * 2 ^ 32 + v.toNat := by
    simp only [putHalf, Bool.false_eq_true, if_false, BitVec.toNat_ofNat]
    omega
  omega

theorem Dev.dbgMod_emit (d : Dev) (m : OutMsg) (die : Die) : (d.emit m).dbgMod die = d.dbgMod die := rfl

section Dmi
variable {d : Dev} {die : Die} {v : Nat} (hup : d.debugUp = true)
include hup

/-- DMI register 4 is the low half of the data register. -/
theorem dmi_write_data : dmi d die 4 true v =
    ((d.tap 0x11).modMod die (fun m => { m with data := putHalf m.data false v })).emit (.jtag 0) := by
  rw [dmi, show (d.tap 0x11).debugUp = true from hup]
  rfl

theorem dmi_read_data : dmi d die 4 false v = (d.tap 0x11).emit (.jtag ((d.dbgMod die).data.toNat % 2 ^ 32)) := by
  have hfld : fld ((d.tap 0x11).dbgMod die).data.toNat 0 32 = (d.dbgMod die).data.toNat % 2 ^ 32 := by
    rw [fld, pow_zero, Nat.div_one]
    rfl
  rw [← hfld, dmi, show (d.tap 0x11).debugUp = true from hup]
  rfl

end Dmi

/-! ### Harts under debug (R553, R556 to R558) -/

section Harts
variable {d : Dev} {h : Fin 64} (hreach : d.dbgReach (.core h) = (.open_, d))
include hreach

theorem hartHalt_core : hartHalt d (.core h) = d.modCore h (fun c => { c with halted := true, stepping := false }) := by
  simp only [hartHalt, hreach, Dev.dbgAway, Dev.setHalted, Bool.false_eq_true, if_false]

theorem hartResume_core (hhalt : (d.core h).halted = true) (die : Die) :
    hartResume d die (.core h) =
      ((d.modCore h (fun c => { c with halted := false, stepping := false })).modMod die (fun m => { m with resumeAck := true })).settle := by
  simp only [hartResume, hreach, Dev.dbgHalted, hhalt, if_true, Dev.setHalted]

theorem singleStep_core (hhalt : (d.core h).halted = true) (die : Die) :
    singleStep d die (.core h) =
      (d.modMod die (fun m => { m with resumeAck := true })).modCore h (fun c => { c with halted := false, stepping := true }) := by
  simp only [singleStep, hreach, Dev.dbgHalted, hhalt, Bool.not_true, Bool.false_eq_true, if_false]

/-- A general register of a halted hart is read into the data register (R553). -/
theorem abstractCmd_gpr (hhalt : (d.core h).halted = true) (die : Die) (hok : (d.dbgMod die).cmderr = 0) (r : Fin 32) :
    abstractCmd d die (.core h) (.readReg (BitVec.ofNat 16 (0x1000 + r.val))) =
      d.modMod die (fun m => { m with data := (d.core h).rx r }) := by
  have hr := r.isLt
  have hnum : (BitVec.ofNat 16 (0x1000 + r.val)).toNat = 0x1000 + r.val := by simp; omega
  have hcsr : ¬ BitVec.ofNat 16 (0x1000 + r.val) = 0x015 := fun h => by
    have := congrArg BitVec.toNat h
    rw [hnum] at this
    simp at this
    omega
  have hreg : d.coreReg h (0x1000 + r.val) = some ((d.core h).rx r) := by
    have hidx : Fin.ofNat 32 (0x1000 + r.val - 0x1000) = r := Fin.ext (by simp)
    unfold Dev.coreReg
    dsimp only
    rw [if_pos (by simp; omega), hidx]
  simp only [abstractCmd, hreach, Dev.dbgAway, Dev.dbgHalted, hhalt, hok, abstractOn, hnum, hreg, if_neg hcsr]
  simp

end Harts

/-- A resumed hart keeps its registers, whatever it lets go on. -/
theorem Dev.core_settle_modMod (d : Dev) (die : Die) (f : DbgMod → DbgMod) (h : Fin 64) :
    (((d.modMod die f).settle).core h).still = (d.core h).still :=
  congrFun (Dev.settle_harts (d.modMod die f)) h

/-! ### The system bus (R554, R559) -/

/-- A Vat is found at its address whether or not the access leaves by the host's leaf. -/
theorem Dev.target_vat_leaf {d : Dev} {a off : Nat} (h : d.target false a = .vat off) : d.target true a = .vat off := by
  unfold Dev.target at h ⊢
  dsimp only at h ⊢
  split at h
  · rwa [if_pos (by assumption)]
  · split at h
    · cases h
    · simp at h

theorem Dev.busWay_vat {d : Dev} {a : Word} {off : Nat} (ht : d.target false a.toNat = .vat off) (w : Bool) :
    d.busWay w a = some (2, pdVat (vatHalf off)) := by
  simp only [Dev.busWay, ht]

section Bus
variable {d : Dev} {die : Die} {a v : Word} {off : Nat} (hup : d.debugUp = true) (hses : d.sec.session.isSome = true)
  (hal : a.toNat % 8 = 0) (ht : d.target false a.toNat = .vat off) (hask : d.dbgAsk 2 (pdVat (vatHalf off)) = (.open_, d))
include hup hses hal ht hask

theorem busAccess_read_vat : busAccess d die a false v =
    d.modMod die (fun m => { m with sbaddr := a, sbdata := BitVec.ofNat 64 (ofLe (d.rd off 8)) }) := by
  have hsome : d.sec.session.isNone = false := by simpa using hses
  simp only [busAccess, hup, hsome, hal, Dev.busWay_vat ht, hask, Dev.fwThen, Dev.fwHolds, Dev.target_vat_leaf ht, Dev.busRead, ht]
  simp

theorem busAccess_write_vat : busAccess d die a true v =
    (d.vatPut (off - vatBase) (leBytes 8 v.toNat) none).modMod die (fun m => { m with sbaddr := a, sbdata := v }) := by
  have hsome : d.sec.session.isNone = false := by simpa using hses
  simp only [busAccess, hup, hsome, hal, Dev.busWay_vat ht, hask, Dev.busWrite, ht]
  simp

end Bus

/-! ### The TAP (Table 18.8) -/

/-- With supply, the TAP acts. -/
theorem exec_onTap {s : State} {i : Instr} {f : Dev → Dev} (hvin : s.dev.power.vinOk = true)
    (hi : exec i s = onDev s (fun d => d.onTap f)) : exec i s = .next { s with dev := f s.dev } :=
  exec_onDev hi (if_pos hvin)

section Debug
variable {s : State}

theorem exec_dmi_write (hvin : s.dev.power.vinOk = true) {die : Die} (hup : s.dev.debugUp = true) (v : BitVec 32) :
    exec (.dmi die 4 true v) s = .next { s with dev :=
      ((s.dev.tap 0x11).modMod die (fun m => { m with data := putHalf m.data false v.toNat })).emit (.jtag 0) } := by
  have hrun := exec_onTap (i := .dmi die 4 true v) (f := fun d => dmi d die 4 true v.toNat) hvin rfl
  rwa [dmi_write_data hup] at hrun

theorem exec_dmi_read (hvin : s.dev.power.vinOk = true) {die : Die} (hup : s.dev.debugUp = true) (v : BitVec 32) :
    exec (.dmi die 4 false v) s =
      .next { s with dev := (s.dev.tap 0x11).emit (.jtag ((s.dev.dbgMod die).data.toNat % 2 ^ 32)) } := by
  have hrun := exec_onTap (i := .dmi die 4 false v) (f := fun d => dmi d die 4 false v.toNat) hvin rfl
  rwa [dmi_read_data hup] at hrun

section Harts
variable {t : DbgHart} {h : Fin 64} (ht : dbgTarget t.die t.hartsel.val = .core h) (hreach : s.dev.dbgReach (.core h) = (.open_, s.dev))
include ht hreach

theorem exec_hartHalt : exec (.hartHalt t) s =
    .next { s with dev := s.dev.modCore h (fun c => { c with halted := true, stepping := false }) } :=
  exec_onDev (f := fun d => hartHalt d (dbgTarget t.die t.hartsel.val)) rfl (by rw [ht]; exact hartHalt_core hreach)

theorem exec_hartResume (hhalt : (s.dev.core h).halted = true) :
    ∃ d, exec (.hartResume t) s = .next { s with dev := d } ∧
      (d.core h).still = ({ s.dev.core h with halted := false, stepping := false } : Core).still := by
  have hdev := hartResume_core hreach hhalt t.die
  rw [← ht] at hdev
  refine ⟨_, exec_onDev (f := fun d => hartResume d t.die (dbgTarget t.die t.hartsel.val)) rfl hdev, ?_⟩
  rw [Dev.core_settle_modMod, Dev.core_modCore_self]

theorem exec_singleStep (hhalt : (s.dev.core h).halted = true) :
    exec (.singleStep t) s = .next { s with
      dev := (s.dev.modMod t.die (fun m => { m with resumeAck := true })).modCore h
        (fun c => { c with halted := false, stepping := true }) } :=
  exec_onDev (f := fun d => singleStep d t.die (dbgTarget t.die t.hartsel.val)) rfl
    (by rw [ht]; exact singleStep_core hreach hhalt t.die)

theorem exec_abstractCommand_gpr (hhalt : (s.dev.core h).halted = true) (hok : (s.dev.dbgMod t.die).cmderr = 0) (r : Fin 32) :
    exec (.abstractCommand t (.readReg (BitVec.ofNat 16 (0x1000 + r.val)))) s =
      .next { s with dev := s.dev.modMod t.die (fun m => { m with data := (s.dev.core h).rx r }) } :=
  exec_onDev (f := fun d => abstractCmd d t.die (dbgTarget t.die t.hartsel.val) (.readReg (BitVec.ofNat 16 (0x1000 + r.val)))) rfl
    (by rw [ht]; exact abstractCmd_gpr hreach hhalt t.die hok r)

end Harts

end Debug

/-- Settles O44: each clause by its command's equation. The numbers of registers and the layout of the debug module are the
model's own choice (log 49). -/
theorem debugPortActs : Obligations.DebugPortActs := by
  intro s hvin
  refine ⟨?idcode, fun pins => ?sample, fun drive => ?extest, fun v => ?dtmcs, ?bypass, fun hno => ?status, ?nonce, ?close,
    fun die v hup hlen => ⟨?dmiWrite, ?dmiRead⟩, fun t h ht hreach hlen => ⟨?halt, fun hhalt => ⟨?resume, ?step, fun r hok => ?gpr⟩⟩,
    fun die a v off hup hses hal ht hask hlen => ⟨?read, fun hbase => ?write⟩⟩
  case idcode =>
    refine ⟨_, exec_onTap hvin rfl, rfl, ?_, rfl⟩
    simp only [Dev.emit, Dev.tap, idcodeWord, at_, Dev.modSec_out]
    norm_num
    omega
  case sample => exact ⟨_, exec_onTap hvin rfl, rfl, rfl⟩
  case extest =>
    have hrun := exec_onTap (i := .extest drive) hvin rfl
    dsimp only at hrun
    by_cases hrst : s.dev.boot.perst = true
    · rw [if_pos (by exact hrst)] at hrun
      exact ⟨_, hrun, by rw [if_pos hrst]; rfl, by simp only [Dev.sample, Dev.tap, Dev.modSec]⟩
    · rw [if_neg (by exact hrst)] at hrun
      exact ⟨_, hrun, by rw [if_neg hrst]; rfl, by simp only [Dev.sample, Dev.tap, Dev.modSec]⟩
  case dtmcs =>
    refine ⟨_, exec_onTap hvin rfl, rfl, rfl, ?_, ?_⟩
    all_goals simp only [Dev.emit, Dev.tap, Dev.modSec]
  case bypass => exact ⟨_, exec_onTap hvin rfl, rfl, rfl, rfl⟩
  case status =>
    have hgo : (s.dev.tap 0x20).mboxReturnGo = s.dev.tap 0x20 := by
      unfold Dev.mboxReturnGo
      rw [show (s.dev.tap 0x20).sec.mboxReturn = none from hno]
    have hreport : (s.dev.tap 0x20).report 0 = s.dev.report 0 := rfl
    have hrun := exec_onTap (i := .rindMbox .status) (f := fun d => mbox d .status) hvin rfl
    simp only [mbox, hgo, hreport] at hrun
    refine ⟨_, hrun, ?_, ?_⟩
    all_goals simp only [Dev.emit, Dev.tap, Dev.modSec]
  case nonce => exact ⟨_, _, exec_onTap hvin rfl, rfl, rfl, rfl⟩
  case close =>
    refine ⟨_, exec_onTap hvin rfl, Dev.closeSession_session _ _, fun h => ?_⟩
    obtain ⟨hmem, hout⟩ := Dev.closeSession_same (d := s.dev.tap 0x20) (by exact h) 0
    exact ⟨congrArg (· ++ [OutMsg.mbox .ok []]) hout, hmem⟩
  case dmiWrite =>
    obtain ⟨hlo, hhi⟩ := putHalf_low (s.dev.dbgMod die).data v
    refine ⟨_, exec_dmi_write hvin hup v, ?_, ?_, ?_⟩
    · rw [Dev.dbgMod_emit, Dev.dbgMod_modMod_self (by exact hlen)]
      exact hlo
    · rw [Dev.dbgMod_emit, Dev.dbgMod_modMod_self (by exact hlen)]
      exact hhi
    · simp only [Dev.emit, Dev.tap, Dev.modMod, Dev.modSec]
  case dmiRead =>
    refine ⟨_, exec_dmi_read hvin hup v, rfl, rfl, ?_⟩
    simp only [Dev.emit, Dev.tap, Dev.modSec]
  case halt =>
    refine ⟨_, exec_hartHalt ht hreach, ?_, ?_, rfl, fun g hg => Dev.core_modCore_ne _ _ hg⟩
    all_goals rw [Dev.core_modCore_self]
  case resume =>
    obtain ⟨d, hexec, hstill⟩ := exec_hartResume ht hreach hhalt
    exact ⟨d, hexec, (congrArg Core.halted hstill :), (congrArg Core.x hstill :)⟩
  case step =>
    refine ⟨_, exec_singleStep ht hreach hhalt, ?_, ?_, rfl⟩
    all_goals rw [Dev.core_modCore_self]
  case gpr =>
    refine ⟨_, exec_abstractCommand_gpr ht hreach hhalt hok r, ?_, ?_⟩
    · rw [Dev.dbgMod_modMod_self hlen]
    · simp only [Dev.modMod, Dev.modSec]
  case read =>
    refine ⟨_, exec_onDev (f := fun d => busAccess d die a false v) rfl (busAccess_read_vat hup hses hal ht hask), ?_, ?_⟩
    · rw [Dev.dbgMod_modMod_self hlen]
    · simp only [Dev.modMod, Dev.modSec]
  case write =>
    refine ⟨_, exec_onDev (f := fun d => busAccess d die a true v) rfl (busAccess_write_vat hup hses hal ht hask), ?_, ?_⟩
    · simp only [Dev.modMod, Dev.modSec_mem, Dev.vatPut, Dev.dirtyOps_mem, vatOff, Nat.add_sub_cancel' hbase, Dev.wr]
    · rw [Dev.dbgMod_modMod_self (by exact hlen)]

end Sys2Proof.Machine

/-!
Where each security and debug command completes: the clauses of its own statement, without the buffers' places.
-/
namespace Sys2Proof.Machine

/-- A module that answers has power. -/
theorem Dev.vinOk_of_debugUp {d : Dev} (h : d.debugUp = true) : d.power.vinOk = true := by
  simp only [Dev.debugUp, Bool.and_eq_true] at h
  exact h.1.1

/-- A command that writes a record to a buffer, wherever that lies, is reported OK. -/
theorem exec_admin_written {s : State} {c : AdmCmd} {i : Instr} (hopen : s.dev.adminOpen = true) {f : Dev → AdmRes}
    (hi : exec i s = onDev s (fun d => d.admin c f)) {d' : Dev} {a : Word} {bs : List Byte}
    (hf : f s.dev.fetched = ans .ok (d'.fwWrite a bs)) (hhead : d'.host.admHead = s.dev.host.admHead + 1) :
    ∃ d, exec i s = .next { s with dev := d } ∧ AdmDone s.dev d c .ok 0 0 := by
  obtain ⟨q, hexec, hdone⟩ := exec_admin hopen hi hf ((Dev.fwWrite_admHead _ _ _).trans hhead)
  exact ⟨_, hexec, hdone⟩

/-- Settles O59: each command completes as its own statement says. -/
theorem securityAndDebugCommandsComplete : Obligations.SecurityAndDebugCommandsComplete := by
  intro s
  dsimp only
  obtain ⟨-, hclose, ⟨dn, hnexec, hnonce, -⟩, ⟨ds, hsexec, hses, -⟩, hdoe, -⟩ := securityCommandsComplete s
  refine ⟨fun hvin => ?tap, fun die v hup hlen => ?dmi, fun t h ht hreach => ⟨?halt, fun hhalt => ⟨?resume, ?step, ?gpr⟩⟩,
    fun die a v off hup hses hal ht hask hlen => ?bus, ⟨dn, hnexec, by rw [hnonce]⟩, ⟨ds, hsexec, hses⟩, fun hlink => ?doe,
    fun c hopen hr => ⟨fun hops => ?close, fun a ha hops => ⟨?status, ?nonce, ?cert⟩, fun a n ha hops => ?log, ?attest, ?provision,
      fun a obj bs hops ha hhold hread hlog hsig => ?signed⟩⟩
  case tap =>
    obtain ⟨⟨d1, h1, hir1, -⟩, hsample, hextest, hdtmcs, ⟨d5, h5, hir5, -⟩, hstatus, -⟩ := debugPortActs s hvin
    refine ⟨⟨d1, h1, by rw [hir1]⟩, fun pins => ?_, fun pins => ?_, fun v => ?_, ⟨d5, h5, by rw [hir5]⟩, fun hno => ?_⟩
    · obtain ⟨d, hexec, hsec, -⟩ := hsample pins
      exact ⟨d, hexec, by rw [hsec]⟩
    · obtain ⟨d, hexec, hsec, -⟩ := hextest pins
      exact ⟨d, hexec, by rw [hsec], by rw [hsec]⟩
    · obtain ⟨d, hexec, hir, -⟩ := hdtmcs v
      exact ⟨d, hexec, hir⟩
    · obtain ⟨d, hexec, hout, -⟩ := hstatus hno
      exact ⟨d, hexec, hout⟩
  case dmi =>
    refine ⟨_, exec_dmi_write (Dev.vinOk_of_debugUp hup) hup v, ?_⟩
    rw [Dev.dbgMod_emit, Dev.dbgMod_modMod_self (by exact hlen)]
    exact (putHalf_low _ v).1
  case halt => exact ⟨_, exec_hartHalt ht hreach, by rw [Dev.core_modCore_self]⟩
  case resume =>
    obtain ⟨d, hexec, hstill⟩ := exec_hartResume ht hreach hhalt
    exact ⟨d, hexec, (congrArg Core.halted hstill :)⟩
  case step => exact ⟨_, exec_singleStep ht hreach hhalt, by rw [Dev.core_modCore_self], by rw [Dev.core_modCore_self]⟩
  case gpr =>
    intro hlen hok
    exact ⟨_, exec_abstractCommand_gpr ht hreach hhalt hok 10, by rw [Dev.dbgMod_modMod_self hlen]⟩
  case bus =>
    exact ⟨_, exec_onDev (f := fun d => busAccess d die a false v) rfl (busAccess_read_vat hup hses hal ht hask),
      by rw [Dev.dbgMod_modMod_self hlen]⟩
  case doe =>
    obtain ⟨hattest, ⟨d2, h2, hout2, -⟩, ⟨d3, h3, hout3, -⟩⟩ := hdoe hlink
    refine ⟨fun nonce o d1 hsign => ?_, ⟨d2, h2, hout2⟩, ⟨d3, h3, hout3⟩⟩
    obtain ⟨d, hexec, hout, -⟩ := hattest nonce o d1 hsign
    exact ⟨d, hexec, hout⟩
  case close =>
    obtain ⟨d, hexec, hdone, -⟩ := hclose c hopen hr hops
    exact ⟨d, hexec, hdone⟩
  case status => exact exec_admin_written (i := .secStatus c) hopen rfl (secStatus_ok (d := s.dev.fetched) hr ha hops) rfl
  case nonce => exact exec_admin_written (i := .secNonce c) hopen rfl (secNonce_ok (d := s.dev.fetched) hr ha hops) rfl
  case cert => exact exec_admin_written (i := .secCert c) hopen rfl (secCert_ok (d := s.dev.fetched) hr ha hops) rfl
  case log => exact exec_admin_written (i := .attestLog c) hopen rfl (attestLog_ok (d := s.dev.fetched) hr ha hops) rfl
  case attest =>
    intro b a nonce bs o d1 hops ha hb hhold hread hsign
    obtain ⟨t, k, q, hexec, hdone⟩ := exec_attest hopen hr ha hops hb hhold hread hsign
    exact ⟨_, hexec, hdone⟩
  case provision =>
    intro a rec bs hops ha hhold hread hidle hblank hlog hkey hout
    obtain ⟨d, hexec, howned, -, -, -, -, hcold, -⟩ := exec_secProvision hopen hr ha hops hhold hread hidle hblank hlog hkey hout
    exact ⟨d, hexec, howned, hcold⟩
  case signed =>
    obtain ⟨hact, -⟩ := signedObjectsAct s c a obj bs hopen hr hops ha hhold hread hlog
    obtain ⟨hdebug, hfabric, hkey, hcosign, hsvn, hret⟩ := hact hsig
    refine ⟨fun hk => ?_, fun hk hout => ?_, fun hk => ?_, fun hk => ?_, fun hk hlo hhi himg => ?_, fun hk hidle hout => ?_⟩
    · obtain ⟨d, hexec, hdone, -⟩ := hdebug hk
      exact ⟨d, hexec, hdone⟩
    · obtain ⟨d, hexec, hdone, -⟩ := hfabric hk hout
      exact ⟨d, hexec, hdone⟩
    · obtain ⟨d, hexec, hdone, -⟩ := hkey hk
      exact ⟨d, hexec, hdone⟩
    · obtain ⟨d, hexec, hdone, -⟩ := hcosign hk
      exact ⟨d, hexec, hdone⟩
    · obtain ⟨d, hexec, hdone, -⟩ := hsvn hk hlo hhi himg
      exact ⟨d, hexec, hdone⟩
    · obtain ⟨d, hexec, htaken, hreturned, -⟩ := hret hk hidle hout
      exact ⟨d, hexec, htaken, hreturned⟩

end Sys2Proof.Machine

/-!
What no write, message, wake or record changes in the host interface: all but its contexts, the events that it holds, its
pending vectors and its background commands. One rule for each operation, in the order of the model.
-/
namespace Sys2Proof.Machine

/-- The host interface without what a record, an event, a signal or a report may change in it. -/
def HostIf.fixed (h : HostIf) : HostIf :=
  { h with ctxs := [], evtQ := [], evtDrop := 0, evtLost := 0, msix := [], irqs := [], bg := [] }

def Dev.desk (d : Dev) : HostIf := d.host.fixed

@[simp] theorem Dev.ite_desk {c : Prop} [Decidable c] (d e : Dev) :
    (if c then d else e).desk = if c then d.desk else e.desk := apply_ite Dev.desk c d e

@[simp] theorem Dev.setWrites_desk (d : Dev) (l : List OutW) : ({ d with writes := l } : Dev).desk = d.desk := rfl

/-! ### The operations that every family shares -/

@[simp] theorem foldDev_desk {α : Type} {f : Dev → α → Dev} (hf : ∀ d x, (f d x).desk = d.desk) (d : Dev)
    (l : List α) : (foldDev d l f).desk = d.desk :=
  foldDev_keeps (fun e => e.desk = d.desk) (fun e x h => (hf e x).trans h) l rfl

theorem Dev.modHost_desk (d : Dev) {f : HostIf → HostIf} (hf : (f d.host).fixed = d.host.fixed) :
    (d.modHost f).desk = d.desk := hf

@[simp] theorem Dev.modTiers_desk (d : Dev) (f) : (d.modTiers f).desk = d.desk := rfl

@[simp] theorem Dev.modAnvil_desk (d : Dev) (f) : (d.modAnvil f).desk = d.desk := rfl

@[simp] theorem Dev.modRennet_desk (d : Dev) (f) : (d.modRennet f).desk = d.desk := rfl

@[simp] theorem Dev.modCoh_desk (d : Dev) (f) : (d.modCoh f).desk = d.desk := rfl

@[simp] theorem Dev.modChain_desk (d : Dev) (f) : (d.modChain f).desk = d.desk := rfl

@[simp] theorem Dev.modPort_desk (d : Dev) (p f) : (d.modPort p f).desk = d.desk := rfl

@[simp] theorem Dev.emit_desk (d : Dev) (o) : (d.emit o).desk = d.desk := rfl

@[simp] theorem Dev.modEng_desk (d : Dev) (e f) : (d.modEng e f).desk = d.desk := rfl

@[simp] theorem Dev.modCore_desk (d : Dev) (h f) : (d.modCore h f).desk = d.desk := rfl

@[simp] theorem Dev.modStep_desk (d : Dev) (n f) : (d.modStep n f).desk = d.desk := rfl

@[simp] theorem Dev.wr_desk (d : Dev) (off bs) : (d.wr off bs).desk = d.desk := rfl

@[simp] theorem Dev.setPoison_desk (d : Dev) (line) : (d.setPoison line).desk = d.desk := by
  unfold Dev.setPoison
  split <;> rfl

@[simp] theorem Dev.clrPoison_desk (d : Dev) (line) : (d.clrPoison line).desk = d.desk := rfl

@[simp] theorem Dev.heatUp_desk (d : Dev) (off) : (d.heatUp off).desk = d.desk := rfl

@[simp] theorem Dev.fixPsn_desk (d : Dev) (f) : (d.fixPsn f).desk = d.desk := rfl

@[simp] theorem Dev.markDirty_desk (d : Dev) (off) : (d.markDirty off).desk = d.desk := rfl

@[simp] theorem Dev.loseResv_desk (d : Dev) (off who sub) : (d.loseResv off who sub).desk = d.desk := rfl

@[simp] theorem Dev.raise_desk (d : Dev) (e) : (d.raise e).desk = d.desk := by
  unfold Dev.raise
  refine Dev.modHost_desk d ?_
  split <;> rfl

@[simp] theorem Dev.signal_desk (d : Dev) (b) : (d.signal b).desk = d.desk := by
  unfold Dev.signal
  dsimp only
  (repeat' split) <;> rfl

@[simp] theorem Dev.queueRec_desk (d : Dev) (c r) : (d.queueRec c r).desk = d.desk := rfl

@[simp] theorem Dev.dataRec_desk (d : Dev) (kind off gran source die) :
    (d.dataRec kind off gran source die).desk = d.desk :=
  foldDev_desk (fun e c => e.queueRec_desk c _) d _

@[simp] theorem Dev.loseLine_desk (d : Dev) (off source die) :
    (d.loseLine off source die).desk = d.desk := by simp [Dev.loseLine]

@[simp] theorem Dev.lostStore_desk (d : Dev) (src ctx step node addr len red sg) :
    (d.lostStore src ctx step node addr len red sg).desk = d.desk := by
  unfold Dev.lostStore
  (repeat' split) <;> simp

@[simp] theorem Dev.cancelFar_desk (d : Dev) (e) : (d.cancelFar e).desk = d.desk := rfl

@[simp] theorem Dev.abandon_desk (d : Dev) (e) : (d.abandon e).desk = d.desk := by simp [Dev.abandon]

@[simp] theorem Dev.dropUser_desk (d : Dev) (u) : (d.dropUser u).desk = d.desk := rfl

@[simp] theorem Dev.stopEng_desk (d : Dev) (e) : (d.stopEng e).desk = d.desk := by simp [Dev.stopEng]

@[simp] theorem Dev.stallEnds_desk (d : Dev) (c) : (d.stallEnds c).desk = d.desk := rfl

@[simp] theorem Dev.stopAll_desk (d : Dev) (n es) : (d.stopAll n es).desk = d.desk := by simp [Dev.stopAll]

@[simp] theorem Dev.endStep_desk (d : Dev) (n o) : (d.endStep n o).desk = d.desk := by
  unfold Dev.endStep
  split <;> simp

@[simp] theorem Dev.failStep_desk (d : Dev) (n st detail addr) :
    (d.failStep n st detail addr).desk = d.desk := by simp [Dev.failStep]

@[simp] theorem Dev.failEng_desk (d : Dev) (e st detail addr) : (d.failEng e st detail addr).desk = d.desk := by
  unfold Dev.failEng
  split <;> simp

/-! ### Writes, reads and messages on their way -/

@[simp] theorem Dev.rekeyDue_desk (d : Dev) (pn) : (d.rekeyDue pn).desk = d.desk := by
  unfold Dev.rekeyDue
  dsimp only
  split <;> rfl

@[simp] theorem Dev.frameOut_desk (d : Dev) (pn k) : (d.frameOut pn k).desk = d.desk := by simp [Dev.frameOut]

@[simp] theorem Dev.portSend_desk (d : Dev) (pn k) : (d.portSend pn k).desk = d.desk := by simp [Dev.portSend]

theorem Dev.trySend_desk {d e : Dev} {dst : Nat} {k : ChainPkt} (h : d.trySend dst k = some e) : e.desk = d.desk := by
  unfold Dev.trySend at h
  grind [Dev.portSend_desk, Dev.modChain_desk, Chain.place]

@[simp] theorem flushList_desk (d : Dev) (l keep) : (flushList d l keep).desk = d.desk := by
  induction l generalizing d keep with
  | nil => simp [flushList]
  | cons p t ih =>
    unfold flushList
    split
    · exact ih d _
    · split
      next e he => rw [ih, Dev.trySend_desk he]
      · exact ih d _

@[simp] theorem transitList_desk (d : Dev) (l keep) : (transitList d l keep).desk = d.desk := by
  induction l generalizing d keep with
  | nil => simp [transitList]
  | cons p t ih =>
    unfold transitList
    dsimp only
    (repeat' split) <;> simp [ih, Dev.owe]

@[simp] theorem Dev.flushSend_desk (d : Dev) : d.flushSend.desk = d.desk := by simp [Dev.flushSend]

@[simp] theorem Dev.chainSend_desk (d : Dev) (dst cls src ctx pd tag len body slice) :
    (d.chainSend dst cls src ctx pd tag len body slice).desk = d.desk := by simp [Dev.chainSend]

@[simp] theorem Dev.newTag_desk (d : Dev) : d.newTag.2.desk = d.desk := rfl

@[simp] theorem Dev.vatPut_desk (d : Dev) (v bs but) : (d.vatPut v bs but).desk = d.desk := rfl

@[simp] theorem Dev.send_desk (d : Dev) (m) : (d.send m).desk = d.desk := rfl

@[simp] theorem Dev.launch_desk (d : Dev) (w t) : (d.launch w t).desk = d.desk := by
  unfold Dev.launch
  dsimp only
  split
  · rw [Dev.setWrites_desk, Dev.send_desk]
  · simp
  · simp
  · split
    · simp
    · rw [Dev.ite_desk, Dev.setWrites_desk, Dev.send_desk, Dev.chainSend_desk, Dev.setWrites_desk d.newTag.2,
        Dev.newTag_desk, ite_self]
  · rfl

@[simp] theorem Dev.issueWrite_desk (d : Dev) (src addr bs red rq) : (d.issueWrite src addr bs red rq).desk = d.desk := by
  unfold Dev.issueWrite
  dsimp only
  split
  · rfl
  · exact Dev.launch_desk d _ _

@[simp] theorem Dev.issueWrites_desk (d : Dev) (src addr bs red u rq) :
    (d.issueWrites src addr bs red u rq).desk = d.desk := by simp [Dev.issueWrites]

@[simp] theorem Dev.rennetSend_desk (d : Dev) (n src step m) : (d.rennetSend n src step m).desk = d.desk := by
  unfold Dev.rennetSend
  dsimp only
  split
  · rfl
  · split
    · split
      · rw [Dev.chainSend_desk, Dev.setWrites_desk, Dev.newTag_desk]
      · simp
    · split <;> simp
    · split <;> simp
    · rfl

@[simp] theorem Dev.setRun_desk (d : Dev) (e r) : (d.setRun e r).desk = d.desk := rfl

@[simp] theorem Dev.sendAtomic_desk (d : Dev) (e addr op) : (d.sendAtomic e addr op).desk = d.desk := by
  unfold Dev.sendAtomic
  split <;> simp

@[simp] theorem Dev.vatAmo_desk (d : Dev) (v op w b) : (d.vatAmo v op w b).2.desk = d.desk := rfl

@[simp] theorem Dev.runCont_desk (d : Dev) (e k) : (d.runCont e k).desk = d.desk := by
  unfold Dev.runCont
  (repeat' split) <;> simp

@[simp] theorem Dev.settleEng_desk (d : Dev) (e) : (d.settleEng e).desk = d.desk := by
  unfold Dev.settleEng
  dsimp only
  cases (d.eng e).run with
  | release sc k => simp
  | await t =>
    cases (d.eng e).step with
    | none => rfl
    | some n => simp
  | twait t => simp
  | vfence => simp
  | _ => rfl

@[simp] theorem Dev.flushIrqs_desk (d : Dev) : d.flushIrqs.desk = d.desk := by
  unfold Dev.flushIrqs
  split
  · rfl
  · rw [foldDev_desk Dev.signal_desk]
    rfl

@[simp] theorem Dev.settle_desk (d : Dev) : d.settle.desk = d.desk := by
  unfold Dev.settle
  dsimp only
  rw [Dev.modAnvil_desk, foldDev_desk Dev.settleEng_desk, Dev.flushIrqs_desk]

/-! ### Frames and firmware accesses -/

@[simp] theorem Dev.startFill_desk (d : Dev) (f) : (d.startFill f).2.desk = d.desk := by
  unfold Dev.startFill
  dsimp only
  (repeat' split) <;> simp

@[simp] theorem Dev.redEnter_desk (d : Dev) (line) : (d.redEnter line).desk = d.desk := rfl

theorem Dev.frameGate_desk {d e : Dev} {off : Nat} (h : d.frameGate off = .go e ∨ d.frameGate off = .hold e) :
    e.desk = d.desk := by
  unfold Dev.frameGate at h
  grind [Dev.startFill_desk]

theorem Dev.readGate_desk {d e : Dev} {off n : Nat} (h : d.readGate off n = .go e ∨ d.readGate off n = .hold e) :
    e.desk = d.desk := by
  unfold Dev.readGate at h
  grind [Dev.frameGate_desk]

@[simp] theorem Dev.fwPut_desk (d : Dev) (off bs) : (d.fwPut off bs).desk = d.desk := by
  unfold Dev.fwPut
  split
  next e he _ =>
    have hgo := Dev.readGate_desk (.inl he)
    dsimp only
    split <;> simp [hgo]
  · simp

@[simp] theorem Dev.fwWrite_desk (d : Dev) (a bs) : (d.fwWrite a bs).desk = d.desk := by
  unfold Dev.fwWrite
  split <;> simp

end Sys2Proof.Machine

/-!
Where each command of the host and of the admin ring completes: the clauses of its own statement, without the buffers' places.
-/
namespace Sys2Proof.Machine

/-! ### Rings, resets and records -/

@[simp] theorem Dev.fwSignal_desk (d : Dev) (b : Word) : (d.fwSignal b).desk = d.desk := by
  unfold Dev.fwSignal
  split
  · rfl
  · exact d.signal_desk b

/-- A record that is posted moves the ring's tail by one, wherever the ring lies. -/
theorem eventPost_evtTail {d : Dev} (hroom : d.host.evtRoom ≠ 0) (hq : d.host.evtQ ≠ []) :
    (eventPost d).host.evtTail = d.host.evtTail + 1 := by
  have hpost (f : Dev) (bs : List Byte) (a : Word) (t : List Event) (b : Word) :
      (((f.fwWrite a bs).modHost (fun h => { h with evtQ := t, evtTail := h.evtTail + 1 })).fwSignal b).host.evtTail =
        f.host.evtTail + 1 := by
    have h1 := congrArg HostIf.evtTail (Dev.fwSignal_desk ((f.fwWrite a bs).modHost (fun h => { h with evtQ := t, evtTail := h.evtTail + 1 })) b)
    have h2 := congrArg HostIf.evtTail (Dev.fwWrite_desk f a bs)
    exact h1.trans (congrArg (· + 1) h2)
  rw [eventPost, if_neg hroom]
  by_cases hlost : d.host.evtLost = 0
  · simp only [if_pos hlost]
    split
    next h => exact absurd h hq
    next e t h => exact hpost _ _ _ _ _
  · simp only [if_neg hlost]
    split
    next h => simp at h
    next e t h => exact hpost _ _ _ _ _

theorem Dev.admCheck_admTail (d : Dev) : d.admCheck.host.admTail = d.host.admTail := by
  unfold Dev.admCheck
  dsimp only
  split
  · exact (congrArg HostIf.admTail (Dev.raise_desk _ _) :)
  · rfl

/-- FLR leaves no region, ring or context, and the admin ring off, whatever runs. -/
theorem flr_host (d : Dev) :
    (flr d).host.rings = [] ∧ (flr d).host.ctxs = [] ∧ (flr d).host.regions = [] ∧ (flr d).host.adm = {} := by
  unfold flr
  extract_lets off d1 ctxs d2 wipe d3
  clear_value d3
  exact ⟨rfl, rfl, rfl, rfl⟩

/-! ### Answers that leave the head of the admin ring -/

@[simp] theorem Dev.modXlate_ledger (d : Dev) (h f) : (d.modXlate h f).ledger = d.ledger := rfl

@[simp] theorem Dev.modFaults_ledger (d : Dev) (f) : (d.modFaults f).ledger = d.ledger := rfl

@[simp] theorem Dev.modHead_ledger (d : Dev) (e c f) : (d.modHead e c f).ledger = d.ledger := rfl

@[simp] theorem Dev.park_ledger (d : Dev) (u fid) : (d.park u fid).ledger = d.ledger := by
  unfold Dev.park
  (repeat' split) <;> simp

@[simp] theorem Dev.unpark_ledger (d : Dev) (u) : (d.unpark u).ledger = d.ledger := by
  unfold Dev.unpark
  (repeat' split) <;> simp

@[simp] theorem Dev.failUser_ledger (d : Dev) (u st detail addr) : (d.failUser u st detail addr).ledger = d.ledger := by
  unfold Dev.failUser
  dsimp only
  (repeat' split) <;> simp

@[simp] theorem Dev.raiseFault_ledger (d : Dev) (h r) : (d.raiseFault h r).ledger = d.ledger := by
  unfold Dev.raiseFault
  dsimp only
  (repeat' split) <;> simp

@[simp] theorem Dev.raiseWaiting_ledger (d : Dev) (h) : (d.raiseWaiting h).ledger = d.ledger := by simp [Dev.raiseWaiting]

@[simp] theorem Dev.acctWrite_ledger (d : Dev) (n now) : (d.acctWrite n now).ledger = d.ledger := by
  unfold Dev.acctWrite
  dsimp only
  split
  · rfl
  · split
    · rfl
    · simp [Dev.modCtx]

@[simp] theorem Dev.dropWaits_ledger (d : Dev) (obj st) : (d.dropWaits obj st).ledger = d.ledger := by
  have hdrop (e : Dev) (w : Waiter) :
      (if w.tag.isSome then e.answerWaiter w st 0 else e.failEng w.eng st 0 (objAddr obj)).ledger = e.ledger := by
    split
    · exact (e.answerWaiter_sends _ _ _).ledger
    · exact e.failEng_ledger _ _ _ _
  exact foldDev_ledger hdrop _ _

@[simp] theorem Dev.freeObjs_ledger (d : Dev) (i k) : (d.freeObjs i k).ledger = d.ledger := by simp [Dev.freeObjs]

/-! ### What the commands answer where an earlier lemma asks more -/

section Commands
variable {d : Dev} {c : AdmCmd} (hr : c.rsvd = false)
include hr

/-- A region that is on stays on. -/
theorem regionEnable_on {r : Fin 4096} {x : PRegion} (hops : opsAre c [BitVec.ofNat 64 r.val])
    (hx : tget d.host.regions r.val = some x) (hst : x.st = .on) : regionEnable d c = (.ok, d) := by
  have hr' := r.isLt
  have hz : admOnly c 1 = true := admOnly_length hops hr
  unfold regionEnable
  simp (disch := omega) only [admOp_eq hops, lgetD, BitVec.toNat_ofNat, Nat.mod_eq_of_lt, hx, hst]
  rw [if_neg (by simp [hz]), if_neg (by decide), if_pos trivial]

theorem regionDisable_any {r : Fin 4096} {x : PRegion} (hops : opsAre c [BitVec.ofNat 64 r.val])
    (hx : tget d.host.regions r.val = some x) :
    regionDisable d c = (.ok, if x.st = .off then d else setRegion d r.val .disabling) := by
  have hr' := r.isLt
  have hz : admOnly c 1 = true := admOnly_length hops hr
  unfold regionDisable
  simp (disch := omega) only [admOp_eq hops, lgetD, BitVec.toNat_ofNat, Nat.mod_eq_of_lt, hx]
  rw [if_neg (by simp [hz])]

/-- A context that is attached already, or owns the allocation, stays as it is. -/
theorem frameAttach_any {i : Fin 65536} {n : Fin 4096} {a : Alloc} (hops : opsAre c [BitVec.ofNat 64 i.val, BitVec.ofNat 64 n.val])
    (ha : tget d.tiers.allocs i.val = some a) (hlive : a.freeing = false) (hctx : d.ctxLive n.val = true) :
    ∃ a', frameAttach d c = ans .ok (d.modTiers (fun t => t.setAlloc i.val a')) := by
  have hi := i.isLt
  have hn := n.isLt
  have hz : admOnly c 2 = true := admOnly_length hops hr
  unfold frameAttach
  simp (disch := omega) only [admOp_eq hops, lgetD, BitVec.toNat_ofNat, Nat.mod_eq_of_lt]
  rw [if_neg (by simp [hz]; omega), if_neg (by simp [hctx])]
  exact ⟨_, onAlloc_ok ha hlive rfl⟩

/-- CTX_PARAMS of the package's own context sets the package's window instead. -/
theorem ctxParams_any {n : Fin 4096} {la w f : Nat}
    (hops : opsAre c [BitVec.ofNat 64 n.val, BitVec.ofNat 64 la, BitVec.ofNat 64 w, BitVec.ofNat 64 f])
    (hla : 1 ≤ la) (hla' : la ≤ 16) (hw : 1000 ≤ w) (hw' : w ≤ 60000000) (hf : f < 4) (hlive : d.ctxLive n.val = true) :
    ∃ e, ctxParams d c = ans .ok e ∧ e.host.admHead = d.host.admHead := by
  by_cases hpkg : n.val = 4095
  · have hz : admOnly c 4 = true := admOnly_length hops hr
    unfold ctxParams
    simp (disch := omega) only [admOp_eq hops, lgetD, BitVec.toNat_ofNat, Nat.mod_eq_of_lt, hpkg]
    rw [if_neg (by simp [hz]; omega), if_pos trivial]
    exact ⟨_, rfl, rfl⟩
  · exact ⟨_, ctxParams_ok hr hops hpkg hla hla' hw hw' hf hlive, rfl⟩

/-- A reply to a translation fault lets its users go on, or fails them. -/
theorem faultReply_any {f : Fin 2048} {r : Bool} {q : FRec} (hops : opsAre c [BitVec.ofNat 64 f.val, BitVec.ofNat 64 (b2n r)])
    (hrec : tget (Two.get d.xlate (halfOfNat (f.val / 1024))).recs (f.val % 1024) = some q) :
    ∃ e, faultReply d c = ans .ok e ∧ e.ledger = d.ledger := by
  have hf := f.isLt
  have hb := b2n_lt r
  have hz : admOnly c 2 = true := admOnly_length hops hr
  unfold faultReply
  simp (disch := omega) only [admOp_eq hops, lgetD, BitVec.toNat_ofNat, Nat.mod_eq_of_lt, hrec]
  rw [if_neg (by simp [hz]; omega)]
  refine ⟨_, rfl, ?_⟩
  split <;> simp

end Commands

theorem toNat_ofNat64 {n : Nat} (h : n < 2 ^ 64) : (BitVec.ofNat 64 n).toNat = n := by
  rw [BitVec.toNat_ofNat, Nat.mod_eq_of_lt h]

section Executed
variable {s : State} {c : AdmCmd} {i : Instr} (hopen : s.dev.adminOpen = true)
include hopen

/-- A command that answers OK is reported, whatever it leaves. -/
theorem exec_admin_ok {f : Dev → AdmRes} (hi : exec i s = onDev s (fun d => d.admin c f)) {d' : Dev}
    (hf : f s.dev.fetched = ans .ok d') (hhead : d'.host.admHead = s.dev.host.admHead + 1) :
    ∃ d, exec i s = .next { s with dev := d } ∧ AdmDone s.dev d c .ok 0 0 := by
  obtain ⟨q, hexec, hdone⟩ := exec_admin hopen hi hf hhead
  exact ⟨_, hexec, hdone⟩

theorem exec_admin_bg {f : Dev → Status × Dev} {b : Background} (hi : exec i s = onDev s (fun d => d.adminBg c f b)) {d' : Dev}
    (hf : f s.dev.fetched = (.ok, d')) (hhead : d'.host.admHead = s.dev.host.admHead + 1) :
    ∃ d, exec i s = .next { s with dev := d } ∧ AdmTaken s.dev d c b := by
  obtain ⟨t, hexec, htaken⟩ := exec_adminBg hopen hi hf hhead
  exact ⟨_, hexec, htaken⟩

end Executed

/-- Settles O60: each command's answer on operands in range is reported or accepted; the rings, resets and set-up registers are
those of their own statements. -/
theorem hostSideCommandsComplete : Obligations.HostSideCommandsComplete := by
  intro s
  dsimp only
  obtain ⟨-, -, hhead, htail, hctl, hadmDrain, hevtDrain, -⟩ := ringsAndFunctionLevelResetAct s
  obtain ⟨hhart, hgpio, hstat, hreg⟩ := setUpRegistersAct s
  refine ⟨fun e t hroom hq _ => ?post, fun v => ?head, fun v => ?tail, fun w hw => ⟨?admOn, ?evtOn⟩, fun w hw => ⟨?admOff, ?evtOff⟩,
    fun hidle => ⟨_, hadmDrain hidle, rfl⟩, ⟨_, hevtDrain, rfl⟩, ⟨_, rfl, flr_host _⟩, ?hart, fun n up => ?gpio,
    fun m => ⟨_, hstat m, rfl⟩, fun v hup => ⟨_, (hreg hup v).2.1, rfl⟩, ?cave, fun c hopen hr => ⟨?ctxCreate, ?ctx, ?ringDestroy, ?dbline,
      ?saveArea, ?region, ?pools, ?rennetFree, ?dumpReg, ?faultReply, ?alloc, ?frameQuery, ?tierParams, ?params, ?records, ?margin⟩⟩
  case post => exact ⟨_, rfl, eventPost_evtTail hroom (by rw [hq]; exact List.cons_ne_nil _ _)⟩
  case head =>
    obtain ⟨d, hexec, -, hv, -⟩ := hhead v
    exact ⟨d, hexec, hv⟩
  case tail => exact ⟨_, rfl, Dev.admCheck_admTail _⟩
  case admOn =>
    intro hen hdrain hlo hhi hfit
    obtain ⟨d, hexec, -, hhost⟩ := ((hctl w).1 _ rfl hw hen).1 hdrain hlo hhi hfit
    exact ⟨d, hexec, by rw [hhost]⟩
  case evtOn =>
    intro hen hdrain hlo hhi
    obtain ⟨d, hexec, -, hhost⟩ := ((hctl w).2.2.1 _ rfl hw hen).1 hdrain hlo hhi
    exact ⟨d, hexec, by rw [hhost]⟩
  case admOff =>
    intro hen
    obtain ⟨d, hexec, -, hoff, hdrain, -⟩ := (hctl w).2.1 hw hen
    exact ⟨d, hexec, hoff, hdrain⟩
  case evtOff =>
    intro hen
    obtain ⟨d, hexec, -, hoff, hdrain, -⟩ := (hctl w).2.2.2 hw hen
    exact ⟨d, hexec, hoff, hdrain⟩
  case hart =>
    intro g hready hup hrun hstart hvec hdom
    obtain ⟨d, hexec, -, hrunning, -⟩ := (hhart g hready hup hrun hstart).1 hvec hdom
    exact ⟨d, hexec, hrunning⟩
  case gpio =>
    obtain ⟨d, hexec, hin, -⟩ := hgpio n up
    exact ⟨d, hexec, hin⟩
  case cave =>
    intro slot cid n hbg
    obtain ⟨d, hexec, ⟨hgone, -⟩, hcave, -⟩ := ((adminCommandsOnMemoryComplete s).2 slot cid).1 n hbg
    exact ⟨d, hexec, hgone, by rw [hcave]⟩
  case ctxCreate =>
    intro n pd ring lg head bind md hops hn hpd hlo hhi hring hringal hhead hheadal hbind hbok hmd hnew
    have hmod : (BitVec.ofNat 8 md).toNat + 256 * (BitVec.ofNat 16 (md / 256)).toNat = md := by
      simp only [BitVec.toNat_ofNat]
      omega
    exact exec_admin_ok (i := .ctxCreate c) hopen rfl (ctxCreate_ok (d := s.dev.fetched) (n := ⟨n, hn⟩) (pd := ⟨pd, hpd⟩)
      (ring := BitVec.ofNat 64 ring) (head := BitVec.ofNat 64 head) (bind := BitVec.ofNat 64 bind) (lg := lg)
      (cnt := BitVec.ofNat 8 md) (dly := BitVec.ofNat 16 (md / 256)) hr (by rw [hmod]; exact hops) hlo hhi
      (by rw [toNat_ofNat64 (by omega)]; exact hringal) (by rw [toNat_ofNat64 (by omega)]; exact hring)
      (by rw [toNat_ofNat64 (by omega)]; exact hheadal) (by rw [toNat_ofNat64 (by omega)]; exact hhead)
      (by rw [toNat_ofNat64 hbind]; exact hbok) hnew) rfl
  case ctx =>
    intro n x hn hx hlive
    have hctx : s.dev.fetched.ctxLive n = true := Dev.ctxLive_of_ctx? hx hlive
    refine ⟨fun hops => ⟨?acctNow, ?flush, ?dump⟩, ?destroy, ?root, ?params', ?acctSet, ?ringCreate, ?regionReg, ?rennetAlloc,
      ?faultQueue, ?invalidate, ?quota, ?frameAlloc⟩
    case acctNow =>
      exact exec_admin_ok (i := .acctNow c) hopen rfl (acctNow_ok (d := s.dev.fetched) (n := ⟨n, hn⟩) hr hops hctx)
        (Dev.admHead_of_ledger (Dev.acctWrite_ledger _ _ _))
    case flush =>
      exact exec_admin_ok (i := .flushImages c) hopen rfl (flushImages_ok (d := s.dev.fetched) (n := ⟨n, hn⟩) hr hops hctx) rfl
    case dump =>
      obtain ⟨d, -, hexec, htaken, -⟩ := exec_dump (n := ⟨n, hn⟩) hopen hr hops (.inr (by rw [hx]; rfl))
      exact ⟨d, hexec, htaken⟩
    case destroy =>
      intro hops hsteps hrings hregions
      obtain ⟨d, hexec, htaken, -⟩ := exec_ctxDestroy (n := ⟨n, hn⟩) hopen hr hops hx hlive hsteps hrings hregions
      exact ⟨d, hexec, htaken⟩
    case root =>
      intro r p hops hr' hp hidle
      exact exec_admin_ok (i := .ctxRoot c) hopen rfl (ctxRoot_ok (d := s.dev.fetched) (n := ⟨n, hn⟩) (r := BitVec.ofNat 44 r)
        (p := BitVec.ofNat 20 p) hr (by
          rw [BitVec.toNat_ofNat, BitVec.toNat_ofNat, Nat.mod_eq_of_lt hr', Nat.mod_eq_of_lt hp]; exact hops) hctx hidle) rfl
    case params' =>
      intro la w f hops hla hla' hw hw' hf
      obtain ⟨e, hans, hhead⟩ := ctxParams_any (d := s.dev.fetched) (n := ⟨n, hn⟩) hr hops hla hla' hw hw' hf hctx
      exact exec_admin_ok (i := .ctxParams c) hopen rfl hans hhead
    case acctSet =>
      intro p hops hp
      exact exec_admin_ok (i := .acctSet c) hopen rfl (acctSet_ok (d := s.dev.fetched) (n := ⟨n, hn⟩) (a := 0) (p := BitVec.ofNat 32 p)
        hr (by rw [BitVec.toNat_ofNat, Nat.mod_eq_of_lt hp]; exact hops) rfl (by decide) (.inl rfl) hctx) rfl
    case ringCreate =>
      intro rn cls base lg l ext bs hops hrn hcls hbase hal hlo hhi hplace hnew hline hpd hhold hread
      obtain ⟨d, hexec, hdone, -⟩ := exec_ringCreate (rn := ⟨rn, hrn⟩) (n := ⟨n, hn⟩) (cls := ⟨cls, hcls⟩) (base := BitVec.ofNat 64 base)
        (lg := lg) hopen hr hops hx hlive (by rw [toNat_ofNat64 (by omega)]; exact hal) (by rw [toNat_ofNat64 (by omega)]; exact hbase)
        hlo hhi (by rw [toNat_ofNat64 (by omega)]; exact hplace) hnew hline hpd hhold hread
      exact ⟨d, hexec, hdone⟩
    case regionReg =>
      intro r off len vb f ps hops hr' hlen hfit hvb hval hnew hover hpages
      have hans := (regionReg_answers (d := s.dev.fetched) (c := c) (r := ⟨r, hr'⟩) (n := ⟨n, hn⟩) (off := off) (len := len)
        (vb := BitVec.ofNat 64 vb) (cnt := 0) (f := f) hr hops hlen hfit (by rw [toNat_ofNat64 hvb]; exact hval) hctx hnew).1 hover ps
        (by rw [toNat_ofNat64 hvb]; exact (Dev.regionPages_fetched _ _ _ _ _).trans hpages)
      exact exec_admin_ok (i := .regionReg c) hopen rfl hans rfl
    case rennetAlloc =>
      intro k q i hops hk hlo hhi hrun
      obtain ⟨d, hexec, hdone, -⟩ := exec_rennetAlloc (n := ⟨n, hn⟩) (k := ⟨k, hk⟩) hopen hr hops hlo hhi hctx hrun
      exact ⟨d, hexec, hdone⟩
    case faultQueue =>
      intro a lg b hops ha hal hlo hhi hb hbok hplace
      exact exec_admin_ok (i := .faultQueue c) hopen rfl (faultQueue_ok (d := s.dev.fetched) (n := ⟨n, hn⟩) (a := BitVec.ofNat 64 a)
        (b := BitVec.ofNat 64 b) hr hops (by rw [toNat_ofNat64 (by omega)]; exact hal) (by rw [toNat_ofNat64 (by omega)]; exact ha) hlo hhi
        (by rw [toNat_ofNat64 hb]; exact hbok) (by rw [toNat_ofNat64 (by omega)]; exact hplace) hctx) rfl
    case invalidate =>
      intro lo len hops hidle
      obtain ⟨d, hexec, htaken, -⟩ := exec_invalidate (n := ⟨n, hn⟩) (lo := BitVec.ofNat 64 lo) (len := BitVec.ofNat 64 len) hopen hr hops
        hctx (by
          rw [List.any_eq_false] at hidle ⊢
          exact fun r hmem h => hidle r hmem (Bool.and_eq_true_iff.1 h).1)
      exact ⟨d, hexec, htaken⟩
    case quota =>
      intro p q hops hp hp' hq
      exact exec_admin_ok (i := .quotaSet c) hopen rfl
        (quotaSet_ok (d := s.dev.fetched) (n := ⟨n, hn⟩) (p := ⟨p, hp'⟩) hr hops hp hq hctx) rfl
    case frameAlloc =>
      intro first count p il hm id d0 hops hpos hfit hp hnew hid hback
      obtain ⟨t, rfl, -⟩ := allocFrames_only hback
      have hback' := allocFrames_fetched count first
        { policy := policyOf p, il := il, home := halfOf hm, ctx := n, alloc := id } s.dev.trimCave
      rw [hback] at hback'
      obtain ⟨l, hans⟩ := frameAlloc_ok (d := s.dev.fetched) (n := ⟨n, hn⟩) (p := ⟨p, hp⟩) hr hops hpos hfit hctx hnew hid hback'
      obtain ⟨q, hexec, hdone⟩ := exec_admin_result (i := .frameAlloc c) hopen rfl hans rfl
      exact ⟨_, hexec, hdone⟩
  case ringDestroy =>
    intro rn r hops hrn hring hlive
    obtain ⟨d, hexec, htaken, -⟩ := exec_ringDestroy (rn := ⟨rn, hrn⟩) hopen hr hops hring hlive
    exact ⟨d, hexec, htaken⟩
  case dbline =>
    intro l pd a hops hl hpd ha hal hidle
    have hans := dblineSet_eq (d := s.dev.fetched) (c := c) (l := ⟨l, hl⟩) (pd := ⟨pd, hpd⟩) (a := BitVec.ofNat 64 a) hr hops
      (by rw [toNat_ofNat64 (by omega)]; exact hal) (by rw [toNat_ofNat64 (by omega)]; exact ha)
    rw [if_neg (by exact Bool.eq_false_iff.1 hidle)] at hans
    exact exec_admin_ok (i := .dblineSet c) hopen rfl hans rfl
  case saveArea =>
    intro k hops hk hcont hfree hhbm
    exact exec_admin_ok (i := .saveArea c) hopen rfl (saveArea_ok (d := s.dev.fetched) (k := ⟨k, hk⟩) (n := 0) hr hops (by decide) hcont
      (by rw [Nat.mul_zero, Nat.zero_add]; exact hfree) hhbm) rfl
  case region =>
    intro r x hops hr' hx
    refine ⟨fun hst => ?_, fun hst => ?_, ?_⟩
    · exact exec_admin_ok (i := .regionFree c) hopen rfl (regionFree_ok (d := s.dev.fetched) (r := ⟨r, hr'⟩) hr hops hx hst) rfl
    · have hi : exec (.regionEnable c) s = onDev s (fun d => d.adminBg c (fun d => regionEnable d c) (.regionEnable r)) := by
        rw [← admOp_zero hops (by omega)]
        rfl
      exact exec_admin_bg hopen hi (regionEnable_on (r := ⟨r, hr'⟩) hr hops hx hst) rfl
    · have hi : exec (.regionDisable c) s = onDev s (fun d => d.adminBg c (fun d => regionDisable d c) (.regionDisable r)) := by
        rw [← admOp_zero hops (by omega)]
        rfl
      exact exec_admin_bg hopen hi (regionDisable_any (r := ⟨r, hr'⟩) hr hops hx) (by split <;> rfl)
  case pools =>
    intro k hops hk hidle
    have hans := rennetPools_eq (d := s.dev.fetched) (k := ⟨k, hk⟩) (n := 0) hr (by decide) hops
    rw [Nat.mul_zero, Nat.min_zero, Nat.max_zero, if_neg (by exact Bool.eq_false_iff.1 hidle)] at hans
    exact exec_admin_ok (i := .rennetPools c) hopen rfl hans rfl
  case rennetFree =>
    intro i k hops hk hik howned
    exact exec_admin_ok (i := .rennetFree c) hopen rfl (rennetFree_ok (d := s.dev.fetched) hr hops hk hik howned)
      (Dev.admHead_of_ledger ((Dev.flushSend_ledger _).trans (Dev.freeObjs_ledger _ _ _)))
  case dumpReg =>
    intro a n ha hops
    exact exec_admin_ok (i := .dumpReg c) hopen rfl (dumpReg_ok (d := s.dev.fetched) hr hops ha) rfl
  case faultReply =>
    intro f r q hops hf hrec
    obtain ⟨e, hans, hledger⟩ := faultReply_any (d := s.dev.fetched) (f := ⟨f, hf⟩) hr hops hrec
    exact exec_admin_ok (i := .faultReply c) hopen rfl hans (Dev.admHead_of_ledger hledger)
  case alloc =>
    intro i a hi ha hlive
    refine ⟨fun hops => ?_, fun n hops hn => ⟨fun hctx => ?_, fun hold => ?_⟩, fun p hops hp => ?_, fun p b hops hp hp' hb => ?_⟩
    · obtain ⟨d, hexec, htaken, -⟩ := exec_frameFree (i := ⟨i, hi⟩) hopen hr ha hlive hops
      exact ⟨d, hexec, htaken⟩
    · obtain ⟨a', hans⟩ := frameAttach_any (d := s.dev.fetched) (i := ⟨i, hi⟩) (n := ⟨n, hn⟩) hr hops ha hlive hctx
      exact exec_admin_ok (i := .frameAttach c) hopen rfl hans rfl
    · exact exec_admin_ok (i := .frameDetach c) hopen rfl
        (frameDetach_ok (d := s.dev.fetched) (i := ⟨i, hi⟩) (n := ⟨n, hn⟩) hr hops ha hlive hold) rfl
    · exact exec_admin_ok (i := .framePolicy c) hopen rfl
        (framePolicy_ok (d := s.dev.fetched) (i := ⟨i, hi⟩) (p := ⟨p, hp⟩) hr hops ha hlive) rfl
    · obtain ⟨d, hexec, htaken, -⟩ := exec_frameMove (i := ⟨i, hi⟩) (p := ⟨p, hp'⟩) (b := BitVec.ofNat 64 b) hopen hr hp
        (by rw [toNat_ofNat64 (by omega)]; exact hb) hops ha hlive
      exact ⟨d, hexec, htaken⟩
  case frameQuery =>
    intro first count a hops hfit ha
    exact exec_admin_written (i := .frameQuery c) hopen rfl
      (frameQuery_ok (d := s.dev.fetched) hr hops hfit (by rw [toNat_ofNat64 (by omega)]; exact ha)) rfl
  case tierParams =>
    intro e p m w b g hops he he' hp hm hw hw' hb hg hg'
    exact exec_admin_ok (i := .tierParams c) hopen rfl (tierParams_ok (d := s.dev.fetched) hr hops he he' hp hm hw hw' hb hg hg') rfl
  case params =>
    intro n hops
    refine ⟨fun hlo hhi => ?_, fun hlo hhi => ?_⟩
    · obtain ⟨d, hexec, htaken, -⟩ := exec_caveParams hopen hr hlo hhi hops
      exact ⟨d, hexec, htaken⟩
    · obtain ⟨d, hexec, hdone, -⟩ := exec_brinePeriod hopen hr hlo hhi hops
      exact ⟨d, hexec, hdone⟩
  case records =>
    intro a ha hops
    exact ⟨exec_admin_written (i := .caveHealth c) hopen rfl (caveHealth_ok (d := s.dev.fetched) hr hops ha) rfl,
      exec_admin_written (i := .cohStats c) hopen rfl (cohStats_ok (d := s.dev.fetched) hr hops ha) rfl⟩
  case margin =>
    intro f k v a hops hf hk ha hright husable hnone
    obtain ⟨d, hexec, htaken, -⟩ := exec_hbmMargin_granted (f := ⟨f, hf⟩) (k := ⟨k, hk⟩) (v := v) (a := BitVec.ofNat 64 a) hopen hr hops
      (by rw [toNat_ofNat64 (by omega)]; exact ha) hright husable hnone
    exact ⟨d, hexec, htaken⟩

end Sys2Proof.Machine

/-!
How the package starts (chapter 19): what step 2 and step 4 of Table 19.1 leave, the images that are loaded, the memory that
trains, and the Cave that is mounted.
-/
namespace Sys2Proof.Machine

/-! ### Steps 2 to 4 (R563 to R565) -/

/-- The Rind as step 2 finds it: no session, no measurement, and the next co-signature key in force (R541, R546, R549). -/
def Sec.fresh (s : Sec) : Sec :=
  { s with
    nonce := none, session := none, hubHalted := [], mods := [{}, {}, {}]
    cosignHash := s.cosignNext.getD s.cosignHash, cosignNext := none, mrs := [0, 0, 0, 0], log := [] }

/-- The Cave's secret, kept or drawn anew (R368). -/
def Dev.caveSecret (d : Dev) : Dev :=
  if d.sec.life = .owned && d.sec.cave.isSome then d
  else { d with free := d.free + 1 }.modSec fun s => { s with cave := some (Config.entropy d.free) }

theorem Dev.caveSecret_only (d : Dev) : ∃ c n, d.caveSecret = { d with free := n, sec := { d.sec with cave := c } } := by
  unfold Dev.caveSecret
  split
  · exact ⟨d.sec.cave, d.free, rfl⟩
  · exact ⟨_, _, rfl⟩

theorem Dev.startUp_eq (d : Dev) (cause : Nat) (bs : BitVec 3) (st : BitVec 2) :
    d.startUp cause bs st =
      ((((d.modSec Sec.fresh).caveSecret.measure 0 0
        (fuseDigest (lifeCode (d.modSec Sec.fresh).caveSecret.sec.life) (d.modSec Sec.fresh).caveSecret.sec.svn)).modPower
          fun p => { p with pstate := .working }).modBoot
            fun b => { bsel := bs, cause := cause, perst := b.perst, smbus := 0x60 + st.toNat }) := rfl

/-- Step 2 reaches the Rind, the choices made so far, the power state and the boot record alone. -/
theorem Dev.startUp_only (d : Dev) (cause : Nat) (bs : BitVec 3) (st : BitVec 2) :
    ∃ y n, y.session = none ∧ y.owned = d.sec.owned ∧ y.svn = d.sec.svn ∧
      d.startUp cause bs st = { d with
        free := n, sec := y, power := { d.power with pstate := .working }
        boot := { bsel := bs, cause := cause, perst := d.boot.perst, smbus := 0x60 + st.toNat } } := by
  rw [Dev.startUp_eq]
  obtain ⟨c, n, hcave⟩ := (d.modSec Sec.fresh).caveSecret_only
  obtain ⟨l, m, hlog⟩ := (d.modSec Sec.fresh).caveSecret.measure_eq 0 0
    (fuseDigest (lifeCode (d.modSec Sec.fresh).caveSecret.sec.life) (d.modSec Sec.fresh).caveSecret.sec.svn)
  rw [hlog, hcave]
  exact ⟨{ d.sec.fresh with cave := c, log := l, mrs := m }, n, rfl, rfl, rfl, rfl⟩

theorem foldDev_setDom_only (x : DomSt) (l : List Nat) (d : Dev) :
    ∃ t, foldDev d l (fun d n => d.setDom n x) = { d with power := { d.power with dom := t } } :=
  foldDev_keeps (fun e => ∃ t, e = { d with power := { d.power with dom := t } })
    (fun _ n ⟨t, he⟩ => ⟨tput t n x, he ▸ rfl⟩) l ⟨d.power.dom, rfl⟩

/-- The end of step 3 and step 4, once PERST_N is released (R489, R595). -/
theorem Dev.step4_go {d : Dev} (hw : d.boot.waitPerst = true) (hp : d.boot.perst = false) (ht : d.power.thermtrip = false)
    (hv : d.power.vinOk = true) (hc : d.power.pstate ≠ .cold) :
    ∃ t, d.step4 = { d with
      count := ⟨0, 0⟩, power := { d.power with dom := t }, out := d.out ++ [.fspiReset]
      boot := { d.boot with waitPerst := false, st := afterStep4 d.boot.bsel } } := by
  obtain ⟨t, ht'⟩ := foldDev_setDom_only .on [0, 2, 40, 41, 43, 55] { d with count := ⟨0, 0⟩ }
  refine ⟨t, ?_⟩
  unfold Dev.step4
  dsimp only
  rw [if_pos (by simp [hw, hp, ht, hv, hc]), ht']
  rfl

theorem Dev.step4_stay {d : Dev} (h : d.boot.waitPerst = false ∨ d.boot.perst = true) : d.step4 = d := by
  unfold Dev.step4
  dsimp only
  exact if_neg (by rcases h with h | h <;> simp [h])

/-- Step 4 reaches the counts, the domains, the boot record and the pins alone, and selects no other start. -/
theorem Dev.step4_only (d : Dev) :
    ∃ n t o b, b.perst = d.boot.perst ∧ b.bsel = d.boot.bsel ∧ b.cause = d.boot.cause ∧ b.smbus = d.boot.smbus ∧
      d.step4 = { d with count := n, power := { d.power with dom := t }, out := o, boot := b } := by
  unfold Dev.step4
  dsimp only
  split
  · obtain ⟨t, ht⟩ := foldDev_setDom_only .on [0, 2, 40, 41, 43, 55] { d with count := ⟨0, 0⟩ }
    rw [ht]
    refine ⟨_, t, _, _, ?_, ?_, ?_, ?_, rfl⟩ <;> rfl
  · exact ⟨d.count, d.power.dom, d.out, d.boot, rfl, rfl, rfl, rfl, rfl⟩

/-- VIN52 returns: a start with no cause but the supply (R563). -/
theorem vinRise_starts {d : Dev} (hv : d.power.vinOk = false) (bs : BitVec 3) (st : BitVec 2) :
    ∃ e, vinRise d bs st = e ∧ e.power.vinOk = true ∧ e.power.pstate = .working ∧ e.boot.bsel = bs ∧
      e.boot.smbus = 0x60 + st.toNat ∧ e.boot.cause = 0 ∧ e.sec.session = none ∧
      (d.boot.perst = true → e.boot.waitPerst = true) := by
  refine ⟨_, rfl, ?_⟩
  have hrise : vinRise d bs st =
      ((d.modPower fun p => { vin := p.vin, iin := p.iin, dom := allGated }).startUp 0 bs st).step4 := by
    unfold vinRise
    rw [if_neg (by simp [hv])]
  obtain ⟨y, n, hses, -, -, hstart⟩ := (d.modPower fun p => { vin := p.vin, iin := p.iin, dom := allGated }).startUp_only 0 bs st
  rw [hrise, hstart]
  set e : Dev := { (d.modPower fun p => { vin := p.vin, iin := p.iin, dom := allGated }) with
    free := n, sec := y, power := _, boot := _ } with he
  have hperst : d.boot.perst = true → e.step4 = e := fun hp => Dev.step4_stay (.inr hp)
  obtain ⟨c, t, o, b, -, hbs, hca, hsm, hstep⟩ := e.step4_only
  refine ⟨by rw [hstep]; rfl, by rw [hstep], by rw [hstep]; exact hbs, by rw [hstep]; exact hsm, by rw [hstep]; exact hca,
    by rw [hstep]; exact hses, fun hp => by rw [hperst hp]⟩

/-! ### Images (R568 to R571) -/

theorem Dev.measureImage_only (d : Dev) (dg : BitVec 512) :
    ∃ l m, d.measureImage dg = { d with sec := { d.sec with log := l, mrs := m } } := by
  unfold Dev.measureImage
  obtain ⟨l, m, hone⟩ := d.measure_eq 1 1 dg
  dsimp only
  rw [hone]
  split
  · exact ⟨l, m, rfl⟩
  · obtain ⟨l', m', htwo⟩ := Dev.measure_eq { d with sec := { d.sec with log := l, mrs := m } } 1 2
      (Config.shake512 (numBytes 32 ({ d with sec := { d.sec with log := l, mrs := m } } : Dev).sec.cosignHash.toNat))
    exact ⟨l', m', htwo⟩

theorem imageLoad_ok {d : Dev} {img : ImageIn} {v : Word × BitVec 8} (hst : d.boot.st = .load) (h : d.checkImage img = .ok v) :
    imageLoad d img = ((d.wr (vatOff 0) (img.header ++ img.body)).measureImage (imageDigest img)).runImage v := by
  have hck : (d.wr (vatOff 0) (img.header ++ img.body)).checkImage img = .ok v := h
  unfold imageLoad
  rw [if_neg (by simp [hst])]
  dsimp only
  rw [hck]

theorem imageLoad_error {d : Dev} {img : ImageIn} {n : Nat} (hst : d.boot.st = .load) (h : d.checkImage img = .error n) :
    imageLoad d img = (d.wr (vatOff 0) (img.header ++ img.body)).toRecovery n := by
  have hck : (d.wr (vatOff 0) (img.header ++ img.body)).checkImage img = .error n := h
  unfold imageLoad
  rw [if_neg (by simp [hst])]
  dsimp only
  rw [hck]

theorem Dev.recover_ok {d : Dev} {img : ImageIn} {v : Word × BitVec 8} (h : d.checkImage img = .ok v) :
    d.recover img = ((d.measureImage (imageDigest img)).modBoot fun b =>
      { b with st := .program, reason := 0, goSet := true, img := some v }).emit (.spi true) := by
  unfold Dev.recover
  rw [h]

theorem pldmUpdate_ok {d : Dev} {img : ImageIn} {v : Word × BitVec 8} (hst : d.boot.st = .ready)
    (hps : d.power.pstate = .working) (hup : d.boot.update = false) (h : d.checkImage img = .ok v) :
    pldmUpdate d img = (((d.modBoot fun b => { b with update := true }).wakeDom 55).emit (.spi true)).pldm 100 0 := by
  unfold pldmUpdate
  rw [if_neg (by simp [hst]), if_pos (by simp [hst, hps, hup]), h]

/-! ### Training (R566, R575) -/

/-- What training leaves for the Cave's mount or for READY. -/
def Dev.Trains (w e : BitVec 6) (d d' : Dev) : Prop :=
  d'.hbm.half.w.usable = w ∧ d'.hbm.half.e.usable = e ∧ d'.tiers.frames = [] ∧ d'.boot.bsel = d.boot.bsel ∧ d'.mem = d.mem ∧
    d'.poison = d.poison ∧ d'.sec = d.sec

/-- What setting one domain keeps, setting them all keeps. -/
theorem Dev.mapDoms_keeps (P : Dev → Prop) (hset : ∀ (e : Dev) n x, P e → P (e.setDom n x)) (f : Nat → DomSt → DomSt) {d : Dev}
    (h : P d) : P (d.mapDoms f) := by
  refine foldDev_keeps P (fun e n he => ?_) _ h
  dsimp only
  split
  · exact he
  · exact hset e n _ he

theorem Dev.applyRepairs_only (d : Dev) : ∃ h f, d.applyRepairs = { d with hbm := h, faults := f } := ⟨_, _, rfl⟩

theorem Dev.trained_trains (d : Dev) (w e : BitVec 6) (ddr : BitVec 8) (gb : Nat) : d.Trains w e (d.trained w e ddr gb) := by
  unfold Dev.trained
  refine Dev.mapDoms_keeps (d.Trains w e) (fun _ _ _ h => h) _ ?_
  obtain ⟨h, f, hrep⟩ := d.applyRepairs_only
  rw [hrep]
  simp only [Dev.modHbm, Dev.modTiers, Dev.modBoot, Dev.modPower]
  exact ⟨rfl, rfl, rfl, rfl, rfl, rfl, rfl⟩

/-- The West Vat reads zero once it is cleared, whether or not an interrupted RETURN zeroes the rest. -/
theorem Dev.cleared_vat (d : Dev) {a : Nat} (hlo : vatOff 0 ≤ a) (hhi : a < vatOff 0 + vatSize) : cellGet d.cleared.mem a = 0 := by
  unfold Dev.cleared
  dsimp only
  split
  · rfl
  · exact cellGet_cellsClear_in hlo hhi

theorem Dev.cleared_only (d : Dev) : ∃ m p y, d.cleared = { d with mem := m, poison := p, sec := y } := by
  unfold Dev.cleared
  dsimp only
  split
  · exact ⟨_, _, _, rfl⟩
  · exact ⟨_, _, _, rfl⟩

/-- READY is one event and a boot state (R575). -/
theorem Dev.becomeReady_eq (d : Dev) :
    ∃ e : Event, e.kind = 18 ∧ e.a0 = d.boot.fwver ∧ d.becomeReady = (d.modBoot fun b => { b with st := .ready }).raise e := by
  refine ⟨_, ?_, ?_, rfl⟩
  · rfl
  · simp only [evt, Dev.modBoot, BitVec.ofNat_toNat, BitVec.setWidth_eq]

theorem memoryTraining_few {d : Dev} {w e : BitVec 6} (ddr : BitVec 8) (gb : Nat) (hst : d.boot.st = .train)
    (h : popCount (w &&& ~~~(d.badStacks .west)).toNat 6 < 5) : memoryTraining d w e ddr gb = d.startFailed 8 := by
  unfold memoryTraining
  dsimp only
  rw [if_neg (by simp [hst]), if_pos (by rw [Bool.or_eq_true]; exact .inl (decide_eq_true h))]

theorem memoryTraining_ok {d : Dev} {w e : BitVec 6} {ddr : BitVec 8} (gb : Nat) (hst : d.boot.st = .train)
    (hw : 5 ≤ popCount (w &&& ~~~(d.badStacks .west)).toNat 6) (he : 5 ≤ popCount (e &&& ~~~(d.badStacks .east)).toNat 6)
    (hd : 1 ≤ popCount ddr.toNat 8) :
    memoryTraining d w e ddr gb =
      let x := (d.trained (w &&& ~~~(d.badStacks .west)) (e &&& ~~~(d.badStacks .east)) ddr gb).cleared
      if x.boot.bsel.toNat = 3 then x.becomeReady else x.modBoot (fun b => { b with st := .mount }) := by
  unfold memoryTraining
  dsimp only
  rw [if_neg (by simp [hst]), if_neg (by rw [Bool.or_eq_true, decide_eq_true_eq, decide_eq_true_eq]; omega), if_neg (by omega)]

/-- A training that ends well (R566, R575). -/
theorem memoryTraining_trains {d : Dev} {w e : BitVec 6} {ddr : BitVec 8} (gb : Nat) (hst : d.boot.st = .train)
    (hw : 5 ≤ popCount (w &&& ~~~(d.badStacks .west)).toNat 6) (he : 5 ≤ popCount (e &&& ~~~(d.badStacks .east)).toNat 6)
    (hd : 1 ≤ popCount ddr.toNat 8) {r : Dev} (hr : memoryTraining d w e ddr gb = r) :
    r.hbm.half.w.usable = w &&& ~~~(d.badStacks .west) ∧ r.hbm.half.e.usable = e &&& ~~~(d.badStacks .east) ∧
      r.tiers.frames = [] ∧ (d.boot.bsel ≠ 3 → r.boot.st = .mount) ∧ (d.boot.bsel = 3 → r.boot.st = .ready) ∧
      ∀ a, vatOff 0 ≤ a → a < vatOff 0 + vatSize → cellGet r.mem a = 0 := by
  rw [memoryTraining_ok gb hst hw he hd] at hr
  obtain ⟨huw, hue, hfr, hbs, -, -, -⟩ := d.trained_trains (w &&& ~~~(d.badStacks .west)) (e &&& ~~~(d.badStacks .east)) ddr gb
  generalize d.trained (w &&& ~~~(d.badStacks .west)) (e &&& ~~~(d.badStacks .east)) ddr gb = x at *
  have hvat : ∀ a, vatOff 0 ≤ a → a < vatOff 0 + vatSize → cellGet x.cleared.mem a = 0 := fun a => x.cleared_vat
  obtain ⟨m, p, y, hx⟩ := x.cleared_only
  rw [hx] at hr hvat
  dsimp only at hr
  rw [hbs] at hr
  have hbsel : d.boot.bsel = 3 ↔ d.boot.bsel.toNat = 3 := by
    rw [← BitVec.toNat_inj]
    rfl
  by_cases hthree : d.boot.bsel.toNat = 3
  · rw [if_pos hthree] at hr
    obtain ⟨ev, -, -, hready⟩ := Dev.becomeReady_eq { x with mem := m, poison := p, sec := y }
    rw [hready] at hr
    subst hr
    exact ⟨huw, hue, hfr, fun hn => absurd (hbsel.2 hthree) hn, fun _ => rfl, hvat⟩
  · rw [if_neg hthree] at hr
    subst hr
    exact ⟨huw, hue, hfr, fun _ => rfl, fun hy => absurd (hbsel.1 hy) hthree, hvat⟩

/-! ### The Cave's mount (R359, R575) -/

/-- The Cave as the mount finds it, before its state is decided. -/
def Cave.mounted (c : Cave) (pop : List (List CavePart)) (factory : List Nat) (spare : Nat) (key : Option (BitVec 512)) : Cave :=
  { c with
    pop := cavePop pop, factory := factory, spare := spare, staged := [], badUnits := [], rebuilt := 0, lost := 0, rdReloc := 0
    map := [], cws := [], stripes := [], open_ := [], points := [], moving := [], key := key }

/-- The state that the mount gives the Cave. -/
def Cave.mountSt (c : Cave) : CaveSt := if c.pop.isNone || c.channels.isEmpty then .absent else caveNow { c with st := .normal }

theorem caveMount_eq {d : Dev} {pop : List (List CavePart)} {factory : List Nat} {spare : Nat} (hst : d.boot.st = .mount) :
    ∃ key, caveMount d pop factory spare =
      let c := d.cave.mounted pop factory spare key
      let x := d.modCave fun _ => c
      ((if c.mountSt = .absent then x else (x.setDom 53 .on).setDom 54 .on).setCave c.mountSt).becomeReady := by
  refine ⟨d.sec.cave.map Config.kmacCave, ?_⟩
  unfold caveMount
  rw [if_neg (by simp [hst])]
  rfl

/-- The Cave's state is set, with an event when it is new (R364). -/
theorem Dev.setCave_only (d : Dev) (st : CaveSt) :
    ∃ x, d.setCave st = { d with cave := { d.cave with st := st }, host := x } ∧ (d.cave.st = st → x = d.host) := by
  unfold Dev.setCave
  split
  · next h => exact ⟨d.host, by rw [← h], fun _ => rfl⟩
  · next h => exact ⟨_, rfl, fun e => absurd e h⟩

theorem caveNow_normal_ne_absent (c : Cave) : caveNow { c with st := .normal } ≠ .absent := by
  unfold caveNow
  rw [if_neg (by simp)]
  split
  · simp
  · split <;> simp

/-- The last steps of a mount: the Cave's state, and READY with its event. -/
theorem Dev.setCave_becomeReady (d : Dev) (st : CaveSt) :
    ∃ x, (d.setCave st).becomeReady = { d with cave := { d.cave with st := st }, host := x, boot := { d.boot with st := .ready } } ∧
      (d.cave.st = st → d.host.canHold = true → ∃ e, x.evtQ = d.host.evtQ ++ [e] ∧ e.kind = 18 ∧ e.a0 = d.boot.fwver) := by
  obtain ⟨x, hset, hsame⟩ := d.setCave_only st
  rw [hset]
  obtain ⟨e, hkind, ha0, hready⟩ := Dev.becomeReady_eq { d with cave := { d.cave with st := st }, host := x }
  rw [hready]
  refine ⟨_, Dev.raise_only _ e |>.symm, fun hold hcan => ?_⟩
  obtain rfl := hsame hold
  exact ⟨_, congrArg HostIf.evtQ (Dev.raise_held (Dev.modBoot { d with cave := { d.cave with st := st }, host := d.host }
    fun b => { b with st := .ready }) e (.inl hcan)), hkind, ha0⟩

/-- What the mount leaves, whatever state it gives the Cave. -/
theorem caveMount_mounted {d : Dev} {pop : List (List CavePart)} {factory : List Nat} {spare : Nat} (hst : d.boot.st = .mount)
    {r : Dev} (hr : caveMount d pop factory spare = r) :
    ∃ key, r.cave = { d.cave.mounted pop factory spare key with st := (d.cave.mounted pop factory spare key).mountSt } ∧
      r.boot = { d.boot with st := .ready } ∧ r.mem = d.mem ∧ r.tiers = d.tiers ∧
      ((d.cave.mounted pop factory spare key).mountSt ≠ .absent → r.domSt 53 = .on ∧ r.domSt 54 = .on) ∧
      ((d.cave.mounted pop factory spare key).mountSt = .absent → d.cave.st = .absent → d.host.canHold = true →
        ∃ e, r.host.evtQ = d.host.evtQ ++ [e] ∧ e.kind = 18 ∧ e.a0 = d.boot.fwver) := by
  obtain ⟨key, hmount⟩ := caveMount_eq (pop := pop) (factory := factory) (spare := spare) hst
  rw [hmount] at hr
  dsimp only at hr
  refine ⟨key, ?_⟩
  have hold : (d.cave.mounted pop factory spare key).st = d.cave.st := rfl
  generalize d.cave.mounted pop factory spare key = c at *
  by_cases habs : c.mountSt = .absent
  · rw [if_pos habs] at hr
    obtain ⟨x, hready, hevt⟩ := (d.modCave fun _ => c).setCave_becomeReady c.mountSt
    rw [hready] at hr
    subst hr
    exact ⟨rfl, rfl, rfl, rfl, fun hn => absurd habs hn, fun _ hst' hcan => hevt ((hold.trans hst').trans habs.symm) hcan⟩
  · rw [if_neg habs] at hr
    have hon : (((d.modCave fun _ => c).setDom 53 .on).setDom 54 .on).domSt 53 = .on :=
      (Dev.domSt_setDom_ne ((d.modCave fun _ => c).setDom 53 .on) .on (by decide)).trans (Dev.domSt_setDom_self _ _ _)
    have hon' : (((d.modCave fun _ => c).setDom 53 .on).setDom 54 .on).domSt 54 = .on := Dev.domSt_setDom_self _ _ _
    obtain ⟨x, hready, -⟩ := (((d.modCave fun _ => c).setDom 53 .on).setDom 54 .on).setCave_becomeReady c.mountSt
    rw [hready] at hr
    subst hr
    exact ⟨rfl, rfl, rfl, rfl, fun _ => ⟨hon, hon'⟩, fun hy => absurd hy habs⟩

/-! ### The obligation -/

theorem perstAssert_starts {d : Dev} (hp : d.boot.perst = false) (hv : d.power.vinOk = true) (hc : d.power.pstate ≠ .cold)
    (hw : d.boot.waitPerst = false) (bs : BitVec 3) (st : BitVec 2) :
    perstAssert d bs st = (d.wipe.modBoot fun b => { b with perst := true }).startUp 2 bs st := by
  unfold perstAssert
  dsimp only
  rw [if_neg (by simp [hp]), if_neg (by simp [hv, hc, hw])]

theorem perstDeassert_releases {d : Dev} (hp : d.boot.perst = true) (hc : d.power.pstate ≠ .cold) :
    perstDeassert d =
      ((d.modBoot fun b => { b with perst := false }).modSec fun s => { s with driven := [] }).step4 := by
  unfold perstDeassert
  rw [if_neg (by simp [hp, hc])]

theorem spiDone_ok {d : Dev} {v : Word × BitVec 8} (hst : d.boot.st = .program) (himg : d.boot.img = some v) :
    spiDone d true = (d.runImage v).pldm 101 0 := by
  unfold spiDone
  dsimp only
  rw [if_pos hst, himg]
  rfl

theorem spiDone_failed {d : Dev} (hst : d.boot.st = .program) : spiDone d false = (d.toRecovery 6).pldm 101 6 := by
  unfold spiDone
  dsimp only
  rw [if_pos hst]
  rfl

/-- Settles O45: every start-up command by the equation of its function, in the order of Table 19.1. -/
theorem startUpReachesReady : Obligations.StartUpReachesReady := by
  unfold Obligations.StartUpReachesReady
  intro s
  refine ⟨?vin, ?assert, ?deassert, ?link, ?load, ?go, ?update, ?activate, ?spi, ?train, ?mount, ?event, ?sensor⟩
  case vin =>
    intro bs st hv
    obtain ⟨e, he, hrest⟩ := vinRise_starts hv bs st
    exact ⟨e, exec_onDev (f := fun d => vinRise d bs st) rfl he, hrest⟩
  case assert =>
    intro bs st hp hv hc hw
    obtain ⟨y, n, hses, hown, hsvn, hstart⟩ := (s.dev.wipe.modBoot fun b => { b with perst := true }).startUp_only 2 bs st
    refine ⟨_, exec_onDev (f := fun d => perstAssert d bs st) rfl ((perstAssert_starts hp hv hc hw bs st).trans hstart), ?_⟩
    exact ⟨rfl, rfl, rfl, rfl, rfl, rfl, rfl, hown, hsvn, hses⟩
  case deassert =>
    intro hp hv hc
    refine ⟨_, exec_onDev (f := perstDeassert) rfl (perstDeassert_releases hp hc), ?_⟩
    obtain ⟨n, t, o, b, hb, -, -, -, hstep⟩ :=
      ((s.dev.modBoot fun b => { b with perst := false }).modSec fun s => { s with driven := [] }).step4_only
    refine ⟨by rw [hstep]; exact hb, by rw [hstep]; rfl, by rw [hstep]; rfl, fun hw ht => ?_⟩
    obtain ⟨t, hgo⟩ := Dev.step4_go
      (d := (s.dev.modBoot fun b => { b with perst := false }).modSec fun s => { s with driven := [] }) hw rfl ht hv hc
    rw [hgo]
    exact ⟨rfl, rfl, rfl⟩
  case link =>
    intro hw hp hc hv
    refine ⟨s.dev.modHost fun h => { h with linkUp := true }, exec_onDev (f := fun d =>
      if d.boot.waitPerst || d.boot.perst || d.power.pstate = .cold || !d.power.vinOk then d
      else d.modHost (fun h => { h with linkUp := true })) rfl (if_neg (by simp [hw, hp, hc, hv])), rfl, rfl⟩
  case load =>
    intro img hst
    refine ⟨fun v hv => ?_, fun n hn => ?_⟩
    · refine ⟨_, exec_onDev (f := fun d => imageLoad d img) rfl (imageLoad_ok hst hv), ?_⟩
      obtain ⟨l, m, hlog⟩ := (s.dev.wr (vatOff 0) (img.header ++ img.body)).measureImage_only (imageDigest img)
      rw [hlog]
      exact ⟨rfl, rfl, rfl, rfl⟩
    · exact ⟨_, exec_onDev (f := fun d => imageLoad d img) rfl (imageLoad_error hst hn), rfl, rfl, rfl⟩
  case go =>
    intro v hst hup hv
    refine ⟨_, exec_onDev (f := recoveryGo) rfl ((if_pos (by simp [hst, hup])).trans (Dev.recover_ok hv)), ?_⟩
    obtain ⟨l, m, hlog⟩ := s.dev.measureImage_only (imageDigest s.dev.deliveredImage)
    rw [hlog]
    exact ⟨rfl, rfl, rfl, rfl, rfl⟩
  case update =>
    intro img v hst hps hup hv
    refine ⟨_, exec_onDev (f := fun d => pldmUpdate d img) rfl (pldmUpdate_ok hst hps hup hv), ?_⟩
    obtain ⟨p, hwake⟩ := (s.dev.modBoot fun b => { b with update := true }).wakeDom_only 55
    rw [hwake]
    exact ⟨rfl, List.append_assoc s.dev.out [.spi true] [.pldm 100 0], rfl, rfl⟩
  case activate =>
    intro sc hst
    refine ⟨s.dev.pldm 102 (if sc then 1 else 0), exec_onDev (f := fun d => activate d sc) rfl ?_, rfl, rfl⟩
    unfold activate
    dsimp only
    rw [if_pos (by simp [hst])]
    cases sc <;> rfl
  case spi =>
    intro v hst himg
    exact ⟨⟨_, exec_onDev (f := fun d => spiDone d true) rfl (spiDone_ok hst himg), rfl, rfl, rfl⟩,
      ⟨_, exec_onDev (f := fun d => spiDone d false) rfl (spiDone_failed hst), rfl, rfl⟩⟩
  case train =>
    intro w e ddr gb hst
    refine ⟨fun hw he hd _ => ?_, fun hw => ?_⟩
    · exact ⟨_, exec_onDev (f := fun d => memoryTraining d w e ddr gb) rfl rfl, memoryTraining_trains gb hst hw he hd rfl⟩
    · exact ⟨_, exec_onDev (f := fun d => memoryTraining d w e ddr gb) rfl (memoryTraining_few ddr gb hst hw), rfl, rfl, rfl⟩
  case mount =>
    intro pop factory spare hst
    refine ⟨_, exec_onDev (f := fun d => caveMount d pop factory spare) rfl rfl, ?_⟩
    obtain ⟨key, hcave, hboot, hmem, htiers, hdom, hevt⟩ := caveMount_mounted (pop := pop) (factory := factory) (spare := spare) hst rfl
    generalize caveMount s.dev pop factory spare = r at *
    refine ⟨by rw [hboot], by rw [hcave]; rfl, by rw [hcave]; rfl, by rw [hcave]; rfl, by rw [hcave]; rfl, by rw [hcave]; rfl,
      by rw [hcave]; rfl, by rw [hcave]; rfl, by rw [hcave]; rfl, hmem, htiers, fun hpop hch => ?_, fun hpop => ?_⟩
    · have hst' : (s.dev.cave.mounted pop factory spare key).mountSt =
          caveNow { s.dev.cave.mounted pop factory spare key with st := .normal } := by
        rw [hcave] at hch
        unfold Cave.mountSt
        refine if_neg ?_
        rw [Bool.or_eq_true, not_or]
        refine ⟨?_, fun hemp => hch (List.isEmpty_iff.1 hemp)⟩
        rw [Bool.not_eq_true, Option.isNone_eq_false_iff]
        exact hpop
      refine ⟨by rw [hcave]; exact hst', hdom ?_⟩
      rw [hst']
      exact caveNow_normal_ne_absent _
    · have hst' : (s.dev.cave.mounted pop factory spare key).mountSt = .absent :=
        if_pos (by rw [Bool.or_eq_true]; exact .inl (Option.isNone_iff_eq_none.2 hpop))
      exact ⟨by rw [hcave]; exact hst', hevt hst'⟩
  case event =>
    intro hpl
    exact ⟨_, exec_onDev (f := fun d =>
      if d.boot.platform = 0 then d else (d.modBoot (fun b => { b with platform := b.platform - 1 })).pldm 200 1) rfl (if_neg hpl), rfl, rfl⟩
  case sensor =>
    intro k hv
    exact ⟨_, exec_onDev (f := fun d => if d.power.vinOk then d.pldm k.val (d.sensor k.val) else d) rfl (if_pos hv), rfl, rfl⟩

end Sys2Proof.Machine

/-!
Supply, clocks, budgets, domains and package states (chapter 16): what each sample, grant and transition leaves.
-/
namespace Sys2Proof.Machine

/-! ### Supply (R485 to R487) -/

theorem Dev.notePlatform_only (d : Dev) (old new : Int) (ths : List Int) :
    ∃ b, d.notePlatform old new ths = { d with boot := b } := ⟨_, rfl⟩

/-- What a sample leaves in the record of the supply. -/
def Power.sampled (p : Power) (v i : Nat) : Power :=
  { p with
    vin := v, iin := i, vinHist := ((v, i) :: p.vinHist).take 100
    vinLow := if decide (v < 4300) then p.vinLow + 1 else 0, vinDead := if decide (v < 4000) then p.vinDead + 1 else 0
    vinHigh := if decide (5800 < v) then p.vinHigh + 1 else 0 }

theorem vinSample_eq {d : Dev} (hv : d.power.vinOk = true) (v i : Nat) :
    ∃ b, vinSample d v i =
      let e : Dev := { d with power := d.power.sampled v i, boot := b }
      if 6200 < v || e.power.vinDead = 10 then e.powerLost
      else if e.power.vinLow = 10 then e.raise (powEvt 2 0 v 0 .hub)
      else if e.power.vinHigh = 10 then e.raise (powEvt 2 0 v 1 .hub)
      else e := by
  obtain ⟨b, hnote⟩ := d.notePlatform_only d.power.vin v [5800, 6200]
  refine ⟨b, ?_⟩
  unfold vinSample
  dsimp only
  rw [if_neg (by simp [hv]), hnote]
  rfl

/-- Loss of the supply keeps what the fuses hold (R538, R549). -/
theorem Dev.powerLost_keeps (d : Dev) :
    d.powerLost.power.vinOk = false ∧ d.powerLost.mem = [] ∧ d.powerLost.hubCount = 0 ∧ d.powerLost.sec.owned = d.sec.owned ∧
      d.powerLost.sec.svn = d.sec.svn := ⟨rfl, rfl, rfl, rfl, rfl⟩

theorem oscSwitch_eq {d : Dev} {b : Bool} (hne : d.power.intOsc ≠ b) (hv : d.power.vinOk = true) :
    oscSwitch d b = (d.modPower fun p => { p with intOsc := b }).raise (powEvt 4 0 (b2n b) 0 .hub) :=
  if_neg (by simp [hne, hv])

/-! ### Budgets (R501 to R504) -/

/-- An awake half has at least 120 W, and at most its part of the remainder above that (R502). -/
theorem le_budget (rem sum dem cut : Nat) : 120 ≤ budget true rem sum dem cut := Nat.le_max_left _ _

theorem budget_le (rem sum dem cut : Nat) : budget true rem sum dem cut ≤ 120 + (if sum = 0 then 0 else rem * dem / sum) := by
  unfold budget
  dsimp only
  rw [if_pos rfl]
  refine Nat.max_le.2 ⟨Nat.le_add_right _ _, ?_⟩
  have hmin : ∀ a b c : Nat, min a b * (10 - c) / 10 ≤ a := fun a b c => by
    have h : min a b * (10 - c) ≤ a * 10 := Nat.mul_le_mul (Nat.min_le_left _ _) (Nat.sub_le _ _)
    omega
  exact hmin _ _ _

/-- The two parts of a remainder are no more than it. -/
theorem parts_le (rem w e : Nat) :
    (if w + e = 0 then 0 else rem * w / (w + e)) + (if w + e = 0 then 0 else rem * e / (w + e)) ≤ rem := by
  split
  · exact Nat.zero_le _
  · next h =>
    calc rem * w / (w + e) + rem * e / (w + e) ≤ (rem * w + rem * e) / (w + e) := Nat.div_add_div_le_add_div
      _ = rem := by rw [← Nat.mul_add, Nat.mul_div_cancel _ (Nat.pos_of_ne_zero h)]

/-- Steps of the clocks leave the grants alone. -/
def Power.SameGrants (p q : Power) : Prop := q.grant = p.grant ∧ q.grantSeq = p.grantSeq ∧ q.lapsed = p.lapsed

theorem Power.stepDown_sameGrants (p : Power) (h : Half) : p.SameGrants (p.stepDown h) := by
  unfold Power.stepDown
  split
  · exact ⟨rfl, rfl, rfl⟩
  · split <;> exact ⟨rfl, rfl, rfl⟩

theorem Power.stepUp_sameGrants (p : Power) (h : Half) : p.SameGrants (p.stepUp h) := by
  unfold Power.stepUp
  dsimp only
  split
  · exact ⟨rfl, rfl, rfl⟩
  · split <;> exact ⟨rfl, rfl, rfl⟩

theorem stepsOf_sameGrants {f : Power → Power} (hf : ∀ p, Power.SameGrants p (f p)) (n : Nat) (p : Power) : p.SameGrants (stepsOf f n p) := by
  induction n generalizing p with
  | zero => exact ⟨rfl, rfl, rfl⟩
  | succ n ih =>
    obtain ⟨h1, h2, h3⟩ := hf p
    obtain ⟨k1, k2, k3⟩ := ih (f p)
    exact ⟨k1.trans h1, k2.trans h2, k3.trans h3⟩

/-- A half meets its grant with its clocks alone (R503). -/
theorem Dev.toGrant_only (d : Dev) (h : Half) (old : Nat) :
    ∃ p n, d.power.SameGrants p ∧ d.toGrant h old = { d with power := p, free := n } := by
  unfold Dev.toGrant Dev.draw
  dsimp only
  split
  · exact ⟨d.power, _, ⟨rfl, rfl, rfl⟩, rfl⟩
  · refine ⟨_, d.free + 1, ?_, rfl⟩
    refine stepsOf_sameGrants (fun p => ?_) _ _
    split
    · exact p.stepDown_sameGrants h
    · exact p.stepUp_sameGrants h

theorem powerDemand_eq {d : Dev} (w e hub : Nat) (hc : d.power.pstate ≠ .cold) (hv : d.power.vinOk = true)
    (hw : d.halfAwake .west = true) (he : d.halfAwake .east = true) :
    powerDemand d w e hub =
      let rem := d.power.limit - (hub * 105 + 99) / 100 - 240
      d.modPower fun p => { p with
        demand := ⟨w, e⟩, hubRes := (hub * 105 + 99) / 100, nextSeq := p.nextSeq + 1
        sent := p.sent ++ [(.west, p.nextSeq, budget true rem (w + e) w d.power.hubCut),
                           (.east, p.nextSeq, budget true rem (w + e) e d.power.hubCut)] } := by
  unfold powerDemand
  rw [if_neg (by simp [hc, hv]), hw, he]
  rfl

/-- The grants of one round stay within the limit (R501, R502). -/
theorem budgets_le {lim res : Nat} (w e cut : Nat) (h : res + 240 ≤ lim) :
    budget true (lim - res - 240) (w + e) w cut + budget true (lim - res - 240) (w + e) e cut + res ≤ lim := by
  have hw := budget_le (lim - res - 240) (w + e) w cut
  have he := budget_le (lim - res - 240) (w + e) e cut
  have hparts := parts_le (lim - res - 240) w e
  omega

/-- What a newer grant sets before its half meets it (R502, R503, R508). -/
def Power.granted (p : Power) (h : Half) (seq watts : Nat) : Power :=
  { p with
    grant := Two.set p.grant h watts, grantSeq := Two.set p.grantSeq h seq, lapsed := Two.set p.lapsed h false
    floorHold := Two.set p.floorHold h false, coreMax := Two.set p.coreMax h (Two.get p.coreSet h)
    coreMhz := Two.mod p.coreMhz h (fun l => l.mapIdx (fun i f => min f (lgetD (Two.get p.coreSet h) i 3200))) }

/-- The messages of Temper that are still under way, without one. -/
def Power.taken (p : Power) (m : Half × Nat × Nat) : Power := { p with sent := p.sent.filter (fun x => x != m) }

theorem powerGrant_new {d : Dev} {h : Half} {seq watts : Nat} (hm : (h, seq, watts) ∈ d.power.sent)
    (hseq : Two.get d.power.grantSeq h < seq) :
    powerGrant d h seq watts =
      { d with power := (d.power.taken (h, seq, watts)).granted h seq watts }.toGrant h (Two.get d.power.grant h) := by
  unfold powerGrant
  rw [if_neg (by simp [hm])]
  dsimp only
  exact if_neg (Nat.not_le.2 hseq)

theorem powerGrant_old {d : Dev} {h : Half} {seq watts : Nat} (hm : (h, seq, watts) ∈ d.power.sent)
    (hseq : seq ≤ Two.get d.power.grantSeq h) :
    powerGrant d h seq watts = { d with power := d.power.taken (h, seq, watts) } := by
  unfold powerGrant
  rw [if_neg (by simp [hm])]
  dsimp only
  exact if_pos hseq

theorem clockStep_next {old new lo hi : Nat} (hlo : lo ≤ new) (hhi : new ≤ hi) (h : new = old + 100 ∨ old = new + 100) :
    clockStep old new lo hi = true := by
  simp only [clockStep, hlo, hhi, decide_true, Bool.true_and, Bool.or_eq_true, beq_iff_eq]
  exact h

/-- A grant that has lapsed for its half (R504). -/
def Power.lapse (p : Power) (h : Half) : Power := { p with grant := Two.set p.grant h 120, lapsed := Two.set p.lapsed h true }

/-- Settles O37: each sample and grant by the equation of its function. -/
theorem supplyClocksAndBudgets : Obligations.SupplyClocksAndBudgets := by
  unfold Obligations.SupplyClocksAndBudgets
  intro s hv
  refine ⟨?inRange, ?high, ?current, ?fail, ?recover, ?clock, ?demand, ?grant, ?lapse⟩
  case inRange =>
    intro v i hlo hhi
    obtain ⟨b, hsample⟩ := vinSample_eq hv v i
    have hdead : (s.dev.power.sampled v i).vinDead = 0 := if_neg (by simp; omega)
    have hlow : (s.dev.power.sampled v i).vinLow = 0 := if_neg (by simp; omega)
    have hhigh : (s.dev.power.sampled v i).vinHigh = 0 := if_neg (by simp; omega)
    refine ⟨{ s.dev with power := s.dev.power.sampled v i, boot := b }, exec_onDev (f := fun d => vinSample d v i) rfl ?_,
      rfl, rfl, hv, rfl, rfl⟩
    rw [hsample]
    dsimp only
    rw [hdead, hlow, hhigh, if_neg (by simp; omega), if_neg (by omega), if_neg (by omega)]
  case high =>
    intro v i hlo
    obtain ⟨b, hsample⟩ := vinSample_eq hv v i
    refine ⟨({ s.dev with power := s.dev.power.sampled v i, boot := b } : Dev).powerLost,
      exec_onDev (f := fun d => vinSample d v i) rfl ?_, Dev.powerLost_keeps _⟩
    rw [hsample]
    exact if_pos (by simp [hlo])
  case current =>
    intro i hi
    refine ⟨(s.dev.modPower fun p => { p with floorHold := ⟨true, true⟩ }).raise (powEvt 3 0 i 0 .hub),
      exec_onDev (f := fun d => if i ≤ 4600 || !d.power.vinOk then d
        else (d.modPower (fun p => { p with floorHold := ⟨true, true⟩ })).raise (powEvt 3 0 i 0 .hub)) rfl
        (if_neg (by simp [hv]; omega)), fun h => ?_, fun h c => ?_, fun h g => ?_, rfl⟩
    · unfold Dev.anvClock
      exact if_pos (by cases h <;> simp [Dev.raise, Dev.modHost, Dev.modPower, Two.get])
    · unfold Dev.engClock
      exact if_pos (by cases h <;> simp [Dev.raise, Dev.modHost, Dev.modPower, Two.get])
    · unfold Dev.coreClock
      exact if_pos (by cases h <;> simp [Dev.raise, Dev.modHost, Dev.modPower, Two.get])
  case fail =>
    intro hosc
    exact ⟨_, exec_onDev (f := fun d => oscSwitch d true) rfl (oscSwitch_eq (by simp [hosc]) hv), rfl, rfl⟩
  case recover =>
    intro hosc
    exact ⟨_, exec_onDev (f := fun d => oscSwitch d false) rfl (oscSwitch_eq (by simp [hosc]) hv), rfl, rfl⟩
  case clock =>
    intro h mhz hps hlo hhi hstep
    refine ⟨s.dev.modPower fun p => { p with anvMhz := Two.set p.anvMhz h mhz },
      exec_onDev (f := fun d => clockChange d (.anvil h) mhz) rfl ?_, rfl, rfl⟩
    unfold clockChange
    dsimp only
    rw [if_neg (by simp [hps]), if_pos (clockStep_next hlo hhi hstep)]
  case demand =>
    intro w e hub hc hw he hlim
    exact ⟨_, _, _, exec_onDev (f := fun d => powerDemand d w e hub) rfl (powerDemand_eq w e hub hc hv hw he), rfl, rfl,
      le_budget _ _ _ _, le_budget _ _ _ _, budgets_le w e _ hlim, rfl⟩
  case grant =>
    intro h seq watts hm
    by_cases hseq : Two.get s.dev.power.grantSeq h < seq
    · obtain ⟨p, n, ⟨hgrant, hgs, hlapsed⟩, hto⟩ :=
        ({ s.dev with power := (s.dev.power.taken (h, seq, watts)).granted h seq watts } : Dev).toGrant_only h
          (Two.get s.dev.power.grant h)
      refine ⟨_, exec_onDev (f := fun d => powerGrant d h seq watts) rfl ((powerGrant_new hm hseq).trans hto),
        fun _ => ⟨?_, ?_, ?_⟩, fun hold => absurd hold (Nat.not_le.2 hseq), rfl⟩
      · rw [show Two.get p.grant h = _ from congrArg (Two.get · h) hgrant]
        exact Two.get_set_self _ _ _
      · rw [show Two.get p.grantSeq h = _ from congrArg (Two.get · h) hgs]
        exact Two.get_set_self _ _ _
      · rw [show Two.get p.lapsed h = _ from congrArg (Two.get · h) hlapsed]
        exact Two.get_set_self _ _ _
    · have hold : seq ≤ Two.get s.dev.power.grantSeq h := Nat.not_lt.1 hseq
      exact ⟨_, exec_onDev (f := fun d => powerGrant d h seq watts) rfl (powerGrant_old hm hold), fun hnew => absurd hnew hseq,
        fun _ => ⟨rfl, rfl, rfl, rfl, rfl⟩, rfl⟩
  case lapse =>
    intro h hl hc
    obtain ⟨p, n, ⟨hgrant, -, hlapsed⟩, hto⟩ :=
      ({ s.dev with power := s.dev.power.lapse h } : Dev).toGrant_only h (Two.get s.dev.power.grant h)
    refine ⟨({ s.dev with power := p, free := n } : Dev).raise (powEvt 5 0 (halfIdx h) 0 (dieOf h)),
      exec_onDev (f := fun d =>
        if Two.get d.power.lapsed h || d.power.pstate = .cold || !d.power.vinOk then d
        else
          let old := Two.get d.power.grant h
          let d := (d.modPower (fun p => { p with grant := Two.set p.grant h 120, lapsed := Two.set p.lapsed h true })).toGrant h old
          d.raise (powEvt 5 0 (halfIdx h) 0 (dieOf h))) rfl ?_, ?_, ?_, rfl⟩
    · dsimp only
      rw [if_neg (by simp [hl, hc, hv])]
      exact congrArg (Dev.raise · _) hto
    · exact (congrArg (Two.get · h) hgrant).trans (Two.get_set_self _ _ _)
    · exact (congrArg (Two.get · h) hlapsed).trans (Two.get_set_self _ _ _)

end Sys2Proof.Machine

/-!
Domains, junctions and package states (chapter 16).
-/
namespace Sys2Proof.Machine

/-! ### Domains (R491 to R496) -/

theorem Dev.domSt_of_power {d e : Dev} (h : d.power = e.power) (n : Nat) : d.domSt n = e.domSt n := by
  unfold Dev.domSt
  rw [h]

theorem Dev.evictAll_aside (d : Dev) (c : Fin 64) : (d.evictAll c).aside = d.aside :=
  foldDev_aside (fun e k => e.evictLine_aside c k) d _

/-- A core without lines has nothing to write back. -/
theorem Dev.evictAll_of_empty {d : Dev} {c : Fin 64} (h : (d.core c).lines = []) : d.evictAll c = d := by
  unfold Dev.evictAll
  rw [h]
  rfl

theorem foldDev_evictAll_of_empty {d : Dev} (h : ∀ c, (d.core c).lines = []) (l : List (Fin 64)) : foldDev d l Dev.evictAll = d := by
  induction l with
  | nil => rfl
  | cons c l ih =>
    show foldDev (d.evictAll c) l Dev.evictAll = d
    rw [Dev.evictAll_of_empty (h c), ih]

/-- The drain of one domain (R491, R495): a group's cores write their lines back. -/
theorem domainGate_eq {d : Dev} {n : Nat} (hp : d.power.pstate = .working) (hon : d.domSt n = .on) (hg : d.gateable n = true) :
    ∃ l, domainGate d n = foldDev (d.setDom n .draining) l Dev.evictAll := by
  unfold domainGate
  dsimp only
  rw [if_pos (by simp [hp, hon, hg])]
  split
  · split
    · exact ⟨_, rfl⟩
    · exact ⟨[], rfl⟩
  · exact ⟨[], rfl⟩

/-! #### What a quench does to the supply of domains: nothing -/

theorem Dev.contain_power (d : Dev) (silent selfQ : Bool) : (d.contain silent selfQ).power = d.power := by
  unfold Dev.contain
  extract_lets ids c c' d1 quiet d2 outs d3 d4 clr d5 d6 d7
  have h1 : d1.aside = d.aside := foldDev_aside (fun e g => by (repeat' split) <;> simp) d _
  clear_value d1
  have h3 : d3.aside = d2.aside := foldDev_aside (fun e r => e.freeRange_aside _ _) d2 _
  have h7 : d7.power = d.power := Dev.power_of_aside ((h3.trans rfl).trans h1)
  exact h7

theorem Dev.fence_power (d : Dev) (u : UnitId) : (d.fence u).power = d.power := by
  unfold Dev.fence
  extract_lets as_ sent gone d1 d2 d3
  have h1 : d1.aside = d.aside := foldDev_aside (fun e a => by split <;> simp [Dev.resetCore]) d _
  have h3 : d3.power = d.power := Dev.power_of_aside h1
  exact h3

theorem Dev.retireUnit_power (d : Dev) (u : UnitId) (why : Nat) : (d.retireUnit u why).power = d.power := by
  unfold Dev.retireUnit
  split
  · rfl
  · dsimp only
    split <;> rfl

theorem Dev.quench_power (d : Dev) (u : UnitId) (why : Nat) (test : Bool) : (d.quench u why test).power = d.power := by
  unfold Dev.quench
  dsimp only
  split
  · rfl
  · split
    · split
      · exact (Dev.contain_power _ _ _).trans (Dev.fence_power d u)
      · rw [Dev.contain_power, Dev.retireUnit_power]
        exact Dev.fence_power d u
    · rw [Dev.contain_power]
      exact Dev.fence_power d u

/-- A drain that has not finished leaves its domain quenched (R495). -/
theorem drainTimeout_domSt {d : Dev} {n : Nat} (h : d.domSt n = .draining) : (drainTimeout d n).domSt n = .quenched := by
  unfold drainTimeout
  rw [if_neg (by simp [h])]
  dsimp only
  generalize powEvt _ _ _ _ _ = e
  rw [Dev.domSt_of_power (e := ((d.setDom n .quenched).modPower fun p => { p with wakePend := p.wakePend.filter (· != n) }).raise e)]
  · exact Dev.domSt_setDom_self d n .quenched
  · refine foldDev_keeps (fun x => x.power = _) (fun x u hx => ?_) _ rfl
    split
    · exact (x.quench_power u 2 true).trans hx
    · exact hx

/-- What a domain without power takes with it (R492): its engines, its cores, or what its Vat had to clear. -/
def Dev.darken (d : Dev) (n : Nat) : Dev :=
  match pdHalf n with
  | some (h, k) =>
    if 5 ≤ k && k ≤ 12 then
      foldDev d allEngines (fun d e => if engHalf e == h && engIdx e / 8 == k - 5 && thas d.engines e.val then d.setEng e {} else d)
    else if 13 ≤ k && k ≤ 16 then foldDev d (groupHarts h (k - 13)) (fun d c => if thas d.cores c.val then d.resetCore c else d)
    else if k = 2 then d.vatDark h
    else d
  | none => d

theorem Dev.darken_keeps (d : Dev) (n : Nat) : (d.darken n).power = d.power ∧ (d.darken n).mem = d.mem := by
  unfold Dev.darken
  split
  · split
    · exact foldDev_keeps (fun x => x.power = d.power ∧ x.mem = d.mem) (fun x c hx => by split <;> exact hx) _ ⟨rfl, rfl⟩
    · split
      · exact foldDev_keeps (fun x => x.power = d.power ∧ x.mem = d.mem) (fun x c hx => by split <;> exact hx) _ ⟨rfl, rfl⟩
      · split <;> exact ⟨rfl, rfl⟩
  · exact ⟨rfl, rfl⟩

theorem domainPowerDownDone_eq {d : Dev} {n : Nat} (h : d.domSt n = .draining) (hdrained : d.drained n = true)
    (hwake : n ∉ d.power.wakePend) : domainPowerDownDone d n = (d.setDom n .gated).darken n := by
  have hdone : domainPowerDownDone d n =
      let e := (d.setDom n .gated).darken n
      if e.power.wakePend.contains n then (e.modPower fun p => { p with wakePend := p.wakePend.filter (· != n) }).wakeDom n
      else e := by
    unfold domainPowerDownDone
    rw [if_neg (by simp [h, hdrained])]
    rfl
  rw [hdone]
  dsimp only
  rw [if_neg (by rw [((d.setDom n .gated).darken_keeps n).1]; simpa [Dev.setDom, Dev.modPower] using hwake)]

theorem domainWake_gated {d : Dev} {n : Nat} (hp : d.power.pstate = .working) (hg : d.domSt n = .gated)
    (hr : d.domRetired n = false) (hw : d.boot.waitPerst = false) : domainWake d n = d.setDom n .waking := by
  unfold domainWake
  dsimp only
  rw [if_neg (by simp [hp, hr, hw])]
  unfold Dev.wakeDom
  rw [hg]

theorem pdHalf_pdVat (h : Half) : pdHalf (pdVat h) = some (h, 2) := by cases h <;> rfl

/-- A Vat that wakes reads zero (R492). -/
theorem domainWakeDone_vat {d : Dev} {h : Half} (hw : d.domSt (pdVat h) = .waking) (hsteps : d.sched.steps = []) :
    domainWakeDone d (pdVat h) = { d.setDom (pdVat h) .on with
      mem := cellsClear d.mem (vatOff (0x10000000 * halfIdx h)) vatSize }.vatDark h := by
  unfold domainWakeDone
  rw [if_neg (by simp [hw]), pdHalf_pdVat]
  dsimp only
  rw [if_pos rfl]
  have hnone : ∀ x : Dev, x.sched.steps = [] → foldDev x (x.sched.steps.map (·.1)) Dev.grantReady = x := fun x hx => by
    rw [hx]
    rfl
  exact hnone _ hsteps

/-! ### Junctions (R505 to R507) -/

/-- A die whose sensors all read below a bound is below it, or has no sample. -/
theorem Power.tjMax_lt {p : Power} {die : Die} {b : Int} (hb : 0 < b) (h : ∀ x ∈ p.tj, x.2 < b) : p.tjMax die < b := by
  have hfold : ∀ (l : List (Nat × Int)) (m : Option (Nat × Int)), (∀ x ∈ l, x.2 < b) → (∀ y, m = some y → y.2 < b) →
      ∀ y, l.foldl (fun m s => match m with
        | some (_, t) => if t < s.2 then some (s.1 % 16, s.2) else m
        | none => some (s.1 % 16, s.2)) m = some y → y.2 < b := by
    intro l
    induction l with
    | nil => exact fun m _ hm => hm
    | cons x l ih =>
      intro m hl hm
      refine ih _ (fun z hz => hl z (List.mem_cons_of_mem _ hz)) ?_
      have hx := hl x List.mem_cons_self
      intro y hy
      cases m with
      | none => obtain rfl := Option.some.inj hy; exact hx
      | some q =>
        dsimp only at hy
        split at hy
        · obtain rfl := Option.some.inj hy; exact hx
        · exact hm y hy
  unfold Power.tjMax
  cases hhot : p.hottest die with
  | none => exact hb
  | some y => exact hfold _ none (fun x hx => h x (List.mem_of_mem_filter hx)) (fun _ hy => nomatch hy) y hhot

/-- The junction record after a sample. -/
def Power.junction (p : Power) (key : Nat) (t : Int) : Power := { p with tj := p.tj.filter (fun s => s.1 != key) ++ [(key, t)] }

theorem junctionSample_cool {d : Dev} {die : Die} {k : Nat} {t : Int} (hv : d.power.vinOk = true) (hk : die = .hub → k < 8)
    (ht : t < 102) (hall : ∀ x ∈ d.power.tj, x.2 < 102) :
    ∃ b, junctionSample d die k t = { d with power := d.power.junction (16 * dieIdx die + k) t, boot := b } := by
  have hnew : (d.power.junction (16 * dieIdx die + k) t).tjMax die < 102 := by
    refine Power.tjMax_lt (by decide) fun x hx => ?_
    rcases List.mem_append.1 hx with hx | hx
    · exact hall x (List.mem_of_mem_filter hx)
    · rw [List.mem_singleton.1 hx]
      exact ht
  unfold junctionSample
  rw [if_neg (by
    rw [Bool.or_eq_true, Bool.and_eq_true, hv]
    rintro (h | ⟨h1, h2⟩)
    · exact absurd h (by decide)
    · have := hk (of_decide_eq_true h1)
      have := of_decide_eq_true h2
      omega)]
  dsimp only
  obtain ⟨b, hnote⟩ := (d.modPower fun p => p.junction (16 * dieIdx die + k) t).notePlatform_only (d.power.tjMax die)
    ((d.power.junction (16 * dieIdx die + k) t).tjMax die) [95, 102]
  refine ⟨b, ?_⟩
  refine Eq.trans ?_ hnote
  have h108 : ¬ 108 ≤ t := by omega
  by_cases hc : d.power.pstate = .cold
  · exact if_pos hc
  · exact (if_neg hc).trans ((if_neg h108).trans (if_pos hnew))

theorem junctionSample_trips {d : Dev} {die : Die} {k : Nat} {t : Int} (hv : d.power.vinOk = true) (hk : die = .hub → k < 8)
    (ht : 108 ≤ t) (hp : d.power.pstate ≠ .cold) : ∃ e : Dev, junctionSample d die k t = e.thermalTrip 1 := by
  unfold junctionSample
  rw [if_neg (by
    rw [Bool.or_eq_true, Bool.and_eq_true, hv]
    rintro (h | ⟨h1, h2⟩)
    · exact absurd h (by decide)
    · have := hk (of_decide_eq_true h1)
      have := of_decide_eq_true h2
      omega)]
  exact ⟨_, (if_neg hp).trans (if_pos ht)⟩

/-! ### Package states (R497 to R500) -/

/-- What a change of package state leaves alone of memory, engines and steps. -/
def Dev.Rests (d d' : Dev) : Prop := d'.mem = d.mem ∧ d'.engines = d.engines ∧ d'.sched = d.sched

theorem Dev.mapDoms_rests {d e : Dev} (h : d.Rests e) (f : Nat → DomSt → DomSt) : d.Rests (e.mapDoms f) :=
  Dev.mapDoms_keeps d.Rests (fun _ _ _ h => h) f h

theorem Dev.harts_wfi_rests (d : Dev) : d.Rests d.harts_wfi := by
  refine foldDev_keeps d.Rests (fun e h he => ?_) _ ⟨rfl, rfl, rfl⟩
  split <;> exact he

/-- The domains change, and nothing else of the supply. -/
theorem Dev.mapDoms_power (d : Dev) (f : Nat → DomSt → DomSt) : ∃ t, (d.mapDoms f).power = { d.power with dom := t } :=
  Dev.mapDoms_keeps (fun e => ∃ t, e.power = { d.power with dom := t })
    (fun _ n x ⟨t, he⟩ => ⟨tput t n x, by simp only [Dev.setDom, Dev.modPower, he]⟩) f ⟨d.power.dom, rfl⟩

/-- One domain after a pass over some of them. -/
theorem foldDev_mapDom (f : Nat → DomSt → DomSt) {l : List Nat} (hl : l.Nodup) (d : Dev) (m : Nat) :
    (foldDev d l fun d n => let x := d.domSt n; if f n x = x then d else d.setDom n (f n x)).domSt m =
      if m ∈ l then f m (d.domSt m) else d.domSt m := by
  induction l generalizing d with
  | nil => rfl
  | cons n l ih =>
    obtain ⟨hn, hl⟩ := List.nodup_cons.1 hl
    have hone : ∀ k, (let x := d.domSt n; if f n x = x then d else d.setDom n (f n x)).domSt k =
        if k = n then f n (d.domSt n) else d.domSt k := by
      intro k
      dsimp only
      by_cases hk : k = n
      · subst hk
        split
        · next h => simp [h]
        · rw [Dev.domSt_setDom_self, if_pos rfl]
      · rw [if_neg hk]
        split
        · rfl
        · exact Dev.domSt_setDom_ne d _ hk
    show (foldDev (let x := d.domSt n; if f n x = x then d else d.setDom n (f n x)) l _).domSt m = _
    rw [ih hl, hone]
    by_cases hm : m = n
    · subst hm
      simp [hn]
    · simp [hm]

theorem Dev.domSt_mapDoms (d : Dev) (f : Nat → DomSt → DomSt) {m : Nat} (hm : m < 56) : (d.mapDoms f).domSt m = f m (d.domSt m) := by
  unfold Dev.mapDoms
  rw [foldDev_mapDom f List.nodup_range, if_pos (List.mem_range.2 hm)]

theorem Dev.setPState_keeps (d : Dev) (p : PState) :
    (d.setPState p).power = { d.power with pstate := p } ∧ d.Rests (d.setPState p) := ⟨rfl, rfl, rfl, rfl⟩

theorem glowEntry_eq {d : Dev} (hp : d.power.pstate = .working) (hst : d.boot.st = .ready) (hpol : 1 ≤ d.power.policy)
    (hidle : d.idle = true) :
    glowEntry d = ((d.harts_wfi.mapDoms fun n x => if x = .on && !clocked n then .parked else x).modCoh
      fun c => { c with redBuf := [] }).setPState .glowing :=
  if_pos (by simp [hp, hst, hpol, hidle])

theorem Dev.modPort_rests {d e : Dev} (h : d.power = e.power ∧ d.mem = e.mem) (l : List Nat) (f : Port → Port) :
    (foldDev d l fun d p => d.modPort p f).power = e.power ∧ (foldDev d l fun d p => d.modPort p f).mem = e.mem :=
  foldDev_keeps (f := fun d p => d.modPort p f) (fun x => x.power = e.power ∧ x.mem = e.mem) (fun _ _ hx => hx) l h

theorem bankEntry_eq {d : Dev} (hp : d.power.pstate = .glowing) (he : d.power.entering = false) (hpol : d.power.policy = 2)
    (hidle : d.idle = true) (hsteps : d.sched.steps = []) (hstaged : d.cave.staged = [])
    (hgroups : ∀ n, n ∈ [13, 14, 15, 16, 33, 34, 35, 36] → d.domSt n = .gated ∨ d.domRetired n = true) :
    (bankEntry d).power = { d.power with entering := true, exitPend := none } ∧ (bankEntry d).mem = d.mem := by
  have hall : [13, 14, 15, 16, 33, 34, 35, 36].all (fun n => d.domSt n == .gated || d.domRetired n) = true := by
    rw [List.all_eq_true]
    intro n hn
    rw [Bool.or_eq_true, beq_iff_eq]
    exact hgroups n hn
  unfold bankEntry
  dsimp only
  rw [if_pos (by rw [hall]; simp [hp, he, hpol, hidle, hsteps, hstaged])]
  exact Dev.modPort_rests (e := d.modPower fun p => { p with entering := true, exitPend := none }) ⟨rfl, rfl⟩ _ _

theorem Dev.leaveBanked_keeps (d : Dev) : d.leaveBanked.power.pstate = .working ∧ d.leaveBanked.mem = d.mem := by
  unfold Dev.leaveBanked
  extract_lets x y
  have hx : x.mem = d.mem := (Dev.mapDoms_rests (d := d) ⟨rfl, rfl, rfl⟩ _).1
  clear_value x
  have hy : y.mem = x.mem := (Dev.modPort_rests (e := x) ⟨rfl, rfl⟩ _ _).2
  clear_value y
  exact ⟨rfl, hy.trans hx⟩

theorem bankedDone_stays {d : Dev} (he : d.power.entering = true) (hx : d.power.exitPend = none) :
    (bankedDone d).power.pstate = .banked ∧ (bankedDone d).power.entering = false ∧ (bankedDone d).mem = d.mem := by
  unfold bankedDone
  rw [if_neg (by simp [he])]
  extract_lets e x y held z
  have hdoms : ∀ f, (d.mapDoms f).power.exitPend = none ∧ (d.mapDoms f).mem = d.mem := fun f =>
    Dev.mapDoms_keeps (fun x => x.power.exitPend = none ∧ x.mem = d.mem) (fun _ _ _ h => h) f ⟨hx, rfl⟩
  have hmap : x.power.exitPend = none ∧ x.mem = d.mem := by
    simp only [x, Dev.modCoh_power, Dev.modCave_power, Dev.modCoh_mem, Dev.modCave_mem]
    exact hdoms _
  clear_value x
  have hheld : held = none := hmap.1
  rw [if_neg (by rw [hheld]; simp)]
  have hy : y.mem = d.mem := hmap.2
  clear_value y held
  exact ⟨rfl, rfl, hy⟩

theorem coldExit_mctp {d : Dev} (hp : d.power.pstate = .cold) (hv : d.power.vinOk = true) (bs : BitVec 3) (st : BitVec 2) :
    coldExit d .mctp bs st = (d.startUp 1 bs st).step4 := by
  unfold coldExit
  dsimp only
  rw [if_neg (by simp [hp, hv]), if_neg (by simp)]

/-- Settles O38: each transition by the equation of its function. -/
theorem domainsWakeAndPackageStatesChange : Obligations.DomainsWakeAndPackageStatesChange := by
  unfold Obligations.DomainsWakeAndPackageStatesChange
  refine ⟨fun s => ⟨fun n hp => ⟨?gate, ?timeout, ?down, ?wake⟩, ?vat, ?junction, ?release⟩,
    fun s => ⟨?glow, ?glowExit, ?bank, ?banked, ?bankExit, ?cold⟩⟩
  case gate =>
    intro hon hg
    obtain ⟨l, hgate⟩ := domainGate_eq hp hon hg
    have hpower : (foldDev (s.dev.setDom n.val .draining) l Dev.evictAll).power = (s.dev.setDom n.val .draining).power :=
      Dev.power_of_aside (foldDev_aside (fun e c => e.evictAll_aside c) _ l)
    refine ⟨_, exec_onDev (f := fun d => domainGate d n.val) rfl hgate, ?_, fun m hm => ?_, fun hlines => ?_⟩
    · rw [Dev.domSt_of_power hpower, Dev.domSt_setDom_self]
    · rw [Dev.domSt_of_power hpower, Dev.domSt_setDom_ne _ _ hm]
    · rw [foldDev_evictAll_of_empty (d := s.dev.setDom n.val .draining) hlines]
      rfl
  case timeout =>
    intro h
    exact ⟨_, exec_onDev (f := fun d => drainTimeout d n.val) rfl rfl, drainTimeout_domSt h⟩
  case down =>
    intro h hd hw
    obtain ⟨hpower, hmem⟩ := (s.dev.setDom n.val .gated).darken_keeps n.val
    refine ⟨_, exec_onDev (f := fun d => domainPowerDownDone d n.val) rfl (domainPowerDownDone_eq h hd hw), ?_, fun m hm => ?_, hmem⟩
    · rw [Dev.domSt_of_power hpower, Dev.domSt_setDom_self]
    · rw [Dev.domSt_of_power hpower, Dev.domSt_setDom_ne _ _ hm]
  case wake =>
    intro c hg hr hw
    exact ⟨_, exec_onDev (f := fun d => domainWake d n.val) rfl (domainWake_gated hp hg hr hw), Dev.domSt_setDom_self _ _ _,
      fun m hm => Dev.domSt_setDom_ne _ _ hm, rfl⟩
  case vat =>
    intro h n hn hw hsteps hsafe
    rw [hn] at hw ⊢
    refine ⟨_, exec_onDev (f := fun d => domainWakeDone d n.val) rfl ((congrArg (domainWakeDone s.dev) hn).trans
      (domainWakeDone_vat hw hsteps)), Dev.domSt_setDom_self s.dev _ _, fun a hlo hhi => ?_, fun a ha => ?_⟩
    · exact cellGet_cellsClear_in hlo hhi
    · exact cellGet_cellsClear_out hsafe ha
  case junction =>
    intro die k t hv hk
    refine ⟨fun ht hall => ?_, fun ht hp => ?_⟩
    · obtain ⟨b, hcool⟩ := junctionSample_cool hv hk ht hall
      refine ⟨_, exec_onDev (f := fun d => junctionSample d die k.val t) rfl hcool, ?_, fun x hx hne => ?_, rfl⟩
      · exact List.mem_append_right _ List.mem_cons_self
      · exact List.mem_append_left _ (List.mem_filter.2 ⟨hx, by simpa using hne⟩)
    · obtain ⟨e, htrip⟩ := junctionSample_trips hv hk ht hp
      exact ⟨_, exec_onDev (f := fun d => junctionSample d die k.val t) rfl htrip, rfl, rfl, rfl, rfl, rfl⟩
  case release =>
    intro ht hcool
    refine ⟨_, exec_onDev (f := thermtripRelease) rfl (if_pos (by simp [ht, hcool])), ?_⟩
    obtain ⟨n, t, o, b, -, -, -, -, hstep⟩ := (s.dev.modPower fun p => { p with thermtrip := false }).step4_only
    rw [hstep]
    exact ⟨rfl, rfl⟩
  case glow =>
    intro hp hst hpol hidle
    obtain ⟨hmem, heng, hsched⟩ := Dev.mapDoms_rests s.dev.harts_wfi_rests fun n x => if x = .on && !clocked n then .parked else x
    have hglow := glowEntry_eq hp hst hpol hidle
    generalize s.dev.harts_wfi.mapDoms _ = x at *
    exact ⟨_, exec_onDev (f := glowEntry) rfl hglow, rfl, hmem, heng, hsched⟩
  case glowExit =>
    intro c hp he
    have hrest : s.dev.Rests s.dev.unpark_ := Dev.mapDoms_rests ⟨rfl, rfl, rfl⟩ _
    have hrun : ∀ n, n < 56 → s.dev.unpark_.domSt n ≠ .parked := by
      intro n hn
      rw [Dev.unpark_, Dev.domSt_mapDoms _ _ hn]
      split
      · simp
      · next h => exact h
    have hexit : glowExit s.dev = s.dev.unpark_.setPState .working := if_pos (by simp [hp, he])
    generalize s.dev.unpark_ = x at *
    obtain ⟨hmem, heng, hsched⟩ := hrest
    exact ⟨_, exec_onDev (f := glowExit) rfl hexit, rfl, hrun, hmem, heng, hsched⟩
  case bank =>
    intro hp he hpol hidle hsteps hstaged hgroups
    obtain ⟨hpower, hmem⟩ := bankEntry_eq hp he hpol hidle hsteps hstaged hgroups
    exact ⟨_, exec_onDev (f := bankEntry) rfl rfl, by rw [hpower], by rw [hpower]; exact hp, hmem⟩
  case banked =>
    intro he hx
    exact ⟨_, exec_onDev (f := bankedDone) rfl rfl, bankedDone_stays he hx⟩
  case bankExit =>
    intro c hp he hw
    refine ⟨s.dev.leaveBanked, exec_onDev (f := fun d => bankExit d c) rfl ?_, s.dev.leaveBanked_keeps⟩
    unfold bankExit
    rw [if_neg (by simp [hw]), if_neg (by simp [he]), if_pos hp]
  case cold =>
    intro bs st hp hv
    obtain ⟨y, m, hses, -, -, hstart⟩ := s.dev.startUp_only 1 bs st
    refine ⟨_, exec_onDev (f := fun d => coldExit d .mctp bs st) rfl (coldExit_mctp hp hv bs st), ?_⟩
    obtain ⟨n, t, o, b, -, hbs, -, hsm, hstep⟩ := (s.dev.startUp 1 bs st).step4_only
    rw [hstep]
    rw [hstart] at hbs hsm ⊢
    exact ⟨rfl, hbs, hsm, hses⟩

end Sys2Proof.Machine

/-!
Steps (chapter 05, R447 to R453): the start of a kernel, the end of a step, its record, and what a grant's return leaves.
-/
namespace Sys2Proof.Machine

/-! ### The books: the contexts and the steps, which no write, message or heat changes -/

/-- The contexts' records and accounts, and the steps. -/
def Dev.books (d : Dev) : Tbl Ctx × Sched := (d.host.ctxs, d.sched)

section OfBooks
variable {d e : Dev} (h : d.books = e.books)
include h

theorem Dev.ctxs_of_books : d.host.ctxs = e.host.ctxs := congrArg Prod.fst h
theorem Dev.sched_of_books : d.sched = e.sched := congrArg Prod.snd h

theorem Dev.ctx_of_books (c : Nat) : d.ctx? c = e.ctx? c := by
  unfold Dev.ctx?
  rw [Dev.ctxs_of_books h]

theorem Dev.step_of_books (n : Nat) : d.step? n = e.step? n := by
  unfold Dev.step?
  rw [Dev.sched_of_books h]

end OfBooks

@[simp] theorem foldDev_books {α : Type} {f : Dev → α → Dev} (hf : ∀ d x, (f d x).books = d.books) (d : Dev) (l : List α) :
    (foldDev d l f).books = d.books :=
  foldDev_keeps (fun e => e.books = d.books) (fun e x h => (hf e x).trans h) l rfl

theorem Dev.Sends.books {d d' : Dev} (h : d.Sends d') : d'.books = d.books := by
  unfold Dev.books
  rw [h.host, h.sched]

@[simp] theorem Dev.setPoison_books (d : Dev) (line : Nat) : (d.setPoison line).books = d.books := by
  unfold Dev.setPoison
  split <;> rfl

@[simp] theorem Dev.signal_books (d : Dev) (b : Word) : (d.signal b).books = d.books := by
  unfold Dev.signal
  dsimp only
  (repeat' split) <;> rfl

@[simp] theorem Dev.fwSignal_books (d : Dev) (b : Word) : (d.fwSignal b).books = d.books := by
  unfold Dev.fwSignal
  split
  · rfl
  · exact d.signal_books b

@[simp] theorem Dev.chainSend_books (d : Dev) (dst cls src ctx pd tag len body slice) :
    (d.chainSend dst cls src ctx pd tag len body slice).books = d.books :=
  (Dev.flushSend_sends _).books.trans rfl

/-- Firmware has no context to which a lost write would be reported. -/
theorem Dev.launch_books (d : Dev) {w : OutW} (hw : w.src = .firmware) (t : Target) : (d.launch w t).books = d.books := by
  unfold Dev.launch
  dsimp only
  split
  · rfl
  · rfl
  · rfl
  · rw [hw]
    split
    · rfl
    · dsimp only
      rw [if_neg Bool.false_ne_true]
      exact (Dev.chainSend_books _ _ _ _ _ _ _ _ _ _).trans rfl
  · rfl

theorem Dev.issueWrite_books (d : Dev) (addr : Nat) (bs : List Byte) : (d.issueWrite .firmware addr bs none).books = d.books := by
  unfold Dev.issueWrite
  dsimp only
  split
  · rfl
  · exact d.launch_books rfl _

/-- A frame that lets a request go on is not changed by it. -/
theorem Dev.frameGate_go {d e : Dev} {off : Nat} (h : d.frameGate off = .go e) : e = d := by
  unfold Dev.frameGate at h
  grind

theorem Dev.readGate_go {d e : Dev} {off n : Nat} (h : d.readGate off n = .go e) : e = d := by
  unfold Dev.readGate at h
  split at h
  · cases h
  · exact Dev.frameGate_go h

@[simp] theorem Dev.fwPut_books (d : Dev) (off : Nat) (bs : List Byte) : (d.fwPut off bs).books = d.books := by
  unfold Dev.fwPut
  split
  next e he _ =>
    obtain rfl := Dev.readGate_go he
    dsimp only
    split <;> rfl
  · exact d.issueWrite_books _ _

@[simp] theorem Dev.fwWrite_books (d : Dev) (a : Word) (bs : List Byte) : (d.fwWrite a bs).books = d.books := by
  unfold Dev.fwWrite
  split
  · rfl
  · split
    · exact foldDev_books (fun e p => e.fwPut_books _ _) d _
    · rfl
  · rfl

@[simp] theorem Dev.freeRange_books (d : Dev) (off n : Nat) : (d.freeRange off n).books = d.books := rfl

@[simp] theorem Dev.freeRegions_books (d : Dev) (n : Nat) : (d.freeRegions n).books = d.books := by
  unfold Dev.freeRegions
  split
  · rfl
  · split
    · rfl
    · refine foldDev_books (fun e r => foldDev_books (fun f p => ?_) e _) d _
      split
      · dsimp only
        split
        · split <;> rfl
        · rfl
        · rfl
      · rfl

/-! ### Engines of a step -/

/-- A pass over engines changes engines alone. -/
theorem foldDev_modEng_only {α : Type} (e : α → Fin 128) (f : α → Engine → Engine) (l : List α) (d : Dev) :
    { foldDev d l (fun d p => d.modEng (e p) (f p)) with engines := d.engines } = d :=
  foldDev_keeps (f := fun d p => d.modEng (e p) (f p)) (fun x => { x with engines := d.engines } = d) (fun _ _ hx => hx) l rfl

theorem foldDev_modEng_eng_ne {α : Type} {e : α → Fin 128} {f : α → Engine → Engine} {l : List α} {g : Fin 128}
    (hg : ∀ p ∈ l, e p ≠ g) (d : Dev) : (foldDev d l fun d p => d.modEng (e p) (f p)).eng g = d.eng g := by
  induction l generalizing d with
  | nil => rfl
  | cons p l ih =>
    have hp : g ≠ e p := fun h => hg p List.mem_cons_self h.symm
    exact (ih (fun q hq => hg q (List.mem_cons_of_mem _ hq)) (d.modEng (e p) (f p))).trans (d.eng_modEng_ne _ hp)

/-- What every visit gives an engine, from whatever it was before, is what the pass gives it. -/
theorem foldDev_modEng_eng {α : Type} {e : α → Fin 128} {f : α → Engine → Engine} {l : List α} {g : Fin 128} (x0 : Engine)
    {Q : Engine → Prop} (hQ : ∀ p x, (x = x0 ∨ Q x) → Q (f p x)) (hg : g ∈ l.map e) (d : Dev) (hd : d.eng g = x0 ∨ Q (d.eng g)) :
    Q ((foldDev d l fun d p => d.modEng (e p) (f p)).eng g) := by
  suffices h : ∀ (l : List α) (d : Dev), (d.eng g = x0 ∨ Q (d.eng g)) →
      let y := (foldDev d l fun d p => d.modEng (e p) (f p)).eng g
      (y = x0 ∨ Q y) ∧ (g ∈ l.map e → Q y) ∧ (Q (d.eng g) → Q y) from (h l d hd).2.1 hg
  clear hd hg d l
  intro l
  induction l with
  | nil => exact fun d hd => ⟨hd, fun h => absurd h List.not_mem_nil, id⟩
  | cons p l ih =>
    intro d hd
    have hstep : ((d.modEng (e p) (f p)).eng g = x0 ∨ Q ((d.modEng (e p) (f p)).eng g)) ∧
        (g = e p → Q ((d.modEng (e p) (f p)).eng g)) ∧ (Q (d.eng g) → Q ((d.modEng (e p) (f p)).eng g)) := by
      by_cases h : g = e p
      · have hq : Q ((d.modEng (e p) (f p)).eng g) := by
          subst h
          rw [Dev.eng_modEng_self]
          exact hQ p _ hd
        exact ⟨.inr hq, fun _ => hq, fun _ => hq⟩
      · rw [Dev.eng_modEng_ne d _ h]
        exact ⟨hd, fun hh => absurd hh h, id⟩
    obtain ⟨h1, h2, h3⟩ := hstep
    obtain ⟨k1, k2, k3⟩ := ih (d.modEng (e p) (f p)) h1
    refine ⟨k1, fun hm => ?_, fun hq => k3 (h3 hq)⟩
    rcases List.mem_cons.1 (List.map_cons .. ▸ hm) with h | h
    · exact k3 (h2 h)
    · exact k2 h

/-! ### Kernels (R167, R170) -/

theorem Dev.stallEnds_only (d : Dev) (c : Nat) : ∃ f, d.stallEnds c = { d with rennet := { d.rennet with fired := f } } := ⟨_, rfl⟩

/-- The start of a kernel (R167, Table 5.5). -/
theorem Dev.startKernel_starts {d : Dev} {n k : Nat} {st : Step} (hst : d.step? n = some st) :
    (d.startKernel n k).step? n = some { st with phase := .running, kernel := k } ∧
      (∀ e ∈ st.engines, ((d.startKernel n k).eng e).run = .running ∧ ((d.startKernel n k).eng e).pc = lgetD st.image.kernels k 0 ∧
        ((d.startKernel n k).eng e).rx 10 = st.desc.args ∧ ((d.startKernel n k).eng e).step = some n ∧
        ((d.startKernel n k).eng e).tTicket = (d.eng e).tTicket) ∧
      (∀ e, e ∉ st.engines → (d.startKernel n k).eng e = d.eng e) ∧
      { d.startKernel n k with engines := d.engines, sched := d.sched, rennet := d.rennet } = d ∧
      (d.startKernel n k).rennet = { d.rennet with fired := (d.startKernel n k).rennet.fired } := by
  have hkernel : d.startKernel n k = foldDev ((d.modStep n fun s => { s with phase := .running, kernel := k }).stallEnds st.ctx)
      st.engines.zipIdx fun d p => d.modEng p.1 fun x =>
        { x := kernelRegs st p.2 k, pc := lgetD st.image.kernels k 0, cycle := x.cycle, instret := x.instret,
          run := .running, step := some n, tTicket := x.tTicket, halted := x.halted } := by
    unfold Dev.startKernel
    rw [hst]
  have hzip : st.engines.zipIdx.map (fun p => p.1) = st.engines := List.zipIdx_map_fst 0 st.engines
  rw [hkernel]
  set x := (d.modStep n fun s => { s with phase := .running, kernel := k }).stallEnds st.ctx with hx
  have honly := foldDev_modEng_only (fun p : Fin 128 × Nat => p.1) (fun p x =>
    ({ x := kernelRegs st p.2 k, pc := lgetD st.image.kernels k 0, cycle := x.cycle, instret := x.instret,
       run := .running, step := some n, tTicket := x.tTicket, halted := x.halted } : Engine)) st.engines.zipIdx x
  refine ⟨?_, fun e he => ?_, fun e he => ?_, ?_, ?_⟩
  · have hsched := congrArg Dev.sched honly
    have hstep : x.step? n = some { st with phase := .running, kernel := k } := by
      show (d.modStep n _).step? n = _
      rw [Dev.step?_modStep_self, hst]
      rfl
    exact (congrArg (fun q : Sched => tget q.steps n) hsched).trans hstep
  · refine foldDev_modEng_eng (Q := fun y => y.run = .running ∧ y.pc = lgetD st.image.kernels k 0 ∧ y.rx 10 = st.desc.args ∧
      y.step = some n ∧ y.tTicket = (d.eng e).tTicket) (d.eng e) ?_ (by rw [hzip]; exact he) x (.inl rfl)
    rintro p y (rfl | ⟨-, -, -, -, ht⟩)
    · exact ⟨rfl, rfl, rfl, rfl, rfl⟩
    · exact ⟨rfl, rfl, rfl, rfl, ht⟩
  · refine foldDev_modEng_eng_ne (fun p hp h => he ?_) x
    rw [← hzip, ← h]
    exact List.mem_map_of_mem hp
  · exact (congrArg (fun y : Dev => { y with engines := d.engines, sched := d.sched, rennet := d.rennet }) honly :)
  · exact (congrArg (fun y : Dev => y.rennet) honly).trans
      (congrArg (fun y : Dev => ({ d.rennet with fired := y.rennet.fired } : Rennet)) honly).symm

theorem Dev.stopAll_sched (d : Dev) (n : Nat) (es : List (Fin 128)) : (d.stopAll n es).sched = d.sched :=
  foldDev_keeps (fun e => e.sched = d.sched) (fun e g h => by
    split
    · exact (e.stopEng_ops_sched g).2.trans h
    · exact h) es rfl

/-- A step that ends waits in phase 5 with its outcome (R158). -/
theorem Dev.endStep_step {d : Dev} {n : Nat} {st : Step} {o : Outcome} (hst : d.step? n = some st) (ho : st.outcome = none)
    (hp : st.phase ≠ .recorded ∧ st.phase ≠ .draining) :
    (d.endStep n o).step? n = some { st with outcome := some o, phase := .draining, victimOf := none } := by
  unfold Dev.endStep
  rw [hst]
  dsimp only
  rw [if_neg (by simp [ho, hp])]
  have hstop : (d.stopAll n st.engines).step? n = some st := by
    rw [Dev.step?, Dev.stopAll_sched]
    exact hst
  show ((d.stopAll n st.engines).modStep n _).step? n = _
  rw [Dev.step?_modStep_self, hstop]
  rfl

theorem kernelEnd_eq {d : Dev} {n : Nat} {st : Step} (hst : d.step? n = some st) (hp : st.phase = .running)
    (ho : st.outcome = none) (hv : st.victimOf = none) (hend : ∀ e ∈ st.engines, (d.eng e).run = .kended)
    (hwork : d.workLeft n st = false) (hfly : d.inFlight n st = false) :
    kernelEnd d n = if st.kernel + 1 < st.image.kernels.length then d.startKernel n (st.kernel + 1) else d.endStep n {} := by
  have hall : st.engines.all (fun e => (d.eng e).run == .kended) = true := by
    rw [List.all_eq_true]
    exact fun e he => beq_iff_eq.2 (hend e he)
  unfold kernelEnd
  rw [hst]
  dsimp only
  rw [if_neg (by simp [hp, ho, hv, hall, hwork, hfly])]

/-- Settles O16: the next kernel starts as R167 says, or the step ends. -/
theorem kernelsEnd : Obligations.KernelsEnd := by
  unfold Obligations.KernelsEnd
  intro s n st hst hp ho hv hend hwork hfly
  have hkernel := kernelEnd_eq hst hp ho hv hend hwork hfly
  refine ⟨fun hmore => ?_, fun hlast => ?_⟩
  · obtain ⟨hstep, heng, -, honly, hren⟩ := Dev.startKernel_starts (k := st.kernel + 1) hst
    refine ⟨_, exec_onDev (f := fun d => kernelEnd d n) rfl (hkernel.trans (if_pos hmore)), ?_, fun e he => ?_, honly, hren⟩
    · rw [hstep, ← hp]
    · exact ⟨(heng e he).1, (heng e he).2.1⟩
  · refine ⟨_, exec_onDev (f := fun d => kernelEnd d n) rfl (hkernel.trans (if_neg (by omega))), ?_, fun a => ?_⟩
    · rw [Dev.endStep_step hst ho (by simp [hp]), ← hv]
    · rw [Dev.endStep_mem]

end Sys2Proof.Machine

/-!
Steps from the descriptor to the record (chapters 05 and 15): fetch, image check, grant, fill, record, and pre-emption.
-/
namespace Sys2Proof.Machine

/-! ### Descriptors and images (R447, R449, R165) -/

/-- The step that a descriptor gives (R449). -/
def Dev.fetchedStep (d : Dev) (rn : Nat) (r : Ring) (bs : List Byte) : Step :=
  { ring := rn, ctx := r.ctx, cls := r.cls, count := r.head, desc := stepDescOf (ofLe bs), fetchT := d.count }

theorem descriptorFetch_ok {d : Dev} {rn : Nat} {ext : List Byte} {r : Ring} {bs : List Byte}
    (hr : tget d.host.rings rn = some r) (hopen : d.fetchOpen rn r = true)
    (hhold : d.fwHolds (r.base + BitVec.ofNat 64 (64 * (r.head.toNat % 2 ^ r.log2))) 64 = none)
    (hread : d.fwRead (r.base + BitVec.ofNat 64 (64 * (r.head.toNat % 2 ^ r.log2))) 64 ext = .ok bs)
    (hbad : stepDescBad (ofLe bs) = false) :
    descriptorFetch d rn ext =
      ((d.fwTouch (r.base + BitVec.ofNat 64 (64 * (r.head.toNat % 2 ^ r.log2))) 64).modHost fun h =>
        { h with rings := tput h.rings rn { r with head := r.head + 1 } }).modSched fun x =>
        { x with steps := tput x.steps d.sched.next (d.fetchedStep rn r bs), next := d.sched.next + 1 } := by
  unfold descriptorFetch
  rw [hr]
  dsimp only
  rw [if_neg (by simp [hopen]), Dev.fwThen, hhold]
  dsimp only
  rw [hread]
  dsimp only
  rw [if_neg (by simp [hbad])]
  rfl

/-- What phase 1 leaves of a range it has read: heat, and snoops at a home. -/
theorem Dev.p1Touch_only (d : Dev) (n ctx va len : Nat) (acc : Access) :
    ∃ t k, d.p1Touch n ctx va len acc = { d with tiers := t, coh := k } := by
  have hwalk : ∀ (e : Dev) a, ∃ t k, e.walkTouch .west ctx a = { e with tiers := t, coh := k } := by
    intro e a
    unfold Dev.walkTouch
    split
    · exact ⟨e.tiers, e.coh, rfl⟩
    · refine foldDev_keeps (fun x => ∃ t k, x = { e with tiers := t, coh := k }) (fun x a ⟨t, k, hx⟩ => ?_) _ ⟨e.tiers, e.coh, rfl⟩
      obtain ⟨t', k', hx'⟩ := x.homeTouch_only a 8
      exact ⟨t', k', by rw [hx', hx]⟩
  refine foldDev_keeps (fun x => ∃ t k, x = { d with tiers := t, coh := k }) (fun x i ⟨t, k, hx⟩ => ?_) _ ⟨d.tiers, d.coh, rfl⟩
  dsimp only
  split
  · split
    · split
      · obtain ⟨t1, k1, h1⟩ := hwalk x (if i = 0 then va else va / 4096 * 4096 + 4096 * i)
        rw [h1]
        obtain ⟨t2, k2, h2⟩ := Dev.homeTouch_only { x with tiers := t1, coh := k1 } ‹_› (min (4096 -
          (if i = 0 then va else va / 4096 * 4096 + 4096 * i) % 4096) (va + len - if i = 0 then va else va / 4096 * 4096 + 4096 * i))
        exact ⟨t2, k2, by rw [h2, hx]⟩
      · exact ⟨t, k, hx⟩
    · exact ⟨t, k, hx⟩
  · exact ⟨t, k, hx⟩

/-- A fetched step whose phase 1 succeeds becomes a candidate with its image (R165). -/
theorem stepImageCheck_ok {d : Dev} {n : Nat} {st : Step} {ext : List Byte} {i : Image} {gs : List Seg} (hst : d.step? n = some st)
    (hp : st.phase = .fetched) (hpark : st.parked = none) (ho : st.outcome = none) (hok : d.phase1 n st ext = .ok (i, gs)) :
    ∃ t k, stepImageCheck d n ext =
      { d with free := d.free + 1, tiers := t, coh := k }.modStep n fun s => { s with phase := .candidate, image := i } := by
  unfold stepImageCheck
  rw [hst]
  dsimp only
  rw [if_neg (by simp [hp, hpark, ho]), hok]
  dsimp only
  generalize hx : foldDev _ gs _ = x
  have hsegs : ∃ t k, x = { d with free := d.free + 1, tiers := t, coh := k } := by
    rw [← hx]
    refine foldDev_keeps (fun x => ∃ t k, x = { d with free := d.free + 1, tiers := t, coh := k }) (fun x g ⟨t, k, hx⟩ => ?_) _
      ⟨d.tiers, d.coh, rfl⟩
    obtain ⟨t', k', hx'⟩ := x.p1Touch_only n st.ctx (st.desc.image.toNat + g.off) g.filesz .exec
    exact ⟨t', k', by rw [hx', hx]⟩
  obtain ⟨t, k, rfl⟩ := hsegs
  obtain ⟨t', k', harg⟩ := Dev.p1Touch_only { d with free := d.free + 1, tiers := t, coh := k } n st.ctx st.desc.args.toNat 512 .read
  exact ⟨t', k', by rw [harg]⟩

/-! ### Grants (R466, R467) -/

theorem Two.get_mod_clearing (t : Two SchedHalf) (h g : Half) {f : SchedHalf → SchedHalf} (hf : ∀ x, (f x).clearing = x.clearing) :
    (Two.get (Two.mod t h f) g).clearing = (Two.get t g).clearing := by
  cases h <;> cases g <;> first | rfl | exact hf _

section SetHalf
variable (d : Dev) (h : Half) {f : SchedHalf → SchedHalf} (hf : ∀ x, (f x).clearing = x.clearing)
include hf

theorem Dev.vatUnitFree_setHalf (g : Half) (give : List Nat) (u : Nat) :
    (d.setHalf h f).vatUnitFree g give u = d.vatUnitFree g give u := by
  have hclear : (Two.get (d.setHalf h f).sched.half g).clearing = (Two.get d.sched.half g).clearing := Two.get_mod_clearing _ h g hf
  unfold Dev.vatUnitFree
  rw [hclear]
  rfl

theorem Dev.vatRange_setHalf (g : Half) (give : List Nat) (k : Nat) : (d.setHalf h f).vatRange g give k = d.vatRange g give k := by
  unfold Dev.vatRange
  simp only [Dev.vatUnitFree_setHalf d h hf]

theorem Dev.fitHalf_setHalf (g : Half) (c : HalfDecl) (give : List Nat) :
    (d.setHalf h f).fitHalf g c give = d.fitHalf g c give := by
  unfold Dev.fitHalf
  rw [Dev.vatRange_setHalf d h hf]
  rfl

theorem Dev.fit_setHalf (s : Step) (give : List Nat) : (d.setHalf h f).fit s give = d.fit s give := by
  unfold Dev.fit
  rw [Dev.fitHalf_setHalf d h hf, Dev.fitHalf_setHalf d h hf]

theorem Dev.heldBy_setHalf (ht : ∀ x, (f x).timedOut = x.timedOut) (g : Half) (n : Nat) (s : Step) :
    (d.setHalf h f).heldBy g n s = d.heldBy g n s := by
  have htimed : (Two.get (d.setHalf h f).sched.half g).timedOut = (Two.get d.sched.half g).timedOut := by
    show (Two.get (Two.mod d.sched.half h f) g).timedOut = _
    cases h <;> cases g <;> first | rfl | exact ht _
  unfold Dev.heldBy
  rw [htimed]
  simp only [Dev.fit_setHalf d h hf]
  rfl

end SetHalf

/-- R467: a granted step holds its resources, and waits for its domains or fills. -/
theorem Dev.grantStep_step {d : Dev} {n : Nat} {s st : Step} {a : Alloc1 × Alloc1} (hst : d.step? n = some st) :
    ∃ t, (d.grantStep n s a).step? n = some t ∧ t.engines = a.1.eng ++ a.2.eng ∧ t.vat = ⟨a.1.vat, a.2.vat⟩ ∧
      t.ren = ⟨a.1.ren, a.2.ren⟩ ∧ (t.phase = .waking ∨ t.phase = .filling) := by
  unfold Dev.grantStep
  extract_lets es x y z w
  have hx : x.step? n = some { st with
      phase := .waking, engines := es, vat := ⟨a.1.vat, a.2.vat⟩, ren := ⟨a.1.ren, a.2.ren⟩, granted := d.sched.grantNo } := by
    rw [Dev.step?_modStep_self, hst]
    rfl
  have hy : y.sched = x.sched := (congrArg Dev.sched (foldDev_modEng_only (fun e => e) (fun _ x => { x with step := some n, run := .idle }) es x) :)
  have hw : w.step? n = x.step? n := by
    show tget y.sched.steps n = _
    rw [hy]
    rfl
  clear_value y x w
  rw [hw, hx]
  dsimp only
  set st' : Step := { st with
    phase := .waking, engines := es, vat := ⟨a.1.vat, a.2.vat⟩, ren := ⟨a.1.ren, a.2.ren⟩, granted := d.sched.grantNo } with hst'
  have hwake : (foldDev w st'.domains Dev.wakeDom).step? n = some st' := by
    have hsched : (foldDev w st'.domains Dev.wakeDom).sched = w.sched := foldDev_keeps (fun e => e.sched = w.sched) (fun e k he => by
      obtain ⟨p, hp⟩ := e.wakeDom_only k
      rw [hp]
      exact he) _ rfl
    rw [Dev.step?, hsched]
    exact hw.trans hx
  unfold Dev.grantReady
  rw [hwake]
  dsimp only
  split
  · refine ⟨{ st' with phase := .filling }, ?_, rfl, rfl, rfl, .inr rfl⟩
    rw [Dev.step?_modStep_self]
    exact (congrArg (Option.map _) hwake).trans rfl
  · exact ⟨st', hwake, rfl, rfl, rfl, .inl rfl⟩

/-- The walk of a half that finds one candidate, with room for it (R466, R467, R469). -/
theorem schedWalk_grants {d : Dev} {h : Half} {n : Nat} {st : Step} {a : Alloc1 × Alloc1} (hst : d.step? n = some st)
    (hcont : d.faults.contain = none) (hw : d.sched.half.w.waiting = none) (he : d.sched.half.e.waiting = none)
    (hlist : d.walkList h = [n]) (hcand : d.isCandidate n st = true) (hfit : d.fit st (d.passed n) = some a)
    (hheld : ∀ g, d.heldBy g n st = false) :
    ∃ t, (schedWalk d h).step? n = some t ∧ t.engines = a.1.eng ++ a.2.eng ∧ t.vat = ⟨a.1.vat, a.2.vat⟩ ∧
      t.ren = ⟨a.1.ren, a.2.ren⟩ ∧ (t.phase = .waking ∨ t.phase = .filling) := by
  have hwait : ∀ g, (Two.get d.sched.half g).waiting = none := fun g => by cases g; exacts [hw, he]
  have hend : d.endWaiting h = d := by
    unfold Dev.endWaiting
    rw [hwait h]
  set x := d.setHalf h (fun y => { y with blocked := [] }) with hx
  have hxwait : ∀ g, (Two.get x.sched.half g).waiting = none := fun g => by
    show (Two.get (Two.mod d.sched.half h fun y => { y with blocked := [] }) g).waiting = none
    have := hwait g
    revert this
    cases h <;> cases g <;> exact id
  have hsaved : (st.phase == .saved) = false := by
    simp only [Dev.isCandidate, Bool.and_eq_true, beq_iff_eq] at hcand
    rw [hcand.1.1]
    rfl
  have hxfit : x.fit st (x.passed n) = some a := (Dev.fit_setHalf d h (f := fun y => { y with blocked := [] }) (fun _ => rfl) st _).trans hfit
  have hxheld : ∀ g, x.heldBy g n st = false := fun g => (Dev.heldBy_setHalf d h (f := fun y => { y with blocked := [] }) (fun _ => rfl) (fun _ => rfl) g n st).trans (hheld g)
  have hvisit : x.visit h n = x.grantStep n st a := by
    have hxst : x.step? n = some st := hst
    have hxcand : x.isCandidate n st = true := hcand
    unfold Dev.visit
    rw [hxst]
    dsimp only
    rw [hxwait h, if_neg (by simp), if_neg (by simp [hsaved]), if_neg (by simp [hxcand]), hxfit]
    dsimp only
    refine if_pos ?_
    have hfree : x.halvesFree st.halves = true := by
      unfold Dev.halvesFree
      rw [List.all_eq_true]
      exact fun g _ => by rw [hxwait g]; rfl
    have hno : st.halves.any (fun h => x.heldBy h n st) = false := by
      rw [List.any_eq_false]
      exact fun g _ => by rw [hxheld g]; simp
    rw [hfree, hno]
    rfl
  have hwalk : schedWalk d h = (x.grantStep n st a).setHalf h fun y => { y with timedOut := y.timedOut.filter y.blocked.contains } := by
    unfold schedWalk
    rw [if_neg (by simp [hcont]), hend]
    dsimp only
    rw [hlist]
    exact congrArg (Dev.setHalf · h _) hvisit
  rw [hwalk]
  exact Dev.grantStep_step (d := x) hst

/-! ### The fill (R175) -/

/-- The Vat ranges of a step, filled with zeros and the initial contents. -/
def Dev.vatFilled (d : Dev) (st : Step) : Dev :=
  let fill (d : Dev) (h : Half) : Dev :=
    let r := Two.get st.vat h
    let at0 := vatOff (0x10000000 * halfIdx h + r.1)
    if r.2 = 0 then d else { d with mem := cellsPut (cellsClear d.mem at0 r.2) at0 (Two.get st.image.vinit h) }
  fill (fill d .west) .east

theorem Dev.vatFilled_only (d : Dev) (st : Step) : ∃ m, d.vatFilled st = { d with mem := m } := by
  unfold Dev.vatFilled
  dsimp only
  split
  · split
    · exact ⟨d.mem, rfl⟩
    · exact ⟨_, rfl⟩
  · split
    · exact ⟨_, rfl⟩
    · exact ⟨_, rfl⟩

theorem vatFillDone_eq {d : Dev} {n : Nat} {st : Step} (hst : d.step? n = some st) (hp : st.phase = .filling) :
    vatFillDone d n =
      (foldDev (d.vatFilled st) st.engines fun d e => d.modEng e fun x => { x with tTicket := 0 }).startKernel n 0 := by
  unfold vatFillDone
  rw [hst]
  dsimp only
  rw [if_neg (by simp [hp])]
  rfl

/-- A package with the memory, the engines, the steps and the Rennet objects of another. -/
def Dev.unstarted (d y : Dev) : Dev := { y with mem := d.mem, engines := d.engines, sched := d.sched, rennet := d.rennet }

/-- Settles O15: descriptor, image, walk and fill, each by its own lemma. -/
theorem descriptorsBecomeStepsThatStart : Obligations.DescriptorsBecomeStepsThatStart := by
  unfold Obligations.DescriptorsBecomeStepsThatStart
  refine ⟨?fetch, fun s n st hst => ⟨?image, ?walk, ?fill⟩⟩
  case fetch =>
    intro s ring ext r bs hr hopen hhold hread hbad
    refine ⟨_, exec_onDev (f := fun d => descriptorFetch d ring.val ext) rfl (descriptorFetch_ok hr hopen hhold hread hbad), ?_⟩
    obtain ⟨t, k, htouch⟩ := s.dev.fwTouch_only (r.base + BitVec.ofNat 64 (64 * (r.head.toNat % 2 ^ r.log2))) 64
    rw [htouch]
    exact ⟨tget_tput_self _ _ _, tget_tput_self _ _ _, rfl⟩
  case image =>
    intro ext i gs hp hpark ho hok
    obtain ⟨t, k, himage⟩ := stepImageCheck_ok hst hp hpark ho hok
    refine ⟨_, exec_onDev (f := fun d => stepImageCheck d n ext) rfl himage, ?_, rfl⟩
    rw [Dev.step?_modStep_self]
    exact (congrArg (Option.map _) hst).trans rfl
  case walk =>
    intro h a hcont hw he hlist hcand hfit hheld
    obtain ⟨t, hwalk⟩ := schedWalk_grants hst hcont hw he hlist hcand hfit hheld
    obtain ⟨hstep, heng, hvat, hren, hphase⟩ := hwalk
    exact ⟨_, t, exec_onDev (f := fun d => schedWalk d h) rfl rfl, hstep, heng, hvat, hren, hphase,
      fun a => by rw [schedWalk_mem]⟩
  case fill =>
    intro hp
    obtain ⟨m, hfill⟩ := s.dev.vatFilled_only st
    have honly := foldDev_modEng_only (fun e => e) (fun _ x => { x with tTicket := 0 }) st.engines (s.dev.vatFilled st)
    have hnone : ∀ e, e ∉ st.engines →
        (foldDev (s.dev.vatFilled st) st.engines fun d e => d.modEng e fun x => { x with tTicket := 0 }).eng e = s.dev.eng e := by
      intro e he
      refine (foldDev_modEng_eng_ne (e := fun e => e) (g := e) (fun p hp h => he (h ▸ hp)) _).trans ?_
      rw [hfill]
      rfl
    have hzero : ∀ e ∈ st.engines,
        ((foldDev (s.dev.vatFilled st) st.engines fun d e => d.modEng e fun x => { x with tTicket := 0 }).eng e).tTicket = 0 :=
      fun e he => foldDev_modEng_eng (e := fun e => e) (Q := fun y => y.tTicket = 0) ((s.dev.vatFilled st).eng e) (fun _ _ _ => rfl)
        (by rw [List.map_id']; exact he) _ (.inl rfl)
    have hfilled := vatFillDone_eq hst hp
    rw [hfill] at hfilled honly hnone hzero
    generalize (foldDev { s.dev with mem := m } st.engines fun d e => d.modEng e fun x => { x with tTicket := 0 }) = x at *
    have hxst : x.step? n = some st := (congrArg (fun y : Dev => y.step? n) honly).trans hst
    obtain ⟨hstep, heng, hother, hframe, hren⟩ := Dev.startKernel_starts (k := 0) hxst
    refine ⟨_, exec_onDev (f := fun d => vatFillDone d n) rfl hfilled, hstep, fun e he => ?_, fun e he => ?_, ?_, ?_⟩
    · obtain ⟨hrun, hpc, hx10, hs, ht⟩ := heng e he
      exact ⟨hrun, hpc, hx10, hs, ht.trans (hzero e he)⟩
    · exact (hother e he).trans (hnone e he)
    · have hall := congrArg (Dev.unstarted s.dev) hframe
      have hbase := congrArg (Dev.unstarted s.dev) honly
      exact (hall.trans hbase :)
    · have hrx : x.rennet = s.dev.rennet := (congrArg Dev.rennet honly :)
      rw [hrx] at hren
      exact hren

end Sys2Proof.Machine

/-!
The end of a step: its record, its grants' return, and the stages of a pre-emption (chapters 05 and 15).
-/
namespace Sys2Proof.Machine

/-! ### What the return of a grant leaves of records and steps (R452) -/

/-- The contexts stay, a recorded step stays recorded, and a step that is gone stays gone. -/
structure Dev.Closes (d d' : Dev) : Prop where
  ctxs : d'.host.ctxs = d.host.ctxs
  recorded : ∀ n t, d.step? n = some t → t.phase = .recorded → ∃ t', d'.step? n = some t' ∧ t'.phase = .recorded
  gone : ∀ n, d.step? n = none → d'.step? n = none

theorem Dev.Closes.of_books {d d' : Dev} (h : d'.books = d.books) : d.Closes d' :=
  ⟨Dev.ctxs_of_books h, fun n t ht hp => ⟨t, (Dev.step_of_books h n).trans ht, hp⟩, fun n hn => (Dev.step_of_books h n).trans hn⟩

theorem Dev.Closes.refl (d : Dev) : d.Closes d := .of_books rfl

theorem Dev.Closes.trans {d e f : Dev} (h : d.Closes e) (k : e.Closes f) : d.Closes f :=
  ⟨k.ctxs.trans h.ctxs, fun n t ht hp => by
    obtain ⟨t', ht', hp'⟩ := h.recorded n t ht hp
    exact k.recorded n t' ht' hp', fun n hn => k.gone n (h.gone n hn)⟩

theorem foldDev_closes {α : Type} {f : Dev → α → Dev} (hf : ∀ (d : Dev) x, d.Closes (f d x)) (d : Dev) (l : List α) :
    d.Closes (foldDev d l f) :=
  foldDev_keeps d.Closes (fun e x h => h.trans (hf e x)) l (.refl d)

/-- A change of one step that is not recorded, or that stays recorded. -/
theorem Dev.modStep_closes (d : Dev) (n : Nat) {f : Step → Step}
    (hf : ∀ t, d.step? n = some t → t.phase = .recorded → (f t).phase = .recorded) : d.Closes (d.modStep n f) := by
  refine ⟨rfl, fun m t ht hp => ?_, fun m hm => ?_⟩
  · by_cases h : m = n
    · subst h
      exact ⟨f t, by rw [Dev.step?_modStep_self, ht]; rfl, hf t ht hp⟩
    · exact ⟨t, by rw [Dev.step?_modStep_ne d f h]; exact ht, hp⟩
  · by_cases h : m = n
    · subst h
      rw [Dev.step?_modStep_self, hm]
      rfl
    · rw [Dev.step?_modStep_ne d f h]
      exact hm

theorem Dev.stopEng_closes (d : Dev) (e : Fin 128) : d.Closes (d.stopEng e) :=
  .of_books (by
    unfold Dev.books
    rw [Dev.stopEng_host, (d.stopEng_ops_sched e).2])

theorem Dev.endStep_closes (d : Dev) (n : Nat) (o : Outcome) : d.Closes (d.endStep n o) := by
  unfold Dev.endStep
  split
  · exact .refl d
  next s hs =>
    split
    · exact .refl d
    next hp =>
      have hstop : d.Closes (d.stopAll n s.engines) := foldDev_closes (fun e g => by
        split
        · exact e.stopEng_closes g
        · exact .refl e) d s.engines
      have hnot : s.phase ≠ .recorded := fun h => hp (by simp [h])
      refine (hstop.trans (Dev.modStep_closes _ n fun t ht hr => ?_)).trans (.of_books rfl)
      rw [Dev.step?, Dev.stopAll_sched] at ht
      obtain rfl := Option.some.inj (ht.symm.trans hs)
      exact absurd hr hnot

theorem Dev.failEng_closes (d : Dev) (e : Fin 128) (st : Status) (detail addr : Nat) : d.Closes (d.failEng e st detail addr) := by
  unfold Dev.failEng
  split
  · exact (d.stopEng_closes e).trans (Dev.endStep_closes _ _ _)
  · exact .refl d

theorem Dev.dropWaits_closes (d : Dev) (obj : Nat) (st : Status) : d.Closes (d.dropWaits obj st) := by
  have hgone : d.Closes (d.modRennet fun r => { r with waiters := r.waiters.filter fun w => w.obj != obj }) := .of_books rfl
  refine hgone.trans (foldDev_closes (fun e w => ?_) _ _)
  split
  · exact .of_books (e.answerWaiter_sends _ _ _).books
  · exact e.failEng_closes _ _ _ _

theorem Dev.freeObjs_closes (d : Dev) (first count : Nat) : d.Closes (d.freeObjs first count) :=
  (foldDev_closes (fun e i => e.dropWaits_closes (first + i) .unmapped) d _).trans (.of_books rfl)

theorem Dev.release_closes (d : Dev) (n : Nat) : d.Closes (d.release n) := by
  unfold Dev.release
  split
  · exact .refl d
  next s _ =>
    extract_lets away d1 clear d2 d3 d4
    have h1 : d.Closes d1 := foldDev_closes (fun e g => by split <;> exact .of_books rfl) d _
    have hclear (e : Dev) (h : Half) : e.Closes (clear e h) := by
      simp only [clear]
      split
      · exact .refl e
      · exact ⟨rfl, fun n t ht hp => ⟨t, ht, hp⟩, fun _ hn => hn⟩
    exact (((h1.trans ((hclear d1 .west).trans (hclear _ .east))).trans (d2.freeObjs_closes _ _)).trans
      (d3.freeObjs_closes _ _)).trans (d4.modStep_closes n (fun _ _ hp => hp))

/-- A step that is finished: marked, its grants perhaps returned at once, and its record queued where its context exists. -/
theorem Dev.finish_eq {d : Dev} {n : Nat} {st : Step} (hst : d.step? n = some st) :
    ∃ y, (d.modStep n fun s => { s with phase := .recorded }).Closes y ∧
      d.finish n = match y.ctx? st.ctx with
        | some _ => y.queueRec st.ctx (stepRec n st)
        | none => y.modSched (fun x => { x with steps := tdel x.steps n }) := by
  unfold Dev.finish
  rw [hst]
  have hroom : ∀ (b : Bool) (x : Dev), x.Closes (if b then x.release n else x) := fun b x => by
    cases b
    · exact .refl x
    · exact x.release_closes n
  exact ⟨_, hroom _ _, rfl⟩

/-- A finished step queues its record with its context, and waits recorded until the record is posted (R452). -/
theorem Dev.finish_queues {d : Dev} {n : Nat} {st : Step} {c : Ctx} (hst : d.step? n = some st) (hc : d.ctx? st.ctx = some c) :
    (d.finish n).ctx? st.ctx = some { c with recs := c.recs ++ [stepRec n st] } ∧
      ∃ t, (d.finish n).step? n = some t ∧ t.phase = .recorded := by
  obtain ⟨y, hcloses, hfin⟩ := Dev.finish_eq hst
  have hx : (d.modStep n fun s => { s with phase := .recorded }).step? n = some { st with phase := .recorded } := by
    rw [Dev.step?_modStep_self, hst]
    rfl
  have hy : y.ctx? st.ctx = some c := by
    rw [Dev.ctx?, hcloses.ctxs]
    exact hc
  obtain ⟨t, ht, hp⟩ := hcloses.recorded n _ hx rfl
  rw [hfin, hy]
  refine ⟨?_, t, ht, hp⟩
  show (y.modCtx st.ctx _).ctx? st.ctx = _
  rw [Dev.ctx_modCtx_self, hy]
  rfl

theorem stepDrainDone_eq {d : Dev} {n : Nat} {st : Step} (hst : d.step? n = some st) (hp : st.phase = .draining)
    (hwork : d.workLeft n st = false) (hfly : d.inFlight n st = false) : stepDrainDone d n = (d.freeRegions n).finish n := by
  unfold stepDrainDone
  rw [hst]
  dsimp only
  rw [if_neg (by simp [hp, hwork, hfly])]

/-- A step whose status is OK leaves its output regions as they are (R160). -/
theorem Dev.freeRegions_of_ok {d : Dev} {n : Nat} {st : Step} (hst : d.step? n = some st) (hok : (st.outcome.getD {}).status = .ok) :
    d.freeRegions n = d := by
  unfold Dev.freeRegions
  rw [hst]
  exact if_pos hok

@[simp] theorem Dev.finish_mem' (d : Dev) (n : Nat) : (d.finish n).mem = d.mem := by
  unfold Dev.finish
  split
  · rfl
  · dsimp only
    split
    · split <;> simp [Dev.queueRec, Dev.modCtx]
    · split <;> simp

/-! ### Records that are posted (R452, R481 to R483) -/

/-- A context whose records and posted count are known, whatever its account says. -/
def Dev.Posted (c : Nat) (rs : List CRec) (k : Nat) (d : Dev) : Prop := ∃ x, d.ctx? c = some x ∧ x.recs = rs ∧ x.posted = k

theorem Dev.Posted.of_ctxs {c k : Nat} {rs : List CRec} {d e : Dev} (h : Dev.Posted c rs k d) (he : e.host.ctxs = d.host.ctxs) :
    Dev.Posted c rs k e := by
  obtain ⟨x, hx, hr, hk⟩ := h
  refine ⟨x, ?_, hr, hk⟩
  rw [Dev.ctx?, he]
  exact hx

theorem Dev.Posted.modCtx {c k : Nat} {rs : List CRec} {d : Dev} (h : Dev.Posted c rs k d) {f : Ctx → Ctx}
    (hf : ∀ x, (f x).recs = x.recs ∧ (f x).posted = x.posted) : Dev.Posted c rs k (d.modCtx c f) := by
  obtain ⟨x, hx, hr, hk⟩ := h
  refine ⟨f x, ?_, (hf x).1.trans hr, (hf x).2.trans hk⟩
  rw [Dev.ctx_modCtx_self, hx]
  rfl

theorem Dev.Posted.acctWrite {c k : Nat} {rs : List CRec} {d : Dev} (h : Dev.Posted c rs k d) (now : Bool) :
    Dev.Posted c rs k (d.acctWrite c now) := by
  unfold Dev.acctWrite
  split
  · exact h
  · split
    · exact h
    · extract_lets seq x y z
      have hx : Dev.Posted c rs k x := h.modCtx fun _ => ⟨rfl, rfl⟩
      have hbooks : ∀ (e : Dev) a bs, Dev.Posted c rs k e → Dev.Posted c rs k (e.fwWrite a bs) :=
        fun e a bs he => he.of_ctxs (Dev.ctxs_of_books (e.fwWrite_books a bs))
      exact hbooks _ _ _ (hbooks _ _ _ (hbooks _ _ _ hx))

theorem Dev.Posted.acctStep {c k : Nat} {rs : List CRec} {d : Dev} (h : Dev.Posted c rs k d) (ok : Bool) :
    Dev.Posted c rs k (d.acctStep c ok) := by
  unfold Dev.acctStep
  extract_lets x
  have hx : Dev.Posted c rs k x := h.modCtx fun _ => ⟨rfl, rfl⟩
  split
  · split
    · exact hx.acctWrite false
    · exact hx
  · exact hx

theorem Dev.acctWrite_sched (d : Dev) (c : Nat) (now : Bool) : (d.acctWrite c now).sched = d.sched := by
  unfold Dev.acctWrite
  split
  · rfl
  · split
    · rfl
    · extract_lets seq x y z
      have hbooks : ∀ (e : Dev) a bs, (e.fwWrite a bs).sched = e.sched := fun e a bs => Dev.sched_of_books (e.fwWrite_books a bs)
      exact (hbooks _ _ _).trans ((hbooks _ _ _).trans (hbooks _ _ _))

theorem Dev.acctStep_sched (d : Dev) (c : Nat) (ok : Bool) : (d.acctStep c ok).sched = d.sched := by
  unfold Dev.acctStep
  extract_lets x
  split
  · split
    · exact x.acctWrite_sched c false
    · rfl
  · rfl

/-- The step of a posted record goes, with what it held and its place in the account (R452, R483). -/
def Dev.closeRec (d : Dev) (c : Nat) (r : CRec) : Dev :=
  match r.step with
  | some n => ((d.release n).modSched (fun s => { s with steps := tdel s.steps n })).acctStep c r.ok
  | none => d

theorem completionPost_eq {d : Dev} {c : Nat} {x : Ctx} {r : CRec} {rs : List CRec} (hx : d.ctx? c = some x)
    (hrecs : x.recs = r :: rs) (hroom : x.room ≠ 0) :
    ∃ (a : Word) (due : Bool), completionPost d c =
      let z := (d.fwWrite a (recBytes r x.posted x.log2)).modCtx c fun x =>
        { x with recs := rs, posted := x.posted + 1, unsig := if due then 0 else x.unsig + 1 }
      if due then (z.closeRec c r).fwSignal x.bind else z.closeRec c r := by
  unfold completionPost
  rw [hx]
  dsimp only
  rw [hrecs]
  dsimp only
  rw [if_neg hroom]
  exact ⟨_, _, rfl⟩

theorem Dev.Posted.closeRec {c k : Nat} {rs : List CRec} {d : Dev} (h : Dev.Posted c rs k d) (r : CRec) :
    Dev.Posted c rs k (d.closeRec c r) := by
  unfold Dev.closeRec
  split
  next n _ =>
    exact Dev.Posted.acctStep (d := (d.release n).modSched _) (h.of_ctxs (d.release_closes n).ctxs) r.ok
  · exact h

theorem Dev.closeRec_gone (d : Dev) (c : Nat) {r : CRec} {n : Nat} (hr : r.step = some n) : (d.closeRec c r).step? n = none := by
  unfold Dev.closeRec
  rw [hr]
  dsimp only
  rw [Dev.step?, Dev.acctStep_sched]
  exact tget_tdel_self _ _

/-- The first held record of a context whose ring has room is posted, and its step is gone (R452). -/
theorem completionPost_posts {d : Dev} {c : Nat} {x : Ctx} {r : CRec} {rs : List CRec} (hx : d.ctx? c = some x)
    (hrecs : x.recs = r :: rs) (hroom : x.room ≠ 0) :
    Dev.Posted c rs (x.posted + 1) (completionPost d c) ∧ ∀ n, r.step = some n → (completionPost d c).step? n = none := by
  obtain ⟨a, due, hpost⟩ := completionPost_eq hx hrecs hroom
  have hbooks := d.fwWrite_books a (recBytes r x.posted x.log2)
  generalize d.fwWrite a (recBytes r x.posted x.log2) = y at *
  dsimp only at hpost
  have hz : Dev.Posted c rs (x.posted + 1) (y.modCtx c fun x =>
      { x with recs := rs, posted := x.posted + 1, unsig := if due then 0 else x.unsig + 1 }) := by
    refine ⟨{ x with recs := rs, posted := x.posted + 1, unsig := if due then 0 else x.unsig + 1 }, ?_, rfl, rfl⟩
    rw [Dev.ctx_modCtx_self, Dev.ctx_of_books hbooks, hx]
    rfl
  generalize (y.modCtx c fun x =>
    { x with recs := rs, posted := x.posted + 1, unsig := if due then 0 else x.unsig + 1 }) = z at *
  have hw := hz.closeRec r
  have hgone : ∀ n, r.step = some n → (z.closeRec c r).step? n = none := fun n hn => z.closeRec_gone c hn
  generalize z.closeRec c r = w at *
  rw [hpost]
  split
  · exact ⟨hw.of_ctxs (Dev.ctxs_of_books (w.fwSignal_books _)), fun n hn => (Dev.step_of_books (w.fwSignal_books _) n).trans (hgone n hn)⟩
  · exact ⟨hw, hgone⟩

/-! ### Vat ranges that are cleared (R609) -/

theorem vatClearDone_eq {d : Dev} {h : Half} {r : Nat × Nat} {rs : List (Nat × Nat)}
    (hc : (Two.get d.sched.half h).clearing = r :: rs) :
    vatClearDone d h = { d with mem := cellsClear d.mem (vatOff (0x10000000 * halfIdx h + r.1)) r.2 }.modSched fun x =>
      { x with half := Two.mod x.half h fun y => { y with clearing := rs } } := by
  unfold vatClearDone
  rw [hc]

/-- Settles O17: the record that a drained step queues, its posting, and the range that is cleared. -/
theorem stepsComplete : Obligations.StepsComplete := by
  unfold Obligations.StepsComplete
  refine ⟨?drain, ?post, ?clear⟩
  case drain =>
    intro s n st c hst hp hc hwork hfly
    have hfree := s.dev.freeRegions_books n
    obtain ⟨hctx, hrec⟩ := Dev.finish_queues ((Dev.step_of_books hfree n).trans hst) ((Dev.ctx_of_books hfree st.ctx).trans hc)
    refine ⟨_, _, exec_onDev (f := fun d => stepDrainDone d n) rfl (stepDrainDone_eq hst hp hwork hfly), hctx, rfl, hrec,
      fun hok a => ?_⟩
    rw [Dev.finish_mem', Dev.freeRegions_of_ok hst hok]
  case post =>
    intro s c x r rs hx hrecs hroom
    obtain ⟨⟨x', hx', hr, hk⟩, hgone⟩ := completionPost_posts hx hrecs hroom
    exact ⟨_, x', exec_onDev (f := fun d => completionPost d c.val) rfl rfl, hx', hr, hk, hgone⟩
  case clear =>
    intro s h r rs hc hwf
    refine ⟨_, exec_onDev (f := fun d => vatClearDone d h) rfl (vatClearDone_eq hc), ?_, fun a => ?_, rfl⟩
    · show (Two.get (Two.mod s.dev.sched.half h fun y => { y with clearing := rs }) h).clearing = rs
      rw [Two.get_mod_self]
    · split
      next hin => exact cellGet_cellsClear_in hin.1 hin.2
      next hout => exact cellGet_cellsClear_out hwf (by omega)

/-! ### Pre-emption, stage by stage (R470 to R476, Table 15.2) -/

theorem Dev.setHalf_only (d : Dev) (h : Half) (f : SchedHalf → SchedHalf) : { d.setHalf h f with sched := d.sched } = d := rfl

theorem Dev.abandon_sched (d : Dev) (e : Fin 128) : (d.abandon e).sched = d.sched := by
  unfold Dev.abandon
  dsimp only
  split <;> rfl

/-- The first two stages of a victim (Table 15.2). -/
theorem preemptStart_stops {d : Dev} {n v : Nat} {st : Step} (hst : d.step? n = some st) (hp : st.phase = .running)
    (hv : st.victimOf = some v) (hstop : ∀ e ∈ st.engines, (d.eng e).stopAs.isSome) :
    ∃ t, (preemptStart d n).step? n = some t ∧ t.phase = .stopping := by
  have hall : st.engines.all (fun e => (d.eng e).stopAs.isSome) = true := List.all_eq_true.2 hstop
  unfold preemptStart
  rw [hst]
  dsimp only
  rw [if_neg (by simp [hp, hv, hall])]
  generalize hx : foldDev d st.engines _ = x
  have hsched : x.sched = d.sched := by
    rw [← hx]
    refine foldDev_keeps (fun e => e.sched = d.sched) (fun e g he => ?_) _ rfl
    exact (e.abandon_sched g).trans he
  generalize hy : x.modCoh _ = y
  have hyst : y.step? n = some st := by
    rw [← hy]
    show tget x.sched.steps n = _
    rw [hsched]
    exact hst
  have hun : ∃ t, (y.unqueue n).step? n = some t := by
    unfold Dev.unqueue
    dsimp only
    rw [Dev.step?_modStep_self]
    exact ⟨_, (congrArg (Option.map _) hyst).trans rfl⟩
  obtain ⟨t, ht⟩ := hun
  refine ⟨{ t with phase := .stopping }, ?_, rfl⟩
  show ((y.unqueue n).modStep n _).step? n = _
  rw [Dev.step?_modStep_self, ht]
  rfl

/-- What a pre-emption that ends with no candidate waiting leaves (R473). -/
def Dev.savedAway (d : Dev) (n : Nat) (s : Step) : Dev :=
  let d := d.saveUsers n s
  let d := foldDev d s.engines (fun d e => d.modEng e (fun x =>
    { x with step := none, run := .idle, l1d := [], l1i := [], halted := false, stepping := false }))
  { d with tongs := d.tongs.map (fun (p : Nat × List Xfer) => if s.engines.any (fun e => e.val == p.1 / 4) then (p.1, []) else p) }

theorem preemptSaveDone_eq {d : Dev} {n : Nat} {st : Step} (hst : d.step? n = some st) (hp : st.phase = .saving)
    (hv : st.victimOf = none) :
    preemptSaveDone d n = ((d.savedAway n st).modStep n fun s => { s with phase := .saved, fetchT := (d.savedAway n st).count }).modCtx
      st.ctx fun c => { c with acct := { c.acct with preempts := c.acct.preempts + 1 } } := by
  unfold preemptSaveDone
  rw [hst]
  dsimp only
  rw [if_neg (by simp [hp]), hv]
  rfl

theorem Dev.savedAway_keeps (d : Dev) (n : Nat) (st : Step) :
    (d.savedAway n st).sched = d.sched ∧ (d.savedAway n st).host = d.host ∧ (d.savedAway n st).count = d.count ∧
      ∀ e ∈ st.engines, ((d.savedAway n st).eng e).step = none ∧ ((d.savedAway n st).eng e).run = .idle := by
  have honly := foldDev_modEng_only (fun e : Fin 128 => e) (fun _ x =>
    { x with step := none, run := .idle, l1d := [], l1i := [], halted := false, stepping := false }) st.engines (d.saveUsers n st)
  refine ⟨(congrArg Dev.sched honly :), (congrArg Dev.host honly :), (congrArg Dev.count honly :), fun e he => ?_⟩
  exact foldDev_modEng_eng (e := fun e => e) (Q := fun y => y.step = none ∧ y.run = .idle) ((d.saveUsers n st).eng e)
    (fun _ _ _ => ⟨rfl, rfl⟩) (by rw [List.map_id']; exact he) _ (.inl rfl)

/-- The package as a restore has brought it back, but for the step's phase (R476). -/
theorem restoreDone_steps {d : Dev} {n : Nat} {st : Step} (hst : d.step? n = some st) (hp : st.phase = .restoring)
    (hdom : ∀ k ∈ st.domains, d.awake k = true) :
    (restoreDone d n).step? n = some { st with
      phase := .running, saveVat := ⟨[], []⟩, saveEng := [], saveTongs := [], victimOf := none, parked := none } := by
  have hall : st.domains.all d.awake = true := List.all_eq_true.2 hdom
  unfold restoreDone
  rw [hst]
  dsimp only
  rw [if_neg (by simp [hp, hall])]
  generalize hx : foldDev _ st.saveEng _ = x
  have hsched : x.sched = d.sched := by
    rw [← hx]
    refine foldDev_keeps (fun e => e.sched = d.sched) (fun e g he => ?_) _ rfl
    exact he
  rw [Dev.step?_modStep_self]
  show Option.map _ (tget x.sched.steps n) = _
  rw [hsched]
  exact (congrArg (Option.map _) hst).trans rfl

/-- Settles O19: each stage of a pre-emption by its own lemma. -/
theorem preemptionStages : Obligations.PreemptionStages := by
  unfold Obligations.PreemptionStages
  refine ⟨?blocked, ?start, ?save, ?saved, ?restore⟩
  case blocked =>
    intro s h n hin hout
    refine ⟨_, exec_onDev (f := fun d => d.setHalf h fun x =>
      if x.blocked.contains n && !x.timedOut.contains n then { x with timedOut := x.timedOut ++ [n] } else x) rfl rfl, ?_, rfl⟩
    show (Two.get (Two.mod s.dev.sched.half h _) h).timedOut = _
    rw [Two.get_mod_self, if_pos (by simp [hin, hout])]
  case start =>
    intro s n v st hst hp hv hstop
    obtain ⟨t, ht, hphase⟩ := preemptStart_stops hst hp hv hstop
    exact ⟨_, t, exec_onDev (f := fun d => preemptStart d n) rfl rfl, ht, hphase, fun a => by rw [preemptStart_mem]⟩
  case save =>
    intro s n st hst hp ho hops hfly
    have hnone : s.dev.anvil.ops.any (fun p => p.2.step == n) = false := by
      rw [List.any_eq_false]
      exact fun p hp' => by simpa using hops p hp'
    refine ⟨preemptSave s.dev n, ?_⟩
    have hsave : ∃ f : Step → Step, preemptSave s.dev n = s.dev.modStep n f ∧ (f st).phase = .saving ∧
        (f st).saveEng = st.engines.map (fun e => (e.val, { s.dev.eng e with l1d := [], l1i := [] })) := by
      unfold preemptSave
      rw [hst]
      dsimp only
      rw [if_neg (by simp [hp, ho, hnone, hfly])]
      exact ⟨_, rfl, rfl, rfl⟩
    obtain ⟨f, hf, hphase, heng⟩ := hsave
    refine ⟨f st, exec_onDev (f := fun d => preemptSave d n) rfl rfl, ?_, hphase, heng, ?_⟩
    · rw [hf, Dev.step?_modStep_self, hst]
      rfl
    · rw [hf]
      rfl
  case saved =>
    intro s n st c hst hp hv hc
    obtain ⟨hsched, hhost, hcount, heng⟩ := s.dev.savedAway_keeps n st
    have hdone := preemptSaveDone_eq hst hp hv
    have hmem := preemptSaveDone_mem s.dev n
    rw [hdone] at hmem
    generalize s.dev.savedAway n st = x at *
    refine ⟨_, exec_onDev (f := fun d => preemptSaveDone d n) rfl hdone, ?_, heng, ?_, fun a => by rw [hmem]⟩
    · show (x.modStep n _).step? n = _
      rw [Dev.step?_modStep_self, Dev.step?, hsched, hcount]
      exact (congrArg (Option.map _) hst).trans rfl
    · rw [Dev.ctx_modCtx_self]
      show Option.map _ (tget x.host.ctxs st.ctx) = _
      rw [hhost]
      exact (congrArg (Option.map _) hc).trans rfl
  case restore =>
    intro s n st hst hp hdom
    exact ⟨_, exec_onDev (f := fun d => restoreDone d n) rfl rfl, restoreDone_steps hst hp hdom⟩

end Sys2Proof.Machine

/-!
Accesses of vector engines (R120 to R127, R176, R222, R236): the address of a granted Vat byte, and what a load, a store and an
atomic of an engine come to there while nothing of the engine is under way.
-/
namespace Sys2Proof.Machine

/-! ### Addresses of Vat bytes (R21, Table 1.6) -/

section Vat
variable {d : Dev} {e : Fin 128} {n v w : Nat} {st : Step} {a : Word}

/-- A Vat address of this node within the storage of its half. -/
def VatByte (v : Nat) : Prop := v < 0x20000000 ∧ v % 0x10000000 < vatSize

/-- The own global address of a Vat byte. -/
def vatAddr (v : Nat) : Nat := 0xFF * 2 ^ 48 + vatBase + v

theorem vatAddr_eq (v : Nat) : 0xFF * 2 ^ 48 + vatOff v = vatAddr v := (Nat.add_assoc _ _ _).symm

theorem vatAddr_fld (hv : VatByte v) : fld (vatAddr v) 48 8 = 0xFF := by
  have := hv.1
  simp only [fld, vatAddr, vatBase]
  omega

theorem vatAddr_off (hv : VatByte v) : vatAddr v % 2 ^ 48 = vatOff v := by
  have := hv.1
  simp only [vatAddr, vatOff, vatBase]
  omega

theorem isVat_vatOff (hv : VatByte v) : isVat (vatOff v) = true := by
  obtain ⟨hlt, hin⟩ := hv
  simp only [isVat, vatOff, Nat.add_sub_cancel_left, Bool.and_eq_true]
  exact ⟨⟨decide_eq_true (Nat.le_add_right _ _), decide_eq_true (Nat.add_lt_add_left hlt _)⟩, decide_eq_true hin⟩

theorem Dev.target_vatAddr (hv : VatByte v) (l : Bool) : d.target l (vatAddr v) = .vat (vatOff v) := by
  have hge : ¬vatOff v < 0x400000000000 := by simp only [vatOff, vatBase]; omega
  simp only [Dev.target, vatAddr_fld hv, vatAddr_off hv, decide_true, Bool.true_or, if_true]
  rw [localTarget, if_neg hge, if_pos (isVat_vatOff hv)]

theorem Dev.vatWindow_vatAddr (hv : VatByte v) : d.vatWindow (vatAddr v) = some v := by
  have hown : d.ownOff (vatAddr v) = some (vatOff v) := by
    rw [Dev.ownOff, vatAddr_fld hv, vatAddr_off hv]
    rfl
  have hlt := hv.1
  have hwin : (decide (vatBase ≤ vatOff v) && decide (vatOff v < vatBase + 0x20000000)) = true := by
    simp only [vatOff, Bool.and_eq_true]
    exact ⟨decide_eq_true (Nat.le_add_right _ _), decide_eq_true (Nat.add_lt_add_left hlt _)⟩
  rw [Dev.vatWindow, hown]
  dsimp only
  rw [if_pos hwin, vatOff, Nat.add_sub_cancel_left]

theorem toNat_vatAddr (hv : VatByte v) : (BitVec.ofNat 64 (vatAddr v)).toNat = vatAddr v := by
  have := hv.1
  rw [BitVec.toNat_ofNat]
  exact Nat.mod_eq_of_lt (by simp only [vatAddr, vatBase]; omega)

/-! ### Resolution and pieces (R123, R126, R176) -/

/-- An engine access to a Vat byte is judged by the step's grant alone, in either spelling of what it wants. -/
theorem Dev.engResolve_vat (hv : VatByte v) (ha : a.toNat = vatAddr v) (k : AccKind) (mis home : Bool) :
    d.engResolve e k a w mis home = d.engVat e k v w mis := by
  rw [Dev.engResolve, ha, Dev.vatWindow_vatAddr hv]
  exact if_neg (Nat.not_le.2 hv.2)

theorem Dev.engVat_covered (hn : (d.eng e).step = some n) (hst : d.step? n = some st) (hcov : st.covers v w = true)
    {k : AccKind} (hlr : k ≠ .lr) (hsc : k ≠ .sc) : d.engVat e k v w false = .vat v := by
  simp [Dev.engVat, hlr, hsc, hn, hst, hcov]

/-- R126: a Vat has no LR and no SC. -/
theorem Dev.engVat_reserved {k : AccKind} (hk : k = .lr ∨ k = .sc) (mis : Bool) : d.engVat e k v w mis = .exc k.faultCode := by
  obtain rfl | rfl := hk <;> rfl

/-- An aligned access within a line is one piece. -/
theorem pieces_one {b k : Nat} (hfit : b % 64 + k ≤ 64) : pieces b k = [(0, k)] := if_pos (by omega)

theorem vatAddr_mod (hw : w ∣ 8) (hal : v % w = 0) : vatAddr v % w = 0 := by
  obtain ⟨c, hc⟩ := hw
  have hdvd : w ∣ 0xFF * 2 ^ 48 + vatBase := (Dvd.intro c hc.symm).trans (by decide : (8 : Nat) ∣ 0xFF * 2 ^ 48 + vatBase)
  exact Nat.mod_eq_zero_of_dvd (Nat.dvd_add hdvd (Nat.dvd_of_mod_eq_zero hal))

theorem vatAddr_fit (hw : w ∣ 8) (hal : v % w = 0) : vatAddr v % 64 + w ≤ 64 := by
  have hmod := vatAddr_mod hw hal
  have hle := Nat.le_of_dvd (by decide) hw
  obtain ⟨c, hc⟩ := hw
  have h64 : vatAddr v % 64 % w = 0 := by
    rw [Nat.mod_mod_of_dvd _ (⟨c * 8, by rw [← Nat.mul_assoc, ← hc]⟩ : w ∣ 64)]
    exact hmod
  obtain ⟨q, hq⟩ := Nat.dvd_of_mod_eq_zero h64
  have hlt : w * q < w * (c * 8) := by
    rw [← hq, ← Nat.mul_assoc, ← hc]
    exact Nat.mod_lt _ (by decide)
  have := Nat.mul_le_mul_left w (Nat.lt_of_mul_lt_mul_left hlt)
  rw [Nat.mul_succ, ← hq, ← Nat.mul_assoc, ← hc] at this
  exact this

/-! ### Loads and stores of an engine (R123, R236) -/

section Covered
variable (hv : VatByte v) (ha : a.toNat = vatAddr v) (hn : (d.eng e).step = some n) (hst : d.step? n = some st)
  (hcov : st.covers v w = true)
include hv ha hn hst hcov

/-- What an engine reads at a Vat: the bytes as a running share has let them appear, under its own writes in flight. -/
def Dev.seen (d : Dev) (e : Fin 128) (v w : Nat) : List Byte :=
  (d.surface v w).overlay (.engine e) (vatAddr v) ((d.surface v w).rd (vatOff v) w)

theorem Dev.engLoadPiece_vat (home : Bool) (ext : List Byte) :
    d.engLoadPiece e home a w false ext = .bytes (d.seen e v w) (d.surface v w) := by
  rw [Dev.engLoadPiece, Dev.engResolve_vat hv ha, Dev.engVat_covered hn hst hcov (by decide) (by decide)]
  dsimp only
  rw [vatAddr_eq]
  rfl

theorem Dev.engLoadBytes_vat (hw : w ∣ 8) (hal : v % w = 0) (ext : List Byte) :
    d.engLoadBytes e false a w w ext = .bytes (d.seen e v w) (d.surface v w) := by
  have hpiece := Dev.engLoadPiece_vat hv ha hn hst hcov false ext
  have hmis : decide (a.toNat % w ≠ 0) = false := by rw [ha, vatAddr_mod hw hal]; rfl
  rw [Dev.engLoadBytes, ha, pieces_one (vatAddr_fit hw hal), ← ha]
  simp only [List.foldl_cons, List.foldl_nil, hmis, List.drop_zero, BitVec.add_zero, hpiece,
    List.nil_append]

theorem Dev.engStoreTo_vat (hw : w ∣ 8) (hal : v % w = 0) : d.engStoreTo e a w w = .ok [(vatAddr v, w)] := by
  have hmis : decide (a.toNat % w ≠ 0) = false := by rw [ha, vatAddr_mod hw hal]; rfl
  have hto := (Dev.engResolve_vat (d := d) (e := e) (w := w) hv ha .store false false).trans
    (Dev.engVat_covered hn hst hcov (by decide) (by decide))
  rw [Dev.engStoreTo, ha, pieces_one (vatAddr_fit hw hal), ← ha]
  simp only [List.foldl_cons, List.foldl_nil, hmis, BitVec.add_zero, hto, List.nil_append, vatAddr_eq]
  rw [ha]

end Covered

/-! ### An engine with nothing under way (R18, R222) -/

/-- An engine with no write and no Rennet operation outstanding. -/
def Dev.engQuiet (d : Dev) (e : Fin 128) : Prop :=
  (∀ w ∈ d.writes, w.src ≠ .engine e) ∧ d.rennetOut (.engine e) (fun _ => true) = false

theorem OutW.of_engine {x : OutW} (h : x.src ≠ .engine e) : x.of (.engine e) 0 = false := by
  unfold OutW.of sameSource
  split
  · simp_all
  · simp_all
  · exact beq_false_of_ne h

/-- Of fewer objects fewer operations are on their way. -/
theorem Dev.rennetOut_mono {src : Agent} (f : Nat → Bool) (h : d.rennetOut src (fun _ => true) = false) :
    d.rennetOut src f = false := by
  rw [Dev.rennetOut, List.any_eq_false] at h ⊢
  intro m hm
  have hm' := h m hm
  cases m with
  | sig s k obj x y z =>
    cases k
    case sig =>
      dsimp only at hm' ⊢
      cases hs : d.srcAgent s with
      | none => simp
      | some b => simp_all
    all_goals simp_all
  | add s obj x y =>
    dsimp only at hm' ⊢
    cases hs : d.srcAgent s with
    | none => simp
    | some b => simp_all
  | _ => simp_all

section Quiet
variable (hq : d.engQuiet e)
include hq

theorem Dev.engQuiet.writes_any (p : OutW → Bool) : d.writes.any (fun x => x.of (.engine e) 0 && p x) = false := by
  rw [List.any_eq_false]
  intro x hx
  simp [OutW.of_engine (hq.1 x hx)]

theorem Dev.engQuiet.mustHold (p : Path) (t : Target) (mem bank : Bool) :
    d.mustHold (.engine e) 0 p t mem bank = false := by
  rw [Dev.mustHold, hq.writes_any, hq.2]
  simp [Dev.lineStores]

/-- Its releases have completed. -/
theorem Dev.engQuiet.released (sc : Scope) : d.released (.engine e) sc = true := by
  rw [Dev.released, hq.writes_any, Dev.rennetOut_mono _ hq.2]
  simp [Dev.lineStores]

theorem Dev.engQuiet.contReady (k : Cont) : d.contReady e k = true := by
  cases k <;> simp [Dev.contReady, hq.mustHold]

/-- A release goes on at once. -/
theorem Dev.engQuiet.release (sc : Scope) (k : Cont) : d.release_ e sc k = (d.setRun e (.release sc k)).runCont e k :=
  Dev.release_go (hq.released sc) (hq.contReady k)

/-- A write of the engine within one line of a Vat is performed at its bank. -/
theorem Dev.engQuiet.issueWrites_vat (hv : VatByte v) {bs : List Byte} (hpos : 0 < bs.length)
    (hfit : vatAddr v % 64 + bs.length ≤ 64) : d.issueWrites (.engine e) (vatAddr v) bs none = d.vatPut v bs none := by
  have hunits : writeUnits (.engine e) 0 (vatAddr v) bs false = [(vatAddr v, bs)] := by
    rw [writeUnits, lines64_line hpos hfit]
    simp
  rw [Dev.issueWrites, Option.isSome_none, hunits]
  simp only [foldDev, List.foldl_cons, List.foldl_nil, Dev.issueWrite, Dev.target_vatAddr hv, Option.isSome_none, hq.mustHold,
    Bool.false_eq_true, if_false, Dev.launch, vatOff, Nat.add_sub_cancel_left]

end Quiet

/-- The package after a write of the engine's instruction to a Vat byte on, which retires. -/
def Dev.vatStored (d : Dev) (e : Fin 128) (v : Nat) (bs : List Byte) : Dev := (d.vatPut v bs none).modEng e Engine.retire

theorem Dev.engQuiet.storeBytes (hq : d.engQuiet e) (hv : VatByte v) (ha : a.toNat = vatAddr v) (hn : (d.eng e).step = some n)
    (hst : d.step? n = some st) (hcov : st.covers v w = true) (hw : w ∣ 8) (hal : v % w = 0) (x : Nat) :
    d.engStoreBytes e a (leBytes w x) w = .bytes [] (d.vatPut v (leBytes w x) none) := by
  have hlen : (leBytes w x).length = w := leBytes_length w x
  have htake : (leBytes w x).take w = leBytes w x := List.take_of_length_le (by omega)
  have hput := hq.issueWrites_vat hv (bs := leBytes w x) (by rw [hlen]; exact Nat.pos_of_dvd_of_pos hw (by decide))
    (by rw [hlen]; exact vatAddr_fit hw hal)
  have ht : (d.vatPut v (leBytes w x) none).target true (vatAddr v) = .vat (vatOff v) := Dev.target_vatAddr hv true
  rw [Dev.engStoreBytes, hlen, Dev.engStoreTo_vat hv ha hn hst hcov hw hal]
  simp only [List.foldl_cons, List.foldl_nil, htake, hput, ht]

/-- A store that is released at once. -/
theorem Dev.engQuiet.storeReleased (hq : d.engQuiet e) (hv : VatByte v) (sc : Scope) {bs : List Byte} (hpos : 0 < bs.length)
    (hfit : vatAddr v % 64 + bs.length ≤ 64) :
    ∃ r, d.release_ e sc (.store (BitVec.ofNat 64 (vatAddr v)) bs) = (d.setRun e r).vatStored e v bs := by
  have hq' : (d.setRun e (.release sc (.store (BitVec.ofNat 64 (vatAddr v)) bs))).engQuiet e := hq
  refine ⟨.release sc (.store (BitVec.ofNat 64 (vatAddr v)) bs), (hq.release sc _).trans ?_⟩
  rw [Dev.runCont, toNat_vatAddr hv, hq'.issueWrites_vat hv hpos hfit]
  rfl

theorem Dev.xsr_vat (hq : d.engQuiet e) (hv : VatByte v) {rs1 : Fin 32} (ha : ((d.eng e).rx rs1).toNat = vatAddr v)
    (hn : (d.eng e).step = some n) (hst : d.step? n = some st) (hcov : st.covers v w = true) (hw : w ∣ 8) (hal : v % w = 0)
    (rs2 : Fin 32) (sc : Scope) :
    ∃ r, d.xsr e rs1 rs2 w sc = (d.setRun e r).vatStored e v (leBytes w ((d.eng e).rx rs2).toNat) := by
  have hlen : (leBytes w ((d.eng e).rx rs2).toNat).length = w := leBytes_length w _
  have hto := (Dev.engResolve_vat (d := d) (e := e) (w := w) hv ha .store false false).trans
    (Dev.engVat_covered hn hst hcov (by decide) (by decide))
  obtain ⟨r, hr⟩ := hq.storeReleased hv sc (bs := leBytes w ((d.eng e).rx rs2).toNat)
    (by rw [hlen]; exact Nat.pos_of_dvd_of_pos hw (by decide)) (by rw [hlen]; exact vatAddr_fit hw hal)
  refine ⟨r, ?_⟩
  unfold Dev.xsr
  dsimp only
  rw [if_neg (by rw [ha, vatAddr_mod hw hal]; exact not_not_intro rfl), hto, ← hr]
  dsimp only
  rw [vatAddr_eq]

theorem Dev.xla_vat (hv : VatByte v) {rs1 : Fin 32} (ha : ((d.eng e).rx rs1).toNat = vatAddr v)
    (hn : (d.eng e).step = some n) (hst : d.step? n = some st) (hcov : st.covers v w = true) (hw : w ∣ 8) (hal : v % w = 0)
    (rd : Fin 32) (sc : Scope) (ext : List Byte) :
    d.xla e rd rs1 w sc ext =
      (d.surface v w).modEng e (fun x => ((x.acquire sc).wx rd (sext (8 * w) (ofLe (d.seen e v w)))).retire) := by
  unfold Dev.xla
  dsimp only
  rw [if_neg (by rw [ha, vatAddr_mod hw hal]; exact not_not_intro rfl), Dev.engLoadPiece_vat hv ha hn hst hcov]

end Vat

/-- With no operation in the Anvils no output appears. -/
theorem Dev.surface_idle {d : Dev} (h : d.anvil.ops = []) (v w : Nat) : d.surface v w = d := by
  have hrun : ∀ x : Half, d.runningIn x = [] := fun x => by rw [Dev.runningIn, h, List.filter_nil]
  simp only [Dev.surface, h, List.filter_nil, foldDev, List.foldl_nil, List.foldl_cons, hrun]

/-! ### The obligations on engine memory -/

/-- Settles O9: each access resolves to the Vat byte, in one piece, and a quiet engine's store leaves at once. -/
theorem engineVatAccesses : Obligations.EngineVatAccesses := by
  intro s e rd rs1 rs2 imm wl sg sc ext n v st hrun hn hst hlt hin
  have hv : VatByte v := ⟨hlt, hin⟩
  have hwl : wl.val % 4 = wl.val := Nat.mod_eq_of_lt wl.isLt
  have hw : 2 ^ wl.val ∣ 8 := (Nat.pow_dvd_pow 2 (Nat.le_of_lt_succ wl.isLt) : 2 ^ wl.val ∣ 2 ^ 3)
  have hstored : ∀ (w : Nat) (r : EngRun) (d : Dev), (d = s.dev.setRun e r ∨ d = s.dev) →
      let t := d.vatStored e v (leBytes w ((s.dev.eng e).rx rs2).toNat)
      t.mem = cellsPut s.dev.mem (vatOff v) (leBytes w ((s.dev.eng e).rx rs2).toNat) ∧
      t.eng e = (s.dev.eng e).retire ∧ (∀ g, g ≠ e → t.eng g = s.dev.eng g) ∧
      { t with mem := s.dev.mem, engines := s.dev.engines, anvil := s.dev.anvil } = s.dev := by
    rintro w r _ (rfl | rfl)
    · refine ⟨rfl, ?_, fun g hg => ?_, rfl⟩
      · rw [Dev.vatStored, Dev.eng_modEng_self]
        exact (congrArg Engine.retire (s.dev.eng_setRun_self e r) :)
      · rw [Dev.vatStored, Dev.eng_modEng_ne _ _ hg]
        exact s.dev.eng_setRun_ne r hg
    · exact ⟨rfl, Dev.eng_modEng_self _ _ _, fun g hg => Dev.eng_modEng_ne _ _ hg, rfl⟩
  refine ⟨fun h w => Dev.surface_idle h v w, fun ha hal hcov => ?load, fun ha hal hcov hq => ?store, fun ha hal hcov => ?xlaW,
    fun ha hal hcov => ?xlaD, fun ha hal hcov hq => ?xsrW, fun ha hal hcov hq => ?xsrD⟩
  case load =>
    refine exec_onDev (f := fun d => if d.canRun e || d.midLoad e then d.engLoad e rs1 imm (.int rd wl sg) ext else d) rfl ?_
    rw [hrun, Bool.true_or, if_pos rfl]
    simp only [Dev.engLoad, hwl, Dev.engLoadBytes_vat hv ha hn hst hcov hw hal]
    rfl
  case store =>
    have hstore : s.dev.engStore e rs1 imm (.int rs2 wl) = s.dev.vatStored e v (leBytes (2 ^ wl.val) ((s.dev.eng e).rx rs2).toNat) := by
      simp only [Dev.engStore, hwl, Dev.engQuiet.storeBytes hq hv ha hn hst hcov hw hal]
      rfl
    exact ⟨_, exec_onEng hrun (f := fun d => d.engStore e rs1 imm (.int rs2 wl)) rfl hstore, hstored _ .running _ (.inr rfl)⟩
  case xlaW => exact exec_onEng hrun (f := fun d => d.xla e rd rs1 4 sc ext) rfl (Dev.xla_vat hv ha hn hst hcov (by decide) hal ..)
  case xlaD => exact exec_onEng hrun (f := fun d => d.xla e rd rs1 8 sc ext) rfl (Dev.xla_vat hv ha hn hst hcov (by decide) hal ..)
  case xsrW =>
    obtain ⟨r, hr⟩ := Dev.xsr_vat hq hv ha hn hst hcov (by decide) hal rs2 sc
    exact ⟨_, exec_onEng hrun (f := fun d => d.xsr e rs1 rs2 4 sc) rfl hr, hstored _ r _ (.inl rfl)⟩
  case xsrD =>
    obtain ⟨r, hr⟩ := Dev.xsr_vat hq hv ha hn hst hcov (by decide) hal rs2 sc
    exact ⟨_, exec_onEng hrun (f := fun d => d.xsr e rs1 rs2 8 sc) rfl hr, hstored _ r _ (.inl rfl)⟩

/-! ### Atomics of an engine (R125, R126, R273) -/

/-- What an atomic asks of its address. -/
def atomKind : AtomOp → AccKind
  | .amo _ _ _ => .atomic
  | .lr _ => .lr
  | .sc _ _ => .sc

section Atomic
variable {d : Dev} {e : Fin 128} {n v w off : Nat} {st : Step} {a : Word}

/-- An atomic on a Vat is performed at the bank at once. -/
theorem Dev.engQuiet.amoVat (hq : d.engQuiet e) (hv : VatByte v) (rd : Fin 32) (sc : Scope) (o : AmoOp) (b : Word)
    (dbl aq : Bool) :
    ∃ r, d.release_ e sc (.amo rd (BitVec.ofNat 64 (vatAddr v)) (.amo o b dbl) aq) =
      ((d.setRun e r).vatAmo v o (if dbl then 8 else 4) b.toNat).2.modEng e (fun x =>
        ((if aq then x.dropL1 else x).wx rd
          (sext (8 * (if dbl then 8 else 4)) (ofLe (d.rd (vatOff v) (if dbl then 8 else 4))))).retire) := by
  refine ⟨.release sc (.amo rd (BitVec.ofNat 64 (vatAddr v)) (.amo o b dbl) aq), (hq.release sc _).trans ?_⟩
  unfold Dev.runCont
  dsimp only
  rw [toNat_vatAddr hv, Dev.target_vatAddr hv]
  simp only [vatOff, Nat.add_sub_cancel_left]
  rfl

/-- An atomic on memory of this node leaves for its home slice, and its engine waits for the reply. -/
theorem Dev.engQuiet.amoUmr (hq : d.engQuiet e) (hoff : off < 2 ^ 46) (rd : Fin 32) (sc : Scope) (op : AtomOp) (aq : Bool) :
    ∃ r, d.release_ e sc (.amo rd (BitVec.ofNat 64 (ownAddr off)) op aq) =
      ((d.setRun e r).send { kind := .atomic, who := .engine e, addr := off, atom := op }).setRun e
        (.reply rd (BitVec.ofNat 64 (ownAddr off)) aq) := by
  have hnat : (BitVec.ofNat 64 (ownAddr off)).toNat = ownAddr off := by
    rw [BitVec.toNat_ofNat]
    exact Nat.mod_eq_of_lt (by simp only [ownAddr]; omega)
  refine ⟨.release sc (.amo rd (BitVec.ofNat 64 (ownAddr off)) op aq), (hq.release sc _).trans ?_⟩
  unfold Dev.runCont
  dsimp only
  rw [hnat, Dev.target_ownAddr _ _ hoff]
  dsimp only
  rw [Dev.sendAtomic, Dev.target_ownAddr _ _ hoff]

variable (hal : a.toNat % w = 0)
include hal

/-- An aligned atomic goes where its address leads. -/
theorem Dev.engAtomicAt_eq (op : AtomOp) (rd : Fin 32) (aq rl : Bool) :
    d.engAtomicAt e rd a w op aq rl = (match d.engResolve e (atomKind op) a w false with
      | .vat v => d.release_ e (if rl then .package else .engine) (.amo rd (BitVec.ofNat 64 (0xFF * 2 ^ 48 + vatOff v)) op aq)
      | .umr off => d.release_ e (if rl then .package else .engine) (.amo rd (BitVec.ofNat 64 (0xFF * 2 ^ 48 + off)) op aq)
      | .remote _ pa => d.release_ e (if rl then .package else .engine) (.amo rd (BitVec.ofNat 64 pa) op aq)
      | t => (d.engStop e a.toNat t).dev) := by
  cases op <;> exact if_neg (not_not_intro hal)

theorem Dev.engAtomicAt_amo (hq : d.engQuiet e) (hv : VatByte v) (ha : a.toNat = vatAddr v) (hn : (d.eng e).step = some n)
    (hst : d.step? n = some st) (hcov : st.covers v w = true) (rd : Fin 32) (o : AmoOp) (b : Word) {dbl : Bool}
    (hw : w = if dbl then 8 else 4) (aq rl : Bool) :
    ∃ r, d.engAtomicAt e rd a w (.amo o b dbl) aq rl =
      ((d.setRun e r).vatAmo v o w b.toNat).2.modEng e (fun x =>
        ((if aq then x.dropL1 else x).wx rd (sext (8 * w) (ofLe (d.rd (vatOff v) w)))).retire) := by
  obtain ⟨r, hr⟩ := hq.amoVat hv rd (if rl then .package else .engine) o b dbl aq
  refine ⟨r, ?_⟩
  rw [Dev.engAtomicAt_eq hal, Dev.engResolve_vat hv ha, Dev.engVat_covered hn hst hcov AccKind.noConfusion AccKind.noConfusion]
  dsimp only
  rw [vatAddr_eq, hr, hw]

/-- R126: LR and SC on a Vat raise an access fault. -/
theorem Dev.engAtomicAt_reserved (hv : VatByte v) (ha : a.toNat = vatAddr v) {op : AtomOp}
    (hres : (atomKind op) = .lr ∨ (atomKind op) = .sc) (rd : Fin 32) (aq rl : Bool) :
    d.engAtomicAt e rd a w op aq rl = d.engExc e (atomKind op).faultCode a.toNat := by
  rw [Dev.engAtomicAt_eq hal, Dev.engResolve_vat hv ha, Dev.engVat_reserved hres]
  rfl

/-- An atomic on backed memory of this node whose translation is held. -/
theorem Dev.engAtomicAt_umr (hq : d.engQuiet e) (hwin : d.vatWindow a.toNat = none) (hren : d.rennetWindow a.toNat = false)
    (hback : d.backed off = true) {pa : Nat} (hpa : d.target true pa = .umr off) {op : AtomOp}
    (hhit : d.xlookup (.engine e) ((d.engCtx e).getD 0) a.toNat (atomKind op).acc = some pa) (rd : Fin 32)
    (aq rl : Bool) :
    ∃ r, d.engAtomicAt e rd a w op aq rl =
      ((d.setRun e r).send { kind := .atomic, who := .engine e, addr := off, atom := op }).setRun e
        (.reply rd (BitVec.ofNat 64 (ownAddr off)) aq) := by
  have hoff := (localTarget_umr (Dev.target_own (.inl rfl) hpa).1).2
  have hto : d.engResolve e (atomKind op) a w false = .umr off := by
    rw [Dev.engResolve, hwin]
    dsimp only
    rw [hren, if_neg Bool.false_ne_true, Dev.xlate_, hhit]
    dsimp only
    rw [Dev.engTarget, hpa]
    cases op <;> simp [hback, atomKind]
  obtain ⟨r, hr⟩ := hq.amoUmr hoff rd (if rl then .package else .engine) op aq
  exact ⟨r, by rw [Dev.engAtomicAt_eq hal, hto]; exact hr⟩

end Atomic

theorem Engine.rx_wx_self (x : Engine) (r : Fin 32) (a : Word) : (x.wx r a).rx r = if r.val = 0 then 0 else a := by
  by_cases h : r.val = 0
  · simp [Engine.rx, h]
  · simp [Engine.rx, Engine.wx, h, tgetD_tput_self]

theorem Engine.wx_pc (x : Engine) (r : Fin 32) (a : Word) : (x.wx r a).pc = x.pc := by
  unfold Engine.wx
  split <;> rfl

/-- Settles O10: an aligned atomic of a quiet engine is performed at the bank, faults there, or leaves for its home. -/
theorem engineAtomics : Obligations.EngineAtomics := by
  intro s e op rd rs1 rs2 dbl aq rl n v off st hrun hn hst hal hw hr
  have hq : s.dev.engQuiet e := ⟨hw, hr⟩
  refine ⟨fun hlt hin ha hcov => ?amo, fun hlt hin ha => ⟨?lr, ?sc⟩, fun hwin hren hback pa hpa => ⟨fun hhit => ?lrUmr, fun hhit => ?scUmr⟩⟩
  case amo =>
    obtain ⟨r, hgo⟩ := Dev.engAtomicAt_amo hal hq ⟨hlt, hin⟩ ha hn hst hcov rd op ((s.dev.eng e).rx rs2) rfl aq rl
    refine ⟨_, exec_onDev (f := fun d => if d.canRun e then d.engAtomicAt e rd ((d.eng e).rx rs1) (if dbl then 8 else 4)
      (.amo op ((d.eng e).rx rs2) dbl) aq rl else d) rfl ((if_pos hrun).trans hgo), ⟨rfl, ?_⟩, ?_, rfl⟩
    · rw [Dev.eng_modEng_self]
      exact Engine.rx_wx_self _ _ _
    · rw [Dev.eng_modEng_self]
      have heng : (((s.dev.setRun e r).vatAmo v op (if dbl then 8 else 4) ((s.dev.eng e).rx rs2).toNat).2.eng e).pc =
          (s.dev.eng e).pc := (congrArg Engine.pc (s.dev.eng_setRun_self e r) :)
      rw [← heng, Engine.retire, Engine.wx_pc]
      cases aq <;> rfl
  case lr =>
    exact exec_onDev (f := fun d => if d.canRun e then d.engAtomicAt e rd ((d.eng e).rx rs1) (if dbl then 8 else 4)
      (.lr dbl) aq rl else d) rfl
      ((if_pos hrun).trans (Dev.engAtomicAt_reserved hal ⟨hlt, hin⟩ ha (.inl rfl) rd aq rl))
  case sc =>
    exact exec_onDev (f := fun d => if d.canRun e then d.engAtomicAt e rd ((d.eng e).rx rs1) (if dbl then 8 else 4)
      (.sc ((d.eng e).rx rs2) dbl) aq rl else d) rfl
      ((if_pos hrun).trans (Dev.engAtomicAt_reserved hal ⟨hlt, hin⟩ ha (.inr rfl) rd aq rl))
  case lrUmr =>
    obtain ⟨r, hgo⟩ := Dev.engAtomicAt_umr hal hq hwin hren hback hpa (op := .lr dbl) hhit rd aq rl
    exact ⟨_, exec_onDev (f := fun d => if d.canRun e then d.engAtomicAt e rd ((d.eng e).rx rs1) (if dbl then 8 else 4)
      (.lr dbl) aq rl else d) rfl ((if_pos hrun).trans hgo), rfl, by rw [Dev.eng_setRun_self]; rfl, fun _ => rfl⟩
  case scUmr =>
    obtain ⟨r, hgo⟩ := Dev.engAtomicAt_umr hal hq hwin hren hback hpa (op := .sc ((s.dev.eng e).rx rs2) dbl)
      hhit rd aq rl
    exact ⟨_, exec_onDev (f := fun d => if d.canRun e then d.engAtomicAt e rd ((d.eng e).rx rs1) (if dbl then 8 else 4)
      (.sc ((d.eng e).rx rs2) dbl) aq rl else d) rfl ((if_pos hrun).trans hgo), rfl, by rw [Dev.eng_setRun_self]; rfl,
      fun _ => rfl⟩

end Sys2Proof.Machine

/-!
Words of step code and the ends of a step (R113, R117, R128, R161, R168): what runs after a fetch, and what an engine leaves of its
step when it ends it.
-/
namespace Sys2Proof.Machine

/-! ### Ends of a step (R128, R168) -/

section Ends
variable {d : Dev} {e : Fin 128} {n : Nat} {st : Step}

/-- The outcome of an exception on an engine (R128). -/
def excOutcome (e : Fin 128) (cause addr : Nat) : Outcome :=
  { status := .engineException, addr := BitVec.ofNat 64 addr, eng := some e, cause := BitVec.ofNat 6 cause }

theorem Dev.engExc_step (hn : (d.eng e).step = some n) (hst : d.step? n = some st) (ho : st.outcome = none)
    (hp : st.phase = .running) (cause addr : Nat) : (d.engExc e cause addr).step? n =
      some { st with outcome := some (excOutcome e cause addr), phase := .draining, victimOf := none } := by
  have hstop : (d.stopEng e).step? n = some st := by rw [Dev.step?, (d.stopEng_ops_sched e).2]; exact hst
  unfold Dev.engExc
  rw [hn]
  exact Dev.endStep_step hstop ho (by simp [hp])

theorem Dev.userEnd_step (hn : (d.eng e).step = some n) (hst : d.step? n = some st) (ho : st.outcome = none)
    (hp : st.phase = .running) (code : Status) : (d.userEnd e code).step? n =
      some { st with outcome := some { status := code, ucode := ((d.eng e).rx 10).truncate 32 }, phase := .draining,
                     victimOf := none } := by
  have hstep : (d.modEng e Engine.retire).step? n = some st := hst
  unfold Dev.userEnd
  dsimp only
  rw [hn]
  refine (Dev.endStep_step hstep ho (by simp [hp])).trans ?_
  rw [BitVec.ofNat_toNat]

end Ends

/-- An engine of a running step that runs code: its step has no outcome yet (R129). -/
theorem Dev.outcome_of_canRun {d : Dev} {e : Fin 128} {n : Nat} {st : Step} (hrun : d.canRun e = true)
    (hn : (d.eng e).step = some n) (hst : d.step? n = some st) (hp : st.phase = .running) : st.outcome = none := by
  simp only [Dev.canRun, hn, hst, hp] at hrun
  have hboth : ((d.eng e).run = .running ∧ (d.eng e).halted = false) ∧ st.outcome = none := by simpa using hrun
  exact hboth.2

/-! ### Words of step code (R113, R161) -/

section Words
variable {s : State} {e : Fin 128} {a : Status} {l : List Byte} {d : Dev}

/-- A 32-bit word whose fetch succeeds runs. -/
theorem exec_longWord {w : BitVec 32} {k : Nat} (hrun : s.dev.canRun e = true) (hf : s.dev.fetch e true a = .ok d)
    (hk : w.toNat = k) (hlong : fld k 0 2 = 3) :
    exec (.engineInstruction e { bits := w, ans := a, ext := l }) s = wordRun e (some k) 4 l { s with dev := d } := by
  change execEngineInstruction e { bits := w, ans := a, ext := l } s = _
  unfold execEngineInstruction
  rw [hrun, Bool.true_or, if_pos rfl]
  dsimp only
  rw [hk, hlong, beq_self_eq_true, hf]
  rfl

/-- A 16-bit word whose fetch succeeds runs as the word it stands for. -/
theorem exec_shortWord {w : BitVec 32} {k : Nat} {o : Option Nat} (hrun : s.dev.canRun e = true)
    (hf : s.dev.fetch e false a = .ok d) (hk : w.toNat = k) (hshort : (fld k 0 2 == 3) = false) (ho : expandC (k % 65536) = o) :
    exec (.engineInstruction e { bits := w, ans := a, ext := l }) s = wordRun e o 2 l { s with dev := d } := by
  change execEngineInstruction e { bits := w, ans := a, ext := l } s = _
  unfold execEngineInstruction
  rw [hrun, Bool.true_or, if_pos rfl]
  dsimp only
  rw [hk, hshort, hf]
  dsimp only
  rw [if_neg Bool.false_ne_true, ho]

/-- A word that writes one register from values of its engine and moves on. -/
theorem wordRun_put {w len : Nat} {v : Word} (r : Fin 32) (hecall : w ≠ 0x73) (hrow : decodeRow e (BitVec.ofNat 32 w) = none)
    (hplain : d.plain e w len l = some (d.modEng e (fun x => (x.wx r v).next len))) :
    wordRun e (some w) len l { s with dev := d } = .next { s with dev := d.modEng e (fun x => (x.wx r v).next len) } := by
  unfold wordRun
  dsimp only
  rw [if_neg hecall, hrow]
  dsimp only
  rw [onDev_eq, hplain]

theorem rx_modEng_next {r : Fin 32} (hr : r.val ≠ 0) (v : Word) (len : Nat) :
    ((d.modEng e (fun x => (x.wx r v).next len)).eng e).rx r = v ∧
      ((d.modEng e (fun x => (x.wx r v).next len)).eng e).pc = (d.eng e).pc + BitVec.ofNat 64 len := by
  rw [Dev.eng_modEng_self]
  refine ⟨?_, ?_⟩
  · exact (Engine.rx_wx_self (d.eng e) r v).trans (if_neg hr)
  · change ((d.eng e).wx r v).pc + _ = _
    rw [Engine.wx_pc]

end Words

/-- Settles O12: the ends set the outcome of a running step, and each word is one write of a0. -/
theorem enginesRunWordsAndEndTheirStep : Obligations.EnginesRunWordsAndEndTheirStep := by
  refine ⟨fun s e n st hrun hn hst hp => ?ends, fun s e a l d hrun hf => ⟨?addi, ?add⟩,
    fun s e a l d hrun hf => ⟨?caddi, ?illegal⟩⟩
  case ends =>
    have ho := Dev.outcome_of_canRun hrun hn hst hp
    refine ⟨⟨_, exec_onEng hrun (f := fun d => d.userEnd e .ok) rfl rfl, fun a => by rw [Dev.userEnd_mem],
        Dev.userEnd_step hn hst ho hp .ok⟩,
      ⟨_, exec_onEng hrun (f := fun d => d.userEnd e .userFail) rfl rfl, fun a => by rw [Dev.userEnd_mem],
        Dev.userEnd_step hn hst ho hp .userFail⟩,
      ⟨_, exec_onEng hrun (f := fun d => d.engExc e excEcallU 0) rfl rfl, fun a => by rw [Dev.engExc_mem],
        Dev.engExc_step hn hst ho hp excEcallU 0⟩, fun hdbg => ?_, fun hdbg => ?_⟩
    · have hexc : (if s.dev.ebreakDebug then s.dev.modEng e (fun x => { x with halted := true })
          else s.dev.engExc e excBreak (s.dev.eng e).pc.toNat) = s.dev.engExc e excBreak (s.dev.eng e).pc.toNat :=
        if_neg (by rw [hdbg]; exact Bool.false_ne_true)
      refine ⟨_, exec_onEng hrun (f := fun d => if d.ebreakDebug then d.modEng e (fun x => { x with halted := true })
        else d.engExc e excBreak (d.eng e).pc.toNat) rfl hexc, fun a => by rw [Dev.engExc_mem], ?_⟩
      rw [Dev.engExc_step hn hst ho hp, excOutcome, BitVec.ofNat_toNat, BitVec.setWidth_eq]
      rfl
    · exact exec_onlyEngine hrun (fun x => { x with halted := true })
        (f := fun d => if d.ebreakDebug then d.modEng e (fun x => { x with halted := true })
          else d.engExc e excBreak (d.eng e).pc.toNat) rfl (if_pos hdbg)
  case addi =>
    obtain ⟨hx, hpc⟩ := rx_modEng_next (d := d) (e := e) (r := 10) (by decide) ((d.eng e).rx 10 + 1) 4
    refine ⟨_, (exec_longWord (k := 0x00150513) hrun hf rfl rfl).trans (wordRun_put 10 (by decide) rfl ?_), hx, hpc,
      d.modEng_onlyEngine e _⟩
    rfl
  case add =>
    obtain ⟨hx, hpc⟩ := rx_modEng_next (d := d) (e := e) (r := 10) (by decide) ((d.eng e).rx 10 + (d.eng e).rx 11) 4
    refine ⟨_, (exec_longWord (k := 0x00B50533) hrun hf rfl rfl).trans (wordRun_put 10 (by decide) rfl ?_), hx, hpc,
      d.modEng_onlyEngine e _⟩
    rfl
  case caddi =>
    obtain ⟨hx, hpc⟩ := rx_modEng_next (d := d) (e := e) (r := 10) (by decide) ((d.eng e).rx 10 + 1) 2
    refine ⟨_, (exec_shortWord (k := 0x0505) hrun hf rfl rfl (o := some 0x00150513) (by decide)).trans
      (wordRun_put 10 (by decide) rfl ?_), hx, hpc, d.modEng_onlyEngine e _⟩
    rfl
  case illegal =>
    refine (exec_shortWord (w := 0) (k := 0) (o := none) hrun hf rfl rfl (by decide)).trans ?_
    exact onDev_eq _ (fun d => d.engExc e excIllegal 0)

end Sys2Proof.Machine

/-!
The custom-1 vector instructions (R147 to R155): the elements that a write of an element leaves, and that each instruction changes
vector registers and float flags alone.
-/
namespace Sys2Proof.Machine

/-! ### Elements of a vector register (R147) -/

/-- The low bits of a register that were just written. -/
theorem fld_bitsPut_low (v : BitVec 2048) {n : Nat} (hn : n ≤ 2048) (x : Nat) : fld (bitsPut v 0 n x).toNat 0 n = x % 2 ^ n := by
  have hput : (bitsPut v 0 n x).toNat = (v.toNat - v.toNat % 2 ^ n + x % 2 ^ n) % 2 ^ 2048 := by
    simp only [bitsPut, at_, fld, pow_zero, Nat.mul_one, Nat.div_one, BitVec.toNat_ofNat]
  rw [fld, hput, pow_zero, Nat.div_one, Nat.mod_mod_of_dvd _ (Nat.pow_dvd_pow 2 hn)]
  have hmul : v.toNat - v.toNat % 2 ^ n = 2 ^ n * (v.toNat / 2 ^ n) := by
    have := Nat.div_add_mod v.toNat (2 ^ n)
    omega
  rw [hmul, Nat.mul_add_mod, Nat.mod_mod]

theorem Engine.rv_wv_self (x : Engine) (r : Nat) (v : BitVec 2048) : (x.wv r v).rv r = v := tgetD_tput_self _ _ _ _

theorem Engine.pget_pput_zero (x : Engine) (r : Nat) {w : Nat} (hw : w ≤ 2048) (v : Nat) :
    (x.pput r w 0 v).pget r w 0 = v % 2 ^ w := by
  simp only [Engine.pget, Engine.pput, Nat.mul_zero, Nat.zero_div, Nat.zero_mod, Nat.add_zero, Engine.rv_wv_self,
    fld_bitsPut_low _ hw]

theorem Engine.velem_vput_zero (x : Engine) (r v : Nat) : (x.vput r 4 0 v).velem r 4 0 = v % 2 ^ 32 := by
  simp only [Engine.velem, Engine.vput, Nat.zero_mul, Nat.zero_div, Nat.zero_mod, Nat.add_zero, Nat.mul_zero, Engine.rv_wv_self]
  exact fld_bitsPut_low _ (by decide) v

theorem Engine.setFlags_pget (x : Engine) (f : BitVec 5) (r w i : Nat) : (x.setFlags f).pget r w i = x.pget r w i := rfl

theorem Engine.setFlags_velem (x : Engine) (f : BitVec 5) (r w i : Nat) : (x.setFlags f).velem r w i = x.velem r w i := rfl

/-- Formats are at most 32 bits wide (Tables 3.1 to 3.4). -/
theorem fmtOf_width_le {k : Nat} {f : Fmt} (h : fmtOf k = some f) : f.width ≤ 32 := by
  unfold fmtOf at h
  dsimp only at h
  repeat' split at h
  all_goals cases h
  case h_1.isFalse.refl => rw [Fmt.width]; split <;> decide
  all_goals decide

theorem vecFmt_width_le {x : Engine} {k : Nat} {f : Fmt} (h : vecFmt x k = some f) : f.width ≤ 2048 := by
  unfold vecFmt at h
  split at h
  next g hg =>
    split at h
    · cases h
    · cases h
      exact (fmtOf_width_le hg).trans (by decide)
  · cases h

/-- With one element and no mask the active elements are that one. -/
theorem xvElems_one {x : Engine} {vm : Bool} (hl : x.vl = 1) (hm : vm = true) : xvElems x vm = [0] := by
  rw [xvElems, hl, hm]
  rfl

/-! ### What a vector instruction leaves alone -/

/-- An engine with other vector registers and float flags. -/
def Engine.vec (x : Engine) (v : Tbl (BitVec 2048)) (fl : BitVec 5) : Engine := { x with v := v, fflags := fl }

/-- An engine that differs in its vector registers and float flags alone. -/
def Engine.VecOnly (x y : Engine) : Prop := ∃ v fl, y = x.vec v fl

theorem Engine.vecOnly_refl (x : Engine) : x.VecOnly x := ⟨x.v, x.fflags, rfl⟩

theorem Engine.VecOnly.vput {x y : Engine} (h : x.VecOnly y) (r w i v : Nat) : x.VecOnly (y.vput r w i v) := by
  obtain ⟨a, b, rfl⟩ := h
  exact ⟨_, b, rfl⟩

theorem Engine.VecOnly.pput {x y : Engine} (h : x.VecOnly y) (r w i v : Nat) : x.VecOnly (y.pput r w i v) := by
  obtain ⟨a, b, rfl⟩ := h
  exact ⟨_, b, rfl⟩

theorem Engine.VecOnly.setFlags {x y : Engine} (h : x.VecOnly y) (f : BitVec 5) : x.VecOnly (y.setFlags f) := by
  obtain ⟨a, b, rfl⟩ := h
  exact ⟨a, _, rfl⟩

theorem Engine.VecOnly.foldl {α : Type} {x : Engine} {f : Engine → α → Engine} (hf : ∀ y a, x.VecOnly y → x.VecOnly (f y a))
    (l : List α) {y : Engine} (hy : x.VecOnly y) : x.VecOnly (l.foldl f y) := by
  induction l generalizing y with
  | nil => exact hy
  | cons a l ih => exact ih (hf y a hy)

theorem Engine.VecOnly.foldl_draws {α : Type} {x : Engine} {f : Engine × Nat → α → Engine × Nat}
    (hf : ∀ y a, x.VecOnly y.1 → x.VecOnly (f y a).1) (l : List α) {y : Engine × Nat} (hy : x.VecOnly y.1) :
    x.VecOnly (l.foldl f y).1 := by
  induction l generalizing y with
  | nil => exact hy
  | cons a l ih => exact ih (hf y a hy)

section Runs
variable {s : State} {e : Fin 128} {i : Instr} {f : Dev → Dev}

/-- What a vector instruction keeps of the package. -/
def VecKept (s : State) (e : Fin 128) (d : Dev) : Prop :=
  (d.eng e).x = (s.dev.eng e).x ∧ (d.eng e).f = (s.dev.eng e).f ∧ (d.eng e).pc = (s.dev.eng e).pc + 4 ∧
    (d.eng e).vl = (s.dev.eng e).vl ∧ (∀ g, g ≠ e → d.eng g = s.dev.eng g) ∧
    { d with engines := s.dev.engines, free := s.dev.free } = s.dev

/-- An instruction that comes to a change of its engine's vector registers and flags, and to draws, keeps the rest. -/
theorem exec_vec (hrun : s.dev.canRun e = true) {y : Engine} {k : Nat} (hi : exec i s = onEng e s f)
    (hf : f s.dev = ({ s.dev with free := k } : Dev).setEng e y.retire) (hy : (s.dev.eng e).VecOnly y) :
    ∃ d, exec i s = .next { s with dev := d } ∧ VecKept s e d ∧ d.free = k ∧ d.eng e = y.retire := by
  have heng : (({ s.dev with free := k } : Dev).setEng e y.retire).eng e = y.retire := tgetD_tput_self _ _ _ _
  have hne : ∀ g, g ≠ e → (({ s.dev with free := k } : Dev).setEng e y.retire).eng g = s.dev.eng g :=
    fun g hg => Dev.eng_modEng_ne { s.dev with free := k } (fun _ => y.retire) hg
  refine ⟨_, exec_onEng hrun hi hf, ?_, rfl, heng⟩
  rw [VecKept, heng]
  obtain ⟨v, fl, rfl⟩ := hy
  exact ⟨rfl, rfl, rfl, rfl, hne, rfl⟩

end Runs

/-! ### The instructions (R149 to R154) -/

/-- The scale group of a conversion, which a descriptor without block scaling does not have. -/
def scaleSrc (blk vs1 : Nat) : List Grp := if blkSize blk = 0 then [] else [(vs1, 1)]

theorem scaleSrc_eq (blk vs1 : Nat) : (if (blkSize blk != 0) = true then [(vs1, 1)] else []) = scaleSrc blk vs1 := by
  by_cases h : blkSize blk = 0 <;> simp [scaleSrc, h]

/-- What makes a conversion illegal, of a descriptor and groups that are legal. -/
theorem convBad_eq_false {f : Fmt} {x : Engine} {blk vs1 : Nat} {dst src : Grp} (hok : blkOk f blk = true)
    (hvs : blkSize blk = 0 → vs1 = 0) (hbad : xvBad x dst (src :: scaleSrc blk vs1) = false) :
    (!blkOk f blk || (!(blkSize blk != 0) && vs1 != 0) ||
      xvBad x dst (src :: if (blkSize blk != 0) = true then [(vs1, 1)] else [])) = false := by
  rw [scaleSrc_eq, hbad, hok]
  by_cases h : blkSize blk = 0
  · simp [hvs h]
  · simp [h]

/-- One element of XVCVTF. -/
def cvtfStep (x : Engine) (f : Fmt) (blk vd vs2 vs1 : Nat) (y : Engine) (i : Nat) : Engine :=
  (y.vput vd 4 i (cvtfElem f (x.pget vs2 f.width i) (xvScale x blk vs1 i)).1).setFlags
    (cvtfElem f (x.pget vs2 f.width i) (xvScale x blk vs1 i)).2

/-- One element of XVCVTT: its bits and flags. -/
def cvttElem (x : Engine) (f : Fmt) (blk vs2 vs1 i : Nat) (mode : Round) : Nat × NFlags :=
  if (blkSize blk != 0) && vecBlockSpecial x (blkSize blk) vs2 i then (0, { nanZero := (fp32.val (x.velem vs2 4 i)).isNan })
  else if blkSize blk != 0 then convScaled f mode (xvScale x blk vs1 i) (fp32.val (x.velem vs2 4 i))
  else f.conv mode false (fp32.val (x.velem vs2 4 i))

/-- One element of XVCVTT, with the draws taken so far. -/
def cvttStep (x : Engine) (f : Fmt) (blk vd vs2 vs1 : Nat) (sr : Bool) (a : Engine × Nat) (i : Nat) : Engine × Nat :=
  let mode := if sr then Round.draw (Config.freeDraw a.2) else .even
  ((a.1.pput vd f.width i (cvttElem x f blk vs2 vs1 i mode).1).setFlags
    ((cvttElem x f blk vs2 vs1 i mode).2.fflags (xvScale x blk vs1 i).isNan), if sr then a.2 + 1 else a.2)

theorem foldl_cvttStep_even (x : Engine) (f : Fmt) (blk vd vs2 vs1 : Nat) (l : List Nat) (a : Engine × Nat) :
    (l.foldl (cvttStep x f blk vd vs2 vs1 false) a).2 = a.2 := by
  induction l generalizing a with
  | nil => rfl
  | cons i l ih => exact ih _

/-- One block of XVSCALE. -/
def scaleStep (x : Engine) (g : Grid) (blk vd vs2 : Nat) (y : Engine) (j : Nat) : Engine :=
  let r := blockScale (blkE4m3 blk) g ((blockIdx (blkSize blk) x.vl j).map (fun i => fp32.val (x.velem vs2 4 i)))
  (y.pput vd 8 j r.1).setFlags (r.2.fflags false &&& 5)

/-- One element of XVSCLF. -/
def sclfStep (x : Engine) (blk vd vs2 : Nat) (y : Engine) (j : Nat) : Engine :=
  let v := scaleVal (blkE4m3 blk) (x.pget vs2 8 j)
  (y.vput vd 4 j (fp32.bits v)).setFlags (if v.isNan then 16 else 0)

/-- One block of XVDOT, with the draws taken so far. -/
def dotStep (x : Engine) (fa fb : Fmt) (b vd vs2 vs1 : Nat) (acc : Engine × Nat) (j : Nat) : Engine × Nat :=
  let ps := (blockIdx b x.vl j).map (fun k => (fa.val (x.pget vs2 fa.width k)).mul (fb.val (x.pget vs1 fb.width k)))
  let old := x.velem vd 4 j
  if fa.isInt then (acc.1.vput vd 4 j ((addI32 (signed 32 old) (sumInt ps).1).1 % 4294967296).toNat, acc.2)
  else ((acc.1.vput vd 4 j (fp32.bits (dotFloat old ps acc.2).1)).setFlags (dotFloat old ps acc.2).2, acc.2 + 1)

theorem foldl_dotStep_int {x : Engine} {fa : Fmt} (hint : fa.isInt = true) (fb : Fmt) (b vd vs2 vs1 : Nat) (l : List Nat)
    (a : Engine × Nat) : (l.foldl (dotStep x fa fb b vd vs2 vs1) a).1.fflags = a.1.fflags ∧
      (l.foldl (dotStep x fa fb b vd vs2 vs1) a).2 = a.2 := by
  induction l generalizing a with
  | nil => exact ⟨rfl, rfl⟩
  | cons j l ih =>
    obtain ⟨hfl, hk⟩ := ih (dotStep x fa fb b vd vs2 vs1 a j)
    rw [List.foldl_cons, hfl, hk]
    simp only [dotStep, hint, if_true]
    exact ⟨rfl, trivial⟩

section Forms
variable {d : Dev} {e : Fin 128} {vd vs2 vs1 fd : Nat} {vm : Bool} {f : Fmt}

theorem Dev.xvcvtf_eq (hfmt : vecFmt (d.eng e) fd = some f) (hok : blkOk f (xfdBlk (d.eng e) fd) = true)
    (hvs : blkSize (xfdBlk (d.eng e) fd) = 0 → vs1 = 0)
    (hbad : xvBad (d.eng e) (vd, fpSpan (d.eng e)) ((vs2, packSpan (d.eng e) f.width) :: scaleSrc (xfdBlk (d.eng e) fd) vs1) = false) :
    d.xvcvtf e vd vs2 vs1 fd vm = d.setEng e
      ((xvElems (d.eng e) vm).foldl (cvtfStep (d.eng e) f (xfdBlk (d.eng e) fd) vd vs2 vs1) (d.eng e)).retire := by
  unfold Dev.xvcvtf
  dsimp only
  rw [hfmt]
  dsimp only
  rw [if_neg (by rw [convBad_eq_false hok hvs hbad]; exact Bool.false_ne_true)]
  rfl

theorem Dev.xvcvtt_eq (sr : Bool) (hfmt : vecFmt (d.eng e) fd = some f) (hok : blkOk f (xfdBlk (d.eng e) fd) = true)
    (hvs : blkSize (xfdBlk (d.eng e) fd) = 0 → vs1 = 0)
    (hbad : xvBad (d.eng e) (vd, packSpan (d.eng e) f.width) ((vs2, fpSpan (d.eng e)) :: scaleSrc (xfdBlk (d.eng e) fd) vs1) = false) :
    d.xvcvtt e vd vs2 vs1 fd vm sr =
      let r := (xvElems (d.eng e) vm).foldl (cvttStep (d.eng e) f (xfdBlk (d.eng e) fd) vd vs2 vs1 sr) (d.eng e, d.free)
      ({ d with free := r.2 }).setEng e r.1.retire := by
  unfold Dev.xvcvtt
  dsimp only
  rw [hfmt]
  dsimp only
  rw [if_neg (by rw [convBad_eq_false hok hvs hbad]; exact Bool.false_ne_true)]
  rfl

theorem Dev.xvscale_eq {g : Grid} (hfmt : xfdFmt (d.eng e) fd = some (.mini g)) (hblk : blkBad (xfdBlk (d.eng e) fd) = false)
    (hsz : blkSize (xfdBlk (d.eng e) fd) ≠ 0) (hvs : vs1 = 0)
    (hbad : xvBad (d.eng e) (vd, 1) [(vs2, fpSpan (d.eng e))] = false) :
    d.xvscale e vd vs2 vs1 fd true = d.setEng e ((List.range (ceilDiv (d.eng e).vl (blkSize (xfdBlk (d.eng e) fd)))).foldl
      (scaleStep (d.eng e) g (xfdBlk (d.eng e) fd) vd vs2) (d.eng e)).retire := by
  unfold Dev.xvscale
  dsimp only
  rw [hfmt]
  dsimp only
  rw [if_neg (by simp [hblk, hsz, hvs, hbad])]
  rfl

theorem Dev.xvsclf_eq {g : Grid} (hfmt : xfdFmt (d.eng e) fd = some (.mini g)) (hblk : blkBad (xfdBlk (d.eng e) fd) = false)
    (hsz : blkSize (xfdBlk (d.eng e) fd) ≠ 0) (hvs : vs1 = 0)
    (hbad : xvBad (d.eng e) (vd, fpSpan (d.eng e)) [(vs2, packSpan (d.eng e) 8)] = false) :
    d.xvsclf e vd vs2 vs1 fd vm = d.setEng e ((xvElems (d.eng e) vm).foldl
      (sclfStep (d.eng e) (xfdBlk (d.eng e) fd) vd vs2) (d.eng e)).retire := by
  unfold Dev.xvsclf
  dsimp only
  rw [hfmt]
  dsimp only
  rw [if_neg (by simp [hblk, hsz, hvs, hbad])]
  rfl

theorem Dev.xvdot_eq {fa fb : Fmt} (hfa : vecFmt (d.eng e) fd = some fa) (hfb : vecFmt (d.eng e) (fd + 1) = some fb)
    (hoka : blkOk fa (xfdBlk (d.eng e) fd) = true) (hokb : blkOk fb (xfdBlk (d.eng e) (fd + 1)) = true)
    (hsz : blkSize (xfdBlk (d.eng e) fd) = 0 ∨ blkSize (xfdBlk (d.eng e) (fd + 1)) = 0 ∨
      blkSize (xfdBlk (d.eng e) fd) = blkSize (xfdBlk (d.eng e) (fd + 1))) (hint : fa.isInt = fb.isInt)
    (hbad : xvBad (d.eng e) (vd, 1) [(vs2, packSpan (d.eng e) fa.width), (vs1, packSpan (d.eng e) fb.width)] = false) :
    ∃ b k, d.xvdot e vd vs2 vs1 fd true =
      let r := (List.range k).foldl (dotStep (d.eng e) fa fb b vd vs2 vs1) (d.eng e, d.free)
      ({ d with free := r.2 }).setEng e r.1.retire := by
  have hsz' : (blkSize (xfdBlk (d.eng e) fd) != 0 && blkSize (xfdBlk (d.eng e) (fd + 1)) != 0 &&
      blkSize (xfdBlk (d.eng e) fd) != blkSize (xfdBlk (d.eng e) (fd + 1))) = false := by
    obtain h | h | h := hsz <;> simp [h]
  unfold Dev.xvdot
  dsimp only
  rw [hfa, hfb]
  dsimp only
  rw [if_neg (by simp [hoka, hokb, hsz', hint, hbad])]
  exact ⟨_, _, rfl⟩

end Forms

/-- Settles O11: past its legality checks each is a fold of element writes. -/
theorem vectorFormatInstructions : Obligations.VectorFormatInstructions := by
  intro s e vd vs2 vs1 fd vm hrun
  have hrefl := Engine.vecOnly_refl (s.dev.eng e)
  refine ⟨fun f hf hok hvs => ⟨fun hbad => ?cvtf, fun hbad => ⟨?cvtt, ?cvttSr⟩⟩, fun g hg hblk hsz hvs => ⟨fun hbad => ?scale, fun hbad => ?sclf⟩,
    fun fa fb hfa hfb hoka hokb hsz hint hbad => ?dot⟩
  case cvtf =>
    have hvec : (s.dev.eng e).VecOnly ((xvElems (s.dev.eng e) vm).foldl
        (cvtfStep (s.dev.eng e) f (xfdBlk (s.dev.eng e) fd.val) vd.val vs2.val vs1.val) (s.dev.eng e)) :=
      Engine.VecOnly.foldl (fun y i hy => (hy.vput _ _ _ _).setFlags _) _ hrefl
    obtain ⟨d, hexec, hkept, -, heng⟩ := exec_vec hrun (i := .xvcvtf e vd vs2 vs1 fd vm)
      (f := fun d => d.xvcvtf e vd.val vs2.val vs1.val fd.val vm) rfl (Dev.xvcvtf_eq hf hok hvs hbad) hvec
    refine ⟨d, hexec, hkept, fun hl hm => ?_⟩
    rw [heng, xvElems_one hl hm]
    exact Engine.velem_vput_zero _ _ _
  case cvtt =>
    have hvec := Engine.VecOnly.foldl_draws (x := s.dev.eng e)
      (f := cvttStep (s.dev.eng e) f (xfdBlk (s.dev.eng e) fd.val) vd.val vs2.val vs1.val false)
      (fun y i hy => (hy.pput _ _ _ _).setFlags _) (xvElems (s.dev.eng e) vm) (y := (s.dev.eng e, s.dev.free)) hrefl
    obtain ⟨d, hexec, hkept, hfree, heng⟩ := exec_vec hrun (i := .xvcvtt e vd vs2 vs1 fd vm)
      (f := fun d => d.xvcvtt e vd.val vs2.val vs1.val fd.val vm false) rfl (Dev.xvcvtt_eq false hf hok hvs hbad) hvec
    refine ⟨d, hexec, hkept, hfree.trans (foldl_cvttStep_even _ _ _ _ _ _ _ _), fun hl hm hz => ?_⟩
    rw [heng, xvElems_one hl hm]
    refine (Engine.pget_pput_zero _ _ (vecFmt_width_le hf) _).trans ?_
    simp [cvttElem, hz]
  case cvttSr =>
    have hvec := Engine.VecOnly.foldl_draws (x := s.dev.eng e)
      (f := cvttStep (s.dev.eng e) f (xfdBlk (s.dev.eng e) fd.val) vd.val vs2.val vs1.val true)
      (fun y i hy => (hy.pput _ _ _ _).setFlags _) (xvElems (s.dev.eng e) vm) (y := (s.dev.eng e, s.dev.free)) hrefl
    obtain ⟨d, hexec, hkept, -, heng⟩ := exec_vec hrun (i := .xvcvttSr e vd vs2 vs1 fd vm)
      (f := fun d => d.xvcvtt e vd.val vs2.val vs1.val fd.val vm true) rfl (Dev.xvcvtt_eq true hf hok hvs hbad) hvec
    refine ⟨d, hexec, hkept, fun hl hm hz => ?_⟩
    rw [heng, xvElems_one hl hm]
    refine (Engine.pget_pput_zero _ _ (vecFmt_width_le hf) _).trans ?_
    simp [cvttElem, hz]
  case scale =>
    have hvec : (s.dev.eng e).VecOnly ((List.range (ceilDiv (s.dev.eng e).vl (blkSize (xfdBlk (s.dev.eng e) fd.val)))).foldl
        (scaleStep (s.dev.eng e) g (xfdBlk (s.dev.eng e) fd.val) vd.val vs2.val) (s.dev.eng e)) :=
      Engine.VecOnly.foldl (fun y i hy => (hy.pput _ _ _ _).setFlags _) _ hrefl
    obtain ⟨d, hexec, hkept, -, heng⟩ := exec_vec hrun (i := .xvscale e vd vs2 vs1 fd true)
      (f := fun d => d.xvscale e vd.val vs2.val vs1.val fd.val true) rfl (Dev.xvscale_eq hg hblk hsz hvs hbad) hvec
    refine ⟨d, hexec, hkept, fun hl => ?_⟩
    have hpos : 0 < blkSize (xfdBlk (s.dev.eng e) fd.val) := Nat.pos_of_ne_zero hsz
    have hone : ceilDiv 1 (blkSize (xfdBlk (s.dev.eng e) fd.val)) = 1 := by
      rw [ceilDiv, Nat.add_sub_cancel_left, Nat.div_self hpos]
    have hblock : blockIdx (blkSize (xfdBlk (s.dev.eng e) fd.val)) 1 0 = [0] := by
      rw [blockIdx, Nat.mul_zero, Nat.min_eq_right hpos]
      rfl
    rw [heng, hl, hone]
    refine (Engine.pget_pput_zero _ _ (by decide) _).trans ?_
    rw [hl, hblock]
    rfl
  case sclf =>
    have hvec : (s.dev.eng e).VecOnly ((xvElems (s.dev.eng e) vm).foldl
        (sclfStep (s.dev.eng e) (xfdBlk (s.dev.eng e) fd.val) vd.val vs2.val) (s.dev.eng e)) :=
      Engine.VecOnly.foldl (fun y i hy => (hy.vput _ _ _ _).setFlags _) _ hrefl
    obtain ⟨d, hexec, hkept, -, heng⟩ := exec_vec hrun (i := .xvsclf e vd vs2 vs1 fd vm)
      (f := fun d => d.xvsclf e vd.val vs2.val vs1.val fd.val vm) rfl (Dev.xvsclf_eq hg hblk hsz hvs hbad) hvec
    refine ⟨d, hexec, hkept, fun hl hm => ?_⟩
    rw [heng, xvElems_one hl hm]
    exact Engine.velem_vput_zero _ _ _
  case dot =>
    obtain ⟨b, k, heq⟩ := Dev.xvdot_eq hfa hfb hoka hokb hsz hint hbad
    have hvec := Engine.VecOnly.foldl_draws (x := s.dev.eng e) (f := dotStep (s.dev.eng e) fa fb b vd.val vs2.val vs1.val)
      (fun y i hy => by
        unfold dotStep
        dsimp only
        split
        · exact hy.vput _ _ _ _
        · exact (hy.vput _ _ _ _).setFlags _) (List.range k) (y := (s.dev.eng e, s.dev.free)) hrefl
    obtain ⟨d, hexec, hkept, hfree, heng⟩ := exec_vec hrun (i := .xvdot e vd vs2 vs1 fd true)
      (f := fun d => d.xvdot e vd.val vs2.val vs1.val fd.val true) rfl heq hvec
    refine ⟨d, hexec, hkept, fun hi => ?_⟩
    obtain ⟨hfl, hk⟩ := foldl_dotStep_int hi fb b vd.val vs2.val vs1.val (List.range k) (s.dev.eng e, s.dev.free)
    exact ⟨by rw [heng]; exact hfl, hfree.trans hk⟩

end Sys2Proof.Machine

/-!
Operations of the Anvils (chapter 02, R34 to R47, R71, R75): how an operation enters, starts and completes in a half, and how a spare
column takes a failed one's place.
-/
namespace Sys2Proof.Machine

/-! ### Halves and tables -/

@[simp] theorem Two.get_mod_other {α : Type} (t : Two α) (h : Half) (f : α → α) :
    Two.get (Two.mod t h f) (otherHalf h) = Two.get t (otherHalf h) := by cases h <;> rfl

@[simp] theorem Two.get_set_other {α : Type} (t : Two α) (h : Half) (v : α) :
    Two.get (Two.set t h v) (otherHalf h) = Two.get t (otherHalf h) := by cases h <;> rfl

/-- A map that keeps keys and leaves one entry as it is. -/
theorem tget_map_other {α : Type} {f : Nat × α → Nat × α} {i : Nat} (hkey : ∀ p, (f p).1 = p.1) (hi : ∀ p, p.1 = i → f p = p)
    (t : Tbl α) : tget (t.map f) i = tget t i := by
  induction t with
  | nil => rfl
  | cons p t ih =>
    obtain ⟨k, v⟩ := p
    by_cases hk : k = i
    · rw [List.map_cons, hi (k, v) hk, tget, tget, if_pos hk, if_pos hk]
    · have hf := hkey (k, v)
      rw [List.map_cons, ← Prod.mk.eta (p := f (k, v)), hf, tget, tget, if_neg hk, if_neg hk, ih]

/-! ### Entry (R36, R37, R39, R135) -/

/-- With no operation lost the first waiting issue is what enters. -/
theorem opEnter_of_kept {d : Dev} (hlost : ∀ p ∈ d.sched.steps, p.2.lostOps = []) :
    d.sched.steps.find? (fun p => (p.2.phase == .running || p.2.phase == .draining) && !d.away p.1 p.2 && !p.2.lostOps.isEmpty) =
      none := by
  rw [List.find?_eq_none]
  intro p hp
  simp [hlost p hp]

section Enter
variable {d : Dev} {e : Fin 128} {es : List (Fin 128)} {rd : Fin 32} {a : Word} {n : Nat} {st : Step} {o : OpDesc}

/-- The package after the first waiting issue has entered with its descriptor. -/
def Dev.opEntered (d : Dev) (e : Fin 128) (es : List (Fin 128)) (rd : Fin 32) (a : Word) (n : Nat) (st : Step) (o : OpDesc) : Dev :=
  (((d.modAnvil (fun x => { x with issues := es })).enqueue { step := n, ticket := st.ticket + 1, desc := o, addr := a.toNat }).modStep n
    (fun s => { s with ticket := s.ticket + 1, lastIn := e.val })).modEng e
      (fun x => (x.wx rd (BitVec.ofNat 64 (st.ticket + 1))).retire)

theorem Dev.opEntered_issues : (d.opEntered e es rd a n st o).anvil.issues = es := rfl

theorem Dev.opEntered_op : tget (d.opEntered e es rd a n st o).anvil.ops d.anvil.next =
    some { step := n, ticket := st.ticket + 1, desc := o, addr := a.toNat } := tget_tput_self _ _ _

theorem Dev.opEntered_queue (h : Half) : Two.get (d.opEntered e es rd a n st o).anvil.queue h =
    if spanHas o.span h then Two.get d.anvil.queue h ++ [d.anvil.next] else Two.get d.anvil.queue h := by cases h <;> rfl

theorem Dev.opEntered_step : (d.opEntered e es rd a n st o).step? n =
    (d.step? n).map (fun s => { s with ticket := s.ticket + 1, lastIn := e.val }) :=
  Dev.step?_modStep_self _ n _

theorem Dev.opEntered_rest :
    { d.opEntered e es rd a n st o with anvil := d.anvil, sched := d.sched, engines := d.engines } = d := by
  simp only [Dev.opEntered, Dev.modEng, Dev.setEng, Dev.modStep, Dev.modSched, Dev.enqueue, Dev.modAnvil]

theorem opEnter_eq (hlost : ∀ p ∈ d.sched.steps, p.2.lostOps = []) (hissues : d.anvil.issues = e :: es)
    (hrun : (d.eng e).run = .issue rd a) (hn : (d.eng e).step = some n) (hst : d.step? n = some st)
    (hcheck : opCheck d st a = .ok o) (hfits : d.opFits n st o = true) : opEnter d = d.opEntered e es rd a n st o := by
  unfold opEnter
  rw [opEnter_of_kept hlost]
  dsimp only
  rw [hissues]
  dsimp only
  rw [hrun, hn]
  dsimp only
  rw [hst]
  dsimp only
  rw [hcheck]
  dsimp only
  rw [if_pos hfits]
  rfl

end Enter

/-! ### Starts (R35, R40 to R43) -/

/-- The half's next share is its queue's head, until it has started. -/
theorem Dev.nextShare_head {d : Dev} {h : Half} {i : Nat} {q : List Nat} {o : AOp} (hq : Two.get d.anvil.queue h = i :: q)
    (hi : tget d.anvil.ops i = some o) (hs : Two.get o.started h = false) : d.nextShare h = some i := by
  unfold Dev.nextShare
  simp only [hq, hi, hs, Bool.not_false, if_true]

/-- After a head that runs, it is the operation behind it. -/
theorem Dev.nextShare_second {d : Dev} {h : Half} {i k : Nat} {r : List Nat} {o p : AOp}
    (hq : Two.get d.anvil.queue h = i :: k :: r) (hi : tget d.anvil.ops i = some o) (hs : Two.get o.started h = true)
    (hk : tget d.anvil.ops k = some p) : d.nextShare h = if Two.get p.started h then none else some k := by
  unfold Dev.nextShare
  simp only [hq, hi, hk, hs, Bool.not_true, Bool.false_eq_true, if_false]

/-- An operation as its share in a half has started. -/
def AOp.start (o : AOp) (h : Half) (free : Nat) (rs : List (Nat × Nat)) : AOp :=
  { o with started := Two.set o.started h true, dirtied := o.dirtied ++ rs, base := Two.set o.base h free }

/-- Outputs that operations which entered before operation `i` will write (R43). -/
def Dev.outsBefore (d : Dev) (i : Nat) : List (Nat × Nat) :=
  (d.anvil.ops.filter (fun p => decide (p.1 < i))).flatMap (fun p => opOuts p.2.desc)

/-- The package as a share has started. -/
def Dev.shareStarted (d : Dev) (h : Half) (i : Nat) (o : AOp) : Dev :=
  { d with free := d.free + shareDraws o.desc h }.modAnvil (fun a =>
    { a with
      ops := tput a.ops i (o.start h d.free (d.outsBefore i))
      acc := Two.mod a.acc h (· ++ entriesUsed o.desc h i) })

theorem shareStart_eq {d : Dev} {h : Half} {i : Nat} {o : AOp} (hnext : d.nextShare h = some i) (hi : tget d.anvil.ops i = some o)
    (hup : d.unitUp (anvilUnit h) = true) (hord : o.desc.order = true → ∀ p ∈ d.anvil.ops, i ≤ p.1)
    (hfit : entriesFit (Two.get d.anvil.acc h) (entriesUsed o.desc h i) = true) : shareStart d h = d.shareStarted h i o := by
  have horder : (o.desc.order && !(d.anvil.ops.filter (fun p => decide (p.1 < i))).isEmpty) = false := by
    cases hd : o.desc.order with
    | false => rfl
    | true =>
      have hnone : d.anvil.ops.filter (fun p => decide (p.1 < i)) = [] := by
        rw [List.filter_eq_nil_iff]
        intro p hp
        simp [hord hd p hp]
      rw [hnone]
      rfl
  unfold shareStart
  rw [hnext]
  dsimp only
  rw [hi]
  dsimp only
  rw [if_neg (by rw [hup, horder, hfit]; decide)]
  rfl

/-- Settles O13: entry, the choice of the next share and its start, each past its checks. -/
theorem anvilOperationsEnterAndStart : Obligations.AnvilOperationsEnterAndStart := by
  refine ⟨fun s e es rd a n st o hlost hissues hrun hn hst hcheck hfits => ?enter,
    fun s h i q o hq hi => ⟨fun hs => Dev.nextShare_head hq hi hs, fun hs k r p hr hk => ?second⟩,
    fun s h i o hnext hi hup hord hfit => ?start⟩
  case enter =>
    have hexec : exec .opEnter s = .next { s with dev := s.dev.opEntered e es rd a n st o } :=
      exec_onDev (f := opEnter) rfl (opEnter_eq hlost hissues hrun hn hst hcheck hfits)
    refine ⟨_, hexec, Dev.opEntered_issues, Dev.opEntered_op, Dev.opEntered_queue, ?_, Dev.eng_modEng_self _ _ _, Dev.opEntered_rest⟩
    rw [Dev.opEntered_step, hst]
    rfl
  case second => exact Dev.nextShare_second (hr ▸ hq) hi hs hk
  case start =>
    have hexec : exec (.shareStart h) s = .next { s with dev := s.dev.shareStarted h i o } :=
      exec_onDev (f := fun d => shareStart d h) rfl (shareStart_eq hnext hi hup hord hfit)
    exact ⟨_, hexec, tget_tput_self _ _ _, Two.get_mod_self _ _ _, Two.get_mod_other _ _ _, rfl, rfl,
      fun k hk => tget_tput_ne _ _ hk⟩

/-! ### Outputs of a share (R71, R104) -/

/-- What the outputs of operation `i` of step `n` change: memory, the flags that the step sums, and what is noted in operations. -/
structure Dev.Wrote (i n : Nat) (d d' : Dev) : Prop where
  rest : { d' with mem := d.mem, anvil := d.anvil, sched := d.sched } = d
  anvil : d'.anvil = { d.anvil with ops := d'.anvil.ops }
  ctx : (d'.step? n).map (·.ctx) = (d.step? n).map (·.ctx)
  op : ∃ sp, tget d'.anvil.ops i = (tget d.anvil.ops i).map (fun o => { o with spoilt := o.spoilt ++ sp })

theorem Dev.Wrote.refl (i n : Nat) (d : Dev) : Dev.Wrote i n d d :=
  ⟨rfl, rfl, rfl, [], by simp⟩

theorem Dev.Wrote.trans {i n : Nat} {a b c : Dev} (h : Dev.Wrote i n a b) (k : Dev.Wrote i n b c) : Dev.Wrote i n a c := by
  obtain ⟨hr, ha, hc, sp, ho⟩ := h
  obtain ⟨kr, ka, kc, sq, ko⟩ := k
  refine ⟨?_, ?_, kc.trans hc, sp ++ sq, ?_⟩
  · rw [← kr] at hr
    exact hr
  · rw [ka, ha]
  · rw [ko, ho, Option.map_map]
    congr 1
    funext o
    simp only [Function.comp_apply, List.append_assoc]

theorem Dev.Wrote.foldDev {α : Type} {i n : Nat} {f : Dev → α → Dev} (hf : ∀ d x, Dev.Wrote i n d (f d x)) (l : List α) (d : Dev) :
    Dev.Wrote i n d (foldDev d l f) := by
  induction l generalizing d with
  | nil => exact Dev.Wrote.refl i n d
  | cons x l ih => exact (hf d x).trans (ih (f d x))

/-- An operation's own outputs mark no byte of it as written by others. -/
theorem Dev.dirtyOps_own (d : Dev) (v k i : Nat) : tget (d.dirtyOps v k (some i)).anvil.ops i = tget d.anvil.ops i := by
  refine tget_map_other (fun p => ?_) (fun p hp => ?_) d.anvil.ops
  · split <;> rfl
  · rw [if_neg (by simp [hp])]

theorem writeOuts_wrote (d : Dev) (i n : Nat) (ws : List ShareOut) : Dev.Wrote i n d (writeOuts d i n ws) := by
  refine Dev.Wrote.foldDev (f := fun d (w : ShareOut) => (d.vatPut (w.at_ / 8) (elemBytes d.mem w.at_ w.w w.v) (some i)).modStep n
    (fun s => { s with nsum := s.nsum ||| w.flags.summary })) (fun d w => ⟨rfl, rfl, ?_, [], ?_⟩) ws d
  · rw [Dev.step?_modStep_self, Option.map_map]
    rfl
  · simp only [List.append_nil, Option.map_id']
    exact (d.wr _ _).dirtyOps_own _ _ i

theorem Dev.spoil_wrote (d : Dev) {i : Nat} {o : AOp} (hi : tget d.anvil.ops i = some o) : Dev.Wrote i o.step d (d.spoil i) := by
  unfold Dev.spoil
  rw [hi]
  refine Dev.Wrote.foldDev (fun d h => ?_) _ d
  generalize hws : (o.run d.mem h).filter (fun w => w.und && (Two.get o.done h || o.early.contains w.at_) && !o.spoilt.contains w.at_) = ws
  refine (writeOuts_wrote d i o.step ws).trans ⟨rfl, rfl, rfl, ws.map ShareOut.at_, ?_⟩
  exact tget_tmod_self _ _ _

/-! ### Completion of a share (R40, R41, R47, R483) -/

/-- The package after a share of operation `i` has written its outputs. -/
def Dev.shareWritten (d : Dev) (i : Nat) (o : AOp) (h : Half) : Dev :=
  (writeOuts d i o.step ((o.run d.mem h).filter (fun w => !o.early.contains w.at_))).spoil i

theorem Dev.shareWritten_wrote {d : Dev} {i : Nat} {o : AOp} (hi : tget d.anvil.ops i = some o) (h : Half) :
    Dev.Wrote i o.step d (d.shareWritten i o h) := by
  have hw := writeOuts_wrote d i o.step ((o.run d.mem h).filter (fun w => !o.early.contains w.at_))
  obtain ⟨sp, hop⟩ := hw.op
  rw [hi] at hop
  exact hw.trans (Dev.spoil_wrote (o := { o with spoilt := o.spoilt ++ sp }) _ hop)

/-- The package after one share of a package operation has completed while the other is outstanding: `d` has its outputs. -/
def Dev.shareLeft (d : Dev) (h : Half) (cycles i : Nat) (q : List Nat) (done : Two Bool) (ctx : Nat) : Dev :=
  (d.modCtx ctx (fun c => { c with acct := { c.acct with anvil := Two.mod c.acct.anvil h (· + BitVec.ofNat 64 cycles) } })).modAnvil
    (fun a => { a with
      queue := Two.set a.queue h q
      ops := tmod a.ops i (fun x => { x with done := done })
      acc := Two.mod a.acc h (fun l => l.filter (fun x => x.op != i)) })

theorem shareComplete_eq {d : Dev} {h : Half} {i : Nat} {q : List Nat} {o : AOp} {st : Step}
    (hq : Two.get d.anvil.queue h = i :: q) (hi : tget d.anvil.ops i = some o) (hs : Two.get o.started h = true)
    (hspan : o.desc.span = 2) (hother : Two.get o.done (otherHalf h) = false)
    (hst : (d.shareWritten i o h).step? o.step = some st) (cycles : Nat) :
    shareComplete d h cycles = (d.shareWritten i o h).shareLeft h cycles i q (Two.set o.done h true) st.ctx := by
  have hall : ((spanHalves o.desc.span).all fun g => Two.get (Two.set o.done h true) g) = false := by
    rw [hspan]
    cases h
    · simpa [spanHalves, spanHas, Two.get, Two.set, otherHalf] using hother
    · simpa [spanHalves, spanHas, Two.get, Two.set, otherHalf] using hother
  unfold shareComplete
  rw [hq]
  dsimp only
  rw [hi]
  dsimp only
  rw [if_neg (by rw [hs]; decide), hall]
  change (if false = true then _ else _) = _
  rw [if_neg Bool.false_ne_true]
  change Dev.modAnvil (match (d.shareWritten i o h).step? o.step with | some s => _ | none => _) _ = _
  rw [hst]
  rfl

/-- What is left of the package and of the operation when one of two shares completes. -/
theorem shareComplete_leaves {d : Dev} {h : Half} {i : Nat} {q : List Nat} {o : AOp} {st : Step} {c : Ctx}
    (hq : Two.get d.anvil.queue h = i :: q) (hi : tget d.anvil.ops i = some o) (hs : Two.get o.started h = true)
    (hspan : o.desc.span = 2) (hother : Two.get o.done (otherHalf h) = false) (hst : d.step? o.step = some st)
    (hc : d.ctx? st.ctx = some c) (cycles : Nat) :
    ∃ t, shareComplete d h cycles = t ∧ Two.get t.anvil.queue h = q ∧
      Two.get t.anvil.queue (otherHalf h) = Two.get d.anvil.queue (otherHalf h) ∧
      (∃ sp, tget t.anvil.ops i = some { o with done := Two.set o.done h true, spoilt := o.spoilt ++ sp }) ∧
      Two.get t.anvil.acc h = (Two.get d.anvil.acc h).filter (fun x => x.op != i) ∧
      t.ctx? st.ctx = some { c with acct := { c.acct with anvil := Two.mod c.acct.anvil h (· + BitVec.ofNat 64 cycles) } } ∧
      t.rennet = d.rennet ∧ t.engines = d.engines ∧ t.writes = d.writes := by
  obtain ⟨hrest, hanvil, hctx, sp, hop⟩ := Dev.shareWritten_wrote hi h
  generalize hw : d.shareWritten i o h = w at hrest hanvil hctx hop
  have hqueue : w.anvil.queue = d.anvil.queue := by rw [hanvil]
  have hacc : w.anvil.acc = d.anvil.acc := by rw [hanvil]
  have hctxs : w.ctx? st.ctx = some c := by rw [← hc, ← hrest]; rfl
  rw [hst] at hctx
  obtain ⟨st', hst', hsame⟩ := Option.map_eq_some_iff.1 hctx
  have heq := shareComplete_eq hq hi hs hspan hother (hw ▸ hst') cycles
  rw [hw, hsame] at heq
  refine ⟨_, heq, ?_, ?_, ⟨sp, ?_⟩, ?_, ?_, ?_, ?_, ?_⟩
  · exact Two.get_set_self _ _ _
  · exact (Two.get_set_other w.anvil.queue h q).trans (by rw [hqueue])
  · refine (tget_tmod_self _ _ _).trans ?_
    change (tget w.anvil.ops i).map _ = _
    rw [hop, hi]
    rfl
  · exact (Two.get_mod_self _ _ _).trans (by rw [← hacc]; rfl)
  · refine (Dev.ctx?_modCtx_self w st.ctx _).trans ?_
    rw [hctxs]
    rfl
  · rw [← hrest]; rfl
  · rw [← hrest]; rfl
  · rw [← hrest]; rfl

/-! ### Spare columns (R75, R530) -/

/-- The package after spare `phys` has taken the place of column `c` in a half where `left` spares were left. -/
def Dev.columnReplaced (d : Dev) (h : Half) (c : Nat) (cs : List Nat) (left : Nat) : Dev :=
  let u : UnitId := ⟨0, dieOf h, BitVec.ofNat 16 c⟩
  let phys := 260 * (c / 256) + 256 + (4 - left)
  ((d.modAnvil (fun a => { a with
      failedCols := Two.set a.failedCols h cs
      spares := Two.set a.spares h (lset (Two.get d.anvil.spares h) (c / 256) (left - 1)) })).modUnit u
    (fun r => { r with st := .replaced, awaiting := false, phys := some phys })).raise (relEvt 1 u phys (left - 1))

theorem columnSubstitute_eq {d : Dev} {h : Half} {c : Nat} {cs : List Nat} (hc : Two.get d.anvil.failedCols h = c :: cs)
    (hs : d.streaming h = false) (hleft : lgetD (Two.get d.anvil.spares h) (c / 256) 0 ≠ 0) :
    columnSubstitute d h = d.columnReplaced h c cs (lgetD (Two.get d.anvil.spares h) (c / 256) 0) := by
  unfold columnSubstitute
  rw [hc]
  dsimp only
  rw [hs, if_neg Bool.false_ne_true, if_neg hleft]
  rfl

theorem Dev.columnReplaced_unit (d : Dev) (h : Half) (c : Nat) (cs : List Nat) (left : Nat) :
    ((d.columnReplaced h c cs left).unit ⟨0, dieOf h, BitVec.ofNat 16 c⟩).st = .replaced := by
  unfold Dev.columnReplaced
  dsimp only
  generalize d.modAnvil _ = t
  have hraise : ∀ (x : Dev) (v : Event) (u : UnitId), (x.raise v).unit u = x.unit u := fun _ _ _ => rfl
  rw [hraise, Dev.unit_modUnit_self]

/-- Settles O14: the outputs change no more than memory, the summed flags and what is noted in operations. -/
theorem anvilSharesCompleteAndColumnsAreSubstituted : Obligations.AnvilSharesCompleteAndColumnsAreSubstituted := by
  refine ⟨fun s h cycles i q o st c hq hi hs hspan hother hst hc => ?share, fun s h c cs hc hs hleft => ?column⟩
  case share =>
    obtain ⟨t, heq, hqueue, hothers, hop, hacc, hctx, hren, heng, hwr⟩ := shareComplete_leaves hq hi hs hspan hother hst hc cycles
    exact ⟨t, exec_onDev (f := fun d => shareComplete d h cycles) rfl heq, hqueue, hothers, hop, hacc, hctx, hren, heng, hwr⟩
  case column =>
    have hexec := exec_onDev (i := .columnSubstitute h) (s := s) (f := fun d => columnSubstitute d h) rfl (columnSubstitute_eq hc hs hleft)
    exact ⟨_, hexec, Two.get_set_self _ _ _, Two.get_set_self _ _ _, Dev.columnReplaced_unit _ _ _ _ _, rfl⟩

end Sys2Proof.Machine

/-!
Transfers of the Tongs engines (R179 to R187): entry, completion, and a piece of a copy from Vat to Vat.
-/
namespace Sys2Proof.Machine

/-! ### Writes of any length (Table 7.3) -/

theorem Tiles.append {off : Nat} {bs cs : List Byte} {ps qs : List (Nat × List Byte)} (h : Tiles off bs ps)
    (k : Tiles (off + bs.length) cs qs) : Tiles off (bs ++ cs) (ps ++ qs) := by
  induction ps generalizing off bs with
  | nil =>
    have hnil : bs = [] := h
    subst hnil
    exact k
  | cons p ps ih =>
    obtain ⟨hoff, hne, t, rfl, ht⟩ := h
    refine ⟨hoff, hne, t ++ cs, List.append_assoc _ _ _, ih ht ?_⟩
    rw [Nat.add_assoc, ← List.length_append]
    exact k

/-- Bytes cut into lines, and each line into runs, are cut into runs. -/
theorem splitLines_tiles {f : Nat × List Byte → List (Nat × List Byte)} (hf : ∀ p, p.2 ≠ [] → Tiles p.1 p.2 (f p)) {k off : Nat}
    {bs : List Byte} (hk : bs.length < k) : Tiles off bs ((splitLines k off bs).flatMap f) := by
  induction k generalizing off bs with
  | zero => cases hk
  | succ k ih =>
    cases bs with
    | nil => rfl
    | cons b t =>
      have hline : Tiles off ((b :: t).take (64 - off % 64)) (f (off, (b :: t).take (64 - off % 64))) := by
        refine hf (off, (b :: t).take (64 - off % 64)) (List.ne_nil_of_length_pos ?_)
        rw [List.length_take, List.length_cons]
        omega
      have hsplit := List.take_append_drop (64 - off % 64) (b :: t)
      rw [splitLines.eq_3 _ _ _ (List.cons_ne_nil b t), List.flatMap_cons]
      conv => enter [2]; rw [← hsplit]
      refine hline.append ?_
      by_cases hshort : (b :: t).length ≤ 64 - off % 64
      · rw [List.drop_of_length_le hshort]
        cases k <;> rfl
      · have hlen : ((b :: t).take (64 - off % 64)).length = 64 - off % 64 := by
          rw [List.length_take]
          omega
        rw [hlen]
        refine ih ?_
        rw [List.length_drop]
        omega

theorem writeUnits_tongs_tiles (e : Fin 128) (c : Fin 4) {u : Nat} (hu : 0 < u) (addr : Nat) (bs : List Byte) :
    Tiles addr bs (writeUnits (.tongs e c) u addr bs false) := by
  refine splitLines_tiles (fun p hp => ?_) (Nat.lt_succ_self _)
  split
  · exact Tiles.one hp
  · dsimp only
    rw [if_neg (by omega)]
    exact cutUnits_tiles hu (le_refl _)

/-! ### Writes of a channel with none outstanding (R186, R222) -/

section Channel
variable {d : Dev} {e : Fin 128} {c : Fin 4}

theorem OutW.of_tongs {x : OutW} (h : x.src ≠ .tongs e c) : x.of (.tongs e c) 0 = false := by
  unfold OutW.of sameSource
  split
  · simp_all
  · simp_all
  · exact beq_false_of_ne h

variable (hw : ∀ w ∈ d.writes, w.src ≠ .tongs e c)
include hw

theorem Dev.mustHold_tongs (p : Path) (t : Target) (mem bank : Bool) : d.mustHold (.tongs e c) 0 p t mem bank = false := by
  have hnone : d.writes.any (fun w => w.of (.tongs e c) 0 && (w.held || d.holdsBack (.tongs e c) p t mem w)) = false := by
    rw [List.any_eq_false]
    intro x hx
    simp [OutW.of_tongs (hw x hx)]
  rw [Dev.mustHold, hnone]
  simp [keepsOrder, Dev.lineStores]

theorem Dev.issueWrite_tongs_vat {v : Nat} (hv : VatByte v) (bs : List Byte) :
    d.issueWrite (.tongs e c) (vatAddr v) bs none = d.vatPut v bs none := by
  simp only [Dev.issueWrite, Dev.target_vatAddr hv, Option.isSome_none, Dev.mustHold_tongs hw, Bool.false_eq_true, if_false,
    Dev.launch, vatOff, Nat.add_sub_cancel_left]

theorem foldDev_issueWrite_tongs {v : Nat} {bs : List Byte} {ps : List (Nat × List Byte)} (hps : Tiles (vatAddr v) bs ps)
    (hv : ∀ j, j < bs.length → VatByte (v + j)) (m : List Host.Cell) (x : Anvil) :
    ∃ y, foldDev { d with mem := m, anvil := x } ps (fun d q => d.issueWrite (.tongs e c) q.1 q.2 none) =
      { d with mem := cellsPut m (vatOff v) bs, anvil := y } := by
  induction ps generalizing v bs m x with
  | nil => cases hps; exact ⟨x, rfl⟩
  | cons q ps ih =>
    obtain ⟨hoff, hne, t, rfl, htiles⟩ := hps
    have hlen := List.length_pos_iff.2 hne
    rw [List.length_append] at hv
    have hone : ({ d with mem := m, anvil := x } : Dev).issueWrite (.tongs e c) q.1 q.2 none = _ :=
      hoff ▸ Dev.issueWrite_tongs_vat (d := { d with mem := m, anvil := x }) hw (hv 0 (by omega)) q.2
    have hnext : vatAddr v + q.2.length = vatAddr (v + q.2.length) := Nat.add_assoc _ _ _
    rw [hnext] at htiles
    obtain ⟨z, hz⟩ := ih htiles (fun j hj => by rw [Nat.add_assoc]; exact hv _ (by omega)) (cellsPut m (vatOff v) q.2) _
    refine ⟨z, (congrArg (foldDev · ps _) hone).trans (hz.trans ?_)⟩
    rw [cellsPut_append, vatOff_add]

/-- A write of a channel to a Vat puts its bytes in the bank, and of the rest marks running operations at most. -/
theorem Dev.issueWrites_tongs_vat {v u : Nat} (hu : 0 < u) {bs : List Byte} (hv : ∀ j, j < bs.length → VatByte (v + j)) :
    ∃ y, d.issueWrites (.tongs e c) (vatAddr v) bs none u = { d with mem := cellsPut d.mem (vatOff v) bs, anvil := y } :=
  foldDev_issueWrite_tongs hw (writeUnits_tongs_tiles e c hu _ bs) hv d.mem d.anvil

end Channel

/-! ### Entry and completion (R138, R180, R186, R187) -/

theorem tongsEnter_eq {d : Dev} {e : Fin 128} {c : Fin 4} {rd : Fin 32} {a : Word} {n : Nat} {st : Step} {t : TDesc}
    (hrun : (d.eng e).run = .tissue rd a c) (hn : (d.eng e).step = some n) (hst : d.step? n = some st)
    (hcheck : xferCheck d st a = .ok t) (hroom : (tgetD d.tongs (chanKey e c) []).length < 16) :
    tongsEnter d e c = ({ d with tongs := tput d.tongs (chanKey e c) (tgetD d.tongs (chanKey e c) [] ++
      [({ ticket := (d.eng e).tTicket + 1, step := n, desc := t } : Xfer)]) } : Dev).modEng e
        (fun x => { (x.wx rd (BitVec.ofNat 64 ((d.eng e).tTicket + 1))).retire with tTicket := (d.eng e).tTicket + 1 }) := by
  unfold tongsEnter
  rw [hrun, hn]
  dsimp only
  rw [if_neg (not_not_intro rfl), hst]
  dsimp only
  rw [hcheck]
  dsimp only
  rw [if_neg (by omega)]

/-- An engine that no release holds goes on, if at all, by a change of its own. -/
theorem Dev.settleEng_only {d : Dev} {e : Fin 128} (h : ∀ sc k, (d.eng e).run ≠ .release sc k) :
    ∃ x, d.settleEng e = { d with engines := x } := by
  have hkeep : ∃ x, d = { d with engines := x } := ⟨d.engines, rfl⟩
  have hmod : ∀ f : Engine → Engine, ∃ x, d.modEng e f = { d with engines := x } := fun f => ⟨_, rfl⟩
  unfold Dev.settleEng
  dsimp only
  cases hr : (d.eng e).run
  case release sc k => exact absurd hr (h sc k)
  case await t =>
    cases (d.eng e).step with
    | none => exact hkeep
    | some n => dsimp only; split; exacts [hmod _, hkeep]
  case twait => dsimp only; split; exacts [hmod _, hkeep]
  case vfence => dsimp only; split; exacts [hmod _, hkeep]
  all_goals exact hkeep

theorem tongsComplete_eq {d : Dev} {e : Fin 128} {c : Fin 4} {x : Xfer} {xs : List Xfer}
    (hq : tgetD d.tongs (chanKey e c) [] = x :: xs) (hrow : x.desc.rows ≤ x.row) (hdone : x.desc.doneObj = none)
    (hw : ∀ w ∈ d.writes, w.src ≠ .tongs e c)
    (hst : ∀ st, d.step? x.step = some st → st.phase ≠ .saving ∧ st.phase ≠ .saved ∧ st.phase ≠ .restoring) :
    tongsComplete d e c = ({ d with tongs := tput d.tongs (chanKey e c) xs } : Dev).settleEng e := by
  have hnone : d.writes.any (fun w => w.src == .tongs e c) = false := by
    rw [List.any_eq_false]
    intro w hmem
    simpa using hw w hmem
  unfold tongsComplete
  rw [hq]
  dsimp only
  rw [hnone, hdone]
  cases hx : d.step? x.step with
  | none => simp [hrow]
  | some st =>
    obtain ⟨hsaving, hsaved, hrest⟩ := hst st hx
    simp [hsaving, hsaved, hrest, hrow]

/-! ### A copy from Vat to Vat (R179, R182, R183) -/

/-- A transfer after a piece of `cnt` elements of a row of `n`, on this node. -/
def Xfer.pieceDone (cnt n : Nat) (seen : Tbl Nat) (y : Xfer) : Xfer :=
  let y := { y with remote := y.remote || false, seen := seen }
  if y.col + cnt < n then { y with col := y.col + cnt } else { y with row := y.row + 1, col := 0, held := tdel y.held 0 }

/-- A byte copy of one row of at most 4 KiB from Vat to Vat, none of it performed yet. -/
structure Xfer.RowCopy (x : Xfer) : Prop where
  op : x.desc.op = 1
  cvt : x.desc.cvt = false
  ssp : x.desc.ssp = true
  dsp : x.desc.dsp = true
  e1 : x.desc.e 1 = 1
  e2 : x.desc.e 2 = 1
  e3 : x.desc.e 3 = 1
  pos : 0 < x.desc.e 0
  short : x.desc.e 0 ≤ 4096
  dst : x.desc.dst < 0x20000000
  fits : x.desc.dst % 0x10000000 + x.desc.e 0 ≤ vatSize
  row : x.row = 0
  col : x.col = 0

namespace Xfer.RowCopy
variable {x : Xfer} (hx : x.RowCopy)
include hx

theorem isRed : x.desc.isRed = false := by simp [TDesc.isRed, hx.op]
theorem indexed : x.desc.indexed = false := by simp [TDesc.indexed, hx.op]
theorem srcIndexed : x.desc.srcIndexed = false := by simp [TDesc.srcIndexed, hx.op]
theorem dstIndexed : x.desc.dstIndexed = false := by simp [TDesc.dstIndexed, hx.op]
theorem sw : x.desc.sw = 8 := by simp [TDesc.sw, hx.cvt, hx.isRed]
theorem dw : x.desc.dw = 8 := by simp [TDesc.dw, hx.cvt, hx.isRed]

theorem srcRow (i : Nat) : x.desc.srcRow x.row i = x.desc.src := by
  simp [TDesc.srcRow, TDesc.triple, rowStart, hx.srcIndexed, hx.row]

theorem dstRow (i : Nat) : x.desc.dstRow x.row i = x.desc.dst := by
  simp [TDesc.dstRow, TDesc.triple, rowStart, hx.dstIndexed, hx.row]

theorem rowOut (s : Step) (i : Nat) : x.desc.rowOut s x.row i = none := by
  simp [TDesc.rowOut, hx.srcIndexed, hx.dstIndexed]

theorem rows : x.desc.rows = 1 := by simp [TDesc.rows, hx.e1, hx.e2, hx.e3]

/-- The destination's bytes lie in one Vat. -/
theorem vatByte {j : Nat} (hj : j < x.desc.e 0) : VatByte (x.desc.dst + j) := by
  have hdst := hx.dst
  have hfits := hx.fits
  have hsize : vatSize = 0xC000000 := rfl
  rw [hsize] at hfits
  refine ⟨by omega, ?_⟩
  rw [hsize]
  omega

/-- Whether the sides of a copy between Vats overlap does not depend on the package. -/
theorem overlapping (d t : Dev) (e : Fin 128) : d.overlapping e x = t.overlapping e x := by
  simp only [Dev.overlapping, Dev.srcRuns, Dev.dstRuns, Dev.allRuns, Dev.sideRuns, hx.ssp, hx.dsp, hx.srcIndexed, hx.dstIndexed,
    if_true, Bool.false_eq_true, if_false]

/-- The head of the channel after the row. -/
theorem pieceDone : x.pieceDone (x.desc.e 0) (x.desc.e 0) x.seen = { x with row := 1, held := tdel x.held 0 } := by
  obtain ⟨ticket, step, desc, row, col, remote, failed, parked, walking, held, seen⟩ := x
  obtain rfl : row = 0 := hx.row
  obtain rfl : col = 0 := hx.col
  simp [Xfer.pieceDone]

end Xfer.RowCopy

theorem cellsGet_length (m : List Host.Cell) (a n : Nat) : (cellsGet m a n).length = n := by
  induction n generalizing a with
  | zero => rfl
  | succ n ih => rw [cellsGet, List.length_cons, ih]

section Piece
variable {d : Dev} {e : Fin 128} {c : Fin 4} {st : Step} {x : Xfer}

/-- The piece of a row copy reads the source bytes, puts them at the destination and ends the row. -/
theorem Dev.xferPiece_rowCopy (hx : x.RowCopy) (hover : d.overlapping e x = false) (hops : d.anvil.ops = [])
    (hw : ∀ w ∈ d.writes, w.src ≠ .tongs e c) (ext : List Byte) :
    ∃ y, d.xferPiece e c st x ext =
      ({ d with mem := cellsPut d.mem (vatOff x.desc.dst) (d.rd (vatOff x.desc.src) (x.desc.e 0)), anvil := y } : Dev).modHead e c
        (Xfer.pieceDone (x.desc.e 0) (x.desc.e 0) x.seen) := by
  have hcnt : min (x.desc.e 0 - x.col) (4096 * 8 / max x.desc.sw x.desc.dw) = x.desc.e 0 := by
    rw [hx.col, hx.sw, hx.dw]
    exact Nat.min_eq_left hx.short
  have hidx : d.rowIndex e c st x ext = .bytes [] ext d := by simp [Dev.rowIndex, hx.indexed]
  have hsa : x.desc.srcRow x.row (ofLe []) + ((x.col * x.desc.sw / 8 : Nat) : Int) = x.desc.src := by simp [hx.srcRow, hx.col]
  have hda : x.desc.dstRow x.row (ofLe []) + ((x.col * x.desc.dw / 8 : Nat) : Int) = x.desc.dst := by simp [hx.dstRow, hx.col]
  have hread : d.tongsRead e c st x.desc.ssp (x.desc.src : Int) (x.desc.e 0 * x.desc.sw / 8) ext =
      .bytes (d.rd (vatOff x.desc.src) (x.desc.e 0)) ext d := by
    rw [hx.ssp, hx.sw, Nat.mul_div_cancel _ (by decide)]
    simp only [Dev.tongsRead, if_true, Int.toNat_natCast, Dev.surface_idle hops]
  have hlen : (d.rd (vatOff x.desc.src) (x.desc.e 0)).length = x.desc.e 0 := cellsGet_length _ _ _
  obtain ⟨y, hy⟩ := Dev.issueWrites_tongs_vat hw (v := x.desc.dst) (u := max 1 (x.desc.dw / 8)) (by omega)
    (bs := d.rd (vatOff x.desc.src) (x.desc.e 0)) (fun j hj => hx.vatByte (hlen ▸ hj))
  have hwrite : d.tongsWrite e c st x.desc (x.desc.dst : Int) (d.rd (vatOff x.desc.src) (x.desc.e 0)) (x.desc.isRed && !false) =
      .ok ({ d with mem := cellsPut d.mem (vatOff x.desc.dst) (d.rd (vatOff x.desc.src) (x.desc.e 0)), anvil := y }, false) := by
    simp only [Dev.tongsWrite, hx.dsp, if_true, Int.toNat_natCast, vatAddr_eq, hy]
  have hmod : x.row % x.desc.e 1 = 0 := by rw [hx.e1, Nat.mod_one]
  refine ⟨y, ?_⟩
  unfold Dev.xferPiece
  dsimp only
  rw [hidx]
  dsimp only
  rw [hx.rowOut]
  dsimp only
  rw [hcnt, hsa, hread]
  dsimp only
  rw [hda, hx.indexed, Bool.not_false, Bool.true_or, if_pos rfl, hover, hx.cvt]
  simp only [Bool.false_and, Bool.false_eq_true, if_false]
  rw [hwrite]
  dsimp only
  rw [hmod]
  rfl

end Piece

/-! ### The turn of a Tongs engine (R179) -/

section Turn
variable {d : Dev} {e : Fin 128} {c : Fin 4} {t : Fin 32} {st : Step} {x : Xfer} {xs : List Xfer}

/-- The engine that a Tongs engine of its cluster reaches by its place there. -/
theorem engOf_place (ht : t.val / 4 = engIdx e / 8) :
    (Fin.ofNat 128 (64 * halfIdx (engHalf e) + 8 * (t.val / 4) + engIdx e % 8 % 8) : Fin 128) = e := by
  have he := e.isLt
  have hhalf : halfIdx (engHalf e) = e.val / 64 := by
    by_cases h : 64 ≤ e.val
    · have hd : decide (64 ≤ e.val) = true := decide_eq_true h
      rw [engHalf, hd, show halfIdx (halfOf true) = 1 from rfl]
      omega
    · have hd : decide (64 ≤ e.val) = false := decide_eq_false h
      rw [engHalf, hd, show halfIdx (halfOf false) = 0 from rfl]
      omega
  refine Fin.ext ?_
  rw [Fin.val_ofNat, hhalf, ht, engIdx]
  omega

theorem tongsPiece_turn (ht : t.val / 4 = engIdx e / 8) (hup : d.unitUp (tongsUnit (engHalf e) t.val) = true)
    (hchans : (List.range 4).filter (fun k => d.tongsFor (engHalf e) (t.val / 4) k == some t.val) = [c.val])
    (hturn : tgetD d.tongsNext (32 * halfIdx (engHalf e) + t.val) 0 = engIdx e % 8)
    (hq : tgetD d.tongs (chanKey e c) [] = x :: xs) (hready : d.chanReady e c = true) (hst : d.step? x.step = some st)
    (ext : List Byte) : tongsPiece d (engHalf e) t ext =
      ({ d with tongsNext := tput d.tongsNext (32 * halfIdx (engHalf e) + t.val) ((engIdx e % 8 + 1) % 8) } : Dev).xferPiece e c st x ext := by
  have heng := engOf_place ht
  have hc : (Fin.ofNat 4 c.val : Fin 4) = c := Fin.ext (Nat.mod_eq_of_lt c.isLt)
  have hfind : ((List.range 8).flatMap (fun i => [c.val].map (fun c => ((engIdx e % 8 + i) % 8, c)))).find?
      (fun p => d.chanReady (Fin.ofNat 128 (64 * halfIdx (engHalf e) + 8 * (t.val / 4) + p.1 % 8)) (Fin.ofNat 4 p.2)) =
      some (engIdx e % 8, c.val) := by
    have hcons : ((List.range 8).flatMap (fun i => [c.val].map (fun c => ((engIdx e % 8 + i) % 8, c)))) =
        (engIdx e % 8, c.val) :: ((List.range' 1 7).flatMap (fun i => [c.val].map (fun c => ((engIdx e % 8 + i) % 8, c)))) := by
      rw [show List.range 8 = 0 :: List.range' 1 7 from rfl, List.flatMap_cons, Nat.add_zero, Nat.mod_mod]
      rfl
    rw [hcons, List.find?_cons_of_pos (by rw [heng, hc]; exact hready)]
  unfold tongsPiece
  dsimp only
  rw [hchans, hturn, hfind]
  dsimp only
  rw [heng, hc, hq]
  dsimp only
  rw [hst]
  dsimp only
  rw [hup]
  rfl

end Turn

/-- A channel whose head is a row copy of a running step has a piece to do. -/
theorem Dev.chanReady_rowCopy {d : Dev} {e : Fin 128} {c : Fin 4} {st : Step} {x : Xfer} {xs : List Xfer} (hx : x.RowCopy)
    (hq : tgetD d.tongs (chanKey e c) [] = x :: xs) (hfail : x.failed = false) (hpark : x.parked = none)
    (hwalk : x.walking = false) (hst : d.step? x.step = some st) (hp : st.phase = .running) : d.chanReady e c = true := by
  simp [Dev.chanReady, hq, hfail, hpark, hwalk, hx.row, hx.rows, hst, hp]

/-- A change of the transfer at the head of a channel. -/
theorem Dev.modHead_head {d : Dev} {e : Fin 128} {c : Fin 4} {x : Xfer} {xs : List Xfer}
    (h : tgetD d.tongs (chanKey e c) [] = x :: xs) (f : Xfer → Xfer) :
    tgetD (d.modHead e c f).tongs (chanKey e c) [] = f x :: xs := by
  have hkey : 4 * e.val + c.val = chanKey e c := rfl
  cases hk : tget d.tongs (chanKey e c) with
  | none => simp [tgetD, hk] at h
  | some v =>
    have hv : v = x :: xs := by simpa [tgetD, hk] using h
    simp [Dev.modHead, hkey, tgetD, tget_tmod_self, hk, hv]

/-- Settles O18: entry and completion past their checks, and the one piece of a row copy. -/
theorem tongsTransfersEnterCopyAndComplete : Obligations.TongsTransfersEnterCopyAndComplete := by
  refine ⟨⟨fun s e c rd a n st t hrun hn hst hcheck hroom => ?enter, fun s e c x xs hq hfail hrow hdone hw hrel hst => ?complete⟩,
    fun s e c t ext x xs st ht hup hchans hturn hq hfail hpark hwalk hrow hcol hst hp hop hcvt hssp hdsp hisp he1 he2 he3 hpos
      hshort hdst hfits hover hops hw => ?piece⟩
  case enter =>
    have hexec := exec_onDev (i := .tongsEnter e c) (s := s) (f := fun d => tongsEnter d e c) rfl
      (tongsEnter_eq hrun hn hst hcheck hroom)
    refine ⟨_, hexec, tgetD_tput_self _ _ _ _, ?_, ?_, ?_, fun g hg => Dev.eng_modEng_ne _ _ hg, rfl⟩
    · rw [Dev.eng_modEng_self]
      exact Engine.rx_wx_self _ _ _
    · rw [Dev.eng_modEng_self]
    · rw [Dev.eng_modEng_self]
      exact congrArg (· + 4) (Engine.wx_pc _ _ _)
  case complete =>
    have hexec := exec_onDev (i := .tongsTransferComplete e c) (s := s) (f := fun d => tongsComplete d e c) rfl
      (tongsComplete_eq hq hrow hdone hw hst)
    obtain ⟨y, hy⟩ := Dev.settleEng_only (d := { s.dev with tongs := tput s.dev.tongs (chanKey e c) xs }) hrel
    rw [hy] at hexec
    exact ⟨_, hexec, tgetD_tput_self _ _ _ _, rfl⟩
  case piece =>
    have hx : x.RowCopy := ⟨hop, hcvt, hssp, hdsp, he1, he2, he3, hpos, hshort, hdst, hfits, hrow, hcol⟩
    have hready := Dev.chanReady_rowCopy hx hq hfail hpark hwalk hst hp
    obtain ⟨y, hy⟩ := Dev.xferPiece_rowCopy (st := st)
      (d := { s.dev with tongsNext := tput s.dev.tongsNext (32 * halfIdx (engHalf e) + t.val) ((engIdx e % 8 + 1) % 8) })
      hx ((hx.overlapping _ s.dev e).trans hover) hops hw ext
    have hexec := exec_onDev (i := .tongsPiece (engHalf e) t ext) (s := s) (f := fun d => tongsPiece d (engHalf e) t ext) rfl
      ((tongsPiece_turn ht hup hchans hturn hq hready hst ext).trans hy)
    refine ⟨_, hexec, rfl, ?_, tgetD_tput_self _ _ _ _, rfl⟩
    refine (Dev.modHead_head (xs := xs) ?_ _).trans (by rw [hx.pieceDone])
    exact hq

end Sys2Proof.Machine

/-!
Operations at Rennet banks (chapter 06): what a performed signal, set-realign, add, wait and wake leave of the object, of its waits and
of the package.
-/
namespace Sys2Proof.Machine

/-! ### What an operation at a bank can change -/

/-- `d'` is `d` after operations at banks: objects and messages, events, and packets to other nodes. -/
def Dev.Banks (d d' : Dev) : Prop :=
  ∃ h c n o r, d' = { d with host := h, chain := c, free := n, out := o, rennet := r }

theorem Dev.Banks.refl (d : Dev) : d.Banks d := ⟨_, _, _, _, _, rfl⟩

theorem Dev.Banks.trans {d e f : Dev} : d.Banks e → e.Banks f → d.Banks f := by
  rintro ⟨_, _, _, _, _, rfl⟩ ⟨_, _, _, _, _, rfl⟩
  exact ⟨_, _, _, _, _, rfl⟩

theorem Dev.Sends.banks {d e : Dev} : d.Sends e → d.Banks e := by
  rintro ⟨_, _, _, _, rfl⟩
  exact ⟨_, _, _, _, _, rfl⟩

section Keeps
variable {d d' : Dev} (h : d.Banks d')
include h

theorem Dev.Banks.mem : d'.mem = d.mem := by obtain ⟨_, _, _, _, _, rfl⟩ := h; rfl
theorem Dev.Banks.engines : d'.engines = d.engines := by obtain ⟨_, _, _, _, _, rfl⟩ := h; rfl
theorem Dev.Banks.sched : d'.sched = d.sched := by obtain ⟨_, _, _, _, _, rfl⟩ := h; rfl

end Keeps

theorem Dev.modRennet_banks (d : Dev) (f : Rennet → Rennet) : d.Banks (d.modRennet f) := ⟨_, _, _, _, _, rfl⟩

theorem Dev.setObj_banks (d : Dev) (n : Nat) (o : RObj) : d.Banks (d.setObj n o) := ⟨_, _, _, _, _, rfl⟩

theorem Dev.raise_banks (d : Dev) (e : Event) : d.Banks (d.raise e) := ⟨(d.raise e).host, _, _, _, _, rfl⟩

theorem Dev.record_banks (d : Dev) (obj kind : Nat) (s : RSrc) (v : Word) : d.Banks (d.record obj kind s v) := by
  obtain ⟨h, l, f, hrec⟩ := d.record_only obj kind s v
  rw [hrec]
  exact d.modRennet_banks _

theorem Dev.checkWaits_banks (d : Dev) (obj : Nat) : d.Banks (d.checkWaits obj) :=
  (d.modRennet_banks _).trans (d.checkWaits_sends obj).banks

theorem Dev.drift_banks (d : Dev) (b obj : Nat) (g : BitVec 32) (o : RObj) : d.Banks (d.drift b obj g o) := d.raise_banks _

theorem Dev.realignOne_banks (d : Dev) (b : Nat) (g : BitVec 32) (n : Nat) : d.Banks (d.realignOne b g n) := by
  unfold Dev.realignOne
  dsimp only
  split
  · exact d.raise_banks _
  · refine .trans (.trans (.trans ?_ (Dev.setObj_banks _ n _)) (Dev.record_banks _ n 6 _ 0)) (Dev.checkWaits_banks _ n)
    split
    · exact d.drift_banks _ _ _ _
    · exact .refl d

theorem Dev.realign_banks (d : Dev) (b : Nat) (was : RObj) : d.Banks (d.realign b was) := by
  unfold Dev.realign
  split
  · exact .refl d
  · have hset := foldDev_keeps (f := fun d n => d.realignOne b was.gen n) (fun e => d.Banks e)
      (fun e n h => h.trans (e.realignOne_banks b was.gen n)) ((List.range was.rcnt.toNat).map (was.rbase.toNat + ·)) (.refl d)
    dsimp only
    split
    · exact (hset.trans (Dev.drift_banks _ _ _ _ _)).trans (Dev.setObj_banks _ _ _)
    · exact hset

/-! ### Waits after an operation (R203) -/

/-- A check of an object's waits leaves the objects, and none of its waits met. -/
theorem Dev.checkWaits_obj (d : Dev) (obj n : Nat) : (d.checkWaits obj).obj n = d.obj n := (d.checkWaits_sends obj).obj n

theorem Dev.checkWaits_unmet (d : Dev) (obj : Nat) :
    ∀ w ∈ (d.checkWaits obj).rennet.waiters, w.obj = obj → waitDone ((d.checkWaits obj).obj obj) w.operand = false := by
  intro w hw hobj
  rw [Dev.checkWaits_obj]
  rw [(d.checkWaits_sends obj).waiters] at hw
  obtain ⟨-, hunmet⟩ := List.mem_filter.1 hw
  simpa [hobj] using hunmet

/-! ### Signals (R201, R205) -/

/-- A performed signal changes its object by the type's rule and then checks its waits. -/
theorem Dev.applySignal_eq (d : Dev) (obj : Nat) (src : RSrc) (kind : SigKind) (v : Word) :
    ∃ e, d.applySignal obj src kind v = e.checkWaits obj ∧ d.Banks e ∧
      ((d.obj obj).typ = .counter → e.obj obj = counterAdd (d.obj obj) (BitVec.ofNat 32 v.toNat)) ∧
      ((d.obj obj).typ = .semaphore → e.obj obj = semAdd (d.obj obj) (BitVec.ofNat 32 v.toNat)) ∧
      ((d.obj obj).typ = .barrier → kind ≠ .sig → e.obj obj = { d.obj obj with stray := true }) ∧
      ((d.obj obj).typ = .barrier → kind = .sig →
        (barrierArrive (d.obj obj) (v.toNat % 256)).2 = false ∨ (d.obj obj).rcnt = 0 →
        e.obj obj = (barrierArrive (d.obj obj) (v.toNat % 256)).1) := by
  unfold Dev.applySignal
  dsimp only
  have hset : ∀ k o, d.Banks ((d.record obj k src v).setObj obj o) :=
    fun k o => (d.record_banks obj k src v).trans (Dev.setObj_banks _ _ _)
  have hobj : ∀ k o, ((d.record obj k src v).setObj obj o).obj obj = o := fun k o => Dev.obj_setObj_self _ _ _
  cases htyp : (d.obj obj).typ with
  | counter => exact ⟨_, rfl, hset _ _, fun _ => hobj _ _, nofun, nofun, nofun⟩
  | semaphore => exact ⟨_, rfl, hset _ _, nofun, fun _ => hobj _ _, nofun, nofun⟩
  | barrier =>
    dsimp only
    by_cases hk : kind ≠ .sig
    · rw [if_pos hk]
      exact ⟨_, rfl, hset _ _, nofun, nofun, fun _ _ => (hobj _ _).trans (by rw [← htyp]), fun _ h => absurd h hk⟩
    · rw [if_neg hk]
      refine ⟨_, rfl, ?_, nofun, nofun, fun _ h => absurd h hk, fun _ _ hr => ?_⟩
      · split
        · exact (hset _ _).trans (Dev.realign_banks _ _ _)
        · exact hset _ _
      · obtain hno | hzero := hr
        · rw [hno, if_neg Bool.false_ne_true]
          exact hobj _ _
        · split
          · rw [Dev.realign, if_pos hzero]
            exact hobj _ _
          · exact hobj _ _

/-- A legal signal that meets no refusal is applied. -/
theorem Dev.bankOp_signal {d : Dev} {src : RSrc} {kind : SigKind} {obj : Nat} {v : Word} (hgate : d.rennetGate src obj = none)
    (hok : kind = .sig → sigBad (d.obj obj).typ v = false) (by_ : Option Nat) :
    d.bankOp src kind obj v by_ = d.applySignal obj src kind v := by
  have hbank : ∀ b, d.bankSignal src kind obj v b = d.applySignal obj src kind v := fun b => by
    have hbad : (decide (kind = .sig) && sigBad (d.obj obj).typ v) = false := by
      by_cases hk : kind = .sig
      · simp [hk, hok hk]
      · simp [hk]
    rw [Dev.bankSignal, hgate]
    dsimp only
    rw [hbad, if_neg Bool.false_ne_true]
  by_cases hk : kind = .sig
  · have hopk : fld v.toNat 62 2 = 0 := by
      have h := hok hk
      simp only [sigBad, Bool.or_eq_false_iff, bne_eq_false_iff_eq] at h
      exact h.1
    subst hk
    rw [Dev.bankOp, if_neg (not_not_intro rfl), hopk]
    exact hbank _
  · rw [Dev.bankOp, if_pos hk, hbank]

/-- Whether a participant may still arrive, as the barrier's mask says. -/
theorem barrierArrive_eq (o : RObj) (p : Nat) : barrierArrive o p =
    if p < o.thresh.toNat ∧ o.mask.getLsbD p = false then
      if o.count + 1 = o.thresh then
        ({ o with mask := 0, count := 0, gen := o.gen + 1 }, true)
      else ({ o with mask := o.mask ||| BitVec.ofNat 256 (2 ^ p), count := o.count + 1 }, false)
    else ({ o with stray := true }, false) := by
  have hbit : bit o.mask.toNat p = o.mask.getLsbD p := by
    rw [BitVec.getLsbD, Nat.testBit_eq_decide_div_mod_eq, bit, fld, pow_one]
    rfl
  have hcond : (decide (p < o.thresh.toNat) && !o.mask.getLsbD p) = true ↔ p < o.thresh.toNat ∧ o.mask.getLsbD p = false := by
    simp
  unfold barrierArrive
  rw [hbit]
  by_cases hp : p < o.thresh.toNat ∧ o.mask.getLsbD p = false
  · rw [if_pos (hcond.2 hp), if_pos hp]
  · rw [if_neg (fun h => hp (hcond.1 h)), if_neg hp]

/-- Settles O22: the object changes by its type's rule, and what follows changes neither memory nor engines nor steps. -/
theorem rennetSignalsActByType : Obligations.RennetSignalsActByType := by
  intro s src kind obj operand d0 harr hgate hok
  obtain ⟨l, rfl⟩ := Dev.arriveTag_only harr
  obtain ⟨e, heq, hbanks, hcount, hsem, hstray, harrive⟩ :=
    Dev.applySignal_eq (s.dev.modRennet (fun r => { r with msgs := l })) obj.val src kind operand
  have hexec : exec (.rennetSignal src kind obj operand) s = .next { s with dev := (e.checkWaits obj.val).settle } := by
    refine exec_onDev (f := fun d => d.sigArrives src kind obj.val operand) rfl ?_
    have hgo := Dev.bankOp_signal (d := s.dev.modRennet (fun r => { r with msgs := l })) hgate hok
      (s.dev.sigStep (.sig src kind obj.val operand))
    simp only [Dev.sigArrives, harr, hgo, heq]
  have hobj : ∀ o, e.obj obj.val = o → (e.checkWaits obj.val).obj obj.val = o := fun o h => (Dev.checkWaits_obj _ _ _).trans h
  have hend : s.dev.Banks (e.checkWaits obj.val) :=
    ((s.dev.modRennet_banks _).trans hbanks).trans (Dev.checkWaits_banks _ _)
  have hv : BitVec.ofNat 32 operand.toNat = operand.truncate 32 := BitVec.ofNat_toNat 32 operand
  have hbarrier := barrierArrive_eq (s.dev.obj obj.val) (operand.toNat % 256)
  refine ⟨_, hexec, Dev.checkWaits_unmet _ _, fun ht => hobj _ ((hcount ht).trans ?counter),
    fun ht => hobj _ ((hsem ht).trans ?sem), fun ht hk => hobj _ (hstray ht hk), fun ht hk hp => ?stray,
    fun ht hk hp hm hc => ?arrives, fun ht hk hp hm hc hr => ?completes, hend.mem, hend.engines, hend.sched⟩
  case counter =>
    rw [hv]
    change counterAdd (s.dev.obj obj.val) _ = _
    unfold counterAdd
    simp only [Bool.and_eq_true, decide_eq_true_eq]
  case sem =>
    rw [hv]
    change semAdd (s.dev.obj obj.val) _ = _
    unfold semAdd
    simp only [Bool.and_eq_true, decide_eq_true_eq]
  case stray =>
    have hno : ¬(operand.toNat % 256 < (s.dev.obj obj.val).thresh.toNat ∧
        (s.dev.obj obj.val).mask.getLsbD (operand.toNat % 256) = false) := by
      rintro ⟨hlt, hmask⟩
      obtain hp | hp := hp
      · omega
      · rw [hp] at hmask
        cases hmask
    rw [if_neg hno] at hbarrier
    exact hobj _ ((harrive ht hk (.inl (congrArg Prod.snd hbarrier))).trans (congrArg Prod.fst hbarrier))
  case arrives =>
    rw [if_pos ⟨hp, hm⟩, if_neg hc] at hbarrier
    exact hobj _ ((harrive ht hk (.inl (congrArg Prod.snd hbarrier))).trans (congrArg Prod.fst hbarrier))
  case completes =>
    rw [if_pos ⟨hp, hm⟩, if_pos hc] at hbarrier
    exact hobj _ ((harrive ht hk (.inr hr)).trans (congrArg Prod.fst hbarrier))

/-! ### Set-realigns, adds, waits and wakes (R200, R203, R208) -/

/-- A set-realign of a counter or a semaphore stores its operand. -/
theorem Dev.bankSetRealign_expect {d : Dev} {src : RSrc} {obj : Nat} {v : Word} (hgate : d.rennetGate src obj = none)
    (htyp : (d.obj obj).typ ≠ .barrier) (hk : fld v.toNat 62 2 = 2) (hz : fld v.toNat 32 30 = 0) :
    d.bankSetRealign src obj v =
      ((d.record obj 3 src v).setObj obj { d.obj obj with expect := v.truncate 32 }).checkWaits obj := by
  have hexp : BitVec.ofNat 32 (fld v.toNat 0 32) = v.truncate 32 := by
    apply BitVec.eq_of_toNat_eq
    simp [fld]
  unfold Dev.bankSetRealign
  dsimp only
  rw [hgate]
  dsimp only
  rw [if_neg htyp, if_neg (by simp [hk, hz]), hexp]

/-- An object as an add of its type leaves it. -/
def RObj.added (o : RObj) (v : BitVec 32) : RObj := if o.typ = .counter then counterAdd o v else semAdd o v

/-- An add that its bank performs answers the count from before. -/
theorem Dev.bankAdd_ok {d : Dev} {src : RSrc} {obj : Nat} (v : BitVec 32) (hgate : d.rennetGate src obj = none)
    (htyp : (d.obj obj).typ ≠ .barrier) : d.bankAdd src obj v = .ok ((d.obj obj).count.setWidth 64,
      ((d.record obj 1 src (BitVec.ofNat 64 v.toNat)).setObj obj ((d.obj obj).added v)).checkWaits obj) := by
  unfold Dev.bankAdd
  dsimp only
  rw [hgate]
  dsimp only
  rw [BitVec.ofNat_toNat]
  cases ht : (d.obj obj).typ with
  | barrier => exact absurd ht htyp
  | counter => simp only [RObj.added, ht, if_true]
  | semaphore => simp only [RObj.added, ht, reduceCtorEq, if_false]

theorem Dev.answerWaiter_place (d : Dev) (w : Waiter) (st : Status) (v : Word) :
    (d.answerWaiter w st v).chain.place = d.chain.place := by
  unfold Dev.answerWaiter
  dsimp only
  split
  · split <;> rfl
  · rfl

theorem Dev.checkWaits_place (d : Dev) (obj : Nat) : (d.checkWaits obj).chain.place = d.chain.place := by
  unfold Dev.checkWaits
  dsimp only
  refine foldDev_keeps (fun e => e.chain.place = d.chain.place) (fun e w h => ?_) _ rfl
  rw [← h]
  unfold Dev.wakeOne
  split
  · rfl
  · rw [Dev.place_of_aside (Dev.flushSend_aside _), Dev.answerWaiter_place]

/-- The engine that a source names depends on the package's place in the Chain alone. -/
theorem srcEng_of_place {d e : Dev} (h : d.chain.place = e.chain.place) (s : RSrc) : srcEng d s = srcEng e s := by
  have hjoined : d.chain.joined = e.chain.joined := congrArg Prod.fst h
  have hnode : d.chain.node = e.chain.node := congrArg (fun x => x.2.2.1) h
  unfold srcEng Dev.ownNode
  rw [hjoined, hnode]

/-- The answer to an engine that waits for one. -/
theorem Dev.replyEng_eq {d : Dev} {e : Fin 128} {rd : Fin 32} {a : Word} {acq : Bool} (hrun : (d.eng e).run = .reply rd a acq)
    (v : Word) : ∃ f : Engine → Engine, d.replyEng e v = d.modEng e f ∧
      (f (d.eng e)).rx rd = (if rd.val = 0 then 0 else v) ∧ (f (d.eng e)).pc = (d.eng e).pc + 4 := by
  have heq : d.replyEng e v = d.modEng e
      (fun x => (((if acq then x.dropL1 else x).dropLine (a.toNat % 2 ^ 48 / 64)).wx rd v).retire) := by
    rw [Dev.replyEng, hrun]
  refine ⟨_, heq, Engine.rx_wx_self _ _ _, ?_⟩
  refine (congrArg (· + 4) (Engine.wx_pc _ _ _)).trans ?_
  cases acq <;> rfl

/-- The messages and waits after a wait that its bank takes: complete at once, or registered. -/
def Rennet.waited (r : Rennet) (o : RObj) (w : Waiter) : Rennet :=
  if waitDone o w.operand then { r with msgs := r.msgs ++ [.wake w.eng (waitValue o)] } else { r with waiters := r.waiters ++ [w] }

theorem Dev.bankWait_ok {d : Dev} {w : Waiter} (hgate : d.rennetGate w.src w.obj = none) (htag : w.tag = none) :
    d.bankWait w = .ok (d.modRennet (fun r => r.waited (d.obj w.obj) w)) := by
  rw [Dev.bankWait, hgate]
  dsimp only
  by_cases hdone : waitDone (d.obj w.obj) w.operand = true
  · simp only [Rennet.waited, hdone, if_true, Dev.wakeOne, htag]
  · simp only [Rennet.waited, hdone, Bool.false_eq_true, if_false]

/-- The package after a wake has retired the wait of its engine. -/
def Dev.woken (d : Dev) (e : Fin 128) (ms : List RMsg) (sc : Scope) (rd : Fin 32) (v : Word) : Dev :=
  ((d.modRennet (fun r => { r with msgs := ms })).modEng e (fun x => ((x.acquire sc).wx rd v).retire)).stallEnds
    ((d.engCtx e).getD 0)

/-- Settles O24: each operation reaches its object past the checks, and what follows leaves the object as the operation did. -/
theorem rennetAddsAndWaits : Obligations.RennetAddsAndWaits := by
  intro s src obj d0 hgate
  refine ⟨fun operand harr htyp hk hz => ?set, fun v e rd a acq harr htyp heng hrun => ?add,
    fun operand sc e harr heng => ?wait, fun e v a rd sc ms hms hrun => ?wake⟩
  case set =>
    obtain ⟨l, rfl⟩ := Dev.arriveTag_only harr
    have hkind : fld operand.toNat 62 2 = 2 := by simp only [fld]; omega
    have hset := Dev.bankSetRealign_expect (d := s.dev.modRennet (fun r => { r with msgs := l })) hgate htyp hkind hz
    refine ⟨(s.dev.modRennet (fun r => { r with msgs := l })).bankSetRealign src obj.val operand,
      exec_onDev (f := fun d => if fld operand.toNat 62 2 = 2 then d.sigArrives src .sig obj.val operand else d) rfl ?_,
      ?_, ?_⟩
    · rw [if_pos hkind]
      simp only [Dev.sigArrives, harr, Dev.bankOp, hkind, ne_eq, not_true_eq_false, if_false]
    · rw [hset, Dev.checkWaits_obj]
      exact Dev.obj_setObj_self _ _ _
    · rw [hset]
      exact (((Dev.record_banks _ _ _ _ _).trans (Dev.setObj_banks _ _ _)).trans (Dev.checkWaits_banks _ _)).mem
  case add =>
    obtain ⟨l, rfl⟩ := Dev.arriveTag_only harr
    have hadd := Dev.bankAdd_ok (d := s.dev.modRennet (fun r => { r with msgs := l })) v hgate htyp
    generalize ht : ((((s.dev.modRennet (fun r => { r with msgs := l })).record obj.val 1 src (BitVec.ofNat 64 v.toNat)).setObj
      obj.val (((s.dev.modRennet (fun r => { r with msgs := l })).obj obj.val).added v)).checkWaits obj.val) = t at hadd
    have hbanks : s.dev.Banks t := by
      rw [← ht]
      exact (((s.dev.modRennet_banks _).trans (Dev.record_banks _ _ _ _ _)).trans (Dev.setObj_banks _ _ _)).trans
        (Dev.checkWaits_banks _ _)
    have hplace : t.chain.place = s.dev.chain.place := by
      rw [← ht, Dev.checkWaits_place]
      obtain ⟨h, k, f, hrec⟩ := Dev.record_only (s.dev.modRennet (fun r => { r with msgs := l })) obj.val 1 src
        (BitVec.ofNat 64 v.toNat)
      rw [hrec]
      rfl
    have hobj : t.obj obj.val = (s.dev.obj obj.val).added v := by
      rw [← ht, Dev.checkWaits_obj]
      exact Dev.obj_setObj_self _ _ _
    have heng' : srcEng t src = some e := (srcEng_of_place hplace src).trans heng
    have hsame : t.eng e = s.dev.eng e := by rw [Dev.eng, hbanks.engines, Dev.eng]
    obtain ⟨f, hreply, hrx, hpc⟩ := Dev.replyEng_eq (d := t) (hsame ▸ hrun) ((s.dev.obj obj.val).count.setWidth 64)
    refine ⟨t.modEng e f, ?_, hobj, ?_, ?_, hbanks.mem⟩
    · change execRennetAdd src obj v s = _
      rw [execRennetAdd, onDev_eq, harr]
      dsimp only
      rw [hadd]
      dsimp only
      rw [heng']
      exact congrArg (fun d => Host.Outcome.next { s with dev := d }) hreply
    · rw [Dev.eng_modEng_self, hrx]
    · rw [Dev.eng_modEng_self, hpc, hsame]
  case wait =>
    obtain ⟨l, rfl⟩ := Dev.arriveTag_only harr
    have heng' : srcEng (s.dev.modRennet (fun r => { r with msgs := l })) src = some e := heng
    have hwait := Dev.bankWait_ok (d := s.dev.modRennet (fun r => { r with msgs := l }))
      (w := { obj := obj.val, src := src, eng := e, sc := sc, operand := operand }) hgate rfl
    have hexec : exec (.rennetWaitRegister src obj operand sc) s = .next { s with
        dev := (s.dev.modRennet (fun r => { r with msgs := l })).modRennet (fun r => r.waited (s.dev.obj obj.val)
          { obj := obj.val, src := src, eng := e, sc := sc, operand := operand }) } := by
      change execRennetWaitRegister src obj operand sc s = _
      rw [execRennetWaitRegister, onDev_eq, harr]
      dsimp only
      rw [heng', Option.getD_some, hwait]
      rfl
    refine ⟨_, hexec, ?_, rfl⟩
    have hval : waitValue (s.dev.obj obj.val) =
        BitVec.ofNat 64 ((s.dev.obj obj.val).count.toNat + 2 ^ 32 * (s.dev.obj obj.val).gen.toNat) := by
      rw [waitValue, at_, Nat.mul_comm]
    dsimp only [Dev.modRennet, Rennet.waited]
    rw [← hval]
    split
    · exact ⟨rfl, rfl⟩
    · exact ⟨rfl, rfl⟩
  case wake =>
    have hexec : exec (.rennetWake e) s = .next { s with dev := s.dev.woken e ms sc rd v } := by
      change execRennetWake e s = _
      rw [execRennetWake, onDev_eq]
      dsimp only
      have hrest : removeFirst (· == RMsg.wake e v) s.dev.rennet.msgs = ms := by
        rw [hms]
        exact if_pos (by simp)
      have hrun' : ((s.dev.modRennet (fun r => { r with msgs := ms })).eng e).run = .rwait rd a sc := hrun
      have hmod : s.dev.modRennet (fun r => { r with msgs := removeFirst (· == RMsg.wake e v) r.msgs }) =
          s.dev.modRennet (fun r => { r with msgs := ms }) := by rw [Dev.modRennet, hrest, Dev.modRennet]
      rw [hms, List.find?_cons_of_pos (by simp)]
      dsimp only
      rw [hmod, hrun']
      rfl
    refine ⟨_, hexec, rfl, ?_, fun g hg => ?_, rfl⟩
    · rw [← Engine.acquire_eq]
      exact Dev.eng_modEng_self (s.dev.modRennet (fun r => { r with msgs := ms })) e
        (fun x => ((x.acquire sc).wx rd v).retire)
    · exact Dev.eng_modEng_ne (s.dev.modRennet (fun r => { r with msgs := ms }))
        (fun x => ((x.acquire sc).wx rd v).retire) hg

end Sys2Proof.Machine

/-!
Writes of device firmware (R242), and the object windows of the cores, landing adds, deadlock windows and dumps (R209, R210, R217 to
R221).
-/
namespace Sys2Proof.Machine

/-! ### What a write of firmware can change (R242, R457) -/

/-- `d'` is `d` after writes of firmware: bytes at their homes or on their way, and packets to other nodes. -/
def Dev.FwWrote (d d' : Dev) : Prop :=
  ∃ mem poi free wr anv coh tiers chain out msgs, d' = { d with
    mem := mem, poison := poi, free := free, writes := wr, anvil := anv, coh := coh, tiers := tiers, chain := chain, out := out,
    rennet := { d.rennet with msgs := msgs } }

theorem Dev.FwWrote.refl (d : Dev) : d.FwWrote d := ⟨_, _, _, _, _, _, _, _, _, _, rfl⟩

theorem Dev.FwWrote.trans {d e f : Dev} : d.FwWrote e → e.FwWrote f → d.FwWrote f := by
  rintro ⟨_, _, _, _, _, _, _, _, _, _, rfl⟩ ⟨_, _, _, _, _, _, _, _, _, _, rfl⟩
  exact ⟨_, _, _, _, _, _, _, _, _, _, rfl⟩

theorem Dev.Sends.fwWrote {d e : Dev} : d.Sends e → d.FwWrote e := by
  rintro ⟨_, _, _, _, rfl⟩
  exact ⟨_, _, _, _, _, _, _, _, _, _, rfl⟩

section Keeps
variable {d d' : Dev} (h : d.FwWrote d')
include h

theorem Dev.FwWrote.host : d'.host = d.host := by obtain ⟨_, _, _, _, _, _, _, _, _, _, rfl⟩ := h; rfl
theorem Dev.FwWrote.sched : d'.sched = d.sched := by obtain ⟨_, _, _, _, _, _, _, _, _, _, rfl⟩ := h; rfl
theorem Dev.FwWrote.engines : d'.engines = d.engines := by obtain ⟨_, _, _, _, _, _, _, _, _, _, rfl⟩ := h; rfl
theorem Dev.FwWrote.cores : d'.cores = d.cores := by obtain ⟨_, _, _, _, _, _, _, _, _, _, rfl⟩ := h; rfl
theorem Dev.FwWrote.objs : d'.rennet.objs = d.rennet.objs := by obtain ⟨_, _, _, _, _, _, _, _, _, _, rfl⟩ := h; rfl
theorem Dev.FwWrote.dumps : d'.rennet.dumps = d.rennet.dumps := by obtain ⟨_, _, _, _, _, _, _, _, _, _, rfl⟩ := h; rfl

end Keeps

theorem Dev.chainSend_sends (d : Dev) (dst cls src ctx pd tag len body slice) :
    d.Sends (d.chainSend dst cls src ctx pd tag len body slice) :=
  (d.modChain_sends _).trans (Dev.flushSend_sends _)

/-- Firmware has no context to which a lost write would be reported. -/
theorem Dev.launch_fwWrote (d : Dev) {w : OutW} (hw : w.src = .firmware) (t : Target) : d.FwWrote (d.launch w t) := by
  unfold Dev.launch
  dsimp only
  split
  · exact ⟨_, _, _, _, _, _, _, _, _, _, rfl⟩
  · exact ⟨_, _, _, _, _, _, _, _, _, _, rfl⟩
  · exact ⟨_, _, _, _, _, _, _, _, _, _, rfl⟩
  · rw [hw]
    split
    · exact .refl d
    · dsimp only
      rw [if_neg Bool.false_ne_true]
      exact .trans ⟨_, _, _, _, _, _, _, _, _, _, rfl⟩ (Dev.chainSend_sends _ _ _ _ _ _ _ _ _ _).fwWrote
  · exact .refl d

theorem Dev.fwPut_fwWrote (d : Dev) (off : Nat) (bs : List Byte) : d.FwWrote (d.fwPut off bs) := by
  unfold Dev.fwPut
  split
  next e he _ =>
    obtain rfl := Dev.readGate_go he
    dsimp only
    split <;> exact ⟨_, _, _, _, _, _, _, _, _, _, rfl⟩
  · unfold Dev.issueWrite
    dsimp only
    split
    · exact ⟨_, _, _, _, _, _, _, _, _, _, rfl⟩
    · exact d.launch_fwWrote rfl _

theorem Dev.fwWrite_fwWrote (d : Dev) (a : Word) (bs : List Byte) : d.FwWrote (d.fwWrite a bs) := by
  unfold Dev.fwWrite
  split
  · exact ⟨_, _, _, _, _, _, _, _, _, _, rfl⟩
  · split
    · exact foldDev_keeps (f := fun d (p : Nat × List Byte) => d.fwPut p.1 p.2) (fun e => d.FwWrote e)
        (fun e p h => h.trans (e.fwPut_fwWrote p.1 p.2)) _ (.refl d)
    · exact .refl d
  · exact .refl d

/-! ### Instructions of a hart (R293, R295, R553) -/

section Hart
variable {d : Dev} {h : Fin 64}

/-- A hart whose barriers have been passed. -/
def Core.passed (c : Core) (so lo : Bool) : Core :=
  { c with stBar := c.stBar && so, ldBar := c.ldBar && so, rdBar := c.rdBar && lo, run := .running }

theorem Dev.passBars_core : (d.passBars h).core h = (d.core h).passed (d.coreStoresOut h) (d.coreLoadsOut h) :=
  Dev.core_modCore_self _ _ _

theorem Dev.passBars_only : { d.passBars h with cores := d.cores } = d := rfl

theorem Dev.passBars_core_ne {g : Fin 64} (hg : g ≠ h) : (d.passBars h).core g = d.core g := Dev.core_modCore_ne _ _ hg

/-- A hart as its instruction ends, where a single step halts it. -/
def Core.stepped (c : Core) : Core := { c with halted := c.halted || c.stepping, stepping := false }

/-- An instruction that may be performed runs past the hart's barriers. -/
theorem Dev.onCore_go {k : CKind} (hmay : d.coreMay h k = true) (f : Dev → Dev) :
    d.onCore h k f = (f (d.passBars h)).modCore h Core.stepped := by
  rw [Dev.onCore, hmay]
  rfl

theorem Dev.lineStores_of_accs {e : Dev} (hacc : (e.core h).accs = (d.core h).accs) (f : Nat → Bool) :
    e.lineStores (.core h) f = d.lineStores (.core h) f := by
  simp only [Dev.lineStores, hacc]

/-- What holds a hart's signal back does not depend on its barriers. -/
theorem Dev.passBars_sigHolds (t : Target) : (d.passBars h).sigHolds (.core h) t = d.sigHolds (.core h) t := by
  have hline : ∀ f, (d.passBars h).lineStores (.core h) f = d.lineStores (.core h) f :=
    Dev.lineStores_of_accs (by rw [Dev.passBars_core]; rfl)
  simp only [Dev.sigHolds, Dev.mustHold, Dev.released, hline]
  rfl

theorem Dev.modCore_modCore (f g : Core → Core) : (d.modCore h f).modCore h g = d.modCore h (fun c => g (f c)) := by
  simp only [Dev.modCore, Dev.setCore, Dev.core, tgetD_tput_self, tput_tput_self]

theorem Dev.modCore_congr {f g : Core → Core} (hfg : f (d.core h) = g (d.core h)) : d.modCore h f = d.modCore h g :=
  congrArg (d.setCore h) hfg

/-- A hart as a load that has its value at once retires, with none outstanding. -/
def Core.loaded (c : Core) (rd : Fin 32) (v : Word) : Core := { c.wx rd v with loads := [], nextLoad := c.nextLoad + 1 }

theorem Core.loaded_rx (c : Core) (rd : Fin 32) (v : Word) : (c.loaded rd v).rx rd = if rd.val = 0 then 0 else v := by
  by_cases h : rd.val = 0
  · simp [Core.rx, h]
  · simp [Core.rx, Core.loaded, Core.wx, h, tgetD_tput_self]

theorem Dev.loadVal_of_idle (hl : (d.core h).loads = []) (rd : Fin 32) (v : Word) :
    d.loadVal h rd v = d.modCore h (fun c => c.loaded rd v) := by
  have hone : ∀ (t : Dev) (l : CLoad), (t.core h).loads = [l] → l.exc = none → l.val = some v →
      t.retireCore h = t.modCore h (fun c => { c.wx l.rd v with loads := [] }) := by
    intro t l hloads hexc hval
    rw [Dev.retireCore, hloads]
    simp only [List.length_cons, List.length_nil, retireLoads, hloads, hexc, hval]
  unfold Dev.loadVal Dev.newLoad
  dsimp only
  unfold Dev.loadDone
  rw [Dev.modCore_modCore, hone _ { seq := (d.core h).nextLoad, rd := rd, val := some v } (by simp [hl]) rfl rfl,
    Dev.modCore_modCore]
  refine Dev.modCore_congr ?_
  by_cases hrd : rd.val = 0
  · simp [Core.loaded, Core.wx, hrd]
  · simp [Core.loaded, Core.wx, hrd]

end Hart

/-! ### Object windows of the cores (R209, R292) -/

section Window
variable {d : Dev} {h : Fin 64} {obj off : Nat}

theorem Core.passed_domEn (c : Core) (so lo : Bool) : (c.passed so lo).domEn = c.domEn := rfl
theorem Core.passed_pd (c : Core) (so lo : Bool) : (c.passed so lo).pd = c.pd := rfl

theorem Dev.coreSrc_passBars : (d.passBars h).coreSrc h = d.coreSrc h := by
  unfold Dev.coreSrc
  dsimp only
  rw [Dev.passBars_core]
  rfl

/-- An operation of a hart on an open object meets no refusal at its bank. -/
theorem Dev.rennetGate_coreSrc (hopen : d.objOpen obj (d.core h).pd = true) (hpsn : (d.obj obj).poisoned = false) :
    d.rennetGate (d.coreSrc h) obj = none := by
  have hpd : (d.coreSrc h).pd.toNat = (d.core h).pd := by
    simp only [Dev.coreSrc, BitVec.toNat_ofNat, Core.pd, fld]
    omega
  rw [Dev.rennetGate, hpd, hopen, hpsn]
  rfl

/-- A window load of a word of an open object, with no load of the hart outstanding. -/
theorem Dev.coreWinLoad_ok (hdom : (d.core h).domEn = true) (hopen : d.objOpen obj (d.core h).pd = true)
    (hpsn : (d.obj obj).poisoned = false) (hoff : off % 8 = 0) (hl : (d.core h).loads = [])
    (hout : d.opsOut (.core h) obj = false) (rd : Fin 32) (a : Word) (ext : List Byte) :
    coreWinLoad d h rd a none obj off ext = d.modCore h (fun c => c.loaded rd (BitVec.ofNat 64 (winWord (d.obj obj) off))) := by
  have hread : d.winRead obj off (d.core h).pd = .ok (winWord (d.obj obj) off) := by simp [Dev.winRead, hoff, hopen, hpsn]
  unfold coreWinLoad
  dsimp only
  rw [if_neg (by simp [hdom, hoff]), hout, if_neg Bool.false_ne_true, hread]
  dsimp only
  exact Dev.loadVal_of_idle hl _ _

/-- A window store to an open object issues its signal. -/
theorem Dev.coreWinStore_ok (hdom : (d.core h).domEn = true) (hopen : d.objOpen obj (d.core h).pd = true) (a v : Word) :
    coreWinStore d h a none obj 0 v = d.issueSig (.core h) (d.coreSrc h) none obj v := by
  unfold coreWinStore
  dsimp only
  rw [if_neg (by simp [hdom]), hopen, if_pos rfl]

/-- A window AMOADD that nothing holds back is an add at the bank. -/
theorem Dev.coreWinAdd_ok (hdom : (d.core h).domEn = true) {a : Word} (hgo : d.sigHolds (.core h) (d.target false a.toNat) = false)
    {v : BitVec 32} {old : Word} {e : Dev} (hadd : d.bankAdd (d.coreSrc h) obj v = .ok (old, e)) (rd : Fin 32) :
    coreWinAdd d h rd a none obj 0 v = e.modCore h (fun c => c.wx rd old) := by
  unfold coreWinAdd
  dsimp only
  rw [if_neg (by simp [hdom]), hgo, if_neg Bool.false_ne_true, hadd]

theorem Core.stepped_rx (c : Core) (r : Fin 32) : c.stepped.rx r = c.rx r := rfl

theorem Core.rx_wx_self (c : Core) (r : Fin 32) (v : Word) : (c.wx r v).rx r = if r.val = 0 then 0 else v := by
  by_cases h : r.val = 0
  · simp [Core.rx, h]
  · simp [Core.rx, Core.wx, h, tgetD_tput_self]

end Window

/-! ### Landing adds (R210) -/

/-- A check of waits leaves the landing adds that wait. -/
theorem Dev.Sends.landings {d e : Dev} (h : d.Sends e) : e.rennet.landings = d.rennet.landings := by
  obtain ⟨_, _, _, _, rfl⟩ := h
  rfl

/-- A performed signal leaves memory and the landing adds that wait, and adds to a counter without a threshold. -/
theorem Dev.applySignal_counter {d : Dev} {obj : Nat} {src : RSrc} {kind : SigKind} {v : Word} (ht : (d.obj obj).typ = .counter)
    (hz : (d.obj obj).thresh = 0) :
    (d.applySignal obj src kind v).obj obj = { d.obj obj with count := (d.obj obj).count + BitVec.ofNat 32 v.toNat } ∧
      (d.applySignal obj src kind v).rennet.landings = d.rennet.landings ∧ (d.applySignal obj src kind v).mem = d.mem := by
  have hadd : counterAdd (d.obj obj) (BitVec.ofNat 32 v.toNat) =
      { d.obj obj with count := (d.obj obj).count + BitVec.ofNat 32 v.toNat } := by simp [counterAdd, hz]
  have heq : ∃ k, d.applySignal obj src kind v =
      ((d.record obj k src v).setObj obj (counterAdd (d.obj obj) (BitVec.ofNat 32 v.toNat))).checkWaits obj := by
    unfold Dev.applySignal
    dsimp only
    rw [ht]
    exact ⟨_, rfl⟩
  obtain ⟨k, heq⟩ := heq
  obtain ⟨h, l, f, hrec⟩ := d.record_only obj k src v
  rw [heq, hadd, hrec]
  exact ⟨(Dev.checkWaits_obj _ _ _).trans (Dev.obj_setObj_self _ _ _), (Dev.checkWaits_sends _ _).landings, (Dev.checkWaits_banks _ _).mem⟩

/-- The source of a region's landing adds. -/
def Dev.landingSrc (d : Dev) (r : Fin 4096) (reg : PRegion) : RSrc :=
  { node := BitVec.ofNat 8 d.ownNode, srct := 5, srcid := BitVec.ofNat 16 r.val, half := .west,
    ctx := Fin.ofNat 4096 reg.ctx, pd := BitVec.ofNat 8 (d.pdOf reg.ctx) }

/-- The oldest landing add, with its region's writes acknowledged, is a signal of its counter. -/
theorem exec_landingAdd {s : State} {r : Fin 4096} {n : Nat} {ls : List (Fin 4096 × Nat)} {reg : PRegion} {obj : Nat}
    (hls : s.dev.rennet.landings = (r, n) :: ls) (hw : ∀ w ∈ s.dev.writes, w.src ≠ .region r)
    (hreg : tget s.dev.host.regions r.val = some reg) (hobj : reg.counter = some obj)
    (hopen : s.dev.objOpen obj (s.dev.pdOf reg.ctx % 256) = true) (hpsn : (s.dev.obj obj).poisoned = false) :
    exec .landingAdd s = .next { s with
      dev := (s.dev.modRennet (fun x => { x with landings := ls })).applySignal obj (s.dev.landingSrc r reg) .landing
        (BitVec.ofNat 64 n) } := by
  have hnone : s.dev.writes.any (fun w => w.src == .region r) = false := by
    rw [List.any_eq_false]
    intro w hmem
    simpa using hw w hmem
  change execLandingAdd s = _
  rw [execLandingAdd, onDev_eq]
  dsimp only
  rw [hls]
  dsimp only
  rw [hnone, if_neg Bool.false_ne_true]
  have hreg' : tget (s.dev.modRennet (fun x => { x with landings := ls })).host.regions r.val = some reg := hreg
  rw [hreg']
  dsimp only
  rw [hobj]
  dsimp only
  have hgate : (s.dev.modRennet (fun x => { x with landings := ls })).rennetGate (s.dev.landingSrc r reg) obj = none := by
    have hpd : (s.dev.landingSrc r reg).pd.toNat = s.dev.pdOf reg.ctx % 256 := BitVec.toNat_ofNat _ _
    have hopen' : (s.dev.modRennet (fun x => { x with landings := ls })).objOpen obj (s.dev.pdOf reg.ctx % 256) = true := hopen
    have hpsn' : ((s.dev.modRennet (fun x => { x with landings := ls })).obj obj).poisoned = false := hpsn
    rw [Dev.rennetGate, hpd, hopen', hpsn']
    rfl
  change Host.Outcome.next { s with dev := Dev.bankSignal _ (s.dev.landingSrc r reg) .landing obj (BitVec.ofNat 64 n) } = _
  rw [Dev.bankSignal, hgate]
  rfl

/-! ### Deadlock windows and dumps (R217, R218, R221) -/

/-- The package after the window of a stalled context has expired. -/
def Dev.deadlocked (d : Dev) (c : Nat) : Dev :=
  (d.raise (evt 3 .ok .hub c 0 0)).modRennet (fun r => { r with fired := c :: r.fired })

theorem Dev.deadlocked_ctxs (d : Dev) (c : Nat) : (d.deadlocked c).host.ctxs = d.host.ctxs := by
  change (d.raise (evt 3 .ok .hub c 0 0)).host.ctxs = _
  simp only [Dev.raise, Dev.modHost]
  split <;> rfl

theorem Dev.deadlocked_evtQ {d : Dev} (c : Nat) (hhold : d.host.canHold = true) :
    (d.deadlocked c).host.evtQ = d.host.evtQ ++ [{ kind := 3, info := BitVec.ofNat 32 c, t := d.hubCount }] :=
  (congrArg HostIf.evtQ (d.raise_held (evt 3 .ok .hub c 0 0) (.inl hhold)) :)

theorem Dev.deadlocked_only (d : Dev) (c : Nat) : { d.deadlocked c with rennet := d.rennet, host := d.host } = d := rfl

theorem deadlockExpiry_eq {d : Dev} {c : Nat} {x : Ctx} (hc : c < 4095) (hx : d.ctx? c = some x) (hstall : d.stalled c = true)
    (hfired : c ∉ d.rennet.fired) (hops : d.opsInWindow c = false) (hcont : d.faults.contain = none) (hdump : x.dumpOn = false) :
    deadlockExpiry d c = d.deadlocked c := by
  have hpkg : (c == 4095) = false := by simp; omega
  have hx' : (d.deadlocked c).ctx? c = some x := by rw [Dev.ctx?, Dev.deadlocked_ctxs]; exact hx
  unfold deadlockExpiry
  dsimp only
  rw [hpkg]
  simp only [Bool.false_eq_true, if_false]
  rw [if_neg (by simp [hstall, hops, hfired, hcont])]
  change (if (match (d.deadlocked c).ctx? c with | some x => x.dumpOn | none => false) && _ then _ else d.deadlocked c) = _
  rw [hx']
  dsimp only
  simp only [hdump, Bool.false_and, Bool.false_eq_true, if_false]

/-- A dump that no command started ends with its event. -/
theorem dumpFinish_ok {d : Dev} {j : DumpJob} {js : List DumpJob} (hj : d.rennet.dumps = j :: js) (hslot : j.slot = none) :
    ∃ a bs i n m, dumpFinish d = ((d.modRennet (fun r => { r with dumps := js })).fwWrite a bs).raise (evt 4 .ok .hub i n m) := by
  unfold dumpFinish
  rw [hj]
  dsimp only
  rw [hslot]
  exact ⟨_, _, _, _, _, rfl⟩

/-- The finished dump at the front leaves its queue with its event. -/
theorem exec_dumpComplete {s : State} {j : DumpJob} {js : List DumpJob} (hj : s.dev.rennet.dumps = j :: js) (hslot : j.slot = none)
    (hhold : s.dev.host.canHold = true) : ∃ d e, exec .dumpComplete s = .next { s with dev := d } ∧ d.rennet.dumps = js ∧
      d.host.evtQ = s.dev.host.evtQ ++ [e] ∧ e.kind = 4 ∧ d.rennet.objs = s.dev.rennet.objs ∧ d.sched = s.dev.sched := by
  obtain ⟨b, bs, i, n, m, hfin⟩ := dumpFinish_ok hj hslot
  have hwrote := Dev.fwWrite_fwWrote (s.dev.modRennet (fun r => { r with dumps := js })) b bs
  generalize (s.dev.modRennet (fun r => { r with dumps := js })).fwWrite b bs = w at hfin hwrote
  have hhost : w.host = s.dev.host := hwrote.host
  have hraise := w.raise_held (evt 4 .ok .hub i n m) (.inl (by rw [hhost]; exact hhold))
  refine ⟨_, { evt 4 .ok .hub i n m with t := w.dieCount .hub }, exec_onDev (f := dumpFinish) rfl hfin, hwrote.dumps, ?_, rfl,
    hwrote.objs, hwrote.sched⟩
  rw [hraise, hhost]
  rfl

/-- A signal that is held at its hart. -/
def Dev.heldSig (d : Dev) (h : Fin 64) (obj : Nat) (v : Word) : OutW :=
  { src := .core h, addr := objAddr obj, bytes := leBytes 8 v.toNat, held := true, what := .sig (d.coreSrc h) obj v,
    path := d.pathOf (.core h) (d.target true (objAddr obj)) false }

/-- The package after an instruction of a hart that changes the hart alone. -/
def Dev.hartDone (d : Dev) (h : Fin 64) (f : Core → Core) : Dev := ((d.passBars h).modCore h f).modCore h Core.stepped

/-- A window load of a hart past its barriers, with no load outstanding. -/
theorem exec_windowLoad {s : State} {h : Fin 64} {obj off : Nat} {a : Word} (hto : s.dev.coreTo a = .rennet none obj off)
    (hmay : s.dev.coreMay h .load = true) (hdom : (s.dev.core h).domEn = true)
    (hopen : s.dev.objOpen obj (s.dev.core h).pd = true) (hpsn : (s.dev.obj obj).poisoned = false) (hoff : off % 8 = 0)
    (hl : (s.dev.core h).loads = []) (hout : s.dev.opsOut (.core h) obj = false) (rd : Fin 32) (ext : List Byte) :
    exec (.rennetWindowLoad (.core h rd) ⟨a, ext⟩) s = .next { s with
      dev := s.dev.hartDone h (fun c => c.loaded rd (BitVec.ofNat 64 (winWord (s.dev.obj obj) off))) } := by
  have hcore := Dev.passBars_core (d := s.dev) (h := h)
  have hwin := Dev.coreWinLoad_ok (d := s.dev.passBars h) (h := h) (obj := obj) (by rw [hcore]; exact hdom)
    (by rw [hcore]; exact hopen) hpsn hoff (by rw [hcore]; exact hl) hout rd a ext
  refine exec_onDev (f := fun d => windowLoad d (.core h rd) a ext) rfl ?_
  simp only [windowLoad, hto]
  rw [Dev.onCore_go hmay, hwin]
  rfl

/-- A window store of a hart past its barriers. -/
theorem exec_windowStore {s : State} {h : Fin 64} {obj : Nat} {a : Word} (hto : s.dev.coreTo a = .rennet none obj 0)
    (hmay : s.dev.coreMay h .store = true) (hdom : (s.dev.core h).domEn = true)
    (hopen : s.dev.objOpen obj (s.dev.core h).pd = true) (rd : Fin 32) (v : Word) :
    exec (.rennetWindowStore (.core h rd) a v) s =
      .next { s with dev := ((s.dev.passBars h).issueSig (.core h) (s.dev.coreSrc h) none obj v).modCore h Core.stepped } := by
  have hcore := Dev.passBars_core (d := s.dev) (h := h)
  have hwin := Dev.coreWinStore_ok (d := s.dev.passBars h) (h := h) (obj := obj) (by rw [hcore]; exact hdom)
    (by rw [hcore]; exact hopen) a v
  rw [Dev.coreSrc_passBars] at hwin
  refine exec_onDev (f := fun d => windowStore d (.core h rd) a v) rfl ?_
  simp only [windowStore, hto]
  rw [Dev.onCore_go hmay, hwin]

/-- The package after an AMOADD of a hart has added at a bank, before its result is written. -/
def Dev.bankAdded (d : Dev) (h : Fin 64) (obj : Nat) (v : BitVec 32) : Dev :=
  (((d.passBars h).record obj 1 (d.coreSrc h) (BitVec.ofNat 64 v.toNat)).setObj obj ((d.obj obj).added v)).checkWaits obj

theorem Dev.bankAdded_obj (d : Dev) (h : Fin 64) (obj : Nat) (v : BitVec 32) :
    (d.bankAdded h obj v).obj obj = (d.obj obj).added v :=
  (Dev.checkWaits_obj _ _ _).trans (Dev.obj_setObj_self _ _ _)

theorem Dev.bankAdded_mem (d : Dev) (h : Fin 64) (obj : Nat) (v : BitVec 32) : (d.bankAdded h obj v).mem = d.mem :=
  (((Dev.record_banks _ _ _ _ _).trans (Dev.setObj_banks _ _ _)).trans (Dev.checkWaits_banks _ _)).mem

/-- The package after an AMOADD of a hart at a bank. -/
def Dev.hartAdded (d : Dev) (h : Fin 64) (rd : Fin 32) (obj : Nat) (v : BitVec 32) : Dev :=
  ((d.bankAdded h obj v).modCore h (fun c => c.wx rd ((d.obj obj).count.setWidth 64))).modCore h Core.stepped

theorem Dev.hartAdded_rx (d : Dev) (h : Fin 64) (rd : Fin 32) (obj : Nat) (v : BitVec 32) :
    ((d.hartAdded h rd obj v).core h).rx rd = if rd.val = 0 then 0 else (d.obj obj).count.setWidth 64 := by
  rw [Dev.hartAdded, Dev.core_modCore_self, Dev.core_modCore_self, Core.stepped_rx, Core.rx_wx_self]

theorem Dev.hartAdded_obj (d : Dev) (h : Fin 64) (rd : Fin 32) (obj : Nat) (v : BitVec 32) :
    (d.hartAdded h rd obj v).obj obj = (d.obj obj).added v :=
  d.bankAdded_obj h obj v

theorem Dev.hartAdded_mem (d : Dev) (h : Fin 64) (rd : Fin 32) (obj : Nat) (v : BitVec 32) :
    (d.hartAdded h rd obj v).mem = d.mem :=
  d.bankAdded_mem h obj v

/-- An AMOADD of a hart past its barriers, on an open object, that nothing holds back. -/
theorem Dev.windowAdd_ok {d : Dev} {h : Fin 64} {obj : Nat} {a : Word} (hto : d.coreTo a = .rennet none obj 0)
    (hmay : d.coreMay h .both = true) (hdom : (d.core h).domEn = true) (hopen : d.objOpen obj (d.core h).pd = true)
    (hpsn : (d.obj obj).poisoned = false) (hgo : d.sigHolds (.core h) (d.target false a.toNat) = false)
    (htyp : (d.obj obj).typ ≠ .barrier) (rd : Fin 32) (v : BitVec 32) :
    windowAdd d h rd a v = d.hartAdded h rd obj v := by
  have hcore := Dev.passBars_core (d := d) (h := h)
  have hgate : (d.passBars h).rennetGate ((d.passBars h).coreSrc h) obj = none :=
    Dev.rennetGate_coreSrc (by rw [hcore]; exact hopen) hpsn
  have hadd := Dev.bankAdd_ok v hgate htyp
  have hwin := Dev.coreWinAdd_ok (d := d.passBars h) (h := h) (obj := obj) (by rw [hcore]; exact hdom)
    ((Dev.passBars_sigHolds _).trans hgo) hadd rd
  rw [Dev.coreSrc_passBars] at hwin
  unfold windowAdd
  rw [hto]
  dsimp only
  rw [Dev.onCore_go hmay, hwin]
  rfl

/-- Settles O25: each operation of a hart past its barriers and the object's checks, and each event of the banks. -/
theorem windowsLandingsAndDumpsAct : Obligations.WindowsLandingsAndDumpsAct := by
  refine ⟨fun s h rd a v obj off ext hto hdom hopen hpsn => ⟨fun hoff hmay hl hout => ?load, fun hoff hmay => ?store,
      fun hoff hmay hgo htyp => ?add⟩,
    fun s r n ls reg obj hls hw hreg hobj ht hz hopen hpsn => ?landing,
    fun s c x hc hx hstall hfired hops hcont hdump hhold => ?deadlock, fun s j js hj hslot hhold => ?dump⟩
  case load =>
    refine ⟨_, exec_windowLoad hto hmay hdom hopen hpsn hoff hl hout rd ext, ⟨rfl, fun g hg => ?_⟩, ?_⟩
    · rw [Dev.hartDone, Dev.core_modCore_ne _ _ hg, Dev.core_modCore_ne _ _ hg, Dev.passBars_core_ne hg]
    · rw [Dev.hartDone, Dev.core_modCore_self, Dev.core_modCore_self, Core.stepped_rx, Core.loaded_rx]
  case store =>
    subst hoff
    refine ⟨_, exec_windowStore hto hmay hdom hopen rd v, ?_⟩
    have hholds := Dev.passBars_sigHolds (d := s.dev) (h := h) (s.dev.target true (objAddr obj))
    by_cases hheld : s.dev.sigHolds (.core h) (s.dev.target true (objAddr obj)) = true
    · rw [if_pos hheld]
      have hissue : (s.dev.passBars h).issueSig (.core h) (s.dev.coreSrc h) none obj v =
          { s.dev.passBars h with writes := s.dev.writes ++ [s.dev.heldSig h obj v] } := if_pos (hholds.trans hheld)
      rw [hissue]
      exact ⟨rfl, ⟨_, rfl, rfl, rfl, rfl, rfl⟩, rfl⟩
    · rw [if_neg hheld]
      have hissue : (s.dev.passBars h).issueSig (.core h) (s.dev.coreSrc h) none obj v =
          (s.dev.passBars h).modRennet (fun r => { r with msgs := r.msgs ++ [.sig (s.dev.coreSrc h) .sig obj v] }) :=
        if_neg (by rw [← hholds] at hheld; exact hheld)
      rw [hissue]
      exact ⟨rfl, rfl⟩
  case add =>
    subst hoff
    have hexec : exec (.rennetWindowAmoadd h rd a (v.truncate 32)) s =
        .next { s with dev := s.dev.hartAdded h rd obj (v.truncate 32) } :=
      exec_onDev (f := fun d => windowAdd d h rd a (v.truncate 32)) rfl (Dev.windowAdd_ok hto hmay hdom hopen hpsn hgo htyp rd _)
    refine ⟨_, hexec, Dev.hartAdded_rx _ _ _ _ _, ?_, Dev.hartAdded_mem _ _ _ _ _⟩
    rw [Dev.hartAdded_obj]
    rfl
  case landing =>
    have hexec := exec_landingAdd hls hw hreg hobj hopen hpsn
    obtain ⟨hobj', hland, hmem⟩ := Dev.applySignal_counter (d := s.dev.modRennet (fun x => { x with landings := ls })) (obj := obj)
      (src := s.dev.landingSrc r reg) (kind := .landing) (v := BitVec.ofNat 64 n) ht hz
    refine ⟨_, hexec, hland, hobj'.trans ?_, hmem⟩
    have hn : BitVec.ofNat 32 (BitVec.ofNat 64 n).toNat = BitVec.ofNat 32 n := by
      apply BitVec.eq_of_toNat_eq
      simp only [BitVec.toNat_ofNat]
      omega
    rw [hn]
    rfl
  case deadlock =>
    exact ⟨_, exec_onDev (f := fun d => deadlockExpiry d c.val) rfl (deadlockExpiry_eq hc hx hstall hfired hops hcont hdump),
      Dev.deadlocked_evtQ _ hhold, rfl, Dev.deadlocked_only _ _⟩
  case dump => exact exec_dumpComplete hj hslot hhold

end Sys2Proof.Machine

/-!
Home slices that take a request: the layer that O26, O27 and the later coherence obligations share (R254 to R265, Table 8.6).
-/
namespace Sys2Proof.Machine

/-! ### Messages that arrive -/

/-- A message that arrives leaves the messages in flight, and nothing else changes. -/
theorem Dev.arriveMsg_only {d d0 : Dev} {m q : NMsg} {f : NMsg → Bool} (h : d.arriveMsg m f = (q, d0)) :
    ∃ noc, d0 = d.modCoh (fun c => { c with noc := noc }) := by
  unfold Dev.arriveMsg at h
  split at h
  next x e hx =>
    cases h
    exact ⟨_, (congrArg Prod.snd hx).symm⟩
  next x hx =>
    cases h
    exact ⟨d.coh.noc, rfl⟩

/-! ### Frames that only their heat tells apart -/

/-- Every line lies in `e` where it lies in `d`. -/
structure Dev.SamePlaces (d e : Dev) : Prop where
  frame : ∀ f, ∃ n, e.frame f = { d.frame f with heat := n }
  moves : e.tiers.moves = d.tiers.moves
  hbm : e.hbm = d.hbm
  units : e.faults = d.faults

section Places
variable {d e : Dev} (h : d.SamePlaces e)
include h

theorem Dev.SamePlaces.backing (off : Nat) : e.backing off = d.backing off := by
  obtain ⟨n, hn⟩ := h.frame (frameOf off)
  rw [Dev.backing, hn, Dev.backing]

theorem Dev.SamePlaces.homeHalf (off : Nat) : e.homeHalf off = d.homeHalf off := by
  obtain ⟨n, hn⟩ := h.frame (frameOf off)
  simp only [Dev.homeHalf, hn]

theorem Dev.SamePlaces.hbmPlace (off : Nat) : e.hbmPlace off = d.hbmPlace off := by
  obtain ⟨n, hn⟩ := h.frame (frameOf off)
  simp only [Dev.hbmPlace, h.backing, h.homeHalf, h.hbm, hn, Frame.hbmOffset]

/-- A frame that lets a request go on does so wherever its lines lie in the same places. -/
theorem Dev.SamePlaces.frameGate {off : Nat} (hgo : d.frameGate off = .go d) : e.frameGate off = .go e := by
  have hheld : e.hbmHeld off = d.hbmHeld off := by simp only [Dev.hbmHeld, h.hbmPlace, h.hbm, h.units]
  unfold Dev.frameGate at hgo ⊢
  rw [h.backing, hheld, h.moves]
  grind

end Places

theorem Dev.samePlaces_of_eq {d e : Dev} (ht : e.tiers = d.tiers) (hh : e.hbm = d.hbm) (hf : e.faults = d.faults) : d.SamePlaces e :=
  ⟨fun f => ⟨(d.frame f).heat, by rw [Dev.frame, ht]; rfl⟩, by rw [ht], hh, hf⟩

theorem Dev.SamePlaces.trans {d e f : Dev} (h : d.SamePlaces e) (k : e.SamePlaces f) : d.SamePlaces f := by
  refine ⟨fun x => ?_, k.moves.trans h.moves, k.hbm.trans h.hbm, k.units.trans h.units⟩
  obtain ⟨n, hn⟩ := h.frame x
  obtain ⟨m, hm⟩ := k.frame x
  exact ⟨m, by rw [hm, hn]⟩

theorem Dev.heatUp_places (d : Dev) (off : Nat) : d.SamePlaces (d.heatUp off) := by
  refine ⟨fun f => ?_, rfl, rfl, rfl⟩
  by_cases hf : f = frameOf off
  · subst hf
    simp only [Dev.heatUp, Dev.modFrame, Dev.frame, Dev.modTiers, tgetD, tget_tmod_self]
    cases tget d.tiers.frames (frameOf off) with
    | none => exact ⟨0, rfl⟩
    | some x => exact ⟨_, rfl⟩
  · rw [Dev.heatUp, Dev.frame_modFrame_ne _ _ hf]
    exact ⟨_, rfl⟩

/-! ### A request that its home takes -/

/-- The home as it takes a request up. -/
def Dev.taken (d : Dev) (m : NMsg) : Dev := (d.heatUp m.addr).served m

theorem Dev.taken_places (d : Dev) (m : NMsg) : d.SamePlaces (d.taken m) :=
  (d.heatUp_places m.addr).trans (Dev.samePlaces_of_eq rfl rfl rfl)

/-- The FWDs that a request of this node's units causes at its home. -/
def Dev.plan (d : Dev) (m : NMsg) : List (NKind × Agent) :=
  fwdPlan m.kind ((d.holders (maKey m.addr)).filter
    (fun p => !((m.kind = .rdShared || m.kind = .rdUnique || m.kind = .claimUnique) && p.1 == m.who)))

/-- The home's transaction for a request, with its FWDs sent. -/
def Dev.forwarded (d : Dev) (m : NMsg) : Dev :=
  foldDev (d.setTxn (maKey m.addr) { req := m, waits := (d.plan m).map (·.2) }) (d.plan m)
    (fun d f => d.toAgent { kind := f.1, who := f.2, addr := maLine m.addr, rq := fwdFor m })

theorem Dev.startTxn_eq {d : Dev} {m : NMsg} (hnode : ∀ n, m.who ≠ .node n) (hback : m.kind ≠ .snpBack)
    (hclaim : m.kind = .claimUnique → (d.holders (maKey m.addr)).any (fun p => p.1 == m.who) = true) :
    d.startTxn m = (d.forwarded m).tryFinish (maKey m.addr) := by
  have hm : (if m.kind = .claimUnique && !(d.holders (maKey m.addr)).any (fun p => p.1 == m.who) then
      { m with kind := .rdUnique } else m) = m := by
    by_cases hk : m.kind = .claimUnique
    · rw [if_neg (by simp only [hclaim hk, Bool.not_true, Bool.and_false]; exact Bool.false_ne_true)]
    · rw [if_neg (by simp [hk])]
  unfold Dev.startTxn Dev.startWith
  dsimp only
  rw [hm]
  have hb : (decide (m.kind = .snpBack) && (maNode m.addr).isNone) = false := by simp [hback]
  rw [hb]
  cases hwho : m.who with
  | node n => exact absurd hwho (hnode n)
  | _ =>
    simp only [Bool.false_eq_true, if_false]
    simp only [Dev.forwarded, Dev.plan, hwho]

/-- A transaction of this node's memory that waits for nothing more, with its frame at hand, ends. -/
theorem Dev.tryFinish_home {d : Dev} {key : Nat} {t : Txn} (ht : tget d.coh.txns key = some t) (hack : t.ack = false)
    (hwaits : t.waits = []) (hwbs : t.wbs = []) (hab : t.abandoned = false) (hn : maNode t.req.addr = none)
    (hgo : t.needsFrame = true → d.frameGate t.req.addr = .go d) : d.tryFinish key = d.finishHome key t := by
  unfold Dev.tryFinish
  rw [ht]
  simp only [hack, hwaits, hwbs, hab, List.isEmpty_nil, Bool.not_true, Bool.or_self, Bool.false_eq_true, if_false, hn]
  split
  next hneeds =>
    rw [hgo hneeds]
  · rfl

theorem Dev.setTxn_places (d : Dev) (key : Nat) (t : Txn) : d.SamePlaces (d.setTxn key t) := Dev.samePlaces_of_eq rfl rfl rfl

/-- A request that no holder stands in the way of is finished by its home at once. -/
theorem Dev.startTxn_free {d : Dev} {m : NMsg} (hnode : ∀ n, m.who ≠ .node n) (hback : m.kind ≠ .snpBack)
    (hclaim : m.kind = .claimUnique → (d.holders (maKey m.addr)).any (fun p => p.1 == m.who) = true) (hplan : d.plan m = [])
    (hn : maNode m.addr = none) (hgo : d.frameGate m.addr = .go d) :
    d.startTxn m = (d.setTxn (maKey m.addr) { req := m, waits := [] }).finishHome (maKey m.addr) { req := m, waits := [] } := by
  rw [Dev.startTxn_eq hnode hback hclaim, Dev.forwarded, hplan]
  exact Dev.tryFinish_home (t := { req := m, waits := [] }) (tget_tput_self _ _ _) rfl rfl rfl rfl hn
    (fun _ => (d.setTxn_places _ _).frameGate hgo)

/-- A request that one FWD stands in the way of waits for its answer. -/
theorem Dev.startTxn_one {d : Dev} {m : NMsg} {k : NKind} {g : Fin 64} (hnode : ∀ n, m.who ≠ .node n) (hback : m.kind ≠ .snpBack)
    (hclaim : m.kind ≠ .claimUnique) (hplan : d.plan m = [(k, .core g)]) :
    d.startTxn m = (d.setTxn (maKey m.addr) { req := m, waits := [.core g] }).send
      { kind := k, who := .core g, addr := maLine m.addr, rq := fwdFor m } := by
  rw [Dev.startTxn_eq hnode hback (fun h => absurd h hclaim), Dev.forwarded, hplan]
  exact Dev.tryFinish_of_waits (t := { req := m, waits := [.core g] }) (tget_tput_self _ _ _) (List.cons_ne_nil _ _)

/-- A home that takes a request starts its transaction. -/
theorem HomeTakes.admitHome {d d0 : Dev} {w : Word} {m : NMsg} (h : HomeTakes d w m d0) :
    d0.admitHome m false = (d0.taken m).startTxn m := by
  obtain ⟨-, -, hticket, -, -, hgate, hbusy, hroom, hlt, htk, hfull⟩ := h
  have htick : d0.ticketOf m = none := by rw [Dev.ticketOf, hticket]
  have hspend : d0.spendTicket m = d0 := by rw [Dev.spendTicket, hticket]
  have hfew : decide (448 ≤ (d0.coh.txns.filter (fun p => d0.sliceOf (64 * p.1) == d0.slice m.addr)).length) = false := by
    have := List.length_filter_le (fun p => d0.sliceOf (64 * p.1) == d0.slice m.addr) d0.coh.txns
    rw [decide_eq_false]
    omega
  have hfree : (d0.newTicket (d0.slice m.addr)).isNone = false := by rw [← Option.not_isSome, htk]; rfl
  unfold Dev.admitHome
  dsimp only
  rw [htick, hfree, hgate]
  dsimp only
  rw [hbusy, hfew, hlt, hfull, hspend]
  rfl

/-- The row of a request that arrives in order at its home. -/
theorem reqRow_home {d d0 : Dev} {w : Word} {m : NMsg} (haddr : d.maddr w = some m.addr) (hn : maNode m.addr = none)
    (hord : d.outOfOrder m = false)
    (harr : d.arriveMsg m (fun x => x.ticket == m.ticket && x.addr == m.addr && x.bytes == m.bytes && x.atom == m.atom) = (m, d0)) :
    reqRow d { m with addr := 0 } w = d0.admitHome m false := by
  unfold reqRow
  rw [haddr]
  dsimp only
  rw [harr]
  dsimp only
  rw [hn]
  dsimp only
  rw [hord, if_neg Bool.false_ne_true]

/-- The row of a request that its home takes. -/
theorem HomeTakes.row {d d0 : Dev} {w : Word} {m : NMsg} (h : HomeTakes d w m d0) :
    reqRow d { m with addr := 0 } w = (d0.taken m).startTxn m := by
  have hadmit := h.admitHome
  obtain ⟨haddr, hn, -, hord, harr, -⟩ := h
  exact (reqRow_home haddr hn hord harr).trans hadmit

/-- What the home finds as it takes the request: all but the messages in flight, the frame's heat and its arbiter as before. -/
theorem HomeTakes.found {d d0 : Dev} {w : Word} {m : NMsg} (h : HomeTakes d w m d0) :
    (d0.taken m).mem = d.mem ∧ (d0.taken m).poison = d.poison ∧ (d0.taken m).cores = d.cores ∧ (d0.taken m).writes = d.writes ∧
      (d0.taken m).coh.filter = d.coh.filter := by
  obtain ⟨-, -, -, -, harr, -⟩ := h
  obtain ⟨noc, rfl⟩ := Dev.arriveMsg_only harr
  exact ⟨rfl, rfl, rfl, rfl, rfl⟩

theorem HomeTakes.gate {d d0 : Dev} {w : Word} {m : NMsg} (h : HomeTakes d w m d0) :
    (d0.taken m).frameGate m.addr = .go (d0.taken m) := by
  obtain ⟨-, -, -, -, -, hgate, -⟩ := h
  exact (d0.taken_places m).frameGate hgate

/-! ### Holders -/

/-- A line without holders has none in the snoop filter. -/
theorem Dev.coreHolders_of_holders_nil {d : Dev} {key : Nat} (h : d.holders key = []) : d.coreHolders key = [] :=
  List.map_eq_nil_iff.1 (List.append_eq_nil_iff.1 h).1

theorem Dev.coreHolders_setHolder (d : Dev) (key : Nat) (h : Fin 64) (x : FSt) :
    (d.setHolder key h (some x)).coreHolders key = (d.coreHolders key).filter (fun p => p.1 != h) ++ [(h, x)] := by
  rw [Dev.coreHolders, Dev.setHolder]
  simp [Dev.modCoh]

/-- The one core that shares a line is all that the snoop filter shows. -/
theorem Dev.coreHolders_of_holders_core {d : Dev} {key : Nat} {h : Fin 64} (hh : d.holders key = [(.core h, false)]) :
    d.coreHolders key = [(h, .s)] := by
  unfold Dev.holders at hh
  dsimp only at hh
  rcases hc : d.coreHolders key with _ | ⟨⟨g, x⟩, l⟩
  · rw [hc] at hh
    cases hd : tget d.coh.dir key with
    | none => simp [hd] at hh
    | some e =>
      simp only [hd, List.map_nil, List.nil_append] at hh
      have hmem := hh ▸ List.mem_singleton_self ((Agent.core h, false) : Agent × Bool)
      simp at hmem
  · rw [hc] at hh
    simp only [List.map_cons, List.cons_append, List.cons.injEq, Prod.mk.injEq, Agent.core.injEq, List.append_eq_nil_iff,
      List.map_eq_nil_iff] at hh
    obtain ⟨⟨rfl, hx⟩, rfl, -⟩ := hh
    cases x <;> simp_all

/-! ### Requests that are answered from memory -/

section Answers
variable {d : Dev} {a : Nat} {h : Fin 64}

/-- The data of a line that memory sends to a requester. -/
def Dev.lineData (d : Dev) (who : Agent) (a : Nat) (st : Moesi) : NMsg :=
  { kind := .data, who := who, addr := maLine a, bytes := (d.memLine a).1, st := st, poison := (d.memLine a).2 }

/-- A home after the data of a line has gone to its new owner. -/
def Dev.given (d : Dev) (m : NMsg) (h : Fin 64) : Dev :=
  ((((d.setTxn (maKey m.addr) { req := m, waits := [] }).send (d.lineData (.core h) m.addr .e)).setHolder (maKey m.addr) h (some .em)).setTxn
    (maKey m.addr) { req := m, waits := [], ack := true })

theorem Dev.finishHome_rdShared (hhs : d.holders (maKey a) = []) :
    (d.setTxn (maKey a) { req := { kind := .rdShared, who := .core h, addr := a }, waits := [] }).finishHome (maKey a)
      { req := { kind := .rdShared, who := .core h, addr := a }, waits := [] } = d.given { kind := .rdShared, who := .core h, addr := a } h := by
  have hhs' : (d.setTxn (maKey a) { req := { kind := .rdShared, who := .core h, addr := a }, waits := [] }).holders (maKey a) = [] := hhs
  unfold Dev.finishHome
  dsimp only
  rw [hhs']
  rfl

theorem Dev.finishHome_rdUnique :
    (d.setTxn (maKey a) { req := { kind := .rdUnique, who := .core h, addr := a }, waits := [] }).finishHome (maKey a)
      { req := { kind := .rdUnique, who := .core h, addr := a }, waits := [] } = d.given { kind := .rdUnique, who := .core h, addr := a } h :=
  rfl

theorem Dev.memLine_congr {e : Dev} (hm : e.mem = d.mem) (hp : e.poison = d.poison) : e.memLine a = d.memLine a := by
  rw [Dev.memLine, Dev.memLine, Dev.rd, Dev.rd, Dev.isPoison, Dev.isPoison, hm, hp]

theorem Dev.answer_near {m : NMsg} (hnode : ∀ n, m.who ≠ .node n) (b : CompBody) :
    d.answer m b = d.send { m with kind := .comp, was := m.kind, body := b, bytes := [] } := by
  unfold Dev.answer
  cases hwho : m.who with
  | node n => exact absurd hwho (hnode n)
  | _ => rfl

theorem Dev.toAgent_near {m : NMsg} (hnode : ∀ n, m.who ≠ .node n) : d.toAgent m = d.send m := by
  unfold Dev.toAgent
  split
  next n hwho => exact absurd hwho (hnode n)
  · rfl

theorem Dev.finishHome_rdOnce {who : Agent} (hnode : ∀ n, who ≠ .node n) :
    (d.setTxn (maKey a) { req := { kind := .rdOnce, who := who, addr := a }, waits := [] }).finishHome (maKey a)
      { req := { kind := .rdOnce, who := who, addr := a }, waits := [] } =
    ((d.setTxn (maKey a) { req := { kind := .rdOnce, who := who, addr := a }, waits := [] }).send (d.lineData who a .i)).setTxn (maKey a)
      { req := { kind := .rdOnce, who := who, addr := a }, waits := [], ack := true } := by
  cases who with
  | node n => exact absurd rfl (hnode n)
  | _ => rfl

/-- A home that has answered a request which leaves no holder. -/
def Dev.ended (d : Dev) (m : NMsg) (b : CompBody) : Dev :=
  (d.send { m with kind := .comp, was := m.kind, body := b, bytes := [] }).dropTxn (maKey m.addr)

theorem Dev.finishHome_write {m : NMsg} (hnode : ∀ n, m.who ≠ .node n) (hk : m.kind = .wrLine ∨ m.kind = .wrPart) :
    d.finishHome (maKey m.addr) { req := m, waits := [] } = (d.doWrite m).ended m .write := by
  unfold Dev.finishHome
  dsimp only
  rcases hk with hk | hk <;> rw [hk] <;> exact congrArg (Dev.dropTxn · (maKey m.addr)) (Dev.answer_near hnode _)

theorem Dev.finishHome_atomic {m : NMsg} (hnode : ∀ n, m.who ≠ .node n) (hk : m.kind = .atomic) :
    d.finishHome (maKey m.addr) { req := m, waits := [] } = (d.doAtomic m).2.ended m (d.doAtomic m).1 := by
  unfold Dev.finishHome
  dsimp only
  rw [hk]
  exact congrArg (Dev.dropTxn · (maKey m.addr)) (Dev.answer_near hnode _)

theorem Dev.touchSys_noc {k : Nat} : (d.touchSys k).coh.noc = d.coh.noc := by
  simp only [Dev.touchSys, Dev.modCoh]
  split <;> rfl

theorem Dev.doWrite_mem (m : NMsg) : (d.doWrite m).mem = cellsPut d.mem m.addr m.bytes := by
  unfold Dev.doWrite
  dsimp only
  split <;> rfl

theorem Dev.doWrite_noc (m : NMsg) : (d.doWrite m).coh.noc = d.coh.noc := by
  unfold Dev.doWrite
  dsimp only
  split <;> exact Dev.touchSys_noc

theorem Dev.doWrite_poison (m : NMsg) :
    (d.doWrite m).poison = if m.kind = .wrLine then d.poison.filter (· != maKey m.addr) else d.poison := by
  unfold Dev.doWrite
  dsimp only
  split <;> rfl

/-- The answer of an AMO, and memory after it. -/
theorem Dev.doAtomic_amo {m : NMsg} {op : AmoOp} {v : Word} {dbl : Bool} (hm : m.atom = .amo op v dbl) :
    (d.doAtomic m).1 = .old (sext (8 * if dbl then 8 else 4) (ofLe (d.rd m.addr (if dbl then 8 else 4)))) (d.isPoison (maKey m.addr)) := by
  unfold Dev.doAtomic
  dsimp only
  rw [hm]

theorem Dev.doAtomic_mem {m : NMsg} {op : AmoOp} {v : Word} {dbl : Bool} (hm : m.atom = .amo op v dbl) :
    (d.doAtomic m).2.mem = cellsPut d.mem m.addr (leBytes (if dbl then 8 else 4) (amoVal op (if dbl then 8 else 4)
      (ofLe (d.rd m.addr (if dbl then 8 else 4))) (v.toNat % 2 ^ (8 * if dbl then 8 else 4)))) := by
  unfold Dev.doAtomic
  dsimp only
  rw [hm]
  rfl

theorem Dev.doAtomic_noc {m : NMsg} {op : AmoOp} {v : Word} {dbl : Bool} (hm : m.atom = .amo op v dbl) :
    (d.doAtomic m).2.coh.noc = d.coh.noc := by
  unfold Dev.doAtomic
  dsimp only
  rw [hm]
  exact Dev.touchSys_noc

theorem Dev.finishHome_claimUnique (hhs : d.holders (maKey a) = [(.core h, false)]) :
    (d.setTxn (maKey a) { req := { kind := .claimUnique, who := .core h, addr := a }, waits := [] }).finishHome (maKey a)
      { req := { kind := .claimUnique, who := .core h, addr := a }, waits := [] } =
    (((d.setTxn (maKey a) { req := { kind := .claimUnique, who := .core h, addr := a }, waits := [] }).send
      { kind := .comp, was := .claimUnique, who := .core h, addr := a, body := .grant .e }).setHolder (maKey a) h (some .em)).setTxn (maKey a)
      { req := { kind := .claimUnique, who := .core h, addr := a }, waits := [], ack := true } := by
  have hhs' : (d.setTxn (maKey a) { req := { kind := .claimUnique, who := .core h, addr := a }, waits := [] }).holders (maKey a) =
      [(.core h, false)] := hhs
  unfold Dev.finishHome
  dsimp only
  rw [hhs']
  simp only [List.any_cons, List.any_nil, Bool.and_false, Bool.or_false, Bool.false_eq_true, if_false]
  rfl

end Answers

theorem Dev.plan_nil {d : Dev} {m : NMsg} (h : d.holders (maKey m.addr) = []) : d.plan m = [] := by
  rw [Dev.plan, h]
  cases m.kind <;> rfl

section Request
variable {s : State} {w : Word} {d0 : Dev} {m : NMsg} {i : Instr} (ht : HomeTakes s.dev w m d0)
  (hi : exec i s = onDev s (fun d => reqRow d { m with addr := 0 } w)) (hnode : ∀ n, m.who ≠ .node n) (hback : m.kind ≠ .snpBack)
include ht hi hnode hback

/-- A request for a line that nobody holds ends at its home at once. -/
theorem HomeTakes.exec_free (hclaim : m.kind ≠ .claimUnique) (hhs : d0.holders (maKey m.addr) = []) {e : Dev}
    (hfin : ((d0.taken m).setTxn (maKey m.addr) { req := m, waits := [] }).finishHome (maKey m.addr) { req := m, waits := [] } = e) :
    exec i s = .next { s with dev := e } := by
  have hplan : (d0.taken m).plan m = [] := Dev.plan_nil hhs
  rw [exec_onDev hi ht.row, Dev.startTxn_free hnode hback (fun h => absurd h hclaim) hplan ht.2.1 ht.gate, hfin]

/-- A request for a line that one core owns has its FWD sent. -/
theorem HomeTakes.exec_one (hclaim : m.kind ≠ .claimUnique) {k : NKind} {g : Fin 64} (hplan : d0.plan m = [(k, .core g)]) :
    exec i s = .next { s with
      dev := ((d0.taken m).setTxn (maKey m.addr) { req := m, waits := [.core g] }).send
        { kind := k, who := .core g, addr := maLine m.addr, rq := fwdFor m } } := by
  have hplan' : (d0.taken m).plan m = [(k, .core g)] := hplan
  rw [exec_onDev hi ht.row, Dev.startTxn_one hnode hback hclaim hplan']

end Request

theorem Dev.given_rest (d : Dev) (m : NMsg) (h : Fin 64) :
    (d.given m h).mem = d.mem ∧ (d.given m h).cores = d.cores ∧
      (d.given m h).coh.noc = d.coh.noc ++ [d.lineData (.core h) m.addr .e] ∧
      tget (d.given m h).coh.txns (maKey m.addr) = some { req := m, waits := [], ack := true } :=
  ⟨rfl, rfl, rfl, tget_tput_self _ _ _⟩

/-- What a core finds of a line that its home has given it. -/
theorem Dev.given_holders {d : Dev} {m : NMsg} {h : Fin 64} (hhs : d.holders (maKey m.addr) = []) :
    (d.given m h).coreHolders (maKey m.addr) = [(h, .em)] := by
  have hnil := Dev.coreHolders_of_holders_nil hhs
  refine (Dev.coreHolders_setHolder _ _ _ _).trans ?_
  rw [show ((d.setTxn (maKey m.addr) { req := m, waits := [] }).send (d.lineData (.core h) m.addr .e)).coreHolders (maKey m.addr) = []
    from hnil]
  rfl

section Cases
variable {s : State} {w : Word} {d0 : Dev} {a : Nat} {h : Fin 64} {who : Agent} {bs : List Byte}

theorem HomeTakes.exec_rdShared (ht : HomeTakes s.dev w { kind := .rdShared, who := .core h, addr := a } d0)
    (hhs : d0.holders (maKey a) = []) : exec (.rdShared (.core h) w none) s = .next { s with
      dev := (d0.taken { kind := .rdShared, who := .core h, addr := a }).given { kind := .rdShared, who := .core h, addr := a } h } :=
  ht.exec_free rfl (fun n h => by cases h) (fun h => by cases h) (fun h => by cases h) hhs
    (Dev.finishHome_rdShared (d := d0.taken { kind := .rdShared, who := .core h, addr := a }) hhs)

theorem HomeTakes.exec_rdUnique (ht : HomeTakes s.dev w { kind := .rdUnique, who := .core h, addr := a } d0)
    (hhs : d0.holders (maKey a) = []) : exec (.rdUnique (.core h) w none) s = .next { s with
      dev := (d0.taken { kind := .rdUnique, who := .core h, addr := a }).given { kind := .rdUnique, who := .core h, addr := a } h } :=
  ht.exec_free rfl (fun n h => by cases h) (fun h => by cases h) (fun h => by cases h) hhs
    (Dev.finishHome_rdUnique (d := d0.taken { kind := .rdUnique, who := .core h, addr := a }))

/-- A home after the data of a line has gone to a requester that keeps no copy. -/
def Dev.shown (d : Dev) (who : Agent) (a : Nat) : Dev :=
  ((d.setTxn (maKey a) { req := { kind := .rdOnce, who := who, addr := a }, waits := [] }).send (d.lineData who a .i)).setTxn (maKey a)
    { req := { kind := .rdOnce, who := who, addr := a }, waits := [], ack := true }

theorem Dev.shown_rest (d : Dev) (who : Agent) (a : Nat) :
    (d.shown who a).mem = d.mem ∧ (d.shown who a).cores = d.cores ∧
      (d.shown who a).coh.noc = d.coh.noc ++ [d.lineData who a .i] ∧ (d.shown who a).coreHolders = d.coreHolders :=
  ⟨rfl, rfl, rfl, rfl⟩

theorem HomeTakes.exec_rdOnce (hnode : ∀ n, who ≠ .node n) (ht : HomeTakes s.dev w { kind := .rdOnce, who := who, addr := a } d0)
    (hhs : d0.holders (maKey a) = []) : exec (.rdOnce who w none) s = .next { s with
      dev := (d0.taken { kind := .rdOnce, who := who, addr := a }).shown who a } :=
  ht.exec_free rfl hnode (fun h => by cases h) (fun h => by cases h) hhs
    (Dev.finishHome_rdOnce (d := d0.taken { kind := .rdOnce, who := who, addr := a }) hnode)

/-- A home that has performed a write. -/
def Dev.written (d : Dev) (m : NMsg) : Dev :=
  ((d.setTxn (maKey m.addr) { req := m, waits := [] }).doWrite m).ended m .write

theorem HomeTakes.exec_write {m : NMsg} {i : Instr} (hnode : ∀ n, m.who ≠ .node n) (hk : m.kind = .wrLine ∨ m.kind = .wrPart)
    (ht : HomeTakes s.dev w m d0) (hi : exec i s = onDev s (fun d => reqRow d { m with addr := 0 } w))
    (hhs : d0.holders (maKey m.addr) = []) : exec i s = .next { s with dev := (d0.taken m).written m } :=
  ht.exec_free hi hnode (fun h => by rcases hk with hk | hk <;> rw [hk] at h <;> cases h)
    (fun h => by rcases hk with hk | hk <;> rw [hk] at h <;> cases h) hhs (Dev.finishHome_write hnode hk)

theorem Dev.written_mem (d : Dev) (m : NMsg) : (d.written m).mem = cellsPut d.mem m.addr m.bytes := Dev.doWrite_mem m

theorem Dev.written_poison (d : Dev) (m : NMsg) :
    (d.written m).poison = if m.kind = .wrLine then d.poison.filter (· != maKey m.addr) else d.poison := Dev.doWrite_poison m

theorem Dev.written_noc (d : Dev) (m : NMsg) :
    (d.written m).coh.noc = d.coh.noc ++ [{ m with kind := .comp, was := m.kind, body := .write, bytes := [] }] :=
  (congrArg (· ++ _) (Dev.doWrite_noc m) :)

theorem Dev.written_txns (d : Dev) (m : NMsg) : tget (d.written m).coh.txns (maKey m.addr) = none := tget_tdel_self _ _

/-- A home that has performed an Atomic. -/
def Dev.atomicked (d : Dev) (m : NMsg) : Dev :=
  ((d.setTxn (maKey m.addr) { req := m, waits := [] }).doAtomic m).2.ended m
    ((d.setTxn (maKey m.addr) { req := m, waits := [] }).doAtomic m).1

theorem HomeTakes.exec_amo {op : AtomOp} (hnode : ∀ n, who ≠ .node n)
    (ht : HomeTakes s.dev w { kind := .atomic, who := who, addr := a, atom := op } d0) (hhs : d0.holders (maKey a) = []) :
    exec (.atomic who w op none) s = .next { s with
      dev := (d0.taken { kind := .atomic, who := who, addr := a, atom := op }).atomicked
        { kind := .atomic, who := who, addr := a, atom := op } } :=
  ht.exec_free rfl hnode (fun h => by cases h) (fun h => by cases h) hhs (Dev.finishHome_atomic hnode rfl)

theorem Dev.atomicked_mem (d : Dev) {m : NMsg} {op : AmoOp} {v : Word} {dbl : Bool} (hm : m.atom = .amo op v dbl) :
    (d.atomicked m).mem = cellsPut d.mem m.addr (leBytes (if dbl then 8 else 4) (amoVal op (if dbl then 8 else 4)
      (ofLe (d.rd m.addr (if dbl then 8 else 4))) (v.toNat % 2 ^ (8 * if dbl then 8 else 4)))) := Dev.doAtomic_mem hm

theorem Dev.atomicked_noc (d : Dev) {m : NMsg} {op : AmoOp} {v : Word} {dbl : Bool} (hm : m.atom = .amo op v dbl) :
    (d.atomicked m).coh.noc = d.coh.noc ++ [{ m with
      kind := .comp, was := m.kind, bytes := []
      body := .old (sext (8 * if dbl then 8 else 4) (ofLe (d.rd m.addr (if dbl then 8 else 4)))) (d.isPoison (maKey m.addr)) }] := by
  have hans := Dev.doAtomic_amo (d := d.setTxn (maKey m.addr) { req := m, waits := [] }) hm
  have hnoc := Dev.doAtomic_noc (d := d.setTxn (maKey m.addr) { req := m, waits := [] }) hm
  rw [Dev.atomicked, hans]
  exact (congrArg (· ++ _) hnoc :)

/-- A home after the only holder of a line has been granted it. -/
def Dev.granted (d : Dev) (h : Fin 64) (a : Nat) : Dev :=
  (((d.setTxn (maKey a) { req := { kind := .claimUnique, who := .core h, addr := a }, waits := [] }).send
    { kind := .comp, was := .claimUnique, who := .core h, addr := a, body := .grant .e }).setHolder (maKey a) h (some .em)).setTxn (maKey a)
    { req := { kind := .claimUnique, who := .core h, addr := a }, waits := [], ack := true }

theorem Dev.granted_holders {d : Dev} (hhs : d.holders (maKey a) = [(.core h, false)]) :
    (d.granted h a).coreHolders (maKey a) = [(h, .em)] := by
  have hone : (((d.setTxn (maKey a) { req := { kind := .claimUnique, who := .core h, addr := a }, waits := [] }).send
      { kind := .comp, was := .claimUnique, who := .core h, addr := a, body := .grant .e }).coreHolders (maKey a)) = [(h, .s)] :=
    Dev.coreHolders_of_holders_core hhs
  refine (Dev.coreHolders_setHolder _ _ _ _).trans ?_
  rw [hone]
  simp

theorem Dev.granted_rest (d : Dev) (h : Fin 64) (a : Nat) :
    (d.granted h a).mem = d.mem ∧ (d.granted h a).cores = d.cores ∧
      (d.granted h a).coh.noc = d.coh.noc ++ [{ kind := .comp, was := .claimUnique, who := .core h, addr := a, body := .grant .e }] :=
  ⟨rfl, rfl, rfl⟩

theorem HomeTakes.exec_claim (ht : HomeTakes s.dev w { kind := .claimUnique, who := .core h, addr := a } d0)
    (hhs : d0.holders (maKey a) = [(.core h, false)]) : exec (.claimUnique (.core h) w none) s = .next { s with
      dev := (d0.taken { kind := .claimUnique, who := .core h, addr := a }).granted h a } := by
  have hrow := ht.row
  have hgate := ht.gate
  have hn := ht.2.1
  refine exec_onDev (f := fun d => reqRow d { kind := .claimUnique, who := .core h, addr := 0, ticket := none } w) rfl (hrow.trans ?_)
  have hhs' : (d0.taken { kind := .claimUnique, who := .core h, addr := a }).holders (maKey a) = [(.core h, false)] := hhs
  generalize d0.taken { kind := .claimUnique, who := .core h, addr := a } = d at hgate hhs' ⊢
  have hplan : d.plan { kind := .claimUnique, who := .core h, addr := a } = [] := by
    rw [Dev.plan, hhs']
    simp [fwdPlan]
  rw [Dev.startTxn_free (fun n h => by cases h) (fun h => by cases h) (fun _ => by rw [hhs']; simp) hplan hn hgate]
  exact Dev.finishHome_claimUnique hhs'

end Cases

/-- What the command of a core's read does at a home where nobody holds the line. -/
theorem HomeTakes.gives {s : State} {w : Word} {d0 : Dev} {m : NMsg} {h : Fin 64} {i : Instr} (ht : HomeTakes s.dev w m d0)
    (hwho : m.who = .core h) (hhs : d0.holders (maKey m.addr) = [])
    (hexec : exec i s = .next { s with dev := (d0.taken m).given m h }) :
    ∃ d, exec i s = .next { s with dev := d } ∧
      d.coh.noc = d0.coh.noc ++ [{ kind := .data, who := m.who, addr := maLine m.addr, bytes := (s.dev.memLine m.addr).1, st := .e,
                                    poison := (s.dev.memLine m.addr).2 }] ∧
      d.coreHolders (maKey m.addr) = [(h, .em)] ∧ tget d.coh.txns (maKey m.addr) = some { req := m, waits := [], ack := true } ∧
      d.mem = s.dev.mem ∧ d.cores = s.dev.cores := by
  obtain ⟨hmem, hpoi, hcores, -, -⟩ := ht.found
  rw [← Dev.memLine_congr hmem hpoi, hwho]
  obtain ⟨hm, hc, hnoc, htxn⟩ := Dev.given_rest (d0.taken m) m h
  exact ⟨_, hexec, hnoc, Dev.given_holders hhs, htxn, hm.trans hmem, hc.trans hcores⟩

/-- Settles O26: each request as its home takes it, with no other holder of the line. -/
theorem homesServeUnheldLines : Obligations.HomesServeUnheldLines := by
  intro s w d0 m ht
  dsimp only
  obtain ⟨hmem, hpoi, hcores, -, -⟩ := ht.found
  refine ⟨fun hhs => ⟨fun h hm => ?rdShared, fun h hm => ?rdUnique, fun hnode hm => ?rdOnce, fun hnode hm hlen hal => ?wrLine,
    fun hnode hm hlen => ?wrPart, fun op v dbl hnode hm => ?amo⟩, fun h hm hhs => ?claim⟩
  case rdShared =>
    have hexec := HomeTakes.exec_rdShared (hm ▸ ht) hhs
    rw [← hm] at hexec
    exact ht.gives (congrArg NMsg.who hm) hhs hexec
  case rdUnique =>
    have hexec := HomeTakes.exec_rdUnique (hm ▸ ht) hhs
    rw [← hm] at hexec
    exact ht.gives (congrArg NMsg.who hm) hhs hexec
  case rdOnce =>
    rw [← Dev.memLine_congr hmem hpoi]
    have hexec := HomeTakes.exec_rdOnce hnode (hm ▸ ht) hhs
    rw [← hm] at hexec
    obtain ⟨hm, hc, hnoc, hhold⟩ := Dev.shown_rest (d0.taken m) m.who m.addr
    refine ⟨_, hexec, hnoc, ?_, hm.trans hmem, hc.trans hcores⟩
    rw [hhold]
    exact Dev.coreHolders_of_holders_nil hhs
  case wrLine =>
    have hk : m.kind = .wrLine := congrArg NMsg.kind hm
    have hrow : exec (.wrLine m.who w m.bytes none) s = onDev s (fun d => reqRow d { m with addr := 0 } w) := by
      change onDev s _ = _
      rw [onDev_eq, onDev_eq, if_pos (by simp [hlen, hal]), hm]
    refine ⟨_, ht.exec_write hnode (.inl hk) hrow hhs, ?_, ?_, Dev.written_noc _ _, Dev.written_txns _ _⟩
    · rw [Dev.written_mem, hmem]
    · rw [Dev.isPoison, Dev.written_poison, if_pos hk]
      simp
  case wrPart =>
    have hk : m.kind = .wrPart := congrArg NMsg.kind hm
    have hrow : exec (.wrPart m.who w m.bytes none) s = onDev s (fun d => reqRow d { m with addr := 0 } w) := by
      change onDev s _ = _
      rw [onDev_eq, onDev_eq, if_pos hlen, hm]
    refine ⟨_, ht.exec_write hnode (.inr hk) hrow hhs, ?_, ?_, Dev.written_noc _ _, Dev.written_txns _ _⟩
    · rw [Dev.written_mem, hmem]
    · rw [Dev.written_poison, if_neg (by rw [hk]; exact fun h => by cases h), hpoi]
  case amo =>
    have hrd : ∀ n, (d0.taken m).rd m.addr n = s.dev.rd m.addr n := fun n => by rw [Dev.rd, Dev.rd, hmem]
    have hpsn : (d0.taken m).isPoison (maKey m.addr) = s.dev.isPoison (maKey m.addr) := by rw [Dev.isPoison, Dev.isPoison, hpoi]
    rw [← hrd, ← hpsn, ← hmem]
    obtain ⟨a, who, rfl⟩ : ∃ a who, m = { kind := .atomic, who := who, addr := a, atom := .amo op v dbl } := ⟨_, _, hm⟩
    exact ⟨_, ht.exec_amo hnode hhs, Dev.atomicked_mem _ rfl, Dev.atomicked_noc _ rfl⟩
  case claim =>
    have hexec := HomeTakes.exec_claim (hm ▸ ht) hhs
    rw [← hm] at hexec
    obtain ⟨hmem', hc, hnoc⟩ := Dev.granted_rest (d0.taken m) h m.addr
    have hmsg : { m with kind := .comp, was := m.kind, body := .grant .e, bytes := [] } =
        ({ kind := .comp, was := .claimUnique, who := .core h, addr := m.addr, body := .grant .e } : NMsg) := by rw [hm]
    rw [hmsg]
    exact ⟨_, hexec, hnoc, Dev.granted_holders hhs, hmem'.trans hmem, hc.trans hcores⟩

end Sys2Proof.Machine

/-!
Homes that forward a request to the owner of its line, and requests that they refuse (R264, Table 8.6).
-/
namespace Sys2Proof.Machine

/-- A home whose FWD to the owner of a line is on its way. -/
def Dev.sentFwd (d : Dev) (m : NMsg) (k : NKind) (g : Fin 64) (rq : Option Agent) : Dev :=
  (d.setTxn (maKey m.addr) { req := m, waits := [.core g] }).send { kind := k, who := .core g, addr := maLine m.addr, rq := rq }

theorem Dev.sentFwd_rest (d : Dev) (m : NMsg) (k : NKind) (g : Fin 64) (rq : Option Agent) :
    (d.sentFwd m k g rq).mem = d.mem ∧ (d.sentFwd m k g rq).cores = d.cores ∧ (d.sentFwd m k g rq).writes = d.writes ∧
      (d.sentFwd m k g rq).coh.filter = d.coh.filter ∧
      (d.sentFwd m k g rq).coh.noc = d.coh.noc ++ [{ kind := k, who := .core g, addr := maLine m.addr, rq := rq }] ∧
      tget (d.sentFwd m k g rq).coh.txns (maKey m.addr) = some { req := m, waits := [.core g] } :=
  ⟨rfl, rfl, rfl, rfl, rfl, tget_tput_self _ _ _⟩

/-- The one FWD that a request causes for a line that another core owns. -/
theorem Dev.plan_owner {d : Dev} {m : NMsg} {g : Fin 64} (hg : m.who ≠ .core g) (hhs : d.holders (maKey m.addr) = [(.core g, true)]) :
    d.plan m = fwdPlan m.kind [(.core g, true)] := by
  rw [Dev.plan, hhs, List.filter_cons_of_pos]
  · rfl
  · have hne : (Agent.core g == m.who) = false := by simpa using Ne.symm hg
    rw [hne, Bool.and_false]
    rfl

/-- A request whose one FWD goes to the owner of its line. -/
theorem HomeTakes.forwards {s : State} {w : Word} {d0 : Dev} {m : NMsg} {i : Instr} {k : NKind} {g : Fin 64}
    (ht : HomeTakes s.dev w m d0) (hi : exec i s = onDev s (fun d => reqRow d { m with addr := 0 } w))
    (hnode : ∀ n, m.who ≠ .node n) (hg : m.who ≠ .core g) (hhs : d0.holders (maKey m.addr) = [(.core g, true)])
    {q : NKind} (hk : m.kind = q) (hq : q ≠ .snpBack ∧ q ≠ .claimUnique) (hplan : fwdPlan q [(.core g, true)] = [(k, .core g)]) :
    ∃ d, exec i s = .next { s with dev := d } ∧
      d.coh.noc = d0.coh.noc ++ [{ kind := k, who := .core g, addr := maLine m.addr, rq := fwdFor m }] ∧
      tget d.coh.txns (maKey m.addr) = some { req := m, waits := [.core g] } ∧
      d.coreHolders (maKey m.addr) = s.dev.coreHolders (maKey m.addr) ∧ d.mem = s.dev.mem ∧ d.cores = s.dev.cores ∧
      d.writes = s.dev.writes := by
  obtain ⟨hmem, -, hcores, hwrites, hfilter⟩ := ht.found
  subst hk
  have hexec := ht.exec_one hi hnode hq.1 hq.2 ((Dev.plan_owner hg hhs).trans hplan)
  obtain ⟨hm, hc, hw, hf, hnoc, htxn⟩ := (d0.taken m).sentFwd_rest m k g (fwdFor m)
  refine ⟨_, hexec, hnoc, htxn, ?_, hm.trans hmem, hc.trans hcores, hw.trans hwrites⟩
  exact congrArg (fun f => tgetD f (maKey m.addr) []) (hf.trans hfilter)

/-- A new request for a line with a transaction is refused with a free ticket. -/
theorem Dev.admitHome_refuses {d : Dev} {m : NMsg} {t : BitVec 10} (hticket : m.ticket = none) (hfar : farWrite m = false)
    (hn : maNode m.addr = none) (hnode : ∀ n, m.who ≠ .node n) (hgate : d.frameGate m.addr = .go d)
    (hbusy : d.busyLine (maKey m.addr) = true) (hnew : d.newTicket (d.slice m.addr) = some t) :
    d.admitHome m false = (d.modCoh (fun c => { c with
      tickets := c.tickets ++ [{ slice := d.slice m.addr, id := t, line := maKey m.addr, who := m.who }] })).send
        { m with kind := .retry, was := m.kind, ticket := some t } := by
  have htick : d.ticketOf m = none := by rw [Dev.ticketOf, hticket]
  have hslice : d.sliceOf m.addr = d.slice m.addr := by rw [Dev.sliceOf, hn]
  have hrefuse : d.refuseReq m = some ((d.modCoh (fun c => { c with
      tickets := c.tickets ++ [{ slice := d.slice m.addr, id := t, line := maKey m.addr, who := m.who }] })).send
        { m with kind := .retry, was := m.kind, ticket := some t }) := by
    unfold Dev.refuseReq
    dsimp only
    rw [hslice]
    rw [hnew]
    dsimp only
    rw [Dev.toAgent_near (m := { m with kind := .retry, was := m.kind, ticket := some t }) hnode]
  unfold Dev.admitHome
  dsimp only
  rw [htick, hnew, hgate]
  dsimp only
  rw [hbusy, hfar, hrefuse]
  rfl

/-- Settles O27: the one FWD of each request, and the refusal of a request for a line with a transaction. -/
theorem homesForwardToTheOwner : Obligations.HomesForwardToTheOwner := by
  intro s w d0 m g hnode hg
  dsimp only
  refine ⟨fun ht hhs => ⟨fun hm => ?rdShared, fun hm => ?rdUnique, fun hm => ?rdOnce, fun op hm => ?atomic, fun hm hlen => ?wrPart,
    fun hm hlen hal => ?wrLine⟩, fun t hm hw hn harr hgate hbusy hnew => ?refused⟩
  case rdShared =>
    have hrow : exec (.rdShared m.who w none) s = onDev s (fun d => reqRow d { m with addr := 0 } w) := by rw [hm]; rfl
    have hfor : fwdFor m = some m.who := by rw [hm]; rfl
    rw [← hfor]
    exact ht.forwards (q := .rdShared) hrow hnode hg hhs (congrArg NMsg.kind hm) (by decide) rfl
  case rdUnique =>
    have hrow : exec (.rdUnique m.who w none) s = onDev s (fun d => reqRow d { m with addr := 0 } w) := by rw [hm]; rfl
    have hfor : fwdFor m = some m.who := by rw [hm]; rfl
    rw [← hfor]
    exact ht.forwards (q := .rdUnique) hrow hnode hg hhs (congrArg NMsg.kind hm) (by decide) rfl
  case rdOnce =>
    have hrow : exec (.rdOnce m.who w none) s = onDev s (fun d => reqRow d { m with addr := 0 } w) := by rw [hm]; rfl
    have hfor : fwdFor m = some m.who := by rw [hm]; rfl
    rw [← hfor]
    exact ht.forwards (q := .rdOnce) hrow hnode hg hhs (congrArg NMsg.kind hm) (by decide) rfl
  case atomic =>
    have hrow : exec (.atomic m.who w op none) s = onDev s (fun d => reqRow d { m with addr := 0 } w) := by rw [hm]; rfl
    have hfor : fwdFor m = none := by rw [hm]; rfl
    rw [← hfor]
    exact ht.forwards (q := .atomic) hrow hnode hg hhs (congrArg NMsg.kind hm) (by decide) rfl
  case wrPart =>
    have hrow : exec (.wrPart m.who w m.bytes none) s = onDev s (fun d => reqRow d { m with addr := 0 } w) := by
      change onDev s _ = _
      rw [onDev_eq, onDev_eq, if_pos hlen, hm]
    have hfor : fwdFor m = none := by rw [hm]; rfl
    rw [← hfor]
    exact ht.forwards (q := .wrPart) hrow hnode hg hhs (congrArg NMsg.kind hm) (by decide) rfl
  case wrLine =>
    have hrow : exec (.wrLine m.who w m.bytes none) s = onDev s (fun d => reqRow d { m with addr := 0 } w) := by
      change onDev s _ = _
      rw [onDev_eq, onDev_eq, if_pos (by simp [hlen, hal]), hm]
    have hfor : fwdFor m = none := by rw [hm]; rfl
    rw [← hfor]
    exact ht.forwards (q := .wrLine) hrow hnode hg hhs (congrArg NMsg.kind hm) (by decide) rfl
  case refused =>
    have hrow : exec (.rdShared m.who w none) s = onDev s (fun d => reqRow d { m with addr := 0 } w) := by rw [hm]; rfl
    have hwr : isWr m = false := by rw [hm]; rfl
    have hadmit := Dev.admitHome_refuses (d := d0) (m := m) (by rw [hm]) (by rw [hm]; rfl) hn hnode hgate hbusy hnew
    have hticket : m.ticket = none := by rw [hm]
    have hbytes : m.bytes = [] := by rw [hm]
    have hord : s.dev.outOfOrder m = false := by rw [Dev.outOfOrder, hwr]; rfl
    have hreq := reqRow_home (d := s.dev) (d0 := d0) hw hn hord (by rw [hticket, hbytes]; exact harr)
    obtain ⟨noc, rfl⟩ := Dev.arriveMsg_only harr
    exact ⟨_, exec_onDev hrow (hreq.trans hadmit), by rw [congrArg NMsg.kind hm]; rfl, rfl, rfl, rfl⟩

end Sys2Proof.Machine

/-!
Holders that answer FWDs: cores by Tables 8.7 and 8.8, and a proxy whose node has no copy (R270, R276).
-/
namespace Sys2Proof.Machine

theorem maKey_maLine (a : Nat) : maKey (maLine a) = maKey a := by
  unfold maKey maLine
  omega

theorem maLine_maLine (a : Nat) : maLine (maLine a) = maLine a := by
  unfold maLine
  omega

theorem maNode_maLine (a : Nat) : maNode (maLine a) = maNode a := by
  unfold maNode maLine
  split <;> split
  · rfl
  · omega
  · omega
  · congr 2
    omega

/-! ### FWDs at a core -/

section Fwd
variable {d : Dev} {h : Fin 64} {a : Nat} {q : Agent} {l : CLine} {k : NKind}

/-- The FWD of a line's home to a core, on behalf of a requester. -/
def fwdMsg (k : NKind) (h : Fin 64) (a : Nat) (q : Agent) : NMsg := { kind := k, who := .core h, addr := maLine a, rq := some q }

/-- What a core keeps of a line after a FWD. -/
def Core.kept (c : Core) (key : Nat) (l : CLine) : Option CSt → Core
  | some st => if st = .imD then (c.l1Drop key).setLine key { l with st := st } else c.setLine key { l with st := st }
  | none => c.delLine key

/-- The data that a core supplies on a FWD. -/
def CLine.supplied (l : CLine) (q : Agent) (a : Nat) (st : Moesi) (dirty : Bool) : NMsg :=
  { kind := .data, who := q, addr := maLine a, bytes := l.data, st := st, dirty := dirty, poison := l.poison, fresh := l.fresh }

/-- The answer of a core to a FWD. -/
def CLine.acks (l : CLine) (h : Fin 64) (a : Nat) (r : SnpDo) : NMsg :=
  { kind := .snpAck, who := .core h, addr := maLine a, dirty := r.data && r.dirty, wbSent := r.wbSent, poison := r.data && l.poison,
    supplied := r.data, fresh := r.data && l.fresh }

/-- A core that holds a line, and neither a reservation nor an access that waits, answers a FWD at once. -/
theorem Dev.coreFwd_held (hline : tget (d.core h).lines (maKey a) = some l) (hresv : (d.core h).resv = none)
    (hhold : (d.core h).resvHold ≠ some (maKey a / 2)) (hwaits : d.fwdWaits h (maKey a) = false) (hq : ∀ n, q ≠ .node n) :
    d.coreFwd h (fwdMsg k h a q) =
      if (snpDo k l.st).data then
        ((d.setCore h ((d.core h).kept (maKey a) l (snpDo k l.st).keep)).send
          (l.supplied q a (snpGrant k (snpDo k l.st).dirty) (snpDo k l.st).dirty)).send (l.acks h a (snpDo k l.st))
      else (d.setCore h ((d.core h).kept (maKey a) l (snpDo k l.st).keep)).send (l.acks h a (snpDo k l.st)) := by
  unfold Dev.coreFwd fwdMsg
  dsimp only
  rw [maKey_maLine, hwaits, if_neg (by simpa using hhold), thas, hline]
  simp only [Option.isSome_some, Option.getD_some, if_true, hresv, reduceCtorEq, decide_false, Bool.and_false, Bool.false_eq_true, if_false]
  obtain ⟨keep, data, dirty, wbSent⟩ := snpDo k l.st
  cases keep with
  | none =>
    cases data with
    | false => rfl
    | true => exact congrArg (Dev.send · _) (Dev.toAgent_near hq)
  | some st =>
    cases data with
    | false => rfl
    | true => exact congrArg (Dev.send · _) (Dev.toAgent_near hq)

end Fwd

/-- The row of a FWD that arrives at a core. -/
theorem snpRow_core {d d0 : Dev} {w : Word} {a : Nat} {h : Fin 64} {k : NKind} {m : NMsg} (ha : d.maddr w = some a)
    (harr : d.arriveMsg { kind := k, who := .core h, addr := maLine a } (fun _ => true) = (m, d0)) :
    snpRow d k (.core h) w = d0.coreFwd h m := by
  unfold snpRow
  rw [ha]
  dsimp only
  rw [harr]

/-- A core after its answer to a FWD, with what it keeps of the line. -/
def Dev.snooped (d : Dev) (h : Fin 64) (key : Nat) (l : CLine) (keep : Option CSt) (ms : List NMsg) : Dev :=
  (d.setCore h ((d.core h).kept key l keep)).modCoh (fun c => { c with noc := c.noc ++ ms })

theorem Dev.snooped_line {d : Dev} {h : Fin 64} {key : Nat} {l : CLine} {keep : Option CSt} (ms : List NMsg) :
    tget ((d.snooped h key l keep ms).core h).lines key = keep.map (fun st => { l with st := st }) := by
  have hcore : (d.snooped h key l keep ms).core h = (d.core h).kept key l keep := tgetD_tput_self _ _ _ _
  rw [hcore]
  cases keep with
  | none => exact tget_tdel_self _ _
  | some st =>
    simp only [Core.kept]
    split <;> exact tget_tput_self _ _ _

section Cases
variable {s : State} {d0 : Dev} {a : Nat} {w : Word} {h : Fin 64} {q : Agent} {l : CLine} {k : NKind} {i : Instr}
  (ha : s.dev.maddr w = some a) (hq : ∀ n, q ≠ .node n) (hline : tget (s.dev.core h).lines (maKey a) = some l)
  (hresv : (s.dev.core h).resv = none) (hhold : (s.dev.core h).resvHold ≠ some (maKey a / 2))
  (hwaits : d0.fwdWaits h (maKey a) = false)
  (hcame : s.dev.arriveMsg { kind := k, who := .core h, addr := maLine a } (fun _ => true) = (fwdMsg k h a q, d0))
  (hi : exec i s = onDev s (fun d => snpRow d k (.core h) w))
include ha hq hline hresv hhold hwaits hcame hi

/-- A core that supplies a line's data on a FWD. -/
theorem exec_fwd_data {keep : Option CSt} {dirty : Bool} (hdo : snpDo k l.st = ⟨keep, true, dirty, false⟩) :
    ∃ d, exec i s = .next { s with dev := d } ∧
      d.coh.noc = d0.coh.noc ++ [l.supplied q a (snpGrant k dirty) dirty, l.acks h a ⟨keep, true, dirty, false⟩] ∧
      tget (d.core h).lines (maKey a) = keep.map (fun st => { l with st := st }) ∧ d.mem = s.dev.mem := by
  obtain ⟨noc, rfl⟩ := Dev.arriveMsg_only hcame
  have hfwd := Dev.coreFwd_held (k := k) (d := s.dev.modCoh (fun c => { c with noc := noc })) hline hresv hhold hwaits hq
  rw [hdo] at hfwd
  refine ⟨_, exec_onDev hi ((snpRow_core ha hcame).trans hfwd), List.append_assoc _ [_] [_], Dev.snooped_line [], rfl⟩

/-- A core that only gives a line up on a FWD. -/
theorem exec_fwd_ack {keep : Option CSt} (hdo : snpDo k l.st = ⟨keep, false, false, false⟩) :
    ∃ d, exec i s = .next { s with dev := d } ∧ d.coh.noc = d0.coh.noc ++ [l.acks h a ⟨keep, false, false, false⟩] ∧
      tget (d.core h).lines (maKey a) = keep.map (fun st => { l with st := st }) ∧ d.mem = s.dev.mem := by
  obtain ⟨noc, rfl⟩ := Dev.arriveMsg_only hcame
  have hfwd := Dev.coreFwd_held (k := k) (d := s.dev.modCoh (fun c => { c with noc := noc })) hline hresv hhold hwaits hq
  rw [hdo] at hfwd
  exact ⟨_, exec_onDev hi ((snpRow_core ha hcame).trans hfwd), rfl, Dev.snooped_line [], rfl⟩

end Cases

/-- A core that holds the line for its LR delays the FWD. -/
theorem Dev.coreFwd_delayed {d : Dev} {h : Fin 64} {m : NMsg} (hhold : (d.core h).resvHold = some (maKey m.addr / 2)) :
    d.coreFwd h m = d.send m := by
  unfold Dev.coreFwd
  dsimp only
  rw [if_pos (by simp [hhold])]

/-! ### A SnpBack at a proxy whose node has no copy (R255, R270) -/

/-- The end of a line's transaction gives it no holder. -/
theorem Dev.dropTxn_holders {d : Dev} {key : Nat} (hhs : d.holders key = []) : (d.dropTxn key).holders key = [] := by
  obtain ⟨hcores, hnodes⟩ := List.append_eq_nil_iff.1 hhs
  refine List.append_eq_nil_iff.2 ⟨hcores, ?_⟩
  simp only [Dev.dropTxn, Dev.modCoh]
  cases hd : tget d.coh.dir key with
  | none => simp only [hd]
  | some e =>
    rw [hd] at hnodes
    dsimp only at hnodes ⊢
    split
    next e' he' =>
      split at he'
      · rw [tget_tdel_self] at he'
        cases he'
      · rw [hd] at he'
        cases he'
        exact hnodes
    · rfl

/-- The proxy's transaction for a SnpBack. -/
def backTxn (a n : Nat) : Txn := { req := { kind := .snpBack, who := .node (Fin.ofNat 64 n), addr := maLine a }, waits := [] }

/-- A proxy that has given a line back, before its answer leaves. -/
def Dev.gaveBack (d : Dev) (key : Nat) (t : Txn) : Dev :=
  (((d.dropTxn key).setTxn key t).dropTxn key).modProxy key (fun l => { l with mode := none })

/-- A proxy's answer to a SnpBack for which it has collected nothing. -/
theorem Dev.respond_back (d : Dev) {a n : Nat} (hn : maNode a = some n) :
    ((d.dropTxn (maKey a)).modProxy (maKey a) (fun l => { l with mode := none })).Sends (d.respond (maKey a) (backTxn a n)) := by
  have hgo : ∀ (e : Dev) (m : NMsg), maNode m.addr = some n → e.Sends (e.toHome m) := by
    intro e m hm
    rw [Dev.toHome, hm]
    exact e.chainMsg_sends _ _
  unfold Dev.respond backTxn
  simp only [reduceCtorEq, decide_false, Bool.false_and, Bool.and_false, Bool.or_self, Bool.not_false,
    Bool.true_and, List.isEmpty_nil, Bool.not_true, Bool.false_eq_true, if_true, if_false]
  exact hgo _ _ (by rw [maNode_maLine, maNode_maLine, hn])

/-- A proxy without a copy gives the line back at once. -/
theorem Dev.proxyFwd_snpBack {d : Dev} {a n : Nat} (hn : maNode a = some n) (hhold : (d.proxyLine (maKey a)).hold = false)
    (hbusy : d.busyLine (maKey a) = false) (hhs : d.holders (maKey a) = []) :
    (d.gaveBack (maKey a) (backTxn a n)).Sends (d.proxyFwd { kind := .snpBack, who := .proxy, addr := maLine a }) := by
  have htxn : tget d.coh.txns (maKey a) = none := by simpa [Dev.busyLine, thas] using hbusy
  have hdrop := Dev.dropTxn_holders hhs
  have hstart : d.proxyFwd { kind := .snpBack, who := .proxy, addr := maLine a } =
      ((d.dropTxn (maKey a)).setTxn (maKey a) (backTxn a n)).tryFinish (maKey a) := by
    unfold Dev.proxyFwd
    dsimp only
    rw [maKey_maLine, htxn, hhold, if_neg (by simp)]
    unfold Dev.startWith
    dsimp only
    rw [maKey_maLine, hdrop]
    simp only [maNode_maLine, hn, reduceCtorEq, decide_false, Bool.false_and, Bool.or_self, Bool.false_eq_true, if_false, List.filter_nil,
      Option.isNone_some, Bool.and_false]
    rfl
  have hfinish : ((d.dropTxn (maKey a)).setTxn (maKey a) (backTxn a n)).tryFinish (maKey a) =
      ((d.dropTxn (maKey a)).setTxn (maKey a) (backTxn a n)).respond (maKey a) (backTxn a n) := by
    unfold Dev.tryFinish
    rw [show tget ((d.dropTxn (maKey a)).setTxn (maKey a) (backTxn a n)).coh.txns (maKey a) = some (backTxn a n) from
      tget_tput_self _ _ _]
    dsimp only [backTxn]
    rw [maNode_maLine, hn]
    rfl
  rw [hstart, hfinish]
  exact Dev.respond_back _ hn

theorem Dev.proxyLine_modProxy (d : Dev) (key : Nat) (f : ProxyLine → ProxyLine) :
    (d.modProxy key f).proxyLine key = f (d.proxyLine key) := by
  unfold Dev.modProxy
  dsimp only
  generalize f (d.proxyLine key) = x
  by_cases hx : x = {}
  · subst hx
    simp only [Dev.proxyLine, Dev.modCoh, if_true, tgetD, tget_tdel_self, Option.getD_none]
  · simp only [Dev.proxyLine, Dev.modCoh, if_neg hx, tgetD, tget_tput_self, Option.getD_some]

theorem Dev.gaveBack_proxyLine (d : Dev) (key : Nat) (t : Txn) :
    (d.gaveBack key t).proxyLine key = { d.proxyLine key with mode := none } :=
  Dev.proxyLine_modProxy _ _ _

theorem Dev.gaveBack_busyLine (d : Dev) (key : Nat) (t : Txn) : (d.gaveBack key t).busyLine key = false :=
  congrArg Option.isSome (tget_tdel_self _ key)

/-- Settles O28: a core's answers by Tables 8.7 and 8.8, its delay for an LR, and a proxy's answer to SnpBack. -/
theorem holdersAnswerForwards : Obligations.HoldersAnswerForwards := by
  intro s a w d0 ha
  refine ⟨fun h q l hq hline hn hresv hhold hwaits => ?core, fun h m hhold harr hm => ?delay, fun n hn hhold hbusy hhs hnone harr => ?back⟩
  case core =>
    refine ⟨fun hst hcame => ?shared, fun hst hcame => ?unique, fun hst hcame => ?once, fun hst hcame => ?inv⟩
    case shared =>
      exact exec_fwd_data (i := .snpShared (.core h) w) ha hq hline hresv hhold hwaits hcame rfl (by rw [hst]; rfl)
    case unique =>
      exact exec_fwd_data (i := .snpUnique (.core h) w) ha hq hline hresv hhold hwaits hcame rfl (by rw [hst]; rfl)
    case once =>
      have hfwd := exec_fwd_data (i := .snpOnce (.core h) w) ha hq hline hresv hhold hwaits hcame rfl (by rw [hst]; rfl)
      rw [← hst] at hfwd
      exact hfwd
    case inv =>
      exact exec_fwd_ack (i := .snpInv (.core h) w) ha hq hline hresv hhold hwaits hcame rfl (by rw [hst]; rfl)
  case delay =>
    have hrow := snpRow_core ha harr
    obtain ⟨noc, rfl⟩ := Dev.arriveMsg_only harr
    have hdelay : (s.dev.modCoh (fun c => { c with noc := noc })).coreFwd h m = (s.dev.modCoh (fun c => { c with noc := noc })).send m :=
      Dev.coreFwd_delayed (by rw [hm, maKey_maLine]; exact hhold)
    exact ⟨(s.dev.modCoh (fun c => { c with noc := noc })).send m, exec_onDev (f := fun d => snpRow d .snpUnique (.core h) w) rfl (hrow.trans hdelay),
      rfl, rfl⟩
  case back =>
    have hrow : snpRow s.dev .snpBack .proxy w = d0.proxyFwd { kind := .snpBack, who := .proxy, addr := maLine a } := by
      unfold snpRow
      rw [ha]
      dsimp only
      rw [harr, hn]
    obtain ⟨hproxy, hholders, hfree0, hcores, hmem⟩ : d0.proxyLine = s.dev.proxyLine ∧ d0.holders = s.dev.holders ∧
        d0.busyLine = s.dev.busyLine ∧ d0.cores = s.dev.cores ∧ d0.mem = s.dev.mem := by
      obtain ⟨noc, rfl⟩ := Dev.arriveMsg_only harr
      exact ⟨rfl, rfl, rfl, rfl, rfl⟩
    rw [← hproxy] at hhold ⊢
    have hback := Dev.proxyFwd_snpBack hn hhold (by rw [hfree0]; exact hbusy) (by rw [hholders]; exact hhs)
    have hline := Dev.gaveBack_proxyLine d0 (maKey a) (backTxn a n)
    have hfree := Dev.gaveBack_busyLine d0 (maKey a) (backTxn a n)
    rw [Dev.proxyLine, ← hback.coh] at hline
    rw [Dev.busyLine, ← hback.coh] at hfree
    exact ⟨_, exec_onDev (f := fun d => snpRow d .snpBack .proxy w) rfl hrow, hline, hfree, hback.asks.cores.trans hcores,
      hback.mem.trans hmem⟩

end Sys2Proof.Machine

/-!
Answers at their agents: the accesses that a core performs when its line comes, and what O29 says of acknowledgements (R260 to R265, R274).
-/
namespace Sys2Proof.Machine

/-! ### Bytes of a line in a core -/

theorem lgetD_eq_getElem {α : Type} : ∀ {l : List α} {i : Nat} (h : i < l.length) (z : α), lgetD l i z = l[i]
  | _ :: _, 0, _, _ => rfl
  | _ :: t, _ + 1, h, z => lgetD_eq_getElem (l := t) (Nat.lt_of_succ_lt_succ h) z

section Lines
variable {c : Core} {key : Nat} {l : CLine}

/-- The bytes that a core reads of one line. -/
theorem Core.bytesAt_line (hl : tget c.lines key = some l) (hlen : l.data.length = 64) :
    ∀ {n a : Nat}, a / 64 = key → a % 64 + n ≤ 64 → c.bytesAt a n = (l.data.drop (a % 64)).take n
  | 0, _, _, _ => by simp [Core.bytesAt]
  | 1, a, ha, hn => by
    have hi : a % 64 < l.data.length := by omega
    rw [Core.bytesAt, Core.bytesAt, Core.byteAt, ha, hl, List.drop_eq_getElem_cons hi, List.take_succ_cons, List.take_zero]
    dsimp only
    rw [lgetD_eq_getElem hi]
  | n + 2, a, ha, hn => by
    have hi : a % 64 < l.data.length := by omega
    have hmod : (a + 1) % 64 = a % 64 + 1 := by omega
    rw [Core.bytesAt, Core.bytesAt_line hl hlen (by omega) (by omega), Core.byteAt, ha, hl, List.drop_eq_getElem_cons hi, hmod,
      List.take_succ_cons]
    dsimp only
    rw [lgetD_eq_getElem hi]

/-- One access waits at a core, and it waits at a line. -/
theorem Core.waitAcc_of_accs {x : CAcc} (hl : tget c.lines key = some l) (hacc : l.acc = [x]) (haccs : c.accs = [x]) :
    c.waitAcc = [] := by
  have hx : x ∈ c.lines.flatMap (fun p => p.2.acc) := List.mem_flatMap.2 ⟨_, mem_of_tget hl, by simp [hacc]⟩
  have hlen := congrArg List.length haccs
  rw [Core.accs, List.length_append] at hlen
  have hpos := List.length_pos_of_mem hx
  refine List.eq_nil_of_length_eq_zero ?_
  rw [List.length_singleton] at hlen
  omega

/-- Accesses that store nothing change no byte that their hart reads. -/
theorem Core.ownByte_of_noStore (h : ∀ x ∈ c.accs, x.storeAt = none) (a : Nat) (b : Byte) : c.ownByte a b = b := by
  unfold Core.ownByte
  generalize c.accs = xs at h
  induction xs with
  | nil => rfl
  | cons x xs ih =>
    have hx := h x (by simp)
    have hrest := ih fun y hy => h y (by simp [hy])
    cases x with
    | load _ _ _ _ _ _ => exact hrest
    | lr _ _ _ => exact hrest
    | store _ _ => cases hx
    | zero _ => cases hx
    | amo _ _ _ _ => cases hx

end Lines

section Reads
variable {d : Dev} {h : Fin 64}

theorem OutW.of_core {x : OutW} (hx : x.src ≠ .core h) : x.of (.core h) 0 = false := by
  unfold OutW.of sameSource
  split
  · simp_all
  · simp_all
  · exact beq_false_of_ne hx

/-- A hart with no write outstanding reads bytes as they are. -/
theorem Dev.overlay_core (hw : ∀ x ∈ d.writes, x.src ≠ .core h) (a : Nat) (bs : List Byte) : d.overlay (.core h) a bs = bs := by
  have hown : ∀ (ad : Nat) (b : Byte), d.ownByte (.core h) ad b = b := by
    intro ad b
    unfold Dev.ownByte
    generalize d.writes = ws at hw
    induction ws with
    | nil => rfl
    | cons x xs ih =>
      rw [List.foldl_cons, OutW.of_core (hw x (by simp))]
      exact ih fun y hy => hw y (by simp [hy])
  simp only [Dev.overlay, hown]
  exact List.zipIdx_map_fst 0 bs

theorem Dev.coreBytes_idle (hw : ∀ x ∈ d.writes, x.src ≠ .core h)
    (hacc : ∀ x ∈ (d.core h).accs, x.storeAt = none) (a n : Nat) :
    d.coreBytes h a n = (d.core h).bytesAt a n := by
  rw [Dev.coreBytes, Dev.overlay_core hw]
  simp only [Core.ownByte_of_noStore hacc]
  exact List.zipIdx_map_fst 0 _

/-- The only load of a hart retires as it has its value. -/
theorem Dev.loadDone_only {rd : Fin 32} {sq : Nat} (hl : (d.core h).loads = [{ seq := sq, rd := rd }]) (v : Word) :
    d.loadDone h sq v = d.modCore h (fun c => { c.wx rd v with loads := [] }) := by
  unfold Dev.loadDone
  have hone : ((d.modCore h (fun c => { c with loads := c.loads.map (fun l => if l.seq = sq then { l with val := some v } else l) })).core h).loads =
      [{ seq := sq, rd := rd, val := some v }] := by simp [hl]
  rw [Dev.retireCore, hone]
  simp only [List.length_cons, List.length_nil, retireLoads, hone]
  rw [Dev.modCore_modCore]
  refine Dev.modCore_congr ?_
  by_cases hrd : rd.val = 0
  · simp [Core.wx, hrd]
  · simp [Core.wx, hrd]

theorem Dev.retryAccs_nil (hw : (d.core h).waitAcc = []) : d.retryAccs h = d := by
  unfold Dev.retryAccs
  rw [hw]
  rfl

end Reads

/-! ### Data for a waiting load -/

section Data
variable {d : Dev} {h : Fin 64} {key ad sq : Nat} {wl : Fin 4} {sg : Bool} {rd : Fin 32} {l : CLine}

/-- The value that a load takes from the bytes of its line. -/
def lineValue (wl : Fin 4) (sg : Bool) (bs : List Byte) : Word :=
  if sg then sext (8 * 2 ^ wl.val) (ofLe bs) else BitVec.ofNat 64 (ofLe bs)

/-- A load within a line that is there is performed. -/
theorem Dev.coreTry_hit (had : ad / 64 = key) (hfit : ad % 64 + 2 ^ wl.val ≤ 64) (hl : tget (d.core h).lines key = some l)
    (hst : lineOk false l.st = true) (hpsn : l.poison = false) (hloads : (d.core h).loads = [{ seq := sq, rd := rd }]) :
    d.coreTry h (.load ad wl sg false sq []) = d.modCore h
      (fun c => { (c.l1Touch false key).wx rd (lineValue wl sg (d.coreBytes h ad (2 ^ wl.val))) with loads := [] }) := by
  have hpos : 0 < 2 ^ wl.val := Nat.two_pow_pos _
  have hend : (ad + 2 ^ wl.val - 1) / 64 = ad / 64 := by omega
  have hready : (d.core h).lineReady false (ad / 64) = true := by rw [Core.lineReady, had, hl]; exact hst
  have hclean : (d.core h).poisonAt ad (2 ^ wl.val) = false := by
    simp [Core.poisonAt, hend, had, hl, hpsn]
  unfold Dev.coreTry
  dsimp only [accAddr, accAlone]
  rw [if_pos (by simp; omega)]
  unfold Dev.coreOne
  simp only [accLines, hend, if_true, accAlone, hready, List.find?_cons, List.find?_nil, Bool.not_true]
  unfold Dev.perform
  simp only [List.length_nil, Nat.add_zero, Nat.sub_zero, hclean, Bool.false_eq_true, if_false, List.nil_append]
  rw [Dev.loadDone_only (rd := rd) (by rw [Dev.core_modCore_self]; exact hloads), Dev.modCore_modCore, had]
  rfl

/-- A load within a line that is there, of a hart without stores, is performed on the bytes of the line. -/
theorem Dev.coreTry_load (had : ad / 64 = key) (hfit : ad % 64 + 2 ^ wl.val ≤ 64) (hl : tget (d.core h).lines key = some l)
    (hst : lineOk false l.st = true) (hlen : l.data.length = 64) (hpsn : l.poison = false) (hw : ∀ x ∈ d.writes, x.src ≠ .core h)
    (hacc : ∀ x ∈ (d.core h).accs, x.storeAt = none)
    (hloads : (d.core h).loads = [{ seq := sq, rd := rd }]) :
    d.coreTry h (.load ad wl sg false sq []) = d.modCore h
      (fun c => { (c.l1Touch false key).wx rd (lineValue wl sg ((l.data.drop (ad % 64)).take (2 ^ wl.val))) with loads := [] }) := by
  have hbytes : d.coreBytes h ad (2 ^ wl.val) = (l.data.drop (ad % 64)).take (2 ^ wl.val) :=
    (Dev.coreBytes_idle hw hacc _ _).trans (Core.bytesAt_line hl hlen had hfit)
  rw [Dev.coreTry_hit had hfit hl hst hpsn hloads, hbytes]

theorem Core.mem_accs_setLine {c : Core} {x : CAcc} (hx : x ∈ (c.setLine key l).accs) : x ∈ l.acc ∨ x ∈ c.accs := by
  rcases List.mem_append.1 hx with hx | hx
  · obtain ⟨p, hp, hxp⟩ := List.mem_flatMap.1 hx
    rcases mem_tput hp with rfl | hp
    · exact .inl hxp
    · exact .inr (List.mem_append_left _ (List.mem_flatMap.2 ⟨p, hp, hxp⟩))
  · exact .inr (List.mem_append_right _ hx)

/-- A core as its load takes its value from the line that has come. -/
def Core.filled (c : Core) (key : Nat) (l : CLine) (rd : Fin 32) (v : Word) : Core :=
  { ((c.setLine key l).l1Touch false key).wx rd v with loads := [] }

theorem Core.wx_lines (c : Core) (rd : Fin 32) (v : Word) : (c.wx rd v).lines = c.lines := by
  unfold Core.wx
  split <;> rfl

theorem Core.wx_waitAcc (c : Core) (rd : Fin 32) (v : Word) : (c.wx rd v).waitAcc = c.waitAcc := by
  unfold Core.wx
  split <;> rfl

theorem Core.filled_line (c : Core) (v : Word) : tget (c.filled key l rd v).lines key = some l :=
  (congrArg (tget · key) (Core.wx_lines _ _ _)).trans (tget_tput_self _ _ _)

theorem Core.filled_rx (c : Core) (v : Word) : (c.filled key l rd v).rx rd = if rd.val = 0 then 0 else v :=
  Core.rx_wx_self _ _ _

theorem Core.filled_waitAcc (c : Core) (v : Word) : (c.filled key l rd v).waitAcc = c.waitAcc := Core.wx_waitAcc _ _ _

theorem lineOk_cstOf (st : Moesi) : lineOk false (cstOf st) = true := by cases st <;> rfl

/-- The line that a load waits for comes: the load is performed, and its hart acknowledges the data. -/
theorem Dev.lineCame_load {st : Moesi} (had : ad / 64 = key) (hfit : ad % 64 + 2 ^ wl.val ≤ 64)
    (hacc : l.acc = [.load ad wl sg false sq []]) (hlen : l.data.length = 64) (hpsn : l.poison = false)
    (hw : ∀ x ∈ d.writes, x.src ≠ .core h) (haccs : (d.core h).accs = [.load ad wl sg false sq []]) (hwait : (d.core h).waitAcc = [])
    (hloads : (d.core h).loads = [{ seq := sq, rd := rd }]) :
    d.lineCame h key l (cstOf st) = (d.modCore h (fun c => c.filled key { l with st := cstOf st, acc := [] } rd
      (lineValue wl sg ((l.data.drop (ad % 64)).take (2 ^ wl.val))))).send { kind := .compAck, who := .core h, addr := 64 * key } := by
  have hcore : (d.modCore h (fun c => c.setLine key { l with st := cstOf st, acc := [] })).core h =
      (d.core h).setLine key { l with st := cstOf st, acc := [] } := Dev.core_modCore_self _ _ _
  have htry := Dev.coreTry_load (l := { l with st := cstOf st, acc := [] }) (d := d.modCore h (fun c => c.setLine key { l with st := cstOf st, acc := [] })) (sg := sg) had hfit
    (by rw [hcore]; exact tget_tput_self _ _ _) (lineOk_cstOf st) hlen hpsn hw (fun x hx => by
      rw [hcore] at hx
      rcases Core.mem_accs_setLine hx with hx | hx
      · simp at hx
      · rw [haccs, List.mem_singleton] at hx
        rw [hx]
        rfl) (by rw [hcore]; exact hloads)
  unfold Dev.lineCame
  dsimp only
  rw [hacc]
  simp only [foldDev, List.foldl_cons, List.foldl_nil]
  rw [htry, Dev.modCore_modCore, Dev.retryAccs_nil]
  · rfl
  · rw [Dev.core_modCore_self]
    exact (Core.filled_waitAcc _ _).trans hwait

/-- Data for a core that waits for a line and has no uncached load out. -/
theorem Dev.coreData_line {m : NMsg} (honces : (d.core h).onces = []) (hl : tget (d.core h).lines (maKey m.addr) = some l)
    (hst : l.st = .isD) :
    d.coreData h m = d.lineCame h (maKey m.addr) { l with data := m.bytes, poison := m.poison, fresh := m.fresh } (cstOf m.st) := by
  have honce : (d.core h).onceFor (maKey m.addr) = none := by rw [Core.onceFor, honces]; rfl
  unfold Dev.coreData
  dsimp only
  rw [honce, hl]
  cases m.st <;> simp only [hst]

end Data

/-! ### A grant for a waiting store -/

section Grant
variable {d : Dev} {h : Fin 64} {key ad : Nat} {l : CLine} {bs : List Byte}

theorem lset_eq_set {α : Type} : ∀ (l : List α) (i : Nat) (x : α), lset l i x = l.set i x
  | [], _, _ => rfl
  | _ :: _, 0, _ => rfl
  | _ :: t, i + 1, x => congrArg _ (lset_eq_set t i x)

theorem putAt_nil (l : List Byte) (i : Nat) : putAt l i [] = l := by simp [putAt]

/-- Bytes put one after the other. -/
theorem putAt_cons {l : List Byte} {i : Nat} (hi : i < l.length) (b : Byte) (t : List Byte) :
    putAt (lset l i b) (i + 1) t = putAt l i (b :: t) := by
  have htake : (l.set i b).take (i + 1) = l.take i ++ [b] := by
    rw [List.set_eq_take_append_cons_drop, if_pos hi, List.take_append]
    have hlen : (l.take i).length = i := List.length_take_of_le (by omega)
    rw [hlen, List.take_of_length_le (by omega)]
    simp
  have hdrop : (l.set i b).drop (i + 1 + t.length) = l.drop (i + (b :: t).length) := by
    rw [List.drop_set_of_lt (by omega), List.length_cons]
    congr 1
    omega
  rw [putAt, putAt, lset_eq_set, htake, hdrop]
  simp

/-- Bytes of a core's store change its line as a whole. -/
theorem Core.putBytes_line : ∀ {bs : List Byte} {c : Core} {l : CLine} {ad : Nat}, tget c.lines key = some l → l.data.length = 64 →
    ad / 64 = key → ad % 64 + bs.length ≤ 64 → (l.st = .m ∨ bs ≠ []) →
    tget (c.putBytes ad bs).lines key = some { l with st := .m, data := putAt l.data (ad % 64) bs }
  | [], c, l, ad, hl, _, _, _, hst => by
    have hm : l.st = .m := hst.resolve_right (fun h => h rfl)
    rw [Core.putBytes, hl, putAt_nil, ← hm]
  | b :: t, c, l, ad, hl, hlen, had, hfit, _ => by
    rw [List.length_cons] at hfit
    have hone : tget (tmod c.lines (ad / 64) (fun l => { l with st := .m, data := lset l.data (ad % 64) b })) key =
        some { l with st := .m, data := lset l.data (ad % 64) b } := by rw [had, tget_tmod_self, hl]; rfl
    have hlen' : (lset l.data (ad % 64) b).length = 64 := by rw [lset_eq_set, List.length_set, hlen]
    have hput := putAt_cons (l := l.data) (i := ad % 64) (by omega) b t
    rw [Core.putBytes]
    cases t with
    | nil =>
      rw [putAt_nil] at hput
      rw [Core.putBytes, ← hput]
      exact hone
    | cons b' t' =>
      rw [List.length_cons] at hfit
      have hmod : (ad + 1) % 64 = ad % 64 + 1 := by omega
      rw [← hput, ← hmod]
      exact Core.putBytes_line (bs := b' :: t') (l := { l with st := .m, data := lset l.data (ad % 64) b }) hone hlen' (by omega) (by rw [List.length_cons]; omega) (.inl rfl)

theorem Core.putBytes_waitAcc : ∀ (bs : List Byte) (c : Core) (ad : Nat), (c.putBytes ad bs).waitAcc = c.waitAcc
  | [], _, _ => rfl
  | _ :: t, _, ad => Core.putBytes_waitAcc t _ (ad + 1)

/-- A store within a line that its core holds alone is performed. -/
theorem Dev.coreTry_store (had : ad / 64 = key) (hfit : ad % 64 + bs.length ≤ 64) (hne : bs ≠ [])
    (hl : tget (d.core h).lines key = some l) (hst : lineOk true l.st = true) :
    d.coreTry h (.store ad bs) = d.perform h (.store ad bs) := by
  have hpos := List.length_pos_of_ne_nil hne
  have hend : (ad + bs.length - 1) / 64 = ad / 64 := by omega
  have hready : (d.core h).lineReady true (ad / 64) = true := by rw [Core.lineReady, had, hl]; exact hst
  unfold Dev.coreTry
  dsimp only [accAddr, accAlone]
  rw [if_pos (by simp; omega)]
  unfold Dev.coreOne
  simp only [accLines, hend, if_true, accAlone, hready, List.find?_cons, List.find?_nil, Bool.not_true]

theorem Dev.perform_store (d : Dev) (h : Fin 64) (ad : Nat) (bs : List Byte) :
    (d.perform h (.store ad bs)).core h = ((d.core h).putBytes ad bs).l1Touch false (ad / 64) ∧
      (d.perform h (.store ad bs)).coh.noc = d.coh.noc ∧ (d.perform h (.store ad bs)).mem = d.mem := by
  have hcore : (d.setCore h (((d.core h).putBytes ad bs).l1Touch false (ad / 64))).core h =
      ((d.core h).putBytes ad bs).l1Touch false (ad / 64) := tgetD_tput_self _ _ _ _
  unfold Dev.perform
  dsimp only
  split
  · exact ⟨hcore, rfl, rfl⟩
  · exact ⟨hcore, rfl, rfl⟩

/-- The grant that a store waits for comes: the store is performed, and its hart acknowledges the grant. -/
theorem Dev.lineCame_store (had : ad / 64 = key) (hfit : ad % 64 + bs.length ≤ 64) (hne : bs ≠ []) (hacc : l.acc = [.store ad bs])
    (hlen : l.data.length = 64) (hwait : (d.core h).waitAcc = []) :
    tget ((d.lineCame h key l .e).core h).lines key = some { l with st := .m, data := putAt l.data (ad % 64) bs, acc := [] } ∧
      (d.lineCame h key l .e).coh.noc = d.coh.noc ++ [{ kind := .compAck, who := .core h, addr := 64 * key }] ∧
      (d.lineCame h key l .e).mem = d.mem := by
  have hcore : (d.modCore h (fun c => c.setLine key { l with st := .e, acc := [] })).core h =
      (d.core h).setLine key { l with st := .e, acc := [] } := Dev.core_modCore_self _ _ _
  have hline : tget ((d.modCore h (fun c => c.setLine key { l with st := .e, acc := [] })).core h).lines key =
      some { l with st := .e, acc := [] } := by rw [hcore]; exact tget_tput_self _ _ _
  have htry := Dev.coreTry_store had hfit hne hline rfl
  have hput := Core.putBytes_line (bs := bs) hline hlen had hfit (.inr hne)
  have hwait' : ((d.modCore h (fun c => c.setLine key { l with st := .e, acc := [] })).core h).waitAcc = [] := by rw [hcore]; exact hwait
  have hsame : (d.modCore h (fun c => c.setLine key { l with st := .e, acc := [] })).coh = d.coh ∧
      (d.modCore h (fun c => c.setLine key { l with st := .e, acc := [] })).mem = d.mem := ⟨rfl, rfl⟩
  unfold Dev.lineCame
  dsimp only
  rw [hacc]
  simp only [foldDev, List.foldl_cons, List.foldl_nil]
  rw [htry]
  generalize d.modCore h (fun c => c.setLine key { l with st := .e, acc := [] }) = e at hput hwait' hsame ⊢
  obtain ⟨hc, hnoc, hmem⟩ := e.perform_store h ad bs
  rw [Dev.retryAccs_nil]
  · refine ⟨?_, ?_, hmem.trans hsame.2⟩
    · change tget ((e.perform h (.store ad bs)).core h).lines key = _
      rw [hc]
      exact hput
    · change (e.perform h (.store ad bs)).coh.noc ++ _ = _
      rw [hnoc, hsame.1]
  · rw [hc]
    exact (Core.putBytes_waitAcc _ _ _).trans hwait'

end Grant

/-! ### Engines that go on after an acknowledgement -/

theorem Dev.modEng_noRelease {d : Dev} (hn : NoRelease d) (e : Fin 128) {f : Engine → Engine} (hf : (f (d.eng e)).run = .running) :
    NoRelease (d.modEng e f) := by
  intro g sc k
  by_cases hg : g = e
  · rw [hg, Dev.eng_modEng_self, hf]
    exact nofun
  · rw [Dev.eng_modEng_ne _ _ hg]
    exact hn g sc k

theorem Dev.settleEng_noRelease {d : Dev} (hn : NoRelease d) (e : Fin 128) : NoRelease (d.settleEng e) := by
  unfold Dev.settleEng
  dsimp only
  cases hr : (d.eng e).run
  case release sc k => exact absurd hr (hn e sc k)
  case await t =>
    cases (d.eng e).step with
    | none => exact hn
    | some n =>
      dsimp only
      split
      · exact Dev.modEng_noRelease hn e rfl
      · exact hn
  case twait =>
    dsimp only
    split
    · exact Dev.modEng_noRelease hn e rfl
    · exact hn
  case vfence =>
    dsimp only
    split
    · exact Dev.modEng_noRelease hn e rfl
    · exact hn
  all_goals exact hn

/-- What engines that go on without a release leave as it was. -/
structure Dev.WentOn (d e : Dev) : Prop where
  writes : e.writes = d.writes
  mem : e.mem = d.mem
  coh : e.coh = d.coh
  reads : e.host.reads = d.host.reads
  noRelease : NoRelease e

theorem Dev.signal_wentOn {d : Dev} (hn : NoRelease d) (b : Word) : d.WentOn (d.signal b) := by
  have hreads : (d.signal b).host.reads = d.host.reads := by
    unfold Dev.signal
    dsimp only
    split <;> split <;> rfl
  have honly := d.signal_only b
  refine ⟨(congrArg Dev.writes honly :), (congrArg Dev.mem honly :), (congrArg Dev.coh honly :), hreads, fun g sc k => ?_⟩
  rw [Dev.eng, show (d.signal b).engines = d.engines from (congrArg Dev.engines honly :)]
  exact hn g sc k

theorem Dev.WentOn.trans {d e f : Dev} (h : d.WentOn e) (k : e.WentOn f) : d.WentOn f :=
  ⟨k.writes.trans h.writes, k.mem.trans h.mem, k.coh.trans h.coh, k.reads.trans h.reads, k.noRelease⟩

/-- Where no engine waits for a release, engines go on without a write. -/
theorem Dev.settle_wentOn {d : Dev} (hn : NoRelease d) : d.WentOn d.settle := by
  have hirq : d.WentOn d.flushIrqs := by
    unfold Dev.flushIrqs
    split
    · exact ⟨rfl, rfl, rfl, rfl, hn⟩
    · exact foldDev_keeps (f := Dev.signal) (fun e => d.WentOn e) (fun e b he => he.trans (Dev.signal_wentOn he.noRelease b)) _
        ⟨rfl, rfl, rfl, rfl, hn⟩
  have hfold : d.WentOn (foldDev d.flushIrqs allEngines Dev.settleEng) := by
    refine foldDev_keeps (f := Dev.settleEng) (fun e => d.WentOn e) (fun e g he => ?_) _ hirq
    have hkept := Dev.settleEng_noRelease he.noRelease g
    obtain ⟨x, hx⟩ := Dev.settleEng_only (he.noRelease g)
    rw [hx] at hkept ⊢
    exact he.trans ⟨rfl, rfl, rfl, rfl, hkept⟩
  obtain ⟨hw, hm, hc, hr, hrel⟩ := hfold
  unfold Dev.settle
  dsimp only
  generalize foldDev d.flushIrqs allEngines Dev.settleEng = e at hw hm hc hr hrel
  exact ⟨hw, hm, hc, hr, hrel⟩

end Sys2Proof.Machine

/-!
The answers of O29: acknowledgements at a home, and the commands of Data, Comp, Retry and RedAck at their agents.
-/
namespace Sys2Proof.Machine

/-! ### SnpAck and CompAck at a home (R260, R263) -/

section Acks
variable {d : Dev} {a : Nat} {g r : Fin 64} {q : NMsg}

/-- The SnpAck of an owner that has supplied a dirty line. -/
def suppliedAck (g : Fin 64) (a : Nat) : NMsg :=
  { kind := .snpAck, who := .core g, addr := maLine a, dirty := true, supplied := true }

/-- The home of a line after its owner has supplied it to a reader. -/
def Dev.shared (d : Dev) (key : Nat) (g r : Fin 64) (q : NMsg) : Dev :=
  ((((d.setHolder key g (some .o)).setTxn key { req := q, waits := [], dirty := true, supplied := true }).setHolder key r
    (some .s)).setTxn key { req := q, waits := [], supplied := true, ack := true })

/-- A RdShared whose data an owner has supplied ends with two sharers. -/
theorem Dev.finishHome_supplied {key : Nat} (hk : q.kind = .rdShared) (hwho : q.who = .core r) :
    d.finishHome key { req := q, waits := [], dirty := true, supplied := true } =
      (d.setHolder key r (some .s)).setTxn key { req := q, waits := [], supplied := true, ack := true } := by
  unfold Dev.finishHome
  dsimp only
  rw [hk, hwho]
  simp only [Bool.true_or, if_true]
  rfl

theorem Dev.snpAcked_rdShared (hn : maNode a = none) (hk : q.kind = .rdShared) (hwho : q.who = .core r) (hq : q.addr = maLine a)
    (ht : tget d.coh.txns (maKey a) = some { req := q, waits := [.core g] }) (hh : d.coreHolders (maKey a) = [(g, .em)]) :
    d.snpAcked (suppliedAck g a) = (d.shared (maKey a) g r q).retryHeld := by
  have hheld : (d.holders (maKey a)).any (fun p => p.1 == .core g) = true := by simp [Dev.holders, hh]
  unfold Dev.snpAcked suppliedAck
  dsimp only
  rw [maKey_maLine, ht]
  dsimp only
  rw [if_neg (by simp), hheld, maNode_maLine, hn, hk]
  simp only [Bool.false_and, Bool.and_false, Bool.not_true, Bool.or_self, Bool.false_eq_true, if_false, if_true,
    Option.isSome_none, Bool.not_false, List.length_nil, decide_false, Bool.true_or, Bool.or_true, Nat.reduceEqDiff, Dev.shareHolder]
  refine congrArg Dev.retryHeld ?_
  rw [show removeFirst (fun x => x == Agent.core g) [Agent.core g] = [] by simp [removeFirst]]
  rw [Dev.tryFinish_home (tget_tput_self _ _ _) rfl rfl rfl rfl (by rw [hq, maNode_maLine, hn])
    (by simp [Txn.needsFrame, hk])]
  exact Dev.finishHome_supplied hk hwho

theorem Dev.coreHolders_setTxn (d : Dev) (key : Nat) (t : Txn) : (d.setTxn key t).coreHolders = d.coreHolders := rfl

theorem Dev.shared_holders (hgr : g ≠ r) (hh : d.coreHolders (maKey a) = [(g, .em)]) :
    (d.shared (maKey a) g r q).coreHolders (maKey a) = [(g, .o), (r, .s)] := by
  rw [Dev.shared, Dev.coreHolders_setTxn, Dev.coreHolders_setHolder, Dev.coreHolders_setTxn, Dev.coreHolders_setHolder, hh]
  simp [hgr]

theorem Dev.setTxn_noc (d : Dev) (key : Nat) (t : Txn) : (d.setTxn key t).coh.noc = d.coh.noc := rfl
theorem Dev.setHolder_noc (d : Dev) (key : Nat) (h : Fin 64) (x : Option FSt) : (d.setHolder key h x).coh.noc = d.coh.noc := rfl
theorem Dev.core_send (d : Dev) (m : NMsg) (h : Fin 64) : (d.send m).core h = d.core h := rfl

theorem Dev.shared_rest (d : Dev) (key : Nat) (g r : Fin 64) (q : NMsg) :
    tget (d.shared key g r q).coh.txns key = some { req := q, waits := [], supplied := true, ack := true } ∧
      (d.shared key g r q).coh.noc = d.coh.noc ∧ (d.shared key g r q).mem = d.mem :=
  ⟨tget_tput_self _ _ _, by simp only [Dev.shared, Dev.setTxn_noc, Dev.setHolder_noc],
    by simp only [Dev.shared, Dev.setTxn_mem, Dev.setHolder_mem]⟩

/-- A home whose one new transaction awaits its CompAck has nothing to take up. -/
theorem Dev.shared_noneHeld (hnone : NoneHeld d) : NoneHeld (d.shared (maKey a) g r q) := by
  obtain ⟨hheld, hred, htxns⟩ := hnone
  refine ⟨hheld, hred, fun p hp => ?_⟩
  have hp' : p ∈ tput d.coh.txns (maKey a) { req := q, waits := [], supplied := true, ack := true } := by
    rw [← tput_tput_self]
    exact hp
  rcases mem_tput hp' with rfl | hp
  · exact .inl rfl
  · exact htxns p hp

/-- A CompAck ends the transaction that awaits it. -/
theorem Dev.compAcked_ends {m : NMsg} {t : Txn} (hn : maNode m.addr = none) (ht : tget d.coh.txns (maKey m.addr) = some t)
    (hack : t.ack = true) (hwb : t.wb = false) (hwho : t.req.who = m.who) :
    d.compAcked m = (d.dropTxn (maKey m.addr)).retryHeld := by
  unfold Dev.compAcked
  dsimp only
  rw [ht]
  dsimp only
  rw [hwho, hack, hn, if_neg (by simp), Dev.endAck, hwb]
  rfl

theorem Dev.dropTxn_noneHeld {key : Nat} (hnone : NoneHeld d) : NoneHeld (d.dropTxn key) := by
  obtain ⟨hheld, hred, htxns⟩ := hnone
  exact ⟨hheld, hred, fun p hp => htxns p (List.mem_of_mem_filter hp)⟩

end Acks

/-! ### The commands -/

section Commands
variable {s : State} {a : Nat} {w : Word} {d0 : Dev}

theorem Dev.rowAddr_of_maddr {d : Dev} (ha : d.maddr w = some a) : d.rowAddr w = a := by rw [Dev.rowAddr, ha]; rfl

theorem exec_snpAck {who : Agent} {dirty wb : Bool} {m : NMsg} (ha : s.dev.maddr w = some a)
    (harr : s.dev.arriveMsg { kind := .snpAck, who := who, addr := maLine a, dirty := dirty, wbSent := wb } (fun _ => true) = (m, d0)) :
    exec (.snpAck who w dirty wb) s = .next { s with dev := d0.snpAcked m } := by
  change execSnpAck who w dirty wb s = _
  rw [execSnpAck, onDev_eq, ha]
  dsimp only
  rw [harr]

theorem exec_compAck {who : Agent} {m : NMsg} (ha : s.dev.maddr w = some a)
    (harr : s.dev.arriveMsg { kind := .compAck, who := who, addr := maLine a } (fun _ => true) = (m, d0)) :
    exec (.compAck who w) s = .next { s with dev := d0.compAcked m } := by
  change execCompAck who w s = _
  rw [execCompAck, onDev_eq, ha]
  dsimp only
  rw [harr]

theorem exec_data_core {h : Fin 64} {bs : List Byte} {st : Moesi} {m : NMsg} (ha : s.dev.maddr w = some a)
    (harr : s.dev.arriveMsg { kind := .data, who := .core h, addr := maLine a, bytes := bs, st := st } (fun _ => true) = (m, d0)) :
    exec (.data (.core h) w bs st false) s = .next { s with dev := d0.coreData h m } := by
  change execData (.core h) w bs st false s = _
  rw [execData, onDev_eq, ha]
  dsimp only
  rw [harr]

theorem exec_comp {who : Agent} {body : CompBody} {m : NMsg} (ha : s.dev.maddr w = some a)
    (harr : s.dev.arriveMsg { kind := .comp, who := who, addr := a, body := body } (fun x => x.body == body) = (m, d0)) :
    exec (.comp who w body) s = .next { s with dev := compRow d0 m } := by
  change execComp who w body s = _
  rw [execComp, onDev_eq, Dev.rowAddr_of_maddr ha]
  dsimp only
  rw [harr]

theorem exec_retry {who : Agent} {t : BitVec 10} {m : NMsg} (ha : s.dev.maddr w = some a)
    (harr : s.dev.arriveMsg { kind := .retry, who := who, addr := a, ticket := some t } (fun x => x.ticket == some t) = (m, d0)) :
    exec (.retry who w t) s = .next { s with dev := d0.resend m } := by
  change execRetry who w t s = _
  rw [execRetry, onDev_eq, Dev.rowAddr_of_maddr ha]
  dsimp only
  rw [harr]

/-- RedAck takes its reduction off the writes, and engines that it lets go on do so. -/
theorem exec_redAck {e : Fin 128} {c : Fin 4} {m : NMsg} (ha : s.dev.maddr w = some a)
    (harr : s.dev.arriveMsg { kind := .redAck, who := .tongs e c, addr := a } (fun _ => true) = (m, d0)) (hpsn : m.poison = false) :
    exec (.redAck e c w false) s = .next { s with
      dev := (d0.ackWrite (fun w => w.src == .tongs e c && w.done && w.red.isSome && w.addr / 64 == ownAddr m.addr / 64)).settle } := by
  change execRedAck e c w false s = _
  rw [execRedAck, onDev_eq, Dev.rowAddr_of_maddr ha]
  dsimp only
  rw [harr]
  dsimp only
  rw [hpsn, if_neg Bool.false_ne_true]

end Commands

theorem compRow_core (d : Dev) (h : Fin 64) (m : NMsg) (hm : m.who = .core h) : compRow d m = d.coreComp h m := by
  unfold compRow
  rw [hm]

/-- A grant for a core's claim. -/
theorem Dev.coreComp_grant {d : Dev} {h : Fin 64} {m : NMsg} {l : CLine} (hwas : m.was ≠ .wrPart ∧ m.was ≠ .wrLine)
    (hbody : m.body = .grant .e) (hl : tget (d.core h).lines (maKey m.addr) = some l) (hst : l.st = .smD) :
    d.coreComp h m = d.lineCame h (maKey m.addr) l .e := by
  unfold Dev.coreComp
  dsimp only
  rw [if_neg (by simp [hwas]), hbody]
  dsimp only
  rw [hl]
  dsimp only
  rw [if_pos (by simp [hst])]
  rfl

/-- A refused request of a core goes out again with its ticket. -/
theorem Dev.resend_core {d : Dev} {h : Fin 64} {m : NMsg} (hwho : m.who = .core h) (hwas : m.was = .rdUnique) :
    d.resend m = d.send { m with kind := .rdUnique, was := .retry } := by
  unfold Dev.resend
  rw [hwho, hwas, if_neg (by simp), if_pos (by decide)]

/-- Settles O29: each answer at the agent that it reaches. -/
theorem answersReachTheirAgents : Obligations.AnswersReachTheirAgents := by
  intro s a w d0 ha hn
  dsimp only
  refine ⟨fun g r q hgr hnone hk hwho hq ht hh harr => ?snpAck, fun r t hnone ht hack hwb hwho harr => ?compAck,
    fun h rd ad sq wl sg bs st old had hfit hlen hw hl haccs hloads honces harr => ?data,
    fun h ad bs l0 wk hp hwl had hfit hne hlen hl hwait harr => ?grant, fun e rd x v wk hrun harr => ?amo,
    fun h t m hwho hkind hwas harr => ?retry, fun e c x ws hrel hws hsrc hheld hdone hred haddr harr => ?redAck⟩
  case snpAck =>
    have hexec := exec_snpAck ha harr
    obtain ⟨noc, rfl⟩ := Dev.arriveMsg_only harr
    have hend := Dev.snpAcked_rdShared (d := s.dev.modCoh (fun c => { c with noc := noc })) hn hk hwho hq ht hh
    rw [Dev.retryHeld_of_noneHeld (Dev.shared_noneHeld (d := s.dev.modCoh (fun c => { c with noc := noc })) hnone)] at hend
    rw [suppliedAck] at hend
    rw [hend] at hexec
    exact ⟨_, hexec, Dev.shared_holders hgr hh, Dev.shared_rest _ _ _ _ _⟩
  case compAck =>
    have hexec := exec_compAck ha harr
    obtain ⟨noc, rfl⟩ := Dev.arriveMsg_only harr
    have hend := Dev.compAcked_ends (d := s.dev.modCoh (fun c => { c with noc := noc }))
      (m := { kind := .compAck, who := r, addr := maLine a }) ((maNode_maLine a).trans hn) (by rw [maKey_maLine]; exact ht) hack hwb hwho
    rw [maKey_maLine, Dev.retryHeld_of_noneHeld (Dev.dropTxn_noneHeld (d := s.dev.modCoh (fun c => { c with noc := noc })) hnone)] at hend
    rw [hend] at hexec
    exact ⟨_, hexec, tget_tdel_self _ _, fun k hk => tget_tdel_ne _ hk, rfl, rfl⟩
  case data =>
    have hexec := exec_data_core ha harr
    obtain ⟨noc, rfl⟩ := Dev.arriveMsg_only harr
    have hwait := Core.waitAcc_of_accs hl rfl haccs
    have hdata := Dev.coreData_line (d := s.dev.modCoh (fun c => { c with noc := noc }))
      (m := { kind := .data, who := .core h, addr := maLine a, bytes := bs, st := st }) honces (by rw [maKey_maLine]; exact hl) rfl
    rw [maKey_maLine] at hdata
    have hcame := Dev.lineCame_load (d := s.dev.modCoh (fun c => { c with noc := noc })) (st := st)
      (l := { st := .isD, data := bs, acc := [.load ad wl sg false sq []] }) had hfit rfl hlen rfl hw haccs hwait hloads
    rw [hdata.trans hcame] at hexec
    refine ⟨_, hexec, ?_, ?_, rfl, rfl⟩
    · rw [Dev.core_send, Dev.core_modCore_self, Core.filled_rx]
      rfl
    · rw [Dev.core_send, Dev.core_modCore_self, Core.filled_line]
  case grant =>
    have hexec := exec_comp ha harr
    obtain ⟨noc, rfl⟩ := Dev.arriveMsg_only harr
    rw [compRow_core _ h _ rfl, Dev.coreComp_grant ⟨hp, hwl⟩ rfl hl rfl] at hexec
    obtain ⟨hline, hnoc, hmem⟩ := Dev.lineCame_store (d := s.dev.modCoh (fun c => { c with noc := noc })) (h := h)
      (l := { st := .smD, data := l0, acc := [.store ad bs] }) had hfit hne rfl hlen hwait
    exact ⟨_, _, hexec, hline, rfl, rfl, hnoc, hmem⟩
  case amo =>
    have hexec := exec_comp ha harr
    obtain ⟨noc, rfl⟩ := Dev.arriveMsg_only harr
    have hreply : compRow (s.dev.modCoh (fun c => { c with noc := noc }))
        { kind := .comp, was := wk, who := .engine e, addr := a, body := .old v false } = (s.dev.modCoh (fun c => { c with noc := noc })).modEng e
        (fun y => ((y.dropLine (x.toNat % 2 ^ 48 / 64)).wx rd v).retire) := by
      have hrun' : ((s.dev.modCoh (fun c => { c with noc := noc })).eng e).run = .reply rd x false := hrun
      change (s.dev.modCoh (fun c => { c with noc := noc })).replyEng e v = _
      rw [Dev.replyEng, hrun']
      rfl
    rw [hreply] at hexec
    refine ⟨_, hexec, ?_, fun g hg => ?_, rfl⟩
    · rw [Dev.eng_modEng_self]
      rfl
    · rw [Dev.eng_modEng_ne _ _ hg]
      rfl
  case retry =>
    have hexec := exec_retry ha harr
    rw [Dev.resend_core hwho hwas] at hexec
    obtain ⟨noc, rfl⟩ := Dev.arriveMsg_only harr
    exact ⟨_, hexec, rfl, rfl, rfl⟩
  case redAck =>
    have hexec := exec_redAck ha harr rfl
    obtain ⟨noc, rfl⟩ := Dev.arriveMsg_only harr
    have hacked : (s.dev.modCoh (fun c => { c with noc := noc })).ackWrite (fun w => w.src == .tongs e c && w.done && w.red.isSome &&
        w.addr / 64 == ownAddr a / 64) = { s.dev.modCoh (fun c => { c with noc := noc }) with writes := ws } := by
      rw [Dev.ackWrite, show (s.dev.modCoh (fun c => { c with noc := noc })).writes = x :: ws from hws, removeFirst,
        if_pos (by simp [hsrc, hheld, hdone, hred, haddr])]
    rw [hacked] at hexec
    have hwent := Dev.settle_wentOn (d := { s.dev.modCoh (fun c => { c with noc := noc }) with writes := ws }) hrel
    exact ⟨_, hexec, hwent.writes, hwent.mem⟩

end Sys2Proof.Machine

/-!
Write-backs, reductions and expiries at their homes (R251, R266, R268, R271, R274, R276, R371, Table 12.4).
-/
namespace Sys2Proof.Machine

/-! ### Write-backs (R268, R279) -/

section WriteBack
variable {d : Dev} {a : Nat} {h : Fin 64} {m : NMsg}

theorem Dev.knows_of_holder {x : FSt} (hx : (h, x) ∈ d.coreHolders (maKey a)) : d.knows (maKey a) (.core h) = true := by
  have hheld : (d.holders (maKey a)).any (fun p => p.1 == .core h) = true := by
    rw [List.any_eq_true]
    exact ⟨(.core h, x != .s), List.mem_append_left _ (List.mem_map.2 ⟨_, hx, rfl⟩), by simp⟩
  rw [Dev.knows, hheld]
  rfl

theorem Dev.setHolder_none_coreHolders (d : Dev) (key : Nat) (h : Fin 64) (y : FSt) :
    (h, y) ∉ (d.setHolder key h none).coreHolders key := by
  have hmem : (h, y) ∉ (d.coreHolders key).filter (fun p => p.1 != h) := by simp
  have hput : ∀ l : List (Fin 64 × FSt), (h, y) ∉ l →
      (h, y) ∉ tgetD (if l.isEmpty then tdel d.coh.filter key else tput d.coh.filter key l) key [] := by
    intro l hl
    cases l with
    | nil => simp [tgetD, tget_tdel_self]
    | cons p l => simpa using hl
  exact hput _ hmem

theorem Dev.setPoison_isPoison (d : Dev) (k : Nat) : (d.setPoison k).isPoison k = true := by
  unfold Dev.setPoison
  split
  next h => exact h
  · simp [Dev.isPoison]

theorem Dev.toMemory_poison (d : Dev) (a : Nat) (bs : List Byte) (p fresh : Bool) :
    (d.toMemory a bs p fresh).isPoison (maKey a) = (p || (!fresh && d.isPoison (maKey a))) := by
  unfold Dev.toMemory
  dsimp only
  cases p
  · cases fresh
    · rfl
    · simp only [Bool.false_eq_true, if_false, if_true, Bool.not_true, Bool.false_and, Bool.or_self]
      simp [Dev.isPoison, Dev.fixPsn, Dev.modFrame, Dev.clrPoison]
  · simp only [if_true, Bool.true_or]
    exact Dev.setPoison_isPoison _ _

theorem Dev.touchSys_only (d : Dev) (k : Nat) : ∃ l, d.touchSys k = d.modCoh (fun c => { c with sysCache := l }) := by
  by_cases hc : d.coh.sysCache.contains k = true
  · exact ⟨d.coh.sysCache, congrArg (fun c => { d with coh := c }) (if_pos hc)⟩
  · exact ⟨_, congrArg (fun c => { d with coh := c }) (if_neg hc)⟩

/-- Data that reaches memory changes nothing of the protocol but the system cache. -/
theorem Dev.toMemory_only (d : Dev) (a : Nat) (bs : List Byte) (p fresh : Bool) :
    ∃ l poi t, d.toMemory a bs p fresh = { d with
      mem := cellsPut d.mem (maLine a) bs, poison := poi, tiers := t, coh := { d.coh with sysCache := l } } := by
  obtain ⟨l, hl⟩ := (d.wr (maLine a) bs).touchSys_only (maKey a)
  unfold Dev.toMemory
  dsimp only
  rw [hl]
  split
  · unfold Dev.setPoison
    split <;> exact ⟨l, _, _, rfl⟩
  · split <;> exact ⟨l, _, _, rfl⟩

/-- A write-back of a line without a transaction reaches memory. -/
theorem Dev.applyWb_eq (hlen : m.bytes.length = 64) (hgo : d.frameGate m.addr = .go d) (ht : tget d.coh.txns (maKey m.addr) = none) :
    d.applyWb m = d.toMemory m.addr m.bytes m.poison m.fresh := by
  obtain ⟨l, poi, t, hmem⟩ := d.toMemory_only m.addr m.bytes m.poison m.fresh
  have hnone : tget (d.toMemory m.addr m.bytes m.poison m.fresh).coh.txns (maKey m.addr) = none := by rw [hmem]; exact ht
  unfold Dev.applyWb
  dsimp only
  rw [if_neg (by simp [hlen]), hgo]
  dsimp only
  rw [Dev.wbCame, hnone]

/-- The home after a holder's eviction has been answered. -/
def Dev.gaveUp (d : Dev) (m : NMsg) (h : Fin 64) (bs : List Byte) : Dev :=
  (d.setHolder (maKey m.addr) h none).send { m with kind := .comp, body := .evicted, bytes := bs }

theorem Dev.evictionComp (hwho : m.who = .core h) (bs : List Byte) :
    (d.dropHolder (maKey m.addr) m.who).toAgent { m with kind := .comp, body := .evicted, bytes := bs } = d.gaveUp m h bs := by
  have hdrop : d.dropHolder (maKey m.addr) m.who = d.setHolder (maKey m.addr) h none := by rw [hwho]; rfl
  rw [hdrop, Dev.gaveUp]
  exact Dev.toAgent_near (m := { m with kind := .comp, body := .evicted, bytes := bs }) (fun n hn => by cases hwho.symm.trans hn)

theorem Dev.homeWb_eq (hwho : m.who = .core h) (hknow : d.knows (maKey m.addr) (.core h) = true) (hlen : m.bytes.length = 64)
    (hgo : d.frameGate m.addr = .go d) (ht : tget d.coh.txns (maKey m.addr) = none) :
    d.homeWb m = ((d.gaveUp m h []).toMemory m.addr m.bytes m.poison m.fresh).retryHeld := by
  have hgo' : (d.gaveUp m h []).frameGate m.addr = .go (d.gaveUp m h []) := 
    (Dev.samePlaces_of_eq (d := d) (e := d.gaveUp m h []) rfl rfl rfl).frameGate hgo
  unfold Dev.homeWb
  dsimp only
  rw [Dev.evictionComp hwho, hwho, hknow]
  simp only [Bool.not_true, Bool.false_eq_true, if_false]
  exact congrArg Dev.retryHeld (Dev.applyWb_eq (d := d.gaveUp m h []) hlen hgo' ht)

theorem Dev.evicted_eq (hwho : m.who = .core h) (hknow : d.knows (maKey m.addr) (.core h) = true) (hn : maNode m.addr = none)
    (ht : tget d.coh.txns (maKey m.addr) = none) : d.evicted m = (d.gaveUp m h m.bytes).retryHeld := by
  unfold Dev.evicted
  dsimp only
  have hnone : tget (d.gaveUp m h m.bytes).coh.txns (maKey m.addr) = none := ht
  rw [Dev.evictionComp hwho m.bytes, hwho, hknow, hn]
  simp only [Bool.not_true, Bool.false_eq_true, if_false]
  rw [Dev.wbCame, hnone]

/-- A retry changes nothing where nothing was held, and nothing came to be. -/
theorem Dev.retryHeld_of_same {e : Dev} (hn : NoneHeld d) (hheld : e.coh.held = d.coh.held) (hred : e.coh.redQ = d.coh.redQ)
    (htxns : e.coh.txns = d.coh.txns) : e.retryHeld = e :=
  Dev.retryHeld_of_noneHeld ⟨hheld.trans hn.1, hred.trans hn.2.1, fun p hp => hn.2.2 p (htxns ▸ hp)⟩

/-- What a write-back of a line without a transaction leaves, where nothing is held. -/
theorem Dev.homeWb_rest (hwho : m.who = .core h) (hknow : d.knows (maKey m.addr) (.core h) = true) (hlen : m.bytes.length = 64)
    (hgo : d.frameGate m.addr = .go d) (ht : tget d.coh.txns (maKey m.addr) = none) (hnone : NoneHeld d) :
    (d.homeWb m).mem = cellsPut d.mem (maLine m.addr) m.bytes ∧
      (d.homeWb m).isPoison (maKey m.addr) = (m.poison || (!m.fresh && d.isPoison (maKey m.addr))) ∧
      (∀ y, (h, y) ∉ (d.homeWb m).coreHolders (maKey m.addr)) ∧
      (d.homeWb m).coh.noc = d.coh.noc ++ [{ m with kind := .comp, body := .evicted, bytes := [] }] := by
  obtain ⟨l, poi, t, hto⟩ := (d.gaveUp m h []).toMemory_only m.addr m.bytes m.poison m.fresh
  have hpsn := (d.gaveUp m h []).toMemory_poison m.addr m.bytes m.poison m.fresh
  have hwb := Dev.homeWb_eq hwho hknow hlen hgo ht
  rw [Dev.retryHeld_of_same hnone (congrArg (fun e => e.coh.held) hto) (congrArg (fun e => e.coh.redQ) hto)
    (congrArg (fun e => e.coh.txns) hto)] at hwb
  rw [hwb]
  refine ⟨congrArg Dev.mem hto, hpsn, fun y => ?_, congrArg (fun e => e.coh.noc) hto⟩
  rw [hto]
  exact d.setHolder_none_coreHolders _ _ _

/-- What an eviction notice of a line without a transaction leaves, where nothing is held. -/
theorem Dev.evicted_rest (hwho : m.who = .core h) (hknow : d.knows (maKey m.addr) (.core h) = true) (hn : maNode m.addr = none)
    (ht : tget d.coh.txns (maKey m.addr) = none) (hnone : NoneHeld d) :
    (d.evicted m).mem = d.mem ∧ (∀ y, (h, y) ∉ (d.evicted m).coreHolders (maKey m.addr)) ∧
      (d.evicted m).coh.noc = d.coh.noc ++ [{ m with kind := .comp, body := .evicted }] := by
  have hev := Dev.evicted_eq hwho hknow hn ht
  rw [Dev.retryHeld_of_same (e := d.gaveUp m h m.bytes) hnone rfl rfl rfl] at hev
  rw [hev]
  exact ⟨rfl, fun y => d.setHolder_none_coreHolders _ _ _, rfl⟩

/-- The row of a write-back or notice that its core has sent. -/
theorem wbRow_home {d0 : Dev} {w : Word} {q : NMsg} (ha : d.maddr w = some a) (hn : maNode a = none) (hwho : q.who = .core h)
    (hmem : ∃ x ∈ d.coh.noc, x.kind = q.kind ∧ x.who = .core h ∧ maKey x.addr = maKey a)
    (harr : d.arriveMsg { q with addr := maLine a } (fun _ => true) = (m, d0)) :
    wbRow d q w = if m.kind = .wbDirty then d0.homeWb m else d0.evicted m := by
  have hany : d.coh.noc.any (fun x => x.kind == q.kind && x.who == q.who && maKey x.addr == maKey a) = true := by
    obtain ⟨x, hx, hk, hw, hkey⟩ := hmem
    rw [List.any_eq_true]
    exact ⟨x, hx, by simp [hk, hw, hkey, hwho]⟩
  have hleave : d.leaveNow q.kind q.who (maKey a) = d := by
    rw [hwho] at hany ⊢
    unfold Dev.leaveNow
    dsimp only
    rw [hany]
    rfl
  have hcan : d.canLeave q.kind q.who (maKey a) = true := by
    rw [hwho] at hany ⊢
    exact hany
  unfold wbRow
  rw [ha]
  dsimp only
  rw [hleave, hcan, harr, hn]
  rfl

end WriteBack

/-! ### Reductions (R274, Table 12.4) -/

section Reduction
variable {d : Dev} {a : Nat} {e : Fin 128} {c : Fin 4} {op : RedOp} {ty : RType} {bs : List Byte}

theorem redBytes_nil (op : RedOp) (ty : RType) : ∀ k : Nat, redBytes op ty k [] [] = []
  | 0 => rfl
  | k + 1 => by
    have hw : 0 < redWidth ty := by cases ty <;> decide
    simp [redBytes, hw]

/-- One element of a reduction is combined as a whole. -/
theorem redBytes_one (op : RedOp) (ty : RType) {old xs : List Byte} {n : Nat} (hn : n = redWidth ty) (hold : old.length = redWidth ty)
    (hxs : xs.length = redWidth ty) : redBytes op ty n old xs = leBytes (redWidth ty) (redElem op ty (ofLe old) (ofLe xs)) := by
  have hw : 0 < redWidth ty := by cases ty <;> decide
  obtain ⟨k, hk⟩ : ∃ k, n = k + 1 := ⟨n - 1, by omega⟩
  rw [hk, redBytes, if_neg (by simp [hold, hxs]), List.take_of_length_le (by omega), List.take_of_length_le (by omega),
    List.drop_eq_nil_of_le (by omega), List.drop_eq_nil_of_le (by omega), redBytes_nil, List.append_nil]

theorem Dev.applyRed_rest {m : NMsg} (hnode : ∀ n, m.who ≠ .node n) :
    (d.applyRed m).mem = cellsPut d.mem m.addr (redBytes m.red m.ty m.bytes.length (d.rd m.addr m.bytes.length) m.bytes) ∧
      (d.applyRed m).coh.noc = d.coh.noc ++ [{ m with kind := .redAck, poison := d.isPoison (maKey m.addr), bytes := [] }] := by
  unfold Dev.applyRed
  dsimp only
  cases hwho : m.who with
  | node n => exact absurd hwho (hnode n)
  | _ => exact ⟨rfl, rfl⟩

/-- A RED of one element arrives at its home as it is. -/
theorem redRow_one {d0 : Dev} {w : Word} {src : Agent} (ha : d.maddr w = some a) (hn : maNode a = none) (hne : 0 < bs.length)
    (hfit : a % 64 + bs.length ≤ 64)
    (harr : d.arriveMsg (redMsg src a bs (op, ty)) (fun x => x.red == op && x.ty == ty && x.bytes == bs && x.addr == a) =
      (redMsg src a bs (op, ty), d0)) : redRow d src op w ty bs = d0.admitRed (redMsg src a bs (op, ty)) := by
  unfold redRow
  rw [ha]
  dsimp only
  rw [hn]
  dsimp only
  rw [harr]
  dsimp only
  rw [lines64_line hne hfit]
  rfl

/-- A reduction of a line that nobody holds is applied at once. -/
theorem Dev.admitRed_free {m : NMsg} (hnode : ∀ n, m.who ≠ .node n) (hk : m.kind = .red) (hgo : d.frameGate m.addr = .go d)
    (hn : maNode m.addr = none) (hbusy : d.busyLine (maKey m.addr) = false) (hhs : d.holders (maKey m.addr) = []) :
    d.admitRed m = ((d.setTxn (maKey m.addr) { req := m, waits := [] }).applyRed m).dropTxn (maKey m.addr) := by
  unfold Dev.admitRed
  dsimp only
  rw [hgo]
  dsimp only
  rw [hbusy, if_neg Bool.false_ne_true, Dev.startTxn_free hnode (by simp [hk]) (fun h => by rw [hk] at h; cases h) (Dev.plan_nil hhs) hn hgo]
  unfold Dev.finishHome
  dsimp only
  rw [hk]

/-- The effect of a reduction of one element on a line that nobody holds. -/
theorem Dev.admitRed_rest {m : NMsg} (hnode : ∀ n, m.who ≠ .node n) (hk : m.kind = .red) (hgo : d.frameGate m.addr = .go d)
    (hn : maNode m.addr = none) (hbusy : d.busyLine (maKey m.addr) = false) (hhs : d.holders (maKey m.addr) = [])
    (hlen : m.bytes.length = redWidth m.ty) :
    (d.admitRed m).mem = cellsPut d.mem m.addr
        (leBytes (redWidth m.ty) (redElem m.red m.ty (ofLe (d.rd m.addr (redWidth m.ty))) (ofLe m.bytes))) ∧
      (d.admitRed m).coh.noc = d.coh.noc ++ [{ m with kind := .redAck, poison := d.isPoison (maKey m.addr), bytes := [] }] := by
  obtain ⟨hmem, hnoc⟩ := Dev.applyRed_rest (d := d.setTxn (maKey m.addr) { req := m, waits := [] }) hnode
  rw [redBytes_one m.red m.ty (old := (d.setTxn (maKey m.addr) { req := m, waits := [] }).rd m.addr m.bytes.length) hlen
    ((cellsGet_length _ _ _).trans hlen) hlen, hlen] at hmem
  rw [Dev.admitRed_free hnode hk hgo hn hbusy hhs]
  exact ⟨hmem, hnoc⟩

end Reduction

/-! ### Timers (R18, R266, R271) -/

theorem Dev.proxyLine_modProxy_ne (d : Dev) {key k : Nat} (f : ProxyLine → ProxyLine) (hk : k ≠ key) :
    (d.modProxy key f).proxyLine k = d.proxyLine k := by
  unfold Dev.modProxy
  dsimp only
  generalize f (d.proxyLine key) = x
  by_cases hx : x = {}
  · simp only [Dev.proxyLine, Dev.modCoh, if_pos hx, tgetD, tget_tdel_ne _ hk]
  · simp only [Dev.proxyLine, Dev.modCoh, if_neg hx, tgetD, tget_tput_ne _ _ hk]

/-- A source's one held write to memory of this node, with nothing of the source before it, leaves for its home. -/
theorem releaseHeld_umr {d : Dev} {x : OutW} {off : Nat} (hw : d.writes = [x]) (hheld : x.held = true) (hwhat : x.what = .mem)
    (hred : x.red = none) (hsig : d.rennetOut x.src (fun _ => true) = false) (hline : d.lineStores x.src (· == 255) = false)
    (ht : d.target true x.addr = .umr off) :
    releaseHeld d x.src = ({ d.send (writeMsg x.src off x.bytes) with writes := [{ x with held := false }] } : Dev).settle.hostSettle := by
  have hself : x.heldOf x.src = true := by
    unfold OutW.heldOf
    rw [hheld, Bool.true_and]
    split
    · exact beq_self_eq_true _
    next hregion =>
      unfold OutW.of sameSource
      split
      · rfl
      next r _ h _ => exact absurd h (hregion r)
      · exact beq_self_eq_true _
  have hfree : ({ d with writes := [] } : Dev).stillHeld x (.umr off) = false := by
    have hs' : ({ d with writes := [] } : Dev).rennetOut x.src (fun _ => true) = false := hsig
    have hl' : ({ d with writes := [] } : Dev).lineStores x.src (· == 255) = false := hline
    simp [Dev.stillHeld, Dev.mustHold, hwhat, hs', hl', destKey, WOp.isSig]
  have hleave : ({ d with writes := [] } : Dev).leaves x (.umr off) =
      { d.send (writeMsg x.src off x.bytes) with writes := [{ x with held := false }] } := by
    have hlaunch : ({ d with writes := [] } : Dev).launch x (.umr off) =
        { d.send (writeMsg x.src off x.bytes) with writes := [{ x with held := false }] } := by
      unfold Dev.launch
      dsimp only
      rw [hred]
      rfl
    refine Eq.trans ?_ hlaunch
    unfold Dev.leaves
    rw [hwhat]
  unfold releaseHeld
  rw [hw, List.find?_cons_of_pos (by simpa using hself)]
  dsimp only
  rw [List.takeWhile_cons_of_neg (by simp [hself]), ht, hfree, hleave]
  simp

/-- Settles O30: write-backs and reductions at their home, and what the expiries end. -/
theorem writeBacksReachMemoryAndHoldsExpire : Obligations.WriteBacksReachMemoryAndHoldsExpire := by
  refine ⟨fun s a w d0 ha hn hnone hgo ht => ⟨fun h x m hx hwho hm => ⟨fun hk hmem hlen bs p harr => ?wbDirty, fun hk hmem harr => ?evict⟩,
    fun e c op ty bs hlen hfit hhs hgo' harr => ?red⟩,
    fun s => ⟨fun x off hrel hreads hw hheld hwhat hred hsig hline htgt => ?held, fun sl t hnone => ?ticket, fun w a hnone ha => ?proxy,
      fun h => ?lr⟩⟩
  case wbDirty =>
    have hrow := (wbRow_home (q := { kind := .wbDirty, who := .core h, addr := 0, bytes := bs, poison := p }) ha hn rfl
      ⟨m, hmem, hk, hwho, by rw [hm, maKey_maLine]⟩ harr).trans (if_pos hk)
    obtain ⟨noc, rfl⟩ := Dev.arriveMsg_only harr
    obtain ⟨hwrote, hpsn, hgone, hnoc⟩ := Dev.homeWb_rest (d := s.dev.modCoh (fun c => { c with noc := noc })) hwho
      (Dev.knows_of_holder (x := x) (by rw [hm, maKey_maLine]; exact hx)) hlen (by rw [hm]; exact hgo)
      (by rw [hm, maKey_maLine]; exact ht) hnone
    rw [hm, maLine_maLine] at hwrote
    rw [hm, maKey_maLine] at hpsn hgone
    exact ⟨_, exec_onDev (f := fun d => wbRow d { kind := .wbDirty, who := .core h, addr := 0, bytes := bs, poison := p } w) rfl hrow,
      hwrote, hpsn, hgone, hnoc⟩
  case evict =>
    have hrow := (wbRow_home (q := { kind := .evict, who := .core h, addr := 0 }) ha hn rfl
      ⟨m, hmem, hk, hwho, by rw [hm, maKey_maLine]⟩ harr).trans (if_neg (by simp [hk]))
    obtain ⟨noc, rfl⟩ := Dev.arriveMsg_only harr
    obtain ⟨hsame, hgone, hnoc⟩ := Dev.evicted_rest (d := s.dev.modCoh (fun c => { c with noc := noc })) hwho
      (Dev.knows_of_holder (x := x) (by rw [hm, maKey_maLine]; exact hx)) (by rw [hm, maNode_maLine, hn])
      (by rw [hm, maKey_maLine]; exact ht) hnone
    rw [hm, maKey_maLine] at hgone
    exact ⟨_, exec_onDev (f := fun d => wbRow d { kind := .evict, who := .core h, addr := 0 } w) rfl hrow, hsame, hgone, hnoc⟩
  case red =>
    have hw : 0 < redWidth ty := by cases ty <;> decide
    have hrow := redRow_one ha hn (hlen ▸ hw) hfit harr
    obtain ⟨noc, rfl⟩ := Dev.arriveMsg_only harr
    have hbusy : (s.dev.modCoh (fun c => { c with noc := noc })).busyLine (maKey a) = false := congrArg Option.isSome ht
    obtain ⟨hmem, hnoc⟩ := Dev.admitRed_rest (d := s.dev.modCoh (fun c => { c with noc := noc })) (m := redMsg (.tongs e c) a bs (op, ty))
      (fun n hn => by cases hn) rfl hgo' hn hbusy hhs hlen
    refine ⟨fun hop => ?add, fun hop hty => ?min, fun hop hty => ?max⟩
    case add =>
      subst hop
      exact ⟨_, exec_onDev (f := fun d => redRow d (.tongs e c) .add w ty bs) rfl hrow, hmem, hnoc⟩
    case min =>
      subst hop
      exact ⟨_, exec_onDev (f := fun d => if ty = .uint32 || ty = .uint64 then redRow d (.tongs e c) .min w ty bs else d) rfl
        ((if_pos (by simpa using hty)).trans hrow), hmem, hnoc⟩
    case max =>
      subst hop
      exact ⟨_, exec_onDev (f := fun d => if ty = .uint32 || ty = .uint64 then redRow d (.tongs e c) .max w ty bs else d) rfl
        ((if_pos (by simpa using hty)).trans hrow), hmem, hnoc⟩
  case held =>
    have hexec : exec (.heldWriteRelease x.src) s = .next { s with dev := _ } :=
      exec_onDev (f := fun d => releaseHeld d x.src) rfl (releaseHeld_umr hw hheld hwhat hred hsig hline htgt)
    have hwent := Dev.settle_wentOn (d := { s.dev.send (writeMsg x.src off x.bytes) with writes := [{ x with held := false }] }) hrel
    rw [Dev.hostSettle_of_no_reads (hwent.reads.trans hreads)] at hexec
    exact ⟨_, hexec, hwent.writes, congrArg Coh.noc hwent.coh, hwent.mem⟩
  case ticket =>
    obtain ⟨hheld, hred, htxns⟩ := hnone
    have hexec : exec (.ticketExpiry sl t) s = .next { s with
        dev := s.dev.modCoh (fun c => { c with tickets := c.tickets.filter (fun x => !(x.slice == sl.val && x.id == t)) }) } := by
      change execTicketExpiry sl t s = _
      rw [execTicketExpiry, onDev_eq, hheld, if_neg (by simp)]
      rw [Dev.retryHeld_of_same ⟨hheld, hred, htxns⟩ (e := s.dev.modCoh (fun c => { c with
        tickets := c.tickets.filter (fun x => !(x.slice == sl.val && x.id == t)) })) rfl rfl rfl]
    refine ⟨_, hexec, fun x => ?_, rfl⟩
    simp only [Dev.modCoh, List.mem_filter, Bool.not_eq_true', Bool.and_eq_false_iff, beq_eq_false_iff_ne]
    tauto
  case proxy =>
    by_cases hp : thas s.dev.coh.proxy (maKey a) = true
    · have hexec : exec (.proxyHoldExpiry w) s = .next { s with dev := s.dev.modProxy (maKey a) (fun l => { l with hold := false }) } := by
        change execProxyHoldExpiry w s = _
        rw [execProxyHoldExpiry, onDev_eq, ha]
        dsimp only
        rw [if_pos hp]
        rw [Dev.retryHeld_of_same (e := s.dev.modProxy (maKey a) (fun l => { l with hold := false })) hnone rfl rfl rfl]
      exact ⟨_, hexec, Dev.proxyLine_modProxy _ _ _, fun k hk => Dev.proxyLine_modProxy_ne _ _ hk, rfl⟩
    · have hexec : exec (.proxyHoldExpiry w) s = .next { s with dev := s.dev } := by
        change execProxyHoldExpiry w s = _
        rw [execProxyHoldExpiry, onDev_eq, ha]
        dsimp only
        rw [if_neg hp]
      have hline : s.dev.proxyLine (maKey a) = {} := by
        rw [Dev.proxyLine, tgetD, show tget s.dev.coh.proxy (maKey a) = none by simpa [thas] using hp]
        rfl
      exact ⟨_, hexec, by rw [hline], fun _ _ => rfl, rfl⟩
  case lr =>
    refine ⟨_, exec_onDev (f := fun d => d.modCore h (fun c => { c with resvHold := none })) rfl rfl, ⟨rfl, fun g hg => ?_⟩,
      Dev.core_modCore_self _ _ _⟩
    exact Dev.core_modCore_ne _ _ hg

end Sys2Proof.Machine

/-!
Loads and stores of application cores (R288 to R290, R222, Table 8.7, Table 9.3).
-/
namespace Sys2Proof.Machine

/-! ### Hits and misses in a core's lines -/

section Lines
variable {d : Dev} {h : Fin 64} {key : Nat}

theorem Core.putBytes_line_ne : ∀ {bs : List Byte} {c : Core} {ad k : Nat}, ad / 64 = key → ad % 64 + bs.length ≤ 64 → k ≠ key →
    tget (c.putBytes ad bs).lines k = tget c.lines k
  | [], _, _, _, _, _, _ => rfl
  | [b], c, ad, k, had, _, hk => by
    rw [Core.putBytes, Core.putBytes]
    exact tget_tmod_ne _ _ (had ▸ hk)
  | b :: b' :: t, c, ad, k, had, hfit, hk => by
    rw [List.length_cons, List.length_cons] at hfit
    rw [Core.putBytes, Core.putBytes_line_ne (bs := b' :: t) (ad := ad + 1) (by omega) (by rw [List.length_cons]; omega) hk]
    exact tget_tmod_ne _ _ (had ▸ hk)

theorem Core.putBytes_x : ∀ (bs : List Byte) (c : Core) (ad : Nat), (c.putBytes ad bs).x = c.x
  | [], _, _ => rfl
  | _ :: t, _, ad => Core.putBytes_x t _ (ad + 1)

theorem Core.rx_congr {c e : Core} (hx : e.x = c.x) (r : Fin 32) : e.rx r = c.rx r := by rw [Core.rx, Core.rx, hx]

/-- An access that misses asks its home for the line. -/
theorem Dev.wantLine_miss (hl : tget (d.core h).lines key = none)
    (hroom : ((d.core h).lines.filter (fun p => p.1 % 2048 == key % 2048 && !leaving p.2.st)).length < 16) (a : CAcc) :
    d.wantLine h key a = (d.modCore h (fun c => c.setLine key { st := if accAlone a then .imD else .isD, acc := [a] })).coreAsk h
      (if accAlone a then .rdUnique else .rdShared) key := by
  unfold Dev.wantLine
  dsimp only
  rw [hl]
  dsimp only
  rw [Dev.makeRoom, if_pos hroom]

/-- A load of bytes of one line that is not there. -/
theorem Dev.coreTry_loadMiss {ad sq : Nat} {wl : Fin 4} {sg : Bool} (had : ad / 64 = key) (hfit : ad % 64 + 2 ^ wl.val ≤ 64)
    (hl : tget (d.core h).lines key = none) :
    d.coreTry h (.load ad wl sg false sq []) = d.wantLine h key (.load ad wl sg false sq []) := by
  subst had
  have hpos : 0 < 2 ^ wl.val := Nat.two_pow_pos _
  have hend : (ad + 2 ^ wl.val - 1) / 64 = ad / 64 := by omega
  have hready : (d.core h).lineReady false (ad / 64) = false := by rw [Core.lineReady, hl]
  unfold Dev.coreTry
  dsimp only [accAddr, accAlone]
  rw [if_pos (by simp; omega)]
  unfold Dev.coreOne
  simp only [accLines, hend, if_true, accAlone, hready, List.find?_cons, Bool.not_false]

theorem Dev.coreTry_storeMiss {ad : Nat} {bs : List Byte} (had : ad / 64 = key) (hfit : ad % 64 + bs.length ≤ 64) (hne : bs ≠ [])
    (hl : tget (d.core h).lines key = none) : d.coreTry h (.store ad bs) = d.wantLine h key (.store ad bs) := by
  subst had
  have hpos := List.length_pos_of_ne_nil hne
  have hend : (ad + bs.length - 1) / 64 = ad / 64 := by omega
  have hready : (d.core h).lineReady true (ad / 64) = false := by rw [Core.lineReady, hl]
  unfold Dev.coreTry
  dsimp only [accAddr, accAlone]
  rw [if_pos (by simp; omega)]
  unfold Dev.coreOne
  simp only [accLines, hend, if_true, accAlone, hready, List.find?_cons, Bool.not_false]

end Lines

theorem Core.bytesAt_congr {c e : Core} (hl : e.lines = c.lines) : ∀ (n a : Nat), e.bytesAt a n = c.bytesAt a n
  | 0, _ => rfl
  | n + 1, a => by rw [Core.bytesAt, Core.bytesAt, Core.bytesAt_congr hl n, Core.byteAt, Core.byteAt, hl]

theorem Dev.coreBytes_congr {d e : Dev} {h : Fin 64} (hw : e.writes = d.writes) (hl : (e.core h).lines = (d.core h).lines)
    (hwait : (e.core h).waitAcc = (d.core h).waitAcc) (a n : Nat) : e.coreBytes h a n = d.coreBytes h a n := by
  have haccs : (e.core h).accs = (d.core h).accs := by rw [Core.accs, Core.accs, hl, hwait]
  have hown : ∀ x b, (e.core h).ownByte x b = (d.core h).ownByte x b := fun x b => by rw [Core.ownByte, Core.ownByte, haccs]
  simp only [Dev.coreBytes, Dev.overlay, Dev.ownByte, hw, Core.bytesAt_congr hl, hown]

/-! ### Instructions past their barriers -/

section Go
variable {s : State} {h : Fin 64} {a : Word}

theorem exec_coreLoad {rd : Fin 32} {wl : Fin 4} {sg : Bool} {ty : Pbmt} {ext : List Byte} (hmay : s.dev.coreMay h .load = true)
    {e : Dev} (he : coreLoad (s.dev.passBars h) h false rd a wl sg ty ext = e) :
    exec (.coreLoad h false rd a wl sg ty ext) s = .next { s with dev := e.modCore h Core.stepped } :=
  exec_onDev (f := fun d => d.onCore h .load (fun d => coreLoad d h false rd a wl sg ty ext)) rfl
    ((Dev.onCore_go hmay _).trans (by rw [he]))

theorem exec_coreStore {bs : List Byte} {ty : Pbmt} (hmay : s.dev.coreMay h .store = true)
    (hlen : bs.length = 1 ∨ bs.length = 2 ∨ bs.length = 4 ∨ bs.length = 8) {e : Dev} (he : coreStore (s.dev.passBars h) h a bs ty = e) :
    exec (.coreStore h a bs ty) s = .next { s with dev := e.modCore h Core.stepped } := by
  change execCoreStore h a bs ty s = _
  rw [execCoreStore, onDev_eq]
  dsimp only
  rw [if_pos (by simpa [or_assoc] using hlen), Dev.onCore_go hmay, he]

end Go

/-! ### Loads -/

section Loads
variable {d : Dev} {h : Fin 64} {a : Word} {rd : Fin 32} {wl : Fin 4} {sg : Bool} {ext : List Byte} {ma : Nat}

/-- The package with a new load of a hart. -/
def Dev.loadOpened (d : Dev) (h : Fin 64) (rd : Fin 32) : Dev :=
  d.modCore h (fun c => { c with loads := c.loads ++ [{ seq := (d.core h).nextLoad, rd := rd }], nextLoad := (d.core h).nextLoad + 1 })

theorem coreLoad_cached (hto : d.coreTo a = .umr ma) (hn : maNode ma = none) :
    coreLoad d h false rd a wl sg .pma ext = (d.loadOpened h rd).coreTry h (.load ma wl sg false (d.core h).nextLoad []) := by
  unfold coreLoad
  dsimp only
  rw [hto]
  dsimp only
  rw [hn]
  rfl

/-- A load that hits. -/
theorem coreLoad_hit {l : CLine} (hto : d.coreTo a = .umr ma) (hn : maNode ma = none) (hfit : ma % 64 + 2 ^ wl.val ≤ 64)
    (hl : tget (d.core h).lines (ma / 64) = some l) (hst : stable l.st = true) (hpsn : l.poison = false) (hloads : (d.core h).loads = []) :
    coreLoad d h false rd a wl sg .pma ext = d.modCore h (fun c =>
      { (c.l1Touch false (ma / 64)).wx rd (lineValue wl sg (d.coreBytes h ma (2 ^ wl.val))) with
        loads := [], nextLoad := c.nextLoad + 1 }) := by
  have hcore : (d.loadOpened h rd).core h =
      { d.core h with loads := (d.core h).loads ++ [{ seq := (d.core h).nextLoad, rd := rd }], nextLoad := (d.core h).nextLoad + 1 } :=
    Dev.core_modCore_self _ _ _
  have hok : lineOk false l.st = true := by rw [lineOk, hst]; rfl
  have htry := Dev.coreTry_hit (d := d.loadOpened h rd) (sg := sg) (sq := (d.core h).nextLoad) (rd := rd) rfl hfit (by rw [hcore]; exact hl)
    hok hpsn (by rw [hcore, hloads]; rfl)
  have hbytes : (d.loadOpened h rd).coreBytes h ma (2 ^ wl.val) = d.coreBytes h ma (2 ^ wl.val) := by
    exact Dev.coreBytes_congr (d := d) (e := d.loadOpened h rd) rfl (congrArg Core.lines hcore :) (congrArg Core.waitAcc hcore :) _ _
  rw [coreLoad_cached hto hn, htry, hbytes, Dev.loadOpened, Dev.modCore_modCore]
  refine Dev.modCore_congr ?_
  by_cases hrd : rd.val = 0
  · simp [Core.wx, Core.l1Touch, hrd]
  · simp [Core.wx, Core.l1Touch, hrd]

/-- A load that misses. -/
theorem coreLoad_miss (hto : d.coreTo a = .umr ma) (hn : maNode ma = none) (hfit : ma % 64 + 2 ^ wl.val ≤ 64)
    (hl : tget (d.core h).lines (ma / 64) = none)
    (hroom : ((d.core h).lines.filter (fun p => p.1 % 2048 == ma / 64 % 2048 && !leaving p.2.st)).length < 16) :
    coreLoad d h false rd a wl sg .pma ext = ((d.loadOpened h rd).modCore h (fun c =>
      c.setLine (ma / 64) { st := .isD, acc := [.load ma wl sg false (d.core h).nextLoad []] })).coreAsk h .rdShared (ma / 64) := by
  have hcore : (d.loadOpened h rd).core h =
      { d.core h with loads := (d.core h).loads ++ [{ seq := (d.core h).nextLoad, rd := rd }], nextLoad := (d.core h).nextLoad + 1 } :=
    Dev.core_modCore_self _ _ _
  have hl' : tget ((d.loadOpened h rd).core h).lines (ma / 64) = none := by rw [hcore]; exact hl
  rw [coreLoad_cached hto hn, Dev.coreTry_loadMiss rfl hfit hl', Dev.wantLine_miss hl' (by rw [hcore]; exact hroom)]
  rfl

/-- A load of granted bytes of a Vat on which no operation runs. -/
theorem coreLoad_vat {v : Nat} {ty : Pbmt} (hto : d.coreTo a = .vat v) (hdom : (d.core h).domEn = true) (hal : a.toNat % 2 ^ wl.val = 0)
    (hopen : d.vatOpen (d.core h).ctx v (2 ^ wl.val) = true) (hops : d.anvil.ops = []) (hloads : (d.core h).loads = []) :
    coreLoad d h false rd a wl false ty ext = d.modCore h (fun c => c.loaded rd (BitVec.ofNat 64
      (ofLe (d.overlay (.core h) (ownAddr (vatOff v)) (d.rd (vatOff v) (2 ^ wl.val))) % 2 ^ (8 * 2 ^ wl.val)))) := by
  unfold coreLoad
  dsimp only
  rw [hto]
  dsimp only
  rw [if_neg (by simp [hal]), hdom, hopen, Dev.surface_idle hops]
  exact Dev.loadVal_of_idle hloads _ _

end Loads

/-! ### Stores -/

section Stores
variable {d : Dev} {h : Fin 64} {a : Word} {bs : List Byte} {ma : Nat}

/-- A store through the caches that nothing holds back. -/
theorem coreStore_cached (hto : d.coreTo a = .umr ma) (hn : maNode ma = none) (hbehind : d.coreBehind h a = false)
    (hfull : d.bufFull h (.store ma bs) = false) : coreStore d h a bs .pma = d.coreTry h (.store ma bs) := by
  unfold coreStore
  dsimp only
  rw [hto]
  dsimp only
  rw [hn]
  simp only [if_true, Dev.coreOut, hfull, Bool.false_eq_true, if_false]
  exact if_neg (by rw [Dev.coreBehind] at hbehind; rw [hbehind]; exact Bool.false_ne_true)

/-- What does not hold an access back that is no plain write of memory holds none back. -/
theorem Dev.mustHold_mem {src : Agent} {rq : Nat} {p : Path} {t : Target} {bank : Bool} (hfree : d.mustHold src rq p t false bank = false) :
    d.mustHold src rq p t true bank = false := by
  simp only [Dev.mustHold, Bool.or_eq_false_iff, List.any_eq_false, Bool.and_eq_true, not_and, Bool.not_eq_true] at hfree ⊢
  obtain ⟨⟨hw, hsig⟩, hline⟩ := hfree
  refine ⟨⟨fun w hmem hof => ?_, hsig⟩, hline⟩
  obtain ⟨hheld, hback⟩ := hw w hmem hof
  refine ⟨hheld, ?_⟩
  simp only [Dev.holdsBack, Bool.or_eq_false_iff] at hback ⊢
  refine ⟨hback.1, ?_⟩
  have hrest := hback.2
  simp only [Bool.false_and, Bool.not_false, Bool.and_true] at hrest
  simp [hrest]

theorem Dev.target_of_coreTo_vat {v : Nat} (hto : d.coreTo a = .vat v) :
    ∃ off, d.target true a.toNat = .vat off ∧ v = off - vatBase := by
  have hfalse : ∃ off, d.target false a.toNat = .vat off ∧ v = off - vatBase := by
    rw [Dev.coreTo] at hto
    split at hto
    · cases hto
    · split at hto
      case h_2 off htarget => exact ⟨off, htarget, (CoreTo.vat.inj hto).symm⟩
      case h_4 => split at hto <;> cases hto
      all_goals cases hto
  obtain ⟨off, htarget, hv⟩ := hfalse
  obtain ⟨hlocal, hall⟩ := Dev.target_own (.inr rfl) htarget
  exact ⟨off, (hall true a.toNat (Eq.refl _)).trans hlocal, hv⟩

/-- A store to granted bytes of a Vat is performed at its bank. -/
theorem coreStore_vat {v : Nat} {ty : Pbmt} (hto : d.coreTo a = .vat v) (hdom : (d.core h).domEn = true) (hal : a.toNat % bs.length = 0)
    (hlen : bs.length = 1 ∨ bs.length = 2 ∨ bs.length = 4 ∨ bs.length = 8) (hopen : d.vatOpen (d.core h).ctx v bs.length = true)
    (hbehind : d.coreBehind h a = false) : coreStore d h a bs ty = d.vatPut v bs none := by
  obtain ⟨off, hoff, hv⟩ := Dev.target_of_coreTo_vat hto
  have hfit : a.toNat % 64 + bs.length ≤ 64 := by
    obtain hn | hn | hn | hn := hlen <;> rw [hn] at hal ⊢ <;> omega
  have hne : bs ≠ [] := fun hnil => by rw [hnil] at hlen; simp at hlen
  have hunits : writeUnits (.core h) 0 a.toNat bs false = [(a.toNat, bs)] := by
    simp only [writeUnits, lines64_line (List.length_pos_of_ne_nil hne) hfit, List.flatMap_cons, List.flatMap_nil, List.append_nil,
      Bool.or_false, if_true, ite_self]
  have hfree := Dev.mustHold_mem hbehind
  rw [hoff] at hfree
  unfold coreStore
  dsimp only
  rw [hto]
  dsimp only
  rw [if_neg (by simp [hal]), hdom, hopen, hbehind, Dev.issueWrites, Option.isSome_none, hunits]
  simp only [Bool.and_self, if_true, Bool.false_eq_true, if_false, foldDev, List.foldl_cons, List.foldl_nil, Dev.issueWrite, hoff, Option.isSome_none, hfree, Dev.launch, hv]

/-- A store that reaches no region traps. -/
theorem coreStore_fault {ty : Pbmt} (hto : d.coreTo a = .fault) : coreStore d h a bs ty = d.exc h 7 a := by
  unfold coreStore
  dsimp only
  rw [hto]
  rfl

end Stores

/-! ### What a hart sees past its barriers -/

section Passed
variable {d : Dev} {h : Fin 64}

theorem Dev.passBars_coreBehind (a : Word) : (d.passBars h).coreBehind h a = d.coreBehind h a := by
  have hline : ∀ f, (d.passBars h).lineStores (.core h) f = d.lineStores (.core h) f :=
    Dev.lineStores_of_accs (by rw [Dev.passBars_core]; rfl)
  simp only [Dev.coreBehind, Dev.mustHold, hline]
  rfl

theorem Dev.passBars_bufFull (x : CAcc) : (d.passBars h).bufFull h x = d.bufFull h x := by
  have haccs : ((d.passBars h).core h).accs = (d.core h).accs := by rw [Dev.passBars_core]; rfl
  simp only [Dev.bufFull, Dev.bufStores, haccs]
  rfl

theorem Dev.passBars_coreBytes (a n : Nat) : (d.passBars h).coreBytes h a n = d.coreBytes h a n :=
  Dev.coreBytes_congr (d := d) (e := d.passBars h) rfl (congrArg Core.lines Dev.passBars_core :) (congrArg Core.waitAcc Dev.passBars_core :) a n

/-- A change of the hart alone after its barriers. -/
theorem Dev.passBars_onlyCore (f g : Core → Core) : OnlyCore h d (((d.passBars h).modCore h f).modCore h g) :=
  ⟨rfl, fun _ hg => (Dev.core_modCore_ne _ _ hg).trans ((Dev.core_modCore_ne _ _ hg).trans (Dev.passBars_core_ne hg))⟩

theorem Core.loaded_rx_ne (c : Core) {rd r : Fin 32} (hr : r ≠ rd) (v : Word) : (c.loaded rd v).rx r = c.rx r := by
  by_cases hrd : rd.val = 0
  · rw [Core.loaded, Core.wx, if_pos hrd]
    rfl
  · have hne : r.val ≠ rd.val := fun hv => hr (Fin.ext hv)
    rw [Core.loaded, Core.wx, if_neg hrd, Core.rx, Core.rx, tgetD_tput_ne _ _ _ hne]

end Passed

/-! ### The accesses of O31 -/

section Accesses
variable {s : State} {h : Fin 64} {a : Word} {ma : Nat}

theorem exec_coreLoad_hit {rd : Fin 32} {wl : Fin 4} {sg : Bool} {ext : List Byte} (hmay : s.dev.coreMay h .load = true)
    (hto : s.dev.coreTo a = .umr ma) (hn : maNode ma = none) (hfit : ma % 64 + 2 ^ wl.val ≤ 64) {l : CLine}
    (hl : tget (s.dev.core h).lines (ma / 64) = some l) (hst : stable l.st = true) (hpsn : l.poison = false)
    (hloads : (s.dev.core h).loads = []) :
    ∃ d, exec (.coreLoad h false rd a wl sg .pma ext) s = .next { s with dev := d } ∧ OnlyCore h s.dev d ∧
      (d.core h).rx rd = (if rd.val = 0 then 0 else lineValue wl sg (s.dev.coreBytes h ma (2 ^ wl.val))) ∧
      (∀ r : Fin 32, r ≠ rd → (d.core h).rx r = (s.dev.core h).rx r) ∧ (d.core h).lines = (s.dev.core h).lines := by
  have hcore := Dev.passBars_core (d := s.dev) (h := h)
  have hrun := coreLoad_hit (d := s.dev.passBars h) (rd := rd) (sg := sg) (ext := ext) hto hn hfit (by rw [hcore]; exact hl) hst hpsn
    (by rw [hcore]; exact hloads)
  refine ⟨_, exec_coreLoad hmay hrun, Dev.passBars_onlyCore _ _, ?_, fun r hr => ?_, ?_⟩
  all_goals rw [Dev.core_modCore_self, Dev.core_modCore_self, hcore]
  · exact (Core.loaded_rx _ _ _).trans (by rw [Dev.passBars_coreBytes])
  · exact Core.loaded_rx_ne _ hr _
  · exact Core.wx_lines _ _ _

theorem exec_coreLoad_miss {rd : Fin 32} {wl : Fin 4} {sg : Bool} {ext : List Byte} (hmay : s.dev.coreMay h .load = true)
    (hto : s.dev.coreTo a = .umr ma) (hn : maNode ma = none) (hfit : ma % 64 + 2 ^ wl.val ≤ 64)
    (hl : tget (s.dev.core h).lines (ma / 64) = none)
    (hroom : ((s.dev.core h).lines.filter (fun p => p.1 % 2048 == ma / 64 % 2048 && !leaving p.2.st)).length < 16) :
    ∃ d, exec (.coreLoad h false rd a wl sg .pma ext) s = .next { s with dev := d } ∧
      d.coh.noc = s.dev.coh.noc ++ [{ kind := .rdShared, who := .core h, addr := 64 * (ma / 64) }] ∧
      tget (d.core h).lines (ma / 64) = some { st := .isD, acc := [.load ma wl sg false (s.dev.core h).nextLoad []] } ∧
      (d.core h).loads = (s.dev.core h).loads ++ [{ seq := (s.dev.core h).nextLoad, rd := rd }] ∧ d.mem = s.dev.mem ∧
      (∀ r : Fin 32, (d.core h).rx r = (s.dev.core h).rx r) := by
  have hcore := Dev.passBars_core (d := s.dev) (h := h)
  have hrun := coreLoad_miss (d := s.dev.passBars h) (rd := rd) (sg := sg) (ext := ext) hto hn hfit (by rw [hcore]; exact hl)
    (by rw [hcore]; exact hroom)
  refine ⟨_, exec_coreLoad hmay hrun, rfl, ?_, ?_, ?mem, fun r => ?_⟩
  case mem =>
    rw [Dev.modCore_mem, Dev.coreAsk_mem, Dev.modCore_mem, Dev.loadOpened, Dev.modCore_mem]
    rfl
  all_goals rw [Dev.core_modCore_self, Dev.coreAsk, Dev.core_send, Dev.core_modCore_self, Dev.loadOpened, Dev.core_modCore_self, hcore]
  · exact tget_tput_self _ _ _
  · rfl
  · rfl

theorem exec_coreStore_hit {bs : List Byte} (hmay : s.dev.coreMay h .store = true)
    (hlen : bs.length = 1 ∨ bs.length = 2 ∨ bs.length = 4 ∨ bs.length = 8)
    (hto : s.dev.coreTo a = .umr ma) (hn : maNode ma = none) (hfit : ma % 64 + bs.length ≤ 64)
    (hbehind : s.dev.coreBehind h a = false) (hfull : s.dev.bufFull h (.store ma bs) = false) {l : CLine}
    (hl : tget (s.dev.core h).lines (ma / 64) = some l) (hst : l.st = .m ∨ l.st = .e) (hdata : l.data.length = 64) :
    ∃ d, exec (.coreStore h a bs .pma) s = .next { s with dev := d } ∧
      tget (d.core h).lines (ma / 64) = some { l with st := .m, data := putAt l.data (ma % 64) bs } ∧
      (∀ k, k ≠ ma / 64 → tget (d.core h).lines k = tget (s.dev.core h).lines k) ∧
      (∀ r : Fin 32, (d.core h).rx r = (s.dev.core h).rx r) ∧ d.coh.noc = s.dev.coh.noc ∧ d.mem = s.dev.mem := by
  have hcore := Dev.passBars_core (d := s.dev) (h := h)
  have hne : bs ≠ [] := fun hnil => by rw [hnil] at hlen; simp at hlen
  have hok : lineOk true l.st = true := by rcases hst with hst | hst <;> rw [hst] <;> rfl
  have hl' : tget ((s.dev.passBars h).core h).lines (ma / 64) = some l := by rw [hcore]; exact hl
  have hrun := (coreStore_cached (d := s.dev.passBars h) hto hn ((Dev.passBars_coreBehind a).trans hbehind)
    ((Dev.passBars_bufFull _).trans hfull)).trans (Dev.coreTry_store rfl hfit hne hl' hok)
  obtain ⟨hc, hnoc, hmem⟩ := (s.dev.passBars h).perform_store h ma bs
  refine ⟨_, exec_coreStore hmay hlen hrun, ?_, fun k hk => ?_, fun r => ?_, hnoc, hmem⟩
  all_goals rw [Dev.core_modCore_self, hc]
  · exact Core.putBytes_line hl' hdata rfl hfit (.inr hne)
  · exact (Core.putBytes_line_ne rfl hfit hk).trans (by rw [hcore]; rfl)
  · exact Core.rx_congr ((Core.putBytes_x _ _ _).trans (by rw [hcore]; rfl)) r

theorem exec_coreStore_miss {bs : List Byte} (hmay : s.dev.coreMay h .store = true)
    (hlen : bs.length = 1 ∨ bs.length = 2 ∨ bs.length = 4 ∨ bs.length = 8)
    (hto : s.dev.coreTo a = .umr ma) (hn : maNode ma = none) (hfit : ma % 64 + bs.length ≤ 64)
    (hbehind : s.dev.coreBehind h a = false) (hfull : s.dev.bufFull h (.store ma bs) = false)
    (hl : tget (s.dev.core h).lines (ma / 64) = none)
    (hroom : ((s.dev.core h).lines.filter (fun p => p.1 % 2048 == ma / 64 % 2048 && !leaving p.2.st)).length < 16) :
    ∃ d, exec (.coreStore h a bs .pma) s = .next { s with dev := d } ∧
      d.coh.noc = s.dev.coh.noc ++ [{ kind := .rdUnique, who := .core h, addr := 64 * (ma / 64) }] ∧
      tget (d.core h).lines (ma / 64) = some { st := .imD, acc := [.store ma bs] } ∧ d.mem = s.dev.mem := by
  have hcore := Dev.passBars_core (d := s.dev) (h := h)
  have hne : bs ≠ [] := fun hnil => by rw [hnil] at hlen; simp at hlen
  have hl' : tget ((s.dev.passBars h).core h).lines (ma / 64) = none := by rw [hcore]; exact hl
  have hrun := ((coreStore_cached (d := s.dev.passBars h) hto hn ((Dev.passBars_coreBehind a).trans hbehind)
    ((Dev.passBars_bufFull _).trans hfull)).trans (Dev.coreTry_storeMiss rfl hfit hne hl')).trans
      (Dev.wantLine_miss hl' (by rw [hcore]; exact hroom) _)
  refine ⟨_, exec_coreStore hmay hlen hrun, rfl, ?_, rfl⟩
  rw [Dev.core_modCore_self, Dev.coreAsk, Dev.core_send, Dev.core_modCore_self]
  exact tget_tput_self _ _ _

theorem exec_coreLoad_vat {v : Nat} {rd : Fin 32} {wl : Fin 4} {ty : Pbmt} (hmay : s.dev.coreMay h .load = true)
    (hto : s.dev.coreTo a = .vat v) (hdom : (s.dev.core h).domEn = true) (hal : a.toNat % 2 ^ wl.val = 0)
    (hopen : s.dev.vatOpen (s.dev.core h).ctx v (2 ^ wl.val) = true) (hops : s.dev.anvil.ops = [])
    (hloads : (s.dev.core h).loads = []) :
    ∃ d, exec (.coreLoad h false rd a wl false ty []) s = .next { s with dev := d } ∧ OnlyCore h s.dev d ∧
      (d.core h).rx rd = (if rd.val = 0 then 0 else
        BitVec.ofNat 64 (ofLe (s.dev.overlay (.core h) (ownAddr (vatOff v)) (s.dev.rd (vatOff v) (2 ^ wl.val))) %
          2 ^ (8 * 2 ^ wl.val))) := by
  have hcore := Dev.passBars_core (d := s.dev) (h := h)
  have hrun := coreLoad_vat (d := s.dev.passBars h) (rd := rd) (ext := []) (ty := ty) hto (by rw [hcore]; exact hdom) hal
    (by rw [hcore]; exact hopen) hops (by rw [hcore]; exact hloads)
  refine ⟨_, exec_coreLoad hmay hrun, Dev.passBars_onlyCore _ _, ?_⟩
  rw [Dev.core_modCore_self, Dev.core_modCore_self, hcore]
  exact Core.loaded_rx _ _ _

theorem exec_coreStore_vat {v : Nat} {bs : List Byte} {ty : Pbmt} (hmay : s.dev.coreMay h .store = true)
    (hlen : bs.length = 1 ∨ bs.length = 2 ∨ bs.length = 4 ∨ bs.length = 8)
    (hto : s.dev.coreTo a = .vat v) (hdom : (s.dev.core h).domEn = true) (hal : a.toNat % bs.length = 0)
    (hopen : s.dev.vatOpen (s.dev.core h).ctx v bs.length = true) (hbehind : s.dev.coreBehind h a = false) :
    ∃ d, exec (.coreStore h a bs ty) s = .next { s with dev := d } ∧ d.mem = cellsPut s.dev.mem (vatOff v) bs ∧
      d.coh = s.dev.coh ∧ d.engines = s.dev.engines := by
  have hcore := Dev.passBars_core (d := s.dev) (h := h)
  have hrun := coreStore_vat (d := s.dev.passBars h) (ty := ty) hto (by rw [hcore]; exact hdom) hal hlen
    (by rw [hcore]; exact hopen) ((Dev.passBars_coreBehind a).trans hbehind)
  exact ⟨_, exec_coreStore hmay hlen hrun, rfl, rfl, rfl⟩

/-- A trap to M-mode. -/
theorem Dev.exc_m {d : Dev} {cause : Nat} {tval : Word} (hm : ((d.core h).priv != .m && bit ((d.core h).csrOf 0x302) cause) = false) :
    ((d.exc h cause tval).core h).mcause = BitVec.ofNat 64 cause ∧ ((d.exc h cause tval).core h).mtval = tval ∧
      ((d.exc h cause tval).core h).priv = .m ∧ (d.exc h cause tval).mem = d.mem ∧ (d.exc h cause tval).coh = d.coh := by
  unfold Dev.exc
  dsimp only
  rw [hm]
  unfold Dev.trap
  dsimp only
  refine ⟨?_, ?_, ?_, rfl, rfl⟩
  all_goals rw [Dev.core_modCore_self]
  all_goals rfl

theorem exec_coreStore_fault {bs : List Byte} (hmay : s.dev.coreMay h .store = true) (hto : s.dev.coreTo a = .fault)
    (hlen : bs.length = 8) (hm : ¬((s.dev.core h).priv ≠ .m ∧ bit ((s.dev.core h).csrOf 0x302) 7 = true)) :
    ∃ d, exec (.coreStore h a bs .pma) s = .next { s with dev := d } ∧ (d.core h).mcause = 7 ∧ (d.core h).mtval = a ∧
      (d.core h).priv = .m ∧ d.mem = s.dev.mem ∧ d.coh = s.dev.coh := by
  have hcore := Dev.passBars_core (d := s.dev) (h := h)
  have hm' : ((s.dev.core h).priv != .m && bit ((s.dev.core h).csrOf 0x302) 7) = false := by simpa using hm
  obtain ⟨hcause, htval, hpriv, hmem, hcoh⟩ := Dev.exc_m (d := s.dev.passBars h) (h := h) (cause := 7) (tval := a)
    (by rw [hcore]; exact hm')
  refine ⟨_, exec_coreStore hmay (.inr (.inr (.inr hlen))) (coreStore_fault (d := s.dev.passBars h) hto), ?_, ?_, ?_, hmem, hcoh⟩
  all_goals rw [Dev.core_modCore_self]
  · exact hcause
  · exact htval
  · exact hpriv

end Accesses

/-- Settles O31: each access runs past the hart's barriers as its rule says. A load that hits reads its line with the bytes
that the hart's own writes put over it, of which its lines hold none where no access waits; what misses asks the home. -/
theorem coresLoadAndStore : Obligations.CoresLoadAndStore := by
  intro s h a
  refine ⟨fun ma rd wl sg ext hmay hto hn hfit => ⟨fun l hl hst hpsn hloads => ⟨fun haccs => ?_, ?_⟩, fun hl hroom => ?_⟩,
    fun ma bs hmay hlen hto hn hfit hbehind hfull => ⟨fun l hl hst hdata => ?_, fun hl hroom => ?_⟩,
    fun v hto hdom => ⟨fun rd wl ty hmay hal hopen hops hloads => ?_, fun bs ty hmay hlen hal hopen hbehind => ?_⟩,
    fun bs hto hmay hlen hm => ?_⟩
  · have hown : ∀ x b, (s.dev.core h).ownByte x b = b := Core.ownByte_of_noStore (by rw [haccs]; simp)
    simp only [Dev.coreBytes, hown]
    exact congrArg _ (List.zipIdx_map_fst 0 _)
  · exact exec_coreLoad_hit hmay hto hn hfit hl hst hpsn hloads
  · exact exec_coreLoad_miss hmay hto hn hfit hl hroom
  · exact exec_coreStore_hit hmay hlen hto hn hfit hbehind hfull hl hst hdata
  · exact exec_coreStore_miss hmay hlen hto hn hfit hbehind hfull hl hroom
  · exact exec_coreLoad_vat hmay hto hdom hal hopen hops hloads
  · exact exec_coreStore_vat hmay hlen hto hdom hal hopen hbehind
  · exact exec_coreStore_fault hmay hto hlen hm

end Sys2Proof.Machine

/-!
AMO, LR, SC, fences and CBO.ZERO of application cores with nothing of the hart outstanding (R226, R273, R275, R276, R279).
-/
namespace Sys2Proof.Machine

/-! ### A hart with nothing outstanding -/

section Idle
variable {d : Dev} {h : Fin 64}

theorem Dev.stores_of_idle (hst : d.coreStoresOut h = false) :
    (∀ x ∈ d.writes, x.src ≠ .core h) ∧ d.rennetOut (.core h) (fun _ => true) = false ∧ ∀ x ∈ (d.core h).accs, x.storeAt = none := by
  simp only [Dev.coreStoresOut, Bool.or_eq_false_iff, List.any_eq_false] at hst
  obtain ⟨⟨hw, hr⟩, hacc⟩ := hst
  exact ⟨fun x hx => by simpa using hw x hx, hr, fun x hx => by simpa using hacc x hx⟩

/-- Nothing of a hart without stores holds an access of it back. -/
theorem Dev.mustHold_idle (hst : d.coreStoresOut h = false) (p : Path) (t : Target) (mem bank : Bool) :
    d.mustHold (.core h) 0 p t mem bank = false := by
  obtain ⟨hw, hr, hacc⟩ := Dev.stores_of_idle hst
  have hback : d.writes.any (fun w => w.of (.core h) 0 && (w.held || d.holdsBack (.core h) p t mem w)) = false := by
    rw [List.any_eq_false]
    intro w hmem
    rw [OutW.of_core (hw w hmem)]
    simp
  have hline : d.lineStores (.core h) (· == destKey t) = false := by
    rw [Dev.lineStores, List.any_eq_false]
    intro x hx
    rw [hacc x hx]
    simp
  rw [Dev.mustHold, hback, hr, hline]
  simp

theorem Dev.coreBehind_idle (hst : d.coreStoresOut h = false) (a : Word) : d.coreBehind h a = false := Dev.mustHold_idle hst _ _ _ _

theorem Dev.coreBytes_storeless (hst : d.coreStoresOut h = false) (a n : Nat) : d.coreBytes h a n = (d.core h).bytesAt a n := by
  obtain ⟨hw, -, hacc⟩ := Dev.stores_of_idle hst
  exact Dev.coreBytes_idle hw hacc a n

theorem Dev.loads_of_idle (hld : d.coreLoadsOut h = false) : (d.core h).loads = [] := by
  rw [Dev.coreLoadsOut, Bool.or_eq_false_iff] at hld
  simpa using hld.2

theorem Dev.passBars_storesOut : (d.passBars h).coreStoresOut h = d.coreStoresOut h := by
  have haccs : ((d.passBars h).core h).accs = (d.core h).accs := by rw [Dev.passBars_core]; rfl
  simp only [Dev.coreStoresOut, haccs]
  rfl

theorem Dev.passBars_loadsOut : (d.passBars h).coreLoadsOut h = d.coreLoadsOut h := by
  rw [Dev.coreLoadsOut, Dev.passBars_core]
  rfl

/-- The package after an instruction that acquires: what follows it waits for the hart's loads. -/
def Dev.acquired (d : Dev) (h : Fin 64) (aq : Bool) : Dev := if aq then d.setBars h false false true else d

theorem Dev.ordered_idle (hst : d.coreStoresOut h = false) (hld : d.coreLoadsOut h = false) (aq rl : Bool) (f : Dev → Dev) :
    d.ordered_ h aq rl f = (f d).acquired h aq := by
  rw [Dev.ordered_, hst, hld, Bool.or_self, Bool.and_false, if_neg Bool.false_ne_true]
  rfl

/-- A hart as an instruction that acquires leaves it. -/
def Core.acquired (c : Core) (aq : Bool) : Core := { c with rdBar := c.rdBar || aq }

theorem Dev.acquired_core (aq : Bool) : (d.acquired h aq).core h = (d.core h).acquired aq := by
  cases aq with
  | false =>
    rw [Core.acquired, Bool.or_false]
    rfl
  | true =>
    rw [Dev.acquired, if_pos rfl, Dev.setBars, Dev.core_modCore_self, Bool.or_false, Bool.or_false]
    rfl

theorem Dev.acquired_only (aq : Bool) : { d.acquired h aq with cores := d.cores } = d := by cases aq <;> rfl

theorem Dev.acquired_core_ne (aq : Bool) {g : Fin 64} (hg : g ≠ h) : (d.acquired h aq).core g = d.core g := by
  cases aq with
  | false => rfl
  | true =>
    rw [Dev.acquired, if_pos rfl]
    exact Dev.core_modCore_ne _ _ hg

/-- An instruction of the idle hart: past its barriers, with the barrier that it leaves. -/
theorem Dev.onCore_ordered {k : CKind} (hmay : d.coreMay h k = true) (hst : d.coreStoresOut h = false)
    (hld : d.coreLoadsOut h = false) (aq rl : Bool) (f : Dev → Dev) :
    d.onCore h k (fun d => d.ordered_ h aq rl f) = ((f (d.passBars h)).acquired h aq).modCore h Core.stepped := by
  rw [Dev.onCore_go hmay, Dev.ordered_idle (Dev.passBars_storesOut.trans hst) (Dev.passBars_loadsOut.trans hld)]

/-- What the end of an instruction leaves of its hart. -/
theorem Dev.ended_core (aq : Bool) : ((d.acquired h aq).modCore h Core.stepped).core h = ((d.core h).acquired aq).stepped := by
  rw [Dev.core_modCore_self, Dev.acquired_core]

theorem Dev.ended_mem (aq : Bool) : ((d.acquired h aq).modCore h Core.stepped).mem = d.mem := by cases aq <;> rfl
theorem Dev.ended_noc (aq : Bool) : ((d.acquired h aq).modCore h Core.stepped).coh.noc = d.coh.noc := by cases aq <;> rfl

theorem OnlyCore.modCore {e : Dev} (ho : OnlyCore h d e) (f : Core → Core) : OnlyCore h d (e.modCore h f) :=
  ⟨ho.1, fun g hg => (Dev.core_modCore_ne _ _ hg).trans (ho.2 g hg)⟩

theorem OnlyCore.ended {e : Dev} (ho : OnlyCore h d e) (aq : Bool) : OnlyCore h d ((e.acquired h aq).modCore h Core.stepped) := by
  refine OnlyCore.modCore ⟨?_, fun g hg => (Dev.acquired_core_ne aq hg).trans (ho.2 g hg)⟩ _
  cases aq <;> exact ho.1

theorem OnlyCore.passBars : OnlyCore h d (d.passBars h) := ⟨rfl, fun _ hg => Dev.passBars_core_ne hg⟩

end Idle

/-! ### The operations themselves -/

section Atomics
variable {d : Dev} {h : Fin 64} {a v : Word} {rd : Fin 32} {dbl : Bool} {ma : Nat}

theorem coreAmo_umr {op : AmoOp} (hto : d.coreTo a = .umr ma) (hn : maNode ma = none) (hst : d.coreStoresOut h = false)
    (hfit : ma % 64 + (if dbl then 8 else 4) ≤ 64) :
    coreAmo d h op rd a v dbl = (d.modCore h (fun c => { c with amoRd := some (rd, a.toNat) })).send
      { kind := .atomic, who := .core h, addr := ma, atom := .amo op v dbl } := by
  unfold coreAmo
  dsimp only
  rw [hto]
  dsimp only
  rw [hn, Dev.coreBehind_idle hst]
  exact if_pos hfit

/-- A hart whose LR has read `w`. -/
def Core.linked (c : Core) (key granule : Nat) (rd : Fin 32) (w : Word) : Core :=
  { ({ c.l1Touch false key with resv := some granule, resvHold := some granule }).wx rd w with
    loads := [], nextLoad := c.nextLoad + 1 }

theorem coreLr_umr (hto : d.coreTo a = .umr ma) (hn : maNode ma = none) (hal : a.toNat % (if dbl then 8 else 4) = 0)
    (hst : d.coreStoresOut h = false) (hld : d.coreLoadsOut h = false) (h0 : (d.core h).lineReady true (ma / 128 * 2) = true)
    (h1 : (d.core h).lineReady true (ma / 128 * 2 + 1) = true) (hpsn : (d.core h).poisonAt ma (if dbl then 8 else 4) = false) :
    coreLr d h rd a dbl = d.modCore h (fun c => c.linked (ma / 64) (ma / 128) rd
      (sext (8 * (if dbl then 8 else 4)) (ofLe ((d.core h).bytesAt ma (if dbl then 8 else 4))))) := by
  obtain ⟨e, he⟩ : ∃ e : Dev, e = d.modCore h (fun c =>
      { c with loads := c.loads ++ [{ seq := (d.core h).nextLoad, rd := rd }], nextLoad := (d.core h).nextLoad + 1, resv := none }) :=
    ⟨_, rfl⟩
  have hcore : e.core h = { d.core h with
      loads := [{ seq := (d.core h).nextLoad, rd := rd }], nextLoad := (d.core h).nextLoad + 1, resv := none } := by
    rw [he, Dev.core_modCore_self, Dev.loads_of_idle hld]
    rfl
  have hbytes : e.coreBytes h ma (if dbl then 8 else 4) = (d.core h).bytesAt ma (if dbl then 8 else 4) := by
    rw [← Dev.coreBytes_storeless hst]
    exact Dev.coreBytes_congr (by rw [he]; rfl) (by rw [hcore]) (by rw [hcore]) _ _
  have hopen : coreLr d h rd a dbl = e.coreTry h (.lr ma dbl (d.core h).nextLoad) := by
    unfold coreLr
    dsimp only
    rw [hto]
    dsimp only
    rw [hn, if_neg (by simp [hal]), he]
    simp only [Bool.not_true, Bool.false_eq_true, if_false, Dev.newLoad, Dev.modCore_modCore]
  have hready0 : (e.core h).lineReady true (ma / 128 * 2) = true := by rw [hcore]; exact h0
  have hready1 : (e.core h).lineReady true (ma / 128 * 2 + 1) = true := by rw [hcore]; exact h1
  have hclean : (e.core h).poisonAt ma (if dbl then 8 else 4) = false := by rw [hcore]; exact hpsn
  rw [hopen]
  unfold Dev.coreTry
  dsimp only
  unfold Dev.coreOne
  simp only [accLines, accAlone, hready0, hready1, List.find?_cons, List.find?_nil, Bool.not_true]
  unfold Dev.perform
  simp only [hclean, Bool.false_eq_true, if_false, hbytes]
  change (e.modCore h (fun _ => { (e.core h).l1Touch false (ma / 64) with resv := some (ma / 128), resvHold := some (ma / 128) })).loadDone
    h _ _ = _
  rw [Dev.loadDone_only (rd := rd) (by rw [Dev.core_modCore_self, hcore]; rfl), Dev.modCore_modCore, hcore, he, Dev.modCore_modCore]
  refine Dev.modCore_congr ?_
  by_cases hrd : rd.val = 0
  · simp [Core.linked, Core.wx, Core.l1Touch, hrd]
  · simp [Core.linked, Core.wx, Core.l1Touch, hrd]

theorem Core.linked_rx (c : Core) (key granule : Nat) (w : Word) :
    (c.linked key granule rd w).rx rd = if rd.val = 0 then 0 else w := Core.rx_wx_self _ _ _

theorem Core.linked_lines (c : Core) (key granule : Nat) (w : Word) : (c.linked key granule rd w).lines = c.lines :=
  Core.wx_lines _ _ _

theorem Core.linked_resv (c : Core) (key granule : Nat) (w : Word) :
    (c.linked key granule rd w).resv = some granule ∧ (c.linked key granule rd w).resvHold = some granule := by
  simp only [Core.linked, Core.wx]
  split <;> exact ⟨rfl, rfl⟩

theorem coreSc_umr (hto : d.coreTo a = .umr ma) (hn : maNode ma = none) (hal : a.toNat % (if dbl then 8 else 4) = 0)
    (hst : d.coreStoresOut h = false) :
    coreSc d h rd a v dbl =
      (if ((d.core h).resv == some (ma / 128) && (d.core h).lineReady true (ma / 64)) = true then
        (d.perform h (.store ma (leBytes (if dbl then 8 else 4) v.toNat))).modCore h
          (fun c => { c.wx rd 0 with resv := none, resvHold := none })
      else d.modCore h (fun c => { c.wx rd 1 with resv := none, resvHold := none })) := by
  unfold coreSc
  dsimp only
  rw [hto]
  dsimp only
  rw [hn, Dev.coreBehind_idle hst, if_neg (by simp [hal])]
  by_cases hok : ((d.core h).resv == some (ma / 128) && (d.core h).lineReady true (ma / 64)) = true
  · simp only [hok, if_true, Bool.not_true, Bool.false_eq_true, if_false]
  · simp only [hok, if_false, Bool.not_true, Bool.false_eq_true]

theorem cboZero_umr (hto : d.coreTo a = .umr ma) (hn : maNode ma = none) (hst : d.coreStoresOut h = false)
    (hready : (d.core h).lineReady true (ma / 64) = true) : cboZero d h a = d.perform h (.zero (ma / 64 * 64)) := by
  have hkey : ma / 64 * 64 / 64 = ma / 64 := by omega
  unfold cboZero
  dsimp only
  rw [hto]
  dsimp only
  rw [hn]
  simp only [if_true, Dev.coreOut, Dev.bufFull, Dev.mustHold_idle hst, Bool.false_eq_true, if_false]
  unfold Dev.coreTry
  dsimp only
  unfold Dev.coreOne
  simp only [accLines, accAlone, hkey, hready, List.find?_cons, List.find?_nil, Bool.not_true]

theorem Dev.perform_zero (d : Dev) (h : Fin 64) (ad : Nat) :
    (d.perform h (.zero ad)).core h = ((d.core h).setLine (ad / 64) { st := .m, data := zeroLine, fresh := true }).l1Touch false (ad / 64) ∧
      (d.perform h (.zero ad)).coh.noc = d.coh.noc ∧ (d.perform h (.zero ad)).mem = d.mem := by
  have hcore : (d.setCore h (((d.core h).setLine (ad / 64) { st := .m, data := zeroLine, fresh := true }).l1Touch false (ad / 64))).core h =
      ((d.core h).setLine (ad / 64) { st := .m, data := zeroLine, fresh := true }).l1Touch false (ad / 64) := tgetD_tput_self _ _ _ _
  unfold Dev.perform
  dsimp only
  split
  · exact ⟨hcore, rfl, rfl⟩
  · exact ⟨hcore, rfl, rfl⟩

end Atomics

/-! ### Instructions -/

section Instructions
variable {s : State} {h : Fin 64} {rd : Fin 32} {a v : Word} {dbl aq rl : Bool} {ma : Nat}

theorem exec_coreAmo_umr {op : AmoOp} (hto : s.dev.coreTo a = .umr ma) (hn : maNode ma = none)
    (hfit : ma % 64 + (if dbl then 8 else 4) ≤ 64) (hst : s.dev.coreStoresOut h = false) (hld : s.dev.coreLoadsOut h = false)
    (hmay : s.dev.coreMay h .both = true) :
    ∃ d, exec (.coreAmo h op rd a v dbl aq rl) s = .next { s with dev := d } ∧ (d.core h).amoRd = some (rd, a.toNat) ∧
      d.coh.noc = s.dev.coh.noc ++ [{ kind := .atomic, who := .core h, addr := ma, atom := .amo op v dbl }] ∧
      d.mem = s.dev.mem ∧ (∀ r : Fin 32, (d.core h).rx r = (s.dev.core h).rx r) := by
  have hrun := coreAmo_umr (d := s.dev.passBars h) (rd := rd) (v := v) (op := op) hto hn (Dev.passBars_storesOut.trans hst) hfit
  refine ⟨_, exec_onDev (f := fun d => d.onCore h .both (fun d => d.ordered_ h aq rl (fun d => coreAmo d h op rd a v dbl))) rfl
    ((Dev.onCore_ordered hmay hst hld aq rl _).trans (by rw [hrun])), ?_, ?_, ?_, fun r => ?_⟩
  · rw [Dev.ended_core, Dev.core_send, Dev.core_modCore_self]
    rfl
  · rw [Dev.ended_noc]
    rfl
  · rw [Dev.ended_mem, Dev.send_mem, Dev.modCore_mem]
    rfl
  · rw [Dev.ended_core, Dev.core_send, Dev.core_modCore_self, Dev.passBars_core]
    rfl

theorem exec_coreLr_umr (hto : s.dev.coreTo a = .umr ma) (hn : maNode ma = none) (hal : a.toNat % (if dbl then 8 else 4) = 0)
    (hst : s.dev.coreStoresOut h = false) (hld : s.dev.coreLoadsOut h = false) (hmay : s.dev.coreMay h .load = true)
    (h0 : (s.dev.core h).lineReady true (ma / 128 * 2) = true) (h1 : (s.dev.core h).lineReady true (ma / 128 * 2 + 1) = true)
    (hpsn : (s.dev.core h).poisonAt ma (if dbl then 8 else 4) = false) :
    ∃ d, exec (.coreLr h rd a dbl aq rl) s = .next { s with dev := d } ∧ OnlyCore h s.dev d ∧
      (d.core h).rx rd = (if rd.val = 0 then 0 else
        sext (8 * (if dbl then 8 else 4)) (ofLe ((s.dev.core h).bytesAt ma (if dbl then 8 else 4)))) ∧
      (d.core h).resv = some (ma / 128) ∧ (d.core h).resvHold = some (ma / 128) ∧ (d.core h).lines = (s.dev.core h).lines := by
  have hcore := Dev.passBars_core (d := s.dev) (h := h)
  have hrun := coreLr_umr (d := s.dev.passBars h) (rd := rd) hto hn hal (Dev.passBars_storesOut.trans hst)
    (Dev.passBars_loadsOut.trans hld) (by rw [hcore]; exact h0) (by rw [hcore]; exact h1) (by rw [hcore]; exact hpsn)
  have hbytes : ∀ n, ((s.dev.passBars h).core h).bytesAt ma n = (s.dev.core h).bytesAt ma n := fun n =>
    Core.bytesAt_congr (by rw [hcore]; rfl) n ma
  have hlinked := Core.linked_resv (rd := rd) ((s.dev.passBars h).core h) (ma / 64) (ma / 128)
    (sext (8 * (if dbl then 8 else 4)) (ofLe ((s.dev.core h).bytesAt ma (if dbl then 8 else 4))))
  rw [hbytes] at hrun
  refine ⟨_, exec_onDev (f := fun d => d.onCore h .load (fun d => d.ordered_ h aq rl (fun d => coreLr d h rd a dbl))) rfl
    ((Dev.onCore_ordered hmay hst hld aq rl _).trans (by rw [hrun])), (OnlyCore.passBars.modCore _).ended aq, ?_, ?_, ?_, ?_⟩
  all_goals rw [Dev.ended_core, Dev.core_modCore_self]
  · exact Core.linked_rx _ _ _ _
  · exact hlinked.1
  · exact hlinked.2
  · exact (Core.linked_lines _ _ _ _).trans (by rw [hcore]; rfl)

theorem exec_coreSc_ok {l : CLine} (hto : s.dev.coreTo a = .umr ma) (hn : maNode ma = none)
    (hal : a.toNat % (if dbl then 8 else 4) = 0) (hfit : ma % 64 + (if dbl then 8 else 4) ≤ 64)
    (hst : s.dev.coreStoresOut h = false) (hld : s.dev.coreLoadsOut h = false) (hmay : s.dev.coreMay h .store = true)
    (hresv : (s.dev.core h).resv = some (ma / 128)) (hl : tget (s.dev.core h).lines (ma / 64) = some l)
    (hlst : l.st = .m ∨ l.st = .e) (hdata : l.data.length = 64) :
    ∃ d, exec (.coreSc h rd a v dbl aq rl) s = .next { s with dev := d } ∧ (d.core h).rx rd = 0 ∧ (d.core h).resv = none ∧
      tget (d.core h).lines (ma / 64) =
        some { l with st := .m, data := putAt l.data (ma % 64) (leBytes (if dbl then 8 else 4) v.toNat) } ∧
      d.mem = s.dev.mem := by
  have hcore := Dev.passBars_core (d := s.dev) (h := h)
  have hok : lineOk true l.st = true := by rcases hlst with hlst | hlst <;> rw [hlst] <;> rfl
  have hl' : tget ((s.dev.passBars h).core h).lines (ma / 64) = some l := by rw [hcore]; exact hl
  have hready : ((s.dev.passBars h).core h).lineReady true (ma / 64) = true := by rw [Core.lineReady, hl']; exact hok
  have hresv' : ((s.dev.passBars h).core h).resv = some (ma / 128) := by rw [hcore]; exact hresv
  have hrun := coreSc_umr (d := s.dev.passBars h) (rd := rd) (v := v) hto hn hal (Dev.passBars_storesOut.trans hst)
  rw [if_pos (by rw [hresv', hready]; simp)] at hrun
  have hlen : (leBytes (if dbl then 8 else 4) v.toNat).length = if dbl then 8 else 4 := leBytes_length _ _
  have hpos : 0 < if dbl then 8 else 4 := by split <;> decide
  have hne : leBytes (if dbl then 8 else 4) v.toNat ≠ [] := List.ne_nil_of_length_pos (by rw [hlen]; exact hpos)
  obtain ⟨hc, -, hmem⟩ := (s.dev.passBars h).perform_store h ma (leBytes (if dbl then 8 else 4) v.toNat)
  refine ⟨_, exec_onDev (f := fun d => d.onCore h .store (fun d => d.ordered_ h aq rl (fun d => coreSc d h rd a v dbl))) rfl
    ((Dev.onCore_ordered hmay hst hld aq rl _).trans (by rw [hrun])), ?_, ?_, ?_, ?mem⟩
  case mem =>
    rw [Dev.ended_mem, Dev.modCore_mem, hmem]
    rfl
  all_goals rw [Dev.ended_core, Dev.core_modCore_self, hc]
  · exact (Core.rx_wx_self _ _ _).trans (ite_self _)
  · rfl
  · exact (congrArg (tget · (ma / 64)) (Core.wx_lines _ _ _)).trans
      (Core.putBytes_line hl' hdata rfl (by rw [hlen]; exact hfit) (.inr hne))

theorem exec_coreSc_failed (hto : s.dev.coreTo a = .umr ma) (hn : maNode ma = none) (hal : a.toNat % (if dbl then 8 else 4) = 0)
    (hst : s.dev.coreStoresOut h = false) (hld : s.dev.coreLoadsOut h = false) (hmay : s.dev.coreMay h .store = true)
    (hresv : (s.dev.core h).resv ≠ some (ma / 128)) :
    ∃ d, exec (.coreSc h rd a v dbl aq rl) s = .next { s with dev := d } ∧ OnlyCore h s.dev d ∧
      (d.core h).rx rd = (if rd.val = 0 then 0 else 1) ∧ (d.core h).resv = none ∧ (d.core h).lines = (s.dev.core h).lines := by
  have hcore := Dev.passBars_core (d := s.dev) (h := h)
  have hresv' : ((s.dev.passBars h).core h).resv ≠ some (ma / 128) := by rw [hcore]; exact hresv
  have hrun := coreSc_umr (d := s.dev.passBars h) (rd := rd) (v := v) hto hn hal (Dev.passBars_storesOut.trans hst)
  rw [if_neg (by simp [hresv'])] at hrun
  refine ⟨_, exec_onDev (f := fun d => d.onCore h .store (fun d => d.ordered_ h aq rl (fun d => coreSc d h rd a v dbl))) rfl
    ((Dev.onCore_ordered hmay hst hld aq rl _).trans (by rw [hrun])), (OnlyCore.passBars.modCore _).ended aq, ?_, ?_, ?_⟩
  all_goals rw [Dev.ended_core, Dev.core_modCore_self]
  · exact Core.rx_wx_self _ _ _
  · rfl
  · exact (Core.wx_lines _ _ _).trans (by rw [hcore]; rfl)

theorem exec_cboZero_ok {l : CLine} (hto : s.dev.coreTo a = .umr ma) (hn : maNode ma = none)
    (hst : s.dev.coreStoresOut h = false) (hmay : s.dev.coreMay h .store = true)
    (hl : tget (s.dev.core h).lines (ma / 64) = some l) (hlst : l.st = .m ∨ l.st = .e) :
    ∃ d, exec (.cboZero h a) s = .next { s with dev := d } ∧
      tget (d.core h).lines (ma / 64) = some { st := .m, data := zeroLine, fresh := true } ∧ d.mem = s.dev.mem ∧
      d.coh.noc = s.dev.coh.noc := by
  have hcore := Dev.passBars_core (d := s.dev) (h := h)
  have hok : lineOk true l.st = true := by rcases hlst with hlst | hlst <;> rw [hlst] <;> rfl
  have hl' : tget ((s.dev.passBars h).core h).lines (ma / 64) = some l := by rw [hcore]; exact hl
  have hready : ((s.dev.passBars h).core h).lineReady true (ma / 64) = true := by rw [Core.lineReady, hl']; exact hok
  have hrun := cboZero_umr (d := s.dev.passBars h) hto hn (Dev.passBars_storesOut.trans hst) hready
  obtain ⟨hc, hnoc, hmem⟩ := (s.dev.passBars h).perform_zero h (ma / 64 * 64)
  refine ⟨_, exec_onDev (f := fun d => d.onCore h .store (fun d => cboZero d h a)) rfl
    ((Dev.onCore_go hmay _).trans (congrArg (Dev.modCore · h Core.stepped) hrun)), ?_, hmem, hnoc⟩
  rw [Dev.core_modCore_self, hc, show ma / 64 * 64 / 64 = ma / 64 by omega]
  exact tget_tput_self _ _ _

/-- A hart as a full fence leaves it. -/
def Core.fenced (c : Core) : Core :=
  { c with stBar := true, ldBar := true, rdBar := true, run := .running, halted := c.stepping, stepping := false }

theorem exec_coreFence_full (hrun : (s.dev.core h).run ≠ .reset) (hhalt : (s.dev.core h).halted = false) :
    exec (.coreFence h 3 3 false) s = .next { s with dev := s.dev.modCore h Core.fenced } := by
  have hfence : coreFence s.dev h 3 3 false = s.dev.setBars h true true true := by simp [coreFence, bit, fld]
  change execCoreFence h 3 3 false s = _
  rw [execCoreFence, onDev_eq, if_neg (by simp [hrun, hhalt]), hfence, Dev.setBars, Dev.modCore_modCore]
  have hsame : s.dev.modCore h (fun c => { { c with stBar := c.stBar || true, ldBar := c.ldBar || true, rdBar := c.rdBar || true } with
      run := .running, halted := c.stepping, stepping := false }) = s.dev.modCore h Core.fenced :=
    Dev.modCore_congr (by simp [Core.fenced])
  exact congrArg (fun d => Host.Outcome.next { s with dev := d }) hsame

end Instructions

/-- Settles O32: with nothing of the hart outstanding, nothing holds its atomics back and it reads its lines as they are. -/
theorem coresUseAtomicsAndFences : Obligations.CoresUseAtomicsAndFences := by
  intro s h rd a v dbl aq rl ma hto hn hal hfit hst hld n c
  refine ⟨fun op hmay => exec_coreAmo_umr hto hn hfit hst hld hmay,
    fun hmay h0 h1 hpsn => exec_coreLr_umr hto hn hal hst hld hmay h0 h1 hpsn,
    fun l hmay hresv hl hlst hdata => exec_coreSc_ok hto hn hal hfit hst hld hmay hresv hl hlst hdata,
    fun hmay hresv => exec_coreSc_failed hto hn hal hst hld hmay hresv,
    fun l hmay hl hlst => exec_cboZero_ok hto hn hst hmay hl hlst, fun hrun hhalt => ?_, fun hmay => ?_⟩
  · refine ⟨_, exec_coreFence_full hrun hhalt, ⟨rfl, fun g hg => Dev.core_modCore_ne _ _ hg⟩, ?_⟩
    rw [Dev.core_modCore_self]
    exact ⟨rfl, rfl, rfl, rfl, rfl⟩
  · refine ⟨_, exec_onDev (f := fun d => d.onCore h .load (fun d => d)) rfl (Dev.onCore_go hmay _),
      OnlyCore.passBars.modCore _, ?_⟩
    rw [Dev.core_modCore_self, Dev.passBars_core]
    exact ⟨rfl, rfl, rfl⟩

end Sys2Proof.Machine

/-!
spdom, traps, unbacked stores and the timer of application cores (R275, R292, R295, R296, R300).
-/
namespace Sys2Proof.Machine

/-! ### Traps (R295) -/

section Trap
variable {d : Dev} {h : Fin 64} {intr : Bool} {cause : Nat} {tv : Word}

/-- A trap vector without mode bits is its own base. -/
theorem vector_base {x : Word} (hx : x &&& 3 = 0) : x &&& ~~~3#64 = x := by
  have hsplit : (x &&& 3#64) ||| (x &&& ~~~3#64) = x := by
    rw [← BitVec.and_or_distrib_left, BitVec.or_not_self, BitVec.and_allOnes]
  rw [show x &&& 3#64 = 0 from hx] at hsplit
  simpa using hsplit

theorem vector_pc {x : Word} (hx : x &&& 3 = 0) :
    (if (intr && decide (x &&& 3#64 = 1)) = true then (x &&& ~~~3#64) + BitVec.ofNat 64 (4 * cause) else x &&& ~~~3#64) = x := by
  rw [show x &&& 3#64 = 0 from hx, vector_base hx, if_neg (by simp)]

/-- What a trap to any mode keeps of a hart's lines, registers and stores. -/
structure Dev.Trapped (d : Dev) (h : Fin 64) (e : Dev) : Prop where
  resv : (e.core h).resv = none
  x : (e.core h).x = (d.core h).x
  writes : e.writes = d.writes
  mem : e.mem = d.mem
  lines : ∀ k, (tget (e.core h).lines k).map (fun l => (l.st, l.data)) = (tget (d.core h).lines k).map (fun l => (l.st, l.data))

theorem Core.discard_lines (c : Core) : ∃ keep : CAcc → Bool,
    c.discard.lines = c.lines.map (fun p => (p.1, { p.2 with acc := p.2.acc.filter keep })) := ⟨_, rfl⟩

theorem Core.discard_line (c : Core) (k : Nat) :
    (tget c.discard.lines k).map (fun l => (l.st, l.data)) = (tget c.lines k).map (fun l => (l.st, l.data)) := by
  obtain ⟨keep, hlines⟩ := c.discard_lines
  have hmap := tget_map (fun l : CLine => { l with acc := l.acc.filter keep }) c.lines k
  rw [hlines]
  exact (congrArg (Option.map _) hmap).trans (by rw [Option.map_map]; rfl)

/-- The code that a trap leaves in its cause register. -/
def trapCode (intr : Bool) (cause : Nat) : Word := BitVec.ofNat 64 (cause + if intr then 2 ^ 63 else 0)

/-- A trap to M-mode. -/
theorem Dev.trap_m : d.Trapped h (d.trap h intr cause tv false) ∧ ((d.trap h intr cause tv false).core h).mcause = trapCode intr cause ∧
    ((d.trap h intr cause tv false).core h).mtval = tv ∧ ((d.trap h intr cause tv false).core h).priv = .m ∧
    ((d.trap h intr cause tv false).core h).scause = (d.core h).scause ∧
    ((d.core h).mtvec &&& 3 = 0 → ((d.trap h intr cause tv false).core h).pc = (d.core h).mtvec) := by
  unfold Dev.trap
  dsimp only
  refine ⟨⟨?_, ?_, rfl, rfl, fun k => ?_⟩, ?_, ?_, ?_, ?_, fun hv => ?_⟩
  all_goals rw [Dev.core_modCore_self]
  · rfl
  · rfl
  · exact Core.discard_line _ _
  · rfl
  · rfl
  · rfl
  · rfl
  · exact vector_pc hv

theorem Dev.trap_m_imp : ((d.trap h intr cause tv false).core h).imp = (d.core h).imp ∧
    ((d.trap h intr cause tv false).core h).impAddr = (d.core h).impAddr := by
  unfold Dev.trap
  dsimp only
  rw [Dev.core_modCore_self]
  exact ⟨rfl, rfl⟩

/-- A trap to HS-mode. -/
theorem Dev.trap_hs (hvs : (d.core h).toVs intr cause = false) : d.Trapped h (d.trap h intr cause tv true) ∧
    ((d.trap h intr cause tv true).core h).scause = trapCode intr cause ∧ ((d.trap h intr cause tv true).core h).stval = tv ∧
    ((d.trap h intr cause tv true).core h).priv = .hs ∧ ((d.trap h intr cause tv true).core h).mcause = (d.core h).mcause ∧
    ((d.core h).stvec &&& 3 = 0 → ((d.trap h intr cause tv true).core h).pc = (d.core h).stvec) := by
  have hvs' : (d.draw.2.core h).toVs intr cause = false := hvs
  unfold Dev.trap
  dsimp only
  refine ⟨⟨?_, ?_, rfl, rfl, fun k => ?_⟩, ?_, ?_, ?_, ?_, fun hv => ?_⟩
  all_goals rw [Dev.core_modCore_self, hvs']
  · rfl
  · rfl
  · exact Core.discard_line _ _
  · rfl
  · rfl
  · rfl
  · rfl
  · exact vector_pc hv

/-- A trap to VS-mode. -/
theorem Dev.trap_vs (hvs : (d.core h).toVs intr cause = true) : d.Trapped h (d.trap h intr cause tv true) ∧
    ((d.trap h intr cause tv true).core h).csrOf 0x242 = (trapCode intr cause).toNat ∧
    ((d.trap h intr cause tv true).core h).csrOf 0x243 = tv.toNat ∧
    ((d.trap h intr cause tv true).core h).priv = .vs ∧ ((d.trap h intr cause tv true).core h).mcause = (d.core h).mcause ∧
    ((d.trap h intr cause tv true).core h).scause = (d.core h).scause := by
  have hvs' : (d.draw.2.core h).toVs intr cause = true := hvs
  unfold Dev.trap
  dsimp only
  refine ⟨⟨?_, ?_, rfl, rfl, fun k => ?_⟩, ?_, ?_, ?_, ?_, ?_⟩
  all_goals rw [Dev.core_modCore_self, hvs']
  · rfl
  · rfl
  · exact Core.discard_line _ _
  · simp only [Bool.and_self, if_true, Core.csrOf, Core.setCsr, trapCode]
    rw [tgetD_tput_ne _ _ _ (by decide), tgetD_tput_ne _ _ _ (by decide), tgetD_tput_self, BitVec.ofNat_toNat, BitVec.setWidth_eq]
  · simp only [Bool.and_self, if_true, Core.csrOf, Core.setCsr]
    rw [tgetD_tput_ne _ _ _ (by decide), tgetD_tput_self, BitVec.ofNat_toNat, BitVec.setWidth_eq]
  · rfl
  · rfl
  · rfl

/-- A hart that may trap does. -/
theorem exec_coreTrap {s : State} {code : BitVec 6} {toS : Bool} (hrun : (s.dev.core h).run ≠ .reset)
    (hhalt : (s.dev.core h).halted = false) (hamo : (s.dev.core h).amoRd = none) :
    exec (.coreTrap h intr code tv toS) s = .next { s with dev := s.dev.trap h intr code.toNat tv toS } := by
  change execCoreTrap h intr code tv toS s = _
  rw [execCoreTrap, onDev_eq, if_neg (by simp [hrun, hhalt, hamo])]

end Trap

/-! ### spdom, unbacked stores and the timer -/

section Rows
variable {d : Dev} {h : Fin 64}

/-- R292: the bits of spdom that hold a value. -/
theorem spdom_bits (v : Word) (i : Nat) :
    (v &&& 0x80000000000FFFFF#64).getLsbD i = (v.getLsbD i && (decide (i < 20) || decide (i = 63))) := by
  have hmask : ∀ j : Fin 64, (0x80000000000FFFFF#64).getLsbD j = (decide (j.val < 20) || decide (j.val = 63)) := by decide
  rw [BitVec.getLsbD_and]
  by_cases hi : i < 64
  · rw [hmask ⟨i, hi⟩]
  · rw [BitVec.getLsbD_of_ge v i (by omega), Bool.false_and, Bool.false_and]

theorem spdomWrite_priv (v : Word) (hp : (d.core h).priv = .m ∨ (d.core h).priv = .hs) :
    spdomWrite d h v = d.modCore h (fun c => { c with spdom := v &&& 0x80000000000FFFFF#64 }) := by
  unfold spdomWrite
  rcases hp with hp | hp <;> rw [hp]

theorem Dev.setPState_harts (d : Dev) (p : PState) :
    (d.setPState p).cores = d.cores ∧ (d.setPState p).mem = d.mem ∧ (d.setPState p).engines = d.engines := ⟨rfl, rfl, rfl⟩

/-- A Glowing package that wakes leaves its harts and its memory. -/
theorem glowExit_harts (d : Dev) : (glowExit d).cores = d.cores ∧ (glowExit d).mem = d.mem ∧ (glowExit d).engines = d.engines := by
  have hunpark : d.unpark_.cores = d.cores ∧ d.unpark_.mem = d.mem ∧ d.unpark_.engines = d.engines :=
    Dev.mapDoms_keeps (fun e => e.cores = d.cores ∧ e.mem = d.mem ∧ e.engines = d.engines) (fun _ _ _ he => he) _ ⟨rfl, rfl, rfl⟩
  unfold glowExit
  split
  · obtain ⟨hcores, hmem, heng⟩ := d.unpark_.setPState_harts .working
    exact ⟨hcores.trans hunpark.1, hmem.trans hunpark.2.1, heng.trans hunpark.2.2⟩
  · exact ⟨rfl, rfl, rfl⟩

end Rows

/-- Settles O33: a trap writes the registers of the mode that takes it, and no line's state or bytes. -/
theorem coresTrapAndKeepTheirDomain : Obligations.CoresTrapAndKeepTheirDomain := by
  intro s h c
  refine ⟨fun v hmay hld hp => ?_, ?traps, fun a hrun hm => ?_, fun hcmp => ?_⟩
  case traps =>
    intro intr cause tv hrun hhalt hamo same code
    refine ⟨?_, fun hvs => ?_, fun hvs => ?_⟩
    · obtain ⟨⟨hresv, hx, hw, hmem, hlines⟩, hcause, htval, hpriv, hscause, hpc⟩ :=
        Dev.trap_m (d := s.dev) (h := h) (intr := intr) (cause := cause.toNat) (tv := tv)
      exact ⟨_, exec_coreTrap hrun hhalt hamo, hcause, htval, hpriv, hscause, ⟨hresv, hx, hw, hmem, hlines⟩, hpc⟩
    · obtain ⟨⟨hresv, hx, hw, hmem, hlines⟩, hcause, htval, hpriv, hmcause, hpc⟩ :=
        Dev.trap_hs (d := s.dev) (h := h) (tv := tv) hvs
      exact ⟨_, exec_coreTrap hrun hhalt hamo, hcause, htval, hpriv, hmcause, ⟨hresv, hx, hw, hmem, hlines⟩, hpc⟩
    · obtain ⟨⟨hresv, hx, hw, hmem, hlines⟩, hcause, htval, hpriv, hmcause, hscause⟩ :=
        Dev.trap_vs (d := s.dev) (h := h) (tv := tv) hvs
      exact ⟨_, exec_coreTrap hrun hhalt hamo, hcause, htval, hpriv, hmcause, hscause, ⟨hresv, hx, hw, hmem, hlines⟩⟩
  · have hspdom := spdomWrite_priv (d := s.dev.passBars h) v (by rw [Dev.passBars_core]; exact hp)
    refine ⟨_, exec_onDev (f := fun d => if d.coreLoadsOut h then d else d.onCore h .load (fun d => spdomWrite d h v)) rfl
      ((if_neg (by simp [hld])).trans ((Dev.onCore_go hmay _).trans (congrArg (Dev.modCore · h Core.stepped) hspdom))),
      (OnlyCore.passBars.modCore _).modCore _, ?_⟩
    rw [Dev.core_modCore_self, Dev.core_modCore_self, Dev.passBars_core]
    exact ⟨spdom_bits v, rfl⟩
  · obtain ⟨e, he⟩ : ∃ e : Dev, e = s.dev.modCore h (fun c => { c with imp := true, impAddr := a }) := ⟨_, rfl⟩
    have hcore : e.core h = { s.dev.core h with imp := true, impAddr := a } := by
      rw [he]
      exact Dev.core_modCore_self _ _ _
    have hm' : ((e.core h).priv != .m && bit ((e.core h).csrOf 0x302) 7) = false := by
      rw [hcore]
      have hmode : ((s.dev.core h).priv != .m && bit ((s.dev.core h).csrOf 0x302) 7) = false :=
        Bool.eq_false_iff.2 fun hd => hm (by simpa using hd)
      exact hmode
    have hstore : s.dev.unbackedStore h a = e.trap h false 7 a false := by
      rw [Dev.unbackedStore, ← he, Dev.exc, hm']
    obtain ⟨htrapped, hcause, htval, hpriv, -, -⟩ := Dev.trap_m (d := e) (h := h) (intr := false) (cause := 7) (tv := a)
    obtain ⟨himp, haddr⟩ := Dev.trap_m_imp (d := e) (h := h) (intr := false) (cause := 7) (tv := a)
    rw [hcore] at himp haddr
    refine ⟨_, exec_onDev (f := fun d => if (d.core h).run = .reset then d else d.unbackedStore h a) rfl
      ((if_neg hrun).trans hstore), himp, haddr, hcause, htval, hpriv, htrapped.mem.trans ?_⟩
    rw [he]
    rfl
  · have hgo : mtimerMatch s.dev h = glowExit (s.dev.modCore h (fun c => { c with mtip := true })) := if_neg (Nat.not_lt.2 hcmp)
    obtain ⟨hcores, hmem, heng⟩ := glowExit_harts (s.dev.modCore h (fun c => { c with mtip := true }))
    have hcore : (glowExit (s.dev.modCore h (fun c => { c with mtip := true }))).core h = { s.dev.core h with mtip := true } := by
      rw [Dev.core, hcores]
      exact Dev.core_modCore_self _ _ _
    refine ⟨_, exec_onDev (f := fun d => mtimerMatch d h) rfl hgo, ?_, ?_, hmem, heng⟩
    all_goals rw [hcore]

end Sys2Proof.Machine

/-!
The translation service: walks, prefetches, fault records and ATS (R304, R311 to R316, R331).
-/
namespace Sys2Proof.Machine

/-! ### Walks that end in a leaf -/

section Walks
variable {d : Dev} {h : Half} {c : Nat} {va : Word} {e : Fin 128} {acc : Access} {ua : Word} {w : Walk} {l p : Nat} {ws : List WalkEnt}
  {ext : List Byte}

/-- What the reads of a walk leave behind is heat, and snoops at a home. -/
theorem Dev.walkTouch_only (d : Dev) (h : Half) (c a : Nat) (ext : List Byte) :
    ∃ t k, d.walkTouch h c a ext = { d with tiers := t, coh := k } := by
  unfold Dev.walkTouch
  split
  · exact ⟨d.tiers, d.coh, rfl⟩
  · refine foldDev_keeps (fun x => ∃ t k, x = { d with tiers := t, coh := k }) (fun x a ⟨t, k, hx⟩ => ?_) _ ⟨d.tiers, d.coh, rfl⟩
    obtain ⟨t', k', hx'⟩ := x.homeTouch_only a 8
    exact ⟨t', k', by rw [hx', hx]⟩

/-- The half of the translation service after a walk ends. -/
def Xlate.walked (x : Xlate) (w : Walk) : Xlate := { x with walks := removeFirst (· == w) x.walks }

/-- The half of the translation service as it holds a leaf for a user. -/
def Xlate.filled (x : Xlate) (holder : TlbHolder) (c a l p : Nat) (ws : List WalkEnt) : Xlate :=
  let ent (t : TlbHolder) : TlbEnt :=
    { holder := t, ctx := c, page := a / 2 ^ (leafHeld l p a).1, sizeLog := (leafHeld l p a).1, pte := BitVec.ofNat 64 (leafHeld l p a).2 }
  { x with
    tlb := tlbInsert (tlbInsert x.tlb (ent (if (leafHeld l p a).1 ≤ 16 then .small else .shared))) (ent holder)
    wcache := (x.wcache ++ ws).drop ((x.wcache ++ ws).length - 1024) }

theorem Dev.xfill_eq (holder : TlbHolder) (a : Nat) : d.xfill h holder c a l p ws = d.modXlate h (fun x => x.filled holder c a l p ws) := rfl

theorem mem_tlbInsert (t : List TlbEnt) (x : TlbEnt) : x ∈ tlbInsert t x := by
  unfold tlbInsert
  exact List.mem_append_right _ (List.mem_singleton_self x)

theorem Xlate.filled_mem (x : Xlate) (holder : TlbHolder) (a : Nat) :
    { holder := holder, ctx := c, page := a / 2 ^ (leafHeld l p a).1, sizeLog := (leafHeld l p a).1,
      pte := BitVec.ofNat 64 (leafHeld l p a).2 } ∈ (x.filled holder c a l p ws).tlb := mem_tlbInsert _ _

/-- A walk for one engine that ends in a leaf which permits the access. -/
theorem walkDone_permitted (hw : ((Two.get d.xlate h).walks.take 32).find? (fun w => w.ctx == c && w.page == va.toNat / 4096) = some w)
    (hu : w.users = [⟨.engine e, acc, ua⟩]) (hleaf : d.walk h c (4096 * w.page) ext = (.leaf l p, ws))
    (hok : leafCheck acc p = none) :
    walkDone d h c va ext = (((d.modXlate h (fun x => x.walked w)).walkTouch h c (4096 * w.page) ext).modXlate h
      (fun x => x.filled (userHolder (.engine e) acc) c (4096 * w.page) l p ws)).unpark (.engine e) := by
  unfold walkDone
  dsimp only
  rw [hw]
  dsimp only
  rw [hleaf]
  dsimp only
  rw [hu]
  simp only [List.filter_cons, hok, Option.isSome_none, Option.isNone_none, Bool.false_eq_true, if_false, if_true, List.filter_nil,
    foldDev, List.foldl_cons, List.foldl_nil, Dev.xfill_eq]
  rfl

/-- The record that a walk for one engine raises. -/
def walkRec (d : Dev) (c cause l : Nat) (acc : Access) (ua : Word) (e : Fin 128) : FRec :=
  { cause := cause, acc := acc, ctx := c, level := l, va := ua, t := 0, src := .engine e, ring := d.userRing (.engine e),
    users := [.engine e] }

theorem walkDone_forbidden {cause : Nat}
    (hw : ((Two.get d.xlate h).walks.take 32).find? (fun w => w.ctx == c && w.page == va.toNat / 4096) = some w)
    (hu : w.users = [⟨.engine e, acc, ua⟩]) (hleaf : d.walk h c (4096 * w.page) ext = (.leaf l p, ws))
    (hbad : leafCheck acc p = some cause) (hended : d.endedUser (.engine e) = false) :
    walkDone d h c va ext = ((d.modXlate h (fun x => x.walked w)).walkTouch h c (4096 * w.page) ext).raiseFault h
      (walkRec d c cause l acc ua e) := by
  have hctx : w.ctx = c := by
    have := List.find?_some hw
    simp only [Bool.and_eq_true, beq_iff_eq] at this
    exact this.1
  obtain ⟨t, k, htouch⟩ := (d.modXlate h (fun x => x.walked w)).walkTouch_only h c (4096 * w.page) ext
  have hended' : ((d.modXlate h (fun x => x.walked w)).walkTouch h c (4096 * w.page) ext).endedUser (.engine e) = false := by
    rw [htouch]
    exact hended
  have hring : ((d.modXlate h (fun x => x.walked w)).walkTouch h c (4096 * w.page) ext).userRing (.engine e) = d.userRing (.engine e) := by
    rw [htouch]
    rfl
  unfold walkDone
  dsimp only
  rw [hw]
  dsimp only
  rw [hleaf]
  dsimp only
  rw [hu]
  simp only [List.filter_cons, hbad, Option.isSome_some, Option.isNone_some, Bool.false_eq_true, if_false, if_true, List.filter_nil,
    foldDev, List.foldl_nil, List.head?_cons, Option.bind_some, Option.getD_some]
  change Dev.faultWalk ((d.modXlate h (fun x => x.walked w)).walkTouch h c (4096 * w.page) ext) h w cause l [⟨.engine e, acc, ua⟩] = _
  generalize (d.modXlate h (fun x => x.walked w)).walkTouch h c (4096 * w.page) ext = x at hended' hring ⊢
  unfold Dev.faultWalk
  simp only [List.filter_cons, hended', Bool.false_eq_true, if_false, if_true, List.filter_nil, foldDev, List.foldl_nil,
    Bool.not_false, List.map_nil, hctx, hring]
  rfl

/-- A record that joins no other takes the lowest free slot, and parks its engine there. -/
theorem Dev.raiseFault_free {r : FRec} {i : Nat}
    (hnew : ∀ q ∈ (Two.get d.xlate h).recs, ¬(q.2.ctx = r.ctx ∧ q.2.va.toNat / 4096 = r.va.toNat / 4096))
    (hslot : freeSlot (Two.get d.xlate h) = some i) (hu : r.users = [.engine e]) :
    d.raiseFault h r = ((d.modXlate h (fun x => { x with recs := tput x.recs i { r with t := d.halfCount h, ord := d.faults.faultNo } })).modFaults
      (fun f => { f with faultNo := f.faultNo + 1 })).park (.engine e) (1024 * halfIdx h + i) := by
  have hfind : (Two.get d.xlate h).recs.find? (fun p => p.2.ctx == r.ctx && p.2.va.toNat / 4096 == r.va.toNat / 4096) = none := by
    rw [List.find?_eq_none]
    intro q hq
    simpa using hnew q hq
  unfold Dev.raiseFault
  dsimp only
  rw [hfind]
  dsimp only
  rw [hslot, hu]
  rfl

theorem exec_walk_permitted {s : State} {ctx : Fin 4096} {v : VaIn}
    (hw : ((Two.get s.dev.xlate h).walks.take 32).find? (fun w => w.ctx == ctx.val && w.page == v.va.toNat / 4096) = some w)
    (hu : w.users = [⟨.engine e, acc, ua⟩]) (hleaf : s.dev.walk h ctx.val (4096 * w.page) v.ext = (.leaf l p, ws))
    (hrun : (s.dev.eng e).run = .walking) (hok : leafCheck acc p = none) :
    ∃ d, exec (.translationWalk h ctx v) s = .next { s with dev := d } ∧ d.eng e = { s.dev.eng e with run := .running } ∧
      { holder := userHolder (.engine e) acc, ctx := ctx.val, page := 4096 * w.page / 2 ^ (leafHeld l p (4096 * w.page)).1,
        sizeLog := (leafHeld l p (4096 * w.page)).1, pte := BitVec.ofNat 64 (leafHeld l p (4096 * w.page)).2 } ∈ (Two.get d.xlate h).tlb ∧
      (Two.get d.xlate h).walks = removeFirst (· == w) (Two.get s.dev.xlate h).walks ∧
      { d with xlate := s.dev.xlate, engines := s.dev.engines, tiers := s.dev.tiers, coh := s.dev.coh } = s.dev := by
  obtain ⟨t, k, htouch⟩ := (s.dev.modXlate h (fun x => x.walked w)).walkTouch_only h ctx.val (4096 * w.page) v.ext
  obtain ⟨x, hx⟩ : ∃ x : Dev, x = ((s.dev.modXlate h (fun x => x.walked w)).walkTouch h ctx.val (4096 * w.page) v.ext).modXlate h
      (fun x => x.filled (userHolder (.engine e) acc) ctx.val (4096 * w.page) l p ws) := ⟨_, rfl⟩
  have heng : x.eng e = s.dev.eng e := by rw [hx, htouch]; rfl
  have hxl : Two.get x.xlate h = ((Two.get s.dev.xlate h).walked w).filled (userHolder (.engine e) acc) ctx.val (4096 * w.page) l p ws := by
    rw [hx, htouch, Dev.modXlate, Dev.modXlate]
    exact (Two.get_mod_self _ _ _).trans (congrArg (fun y : Xlate => y.filled _ _ _ _ _ _) (Two.get_mod_self _ _ _))
  have hrest : { x with xlate := s.dev.xlate, engines := s.dev.engines, tiers := s.dev.tiers, coh := s.dev.coh } = s.dev := by
    rw [hx, htouch]
    rfl
  have hgo : walkDone s.dev h ctx.val v.va v.ext = x.setRun e .running := by
    rw [walkDone_permitted hw hu hleaf hok, ← hx]
    unfold Dev.unpark
    dsimp only
    rw [heng, hrun]
  refine ⟨_, exec_onDev (f := fun d => walkDone d h ctx.val v.va v.ext) rfl hgo, ?_, ?_, ?_, hrest⟩
  · rw [Dev.setRun, Dev.eng_modEng_self, heng]
  · change _ ∈ (Two.get x.xlate h).tlb
    rw [hxl]
    exact Xlate.filled_mem _ _ _
  · change (Two.get x.xlate h).walks = _
    rw [hxl]
    rfl

theorem exec_walk_forbidden {s : State} {ctx : Fin 4096} {v : VaIn} {cause i : Nat}
    (hw : ((Two.get s.dev.xlate h).walks.take 32).find? (fun w => w.ctx == ctx.val && w.page == v.va.toNat / 4096) = some w)
    (hu : w.users = [⟨.engine e, acc, ua⟩]) (hleaf : s.dev.walk h ctx.val (4096 * w.page) v.ext = (.leaf l p, ws))
    (hbad : leafCheck acc p = some cause)
    (hnew : ∀ q ∈ (Two.get s.dev.xlate h).recs, ¬(q.2.ctx = ctx.val ∧ q.2.va.toNat / 4096 = ua.toNat / 4096))
    (hended : s.dev.endedUser (.engine e) = false) (hslot : freeSlot (Two.get s.dev.xlate h) = some i) :
    ∃ d r, exec (.translationWalk h ctx v) s = .next { s with dev := d } ∧
      tget (Two.get d.xlate h).recs i = some r ∧ r.cause = cause ∧ r.acc = acc ∧ r.ctx = ctx.val ∧ r.level = l ∧
      r.va = ua ∧ r.users = [.engine e] ∧ r.written = false ∧
      d.eng e = { s.dev.eng e with run := .parked (1024 * halfIdx h + i), mid := false } ∧ d.mem = s.dev.mem := by
  obtain ⟨t, k, htouch⟩ := (s.dev.modXlate h (fun x => x.walked w)).walkTouch_only h ctx.val (4096 * w.page) v.ext
  obtain ⟨x, hx⟩ : ∃ x : Dev, x = (s.dev.modXlate h (fun x => x.walked w)).walkTouch h ctx.val (4096 * w.page) v.ext := ⟨_, rfl⟩
  have heng : x.eng e = s.dev.eng e := by rw [hx, htouch]; rfl
  have hmem : x.mem = s.dev.mem := by rw [hx, htouch]; rfl
  have hxl : Two.get x.xlate h = (Two.get s.dev.xlate h).walked w := by
    rw [hx, htouch, Dev.modXlate]
    exact Two.get_mod_self _ _ _
  have hgo := walkDone_forbidden hw hu hleaf hbad hended
  rw [← hx, Dev.raiseFault_free (e := e) (i := i) (by rw [hxl]; exact hnew) (by rw [hxl]; exact hslot) rfl] at hgo
  refine ⟨_, { walkRec s.dev ctx.val cause l acc ua e with t := x.halfCount h, ord := x.faults.faultNo },
    exec_onDev (f := fun d => walkDone d h ctx.val v.va v.ext) rfl hgo, ?_, rfl, rfl, rfl, rfl, rfl, rfl, rfl, ?_, hmem⟩
  · exact (congrArg (fun y : Xlate => tget y.recs i) (Two.get_mod_self _ _ _)).trans (tget_tput_self _ _ _)
  · exact (Dev.eng_modEng_self _ _ _).trans (by rw [← heng]; rfl)

end Walks

/-! ### Prefetches (R311) -/

section Prefetch
variable {d : Dev} {h : Half} {c : Nat} {t : Fin 32} {l p : Nat} {ws : List WalkEnt}

/-- Where no transfer has an index list on pages, a prefetch holds no entries of one. -/
theorem Dev.holdAhead_none (hidx : ∀ q ∈ d.tongs, ∀ x ∈ q.2, x.desc.indexed = false ∨ x.desc.isp = true) (page pa : Nat)
    (ext : List Byte) : d.holdAhead h c page t pa ext = d := by
  unfold Dev.holdAhead
  dsimp only
  generalize ((tongsEngines h t).flatMap fun e => (List.finRange 4).map fun c => (e, c)) = ps
  induction ps with
  | nil => rfl
  | cons q ps ih =>
    rw [List.foldl_cons]
    dsimp only
    cases hx : tgetD d.tongs (chanKey q.1 q.2) [] with
    | nil => exact ih
    | cons x xs =>
      dsimp only
      have hmem : ∃ q ∈ d.tongs, x ∈ q.2 := by
        rw [tgetD] at hx
        cases hg : tget d.tongs (chanKey q.1 q.2) with
        | none => rw [hg] at hx; cases hx
        | some ys =>
          rw [hg] at hx
          exact ⟨_, mem_of_tget hg, by rw [show ys = x :: xs from hx]; exact List.mem_cons_self⟩
      obtain ⟨q', hq, hxq⟩ := hmem
      have hoff : (x.desc.indexed && !x.desc.isp) = false := by rcases hidx q' hq x hxq with hi | hi <;> simp [hi]
      cases d.step? x.step with
      | none => exact ih
      | some st =>
        dsimp only
        rw [hoff, Bool.false_and]
        exact ih

theorem exec_prefetchWalk_leaf {s : State} {ctx : Fin 4096} {v : VaIn}
    (hpre : s.dev.prefetches h ctx.val (v.va.toNat / 4096) t = true) (hfree : s.dev.walkerFree h = true)
    (hleaf : s.dev.walk h ctx.val v.va.toNat = (.leaf l p, ws))
    (hidx : ∀ q ∈ s.dev.tongs, ∀ x ∈ q.2, x.desc.indexed = false ∨ x.desc.isp = true) :
    ∃ d, exec (.prefetchWalk h ctx v t) s = .next { s with dev := d } ∧
      { holder := .tongs h t, ctx := ctx.val, page := v.va.toNat / 2 ^ (leafHeld l p v.va.toNat).1,
        sizeLog := (leafHeld l p v.va.toNat).1, pte := BitVec.ofNat 64 (leafHeld l p v.va.toNat).2 } ∈ (Two.get d.xlate h).tlb ∧
      (Two.get d.xlate h).recs = (Two.get s.dev.xlate h).recs ∧
      { d with xlate := s.dev.xlate, tiers := s.dev.tiers, coh := s.dev.coh } = s.dev := by
  obtain ⟨ti, k, htouch⟩ := s.dev.walkTouch_only h ctx.val v.va.toNat []
  obtain ⟨x, hx⟩ : ∃ x : Dev, x = (s.dev.walkTouch h ctx.val v.va.toNat).modXlate h
      (fun x => x.filled (.tongs h t) ctx.val v.va.toNat l p ws) := ⟨_, rfl⟩
  have hxl : Two.get x.xlate h = (Two.get s.dev.xlate h).filled (.tongs h t) ctx.val v.va.toNat l p ws := by
    rw [hx, htouch]
    exact Two.get_mod_self _ _ _
  have hrest : { x with xlate := s.dev.xlate, tiers := s.dev.tiers, coh := s.dev.coh } = s.dev := by
    rw [hx, htouch]
    rfl
  have htongs : x.tongs = s.dev.tongs := (congrArg Dev.tongs hrest :)
  have hgo : exec (.prefetchWalk h ctx v t) s = .next { s with dev := x } := by
    change execPrefetchWalk h ctx v t s = _
    rw [execPrefetchWalk, onDev_eq]
    dsimp only
    rw [hpre, hfree, Bool.and_self, if_pos rfl, hleaf]
    dsimp only
    rw [Dev.xfill_eq, ← hx, Dev.holdAhead_none (by rw [htongs]; exact hidx), ite_self]
  refine ⟨x, hgo, ?_, ?_, hrest⟩
  · rw [hxl]
    exact Xlate.filled_mem _ _ _
  · rw [hxl]
    rfl

theorem exec_prefetchWalk_off {s : State} {ctx : Fin 4096} {v : VaIn}
    (hoff : s.dev.prefetches h ctx.val (v.va.toNat / 4096) t = false ∨ s.dev.walkerFree h = false) :
    exec (.prefetchWalk h ctx v t) s = .next s := by
  change execPrefetchWalk h ctx v t s = _
  rw [execPrefetchWalk, onDev_eq]
  dsimp only
  rw [if_neg (by rcases hoff with hoff | hoff <;> simp [hoff])]

/-- A prefetch that finds no page raises nothing. -/
theorem exec_prefetchWalk_fault {s : State} {ctx : Fin 4096} {v : VaIn} {cause level : Nat}
    (hfault : s.dev.walk h ctx.val v.va.toNat = (.fault cause level, ws)) : exec (.prefetchWalk h ctx v t) s = .next s := by
  change execPrefetchWalk h ctx v t s = _
  rw [execPrefetchWalk, onDev_eq]
  dsimp only
  rw [hfault, ite_self]

end Prefetch

/-! ### Fault records and ATS (R315, R316, R331) -/

section Records
variable {d : Dev}

/-- What an interrupt of the firmware leaves of the rest. -/
theorem Dev.fwSignal_rest (d : Dev) (b : Word) : (d.fwSignal b).host.ctxs = d.host.ctxs ∧ (d.fwSignal b).mem = d.mem ∧
    (d.fwSignal b).engines = d.engines ∧ ∀ m ∈ d.out, m ∈ (d.fwSignal b).out := by
  unfold Dev.fwSignal
  split
  · exact ⟨rfl, rfl, rfl, fun m hm => hm⟩
  · have honly := d.signal_only b
    refine ⟨?_, (congrArg Dev.mem honly :), (congrArg Dev.engines honly :), ?_⟩
    · unfold Dev.signal
      dsimp only
      split <;> split <;> rfl
    · unfold Dev.signal
      dsimp only
      intro m hm
      split
      · split
        · exact hm
        · exact List.mem_append_left _ hm
      · split
        · exact hm
        · exact hm

theorem exec_faultRecordWrite_host {s : State} {c : Fin 4096} {x : Ctx} {q : FQueue} {fid : Nat} {r : FRec} {ha : Nat}
    (hx : s.dev.ctx? c.val = some x) (hq : x.fq = some q) (hr : firstRec (s.dev.ctxRecs c.val) = some (fid, r))
    (hroom : ((s.dev.ctxRecs c.val).filter (fun p => p.2.written)).length < 2 ^ q.log2)
    (ht : s.dev.target true (q.addr + BitVec.ofNat 64 (32 * (q.posted % 2 ^ q.log2))).toNat = .host ha) :
    ∃ d, exec (.faultRecordWrite c) s = .next { s with dev := d } ∧
      OutMsg.hostWrite ha (faultRec fid r (decide ((q.posted / 2 ^ q.log2) % 2 = 0))) none ∈ d.out ∧
      d.ctx? c.val = some { x with fq := some { q with posted := q.posted + 1 } } ∧ d.mem = s.dev.mem ∧
      d.engines = s.dev.engines := by
  obtain ⟨y, hy⟩ : ∃ y : Dev, y = (((s.dev.emit (.hostWrite ha (faultRec fid r (decide ((q.posted / 2 ^ q.log2) % 2 = 0))) none)).modXlate
      (halfOfNat (fid / 1024)) (fun x => { x with recs := tmod x.recs (fid % 1024) (fun r => { r with written := true }) })).modCtx c.val
        (fun c => { c with fq := some { q with posted := q.posted + 1 } })) := ⟨_, rfl⟩
  have hgo : faultWrite s.dev c.val = y.fwSignal q.bind := by
    unfold faultWrite
    rw [hx]
    dsimp only
    rw [hq, hr]
    dsimp only
    rw [if_neg (by omega), Dev.fwWrite, ht, hy]
    rfl
  obtain ⟨hctxs, hmem, heng, hout⟩ := y.fwSignal_rest q.bind
  refine ⟨_, exec_onDev (f := fun d => faultWrite d c.val) rfl hgo, hout _ ?_, ?_, hmem.trans (by rw [hy]; rfl),
    heng.trans (by rw [hy]; rfl)⟩
  · rw [hy]
    exact List.mem_append_right _ (List.mem_singleton_self _)
  · rw [Dev.ctx?, hctxs, hy]
    exact (tget_tmod_self _ _ _).trans (congrArg (Option.map _) hx)

theorem exec_atsInvalidationRequest (s : State) (c : Fin 4096) (a : Word) :
    ∃ d, exec (.atsInvalidationRequest c a) s = .next { s with dev := d } ∧
      (∀ y, y ∈ d.host.atsCache ↔ y ∈ s.dev.host.atsCache ∧ ¬(y.1 = c.val ∧ y.2.1 = a.toNat / 4096)) ∧
      d.out = s.dev.out ++ [.atsInvalidated a.toNat (s.dev.ctxPasid (some c.val))] ∧
      { d with host := { d.host with atsCache := s.dev.host.atsCache }, out := s.dev.out } = s.dev := by
  refine ⟨_, rfl, fun y => ?_, rfl, rfl⟩
  refine List.mem_filter.trans ?_
  simp [imp_iff_not_or]

theorem Dev.modHost_only (d : Dev) (f : HostIf → HostIf) : { d.modHost f with host := d.host } = d := rfl

/-- The host interface as it holds a translation of ATS. -/
def HostIf.atsFilled (h : HostIf) (c page : Nat) (xa : Word) : HostIf :=
  let l := h.atsCache.filter (fun x => !(x.1 == c && x.2.1 == page)) ++ [(c, page, xa)]
  { h with atsCache := l.drop (l.length - 4096), atsAsked := h.atsAsked.filter (fun x => x != (c, page)) }

theorem HostIf.atsFilled_mem (h : HostIf) (c page : Nat) (xa : Word) : (c, page, xa) ∈ (h.atsFilled c page xa).atsCache := by
  unfold HostIf.atsFilled
  dsimp only
  rw [List.length_append, List.length_singleton, List.drop_append_of_le_length (by omega)]
  exact List.mem_append_right _ (List.mem_singleton_self _)

theorem exec_atsTranslationCompletion {s : State} {c : Fin 4096} {x : Ctx} (hx : s.dev.ctx? c.val = some x) (hats : x.ats = true)
    (a xa : Word) :
    ∃ d, exec (.atsTranslationCompletion c a xa) s = .next { s with dev := d } ∧
      (c.val, a.toNat / 4096, xa) ∈ d.host.atsCache ∧ { d with host := s.dev.host } = s.dev := by
  have hgo : exec (.atsTranslationCompletion c a xa) s =
      .next { s with dev := s.dev.modHost fun h => h.atsFilled c.val (a.toNat / 4096) xa } := by
    change execAtsTranslationCompletion c a xa s = _
    rw [execAtsTranslationCompletion, onDev_eq, hx]
    dsimp only
    rw [if_pos hats]
    rfl
  exact ⟨_, hgo, s.dev.host.atsFilled_mem _ _ _, Dev.modHost_only _ _⟩

end Records

/-- Settles O34: of a walk for one engine, the first check of its leaf decides between the translation and a record; a prefetch
raises none. -/
theorem translationServesWalks : Obligations.TranslationServesWalks := by
  intro s
  refine ⟨fun h c va e acc ua w l p ws hw hu hleaf hrun => ⟨fun hok => ?_, fun cause i hbad hnew hended hslot => ?_⟩,
    fun h c va t => ⟨fun hoff => ?_, fun l p ws hpre hfree hleaf hidx => ?_, fun cause l ws hfault => ?_⟩,
    fun c x q fid r ha hx hq hr hroom ht => ?_, fun c a xa => ⟨?_, fun x hx hats => ?_⟩⟩
  · exact exec_walk_permitted hw hu hleaf hrun hok
  · exact exec_walk_forbidden hw hu hleaf hbad hnew hended hslot
  · exact exec_prefetchWalk_off hoff
  · exact exec_prefetchWalk_leaf hpre hfree hleaf hidx
  · exact exec_prefetchWalk_fault hfault
  · exact exec_faultRecordWrite_host hx hq hr hroom ht
  · exact exec_atsInvalidationRequest s c a
  · exact exec_atsTranslationCompletion hx hats a xa

end Sys2Proof.Machine

/-!
A flip serves the host reads that the blocked phase held (R243, R440), and each of them adds to its frame's HEAT (R345).
-/
namespace Sys2Proof.Machine

/-- A frame that moves from the DIMMs to HBM. -/
def flipFrame : Frame := { back := .ddr }

/-- Its move, in the blocked phase. -/
def flipMove : Move := { dst := .hbm, dstLoc := 0, fill := false, blocked := true }

/-- A placement region on the frame's first page. -/
def flipRegion : PRegion := { ctx := 0, off := 0, len := 64, vbase := 0, pages := [0], counter := none, read := true, st := .on }

/-- The read of a peer in the region that the blocked phase holds. -/
def flipRead : PendRead := { id := 0, ap := 0, off := 0, addr := ownAddr 0, len := 8, region := some 0 }

/-- A package that moves one frame, which a peer reads. -/
def flipState : State :=
  { pending := []
    dev := { tiers := { frames := [(0, flipFrame)], moves := [(0, flipMove)] }
             host := { regions := [(0, flipRegion)], reads := [flipRead] } } }

theorem flipState_noneHeld : NoneHeld flipState.dev := ⟨rfl, rfl, fun _ hp => by cases hp⟩

/-- The read is served as the frame flips, and its line counts for the frame's HEAT, which was zero. -/
theorem flipState_heat : (tget (migrationFlip flipState.dev 0).hostSettle.tiers.frames 0).map Frame.heat = some 1 := by decide

theorem exec_flipState :
    exec (.migrationFlip 0) flipState = .next { flipState with dev := (migrationFlip flipState.dev 0).hostSettle } := rfl

/-- Refutes O35: a flip that serves a held read of its frame raises the frame's HEAT, which the statement says the flip leaves. -/
theorem not_framesMoveAndTheCaveRetires : ¬ Obligations.FramesMoveAndTheCaveRetires := by
  intro h
  obtain ⟨hframes, -, -⟩ := h
  obtain ⟨-, -, -, hflip, -⟩ := hframes flipState flipState_noneHeld
  obtain ⟨d, g, hexec, -, hg, -, -, hheat, -⟩ := hflip 0 flipMove flipFrame rfl rfl rfl nofun rfl
  have hd : d = (migrationFlip flipState.dev 0).hostSettle := by
    rw [exec_flipState] at hexec
    injection hexec with hstate
    exact (congrArg State.dev hstate).symm
  have hone := flipState_heat
  rw [← hd, show tget d.tiers.frames 0 = some g from hg, Option.map_some, hheat] at hone
  exact absurd hone (by decide)

end Sys2Proof.Machine

/-!
The links of the Chain come up, carry frames and go down (chapter 13). A command of a port is a function of the package that changes
that port's record, sends what its output names, and gives what waits a chance to leave; where nothing waits, that chance changes nothing.
-/
namespace Sys2Proof.Machine

/-! ### Where nothing waits to be sent -/

/-- No packet waits for a route, and no transit packet for credits. -/
structure Chain.Idle (c : Chain) : Prop where
  send : c.waitSend = []
  transit : c.transit = []

theorem Chain.waitSend_eta {c : Chain} (h : c.waitSend = []) : { c with waitSend := [] } = c := by
  cases c
  cases h
  rfl

theorem Dev.flushSend_idle {d : Dev} (h : d.chain.Idle) : d.flushSend = d := by
  unfold Dev.flushSend
  simp only [h.transit, List.isEmpty_nil, if_true, h.send, flushList]
  exact congrArg (fun c => { d with chain := c }) (Chain.waitSend_eta h.send)

/-- Changing a port leaves what waits. -/
theorem Dev.modPort_idle {d : Dev} (h : d.chain.Idle) (p : Nat) (f : Port → Port) : (d.modPort p f).chain.Idle := ⟨h.send, h.transit⟩

/-- A function of the package answers what it makes of it. -/
theorem onDev_of_eq {s : State} {f : Dev → Dev} {d : Dev} (h : f s.dev = d) : onDev s f = .next { s with dev := d } := by
  rw [onDev_eq, h]

/-! ### Rekeys that are not due (R420) -/

theorem Dev.rekeyDue_of_early {d : Dev} {p : Nat}
    (h : (d.port p).rekeying = true ∨ (d.port p).frameCtr < rekeyFrames ∧ (d.port p).rxCtr < rekeyFrames) : d.rekeyDue p = d := by
  unfold Dev.rekeyDue
  dsimp only
  rw [if_neg]
  rcases h with h | ⟨hf, hr⟩
  · simp [h]
  · simp [Nat.not_le.2 hf, Nat.not_le.2 hr]

/-- The frame that a port sends next carries its sequence number, what it expects, and the credits it owes (R409). -/
def Dev.nextFrame (d : Dev) (p : Nat) (k : Option ChainPkt) : OutMsg :=
  .linkFrame p { seq := (d.port p).txSeq, ack := (d.port p).rxSeq, credits := (d.port p).owed } ((d.port p).nonce96 d.chain.node) k
    (Config.gcmSeal ((d.port p).txKey d.chain.node).1 ((d.port p).nonce96 d.chain.node)
      (leBytes 3 (d.port p).txSeq.toNat ++ leBytes 2 (frameBytes k)) k)

/-- The port after it. -/
def Port.sentFrame (q : Port) (k : Option ChainPkt) : Port :=
  { q with txSeq := q.txSeq + 1, frameCtr := q.frameCtr + 1, replayBuf := q.replayBuf ++ [(q.txSeq, frameBytes k)],
           owed := List.replicate 22 0 }

theorem Dev.frameOut_of_calm {d : Dev} {p : Nat} (h : (d.port p).calm) (k : Option ChainPkt) :
    d.frameOut p k = (d.modPort p (fun q => q.sentFrame k)).emit (d.nextFrame p k) := by
  have hport : ((d.modPort p (fun q => q.sentFrame k)).emit (d.nextFrame p k)).port p = (d.port p).sentFrame k :=
    d.port_modPort_self p (fun q => q.sentFrame k)
  exact Dev.rekeyDue_of_early (d := (d.modPort p (fun q => q.sentFrame k)).emit (d.nextFrame p k))
    (by rw [hport]; exact h.imp id fun ⟨hf, hr⟩ => ⟨hf, (Nat.lt_succ_self _).trans hr⟩)

/-! ### Frames, timers and lanes of one port -/

/-- Outputs in a row are appended in their order. -/
theorem foldDev_emit {α : Type} (g : α → OutMsg) (l : List α) (d : Dev) :
    foldDev d l (fun d x => d.emit (g x)) = { d with out := d.out ++ l.map g } := by
  induction l generalizing d with
  | nil => simp [foldDev]
  | cons x t ih =>
    refine (ih (d.emit (g x))).trans ?_
    simp [Dev.emit]

theorem Dev.replayFrom_eq (d : Dev) (p : Nat) (fs : List (BitVec 24 × Nat)) :
    d.replayFrom p fs =
      { d.modPort p (fun q => { q with replays := q.replays + fs.length }) with out := d.out ++ fs.map (fun f => .linkReplay p f.1) } := by
  unfold Dev.replayFrom
  rw [foldDev_emit]
  rfl

theorem Port.isUp_of_active {q : Port} (h : q.st = .upActive) : q.isUp = true := by simp [Port.isUp, h]

section Port
variable {s : State} {p : Fin 16}

/-- R423: a bring-up that starts again from its first step. -/
theorem exec_bringupRetryTimer (hj : s.dev.chain.joined = true) (hen : (s.dev.port p.val).enabled = true)
    (hst : (s.dev.port p.val).st = .refused ∨ (s.dev.port p.val).st = .dead ∨ (s.dev.port p.val).st = .training) :
    ∃ d, exec (.bringupRetryTimer p) s = .next { s with dev := d } ∧ (d.port p.val).st = .training ∧
      (d.port p.val).lanes = 0 ∧ { d with chain := s.dev.chain } = s.dev := by
  refine ⟨s.dev.modPort p.val (fun q => q.fresh .training), ?_, ?_, ?_, rfl⟩
  · change execBringupRetryTimer p s = _
    refine onDev_of_eq ?_
    dsimp only
    rw [if_pos (by simpa [hj, hen, or_assoc] using hst)]
  all_goals rw [Dev.port_modPort_self]; rfl

/-- R399, R401: a port that has trained sends its identity. -/
theorem exec_linkTrainingDone (l : Fin 9) (hj : s.dev.chain.joined = true) (hst : (s.dev.port p.val).st = .training)
    (hl : (s.dev.port p.val).lanes = 0) (hlanes : l.val = 8 ∨ l.val = 6 ∨ l.val = 4) :
    ∃ d i, exec (.linkTrainingDone p l) s = .next { s with dev := d } ∧ (d.port p.val).lanes = l.val ∧
      (d.port p.val).mine = some i ∧ i.node = BitVec.ofNat 8 s.dev.chain.node ∧ i.serial = Config.serial ∧
      d.out = s.dev.out ++ [.linkIdentity p.val i] ∧ d.mem = s.dev.mem := by
  let n := Config.entropy s.dev.free
  let i := s.dev.identity p.val n
  have hport := ({ s.dev with free := s.dev.free + 1 } : Dev).port_modPort_self p.val
    (fun q => { q with lanes := l.val, nonce := n, mine := some i })
  refine ⟨(({ s.dev with free := s.dev.free + 1 } : Dev).modPort p.val
      (fun q => { q with lanes := l.val, nonce := n, mine := some i })).emit (.linkIdentity p.val i), i, ?_, congrArg Port.lanes hport, congrArg Port.mine hport, rfl, rfl, rfl, rfl⟩
  change execLinkTrainingDone p l s = _
  refine onDev_of_eq ?_
  dsimp only
  rw [if_neg (by simp [hj, hst, hl]), if_pos (by simpa [or_assoc] using hlanes)]
  rfl

section Up
variable (hup : (s.dev.port p.val).st = .upActive) (hre : (s.dev.port p.val).retrain = false)
include hup

include hre

/-- R408, R409, R411: a frame in sequence acknowledges and returns credits. -/
theorem exec_linkFrameReceive {hd : LinkHdr} (hi : s.dev.chain.Idle) (hseq : hd.seq = (s.dev.port p.val).rxSeq)
    (hc : (s.dev.port p.val).calm) :
    ∃ d, exec (.linkFrameReceive p hd true true) s = .next { s with dev := d } ∧
      (d.port p.val).rxSeq = (s.dev.port p.val).rxSeq + 1 ∧ (d.port p.val).crcRun = 0 ∧
      (d.port p.val).used = (s.dev.port p.val).used.zipIdx.map (fun x => x.1 - lgetD hd.credits x.2 0) ∧
      ((∀ f ∈ (s.dev.port p.val).replayBuf, f.1 ≠ hd.ack) → hd.ack = (s.dev.port p.val).txSeq → (d.port p.val).replayBuf = []) ∧
      { d with chain := s.dev.chain } = s.dev := by
  obtain ⟨f, hf⟩ : ∃ f : Port → Port, f = fun q =>
      { q.heard hd with rxSeq := q.rxSeq + 1, rxCtr := q.rxCtr + 1, crcRun := 0, tagRun := 0 } := ⟨_, rfl⟩
  have hport := s.dev.port_modPort_self p.val f
  refine ⟨s.dev.modPort p.val f, ?_, ?_⟩
  · change execLinkFrameReceive p hd true true s = _
    refine onDev_of_eq ?_
    unfold linkFrame
    dsimp only
    rw [if_neg (by simp [Port.isUp_of_active hup, hre]), if_neg (by simp), if_neg (by simp [hseq]), if_neg (by simp), ← hf,
      Dev.rekeyDue_of_early, Dev.flushSend_idle (Dev.modPort_idle hi p.val f)]
    rw [hport, hf]
    exact hc.imp id fun ⟨hs, hr⟩ => ⟨(Nat.lt_succ_self _).trans hs, hr⟩
  · rw [hport, hf]
    refine ⟨rfl, rfl, rfl, fun hfar hack => ?_, rfl⟩
    have hany : (s.dev.port p.val).replayBuf.any (fun f => f.1 == hd.ack) = false := by
      rw [List.any_eq_false]
      exact fun x hx => by simp [hfar x hx]
    exact (if_neg (by simp [hany])).trans (if_pos hack)

/-- R409: a frame whose CRC fails is asked for again. -/
theorem exec_linkFrameReceive_crc (hd : LinkHdr) (hrun : (s.dev.port p.val).crcRun < 15) :
    ∃ d, exec (.linkFrameReceive p hd false true) s = .next { s with dev := d } ∧
      (d.port p.val).rxSeq = (s.dev.port p.val).rxSeq ∧ (d.port p.val).crcRun = (s.dev.port p.val).crcRun + 1 ∧
      d.out = s.dev.out ++ [.linkReplayReq p.val (s.dev.port p.val).rxSeq] := by
  have hport := s.dev.port_modPort_self p.val (fun q => { q with crcRun := q.crcRun + 1 })
  have hask := congrArg Port.rxSeq hport
  refine ⟨(s.dev.modPort p.val (fun q => { q with crcRun := q.crcRun + 1 })).askReplay p.val, ?_, hask,
    congrArg Port.crcRun hport, ?_⟩
  · change execLinkFrameReceive p hd false true s = _
    refine onDev_of_eq ?_
    unfold linkFrame
    dsimp only
    have hrun' : ¬ 16 ≤ (((s.dev.modPort p.val (fun q => { q with crcRun := q.crcRun + 1 })).askReplay p.val).port p.val).crcRun := by
      rw [show ((s.dev.modPort p.val (fun q => { q with crcRun := q.crcRun + 1 })).askReplay p.val).port p.val = _ from hport]
      exact Nat.not_le.2 (Nat.succ_lt_succ hrun)
    rw [if_neg (by simp [Port.isUp_of_active hup, hre]), if_pos (by simp), if_neg hrun']
  · rw [Dev.askReplay, hask]
    rfl

/-- R409: the frames from the one asked for on are sent again. -/
theorem exec_replayRequest (sq : BitVec 24) :
    ∃ d, exec (.replayRequest p sq) s = .next { s with dev := d } ∧
      d.out = s.dev.out ++ ((s.dev.port p.val).replayBuf.dropWhile (fun f => f.1 != sq)).map (fun f => .linkReplay p.val f.1) ∧
      { d with chain := s.dev.chain, out := s.dev.out } = s.dev := by
  refine ⟨s.dev.replayFrom p.val ((s.dev.port p.val).replayBuf.dropWhile (fun f => f.1 != sq)), ?_, ?_⟩
  · change execReplayRequest p sq s = _
    refine onDev_of_eq ?_
    dsimp only
    rw [if_pos (by simp [Port.isUp_of_active hup, hre])]
  · rw [Dev.replayFrom_eq]
    exact ⟨rfl, rfl⟩

/-- R409: an idle port sends an idle frame. -/
theorem exec_idleFrameTimer (hc : (s.dev.port p.val).calm) :
    ∃ d, exec (.idleFrameTimer p) s = .next { s with dev := d } ∧ d.out = s.dev.out ++ [s.dev.nextFrame p.val none] ∧
      (d.port p.val).txSeq = (s.dev.port p.val).txSeq + 1 ∧ (d.port p.val).owed = List.replicate 22 0 ∧
      { d with chain := s.dev.chain, out := s.dev.out } = s.dev := by
  have hport := s.dev.port_modPort_self p.val (fun q => q.sentFrame none)
  refine ⟨(s.dev.modPort p.val (fun q => q.sentFrame none)).emit (s.dev.nextFrame p.val none), ?_, rfl,
    congrArg Port.txSeq hport, congrArg Port.owed hport, rfl⟩
  change execIdleFrameTimer p s = _
  refine onDev_of_eq ?_
  dsimp only
  rw [if_pos (by simp [Port.isUp_of_active hup, hre]), Dev.frameOut_of_calm hc]

omit hre

/-- R410: a link whose lanes fail retrains on fewer. -/
theorem exec_laneDegrade (b : Fin 9) (hlo : 1 ≤ b.val) (hhi : b.val ≤ 4) :
    ∃ d, exec (.laneDegrade p b) s = .next { s with dev := d } ∧ (d.port p.val).retrain = true ∧
      (d.port p.val).lanes = min (s.dev.port p.val).lanes (if b.val ≤ 2 then 6 else 4) ∧ { d with chain := s.dev.chain } = s.dev := by
  have hport := s.dev.port_modPort_self p.val
    (fun q => { q with retrain := true, lanes := min q.lanes (if b.val ≤ 2 then 6 else 4) })
  refine ⟨_, ?_, congrArg Port.retrain hport, congrArg Port.lanes hport, rfl⟩
  change execLaneDegrade p b s = _
  refine onDev_of_eq ?_
  unfold Dev.laneDegrade
  rw [if_neg (by simp [Port.isUp_of_active hup]; omega), if_neg (by omega)]

/-- R420: a rekey begins with a new nonce, under the old key. -/
theorem exec_rekeyTimer (hk : (s.dev.port p.val).rekeying = false) :
    ∃ d n, exec (.rekeyTimer p) s = .next { s with dev := d } ∧ (d.port p.val).rekeying = true ∧ (d.port p.val).nonce = n ∧
      (d.port p.val).key = (s.dev.port p.val).key ∧ d.out = s.dev.out ++ [.linkRekey p.val n] ∧ d.mem = s.dev.mem := by
  have hport := ({ s.dev with free := s.dev.free + 1 } : Dev).port_modPort_self p.val
    (fun q => { q with rekeying := true, nonce := Config.entropy s.dev.free })
  refine ⟨s.dev.rekey p.val, Config.entropy s.dev.free, ?_, congrArg Port.rekeying hport, congrArg Port.nonce hport,
    (congrArg Port.key hport :), rfl, rfl⟩
  change execRekeyTimer p s = _
  refine onDev_of_eq ?_
  dsimp only
  rw [if_pos (by simp [Port.isUp_of_active hup, hk])]

/-- R420: the far end's confirmation puts the new key in use. -/
theorem exec_rekeyConfirm {mi fa : Identity} {n tag : BitVec 256} (hk : (s.dev.port p.val).rekeying = true)
    (hmi : (s.dev.port p.val).mine = some mi) (hfa : (s.dev.port p.val).far = some fa) {key : BitVec 1024}
    (hkey : Config.kmacChain s.dev.sec.fabric (linkX mi fa (s.dev.port p.val).nonce n ((s.dev.port p.val).epoch + 1)) = key)
    (htag : tag = Config.kmacConfirm (confirmKey key) fa) :
    ∃ d, exec (.rekeyConfirm p n tag) s = .next { s with dev := d } ∧ (d.port p.val).key = key ∧
      (d.port p.val).epoch = (s.dev.port p.val).epoch + 1 ∧ (d.port p.val).frameCtr = 0 ∧ (d.port p.val).rekeying = false ∧
      { d with chain := s.dev.chain, out := s.dev.out } = s.dev := by
  have hport := s.dev.port_modPort_self p.val
    (fun q => { q with key := key, epoch := q.epoch + 1, frameCtr := 0, rxCtr := 0, rekeying := false })
  refine ⟨(s.dev.modPort p.val (fun q =>
      { q with key := key, epoch := q.epoch + 1, frameCtr := 0, rxCtr := 0, rekeying := false })).emit
      (.linkConfirm p.val (Config.kmacConfirm (confirmKey key) mi)), ?_, congrArg Port.key hport,
    congrArg Port.epoch hport, congrArg Port.frameCtr hport, congrArg Port.rekeying hport, rfl⟩
  change execRekeyConfirm p n tag s = _
  refine onDev_of_eq ?_
  dsimp only
  simp only [hmi, hfa, hkey]
  rw [if_neg (by simp [Port.isUp_of_active hup, hk]), if_pos htag]

end Up
end Port

end Sys2Proof.Machine

/-!
The bring-up and the end of a Chain link (Table 13.6, R397, R410, R418 to R424).
-/
namespace Sys2Proof.Machine

/-! ### The ports that are up (R397) -/

/-- Two values of a table's entry that a predicate both leaves out leave the same entries. -/
theorem filter_tput_congr {α : Type} {f : Nat × α → Bool} {n : Nat} {x y : α} (hx : f (n, x) = false) (hy : f (n, y) = false)
    (t : Tbl α) : (tput t n x).filter f = (tput t n y).filter f := by
  induction t with
  | nil => simp [tput, hx, hy]
  | cons q t ih =>
    obtain ⟨k, v⟩ := q
    by_cases hlt : n < k
    · simp [tput, hlt, hx, hy]
    · by_cases heq : n = k
      · subst heq
        simp [tput, hx, hy]
      · simp [tput, hlt, heq, List.filter_cons, ih]

theorem Dev.upPorts_modPort_down {d : Dev} {p : Nat} {f g : Port → Port} (hf : (f (d.port p)).isUp = false)
    (hg : (g (d.port p)).isUp = false) : (d.modPort p f).upPorts = (d.modPort p g).upPorts :=
  filter_tput_congr (f := fun x : Nat × Port => x.2.isUp) hf hg d.chain.ports

theorem Dev.upTo_modPort_down {d : Dev} {p n : Nat} {f g : Port → Port} (hf : (f (d.port p)).isUp = false)
    (hg : (g (d.port p)).isUp = false) : (d.modPort p f).upTo n = (d.modPort p g).upTo n := by
  rw [Dev.upTo, Dev.upTo, Dev.upPorts_modPort_down hf hg]

/-- Where no standby leads to a node, its links keep their roles. -/
theorem Dev.linkRoles_of_active {d : Dev} {far : Nat} (h : ∀ x ∈ d.upTo far, x.2.st = .upActive) : d.linkRoles far = d := by
  have hnone : (d.upTo far).find? (fun p => p.2.st == .upStandby) = none := by
    rw [List.find?_eq_none]
    intro x hx
    rw [h x hx]
    decide
  unfold Dev.linkRoles
  rw [hnone]
  cases (d.upTo far).find? (fun p => p.2.st == .upActive) <;> rfl

/-! ### Links and slots that change (R400, R405) -/

theorem Chain.up_links_filter (c : Chain) (a b : Nat) :
    ({ c with links := c.links.filter (· != (min a b, max a b)) } : Chain).up a b = false := by
  simp [Chain.up]

theorem Chain.up_links_append (c : Chain) (a b : Nat) :
    ({ c with links := c.links ++ [(min a b, max a b)] } : Chain).up a b = true := by
  simp [Chain.up]

/-- R405: a link that changes is known as it is; the change reaches the links and the outputs alone. -/
theorem Dev.setLink_eq {d : Dev} (hi : d.chain.Idle) (a b : Nat) (up : Bool) :
    ∃ l o, d.setLink a b up = { d with chain := { d.chain with links := l }, out := o } ∧
      (d.setLink a b up).chain.up a b = up := by
  unfold Dev.setLink
  dsimp only
  by_cases hup : d.chain.up a b = up
  · rw [if_pos hup]
    exact ⟨_, _, rfl, hup⟩
  · have hidle (f : Chain → List (Nat × Nat)) (m : OutMsg) : ((d.modChain (fun c => { c with links := f c })).emit m).flushSend =
        (d.modChain (fun c => { c with links := f c })).emit m := Dev.flushSend_idle ⟨hi.send, hi.transit⟩
    rw [if_neg hup, hidle]
    refine ⟨_, _, rfl, ?_⟩
    cases up
    · exact Chain.up_links_filter ..
    · exact Chain.up_links_append ..

/-- R400: a slot that changes is known as it is; the change reaches the slots and the outputs alone. -/
theorem Dev.setSlot_eq (d : Dev) (n : Nat) (x : Slot) :
    ∃ t o, d.setSlot n x = { d with chain := { d.chain with slots := t }, out := o } ∧ (d.setSlot n x).slot n = x ∧
      ∀ k, k ≠ n → (d.setSlot n x).slot k = d.slot k := by
  unfold Dev.setSlot
  by_cases h : d.slot n = x
  · rw [if_pos h]
    exact ⟨_, _, rfl, h, fun _ _ => rfl⟩
  · rw [if_neg h]
    exact ⟨_, _, rfl, tgetD_tput_self .., fun k hk => tgetD_tput_ne _ _ _ hk⟩

/-- The slots are read from their table. -/
theorem Dev.slot_congr {d e : Dev} (h : d.chain.slots = e.chain.slots) (n : Nat) : d.slot n = e.slot n := by rw [Dev.slot, h, Dev.slot]

theorem Dev.port_congr {d e : Dev} (h : d.chain.ports = e.chain.ports) (n : Nat) : d.port n = e.port n := by rw [Dev.port, h, Dev.port]

theorem Dev.port_emit (d : Dev) (m : OutMsg) (n : Nat) : (d.emit m).port n = d.port n := rfl

section Port
variable {s : State} {p : Fin 16}

/-! ### Silence and retraining (R409, R410, R424) -/

/-- R424: a silent link dies; its node is no longer a neighbour. -/
theorem exec_linkSilenceTimeout (hi : s.dev.chain.Idle) (hup : (s.dev.port p.val).st = .upActive)
    (halone : (s.dev.modPort p.val (fun x => { x with st := .dead })).upTo (s.dev.port p.val).farNode = []) :
    ∃ d, exec (.linkSilenceTimeout p) s = .next { s with dev := d } ∧ (d.port p.val).st = .dead ∧ (d.port p.val).key = 0 ∧
      d.chain.up s.dev.chain.node (s.dev.port p.val).farNode = false ∧ d.mem = s.dev.mem := by
  obtain ⟨f, hf⟩ : ∃ f : Port → Port, f = fun q =>
      { q with st := .dead, idDone := false, retrain := false, rekeying := false, key := 0, replayBuf := [],
               used := List.replicate 22 0, owed := List.replicate 22 0 } := ⟨_, rfl⟩
  have hdown : (s.dev.modPort p.val f).upTo (s.dev.port p.val).farNode = [] := by
    rw [← halone]
    exact Dev.upTo_modPort_down (by rw [hf]; rfl) rfl
  obtain ⟨l, o, hlink, hnot⟩ := Dev.setLink_eq (Dev.modPort_idle hi p.val f) s.dev.chain.node (s.dev.port p.val).farNode false
  have hport : ((s.dev.modPort p.val f).setLink s.dev.chain.node (s.dev.port p.val).farNode false).port p.val =
      f (s.dev.port p.val) := by
    rw [hlink]
    exact s.dev.port_modPort_self p.val f
  refine ⟨_, ?_, ?_, ?_, hnot, ?_⟩
  · change execLinkSilenceTimeout p s = _
    refine onDev_of_eq ?_
    unfold Dev.linkDead
    rw [if_pos (Port.isUp_of_active hup)]
    unfold Dev.portDown
    dsimp only
    simp only [reduceCtorEq, if_false]
    rw [if_pos hup, ← hf, hdown]
    rfl
  · rw [hport, hf]
  · rw [hport, hf]
  · rw [hlink]
    rfl

/-- R397, R410: a retrained link sends again what is not acknowledged, and it alone leads to its node. -/
theorem exec_linkRetrainDone (hi : s.dev.chain.Idle) (hup : (s.dev.port p.val).st = .upActive)
    (hre : (s.dev.port p.val).retrain = true)
    (halone : s.dev.upTo (s.dev.port p.val).farNode = [(p.val, s.dev.port p.val)]) :
    ∃ d, exec (.linkRetrainDone p) s = .next { s with dev := d } ∧ (d.port p.val).retrain = false ∧
      d.out = s.dev.out ++ (s.dev.port p.val).replayBuf.map (fun f => .linkReplay p.val f.1) ∧
      { d with chain := s.dev.chain, out := s.dev.out } = s.dev := by
  obtain ⟨d, hd⟩ : ∃ d, d = (s.dev.modPort p.val (fun q => { q with retrain := false })).replayFrom p.val
      (s.dev.port p.val).replayBuf := ⟨_, rfl⟩
  have hports : d.chain.ports = tput s.dev.chain.ports p.val
      { s.dev.port p.val with
        retrain := false, replays := (s.dev.port p.val).replays + (s.dev.port p.val).replayBuf.length } := by
    rw [hd, Dev.replayFrom_eq]
    change tput (tput s.dev.chain.ports p.val _) p.val _ = _
    rw [tput_tput_self, Dev.port_modPort_self]
  have hport : d.port p.val = { s.dev.port p.val with
        retrain := false, replays := (s.dev.port p.val).replays + (s.dev.port p.val).replayBuf.length } := by
    rw [Dev.port, hports, tgetD_tput_self]
  have hactive : ∀ x ∈ d.upTo (s.dev.port p.val).farNode, x.2.st = .upActive := by
    intro x hx
    obtain ⟨hx, hfar⟩ := List.mem_filter.1 hx
    obtain ⟨hx, hisup⟩ := List.mem_filter.1 hx
    rw [hports] at hx
    rcases mem_tput hx with rfl | hx
    · exact hup
    · have hmem : x ∈ s.dev.upTo (s.dev.port p.val).farNode := List.mem_filter.2 ⟨List.mem_filter.2 ⟨hx, hisup⟩, hfar⟩
      rw [halone, List.mem_singleton] at hmem
      rw [hmem]
      exact hup
  refine ⟨d, ?_, by rw [hport], ?_, ?_⟩
  · change execLinkRetrainDone p s = _
    refine onDev_of_eq ?_
    dsimp only
    rw [if_pos (by simp [Port.isUp_of_active hup, hre]), ← hd, Dev.linkRoles_of_active hactive, Dev.flushSend_idle]
    rw [hd, Dev.replayFrom_eq]
    exact ⟨hi.send, hi.transit⟩
  · rw [hd, Dev.replayFrom_eq]
    rfl
  · rw [hd, Dev.replayFrom_eq]
    rfl

/-! ### Identities (R399 to R403, R418) -/

theorem Dev.portRefuse_eq (d : Dev) (p far code : Nat) :
    ∃ h, d.portRefuse p far code =
      { d.modPort p (fun q => { q with st := .refused, refuse := code, idDone := false }) with host := h } := ⟨_, rfl⟩

/-- R401: the identity of a node that is no neighbour is refused. -/
theorem exec_identityExchange_stranger {i : Identity} (hj : s.dev.chain.joined = true) (hst : (s.dev.port p.val).st = .training)
    (hl : (s.dev.port p.val).lanes ≠ 0) (hid : (s.dev.port p.val).idDone = false)
    (hrow : i.node.toNat / 8 ≠ s.dev.chain.node / 8) (hcol : i.node.toNat % 8 ≠ s.dev.chain.node % 8) :
    ∃ d, exec (.identityExchange p i) s = .next { s with dev := d } ∧ (d.port p.val).st = .refused ∧
      (d.port p.val).refuse = 1 ∧ d.chain.slots = s.dev.chain.slots := by
  have hport := s.dev.port_modPort_self p.val (fun q => { q with st := .refused, refuse := 1, idDone := false })
  obtain ⟨h, hrefuse⟩ := s.dev.portRefuse_eq p.val i.node.toNat 1
  refine ⟨s.dev.portRefuse p.val i.node.toNat 1, ?_, ?_, ?_, ?_⟩
  · change execIdentityExchange p i s = _
    refine onDev_of_eq ?_
    unfold identityIn
    dsimp only
    rw [if_neg (by simp [hj, hst, hl, hid]), if_pos (by simp [hrow, hcol])]
  all_goals rw [hrefuse]
  · exact congrArg Port.st hport
  · exact congrArg Port.refuse hport
  · rfl

theorem slotIn_nil (n : Nat) : slotIn [] n = noSlot := rfl
theorem noSlot_live : decide (noSlot.st = .live) = false := rfl
theorem farPlace_noSlot (x : BitVec 128) : farPlace noSlot x = .ok 0 := rfl
theorem laterSlot_noSlot : laterSlot noSlot noSlot = false := by decide

theorem Dev.ownPlace_noSlot {d : Dev} (h : d.upPorts = []) : d.ownPlace noSlot = .ok 0 := by
  unfold Dev.ownPlace
  rw [h]
  rfl

/-- R402, R403, R418: the identity of a neighbour, of which as of this node nothing is known, gives both their first incarnation and
their link its key. -/
theorem exec_identityExchange_first {i mi : Identity} (hj : s.dev.chain.joined = true) (hst : (s.dev.port p.val).st = .training)
    (hl : (s.dev.port p.val).lanes ≠ 0) (hid : (s.dev.port p.val).idDone = false) (hmi : (s.dev.port p.val).mine = some mi)
    (hnone : s.dev.upPorts = []) (hlt : i.node.toNat < 64) (hne : i.node.toNat ≠ s.dev.chain.node)
    (hadj : i.node.toNat / 8 = s.dev.chain.node / 8 ∨ i.node.toNat % 8 = s.dev.chain.node % 8)
    (hkey : s.dev.sec.fabric ≠ 0) (hfar : s.dev.slot i.node.toNat = noSlot) (hown : s.dev.slot s.dev.chain.node = noSlot)
    (hslots : i.slots = []) :
    ∃ d, exec (.identityExchange p i) s = .next { s with dev := d } ∧ (d.port p.val).idDone = true ∧
      (d.port p.val).farNode = i.node.toNat ∧ (d.port p.val).far = some i ∧ d.chain.inc = 0 ∧ (d.port p.val).farInc = 0 ∧
      (d.port p.val).key = Config.kmacChain s.dev.sec.fabric (linkX mi i (s.dev.port p.val).nonce i.nonce 0) ∧
      d.mem = s.dev.mem := by
  obtain ⟨key, hk⟩ : ∃ key, key = Config.kmacChain s.dev.sec.fabric (linkX mi i (s.dev.port p.val).nonce i.nonce 0) := ⟨_, rfl⟩
  obtain ⟨f, hf⟩ : ∃ f : Port → Port, f = fun q =>
      { q with far := some i, farNode := i.node.toNat, farPort := i.port.toNat, farInc := 0, idDone := true, key := key } := ⟨_, rfl⟩
  have hupTo : s.dev.upTo i.node.toNat = [] := by rw [Dev.upTo, hnone, List.filter_nil]
  have hport : ((s.dev.modChain (fun c => { c with inc := 0 })).modPort p.val f).port p.val = f (s.dev.port p.val) :=
    Dev.port_modPort_self ..
  refine ⟨((s.dev.modChain (fun c => { c with inc := 0 })).modPort p.val f).emit
    (.linkConfirm p.val (Config.kmacConfirm (confirmKey key) mi)), ?_, ?_⟩
  · change execIdentityExchange p i s = _
    refine onDev_of_eq ?_
    unfold identityIn
    dsimp only
    rw [if_neg (by simp [hj, hst, hl, hid]), if_neg (by simp; omega), if_neg (by simp [hupTo]), if_neg hkey, hslots, hfar, slotIn_nil,
      if_neg (by simp [noSlot]), farPlace_noSlot]
    simp only [List.filter_nil, foldDev, List.foldl_nil, hown, hnone, hfar, laterSlot_noSlot, Dev.ownPlace_noSlot hnone,
      farPlace_noSlot, noSlot_live, List.isEmpty_nil, Bool.not_false, Bool.and_self, if_true, Bool.false_and, Bool.false_eq_true, if_false,
      hst, ne_eq, not_true_eq_false, hmi, Option.getD_some, hf, hk]
  · simp only [Dev.port_emit, hport]
    rw [hf]
    exact ⟨rfl, rfl, rfl, rfl, rfl, hk, rfl⟩

/-! ### Confirmations (R419, R424) -/

/-- R419, R423: a confirmation with another tag refuses the link. -/
theorem exec_keyConfirmation_wrong {i : Identity} {tag : BitVec 256} (hfar : (s.dev.port p.val).far = some i)
    (hst : (s.dev.port p.val).st = .training) (hid : (s.dev.port p.val).idDone = true)
    (htag : tag ≠ Config.kmacConfirm (confirmKey (s.dev.port p.val).key) i) :
    ∃ d, exec (.keyConfirmation p tag) s = .next { s with dev := d } ∧ (d.port p.val).st = .refused ∧
      (d.port p.val).refuse = 3 ∧ d.chain.slots = s.dev.chain.slots := by
  have hport := s.dev.port_modPort_self p.val (fun q => { q with st := .refused, refuse := 3, idDone := false })
  obtain ⟨h, hrefuse⟩ := s.dev.portRefuse_eq p.val (s.dev.port p.val).farNode 3
  refine ⟨s.dev.portRefuse p.val (s.dev.port p.val).farNode 3, ?_, ?_, ?_, ?_⟩
  · change execKeyConfirmation p tag s = _
    refine onDev_of_eq ?_
    simp only [hfar]
    rw [if_neg (by simp [hst, hid]), if_neg htag]
  all_goals rw [hrefuse]
  · exact congrArg Port.st hport
  · exact congrArg Port.refuse hport
  · rfl

/-- What a link that comes up leaves of the node beside its slots and its links: its ports, its number and its memory. -/
structure Dev.SamePorts (d e : Dev) : Prop where
  idle : e.chain.Idle
  ports : e.chain.ports = d.chain.ports
  node : e.chain.node = d.chain.node
  mem : e.mem = d.mem

theorem Dev.SamePorts.setSlot {d e : Dev} (h : d.SamePorts e) (n : Nat) (x : Slot) : d.SamePorts (e.setSlot n x) := by
  obtain ⟨t, o, heq, -, -⟩ := e.setSlot_eq n x
  rw [heq]
  exact ⟨⟨h.idle.send, h.idle.transit⟩, h.ports, h.node, h.mem⟩

theorem Dev.SamePorts.dropStreams {d e : Dev} (h : d.SamePorts e) (n : Nat) : d.SamePorts (e.dropStreams n) := by
  refine ⟨⟨?_, h.idle.transit⟩, h.ports, h.node, h.mem⟩
  change e.chain.waitSend.filter _ = []
  rw [h.idle.send, List.filter_nil]

theorem Dev.SamePorts.setLink {d e : Dev} (h : d.SamePorts e) (a b : Nat) (up : Bool) :
    d.SamePorts (e.setLink a b up) ∧ (e.setLink a b up).chain.slots = e.chain.slots := by
  obtain ⟨l, o, heq, -⟩ := Dev.setLink_eq h.idle a b up
  rw [heq]
  exact ⟨⟨⟨h.idle.send, h.idle.transit⟩, h.ports, h.node, h.mem⟩, rfl⟩

/-- R397, R400, R424: the first link to a node that comes up is its active one; both nodes live. -/
theorem Dev.portUp_first {d : Dev} {p : Nat} (hi : d.chain.Idle) (hnone : d.upTo (d.port p).farNode = [])
    (hne : (d.port p).farNode ≠ d.chain.node) :
    ((d.portUp p).port p).st = .upActive ∧ ((d.portUp p).port p).lanes = (d.port p).lanes ∧
      ((d.portUp p).port p).farNode = (d.port p).farNode ∧ ((d.portUp p).slot d.chain.node).st = .live ∧
      ((d.portUp p).slot (d.port p).farNode).st = .live ∧ (d.portUp p).mem = d.mem := by
  unfold Dev.portUp
  extract_lets q far serial second fresh up d₁ d₂ old d₃ d₄
  have hsecond : second = false := by simp only [second, far, q, hnone, List.isEmpty_nil, Bool.not_true]
  have h₁ : (d.modPort p (fun _ => up)).SamePorts d₁ := by
    obtain ⟨w, hw⟩ := (d.modPort p (fun _ => up)).wakeDom_only 44
    rw [show d₁ = _ from hw]
    exact ⟨⟨hi.send, hi.transit⟩, rfl, rfl, rfl⟩
  have h₂ : (d.modPort p (fun _ => up)).SamePorts d₂ := h₁.setSlot ..
  have hown₂ : (d₂.slot d.chain.node).st = .live := by
    obtain ⟨t, o, -, hself, -⟩ := d₁.setSlot_eq d₁.chain.node ⟨.live, Config.serial, d₁.chain.inc, true⟩
    rw [show d.chain.node = d₁.chain.node from h₁.node.symm, show d₂.slot d₁.chain.node = _ from hself]
  have h₃ : (d.modPort p (fun _ => up)).SamePorts d₃ ∧ d₃.chain.slots = d₂.chain.slots := by
    simp only [d₃]
    split
    · exact ⟨h₂, rfl⟩
    · exact ⟨h₂.dropStreams far, rfl⟩
  have h₄ : (d.modPort p (fun _ => up)).SamePorts d₄ := h₃.1.setSlot ..
  obtain ⟨t, o, -, hfar₄, hother₄⟩ := d₃.setSlot_eq far ⟨.live, serial, q.farInc, true⟩
  obtain ⟨h₅, hslots₅⟩ := h₄.setLink d₄.chain.node far true
  rw [hsecond, if_neg Bool.false_ne_true, Dev.flushSend_idle h₅.idle]
  generalize d₄.setLink d₄.chain.node far true = e at h₅ hslots₅ ⊢
  have hport : e.port p = up := (Dev.port_congr h₅.ports p).trans (d.port_modPort_self p _)
  have hst : up.st = .upActive := by
    change (if second then PortSt.upStandby else .upActive) = _
    rw [hsecond]
    rfl
  rw [hport, Dev.slot_congr hslots₅, Dev.slot_congr hslots₅]
  refine ⟨hst, rfl, rfl, ?_, ?_, h₅.mem⟩
  · rw [show d₄.slot d.chain.node = _ from hother₄ _ hne.symm, Dev.slot_congr h₃.2, hown₂]
  · rw [show d₄.slot (d.port p).farNode = _ from hfar₄]

/-- R419, R424: the right confirmation brings the link up, and both nodes live. -/
theorem exec_keyConfirmation_right {i : Identity} {tag : BitVec 256} (hi : s.dev.chain.Idle)
    (hfar : (s.dev.port p.val).far = some i) (hst : (s.dev.port p.val).st = .training) (hid : (s.dev.port p.val).idDone = true)
    (hnone : s.dev.upTo (s.dev.port p.val).farNode = []) (hne : (s.dev.port p.val).farNode ≠ s.dev.chain.node)
    (htag : tag = Config.kmacConfirm (confirmKey (s.dev.port p.val).key) i) :
    ∃ d, exec (.keyConfirmation p tag) s = .next { s with dev := d } ∧ (d.port p.val).st = .upActive ∧
      (d.port p.val).lanes = (s.dev.port p.val).lanes ∧ (d.port p.val).farNode = (s.dev.port p.val).farNode ∧
      (d.slot s.dev.chain.node).st = .live ∧ (d.slot (s.dev.port p.val).farNode).st = .live ∧ d.mem = s.dev.mem := by
  refine ⟨s.dev.portUp p.val, ?_, Dev.portUp_first hi hnone hne⟩
  change execKeyConfirmation p tag s = _
  refine onDev_of_eq ?_
  simp only [hfar]
  rw [if_neg (by simp [hst, hid]), if_pos htag]

end Port

end Sys2Proof.Machine

/-!
Packets of the Chain (R400, R404 to R407, R411 to R417, R425): what a node does with a packet that arrives, with one in transit, with
acknowledgements, and with the reports of slots and links.
-/
namespace Sys2Proof.Machine

/-! ### Packets that leave a port (R408, R411) -/

/-- A port as a packet leaves it: its credits are taken and its frame is sent. -/
def Port.sentPacket (q : Port) (k : ChainPkt) : Port :=
  { q with used := lset q.used (pktChan k) (lgetD q.used (pktChan k) 0 + pktCredits k) }.sentFrame (some k)

/-- On a port that no frame brings to its rekey, a packet leaves in the port's next frame. -/
theorem Dev.portSend_of_calm {d : Dev} {p : Nat} (h : (d.port p).calm) (k : ChainPkt) :
    d.portSend p k = (d.modPort p (fun q => q.sentPacket k)).emit (d.nextFrame p (some k)) := by
  obtain ⟨f, hf⟩ : ∃ f : Port → Port, f = fun q =>
      { q with used := lset q.used (pktChan k) (lgetD q.used (pktChan k) 0 + pktCredits k) } := ⟨_, rfl⟩
  have hport : (d.modPort p f).port p = f (d.port p) := d.port_modPort_self p f
  have hframe : (d.modPort p f).nextFrame p (some k) = d.nextFrame p (some k) := by
    unfold Dev.nextFrame
    rw [hport, hf]
    rfl
  have hcalm : ((d.modPort p f).port p).calm := by
    rw [hport, hf]
    exact h
  have hunfold : d.portSend p k = (d.modPort p f).frameOut p (some k) := by rw [Dev.portSend, hf]
  rw [hunfold, Dev.frameOut_of_calm hcalm, Dev.modPort_modPort, hframe, hf]
  rfl

/-- Frames leave: ports change, a rekey draws a free value, and outputs are appended. -/
def Dev.Frames (d e : Dev) : Prop := ∃ t n o, e = { d with chain := { d.chain with ports := t }, free := n, out := o }

theorem Dev.Frames.refl (d : Dev) : d.Frames d := ⟨_, _, _, rfl⟩

theorem Dev.Frames.trans {d e f : Dev} : d.Frames e → e.Frames f → d.Frames f := by
  rintro ⟨_, _, _, rfl⟩ ⟨_, _, _, rfl⟩
  exact ⟨_, _, _, rfl⟩

theorem Dev.modPort_frames (d : Dev) (p : Nat) (f : Port → Port) : d.Frames (d.modPort p f) := ⟨_, _, _, rfl⟩
theorem Dev.emit_frames (d : Dev) (m : OutMsg) : d.Frames (d.emit m) := ⟨_, _, _, rfl⟩
theorem Dev.entropy_frames (d : Dev) : d.Frames d.entropy.2 := ⟨_, _, _, rfl⟩

theorem Dev.rekeyDue_frames (d : Dev) (p : Nat) : d.Frames (d.rekeyDue p) := by
  unfold Dev.rekeyDue
  dsimp only
  split
  · exact (d.entropy_frames.trans (Dev.modPort_frames ..)).trans (Dev.emit_frames ..)
  · exact .refl d

theorem Dev.frameOut_frames (d : Dev) (p : Nat) (k : Option ChainPkt) : d.Frames (d.frameOut p k) :=
  ((d.modPort_frames p _).trans (Dev.emit_frames ..)).trans (Dev.rekeyDue_frames ..)

theorem Dev.portSend_frames (d : Dev) (p : Nat) (k : ChainPkt) : d.Frames (d.portSend p k) :=
  (d.modPort_frames p _).trans (Dev.frameOut_frames ..)

theorem resendList_frames (d : Dev) (p vs : Nat) (l : List ChainPkt) : d.Frames (resendList d p vs l) := by
  induction l generalizing d with
  | nil => exact .refl d
  | cons k l ih =>
    unfold resendList
    dsimp only
    split
    · exact (d.portSend_frames ..).trans (ih _)
    · exact .refl d

section Packets
variable {s : State}

/-! ### A packet that arrives (R412 to R417) -/

theorem Dev.owe_node (d : Dev) (p : Nat) (k : ChainPkt) : (d.owe p k).chain.node = d.chain.node := rfl
theorem Dev.owe_stalePkt (d : Dev) (p : Nat) (k k' : ChainPkt) : (d.owe p k).stalePkt k' = d.stalePkt k' := rfl

/-- A noted incarnation is all that a packet's unit leaves (R417). -/
theorem Dev.noteUnit_eq (d : Dev) (k : ChainPkt) :
    ∃ u, d.noteUnit k = d.modChain (fun c => { c with uincs := u }) := by
  unfold Dev.noteUnit
  dsimp only
  split
  · exact ⟨d.chain.uincs, rfl⟩
  · exact ⟨_, rfl⟩

section Arrives
variable {p : Fin 16} {k : ChainPkt} (hup : (s.dev.port p.val).st = .upActive) (hj : s.dev.chain.joined = true)
include hup hj

/-- R416: a malformed packet is counted and dropped. -/
theorem exec_chainPacketReceive_malformed (hk : malformedPkt k = true) :
    ∃ d, exec (.chainPacketReceive p k) s = .next { s with dev := d } ∧
      d.chain.badHeader = s.dev.chain.badHeader + 1 ∧ d.chain.rx = s.dev.chain.rx ∧
      d.port p.val = { s.dev.port p.val with owed := (d.port p.val).owed } ∧ { d with chain := s.dev.chain } = s.dev := by
  have hport : (s.dev.owe p.val k).port p.val = { s.dev.port p.val with owed := ((s.dev.owe p.val k).port p.val).owed } := by
    rw [Dev.owe, Dev.port_modPort_self]
  refine ⟨(s.dev.owe p.val k).modChain (fun c => { c with badHeader := c.badHeader + 1 }), ?_, rfl, rfl, hport, rfl⟩
  change execChainPacketReceive p k s = _
  refine onDev_of_eq ?_
  unfold packetIn
  dsimp only
  rw [if_neg (by simp [hj, Port.isUp_of_active hup]), if_pos (by simp [hk])]

variable (hk : malformedPkt k = false) (hcls : k.cls.val ≠ 7) (hdst : k.dst.toNat = s.dev.chain.node)
include hk hcls hdst

/-- R417: a packet of an incarnation that is not current is counted and dropped. -/
theorem exec_chainPacketReceive_stale (hstale : s.dev.stalePkt k = true) :
    ∃ d, exec (.chainPacketReceive p k) s = .next { s with dev := d } ∧
      (d.port p.val).stale = (s.dev.port p.val).stale + 1 ∧ { d with chain := s.dev.chain } = s.dev := by
  refine ⟨(s.dev.owe p.val k).modPort p.val (fun q => { q with stale := q.stale + 1 }), ?_, ?_, rfl⟩
  · change execChainPacketReceive p k s = _
    refine onDev_of_eq ?_
    unfold packetIn
    dsimp only
    rw [if_neg (by simp [hj, Port.isUp_of_active hup]), if_neg (by simp [hk, hcls]), Dev.owe_node,
      if_neg (not_not_intro hdst), Dev.owe_stalePkt, if_pos hstale]
  · rw [Dev.port_modPort_self, Dev.owe, Dev.port_modPort_self]

/-- R404, R413, R414: an in-sequence signal of a live node reaches its object's bank once. -/
theorem exec_chainPacketReceive_signal {obj : Fin 131072} {v : Word} (hbody : k.body = .rennetSig obj v)
    (hstay : s.dev.chain.leaving = false) (hlive : s.dev.stalePkt k = false) {r : RxStream}
    (hr : tgetD s.dev.chain.rx (streamKey k.src.toNat k.cls.val) {} = r) (hseq : k.seq = r.next) (hpend : r.pend < 31) :
    ∃ d, exec (.chainPacketReceive p k) s = .next { s with dev := d } ∧
      tget d.chain.rx (streamKey k.src.toNat k.cls.val) = some { next := r.next + 1, pend := r.pend + 1 } ∧
      d.rennet.msgs = s.dev.rennet.msgs ++ [.sig (pktSrc k) .sig obj.val v (some k.tag.toNat)] ∧ d.mem = s.dev.mem := by
  obtain ⟨u, hnote⟩ := (s.dev.owe p.val k).noteUnit_eq k
  obtain ⟨e, he⟩ : ∃ e, e = (s.dev.owe p.val k).noteUnit k := ⟨_, rfl⟩
  have hleaving : e.chain.leaving = s.dev.chain.leaving := by rw [he, hnote]; rfl
  have hmsgs : e.rennet.msgs = s.dev.rennet.msgs := by rw [he, hnote]; rfl
  have hmem : e.mem = s.dev.mem := by rw [he, hnote]; rfl
  refine ⟨(e.modChain (fun c =>
      { c with rx := tput c.rx (streamKey k.src.toNat k.cls.val) { next := r.next + 1, pend := r.pend + 1 } })).modRennet
      (fun x => { x with msgs := x.msgs ++ [.sig (pktSrc k) .sig obj.val v (some k.tag.toNat)] }),
    ?_, tget_tput_self e.chain.rx _ _, ?_, hmem⟩
  · change execChainPacketReceive p k s = _
    refine onDev_of_eq ?_
    unfold packetIn
    dsimp only
    rw [if_neg (by simp [hj, Port.isUp_of_active hup]), if_neg (by simp [hk, hcls]), Dev.owe_node,
      if_neg (not_not_intro hdst), Dev.owe_stalePkt, if_neg (Bool.eq_false_iff.1 hlive), hr, if_neg (not_not_intro hseq),
      if_neg (by omega), ← he, Dev.modChain_chain, hleaving, hstay, Bool.false_and, if_neg Bool.false_ne_true]
    unfold deliver
    dsimp only
    rw [hbody]
  · rw [Dev.modRennet_rennet, Dev.modChain_rennet, hmsgs]

end Arrives

/-! ### A packet in transit (R398, R405, R406, R411) -/

/-- Frames leave what waits. -/
theorem Dev.Frames.waitSend {d e : Dev} (h : d.Frames e) : e.chain.waitSend = d.chain.waitSend := by
  obtain ⟨t, n, o, rfl⟩ := h
  rfl

/-- The one transit packet leaves by the active link to its last hop. -/
theorem Dev.flushSend_transit {d : Dev} {pin pn : Nat} {k k' : ChainPkt} (hw : d.chain.waitSend = [])
    (ht : d.chain.transit = [(pin, k)]) (hroute : d.chain.portTo k.dst.toNat = some pn)
    (hk' : { k with
      vset := if k.src.toNat / 8 = k.dst.toNat / 8 || k.src.toNat % 8 = k.dst.toNat % 8 then 2 else k.vset } = k')
    (hcan : (d.port pn).canSend k' = true) :
    d.flushSend = ((d.owe pin k).portSend pn k').modChain (fun c => { c with transit := [] }) := by
  have hlist : transitList d [(pin, k)] [] = ((d.owe pin k).portSend pn k').modChain (fun c => { c with transit := [] }) := by
    unfold transitList
    rw [hroute]
    dsimp only
    rw [hk', if_neg (by simp [hcan])]
    rfl
  have howe : (d.owe pin k).chain.waitSend = [] := hw
  have hwait := (Dev.portSend_frames (d.owe pin k) pn k').waitSend.trans howe
  unfold Dev.flushSend
  rw [ht, if_neg (by simp), hlist]
  generalize (d.owe pin k).portSend pn k' = e at hwait ⊢
  have hempty : (e.modChain (fun c => { c with transit := [] })).chain.Idle := ⟨hwait, rfl⟩
  dsimp only
  rw [hempty.send]
  exact congrArg (fun c => { e with chain := c }) (Chain.waitSend_eta (c := { e.chain with transit := [] }) hwait)

theorem Dev.modChain_modChain (d : Dev) (f g : Chain → Chain) : (d.modChain f).modChain g = d.modChain (fun c => g (f c)) := rfl
theorem Dev.emit_modChain (d : Dev) (f : Chain → Chain) (m : OutMsg) : (d.emit m).modChain f = (d.modChain f).emit m := rfl

/-- A packet that leaves its buffer for a port changes the ports and the outputs. -/
theorem Dev.passedOn_eq (d : Dev) (pin pn : Nat) (k : ChainPkt) (f : Port → Port) (m : OutMsg) :
    ∃ c : Chain, c.transit = [] ∧ (((d.owe pin k).modPort pn f).emit m).modChain (fun c => { c with transit := [] }) =
      (d.modChain (fun _ => c)).emit m := by
  rw [Dev.owe, Dev.emit_modChain]
  unfold Dev.modPort
  rw [Dev.modChain_modChain, Dev.modChain_modChain]
  exact ⟨_, rfl, rfl⟩

/-- R398, R406, R411: a transit packet leaves with what its port tells of its own frames, and its buffer is free. -/
theorem exec_packetForward {p : Fin 16} {k k' : ChainPkt} {pn : Nat} (hi : s.dev.chain.Idle) (hj : s.dev.chain.joined = true)
    (hup : (s.dev.port p.val).st = .upActive) (hk : malformedPkt k = false) (hdst : k.dst.toNat ≠ s.dev.chain.node)
    (hroute : s.dev.chain.portTo k.dst.toNat = some pn) (hc : (s.dev.port pn).calm)
    (hk' : { k with
      vset := if k.src.toNat / 8 = k.dst.toNat / 8 || k.src.toNat % 8 = k.dst.toNat % 8 then 2 else k.vset } = k')
    (hcan : (s.dev.port pn).canSend k' = true) :
    ∃ d h n b, exec (.packetForward p k) s = .next { s with dev := d } ∧ d.out = s.dev.out ++ [.linkFrame pn h n (some k') b] ∧
      h.seq = (s.dev.port pn).txSeq ∧ h.ack = (s.dev.port pn).rxSeq ∧ d.chain.transit = [] ∧
      { d with chain := s.dev.chain, out := s.dev.out } = s.dev := by
  obtain ⟨e, he⟩ : ∃ e, e = s.dev.modChain (fun c => { c with transit := c.transit ++ [(p.val, k)] }) := ⟨_, rfl⟩
  have hexec : exec (.packetForward p k) s = .next { s with dev := e.flushSend } := by
    change execPacketForward p k s = _
    refine onDev_of_eq ?_
    rw [if_neg (by simp [hj, Port.isUp_of_active hup, hdst]), if_neg (Bool.eq_false_iff.1 hk), ← he]
  have hports : ∀ n, e.port n = s.dev.port n := fun n => by rw [he]; rfl
  have hrest : ∃ c, e = { s.dev with chain := c } := ⟨_, he⟩
  have hflush := Dev.flushSend_transit (d := e) (pin := p.val) (by rw [he]; exact hi.send)
    (by rw [he, Dev.modChain_chain, hi.transit]; rfl) (by rw [he]; exact hroute) hk' (by rw [hports]; exact hcan)
  clear he
  have howed : ∃ w, (e.owe p.val k).port pn = { s.dev.port pn with owed := w } := by
    by_cases hp : pn = p.val
    · subst hp
      rw [Dev.owe, Dev.port_modPort_self, hports]
      exact ⟨_, rfl⟩
    · rw [Dev.owe, Dev.port_modPort_ne _ _ hp, hports]
      exact ⟨_, rfl⟩
  obtain ⟨w, hport⟩ := howed
  obtain ⟨n, b, hframe⟩ : ∃ n b, (e.owe p.val k).nextFrame pn (some k') =
      .linkFrame pn ⟨(s.dev.port pn).txSeq, (s.dev.port pn).rxSeq, w⟩ n (some k') b := by
    unfold Dev.nextFrame
    rw [hport]
    exact ⟨_, _, rfl⟩
  rw [Dev.portSend_of_calm (by rw [hport]; exact hc), hframe] at hflush
  obtain ⟨c', htransit, hpassed⟩ := e.passedOn_eq p.val pn k (fun q => q.sentPacket k')
    (.linkFrame pn ⟨(s.dev.port pn).txSeq, (s.dev.port pn).rxSeq, w⟩ n (some k') b)
  obtain ⟨c, rfl⟩ := hrest
  rw [hflush, hpassed] at hexec
  exact ⟨_, ⟨(s.dev.port pn).txSeq, (s.dev.port pn).rxSeq, w⟩, n, b, hexec, rfl, rfl, rfl, htransit, rfl⟩

/-! ### Acknowledgements and resent packets (R415, R416) -/

/-- R415: a cumulative acknowledgement frees the packets that it covers. -/
theorem exec_chainAckReceive {k : ChainPkt} {i : Nat} {t : TxStream} (hi : s.dev.chain.Idle) (hj : s.dev.chain.joined = true)
    (hcls : k.cls.val = 7) (hdst : k.dst.toNat = s.dev.chain.node) (hk : malformedPkt k = false) (hlive : s.dev.stalePkt k = false)
    (ht : tgetD s.dev.chain.tx (streamKey k.src.toNat k.acls.val) {} = t)
    (hfind : t.unacked.findIdx? (fun x => x.seq == k.seq) = some i) :
    ∃ d, exec (.chainAckReceive k) s = .next { s with dev := d } ∧
      tget d.chain.tx (streamKey k.src.toNat k.acls.val) = some { t with unacked := t.unacked.drop (i + 1), timer := 20 } ∧
      { d with chain := s.dev.chain } = s.dev := by
  have hidle (f : Chain → Tbl TxStream) : (s.dev.modChain (fun c => { c with tx := f c })).flushSend =
      s.dev.modChain (fun c => { c with tx := f c }) := Dev.flushSend_idle ⟨hi.send, hi.transit⟩
  obtain ⟨t', ht'⟩ : ∃ t', t' = { t with unacked := t.unacked.drop (i + 1), timer := 20 } := ⟨_, rfl⟩
  rw [← ht']
  refine ⟨s.dev.modChain (fun c => { c with tx := tput c.tx (streamKey k.src.toNat k.acls.val) t' }), ?_, tget_tput_self .., rfl⟩
  change execChainAckReceive k s = _
  refine onDev_of_eq ?_
  dsimp only
  rw [if_neg (by simp [hj, hcls, hdst]), if_neg (Bool.eq_false_iff.1 hk), if_neg (Bool.eq_false_iff.1 hlive), ht, hfind]
  dsimp only
  rw [← ht']
  exact hidle _

/-- R416: a timeout doubles the timer, and the packets are sent again. -/
theorem exec_retransmitTimeout {dst : Fin 64} {cls : Fin 8} {t : TxStream} (hlive : s.dev.live dst.val = true)
    (ht : tgetD s.dev.chain.tx (streamKey dst.val cls.val) {} = t) (hsome : t.unacked ≠ []) :
    ∃ d, exec (.retransmitTimeout dst cls) s = .next { s with dev := d } ∧
      tget d.chain.tx (streamKey dst.val cls.val) = some { t with timer := min 320 (2 * t.timer) } ∧
      { d with chain := s.dev.chain, out := s.dev.out, free := s.dev.free } = s.dev := by
  obtain ⟨e, he⟩ : ∃ e, e = s.dev.modChain (fun c =>
      { c with tx := tput c.tx (streamKey dst.val cls.val) { t with timer := min 320 (2 * t.timer) } }) := ⟨_, rfl⟩
  have hresent : ∃ d, exec (.retransmitTimeout dst cls) s = .next { s with dev := d } ∧ e.Frames d := by
    have hexec (d : Dev) (h : execRetransmitTimeout dst cls s = .next { s with dev := d }) :
        exec (.retransmitTimeout dst cls) s = .next { s with dev := d } := h
    unfold execRetransmitTimeout at hexec
    rw [onDev_eq] at hexec
    dsimp only at hexec
    rw [ht, if_neg (by simp [hlive, hsome]), ← he] at hexec
    cases hroute : e.chain.route e.chain.node dst.val with
    | none =>
      rw [hroute] at hexec
      exact ⟨e, hexec e rfl, .refl e⟩
    | some r =>
      obtain ⟨nh, vs⟩ := r
      rw [hroute] at hexec
      dsimp only at hexec
      cases hport : e.chain.portTo nh with
      | none =>
        rw [hport] at hexec
        exact ⟨e, hexec e rfl, .refl e⟩
      | some pn =>
        rw [hport] at hexec
        exact ⟨_, hexec _ rfl, resendList_frames e pn vs t.unacked⟩
  obtain ⟨d, hexec, p, n, o, rfl⟩ := hresent
  refine ⟨_, hexec, ?_, ?_⟩
  · rw [he]
    exact tget_tput_self ..
  · rw [he]
    rfl

/-- R415: an acknowledgement that is due is sent. -/
theorem exec_ackTimer {src : Fin 64} {cls : Fin 8} {nh vs pn : Nat} {r : RxStream} (hlive : s.dev.live src.val = true)
    (hroute : s.dev.chain.route s.dev.chain.node src.val = some (nh, vs)) (hport : s.dev.chain.portTo nh = some pn)
    (hcan : ∀ k', (s.dev.port pn).canSend k' = true) (hc : (s.dev.port pn).calm)
    (hr : tgetD s.dev.chain.rx (streamKey src.val cls.val) {} = r) (hpend : r.pend ≠ 0) :
    ∃ d h n b k, exec (.ackTimer src cls) s = .next { s with dev := d } ∧
      tget d.chain.rx (streamKey src.val cls.val) = some { r with pend := 0 } ∧ d.out = s.dev.out ++ [.linkFrame pn h n (some k) b] ∧
      k.seq = r.next - 1 ∧ k.acls = cls ∧ k.cls = 7 := by
  obtain ⟨k, hk⟩ : ∃ k, k = { s.dev.packet src.val 7 3 0 0 0 0 0 0 (.answer 0 .ok []) with
        seq := r.next - 1, acls := Fin.ofNat 8 cls.val, vset := BitVec.ofNat 2 vs } := ⟨_, rfl⟩
  obtain ⟨e, he⟩ : ∃ e, e = s.dev.modChain (fun c => { c with rx := tput c.rx (streamKey src.val cls.val) { r with pend := 0 } }) :=
    ⟨_, rfl⟩
  have hcalm : (e.port pn).calm := by rw [he]; exact hc
  have hexec : exec (.ackTimer src cls) s = .next { s with dev := e.portSend pn k } := by
    change execAckTimer src cls s = _
    refine onDev_of_eq ?_
    rw [hr, if_pos (by simp [hlive, hpend])]
    unfold Dev.sendAck
    dsimp only
    rw [hroute]
    dsimp only
    rw [hport, hr]
    dsimp only
    rw [← hk, if_pos (hcan k), he]
  obtain ⟨h, n, b, hframe⟩ : ∃ h n b, e.nextFrame pn (some k) = .linkFrame pn h n (some k) b := ⟨_, _, _, rfl⟩
  rw [Dev.portSend_of_calm hcalm, hframe] at hexec
  refine ⟨_, h, n, b, k, hexec, ?_, ?_, ?_, ?_, ?_⟩
  · rw [he]
    exact tget_tput_self ..
  · rw [he]
    rfl
  · rw [hk]
  · rw [hk]
    exact Fin.ext (Nat.mod_eq_of_lt cls.isLt)
  · rw [hk]
    rfl

/-! ### Reports of slots, links and nodes that live (R400, R405, R407, R425) -/

/-- R425: a heartbeat leaves for every node that can be reached. -/
theorem exec_heartbeatTimer (hj : s.dev.chain.joined = true) :
    ∃ d, exec .heartbeatTimer s = .next { s with dev := d } ∧
      (∀ n, n < 64 → n ≠ s.dev.chain.node → s.dev.reach n = true → .heartbeat n s.dev.chain.inc ∈ d.out) ∧
      { d with out := s.dev.out } = s.dev := by
  have hfold (l : List Nat) (d : Dev) : foldDev d l (fun d n => d.emit (.heartbeat n d.chain.inc)) =
      { d with out := d.out ++ l.map (fun n => .heartbeat n d.chain.inc) } := by
    induction l generalizing d with
    | nil => simp [foldDev]
    | cons x t ih =>
      refine (ih (d.emit (.heartbeat x d.chain.inc))).trans ?_
      simp [Dev.emit]
  refine ⟨_, onDev_of_eq (f := fun d => if !d.chain.joined then d else foldDev d ((List.range 64).filter (fun n =>
      n != d.chain.node && d.reach n)) (fun d n => d.emit (.heartbeat n d.chain.inc)))
    ((if_neg (by simp [hj])).trans (hfold _ _)), fun n hn hne hreach => ?_, rfl⟩
  · refine List.mem_append_right _ (List.mem_map.2 ⟨n, List.mem_filter.2 ⟨List.mem_range.2 hn, ?_⟩, rfl⟩)
    simp [hne, hreach]

/-- R400, R407: a slot of which nothing was known is learnt. -/
theorem exec_slotChangeReceive {n : Fin 64} {x : Slot} (hi : s.dev.chain.Idle) (hj : s.dev.chain.joined = true)
    (hne : n.val ≠ s.dev.chain.node) (hnone : s.dev.slot n.val = noSlot) (hlive : x.st = .live) (hused : x.used = true) :
    ∃ d, exec (.slotChangeReceive n x) s = .next { s with dev := d } ∧ d.slot n.val = x ∧ d.mem = s.dev.mem := by
  have hlater : laterSlot noSlot x = true := by simp [laterSlot, noSlot, hused]
  have hsame : s.dev.SamePorts ((s.dev.dropStreams n.val).setSlot n.val x) :=
    (Dev.SamePorts.dropStreams (d := s.dev) ⟨hi, rfl, rfl, rfl⟩ n.val).setSlot n.val x
  obtain ⟨t, o, -, hslot, -⟩ := (s.dev.dropStreams n.val).setSlot_eq n.val x
  refine ⟨(s.dev.dropStreams n.val).setSlot n.val x, ?_, hslot, hsame.mem⟩
  change execSlotChangeReceive n x s = _
  refine onDev_of_eq ?_
  rw [if_pos hj]
  unfold Dev.learnSlot
  dsimp only
  rw [hnone, if_neg (by simp [hlater]), if_neg hne, hlive]
  dsimp only
  rw [if_neg (by simp [noSlot]), Dev.flushSend_idle hsame.idle]

/-- R405, R407: a link between two other nodes is learnt. -/
theorem exec_linkStateReceive {a b : Fin 64} (up : Bool) (hi : s.dev.chain.Idle) (hj : s.dev.chain.joined = true) (hab : a ≠ b)
    (ha : a.val ≠ s.dev.chain.node) (hb : b.val ≠ s.dev.chain.node) :
    ∃ d, exec (.linkStateReceive a b up) s = .next { s with dev := d } ∧ d.chain.up a.val b.val = up ∧ d.mem = s.dev.mem := by
  obtain ⟨l, o, hlink, hup⟩ := Dev.setLink_eq hi a.val b.val up
  refine ⟨s.dev.setLink a.val b.val up, ?_, hup, by rw [hlink]⟩
  change execLinkStateReceive a b up s = _
  refine onDev_of_eq ?_
  rw [if_neg (by simp [hj, hab, ha, hb])]

end Packets
end Sys2Proof.Machine

/-!
What a node tells of the others. A write, a message, a wake, a record and the end of what another node has under way change neither
the slot table nor the containment, and no declaration of a dead node leaves the outputs by them. One rule for each operation, in the
order of the model.
-/
namespace Sys2Proof.Machine

/-- A flooded declaration of a dead node (R425). -/
def OutMsg.isDeath : OutMsg → Bool
  | .floodDead _ _ => true
  | _ => false

/-- The slot table, the containment, and the declarations of dead nodes that have left. -/
def Dev.news (d : Dev) : Tbl Slot × Option Contain × List OutMsg := (d.chain.slots, d.faults.contain, d.out.filter OutMsg.isDeath)

section Parts
variable {d e : Dev} (h : d.news = e.news)
include h

theorem Dev.slots_of_news : d.chain.slots = e.chain.slots := congrArg (fun x => x.1) h
theorem Dev.contain_of_news : d.faults.contain = e.faults.contain := congrArg (fun x => x.2.1) h

theorem Dev.death_of_news {n : Nat} {i : BitVec 4} : OutMsg.floodDead n i ∈ d.out ↔ .floodDead n i ∈ e.out := by
  have hmem (x : Dev) : OutMsg.floodDead n i ∈ x.out ↔ .floodDead n i ∈ x.news.2.2 := by
    simp [Dev.news, OutMsg.isDeath]
  rw [hmem, hmem, h]

end Parts

@[simp] theorem Dev.ite_news {c : Prop} [Decidable c] (d e : Dev) :
    (if c then d else e).news = if c then d.news else e.news := apply_ite Dev.news c d e

@[simp] theorem Dev.setWrites_news (d : Dev) (l : List OutW) : ({ d with writes := l } : Dev).news = d.news := rfl

/-! ### The operations that every family shares -/

@[simp] theorem foldDev_news {α : Type} {f : Dev → α → Dev} (hf : ∀ d x, (f d x).news = d.news) (d : Dev)
    (l : List α) : (foldDev d l f).news = d.news :=
  foldDev_keeps (fun e => e.news = d.news) (fun e x h => (hf e x).trans h) l rfl

@[simp] theorem Dev.modHost_news (d : Dev) (f) : (d.modHost f).news = d.news := rfl

@[simp] theorem Dev.modTiers_news (d : Dev) (f) : (d.modTiers f).news = d.news := rfl

@[simp] theorem Dev.modAnvil_news (d : Dev) (f) : (d.modAnvil f).news = d.news := rfl

@[simp] theorem Dev.modRennet_news (d : Dev) (f) : (d.modRennet f).news = d.news := rfl

@[simp] theorem Dev.modCoh_news (d : Dev) (f) : (d.modCoh f).news = d.news := rfl

@[simp] theorem Dev.modChain_news (d : Dev) {f : Chain → Chain} (h : (f d.chain).slots = d.chain.slots) :
    (d.modChain f).news = d.news := by
  simp only [Dev.news, Dev.modChain, h]

@[simp] theorem Dev.modPort_news (d : Dev) (p f) : (d.modPort p f).news = d.news := rfl

theorem Dev.emit_news (d : Dev) {o : OutMsg} (h : o.isDeath = false) : (d.emit o).news = d.news := by
  have hnone : [o].filter OutMsg.isDeath = [] := List.filter_cons_of_neg (by rw [h]; exact Bool.false_ne_true)
  rw [Dev.news, Dev.emit, List.filter_append, hnone, List.append_nil]
  rfl

@[simp] theorem Dev.emit_msix_news (d : Dev) (v a x) : (d.emit (.msix v a x)).news = d.news := d.emit_news rfl

@[simp] theorem Dev.emit_linkFrame_news (d : Dev) (p h n k b) : (d.emit (.linkFrame p h n k b)).news = d.news := d.emit_news rfl

@[simp] theorem Dev.emit_linkRekey_news (d : Dev) (p n) : (d.emit (.linkRekey p n)).news = d.news := d.emit_news rfl

@[simp] theorem Dev.emit_hostWrite_news (d : Dev) (a b p t) : (d.emit (.hostWrite a b p t)).news = d.news := d.emit_news rfl

@[simp] theorem Dev.emit_unsupported_news (d : Dev) : (d.emit .unsupported).news = d.news := d.emit_news rfl

@[simp] theorem Dev.modEng_news (d : Dev) (e f) : (d.modEng e f).news = d.news := rfl

@[simp] theorem Dev.modCore_news (d : Dev) (h f) : (d.modCore h f).news = d.news := rfl

@[simp] theorem Dev.modStep_news (d : Dev) (n f) : (d.modStep n f).news = d.news := rfl

@[simp] theorem Dev.wr_news (d : Dev) (off bs) : (d.wr off bs).news = d.news := rfl

@[simp] theorem Dev.setPoison_news (d : Dev) (line) : (d.setPoison line).news = d.news := by
  unfold Dev.setPoison
  split <;> rfl

@[simp] theorem Dev.clrPoison_news (d : Dev) (line) : (d.clrPoison line).news = d.news := rfl

@[simp] theorem Dev.heatUp_news (d : Dev) (off) : (d.heatUp off).news = d.news := rfl

@[simp] theorem Dev.fixPsn_news (d : Dev) (f) : (d.fixPsn f).news = d.news := rfl

@[simp] theorem Dev.markDirty_news (d : Dev) (off) : (d.markDirty off).news = d.news := rfl

@[simp] theorem Dev.loseResv_news (d : Dev) (off who sub) : (d.loseResv off who sub).news = d.news := rfl

@[simp] theorem Dev.raise_news (d : Dev) (e) : (d.raise e).news = d.news := by
  unfold Dev.raise
  exact Dev.modHost_news d _

@[simp] theorem Dev.signal_news (d : Dev) (b) : (d.signal b).news = d.news := by simp [Dev.signal]

@[simp] theorem Dev.queueRec_news (d : Dev) (c r) : (d.queueRec c r).news = d.news := rfl

@[simp] theorem Dev.dataRec_news (d : Dev) (kind off gran source die) :
    (d.dataRec kind off gran source die).news = d.news :=
  foldDev_news (fun e c => e.queueRec_news c _) d _

@[simp] theorem Dev.loseLine_news (d : Dev) (off source die) :
    (d.loseLine off source die).news = d.news := by simp [Dev.loseLine]

@[simp] theorem Dev.lostStore_news (d : Dev) (src ctx step node addr len red sg) :
    (d.lostStore src ctx step node addr len red sg).news = d.news := by
  unfold Dev.lostStore
  (repeat' split) <;> simp

@[simp] theorem Dev.cancelFar_news (d : Dev) (e) : (d.cancelFar e).news = d.news := rfl

@[simp] theorem Dev.abandon_news (d : Dev) (e) : (d.abandon e).news = d.news := by simp [Dev.abandon]

@[simp] theorem Dev.dropUser_news (d : Dev) (u) : (d.dropUser u).news = d.news := rfl

@[simp] theorem Dev.stopEng_news (d : Dev) (e) : (d.stopEng e).news = d.news := by simp [Dev.stopEng]

@[simp] theorem Dev.stallEnds_news (d : Dev) (c) : (d.stallEnds c).news = d.news := rfl

@[simp] theorem Dev.stopAll_news (d : Dev) (n es) : (d.stopAll n es).news = d.news := by simp [Dev.stopAll]

@[simp] theorem Dev.endStep_news (d : Dev) (n o) : (d.endStep n o).news = d.news := by
  unfold Dev.endStep
  split <;> simp

@[simp] theorem Dev.failStep_news (d : Dev) (n st detail addr) :
    (d.failStep n st detail addr).news = d.news := by simp [Dev.failStep]

@[simp] theorem Dev.failEng_news (d : Dev) (e st detail addr) : (d.failEng e st detail addr).news = d.news := by
  unfold Dev.failEng
  split <;> simp

/-! ### Writes, reads and messages on their way -/

@[simp] theorem Dev.entropy_news (d : Dev) : d.entropy.2.news = d.news := rfl

@[simp] theorem Dev.rekeyDue_news (d : Dev) (pn) : (d.rekeyDue pn).news = d.news := by
  unfold Dev.rekeyDue
  dsimp only
  split <;> simp [Dev.rekey]

@[simp] theorem Dev.frameOut_news (d : Dev) (pn k) : (d.frameOut pn k).news = d.news := by simp [Dev.frameOut]

@[simp] theorem Dev.portSend_news (d : Dev) (pn k) : (d.portSend pn k).news = d.news := by simp [Dev.portSend]

theorem Dev.trySend_news {d e : Dev} {dst : Nat} {k : ChainPkt} (h : d.trySend dst k = some e) : e.news = d.news := by
  unfold Dev.trySend at h
  grind [Dev.portSend_news, Dev.modChain_news, Chain.place]

@[simp] theorem flushList_news (d : Dev) (l keep) : (flushList d l keep).news = d.news := by
  induction l generalizing d keep with
  | nil => simp [flushList]
  | cons p t ih =>
    unfold flushList
    split
    · exact ih d _
    · split
      next e he => rw [ih, Dev.trySend_news he]
      · exact ih d _

@[simp] theorem transitList_news (d : Dev) (l keep) : (transitList d l keep).news = d.news := by
  induction l generalizing d keep with
  | nil => simp [transitList]
  | cons p t ih =>
    unfold transitList
    dsimp only
    (repeat' split) <;> simp [ih, Dev.owe]

@[simp] theorem Dev.flushSend_news (d : Dev) : d.flushSend.news = d.news := by simp [Dev.flushSend]

@[simp] theorem Dev.chainSend_news (d : Dev) (dst cls src ctx pd tag len body slice) :
    (d.chainSend dst cls src ctx pd tag len body slice).news = d.news := by simp [Dev.chainSend]

@[simp] theorem Dev.newTag_news (d : Dev) : d.newTag.2.news = d.news := rfl

@[simp] theorem Dev.vatPut_news (d : Dev) (v bs but) : (d.vatPut v bs but).news = d.news := rfl

@[simp] theorem Dev.send_news (d : Dev) (m) : (d.send m).news = d.news := rfl

@[simp] theorem Dev.launch_news (d : Dev) (w t) : (d.launch w t).news = d.news := by
  unfold Dev.launch
  dsimp only
  split
  · rw [Dev.setWrites_news, Dev.send_news]
  · simp
  · simp
  · split
    · simp
    · rw [Dev.ite_news, Dev.setWrites_news, Dev.send_news, Dev.chainSend_news, Dev.setWrites_news d.newTag.2,
        Dev.newTag_news, ite_self]
  · rfl

@[simp] theorem Dev.issueWrite_news (d : Dev) (src addr bs red rq) : (d.issueWrite src addr bs red rq).news = d.news := by
  unfold Dev.issueWrite
  dsimp only
  split
  · rfl
  · exact Dev.launch_news d _ _

@[simp] theorem Dev.issueWrites_news (d : Dev) (src addr bs red u rq) :
    (d.issueWrites src addr bs red u rq).news = d.news := by simp [Dev.issueWrites]

@[simp] theorem Dev.rennetSend_news (d : Dev) (n src step m) : (d.rennetSend n src step m).news = d.news := by
  unfold Dev.rennetSend
  dsimp only
  split
  · rfl
  · split
    · split
      · rw [Dev.chainSend_news, Dev.setWrites_news, Dev.newTag_news]
      · simp
    · split <;> simp
    · split <;> simp
    · rfl

@[simp] theorem Dev.setRun_news (d : Dev) (e r) : (d.setRun e r).news = d.news := rfl

@[simp] theorem Dev.sendAtomic_news (d : Dev) (e addr op) : (d.sendAtomic e addr op).news = d.news := by
  unfold Dev.sendAtomic
  split <;> simp

@[simp] theorem Dev.vatAmo_news (d : Dev) (v op w b) : (d.vatAmo v op w b).2.news = d.news := rfl

@[simp] theorem Dev.runCont_news (d : Dev) (e k) : (d.runCont e k).news = d.news := by
  unfold Dev.runCont
  (repeat' split) <;> simp

@[simp] theorem Dev.settleEng_news (d : Dev) (e) : (d.settleEng e).news = d.news := by
  unfold Dev.settleEng
  dsimp only
  cases (d.eng e).run with
  | release sc k => simp
  | await t =>
    cases (d.eng e).step with
    | none => rfl
    | some n => simp
  | twait t => simp
  | vfence => simp
  | _ => rfl

@[simp] theorem Dev.flushIrqs_news (d : Dev) : d.flushIrqs.news = d.news := by
  unfold Dev.flushIrqs
  split
  · rfl
  · rw [foldDev_news Dev.signal_news]
    rfl

@[simp] theorem Dev.settle_news (d : Dev) : d.settle.news = d.news := by
  unfold Dev.settle
  dsimp only
  rw [Dev.modAnvil_news, foldDev_news Dev.settleEng_news, Dev.flushIrqs_news]

/-! ### Frames -/

@[simp] theorem Dev.startFill_news (d : Dev) (f) : (d.startFill f).2.news = d.news := by
  unfold Dev.startFill
  dsimp only
  (repeat' split) <;> simp

@[simp] theorem Dev.redEnter_news (d : Dev) (line) : (d.redEnter line).news = d.news := rfl

theorem Dev.frameGate_news {d e : Dev} {off : Nat} (h : d.frameGate off = .go e ∨ d.frameGate off = .hold e) :
    e.news = d.news := by
  unfold Dev.frameGate at h
  grind [Dev.startFill_news]

/-! ### Traps of the application cores -/

@[simp] theorem Dev.exc_news (d : Dev) (h cause tval) : (d.exc h cause tval).news = d.news := rfl

/-! ### Coherence messages -/

@[simp] theorem Dev.chainMsg_news (d : Dev) (n m) : (d.chainMsg n m).news = d.news := by simp [Dev.chainMsg]

@[simp] theorem Dev.toAgent_news (d : Dev) (m) : (d.toAgent m).news = d.news := by
  unfold Dev.toAgent
  split <;> simp

@[simp] theorem Dev.toHome_news (d : Dev) (m) : (d.toHome m).news = d.news := by
  unfold Dev.toHome
  split <;> simp

theorem Dev.refuseReq_news {d e : Dev} {m : NMsg} (h : d.refuseReq m = some e) : e.news = d.news := by
  unfold Dev.refuseReq at h
  grind [Dev.toAgent_news, Dev.modCoh_news]

@[simp] theorem Dev.spendTicket_news (d : Dev) (m) : (d.spendTicket m).news = d.news := by
  unfold Dev.spendTicket
  split <;> rfl

@[simp] theorem Dev.setHolder_news (d : Dev) (key h s) : (d.setHolder key h s).news = d.news := rfl

@[simp] theorem Dev.noteHolder_news (d : Dev) (key who st) : (d.noteHolder key who st).news = d.news := by
  unfold Dev.noteHolder
  split <;> rfl

@[simp] theorem Dev.takeEntry_news (d : Dev) (key) : (d.takeEntry key).news = d.news := by simp [Dev.takeEntry]

@[simp] theorem Dev.touchSys_news (d : Dev) (line) : (d.touchSys line).news = d.news := rfl

@[simp] theorem Dev.dropSys_news (d : Dev) (line) : (d.dropSys line).news = d.news := rfl

@[simp] theorem Dev.toMemory_news (d : Dev) (a bs poison fresh) :
    (d.toMemory a bs poison fresh).news = d.news := by simp [Dev.toMemory]

@[simp] theorem Dev.doAtomic_news (d : Dev) (m) : (d.doAtomic m).2.news = d.news := by
  unfold Dev.doAtomic
  split <;> simp

@[simp] theorem Dev.doWrite_news (d : Dev) (m) : (d.doWrite m).news = d.news := by
  unfold Dev.doWrite
  split <;> rfl

@[simp] theorem Dev.noteRefusal_news (d : Dev) (n st) : (d.noteRefusal n st).news = d.news := by simp [Dev.noteRefusal]

@[simp] theorem Dev.answer_news (d : Dev) (m b) : (d.answer m b).news = d.news := by
  unfold Dev.answer
  (repeat' split) <;> simp

@[simp] theorem Dev.sendData_news (d : Dev) (m bs st dirty poison fresh) :
    (d.sendData m bs st dirty poison fresh).news = d.news := by simp [Dev.sendData]

/-! ### Coherence at the home -/

@[simp] theorem Dev.setTxn_news (d : Dev) (key t) : (d.setTxn key t).news = d.news := rfl

@[simp] theorem Dev.dropTxn_news (d : Dev) (key) : (d.dropTxn key).news = d.news := rfl

@[simp] theorem Dev.modProxy_news (d : Dev) (key f) : (d.modProxy key f).news = d.news := rfl

@[simp] theorem Dev.holdMsg_news (d : Dev) (m) : (d.holdMsg m).news = d.news := rfl

@[simp] theorem Dev.queueRed_news (d : Dev) (m) : (d.queueRed m).news = d.news := rfl

@[simp] theorem Dev.applyRed_news (d : Dev) (m) : (d.applyRed m).news = d.news := by
  have hput : (((((d.loseResv m.addr m.who m.rq).wr m.addr
      (redBytes m.red m.ty m.bytes.length (d.rd m.addr m.bytes.length) m.bytes)).markDirty m.addr).heatUp m.addr).dropSys
      (maKey m.addr) |>.redEnter (maKey m.addr)).news = d.news := by simp
  unfold Dev.applyRed
  dsimp only
  split
  · split
    · rwa [Dev.chainSend_news]
    · exact hput
  · rwa [Dev.setWrites_news, Dev.send_news]

@[simp] theorem Dev.answerRead_news (d : Dev) (m) : (d.answerRead m).news = d.news := by
  unfold Dev.answerRead
  dsimp only
  split <;> simp

@[simp] theorem Dev.awaitAck_news (d : Dev) (key t) : (d.awaitAck key t).news = d.news := by simp [Dev.awaitAck]

@[simp] theorem Dev.noCopy_news (d : Dev) (key) : (d.noCopy key).news = d.news := by simp [Dev.noCopy]

@[simp] theorem Dev.finishHome_news (d : Dev) (key t) : (d.finishHome key t).news = d.news := by
  unfold Dev.finishHome
  dsimp only
  (repeat' split) <;> simp

@[simp] theorem Dev.ask_news (d : Dev) (m k) : (d.ask m k).news = d.news := by simp [Dev.ask]

@[simp] theorem Dev.sendWb_news (d : Dev) (key m) : (d.sendWb key m).news = d.news := by simp [Dev.sendWb]

@[simp] theorem Dev.sendEvict_news (d : Dev) (key) : (d.sendEvict key).news = d.news := by simp [Dev.sendEvict]

@[simp] theorem Dev.proxySupply_news (d : Dev) (home r m) : (d.proxySupply home r m).news = d.news := by
  unfold Dev.proxySupply
  split <;> simp

@[simp] theorem Dev.respond_news (d : Dev) (key t) : (d.respond key t).news = d.news := by
  unfold Dev.respond
  dsimp only
  (repeat' split) <;> simp

@[simp] theorem Dev.giveUp_news (d : Dev) (m) : (d.giveUp m).news = d.news := by simp [Dev.giveUp]

@[simp] theorem Dev.finishProxy_news (d : Dev) (key t) : (d.finishProxy key t).news = d.news := by
  unfold Dev.finishProxy
  dsimp only
  (repeat' split) <;> simp

@[simp] theorem Dev.endAbandoned_news (d : Dev) (key t) : (d.endAbandoned key t).news = d.news := by
  unfold Dev.endAbandoned
  split <;> simp

@[simp] theorem Dev.tryFinish_news (d : Dev) (key) : (d.tryFinish key).news = d.news := by
  unfold Dev.tryFinish
  split
  · split
    · rfl
    · split
      · simp
      · split
        · split
          · split
            next e he => rw [Dev.finishHome_news, Dev.frameGate_news (.inl he)]
            next e he => exact Dev.frameGate_news (.inr he)
            · simp
          · simp
        · simp
  · rfl

@[simp] theorem Dev.startWith_news (d : Dev) (m old) : (d.startWith m old).news = d.news := by simp [Dev.startWith]

@[simp] theorem Dev.startTxn_news (d : Dev) (m) : (d.startTxn m).news = d.news := by simp [Dev.startTxn]

@[simp] theorem Dev.backInvalidate_news (d : Dev) (key) : (d.backInvalidate key).news = d.news := by
  unfold Dev.backInvalidate
  (repeat' split) <;> simp

@[simp] theorem Dev.served_news (d : Dev) (m) : (d.served m).news = d.news := rfl

@[simp] theorem Dev.admitHome_news (d : Dev) (m old) : (d.admitHome m old).news = d.news := by
  unfold Dev.admitHome
  dsimp only
  split
  · simp
  · split
    · simp
    next e he => simp [Dev.frameGate_news (.inr he)]
    next e he =>
      have hgo := Dev.frameGate_news (.inl he)
      split
      · split
        · simp [hgo]
        · split
          next f hf => exact (Dev.refuseReq_news hf).trans hgo
          · simp [hgo]
      · split
        · simp [hgo]
        · split <;> simp [hgo]

@[simp] theorem Dev.admitRed_news (d : Dev) (m) : (d.admitRed m).news = d.news := by
  unfold Dev.admitRed
  dsimp only
  split
  · simp
  next e he => simp [Dev.frameGate_news (.inr he)]
  next e he =>
    have hgo := Dev.frameGate_news (.inl he)
    split <;> simp [hgo]

@[simp] theorem Dev.admitProxy_news (d : Dev) (m) : (d.admitProxy m).news = d.news := by
  unfold Dev.admitProxy
  (repeat' split) <;> simp

@[simp] theorem Dev.wbCame_news (d : Dev) (key who back) : (d.wbCame key who back).news = d.news := by
  unfold Dev.wbCame
  split <;> simp

@[simp] theorem Dev.applyWb_news (d : Dev) (m) : (d.applyWb m).news = d.news := by
  unfold Dev.applyWb
  dsimp only
  split
  · simp
  · split
    next e he => simp [Dev.frameGate_news (.inl he)]
    next e he => simp [Dev.frameGate_news (.inr he)]
    all_goals simp

@[simp] theorem Dev.proxyFwd_news (d : Dev) (m) : (d.proxyFwd m).news = d.news := by simp [Dev.proxyFwd]

@[simp] theorem Dev.readmit_news (d : Dev) (m) : (d.readmit m).news = d.news := by
  unfold Dev.readmit
  (repeat' split) <;> simp

@[simp] theorem Dev.retryHeld_news (d : Dev) : d.retryHeld.news = d.news := by simp [Dev.retryHeld]

end Sys2Proof.Machine

/-!
What a node tells of the others stays as it is while the lines of a dead node are reclaimed, its accesses refused, and everything under
way at another node ends (R280 to R283, R425, R426).
-/
namespace Sys2Proof.Machine

/-! ### Coherence at a core -/

@[simp] theorem Dev.setCore_news (d : Dev) (h c) : (d.setCore h c).news = d.news := rfl

@[simp] theorem retireLoads_news (n) (d : Dev) (h) : (retireLoads n d h).news = d.news := by
  fun_induction retireLoads n d h <;> simp [*]

@[simp] theorem Dev.retireCore_news (d : Dev) (h) : (d.retireCore h).news = d.news := by simp [Dev.retireCore]

@[simp] theorem Dev.loadDone_news (d : Dev) (h seq v) : (d.loadDone h seq v).news = d.news := by simp [Dev.loadDone]

@[simp] theorem Dev.loadFail_news (d : Dev) (h seq cause a) : (d.loadFail h seq cause a).news = d.news := by simp [Dev.loadFail]

@[simp] theorem Dev.unbackedStore_news (d : Dev) (h addr) : (d.unbackedStore h addr).news = d.news := rfl

@[simp] theorem Dev.perform_news (d : Dev) (h a) : (d.perform h a).news = d.news := by
  unfold Dev.perform
  dsimp only
  (repeat' split) <;> simp

@[simp] theorem Dev.evictLine_news (d : Dev) (h key) : (d.evictLine h key).news = d.news := by
  unfold Dev.evictLine
  dsimp only
  (repeat' split) <;> simp

theorem Dev.makeRoom_news {d e : Dev} {h : Fin 64} {key : Nat} (he : d.makeRoom h key = some e) : e.news = d.news := by
  unfold Dev.makeRoom at he
  grind [Dev.evictLine_news]

@[simp] theorem Dev.coreAsk_news (d : Dev) (h k key) : (d.coreAsk h k key).news = d.news := rfl

@[simp] theorem Dev.wantLine_news (d : Dev) (h key a) : (d.wantLine h key a).news = d.news := by
  unfold Dev.wantLine
  dsimp only
  split
  · split <;> simp
  · split
    · rfl
    next e he => simp [Dev.makeRoom_news he]

@[simp] theorem Dev.coreOne_news (d : Dev) (h a) : (d.coreOne h a).news = d.news := by
  unfold Dev.coreOne
  split <;> simp

@[simp] theorem Dev.coreTry_news (d : Dev) (h a) : (d.coreTry h a).news = d.news := by
  unfold Dev.coreTry
  split <;> simp

@[simp] theorem Dev.retryAccs_news (d : Dev) (h) : (d.retryAccs h).news = d.news := by simp [Dev.retryAccs]

@[simp] theorem Dev.lineCame_news (d : Dev) (h key l st) : (d.lineCame h key l st).news = d.news := by simp [Dev.lineCame]

@[simp] theorem Dev.refusedAcc_news (d : Dev) (h st a) : (d.refusedAcc h st a).news = d.news := by
  unfold Dev.refusedAcc
  split <;> simp

@[simp] theorem Dev.coreReply_news (d : Dev) (h st v) : (d.coreReply h st v).news = d.news := by
  unfold Dev.coreReply
  split <;> simp

@[simp] theorem Dev.storeEnds_news (d : Dev) (h m) : (d.storeEnds h m).news = d.news := by
  unfold Dev.storeEnds
  split <;> rfl

@[simp] theorem Dev.onceRefused_news (d : Dev) (h key) : (d.onceRefused h key).news = d.news := by
  unfold Dev.onceRefused
  split <;> simp

@[simp] theorem Dev.coreComp_news (d : Dev) (h m) : (d.coreComp h m).news = d.news := by
  unfold Dev.coreComp
  dsimp only
  (repeat' split) <;> simp

/-! ### What an agent held (R280, R281) -/

@[simp] theorem Dev.shareHolder_news (d : Dev) (key who dirty) : (d.shareHolder key who dirty).news = d.news := by
  unfold Dev.shareHolder
  split <;> rfl

@[simp] theorem Dev.dropHolder_news (d : Dev) (key who) : (d.dropHolder key who).news = d.news := by
  unfold Dev.dropHolder
  split <;> rfl

@[simp] theorem Dev.snpAcked_news (d : Dev) (m) : (d.snpAcked m).news = d.news := by
  unfold Dev.snpAcked
  dsimp only
  (repeat' split) <;> simp

@[simp] theorem Dev.endAck_news (d : Dev) (key t) : (d.endAck key t).news = d.news := by
  unfold Dev.endAck
  dsimp only
  split <;> simp

@[simp] theorem Dev.forgetAgent_news (d : Dev) (a) : (d.forgetAgent a).news = d.news := by
  unfold Dev.forgetAgent
  extract_lets drop held d1 d2 d3
  have h2 : d2.news = d.news := foldDev_news (fun e p => by (repeat' split) <;> simp) d1 _
  clear_value d2
  have h3 : d3.news = d2.news := foldDev_news (fun e p => by (repeat' split) <;> simp) d2 _
  rw [Dev.retryHeld_news, h3, h2]

@[simp] theorem Dev.lostHolder_news (d : Dev) (key) : (d.lostHolder key).news = d.news := by simp [Dev.lostHolder]

@[simp] theorem Dev.dropSharers_news (d : Dev) (key) : (d.dropSharers key).news = d.news := by simp [Dev.dropSharers]

@[simp] theorem Dev.reclaimDir_news (d : Dev) (n) : (d.reclaimDir n).news = d.news := by
  unfold Dev.reclaimDir
  dsimp only
  rw [Dev.forgetAgent_news, foldDev_news]
  intro e p
  split <;> simp

/-! ### Lines of another node (R282, R283) -/

@[simp] theorem Dev.dropRemote_news (d : Dev) (n tell) : (d.dropRemote n tell).news = d.news := by
  have htell (l : List (Nat × Nat)) :
      (foldDev d l (fun d p => d.raise (evt 5 .lostStore .hub p.2 (gaddr (64 * p.1)).toNat 0))).news = d.news :=
    foldDev_news (fun _ _ => Dev.raise_news _ _) d l
  have hlines : ∀ e : Dev, ∀ h (l : List (Nat × CLine)), (foldDev e l (fun e p =>
      let dirty := p.2.st == .m || p.2.st == .o || p.2.st == .omD || p.2.st == .miA
      let ga := (gaddr (64 * p.1)).toNat
      let e := e.modCore h (fun c => { (c.delLine p.1) with resv := if c.resv = some (p.1 / 2) then none else c.resv })
      let e := if dirty && tell then e.raise (evt 5 .lostStore .hub h.val ga 0) else e
      foldDev e p.2.acc (fun e a => e.refusedAcc h .unreachable a))).news = e.news := by
    intro e h l
    refine foldDev_news (fun e p => ?_) e l
    dsimp only
    rw [foldDev_news (by simp)]
    split <;> simp
  unfold Dev.dropRemote
  dsimp only
  rw [foldDev_news (by simp), Dev.modCoh_news, foldDev_news, foldDev_news]
  · split
    · exact htell _
    · rfl
  · intro e h
    exact hlines e h _
  · intro e h
    exact foldDev_news (by simp) _ _

@[simp] theorem Dev.cleanRejoin_news (d : Dev) : d.cleanRejoin.news = d.news := by
  unfold Dev.cleanRejoin
  dsimp only
  rw [foldDev_news Dev.reclaimDir_news,
    foldDev_news (f := fun d (n : Fin 64) => d.dropRemote n.val false) fun e n => e.dropRemote_news n.val false]

/-! ### What is under way at another node (R211, R212, R237) -/

@[simp] theorem Dev.dropStreams_news (d : Dev) (n) : (d.dropStreams n).news = d.news := rfl

@[simp] theorem Dev.cutNode_news (d : Dev) (n tell) : (d.cutNode n tell).news = d.news := by
  unfold Dev.cutNode
  extract_lets at_n lost reqs d1 amos d2 d3 ctxOf d4 d5 d6 far reads d7 d8
  have h3 : d3.news = d.news := rfl
  clear_value d3
  have h4 : d4.news = d3.news := by
    simp only [d4]
    split
    · exact foldDev_news (fun _ _ => Dev.lostStore_news _ _ _ _ _ _ _ _ _) _ _
    · rfl
  clear_value d4
  have h5 : d5.news = d4.news := foldDev_news (fun _ _ => Dev.failEng_news _ _ _ _ _) _ _
  clear_value d5
  have h6 : d6.news = d5.news := foldDev_news (fun _ _ => Dev.coreReply_news _ _ _ _) _ _
  clear_value d6
  have h7 : d7.news = d6.news := rfl
  clear_value d7
  have h8 : d8.news = d7.news := foldDev_news (fun _ _ => by simp) _ _
  clear_value d8
  rw [Dev.settle_news, Dev.dropStreams_news, h8, h7, h6, h5, h4, h3]

end Sys2Proof.Machine

/-!
Nodes that die, leave or quench themselves (R425, R426, R428), and the Chain's statement.
-/
namespace Sys2Proof.Machine

/-! ### Dead nodes, departures and a node without links -/

/-- R425: a node that is declared dead has a dead slot, and the declaration leaves for every other node. -/
theorem Dev.declareDead_slot (d : Dev) (n : Nat) :
    ((d.declareDead n).slot n).st = .dead ∧ .floodDead n (d.slot n).inc ∈ (d.declareDead n).out := by
  obtain ⟨e, he⟩ : ∃ e, e = (d.setSlot n { d.slot n with st := .dead }).emit (.floodDead n (d.slot n).inc) := ⟨_, rfl⟩
  have hnews : (d.declareDead n).news = e.news := by
    unfold Dev.declareDead
    dsimp only
    rw [← he, Dev.cutNode_news, Dev.dropRemote_news, Dev.reclaimDir_news]
  obtain ⟨t, o, -, hslot, -⟩ := d.setSlot_eq n { d.slot n with st := .dead }
  refine ⟨?_, (Dev.death_of_news hnews).2 ?_⟩
  · rw [Dev.slot_congr (Dev.slots_of_news hnews), he]
    exact congrArg Slot.st hslot
  · rw [he]
    exact List.mem_append_right _ (List.mem_singleton.2 rfl)

theorem Dev.slot_emit (d : Dev) (m : OutMsg) (n : Nat) : (d.emit m).slot n = d.slot n := rfl

/-- R428: a node that departs leaves its slot empty. -/
theorem Dev.departed_slot (d : Dev) (n : Nat) : ((d.departed n).slot n).st = .empty := by
  obtain ⟨e, he⟩ : ∃ e, e = d.setSlot n { d.slot n with st := .empty } := ⟨_, rfl⟩
  have hnews : (d.departed n).news = e.news := by
    unfold Dev.departed
    dsimp only
    rw [← he, Dev.cutNode_news, Dev.modCoh_news]
  obtain ⟨t, o, -, hslot, -⟩ := d.setSlot_eq n { d.slot n with st := .empty }
  rw [Dev.slot_congr (Dev.slots_of_news hnews), he, hslot]

/-- R426: a node that quenches itself contains the package, and its own slot no longer lives. -/
theorem Dev.selfQuench_slot (d : Dev) :
    (d.selfQuench.slot d.chain.node).st ≠ .live ∧ d.selfQuench.faults.contain.isSome = true := by
  unfold Dev.selfQuench
  extract_lets own x d₁ d₂ again
  obtain ⟨c, hc⟩ := d.contain_faults false true
  have hnews : d₂.news = (d.contain false true).news :=
    (foldDev_news (fun e k => e.cutNode_news k false) d₁ _).trans (Dev.cleanRejoin_news _)
  refine ⟨?_, ?_⟩
  · change (tgetD (tput d₂.chain.slots own { x with st := if x.inc = 15 then .retired else .dead }) own noSlot).st ≠ .live
    rw [tgetD_tput_self]
    dsimp only
    split <;> decide
  · rw [Dev.modChain_faults, Dev.contain_of_news hnews, hc]
    rfl

section Nodes
variable {s : State}

theorem Dev.joined_of_live {d : Dev} {n : Nat} (h : d.live n = true) : d.chain.joined = true := by
  unfold Dev.live at h
  exact (Bool.and_eq_true_iff.1 h).1

theorem exec_heartbeatTimeout {n : Fin 64} (hne : n.val ≠ s.dev.chain.node) (hlive : s.dev.live n.val = true) :
    ∃ d, exec (.heartbeatTimeout n) s = .next { s with dev := d } ∧ (d.slot n.val).st = .dead ∧
      .floodDead n.val (s.dev.slot n.val).inc ∈ d.out := by
  refine ⟨s.dev.declareDead n.val, ?_, s.dev.declareDead_slot n.val⟩
  change execHeartbeatTimeout n s = _
  refine onDev_of_eq ?_
  rw [if_pos (by simp [hne, hlive])]

theorem exec_deadDeclarationReceive {n : Fin 64} (hne : n.val ≠ s.dev.chain.node) (hlive : s.dev.live n.val = true) :
    ∃ d, exec (.deadDeclarationReceive n (s.dev.slot n.val).inc) s = .next { s with dev := d } ∧ (d.slot n.val).st = .dead := by
  refine ⟨s.dev.declareDead n.val, ?_, (s.dev.declareDead_slot n.val).1⟩
  change execDeadDeclarationReceive n (s.dev.slot n.val).inc s = _
  refine onDev_of_eq ?_
  rw [if_neg (by simp [Dev.joined_of_live hlive]), if_neg hne, if_pos (by simp [hlive])]

theorem exec_departureReceive {n : Fin 64} (hne : n.val ≠ s.dev.chain.node) (hlive : s.dev.live n.val = true) :
    ∃ d, exec (.departureReceive n) s = .next { s with dev := d } ∧ (d.slot n.val).st = .empty ∧ .floodLeave n.val ∈ d.out := by
  refine ⟨(s.dev.departed n.val).emit (.floodLeave n.val), ?_, ?_, List.mem_append_right _ (List.mem_singleton.2 rfl)⟩
  · change execDepartureReceive n s = _
    refine onDev_of_eq ?_
    rw [if_pos (by simp [hne, hlive])]
  · rw [Dev.slot_emit]
    exact s.dev.departed_slot n.val

theorem exec_noLinkTimeout (hj : s.dev.chain.joined = true) (hnone : s.dev.upPorts = [])
    (hlive : (s.dev.slot s.dev.chain.node).st = .live) :
    ∃ d, exec .noLinkTimeout s = .next { s with dev := d } ∧ (d.slot s.dev.chain.node).st ≠ .live ∧
      d.faults.contain.isSome = true := by
  refine ⟨s.dev.selfQuench, ?_, s.dev.selfQuench_slot⟩
  change execNoLinkTimeout s = _
  refine onDev_of_eq ?_
  rw [if_pos (by simp [hj, hnone, hlive])]

end Nodes

/-! ### The statement -/

/-- Settles O46: a link's command changes its port, what it sends and what leaves with it; a packet's command its stream; and a
node's end the slots alone of what is told of the others. The header's acknowledgement and credits are log 41's reading, and a frame of
64 bytes for one packet is the model's choice (log 186). -/
theorem chainLinksComeUpAndCarryPackets : Obligations.ChainLinksComeUpAndCarryPackets := by
  unfold Obligations.ChainLinksComeUpAndCarryPackets
  refine ⟨fun s p hsend htransit => ?links, fun s hsend htransit hj => ?packets⟩
  case links =>
    have hi : s.dev.chain.Idle := ⟨hsend, htransit⟩
    intro q
    refine ⟨fun l hj hst hl hlanes => exec_linkTrainingDone l hj hst hl hlanes,
      fun i mi hj hst hl hid hmi hnone => ?identity,
      fun i tag hfar hst hid hnone hne =>
        ⟨exec_keyConfirmation_right hi hfar hst hid hnone hne, exec_keyConfirmation_wrong hfar hst hid⟩,
      fun hj hen hst => exec_bringupRetryTimer hj hen hst,
      fun hup hre => ⟨fun hd hseq hc => exec_linkFrameReceive hup hre hi hseq hc,
        fun hd hrun => exec_linkFrameReceive_crc hup hre hd hrun, fun sq => exec_replayRequest hup hre sq,
        fun hc => exec_idleFrameTimer hup hre hc, fun b hlo hhi => exec_laneDegrade hup b hlo hhi,
        fun halone => exec_linkSilenceTimeout hi hup halone, fun hk => exec_rekeyTimer hup hk,
        fun mi fa n tag hk hmi hfa => exec_rekeyConfirm hup hk hmi hfa rfl⟩,
      fun hup hre halone => exec_linkRetrainDone hi hup hre halone⟩
    intro far own
    exact ⟨fun hlt hne hadj hkey hfar hown hslots =>
        exec_identityExchange_first hj hst hl hid hmi hnone hlt hne hadj hkey hfar hown hslots,
      fun _ hrow hcol => exec_identityExchange_stranger hj hst hl hid hrow hcol⟩
  case packets =>
    have hi : s.dev.chain.Idle := ⟨hsend, htransit⟩
    refine ⟨fun p k obj v hup hk hcls hdst hbody hstay => ?arrives,
      fun p k hup hk => exec_chainPacketReceive_malformed hup hj hk,
      fun p k pn hup hk hdst hroute hc => exec_packetForward hi hj hup hk hdst hroute hc rfl,
      fun k i hcls hdst hk hlive => exec_chainAckReceive hi hj hcls hdst hk hlive rfl,
      fun src cls nh vs pn hlive hroute hport hcan hc => exec_ackTimer hlive hroute hport hcan hc rfl,
      fun dst cls hlive => exec_retransmitTimeout hlive rfl,
      exec_heartbeatTimer hj, fun _ _ => rfl,
      fun n hne hlive => ⟨exec_heartbeatTimeout hne hlive, exec_deadDeclarationReceive hne hlive, exec_departureReceive hne hlive⟩,
      exec_noLinkTimeout hj,
      fun n x hne hnone hlive hused => exec_slotChangeReceive hi hj hne hnone hlive hused,
      fun a b up hab ha hb => exec_linkStateReceive up hi hj hab ha hb⟩
    intro r
    exact ⟨fun hlive hseq hpend => exec_chainPacketReceive_signal hup hj hk hcls hdst hbody hstay hlive rfl hseq hpend,
      fun hstale => exec_chainPacketReceive_stale hup hj hk hcls hdst hstale⟩

end Sys2Proof.Machine
